-- ==== Sys2Proof/Word.lean ====
section
/-! DEFINITION. The word types of the device: bytes, the 32-bit registers of R11, the 64-bit registers
and addresses of R365, and the sparse maps (lists of key and value) in which indexed state is held. -/

namespace Sys2Proof

/-- A byte. -/
abbrev Byte := BitVec 8
/-- A half word, the width of a QID and of a status code (R18). -/
abbrev HWord := BitVec 16
/-- A register word (R11). -/
abbrev Word := BitVec 32
/-- A 64-bit register, address or pair word. -/
abbrev DWord := BitVec 64

/-- A sparse map: pairs of key and value with strictly rising keys. -/
abbrev FMap (α : Type) := List (Nat × α)

end Sys2Proof
end

