-- ==== Sys2Proof/Config.lean ====
section
/-! DEFINITION. What one part fixes (R2, R347) and the free values: constants without a body that stand for every
value the specification leaves open. Assumption log: 21 (DESIGN CHOICE), 23 (DEDUCED), 28 (DESIGN CHOICE), 30 (DESIGN
CHOICE), 32 (DESIGN CHOICE), 34 (DEDUCED), 46 (DESIGN CHOICE), 48 (DESIGN CHOICE), 49 (DESIGN CHOICE), 55 (DESIGN
CHOICE), 57 (DEDUCED), 58 (DESIGN CHOICE), 64 (DESIGN CHOICE), 66 (DESIGN CHOICE), 70 (DESIGN CHOICE), 73 (DEDUCED),
79 (DESIGN CHOICE), 81 (DESIGN CHOICE), 85 (DESIGN CHOICE), 88 (DESIGN CHOICE), 97 (DESIGN CHOICE), 102 (DESIGN
CHOICE), 103 (DESIGN CHOICE), 114 (DESIGN CHOICE). -/

namespace Sys2Proof

/-- The three configurations (R2). -/
inductive Part where
  | fa960   -- KXT-960-FA
  | fb480   -- KXT-480-FB
  | fb240   -- KXT-240-FB
  deriving DecidableEq, Repr

/-- Accelerator subtypes (R2, R299). -/
inductive AccKind where
  | fft | eq | fec | leg | prs | mix
  deriving DecidableEq, Repr

/-- Tile kinds (R347). -/
inductive TileKind where
  | dsp | acc (k : AccKind) | iot (n : Nat) | dsq (q : Nat) | mem | fab (f : Nat) | ctlG | ctlH
  deriving DecidableEq, Repr

/-! ### Free values

Each constant below has no body: nothing can be proved about its value. -/

/-- The SECDED syndrome of a single-bit error at a code-word bit (R391 gives no code matrix). -/
opaque Config.secdedSyndrome : Nat → Byte
/-- The SECDED syndrome read at an uncorrectable code word (R391). -/
opaque Config.secdedUeSyndrome : Nat → Byte
/-- A spare row or column (kind 1, 2 or 3 as in a soft-fuse entry, tile, bank or pseudo-channel, spare) that the
fuse map uses already (R386, R387). -/
opaque Config.fusedSpare : Nat → Nat → Nat → Nat → Bool
/-- Spare rows of an HBM pseudo-channel (R386: within the spares the stack offers). -/
opaque Config.hbmSpares : Nat
/-- The HBM row of an offset in its stack (R387; the manual gives no row mapping). -/
opaque Config.hbmRow : Nat → Nat

/-- SHA3-256 of a byte list: 32 bytes (R542, R561; the manual names the function and gives no algorithm). -/
opaque Config.sha3 : List Byte → List Byte
/-- KMAC256 with an output of 256 bits: by key, data and customisation string (R65, R68, R51; the manual names the
function and gives no algorithm). -/
opaque Config.kmac256 : BitVec 256 → List Byte → String → BitVec 256
/-- A fresh random number the device makes (nonces, ciphertexts), by its number. -/
opaque Config.nonce : Nat → List Byte
/-- An ML-DSA-44 signature of the device identity key over a byte list: 2,420 bytes (R68, R544). -/
opaque Config.sign : List Byte → List Byte
/-- The ML-KEM-768 ciphertext made for an encapsulation key in exchange `n`: 1,088 bytes (R68). -/
opaque Config.kemCiphertext : List Byte → Nat → List Byte
/-- The shared secret of the same encapsulation (R68). -/
opaque Config.kemSecret : List Byte → Nat → BitVec 256
/-- A fresh ML-KEM-768 encapsulation key: 1,184 bytes (R51). -/
opaque Config.kemKey : Nat → List Byte
/-- The shared secret the device recovers with the key of number `n` from a ciphertext (R51). -/
opaque Config.kemOpen : Nat → List Byte → BitVec 256
/-- The soft buffers of a run taken without its delta record, in units of 64 bytes of HBM, by run and free-value number
(R54; no rule says which buffers a run has). -/
opaque Config.runSoftBuffers : Nat → Nat → List Nat
/-- The device identity public key: 1,312 bytes (R543). -/
opaque Config.identityKey : List Byte
/-- The dispatch latency in ns of the n-th dispatch (R211 gives bounds only). -/
opaque Config.dispatchLatency : Nat → Nat
/-- How many of the CQPUSH instructions executed last have not retired when an asynchronous source squashes what is in
flight (R270; no rule gives the pipeline's contents). -/
opaque Config.squashed : Nat → Nat
/-- CORE_EADDR after an exception that has no data address (R269 writes it, no rule gives the value). -/
opaque Config.eaddrFree : Nat → DWord
/-- The predictor entry of a branch address (R234 gives no index function). -/
opaque Config.btbIndex : Nat → Nat
/-- The 2-bit counter a new predictor entry starts from (R234 gives none). -/
opaque Config.btbInit : Nat → Nat
/-- Sign and payload of the NaN an operation makes from a quiet NaN operand (R290 gives the NaN of an invalid
operation only): by width, operation and operand bits. -/
opaque Config.quietNan : Nat → Nat → Nat → Nat → Nat
/-- The jobs of a configuration at its carriers' peak configured load (R39; no rule says how many a carrier causes): FUNC,
work per second in the unit of its rate in R299, and the two numbers that rate depends on (layers and branches,
iterations, list size and N, or branches); by the carriers (key, STD, SCS, BW, DUPLEX), the instances (key, ports), the
station cells (number, MAXL_UL, MAXL_DL) and the static cells' sizes. -/
opaque Config.peakJobs : List (Nat × Nat × Nat × Nat × Nat) → List (Nat × Nat) → List (Nat × Nat × Nat) → List (Nat × Nat) →
    List (Nat × Nat × Nat × Nat)
/-- The phase-removing and the frequency part of RATE after the n-th measurement (R436 gives the loop's order, damping
and bandwidth, and the clamps, but no discrete form). -/
opaque Config.servoPhase : Nat → Int
/-- The SSM code of the device's own oscillator, sent without a SyncE source (R446): a free value. -/
opaque Config.ownQuality : Nat → Nat
/-- The frequency part of RATE after the n-th measurement (R436). -/
opaque Config.servoFreq : Nat → Int
/-- The SESSION value the Gaffer chooses for its n-th session (R68). -/
opaque Config.sessionId : Nat → Word
/-- The completion entry the Gaffer pushes for an on-chip mailbox, by mailbox and STATUS (R100 gives no layout). -/
opaque Config.mbxNotice : Nat → Nat → List Byte

/-- The SEVERITY of an event, by EVCODE and DETAIL (R98 and R99 give the range and no value). -/
opaque Config.eventSeverity : Nat → List Byte → Nat
/-- The body of a journal record, by RTYPE and what it records (R561 names the contents and gives no layout). -/
opaque Config.recordBody : Nat → List Byte → List Byte
/-- RTYPE and severity of the record of a failed link (R350 asks for the record; R561 names no type for it). -/
opaque Config.linkFailRecord : Nat × Nat
/-- The payload of EVENT_FETCH from the lowest EVSEQ held, when the start is older, and the events named, each with
its EVSEQ and its payload (R98 gives no layout of the list). -/
opaque Config.fetchList : Option Nat → List (Nat × List Byte) → List Byte

/-- The unused QID, among those of its dispatcher in order, that a queue of the Gaffer's own takes: by free-value
number and place among the queues made at once (R110 and R404 give none). -/
opaque Config.qidChoice : Nat → Nat → Nat
/-- DEPTH_LOG2, less 2, of a queue the Gaffer makes: by the same numbers (R193 gives the range, R202 a relation). -/
opaque Config.queueDepth : Nat → Nat → Nat
/-- The EQ tile, among those present in order, that a new run is assigned to, by free-value number (R149). -/
opaque Config.homeChoice : Nat → Nat
/-- The free place, among those of the home tile's SRAM in order, that the context of a new run takes, by free-value
number (R170 gives the alignment alone). -/
opaque Config.ctxChoice : Nat → Nat

/-- The phase φ (false) or ψ (true) that a lane accumulator starts from, by the feed's free-value number and the carrier
(R160 gives none). -/
opaque Config.startPhase : Nat → Nat → Bool → Word

/-- A byte of MRAM whose contents R565 names and no rule lays out, by free-value number and address. -/
opaque Config.mramData : Nat → Nat → Byte

/-- T_RX of a record released with no packet received (R108 gives none), by free-value number. -/
opaque Config.noArrival : Nat → Nat
/-- Whether a symbol of a TDD carrier is an uplink symbol: by carrier key and symbol number (no rule gives the pattern of
a carrier's slots). -/
opaque Config.uplinkSymbol : Nat → Nat → Bool
/-- The STREAM entry of a backhaul frame (R404 gives no layout), by free-value number. -/
opaque Config.bhEntry : Nat → List Byte

/-- The least amplitude of a constellation's rails for MOD of DEMAP, in units of 2^-31 (R129 gives no scale). -/
opaque Config.constellationUnit : Nat → Nat
/-- Where PRECODE finds a layer's symbol in its input, by descriptor and (symbol × LAYERS + layer) × subcarriers +
subcarrier (R305 gives no layout). -/
opaque Config.layerPlace : List Byte → Nat → Nat
/-- The fraction bits that PRECODE drops from a sum of Q1.15 products, by SHIFT (R305 gives no direction). -/
opaque Config.precodeDrop : Nat → Nat
/-- Records that each branch of a random-access search has in an occasion, by FUNC and FORMAT (R305 gives a stride and no
number). -/
opaque Config.occasionRecords : Nat → Nat → Nat
/-- What an accelerator function writes where no rule states the arithmetic or the layout of its data (R128, R136 to
R139, R167, R299, R305): by FUNC, descriptor, input bytes, effective cap, and number of the output. -/
opaque Config.signalBytes : Nat → List Byte → List Byte → Nat → Nat → List Byte
/-- The word that LOCK of a soft buffer holds while a job has it locked (R131 names the owner alone), by the tile and the
buffer's address. -/
opaque Config.lockWord : Nat → Nat → DWord
/-- Numbers such a function finds (iterations run, checks passed, raw channel taps), by the same arguments. -/
opaque Config.signalNum : Nat → List Byte → List Byte → Nat → Nat → Int
/-- What user logic in a fabric tile answers to a read of its window (R488), and the data an empty queue controller
returns (R484), by free-value number. -/
opaque Config.fabData : Nat → List Byte
/-- Whether user logic lets FAB_TGT_TO pass without an answer to a request (R488), by free-value number. -/
opaque Config.fabLate : Nat → Bool
/-- The value of an input of user logic that the bitstream gives no source, by kind (0 wire, 1 carry, 2 long line) and
number: the specification states none (R475, R477). -/
opaque Config.fabOpen : Nat → Nat → Bool
/-- A cell's carry output from LY, the carry input and the inputs A to F as a number: R475 does not state the function. -/
opaque Config.carryStage : Bool → Bool → Nat → Bool
/-- The order in which the wires, carries and long lines of user logic whose value is due to change do so within one
island cycle: the sets that move one after another, by free-value number (R477, R478: delays only have a worst case). -/
opaque Config.fabMoves : Nat → List (List Nat)
/-- What a flip-flop takes whose D is still changing at the edge of its clock (R478), by free-value number and flip-flop. -/
opaque Config.metastable : Nat → Nat → Bool
/-- The level outside at user pin p of FAB f (R489), by free-value number. -/
opaque Config.fabPin : Nat → Nat → Nat → Bool
/-- Whether a queue controller's flag that is due to fall does so already at its side's first or second edge (R483), by
free-value number and flag. -/
opaque Config.flagFalls : Nat → Nat → Bool
/-- A byte whose contents the specification calls undefined (R328), by free-value number and index. -/
opaque Config.undefByte : Nat → Nat → Byte

/-- Whether a low level on PORST_N of this many µs, from 1 up to 10, is taken (R578 gives both ends only). -/
opaque Config.porstTaken : Nat → Bool

end Sys2Proof
end

