-- ==== Sys2Proof/Syntax.lean ====
section
/-! DEFINITION. The commands of the device, one constructor per row of the operation table, with their
operands: what the requester, sender or outside event supplies. -/

namespace Sys2Proof

/-! ### Who accesses and who sends -/

/-- A requester of a bus access (R11, R357): cores (data or instruction fetch), the Gaffer, CTL-H, a DMA
channel, an accelerator, an IOT, a fabric port, a dispatcher, a MEM tile's memory controller, a run's home
tile, or another tile unit. -/
inductive Requester where
  | core (tile core : Nat)
  | fetch (tile core : Nat)
  | gaffer
  | ctlh
  | dma (tile ch : Nat)
  | acc (tile : Nat)
  | iot (k : Nat)
  | fab (f : Nat)
  | dsq (q : Nat)
  | memc (tile : Nat)
  | home (tile : Nat)
  | scrub (tile : Nat)
  deriving DecidableEq, Repr

/-- How a TCS message reaches the Gaffer: a management port (R60), an on-chip mailbox (R100), or the peer
session of a corridor end (R50; `hiEnd` true for END 1). -/
inductive Via where
  | mgt (port : Fin 2)
  | onchip (n : Fin 32)
  | peer (corridor : Fin 8) (hiEnd : Bool)
  deriving DecidableEq, Repr

/-- The form a TCS message travels in (R60): UDP over IPv4 or IPv6 to an address and a port (`linkLocal`: the
receiving port's own IPv6 link-local address), or a raw Ethernet frame of an Ethertype. -/
inductive MsgForm where
  | udp4 (dst : List Byte) (dport : Nat)
  | udp6 (dst : List Byte) (linkLocal : Bool) (dport : Nat)
  | raw (etype : Nat)
  deriving DecidableEq, Repr

/-- A received TCS message: its header (R64), its payload bytes, and the transport facts the checks of R60 and R66
use: its form and IEEE 802.1Q tags, `src` its source address and port, `frameLen` the length of the message as
received, and `tag` its 32-byte tag (R65). -/
structure TcsMsg where
  via : Via
  form : MsgForm
  vtags : Nat
  src : Nat
  magic : Word
  ver : Byte
  flags : Byte
  mbx : Nat
  crit : Nat
  session : Word
  seq : Word
  len : Nat
  frameLen : Nat
  expiry : Nat
  tag : BitVec 256
  payload : List Byte
  deriving DecidableEq, Repr

/-- RU_SET body (R43). -/
structure RuBody where
  ru : Nat
  scope : Nat
  sindex : Nat
  ports : Nat
  path : Nat
  link : Nat
  flowid : Nat
  vlan : Nat
  mac : Nat
  txproc : Nat
  chainage : Word
  chainageC : Word
  deriving DecidableEq, Repr

/-- CARRIER_SET body (R90). -/
structure CarrierBody where
  scope : Nat
  sindex : Nat
  carrier : Nat
  std : Nat
  scs : Nat
  bw : Nat
  duplex : Nat
  dl : Word
  dlC : Word
  ul : Word
  ulC : Word
  deriving DecidableEq, Repr

/-- PEER_SET body (R47). -/
structure PeerBody where
  corridor : Nat
  endHi : Nat
  peerCorridor : Nat
  iot : Nat
  port : Nat
  afamily : Nat
  addr : List Byte
  importQid : Nat
  l2Area : Nat
  l2Size : Nat
  peerId : List Byte
  deriving DecidableEq, Repr

/-- RUN_CREATE body (R189). -/
structure RunBody where
  corridor : Nat
  run : Nat
  dir : Nat
  winSize : Nat
  chainage : Nat
  speed : Nat
  combMode : Nat
  joinSlots : Nat
  hyst : Nat
  lead : Nat
  coast : Nat
  statusQid : Nat
  win : Word
  winC : Word
  txEn : Word
  txEnC : Word
  atts : List (Word × Word)
  deriving DecidableEq, Repr

/-- A carrier entry of RUN_IMPORT (R57). -/
structure CarrierEntry where
  std : Nat
  scs : Nat
  bw : Nat
  anchor : Bool
  dl : Word
  dlC : Word
  ul : Word
  ulC : Word
  deriving DecidableEq, Repr

/-- RUN_IMPORT body (R57). -/
structure ImportBody where
  ver : Nat
  corridor : Nat
  dir : Nat
  winSize : Nat
  combMode : Nat
  hyst : Nat
  lead : Nat
  coast : Nat
  l2Len : Nat
  sTime : Nat
  tState : Nat
  pos : Int
  speed : Int
  accel : Int
  fc : Int
  win : Word
  winC : Word
  txEn : Word
  txEnC : Word
  atts : List (Word × Word)
  carriers : List CarrierEntry
  deriving DecidableEq, Repr

/-- One setting of a multi-setting command (R87), of the opcode its constructor names. -/
inductive Setting where
  | corridor (corridor action margin : Nat)                         -- CORRIDOR_SET (R42)
  | ru (b : RuBody)                                                 -- RU_SET (R43)
  | ruRemove (ru : Nat)                                             -- RU_REMOVE (R44)
  | carrier (b : CarrierBody)                                       -- CARRIER_SET (R90)
  | carrierRemove (scope sindex carrier : Nat)                      -- CARRIER_REMOVE (R44)
  | inst (carrier ru item : Nat) (value valueC : Word)              -- CARRIER_INST_SET (R91)
  | staticCell (corridor action carrier first count : Nat)          -- STATIC_CELL_SET (R45)
  | stationCell (station action maxUl maxDl : Nat)                  -- STATION_CELL_SET (R46)
  | netConfig (item index : Nat) (value : List Byte)                -- NET_CONFIG_SET (R96)
  | timeConfig (item index : Nat) (value : DWord)                   -- TIME_CONFIG (R447)
  deriving DecidableEq, Repr


/-! ### Runs -/

/-- A measurement of one feed at a boundary (R152): corridor position, arrival offset e_k in 2^-8 ns, SNR in
0.1 dB, residual timing ρ_k (2^-8 ns) and the frequency residual ν_k that the EQ tile measures (0.01 Hz), whether
the symbol record was MISSING, its age in anchor slots, and whether the carrier has two DMRS time points per slot. -/
structure Meas where
  pos : Nat
  e : Int
  snr : Int
  rho : Int
  nu : Int
  missing : Bool
  age : Nat
  twoPoints : Bool
  deriving DecidableEq, Repr



/-! ### Queues -/

/-- A producer of queue entries (R198, R200). -/
inductive Producer where
  | core (tile core tag : Nat)
  | dma (tile ch : Nat)
  | iot (k : Nat)
  | acc (tile : Nat)
  | fab (f n : Nat)
  | gaffer
  | home (run : Nat)
  deriving DecidableEq, Repr

/-- CRUMB_CTRL body (R229). -/
structure CrumbBody where
  dsqMask : Nat
  dest : Nat
  tmask : Nat
  mode : Nat
  qidLo : Nat
  qidHi : Nat
  ringBase : Nat
  ringLog2 : Nat
  deriving DecidableEq, Repr

/-! ### Core instructions -/

/-- Where an instruction executes: the tile, the core, whether it issued in slot 1 (EINFO.SLOT, R268), the
cycles its memory stage waited for a bank (counted in CORE_BANKSTALL, R254), whether the line it hits in the
instruction or the data cache shows a parity error (R373), and for a branch the addresses of each load that read memory on a
mispredicted path before it resolved (R260, R262). -/
structure Issue where
  tile : Nat
  core : Nat
  slot1 : Bool
  stall : Nat
  iparity : Bool
  dparity : Bool
  shadow : List (List Nat) := []
  deriving DecidableEq, Repr

/-- The register files that MOVX names (R239). -/
inductive XFile where
  | g | a | m | b | n | lr
  deriving DecidableEq, Repr

/-- The register files of LDA and STA (R243). -/
inductive AFile where
  | a | b | lr
  deriving DecidableEq, Repr

/-- Address modes (R251). -/
inductive AMode where
  | offset | postModify | circular | bitReversed
  deriving DecidableEq, Repr

/-- The address operand of a format M instruction: MODE, An, Mm and OFF9 (R243). -/
structure MAddr where
  mode : AMode
  an : Nat
  mm : Nat
  off : Int
  deriving DecidableEq, Repr

/-- Where B.cond's conditions are numbered (R240): 0 to 15, 15 reserved. -/
abbrev Cond := Fin 16

/-- The repeat count of REP (R263): the number n, or a G register. -/
inductive RepCount where
  | imm (n : Nat)
  | reg (ga : Nat)
  deriving DecidableEq, Repr

/-- Element types of the vector unit (R279, table of element types). -/
inductive VTy where
  | i8 | i16 | i32 | c16 | c32 | f16 | bf16 | f32
  deriving DecidableEq, Repr

/-! ### Accelerator jobs -/

/-- Which job: an ACC-JOB entry by QID and SEQ (R301), a CQ command by core and tag (R302), or the n-th confirmation
of the RACH_SEARCH jobs of a tile (R305). -/
inductive JobRef where
  | dsq (qid seq n : Nat)
  | cq (tile core tag : Nat)
  | conf (tile n : Nat)
  deriving DecidableEq, Repr

/-- A correlation peak of a random-access search (R140, R141): INDEX, DELAY in ns, METRIC in 0.1 dB, FOFF in Hz, RU,
and whether a restricted-set alias was resolved. -/
structure Peak where
  index : Nat
  delay : Nat
  metric : Nat
  foff : Int
  ru : Nat
  alias_ : Bool
  deriving DecidableEq, Repr


/-- The memories that are scrubbed (R384): a tile's SRAM, an HBM stack, the MRAM. -/
inductive ScrubMem where
  | sram (tile : Nat)
  | hbm (q : Nat)
  | mram
  deriving DecidableEq, Repr


/-! ### Lanes and spur ports -/

/-- What a port loses after link up (R401); the lane concerned where one lane loses it. -/
inductive LinkLoss where
  | signal (lane : Nat)
  | cdr (lane : Nat)
  | block (lane : Nat)
  | skew
  | fec
  | localFault
  | remoteFault
  deriving DecidableEq, Repr

/-- Why a spur port retrains fast (R463). -/
inductive RetrainCause where
  | lowSnr
  | badBlocks
  deriving DecidableEq, Repr


/-- What a lane's transmitter drives onto its line (R408, R409): nothing while its rate is off; the port's own data,
inverted where TXINV is set; the generator's pattern; or, under far-end loopback, the received data retimed after the CDR,
its own data being discarded. -/
inductive LaneDrive where
  | off
  | own (inverted : Bool)
  | pattern (n : Nat) (inverted : Bool)
  | retimed
  deriving DecidableEq, Repr

/-- What a lane's receiver takes in (R409): the line; its own serialiser's output, returned inside the SerDes; or its own
transmit PCS output, which bypasses the SerDes. -/
inductive LaneTakes where
  | line
  | serialiser
  | pcs
  deriving DecidableEq, Repr

/-- What a lane's receiver finds while it looks for its polarity (R399): an alignment marker, or the complement of one; or,
after block lock, how many of 1,024 blocks with sync header 0b10 have types valid only after inversion. -/
inductive LaneSees where
  | marker (complement : Bool)
  | blocks (invalid : Nat)
  deriving DecidableEq, Repr


/-! ### PTP messages -/

/-- What a received PTP message carries (R433, R443, IEEE 1588), times in 2^-16 ns on the PTP epoch: `t2`, `t3` and
`t4` are timestamps at the port's timestamp point as the time engine takes them. An Announce carries the port state
that the profile's best-master decision gives (R443). Unicast negotiation (G.8275.2) asks for the grant of a message
kind to a client for a time in seconds, or gives a grant up. -/
inductive PtpBody where
  | sync (twoStep : Bool) (t1 corr t2 : Int)
  | followUp (t1 corr : Int)
  | delayReq (id : Nat)
  | delayResp (t3 t4 corr : Int)
  | announce (decision : Nat)
  | unicastRequest (client seconds : Nat)
  | unicastCancel (client : Nat)
  | other
  deriving DecidableEq, Repr


/-! ### Received frames and front-haul data -/

/-- What a front-haul IQ packet carries (R117, R405): per PRB its exponent byte and 24 mantissas, or samples I, Q. -/
inductive FhPayload where
  | prbs (l : List (Nat × List Int))
  | samples (l : List (Int × Int))
  deriving DecidableEq, Repr

/-- A front-haul IQ packet (R26, R108): its flow identifier, carrier, antenna port of the RU, frame number, slot,
symbol, first PRB or sample, and data. -/
structure FhPacket where
  flow : Nat
  carrier : Nat
  ant : Nat
  frame : Nat
  slot : Nat
  symbol : Nat
  first : Nat
  data : FhPayload
  deriving DecidableEq, Repr

/-- What a received frame holds (R403, R404). -/
inductive FrameBody where
  | ptp (domain : Nat) (b : PtpBody)
  | ecpri (msgType : Nat) (p : FhPacket)
  | roe (p : FhPacket)
  | priorityPause (quanta : List (Nat × Nat))     -- (PCP, quanta) of the enabled priorities
  | globalPause
  | peerStray      -- UDP port 47601 from an address no peer entry names (R50)
  | other
  deriving DecidableEq, Repr

/-- A received frame: bytes with FCS, FCS verdict, the RS-FEC codewords it came in (all, corrected, uncorrectable),
802.1Q tags (PCPs, outermost first), and what it holds. -/
structure RxFrame where
  len : Nat
  fcsOk : Bool
  cw : Nat
  corr : Nat
  uncorr : Nat
  tags : List Nat
  body : FrameBody
  deriving DecidableEq, Repr



/-! ### Fabric designs (R475 to R489, R493) -/

/-- Where the bitstream lets a routing wire take its value (R475 to R479, R483, R486, R493): a constant, another wire, a
cell's LY, LZ or carry output, a flip-flop (FFB when true), a clock generator, a user pin, a long line, the STOP output, or
a queue controller's FULL, ALMOST_FULL, EMPTY, ALMOST_EMPTY, PUSH_READY or a bit of REFUSE. -/
inductive Src where
  | always (v : Bool)
  | wire (w : Nat)
  | ly (c : Nat)
  | lz (c : Nat)
  | carry (c : Nat)
  | flop (c : Nat) (b : Bool)
  | gen (k : Nat)
  | pin (p : Nat)
  | line (l : Nat)
  | stop
  | full (q : Nat)
  | almostFull (q : Nat)
  | empty (q : Nat)
  | almostEmpty (q : Nat)
  | pushReady (q : Nat)
  | refuse (q bit : Nat)
  deriving DecidableEq, Repr

/-- What a flip-flop's D is taken from (R476). -/
inductive DSel where
  | ly | lz | carry | bypass
  deriving DecidableEq, Repr

/-- A flip-flop as the bitstream sets it (R476): D, the wire of a bypass input outside the LUT, the wire that clocks it
and whether a rising edge does, the wires of its clock enable and its set/reset input (none: not used), whether that input
is asynchronous and whether it sets, and INIT. -/
structure FlopCfg where
  d : DSel
  bypass : Nat
  clk : Nat
  rising : Bool
  en : Option Nat
  sr : Option Nat
  async : Bool
  sets : Bool
  init : Bool
  deriving DecidableEq, Repr

/-- A cell as the bitstream sets it (R475): the truth table, split mode, the wires of inputs A to F, and FFA and FFB. -/
structure CellCfg where
  table : BitVec 64
  split : Bool
  ins : List Nat
  ffa : FlopCfg
  ffb : FlopCfg
  deriving DecidableEq, Repr

/-- A clock generator as the bitstream sets it (R479). -/
inductive GenCfg where
  | divide (ratio : Nat)
  | pin (p : Nat)
  deriving DecidableEq, Repr

/-- A tri-state driver (R477): its line and driver ID, the wire it drives and the wire that enables it (none: always). -/
structure LineDrv where
  line : Nat
  drv : Nat
  data : Nat
  en : Option Nat
  deriving DecidableEq, Repr

/-- The user logic of a design (R475 to R479, R489): its cells, the wires and what each takes its value from, the drivers
of long lines, the clock generators, and the pins it drives (the data wire and the enable wire; none: always). -/
structure Net where
  cells : FMap CellCfg
  wires : FMap Src
  drivers : List LineDrv
  gens : FMap GenCfg
  pinOut : FMap (Nat × Option Nat)
  deriving DecidableEq, Repr

/-- A queue controller as the bitstream sets it (R483, R485): its first block and how many, whether its words are 72 bits
wide, MODE (1 FIFO, 2 DSQ_PUSH, 3 DSQ_POP), QID, the wires that clock its write and read sides, AF_LEVEL and AE_LEVEL. -/
structure QcCfg where
  first : Nat
  blocks : Nat
  wide : Bool
  mode : Nat
  qid : Nat
  wclk : Nat
  rclk : Nat
  af : Nat
  ae : Nat
  deriving DecidableEq, Repr

/-- A block RAM block as the bitstream sets it (R480): USER (true) or QUEUE, its word width, and ECC. -/
structure BramCfg where
  user : Bool
  width : Nat
  ecc : Bool
  deriving DecidableEq, Repr

/-- A NoC port as the bitstream sets it (R488): whether its target side is enabled, and its class. -/
structure FabPort where
  target : Bool
  cls : Nat
  deriving DecidableEq, Repr

/-- A fabric image (R493): the enrolled fabric key slot that verifies its signature, its SHA3-256 hash, the FAB index it
is built for, whether it is built for this configuration, whether the fields that this structure leaves out are in range,
and what it holds. -/
structure FabImage where
  signer : Option Nat
  hash : List Byte
  fab : Nat
  forPart : Bool
  staticOk : Bool
  qcs : FMap QcCfg
  brams : FMap BramCfg
  p0 : FabPort
  p1 : FabPort
  net : Net
  deriving DecidableEq, Repr

/-- One port's access to a block RAM word: the word, and the data of a write. -/
structure PortOp where
  word : Nat
  write : Option (BitVec 72)
  deriving DecidableEq, Repr

/-! ### PMBus -/

/-- What a converter answers to a poll (R527, R530): STATUS_WORD, VOUT in mV, IOUT in 0.1 A, temperature in 0.1 °C. -/
structure PmbReading where
  status : Nat
  vout : Nat
  iout : Nat
  temp : Nat
  deriving DecidableEq, Repr


/-! ### Images, boot and storage -/

/-- What a staged DSP image names (R548): the enrolled DSP key slot whose key verifies its signature (none: no
key does), its security version, hash, segments (address and bytes), claimed cores (4 × tile + core), TMODE,
CORE_EVEC, the 16 MPU regions (base, limit, attributes) and the start task descriptor. -/
structure DspImage where
  signer : Option Nat
  version : Nat
  versionOk : Bool
  hash : List Byte
  segments : List (Nat × List Byte)
  cores : List Nat
  tmode : Bool
  evec : DWord
  mpu : List (DWord × DWord × Word)
  startTask : List Byte
  deriving DecidableEq, Repr

/-- What the ROM finds in a Gaffer slot (R540): a valid header, signature verdict, security version, and whether
it is built for this configuration. -/
structure GafferImage where
  present : Bool
  sigOk : Bool
  version : Nat
  builtFor : Bool
  hash : List Byte
  deriving DecidableEq, Repr

/-- What the boot ROM and the Gaffer meet at power-on (R532): Gaffer slots programmed outside the device since the last
reset (none: as the device left them), the CTL-H version, hashes and the identity certificate, the PARISON image, and
what the NAND controller finds (R552, R553): targets present per channel, capacity, targets refused, whether the
partition table is valid, and for a format the factory bad blocks, the good blocks with their targets, pages of 16 KiB
per block and the endurance of a block. -/
structure BootInfo where
  slotA : Option GafferImage
  slotB : Option GafferImage
  hver : Nat
  romHash : List Byte
  ctlhHash : List Byte
  confHash : List Byte
  cert : List Byte
  parison : Option DspImage
  paths : List Nat          -- RUs of the PARISON list whose paths are up (step 6)
  targets0 : Nat
  targets1 : Nat
  capacityGiB : Nat
  refusedTargets : List Nat
  tableOk : Bool
  factoryBad : List Nat
  blocks : List (Nat × Nat)
  pages : Nat
  endurance : Nat
  deriving DecidableEq, Repr

/-- The commands: register accesses, TCS messages, pin and timing events, core and vector instructions,
coprocessor and accelerator steps, DMA instructions and the rest of the table. A constructor's docstring gives
its row's mnemonic, rule and summary. -/
inductive Instr where
  /-- ADD (R241): ADD writes Ga + Gb modulo 2^32. -/
  | add_ (k : Issue) (gd ga gb : Fin 32) (f : Bool)
  /-- SUB (R241): SUB writes Ga − Gb modulo 2^32. -/
  | sub_ (k : Issue) (gd ga gb : Fin 32) (f : Bool)
  /-- AND (R241): AND writes the bitwise and. -/
  | and_ (k : Issue) (gd ga gb : Fin 32) (f : Bool)
  /-- OR (R241): OR writes the bitwise or. -/
  | or_ (k : Issue) (gd ga gb : Fin 32) (f : Bool)
  /-- XOR (R241): XOR writes the bitwise exclusive or. -/
  | xor_ (k : Issue) (gd ga gb : Fin 32) (f : Bool)
  /-- ANDN (R241): ANDN writes Ga and not Gb. -/
  | andn (k : Issue) (gd ga gb : Fin 32) (f : Bool)
  /-- SHL (R241): SHL shifts left by a register amount. -/
  | shl (k : Issue) (gd ga gb : Fin 32) (f : Bool)
  /-- SHR (R241): SHR shifts right logically by a register amount. -/
  | shr (k : Issue) (gd ga gb : Fin 32) (f : Bool)
  /-- SAR (R241): SAR shifts right arithmetically by a register amount. -/
  | sar (k : Issue) (gd ga gb : Fin 32) (f : Bool)
  /-- ROR (R241): ROR rotates right by a register amount. -/
  | ror (k : Issue) (gd ga gb : Fin 32) (f : Bool)
  /-- DIV (R241): DIV writes the signed quotient with defined zero and overflow results. -/
  | div_ (k : Issue) (gd ga gb : Fin 32) (f : Bool)
  /-- DIVU (R241): DIVU writes the unsigned quotient. -/
  | divu (k : Issue) (gd ga gb : Fin 32) (f : Bool)
  /-- NEG (R241): NEG writes 0 − Ga. -/
  | neg (k : Issue) (gd ga : Fin 32) (f : Bool)
  /-- ABS (R241): ABS writes the saturated absolute value. -/
  | abs_ (k : Issue) (gd ga : Fin 32) (f : Bool)
  /-- SHLI (R241): SHLI shifts left by an immediate. -/
  | shli (k : Issue) (gd ga : Fin 32) (sh : Fin 32) (f : Bool)
  /-- SHRI (R241): SHRI shifts right logically by an immediate. -/
  | shri (k : Issue) (gd ga : Fin 32) (sh : Fin 32) (f : Bool)
  /-- SARI (R241): SARI shifts right arithmetically by an immediate. -/
  | sari (k : Issue) (gd ga : Fin 32) (sh : Fin 32) (f : Bool)
  /-- RORI (R241): RORI rotates right by an immediate. -/
  | rori (k : Issue) (gd ga : Fin 32) (sh : Fin 32) (f : Bool)
  /-- CLZ (R241): CLZ counts leading zeros. -/
  | clz (k : Issue) (gd ga : Fin 32)
  /-- POPC (R241): POPC counts set bits. -/
  | popc (k : Issue) (gd ga : Fin 32)
  /-- BREV (R241): BREV reverses the bits. -/
  | brev (k : Issue) (gd ga : Fin 32)
  /-- MUL (R241): MUL writes the low 32 bits of the product. -/
  | mul (k : Issue) (gd ga gb : Fin 32)
  /-- MULH (R241): MULH writes the signed high 32 bits of the product. -/
  | mulh (k : Issue) (gd ga gb : Fin 32)
  /-- MULHU (R241): MULHU writes the unsigned high 32 bits of the product. -/
  | mulhu (k : Issue) (gd ga gb : Fin 32)
  /-- ADDS (R241): ADDS writes a saturating signed sum. -/
  | adds (k : Issue) (gd ga gb : Fin 32)
  /-- SUBS (R241): SUBS writes a saturating signed difference. -/
  | subs (k : Issue) (gd ga gb : Fin 32)
  /-- MIN (R241): MIN writes the signed minimum. -/
  | min_ (k : Issue) (gd ga gb : Fin 32)
  /-- MAX (R241): MAX writes the signed maximum. -/
  | max_ (k : Issue) (gd ga gb : Fin 32)
  /-- MINU (R241): MINU writes the unsigned minimum. -/
  | minu (k : Issue) (gd ga gb : Fin 32)
  /-- MAXU (R241): MAXU writes the unsigned maximum. -/
  | maxu (k : Issue) (gd ga gb : Fin 32)
  /-- SEL (R241): SEL selects Ga or Gb by flag T. -/
  | sel (k : Issue) (gd ga gb : Fin 32)
  /-- CMP (R241): CMP sets flags from Ga − Gb. -/
  | cmp (k : Issue) (ga gb : Fin 32)
  /-- TST (R241): TST sets flags from Ga and Gb. -/
  | tst (k : Issue) (ga gb : Fin 32)
  /-- MOVX (R242): MOVX moves values between register files. -/
  | movx (k : Issue) (dst : XFile) (di : Fin 32) (src : XFile) (si : Fin 32) (half : Bool)
  /-- ADDI (R241): ADDI adds a sign-extended immediate. -/
  | addi (k : Issue) (gd ga : Fin 32) (imm : BitVec 16)
  /-- ANDI (R241): ANDI ands a zero-extended immediate. -/
  | andi (k : Issue) (gd ga : Fin 32) (imm : BitVec 16)
  /-- ORI (R241): ORI ors a zero-extended immediate. -/
  | ori (k : Issue) (gd ga : Fin 32) (imm : BitVec 16)
  /-- XORI (R241): XORI exclusive-ors a zero-extended immediate. -/
  | xori (k : Issue) (gd ga : Fin 32) (imm : BitVec 16)
  /-- MOVHI (R241): MOVHI writes an immediate into the upper 16 bits. -/
  | movhi (k : Issue) (gd : Fin 32) (imm : BitVec 16)
  /-- CMPI (R241): CMPI sets flags from Ga minus an immediate. -/
  | cmpi (k : Issue) (ga : Fin 32) (imm : BitVec 16)
  /-- AADDI (R241): AADDI adds an immediate to an address register. -/
  | aaddi (k : Issue) (an : Fin 8) (imm : BitVec 16)
  /-- LONG_PREFIX (R240): A long prefix extends the following instruction's immediate, offset or displacement. -/
  | longPrefix (k : Issue) (ext : BitVec 26)
  /-- LD (R243): LD loads 8, 16 or 32 bits into a G register. -/
  | ld (k : Issue) (gd : Fin 32) (a : MAddr) (size : Fin 3) (sx : Bool)
  /-- ST (R243): ST stores 8, 16 or 32 bits, performed at retirement. -/
  | st (k : Issue) (gs : Fin 32) (a : MAddr) (size : Fin 3)
  /-- LDA (R243): LDA loads 64 bits into an A, B or LR register. -/
  | lda (k : Issue) (f : AFile) (n : Fin 8) (a : MAddr)
  /-- STA (R243): STA stores an A, B or LR register. -/
  | sta (k : Issue) (f : AFile) (n : Fin 8) (a : MAddr)
  /-- LDXY (R244): LDXY makes two 32-bit loads in one cycle. -/
  | ldxy (k : Issue) (gx gy : Fin 32) (ax ay : Fin 4) (mx my : AMode)
  /-- VLD (R291): VLD loads 64 bytes into a V register. -/
  | vld (k : Issue) (vd : Fin 32) (a : MAddr)
  /-- VST (R291): VST stores 64 bytes from a V register at retirement. -/
  | vst (k : Issue) (vs : Fin 32) (a : MAddr)
  /-- LOAD_DATA_RETURN (R232): Data for a load from outside own tile SRAM returns and releases M2. -/
  | loadDataReturn (tile core : Nat)
  /-- RUNAHEAD_ENTER (R261): A load waiting 16 cycles in M2 puts the core into run-ahead with a checkpoint. -/
  | runaheadEnter (tile core : Nat) (prefetches : List (List Nat × Nat))
  /-- RUNAHEAD_EXIT (R261): When the waited data returns, run-ahead results are discarded and the core resumes. -/
  | runaheadExit (tile core : Nat)
  /-- POSTED_STORE_ACK (R272): An acknowledgement of a posted store arrives; an error sets ASYNC_ERR. -/
  | postedStoreAck (tile core n : Nat)
  /-- CMAC (R248): CMAC adds a complex product into an accumulator. -/
  | cmac (k : Issue) (n : Fin 4) (ga gb : Fin 32)
  /-- CMACJ (R248): CMACJ adds a product with the conjugate of b. -/
  | cmacj (k : Issue) (n : Fin 4) (ga gb : Fin 32)
  /-- CMSU (R245): CMSU subtracts a complex product. -/
  | cmsu (k : Issue) (n : Fin 4) (ga gb : Fin 32)
  /-- CMUL (R245): CMUL sets an accumulator to a complex product. -/
  | cmul (k : Issue) (n : Fin 4) (ga gb : Fin 32)
  /-- FIR4 (R248): FIR4 makes four real MACs with a shared coefficient. -/
  | fir4 (k : Issue) (n : Fin 4) (ga gb gc : Fin 32) (hi : Bool)
  /-- STACC_C (R250): STACC.C narrows both accumulator halves to a c16. -/
  | staccC (k : Issue) (gd : Fin 32) (n : Fin 4) (rs : Fin 40)
  /-- STACC_RE (R250): STACC.RE narrows the real half to 32 bits. -/
  | staccRe (k : Issue) (gd : Fin 32) (n : Fin 4) (rs : Fin 40)
  /-- STACC_IM (R250): STACC.IM narrows the imaginary half to 32 bits. -/
  | staccIm (k : Issue) (gd : Fin 32) (n : Fin 4) (rs : Fin 40)
  /-- STACC_CZ (R250): STACC.CZ narrows to c16 and clears the accumulator. -/
  | staccCz (k : Issue) (gd : Fin 32) (n : Fin 4) (rs : Fin 40)
  /-- ACCCLR (R245): ACCCLR clears an accumulator. -/
  | accclr (k : Issue) (n : Fin 4)
  /-- ACCLD (R245): ACCLD loads an accumulator from two G registers. -/
  | accld (k : Issue) (n : Fin 4) (ga gb : Fin 32)
  /-- ACCADD (R245): ACCADD adds one accumulator into another. -/
  | accadd (k : Issue) (n m : Fin 4)
  /-- B_COND (R246): B.cond branches when its condition holds. -/
  | bCond (k : Issue) (cond : Cond) (disp : BitVec 22)
  /-- CALL (R246): CALL sets LR and branches. -/
  | call (k : Issue) (disp : BitVec 26)
  /-- JR (R246): JR jumps to an address register. -/
  | jr (k : Issue) (an : Fin 8)
  /-- JALR (R246): JALR jumps to an address register and sets LR. -/
  | jalr (k : Issue) (an : Fin 8)
  /-- RET (R246): RET jumps to LR. -/
  | ret (k : Issue)
  /-- REP (R263): REP repeats the next instruction a fixed number of times. -/
  | rep (k : Issue) (n : RepCount)
  /-- DBNZ (R246): DBNZ decrements and branches if not zero. -/
  | dbnz (k : Issue) (ga : Fin 32) (disp : BitVec 21)
  /-- MOVC (R246): MOVC reads or writes a core-private register. -/
  | movc (k : Issue) (toReg : Bool) (g : Fin 32) (creg : BitVec 12)
  /-- NOP (R246): NOP does nothing. -/
  | nop (k : Issue)
  /-- TEND (R273): TEND starts ending the task once tags and posted stores are complete. -/
  | tend (k : Issue)
  /-- BREAK (R246): BREAK raises the BREAK exception. -/
  | break_ (k : Issue)
  /-- RTE (R269): RTE restores mode and flags and continues at EPC, resuming a REP if any. -/
  | rte (k : Issue)
  /-- FENCE (R246): FENCE waits until older loads and stores have completed. -/
  | fence (k : Issue)
  /-- WAIT (R246): WAIT stops issue until an asynchronous source, a CQ completion or 1,024 cycles. -/
  | wait (k : Issue)
  /-- DCINVALL (R246): DCINVALL invalidates the whole data cache. -/
  | dcinvall (k : Issue)
  /-- ICINV (R246): ICINV invalidates the instruction cache and refetches. -/
  | icinv (k : Issue)
  /-- TTERM (R274): TTERM terminates the task. -/
  | tterm (k : Issue)
  /-- TRAP (R246): TRAP raises the TRAP exception. -/
  | trap (k : Issue) (imm : BitVec 16)
  /-- DCINV (R246): DCINV invalidates one data cache line. -/
  | dcinv (k : Issue) (an : Fin 8)
  /-- TEND_COMPLETE (R273): With every tag free and every store acknowledged, the core reports the end and becomes IDLE. -/
  | tendComplete (tile core : Nat)
  /-- ILLEGAL (R238): A core executes an instruction word with a reserved major opcode or an undefined minor opcode, variant or field value, which raises ILLEGAL. -/
  | illegal (k : Issue)
  /-- ASYNC_EXCEPTION (R270): A pending unmasked asynchronous source is taken at an instruction boundary. -/
  | asyncException (tile core : Nat)
  /-- CORE_TIMER (R278): CORE_CYCLE reaches CORE_TIMER, setting IPEND.TIMER. -/
  | coreTimer (tile core : Nat)
  /-- CORE_WAIT_TIMEOUT (R246): A core stopped by WAIT resumes issue when 1,024 cycles have passed with no asynchronous source pending and no CQ completion. -/
  | coreWaitTimeout (tile core : Nat)
  /-- DEADLINE_HARD (R210): A HARD task's deadline passes while it runs, making DEADLINE_HARD pending. -/
  | deadlineHard (tile core : Nat)
  /-- VADD (R287): VADD adds element-wise. -/
  | vadd (k : Issue) (vd va vb : Fin 32) (ty : VTy) (mode : Fin 4)
  /-- VSUB (R287): VSUB subtracts element-wise. -/
  | vsub (k : Issue) (vd va vb : Fin 32) (ty : VTy) (mode : Fin 4)
  /-- VAVG (R287): VAVG averages element-wise. -/
  | vavg (k : Issue) (vd va vb : Fin 32) (ty : VTy) (mode : Fin 4)
  /-- VMIN (R287): VMIN takes signed minima. -/
  | vmin (k : Issue) (vd va vb : Fin 32) (ty : VTy) (mode : Fin 4)
  /-- VMAX (R287): VMAX takes signed maxima. -/
  | vmax (k : Issue) (vd va vb : Fin 32) (ty : VTy) (mode : Fin 4)
  /-- VAND (R287): VAND ands bitwise. -/
  | vand (k : Issue) (vd va vb : Fin 32) (ty : VTy) (mode : Fin 4)
  /-- VOR (R287): VOR ors bitwise. -/
  | vor (k : Issue) (vd va vb : Fin 32) (ty : VTy) (mode : Fin 4)
  /-- VXOR (R287): VXOR exclusive-ors bitwise. -/
  | vxor (k : Issue) (vd va vb : Fin 32) (ty : VTy) (mode : Fin 4)
  /-- VANDN (R287): VANDN ands with complement bitwise. -/
  | vandn (k : Issue) (vd va vb : Fin 32) (ty : VTy) (mode : Fin 4)
  /-- VCMPEQ (R287): VCMPEQ compares for equality. -/
  | vcmpeq (k : Issue) (vd va vb : Fin 32) (ty : VTy) (mode : Fin 4)
  /-- VCMPLT (R287): VCMPLT compares signed less-than. -/
  | vcmplt (k : Issue) (vd va vb : Fin 32) (ty : VTy) (mode : Fin 4)
  /-- VSEL (R287): VSEL selects bitwise by Vd. -/
  | vsel (k : Issue) (vd va vb : Fin 32) (ty : VTy) (mode : Fin 4)
  /-- VMUL (R287): VMUL multiplies to element width. -/
  | vmul (k : Issue) (vd va vb : Fin 32) (ty : VTy) (mode : Fin 4)
  /-- VMULHR (R287): VMULHR forms the doubled high product. -/
  | vmulhr (k : Issue) (vd va vb : Fin 32) (ty : VTy) (mode : Fin 4)
  /-- VCMUL (R287): VCMUL multiplies complex elements. -/
  | vcmul (k : Issue) (vd va vb : Fin 32) (ty : VTy) (mode : Fin 4)
  /-- VCMULJ (R287): VCMULJ multiplies by the conjugate. -/
  | vcmulj (k : Issue) (vd va vb : Fin 32) (ty : VTy) (mode : Fin 4)
  /-- VMACW (R288): VMACW accumulates widened i16 products into an i32 pair. -/
  | vmacw (k : Issue) (vd va vb : Fin 32) (ty : VTy) (mode : Fin 4)
  /-- VMSUW (R288): VMSUW subtracts widened products. -/
  | vmsuw (k : Issue) (vd va vb : Fin 32) (ty : VTy) (mode : Fin 4)
  /-- VCMACW (R288): VCMACW accumulates complex products into a c32 pair. -/
  | vcmacw (k : Issue) (vd va vb : Fin 32) (ty : VTy) (mode : Fin 4)
  /-- VCMACJW (R288): VCMACJW accumulates conjugate products. -/
  | vcmacjw (k : Issue) (vd va vb : Fin 32) (ty : VTy) (mode : Fin 4)
  /-- VCMSUW (R288): VCMSUW subtracts complex products. -/
  | vcmsuw (k : Issue) (vd va vb : Fin 32) (ty : VTy) (mode : Fin 4)
  /-- VCMACWS (R288): VCMACWS accumulates products with a broadcast element. -/
  | vcmacws (k : Issue) (vd va vb : Fin 32) (ty : VTy) (mode : Fin 4)
  /-- VNEG (R287): VNEG negates element-wise. -/
  | vneg (k : Issue) (vd va : Fin 32) (ty : VTy) (mode : Fin 4)
  /-- VABS (R287): VABS takes absolute values. -/
  | vabs (k : Issue) (vd va : Fin 32) (ty : VTy) (mode : Fin 4)
  /-- VCONJ (R287): VCONJ conjugates complex elements. -/
  | vconj (k : Issue) (vd va : Fin 32) (ty : VTy) (mode : Fin 4)
  /-- VROTJ (R287): VROTJ multiplies complex elements by j. -/
  | vrotj (k : Issue) (vd va : Fin 32) (ty : VTy) (mode : Fin 4)
  /-- VRSUMW (R287): VRSUMW sums all elements exactly. -/
  | vrsumw (k : Issue) (vd va : Fin 32) (ty : VTy) (mode : Fin 4)
  /-- VSHLI (R287): VSHLI shifts elements left. -/
  | vshli (k : Issue) (vd va : Fin 32) (sh : Fin 32) (ty : VTy) (mode : Fin 4)
  /-- VSARI (R287): VSARI shifts elements right arithmetically. -/
  | vsari (k : Issue) (vd va : Fin 32) (sh : Fin 32) (ty : VTy) (mode : Fin 4)
  /-- VSHRI (R287): VSHRI shifts elements right logically. -/
  | vshri (k : Issue) (vd va : Fin 32) (sh : Fin 32) (ty : VTy) (mode : Fin 4)
  /-- VNARROW (R289): VNARROW narrows a pair with rounding and saturation. -/
  | vnarrow (k : Issue) (vd va : Fin 32) (sh : Fin 32) (ty : VTy) (mode : Fin 4)
  /-- VWIDEN (R287): VWIDEN widens exactly into a pair. -/
  | vwiden (k : Issue) (vd va : Fin 32) (sh : Fin 32) (ty : VTy) (mode : Fin 4)
  /-- VDUP (R287): VDUP broadcasts a G register. -/
  | vdup (k : Issue) (vd ga : Fin 32) (ty : VTy)
  /-- VEXT (R287): VEXT extracts a window from a pair. -/
  | vext (k : Issue) (vd va : Fin 32) (n : Fin 32) (ty : VTy)
  /-- VPERMX (R287): VPERMX permutes by index. -/
  | vpermx (k : Issue) (vd va vb : Fin 32) (ty : VTy)
  /-- VREV (R287): VREV reverses element order. -/
  | vrev (k : Issue) (vd va : Fin 32) (ty : VTy)
  /-- VMOVG (R287): VMOVG moves an element to a G register. -/
  | vmovg (k : Issue) (gd va : Fin 32) (n : Fin 32) (ty : VTy)
  /-- VINS (R287): VINS inserts a G register into an element. -/
  | vins (k : Issue) (vd ga : Fin 32) (n : Fin 32) (ty : VTy)
  /-- VFADD (R290): VFADD adds floating-point elements. -/
  | vfadd (k : Issue) (vd va vb : Fin 32) (ty : VTy)
  /-- VFSUB (R290): VFSUB subtracts floating-point elements. -/
  | vfsub (k : Issue) (vd va vb : Fin 32) (ty : VTy)
  /-- VFMUL (R290): VFMUL multiplies floating-point elements. -/
  | vfmul (k : Issue) (vd va vb : Fin 32) (ty : VTy)
  /-- VFMA (R290): VFMA fuses multiply and add. -/
  | vfma (k : Issue) (vd va vb : Fin 32) (ty : VTy)
  /-- VFMIN (R290): VFMIN takes floating-point minima. -/
  | vfmin (k : Issue) (vd va vb : Fin 32) (ty : VTy)
  /-- VFMAX (R290): VFMAX takes floating-point maxima. -/
  | vfmax (k : Issue) (vd va vb : Fin 32) (ty : VTy)
  /-- VFNARROW (R290): VFNARROW converts f32 pairs to f16 or bf16. -/
  | vfnarrow (k : Issue) (vd va : Fin 32) (ty : VTy)
  /-- VFWIDEN (R290): VFWIDEN converts f16 or bf16 to f32 pairs. -/
  | vfwiden (k : Issue) (vd va : Fin 32) (ty : VTy)
  /-- VFCVTI (R290): VFCVTI converts f32 to saturated i32. -/
  | vfcvti (k : Issue) (vd va : Fin 32) (ty : VTy)
  /-- VFCVTF (R290): VFCVTF converts i32 to f32. -/
  | vfcvtf (k : Issue) (vd va : Fin 32) (ty : VTy)
  /-- FADD (R290): FADD adds scalars. -/
  | fadd (k : Issue) (fd fa fb : Fin 32) (dbl : Bool)
  /-- FSUB (R290): FSUB subtracts scalars. -/
  | fsub (k : Issue) (fd fa fb : Fin 32) (dbl : Bool)
  /-- FMUL (R290): FMUL multiplies scalars. -/
  | fmul (k : Issue) (fd fa fb : Fin 32) (dbl : Bool)
  /-- FMA (R290): FMA fuses scalar multiply and add. -/
  | fma (k : Issue) (fd fa fb : Fin 32) (dbl : Bool)
  /-- FDIV (R290): FDIV divides scalars. -/
  | fdiv (k : Issue) (fd fa fb : Fin 32) (dbl : Bool)
  /-- FMIN (R290): FMIN takes a scalar minimum. -/
  | fmin (k : Issue) (fd fa fb : Fin 32) (dbl : Bool)
  /-- FMAX (R290): FMAX takes a scalar maximum. -/
  | fmax (k : Issue) (fd fa fb : Fin 32) (dbl : Bool)
  /-- FSQRT (R290): FSQRT takes a scalar square root. -/
  | fsqrt (k : Issue) (fd fa : Fin 32) (dbl : Bool)
  /-- FCVT (R290): FCVT converts between f32 and f64. -/
  | fcvt (k : Issue) (fd fa : Fin 32) (dbl : Bool)
  /-- FCVTI (R290): FCVTI converts to saturated i32 in a G register. -/
  | fcvti (k : Issue) (gd fa : Fin 32) (dbl : Bool)
  /-- FCVTF (R290): FCVTF converts i32 to floating point. -/
  | fcvtf (k : Issue) (fd ga : Fin 32) (dbl : Bool)
  /-- FMOVG (R290): FMOVG moves half of an F register to G. -/
  | fmovg (k : Issue) (gd fa : Fin 32) (half : Bool)
  /-- FMOVF (R290): FMOVF moves G into half of an F register. -/
  | fmovf (k : Issue) (fd ga : Fin 32) (half : Bool)
  /-- FCMPG (R290): FCMPG writes a comparison code to G. -/
  | fcmpg (k : Issue) (gd fa fb : Fin 32) (dbl : Bool)
  /-- VGATHER (R295): VGATHER checks 16 addresses then reads 16 elements, writing Vd only if all succeed. -/
  | vgather (k : Issue) (vd : Fin 32) (an : Fin 8) (va : Fin 32) (ty : VTy) (scale : Fin 4)
  /-- VSCATTER (R297): VSCATTER checks 16 addresses then writes elements in ascending order at retirement. -/
  | vscatter (k : Issue) (vs : Fin 32) (an : Fin 8) (va : Fin 32) (ty : VTy) (scale : Fin 4)
  /-- MBX_NOTICE_RETRY (R200): A completion notice refused at a full queue is retried every 100 µs. -/
  | mbxNoticeRetry (mailbox : Nat)
  /-- CQTEST (R247): CQTEST sets T by whether a tag is outstanding. -/
  | cqtest (k : Issue) (tag : Fin 64)
  /-- CQSTAT (R247): CQSTAT reads half of the outstanding-tag mask. -/
  | cqstat (k : Issue) (gd : Fin 32) (half : Bool)
  /-- ACC_JOB (R313): CQPUSH with CQOP 0x000 to 0x08F sends a job descriptor to an ACC tile speculatively. -/
  | accJob (k : Issue) (an : Fin 8) (ga : Fin 32) (tag : Fin 64) (target : Nat)
  /-- HELPER (R320): CQPUSH with CQOP 0x100 sends a command to the tile's matrix helper. -/
  | helper (k : Issue) (an : Fin 8) (ga : Fin 32) (tag : Fin 64)
  /-- Q_PUSH (R318): CQPUSH with CQOP 0x200 pushes a 32-byte entry at COMMIT. -/
  | qPush (k : Issue) (an : Fin 8) (ga : Fin 32) (tag : Fin 64)
  /-- Q_POP (R318): CQPUSH with CQOP 0x201 pops entries from a STREAM queue at COMMIT. -/
  | qPop (k : Issue) (an : Fin 8) (ga : Fin 32) (tag : Fin 64)
  /-- JOB_ABORT (R318): CQPUSH with CQOP 0x300 aborts a job through its tile or dispatcher at COMMIT. -/
  | jobAbort (k : Issue) (an : Fin 8) (ga : Fin 32) (tag : Fin 64)
  /-- COMMIT (R316): COMMIT reaches a coprocessor, which performs staged writes and continues the command. -/
  | commit (tile core tag : Nat)
  /-- CANCEL (R316): CANCEL reaches a coprocessor, which stops the job, discards staged writes and acknowledges. -/
  | cancel (tile core tag : Nat)
  /-- CANCEL_ACK (R316): The cancel acknowledgement frees the tag at the core. -/
  | cancelAck (tile core tag : Nat)
  /-- CQ_RESULT_ARRIVE (R317): A command's completion writes CQ_RESULT, frees its tag and queues any CQ_LATE. -/
  | cqResultArrive (tile core tag : Nat)
  /-- ACC_CQ_ARRIVE (R302): A CQ command enters an ACC tile's command FIFO or is returned if the tile sleeps. -/
  | accCqArrive (tile core tag : Nat)
  /-- ACC_JOB_START (R301): A job takes a free slot and starts, after the descriptor checks of R307. -/
  | accJobStart (tile : Nat) (ref : JobRef)
  /-- ACC_JOB_COMPLETE (R310): A job writes its outputs, status record and completion entry or CQ result. -/
  | accJobComplete (tile : Nat) (ref : JobRef)
  /-- ACC_WATCHDOG (R312): A job exceeding ACC_CTRL.WDOG ends with TIMEOUT. -/
  | accWatchdog (tile : Nat) (ref : JobRef)
  /-- ACC_ABORT (R319): An abort reaches the job's tile, which stops it and empties its locked soft buffers. -/
  | accAbort (tile desc : Nat)
  /-- CMATMUL (R320): Helper op 0 computes C = A × B. -/
  | cmatmul (tile : Nat) (ref : JobRef)
  /-- CMATMULH (R320): Helper op 1 computes C = A × Bᴴ. -/
  | cmatmulh (tile : Nat) (ref : JobRef)
  /-- CGRAM (R320): Helper op 2 computes Aᴴ × A + σ² × I. -/
  | cgram (tile : Nat) (ref : JobRef)
  /-- CCHOLSOLVE (R320): Helper op 3 solves a Hermitian system in f32. -/
  | ccholsolve (tile : Nat) (ref : JobRef)
  /-- FFT_FWD (R122): An FFT_FWD job removes the cyclic prefix and transforms time-domain records to frequency domain. -/
  | fftFwd (tile : Nat) (ref : JobRef)
  /-- FFT_INV (R122): An FFT_INV job transforms frequency-domain records to time domain and inserts the cyclic prefix. -/
  | fftInv (tile : Nat) (ref : JobRef)
  /-- FEEDCORR (R160): A FEEDCORR job applies a feed's lane synthesiser delay ramp and phase rotation to records. -/
  | feedcorr (tile : Nat) (ref : JobRef)
  /-- CHEST (R125): A CHEST job estimates channel taps and noise variance from training symbols. -/
  | chest (tile : Nat) (ref : JobRef)
  /-- COMBINE (R167): A COMBINE job combines feeds or static-cell RUs into one grid by MRC or JOINT mode. -/
  | combine (tile : Nat) (ref : JobRef)
  /-- DETECT (R128): A DETECT job computes MMSE detection with SIC passes per subcarrier. -/
  | detect (tile : Nat) (ref : JobRef)
  /-- DEMAP (R129): A DEMAP job computes max-log LLRs, descrambles and stores 6-bit values. -/
  | demap (tile : Nat) (ref : JobRef)
  /-- PRECODE (R305): A PRECODE job applies precoding matrices to layer symbols into output records. -/
  | precode (tile : Nat) (ref : JobRef)
  /-- LDPC_DEC (R132): An LDPC_DEC job combines LLRs into soft buffers and decodes code blocks. -/
  | ldpcDec (tile : Nat) (ref : JobRef)
  /-- LDPC_ENC (R305): An LDPC_ENC job encodes and rate-matches code blocks. -/
  | ldpcEnc (tile : Nat) (ref : JobRef)
  /-- POLAR_DEC (R306): A POLAR_DEC job list-decodes one polar code block. -/
  | polarDec (tile : Nat) (ref : JobRef)
  /-- POLAR_ENC (R305): A POLAR_ENC job encodes one polar code block. -/
  | polarEnc (tile : Nat) (ref : JobRef)
  /-- TURBO_DEC (R305): A TURBO_DEC job combines into soft buffers and turbo-decodes code blocks. -/
  | turboDec (tile : Nat) (ref : JobRef)
  /-- TURBO_ENC (R305): A TURBO_ENC job turbo-encodes and rate-matches code blocks. -/
  | turboEnc (tile : Nat) (ref : JobRef)
  /-- CONV_DEC (R137): A CONV_DEC job convolutionally decodes GSM-R blocks with CRC or parity check. -/
  | convDec (tile : Nat) (ref : JobRef)
  /-- CONV_ENC (R305): A CONV_ENC job convolutionally encodes GSM-R blocks. -/
  | convEnc (tile : Nat) (ref : JobRef)
  /-- GMSK_MLSE (R136): A GMSK_MLSE job equalises a GSM-R burst across branches and writes soft bits and reports. -/
  | gmskMlse (tile : Nat) (ref : JobRef)
  /-- GMSK_MOD (R138): A GMSK_MOD job modulates bursts into KIND 2 records. -/
  | gmskMod (tile : Nat) (ref : JobRef)
  /-- PRACH_SEARCH (R141): A PRACH_SEARCH job detects preambles and writes provisional detection reports. -/
  | prachSearch (tile : Nat) (ref : JobRef) (peaks : List Peak)
  /-- RACH_SEARCH (R305): A RACH_SEARCH job detects GSM-R access bursts and submits their confirmation decode. -/
  | rachSearch (tile : Nat) (ref : JobRef) (peaks : List Peak)
  /-- PRACH_WINDOW_CLOSE (R141): When an occasion's search window closes its provisional PRACH detections are confirmed. -/
  | prachWindowClose (tile : Nat) (ref : JobRef)
  /-- REG64_LOW_READ (R12): A read of the low half of a 64-bit register returns it and latches the high half for that requester. -/
  | reg64LowRead (r : Requester) (addr : Nat)
  /-- REG64_LOW_WRITE (R12): A write of the low half of a 64-bit register holds it pending for that requester; the register keeps its value. -/
  | reg64LowWrite (r : Requester) (addr : Nat) (value : Word)
  /-- REG64_HIGH_WRITE (R12): A write of the high half of a 64-bit register updates the register from it and any low half held for that requester. -/
  | reg64HighWrite (r : Requester) (addr : Nat) (value : Word)
  /-- CP_WRITE (R16): A write to either half of a complement-paired register either starts a pair, completes it, or breaks it. -/
  | cpWrite (r : Requester) (addr : Nat) (value : Word)
  /-- CP_PAIR_TIMEOUT (R16): When 1,024 ns pass without the second half, the pending half is discarded and CPAIR_ERR is set. -/
  | cpPairTimeout (addr : Nat)
  /-- RC_READ (R14): A read of an RC register returns its value and clears it; an event in the same cycle is kept. -/
  | rcRead (r : Requester) (addr : Nat)
  /-- REGISTER_WRITE (R14): A write to a register without a row of its own acts under its access code, with bus errors for refused requesters. -/
  | registerWrite (r : Requester) (addr size : Nat) (value : DWord)
  /-- CORRIDOR_SET_CREATE (R42): CORRIDOR_SET with ACTION 0 creates a corridor after the admission checks. -/
  | corridorSetCreate (m : TcsMsg) (corridor margin : Nat) (rest : List Setting)
  /-- CORRIDOR_SET_MODIFY (R42): CORRIDOR_SET with ACTION 1 modifies an existing corridor's handover margin. -/
  | corridorSetModify (m : TcsMsg) (corridor margin : Nat) (rest : List Setting)
  /-- CORRIDOR_SET_DELETE (R42): CORRIDOR_SET with ACTION 2 deletes a corridor that holds nothing. -/
  | corridorSetDelete (m : TcsMsg) (corridor : Nat) (rest : List Setting)
  /-- RU_SET (R43): RU_SET creates or modifies one RU per setting and renumbers corridor positions. -/
  | ruSet (m : TcsMsg) (b : RuBody) (rest : List Setting)
  /-- RU_REMOVE (R44): RU_REMOVE removes an RU and its carrier instances, renumbering positions and splitting static cells. -/
  | ruRemove (m : TcsMsg) (ru : Nat) (rest : List Setting)
  /-- CARRIER_SET (R90): CARRIER_SET defines or changes one carrier, its frequencies changing together as one setting. -/
  | carrierSet (m : TcsMsg) (b : CarrierBody) (rest : List Setting)
  /-- CARRIER_REMOVE (R44): CARRIER_REMOVE removes a carrier with all its instances and static cells. -/
  | carrierRemove (m : TcsMsg) (scope sindex carrier : Nat) (rest : List Setting)
  /-- CARRIER_INST_SET_TX_EN (R91): CARRIER_INST_SET ITEM 1 sets a carrier instance's transmit enable. -/
  | carrierInstSetTxEn (m : TcsMsg) (carrier ru : Nat) (value valueC : Word) (rest : List Setting)
  /-- CARRIER_INST_SET_PWR_LIMIT (R91): CARRIER_INST_SET ITEM 2 sets a carrier instance's per-port power limit. -/
  | carrierInstSetPwrLimit (m : TcsMsg) (carrier ru : Nat) (value valueC : Word) (rest : List Setting)
  /-- CARRIER_INST_SET_COMPW (R91): CARRIER_INST_SET ITEM 3 sets a carrier instance's compression width, checked against front-haul load. -/
  | carrierInstSetCompw (m : TcsMsg) (carrier ru : Nat) (value valueC : Word) (rest : List Setting)
  /-- CARRIER_INST_SET_PORTMASK_LO (R92): CARRIER_INST_SET ITEM 4 sets antenna-port mask bits 0 to 31, creating the instance if new. -/
  | carrierInstSetPortmaskLo (m : TcsMsg) (carrier ru : Nat) (value valueC : Word) (rest : List Setting)
  /-- CARRIER_INST_SET_PORTMASK_HI (R92): CARRIER_INST_SET ITEM 5 sets antenna-port mask bits 32 to 63, creating the instance if new. -/
  | carrierInstSetPortmaskHi (m : TcsMsg) (carrier ru : Nat) (value valueC : Word) (rest : List Setting)
  /-- STATIC_CELL_SET_GROUP (R45): STATIC_CELL_SET ACTION 0 groups consecutive instances of a carrier into one static cell. -/
  | staticCellSetGroup (m : TcsMsg) (corridor carrier first count : Nat) (rest : List Setting)
  /-- STATIC_CELL_SET_UNGROUP (R45): STATIC_CELL_SET ACTION 1 makes every instance in a span a static cell of its own. -/
  | staticCellSetUngroup (m : TcsMsg) (corridor carrier first count : Nat) (rest : List Setting)
  /-- STATION_CELL_SET (R46): STATION_CELL_SET ACTION 0 creates or modifies a station cell. -/
  | stationCellSet (m : TcsMsg) (station maxUl maxDl : Nat) (rest : List Setting)
  /-- STATION_CELL_SET_DELETE (R46): STATION_CELL_SET ACTION 1 deletes a station cell that has no RU. -/
  | stationCellSetDelete (m : TcsMsg) (station : Nat) (rest : List Setting)
  /-- PEER_SET (R47): PEER_SET ACTION 0 sets a corridor end's peer entry and starts its peer session. -/
  | peerSet (m : TcsMsg) (b : PeerBody)
  /-- PEER_SET_CLEAR (R47): PEER_SET ACTION 1 clears a corridor end's peer entry. -/
  | peerSetClear (m : TcsMsg) (corridor endHi : Nat)
  /-- CONFIG_READ (R48): CONFIG_READ returns one configuration object, with critical values in pairs. -/
  | configRead (m : TcsMsg) (what index index2 : Nat)
  /-- SETTING_EFFECT (R88): At a carrier's frame boundary a checked setting takes effect and the command moves on to check its next setting. -/
  | settingEffect (scope sindex carrier : Nat)
  /-- COMPRESSION_WIDTH_LOWER (R37): After a spur port retrains to a lower rate, one instance's compression width drops by one bit at a frame boundary. -/
  | compressionWidthLower (ru carrier : Nat)
  /-- CARRIER_INSTANCE_SUSPEND (R37): When width reduction is not enough, carrier instances of the RU are suspended one per boundary in reverse admission order. -/
  | carrierInstanceSuspend (ru carrier : Nat)
  /-- NET_CONFIG_SET_PORT_ADDR (R96): NET_CONFIG_SET ITEM 1 stores a port's IP address for the next boot. -/
  | netConfigSetPortAddr (m : TcsMsg) (index : Nat) (value : List Byte) (rest : List Setting)
  /-- NET_CONFIG_SET_PORT_GW (R96): NET_CONFIG_SET ITEM 2 stores a port's gateway. -/
  | netConfigSetPortGw (m : TcsMsg) (index : Nat) (value : List Byte) (rest : List Setting)
  /-- NET_CONFIG_SET_PORT_VLAN (R96): NET_CONFIG_SET ITEM 3 stores a port's VLAN tagging. -/
  | netConfigSetPortVlan (m : TcsMsg) (index : Nat) (value : List Byte) (rest : List Setting)
  /-- NET_CONFIG_SET_PORT_MODE (R397): NET_CONFIG_SET ITEM 4 stores a traffic-lane port mode, FEC and transmit order. -/
  | netConfigSetPortMode (m : TcsMsg) (index : Nat) (value : List Byte) (rest : List Setting)
  /-- NET_CONFIG_SET_LANE_TX (R397): NET_CONFIG_SET ITEM 5 stores a lane's transmit equaliser and polarity. -/
  | netConfigSetLaneTx (m : TcsMsg) (index : Nat) (value : List Byte) (rest : List Setting)
  /-- NET_CONFIG_SET_BH_EGRESS (R412): NET_CONFIG_SET ITEM 6 stores or deletes a backhaul egress queue. -/
  | netConfigSetBhEgress (m : TcsMsg) (index : Nat) (value : List Byte) (rest : List Setting)
  /-- NET_CONFIG_SET_BH_INGRESS (R96): NET_CONFIG_SET ITEM 7 stores a backhaul ingress queue for a PCP. -/
  | netConfigSetBhIngress (m : TcsMsg) (index : Nat) (value : List Byte) (rest : List Setting)
  /-- NET_CONFIG_SET_SPUR (R457): NET_CONFIG_SET ITEM 8 stores a spur port's configuration and wake settings. -/
  | netConfigSetSpur (m : TcsMsg) (index : Nat) (value : List Byte) (rest : List Setting)
  /-- NET_CONFIG_SET_WAKE (R515): NET_CONFIG_SET ITEM 9 stores the wake enables for STILL. -/
  | netConfigSetWake (m : TcsMsg) (value : List Byte) (rest : List Setting)
  /-- NET_CONFIG_SET_PARISON_RU (R533): NET_CONFIG_SET ITEM 10 sets or clears one PARISON list entry. -/
  | netConfigSetParisonRu (m : TcsMsg) (entry : Nat) (value : List Byte) (rest : List Setting)
  /-- SESSION_HELLO (R71): SESSION_HELLO opens a pending session with a signed response, or is refused. -/
  | sessionHello (m : TcsMsg) (slot : Nat) (hostNonce encKey : List Byte)
  /-- SESSION_CONFIRM (R71): SESSION_CONFIRM with a valid host signature makes the pending session live. -/
  | sessionConfirm (m : TcsMsg) (sigOk : Bool)
  /-- SESSION_CLOSE (R72): SESSION_CLOSE ends the live session, aborting its commands and releasing its semaphores. -/
  | sessionClose (m : TcsMsg)
  /-- KEEPALIVE (R70): KEEPALIVE resets the session's idle time. -/
  | keepalive (m : TcsMsg)
  /-- SESSION_PENDING_TIMEOUT (R71): A pending session whose 2 s timer expires is discarded. -/
  | sessionPendingTimeout (port : Fin 2)
  /-- SESSION_IDLE_TIMEOUT (R71): A live session idle for 60 s ends under the session-end rules. -/
  | sessionIdleTimeout (port : Fin 2)
  /-- OP_ABORT (R84): OP_ABORT stops a command executing in a mailbox, or returns ABORT_TOO_LATE. -/
  | opAbort (m : TcsMsg) (mbx : Nat) (seq : Word)
  /-- EVENT_FETCH (R98): EVENT_FETCH returns held events from a starting EVSEQ, with placeholders for other sessions' events. -/
  | eventFetch (m : TcsMsg) (start count : Nat)
  /-- SEM_ACQUIRE (R80): SEM_ACQUIRE grants or renews a punty semaphore lease, or returns BUSY. -/
  | semAcquire (m : TcsMsg) (sem leaseMs : Nat)
  /-- SEM_RENEW (R80): SEM_RENEW resets the remaining lease of a held semaphore. -/
  | semRenew (m : TcsMsg) (sem leaseMs : Nat)
  /-- SEM_RELEASE (R80): SEM_RELEASE releases a held semaphore. -/
  | semRelease (m : TcsMsg) (sem : Nat)
  /-- SEM_QUERY (R80): SEM_QUERY returns holder and lease of the named semaphores. -/
  | semQuery (m : TcsMsg) (mask : DWord)
  /-- SEM_BREAK (R82): SEM_BREAK takes a semaphore from a session idle for 5 s or more. -/
  | semBreak (m : TcsMsg) (sem : Nat)
  /-- LEASE_EXPIRED (R83): A semaphore lease runs out; the semaphore is freed and its session told. -/
  | leaseExpired (sem : Nat)
  /-- DEV_INFO (R95): DEV_INFO returns identification, state, versions, time and certificate. -/
  | devInfo (m : TcsMsg)
  /-- COUNTERS_READ (R97): COUNTERS_READ returns, and optionally clears, the counter totals of one block. -/
  | countersRead (m : TcsMsg) (group clear index : Nat)
  /-- COUNTER_TOTAL_POLL (R97): At least once per second the Gaffer reads every RC counter into its 64-bit totals. -/
  | counterTotalPoll 
  /-- MBX_ALLOC (R100): A read of MBX_ALLOC claims the lowest free on-chip mailbox for the reading core. -/
  | mbxAlloc (r : Requester)
  /-- MBX_SUBMIT (R101): MBX_DOORBELL CMD 0b01 submits the request buffer of a claimed mailbox to the Gaffer. -/
  | mbxSubmit (r : Requester) (n : Fin 32)
  /-- MBX_ABORT (R103): MBX_DOORBELL CMD 0b10 aborts the mailbox's executing command under R19. -/
  | mbxAbort (r : Requester) (n : Fin 32)
  /-- MBX_FREE (R101): A write of 1 to MBX_FREE returns a mailbox to FREE unless it is BUSY. -/
  | mbxFree (r : Requester) (n : Fin 32) (value : Word)
  /-- MBX_COMPLETE (R102): The Gaffer writes the response, sets DONE and sends the chosen completion notice. -/
  | mbxComplete (n : Fin 32)
  /-- RESERVED_OPCODE (R93): The Gaffer receives a TCS request whose opcode is reserved in its group and answers BAD_ARG. -/
  | reservedOpcode (m : TcsMsg) (opcode : Nat)
  /-- ETH_FRAME_RECEIVE (R404): A received frame is checked and directed to the time engine, front-haul engine, backhaul queue or Gaffer. -/
  | ethFrameReceive (iot port : Nat) (f : RxFrame)
  /-- RX_WINDOW_CLOSE (R112): When a record's reception window closes it is released with zero fill and MISSING set. -/
  | rxWindowClose (ru carrier frame slot symbol : Nat)
  /-- FH_DELAY_MEASURE (R405): Once per minute and after each link up the Gaffer measures RU path delays with eCPRI type 5 and sets RXWIN. -/
  | fhDelayMeasure (iot port : Nat) (delays : List (Nat × Nat))
  /-- RUN_BOUNDARY (R155): At each anchor slot boundary the home tile checks pairs, tracks, sets lane synthesisers and trims, and decides a window step. -/
  | runBoundary (run : Nat) (ms : List Meas)
  /-- SEEK_TIMEOUT (R156): A run in SEEK without a position fix for 10 s enters LOST. -/
  | seekTimeout (run : Nat)
  /-- COAST_ENTER (R156): Twenty consecutive boundaries without a position fix move a run from TRACK to COAST. -/
  | coastEnter (run : Nat)
  /-- COAST_LIMIT_EXPIRY (R156): When COAST_LIMIT passes without a fix the run enters LOST with frozen state. -/
  | coastLimitExpiry (run : Nat)
  /-- LOOP_SAT_SET (R165): A feed whose trim has been clamped for 8 boundaries is marked LOOP_SAT and stops transmitting. -/
  | loopSatSet (run pos : Nat)
  /-- LOOP_SAT_CLEAR (R165): A LOOP_SAT feed whose trims are off their clamps for 8 boundaries transmits again. -/
  | loopSatClear (run pos : Nat)
  /-- RUN_POSITION (R159): RUN_POSITION passes an external position report to the run's home tile. -/
  | runPosition (m : TcsMsg) (run : Nat) (speedValid : Bool) (accuracy chainage : Nat) (speed : Int) (tFix : Nat)
  /-- RUN_CREATE (R189): RUN_CREATE admits a run and installs its initial window with every feed JOINING. -/
  | runCreate (m : TcsMsg) (b : RunBody)
  /-- RUN_END (R186): RUN_END starts ending a run, which completes when its number is released. -/
  | runEnd (m : TcsMsg) (run : Nat)
  /-- RUN_READ (R187): RUN_READ returns the run context with its critical pairs. -/
  | runRead (m : TcsMsg) (run : Nat)
  /-- RUN_EXPORT (R187): RUN_EXPORT starts an export of a run and completes when that attempt resolves. -/
  | runExport (m : TcsMsg) (run : Nat)
  /-- GAFFER_PAIR_REWRITE (R174): On a mismatch status entry the Gaffer rewrites the context pair from its own copy at the next boundary, or silences the run. -/
  | gafferPairRewrite (run : Nat)
  /-- PEER_HELLO (R51): A responder receives PEER_HELLO, checks identity and signature, and answers with the KEM ciphertext. -/
  | peerHello (m : TcsMsg) (idOk sigOk : Bool)
  /-- PEER_HELLO_RESPONSE (R51): The opener receives the signed response, checks the responder and sends PEER_CONFIRM. -/
  | peerHelloResponse (corridor : Fin 8) (hiEnd : Bool) (session : Word) (payload : List Byte) (authOk : Bool)
  /-- PEER_CONFIRM (R51): The responder receives PEER_CONFIRM tagged with the session key and answers OK, making the session live. -/
  | peerConfirm (m : TcsMsg)
  /-- PEER_CONFIRM_RESPONSE (R51): The opener receives the responder's OK to PEER_CONFIRM and its peer session becomes live. -/
  | peerConfirmResponse (corridor : Fin 8) (hiEnd : Bool) (m : TcsMsg) (status : Nat)
  /-- PEER_KEEPALIVE (R51): Receipt of PEER_KEEPALIVE refreshes a peer session. -/
  | peerKeepalive (m : TcsMsg)
  /-- PEER_KEEPALIVE_SEND (R51): Every 1 s each side sends PEER_KEEPALIVE. -/
  | peerKeepaliveSend (corridor : Fin 8) (hiEnd : Bool)
  /-- PEER_SESSION_TIMEOUT (R51): A peer session with no authenticated message for 5 s ends, affecting any export in progress. -/
  | peerSessionTimeout (corridor : Fin 8) (hiEnd : Bool)
  /-- PEER_SESSION_REOPEN (R51): One second after a session ends, the opener sends a new PEER_HELLO. -/
  | peerSessionReopen (corridor : Fin 8) (hiEnd : Bool)
  /-- RUN_L2_DATA (R58): DSP software names a context or delta blob for an export in progress. -/
  | runL2Data (m : TcsMsg) (run kind len addr : Nat)
  /-- EXPORT_L2_WAIT_EXPIRY (R58): 5 ms after the export status entry without a named blob, the record is sent with a zero-length blob. -/
  | exportL2WaitExpiry (corridor : Fin 8) (hiEnd : Bool)
  /-- RUN_IMPORT (R59): The importer receives the export record, runs admission checks and answers ACCEPT or a refusal once the context blob is complete. -/
  | runImport (m : TcsMsg) (b : ImportBody)
  /-- RUN_BLOB (R58): The importer writes a blob chunk into its L2 area and pushes an entry when a blob completes. -/
  | runBlob (m : TcsMsg) (run kind offset : Nat) (data : List Byte)
  /-- RUN_DELTA (R58): The importer verifies the delta blob hash and counts the delta record as received. -/
  | runDelta (m : TcsMsg) (run : Nat) (hash : List Byte)
  /-- EXPORT_REPLY_RECEIVE (R52): The exporter receives ACCEPT or a refusal for its export record. -/
  | exportReplyReceive (corridor : Fin 8) (hiEnd : Bool) (m : TcsMsg) (status peerRun : Nat)
  /-- HANDOVER_TIMEOUT (R53): No reply by S − 10 ms keeps the run and is reported. -/
  | handoverTimeout (corridor : Fin 8) (hiEnd : Bool)
  /-- HANDOVER_RETRY (R53): No sooner than 100 ms after a failed export, a new export with a new S is started. -/
  | handoverRetry (corridor : Fin 8) (hiEnd : Bool)
  /-- QUEUE_PUSH (R199): A push arriving at a dispatcher is enqueued, demoted, held at a full queue or refused. -/
  | queuePush (p : Producer) (qid : Nat) (entry : List Byte)
  /-- QUEUE_POP (R204): A pop request on a STREAM queue returns up to the requested entries, possibly none. -/
  | queuePop (r : Requester) (qid max : Nat)
  /-- HELD_PUSH_ACCEPT (R201): When space frees, a held push is accepted in held order. -/
  | heldPushAccept (qid : Nat)
  /-- QUEUE_ENABLE (R193): Setting EN allocates the queue ring, or fails with CFG_NORES or CFG_ERR. -/
  | queueEnable (r : Requester) (qid : Nat)
  /-- DISPATCH (R207): When a core or job slot frees or an entry becomes eligible, the dispatcher picks an entry and starts it on a core or accelerator. -/
  | dispatch (q : Nat)
  /-- CONTEXT_PREFETCH_DONE (R215): A PREFETCH entry's context copy into the context cache completes, making it eligible. -/
  | contextPrefetchDone (qid : Nat)
  /-- TASK_END_REPORT (R220): A task or job end reaches the dispatcher, which releases in SEQ order and updates lateness. -/
  | taskEndReport (qid seq tile : Nat) (core : Option Nat)
  /-- CATCHUP_SPAN_CLOSE (R226): One second after a flow's last episode ended, its report span closes with an end event. -/
  | catchupSpanClose (q flid : Nat)
  /-- CRUMB_CTRL (R229): CRUMB_CTRL configures the crumb trace destinations, filters and ring. -/
  | crumbCtrl (m : TcsMsg) (b : CrumbBody)
  /-- CRUMB_STREAM_SEND (R229): A waiting crumb message is sent once the port's byte budget holds its length. -/
  | crumbStreamSend (port : Fin 2)
  /-- PAUSE_FRAME_REPEAT (R203): A pause frame is repeated every 100 µs while a backhaul ingress queue stays above LO. -/
  | pauseFrameRepeat (qid : Nat)
  /-- CORE_TASK_START (R209): A dispatch message restarts an idle core, loads its task registers and fetches the entry. -/
  | coreTaskStart (tile core : Nat)
  /-- RING (R334): DMA_CH_DOORBELL RING starts, restarts or marks pending a channel program. -/
  | ring (r : Requester) (tile : Nat) (ch : Fin 16)
  /-- ABORT (R342): DMA_CH_DOORBELL ABORT halts a running channel or reports ABORT_TOO_LATE. -/
  | abort (r : Requester) (tile : Nat) (ch : Fin 16)
  /-- RESUME (R341): DMA_CH_DOORBELL RESUME continues a halted channel's failing instruction. -/
  | resume (r : Requester) (tile : Nat) (ch : Fin 16)
  /-- RESET (R334): DMA_CH_DOORBELL RESET returns a parked or halted channel to IDLE. -/
  | reset (r : Requester) (tile : Nat) (ch : Fin 16)
  /-- DMA_FETCH (R326): A channel's 16-byte instruction fetch returns and the instruction starts. -/
  | dmaFetch (tile : Nat) (ch : Fin 16)
  /-- END (R334): END parks the channel, or refetches if a RING is pending. -/
  | end_ (tile : Nat) (ch : Fin 16)
  /-- MOVE (R328): MOVE copies rows from memory or popped queue entries. -/
  | move (tile : Nat) (ch : Fin 16)
  /-- LOOP (R329): LOOP counts LC[K] and branches back. -/
  | loop (tile : Nat) (ch : Fin 16)
  /-- DMA_WAIT (R330): WAIT puts the channel in WAIT until an event, queue fill or time condition. -/
  | dmaWait (tile : Nat) (ch : Fin 16)
  /-- SIGNAL_EVENT (R331): SIGNAL EVENT sets a DMA_EVT bit in a tile's engine. -/
  | signalEvent (tile : Nat) (ch : Fin 16)
  /-- SIGNAL_QPUSH (R331): SIGNAL QPUSH reads an entry and pushes it to a queue. -/
  | signalQpush (tile : Nat) (ch : Fin 16)
  /-- SIGNAL_INTERRUPT (R331): SIGNAL INTERRUPT sets CORE_IPEND.DMA of a core. -/
  | signalInterrupt (tile : Nat) (ch : Fin 16)
  /-- JUMP (R332): JUMP continues at TARGET. -/
  | jump (tile : Nat) (ch : Fin 16)
  /-- SET (R332): SET loads or adds to an AR or LC register. -/
  | set (tile : Nat) (ch : Fin 16)
  /-- DMA_NOP (R332): The channel NOP does nothing. -/
  | dmaNop (tile : Nat) (ch : Fin 16)
  /-- DMA_REQUEST_COMPLETE (R325): A channel's read response or write acknowledgement arrives; the last ends the instruction. -/
  | dmaRequestComplete (tile : Nat) (ch : Fin 16) (row : Nat)
  /-- DMA_HALT (R340): After a failed access and the drain of outstanding requests, the channel halts with the latched failure. -/
  | dmaHalt (tile : Nat) (ch : Fin 16)
  /-- DMA_WAIT_SATISFIED (R330): A waiting channel's condition holds and it continues. -/
  | dmaWaitSatisfied (tile : Nat) (ch : Fin 16)
  /-- DMA_WAIT_TIMEOUT (R330): A WAIT's TIMEOUT_US passes and the channel halts with TIMEOUT. -/
  | dmaWaitTimeout (tile : Nat) (ch : Fin 16)
  /-- QEMPTY_RETRY (R328): A row waiting on an empty queue repeats its pop at least every 64 tile cycles. -/
  | qemptyRetry (tile : Nat) (ch : Fin 16)
  /-- STREAM_GATE_MESSAGE (R337): A dispatcher's watermark-crossing message opens or closes a stream channel's gate. -/
  | streamGateMessage (tile : Nat) (ch : Fin 16)
  /-- DMA_EVT_SET (R346): A write of 1 to DMA_EVT_SET sets an event flag. -/
  | dmaEvtSet (r : Requester) (tile : Nat) (mask : Word)
  /-- NOC_READ (R352): A READ reaches its target, which answers with data, an error status or a RETURN. -/
  | nocRead (r : Requester) (cls : Fin 4) (tag req addr n : Nat)
  /-- NOC_WRITE (R352): A WRITE reaches its target, which writes and acknowledges, or returns it. -/
  | nocWrite (r : Requester) (cls : Fin 4) (tag req addr : Nat) (data : List Byte)
  /-- NOC_MESSAGE (R352): A MESSAGE reaches its target unit, or is returned if the tile sleeps. -/
  | nocMessage (r : Requester) (cls : Fin 4) (tag req dst addr : Nat) (data : List Byte)
  /-- NOC_RESPONSE (R352): A RESPONSE reaches its requester, or is dropped at a sleeping tile. -/
  | nocResponse (dst req tag : Nat)
  /-- NOC_RETURN (R363): A RETURN reaches its sender, which treats the request as DOMAIN_ASLEEP. -/
  | nocReturn (dst req tag : Nat)
  /-- LINK_CRC_REPLAY (R350): A transfer that fails its CRC is replayed by the link controller. -/
  | linkCrcReplay (tile : Nat) (link : Fin 4) (fails : Bool)
  /-- LINK_FAIL (R350): After 64 consecutive failed replays the router sets LINK_FAIL and the fault is journalled. -/
  | linkFail (tile : Nat) (link : Fin 4)
  /-- CORRECTED_WRITEBACK (R375): The corrected code word is written back unless a newer write to it came first. -/
  | correctedWriteback (cw : Nat)
  /-- UE_REPORT (R380): The Gaffer raises UE_REPORT for the first UE at a code word, rate limited. -/
  | ueReport 
  /-- SCRUB_PASS (R384): At each interval a memory is read through and corrected by its scrubber. -/
  | scrubPass (mem : ScrubMem)
  /-- SCRUB_LATE (R384): A memory whose scrub age reaches twice its interval sets SCRUB_LATE. -/
  | scrubLate (mem : ScrubMem)
  /-- CLOG_HARVEST (R378): The Lehr copies valid CLOG entries to telemetry and journal and clears them. -/
  | clogHarvest (tile : Nat) (stuck : List Nat)
  /-- ERR_INJECT (R392): ERR_INJECT arms an ECC or MEMC injection for the next whole-word write. -/
  | errInject (m : TcsMsg) (target tile arm double pos : Nat)
  /-- ECC_CLR (R376): A write of 1 to ECC_CLR clears the block's counters. -/
  | eccClr (r : Requester) (tile : Nat) (value : Word)
  /-- MEMC_CLR (R376): A write of 1 to MEMC_CLR clears the MEM tile's counters. -/
  | memcClr (r : Requester) (tile : Nat) (value : Word)
  /-- SIGNAL_DETECT (R398): Signal detected on every lane for 100 µs moves a port to CDR lock. -/
  | signalDetect (iot port : Nat)
  /-- CDR_LOCK (R398): CDR lock and receive adaptation complete on every lane. -/
  | cdrLock (iot port : Nat) (ppm : Int)
  /-- POLARITY_CORRECT (R399): Lane polarity is detected and corrected in the receiver. -/
  | polarityCorrect (iot port : Nat) (sees : List LaneSees)
  /-- LANE_REVERSAL (R400): Lane order of a multi-lane port is detected and mapped. -/
  | laneReversal (iot port : Nat) (order : List Nat)
  /-- DESKEW (R398): Lanes of a port are deskewed. -/
  | deskew (iot port skew : Nat)
  /-- FEC_LOCK (R398): RS-FEC codeword alignment locks. -/
  | fecLock (iot port : Nat)
  /-- LINK_UP (R398): No fault for 1 ms brings the port to step 8. -/
  | linkUp (iot port txDly rxDly : Nat)
  /-- BRINGUP_STEP_TIMEOUT (R398): A bring-up step exceeding its limit returns the port to step 2. -/
  | bringupStepTimeout (iot port : Nat)
  /-- LINK_DOWN (R401): A loss after link up sends the port back to its matching step. -/
  | linkDown (iot port : Nat) (loss : LinkLoss)
  /-- ADAPTATION_STEP (R406): Every 10 ms the Lehr adjusts a lane's equaliser and re-measures its delay. -/
  | adaptationStep (iot lane : Nat) (dCtle dDfe : Int) (rxDly : Nat)
  /-- MARGIN_LOW (R407): A lane's eye margin below EYE_MIN for 1 s sets MARGIN_LOW. -/
  | marginLow (iot lane vert horz : Nat)
  /-- PRBS_LOCK (R408): The PRBS checker locks after 64 error-free bits. -/
  | prbsLock (iot lane : Nat) (inverted : Bool)
  /-- PRBS_LOCK_LOSS (R408): The PRBS checker loses lock at over 256 errors in 1,024 bits. -/
  | prbsLockLoss (iot lane bits errs : Nat)
  /-- PRBS_COUNTER_CLEAR (R408): A write of 1 to SD_PRBS_CTRL.CLR clears both PRBS counters. -/
  | prbsCounterClear (r : Requester) (iot lane : Nat) (value : Word)
  /-- LANE_TEST_STOP (R410): LANE_TEST ACTION 0 stops a test and restarts the port. -/
  | laneTestStop (m : TcsMsg) (iot lane bits errs : Nat)
  /-- LANE_TEST_GENERATE (R410): LANE_TEST ACTION 1 drives a PRBS pattern on a lane. -/
  | laneTestGenerate (m : TcsMsg) (iot lane pattern loopback durationMs : Nat)
  /-- LANE_TEST_CHECK (R410): LANE_TEST ACTION 2 checks a PRBS pattern on a lane. -/
  | laneTestCheck (m : TcsMsg) (iot lane pattern loopback durationMs : Nat)
  /-- LANE_TEST_GENERATE_CHECK (R410): LANE_TEST ACTION 3 generates and checks a pattern. -/
  | laneTestGenerateCheck (m : TcsMsg) (iot lane pattern loopback durationMs : Nat)
  /-- LANE_TEST_LOOPBACK (R410): LANE_TEST ACTION 4 sets a loopback only. -/
  | laneTestLoopback (m : TcsMsg) (iot lane loopback durationMs : Nat)
  /-- LANE_TEST_DURATION_END (R410): At the end of DURATION_MS the test stops and the port restarts. -/
  | laneTestDurationEnd (iot lane bits errs : Nat)
  /-- EGRESS_CALENDAR_POP (R420): The IOT pops a TIMED queue head into the launch calendar when room and time allow. -/
  | egressCalendarPop (qid : Nat)
  /-- TRANSMIT_START (R416): When the transmitter is free it starts a control frame, due timed frame or WFQ frame within the guard. -/
  | transmitStart (iot port : Nat)
  /-- TIMED_LAUNCH (R423): A calendar entry's launch falls due and its frame is sent, discarded or slipped. -/
  | timedLaunch (iot port : Nat)
  /-- FRAME_TRANSMIT_END (R415): A frame leaves the port and its completion record is written. -/
  | frameTransmitEnd (iot port : Nat)
  /-- PAUSE_EXPIRE (R419): A received priority pause on a PCP ends and its queues become active again. -/
  | pauseExpire (iot port pcp : Nat)
  /-- TELEMETRY_WINDOW_END (R426): At the end of a sampling window the IOT writes a depth and delay record. -/
  | telemetryWindowEnd (qid : Nat)
  /-- WFQ_TELEMETRY_COLLECT (R427): Every 1 ms the Lehr collects the IOT telemetry rings. -/
  | wfqTelemetryCollect (iot : Nat)
  /-- PTP_MESSAGE_RECEIVE (R433): A PTP message reaches the time engine and yields an offset measurement for the servo. -/
  | ptpMessageReceive (iot port domain : Nat) (b : PtpBody)
  /-- PTP_SYNC_SEND (R443): A master port sends Sync and Announce at the profile rate. -/
  | ptpSyncSend (iot port : Nat)
  /-- REFERENCE_QUALIFY (R433): Sixteen consecutive measurements qualify a reference, moving the servo per R434. -/
  | referenceQualify 
  /-- REFERENCE_LOST (R433): No measurement for 3 s, or a port leaving SLAVE, loses the reference. -/
  | referenceLost 
  /-- SERVO_LOCK (R434): An offset within 2 ns for 10 s after the step moves the servo to LOCKED. -/
  | servoLock 
  /-- TIME_STEP (R440): A valid TIME_STEP_CTRL pair with GO steps every time counter at one tick, or is refused. -/
  | timeStep 
  /-- TIME_REACQUIRE (R438): TIME_REACQUIRE starts an acquisition with one step bounded by MAX_STEP. -/
  | timeReacquire (m : TcsMsg) (maxStep maxStepC : DWord) (waitS : Nat)
  /-- TIME_REACQUIRE_TIMEOUT (R438): No step within WAIT_S ends TIME_REACQUIRE with TIMEOUT. -/
  | timeReacquireTimeout 
  /-- TIME_READ (R439): TIME_READ returns the servo state and device time. -/
  | timeRead (m : TcsMsg)
  /-- TIME_CONFIG_PROFILE (R447): TIME_CONFIG ITEM 1 stores the PTP profile. -/
  | timeConfigProfile (m : TcsMsg) (value : DWord) (rest : List Setting)
  /-- TIME_CONFIG_DOMAIN (R447): TIME_CONFIG ITEM 2 stores the PTP domain. -/
  | timeConfigDomain (m : TcsMsg) (value : DWord) (rest : List Setting)
  /-- TIME_CONFIG_ROLE (R444): TIME_CONFIG ITEM 3 sets a port's PTP role. -/
  | timeConfigRole (m : TcsMsg) (iot port : Nat) (value : DWord) (rest : List Setting)
  /-- TIME_CONFIG_JUMP_LIMIT (R437): TIME_CONFIG ITEM 4 sets JUMP_LIMIT. -/
  | timeConfigJumpLimit (m : TcsMsg) (value : DWord) (rest : List Setting)
  /-- TIME_CONFIG_ASYM (R447): TIME_CONFIG ITEM 5 sets a port's asymmetry. -/
  | timeConfigAsym (m : TcsMsg) (iot port : Nat) (value : DWord) (rest : List Setting)
  /-- TIME_CONFIG_LPRIO (R447): TIME_CONFIG ITEM 6 sets a port's localPriority. -/
  | timeConfigLprio (m : TcsMsg) (iot port : Nat) (value : DWord) (rest : List Setting)
  /-- TIME_CONFIG_SERVO_BW (R436): TIME_CONFIG ITEM 7 sets the servo bandwidth. -/
  | timeConfigServoBw (m : TcsMsg) (value : DWord) (rest : List Setting)
  /-- TIME_CONFIG_SLEW_MAX (R436): TIME_CONFIG ITEM 8 sets the phase slew limit. -/
  | timeConfigSlewMax (m : TcsMsg) (value : DWord) (rest : List Setting)
  /-- TIME_CONFIG_SYNCE_PRIO (R446): TIME_CONFIG ITEM 9 sets a port's SyncE priority. -/
  | timeConfigSyncePrio (m : TcsMsg) (iot port : Nat) (value : DWord) (rest : List Setting)
  /-- TIME_CONFIG_HOLDOVER (R452): TIME_CONFIG ITEM 10 sets oscillator steering and its channel. -/
  | timeConfigHoldover (m : TcsMsg) (value : DWord) (rest : List Setting)
  /-- TIME_CONFIG_GM_TOD (R445): TIME_CONFIG ITEM 11 makes the device grandmaster from PPS_IN. -/
  | timeConfigGmTod (m : TcsMsg) (value : DWord) (rest : List Setting)
  /-- TIME_CONFIG_PPS_OUT (R447): TIME_CONFIG ITEM 12 sets or turns off PPS_OUT. -/
  | timeConfigPpsOut (m : TcsMsg) (value : DWord) (rest : List Setting)
  /-- PPS_IN_EDGE (R445): A PPS_IN pulse is measured and taken or refused as a grandmaster reference. -/
  | ppsInEdge (falling : Bool) (dev : Int)
  /-- PPS_IN_MISS (R445): A PPS_IN pulse missing for 2 s loses the reference. -/
  | ppsInMiss 
  /-- TIME_EVENT_FIRE (R453): A time event generator fires and performs its action. -/
  | timeEventFire (n : Nat)
  /-- HOLDOVER_RAMP (R451): Once per second in HOLDOVER or STILL with RAMP set, TIME_HO_SLOPE is added to the steering code. -/
  | holdoverRamp 
  /-- OCXO_STEERING_UPDATE (R451): In LOCKED the Gaffer moves the steering DAC code and learns the ageing slope. -/
  | ocxoSteeringUpdate (code : Nat)
  /-- SPINE_DELAY_MEASURE (R448): Every 1 s the Lehr measures an island's spine delay and sets LTIME_TRIM. -/
  | spineDelayMeasure (tile trim : Nat) (err : Int)
  /-- SYNCE_SELECT (R446): The SyncE source is chosen by QL and priority. -/
  | synceSelect (ql : List (Nat × Nat))
  /-- SYNCE_WAIT_TO_RESTORE (R446): After 300 s a recovered SyncE source becomes a candidate again. -/
  | synceWaitToRestore (iot port : Nat)
  /-- SPUR_FAR_END_ENERGY (R461): Far-end energy for 100 µs moves spur training to echo canceller training. -/
  | spurFarEndEnergy (port : Nat)
  /-- SPUR_ECHO_TRAINED (R461): Residual echo 45 dB down completes echo training. -/
  | spurEchoTrained (port fault atten dist : Nat)
  /-- SPUR_EQUALISER_TRAINED (R461): Far-end equaliser and timing training completes. -/
  | spurEqualiserTrained (port : Nat) (ppm : Int) (fault atten dist : Nat)
  /-- SPUR_RUNG_AGREED (R462): Both ends report the same rung, chosen from SNR and MARGIN. -/
  | spurRungAgreed (port : Nat) (snr farSnr : Int)
  /-- SPUR_BLOCK_LOCK (R461): 256 consecutive valid headers complete block and LDPC lock. -/
  | spurBlockLock (port : Nat)
  /-- SPUR_DATA_MODE (R461): The first 16 time-transfer measurements complete and data mode begins. -/
  | spurDataMode (port : Nat)
  /-- SPUR_STEP_TIMEOUT (R461): A training step over its limit returns the port to step 2. -/
  | spurStepTimeout (port : Nat)
  /-- FAST_RETRAIN (R463): Low SNR for 10 ms or 16 failed blocks in 1 ms trigger a fast retrain. -/
  | fastRetrain (port : Nat) (cause : RetrainCause) (snr farSnr : Int)
  /-- UPSHIFT (R464): SNR high for 60 s triggers a fast retrain to a faster rung. -/
  | upshift (port : Nat) (snr farSnr : Int)
  /-- SPUR_BLOCK_RECEIVE (R467): A received block's payload yields frames for the front-haul engine. -/
  | spurBlockReceive (port : Nat) (decodeOk : Bool) (frames : List RxFrame)
  /-- TIMING_BLOCK (R468): A timing block exchange updates the one-way delay median. -/
  | timingBlock (port t1 t4 returned asym : Nat)
  /-- BURST_MODE_ENTER (R469): No frame for IDLE_US puts the port into burst mode. -/
  | burstModeEnter (port : Nat)
  /-- BURST_SEND (R469): A burst is sent when frames queue or every 10 ms. -/
  | burstSend (port : Nat)
  /-- BURST_PREAMBLE_RECEIVE (R470): A burst preamble is received; a stronger one or a failed header abandons it. -/
  | burstPreambleReceive (port peak : Nat) (header : Option Bool) (frames : List RxFrame)
  /-- SPUR_ENERGY_DETECT (R471): Line energy in STILL arms wake pattern listening or wakes with ED_WAKE. -/
  | spurEnergyDetect (port : Nat)
  /-- SPUR_WAKE_PATTERN (R471): A wake pattern's code wakes the device or is counted as rejected. -/
  | spurWakePattern (port code : Nat)
  /-- FRAME_BOUNDARY (R466): At a carrier frame boundary at which a spur port's path load fits its rung, shedding of carrier instances stops. -/
  | frameBoundary (ru carrier : Nat)
  /-- FAB_LOAD (R493): FAB_LOAD ACTION 0 starts loading a verified image into a fabric tile. -/
  | fabLoad (m : TcsMsg) (fab slot drainMs : Nat)
  /-- FAB_UNLOAD (R493): FAB_LOAD ACTION 1 stops and clears a fabric tile. -/
  | fabUnload (m : TcsMsg) (fab drainMs : Nat)
  /-- FAB_REARM (R495): FAB_LOAD ACTION 2 re-arms shut-down long lines. -/
  | fabRearm (m : TcsMsg) (fab line : Nat)
  /-- FAB_IMAGE_VERIFY (R493): The image is read and its signature and static checks done, then STOPPING begins. -/
  | fabImageVerify (fab : Nat) (image : Option FabImage)
  /-- FAB_DRAIN_END (R493): Bound FIFOs empty or DRAIN_MS passes; GSR is asserted and configuration written. -/
  | fabDrainEnd (fab : Nat)
  /-- FAB_GSR_RELEASE (R491): Configuration complete, GSR is released and the design enters RUN. -/
  | fabGsrRelease (fab : Nat)
  /-- FAB_STATUS (R495): FAB_STATUS returns a fabric tile's state, flags, hash and shut-down lines. -/
  | fabStatus (m : TcsMsg) (fab : Nat)
  /-- LONG_LINE_CONTENTION (R495): Two drivers on a long line for 0.5 ns shut the line down. -/
  | longLineContention (fab line : Nat) (drivers : List Nat)
  /-- QC_WRITE (R484): User logic writes a queue controller FIFO, ignored and flagged when FULL. -/
  | qcWrite (fab n : Nat) (word : BitVec 72)
  /-- QC_READ (R484): User logic reads a queue controller FIFO, flagged when EMPTY. -/
  | qcRead (fab n : Nat)
  /-- QC_PUSH (R486): A DSQ_PUSH controller pushes its head entry, which is accepted or refused. -/
  | qcPush (fab n : Nat)
  /-- PUSH_RETRY (R486): A PUSH_RETRY pulse re-enables a refused DSQ_PUSH controller. -/
  | pushRetry (fab n : Nat)
  /-- QC_POP (R487): A DSQ_POP controller pops up to 16 entries when it has room. -/
  | qcPop (fab n : Nat)
  /-- QC_POP_RETRY (R487): A pop returning no entries is repeated after 256 ns. -/
  | qcPopRetry (fab n : Nat)
  /-- FAB_TARGET_REQUEST (R488): A NoC request to the fabric window goes to user logic on P0 or P1. -/
  | fabTargetRequest (r : Requester) (addr : Nat) (write : Bool) (n : Nat)
  /-- FAB_TARGET_TIMEOUT (R488): Unanswered after FAB_TGT_TO, the port answers DECODE_ERR. -/
  | fabTargetTimeout (fab id : Nat)
  /-- FAB_TARGET_ANSWER (R488): User logic answers a target request on a fabric NoC port, and the port sends the response, or discards the answer after a time-out. -/
  | fabTargetAnswer (fab id : Nat) (data : List Byte)
  /-- FAB_INITIATOR_REQUEST (R488): User logic issues a NoC read or write through an initiator port. -/
  | fabInitiatorRequest (fab : Nat) (port1 write : Bool) (addr n : Nat) (data : List Byte)
  /-- BRAM_PORT_ACCESS (R481): A block RAM port access reads or writes, resolving collisions. -/
  | bramPortAccess (fab block : Nat) (a b : Option PortOp)
  /-- POWER_STATE_SET_ACTIVE (R505): POWER_STATE_SET STATE 1 wakes every sleeping DSP and ACC tile, one every 2 µs. -/
  | powerStateSetActive (m : TcsMsg) (settleUs rekeepUs : Nat)
  /-- POWER_STATE_SET_LULL (R506): POWER_STATE_SET STATE 2 puts the device into LULL. -/
  | powerStateSetLull (m : TcsMsg) (settleUs rekeepUs : Nat)
  /-- POWER_STATE_SET_STILL (R510): POWER_STATE_SET STATE 3 runs phase A of STILL entry and commits. -/
  | powerStateSetStill (m : TcsMsg) (resume settleUs rekeepUs : Nat)
  /-- POWER_STATE_SET_PMBUS (R512): POWER_STATE_SET KIND 2 stores a PMBus converter entry. -/
  | powerStateSetPmbus (m : TcsMsg) (entry addr page role flags nomMv busKhz : Nat)
  /-- STILL_PHASE_B (R510): 1 ms after commit, the IOTs, CTL, spines and pads stop and STILL is reached. -/
  | stillPhaseB 
  /-- SETTLE_TIMEOUT (R508): A participant still busy after SETTLE_US refuses and the request is rolled back. -/
  | settleTimeout 
  /-- ISLAND_SLEEP_ENTER (R501): A draining island owing nothing enters KEEP, HALT or OFF. -/
  | islandSleepEnter (tile : Nat)
  /-- TILE_IDLE_SLEEP (R506): In LULL a tile idle for REKEEP_US goes to sleep. -/
  | tileIdleSleep (tile : Nat)
  /-- SCRUB_WAKE (R506): A sleeping tile whose scrub age reaches its interval is woken for a scrub pass. -/
  | scrubWake (tile : Nat)
  /-- TILE_START (R505): Staggered tile starts proceed one every 2 µs. -/
  | tileStart 
  /-- IVR_READY (R513): Regulators reach their run codes during a wake. -/
  | ivrReady (island : Nat)
  /-- OSC_READY (R513): Clock generators lock during a wake. -/
  | oscReady (island : Nat)
  /-- MEM_READY (R513): Retention checks and zeroing complete during a wake. -/
  | memReady (island canary hbmCanary : Nat)
  /-- LOGIC_READY (R513): Flip-flops restore, local time realigns and the ejection port reopens. -/
  | logicReady (island : Nat)
  /-- WAKE_STEP_TIMEOUT (R514): A ready signal missing for twice its limit repeats the wake, then fails the island. -/
  | wakeStepTimeout (island : Nat)
  /-- ALARM_SET (R518): ALARM_SET arms or disarms the alarm. -/
  | alarmSet (m : TcsMsg) (sec ns flags : Nat)
  /-- ALARM_FIRE (R518): Device time reaches the alarm, waking from STILL or setting ALARM_PASSED. -/
  | alarmFire 
  /-- MGT_ENERGY_WAKE (R516): Signal on an MGT lane for 100 µs in STILL wakes the device. -/
  | mgtEnergyWake (port : Fin 2)
  /-- MGT_WAKE_FRAME (R516): A wake frame on an MGT lane in STILL wakes the device or is rejected. -/
  | mgtWakeFrame (port : Fin 2) (code : Nat)
  /-- SUPPLY_WARNING (R521): VIN_CORE below 1.710 V sets DROOP, stretches clocks and pauses NVM writes. -/
  | supplyWarning (mv : Nat)
  /-- SUPPLY_LOW (R521): A warning lasting 100 ms sets SUPPLY_LOW. -/
  | supplyLow 
  /-- SUPPLY_RECOVERY (R521): VIN_CORE above 1.730 V for 10 µs restores clocks and redoes interrupted NVM writes. -/
  | supplyRecovery (minMv redo : Nat)
  /-- SUPPLY_RESET (R523): VIN_CORE below 1.620 V for 1 µs resets the device. -/
  | supplyReset (below900 : Bool)
  /-- THROTTLE_STEP (R525): A hot island's MULT is lowered every 1 ms, then raised every 10 ms. -/
  | throttleStep (tile : Nat) (temp : Int)
  /-- AVS_UPDATE (R498): Every 1 ms the power manager moves each island's voltage code. -/
  | avsUpdate (tile code : Nat)
  /-- PMBUS_POLL (R527): Every 10 ms the PMBus master reads every enabled converter entry. -/
  | pmbusPoll (entry : Nat) (ans : Option PmbReading)
  /-- PMBUS_ALERT (R527): PMB_ALERT_N low makes the master read every STATUS_WORD within 1 ms. -/
  | pmbusAlert (words : List (Nat × Nat))
  /-- PMBUS_ABSENT_POLL (R527): An ABSENT entry is polled once per second. -/
  | pmbusAbsentPoll (entry : Nat) (ans : Option PmbReading)
  /-- PMBUS_TRIM (R528): Every 10 ms VIN_CORE converters are trimmed toward 1.800 V. -/
  | pmbusTrim (vinMv : Nat)
  /-- POWER_STATUS (R530): POWER_STATUS returns state, supplies, wake records and converters. -/
  | powerStatus (m : TcsMsg)
  /-- RETENTION_MONITOR_LATCH (R497): During KEEP an island supply falls below 0.460 V and its retention monitor latches, which later fails its banks at wake. -/
  | retentionMonitorLatch (island mv : Nat)
  /-- CLOCK_STRETCH (R499): A droop in an island's own supply makes its clock generator stretch cycles within 2 cycles and count them in ISL_STRETCH. -/
  | clockStretch (tile cycles : Nat)
  /-- PORST_N (R578): A low level on PORST_N of 10 µs resets the device as a power-on reset. -/
  | porstN (lowUs : Nat)
  /-- POWER_ON_RESET (R532): Release of reset runs the boot ROM, verifies and starts the Gaffer and brings up PARISON service or recovery. -/
  | powerOnReset (b : BootInfo)
  /-- HBM_TRAINING (R539): HBM stack training completes, is retried once, or leaves the device in PARISON service. -/
  | hbmTraining (q : Nat) (pass : Bool)
  /-- PARISON_TIME_CONDITION (R537): The servo locking, or 300 s without a reference, lets Q0 tiles rise and carriers move to full service. -/
  | parisonTimeCondition 
  /-- IMAGE_LOAD (R549): IMAGE_LOAD verifies a DSP image, writes its segments and core registers and extends MEAS5. -/
  | imageLoad (m : TcsMsg) (slot : Nat) (img : DspImage) (nandUe : Bool)
  /-- TASK_START (R550): TASK_START pushes an image's start task to a TASK queue. -/
  | taskStart (m : TcsMsg) (imgid qid : Nat)
  /-- TASK_STOP (R549): TASK_STOP terminates every task running on an image's cores. -/
  | taskStop (m : TcsMsg) (imgid : Nat)
  /-- IMAGE_STATUS (R550): IMAGE_STATUS returns every loaded image's slot, hash, version and cores. -/
  | imageStatus (m : TcsMsg)
  /-- ATTEST_QUOTE (R544): ATTEST_QUOTE returns selected measurements signed with the identity key. -/
  | attestQuote (m : TcsMsg) (nonce : List Byte) (mask : Nat)
  /-- KEY_ENROL_ENROL (R546): KEY_ENROL ACTION 1 enrols a DSP or fabric key in an empty slot. -/
  | keyEnrolEnrol (m : TcsMsg) (kind slot : Nat) (pubkey : List Byte)
  /-- KEY_ENROL_REVOKE (R546): KEY_ENROL ACTION 2 revokes a DSP or fabric key slot. -/
  | keyEnrolRevoke (m : TcsMsg) (kind slot : Nat)
  /-- HOSTKEY_ENROL_ENROL (R546): HOSTKEY_ENROL ACTION 1 enrols a host key. -/
  | hostkeyEnrolEnrol (m : TcsMsg) (kind slot : Nat) (pubkey : List Byte)
  /-- HOSTKEY_ENROL_REVOKE (R546): HOSTKEY_ENROL ACTION 2 revokes a host slot and ends its sessions. -/
  | hostkeyEnrolRevoke (m : TcsMsg) (kind slot : Nat)
  /-- DEBUG_LOCK (R551): DEBUG_LOCK changes the debug level, blowing the seal fuse for level 2. -/
  | debugLock (m : TcsMsg) (level : Nat)
  /-- DEBUG_BREAK (R551): At debug level OPEN a BREAK or halt from the debug port stops a DSP core with the BREAK cause or debug halt. -/
  | debugBreak (tile core : Nat) (halt : Bool)
  /-- IMAGE_STAGE (R560): IMAGE_STAGE writes one chunk of an image to a NAND or MRAM slot. -/
  | imageStage (m : TcsMsg) (slot flags offset total : Nat) (data : List Byte) (g : GafferImage) (programOk eraseOk : Bool)
  /-- JOURNAL_READ (R564): JOURNAL_READ returns journal records from a JSEQ. -/
  | journalRead (m : TcsMsg) (from_ : Nat) (count : Nat)
  /-- JOURNAL_RECORD (R563): A journal record is chained and written to the MRAM staging ring or buffered. -/
  | journalRecord (rtype severity source : Nat) (body : List Byte)
  /-- JOURNAL_COPY (R563): When a page fills or every 1 s the Lehr copies journal records to NAND. -/
  | journalCopy (programOk eraseOk : Bool)
  /-- STATIC_LEVELLING (R556): Hourly the Lehr moves data when erase counts differ by over 500. -/
  | staticLevelling (eraseOk : Bool)
  /-- NAND_PATROL (R558): Every 7 days the Lehr patrol-reads written codewords and refreshes weak blocks. -/
  | nandPatrol (block stage corrected : Nat) (authOk eraseOk : Bool) (records : List Nat)
  /-- TELEMETRY_FRAME (R570): Every 1 ms the Lehr writes a telemetry frame to its ring. -/
  | telemetryFrame (counts items : List (Nat × Nat × Word))
  /-- TELEMETRY_READ (R571): TELEMETRY_READ returns telemetry frames from a sample number. -/
  | telemetryRead (m : TcsMsg) (from_ count stride : Nat)
  /-- AUXDAC_OFFSET_TRIM (R568): Every 60 s the Lehr trims an AUXDAC offset by at most 1 LSB. -/
  | auxdacOffsetTrim (ch : Nat) (step : Int)
  /-- SOFT_FUSE_UPKEEP (R568): Every 24 h the Lehr checks soft-fuse entry CRCs and invalidates failures. -/
  | softFuseUpkeep 
  /-- LEHR_BUDGET (R569): A LEHR_BUDGET write resets every tile's BACKGROUND bucket within 1 ms. -/
  | lehrBudget (r : Requester) (value : Word)
  /-- LEHR_LAG (R569): A Lehr duty whose age reaches twice its interval sets its LEHR_LAG bit and LEHR_EVT.LAG_SEEN. -/
  | lehrLag (duty : Nat)
  /-- DAC_CODE (R594): A DAC_CODE write holds a pending code for the next load event. -/
  | dacCode (r : Requester) (ch : Nat) (value : Word)
  /-- DAC_CFG (R593): A DAC_CFG write configures a channel, ignored for MODE and GROUP while enabled. -/
  | dacCfg (r : Requester) (ch : Nat) (value : Word)
  /-- DAC_LD_N (R594): A falling edge on DAC_LD_N loads every pending code of enabled groups. -/
  | dacLdN (lowNs : Nat)
  /-- DAC_CLR_N (R595): DAC_CLR_N low for 100 ns drives every enabled channel to its clear code. -/
  | dacClrN (lowNs : Nat)
  /-- DAC_CLR_N_RELEASE (R595): DAC_CLR_N rises and channels hold their clear code until their group's next load. -/
  | dacClrNRelease 
  /-- VDAC_LOW (R592): VDAC falls below 4.5 V, setting DAC_STAT.VDAC_LOW and making the outputs undefined, or rises again and clears it. -/
  | vdacLow (low : Bool)
  /-- DAC_COMPLIANCE (R593): A current-mode channel's output needs more than 3.0 V, setting its COMPLY and COMPLY_SEEN bits, or comes back within compliance. -/
  | dacCompliance (ch : Nat) (exceeded : Bool)
  /-- THERMTRIP (R580): An island at 120 °C pulls THERMTRIP_N low and holds the device in reset. -/
  | thermtrip (island : Nat) (temp : Int)
  /-- WAKE_BUS_MESSAGE (R591): A decoded wake bus message with matching address wakes the device. -/
  | wakeBusMessage (start : Nat) (symbols : List (Nat × Nat)) (stop : Nat)
  deriving DecidableEq, Repr

end Sys2Proof
end

