-- ==== Sys2Proof/Decode.lean ====
section
/-! DEFINITION. The operation table gives no row any bits: commands reach the device as register accesses, messages and
events, not as words, so no word spells one. -/

namespace Sys2Proof

/-- The command that a word spells by the table's bits: no row of the table gives bits. -/
def decodeTableWord (nbits w : Nat) : Option Instr :=
  match nbits, w with
  | _, _ => none

end Sys2Proof
end

