-- ==== Sys2Proof/Machine/Bits.lean ====
section
/-! DEFINITION. Bit fields, byte order (R11, R63: little-endian), saturation, rounding and the operations of the
sparse maps. -/

namespace Sys2Proof

/-- Bits [hi:lo] of a natural number (the notation of R8). -/
def bitsOf (n hi lo : Nat) : Nat := (n >>> lo) % 2 ^ (hi + 1 - lo)

/-- Field [hi:lo] of a register word. -/
def fld (w : Word) (hi lo : Nat) : Nat := bitsOf w.toNat hi lo

/-- Bit `i` of a register word. -/
def bit (w : Word) (i : Nat) : Bool := w.getLsbD i

/-- A register word with field [hi:lo] replaced by the low bits of `v`. -/
def setFld (w : Word) (hi lo v : Nat) : Word :=
  let m := (2 ^ (hi + 1 - lo) - 1) <<< lo
  (w &&& ~~~(BitVec.ofNat 32 m)) ||| BitVec.ofNat 32 ((v % 2 ^ (hi + 1 - lo)) <<< lo)

/-- A register word with bit `i` set to `b`. -/
def setBit (w : Word) (i : Nat) (b : Bool) : Word := setFld w i i (if b then 1 else 0)

/-- The mask with bit `i` set. -/
def bitMask (i : Nat) : Word := BitVec.ofNat 32 (2 ^ i)

/-- 0 or 1. -/
def b2n (b : Bool) : Nat := if b then 1 else 0

/-- The two's-complement value of the low `w` bits of `n`. -/
def toSigned (w n : Nat) : Int :=
  let m := n % 2 ^ w
  if m < 2 ^ (w - 1) then (m : Int) else (m : Int) - (2 ^ w : Nat)

/-- The `w`-bit two's-complement encoding of `x`. -/
def ofSigned (w : Nat) (x : Int) : Nat := (x % ((2 ^ w : Nat) : Int)).toNat

/-- `x` saturated to the signed range of `w` bits. -/
def satSigned (w : Nat) (x : Int) : Int :=
  max (-((2 ^ (w - 1) : Nat) : Int)) (min (((2 ^ (w - 1) : Nat) : Int) - 1) x)

/-- `x` clamped to `lo` .. `hi`. -/
def clampInt (lo hi x : Int) : Int := max lo (min hi x)

/-- Counters saturate at the largest value of their width (R14). -/
def satAdd (w a b : Nat) : Nat := min (a + b) (2 ^ w - 1)

/-- `⌈a / b⌉`. -/
def ceilDiv (a b : Nat) : Nat := (a + b - 1) / b

/-- `x / 2^k` rounded to the nearest integer, ties to even (convergent rounding). -/
def rneShift (x : Int) (k : Nat) : Int :=
  if k = 0 then x else
  let d : Int := ((2 ^ k : Nat) : Int)
  let q := x.fdiv d
  let r := x - q * d
  let h : Int := ((2 ^ (k - 1) : Nat) : Int)
  if r < h then q else if r > h then q + 1 else if q % 2 = 0 then q else q + 1

/-- `x / d` rounded to the nearest integer, ties to even; 0 when `d` is 0. -/
def rneDiv (x : Int) (d : Nat) : Int :=
  if d = 0 then 0 else
  let q := x.fdiv (d : Int)
  let r := x - q * (d : Int)
  if 2 * r < d then q else if 2 * r > d then q + 1 else if q % 2 = 0 then q else q + 1

/-- The integer square root by bits: the largest r below 2^n with r² ≤ m. -/
def isqrt (m : Nat) : Nat → Nat
  | 0 => 0
  | n + 1 => go n 0
where
  /-- Try bit `n` and those below it. -/
  go : Nat → Nat → Nat
    | 0, r => if (r + 1) * (r + 1) ≤ m then r + 1 else r
    | n + 1, r => let t := r + 2 ^ (n + 1); go n (if t * t ≤ m then t else r)

/-- The `n` low bytes of `v`, least significant first (R63). -/
def leBytes : Nat → Nat → List Byte
  | 0, _ => []
  | n + 1, v => BitVec.ofNat 8 v :: leBytes n (v / 256)

/-- The number spelled by bytes, least significant first (R63). -/
def leVal : List Byte → Nat
  | [] => 0
  | b :: bs => b.toNat + 256 * leVal bs

/-- The low 32 bits of a 64-bit value. -/
def lo32 (d : DWord) : Word := d.setWidth 32
/-- The high 32 bits of a 64-bit value. -/
def hi32 (d : DWord) : Word := (d >>> 32).setWidth 32
/-- A 64-bit value from its two halves. -/
def dw (hi lo : Word) : DWord := hi ++ lo

/-- Two words are complements of each other (R15, R16). -/
def isPair (v c : Word) : Bool := c == ~~~v

/-- Indexes of the set bits of `m` below `n`. -/
def setBits (m n : Nat) : List Nat := (List.range n).filter fun i => m.testBit i

/-! ### Sparse maps -/

/-- The value at key `k`. -/
def mget {α : Type} (k : Nat) : FMap α → Option α
  | [] => none
  | (j, v) :: m => if j = k then some v else mget k m

/-- The value at key `k`, or `d` where none is listed. -/
def mgetD {α : Type} (d : α) (m : FMap α) (k : Nat) : α := (mget k m).getD d

/-- The map with `v` at key `k`, keys strictly rising. -/
def mset {α : Type} (k : Nat) (v : α) : FMap α → FMap α
  | [] => [(k, v)]
  | (j, w) :: m => if k < j then (k, v) :: (j, w) :: m else if k = j then (k, v) :: m
                   else (j, w) :: mset k v m

/-- The map without key `k`. -/
def mdel {α : Type} (k : Nat) : FMap α → FMap α
  | [] => []
  | (j, w) :: m => if k = j then m else (j, w) :: mdel k m

/-- The map with the value at `k` (by default `d`) changed by `f`. -/
def mupd {α : Type} (d : α) (k : Nat) (f : α → α) (m : FMap α) : FMap α := mset k (f (mgetD d m k)) m

/-- Some value is listed at `k`. -/
def mhas {α : Type} (m : FMap α) (k : Nat) : Bool := (mget k m).isSome

/-- The keys of a map. -/
def mkeys {α : Type} (m : FMap α) : List Nat := m.map Prod.fst
/-- The values of a map. -/
def mvals {α : Type} (m : FMap α) : List α := m.map Prod.snd

/-- The smallest number below `n` that satisfies `p`. -/
def firstBelow (n : Nat) (p : Nat → Bool) : Option Nat := (List.range n).find? p

/-- Replace element `i` of a list. -/
def lset {α : Type} (l : List α) (i : Nat) (v : α) : List α := l.set i v
/-- Change element `i` of a list. -/
def lupd {α : Type} (l : List α) (i : Nat) (f : α → α) : List α := l.modify i f

/-- CRC-32 of IEEE 802.3 over bytes (reflected, polynomial 0xEDB88320), bit by bit. -/
def crcBit (c : Word) : Word := if c.getLsbD 0 then (c >>> 1) ^^^ 0xEDB88320#32 else c >>> 1
/-- One byte into the CRC register. -/
def crcByte (c : Word) (b : Byte) : Word :=
  (List.range 8).foldl (fun c _ => crcBit c) (c ^^^ b.setWidth 32)
/-- The CRC-32 of a byte list. -/
def crc32 (bs : List Byte) : Word := ~~~(bs.foldl crcByte 0xFFFFFFFF#32)

end Sys2Proof
end

