-- ==== Sys2Proof/Machine/Geometry.lean ====
section
/-! DEFINITION. The configurations (R2), the tile map and its distances (R347, R348, R353), the physical address map
(R365 to R369), and the tiles that serve the global blocks (R602). -/

namespace Sys2Proof.Machine

/-- Width of the torus (R348). -/
def torusW : Part → Nat
  | .fa960 => 12 | .fb480 => 12 | .fb240 => 6
/-- Height of the torus (R348). -/
def torusH : Part → Nat
  | .fa960 => 12 | .fb480 => 6 | .fb240 => 6

/-- Quadrant `q` is present (R2). -/
def quadPresent : Part → Nat → Bool
  | .fa960, q => q < 4 | .fb480, q => q < 2 | .fb240, q => q < 1

/-- QPRESENT of DEV_QMASK (R6). -/
def qmask : Part → Nat
  | .fa960 => 0xF | .fb480 => 0x3 | .fb240 => 0x1

/-- PART of DEV_ID (R6). -/
def partNumber : Part → Nat
  | .fa960 => 0x0960 | .fb480 => 0x0480 | .fb240 => 0x0240

/-- The tile map of R347, one list per row y. -/
def tileRows : List (List TileKind) :=
  [ [.iot 0, .mem, .dsp, .dsp, .dsp, .dsp, .dsp, .dsp, .dsp, .dsp, .mem, .iot 2],
    [.iot 1, .dsp, .dsp, .acc .fft, .dsp, .dsp, .dsp, .dsp, .acc .fft, .dsp, .dsp, .iot 3],
    [.dsp, .dsp, .dsq 0, .acc .eq, .dsp, .dsp, .dsp, .dsp, .acc .eq, .dsq 1, .dsp, .dsp],
    [.dsp, .acc .fec, .dsp, .dsp, .fab 0, .dsp, .dsp, .fab 1, .dsp, .dsp, .acc .fec, .dsp],
    [.dsp, .dsp, .acc .mix, .dsp, .dsp, .ctlG, .acc .eq, .dsp, .dsp, .acc .fft, .dsp, .dsp],
    [.mem, .dsp, .dsp, .ctlH, .dsp, .dsp, .dsp, .dsp, .acc .fec, .dsp, .dsp, .mem],
    [.mem, .dsp, .dsp, .acc .fec, .dsp, .dsp, .dsp, .dsp, .acc .fec, .dsp, .dsp, .mem],
    [.dsp, .dsp, .acc .prs, .dsp, .dsp, .acc .eq, .acc .prs, .dsp, .dsp, .acc .leg, .dsp, .dsp],
    [.dsp, .acc .fec, .dsp, .dsp, .fab 2, .dsp, .dsp, .fab 3, .dsp, .dsp, .acc .fec, .dsp],
    [.dsp, .dsp, .dsq 2, .acc .eq, .dsp, .dsp, .dsp, .dsp, .acc .eq, .dsq 3, .dsp, .dsp],
    [.iot 5, .dsp, .dsp, .acc .fft, .dsp, .dsp, .dsp, .dsp, .acc .fft, .dsp, .dsp, .iot 7],
    [.iot 4, .mem, .dsp, .dsp, .dsp, .dsp, .dsp, .dsp, .dsp, .dsp, .mem, .iot 6] ]

/-- The kind of tile `t` in the KXT-960-FA numbering, which every part keeps (R3, R347). -/
def tileKindOf (t : Nat) : TileKind := ((tileRows.getD (t / 12) []).getD (t % 12) .dsp)

/-- The quadrant of tile `t` (R347). -/
def tileQuad (t : Nat) : Nat := (if t % 12 < 6 then 0 else 1) + (if t / 12 < 6 then 0 else 2)

/-- Tile `t` exists in the part (R2, R4). -/
def tilePresent (p : Part) (t : Nat) : Bool := t < 144 && quadPresent p (tileQuad t)

/-- Tile `t` is a present DSP tile. -/
def isDsp (p : Part) (t : Nat) : Bool := tilePresent p t && tileKindOf t == .dsp
/-- Tile `t` is a present IOT tile. -/
def isIot (p : Part) (t : Nat) : Bool :=
  tilePresent p t && (match tileKindOf t with | .iot _ => true | _ => false)
/-- The subtype of tile `t` when it is a present ACC tile. -/
def accKind (p : Part) (t : Nat) : Option AccKind :=
  if tilePresent p t then (match tileKindOf t with | .acc k => some k | _ => none) else none

/-- The ACC tiles of the part. -/
def accTiles (p : Part) : List Nat := (List.range 144).filter fun t => (accKind p t).isSome
/-- The DSP tiles of the part. -/
def dspTiles (p : Part) : List Nat := (List.range 144).filter (isDsp p)
/-- The DSP tiles of quadrant `q` (24 in each). -/
def quadDspTiles (q : Nat) : List Nat :=
  (List.range 144).filter fun t => tileQuad t == q && tileKindOf t == .dsp

/-- How many FFT tiles the part has (R2, R38). -/
def fftTiles : Part → Nat
  | .fa960 => 5 | .fb480 => 3 | .fb240 => 1

/-- Ring distance of two coordinates on a ring of `n` (R353). -/
def ringDist (n a b : Nat) : Nat :=
  let d := if a ≤ b then b - a else a - b
  min d (n - d)

/-- The hop count of R353; a packet to its own tile counts one hop. -/
def hops (p : Part) (a b : Nat) : Nat :=
  if a = b then 1
  else ringDist (torusW p) (a % 12) (b % 12) + ringDist (torusH p) (a / 12) (b / 12)

/-- The tile of IOT `k` (R347, R602). -/
def iotTile : Nat → Nat
  | 0 => 0 | 1 => 12 | 2 => 11 | 3 => 23 | 4 => 132 | 5 => 120 | 6 => 143 | _ => 131
/-- The tile of dispatcher `q` (R602). -/
def dsqTile : Nat → Nat
  | 0 => 26 | 1 => 33 | 2 => 110 | _ => 117
/-- The tile of FAB `f` (R347). -/
def fabTile : Nat → Nat
  | 0 => 40 | 1 => 43 | 2 => 100 | _ => 103
/-- The quadrant of IOT `k`: IOT 0 and 1 in Q0, 2 and 3 in Q1, 4 and 5 in Q2, 6 and 7 in Q3 (R347). -/
def iotQuad (k : Nat) : Nat := tileQuad (iotTile k)
/-- IOT `k` exists in the part. -/
def iotPresent (p : Part) (k : Nat) : Bool := k < 8 && quadPresent p (iotQuad k)
/-- CTL-G, which runs the Gaffer (R347). -/
def ctlG : Nat := 53
/-- CTL-H, the housekeeping tile (R347). -/
def ctlH : Nat := 63

/-- The two MEM tiles of quadrant `q` (R368). -/
def memTiles : Nat → Nat × Nat
  | 0 => (1, 60) | 1 => (10, 71) | 2 => (133, 72) | _ => (142, 83)

/-- Base of a tile window (R365). -/
def winBase (t : Nat) : Nat := 0x010000000000 + t * 0x10000000
/-- Base of the global register blocks (R365). -/
def globBase : Nat := 0x020000000000
/-- Base of the HBM stack of quadrant `q` (R365). -/
def hbmBase (q : Nat) : Nat := q * 0x600000000
/-- Base of MRAM (R365). -/
def mramBase : Nat := 0x030000000000
/-- Base of the fabric window of FAB `f` (R365). -/
def fabWin (f : Nat) : Nat := 0x040000000000 + f * 0x100000000

/-- Bytes of SRAM in a tile (R367). -/
def sramSize : TileKind → Nat
  | .dsp | .acc _ | .iot _ | .fab _ => 0x200000
  | .dsq _ => 0x800000
  | .ctlG | .ctlH => 0x400000
  | .mem => 0x100000

/-- The MEM tile that serves an HBM address (R368). -/
def memTileOf (a : Nat) : Nat :=
  let m := memTiles (a / 0x600000000)
  if (a >>> 8) % 2 = 0 then m.1 else m.2

/-- The first byte of terminal context `i` (R369). -/
def ctxAddr (i : Nat) : Nat := hbmBase (i / 262144) + 0x5E0000000 + (i % 262144) * 0x800

/-- Which register block an address lies in, with the offset inside the block. -/
inductive Block where
  | dev | pwr | time | dac | wake | sem | lehr | nvs | sec
  | dsq (q : Nat) | eth (iot port : Nat) | sd (iot lane : Nat) | wfq (iot : Nat) | ptp (iot port : Nat)
  | spur (port : Nat) | fab (f : Nat)
  | tileSub (t : Nat) | dma (t : Nat) | cq (t : Nat) | ecc (t : Nat) | isl (t : Nat) | inj (t : Nat) | ltime (t : Nat)
  | mbx | acc (t : Nat) | memc (t : Nat) | fh (t : Nat) | typeSpec (t : Nat)
  | core (t c : Nat)
  deriving DecidableEq, Repr

/-- What an address names (R365, R367). -/
inductive Place where
  | hbm (q : Nat)
  | sram (t : Nat)
  | mram
  | fabw (f : Nat)
  | regs (b : Block) (off : Nat)
  | nowhere
  deriving DecidableEq, Repr

/-- The block at a global offset (R365). Past the four FABs the FAB control block holds no register (R13). -/
def globalPlace (p : Part) (off : Nat) : Place :=
  let o := off % 0x10000
  match off / 0x10000 with
  | 0 => .regs .dev o | 1 => .regs .pwr o | 2 => .regs .time o | 3 => .regs .dac o
  | 4 => .regs .wake o | 5 => .regs .sem o | 6 => .regs .lehr o | 7 => .regs .nvs o
  | 8 => .regs .sec o
  | n =>
    if 0x10 ≤ n ∧ n < 0x14 then (if quadPresent p (n - 0x10) then .regs (.dsq (n - 0x10)) o else .nowhere)
    else if 0x20 ≤ n ∧ n < 0x28 then
      let k := n - 0x20
      if iotPresent p k then
        if o < 0x4000 then .regs (.eth k (o / 0x200)) (o % 0x200)
        else if o < 0x8000 then .regs (.sd k ((o - 0x4000) / 0x200)) (o % 0x200)
        else if o < 0xC000 then .regs (.wfq k) (o - 0x8000)
        else .regs (.ptp k ((o - 0xC000) / 0x100)) (o % 0x100)
      else .nowhere
    else if n = 0x30 then .regs (.spur (o / 0x100)) (o % 0x100)
    else if n = 0x31 then
      (if o / 0x1000 < 4 && !quadPresent p (o / 0x1000) then .nowhere
       else .regs (.fab (o / 0x1000)) (o % 0x1000))
    else .nowhere

/-- The unit at an offset of a tile window (R367). -/
def windowPlace (t o : Nat) : Place :=
  let k := tileKindOf t
  if o < sramSize k then .sram t
  else if 0x8000000 ≤ o ∧ o < 0x8007000 then
    let r := o % 0x1000
    match (o - 0x8000000) / 0x1000, k with
    | 0, _ => .regs (.tileSub t) r
    | 1, .ctlG => .nowhere | 1, .ctlH => .nowhere | 1, .dsq _ => .nowhere
    | 1, _ => .regs (.dma t) r
    | 2, .dsp => .regs (.cq t) r | 2, _ => .nowhere
    | 3, _ => .regs (.ecc t) r
    | 4, _ => .regs (.isl t) r
    | 5, _ => .regs (.inj t) r
    | _, _ => .regs (.ltime t) r
  else if 0x8008000 ≤ o ∧ o < 0x8010000 then
    let r := o - 0x8008000
    match k with
    | .ctlG => .regs .mbx r
    | .acc _ => .regs (.acc t) r
    | .mem => .regs (.memc t) r
    | .iot _ => .regs (.fh t) r
    | _ => .regs (.typeSpec t) r
  else if 0xC000000 ≤ o ∧ o < 0xC400000 ∧ k = .dsp then
    .regs (.core t ((o - 0xC000000) / 0x100000)) (o % 0x100000)
  else .nowhere

/-- The physical address map of the part (R365, R4). -/
def placeOf (p : Part) (a : Nat) : Place :=
  if a < 0x1800000000 then
    let q := a / 0x600000000
    if quadPresent p q then .hbm q else .nowhere
  else if 0x010000000000 ≤ a ∧ a < 0x010900000000 then
    let t := (a - 0x010000000000) / 0x10000000
    if tilePresent p t then windowPlace t (a % 0x10000000) else .nowhere
  else if 0x020000000000 ≤ a ∧ a < 0x020100000000 then globalPlace p (a - 0x020000000000)
  else if 0x030000000000 ≤ a ∧ a < 0x030001000000 then .mram
  else if 0x040000000000 ≤ a ∧ a < 0x040400000000 then
    let f := (a - 0x040000000000) / 0x100000000
    if quadPresent p f then .fabw f else .nowhere
  else .nowhere

/-- The tile that answers an access to a place (R602, R368, R365). -/
def serverOf (a : Nat) : Place → Nat
  | .hbm _ => memTileOf a
  | .sram t => t
  | .mram => ctlH
  | .fabw f => fabTile f
  | .regs (.dsq q) _ => dsqTile q
  | .regs (.eth k _) _ | .regs (.sd k _) _ | .regs (.wfq k) _ | .regs (.ptp k _) _ => iotTile k
  | .regs (.spur _) _ => 12
  | .regs (.tileSub t) _ | .regs (.dma t) _ | .regs (.cq t) _ | .regs (.ecc t) _
  | .regs (.isl t) _ | .regs (.inj t) _ | .regs (.ltime t) _ | .regs (.acc t) _
  | .regs (.memc t) _ | .regs (.fh t) _ | .regs (.typeSpec t) _ | .regs (.core t _) _ => t
  | .regs .mbx _ => ctlG
  | .regs _ _ => ctlH
  | .nowhere => ctlH

/-! Block bases, for the named registers. -/

/-- TIME block (R454). -/
def timeBase : Nat := globBase + 0x20000
/-- PWR block (R531). -/
def pwrBase : Nat := globBase + 0x10000
/-- WAKE block (R531). -/
def wakeBase : Nat := globBase + 0x40000
/-- DAC block (R597). -/
def dacBase : Nat := globBase + 0x30000
/-- LEHR block (R572). -/
def lehrBase : Nat := globBase + 0x60000
/-- NVS block (R572). -/
def nvsBase : Nat := globBase + 0x70000
/-- DSQ block of quadrant `q` (R230). -/
def dsqBase (q : Nat) : Nat := globBase + 0x100000 + q * 0x10000
/-- IOT block `k` (R411). -/
def iotBase (k : Nat) : Nat := globBase + 0x200000 + k * 0x10000
/-- ETH registers of a port; port 4 is the MGT port (R411). -/
def ethBase (k p : Nat) : Nat := iotBase k + 0x200 * p
/-- SD registers of a lane (R411). -/
def sdBase (k l : Nat) : Nat := iotBase k + 0x4000 + 0x200 * l
/-- WFQ sub-block (R428). -/
def wfqBase (k : Nat) : Nat := iotBase k + 0x8000
/-- PTP registers of a port (R456). -/
def ptpBase (k p : Nat) : Nat := iotBase k + 0xC000 + 0x100 * p
/-- SPUR registers of a port (R473). -/
def spurBase (p : Nat) : Nat := globBase + 0x300000 + 0x100 * p
/-- FAB control registers of FAB `f` (R496). -/
def fabBase (f : Nat) : Nat := globBase + 0x310000 + 0x1000 * f
/-- On-chip mailbox block (R100). -/
def mbxBase : Nat := winBase 53 + 0x8008000
/-- DMA block of a tile (R346). -/
def dmaBase (t : Nat) : Nat := winBase t + 0x8001000
/-- CQ block of a DSP tile (R322). -/
def cqBase (t : Nat) : Nat := winBase t + 0x8002000
/-- ECC sub-block (R391). -/
def eccBase (t : Nat) : Nat := winBase t + 0x8003000
/-- ISL sub-block (R531). -/
def islBase (t : Nat) : Nat := winBase t + 0x8004000
/-- INJ sub-block (R364). -/
def injBase (t : Nat) : Nat := winBase t + 0x8005000
/-- LTIME sub-block (R455). -/
def ltimeBase (t : Nat) : Nat := winBase t + 0x8006000
/-- Type-specific block (R367): ACC, MEMC or front-haul. -/
def typeBase (t : Nat) : Nat := winBase t + 0x8008000

end Sys2Proof.Machine
end

