-- ==== Sys2Proof/Machine/RegMap.lean ====
section
/-! DEFINITION. The register map: every register of every block with its offset, access code (R14), writable and
write-one-to-clear bits, and reset value, as the register tables of the specification give them. Assumption log: 11
(DESIGN CHOICE). -/

namespace Sys2Proof.Machine

/-- How a register answers a read or write (R14). RO and W1C registers and registers whose access is given per
field are `rw` rows whose masks name the bits a write reaches. -/
inductive RegKind where
  | rw | rc | wo | cp
  deriving DecidableEq, Repr

/-- One row of a register table: `n` registers from offset `off`, `stride` bytes apart; `rw` the bits a write
sets, `w1c` the bits a 1 clears, `rst` the reset value (R14). -/
structure RegRow where
  name : String
  off : Nat
  n : Nat
  stride : Nat
  kind : RegKind
  wide : Bool
  rw : Nat
  w1c : Nat
  rst : Nat
  deriving DecidableEq, Repr

/-- Registers of the DEV (R6) block. -/
def rowsDev : List RegRow :=
  [ ⟨"DEV_ID", 0x0, 1, 0x4, .rw, false, 0x0, 0x0, 0x0⟩,
    ⟨"DEV_QMASK", 0x4, 1, 0x4, .rw, false, 0x0, 0x0, 0x0⟩ ]

/-- Registers of the SEM (R84) block. -/
def rowsSem : List RegRow :=
  [ ⟨"SEM_HOLDER", 0x0, 64, 0x4, .rw, false, 0x0, 0x0, 0x0⟩ ]

/-- Registers of the on-chip mailboxes (R100) block. -/
def rowsMbx : List RegRow :=
  [ ⟨"MBX_ALLOC", 0x0, 1, 0x4, .rc, false, 0x0, 0x0, 0x0⟩,
    ⟨"MBX_DONE", 0x4, 1, 0x4, .rw, false, 0x0, 0xFFFFFFFF, 0x0⟩,
    ⟨"MBX_PTR", 0x100, 32, 0x20, .rw, true, 0xFFFFFFFF, 0x0, 0x0⟩,
    ⟨"MBX_CTRL", 0x108, 32, 0x20, .rw, false, 0xC000FFFF, 0x0, 0x0⟩,
    ⟨"MBX_DOORBELL", 0x10C, 32, 0x20, .wo, false, 0x0, 0x0, 0x0⟩,
    ⟨"MBX_STAT", 0x110, 32, 0x20, .rw, false, 0x0, 0x0, 0x0⟩,
    ⟨"MBX_FREE", 0x114, 32, 0x20, .wo, false, 0x0, 0x0, 0x0⟩ ]

/-- Registers of the front-haul counters, from offset 0 of the type-specific block (R116) block. -/
def rowsFh : List RegRow :=
  [ ⟨"ETH_FH_STAT", 0x800, 1, 0x4, .rw, false, 0x0, 0x3F, 0x0⟩,
    ⟨"ETH_FH_LATE", 0x804, 1, 0x4, .rc, false, 0x0, 0x0, 0x0⟩,
    ⟨"ETH_FH_MISSING", 0x808, 1, 0x4, .rc, false, 0x0, 0x0, 0x0⟩,
    ⟨"ETH_FH_DUP", 0x80C, 1, 0x4, .rc, false, 0x0, 0x0, 0x0⟩,
    ⟨"ETH_FH_EXPSAT", 0x810, 1, 0x4, .rc, false, 0x0, 0x0, 0x0⟩,
    ⟨"ETH_FH_NOBUF", 0x814, 1, 0x4, .rc, false, 0x0, 0x0, 0x0⟩,
    ⟨"ETH_FH_DL_LATE", 0x818, 1, 0x4, .rc, false, 0x0, 0x0, 0x0⟩,
    ⟨"ETH_FH_LAST", 0x81C, 1, 0x4, .rw, false, 0x0, 0x0, 0x0⟩,
    ⟨"ETH_FH_RXWIN", 0x820, 1, 0x4, .rw, false, 0x0, 0x0, 0x14⟩ ]

/-- Registers of the DSQ (R230) block. -/
def rowsDsq : List RegRow :=
  [ ⟨"DSQ_STAT", 0x0, 1, 0x4, .rw, false, 0x0, 0x7E, 0x0⟩,
    ⟨"DSQ_CTRL", 0x4, 1, 0x4, .rw, false, 0x10F, 0x0, 0x100⟩,
    ⟨"DSQ_CORES", 0x8, 1, 0x4, .rw, false, 0x0, 0x0, 0x0⟩,
    ⟨"DSQ_Q_SEL", 0x10, 1, 0x4, .rw, false, 0xFFFF, 0x0, 0x0⟩,
    ⟨"DSQ_Q_CFG", 0x14, 1, 0x4, .rw, false, 0xBDF00000, 0x0, 0x0⟩,
    ⟨"DSQ_Q_WM", 0x18, 1, 0x4, .rw, false, 0xFFFFFFFF, 0x0, 0x0⟩,
    ⟨"DSQ_Q_LIMIT", 0x1C, 1, 0x4, .rw, false, 0xFFFF0007, 0x0, 0x0⟩,
    ⟨"DSQ_Q_RING", 0x20, 1, 0x8, .rw, true, 0xFFFFFFFF, 0x0, 0x0⟩,
    ⟨"DSQ_Q_FILL", 0x28, 1, 0x4, .rw, false, 0x0, 0x0, 0x0⟩,
    ⟨"DSQ_Q_RESV", 0x2C, 1, 0x4, .rw, false, 0x0, 0x0, 0x0⟩,
    ⟨"DSQ_Q_TARGET", 0x30, 1, 0x4, .rw, false, 0xFF000000, 0x0, 0x0⟩,
    ⟨"DSQ_FLOW_SEL", 0x40, 1, 0x4, .rw, false, 0xFFF, 0x0, 0x0⟩,
    ⟨"DSQ_FLOW_CFG", 0x44, 1, 0x4, .rw, false, 0xC0FFFFFF, 0x0, 0x0⟩,
    ⟨"DSQ_FLOW_STAT", 0x48, 1, 0x4, .rw, false, 0x0, 0x0, 0x0⟩,
    ⟨"DSQ_FLOW_LATE", 0x4C, 1, 0x4, .rw, false, 0x0, 0x0, 0x0⟩,
    ⟨"DSQ_NOW", 0x50, 1, 0x8, .rw, true, 0x0, 0x0, 0x0⟩,
    ⟨"DSQ_CNT_DISPATCH", 0x100, 1, 0x4, .rc, false, 0x0, 0x0, 0x0⟩,
    ⟨"DSQ_CNT_LATE", 0x104, 1, 0x4, .rc, false, 0x0, 0x0, 0x0⟩,
    ⟨"DSQ_CNT_CATCHUP", 0x108, 1, 0x4, .rc, false, 0x0, 0x0, 0x0⟩,
    ⟨"DSQ_CNT_STALE", 0x10C, 1, 0x4, .rc, false, 0x0, 0x0, 0x0⟩,
    ⟨"DSQ_CNT_BP", 0x110, 1, 0x4, .rc, false, 0x0, 0x0, 0x0⟩,
    ⟨"DSQ_CNT_DEMOTE", 0x114, 1, 0x4, .rc, false, 0x0, 0x0, 0x0⟩,
    ⟨"DSQ_MAX_LAT", 0x118, 1, 0x4, .rc, false, 0x0, 0x0, 0x0⟩,
    ⟨"DSQ_CRUMB_CTRL", 0x200, 1, 0x4, .rw, false, 0x0, 0x0, 0x0⟩,
    ⟨"DSQ_CRUMB_QRANGE", 0x204, 1, 0x4, .rw, false, 0x0, 0x0, 0xFFFF0000⟩,
    ⟨"DSQ_CRUMB_BASE", 0x208, 1, 0x8, .rw, true, 0x0, 0x0, 0x0⟩,
    ⟨"DSQ_CRUMB_SIZE", 0x210, 1, 0x4, .rw, false, 0x0, 0x0, 0x10⟩,
    ⟨"DSQ_CRUMB_WPTR", 0x214, 1, 0x4, .rw, false, 0x0, 0x0, 0x0⟩,
    ⟨"DSQ_CRUMB_LOST", 0x218, 1, 0x4, .rc, false, 0x0, 0x0, 0x0⟩ ]

/-- Registers of the core-private (R278) block. -/
def rowsCore : List RegRow :=
  [ ⟨"CORE_CTRL", 0x0, 1, 0x4, .rw, false, 0x7, 0x0, 0x3⟩,
    ⟨"CORE_STAT", 0x4, 1, 0x4, .rw, false, 0x0, 0x0, 0x0⟩,
    ⟨"CORE_FLAGS", 0x8, 1, 0x4, .rw, false, 0xDF, 0x0, 0x0⟩,
    ⟨"CORE_ESTAT", 0xC, 1, 0x4, .rw, false, 0x1DF, 0x0, 0x0⟩,
    ⟨"CORE_EPC", 0x10, 1, 0x8, .rw, true, 0xFFFFFFFF, 0x0, 0x0⟩,
    ⟨"CORE_EADDR", 0x18, 1, 0x8, .rw, true, 0xFFFFFFFF, 0x0, 0x0⟩,
    ⟨"CORE_EVEC", 0x20, 1, 0x8, .rw, true, 0xFFFFFFFF, 0x0, 0x0⟩,
    ⟨"CORE_ECAUSE", 0x28, 1, 0x4, .rw, false, 0xFF, 0x0, 0x0⟩,
    ⟨"CORE_EINFO", 0x2C, 1, 0x4, .rw, false, 0xFFFFFFFF, 0x0, 0x0⟩,
    ⟨"CORE_IPEND", 0x30, 1, 0x4, .rw, false, 0x0, 0x1C, 0x0⟩,
    ⟨"CORE_IMASK", 0x34, 1, 0x4, .rw, false, 0x3F, 0x0, 0x3F⟩,
    ⟨"CORE_EREP", 0x38, 1, 0x4, .rw, false, 0x1FFF, 0x0, 0x0⟩,
    ⟨"CORE_TERM", 0x3C, 1, 0x4, .rw, false, 0x0, 0x0, 0x0⟩,
    ⟨"CORE_TASK_Q", 0x40, 1, 0x4, .rw, false, 0x0, 0x0, 0x0⟩,
    ⟨"CORE_TASK_ID", 0x44, 1, 0x4, .rw, false, 0x0, 0x0, 0x0⟩,
    ⟨"CORE_TASK_CLASS", 0x48, 1, 0x4, .rw, false, 0x0, 0x0, 0x0⟩,
    ⟨"CORE_TASK_S", 0x4C, 1, 0x4, .rw, false, 0x0, 0x0, 0x100⟩,
    ⟨"CORE_TASK_DL", 0x50, 1, 0x8, .rw, true, 0x0, 0x0, 0x0⟩,
    ⟨"CORE_TASK_ENTRY", 0x58, 1, 0x8, .rw, true, 0x0, 0x0, 0x0⟩,
    ⟨"CORE_TASK_ARG", 0x60, 1, 0x8, .rw, true, 0x0, 0x0, 0x0⟩,
    ⟨"CORE_CYCLE", 0x80, 1, 0x8, .rw, true, 0x0, 0x0, 0x0⟩,
    ⟨"CORE_RETIRED", 0x88, 1, 0x8, .rw, true, 0x0, 0x0, 0x0⟩,
    ⟨"CORE_TIMER", 0x90, 1, 0x8, .rw, true, 0xFFFFFFFF, 0x0, 0x0⟩,
    ⟨"CORE_BANKSTALL", 0x98, 1, 0x4, .rc, false, 0x0, 0x0, 0x0⟩,
    ⟨"CORE_MISPRED", 0x9C, 1, 0x4, .rc, false, 0x0, 0x0, 0x0⟩,
    ⟨"CORE_RUNAHEAD", 0xA0, 1, 0x4, .rc, false, 0x0, 0x0, 0x0⟩,
    ⟨"MPU_BASE", 0x100, 16, 0x20, .rw, true, 0xFFFFFFFF, 0x0, 0x0⟩,
    ⟨"MPU_LIMIT", 0x108, 16, 0x20, .rw, true, 0xFFFFFFFF, 0x0, 0x0⟩,
    ⟨"MPU_ATTR", 0x110, 16, 0x20, .rw, false, 0x800000FF, 0x0, 0x0⟩,
    ⟨"MPU_CTRL", 0x300, 1, 0x4, .rw, false, 0x3, 0x0, 0x0⟩ ]

/-- Registers of the ACC (R321) block. -/
def rowsAcc : List RegRow :=
  [ ⟨"ACC_INFO", 0x0, 1, 0x4, .rw, false, 0x0, 0x0, 0x0⟩,
    ⟨"ACC_CTRL", 0x4, 1, 0x4, .rw, false, 0xFFFF00FF, 0x0, 0x0⟩,
    ⟨"ACC_STAT", 0x8, 1, 0x4, .rw, false, 0x0, 0x1E, 0x0⟩,
    ⟨"ACC_BUSY", 0xC, 1, 0x4, .rw, false, 0x0, 0x0, 0x0⟩,
    ⟨"ACC_CNT_JOBS", 0x10, 1, 0x4, .rc, false, 0x0, 0x0, 0x0⟩,
    ⟨"ACC_CNT_FAIL", 0x14, 1, 0x4, .rc, false, 0x0, 0x0, 0x0⟩,
    ⟨"ACC_CNT_ABORT", 0x18, 1, 0x4, .rc, false, 0x0, 0x0, 0x0⟩,
    ⟨"ACC_CNT_CANCEL", 0x1C, 1, 0x4, .rc, false, 0x0, 0x0, 0x0⟩,
    ⟨"ACC_CNT_SAT", 0x20, 1, 0x4, .rc, false, 0x0, 0x0, 0x0⟩,
    ⟨"ACC_LAST_FAIL", 0x28, 1, 0x8, .rw, true, 0x0, 0x0, 0x0⟩,
    ⟨"ACC_LAST_STATUS", 0x30, 1, 0x4, .rw, false, 0x0, 0x0, 0x0⟩ ]

/-- Registers of the CQ (R322) block. -/
def rowsCq : List RegRow :=
  [ ⟨"CQ_RESULT", 0x0, 256, 0x4, .rw, false, 0x0, 0x0, 0x0⟩,
    ⟨"CQ_STAT", 0x400, 4, 0x4, .rw, false, 0x0, 0x0, 0x0⟩,
    ⟨"CQ_CNT_CANCEL", 0x410, 4, 0x4, .rc, false, 0x0, 0x0, 0x0⟩,
    ⟨"CQ_CNT_LATE", 0x420, 4, 0x4, .rc, false, 0x0, 0x0, 0x0⟩ ]

/-- Registers of the DMA (R346) block. -/
def rowsDma : List RegRow :=
  [ ⟨"DMA_CH_CTRL", 0x0, 16, 0x80, .rw, false, 0x7FFE0000, 0x0, 0x40000000⟩,
    ⟨"DMA_CH_STAT", 0x4, 16, 0x80, .rw, false, 0x0, 0x0, 0x0⟩,
    ⟨"DMA_CH_PC", 0x8, 16, 0x80, .rw, true, 0xFFFFFFFF, 0x0, 0x0⟩,
    ⟨"DMA_CH_DOORBELL", 0x10, 16, 0x80, .wo, false, 0x0, 0x0, 0x0⟩,
    ⟨"DMA_CH_ARESULT", 0x14, 16, 0x80, .rw, false, 0x0, 0x0, 0x0⟩,
    ⟨"DMA_CH_STREAM", 0x18, 16, 0x80, .rw, false, 0xC000FFFF, 0x0, 0x0⟩,
    ⟨"DMA_CH_PROG", 0x1C, 16, 0x80, .rw, false, 0x0, 0x0, 0x0⟩,
    ⟨"DMA_ERR_ADDR", 0x20, 16, 0x80, .rw, true, 0x0, 0x0, 0x0⟩,
    ⟨"DMA_ERR_INFO", 0x28, 16, 0x80, .rw, false, 0x0, 0x0, 0x0⟩,
    ⟨"DMA_CH_DBRED", 0x2C, 16, 0x80, .rc, false, 0x0, 0x0, 0x0⟩,
    ⟨"DMA_CH_AR0", 0x30, 16, 0x80, .rw, true, 0x0, 0x0, 0x0⟩,
    ⟨"DMA_CH_AR1", 0x38, 16, 0x80, .rw, true, 0x0, 0x0, 0x0⟩,
    ⟨"DMA_CH_AR2", 0x40, 16, 0x80, .rw, true, 0x0, 0x0, 0x0⟩,
    ⟨"DMA_CH_AR3", 0x48, 16, 0x80, .rw, true, 0x0, 0x0, 0x0⟩,
    ⟨"DMA_CH_LC0", 0x50, 16, 0x80, .rw, false, 0x0, 0x0, 0x0⟩,
    ⟨"DMA_CH_LC1", 0x54, 16, 0x80, .rw, false, 0x0, 0x0, 0x0⟩,
    ⟨"DMA_CH_LC2", 0x58, 16, 0x80, .rw, false, 0x0, 0x0, 0x0⟩,
    ⟨"DMA_CH_LC3", 0x5C, 16, 0x80, .rw, false, 0x0, 0x0, 0x0⟩,
    ⟨"DMA_CH_START", 0x60, 16, 0x80, .rw, true, 0x0, 0x0, 0x0⟩,
    ⟨"DMA_CH_BYTES", 0x68, 16, 0x80, .rw, true, 0x0, 0x0, 0x0⟩,
    ⟨"DMA_ENG_INFO", 0x800, 1, 0x4, .rw, false, 0x0, 0x0, 0x0⟩,
    ⟨"DMA_ENG_HALTED", 0x804, 1, 0x4, .rw, false, 0x0, 0x0, 0x0⟩,
    ⟨"DMA_ENG_PARKED", 0x808, 1, 0x4, .rw, false, 0x0, 0x0, 0x0⟩,
    ⟨"DMA_EVT", 0x80C, 1, 0x4, .rw, false, 0x0, 0xFFFFFFFF, 0x0⟩,
    ⟨"DMA_EVT_SET", 0x810, 1, 0x4, .wo, false, 0x0, 0x0, 0x0⟩ ]

/-- Registers of the INJ (R364) block. -/
def rowsInj : List RegRow :=
  [ ⟨"NOC_STAT", 0x0, 1, 0x4, .rw, false, 0x0, 0xF, 0x0⟩,
    ⟨"NOC_PORT", 0x4, 1, 0x4, .rw, false, 0x0, 0x0, 0x0⟩,
    ⟨"NOC_INJ_CFG", 0x10, 4, 0x8, .rw, false, 0xFFF0FFFF, 0x0, 0xFFF0FFFF⟩,
    ⟨"NOC_INJ_TOKENS", 0x14, 4, 0x8, .rw, false, 0x0, 0x0, 0x3FFC00⟩,
    ⟨"NOC_CNT_WAIT", 0x40, 4, 0x4, .rc, false, 0x0, 0x0, 0x0⟩,
    ⟨"NOC_CNT_RET_SENT", 0x50, 1, 0x4, .rc, false, 0x0, 0x0, 0x0⟩,
    ⟨"NOC_CNT_RET_RCVD", 0x54, 1, 0x4, .rc, false, 0x0, 0x0, 0x0⟩,
    ⟨"NOC_CNT_DROP", 0x58, 1, 0x4, .rc, false, 0x0, 0x0, 0x0⟩,
    ⟨"NOC_CNT_LINK_RETRY", 0x5C, 1, 0x4, .rc, false, 0x0, 0x0, 0x0⟩,
    ⟨"NOC_CNT_DECODE", 0x60, 1, 0x4, .rc, false, 0x0, 0x0, 0x0⟩ ]

/-- Registers of the ECC (R391) block. -/
def rowsEcc : List RegRow :=
  [ ⟨"ECC_STAT", 0x0, 1, 0x4, .rw, false, 0x0, 0x1F, 0x0⟩,
    ⟨"ECC_CLR", 0x4, 1, 0x4, .wo, false, 0x0, 0x0, 0x0⟩,
    ⟨"ECC_CE_CNT", 0x8, 1, 0x4, .rw, false, 0x0, 0x0, 0x0⟩,
    ⟨"ECC_UE_CNT", 0xC, 1, 0x4, .rw, false, 0x0, 0x0, 0x0⟩,
    ⟨"ECC_CACHE_CNT", 0x10, 1, 0x4, .rw, false, 0x0, 0x0, 0x0⟩,
    ⟨"ECC_POISON_WR", 0x14, 1, 0x4, .rw, false, 0x0, 0x0, 0x0⟩,
    ⟨"ECC_CLOG_LOST", 0x18, 1, 0x4, .rw, false, 0x0, 0x0, 0x0⟩,
    ⟨"ECC_RET_FAIL", 0x1C, 1, 0x4, .rw, false, 0x0, 0x0, 0x0⟩,
    ⟨"ECC_SCRUB_AGE", 0x20, 1, 0x4, .rw, false, 0x0, 0x0, 0x0⟩,
    ⟨"ECC_INJ", 0x24, 1, 0x4, .rw, false, 0xFF800000, 0x0, 0x0⟩,
    ⟨"ECC_CLOG_ADDR", 0x100, 16, 0x20, .rw, true, 0x0, 0x0, 0x0⟩,
    ⟨"ECC_CLOG_INFO", 0x108, 16, 0x20, .rw, false, 0x0, 0x80000000, 0x0⟩,
    ⟨"ECC_CLOG_TIME", 0x110, 16, 0x20, .rw, true, 0x0, 0x0, 0x0⟩ ]

/-- Registers of the MEMC (R393) block. -/
def rowsMemc : List RegRow :=
  [ ⟨"MEMC_STAT", 0x0, 1, 0x4, .rw, false, 0x0, 0x1B, 0x0⟩,
    ⟨"MEMC_CLR", 0x4, 1, 0x4, .wo, false, 0x0, 0x0, 0x0⟩,
    ⟨"MEMC_CE_CNT", 0x8, 1, 0x4, .rw, false, 0x0, 0x0, 0x0⟩,
    ⟨"MEMC_UE_CNT", 0xC, 1, 0x4, .rw, false, 0x0, 0x0, 0x0⟩,
    ⟨"MEMC_ONDIE_CE", 0x10, 1, 0x4, .rw, false, 0x0, 0x0, 0x0⟩,
    ⟨"MEMC_POISON_WR", 0x14, 1, 0x4, .rw, false, 0x0, 0x0, 0x0⟩,
    ⟨"MEMC_RET_FAIL", 0x18, 1, 0x4, .rw, false, 0x0, 0x0, 0x0⟩,
    ⟨"MEMC_SCRUB_AGE", 0x1C, 1, 0x4, .rw, false, 0x0, 0x0, 0x0⟩,
    ⟨"MEMC_SCRUB_PTR", 0x20, 1, 0x8, .rw, true, 0x0, 0x0, 0x0⟩,
    ⟨"MEMC_PPR", 0x28, 1, 0x4, .rw, false, 0x0, 0x0, 0x0⟩,
    ⟨"MEMC_INJ", 0x2C, 1, 0x4, .rw, false, 0xFF800000, 0x0, 0x0⟩ ]

/-- Registers of the ETH, per port (R411) block. -/
def rowsEth : List RegRow :=
  [ ⟨"ETH_MODE", 0x0, 1, 0x4, .rw, false, 0x13F, 0x0, 0x0⟩,
    ⟨"ETH_STAT", 0x4, 1, 0x4, .rw, false, 0x0, 0x0, 0x0⟩,
    ⟨"ETH_EVT", 0x8, 1, 0x4, .rw, false, 0x0, 0x7, 0x0⟩,
    ⟨"ETH_SKEW", 0xC, 1, 0x4, .rw, false, 0x0, 0x0, 0x0⟩,
    ⟨"ETH_CNT_LINKDOWN", 0x10, 1, 0x4, .rc, false, 0x0, 0x0, 0x0⟩,
    ⟨"ETH_CNT_BRINGUP_FAIL", 0x14, 1, 0x4, .rc, false, 0x0, 0x0, 0x0⟩,
    ⟨"ETH_FEC_CW", 0x18, 1, 0x8, .rw, true, 0x0, 0x0, 0x0⟩,
    ⟨"ETH_FEC_CORR", 0x20, 1, 0x8, .rw, true, 0x0, 0x0, 0x0⟩,
    ⟨"ETH_FEC_UNCORR", 0x28, 1, 0x8, .rw, true, 0x0, 0x0, 0x0⟩,
    ⟨"ETH_RX_FRAMES", 0x30, 1, 0x8, .rw, true, 0x0, 0x0, 0x0⟩,
    ⟨"ETH_TX_FRAMES", 0x38, 1, 0x8, .rw, true, 0x0, 0x0, 0x0⟩,
    ⟨"ETH_RX_FCSERR", 0x40, 1, 0x4, .rc, false, 0x0, 0x0, 0x0⟩,
    ⟨"ETH_RX_SIZEERR", 0x44, 1, 0x4, .rc, false, 0x0, 0x0, 0x0⟩,
    ⟨"ETH_RX_UNBOUND", 0x48, 1, 0x4, .rc, false, 0x0, 0x0, 0x0⟩,
    ⟨"ETH_TX_DISC", 0x4C, 1, 0x4, .rc, false, 0x0, 0x0, 0x0⟩,
    ⟨"ETH_PAUSE_RX", 0x50, 1, 0x4, .rc, false, 0x0, 0x0, 0x0⟩ ]

/-- Registers of the SD, per lane (R411) block. -/
def rowsSd : List RegRow :=
  [ ⟨"SD_CFG", 0x0, 1, 0x4, .rw, false, 0x17, 0x0, 0x0⟩,
    ⟨"SD_STAT", 0x4, 1, 0x4, .rw, false, 0x0, 0x0, 0x0⟩,
    ⟨"SD_EVT", 0x8, 1, 0x4, .rw, false, 0x0, 0x7, 0x0⟩,
    ⟨"SD_TXEQ", 0xC, 1, 0x4, .rw, false, 0xFFFFFFFF, 0x0, 0x3F00⟩,
    ⟨"SD_RXEQ", 0x10, 1, 0x4, .rw, false, 0x0, 0x0, 0x0⟩,
    ⟨"SD_EYE", 0x14, 1, 0x4, .rw, false, 0xFF0000, 0x0, 0x100000⟩,
    ⟨"SD_PRBS_CTRL", 0x18, 1, 0x4, .rw, false, 0xC000000F, 0x0, 0x0⟩,
    ⟨"SD_LPBK", 0x1C, 1, 0x4, .rw, false, 0x3, 0x0, 0x0⟩,
    ⟨"SD_PRBS_ERR", 0x20, 1, 0x8, .rw, true, 0x0, 0x0, 0x0⟩,
    ⟨"SD_PRBS_BITS", 0x28, 1, 0x8, .rw, true, 0x0, 0x0, 0x0⟩,
    ⟨"SD_CNT_LOL", 0x30, 1, 0x4, .rc, false, 0x0, 0x0, 0x0⟩ ]

/-- Registers of the WFQ (R428) block. -/
def rowsWfq : List RegRow :=
  [ ⟨"WFQ_STAT", 0x0, 1, 0x4, .rw, false, 0x0, 0x1F, 0x0⟩,
    ⟨"WFQ_PORT_STAT", 0x10, 4, 0x4, .rw, false, 0x0, 0x0, 0x0⟩,
    ⟨"WFQ_TEL_BASE", 0x40, 1, 0x8, .rw, true, 0xFFFFFFFF, 0x0, 0x0⟩,
    ⟨"WFQ_TEL_SIZE", 0x48, 1, 0x4, .rw, false, 0x1F, 0x0, 0x10⟩,
    ⟨"WFQ_TEL_WPTR", 0x4C, 1, 0x4, .rw, false, 0x0, 0x0, 0x0⟩,
    ⟨"WFQ_TEL_LOST", 0x50, 1, 0x4, .rc, false, 0x0, 0x0, 0x0⟩,
    ⟨"WFQ_TL_LATE", 0x54, 1, 0x4, .rc, false, 0x0, 0x0, 0x0⟩,
    ⟨"WFQ_TL_SLIP", 0x58, 1, 0x4, .rc, false, 0x0, 0x0, 0x0⟩,
    ⟨"WFQ_TL_PAUSED", 0x5C, 1, 0x4, .rc, false, 0x0, 0x0, 0x0⟩,
    ⟨"WFQ_BADENT", 0x60, 1, 0x4, .rc, false, 0x0, 0x0, 0x0⟩,
    ⟨"WFQ_Q_SEL", 0x80, 1, 0x4, .rw, false, 0xFFFF, 0x0, 0x0⟩,
    ⟨"WFQ_Q_CFG", 0x84, 1, 0x4, .rw, false, 0xFEF70000, 0x0, 0x0⟩,
    ⟨"WFQ_Q_WEIGHT", 0x88, 1, 0x4, .rw, false, 0xFFFF, 0x0, 0x1⟩,
    ⟨"WFQ_Q_FTAG", 0x90, 1, 0x8, .rw, true, 0x0, 0x0, 0x0⟩,
    ⟨"WFQ_Q_BYTES", 0x98, 1, 0x8, .rw, true, 0x0, 0x0, 0x0⟩,
    ⟨"WFQ_VT0", 0x100, 4, 0x20, .rw, true, 0x0, 0x0, 0x0⟩,
    ⟨"WFQ_VT1", 0x108, 4, 0x20, .rw, true, 0x0, 0x0, 0x0⟩,
    ⟨"WFQ_VT2", 0x110, 4, 0x20, .rw, true, 0x0, 0x0, 0x0⟩,
    ⟨"WFQ_VT3", 0x118, 4, 0x20, .rw, true, 0x0, 0x0, 0x0⟩ ]

/-- Registers of the TIME (R454) block. -/
def rowsTime : List RegRow :=
  [ ⟨"TIME_STAT", 0x0, 1, 0x4, .rw, false, 0xEE00FF00, 0x0, 0x0⟩,
    ⟨"TIME_EVT", 0x4, 1, 0x4, .rw, false, 0x0, 0x3F, 0x0⟩,
    ⟨"TIME_NOW_FRAC", 0x10, 1, 0x8, .rw, true, 0x0, 0x0, 0x0⟩,
    ⟨"TIME_NOW_SEC", 0x18, 1, 0x8, .rw, true, 0x0, 0x0, 0x0⟩,
    ⟨"TIME_RATE", 0x20, 1, 0x8, .rw, true, 0xFFFFFFFF, 0x0, 0x0⟩,
    ⟨"TIME_OFFSET", 0x28, 1, 0x8, .rw, true, 0xFFFFFFFF, 0x0, 0x0⟩,
    ⟨"TIME_JUMP_LIMIT", 0x30, 1, 0x4, .rw, false, 0xFFFFFFFF, 0x0, 0x64⟩,
    ⟨"TIME_STEP_OFS", 0x40, 1, 0x8, .rw, true, 0xFFFFFFFF, 0x0, 0x0⟩,
    ⟨"TIME_STEP_SUB", 0x48, 1, 0x4, .rw, false, 0xFFFF, 0x0, 0x0⟩,
    ⟨"TIME_STEP_CTRL", 0x50, 1, 0x4, .cp, false, 0x0, 0x0, 0x0⟩,
    ⟨"TIME_STEP_CTRL_C", 0x54, 1, 0x4, .cp, false, 0x0, 0x0, 0xFFFFFFFF⟩,
    ⟨"TIME_STEP_CNT", 0x58, 1, 0x4, .rw, false, 0x0, 0x0, 0x0⟩,
    ⟨"TIME_HO_CFG", 0x60, 1, 0x4, .rw, false, 0xC7000000, 0x0, 0x0⟩,
    ⟨"TIME_HO_CODE", 0x64, 1, 0x4, .rw, false, 0x0, 0x0, 0x0⟩,
    ⟨"TIME_HO_SLOPE", 0x68, 1, 0x4, .rw, false, 0xFFFFFFFF, 0x0, 0x0⟩,
    ⟨"TIME_PPS_CFG", 0x70, 1, 0x4, .rw, false, 0xE000FFFF, 0x0, 0x0⟩,
    ⟨"TIME_PPS_IN_ERR", 0x74, 1, 0x4, .rw, false, 0x0, 0x0, 0x0⟩,
    ⟨"TIME_TEV_SEC", 0x80, 4, 0x20, .rw, true, 0xFFFFFFFF, 0x0, 0x0⟩,
    ⟨"TIME_TEV_NS", 0x88, 4, 0x20, .rw, false, 0x3FFFFFFF, 0x0, 0x0⟩,
    ⟨"TIME_TEV_PERIOD", 0x8C, 4, 0x20, .rw, false, 0xFFFFFFFF, 0x0, 0x0⟩,
    ⟨"TIME_TEV_CFG", 0x90, 4, 0x20, .rw, false, 0xF00FFFFF, 0x8000000, 0x0⟩,
    ⟨"TIME_SYNCE", 0x100, 1, 0x4, .rw, false, 0x80FF0000, 0x0, 0x0⟩ ]

/-- Registers of the LTIME (R455) block. -/
def rowsLtime : List RegRow :=
  [ ⟨"LTIME_STAT", 0x0, 1, 0x4, .rw, false, 0x0, 0x0, 0x0⟩,
    ⟨"LTIME_NOW_FRAC", 0x8, 1, 0x8, .rw, true, 0x0, 0x0, 0x0⟩,
    ⟨"LTIME_NOW_SEC", 0x10, 1, 0x8, .rw, true, 0x0, 0x0, 0x0⟩,
    ⟨"LTIME_TRIM", 0x18, 1, 0x4, .rw, false, 0x0, 0x0, 0x0⟩ ]

/-- Registers of the PTP, per port (R456) block. -/
def rowsPtp : List RegRow :=
  [ ⟨"PTP_CFG", 0x0, 1, 0x4, .rw, false, 0xF0000000, 0x0, 0x0⟩,
    ⟨"PTP_STAT", 0x4, 1, 0x4, .rw, false, 0x0, 0x0, 0x0⟩,
    ⟨"PTP_TX_DLY", 0x8, 1, 0x4, .rw, false, 0x0, 0x0, 0x0⟩,
    ⟨"PTP_RX_DLY", 0xC, 1, 0x4, .rw, false, 0x0, 0x0, 0x0⟩,
    ⟨"PTP_ASYM", 0x10, 1, 0x4, .rw, false, 0xFFFFFFFF, 0x0, 0x0⟩,
    ⟨"PTP_LPRIO", 0x14, 1, 0x4, .rw, false, 0xFF, 0x0, 0x80⟩,
    ⟨"PTP_CNT_RX", 0x18, 1, 0x4, .rc, false, 0x0, 0x0, 0x0⟩,
    ⟨"PTP_CNT_TX", 0x1C, 1, 0x4, .rc, false, 0x0, 0x0, 0x0⟩,
    ⟨"PTP_CNT_DISC", 0x20, 1, 0x4, .rc, false, 0x0, 0x0, 0x0⟩,
    ⟨"PTP_MEAN_DELAY", 0x28, 1, 0x8, .rw, true, 0x0, 0x0, 0x0⟩ ]

/-- Registers of the SPUR, per port (R473) block. -/
def rowsSpur : List RegRow :=
  [ ⟨"SPUR_CFG", 0x0, 1, 0x4, .rw, false, 0xE03FFF00, 0x0, 0x201E00⟩,
    ⟨"SPUR_STAT", 0x4, 1, 0x4, .rw, false, 0x0, 0x0, 0x0⟩,
    ⟨"SPUR_EVT", 0x8, 1, 0x4, .rw, false, 0x0, 0x1F, 0x0⟩,
    ⟨"SPUR_SNR", 0xC, 1, 0x4, .rw, false, 0x0, 0x0, 0x0⟩,
    ⟨"SPUR_LINE", 0x10, 1, 0x4, .rw, false, 0x0, 0x0, 0x0⟩,
    ⟨"SPUR_DELAY", 0x14, 1, 0x4, .rw, false, 0x0, 0x0, 0x0⟩,
    ⟨"SPUR_IDLE", 0x18, 1, 0x4, .rw, false, 0xFFFF, 0x0, 0x3E8⟩,
    ⟨"SPUR_WAKE", 0x1C, 1, 0x4, .rw, false, 0xE000FFFF, 0x0, 0x0⟩,
    ⟨"SPUR_CNT_BLOCKS", 0x20, 1, 0x8, .rw, true, 0x0, 0x0, 0x0⟩,
    ⟨"SPUR_CNT_UNCORR", 0x28, 1, 0x8, .rw, true, 0x0, 0x0, 0x0⟩,
    ⟨"SPUR_CNT_RETRAIN", 0x30, 1, 0x4, .rc, false, 0x0, 0x0, 0x0⟩,
    ⟨"SPUR_CNT_FALSE_PRE", 0x34, 1, 0x4, .rc, false, 0x0, 0x0, 0x0⟩,
    ⟨"SPUR_CNT_FCS", 0x38, 1, 0x4, .rc, false, 0x0, 0x0, 0x0⟩,
    ⟨"SPUR_CNT_SHED", 0x3C, 1, 0x4, .rc, false, 0x0, 0x0, 0x0⟩,
    ⟨"SPUR_CNT_WAKE_REJ", 0x40, 1, 0x4, .rc, false, 0x0, 0x0, 0x0⟩ ]

/-- Registers of the FAB control, per tile (R496) block. -/
def rowsFab : List RegRow :=
  [ ⟨"FAB_STATE", 0x0, 1, 0x4, .rw, false, 0x0, 0x0, 0x0⟩,
    ⟨"FAB_EVT", 0x4, 1, 0x4, .rw, false, 0x0, 0x3F, 0x0⟩,
    ⟨"FAB_TGT_TO", 0x8, 1, 0x4, .rw, false, 0xFFFF, 0x0, 0xA⟩,
    ⟨"FAB_CNT_PUSH_REF", 0x10, 1, 0x4, .rc, false, 0x0, 0x0, 0x0⟩,
    ⟨"FAB_CNT_LOST", 0x14, 1, 0x4, .rc, false, 0x0, 0x0, 0x0⟩,
    ⟨"FAB_CNT_TGT_TO", 0x18, 1, 0x4, .rc, false, 0x0, 0x0, 0x0⟩,
    ⟨"FAB_CNT_COLL", 0x1C, 1, 0x4, .rc, false, 0x0, 0x0, 0x0⟩,
    ⟨"FAB_CNT_CONT", 0x20, 1, 0x4, .rc, false, 0x0, 0x0, 0x0⟩,
    ⟨"FAB_IMAGE_HASH", 0x40, 8, 0x4, .rw, false, 0x0, 0x0, 0x0⟩,
    ⟨"FAB_CONT_LINE", 0x80, 16, 0x4, .rw, false, 0x0, 0x0, 0x0⟩,
    ⟨"FAB_QC_STAT", 0x100, 64, 0x4, .rw, false, 0x0, 0x0, 0x0⟩ ]

/-- Registers of the PWR (R531) block. -/
def rowsPwr : List RegRow :=
  [ ⟨"PWR_STAT", 0x0, 1, 0x4, .rw, false, 0x0, 0x0, 0x0⟩,
    ⟨"PWR_EVT", 0x4, 1, 0x4, .rw, false, 0x0, 0xFF, 0x0⟩,
    ⟨"PWR_CTRL", 0x8, 1, 0x4, .rw, false, 0xFF00FFFF, 0x0, 0x690001F4⟩,
    ⟨"PWR_REQ", 0xC, 1, 0x4, .rw, false, 0x0, 0x0, 0x0⟩,
    ⟨"PWR_SUPPLY_EVT", 0x10, 1, 0x4, .rw, false, 0x0, 0x0, 0x0⟩,
    ⟨"PWR_SUPPLY_CNT", 0x14, 1, 0x4, .rc, false, 0x0, 0x0, 0x0⟩,
    ⟨"PWR_NVM_REDO", 0x18, 1, 0x4, .rc, false, 0x0, 0x0, 0x0⟩,
    ⟨"PWR_VIN", 0x1C, 1, 0x4, .rw, false, 0x0, 0x0, 0x0⟩,
    ⟨"PWR_TEMP_MAX", 0x20, 1, 0x4, .rw, false, 0x0, 0x0, 0x0⟩,
    ⟨"PWR_TSTATE", 0x40, 9, 0x4, .rw, false, 0x0, 0x0, 0x0⟩,
    ⟨"PWR_PMB_CFG", 0x80, 16, 0x8, .rw, false, 0x0, 0x0, 0x0⟩,
    ⟨"PWR_PMB_STAT", 0x84, 16, 0x8, .rw, false, 0x0, 0x0, 0x0⟩ ]

/-- Registers of the WAKE (R531) block. -/
def rowsWake : List RegRow :=
  [ ⟨"WAKE_CAUSE", 0x0, 1, 0x4, .rw, false, 0x0, 0x0, 0x0⟩,
    ⟨"WAKE_SRC", 0x4, 1, 0x4, .rw, false, 0x0, 0x0, 0x0⟩,
    ⟨"WAKE_EN", 0x8, 1, 0x4, .rw, false, 0xF, 0x0, 0x1⟩,
    ⟨"WAKE_MGT", 0xC, 1, 0x4, .rw, false, 0xF800FFFF, 0x0, 0x0⟩,
    ⟨"WAKE_BUS", 0x10, 1, 0x4, .rw, false, 0x800003FF, 0x0, 0x0⟩,
    ⟨"WAKE_ALARM_SEC", 0x18, 1, 0x8, .rw, true, 0xFFFFFFFF, 0x0, 0x0⟩,
    ⟨"WAKE_ALARM_NS", 0x20, 1, 0x4, .rw, false, 0xBFFFFFFF, 0x0, 0x0⟩,
    ⟨"WAKE_T_A", 0x24, 1, 0x4, .rw, false, 0x0, 0x0, 0x0⟩,
    ⟨"WAKE_T_B", 0x28, 1, 0x4, .rw, false, 0x0, 0x0, 0x0⟩,
    ⟨"WAKE_CNT", 0x2C, 1, 0x4, .rw, false, 0x0, 0x0, 0x0⟩,
    ⟨"WAKE_CNT_REJ", 0x30, 1, 0x4, .rc, false, 0x0, 0x0, 0x0⟩,
    ⟨"WAKE_FAIL", 0x40, 5, 0x4, .rw, false, 0x0, 0x0, 0x0⟩ ]

/-- Registers of the ISL (R531) block. -/
def rowsIsl : List RegRow :=
  [ ⟨"ISL_STAT", 0x0, 1, 0x4, .rw, false, 0x0, 0x0, 0x0⟩,
    ⟨"ISL_CTRL", 0x4, 1, 0x4, .rw, false, 0xBF0000FF, 0x0, 0xA8000064⟩,
    ⟨"ISL_AVS", 0x8, 1, 0x4, .rw, false, 0xFF00FF, 0x0, 0x8C0014⟩,
    ⟨"ISL_VOLT", 0xC, 1, 0x4, .rw, false, 0x0, 0x0, 0x64⟩,
    ⟨"ISL_TEMP", 0x10, 1, 0x4, .rw, false, 0x0, 0x0, 0x0⟩,
    ⟨"ISL_STRETCH", 0x14, 1, 0x4, .rc, false, 0x0, 0x0, 0x0⟩,
    ⟨"ISL_SLEEPS", 0x18, 1, 0x4, .rw, false, 0x0, 0x0, 0x0⟩,
    ⟨"ISL_REFUSE", 0x1C, 1, 0x4, .rw, false, 0x0, 0x0, 0x0⟩ ]

/-- Registers of the LEHR (R572) block. -/
def rowsLehr : List RegRow :=
  [ ⟨"LEHR_STAT", 0x0, 1, 0x4, .rw, false, 0x0, 0x0, 0x0⟩,
    ⟨"LEHR_EVT", 0x4, 1, 0x4, .rw, false, 0x0, 0x3, 0x0⟩,
    ⟨"LEHR_BUDGET", 0x8, 1, 0x4, .rw, false, 0x7F, 0x0, 0x14⟩,
    ⟨"LEHR_LAG", 0xC, 1, 0x4, .rw, false, 0x0, 0x0, 0x0⟩,
    ⟨"LEHR_TEL_BASE", 0x10, 1, 0x8, .rw, true, 0xFFFFFFFF, 0x0, 0x0⟩,
    ⟨"LEHR_TEL_SIZE", 0x18, 1, 0x4, .rw, false, 0x1F, 0x0, 0x14⟩,
    ⟨"LEHR_TEL_GROUPS", 0x1C, 1, 0x4, .rw, false, 0xFF, 0x0, 0xFF⟩,
    ⟨"LEHR_TEL_SAMPLE", 0x20, 1, 0x4, .rw, false, 0x0, 0x0, 0x0⟩ ]

/-- Registers of the NVS (R572) block. -/
def rowsNvs : List RegRow :=
  [ ⟨"NVS_STAT", 0x0, 1, 0x4, .rw, false, 0x0, 0x0, 0x0⟩,
    ⟨"NVS_EVT", 0x4, 1, 0x4, .rw, false, 0x0, 0x1F, 0x0⟩,
    ⟨"NVS_GEOM", 0x8, 1, 0x4, .rw, false, 0x0, 0x0, 0x0⟩,
    ⟨"NVS_SPARE", 0xC, 1, 0x4, .rw, false, 0x0, 0x0, 0x0⟩,
    ⟨"NVS_CNT_CW", 0x10, 1, 0x8, .rw, true, 0x0, 0x0, 0x0⟩,
    ⟨"NVS_CNT_RETRY", 0x18, 1, 0x4, .rc, false, 0x0, 0x0, 0x0⟩,
    ⟨"NVS_CNT_SOFT", 0x1C, 1, 0x4, .rc, false, 0x0, 0x0, 0x0⟩,
    ⟨"NVS_CNT_UE", 0x20, 1, 0x4, .rc, false, 0x0, 0x0, 0x0⟩,
    ⟨"NVS_CNT_AUTH", 0x24, 1, 0x4, .rc, false, 0x0, 0x0, 0x0⟩,
    ⟨"NVS_CNT_REFRESH", 0x28, 1, 0x4, .rc, false, 0x0, 0x0, 0x0⟩,
    ⟨"NVS_CULLET", 0x2C, 1, 0x4, .rw, false, 0x0, 0x0, 0x0⟩,
    ⟨"NVS_ERASE", 0x30, 1, 0x4, .rw, false, 0x0, 0x0, 0x0⟩,
    ⟨"NVS_JRN_HEAD", 0x38, 1, 0x8, .rw, true, 0x0, 0x0, 0x0⟩,
    ⟨"NVS_JRN_LOST", 0x40, 1, 0x4, .rc, false, 0x0, 0x0, 0x0⟩,
    ⟨"MRAM_STAT", 0x100, 1, 0x4, .rw, false, 0x0, 0x0, 0x0⟩ ]

/-- Registers of the DAC (R597) block. -/
def rowsDac : List RegRow :=
  [ ⟨"DAC_STAT", 0x0, 1, 0x4, .rw, false, 0x0, 0x1FF00, 0x0⟩,
    ⟨"DAC_GRP_CFG", 0x4, 1, 0x4, .rw, false, 0x11, 0x0, 0x0⟩,
    ⟨"DAC_LOADS", 0x8, 1, 0x4, .rc, false, 0x0, 0x0, 0x0⟩,
    ⟨"DAC_CFG", 0x100, 8, 0x10, .rw, false, 0xE0000000, 0x0, 0x0⟩,
    ⟨"DAC_CODE", 0x104, 8, 0x10, .rw, false, 0xFFFF, 0x0, 0x0⟩,
    ⟨"DAC_OUT", 0x108, 8, 0x10, .rw, false, 0x0, 0x0, 0x0⟩,
    ⟨"DAC_CLR_CODE", 0x10C, 8, 0x10, .rw, false, 0xFFFF, 0x0, 0x0⟩ ]
/-- The row and the index of the register at a word offset of a table; for a wide register the word offset may
be that of its high half. -/
def RegRow.hit (r : RegRow) (off : Nat) : Option Nat :=
  if off < r.off then none else
  let d := off - r.off
  let i := d / r.stride
  if i < r.n && (d % r.stride == 0 || (r.wide && d % r.stride == 4)) then some i else none

/-- The register tables of a block (R13: an offset that no row names is unassigned). -/
def rowsOf : Block → List RegRow
  | .dev => rowsDev | .pwr => rowsPwr | .time => rowsTime | .dac => rowsDac | .wake => rowsWake
  | .sem => rowsSem | .lehr => rowsLehr | .nvs => rowsNvs | .sec => [] | .dsq _ => rowsDsq
  | .eth k p => if p < 4 || (p == 4 && k < 2) then rowsEth else []
  | .sd k l => if l < 4 || (l == 4 && k < 2) then rowsSd else []
  | .wfq _ => rowsWfq | .ptp k p => if p < 4 || (p == 4 && k < 2) then rowsPtp else []
  | .spur p => if p < 4 then rowsSpur else [] | .fab f => if f < 4 then rowsFab else []
  | .tileSub _ => [] | .dma _ => rowsDma | .cq _ => rowsCq | .ecc _ => rowsEcc | .isl _ => rowsIsl
  | .inj _ => rowsInj | .ltime _ => rowsLtime | .mbx => rowsMbx | .acc _ => rowsAcc
  | .memc _ => rowsMemc | .fh _ => rowsFh | .typeSpec _ => [] | .core _ _ => rowsCore

/-- The row that holds the word at offset `off` of block `b`. -/
def rowAt (b : Block) (off : Nat) : Option RegRow := (rowsOf b).find? fun r => (r.hit off).isSome

/-- The offset `off` is the high half of a 64-bit register of the row. -/
def RegRow.isHigh (r : RegRow) (off : Nat) : Bool := r.wide && (off - r.off) % r.stride == 4

/-- The reset value of the register word at `off` of block `b` (R13: unassigned offsets read 0). -/
def rowReset (b : Block) (off : Nat) : Word :=
  match rowAt b off with
  | none => 0#32
  | some r => if r.isHigh off then BitVec.ofNat 32 (r.rst >>> 32) else BitVec.ofNat 32 r.rst

/-! Addresses of the DEV (R6) registers. -/

/-- DEV_ID. -/ def R.DEV_ID : Nat := globBase + 0x0
/-- DEV_QMASK. -/ def R.DEV_QMASK : Nat := globBase + 0x4

/-! Addresses of the SEM (R84) registers. -/

/-- SEM_HOLDER. -/ def R.SEM_HOLDER (i : Nat) : Nat := (globBase + 0x50000) + 0x0 + 0x4 * i

/-! Addresses of the on-chip mailboxes (R100) registers. -/

/-- MBX_ALLOC. -/ def R.MBX_ALLOC : Nat := mbxBase + 0x0
/-- MBX_DONE. -/ def R.MBX_DONE : Nat := mbxBase + 0x4
/-- MBX_PTR. -/ def R.MBX_PTR (i : Nat) : Nat := mbxBase + 0x100 + 0x20 * i
/-- MBX_CTRL. -/ def R.MBX_CTRL (i : Nat) : Nat := mbxBase + 0x108 + 0x20 * i
/-- MBX_DOORBELL. -/ def R.MBX_DOORBELL (i : Nat) : Nat := mbxBase + 0x10C + 0x20 * i
/-- MBX_STAT. -/ def R.MBX_STAT (i : Nat) : Nat := mbxBase + 0x110 + 0x20 * i
/-- MBX_FREE. -/ def R.MBX_FREE (i : Nat) : Nat := mbxBase + 0x114 + 0x20 * i

/-! Addresses of the front-haul counters, from offset 0 of the type-specific block (R116) registers. -/

/-- ETH_FH_STAT. -/ def R.ETH_FH_STAT (k : Nat) : Nat := typeBase (iotTile k) + 0x800
/-- ETH_FH_LATE. -/ def R.ETH_FH_LATE (k : Nat) : Nat := typeBase (iotTile k) + 0x804
/-- ETH_FH_MISSING. -/ def R.ETH_FH_MISSING (k : Nat) : Nat := typeBase (iotTile k) + 0x808
/-- ETH_FH_DUP. -/ def R.ETH_FH_DUP (k : Nat) : Nat := typeBase (iotTile k) + 0x80C
/-- ETH_FH_EXPSAT. -/ def R.ETH_FH_EXPSAT (k : Nat) : Nat := typeBase (iotTile k) + 0x810
/-- ETH_FH_NOBUF. -/ def R.ETH_FH_NOBUF (k : Nat) : Nat := typeBase (iotTile k) + 0x814
/-- ETH_FH_DL_LATE. -/ def R.ETH_FH_DL_LATE (k : Nat) : Nat := typeBase (iotTile k) + 0x818
/-- ETH_FH_LAST. -/ def R.ETH_FH_LAST (k : Nat) : Nat := typeBase (iotTile k) + 0x81C
/-- ETH_FH_RXWIN. -/ def R.ETH_FH_RXWIN (k : Nat) : Nat := typeBase (iotTile k) + 0x820

/-! Addresses of the DSQ (R230) registers. -/

/-- DSQ_STAT. -/ def R.DSQ_STAT (q : Nat) : Nat := dsqBase q + 0x0
/-- DSQ_CTRL. -/ def R.DSQ_CTRL (q : Nat) : Nat := dsqBase q + 0x4
/-- DSQ_CORES. -/ def R.DSQ_CORES (q : Nat) : Nat := dsqBase q + 0x8
/-- DSQ_Q_SEL. -/ def R.DSQ_Q_SEL (q : Nat) : Nat := dsqBase q + 0x10
/-- DSQ_Q_CFG. -/ def R.DSQ_Q_CFG (q : Nat) : Nat := dsqBase q + 0x14
/-- DSQ_Q_WM. -/ def R.DSQ_Q_WM (q : Nat) : Nat := dsqBase q + 0x18
/-- DSQ_Q_LIMIT. -/ def R.DSQ_Q_LIMIT (q : Nat) : Nat := dsqBase q + 0x1C
/-- DSQ_Q_RING. -/ def R.DSQ_Q_RING (q : Nat) : Nat := dsqBase q + 0x20
/-- DSQ_Q_FILL. -/ def R.DSQ_Q_FILL (q : Nat) : Nat := dsqBase q + 0x28
/-- DSQ_Q_RESV. -/ def R.DSQ_Q_RESV (q : Nat) : Nat := dsqBase q + 0x2C
/-- DSQ_Q_TARGET. -/ def R.DSQ_Q_TARGET (q : Nat) : Nat := dsqBase q + 0x30
/-- DSQ_FLOW_SEL. -/ def R.DSQ_FLOW_SEL (q : Nat) : Nat := dsqBase q + 0x40
/-- DSQ_FLOW_CFG. -/ def R.DSQ_FLOW_CFG (q : Nat) : Nat := dsqBase q + 0x44
/-- DSQ_FLOW_STAT. -/ def R.DSQ_FLOW_STAT (q : Nat) : Nat := dsqBase q + 0x48
/-- DSQ_FLOW_LATE. -/ def R.DSQ_FLOW_LATE (q : Nat) : Nat := dsqBase q + 0x4C
/-- DSQ_NOW. -/ def R.DSQ_NOW (q : Nat) : Nat := dsqBase q + 0x50
/-- DSQ_CNT_DISPATCH. -/ def R.DSQ_CNT_DISPATCH (q : Nat) : Nat := dsqBase q + 0x100
/-- DSQ_CNT_LATE. -/ def R.DSQ_CNT_LATE (q : Nat) : Nat := dsqBase q + 0x104
/-- DSQ_CNT_CATCHUP. -/ def R.DSQ_CNT_CATCHUP (q : Nat) : Nat := dsqBase q + 0x108
/-- DSQ_CNT_STALE. -/ def R.DSQ_CNT_STALE (q : Nat) : Nat := dsqBase q + 0x10C
/-- DSQ_CNT_BP. -/ def R.DSQ_CNT_BP (q : Nat) : Nat := dsqBase q + 0x110
/-- DSQ_CNT_DEMOTE. -/ def R.DSQ_CNT_DEMOTE (q : Nat) : Nat := dsqBase q + 0x114
/-- DSQ_MAX_LAT. -/ def R.DSQ_MAX_LAT (q : Nat) : Nat := dsqBase q + 0x118
/-- DSQ_CRUMB_CTRL. -/ def R.DSQ_CRUMB_CTRL (q : Nat) : Nat := dsqBase q + 0x200
/-- DSQ_CRUMB_QRANGE. -/ def R.DSQ_CRUMB_QRANGE (q : Nat) : Nat := dsqBase q + 0x204
/-- DSQ_CRUMB_BASE. -/ def R.DSQ_CRUMB_BASE (q : Nat) : Nat := dsqBase q + 0x208
/-- DSQ_CRUMB_SIZE. -/ def R.DSQ_CRUMB_SIZE (q : Nat) : Nat := dsqBase q + 0x210
/-- DSQ_CRUMB_WPTR. -/ def R.DSQ_CRUMB_WPTR (q : Nat) : Nat := dsqBase q + 0x214
/-- DSQ_CRUMB_LOST. -/ def R.DSQ_CRUMB_LOST (q : Nat) : Nat := dsqBase q + 0x218

/-! Addresses of the core-private (R278) registers. -/


/-! Addresses of the ACC (R321) registers. -/

/-- ACC_INFO. -/ def R.ACC_INFO (t : Nat) : Nat := typeBase t + 0x0
/-- ACC_CTRL. -/ def R.ACC_CTRL (t : Nat) : Nat := typeBase t + 0x4
/-- ACC_STAT. -/ def R.ACC_STAT (t : Nat) : Nat := typeBase t + 0x8
/-- ACC_BUSY. -/ def R.ACC_BUSY (t : Nat) : Nat := typeBase t + 0xC
/-- ACC_CNT_JOBS. -/ def R.ACC_CNT_JOBS (t : Nat) : Nat := typeBase t + 0x10
/-- ACC_CNT_FAIL. -/ def R.ACC_CNT_FAIL (t : Nat) : Nat := typeBase t + 0x14
/-- ACC_CNT_ABORT. -/ def R.ACC_CNT_ABORT (t : Nat) : Nat := typeBase t + 0x18
/-- ACC_CNT_CANCEL. -/ def R.ACC_CNT_CANCEL (t : Nat) : Nat := typeBase t + 0x1C
/-- ACC_CNT_SAT. -/ def R.ACC_CNT_SAT (t : Nat) : Nat := typeBase t + 0x20
/-- ACC_LAST_FAIL. -/ def R.ACC_LAST_FAIL (t : Nat) : Nat := typeBase t + 0x28
/-- ACC_LAST_STATUS. -/ def R.ACC_LAST_STATUS (t : Nat) : Nat := typeBase t + 0x30

/-! Addresses of the CQ (R322) registers. -/

/-- CQ_RESULT. -/ def R.CQ_RESULT (t : Nat) (i : Nat) (j : Nat) : Nat := cqBase t + 0x0 + 0x100 * i + 0x4 * j
/-- CQ_STAT. -/ def R.CQ_STAT (t : Nat) (i : Nat) : Nat := cqBase t + 0x400 + 0x4 * i
/-- CQ_CNT_CANCEL. -/ def R.CQ_CNT_CANCEL (t : Nat) (i : Nat) : Nat := cqBase t + 0x410 + 0x4 * i
/-- CQ_CNT_LATE. -/ def R.CQ_CNT_LATE (t : Nat) (i : Nat) : Nat := cqBase t + 0x420 + 0x4 * i

/-! Addresses of the DMA (R346) registers. -/

/-- DMA_CH_CTRL. -/ def R.DMA_CH_CTRL (t : Nat) (i : Nat) : Nat := dmaBase t + 0x0 + 0x80 * i
/-- DMA_CH_STAT. -/ def R.DMA_CH_STAT (t : Nat) (i : Nat) : Nat := dmaBase t + 0x4 + 0x80 * i
/-- DMA_CH_PC. -/ def R.DMA_CH_PC (t : Nat) (i : Nat) : Nat := dmaBase t + 0x8 + 0x80 * i
/-- DMA_CH_DOORBELL. -/ def R.DMA_CH_DOORBELL (t : Nat) (i : Nat) : Nat := dmaBase t + 0x10 + 0x80 * i
/-- DMA_CH_ARESULT. -/ def R.DMA_CH_ARESULT (t : Nat) (i : Nat) : Nat := dmaBase t + 0x14 + 0x80 * i
/-- DMA_CH_STREAM. -/ def R.DMA_CH_STREAM (t : Nat) (i : Nat) : Nat := dmaBase t + 0x18 + 0x80 * i
/-- DMA_CH_PROG. -/ def R.DMA_CH_PROG (t : Nat) (i : Nat) : Nat := dmaBase t + 0x1C + 0x80 * i
/-- DMA_ERR_ADDR. -/ def R.DMA_ERR_ADDR (t : Nat) (i : Nat) : Nat := dmaBase t + 0x20 + 0x80 * i
/-- DMA_ERR_INFO. -/ def R.DMA_ERR_INFO (t : Nat) (i : Nat) : Nat := dmaBase t + 0x28 + 0x80 * i
/-- DMA_CH_DBRED. -/ def R.DMA_CH_DBRED (t : Nat) (i : Nat) : Nat := dmaBase t + 0x2C + 0x80 * i
/-- DMA_CH_AR. -/ def R.DMA_CH_AR (t : Nat) (i : Nat) (j : Nat) : Nat := dmaBase t + 0x30 + 0x80 * i + 0x8 * j
/-- DMA_CH_LC. -/ def R.DMA_CH_LC (t : Nat) (i : Nat) (j : Nat) : Nat := dmaBase t + 0x50 + 0x80 * i + 0x4 * j
/-- DMA_CH_START. -/ def R.DMA_CH_START (t : Nat) (i : Nat) : Nat := dmaBase t + 0x60 + 0x80 * i
/-- DMA_CH_BYTES. -/ def R.DMA_CH_BYTES (t : Nat) (i : Nat) : Nat := dmaBase t + 0x68 + 0x80 * i
/-- DMA_ENG_INFO. -/ def R.DMA_ENG_INFO (t : Nat) : Nat := dmaBase t + 0x800
/-- DMA_ENG_HALTED. -/ def R.DMA_ENG_HALTED (t : Nat) : Nat := dmaBase t + 0x804
/-- DMA_ENG_PARKED. -/ def R.DMA_ENG_PARKED (t : Nat) : Nat := dmaBase t + 0x808
/-- DMA_EVT. -/ def R.DMA_EVT (t : Nat) : Nat := dmaBase t + 0x80C
/-- DMA_EVT_SET. -/ def R.DMA_EVT_SET (t : Nat) : Nat := dmaBase t + 0x810

/-! Addresses of the INJ (R364) registers. -/

/-- NOC_STAT. -/ def R.NOC_STAT (t : Nat) : Nat := injBase t + 0x0
/-- NOC_PORT. -/ def R.NOC_PORT (t : Nat) : Nat := injBase t + 0x4
/-- NOC_INJ_CFG. -/ def R.NOC_INJ_CFG (t : Nat) (i : Nat) : Nat := injBase t + 0x10 + 0x8 * i
/-- NOC_INJ_TOKENS. -/ def R.NOC_INJ_TOKENS (t : Nat) (i : Nat) : Nat := injBase t + 0x14 + 0x8 * i
/-- NOC_CNT_WAIT. -/ def R.NOC_CNT_WAIT (t : Nat) (i : Nat) : Nat := injBase t + 0x40 + 0x4 * i
/-- NOC_CNT_RET_SENT. -/ def R.NOC_CNT_RET_SENT (t : Nat) : Nat := injBase t + 0x50
/-- NOC_CNT_RET_RCVD. -/ def R.NOC_CNT_RET_RCVD (t : Nat) : Nat := injBase t + 0x54
/-- NOC_CNT_DROP. -/ def R.NOC_CNT_DROP (t : Nat) : Nat := injBase t + 0x58
/-- NOC_CNT_LINK_RETRY. -/ def R.NOC_CNT_LINK_RETRY (t : Nat) : Nat := injBase t + 0x5C
/-- NOC_CNT_DECODE. -/ def R.NOC_CNT_DECODE (t : Nat) : Nat := injBase t + 0x60

/-! Addresses of the ECC (R391) registers. -/

/-- ECC_STAT. -/ def R.ECC_STAT (t : Nat) : Nat := eccBase t + 0x0
/-- ECC_CLR. -/ def R.ECC_CLR (t : Nat) : Nat := eccBase t + 0x4
/-- ECC_CE_CNT. -/ def R.ECC_CE_CNT (t : Nat) : Nat := eccBase t + 0x8
/-- ECC_UE_CNT. -/ def R.ECC_UE_CNT (t : Nat) : Nat := eccBase t + 0xC
/-- ECC_CACHE_CNT. -/ def R.ECC_CACHE_CNT (t : Nat) : Nat := eccBase t + 0x10
/-- ECC_POISON_WR. -/ def R.ECC_POISON_WR (t : Nat) : Nat := eccBase t + 0x14
/-- ECC_CLOG_LOST. -/ def R.ECC_CLOG_LOST (t : Nat) : Nat := eccBase t + 0x18
/-- ECC_RET_FAIL. -/ def R.ECC_RET_FAIL (t : Nat) : Nat := eccBase t + 0x1C
/-- ECC_SCRUB_AGE. -/ def R.ECC_SCRUB_AGE (t : Nat) : Nat := eccBase t + 0x20
/-- ECC_INJ. -/ def R.ECC_INJ (t : Nat) : Nat := eccBase t + 0x24
/-- ECC_CLOG_ADDR. -/ def R.ECC_CLOG_ADDR (t : Nat) (i : Nat) : Nat := eccBase t + 0x100 + 0x20 * i
/-- ECC_CLOG_INFO. -/ def R.ECC_CLOG_INFO (t : Nat) (i : Nat) : Nat := eccBase t + 0x108 + 0x20 * i
/-- ECC_CLOG_TIME. -/ def R.ECC_CLOG_TIME (t : Nat) (i : Nat) : Nat := eccBase t + 0x110 + 0x20 * i

/-! Addresses of the MEMC (R393) registers. -/

/-- MEMC_STAT. -/ def R.MEMC_STAT (t : Nat) : Nat := typeBase t + 0x0
/-- MEMC_CLR. -/ def R.MEMC_CLR (t : Nat) : Nat := typeBase t + 0x4
/-- MEMC_CE_CNT. -/ def R.MEMC_CE_CNT (t : Nat) : Nat := typeBase t + 0x8
/-- MEMC_UE_CNT. -/ def R.MEMC_UE_CNT (t : Nat) : Nat := typeBase t + 0xC
/-- MEMC_ONDIE_CE. -/ def R.MEMC_ONDIE_CE (t : Nat) : Nat := typeBase t + 0x10
/-- MEMC_POISON_WR. -/ def R.MEMC_POISON_WR (t : Nat) : Nat := typeBase t + 0x14
/-- MEMC_RET_FAIL. -/ def R.MEMC_RET_FAIL (t : Nat) : Nat := typeBase t + 0x18
/-- MEMC_SCRUB_AGE. -/ def R.MEMC_SCRUB_AGE (t : Nat) : Nat := typeBase t + 0x1C
/-- MEMC_SCRUB_PTR. -/ def R.MEMC_SCRUB_PTR (t : Nat) : Nat := typeBase t + 0x20
/-- MEMC_PPR. -/ def R.MEMC_PPR (t : Nat) : Nat := typeBase t + 0x28
/-- MEMC_INJ. -/ def R.MEMC_INJ (t : Nat) : Nat := typeBase t + 0x2C

/-! Addresses of the ETH, per port (R411) registers. -/

/-- ETH_MODE. -/ def R.ETH_MODE (k p : Nat) : Nat := ethBase k p + 0x0
/-- ETH_STAT. -/ def R.ETH_STAT (k p : Nat) : Nat := ethBase k p + 0x4
/-- ETH_EVT. -/ def R.ETH_EVT (k p : Nat) : Nat := ethBase k p + 0x8
/-- ETH_SKEW. -/ def R.ETH_SKEW (k p : Nat) : Nat := ethBase k p + 0xC
/-- ETH_CNT_LINKDOWN. -/ def R.ETH_CNT_LINKDOWN (k p : Nat) : Nat := ethBase k p + 0x10
/-- ETH_CNT_BRINGUP_FAIL. -/ def R.ETH_CNT_BRINGUP_FAIL (k p : Nat) : Nat := ethBase k p + 0x14
/-- ETH_FEC_CW. -/ def R.ETH_FEC_CW (k p : Nat) : Nat := ethBase k p + 0x18
/-- ETH_FEC_CORR. -/ def R.ETH_FEC_CORR (k p : Nat) : Nat := ethBase k p + 0x20
/-- ETH_FEC_UNCORR. -/ def R.ETH_FEC_UNCORR (k p : Nat) : Nat := ethBase k p + 0x28
/-- ETH_RX_FRAMES. -/ def R.ETH_RX_FRAMES (k p : Nat) : Nat := ethBase k p + 0x30
/-- ETH_TX_FRAMES. -/ def R.ETH_TX_FRAMES (k p : Nat) : Nat := ethBase k p + 0x38
/-- ETH_RX_FCSERR. -/ def R.ETH_RX_FCSERR (k p : Nat) : Nat := ethBase k p + 0x40
/-- ETH_RX_SIZEERR. -/ def R.ETH_RX_SIZEERR (k p : Nat) : Nat := ethBase k p + 0x44
/-- ETH_RX_UNBOUND. -/ def R.ETH_RX_UNBOUND (k p : Nat) : Nat := ethBase k p + 0x48
/-- ETH_TX_DISC. -/ def R.ETH_TX_DISC (k p : Nat) : Nat := ethBase k p + 0x4C
/-- ETH_PAUSE_RX. -/ def R.ETH_PAUSE_RX (k p : Nat) : Nat := ethBase k p + 0x50

/-! Addresses of the SD, per lane (R411) registers. -/

/-- SD_CFG. -/ def R.SD_CFG (k l : Nat) : Nat := sdBase k l + 0x0
/-- SD_STAT. -/ def R.SD_STAT (k l : Nat) : Nat := sdBase k l + 0x4
/-- SD_EVT. -/ def R.SD_EVT (k l : Nat) : Nat := sdBase k l + 0x8
/-- SD_TXEQ. -/ def R.SD_TXEQ (k l : Nat) : Nat := sdBase k l + 0xC
/-- SD_RXEQ. -/ def R.SD_RXEQ (k l : Nat) : Nat := sdBase k l + 0x10
/-- SD_EYE. -/ def R.SD_EYE (k l : Nat) : Nat := sdBase k l + 0x14
/-- SD_PRBS_CTRL. -/ def R.SD_PRBS_CTRL (k l : Nat) : Nat := sdBase k l + 0x18
/-- SD_LPBK. -/ def R.SD_LPBK (k l : Nat) : Nat := sdBase k l + 0x1C
/-- SD_PRBS_ERR. -/ def R.SD_PRBS_ERR (k l : Nat) : Nat := sdBase k l + 0x20
/-- SD_PRBS_BITS. -/ def R.SD_PRBS_BITS (k l : Nat) : Nat := sdBase k l + 0x28
/-- SD_CNT_LOL. -/ def R.SD_CNT_LOL (k l : Nat) : Nat := sdBase k l + 0x30

/-! Addresses of the WFQ (R428) registers. -/

/-- WFQ_STAT. -/ def R.WFQ_STAT (k : Nat) : Nat := wfqBase k + 0x0
/-- WFQ_PORT_STAT. -/ def R.WFQ_PORT_STAT (k : Nat) (i : Nat) : Nat := wfqBase k + 0x10 + 0x4 * i
/-- WFQ_TEL_BASE. -/ def R.WFQ_TEL_BASE (k : Nat) : Nat := wfqBase k + 0x40
/-- WFQ_TEL_SIZE. -/ def R.WFQ_TEL_SIZE (k : Nat) : Nat := wfqBase k + 0x48
/-- WFQ_TEL_WPTR. -/ def R.WFQ_TEL_WPTR (k : Nat) : Nat := wfqBase k + 0x4C
/-- WFQ_TEL_LOST. -/ def R.WFQ_TEL_LOST (k : Nat) : Nat := wfqBase k + 0x50
/-- WFQ_TL_LATE. -/ def R.WFQ_TL_LATE (k : Nat) : Nat := wfqBase k + 0x54
/-- WFQ_TL_SLIP. -/ def R.WFQ_TL_SLIP (k : Nat) : Nat := wfqBase k + 0x58
/-- WFQ_TL_PAUSED. -/ def R.WFQ_TL_PAUSED (k : Nat) : Nat := wfqBase k + 0x5C
/-- WFQ_BADENT. -/ def R.WFQ_BADENT (k : Nat) : Nat := wfqBase k + 0x60
/-- WFQ_Q_SEL. -/ def R.WFQ_Q_SEL (k : Nat) : Nat := wfqBase k + 0x80
/-- WFQ_Q_CFG. -/ def R.WFQ_Q_CFG (k : Nat) : Nat := wfqBase k + 0x84
/-- WFQ_Q_WEIGHT. -/ def R.WFQ_Q_WEIGHT (k : Nat) : Nat := wfqBase k + 0x88
/-- WFQ_Q_FTAG. -/ def R.WFQ_Q_FTAG (k : Nat) : Nat := wfqBase k + 0x90
/-- WFQ_Q_BYTES. -/ def R.WFQ_Q_BYTES (k : Nat) : Nat := wfqBase k + 0x98
/-- WFQ_VT. -/ def R.WFQ_VT (k : Nat) (i : Nat) (j : Nat) : Nat := wfqBase k + 0x100 + 0x20 * i + 0x8 * j

/-! Addresses of the TIME (R454) registers. -/

/-- TIME_STAT. -/ def R.TIME_STAT : Nat := timeBase + 0x0
/-- TIME_EVT. -/ def R.TIME_EVT : Nat := timeBase + 0x4
/-- TIME_NOW_FRAC. -/ def R.TIME_NOW_FRAC : Nat := timeBase + 0x10
/-- TIME_NOW_SEC. -/ def R.TIME_NOW_SEC : Nat := timeBase + 0x18
/-- TIME_RATE. -/ def R.TIME_RATE : Nat := timeBase + 0x20
/-- TIME_OFFSET. -/ def R.TIME_OFFSET : Nat := timeBase + 0x28
/-- TIME_JUMP_LIMIT. -/ def R.TIME_JUMP_LIMIT : Nat := timeBase + 0x30
/-- TIME_STEP_OFS. -/ def R.TIME_STEP_OFS : Nat := timeBase + 0x40
/-- TIME_STEP_SUB. -/ def R.TIME_STEP_SUB : Nat := timeBase + 0x48
/-- TIME_STEP_CTRL. -/ def R.TIME_STEP_CTRL : Nat := timeBase + 0x50
/-- TIME_STEP_CTRL_C. -/ def R.TIME_STEP_CTRL_C : Nat := timeBase + 0x54
/-- TIME_STEP_CNT. -/ def R.TIME_STEP_CNT : Nat := timeBase + 0x58
/-- TIME_HO_CFG. -/ def R.TIME_HO_CFG : Nat := timeBase + 0x60
/-- TIME_HO_CODE. -/ def R.TIME_HO_CODE : Nat := timeBase + 0x64
/-- TIME_HO_SLOPE. -/ def R.TIME_HO_SLOPE : Nat := timeBase + 0x68
/-- TIME_PPS_CFG. -/ def R.TIME_PPS_CFG : Nat := timeBase + 0x70
/-- TIME_PPS_IN_ERR. -/ def R.TIME_PPS_IN_ERR : Nat := timeBase + 0x74
/-- TIME_TEV_SEC. -/ def R.TIME_TEV_SEC (i : Nat) : Nat := timeBase + 0x80 + 0x20 * i
/-- TIME_TEV_NS. -/ def R.TIME_TEV_NS (i : Nat) : Nat := timeBase + 0x88 + 0x20 * i
/-- TIME_TEV_PERIOD. -/ def R.TIME_TEV_PERIOD (i : Nat) : Nat := timeBase + 0x8C + 0x20 * i
/-- TIME_TEV_CFG. -/ def R.TIME_TEV_CFG (i : Nat) : Nat := timeBase + 0x90 + 0x20 * i
/-- TIME_SYNCE. -/ def R.TIME_SYNCE : Nat := timeBase + 0x100

/-! Addresses of the LTIME (R455) registers. -/

/-- LTIME_STAT. -/ def R.LTIME_STAT (t : Nat) : Nat := ltimeBase t + 0x0
/-- LTIME_NOW_FRAC. -/ def R.LTIME_NOW_FRAC (t : Nat) : Nat := ltimeBase t + 0x8
/-- LTIME_NOW_SEC. -/ def R.LTIME_NOW_SEC (t : Nat) : Nat := ltimeBase t + 0x10
/-- LTIME_TRIM. -/ def R.LTIME_TRIM (t : Nat) : Nat := ltimeBase t + 0x18

/-! Addresses of the PTP, per port (R456) registers. -/

/-- PTP_CFG. -/ def R.PTP_CFG (k p : Nat) : Nat := ptpBase k p + 0x0
/-- PTP_STAT. -/ def R.PTP_STAT (k p : Nat) : Nat := ptpBase k p + 0x4
/-- PTP_TX_DLY. -/ def R.PTP_TX_DLY (k p : Nat) : Nat := ptpBase k p + 0x8
/-- PTP_RX_DLY. -/ def R.PTP_RX_DLY (k p : Nat) : Nat := ptpBase k p + 0xC
/-- PTP_ASYM. -/ def R.PTP_ASYM (k p : Nat) : Nat := ptpBase k p + 0x10
/-- PTP_LPRIO. -/ def R.PTP_LPRIO (k p : Nat) : Nat := ptpBase k p + 0x14
/-- PTP_CNT_RX. -/ def R.PTP_CNT_RX (k p : Nat) : Nat := ptpBase k p + 0x18
/-- PTP_CNT_TX. -/ def R.PTP_CNT_TX (k p : Nat) : Nat := ptpBase k p + 0x1C
/-- PTP_CNT_DISC. -/ def R.PTP_CNT_DISC (k p : Nat) : Nat := ptpBase k p + 0x20
/-- PTP_MEAN_DELAY. -/ def R.PTP_MEAN_DELAY (k p : Nat) : Nat := ptpBase k p + 0x28

/-! Addresses of the SPUR, per port (R473) registers. -/

/-- SPUR_CFG. -/ def R.SPUR_CFG (p : Nat) : Nat := spurBase p + 0x0
/-- SPUR_STAT. -/ def R.SPUR_STAT (p : Nat) : Nat := spurBase p + 0x4
/-- SPUR_EVT. -/ def R.SPUR_EVT (p : Nat) : Nat := spurBase p + 0x8
/-- SPUR_SNR. -/ def R.SPUR_SNR (p : Nat) : Nat := spurBase p + 0xC
/-- SPUR_LINE. -/ def R.SPUR_LINE (p : Nat) : Nat := spurBase p + 0x10
/-- SPUR_DELAY. -/ def R.SPUR_DELAY (p : Nat) : Nat := spurBase p + 0x14
/-- SPUR_IDLE. -/ def R.SPUR_IDLE (p : Nat) : Nat := spurBase p + 0x18
/-- SPUR_WAKE. -/ def R.SPUR_WAKE (p : Nat) : Nat := spurBase p + 0x1C
/-- SPUR_CNT_BLOCKS. -/ def R.SPUR_CNT_BLOCKS (p : Nat) : Nat := spurBase p + 0x20
/-- SPUR_CNT_UNCORR. -/ def R.SPUR_CNT_UNCORR (p : Nat) : Nat := spurBase p + 0x28
/-- SPUR_CNT_RETRAIN. -/ def R.SPUR_CNT_RETRAIN (p : Nat) : Nat := spurBase p + 0x30
/-- SPUR_CNT_FALSE_PRE. -/ def R.SPUR_CNT_FALSE_PRE (p : Nat) : Nat := spurBase p + 0x34
/-- SPUR_CNT_FCS. -/ def R.SPUR_CNT_FCS (p : Nat) : Nat := spurBase p + 0x38
/-- SPUR_CNT_SHED. -/ def R.SPUR_CNT_SHED (p : Nat) : Nat := spurBase p + 0x3C
/-- SPUR_CNT_WAKE_REJ. -/ def R.SPUR_CNT_WAKE_REJ (p : Nat) : Nat := spurBase p + 0x40

/-! Addresses of the FAB control, per tile (R496) registers. -/

/-- FAB_STATE. -/ def R.FAB_STATE (f : Nat) : Nat := fabBase f + 0x0
/-- FAB_EVT. -/ def R.FAB_EVT (f : Nat) : Nat := fabBase f + 0x4
/-- FAB_TGT_TO. -/ def R.FAB_TGT_TO (f : Nat) : Nat := fabBase f + 0x8
/-- FAB_CNT_PUSH_REF. -/ def R.FAB_CNT_PUSH_REF (f : Nat) : Nat := fabBase f + 0x10
/-- FAB_CNT_LOST. -/ def R.FAB_CNT_LOST (f : Nat) : Nat := fabBase f + 0x14
/-- FAB_CNT_TGT_TO. -/ def R.FAB_CNT_TGT_TO (f : Nat) : Nat := fabBase f + 0x18
/-- FAB_CNT_COLL. -/ def R.FAB_CNT_COLL (f : Nat) : Nat := fabBase f + 0x1C
/-- FAB_CNT_CONT. -/ def R.FAB_CNT_CONT (f : Nat) : Nat := fabBase f + 0x20
/-- FAB_IMAGE_HASH. -/ def R.FAB_IMAGE_HASH (f : Nat) (i : Nat) : Nat := fabBase f + 0x40 + 0x4 * i
/-- FAB_CONT_LINE. -/ def R.FAB_CONT_LINE (f : Nat) (i : Nat) : Nat := fabBase f + 0x80 + 0x4 * i
/-- FAB_QC_STAT. -/ def R.FAB_QC_STAT (f : Nat) (i : Nat) : Nat := fabBase f + 0x100 + 0x4 * i

/-! Addresses of the PWR (R531) registers. -/

/-- PWR_STAT. -/ def R.PWR_STAT : Nat := pwrBase + 0x0
/-- PWR_EVT. -/ def R.PWR_EVT : Nat := pwrBase + 0x4
/-- PWR_CTRL. -/ def R.PWR_CTRL : Nat := pwrBase + 0x8
/-- PWR_REQ. -/ def R.PWR_REQ : Nat := pwrBase + 0xC
/-- PWR_SUPPLY_EVT. -/ def R.PWR_SUPPLY_EVT : Nat := pwrBase + 0x10
/-- PWR_SUPPLY_CNT. -/ def R.PWR_SUPPLY_CNT : Nat := pwrBase + 0x14
/-- PWR_NVM_REDO. -/ def R.PWR_NVM_REDO : Nat := pwrBase + 0x18
/-- PWR_VIN. -/ def R.PWR_VIN : Nat := pwrBase + 0x1C
/-- PWR_TEMP_MAX. -/ def R.PWR_TEMP_MAX : Nat := pwrBase + 0x20
/-- PWR_TSTATE. -/ def R.PWR_TSTATE (i : Nat) : Nat := pwrBase + 0x40 + 0x4 * i
/-- PWR_PMB_CFG. -/ def R.PWR_PMB_CFG (i : Nat) : Nat := pwrBase + 0x80 + 0x8 * i
/-- PWR_PMB_STAT. -/ def R.PWR_PMB_STAT (i : Nat) : Nat := pwrBase + 0x84 + 0x8 * i

/-! Addresses of the WAKE (R531) registers. -/

/-- WAKE_CAUSE. -/ def R.WAKE_CAUSE : Nat := wakeBase + 0x0
/-- WAKE_SRC. -/ def R.WAKE_SRC : Nat := wakeBase + 0x4
/-- WAKE_EN. -/ def R.WAKE_EN : Nat := wakeBase + 0x8
/-- WAKE_MGT. -/ def R.WAKE_MGT : Nat := wakeBase + 0xC
/-- WAKE_BUS. -/ def R.WAKE_BUS : Nat := wakeBase + 0x10
/-- WAKE_ALARM_SEC. -/ def R.WAKE_ALARM_SEC : Nat := wakeBase + 0x18
/-- WAKE_ALARM_NS. -/ def R.WAKE_ALARM_NS : Nat := wakeBase + 0x20
/-- WAKE_T_A. -/ def R.WAKE_T_A : Nat := wakeBase + 0x24
/-- WAKE_T_B. -/ def R.WAKE_T_B : Nat := wakeBase + 0x28
/-- WAKE_CNT. -/ def R.WAKE_CNT : Nat := wakeBase + 0x2C
/-- WAKE_CNT_REJ. -/ def R.WAKE_CNT_REJ : Nat := wakeBase + 0x30
/-- WAKE_FAIL. -/ def R.WAKE_FAIL (i : Nat) : Nat := wakeBase + 0x40 + 0x4 * i

/-! Addresses of the ISL (R531) registers. -/

/-- ISL_STAT. -/ def R.ISL_STAT (t : Nat) : Nat := islBase t + 0x0
/-- ISL_CTRL. -/ def R.ISL_CTRL (t : Nat) : Nat := islBase t + 0x4
/-- ISL_AVS. -/ def R.ISL_AVS (t : Nat) : Nat := islBase t + 0x8
/-- ISL_VOLT. -/ def R.ISL_VOLT (t : Nat) : Nat := islBase t + 0xC
/-- ISL_TEMP. -/ def R.ISL_TEMP (t : Nat) : Nat := islBase t + 0x10
/-- ISL_STRETCH. -/ def R.ISL_STRETCH (t : Nat) : Nat := islBase t + 0x14
/-- ISL_SLEEPS. -/ def R.ISL_SLEEPS (t : Nat) : Nat := islBase t + 0x18
/-- ISL_REFUSE. -/ def R.ISL_REFUSE (t : Nat) : Nat := islBase t + 0x1C

/-! Addresses of the LEHR (R572) registers. -/

/-- LEHR_STAT. -/ def R.LEHR_STAT : Nat := lehrBase + 0x0
/-- LEHR_EVT. -/ def R.LEHR_EVT : Nat := lehrBase + 0x4
/-- LEHR_BUDGET. -/ def R.LEHR_BUDGET : Nat := lehrBase + 0x8
/-- LEHR_LAG. -/ def R.LEHR_LAG : Nat := lehrBase + 0xC
/-- LEHR_TEL_BASE. -/ def R.LEHR_TEL_BASE : Nat := lehrBase + 0x10
/-- LEHR_TEL_SIZE. -/ def R.LEHR_TEL_SIZE : Nat := lehrBase + 0x18
/-- LEHR_TEL_GROUPS. -/ def R.LEHR_TEL_GROUPS : Nat := lehrBase + 0x1C
/-- LEHR_TEL_SAMPLE. -/ def R.LEHR_TEL_SAMPLE : Nat := lehrBase + 0x20

/-! Addresses of the NVS (R572) registers. -/

/-- NVS_STAT. -/ def R.NVS_STAT : Nat := nvsBase + 0x0
/-- NVS_EVT. -/ def R.NVS_EVT : Nat := nvsBase + 0x4
/-- NVS_GEOM. -/ def R.NVS_GEOM : Nat := nvsBase + 0x8
/-- NVS_SPARE. -/ def R.NVS_SPARE : Nat := nvsBase + 0xC
/-- NVS_CNT_CW. -/ def R.NVS_CNT_CW : Nat := nvsBase + 0x10
/-- NVS_CNT_RETRY. -/ def R.NVS_CNT_RETRY : Nat := nvsBase + 0x18
/-- NVS_CNT_SOFT. -/ def R.NVS_CNT_SOFT : Nat := nvsBase + 0x1C
/-- NVS_CNT_UE. -/ def R.NVS_CNT_UE : Nat := nvsBase + 0x20
/-- NVS_CNT_AUTH. -/ def R.NVS_CNT_AUTH : Nat := nvsBase + 0x24
/-- NVS_CNT_REFRESH. -/ def R.NVS_CNT_REFRESH : Nat := nvsBase + 0x28
/-- NVS_CULLET. -/ def R.NVS_CULLET : Nat := nvsBase + 0x2C
/-- NVS_ERASE. -/ def R.NVS_ERASE : Nat := nvsBase + 0x30
/-- NVS_JRN_HEAD. -/ def R.NVS_JRN_HEAD : Nat := nvsBase + 0x38
/-- NVS_JRN_LOST. -/ def R.NVS_JRN_LOST : Nat := nvsBase + 0x40
/-- MRAM_STAT. -/ def R.MRAM_STAT : Nat := nvsBase + 0x100

/-! Addresses of the DAC (R597) registers. -/

/-- DAC_STAT. -/ def R.DAC_STAT : Nat := dacBase + 0x0
/-- DAC_GRP_CFG. -/ def R.DAC_GRP_CFG : Nat := dacBase + 0x4
/-- DAC_LOADS. -/ def R.DAC_LOADS : Nat := dacBase + 0x8
/-- DAC_CFG. -/ def R.DAC_CFG (i : Nat) : Nat := dacBase + 0x100 + 0x10 * i
/-- DAC_CODE. -/ def R.DAC_CODE (i : Nat) : Nat := dacBase + 0x104 + 0x10 * i
/-- DAC_OUT. -/ def R.DAC_OUT (i : Nat) : Nat := dacBase + 0x108 + 0x10 * i
/-- DAC_CLR_CODE. -/ def R.DAC_CLR_CODE (i : Nat) : Nat := dacBase + 0x10C + 0x10 * i

end Sys2Proof.Machine
end

