-- ==== Sys2Proof/Machine/State.lean ====
section
/-! DEFINITION. The state of the device: every register, queue, buffer, counter, session and mode the
specification gives it, as plain data, and the state right after power-on reset. -/

namespace Sys2Proof.Machine

/-- Why a step can end in a fault. No meaning of this model raises one: every bus error, UE and refused command
of the specification is a reported outcome and so a next state. -/
inductive Fault where
  /-- Raised by no command: kept so that the type is not empty. Safe. -/
  | none
  deriving DecidableEq, Repr

/-- Why a command can be refused. -/
inductive Refusal where
  /-- Raised by an arm of `exec` whose command has no meaning yet. Safe: the machine stops. -/
  | notModelled (mnemonic : String)
  deriving DecidableEq, Repr

/-! ### What the device puts out besides TCS messages -/

/-- An output of the device: a pause frame with its quanta (R203, R425), a frame on a lane port with its last
byte's time, a downlink front-haul packet, a spur block or wake burst, a PPS edge, an interrupt, what a lane drives from now on. -/
inductive DevOut where
  | pause (iot port pcp quanta : Nat)
  | frame (iot port len at_ : Nat) (badFcs : Bool) (bytes : List Byte)
  | record (iot port carrier ru at_ : Nat) (zeros : Bool) (prbs : List (Nat × List Int))
  | ptp (iot port kind : Nat) (at_ : Nat)
  | spur (port kind : Nat)
  | spurTime (port : Nat) (sec ns delay : Nat)
  | ppsOut (at_ widthUs : Nat)
  | tone (bank lane : Nat)
  | wakeBus (code : Nat)
  | pmbus (entry cmd value : Nat)
  | lane (iot lane : Nat) (drive : LaneDrive)
  deriving DecidableEq, Repr


/-! ### Bus and registers (R11 to R17, R339) -/

/-- Why a bus access fails (the STATUS and cause numbers of R351 and R339). -/
inductive BusCause where
  | decodeErr | ue | prot | domainAsleep
  deriving DecidableEq, Repr

/-- What the last register or memory access answered. -/
inductive BusReply where
  | none
  | data (v : DWord)
  | bytes (l : List Byte)
  | done
  | error (c : BusCause)
  deriving DecidableEq, Repr

/-- The pending half of a complement-paired register (R16): which half came first, its value, who wrote it
and when. -/
structure CpPending where
  complement : Bool
  value : Word
  by_ : Requester
  at_ : Nat
  deriving DecidableEq, Repr

/-- A 64-bit half held for one requester and one register (R12): a latched high half or a held low half. -/
structure HalfHeld where
  by_ : Requester
  addr : Nat
  value : Word
  deriving DecidableEq, Repr

/-- A value selected per requester (DSQ_Q_SEL, DSQ_FLOW_SEL, WFQ_Q_SEL: R195, R216, R428). -/
structure PerReq where
  by_ : Requester
  addr : Nat
  value : Word
  deriving DecidableEq, Repr

/-- The register side of the device. `words` holds every register word that differs in writing history from its
reset value, by address; a word not listed reads its reset value (R14). -/
structure RegState where
  words : FMap Word
  latches : List HalfHeld
  held : List HalfHeld
  cp : FMap CpPending
  sel : List PerReq
  reply : BusReply
  deriving DecidableEq, Repr

/-! ### Memory (R365 to R393) -/

/-- What is wrong with a code word: an error not yet detected (correctable with its syndrome or symbol, or
uncorrectable), or poison (R371 to R374). -/
inductive CodeMark where
  | ce (synd : Byte)
  | ue
  | poison
  deriving DecidableEq, Repr

/-- A soft-fuse entry (R387). -/
structure SoftFuse where
  kind : Nat
  tile : Nat
  unit_ : Nat
  spare : Nat
  where_ : Nat
  first : Nat
  crc : Word
  deriving DecidableEq, Repr

/-- A correctable error remembered for the repair rule of R387: tile, kind of unit, bank, row, column and bit,
code word, second, and whether a scrub pass found it. -/
structure ErrSeen where
  tile : Nat
  hbm : Bool
  bank : Nat
  row : Nat
  col : Nat
  synd : Nat
  word_ : Nat
  sec : Nat
  scrub : Bool
  deriving DecidableEq, Repr

/-- A first UE at a code word, for UE_REPORT (R380). -/
structure UeRep where
  cw : Nat
  kind : Nat
  reader : Nat
  src : Nat
  qid : Nat
  deriving DecidableEq, Repr

/-- Memory: the bytes in canonical form, the marks of bad code words, the corrected write-backs not yet
performed (R375), the soft-fuse entries (R387), sleep counts (R388, R390) and the report limiter (R380). -/
structure MemState where
  cells : List Host.Cell
  marks : FMap CodeMark
  writeBacks : List Nat
  ueReports : List UeRep       -- first UEs not yet reported (R380)
  reportSec : Nat
  reportCount : Nat
  suppressed : Nat
  seen : List ErrSeen
  softFuses : List SoftFuse
  sleepK : FMap Nat
  hbmK : FMap Nat
  scrubAt : FMap Nat
  scrubRuns : FMap Nat         -- consecutive scrub passes that corrected a code word (R387)
  retFailed : List Nat         -- MEM tiles whose stack lost pseudo-channels at a wake and is to be scrubbed first (R390)
  ctxOwner : FMap Nat
  deriving DecidableEq, Repr

/-! ### Tile network (R347 to R364) -/

/-- A request in flight (R351, R352): the source tile and requester, tag, class, target address, bytes and,
for a write, the data. -/
structure NocReq where
  src : Nat
  req : Nat
  tag : Nat
  cls : Nat
  op : Nat
  by_ : Requester
  addr : Nat
  nbytes : Nat
  data : List Byte
  deriving DecidableEq, Repr

/-- A RESPONSE or RETURN on its way back (R351, R363). -/
structure NocResp where
  dst : Nat
  src : Nat
  req : Nat
  tag : Nat
  cls : Nat
  op : Nat
  status : Nat
  addr : Nat
  nbytes : Nat
  data : List Byte
  deriving DecidableEq, Repr

/-- A MESSAGE delivered to a tile (R352). -/
structure NocMsg where
  src : Nat
  dst : Nat
  cls : Nat
  addr : Nat
  data : List Byte
  deriving DecidableEq, Repr

/-- What a packet carries: a READ, WRITE or MESSAGE, or a RESPONSE or RETURN (R351, R355). -/
inductive Cargo where
  | request (q : NocReq)
  | answer (r : NocResp)
  deriving DecidableEq, Repr

/-- One hop of a route (R353, R354): the router it leaves, the direction (0 +x, 1 -x, 2 +y, 3 -y, 4 turned round), and the
virtual channel it takes. -/
structure Hop where
  tile : Nat
  dir : Nat
  vc : Nat
  deriving DecidableEq, Repr

/-- A packet in the network (R350 to R356): its class, its route, and for each flit how many hops it has made and the
transfer slot from which it may make the next. -/
structure Packet where
  cargo : Cargo
  cls : Nat
  hops : List Hop
  flits : List (Nat × Nat)
  deriving DecidableEq, Repr

/-- Network state: requests awaiting an answer, answers under way, messages delivered, requests waiting for tokens (R359),
the count of consecutive failed replays per link (R350), packets in the network in the order of their injection, requests
that have reached their target tile, by link × 4 + class the lane served last (R356), and until when a replay holds a
link. -/
structure NocState where
  outstanding : List NocReq
  responses : List NocResp
  messages : List NocMsg
  waiting : List NocReq
  replays : FMap Nat
  refillAt : FMap Nat
  flight : List Packet
  atTarget : List NocReq
  served : FMap Nat
  held : FMap Nat
  deriving DecidableEq, Repr

/-! ### The corridor model (R21 to R59) -/

/-- An RU (R43). -/
structure Ru where
  station : Bool
  sindex : Nat
  ports : Nat
  path : Nat
  link : Nat
  flowid : Nat
  vlan : Nat
  mac : Nat
  txproc : Nat
  chainage : Word
  deriving DecidableEq, Repr

/-- A carrier (R90); its centre frequencies are held as pairs (R15) through their one writer. -/
structure Carrier where
  std : Nat
  scs : Nat
  bw : Nat
  duplex : Nat
  dl : Word
  ul : Word
  deriving DecidableEq, Repr

/-- Instance state (R48): active, suspended by a spur retrain (R37), or shed by its spur port (R466). -/
inductive InstState where
  | active | suspended | shed
  deriving DecidableEq, Repr

/-- A carrier instance (R48, R91, R92). `order` is its admission number (R37). -/
structure Inst where
  st : InstState
  txEn : Word
  pwrLimit : Word
  compw : Word
  maskLo : Word
  maskHi : Word
  order : Nat
  ingressQid : Nat
  freeQid : Nat
  egressQid : Nat
  deriving DecidableEq, Repr

/-- A static cell (R45). -/
structure StaticCell where
  corridor : Nat
  carrier : Nat
  rus : List Nat
  deriving DecidableEq, Repr

/-- A station cell (R46). -/
structure StationCell where
  maxUl : Nat
  maxDl : Nat
  deriving DecidableEq, Repr

/-- The corridor model: corridors with their HANDOVER_MARGIN, RUs, carriers (key
`(scope*16+sindex)*1024+carrier`), instances (key `ru*1024+carrier`), static cells by number, station cells,
and the next admission number. -/
structure CorridorModel where
  corridors : FMap Nat
  rus : FMap Ru
  carriers : FMap Carrier
  insts : FMap Inst
  statics : FMap StaticCell
  stations : FMap StationCell
  nextOrder : Nat
  shortfall : List (Nat × Nat)     -- (RU, carrier) suspended and not yet reported (R37)
  retrained : FMap Nat             -- by RU: when its spur port last trained (R37)
  lowered : FMap Nat               -- by instance key: when a shortfall last changed the instance (R37)
  deriving DecidableEq, Repr

/-! ### The Gaffer: sessions, mailboxes, semaphores, events (R60 to R103) -/

/-- A message the device sends: a response, ACK or event (R64), in a form to an address (R60), with the key its tag is
made with (none: a zero tag, R65; on chip: no tag, R102) and the tag itself. -/
structure OutMsg where
  via : Via
  form : MsgForm
  dst : Nat
  flags : Nat
  mbx : Nat
  crit : Nat
  session : Word
  seq : Word
  opcode : Nat
  status : Nat
  payload : List Byte
  key : Option (BitVec 256)
  tag : BitVec 256 := 0#256
  deriving DecidableEq, Repr

/-- A cached response with its request's mailbox, SEQ and tag (R74). -/
structure CacheEntry where
  mbx : Nat
  seq : Word
  tag : BitVec 256
  resp : OutMsg
  deriving DecidableEq, Repr

/-- State of a peer session (R51). -/
inductive PeerSt where
  | none | opening | live
  deriving DecidableEq, Repr

/-- An export in progress at a corridor end (R52 to R58). -/
structure Export where
  run : Nat
  sTime : Nat
  started : Nat
  ctx : Option (Nat × Nat)      -- LEN, ADDR of the context blob
  delta : Option (Nat × Nat)
  recordSent : Bool
  accepted : Bool
  deltaSent : Bool
  mbxKey : Option Nat           -- the mailbox of a RUN_EXPORT that waits for it
  seq : Nat                     -- SEQ of its RUN_IMPORT
  peerRun : Nat
  deriving DecidableEq, Repr

/-- An import in progress at a corridor end (R57 to R59). -/
structure Import where
  msg : TcsMsg
  body : ImportBody
  run : Option Nat              -- the run, once ACCEPT has been sent
  ctxParts : List (Nat × Nat)   -- OFFSET and length of the chunks that have arrived (R58)
  deltaParts : List (Nat × Nat)
  deltaOk : Bool
  deriving DecidableEq, Repr

/-- A peer entry and its session (R47, R51). -/
structure Peer where
  cfg : PeerBody
  st : PeerSt
  session : Word
  key : BitVec 256
  nonce : List Byte            -- the opener's nonce (R51)
  kem : Nat                    -- the opener's encapsulation key, by its number (R51)
  lastAuth : Nat
  lastSent : Nat
  endedAt : Nat
  highSeq : Nat
  cache : List CacheEntry
  exports : FMap Export         -- by run (R52)
  import_ : Option Import
  retries : FMap Nat            -- runs whose export failed, with the earliest time of the next (R53)
  sentSeq : Nat
  keepAt : Nat
  deriving DecidableEq, Repr

/-- Session state per port (R71). -/
inductive SessSt where
  | none | pending | live
  deriving DecidableEq, Repr

/-- The session of one MGT port (R68 to R74). -/
structure Session where
  st : SessSt
  id : Word
  slot : Nat
  key : BitVec 256
  pendingAt : Nat
  lastAuth : Nat
  highSeq : Nat
  src : Nat
  form : MsgForm              -- the form of the last authenticated request (R60)
  cache : List CacheEntry
  deriving DecidableEq, Repr

/-- The result of one setting (R87). -/
structure SettingResult where
  status : Nat
  effective : Nat
  deriving DecidableEq, Repr

/-- A command being executed in a mailbox (R77): its request, opcode, the settings not yet checked, the results
so far, the setting that waits for its carrier's boundary (R88; with
the carrier's key and the number of the frame in which it was checked), its place in the order of acceptance and the
time of acceptance (R78). -/
structure MbxExec where
  msg : TcsMsg
  opcode : Nat
  rest : List Setting
  results : List SettingResult
  waiting : Option (Setting × Nat × Nat)
  order : Nat
  at_ : Nat
  deriving DecidableEq, Repr

/-- A punty semaphore (R79 to R83): the port and session that hold it, and when the lease ends. -/
structure Sem where
  port : Nat
  session : Word
  leaseEnd : Nat
  deriving DecidableEq, Repr

/-- An event (R98); `sentTo` lists the sessions it was addressed to. -/
structure EventRec where
  evseq : Nat
  code : Nat
  severity : Nat
  objKind : Nat
  objIndex : Nat
  sec : Nat
  ns : Nat
  detail : List Byte
  sentTo : List Word
  deriving DecidableEq, Repr

/-- The Gaffer's mailboxes and management state. -/
structure Tcs where
  sessions : FMap Session         -- by port
  nextSession : Nat
  mailboxes : FMap MbxExec        -- key port*16+mbx, or 0x100 + on-chip mailbox
  nextOrder : Nat
  sems : FMap Sem
  stats : FMap Nat                -- key port*8 + statistic (R97 group 0); port 2 stands for the peers' port 47601 (R50)
  evseq : Nat
  events : List EventRec          -- oldest first, at most 4,096
  netStored : FMap (List Byte)    -- key ITEM*65536+INDEX (R96)
  netRunning : FMap (List Byte)
  totals : FMap Nat               -- 64-bit counter totals by register address (R97)
  notices : List (Nat × Nat × Nat)  -- on-chip completion notices waiting: mailbox, QID, retry time (R200)
  onchipReq : FMap Requester      -- core of a submitted on-chip request that has not been taken up
  onchipDone : FMap Nat           -- STATUS of a response written but not yet completed (R102)
  deriving DecidableEq, Repr


/-! ### Device time (R429) -/

/-- Device time: seconds, nanoseconds, and a 48-bit fraction of a nanosecond. -/
structure DevTime where
  sec : Nat
  ns : Nat
  frac : Nat
  deriving DecidableEq, Repr

/-! ### Bring-up, keys and images (R532 to R551) -/

/-- State of a key slot (R545). -/
inductive KeySt where
  | empty | enrolled | revoked
  deriving DecidableEq, Repr

/-- A key slot (R545). -/
structure KeySlot where
  st : KeySt
  pubkey : List Byte
  deriving DecidableEq, Repr

/-- A loaded DSP image (R549, R550). -/
structure Loaded where
  slot : Nat
  version : Nat
  hash : List Byte
  cores : List Nat
  startTask : List Byte
  deriving DecidableEq, Repr

/-- A PARISON carrier that moves to full service (R538): the carrier key, and the instances whose width still
has to return, by RU;
`frame` is the frame in which its next setting was issued. -/
structure ParisonMove where
  key : Nat
  estimates : Bool
  frame : Nat
  rus : List Nat
  deriving DecidableEq, Repr

/-- Bring-up and trust. -/
structure Boot where
  stage : Nat                -- the last completed step of R532, 7 once PARISON service runs
  recovery : Bool            -- R541
  bootedSlot : Option Nat    -- 0 A, 1 B
  svMin : Nat                -- security version minimum (R540)
  gver : Nat
  hver : Nat
  boots : Nat
  slotA : GafferImage
  slotB : GafferImage
  cert : List Byte
  meas : List (List Byte)    -- MEAS0 to MEAS15 (R542)
  keys : FMap KeySlot        -- kind*8 + slot; kind 0 host, 1 DSP, 2 fabric
  images : FMap Loaded
  debugNow : Nat             -- debug level in force (R551)
  debugNext : Nat            -- level at the next boot
  sealed : Bool
  hbmTries : FMap Nat        -- failed trainings per stack (R539)
  hbmUp : List Nat           -- stacks trained
  hbmFailed : Bool
  tilesToStart : List Nat    -- staggered tile starts still to make (R505, R537)
  timeOk : Bool              -- the time condition of R537 holds
  moves : List ParisonMove   -- carriers still to move (R538)
  parisonCarriers : List Nat
  phase : Nat                -- step of R537 under way, 0 before step 7 of R532, 7 in full service
  widths : FMap Nat          -- stored compression widths of PARISON instances, by instance key
  deriving DecidableEq, Repr

/-! ### Storage and the Lehr (R552 to R572) -/

/-- A journal record (R561). -/
structure JRec where
  rtype : Nat
  boots : Nat
  jseq : Nat
  sec : Nat
  ns : Nat
  source : Nat
  chain : List Byte
  body : List Byte
  severity : Nat
  deriving DecidableEq, Repr

/-- An image slot (R560): state 0 EMPTY, 1 STAGING, 2 STAGED, 3 INVALID, with the NAND blocks that hold it. -/
structure ImgSlot where
  st : Nat
  total : Nat
  written : Nat
  data : List Byte
  blocks : List Nat
  deriving DecidableEq, Repr

/-- What a NAND block is used for (R553, R557). -/
inductive BlockUse where
  | table | spare | free | journal | image | retired
  deriving DecidableEq, Repr

/-- A NAND block (R553 to R558): its target, use, erase count, soft reads in succession, and when it was last patrolled
or written. -/
structure NandBlock where
  target : Nat
  use : BlockUse
  erases : Nat
  softHits : Nat
  patrolAt : Nat
  deriving DecidableEq, Repr

/-- A telemetry frame still held in the ring (R570). -/
structure TelFrame where
  sample : Nat
  addr : Nat
  bytes : List Byte
  deriving DecidableEq, Repr

/-- Storage, journal and Lehr. -/
structure Storage where
  jNext : Nat                -- next JSEQ
  chain : List Byte          -- CHAIN of the last record
  staging : List JRec        -- in the MRAM staging ring, not yet in NAND
  buffer : List JRec         -- waiting in CTL-H SRAM (R563)
  nand : List (Nat × JRec)   -- in the JOURNAL partition by block, oldest first
  jPage : Option (Nat × Nat) -- the block that journal pages go to, and its pages written
  jCap : Nat                 -- blocks of the JOURNAL partition
  pages : Nat                -- pages of 16 KiB in a block
  factoryBad : Nat
  grownBad : Nat
  unreadable : List Nat      -- JSEQs that lie in a NAND UE
  baseChain : List Byte
  lostCount : Nat
  lostFirst : Nat
  lostLast : Nat
  rate : List (Nat × Nat)    -- (second, bytes staged) over the last 60 s (R567)
  slots : FMap ImgSlot
  blocks : FMap NandBlock
  endurance : Nat
  telBytes : Nat             -- bytes written to the telemetry ring since its base was set
  telFrames : List TelFrame
  clogCopies : List (Nat × DWord × Word)  -- CLOG entries harvested for the next telemetry frame: tile, address, INFO (R378, R570)
  genA : Nat                 -- generation of configuration copy 0 (R566)
  genB : Nat
  dutyAt : FMap Nat          -- when each Lehr duty was last done, by its place in R568
  deriving DecidableEq, Repr


/-! ### Runs (R149 to R190) -/

/-- An external position report that waits for its boundary (R159): its fields, and the mailbox that holds the
command. -/
structure PosReport where
  speedValid : Bool
  accuracy : Nat
  chainage : Nat
  speed : Int
  tFix : Nat
  mbx : Nat
  deriving DecidableEq, Repr

/-- A run as the Gaffer and its home tile hold it beside the run context in memory: command fields, the
window (WIN_LO, WIN_HI), tracker state, and the progress of
RUN_END (R186), of an import (R183) and of an accepted export (R183). -/
structure Run where
  corridor : Nat
  home : Nat
  ctx : Nat
  anchor : Nat
  dir : Nat
  winSize : Nat
  joinSlots : Nat
  combMode : Nat
  hyst : Nat
  lead : Nat
  coast : Nat
  statusQid : Nat
  win : Nat × Nat
  centre : Nat
  bTerm : Int
  noFix : Nat
  since : Nat             -- `now` at entry to SEEK or COAST
  reports : List PosReport
  clampOn : FMap Nat      -- consecutive boundaries at a clamp, by feed slot
  clampOff : FMap Nat     -- consecutive boundaries off the clamps, by feed slot
  phi : FMap (Word × Word) -- advance of the accumulators φ and ψ since the feed began, by carrier × 8 + feed slot (R160)
  seeds : FMap Nat        -- the free-value number of each feed's starting phases, by feed slot
  applied : FMap (List Int) -- FREQ_UL of the last slots, newest first, by feed slot (R152)
  lastWin : Nat × Nat     -- the last window that passed its check (R173)
  bad : List Nat          -- pairs that failed at the last boundary
  rewrite : List Nat      -- pairs the Gaffer rewrites at the next boundary (R174)
  rewriteAt : Nat         -- the slot at which they were found
  boundary : Nat          -- device ns of the last boundary
  ending : Nat            -- 0 no, 1 RUN_TX_EN to be cleared, 2 feeds leave one by one, 3 none is left
  endMbx : Option Nat     -- the mailbox of the RUN_END that waits
  exported : Option Nat   -- accepted export: device ns of S + 1
  import_ : Option Nat    -- import: boundaries since ACCEPT
  importS : Option Nat    -- device ns of S + 1 of an import
  endHi : Bool            -- corridor end of an import
  deriving DecidableEq, Repr


/-! ### Islands (R349, R500, R501, R513) -/

/-- Island state (R500). -/
inductive IslSt where
  | run | draining | halt | keep | off
  deriving DecidableEq, Repr

/-- The island of a tile: its state, the wake step under way (0 none, 1 IVR, 2 oscillator, 3 memory, 4 logic:
R513), when the wake began (its steps are timed from there) and how often it was repeated (R514), whether the island failed, what it goes to when
it has drained, since when the tile has been idle, and whether it was woken for a scrub pass (R506). -/
structure Island where
  st : IslSt
  step : Nat
  stepAt : Nat
  tries : Nat
  failed : Bool
  target : IslSt
  wakePending : Bool
  idleSince : Nat
  forScrub : Bool
  deriving DecidableEq, Repr

/-! ### Dispatchers (R191 to R230) -/

/-- An entry of a queue: its 32 bytes (held in memory instead when LOC = 1) and whether an uncorrectable error
lies in it (R381). -/
structure QEntry where
  bytes : List Byte
  ue : Bool
  stamp : Nat          -- when it was enqueued (device ns; R426)
  aborted : Bool       -- a JOB_ABORT found it queued (R318)
  deriving DecidableEq, Repr

/-- A push held at a full queue (R200, R201). -/
structure HeldPush where
  producer : Producer
  bytes : List Byte
  deriving DecidableEq, Repr

/-- A queue (R192 to R205). -/
structure Queue where
  en : Bool
  lock : Bool
  kind : Nat          -- 0 TASK, 1 ACC-JOB, 2 EGRESS, 3 STREAM
  loc : Bool
  emergOk : Bool
  depth : Nat
  hi : Nat
  lo : Nat
  staleUs : Nat
  outResv : Nat
  ring : Nat
  target : Nat        -- DSQ_Q_TARGET[31:24]: SUBTYPE*16 + QMASK
  head : Nat          -- index of the head entry in the ring
  entries : List QEntry
  resv : Nat
  held : List HeldPush
  deferred : List Nat -- DEFER reasons already recorded for the head (R228)
  paused : Bool       -- backhaul pause asserted (R203)
  pausedAt : Nat
  prefetched : Bool   -- the head's context prefetch is done (R215)
  ctxUe : Bool        -- the prefetch met an uncorrectable error (R381)
  bp : Bool           -- a BACKPRESSURE assertion is recorded and not yet released
  readyAt : Nat       -- since when the present head can have been eligible (device ns; R211)
  deriving DecidableEq, Repr

/-- A report span of catch-up episodes (R226). -/
structure Span where
  lamMax : Nat
  count : Nat
  lastEnd : Option Nat
  deriving DecidableEq, Repr

/-- Flow state of one FLID of one dispatcher (R216 to R226). -/
structure Flow where
  ordered : Bool
  periodic : Bool
  period : Nat
  enq : Nat
  nextRel : Nat
  lam : Nat
  episode : Bool
  span : Option Span
  deriving DecidableEq, Repr

/-- A task or job from dispatch to release (R209, R219, R220): its own number (SEQ of an unordered flow names nothing:
R217), where it came from, the unit that runs it, its
scale, the OUTQ space still reserved, what it placed there, and how it ended (DT of the end; terminated without
TEND; dropped as stale). -/
structure Running where
  id : Nat
  q : Nat
  qid : Nat
  flid : Nat
  seq : Nat
  entry : List Byte
  tile : Nat
  core : Option Nat
  scale : Nat
  outq : Option Nat
  resvLeft : Nat
  placed : Nat
  staged : List (List Byte)
  ordered : Bool
  slot : Option Nat
  ended : Option Nat
  terminated : Bool
  stale : Bool
  reported : Option Bool   -- its end has been reported; true: terminated without TEND
  hardRaised : Bool        -- DEADLINE_HARD was raised for it (R210)
  deriving DecidableEq, Repr

/-- A slot of a dispatcher's context cache (R215). -/
structure CtxSlot where
  ctx : Nat
  dirty : Bool
  stamp : Nat
  busy : Bool
  deriving DecidableEq, Repr

/-- The crumb stream of a port (R229): the session it goes to, the dispatchers, the records of the waiting message,
the byte budget and when it was last refilled, and the next frame number. -/
structure CrumbStream where
  session : Word
  dsqs : Nat
  waiting : List (List Byte)
  budget : Nat
  refilled : Nat
  frame : Nat
  deriving DecidableEq, Repr

/-- Dispatchers: queues by QID, flows by dispatcher*4096+FLID, work in flight, the context caches (key
dispatcher*2048+slot), crumb streams by port, the last crumb time written per dispatcher (R228, R441), which dispatchers'
STOP rings are full (R229), the number of the next piece of work, and when each core (tile*4+core) was last freed
(R211). -/
structure Dispatchers where
  queues : FMap Queue
  flows : FMap Flow
  running : List Running
  ctx : FMap CtxSlot
  ctxStamp : Nat
  streams : FMap CrumbStream
  lastTime : FMap Nat
  ringFull : FMap Bool
  nextRun : Nat
  freed : FMap Nat
  bhIngress : FMap Nat   -- backhaul ingress QIDs by (IOT*4+port)*8+PCP (R404)
  deriving DecidableEq, Repr


/-! ### DSP cores (R231 to R298) -/

/-- STATE of CORE_STAT (R278). -/
inductive CoreSt where
  | idle | run | wait | debugHalt
  deriving DecidableEq, Repr

/-- A repetition under way (R263): the address of its REP, its count, the iterations left, and whether one has
executed. -/
structure RepState where
  at_ : DWord
  left : Nat
  started : Bool
  deriving DecidableEq, Repr

/-- Where loaded bytes go. -/
inductive LoadDest where
  | g (r size : Nat) (sx : Bool)
  | file (f : AFile) (r : Nat)
  | v (r : Nat) (lo : Nat) (size : Nat)
  deriving DecidableEq, Repr

/-- One access of a load: its address, bytes, where the data goes, and whether the line is cached. -/
structure LoadPart where
  addr : Nat
  n : Nat
  dest : LoadDest
  cached : Bool
  deriving DecidableEq, Repr

/-- A load that holds M2 until its data returns (R232): its issue, its accesses, the address registers it leaves, and
when it issued. -/
structure PendLoad where
  issue : Issue
  parts : List LoadPart
  upd : List (Nat × DWord)
  gather : Bool
  since : Nat
  sent : Bool               -- its READs have been injected (R359)
  deriving DecidableEq, Repr

/-- A posted store in the write buffer (R258). -/
structure PostedStore where
  addr : Nat
  bytes : List Byte
  sideEffect : Bool
  waited : Bool             -- counted as waiting for tokens (R359)
  element : Option Nat
  deriving DecidableEq, Repr

/-- A data cache line (R256): its bytes and when it was last used. -/
structure CacheLine where
  bytes : List Byte
  stamp : Nat
  deriving DecidableEq, Repr

/-- The details of the asynchronous error that waits (R272). -/
structure AsyncErr where
  ecause : Nat
  busCause : Nat
  addr : Nat
  element : Option Nat
  deriving DecidableEq, Repr

/-- An MPU region (R275). -/
structure MpuRegion where
  base : DWord
  limit : DWord
  attr : Word
  deriving DecidableEq, Repr

/-- Where an outstanding coprocessor command stands (R315 to R319): issued and not committed, committed, or
cancelled and awaiting its acknowledgement. -/
inductive CqSt where
  | issued | committed | cancelled
  deriving DecidableEq, Repr

/-- An outstanding coprocessor command of a core (R247, R313): its CQOP, descriptor pointer and operand, where it
stands, the tile that executes it, the address of its CQPUSH and CORE_RETIRED just after it, whether it has arrived,
whether its CANCEL is acknowledged, and its result once known. -/
structure CqCmd where
  op : Nat
  an : Nat
  ga : Word
  st : CqSt
  tile : Nat
  at_ : DWord
  ret : DWord
  arrived : Bool
  acked : Bool
  result : Option Nat
  deriving DecidableEq, Repr

/-- A DSP core (R235, R278). -/
structure Core where
  g : FMap Word
  a : FMap DWord
  m : FMap Word
  b : FMap DWord
  n : FMap Word
  acc : FMap (BitVec 40 × BitVec 40)
  v : FMap (BitVec 512)
  lr : DWord
  pc : DWord
  flags : Word
  st : CoreSt
  exl : Bool
  sup : Bool
  runahead : Bool
  asyncLost : Nat
  ctrl : Word
  estat : Word
  epc : DWord
  eaddr : DWord
  evec : DWord
  ecause : Word
  einfo : Word
  ipend : Word           -- TIMER, DMA, GAFFER_MBX and DEADLINE_HARD; the other two bits follow from the fields below
  imask : Word
  erep : Word
  term : Word
  taskQ : Word
  taskId : Word
  taskClass : Word
  taskS : Word
  taskDl : DWord
  taskEntry : DWord
  taskArg : DWord
  retired : DWord
  timer : DWord
  bankStall : Word
  mispred : Word
  runaheads : Word
  mpu : FMap MpuRegion
  mpuCtrl : Word
  ext : Option (BitVec 26)      -- EXT of a long prefix that waits for its instruction (R240)
  extAt : DWord
  rep : Option RepState
  load : Option PendLoad
  stores : List PostedStore
  asyncErr : Option AsyncErr
  late : List (Nat × Nat)       -- (tag, status), at most 16 (R271)
  cq : FMap CqCmd               -- by tag
  dcache : FMap CacheLine       -- by line address
  icache : List Nat             -- line addresses, most recently used first
  stamp : Nat
  btb : FMap (Nat × Nat)        -- predictor entries: index to (branch address, 2-bit counter) (R234)
  tendWait : Bool               -- TEND waits for CQ tags and posted stores (R273)
  terminating : Option Word     -- CORE_TERM of a termination that waits for posted stores (R274)
  waitAt : Nat                  -- when WAIT stopped issue
  deriving DecidableEq, Repr

/-- Cores by 4 × tile + core, and the cycles each tile had counted when its clock last changed, with that time
(CORE_CYCLE, R278). -/
structure Cores where
  core : FMap Core
  cycles : FMap (Nat × Nat)
  deriving DecidableEq, Repr


/-! ### Accelerator tiles and matrix helpers (R299 to R322) -/

/-- A detection of a random-access job (R141): its peak, whether it replaced another, and whether it has been
confirmed or refused. -/
structure Detection where
  peak : Peak
  replaced : Bool
  settled : Option Bool
  deriving DecidableEq, Repr

/-- A job at an accelerator tile or a helper command at a DSP tile (R301 to R320): what it is, the address of its
descriptor and, once it has started, its bytes; the scale s of its dispatch; whether it is committed; when it took
its slot; its status once decided, with USED, CAPEFF, NOK, SAT, EARLY and RESULT; the writes staged until COMMIT and
whether they reached 16 KiB; the soft buffers it has locked; detections; whether its function has run; whether its
outputs are undefined (R308, R312); whether it is a confirmation that its search abandoned (R141). -/
structure AccJob where
  tile : Nat
  ref : JobRef
  at_ : Nat
  body : List Byte
  scale : Nat
  committed : Bool
  started : Option Nat
  status : Option Nat
  used : Nat
  cap : Nat
  nok : Nat
  sat : Bool
  early : Bool
  result : Nat
  staged : List (Nat × List Byte)
  paused : Bool
  soft : List Nat
  dets : List Detection
  ran : Bool
  openOut : Bool
  dropped : Bool
  deriving DecidableEq, Repr

/-- An abort under way to a tile (R318, R319): the tile, the descriptor and who asked (none: a RACH_SEARCH job). -/
structure AccAbort where
  tile : Nat
  at_ : Nat
  by_ : Option (Nat × Nat × Nat)
  deriving DecidableEq, Repr

/-- Accelerators: jobs in the order of their arrival, aborts under way, false preambles counted by tile (R141), and
the next confirmation number. -/
structure Acc where
  jobs : List AccJob
  aborts : List AccAbort
  falsePreambles : FMap Nat
  nextConf : Nat
  deriving DecidableEq, Repr



/-! ### DMA channels (R323 to R346) -/

/-- A failed access of a channel (R340): the row, the address, the cause, whether it was a write, and ACCESS. -/
structure DmaFail where
  row : Nat
  addr : Nat
  cause : Nat
  write : Bool
  access : Nat
  deriving DecidableEq, Repr

/-- A channel beside its registers: the instruction it executes (empty until its fetch returns), whether that has
begun, the next row to issue, the rows or the signal outstanding, the rows completed, the entries popped for rows
(R341), the failure latched, whether an ABORT is pending, when a WAIT began, and whether
the fetch follows a RING in PARK. -/
structure DmaChan where
  insn : List Byte
  begun : Bool
  next : Nat
  out : List Nat
  done : List Nat
  kept : FMap (List Byte)
  fail : Option DmaFail
  abort : Bool
  waitAt : Nat
  fromPark : Bool
  waited : List Nat         -- rows counted as waiting for tokens (R359)
  turn : Nat                -- the order in which the engine last served its channels (R324)
  deriving DecidableEq, Repr



/-! ### Lanes, front-haul ingress and spur ports (R108 to R113, R398 to R410, R461 to R472) -/

/-- A lane under test (R410): the ACTION, and when the test ends (`now`). -/
structure LaneTest where
  action : Nat
  until_ : Option Nat
  deriving DecidableEq, Repr

/-- Lane ports: when each port entered its bring-up step (by port key), tests by IOT × 8 + lane, the last
adaptation step of each lane by IOT × 8 + lane, and by port key the lane number that each physical lane of a multi-lane
port carries (R400). -/
structure Lanes where
  stepAt : FMap Nat
  tests : FMap LaneTest
  adaptAt : FMap Nat
  order : FMap (List Nat)
  deriving DecidableEq, Repr

/-- An uplink record being received (R111): its instance, its place in symbol order, its buffer (none: it was dropped
for want of one, R113), what has arrived by PRB or sample of each port, whether a value saturated, the last arrival,
and whether its window has closed. -/
structure UpRec where
  key : Nat
  n : Nat
  buf : Option Nat
  got : FMap (List Int)
  expSat : Bool
  tRx : Option Nat
  closed : Bool
  deriving DecidableEq, Repr

/-- The front-haul engines: records under way, by instance key the number after the last record released, measured
path delays by RU in ns, when each port's delays were last measured (by port key), and frames dropped for want of a
backhaul ingress queue or of room in it (by port key; R96, R203); by instance key the number after the last downlink
symbol sent (R115) and the frame from which its own compression width is in force again (R119, R538). -/
structure FrontHaul where
  recs : List UpRec
  next : FMap Nat
  delay : FMap Nat
  measAt : FMap Nat
  bhDrops : FMap Nat
  sentNext : FMap Nat
  narrowEnd : FMap Nat
  deriving DecidableEq, Repr

/-- A spur port beside its registers: when its step began, the delays of the last timing blocks (2^-8 ns, newest
last), the last upshift, since when the SNR allows a faster rung, the last frame and burst, T1 of a timing block under
way, and the correlation peak (0.1 dB) of a preamble whose header has not passed. -/
structure SpurPort where
  stepAt : Nat
  delays : List Int
  upAt : Option Nat
  lastFrame : Nat
  burstAt : Nat
  peak : Option Nat
  listening : Bool
  deriving DecidableEq, Repr



/-! ### Egress (R412 to R428) -/

/-- A sampling window of an egress queue (R426). -/
structure SampWin where
  start : Nat
  dmin : Nat
  dmax : Nat
  maxDelay : Nat
  sumDelay : Nat
  frames : Nat
  paused : Bool
  deriving DecidableEq, Repr

/-- A bound EGRESS queue (R413, R428): its IOT, configuration word and weight, F_prev, its head's tag, bytes
sent, the front-haul binding it belongs to (instance key) with its DL_ADV, and its sampling window. -/
structure EgQueue where
  iot : Nat
  spur : Bool          -- PORT names a spur port (IOT 1 carries the spur ports)
  cfg : Word
  weight : Nat
  ftag : DWord
  headTag : Option DWord
  bytes : DWord
  binding : Option Nat
  dlAdv : Nat
  samp : SampWin
  deriving DecidableEq, Repr

/-- An entry of a launch calendar (R420): its queue, launch (device ns), entry, whether
zeros go out in place of its record (R114), and its bytes on the wire. -/
structure CalEntry where
  qid : Nat
  launch : Nat
  entry : List Byte
  zeros : Bool
  len : Nat
  deriving DecidableEq, Repr

/-- What a port is sending. -/
inductive TxKind where
  | control
  | wfq
  | timed (slip : Bool)
  deriving DecidableEq, Repr

/-- The frame in transmission on a port (R415, R416, R423): kind, queue, entry, T_TX, when it ends (`now`), its
delay, the status its completion record will carry, whether the MAC discards it (R402, R466), and what goes out. -/
structure TxFrame where
  kind : TxKind
  qid : Nat
  entry : List Byte
  tTx : Nat
  ends : Nat
  delay : Nat
  status : Nat
  disc : Bool
  out : DevOut
  deriving DecidableEq, Repr

/-- Egress: bound queues by QID, and by port (IOT × 16 + port, spur port p of IOT 1 as port 8 + p) the launch calendar in launch order, the frame in
transmission, MAC control frames that wait (PCP, quanta); received pause ends by port × 8 + PCP; per IOT the
time of the last telemetry record, whether one was lost since, the last TIME written (R441), and how far the Lehr has read the ring. -/
structure Egress where
  bound : FMap EgQueue
  cal : FMap (List CalEntry)
  tx : FMap TxFrame
  control : FMap (List (Nat × Nat))
  paused : FMap Nat
  telAt : FMap Nat
  telLost : List Nat
  telTime : FMap Nat
  telRead : FMap Nat
  deriving DecidableEq, Repr


/-! ### Network time (R433 to R453) -/

/-- A TIME_REACQUIRE that waits for its step (R438): MAX_STEP, the end of its wait (`now`), its mailbox, and the
servo state it left. -/
structure Reacq where
  maxStep : Nat
  until_ : Nat
  mbx : Nat
  from_ : Nat
  /-- STEP_DONE of the state it left. -/
  done : Bool
  /-- The first 16 consecutive measurements taken since it was accepted (R435). -/
  taken : List Int
  deriving DecidableEq, Repr

/-- What a slave port holds of a PTP exchange (IEEE 1588): the last Sync's t1 and correction (both in 2^-16 ns), its
t2, whether its Follow_Up is still to come. -/
structure PtpPort where
  t1 : Int
  corr : Int
  t2 : Int
  twoStep : Bool
  deriving DecidableEq, Repr

/-- The servo and what belongs to it beside the registers: the last offset measurements (2^-16 ns, newest last) and
when the last arrived, since when the offset is within 2 ns, the frequency part of RATE, RATE over the time spent
LOCKED (duration in ns, RATE) and since when the last entry runs, a TIME_REACQUIRE under way, whether this
qualification was already refused, the profile and domain stored and in force, loop settings, SyncE priorities and
wait-to-restore ends by IOT × 8 + port, grandmaster time of the next pulse and the last pulse, the next occurrence
of each time event, the steering code with 16 fraction bits, its codes of the last day, PTP exchanges by port, and
the phase of STILL. -/
structure TimeState where
  meas : List Int
  lastMeas : Nat
  lockSince : Option Nat
  freq : Int
  rateLog : List (Nat × Int)
  rateSince : Option Nat
  reacq : Option Reacq
  refused : Bool
  profStored : Nat
  domStored : Nat
  profile : Nat
  domain : Nat
  servoBw : Nat
  slewMax : Nat
  syncePrio : FMap Nat
  wtr : FMap Nat
  gm : Option Nat
  ppsAt : Nat
  ppsTaken : Bool
  tevNext : FMap Nat
  hoAcc : Int
  codes : List (Nat × Nat)
  rampAt : Nat
  ptp : FMap PtpPort
  grants : List (Nat × Nat × Nat)   -- unicast grants served: IOT × 8 + port, client, end (`now`) (R443)
  heldEvents : Bool      -- HOLDOVER_ENTERED still to be sent at wake (R434)
  stored : FMap DWord    -- TIME_CONFIG settings stored, by ITEM × 65,536 + IOT × 256 + PORT (R447)
  deriving DecidableEq, Repr


/-! ### Fabric tiles (R474 to R496) -/

/-- A request at a target port that user logic has not answered (R488): its number, who asked, the address, whether it
writes, its length, and when it came. -/
structure FabTgt where
  id : Nat
  by_ : Requester
  addr : Nat
  write : Bool
  n : Nat
  at_ : Nat
  deriving DecidableEq, Repr

/-- A load or unload under way (R492 to R494): the mailbox, the slot (none: an unload), DRAIN_MS, the image once it is
verified, the state before it, when its step began, and LOST. -/
structure FabJob where
  mbx : Nat
  slot : Option Nat
  drainMs : Nat
  image : Option FabImage
  before : Nat
  at_ : Nat
  lost : Nat
  deriving DecidableEq, Repr

/-- The flags of a queue controller (R483), and how many edges of each side's clock have passed since its flags could have
been deasserted. -/
structure QcFlags where
  full : Bool
  almostFull : Bool
  empty : Bool
  almostEmpty : Bool
  wEdges : Nat
  rEdges : Nat
  deriving DecidableEq, Repr

/-- The values that user logic holds (R475 to R479): routing wires, carry outputs by cell, flip-flops by 2 × cell, plus 1
for FFB, long lines (the bus keeper's value), clock generator outputs and the levels of the user pins inside the fabric. -/
structure NetVal where
  wires : FMap Bool
  carries : FMap Bool
  flops : FMap Bool
  lines : FMap Bool
  gens : FMap Bool
  pins : FMap Bool
  deriving DecidableEq, Repr

/-- A fabric tile beside its registers: the design, a load under way, the words in the queue controllers, when a pop may
be repeated (R487), the lines shut down, target requests, and the upper 8 bits of
72-bit block RAM rows by block × 512 + row (R480); the flags of the controllers (R483), the values in user logic, and the
island clock cycles since GSR was released (R491). -/
structure Fab where
  design : Option FabImage
  job : Option FabJob
  fifos : FMap (List (BitVec 72))
  popAt : FMap Nat
  off : List Nat
  targets : List FabTgt
  nextTgt : Nat
  ext : FMap Byte
  flags : FMap QcFlags
  vals : NetVal
  cycle : Nat
  deriving DecidableEq, Repr



/-! ### Power (R497 to R531) -/

/-- A device transition under way (R505 to R512): the STATE asked for, RESUME, SETTLE_US in ns, the mailbox of the
request, the tiles still to stop, since when a busy participant of the first of them is asked and its UNIT, the tiles stopped (last first), the tiles
still to start, whether the transition rolls back and with what status, and who refused (tile, UNIT, REASON). -/
structure Trans where
  target : Nat
  resume : Nat
  settle : Nat
  mbx : Nat
  todo : List Nat
  askedAt : Option Nat
  askedUnit : Nat
  stopped : List Nat
  starts : List Nat
  back : Option Nat
  refuser : Nat × Nat × Nat
  deriving DecidableEq, Repr

/-- A converter entry as it runs (R526 to R528): NOM_MV, the setpoint, consecutive failures, and the last readings:
VOUT in mV, IOUT in 0.1 A, temperature in 0.1 °C. -/
structure PmbEntry where
  nom : Nat
  set : Nat
  nacks : Nat
  vout : Nat
  iout : Nat
  temp : Nat
  polledAt : Nat
  deriving DecidableEq, Repr

/-- The power manager beside its registers: the transition under way, whether the dispatchers are STOPPING, RESUME of
the last STILL, when STILL was committed, whether STILL has been reached, the first wake source (its order in R519,
WAKE_CAUSE and when it came), the sources seen, the islands that wake with the device, the last staggered start,
configured MULT of throttled islands and when their MULT last moved, when voltage codes were last updated, the warning in force and the warnings since
reset, and the converter entries stored (cfg, NOM_MV) and in use. Islands 144 to 150 are those of WAKE_FAIL. -/
structure Power where
  trans : Option Trans
  stopping : Bool
  resume : Nat
  commitAt : Option Nat
  still : Bool
  cause : Option (Nat × Word × Nat)
  src : Word
  waking : List Nat
  wakeTries : Nat
  nextStart : Nat
  mult : FMap Nat
  multAt : FMap Nat
  raising : List Nat     -- throttled islands that cooled down and are raised again (R525)
  avsAt : FMap Nat
  stretched : Bool
  droopAt : Nat
  warnings : Nat
  pmbStored : FMap (Nat × Nat)
  khzStored : Nat
  khz : Nat
  pmb : FMap PmbEntry
  trimAt : Nat
  deriving DecidableEq, Repr



/-! ### Auxiliary DACs and pins (R592 to R595, R580) -/

/-- DACs and pins beside the registers: DAC_CLR_N low, the Lehr's offset trims by channel in force and
awaiting the channel's next load, THERMTRIP_N held; by channel the cycle (`now`) of the last code write with the code held
before it, and by load group the cycle of its last load (R594). -/
structure Pins where
  clrLow : Bool
  trim : FMap Int
  trimNext : FMap Int
  thermTrip : Bool
  codeAt : FMap (Nat × Nat)
  loadAt : FMap Nat
  deriving DecidableEq, Repr

/-- The whole state. -/
structure State where
  /-- The configuration (R2); it never changes. -/
  part : Part
  /-- The model's own clock: ns since power-on reset, against which the rules' time limits are measured. -/
  now : Nat
  /-- The registers. -/
  regs : RegState
  /-- Memory. -/
  mem : MemState
  /-- The network on chip. -/
  noc : NocState
  /-- The corridor model. -/
  cor : CorridorModel
  /-- Peer entries, by corridor*2+END (R47). -/
  peers : FMap Peer
  /-- The Gaffer's sessions, mailboxes, semaphores and events. -/
  tcs : Tcs
  /-- Messages sent by the Gaffer, oldest first. -/
  out : List OutMsg
  /-- Device time (R429). -/
  clk : DevTime
  /-- Bring-up, keys and images. -/
  boot : Boot
  /-- NAND, journal, telemetry. -/
  stor : Storage
  /-- What the ports and pins have put out, oldest first. -/
  lines : List DevOut
  /-- Runs by number (R149). -/
  runs : FMap Run
  /-- TRIM_D of the last 16 feeds of each RU that left ACTIVE (R166), kept in MRAM. -/
  ruTrims : FMap (List Int)
  /-- The stored configuration of the corridor model (R534, R566). -/
  corStored : CorridorModel
  /-- Tile islands by tile; one not listed is OFF (R500). -/
  islands : FMap Island
  /-- The quadrant dispatchers. -/
  dsq : Dispatchers
  /-- DSP cores. -/
  cores : Cores
  /-- Accelerator tiles and matrix helpers (R299 to R322). -/
  acc : Acc
  /-- DMA channels by tile × 16 + channel (R323 to R346). -/
  dma : FMap DmaChan
  /-- Egress queues, calendars and transmitters. -/
  eg : Egress
  /-- The servo and the time engine (R433 to R453). -/
  time : TimeState
  /-- Traffic and management lanes (R394 to R410). -/
  lanes : Lanes
  /-- Front-haul ingress (R108 to R113). -/
  fh : FrontHaul
  /-- Spur ports by number (R457 to R472). -/
  spur : FMap SpurPort
  /-- Fabric tiles by FAB number (R474 to R496). -/
  fab : FMap Fab
  /-- The power manager (R497 to R531). -/
  power : Power
  /-- Auxiliary DACs and pins. -/
  pins : Pins
  /-- The model's own counter of free values taken (DESIGN CHOICE, log entry 3). -/
  fresh : Nat
  /-- The commands that wait, first in first out. -/
  pending : List Instr
  deriving DecidableEq, Repr

/-- Registers at reset: nothing written, latched, held or pending. -/
def RegState.reset : RegState :=
  { words := [], latches := [], held := [], cp := [], sel := [], reply := .none }
/-- Memory at reset: zeros with fresh codes (R386), nothing marked. -/
def MemState.reset : MemState :=
  { cells := [], marks := [], writeBacks := [], ueReports := [], reportSec := 0, reportCount := 0,
    suppressed := 0, seen := [], softFuses := [], sleepK := [], hbmK := [], scrubAt := [], scrubRuns := [], retFailed := [], ctxOwner := [] }
/-- The network at reset. -/
def NocState.reset : NocState :=
  { outstanding := [], responses := [], messages := [], waiting := [], replays := [],
    refillAt := [], flight := [], atTarget := [], served := [], held := [] }
/-- The corridor model at reset: nothing configured. -/
def CorridorModel.reset : CorridorModel :=
  { corridors := [], rus := [], carriers := [], insts := [], statics := [], stations := [],
    nextOrder := 0, shortfall := [], retrained := [], lowered := [] }
/-- The Gaffer at reset: no session, EVSEQ 1 (R98). -/
def Tcs.reset : Tcs :=
  { sessions := [], nextSession := 1, mailboxes := [], nextOrder := 0, sems := [], stats := [],
    evseq := 1, events := [], netStored := [], netRunning := [], totals := [],
    notices := [], onchipReq := [], onchipDone := [] }
/-- A Gaffer slot that holds nothing. -/
def GafferImage.none : GafferImage :=
  { present := false, sigOk := false, version := 0, builtFor := false, hash := [] }
/-- Bring-up at reset. -/
def Boot.reset : Boot :=
  { stage := 0, recovery := false, bootedSlot := .none, svMin := 0, gver := 0, hver := 0, boots := 0,
    slotA := GafferImage.none, slotB := GafferImage.none, cert := [],
    meas := List.replicate 16 (List.replicate 32 0#8), keys := [], images := [],
    debugNow := 0, debugNext := 0, sealed := false, hbmTries := [], hbmUp := [], hbmFailed := false,
    tilesToStart := [], timeOk := false, moves := [], parisonCarriers := [], phase := 0, widths := [] }
/-- Storage at reset: an empty journal whose first JSEQ is 1 (R561). -/
def Storage.reset : Storage :=
  { jNext := 1, chain := List.replicate 32 0#8, staging := [], buffer := [], nand := [], jPage := none, jCap := 0,
    pages := 0, factoryBad := 0, grownBad := 0, unreadable := [],
    baseChain := List.replicate 32 0#8, lostCount := 0, lostFirst := 0, lostLast := 0, rate := [],
    slots := [], blocks := [], endurance := 0, telBytes := 0, telFrames := [], clogCopies := [], genA := 0, genB := 0, dutyAt := [] }
/-- An island that is OFF. -/
def Island.off : Island :=
  { st := .off, step := 0, stepAt := 0, tries := 0, failed := false, target := .off, wakePending := false,
    idleSince := 0, forScrub := false }
/-- An island that is in RUN. -/
def Island.run : Island := { Island.off with st := .run, target := .run }
/-- A queue at reset (R230). -/
def Queue.reset : Queue :=
  { en := false, lock := false, kind := 0, loc := false, emergOk := false, depth := 0, hi := 0, lo := 0,
    staleUs := 0, outResv := 0, ring := 0, target := 0, head := 0, entries := [], resv := 0, held := [],
    deferred := [], paused := false, pausedAt := 0, prefetched := false, ctxUe := false, bp := false, readyAt := 0 }
/-- A flow at reset (R230). -/
def Flow.reset : Flow :=
  { ordered := false, periodic := false, period := 0, enq := 0, nextRel := 0, lam := 0, episode := false,
    span := none }
/-- Dispatchers at reset. -/
def Dispatchers.reset : Dispatchers :=
  { queues := [], flows := [], running := [], ctx := [], ctxStamp := 0, streams := [], lastTime := [], ringFull := [], nextRun := 0,
    freed := [], bhIngress := [] }
/-- A core at reset (R278): no register holds anything (log entry 9). -/
def Core.reset : Core :=
  { g := [], a := [], m := [], b := [], n := [], acc := [], v := [], lr := 0#64, pc := 0#64, flags := 0#32,
    st := .idle, exl := false, sup := false, runahead := false, asyncLost := 0, ctrl := 3#32, estat := 0#32,
    epc := 0#64, eaddr := 0#64, evec := 0#64, ecause := 0#32, einfo := 0#32, ipend := 0#32, imask := 0x3F#32,
    erep := 0#32, term := 0#32, taskQ := 0#32, taskId := 0#32, taskClass := 0#32, taskS := 0x100#32,
    taskDl := 0#64, taskEntry := 0#64, taskArg := 0#64, retired := 0#64, timer := 0#64, bankStall := 0#32,
    mispred := 0#32, runaheads := 0#32, mpu := [], mpuCtrl := 0#32, ext := none, extAt := 0#64, rep := none,
    load := none, stores := [], asyncErr := none, late := [], cq := [], dcache := [], icache := [], stamp := 0,
    btb := [], tendWait := false, terminating := none, waitAt := 0 }
/-- Cores at reset. -/
def Cores.reset : Cores := { core := [], cycles := [] }
/-- Accelerators at reset: no job. -/
def Acc.reset : Acc := { jobs := [], aborts := [], falsePreambles := [], nextConf := 0 }
/-- A channel that executes nothing. -/
def DmaChan.reset : DmaChan :=
  { insn := [], begun := false, next := 0, out := [], done := [], kept := [], fail := none, abort := false, waitAt := 0,
    fromPark := false, waited := [], turn := 0 }
/-- Lanes at reset. -/
def Lanes.reset : Lanes := { stepAt := [], tests := [], adaptAt := [], order := [] }
/-- Front-haul ingress at reset. -/
def FrontHaul.reset : FrontHaul := { recs := [], next := [], delay := [], measAt := [], bhDrops := [], sentNext := [], narrowEnd := [] }
/-- A spur port at reset. -/
def SpurPort.reset : SpurPort :=
  { stepAt := 0, delays := [], upAt := none, lastFrame := 0, burstAt := 0, peak := none, listening := false }
/-- A bound queue before anything is written (R428). -/
def EgQueue.reset (iot : Nat) : EgQueue :=
  { iot := iot, spur := false, cfg := 0#32, weight := 1, ftag := 0#64, headTag := none, bytes := 0#64, binding := none, dlAdv := 0,
    samp := { start := 0, dmin := 0, dmax := 0, maxDelay := 0, sumDelay := 0, frames := 0, paused := false } }
/-- Egress at reset. -/
def Egress.reset : Egress :=
  { bound := [], cal := [], tx := [], control := [], paused := [], telAt := [], telLost := [], telTime := [], telRead := [] }
/-- The time engine at reset (R434, R436, R437, R447): FREERUN, default loop settings, no profile. -/
def TimeState.reset : TimeState :=
  { meas := [], lastMeas := 0, lockSince := none, freq := 0, rateLog := [], rateSince := none, reacq := none,
    refused := false, profStored := 0, domStored := 24, profile := 0, domain := 24, servoBw := 10, slewMax := 200,
    syncePrio := [], wtr := [], gm := none, ppsAt := 0, ppsTaken := false, tevNext := [], hoAcc := 0, codes := [],
    rampAt := 0, ptp := [], grants := [], heldEvents := false, stored := [] }
/-- The flags of an empty queue controller. -/
def QcFlags.init : QcFlags :=
  { full := false, almostFull := false, empty := true, almostEmpty := true, wEdges := 0, rEdges := 0 }
/-- No user logic. -/
def NetVal.none_ : NetVal := { wires := [], carries := [], flops := [], lines := [], gens := [], pins := [] }
/-- A fabric tile without a bitstream. -/
def Fab.reset : Fab :=
  { design := none, job := none, fifos := [], popAt := [], off := [], targets := [], nextTgt := 0, ext := [],
    flags := [], vals := NetVal.none_, cycle := 0 }
/-- The power manager at reset: no transition, dispatchers running. -/
def Power.reset : Power :=
  { trans := none, stopping := false, resume := 2, commitAt := none, still := false, cause := none, src := 0#32,
    waking := [], wakeTries := 0, nextStart := 0, mult := [], multAt := [], raising := [], avsAt := [], stretched := false, droopAt := 0, warnings := 0,
    pmbStored := [], khzStored := 100, khz := 100, pmb := [], trimAt := 0 }
/-- Pins at reset. -/
def Pins.reset : Pins := { clrLow := false, trim := [], trimNext := [], thermTrip := false, codeAt := [], loadAt := [] }

/-- The device right after power-on reset (R499, R503, R532). -/
def State.reset : State :=
  { part := .fa960
    now := 0
    regs := RegState.reset
    mem := MemState.reset
    noc := NocState.reset
    cor := CorridorModel.reset
    peers := []
    tcs := Tcs.reset
    out := []
    clk := { sec := 0, ns := 0, frac := 0 }
    boot := Boot.reset
    stor := Storage.reset
    lines := []
    runs := []
    ruTrims := []
    corStored := CorridorModel.reset
    islands := [(63, Island.run)]
    dsq := Dispatchers.reset
    cores := Cores.reset
    acc := Acc.reset
    dma := []
    eg := Egress.reset
    time := TimeState.reset
    lanes := Lanes.reset
    fh := FrontHaul.reset
    spur := []
    fab := []
    power := Power.reset
    pins := Pins.reset
    fresh := 0
    pending := [] }

end Sys2Proof.Machine
end

