-- ==== Sys2Proof/Machine/Ops.lean ====
section
/-! DEFINITION. The named operations over registers, memory and outputs that every meaning uses: raw register words
(R11 to R14), memory bytes under their error codes (R371 to R377), events (R98) and device time. Assumption log: 3
(DESIGN CHOICE), 10 (DESIGN CHOICE), 37 (DESIGN CHOICE). -/

namespace Sys2Proof.Machine

/-! ### Register words -/

/-- The reset value of the register word at address `a` (R14). -/
def resetWord (p : Part) (a : Nat) : Word :=
  match placeOf p a with
  | .regs b off => rowReset b off
  | _ => 0#32

/-- The stored word of the register at address `a`. -/
def State.reg (s : State) (a : Nat) : Word :=
  match mget a s.regs.words with
  | some w => w
  | none => resetWord s.part a

/-- Store a register word. -/
def State.setReg (s : State) (a : Nat) (w : Word) : State :=
  { s with regs := { s.regs with words := mset a w s.regs.words } }

/-- The stored value of a 64-bit register. -/
def State.reg64 (s : State) (a : Nat) : DWord := dw (s.reg (a + 4)) (s.reg a)

/-- Store a 64-bit register. -/
def State.setReg64 (s : State) (a : Nat) (d : DWord) : State :=
  (s.setReg a (lo32 d)).setReg (a + 4) (hi32 d)

/-- Change a register word. -/
def State.modReg (s : State) (a : Nat) (f : Word → Word) : State := s.setReg a (f (s.reg a))

/-- Set bits of a register word (hardware sets sticky flags). -/
def State.orReg (s : State) (a : Nat) (i : Nat) : State := s.modReg a (· ||| bitMask i)

/-- Replace field [hi:lo] of a register word. -/
def State.setField (s : State) (a hi lo v : Nat) : State := s.modReg a fun w => setFld w hi lo v

/-- Field [hi:lo] of a register word. -/
def State.field (s : State) (a hi lo : Nat) : Nat := fld (s.reg a) hi lo

/-- Bit `i` of a register word. -/
def State.flag (s : State) (a i : Nat) : Bool := bit (s.reg a) i

/-- Add to a 32-bit saturating counter (R14). -/
def State.count (s : State) (a n : Nat) : State :=
  s.modReg a fun w => BitVec.ofNat 32 (satAdd 32 w.toNat n)

/-- Add to a 64-bit counter, which wraps only after 2^64 counts. -/
def State.count64 (s : State) (a n : Nat) : State := s.setReg64 a (s.reg64 a + BitVec.ofNat 64 n)

/-- Record what an access answered. -/
def State.answer (s : State) (r : BusReply) : State := { s with regs := { s.regs with reply := r } }

/-! ### Free values -/

/-- Take the next free value: the counter's value and the state with the counter advanced. -/
def State.takeFresh (s : State) : Nat × State := (s.fresh, { s with fresh := s.fresh + 1 })

/-! ### Memory bytes -/

/-- The byte at an address; a byte that nothing has written reads 0 (R386). -/
def cellGet (a : Nat) : List Host.Cell → Byte
  | [] => 0#8
  | (j, b) :: m => if j = a then b else cellGet a m

/-- Write one byte, keeping the canonical form: addresses strictly rising and no zero byte listed. -/
def cellSet (a : Nat) (b : Byte) : List Host.Cell → List Host.Cell
  | [] => if b = 0#8 then [] else [(a, b)]
  | (j, c) :: m =>
    if a < j then (if b = 0#8 then (j, c) :: m else (a, b) :: (j, c) :: m)
    else if a = j then (if b = 0#8 then m else (a, b) :: m)
    else (j, c) :: cellSet a b m

/-- Every listed address is above `lo`, they rise strictly, and no listed byte is 0. -/
def cellsAbove (lo : Option Nat) : List Host.Cell → Bool
  | [] => true
  | (j, b) :: m => (match lo with | none => true | some l => decide (l < j)) && (b != 0#8) && cellsAbove (some j) m

/-- The canonical form of memory. -/
def Memory.wf (m : List Host.Cell) : Bool := cellsAbove none m

/-- The byte of memory at `a`. -/
def State.byte (s : State) (a : Nat) : Byte := cellGet a s.mem.cells

/-- `n` bytes of memory from `a`. -/
def State.bytes (s : State) (a n : Nat) : List Byte := (List.range n).map fun i => s.byte (a + i)

/-- Write bytes into the cells from `a`. -/
def cellsPut (a : Nat) : List Byte → List Host.Cell → List Host.Cell
  | [], m => m
  | b :: bs, m => cellsPut (a + 1) bs (cellSet a b m)

/-- Store bytes from `a` with no check and no error handling: the single writer of memory. -/
def State.putBytes (s : State) (a : Nat) (bs : List Byte) : State :=
  { s with mem := { s.mem with cells := cellsPut a bs s.mem.cells } }

/-- The little-endian number of `n` bytes at `a`. -/
def State.word (s : State) (a n : Nat) : Nat := leVal (s.bytes a n)

/-- Store the low `n` bytes of `v` at `a`. -/
def State.putWord (s : State) (a n v : Nat) : State := s.putBytes a (leBytes n v)

/-! ### Error codes of memory -/

/-- Bytes of a code word at a place: 64 in HBM (R372), 8 elsewhere (R371). -/
def codeSize : Place → Nat
  | .hbm _ => 64
  | _ => 8

/-- The code words that `n` bytes from `a` touch. -/
def codeWords (sz a n : Nat) : List Nat :=
  if n = 0 then [] else
  let f := a / sz
  (List.range ((a + n - 1) / sz - f + 1)).map fun i => (f + i) * sz

/-- The tile that owns a memory place: its own for SRAM, the serving MEM tile for HBM, CTL-H for MRAM (R376). -/
def ownerTile (a : Nat) (pl : Place) : Nat := serverOf a pl

/-- READER of a CLOG entry (R391). -/
def readerCode : Requester → Nat
  | .fetch _ _ => 0 | .core _ _ => 1 | .dma _ _ => 2 | .acc _ => 3 | .dsq _ => 4
  | .iot _ | .fab _ => 5 | .scrub _ => 6 | .gaffer | .ctlh | .home _ => 7 | .memc _ => 6

/-- The tile a requester sits in (R351, R376). -/
def reqTile : Requester → Nat
  | .core t _ | .fetch t _ | .dma t _ | .acc t | .memc t | .home t | .scrub t => t
  | .gaffer => ctlG | .ctlh => ctlH | .iot k => iotTile k | .fab f => fabTile f | .dsq q => dsqTile q

/-- MEMKIND of a CLOG entry (R391): MEM staging SRAM is the SRAM of a MEM tile. -/
def memKind : Place → Nat
  | .hbm _ => 1 | .mram => 2
  | .sram t => if tileKindOf t = .mem then 3 else 0
  | _ => 0

/-- Device time in units of 2 ns, 48 bits, as CLOG and crumb records carry it. -/
def State.clogTime (s : State) : Nat := ((s.clk.sec * 1000000000 + s.clk.ns) / 2) % 2 ^ 48

/-- Word addresses of CLOG entry `n` of tile `t`. -/
def clogInfo (t n : Nat) : Nat := R.ECC_CLOG_INFO t n

/-- The entry of the CLOG that an error takes (R377): an entry with the same code word and kind, else a free
one, else the oldest CE entry. -/
inductive ClogSlot where
  | again (n : Nat) | free (n : Nat) | replace (n : Nat) | lost
  deriving DecidableEq, Repr

/-- The valid CLOG entries of a tile that hold corrected errors, with their time stamps. -/
def clogCEs (s : State) (t : Nat) : List (Nat × Nat) :=
  ((List.range 16).filter fun n => s.flag (clogInfo t n) 31 && !s.flag (clogInfo t n) 30).map
    fun n => (n, (s.reg64 (R.ECC_CLOG_TIME t n)).toNat)

/-- The index with the smallest second component. -/
def oldestOf : List (Nat × Nat) → Option Nat
  | [] => none
  | (n, t) :: l =>
    match l.foldl (fun (b : Nat × Nat) x => if x.2 < b.2 then x else b) (n, t) with
    | (k, _) => some k

/-- Choose the CLOG slot of an error (R377). -/
def clogSlot (s : State) (t cw : Nat) (ue : Bool) : ClogSlot :=
  match (List.range 16).find? fun n =>
      s.flag (clogInfo t n) 31 && s.flag (clogInfo t n) 30 == ue
        && s.reg64 (R.ECC_CLOG_ADDR t n) == BitVec.ofNat 64 cw with
  | some n => .again n
  | none =>
    match firstBelow 16 fun n => !s.flag (clogInfo t n) 31 with
    | some n => .free n
    | none => match oldestOf (clogCEs s t) with
      | some n => .replace n
      | none => .lost

/-- Fill CLOG entry `n` (R391). -/
def clogFill (s : State) (t n cw : Nat) (ue : Bool) (kind : Nat) (r : Requester) (synd : Nat) : State :=
  let w := BitVec.ofNat 32 (2 ^ 31 + b2n ue * 2 ^ 30 + kind * 2 ^ 27 + readerCode r * 2 ^ 24
    + reqTile r * 2 ^ 8 + synd)
  ((s.setReg64 (R.ECC_CLOG_ADDR t n) (BitVec.ofNat 64 cw)).setReg (clogInfo t n) w).setReg64
    (R.ECC_CLOG_TIME t n) (BitVec.ofNat 64 s.clogTime)

/-- Log an error at its owning tile (R377). -/
def clogAdd (s : State) (t cw : Nat) (ue : Bool) (kind : Nat) (r : Requester) (synd : Nat) : State :=
  match clogSlot s t cw ue with
  | .again n => s.modReg (clogInfo t n) fun w => setFld w 23 16 (satAdd 8 (fld w 23 16) 1)
  | .free n | .replace n => clogFill s t n cw ue kind r synd
  | .lost => if ue then (s.count (R.ECC_CLOG_LOST t) 1).orReg (R.ECC_STAT t) 2 else s

/-- Count a corrected error at its owner (R376). -/
def countCE (s : State) (t : Nat) (pl : Place) : State :=
  match pl with
  | .hbm _ => (s.count (R.MEMC_CE_CNT t) 1).orReg (R.MEMC_STAT t) 0
  | _ => (s.count (R.ECC_CE_CNT t) 1).orReg (R.ECC_STAT t) 0

/-- Count an uncorrectable error at its owner (R376). -/
def countUE (s : State) (t : Nat) (pl : Place) : State :=
  match pl with
  | .hbm _ => (s.count (R.MEMC_UE_CNT t) 1).orReg (R.MEMC_STAT t) 1
  | _ => (s.count (R.ECC_UE_CNT t) 1).orReg (R.ECC_STAT t) 1

/-- Count a partial write into a poisoned code word (R374). -/
def countPoisonWr (s : State) (t : Nat) (pl : Place) : State :=
  match pl with
  | .hbm _ => s.count (R.MEMC_POISON_WR t) 1
  | _ => s.count (R.ECC_POISON_WR t) 1

/-- Set or remove the mark of a code word. -/
def State.setMark (s : State) (cw : Nat) (m : Option CodeMark) : State :=
  match m with
  | some k => { s with mem := { s.mem with marks := mset cw k s.mem.marks } }
  | none => { s with mem := { s.mem with marks := mdel cw s.mem.marks } }

/-- The bank, row and column of an SRAM word (R370). -/
def sramPos (off : Nat) : Nat × Nat × Nat := ((off >>> 3) % 16, (off >>> 7) / 16, (off >>> 7) % 16)

/-- The HBM pseudo-channel of an address (R368). -/
def hbmPc (a : Nat) : Nat := (a >>> 9) % 16

/-- Remember a corrected error for the repair rule (R387). -/
def seenAdd (s : State) (t cw : Nat) (pl : Place) (synd : Nat) (scrub : Bool) : State :=
  let e : ErrSeen := match pl with
    | .hbm q => { tile := t, hbm := true, bank := hbmPc cw, row := Config.hbmRow (cw - hbmBase q), col := 0,
                  synd := synd, word_ := cw, sec := s.now / 1000000000, scrub := scrub }
    | _ => let p := sramPos (cw % 0x10000000)
           { tile := t, hbm := false, bank := p.1, row := p.2.1, col := p.2.2, synd := synd, word_ := cw,
             sec := s.now / 1000000000, scrub := scrub }
  { s with mem := { s.mem with seen := s.mem.seen ++ [e] } }

/-- SYND of a corrected error (R391): the symbol index in HBM, the SECDED syndrome elsewhere. -/
def syndCE (pl : Place) (pos : Nat) : Nat :=
  match pl with
  | .hbm _ => pos
  | _ => (Config.secdedSyndrome pos).toNat

/-- SYND of an uncorrectable error (R391): 0xFF in HBM, a SECDED syndrome elsewhere. -/
def syndUE (pl : Place) (cw : Nat) : Nat :=
  match pl with
  | .hbm _ => 0xFF
  | _ => (Config.secdedUeSyndrome cw).toNat

/-- A corrected error is counted, logged and remembered for repair (R376, R377, R387). -/
def noteCE (r : Requester) (pl : Place) (cw pos : Nat) (s : State) : State :=
  let t := ownerTile cw pl
  seenAdd (clogAdd (countCE s t pl) t cw false (memKind pl) r (syndCE pl pos)) t cw pl pos (readerCode r == 6)

/-- What one read of a code word meets (R374 to R377, R379): the state after it, and whether the data is good.
A first UE at a code word is left for UE_REPORT (R380). -/
def readCode (r : Requester) (pl : Place) (cw : Nat) (s : State) : Bool × State :=
  let t := ownerTile cw pl
  match mget cw s.mem.marks with
  | none => (true, s)
  | some (.ce pos) =>
    let s := noteCE r pl cw pos.toNat s
    (true, if s.mem.writeBacks.contains cw then s
           else { s with mem := { s.mem with writeBacks := s.mem.writeBacks ++ [cw] } })
  | some _ =>
    let again := match clogSlot s t cw true with | .again _ => true | _ => false
    let s := clogAdd (countUE s t pl) t cw true (memKind pl) r (syndUE pl cw)
    let s := s.setMark cw (some .poison)
    (false, if again then s
            else { s with mem := { s.mem with
                     ueReports := s.mem.ueReports ++ [{ cw := cw, kind := memKind pl, reader := readerCode r, src := reqTile r, qid := 0xFFFF }] } })

/-- Read the code words of a list in order; the data is good when every one is. -/
def readCodes (r : Requester) (pl : Place) : List Nat → State → Bool × State
  | [], s => (true, s)
  | cw :: l, s =>
    let x := readCode r pl cw s
    let y := readCodes r pl l x.2
    (x.1 && y.1, y.2)

/-- Read memory bytes at a place with no access check: the data, or none where a UE was met. -/
def memRead (r : Requester) (pl : Place) (a n : Nat) (s : State) : Option (List Byte) × State :=
  let x := readCodes r pl (codeWords (codeSize pl) a n) s
  (if x.1 then some (s.bytes a n) else none, x.2)

/-- The injection register that arms errors in the memory at a place (R392). -/
def injReg (t : Nat) : Place → Nat
  | .hbm _ => R.MEMC_INJ t
  | _ => R.ECC_INJ t

/-- A whole-word write under an armed injection (R392): the mark it leaves; the arm clears itself. -/
def injectOn (pl : Place) (cw : Nat) (s : State) : State :=
  let t := ownerTile cw pl
  let a := injReg t pl
  if s.flag a 31 then
    let pos := min (s.field a 29 23) (match pl with | .hbm _ => 66 | _ => 71)
    (s.setField a 31 31 0).setMark cw (some (if s.flag a 30 then .ue else .ce (BitVec.ofNat 8 pos)))
  else s.setMark cw none

/-- What one write does to the code of a code word it covers wholly or partly (R371 to R375). -/
def writeCode (r : Requester) (pl : Place) (a n cw : Nat) (s : State) : State :=
  let sz := codeSize pl
  let t := ownerTile cw pl
  let s := { s with mem := { s.mem with writeBacks := s.mem.writeBacks.filter (· != cw) } }
  if a ≤ cw ∧ cw + sz ≤ a + n then injectOn pl cw s
  else match mget cw s.mem.marks with
    | none => s
    | some (.ce pos) => (noteCE r pl cw pos.toNat s).setMark cw none
    | some .ue =>
      (clogAdd (countPoisonWr (countUE s t pl) t pl) t cw true (memKind pl) r (syndUE pl cw)).setMark cw (some .poison)
    | some .poison => clogAdd (countPoisonWr s t pl) t cw true (memKind pl) r (syndUE pl cw)

/-- The codes of the code words of a write, in order. -/
def writeCodes (r : Requester) (pl : Place) (a n : Nat) : List Nat → State → State
  | [], s => s
  | cw :: l, s => writeCodes r pl a n l (writeCode r pl a n cw s)

/-- Write memory bytes at a place with no access check. -/
def memWrite (r : Requester) (pl : Place) (a : Nat) (bs : List Byte) (s : State) : State :=
  (writeCodes r pl a bs.length (codeWords (codeSize pl) a bs.length) s).putBytes a bs

end Sys2Proof.Machine
end

