-- ==== Sys2Proof/Machine/Journal.lean ====
section
/-! DEFINITION. Device time in the units the rules use, and the event journal (R561 to R563, R567). Assumption log:
102 (DESIGN CHOICE). -/

namespace Sys2Proof.Machine

/-- Device time in ns since the PTP epoch. -/
def State.devNs (s : State) : Nat := s.clk.sec * 1000000000 + s.clk.ns

/-- Device state: 0 PARISON, 1 ACTIVE, 2 LULL, 3 entering STILL (PWR_STAT.STATE). -/
def State.devState (s : State) : Nat := s.field R.PWR_STAT 31 29

/-- PARISON service is running (R532, R536). -/
def State.parison (s : State) : Bool := s.devState == 0

/-- NVM writes are paused by a supply warning (R521). -/
def State.nvmPaused (s : State) : Bool := s.flag R.PWR_STAT 27

/-- Length of a record with a body (R561): 64 bytes and the body padded to a multiple of 16, at most 256. -/
def jLen (r : JRec) : Nat := min 256 (64 + ceilDiv r.body.length 16 * 16)

/-- Bytes 0 to 31 of a record (R561). -/
def jHead (r : JRec) : List Byte :=
  leBytes 2 (jLen r) ++ leBytes 2 r.rtype ++ leBytes 4 r.boots ++ leBytes 8 r.jseq ++ leBytes 8 r.sec
    ++ leBytes 4 r.ns ++ leBytes 2 r.source ++ leBytes 2 0

/-- A body padded with zeros to its record length. -/
def jBody (r : JRec) : List Byte :=
  let b := r.body.take 192
  b ++ List.replicate (jLen r - 64 - b.length) 0#8

/-- A record as bytes (R561). -/
def jBytes (r : JRec) : List Byte := jHead r ++ r.chain ++ jBody r

/-- CHAIN of a record after the record with chain `prev` (R561). -/
def jChain (prev : List Byte) (r : JRec) : List Byte := Config.sha3 (prev ++ jHead r ++ jBody r)

/-- The staging rate limit of R567: 64 KiB/s on average over any 60 s. -/
def stageLimit : Nat := 64 * 1024 * 60

/-- Bytes staged in the last 60 s. -/
def stagedRecently (s : State) : Nat :=
  let now := s.now / 1000000000
  ((s.stor.rate.filter fun x => now < x.1 + 60).map Prod.snd).foldl (· + ·) 0

/-- Records may be written to the staging ring (R563, R567). -/
def canStage (s : State) (n : Nat) : Bool := !s.nvmPaused && decide (stagedRecently s + n ≤ stageLimit)

/-- Write one record to the staging ring. -/
def stageRec (s : State) (r : JRec) : State :=
  let now := s.now / 1000000000
  { s with stor := { s.stor with
      staging := s.stor.staging ++ [r],
      rate := (s.stor.rate.filter fun x => now < x.1 + 60) ++ [(now, jLen r)] } }

/-- Make a record: it takes the next JSEQ and is chained (R561). -/
def makeRec (s : State) (rtype severity source : Nat) (body : List Byte) : JRec × State :=
  let r0 : JRec := { rtype := rtype, boots := s.boot.boots, jseq := s.stor.jNext, sec := s.clk.sec,
                     ns := s.clk.ns, source := source, chain := [], body := body, severity := severity }
  let r := { r0 with chain := jChain s.stor.chain r0 }
  let s := { s with stor := { s.stor with jNext := s.stor.jNext + 1, chain := r.chain } }
  (r, s.setReg64 R.NVS_JRN_HEAD (BitVec.ofNat 64 s.stor.jNext))

/-- Count a discarded record (R563). -/
def loseRec (s : State) (r : JRec) : State :=
  let s := (s.count R.NVS_JRN_LOST 1).orReg R.NVS_EVT 1
  { s with stor := { s.stor with
      lostCount := s.stor.lostCount + 1,
      lostFirst := if s.stor.lostCount = 0 then r.jseq else min s.stor.lostFirst r.jseq,
      lostLast := max s.stor.lostLast r.jseq } }

/-- Bytes waiting in the CTL-H buffer. -/
def bufferBytes (s : State) : Nat := (s.stor.buffer.map jLen).foldl (· + ·) 0

/-- Remove the first record of a severity from a list of records. -/
def takeSeverity (v : Nat) : List JRec → Option (JRec × List JRec)
  | [] => none
  | r :: l => if r.severity = v then some (r, l) else
    match takeSeverity v l with
    | some (x, m) => some (x, r :: m)
    | none => none

/-- Put a record at the end of the buffer. -/
def bufferPut (s : State) (r : JRec) : State :=
  ({ s with stor := { s.stor with buffer := s.stor.buffer ++ [r] } }).setField R.NVS_STAT 26 26 1

/-- Keep a record in the 256 KiB buffer, displacing by severity when it is full (R563). -/
def bufferRec (s : State) (r : JRec) : State :=
  if bufferBytes s + jLen r ≤ 256 * 1024 then bufferPut s r
  else
    let victim :=
      if r.severity = 0 then none
      else match takeSeverity 0 s.stor.buffer with
        | some v => some v
        | none => if r.severity = 2 then takeSeverity 1 s.stor.buffer else none
    match victim with
    | none => loseRec s r
    | some (old, l) => bufferPut (loseRec { s with stor := { s.stor with buffer := l } } old) r

/-- The LOST record that goes before the first record written after discards (R563). -/
def stageLost (s : State) : State :=
  if s.stor.lostCount = 0 then s else
  let x := makeRec s 0x00F0 2 0xFFFF
    (Config.recordBody 0x00F0 (leBytes 8 s.stor.lostCount ++ leBytes 8 s.stor.lostFirst ++ leBytes 8 s.stor.lostLast))
  stageRec { x.2 with stor := { x.2.stor with lostCount := 0, lostFirst := 0, lostLast := 0 } } x.1

/-- A journal record is chained and written to the staging ring, or buffered (R563). -/
def State.journal (s : State) (rtype severity source : Nat) (body : List Byte) : State :=
  let n := min 256 (64 + ceilDiv body.length 16 * 16)
  let direct := canStage s n && s.stor.buffer.isEmpty
  let s := if direct then stageLost s else s
  let x := makeRec s rtype severity source body
  if direct then stageRec x.2 x.1 else bufferRec x.2 x.1

/-- Buffered records move to the staging ring once writes may go on (R563). -/
def drainBuffer : Nat → State → State
  | 0, s => s
  | n + 1, s =>
    match s.stor.buffer with
    | [] => s.setField R.NVS_STAT 26 26 0
    | r :: l =>
      if canStage s (jLen r) then
        let s := stageLost s
        drainBuffer n (stageRec { s with stor := { s.stor with buffer := l } } r)
      else s

/-- The counters of a codeword read: `stage` 1 hard, 2 retry, 3 soft, 4 none succeeded (R554). -/
def countRead (stage : Nat) (authOk : Bool) (s : State) : State :=
  let s := s.count64 R.NVS_CNT_CW 1
  let s := if 2 ≤ stage then s.count R.NVS_CNT_RETRY 1 else s
  let s := if 3 ≤ stage then s.count R.NVS_CNT_SOFT 1 else s
  if 4 ≤ stage then (s.count R.NVS_CNT_UE 1).orReg R.NVS_EVT 4
  else if !authOk then (((s.count R.NVS_CNT_UE 1).count R.NVS_CNT_AUTH 1).orReg R.NVS_EVT 4).orReg R.NVS_EVT 0
  else s

/-- A duty of the Lehr has been done and is late no more: `d` is its place in the table of R568, from 0. -/
def dutyDone (d : Nat) (s : State) : State :=
  let s := if d < 11 then s.setField R.LEHR_LAG d d 0 else s
  { s with stor := { s.stor with dutyAt := mset d s.now s.stor.dutyAt } }

end Sys2Proof.Machine
end

