-- ==== Sys2Proof/Machine/Gaffer.lean ====
section
/-! DEFINITION. How the Gaffer takes and answers a TCS message: the checks of R66, R73 to R77, R85 and R67, responses
and their cache, semaphores (R79 to R83), and events (R98). Assumption log: 13 (DEDUCED), 26 (DEDUCED), 30 (DESIGN
CHOICE), 31 (DEDUCED), 36 (DEDUCED), 103 (DESIGN CHOICE), 109 (DESIGN CHOICE), 110 (DESIGN CHOICE), 111 (DESIGN
CHOICE). -/

namespace Sys2Proof.Machine

/-! ### Status codes (R18) -/

/-- Status codes of R18. -/
inductive Status where
  | ok | busy | badArg | notOwner | cpairMismatch | badState | refused | notReady | authFail | noResource
  | timeJumpRefused | abortTooLate | aborted | domainAsleep | ue | timeout | partial_
  deriving DecidableEq, Repr

/-- The number of a status code (R18). -/
def Status.code : Status → Nat
  | .ok => 0x0000 | .busy => 0x0001 | .badArg => 0x0002 | .notOwner => 0x0003 | .cpairMismatch => 0x0004
  | .badState => 0x0005 | .refused => 0x0006 | .notReady => 0x0007 | .authFail => 0x0008
  | .noResource => 0x0009 | .timeJumpRefused => 0x000A | .abortTooLate => 0x000B | .aborted => 0x000C
  | .domainAsleep => 0x000D | .ue => 0x000E | .timeout => 0x000F | .partial_ => 0x0010

/-- `n` bytes of a list, padded with zeros. -/
def fitBytes (n : Nat) (l : List Byte) : List Byte := (l ++ List.replicate n 0#8).take n

/-! ### Sessions -/

/-- A port with no session (R71). -/
def Session.none : Session :=
  { st := .none, id := 0#32, slot := 0, key := 0#256, pendingAt := 0, lastAuth := 0, highSeq := 0, src := 0,
    form := .raw 0x88B5, cache := [] }

/-- The session of port `p`. -/
def State.sess (s : State) (p : Nat) : Session := mgetD Session.none s.tcs.sessions p

/-- Replace the session of port `p`. -/
def State.setSess (s : State) (p : Nat) (x : Session) : State :=
  { s with tcs := { s.tcs with sessions := mset p x s.tcs.sessions } }

/-- Port `p` holds a live session. -/
def State.isLive (s : State) (p : Nat) : Bool := (s.sess p).st == .live

/-! ### Headers and tags (R64, R65) -/

/-- The 48 header bytes of a message the device sends (R64). -/
def headerBytes (o : OutMsg) : List Byte :=
  leBytes 4 0x4B585453 ++ leBytes 1 1 ++ leBytes 1 o.flags ++ leBytes 1 o.mbx ++ leBytes 1 o.crit
    ++ leBytes 4 o.session.toNat ++ leBytes 4 o.seq.toNat ++ leBytes 2 o.opcode ++ leBytes 2 o.status
    ++ leBytes 2 o.payload.length ++ leBytes 2 0 ++ leBytes 8 0 ++ leBytes 16 0

/-- The 48 header bytes of a received message with an OPCODE and a STATUS, 0 in requests (R64). -/
def rxHeader (opcode status : Nat) (m : TcsMsg) : List Byte :=
  leBytes 4 m.magic.toNat ++ leBytes 1 m.ver.toNat ++ leBytes 1 m.flags.toNat ++ leBytes 1 m.mbx ++ leBytes 1 m.crit
    ++ leBytes 4 m.session.toNat ++ leBytes 4 m.seq.toNat ++ leBytes 2 opcode ++ leBytes 2 status ++ leBytes 2 m.len
    ++ leBytes 2 0 ++ leBytes 8 m.expiry ++ leBytes 16 0

/-- The tag of a message: KMAC256 under the session key over header and payload (R65). -/
def tcsTag (key : BitVec 256) (header payload : List Byte) : BitVec 256 := Config.kmac256 key (header ++ payload) "TCS1"

/-- The tag of a received message verifies under a key (R65). -/
def tagGood (key : BitVec 256) (opcode status : Nat) (m : TcsMsg) : Bool :=
  m.tag == tcsTag key (rxHeader opcode status m) m.payload

/-- The session key of an exchange (R68, R51): KMAC256 under the shared secret over both nonces and SESSION. -/
def sessionKey (custom : String) (secret : BitVec 256) (hostNonce devNonce : List Byte) (id : Word) : BitVec 256 :=
  Config.kmac256 secret (hostNonce ++ devNonce ++ leBytes 4 id.toNat) custom

/-- A message with its tag: zeros where it has no key (R65). -/
def OutMsg.tagged (o : OutMsg) : OutMsg :=
  { o with tag := match o.key with
      | some k => tcsTag k (headerBytes o) o.payload
      | none => 0#256 }

/-- Add a message to the outputs. -/
def State.send (s : State) (m : OutMsg) : State := { s with out := s.out ++ [m.tagged] }

/-- Count a TCS statistic of a port (R97 group 0). -/
def State.stat (s : State) (p n : Nat) : State :=
  { s with tcs := { s.tcs with stats := mupd 0 (p * 8 + n) (satAdd 64 · 1) s.tcs.stats } }

/-! ### Events (R98, R99) -/

/-- The payload of an event (R98). -/
def eventPayload (e : EventRec) : List Byte :=
  leBytes 2 e.code ++ leBytes 1 e.severity ++ leBytes 1 e.objKind ++ leBytes 4 e.objIndex ++ leBytes 8 e.sec
    ++ leBytes 4 e.ns ++ leBytes 4 0 ++ e.detail

/-- Send an event to the live session of port `p`. -/
def sendEvent (e : EventRec) (s : State) (p : Nat) : State :=
  let x := s.sess p
  if x.st == .live && e.sentTo.contains x.id then
    s.send { via := .mgt (if p = 0 then 0 else 1), form := x.form, dst := x.src, flags := 2, mbx := 15, crit := 0,
             session := x.id, seq := BitVec.ofNat 32 e.evseq, opcode := 0x01FF, status := 0,
             payload := eventPayload e, key := some x.key }
  else s

/-- The identifiers of the live sessions. -/
def liveIds (s : State) : List Word := ([0, 1].filter s.isLive).map fun p => (s.sess p).id

/-- Raise an event to the sessions named: it takes the next EVSEQ, is kept among the last 4,096, sent, and
journalled (R98, R561). -/
def State.raiseTo (s : State) (ids : List Word) (code kind idx : Nat) (detail : List Byte) : State :=
  let severity := Config.eventSeverity code detail % 3
  let e : EventRec := { evseq := s.tcs.evseq, code := code, severity := severity, objKind := kind,
                        objIndex := idx, sec := s.clk.sec, ns := s.clk.ns, detail := detail.take 48, sentTo := ids }
  let evs := s.tcs.events ++ [e]
  let s := { s with tcs := { s.tcs with evseq := s.tcs.evseq + 1, events := evs.drop (evs.length - 4096) } }
  (sendEvent e (sendEvent e s 0) 1).journal 0x0003 severity 0xFFFF (eventPayload e)

/-- Raise an event to every live session (R98). -/
def State.raise (s : State) (code kind idx : Nat) (detail : List Byte) : State :=
  s.raiseTo (liveIds s) code kind idx detail

/-! ### Semaphores (R79 to R83) -/

/-- The requester of `m` holds the lease on semaphore `n` (check 1 of R40). DSP software holds none (R103). -/
def holdsSem (s : State) (m : TcsMsg) (n : Nat) : Bool :=
  match m.via, mget n s.tcs.sems with
  | .mgt p, some x => x.port == p.val && x.session == m.session && decide (s.now < x.leaseEnd)
  | _, _ => false

/-! ### Responses -/

/-- The peer entry of a corridor end. -/
def peerKey (c : Nat) (hi : Bool) : Nat := c * 2 + b2n hi

/-- A corridor end's peer entry. -/
def State.peer (s : State) (k : Nat) : Option Peer := mget k s.peers
/-- Replace a peer entry. -/
def State.setPeer (s : State) (k : Nat) (p : Peer) : State := { s with peers := mset k p s.peers }

/-- The key a response to `m` is tagged with (R65, R68, R51). -/
def tagKey (s : State) (m : TcsMsg) : Option (BitVec 256) :=
  match m.via with
  | .mgt p => if m.session = 0#32 then none else some (s.sess p.val).key
  | .peer c hi => (s.peer (peerKey c.val hi)).map Peer.key
  | .onchip _ => none

/-- Keep a response among the last 32 of its session (R74): the last 32 whose responses were sent (log entry 110). -/
def cacheAdd (l : List CacheEntry) (e : CacheEntry) : List CacheEntry :=
  let m := l ++ [e]
  m.drop (m.length - 32)

/-- Write the response of an on-chip request at its buffer's offset 0x2800 (R102); MBX_COMPLETE then completes
the mailbox. MBX_PTR is used as it stands (log entry 111). -/
def writeOnchip (n : Nat) (o : OutMsg) (s : State) : State :=
  let a := (s.reg64 (R.MBX_PTR n)).toNat + 0x2800
  let s := memWrite .gaffer (placeOf s.part a) a (headerBytes o ++ o.payload) s
  { s with tcs := { s.tcs with onchipDone := mset n o.status s.tcs.onchipDone } }

/-- Deliver a response: sent and cached on a port or a peer session, written to the buffer on chip. -/
def deliver (m : TcsMsg) (o : OutMsg) (s : State) : State :=
  match m.via with
  | .mgt p =>
    let s := s.send o
    if m.session = 0#32 then s else
    let x := s.sess p.val
    s.setSess p.val { x with cache := cacheAdd x.cache { mbx := m.mbx, seq := m.seq, tag := m.tag, resp := o } }
  | .peer c hi =>
    let s := s.send o
    match s.peer (peerKey c.val hi) with
    | some x => s.setPeer (peerKey c.val hi)
        { x with cache := cacheAdd x.cache { mbx := m.mbx, seq := m.seq, tag := m.tag, resp := o } }
    | none => s
  | .onchip n => writeOnchip n.val o s

/-- The response to `m` (R64). -/
def response (s : State) (opcode : Nat) (m : TcsMsg) (st : Nat) (crit : Nat) (payload : List Byte) : OutMsg :=
  { via := m.via, form := m.form, dst := m.src, flags := 1, mbx := m.mbx, crit := crit, session := m.session, seq := m.seq,
    opcode := opcode, status := st, payload := payload, key := tagKey s m }

/-- Answer a request with a status and a payload. -/
def State.respond (s : State) (opcode : Nat) (m : TcsMsg) (st : Status) (payload : List Byte := [])
    (crit : Nat := 0) : State :=
  deliver m (response s opcode m st.code crit payload) s

/-- The interim acknowledgement of R75. -/
def State.ack (s : State) (opcode : Nat) (m : TcsMsg) : State :=
  s.send { response s opcode m 0 0 [] with flags := 5 }

/-! ### Accepting a request -/

/-- What an opcode needs of the transport (R93): its number, whether it runs on mailbox 0, the peer mailbox of a
peer-only command, whether DSP software may send it (R103), and whether a host may. -/
structure OpInfo where
  opcode : Nat
  zero : Bool := false
  peerMbx : Option Nat := none
  onchip : Bool := false
  host : Bool := true
  deriving DecidableEq, Repr

/-- The outcome of accepting a message: it is dealt with, or the command goes ahead. -/
inductive Accept where
  | done (s : State)
  | go (s : State)

/-- The Gaffer answers messages (R532): from boot step 4 on, or in recovery (R541). -/
def gafferUp (s : State) : Bool := decide (4 ≤ s.boot.stage) || s.boot.recovery

/-- Opcodes served in recovery (R541). -/
def recoveryOp (o : Nat) : Bool := o == 0x0101 || o == 0x0102 || o == 0x0103 || o == 0x0110 || o == 0x0701 || o == 0x0602

/-- Opcodes a session opened with slot 0xFF may send (R547). -/
def bareOp (o : Nat) : Bool := o == 0x0110 || o == 0x0701 || o == 0x0A01 || o == 0x0A03 || o == 0x0703

/-- The mailbox key of a message. -/
def mbxKey (m : TcsMsg) : Nat :=
  match m.via with
  | .mgt p => p.val * 16 + m.mbx
  | .onchip n => 0x100 + n.val
  | .peer c hi => 0x200 + peerKey c.val hi * 16 + m.mbx

/-- Mailbox `m.mbx` suits the opcode (R76, R93). -/
def mbxFits (op : OpInfo) (mbx : Nat) : Bool := if op.zero then mbx == 0 else decide (1 ≤ mbx ∧ mbx ≤ 14)

/-- EXPIRY has passed (R67). -/
def expired (s : State) (m : TcsMsg) : Bool := m.expiry != 0 && decide (m.expiry < s.devNs)

/-- The checks an accepted request meets before its command starts: recovery (R541), the bare session (R547),
the CRIT count (R85) and EXPIRY (R67), in an order that is the model's (log entry 109). -/
def screened (op : OpInfo) (m : TcsMsg) (critWant : Nat) (bare : Bool) (s : State) : Accept :=
  if s.boot.recovery && !recoveryOp op.opcode then .done (s.respond op.opcode m .notReady)
  else if bare && !bareOp op.opcode then .done (s.respond op.opcode m .authFail)
  else if m.crit ≠ critWant then .done (s.respond op.opcode m .badArg)
  else if expired s m then .done (s.respond op.opcode m .timeout)
  else .go s

/-- Framing faults of R66 (wrong MAGIC or VER, wrong LEN): the statistic they count. -/
def framing (m : TcsMsg) : Option Nat :=
  if m.magic ≠ 0x4B585453#32 ∨ m.ver ≠ 1#8 then some 0
  else if 8192 < m.len ∨ m.frameLen ≠ 80 + m.len then some 1
  else none

/-- A mailbox of port `p` that executes the request with SEQ `q`. -/
def executingSeq (s : State) (p : Nat) (q : Word) : Option MbxExec :=
  ((s.tcs.mailboxes.filter fun x => x.1 / 16 == p && x.2.msg.seq == q).map Prod.snd).head?

/-- A message reaches the Gaffer on a management port (R60, R62): at most one IEEE 802.1Q tag; raw with Ethertype 0x88B5,
or UDP to port 47600 at the port's address in force or its link-local address. -/
def formOk (s : State) (p : Nat) (m : TcsMsg) : Bool :=
  let at_ (fam n : Nat) (dst : List Byte) : Bool :=
    match mget (0x10000 + p) s.tcs.netRunning with
    | some v => leVal (v.take 1) == fam && (v.drop 4).take n == dst
    | none => false
  decide (m.vtags ≤ 1) && match m.form with
    | .raw e => e == 0x88B5
    | .udp4 dst port => port == 47600 && at_ 4 4 dst
    | .udp6 dst linkLocal port => port == 47600 && (linkLocal || at_ 6 16 dst)

/-- A message travels as R50 asks between peers: UDP to port 47601. -/
def peerForm (m : TcsMsg) : Bool :=
  decide (m.vtags ≤ 1) && match m.form with
    | .raw _ => false
    | .udp4 _ port => port == 47601
    | .udp6 _ _ port => port == 47601

/-- A request on a management port, once it is authenticated (R73 to R77). One to mailbox 15 is dropped and leaves the
highest SEQ (log entry 110). -/
def acceptAuth (op : OpInfo) (m : TcsMsg) (critWant : Nat) (p : Nat) (s : State) : Accept :=
  let x := s.sess p
  match x.cache.find? (fun e => e.seq == m.seq) with
  | some e => .done (if e.tag == m.tag then s.send e.resp else s.stat p 4)
  | none =>
    match executingSeq s p m.seq with
    | some e => .done (if e.msg.tag == m.tag then s.ack op.opcode m else s.stat p 4)
    | none =>
      if m.seq.toNat ≤ x.highSeq then .done (s.stat p 4)
      else if m.mbx = 15 then .done (s.stat p 5)
      else
        let s := s.setSess p { x with highSeq := m.seq.toNat }
        if !mbxFits op m.mbx || !op.host then .done (s.respond op.opcode m .badArg)
        else if mhas s.tcs.mailboxes (mbxKey m) then .done (s.respond op.opcode m .busy)
        else if s.devState == 3 && op.opcode != 0x0105 then .done (s.respond op.opcode m .busy)
        else screened op m critWant (x.slot == 0xFF) s

/-- A request on a management port (R60, R66): no message of its own, dropped and counted, or authenticated; `good` says
whether its tag verifies. -/
def acceptMgt (good : Bool) (op : OpInfo) (m : TcsMsg) (critWant : Nat) (p : Nat) (s : State) : Accept :=
  if !formOk s p m then .done s
  else match framing m with
  | some n => .done (s.stat p n)
  | none =>
    let x := s.sess p
    if !(x.st == .live && x.id == m.session) then .done (s.stat p 2)
    else if !good then .done (s.stat p 3)
    else acceptAuth op m critWant p (s.setSess p { x with lastAuth := s.now, src := m.src, form := m.form })

/-- The request buffer of mailbox `n` holds a request: its header and payload (R102). -/
def inBuffer (s : State) (n opcode : Nat) (m : TcsMsg) : Bool :=
  let a := (s.reg64 (R.MBX_PTR n)).toNat
  s.bytes a 48 == rxHeader opcode 0 m && m.payload.length == m.len && s.bytes (a + 48) m.len == m.payload

/-- A request submitted on an on-chip mailbox (R102, R103): it is the one its buffer holds. A header that is not as R102
says is refused with BAD_ARG (log entry 111). -/
def acceptOnchip (op : OpInfo) (m : TcsMsg) (critWant n : Nat) (s : State) : Accept :=
  if !mhas s.tcs.onchipReq n || !inBuffer s n op.opcode m then .done s
  else
    let s := { s with tcs := { s.tcs with onchipReq := mdel n s.tcs.onchipReq } }
    if op.peerMbx.isSome || m.magic != 0x4B585453#32 || m.ver != 1#8 || m.session != 0#32 || m.mbx != 0 then
      .done (s.respond op.opcode m .badArg)
    else if !op.onchip then .done (s.respond op.opcode m .notOwner)
    else screened op m critWant false s

/-- Count a message dropped on the peers' port in the matching statistic of R66 (R50; log entry 108). -/
def peerDrop (n : Nat) (s : State) : State := s.stat 2 n

/-- A request in a peer session (R50, R66, R74); `good` says whether its tag verifies. -/
def acceptPeer (good : Bool) (op : OpInfo) (m : TcsMsg) (critWant k : Nat) (s : State) : Accept :=
  if !peerForm m then .done s
  else match framing m, s.peer k with
  | some n, _ => .done (peerDrop n s)
  | none, none => .done (peerDrop 2 s)
  | none, some x =>
    if !(x.st == .live && x.session == m.session) then .done (peerDrop 2 s)
    else if !good then .done (peerDrop 3 s)
    else
      let s := s.setPeer k { x with lastAuth := s.now }
      match x.cache.find? (fun e => e.seq == m.seq) with
      | some e => .done (if e.tag == m.tag then s.send e.resp else peerDrop 4 s)
      | none =>
        if m.seq.toNat ≤ x.highSeq then .done (peerDrop 4 s)
        else
          let s := s.setPeer k { x with lastAuth := s.now, highSeq := m.seq.toNat }
          if op.peerMbx ≠ some m.mbx then .done (s.respond op.opcode m .badArg)
          else screened op m critWant false s

/-- The key a request's tag is verified with: that of its port's session or of its peer session (R66). -/
def rxKey (s : State) (m : TcsMsg) : BitVec 256 :=
  match m.via with
  | .mgt p => (s.sess p.val).key
  | .peer c hi => ((s.peer (peerKey c.val hi)).map Peer.key).getD 0#256
  | .onchip _ => 0#256

/-- Take a message whose tag verifies, or does not, up to the start of its command. -/
def acceptIf (good : Bool) (op : OpInfo) (m : TcsMsg) (critWant : Nat) (s : State) : Accept :=
  if !gafferUp s then .done s
  else match m.via with
    | .mgt p => acceptMgt good op m critWant p.val s
    | .onchip n => acceptOnchip op m critWant n.val s
    | .peer c hi => acceptPeer good op m critWant (peerKey c.val hi) s

/-- Take a message up to the start of its command. -/
def accept (op : OpInfo) (m : TcsMsg) (critWant : Nat) (s : State) : Accept :=
  acceptIf (tagGood (rxKey s m) op.opcode 0 m) op m critWant s

/-- The answer of a command that completes at once. -/
structure Reply where
  st : Status
  payload : List Byte := []
  crit : Nat := 0
  state : State

/-- Refuse with a status and no payload. -/
def refuse (st : Status) (s : State) : Reply := { st := st, state := s }

/-- Serve a command that completes at once: accept the message, run `act`, answer. -/
def serve (op : OpInfo) (m : TcsMsg) (critWant : Nat) (act : State → Reply) (s : State) : State :=
  match accept op m critWant s with
  | .done s => s
  | .go s => let r := act s; r.state.respond op.opcode m r.st r.payload r.crit

/-- Checks 1 and 2 of R40 for a command that names semaphore `n`: the lease, then the device state. -/
def guarded (m : TcsMsg) (n : Nat) (parisonOk : Bool) (act : State → Reply) (s : State) : Reply :=
  if !holdsSem s m n then refuse .notOwner s
  else if s.parison && !parisonOk then refuse .notReady s
  else act s

/-- A command without a semaphore that PARISON service may lack (R94). -/
def unguarded (parisonOk : Bool) (act : State → Reply) (s : State) : Reply :=
  if s.parison && !parisonOk then refuse .notReady s else act s

end Sys2Proof.Machine
end

