-- ==== Sys2Proof/Machine/Cores.lean ====
section
/-! DEFINITION. DSP cores: access to their registers, their reset, and their cycle count (R231, R235, R278).
Assumption log: 9 (DESIGN CHOICE). -/

namespace Sys2Proof.Machine

/-- Key of a core. -/
def coreKey (t c : Nat) : Nat := t * 4 + c
/-- Core `c` of tile `t`. -/
def State.core (s : State) (t c : Nat) : Core := mgetD Core.reset s.cores.core (coreKey t c)
/-- Replace a core. -/
def State.setCore (s : State) (t c : Nat) (x : Core) : State :=
  { s with cores := { s.cores with core := mset (coreKey t c) x s.cores.core } }
/-- The core exists (R2). -/
def corePresent (s : State) (t c : Nat) : Bool := isDsp s.part t && decide (c < 4)
/-- The core is not idle. -/
def coreBusy (s : State) (t c : Nat) : Bool := (s.core t c).st != .idle

/-- Gn. -/ def Core.gr (x : Core) (i : Nat) : Word := mgetD 0#32 x.g i
/-- An. -/ def Core.ar (x : Core) (i : Nat) : DWord := mgetD 0#64 x.a i
/-- Mn. -/ def Core.mr (x : Core) (i : Nat) : Word := mgetD 0#32 x.m i
/-- Bn. -/ def Core.br (x : Core) (i : Nat) : DWord := mgetD 0#64 x.b i
/-- Nn. -/ def Core.nr (x : Core) (i : Nat) : Word := mgetD 0#32 x.n i
/-- The real half of ACCn. -/ def Core.accRe (x : Core) (i : Nat) : BitVec 40 := (mgetD (0#40, 0#40) x.acc i).1
/-- The imaginary half of ACCn. -/ def Core.accIm (x : Core) (i : Nat) : BitVec 40 := (mgetD (0#40, 0#40) x.acc i).2
/-- Vn. -/ def Core.vr (x : Core) (i : Nat) : BitVec 512 := mgetD 0#512 x.v i
/-- Set Gn. -/ def Core.setG (x : Core) (i : Nat) (w : Word) : Core := { x with g := mset i w x.g }
/-- Set An. -/ def Core.setA (x : Core) (i : Nat) (w : DWord) : Core := { x with a := mset i w x.a }
/-- Set Mn. -/ def Core.setM (x : Core) (i : Nat) (w : Word) : Core := { x with m := mset i w x.m }
/-- Set Bn. -/ def Core.setB (x : Core) (i : Nat) (w : DWord) : Core := { x with b := mset i w x.b }
/-- Set Nn. -/ def Core.setN (x : Core) (i : Nat) (w : Word) : Core := { x with n := mset i w x.n }
/-- Set ACCn. -/
def Core.setAcc (x : Core) (i : Nat) (re im : BitVec 40) : Core := { x with acc := mset i (re, im) x.acc }
/-- Set Vn. -/ def Core.setV (x : Core) (i : Nat) (w : BitVec 512) : Core := { x with v := mset i w x.v }

/-- Clock multiplier of an island: its frequency is MULT × 40 MHz (R499, R531); values outside 10 to 45 act as 40. -/
def clkMult (s : State) (t : Nat) : Nat :=
  let m := s.field (R.ISL_CTRL t) 29 24
  if 10 ≤ m ∧ m ≤ 45 then m else 40

/-- Core cycles of a tile in `n` ns: at the island clock, whose period a supply warning lengthens by 25 % (R231, R521). -/
def islandCycles (s : State) (t n : Nat) : Nat :=
  let m := n * clkMult s t
  if s.power.stretched then m * 4 / 125 else m / 25

/-- Core cycles of a tile since its count was last settled. -/
def cyclesSince (s : State) (t : Nat) : Nat :=
  let x := mgetD (0, 0) s.cores.cycles t
  let run := (mgetD Island.off s.islands t).st == .run
  if run then islandCycles s t (s.now - x.2) else 0

/-- Core cycles of a tile (CORE_CYCLE). -/
def tileCycles (s : State) (t : Nat) : Nat := (mgetD (0, 0) s.cores.cycles t).1 + cyclesSince s t

/-- Settle a tile's cycle count before its clock changes. -/
def settleCycles (s : State) (t : Nat) : State :=
  { s with cores := { s.cores with cycles := mset t (tileCycles s t, s.now) s.cores.cycles } }

end Sys2Proof.Machine
end

