-- ==== Sys2Proof/Machine/EgressBase.lean ====
section
/-! DEFINITION. Bound EGRESS queues, virtual times and tags (R413, R417 to R419). Assumption log: 83 (DEDUCED), 84
(DEDUCED). -/

namespace Sys2Proof.Machine

/-- Key of a port: IOT × 16 + port; spur port p is port 8 + p of IOT 1. -/
def portKey (iot port : Nat) : Nat := iot * 16 + port
/-- A little-endian field of an entry. -/
def ent (e : List Byte) (off n : Nat) : Nat := leVal ((e.drop off).take n)

/-- EN of WFQ_Q_CFG (R428). -/ def EgQueue.en (x : EgQueue) : Bool := bit x.cfg 31
/-- TIMED. -/ def EgQueue.timed (x : EgQueue) : Bool := bit x.cfg 30
/-- PORT; a spur port p counts as port 8 + p. -/
def EgQueue.port (x : EgQueue) : Nat := fld x.cfg 29 28 + (if x.spur then 8 else 0)
/-- The key of the queue's port. -/
def EgQueue.key (x : EgQueue) : Nat := portKey x.iot x.port
/-- TIER. -/ def EgQueue.tier (x : EgQueue) : Nat := fld x.cfg 27 26
/-- SAMP. -/ def EgQueue.sampling (x : EgQueue) : Bool := bit x.cfg 25
/-- SWIN. -/ def EgQueue.swin (x : EgQueue) : Nat := fld x.cfg 23 20
/-- PCP. -/ def EgQueue.pcp (x : EgQueue) : Nat := fld x.cfg 18 16
/-- w; 0 acts as 1 (R428). -/ def EgQueue.w (x : EgQueue) : Nat := if x.weight = 0 then 1 else x.weight

/-- The bound queue of a QID. -/
def State.egq (s : State) (qid : Nat) : Option EgQueue := mget qid s.eg.bound
/-- Replace a bound queue. -/
def State.setEgq (s : State) (qid : Nat) (x : EgQueue) : State :=
  { s with eg := { s.eg with bound := mset qid x s.eg.bound } }

/-- The address of V of a tier of a port (R428). -/
def vtAddr (k p t : Nat) : Nat := wfqBase k + 0x100 + 0x20 * p + 8 * t
/-- V of a tier of a port (R417). -/
def State.vt (s : State) (k p t : Nat) : DWord := s.reg64 (vtAddr k p t)

/-- Received pause holds a PCP of a port. -/
def rxPaused (s : State) (k p pcp : Nat) : Bool :=
  match mget (portKey k p * 8 + pcp) s.eg.paused with
  | some e => decide (s.now < e)
  | none => false

/-- Tags are compared by the sign of their difference modulo 2^64 (R417): `a` is not after `b`. -/
def tagLe (a b : DWord) : Bool := !(b - a).msb
/-- The greater of two tags. -/
def tagMax (a b : DWord) : DWord := if tagLe a b then b else a

/-- L of a frame: LEN + 4 + 20 (R417). -/
def frameL (e : List Byte) : Nat := ent e 2 2 + 24

/-- Give the head of a queue its tag from F_prev `f` (R417). -/
def giveTag (v f : DWord) (x : EgQueue) (e : List Byte) : EgQueue :=
  let t := tagMax v f + BitVec.ofNat 64 (frameL e * 2 ^ 16 / x.w)
  { x with ftag := t, headTag := some t }

/-- A bound WFQ queue becomes active with head `e` (R419): F_prev = V, and the head takes its tag. -/
def egressActivate (s : State) (qid : Nat) (e : List Byte) : State :=
  match s.egq qid with
  | none => s
  | some x =>
    if x.timed || rxPaused s x.iot x.port x.pcp then s
    else
      let v := s.vt x.iot x.port x.tier
      s.setEgq qid (giveTag v v x e)

/-- Put a MAC control frame in line for a port (R425). -/
def queuePause (s : State) (k p pcp quanta : Nat) : State :=
  { s with eg := { s.eg with control := mupd [] (portKey k p) (· ++ [(pcp, quanta)]) s.eg.control } }

/-! ### Ethernet ports (R395, R398) -/

/-- IOT `k` has a port `p` (R394, R395). -/
def ethPort (s : State) (k p : Nat) : Bool := iotPresent s.part k && (decide (p < 4) || (p == 4 && decide (k < 2)))

/-- A port enters a bring-up step. -/
def enterStep (s : State) (k p n : Nat) : State :=
  let s := s.setField (R.ETH_STAT k p) 3 0 n
  { s with lanes := { s.lanes with stepAt := mset (portKey k p) s.now s.lanes.stepAt } }

/-- The ports of an IOT that have a mode start bring-up at step 1 (R398). -/
def startPorts (s : State) (k : Nat) (ps : List Nat) : State :=
  ps.foldl (fun s p => if ethPort s k p && s.field (R.ETH_MODE k p) 3 0 != 0 then enterStep s k p 1 else s) s

end Sys2Proof.Machine
end

