-- ==== Sys2Proof/Machine/Queues.lean ====
section
/-! DEFINITION. The quadrant dispatchers' queues, flows and crumb trace (R191 to R229): pushing and popping,
reservation, release, lateness, and the choice of the next entry. Assumption log: 18 (DEDUCED), 39 (DEDUCED), 65
(DEDUCED), 67 (DEDUCED), 68 (DEDUCED), 91 (DEDUCED), 103 (DESIGN CHOICE). -/

namespace Sys2Proof.Machine

/-! ### Access -/

/-- The dispatcher that owns a QID (R191). -/
def qidDsq (qid : Nat) : Nat := qid / 16384
/-- The QID's dispatcher is present. -/
def qidPresent (s : State) (qid : Nat) : Bool := decide (qid < 65536) && quadPresent s.part (qidDsq qid)
/-- The queue of a QID. -/
def State.queue (s : State) (qid : Nat) : Queue := mgetD Queue.reset s.dsq.queues qid
/-- Replace a queue. -/
def State.setQueue (s : State) (qid : Nat) (x : Queue) : State :=
  { s with dsq := { s.dsq with queues := mset qid x s.dsq.queues } }
/-- Key of a flow. -/
def flowKey (q flid : Nat) : Nat := q * 4096 + flid
/-- The flow of a FLID in dispatcher `q` (R216). -/
def State.flow (s : State) (q flid : Nat) : Flow := mgetD Flow.reset s.dsq.flows (flowKey q flid)
/-- Replace a flow. -/
def State.setFlow (s : State) (q flid : Nat) (f : Flow) : State :=
  { s with dsq := { s.dsq with flows := mset (flowKey q flid) f s.dsq.flows } }
/-- Emit a line or pin output. -/
def State.emit (s : State) (o : DevOut) : State := { s with lines := s.lines ++ [o] }

/-- The island of a tile. -/
def State.island (s : State) (t : Nat) : Island := mgetD Island.off s.islands t
/-- Replace an island. -/
def State.setIsland (s : State) (t : Nat) (x : Island) : State := { s with islands := mset t x s.islands }
/-- Tile `t` is in RUN. -/
def tileRun (s : State) (t : Nat) : Bool := (s.island t).st == .run
/-- Tile `t` is in KEEP or HALT (R214). -/
def tileSleeps (s : State) (t : Nat) : Bool := (s.island t).st == .keep || (s.island t).st == .halt

/-- Begin waking a tile (R513, R514): step 1 starts, unless the wake is under way or the island failed. -/
def startWake (s : State) (t : Nat) : State :=
  let x := s.island t
  if tileSleeps s t && x.step == 0 && !x.failed then s.setIsland t { x with step := if x.st == .halt then 2 else 1, stepAt := s.now, tries := 0 }
  else s

/-! ### Descriptor fields (R196) -/

/-- Work on a tile has ended: its idle time begins (R506). -/
def noteIdle (s : State) (t : Nat) : State :=
  match mget t s.islands with
  | some x => s.setIsland t { x with idleSince := s.now }
  | none => s

/-- FLID. -/ def eFlid (e : List Byte) : Nat := ent e 2 2
/-- SEQ. -/ def eSeq (e : List Byte) : Nat := ent e 4 2
/-- OUTQ. -/ def eOutq (e : List Byte) : Nat := ent e 6 2
/-- DEADLINE. -/ def eDeadline (e : List Byte) : Nat := ent e 8 5
/-- CLASS. -/ def eClass (e : List Byte) : Nat := ent e 13 1
/-- PRIO of CLASS. -/ def ePrio (e : List Byte) : Nat := eClass e / 32
/-- ECLASS of CLASS. -/ def eEclass (e : List Byte) : Nat := eClass e / 8 % 4
/-- AFFINITY. -/ def eAffinity (e : List Byte) : Nat := ent e 14 1
/-- FLAGS. -/ def eFlags (e : List Byte) : Nat := ent e 15 1
/-- No deadline. -/ def eNodl (e : List Byte) : Bool := (eFlags e).testBit 0
/-- HARD. -/ def eHard (e : List Byte) : Bool := (eFlags e).testBit 1
/-- PREFETCH. -/ def ePrefetch (e : List Byte) : Bool := (eFlags e).testBit 2
/-- ENTRY. -/ def eEntry (e : List Byte) : Nat := ent e 16 8
/-- ARG. -/ def eArg (e : List Byte) : Nat := ent e 24 8

/-- Overwrite bytes of an entry. -/
def entSet (e : List Byte) (off n v : Nat) : List Byte := e.take off ++ leBytes n v ++ e.drop (off + n)

/-- PRIO as the queue treats it (R197). -/
def effPrio (x : Queue) (e : List Byte) : Nat := if ePrio e = 7 && !x.emergOk then 6 else ePrio e

/-- The current DT (R221). -/
def State.dt (s : State) : Nat := (s.devNs / 2) % 2 ^ 40
/-- How late a completion at `e` is against deadline `d`, 0 when it is on time (R221). -/
def lateBy (e d : Nat) : Nat :=
  let x := (e + 2 ^ 40 - d % 2 ^ 40) % 2 ^ 40
  if 1 ≤ x ∧ x < 2 ^ 39 then x else 0

/-- Flow state applies to a FLID (R196). -/
def hasFlow (flid : Nat) : Bool := decide (flid < 4096)
/-- The flow is treated as periodic (R216). -/
def isPeriodic (f : Flow) : Bool := f.periodic && f.period != 0

/-! ### Crumb trace (R227 to R229) -/

/-- A crumb record (R227). -/
structure Crumb where
  typ : Nat
  qid : Nat
  flid : Nat
  seq : Nat
  unit_ : Nat
  deadline : Nat
  cls : Nat
  detail : List Byte

/-- The bytes of a crumb record (R227). -/
def crumbBytes (q time : Nat) (c : Crumb) : List Byte :=
  leBytes 6 time ++ leBytes 1 c.typ ++ leBytes 1 q ++ leBytes 2 c.qid ++ leBytes 2 c.flid ++ leBytes 2 c.seq
    ++ leBytes 2 c.unit_ ++ leBytes 5 c.deadline ++ leBytes 1 c.cls ++ leBytes 2 0 ++ fitBytes 8 c.detail

/-- A record is lost (R229). -/
def crumbLose (s : State) (q : Nat) : State := (s.count (R.DSQ_CRUMB_LOST q) 1).orReg (R.DSQ_STAT q) 5

/-- Write a record to the ring (R229): in STOP mode a ring that was filled to its end takes no more. -/
def crumbRing (s : State) (q : Nat) (b : List Byte) : State :=
  let size := 2 ^ s.field (R.DSQ_CRUMB_SIZE q) 5 0
  let w := (s.reg (R.DSQ_CRUMB_WPTR q)).toNat
  let stop := s.flag (R.DSQ_CRUMB_CTRL q) 29
  if stop && (decide (size ≤ w) || mgetD false s.dsq.ringFull q) then crumbLose s q
  else
    let w := if size ≤ w then 0 else w
    let a := (s.reg64 (R.DSQ_CRUMB_BASE q)).toNat + w
    let s := memWrite (.dsq q) (placeOf s.part a) a b s
    let s := { s with dsq := { s.dsq with ringFull := mset q (stop && decide (size ≤ w + 32)) s.dsq.ringFull } }
    s.setReg (R.DSQ_CRUMB_WPTR q) (BitVec.ofNat 32 (if stop then w + 32 else (w + 32) % size))

/-- Add a record to the waiting message of a port's stream (R229). -/
def crumbStream (s : State) (q p : Nat) (b : List Byte) : State :=
  match mget p s.dsq.streams with
  | none => s
  | some x =>
    if !x.dsqs.testBit q then s
    else if !(s.isLive p && (s.sess p).id == x.session) || decide (256 ≤ x.waiting.length) then crumbLose s q
    else { s with dsq := { s.dsq with streams := mset p { x with waiting := x.waiting ++ [b] } s.dsq.streams } }

/-- Write a crumb record where the filters and destinations say (R228, R229). -/
def crumb (s : State) (q : Nat) (c : Crumb) : State :=
  let ctrl := R.DSQ_CRUMB_CTRL q
  let rng := s.reg (R.DSQ_CRUMB_QRANGE q)
  if !((s.field ctrl 6 0).testBit (c.typ - 1)) || decide (c.qid < fld rng 15 0) || decide (fld rng 31 16 < c.qid)
  then s else
  let t := max (s.devNs / 2) (mgetD 0 s.dsq.lastTime q)
  let s := { s with dsq := { s.dsq with lastTime := mset q t s.dsq.lastTime } }
  let b := crumbBytes q t c
  let s := if s.flag ctrl 31 then crumbRing s q b else s
  if s.flag ctrl 30 then crumbStream (crumbStream s q 0 b) q 1 b else s

/-- UNIT of a crumb record (R227); tile 255 stands for work that no unit ran. -/
def unitCode (tile : Nat) (core : Option Nat) : Nat :=
  match core with
  | some c => tile * 256 + c
  | none => if tile = 255 then 0xFFFF else tile * 256 + 128

/-- The crumb record of an entry. -/
def entryCrumb (typ qid : Nat) (e : List Byte) (unit_ : Nat) (detail : List Byte) : Crumb :=
  { typ := typ, qid := qid, flid := eFlid e, seq := eSeq e, unit_ := unit_, deadline := eDeadline e,
    cls := eClass e, detail := detail }

/-- A BACKPRESSURE record (R200): SOURCE and ACTION. -/
def bpCrumb (s : State) (qid src act : Nat) : State :=
  let s := if act = 0 then s.count (R.DSQ_CNT_BP (qidDsq qid)) 1 else s
  crumb s (qidDsq qid) { typ := 3, qid := qid, flid := 0, seq := 0, unit_ := 0xFFFF, deadline := 0, cls := 0,
                         detail := leBytes 2 0 ++ leBytes 1 src ++ leBytes 1 act ++ leBytes 4 0 }

/-! ### Entries of a queue -/

/-- Entries a queue holds at most (R193). -/
def qDepth (x : Queue) : Nat := 2 ^ x.depth
/-- Entries still free for ordinary pushes. -/
def qFree (x : Queue) : Nat := qDepth x - x.entries.length - x.resv
/-- The memory address of the i-th entry from the head for LOC = 1. -/
def ringAddr (x : Queue) (i : Nat) : Nat := x.ring + (x.head + i) % qDepth x * 32

/-- OUT_RESV in force: 0 acts as 1, 5 to 7 as 4 (R230). -/
def outResvOf (x : Queue) : Nat := if x.outResv = 0 then 1 else min x.outResv 4

/-- Granules of ring SRAM that a queue takes (R193): while it is enabled, and while it keeps entries after EN was
cleared (R194). -/
def granules (x : Queue) : Nat := if (x.en || !x.entries.isEmpty) && !x.loc then ceilDiv (2 ^ x.depth) 32 else 0
/-- Granules in use in dispatcher `q`. -/
def granulesUsed (s : State) (q : Nat) : Nat :=
  (s.dsq.queues.filter fun x => qidDsq x.1 == q).foldl (fun n x => n + granules x.2) 0

/-- Put a pause frame out for a backhaul ingress queue (R203, R425). -/
def pauseOut (s : State) (qid quanta : Nat) : State :=
  match s.dsq.bhIngress.find? fun x => x.2 == qid with
  | some (k, _) => queuePause s (k / 32) (k / 8 % 4) (k % 8) quanta
  | none => s

/-- A backhaul ingress queue whose fill reached HI asserts pause (R203). -/
def pauseCheck (s : State) (qid : Nat) : State :=
  let x := s.queue qid
  let isBh := s.dsq.bhIngress.any fun y => y.2 == qid
  if isBh && x.hi != 0 && !x.paused && decide (x.hi ≤ x.entries.length) then
    bpCrumb (pauseOut (s.setQueue qid { x with paused := true, pausedAt := s.now }) qid 0xFFFF) qid 4 0
  else s

/-- A paused backhaul ingress queue whose fill reached LO releases pause (R203). -/
def resumeCheck (s : State) (qid : Nat) : State :=
  let x := s.queue qid
  if x.paused && decide (x.entries.length ≤ x.lo) then
    bpCrumb (pauseOut (s.setQueue qid { x with paused := false }) qid 0) qid 4 1
  else s

/-- Depth of an EGRESS queue (R426): its entries at the dispatcher, those in the calendar and the one in
transmission. -/
def egDepth (s : State) (qid : Nat) (x : EgQueue) : Nat :=
  (s.queue qid).entries.length + ((mgetD [] s.eg.cal x.key).filter fun c => c.qid == qid).length
    + (match mget x.key s.eg.tx with | some f => b2n (f.qid == qid && f.kind != .control) | none => 0)

/-- Take the depth into the sampling window (R426). -/
def noteDepth (s : State) (qid : Nat) : State :=
  match s.egq qid with
  | none => s
  | some x =>
    let d := egDepth s qid x
    s.setEgq qid { x with samp := { x.samp with dmin := min x.samp.dmin d, dmax := max x.samp.dmax d } }

/-- Append an entry to a queue that has room (R193, R196, R197, R217): QID and, in an ordered flow, SEQ are
written by the dispatcher. -/
def enqueue (s : State) (qid : Nat) (e : List Byte) : State :=
  let q := qidDsq qid
  let x := s.queue qid
  let task := decide (x.kind < 2)
  let e := fitBytes 32 e
  let e := if task then entSet e 0 2 qid else e
  let fl := eFlid e
  let f := s.flow q fl
  let ord := task && hasFlow fl && f.ordered
  let e := if ord then entSet e 4 2 f.enq else e
  let s := if ord then s.setFlow q fl { f with enq := (f.enq + 1) % 65536 } else s
  let s := if task && ePrio e == 7 && !x.emergOk then
             (s.orReg (R.DSQ_STAT q) 4).count (R.DSQ_CNT_DEMOTE q) 1 else s
  let inj := R.ECC_INJ (dsqTile q)
  let armed := !x.loc && s.flag inj 31
  let bad := armed && s.flag inj 30
  let s := if armed then s.setField inj 31 31 0 else s
  let s := if x.loc then
      let a := ringAddr x x.entries.length
      memWrite (.dsq q) (placeOf s.part a) a e s
    else s
  let s := s.setQueue qid { x with entries := x.entries ++ [{ bytes := if x.loc then [] else e, ue := bad, stamp := s.devNs, aborted := false }] }
  let s := pauseCheck s qid
  let s := if x.kind = 2 then noteDepth s qid else s
  if x.entries.isEmpty then egressActivate s qid e else s

/-- What a push met. -/
inductive PushOut where
  | accepted | held | absent | asleep | disabled | refused | lost
  deriving DecidableEq, Repr

/-- The source code of a held producer in a BACKPRESSURE record (R227). -/
def bpSource : Producer → Nat
  | .core _ _ _ => 1 | .dma _ _ => 2 | _ => 4

/-- A push by a producer (R191, R194, R199, R200). -/
def pushQ (p : Producer) (qid : Nat) (e : List Byte) (s : State) : PushOut × State :=
  if !qidPresent s qid then (.absent, s)
  else if !tileRun s (dsqTile (qidDsq qid)) then (.asleep, s)
  else
    let x := s.queue qid
    if !x.en then (.disabled, s.orReg (R.DSQ_STAT (qidDsq qid)) 3)
    else if qFree x ≠ 0 && x.held.isEmpty then (.accepted, enqueue s qid e)
    else match p with
      | .core _ _ _ | .dma _ _ =>
        (.held, bpCrumb (s.setQueue qid { x with held := x.held ++ [{ producer := p, bytes := e }] }) qid (bpSource p) 0)
      | .fab _ _ => (.refused, s)
      | _ => (.lost, s)

/-- The head entry's bytes, or none where an uncorrectable error lies in it (R381); the UE report then carries the
QID. -/
def peekHead (s : State) (qid : Nat) : Option (List Byte) × State :=
  let x := s.queue qid
  match x.entries with
  | [] => (none, s)
  | e :: _ =>
    if x.loc then
      let a := ringAddr x 0
      let r := memRead (.dsq (qidDsq qid)) (placeOf s.part a) a 32 s
      match r.1 with
      | some b => (some b, r.2)
      | none => (none, { r.2 with mem := { r.2.mem with
          ueReports := r.2.mem.ueReports.map fun u => if u.cw ≤ a ∧ a < u.cw + 64 ∧ u.reader = 4 then { u with qid := qid } else u } })
    else if e.ue then (none, s) else (some e.bytes, s)

/-- Remove the head entry: the next one can be eligible from now on (R211). -/
def dropHead (s : State) (qid : Nat) : State :=
  let x := s.queue qid
  let s := s.setQueue qid { x with entries := x.entries.drop 1, head := (x.head + 1) % qDepth x, deferred := [],
                                   prefetched := false, ctxUe := false, readyAt := s.devNs }
  resumeCheck s qid

/-- Pop the head entry of a queue: its bytes, or none when it is empty or uncorrectable. -/
def popQ (s : State) (qid : Nat) : Option (List Byte) × State :=
  let r := peekHead s qid
  match r.1 with
  | some b => (some b, dropHead r.2 qid)
  | none => (none, r.2)

/-- Pop up to `n` entries. -/
def popMany : Nat → Nat → State → List (List Byte) × State
  | 0, _, s => ([], s)
  | n + 1, qid, s =>
    let r := popQ s qid
    match r.1 with
    | some b => let t := popMany n qid r.2; (b :: t.1, t.2)
    | none => ([], r.2)

/-- Accept the oldest held push when a slot is free (R201). -/
def acceptHeld (s : State) (qid : Nat) : State :=
  let x := s.queue qid
  match x.held with
  | [] => s
  | h :: l =>
    if qFree x = 0 || !x.en then s
    else bpCrumb (enqueue (s.setQueue qid { x with held := l }) qid h.bytes) qid (bpSource h.producer) 1

/-! ### Enabling and configuring (R193, R194, R205, R230) -/

/-- Set CFG_ERR. -/
def cfgErr (s : State) (qid : Nat) : State := s.orReg (R.DSQ_STAT (qidDsq qid)) 1

/-- The address lies in HBM. -/
def isHbm (s : State) (a : Nat) : Bool := match placeOf s.part a with | .hbm _ => true | _ => false
/-- The address lies in a tile's SRAM. -/
def isSram (s : State) (a : Nat) : Bool := match placeOf s.part a with | .sram _ => true | _ => false

/-- Enable a queue (R193, R412). -/
def enableQ (gaffer : Bool) (s : State) (qid : Nat) : State :=
  let x := s.queue qid
  if x.en then s
  else if x.depth < 2 ∨ 16 < x.depth then cfgErr s qid
  else if x.kind = 2 && !gaffer then cfgErr s qid
  else if x.loc && (x.ring % 1024 != 0 || !(isHbm s x.ring || isSram s x.ring) || (s.parison && isHbm s x.ring)) then cfgErr s qid
  else if !x.loc && decide (2048 < granulesUsed s (qidDsq qid) - granules x + ceilDiv (2 ^ x.depth) 32) then
    s.orReg (R.DSQ_STAT (qidDsq qid)) 2
  else s.setQueue qid { x with en := true }

/-- Write DSQ_Q_CFG (R194, R230). -/
def writeQCfg (gaffer : Bool) (qid : Nat) (w : Word) (s : State) : State :=
  let x := s.queue qid
  let kind := fld w 29 28
  let loc := bit w 27
  let depth := fld w 24 20
  let frozen := x.en || !x.entries.isEmpty
  let changes := kind != x.kind || loc != x.loc || depth != x.depth
  let s := if frozen && changes then cfgErr s qid else s
  let x := { x with emergOk := bit w 26 }
  let x := if frozen then x else { x with kind := kind, loc := loc, depth := depth }
  if bit w 31 then enableQ gaffer (s.setQueue qid x) qid
  else s.setQueue qid { x with en := false }

/-- Write DSQ_Q_WM (R205): a queue left without watermarks stops asserting pause, and a fill at or below the new LO
ends one (R203). -/
def writeQWm (qid : Nat) (w : Word) (s : State) : State :=
  let x := s.queue qid
  let hi := fld w 31 16
  let lo := fld w 15 0
  if hi = 0 ∧ lo = 0 then
    let s := s.setQueue qid { x with hi := 0, lo := 0, paused := false }
    if x.paused then bpCrumb s qid 4 1 else s
  else if lo < hi ∧ hi ≤ qDepth x then resumeCheck (s.setQueue qid { x with hi := hi, lo := lo }) qid
  else cfgErr s qid

/-- Write DSQ_Q_RING (R194). -/
def writeQRing (qid v : Nat) (s : State) : State :=
  let x := s.queue qid
  if x.ring = v then s
  else if x.en || !x.entries.isEmpty then cfgErr s qid
  else s.setQueue qid { x with ring := v }

/-- EPISODE_ACTIVE of DSQ_STAT: at least one flow is in an episode (R230). -/
def updateEpisode (s : State) (q : Nat) : State :=
  s.setField (R.DSQ_STAT q) 7 7 (b2n ((s.dsq.flows.filter fun x => x.1 / 4096 == q).any fun x => x.2.episode))

/-- Write DSQ_FLOW_CFG (R216). -/
def writeFlowCfg (q flid : Nat) (w : Word) (s : State) : State :=
  let f := s.flow q flid
  let inflight := (s.dsq.running.filter fun r => r.q == q && r.flid == flid).length
  let ord := bit w 31
  let bad := ord != f.ordered && inflight != 0
  let s := if bad then s.orReg (R.DSQ_STAT q) 1 else s
  let f := { f with ordered := if bad then f.ordered else ord, periodic := bit w 30, period := fld w 23 0 }
  s.setFlow q flid (if isPeriodic f then f else { f with lam := 0 })

/-! ### Release and lateness (R219 to R226) -/

/-- Raise CATCHUP_EPISODE (R226). -/
def catchupEvent (s : State) (q kind flid lamMax count : Nat) : State :=
  s.raise 0x0080 6 (dsqTile q)
    (leBytes 1 q ++ leBytes 1 kind ++ leBytes 2 flid ++ leBytes 4 lamMax ++ leBytes 4 count)

/-- An episode begins (R223, R226). -/
def episodeBegin (s : State) (q flid lam : Nat) : State :=
  let f := s.flow q flid
  let s := s.count (R.DSQ_CNT_CATCHUP q) 1
  match f.span with
  | none =>
    catchupEvent (s.setFlow q flid { f with episode := true, lam := lam,
                                            span := some { lamMax := lam, count := 1, lastEnd := none } }) q 0 flid lam 1
  | some sp =>
    s.setFlow q flid { f with episode := true, lam := lam,
                              span := some { lamMax := max sp.lamMax lam, count := sp.count + 1, lastEnd := none } }

/-- Update the carried lateness of a periodic flow at a release or end (R223). -/
def updateLam (s : State) (r : Running) : State :=
  if !hasFlow r.flid then s else
  let f := s.flow r.q r.flid
  let lam := if isPeriodic f && !eNodl r.entry then min (lateBy (r.ended.getD s.dt) (eDeadline r.entry)) (2 ^ 32 - 1) else 0
  if !isPeriodic f && !f.episode then s
  else
    let s :=
      if lam ≠ 0 then
        if f.episode then s.setFlow r.q r.flid { f with lam := lam, span := f.span.map fun sp => { sp with lamMax := max sp.lamMax lam } }
        else episodeBegin s r.q r.flid lam
      else if f.episode then
        s.setFlow r.q r.flid { f with lam := 0, episode := false, span := f.span.map fun sp => { sp with lastEnd := some s.now } }
      else s.setFlow r.q r.flid { f with lam := 0 }
    updateEpisode s r.q

/-- Push an entry into reserved space; into a queue with EN = 0 it is not pushed, and PUSH_DISABLED is set (R194). -/
def enqueueResv (s : State) (qid : Nat) (e : List Byte) : State :=
  if (s.queue qid).en then enqueue s qid e else s.orReg (R.DSQ_STAT (qidDsq qid)) 3

/-- Push a list of entries into reserved space. -/
def enqueueAll (s : State) (qid : Nat) : List (List Byte) → State
  | [] => s
  | e :: l => enqueueAll (enqueueResv s qid e) qid l

/-- Return reserved space of an OUTQ. -/
def unreserve (s : State) (o : Option Nat) (n : Nat) : State :=
  match o with
  | some qid => let x := s.queue qid; s.setQueue qid { x with resv := x.resv - n }
  | none => s

/-- Release one task or job (R209, R220): its reservation is returned, its staged entries are pushed, a RELEASE
record is written and the flow's lateness updated. -/
def releaseOne (s : State) (r : Running) : State :=
  let staged := if r.terminated then [] else r.staged
  let s := { s with dsq := { s.dsq with running := s.dsq.running.filter fun x => x.id != r.id } }
  let s := unreserve s r.outq (r.resvLeft + r.staged.length)
  let s := match r.outq with | some o => enqueueAll s o staged | none => s
  let n := if r.ordered then staged.length else r.placed
  let s := crumb s r.q { typ := 6, qid := r.qid, flid := r.flid, seq := r.seq, unit_ := unitCode r.tile r.core,
                         deadline := eDeadline r.entry, cls := eClass r.entry,
                         detail := leBytes 1 n ++ leBytes 1 (b2n r.terminated + 2 * b2n r.stale) ++ leBytes 6 0 }
  if r.ordered then
    let s := updateLam s r
    let f := s.flow r.q r.flid
    s.setFlow r.q r.flid { f with nextRel := (r.seq + 1) % 65536 }
  else s

/-- Release the work of an ordered flow that has ended, in SEQ order (R220). -/
def releaseFlow : Nat → Nat → Nat → State → State
  | 0, _, _, s => s
  | n + 1, q, flid, s =>
    let f := s.flow q flid
    match s.dsq.running.find? fun r => r.q == q && r.flid == flid && r.ordered && r.seq == f.nextRel && r.ended.isSome with
    | some r => releaseFlow n q flid (releaseOne s r)
    | none => s

/-- Replace a piece of work by its number. -/
def setRunning (s : State) (r : Running) : State :=
  { s with dsq := { s.dsq with running := s.dsq.running.map fun x => if x.id = r.id then r else x } }

/-- Work has ended (R222): a LATE record when it is late, then release. -/
def endWork (s : State) (r : Running) (terminated : Bool) : State :=
  let e := s.dt
  let r' := { r with ended := some e, terminated := terminated }
  let s := noteIdle (setRunning s r') r.tile
  let s := match r.core with
    | some c => { s with dsq := { s.dsq with freed := mset (r.tile * 4 + c) s.devNs s.dsq.freed } }
    | none => s
  let late := if eNodl r.entry then 0 else lateBy e (eDeadline r.entry)
  let s := if late = 0 then s else
    (crumb s r.q { typ := 4, qid := r.qid, flid := r.flid, seq := r.seq, unit_ := unitCode r.tile r.core,
                   deadline := eDeadline r.entry, cls := eClass r.entry,
                   detail := leBytes 4 (min late (2 ^ 32 - 1)) ++ leBytes 4 0 }).count (R.DSQ_CNT_LATE r.q) 1
  if r.ordered then releaseFlow s.dsq.running.length r.q r.flid s
  else releaseOne (updateLam s r') r'

/-- An entry placed by a running task or job into its OUTQ's reserved space (R219): staged for an ordered flow,
enqueued otherwise; none when no reserved space is left. -/
def placeOut (s : State) (r : Running) (e : List Byte) : Option State :=
  match r.outq with
  | none => none
  | some o =>
    if r.resvLeft = 0 then none
    else
      let r' := if r.ordered then { r with resvLeft := r.resvLeft - 1, staged := r.staged ++ [e], placed := r.placed + 1 }
                else { r with resvLeft := r.resvLeft - 1, placed := r.placed + 1 }
      let s := setRunning s r'
      some (if r.ordered then s else enqueueResv (unreserve s (some o) 1) o e)

/-- The work running on a core. -/
def runningOn (s : State) (tile core : Nat) : Option Running :=
  s.dsq.running.find? fun r => r.tile == tile && r.core == some core && r.ended.isNone

/-! ### The context cache (R215) -/

/-- Address of slot `k` of dispatcher `q`'s context cache. -/
def slotAddr (q k : Nat) : Nat := winBase (dsqTile q) + 0x400000 + k * 0x800
/-- The slot that holds a context. -/
def slotOf (s : State) (q ctx : Nat) : Option Nat :=
  ((s.dsq.ctx.filter fun x => x.1 / 2048 == q && x.2.ctx == ctx).map fun x => x.1 % 2048).head?
/-- The slot to fill next: a free one, else the least recently used that no task holds. -/
def victimSlot (s : State) (q : Nat) : Option Nat :=
  match firstBelow 2048 fun k => !mhas s.dsq.ctx (q * 2048 + k) with
  | some k => some k
  | none => oldestOf ((s.dsq.ctx.filter fun x => x.1 / 2048 == q && !x.2.busy).map fun x => (x.1 % 2048, x.2.stamp))
/-- Replace a slot. -/
def setSlot (s : State) (q k : Nat) (x : CtxSlot) : State :=
  { s with dsq := { s.dsq with ctx := mset (q * 2048 + k) x s.dsq.ctx, ctxStamp := s.dsq.ctxStamp + 1 } }

/-- Write a slot's lines back to HBM; a line with an uncorrectable word is written poisoned (R381). -/
def writeBackLines (q from_ to_ : Nat) : Nat → State → State
  | 0, s => s
  | n + 1, s =>
    let a := from_ + n * 64
    let h := to_ + n * 64
    let r := memRead (.dsq q) (placeOf s.part a) a 64 s
    let s := match r.1 with
      | some b => memWrite (.dsq q) (placeOf s.part h) h b r.2
      | none => (memWrite (.dsq q) (placeOf s.part h) h (r.2.bytes a 64) r.2).setMark h (some .poison)
    writeBackLines q from_ to_ n s

/-- The end of a task frees its slot, which stays valid: at TEND a slot that the task wrote goes back to HBM first
(R215). -/
def slotRelease (s : State) (q k : Nat) (tend : Bool) : State :=
  match mget (q * 2048 + k) s.dsq.ctx with
  | none => s
  | some x =>
    let s := if tend && x.dirty then writeBackLines q (slotAddr q k) x.ctx 32 s else s
    setSlot s q k { x with dirty := false, busy := false, stamp := s.dsq.ctxStamp }

/-! ### Choosing (R206 to R208, R212, R213) -/

/-- Cores of quadrant `q` that are idle, in tiles in RUN. -/
def idleCores (s : State) (q : Nat) : List (Nat × Nat) :=
  ((quadDspTiles q).filter (tileRun s)).flatMap fun t =>
    ((List.range 4).filter fun c => (runningOn s t c).isNone && !coreBusy s t c).map fun c => (t, c)

/-- RSV of DSQ_CTRL; 9 to 15 act as 8 (R230). -/
def rsvOf (s : State) (q : Nat) : Nat := min (s.field (R.DSQ_CTRL q) 3 0) 8

/-- Tasks running on tile `t`. -/
def tasksOn (s : State) (t : Nat) : Nat :=
  (s.dsq.running.filter fun r => r.tile == t && r.core.isSome && r.ended.isNone).length

/-- Lexicographic order of triples. -/
def lexLt (a b : Nat × Nat × Nat) : Bool :=
  a.1 < b.1 || (a.1 == b.1 && (a.2.1 < b.2.1 || (a.2.1 == b.2.1 && decide (a.2.2 < b.2.2))))

/-- The least element of a list under a key. -/
def leastBy {α : Type} (key : α → Nat × Nat × Nat) : List α → Option α
  | [] => none
  | a :: l => some (l.foldl (fun b x => if lexLt (key x) (key b) then x else b) a)

/-- The core R208 picks among the idle ones. -/
def pickCore (s : State) (q : Nat) (e : List Byte) : Option (Nat × Nat) :=
  let idle := idleCores s q
  let aff := eAffinity e
  let tiles := (idle.map Prod.fst).eraseDups
  let t := if aff ≠ 0xFF && tiles.contains aff then some aff
           else leastBy (fun t => (tasksOn s t, hops s.part (dsqTile q) t, t)) tiles
  t.bind fun t => (idle.find? fun x => x.1 == t)

/-- SUBTYPE of DSQ_Q_TARGET against an accelerator subtype (R213): LEG and PRS also take MIX. -/
def targetAdmits (sub : Nat) : AccKind → Bool
  | .fft => sub == 0 | .eq => sub == 1 | .fec => sub == 2 | .prs => sub == 3 | .leg => sub == 4
  | .mix => sub == 5 || sub == 3 || sub == 4

/-- Job slots per tile (R299). -/
def jobSlots : AccKind → Nat
  | .fft => 8 | .prs => 8 | .eq => 16 | .fec => 16 | .leg => 16 | .mix => 16

/-- ACC_CTRL.CQ_SLOTS: reset value half the tile's slots (R321). -/
def cqSlots (s : State) (t : Nat) : Nat :=
  match mget (R.ACC_CTRL t) s.regs.words, accKind s.part t with
  | some w, some k => min (fld w 7 0) (jobSlots k)
  | none, some k => jobSlots k / 2
  | _, none => 0

/-- ACC_CTRL: its reset value is a watchdog of 10 ms and half the tile's slots (R321). -/
def accCtrl (s : State) (t : Nat) : Word :=
  match mget (R.ACC_CTRL t) s.regs.words, accKind s.part t with
  | some w, _ => w
  | none, some k => BitVec.ofNat 32 (0x03E8 * 65536 + jobSlots k / 2)
  | none, none => 0#32

/-- Jobs in flight on tile `t` from the dispatchers. -/
def jobsOn (s : State) (t : Nat) : Nat :=
  (s.dsq.running.filter fun r => r.tile == t && r.core.isNone && r.ended.isNone).length

/-- CQ commands that hold a slot of tile `t`. -/
def cqOn (s : State) (t : Nat) : Nat :=
  (s.acc.jobs.filter fun j => j.tile == t && j.started.isSome && (match j.ref with | .dsq _ _ _ => false | _ => true)).length

/-- The tile R213 hands a job to. -/
def pickTile (s : State) (x : Queue) : Option Nat :=
  let ok := (accTiles s.part).filter fun t =>
    match accKind s.part t with
    | some k => targetAdmits (x.target / 16) k && (x.target % 16).testBit (tileQuad t) && tileRun s t
                  && decide (jobsOn s t + cqSlots s t < jobSlots k)
    | none => false
  leastBy (fun t => (jobsOn s t + cqOn s t, t, 0)) ok

/-- Space of an OUTQ that a dispatch reserves: none for 0xFFFF or an absent dispatcher (R219). -/
def outqOf (s : State) (e : List Byte) : Option Nat :=
  if eOutq e = 0xFFFF || !qidPresent s (eOutq e) then none else some (eOutq e)

/-- Staging slots in use in dispatcher `q` (R219). -/
def stagingUsed (s : State) (q : Nat) : Nat :=
  (s.dsq.running.filter fun r => r.q == q && r.ordered).foldl (fun n r => n + r.resvLeft + r.staged.length) 0

/-- Why a head entry is not eligible (R206): the DEFER reason, or none. -/
def blocked (s : State) (qid : Nat) (x : Queue) (e : List Byte) : Option Nat :=
  let q := qidDsq qid
  let fl := eFlid e
  let f := s.flow q fl
  let ord := hasFlow fl && f.ordered
  let k := outResvOf x
  let ctx := eArg e
  let pf := ePrefetch e && !s.parison && x.kind == 0
  let held := match slotOf s q ctx with
    | some i => ((mget (q * 2048 + i) s.dsq.ctx).map CtxSlot.busy).getD false
    | none => false
  if ord && decide (256 ≤ (eSeq e + 65536 - f.nextRel) % 65536) then some 1
  else if ord && (outqOf s e).isSome && decide (49152 < stagingUsed s q + k) then some 2
  else if pf && held then some 3
  else if pf && (slotOf s q ctx).isNone && !x.ctxUe then some 4
  else match outqOf s e with
    | some o => if qFree (s.queue o) < k then some 6 else none
    | none => none

/-- The order of R207 as a key: higher PRIO first, then earlier deadline from now, then lower QID. -/
def headKey (s : State) (qid : Nat) (x : Queue) (e : List Byte) : Nat × Nat × Nat :=
  (7 - effPrio x e, if eNodl e then 2 ^ 40 else (eDeadline e + 2 ^ 40 + 2 ^ 39 - s.dt) % 2 ^ 40, qid)

/-- Insertion by key. -/
def insertBy {α : Type} (key : α → Nat × Nat × Nat) (a : α) : List α → List α
  | [] => [a]
  | b :: l => if lexLt (key a) (key b) then a :: b :: l else b :: insertBy key a l

/-- Sort by key. -/
def sortBy {α : Type} (key : α → Nat × Nat × Nat) (l : List α) : List α := l.foldr (insertBy key) []

/-- S_MIN by effort class (R224). -/
def sMin : Nat → Nat
  | 0 => 256 | 1 => 192 | 2 => 64 | _ => 0

/-- The scale of a dispatch (R197, R224). -/
def scaleOf (s : State) (q : Nat) (x : Queue) (e : List Byte) : Nat :=
  let f := s.flow q (eFlid e)
  if !(hasFlow (eFlid e) && isPeriodic f) then 256
  else if effPrio x e = 7 || eEclass e = 0 || f.lam = 0 then 256
  else if f.period ≤ f.lam then sMin (eEclass e)
  else max (sMin (eEclass e)) (256 * (f.period - f.lam) / f.period)

end Sys2Proof.Machine
end

