-- ==== Sys2Proof/Machine/BusMem.lean ====
section
/-! DEFINITION. Accesses to memory over the bus (R365 to R369, R175, R215, R362): who may read and write each place,
sleeping tiles, and the bytes or the error an access gets. Assumption log: 81 (DESIGN CHOICE), 88 (DESIGN CHOICE). -/

namespace Sys2Proof.Machine

/-- The cause number of a bus error (R339, R351). -/
def BusCause.num : BusCause → Nat
  | .decodeErr => 1 | .ue => 2 | .prot => 3 | .domainAsleep => 4

/-- The requester is the Gaffer or CTL-H. -/
def isCtl (r : Requester) : Bool := r == .gaffer || r == .ctlh

/-- The requester is a memory controller of stack `q`. -/
def isMemc (q : Nat) : Requester → Bool
  | .memc t => t == (memTiles q).1 || t == (memTiles q).2
  | .scrub t => t == (memTiles q).1 || t == (memTiles q).2
  | _ => false

/-- A run context lies over an address (R170, R175): its home tile. -/
def ctxHome (s : State) (a : Nat) : Option Nat := mget (a / 512 * 512) s.mem.ctxOwner

/-- The core holds the context slot at an address through a running task (R215, R367). -/
def holdsSlot (s : State) (q k : Nat) : Requester → Bool
  | .core t c => match runningOn s t c with
    | some r => r.q == q && r.slot == some k && coreBusy s t c
    | none => false
  | _ => false

/-- The context slot at an offset of a DSQ tile's SRAM. -/
def slotAt (off : Nat) : Option Nat := if 0x400000 ≤ off then some ((off - 0x400000) / 0x800) else none

/-- Who may write a DSQ tile's SRAM (R367, R215): the tile itself; the Gaffer outside the context slots; a core its
own slot. -/
def dsqWriteOk (s : State) (q off : Nat) (r : Requester) : Bool :=
  match slotAt off with
  | some k => r == .dsq q || reqTile r == dsqTile q || holdsSlot s q k r
  | none => r == .dsq q || reqTile r == dsqTile q || r == .gaffer

/-- A fabric tile. -/
def State.fabOf (s : State) (f : Nat) : Fab := mgetD Fab.reset s.fab f

/-- STATE of FAB_STATE (R496): 0 EMPTY, 1 VERIFY, 2 STOPPING, 3 LOADING, 4 RUN. -/
def fabSt (s : State) (f : Nat) : Nat := s.field (R.FAB_STATE f) 31 29

/-- The design that runs in a fabric tile, also while a new image is verified (R493). -/
def fabDesign (s : State) (f : Nat) : Option FabImage :=
  if fabSt s f = 4 ∨ fabSt s f = 1 then (s.fabOf f).design else none

/-- The port that an address of a fabric window reaches takes requests (R488). -/
def fabTargetOn (s : State) (f a : Nat) : Bool :=
  match fabDesign s f with
  | some d => if a.testBit 31 then d.p1.target else d.p0.target
  | none => false

/-- Block RAM block `b` is not SHARED (R480). -/
def bramTaken (s : State) (f b : Nat) : Bool :=
  match (s.fabOf f).design with
  | some d => mhas d.brams b
  | none => false

/-- The error of a memory access by its rights, before the memory is reached (R366 to R369, R175). -/
def memRights (s : State) (r : Requester) (write : Bool) (a : Nat) : Place → Option BusCause
  | .hbm q => if a % 0x600000000 < 0x100000 && !(r == .gaffer || isMemc q r) then some .prot else none
  | .mram => if isCtl r || r == .scrub ctlH then none else some .prot
  | .sram t =>
    if (match tileKindOf t with | .fab f => bramTaken s f (a % 0x10000000 / 0x1000) | _ => false) then some .prot
    else if !write then none
    else match tileKindOf t with
      | .dsq q => if dsqWriteOk s q (a % 0x10000000) r then none else some .prot
      | .ctlG | .ctlH => if reqTile r == t || r == .gaffer then none else some .prot
      | _ => match ctxHome s a with
        | some h => if r == .home h || r == .gaffer then none else some .prot
        | none => none
  | _ => some .decodeErr

/-- The tile that serves an access answers it: it is in RUN, or it is the requester's own (R362, R602). -/
def answers (s : State) (r : Requester) (t : Nat) : Bool := tileRun s t || reqTile r == t

/-- The error of an access to memory, if it meets one before the data: an unassigned address, a sleeping tile, a
right it lacks. -/
def memErr (s : State) (r : Requester) (write : Bool) (a : Nat) : Option BusCause :=
  match placeOf s.part a with
  | .nowhere => some .decodeErr
  | .regs _ _ => some .decodeErr
  | .fabw f => if !answers s r (fabTile f) then some .domainAsleep else if fabTargetOn s f a then none else some .decodeErr
  | pl => if !answers s r (serverOf a pl) then some .domainAsleep else memRights s r write a pl

/-- A write to a context slot by its task marks the slot as written (R215). -/
def markSlot (s : State) (r : Requester) (a : Nat) : State :=
  match r, placeOf s.part a with
  | .core _ _, .sram t =>
    match tileKindOf t, slotAt (a % 0x10000000) with
    | .dsq q, some k =>
      match mget (q * 2048 + k) s.dsq.ctx with
      | some x => setSlot s q k { x with dirty := true }
      | none => s
    | _, _ => s
  | _, _ => s

/-- The address lies in a fabric window. -/
def inFabw (s : State) (a : Nat) : Bool := match placeOf s.part a with | .fabw _ => true | _ => false

/-- Bytes 0 to 11 of a soft-fuse entry (R387). -/
def fuseHead (e : SoftFuse) : List Byte :=
  leBytes 1 e.kind ++ leBytes 1 e.tile ++ leBytes 1 e.unit_ ++ leBytes 1 e.spare ++ leBytes 4 e.where_ ++ leBytes 4 e.first
/-- An entry as stored. -/
def fuseBytes (e : SoftFuse) : List Byte := fuseHead e ++ leBytes 4 e.crc.toNat

/-- A byte of MRAM as it is read (R565): of a soft-fuse entry, of a pair copy or a reserved word the byte `b` stored
there, and elsewhere, where State holds the contents in fields and no rule lays them out, a free value. -/
def mramByte (s : State) (k a : Nat) (b : Byte) : Byte :=
  let o := a - mramBase
  if 0x10000 ≤ o ∧ o < 0x20000 then
    match s.mem.softFuses[(o - 0x10000) / 16]? with
    | some e => (fuseBytes e).getD (o % 16) 0#8
    | none => b
  else if (0x50000 ≤ o ∧ o < 0x54000) ∨ (0x500000 ≤ o ∧ o < 0x600000) then b
  else Config.mramData k a

/-- A range of MRAM as it is read. -/
def mramBytes (s : State) (k a : Nat) (bs : List Byte) : List Byte :=
  ((List.range bs.length).zip bs).map fun x => mramByte s k (a + x.1) x.2

/-- The FAB tile behind a fabric window. -/
def fabwOf (s : State) (a : Nat) : Nat := match placeOf s.part a with | .fabw f => f | _ => 0

/-- User logic did not answer a request of its port in time (R488): DECODE_ERR, flagged and counted. -/
def targetLate (s : State) (f : Nat) : State := (s.orReg (R.FAB_EVT f) 2).count (R.FAB_CNT_TGT_TO f) 1

/-- Read memory over the bus; whether and what user logic behind a fabric window answers is free (R488). -/
def busMemRead (r : Requester) (a n : Nat) (s : State) : Except BusCause (List Byte) × State :=
  match memErr s r false a with
  | some c => (.error c, s)
  | none =>
    if inFabw s a then
      let f := s.takeFresh
      if Config.fabLate f.1 then (.error .decodeErr, targetLate f.2 (fabwOf s a)) else (.ok (fitBytes n (Config.fabData f.1)), f.2)
    else
    let x := memRead r (placeOf s.part a) a n s
    match x.1 with
    | some b =>
      if placeOf s.part a == .mram then let f := x.2.takeFresh; (.ok (mramBytes f.2 f.1 a b), f.2) else (.ok b, x.2)
    | none => (.error .ue, x.2)

/-- Write memory over the bus. -/
def busMemWrite (r : Requester) (a : Nat) (bs : List Byte) (s : State) : Option BusCause × State :=
  match memErr s r true a with
  | some c => (some c, s)
  | none =>
    if inFabw s a then
      let f := s.takeFresh
      if Config.fabLate f.1 then (some .decodeErr, targetLate f.2 (fabwOf s a)) else (none, f.2)
    else (none, markSlot (memWrite r (placeOf s.part a) a bs s) r a)

/-- Read memory in the 512-byte blocks that requesters split longer transfers into (R352), up to the first
error. -/
def busReadBlocks (r : Requester) : Nat → Nat → Nat → State → Except BusCause (List Byte) × State
  | 0, _, _, s => (.ok [], s)
  | fuel + 1, a, n, s =>
    if n = 0 then (.ok [], s)
    else
      let k := min n (512 - a % 512)
      let x := busMemRead r a k s
      match x.1 with
      | .error c => (.error c, x.2)
      | .ok b =>
        let y := busReadBlocks r fuel (a + k) (n - k) x.2
        match y.1 with
        | .error c => (.error c, y.2)
        | .ok l => (.ok (b ++ l), y.2)

/-- Write memory in 512-byte blocks, up to the first error. -/
def busWriteBlocks (r : Requester) : Nat → Nat → List Byte → State → Option BusCause × State
  | 0, _, _, s => (none, s)
  | fuel + 1, a, bs, s =>
    if bs.isEmpty then (none, s)
    else
      let k := 512 - a % 512
      let x := busMemWrite r a (bs.take k) s
      match x.1 with
      | some c => (some c, x.2)
      | none => busWriteBlocks r fuel (a + k) (bs.drop k) x.2

/-- Read any number of bytes of memory. -/
def busReadMany (r : Requester) (a n : Nat) (s : State) : Except BusCause (List Byte) × State :=
  busReadBlocks r (n / 512 + 2) a n s

/-- Write any number of bytes of memory. -/
def busWriteMany (r : Requester) (a : Nat) (bs : List Byte) (s : State) : Option BusCause × State :=
  busWriteBlocks r (bs.length / 512 + 2) a bs s

end Sys2Proof.Machine
end

