-- ==== Sys2Proof/Machine/TaskDispatch.lean ====
section
/-! DEFINITION. The dispatchers' commands (R193, R199 to R229): a dispatch decision, context prefetch, task start,
task end, catch-up reports and the crumb trace. Assumption log: 18 (DEDUCED), 59 (DEDUCED), 65 (DEDUCED), 66 (DESIGN
CHOICE), 67 (DEDUCED), 68 (DEDUCED). -/

namespace Sys2Proof.Machine

/-- The whole-state answer of a command that completes. -/
def ok (s : State) : Host.Outcome State Fault Refusal := .next s

/-- A record for work that leaves its queue (R209, R219), with the next number. -/
def newRunning (s : State) (q qid : Nat) (e : List Byte) (f : Flow) (tile : Nat) (core : Option Nat) (scale : Nat)
    (outq : Option Nat) (k : Nat) (slot : Option Nat) : Running :=
  { id := s.dsq.nextRun, q := q, qid := qid, flid := eFlid e, seq := eSeq e, entry := e, tile := tile, core := core, scale := scale,
    outq := outq, resvLeft := k, placed := 0, staged := [], ordered := hasFlow (eFlid e) && f.ordered, slot := slot,
    ended := none, terminated := false, stale := false, reported := none, hardRaised := false }

/-- Add a piece of work. -/
def addRunning (s : State) (r : Running) : State :=
  { s with dsq := { s.dsq with running := s.dsq.running ++ [r], nextRun := s.dsq.nextRun + 1 } }

/-! ### Stale drop (R225) -/

/-- A head entry is stale. -/
def isStale (s : State) (x : Queue) (e : List Byte) : Bool :=
  x.staleUs != 0 && !eNodl e && effPrio x e != 7 && eEclass e != 0
    && decide (x.staleUs * 500 < lateBy s.dt (eDeadline e))

/-- Drop a stale head: a DROP_STALE record, its count, and the release of its SEQ (R225). -/
def dropStale (s : State) (qid : Nat) (e : List Byte) : State :=
  let q := qidDsq qid
  let s := dropHead s qid
  let s := (crumb s q (entryCrumb 7 qid e 0xFFFF (leBytes 4 (lateBy s.dt (eDeadline e)) ++ leBytes 4 0))).count
    (R.DSQ_CNT_STALE q) 1
  let r := { newRunning s q qid e (s.flow q (eFlid e)) 255 none 256 none 0 none with ended := some s.dt, stale := true }
  let s := addRunning s r
  if r.ordered then releaseFlow s.dsq.running.length q r.flid s else releaseOne s r

/-! ### The decision (R206 to R208, R212 to R214) -/

/-- Record a DEFER once for the head entry and reason (R228). -/
def defer_ (s : State) (qid : Nat) (e : List Byte) (reason : Nat) : State :=
  let x := s.queue qid
  if x.deferred.contains reason then s
  else crumb (s.setQueue qid { x with deferred := x.deferred ++ [reason] }) (qidDsq qid)
    (entryCrumb 2 qid e 0xFFFF (leBytes 1 reason ++ leBytes 7 0))

/-- Wake the sleeping tile nearest to the dispatcher among `ts`, one at a time (R214, R303). -/
def lullWake (s : State) (q : Nat) (ts : List Nat) : State :=
  if !s.flag (R.DSQ_CTRL q) 8 || ts.any (fun t => tileSleeps s t && (s.island t).step != 0) then s
  else match leastBy (fun t => (hops s.part (dsqTile q) t, t, 0)) (ts.filter fun t => tileSleeps s t && !(s.island t).failed) with
    | some t => (startWake s t).orReg (R.DSQ_STAT q) 6
    | none => s

/-- Since when the head entry has been eligible (R211, step 1): its push, the dispatch of its predecessor or the end of
what last blocked it, and for a task the time from which a core of the quadrant has been idle. -/
def eligibleSince (s : State) (q qid : Nat) (task : Bool) : Nat :=
  let x := s.queue qid
  let a := max ((x.entries.head?.map QEntry.stamp).getD 0) x.readyAt
  if !task then a
  else match leastBy (fun n => (n, 0, 0)) ((idleCores s q).map fun c => mgetD 0 s.dsq.freed (c.1 * 4 + c.2)) with
    | some f => max a f
    | none => a

/-- The dispatch latency from step 1 to step 6, and the largest seen for a task on a core (R211): the time waited since
`since`, or the time that steps 2 to 6 take where that is longer; the rule bounds the latter by 40 ns. -/
def noteLatency (s : State) (q since : Nat) (task : Bool) : Nat × State :=
  let x := s.takeFresh
  let l := min (max (s.devNs - since) (min (Config.dispatchLatency x.1) 40)) 0xFFFF
  let a := R.DSQ_MAX_LAT q
  (l, if task then x.2.setReg a (BitVec.ofNat 32 (max l (x.2.field a 15 0))) else x.2)

/-- Start a head entry on a unit: it leaves its queue, reserves its output space, takes its context slot, and a
DISPATCH or CATCHUP_ADJUST record is written (R209, R215, R219, R224, R228). -/
def launch (s : State) (qid : Nat) (e : List Byte) (tile : Nat) (core : Option Nat) : State :=
  let q := qidDsq qid
  let x := s.queue qid
  let f := s.flow q (eFlid e)
  let sc := scaleOf s q x e
  let o := outqOf s e
  let k := if o.isSome then outResvOf x else 0
  let pf := ePrefetch e && !s.parison && x.kind == 0
  let slot := if pf then slotOf s q (eArg e) else none
  let since := eligibleSince s q qid core.isSome
  let s := dropHead s qid
  let s := match slot with
    | some i => match mget (q * 2048 + i) s.dsq.ctx with
      | some y => setSlot s q i { y with busy := true, stamp := s.dsq.ctxStamp }
      | none => s
    | none => s
  let s := match o with | some oq => let y := s.queue oq; s.setQueue oq { y with resv := y.resv + k } | none => s
  let s := addRunning s (newRunning s q qid e f tile core sc o k slot)
  let s := s.count (R.DSQ_CNT_DISPATCH q) 1
  let l := noteLatency s q since core.isSome
  let u := unitCode tile core
  if sc < 256 then crumb l.2 q (entryCrumb 5 qid e u (leBytes 2 sc ++ leBytes 2 0 ++ leBytes 4 f.lam))
  else crumb l.2 q (entryCrumb 1 qid e u (leBytes 2 sc ++ leBytes 2 l.1 ++ leBytes 4 0))

/-- What a decision does with one eligible head: dispatched (true), or passed over. -/
def tryHead (s : State) (qid : Nat) (e : List Byte) : Bool × State :=
  let q := qidDsq qid
  let x := s.queue qid
  if x.kind = 0 then
    let idle := (idleCores s q).length
    if effPrio x e ≠ 7 ∧ rsvOf s q ≠ 0 ∧ idle ≤ rsvOf s q then
      let s := if idle = 0 then s else defer_ s qid e 5
      (false, if idle = 0 then lullWake s q (quadDspTiles q) else s)
    else match pickCore s q e with
      | some (t, c) => (true, launch s qid e t (some c))
      | none => (false, lullWake s q (quadDspTiles q))
  else match pickTile s x with
    | some t => (true, launch s qid e t none)
    | none =>
      let ts := (accTiles s.part).filter fun t =>
        match accKind s.part t with
        | some k => targetAdmits (x.target / 16) k && (x.target % 16).testBit (tileQuad t)
        | none => false
      (false, if ts.any (tileRun s) then s else lullWake s q ts)

/-- A job aborted while it was queued reaches the head (R318): status record and completion entry with ABORTED, as for a
job that ran (R309, R311), and release; TILE is the dispatcher's own tile. -/
def completeAborted (s : State) (qid : Nat) (e : List Byte) : State :=
  let q := qidDsq qid
  let o := outqOf s e
  let k := if o.isSome then outResvOf (s.queue qid) else 0
  let r := { newRunning s q qid e (s.flow q (eFlid e)) 255 none 256 o k none with reported := some false }
  let s := dropHead s qid
  let s := match o with | some oq => let y := s.queue oq; s.setQueue oq { y with resv := y.resv + k } | none => s
  let s := addRunning s r
  let d := busReadMany (.dsq q) (eEntry e) 64 s
  let b := match d.1 with | .ok b => b | .error _ => []
  let s := d.2
  let sr := leBytes 2 Status.aborted.code ++ leBytes 1 (ent b 0 1) ++ leBytes 1 1 ++ leBytes 4 0 ++ leBytes 8 0 ++ leBytes 8 s.devNs
    ++ leBytes 2 (eSeq e) ++ leBytes 1 (dsqTile q) ++ leBytes 5 0
  let s := if b.isEmpty then s else (busWriteMany (.dsq q) (ent b 8 8) sr s).2
  let y := if (ent b 1 1).testBit 1 then busReadMany (.dsq q) (ent b 8 8 + 32) 32 s else (.ok sr, s)
  let out := match y.1 with
    | .ok l => l
    | .error c => leBytes 2 (match c with | .ue => Status.ue.code | .domainAsleep => Status.domainAsleep.code | _ => Status.badArg.code)
        ++ sr.drop 2
  let s := (placeOut y.2 r out).getD y.2
  match s.dsq.running.find? fun z => z.id == r.id with
  | some z => endWork s z false
  | none => s

/-- The head entry of a queue was aborted (R318). -/
def headAborted (s : State) (qid : Nat) : Bool := (((s.queue qid).entries.head?).map QEntry.aborted).getD false

/-- A unit is there that would take the head entry if nothing else kept it back (R208, R213): only then is it an
otherwise-chosen head (R228). -/
def unitFree (s : State) (qid : Nat) (e : List Byte) : Bool :=
  let q := qidDsq qid
  let x := s.queue qid
  if x.kind = 0 then (effPrio x e == 7 || rsvOf s q == 0 || decide (rsvOf s q < (idleCores s q).length)) && (pickCore s q e).isSome
  else (pickTile s x).isSome

/-- A head entry that is not eligible is passed over (R206, R228): a DEFER record where it was otherwise chosen. -/
def passOver (s : State) (qid : Nat) (e : List Byte) (why : Nat) : State :=
  let s := if headAborted s qid || unitFree s qid e then defer_ s qid e why else s
  s.setQueue qid { s.queue qid with readyAt := s.devNs }

/-- Look at heads in the order of R207 until one is dispatched. -/
def decide_ : List Nat → State → State
  | [], s => s
  | qid :: l, s =>
    let r := peekHead s qid
    match r.1 with
    | none => decide_ l r.2
    | some e =>
      let x := r.2.queue qid
      if isStale r.2 x e && !headAborted r.2 qid then dropStale r.2 qid e
      else match blocked r.2 qid x e with
        | some why => decide_ l (passOver r.2 qid e why)
        | none =>
          if headAborted r.2 qid then completeAborted r.2 qid e else
          let t := tryHead r.2 qid e
          if t.1 then t.2 else decide_ l t.2

/-- The TASK and ACC-JOB queues of dispatcher `q` that are enabled and hold entries, with their heads. -/
def heads (s : State) (q : Nat) : List (Nat × Queue × List Byte) :=
  (s.dsq.queues.filter fun x => qidDsq x.1 == q && x.2.en && decide (x.2.kind < 2) && !x.2.entries.isEmpty).map
    fun x => (x.1, x.2, (peekHead s x.1).1.getD [])

/-- DISPATCH (R206 to R208, R212 to R215, R219, R224, R225). -/
def execDispatch (q : Nat) (s : State) : Host.Outcome State Fault Refusal :=
  if !quadPresent s.part q || s.power.stopping || !tileRun s (dsqTile q) then ok s
  else ok (decide_ ((sortBy (fun x => headKey s x.1 x.2.1 x.2.2) (heads s q)).map fun x => x.1) s)

/-! ### Queue commands -/

/-- A push by any producer; a running task's push to its own OUTQ, while that is enabled, goes into the space reserved
for it (R194, R219). -/
def pushFrom (p : Producer) (qid : Nat) (e : List Byte) (s : State) : PushOut × State :=
  match p with
  | .core t c _ =>
    match runningOn s t c with
    | some r =>
      if r.outq = some qid && r.resvLeft != 0 && (s.queue qid).en then (.accepted, (placeOut s r e).getD s) else pushQ p qid e s
    | none => pushQ p qid e s
  | _ => pushQ p qid e s

/-- QUEUE_PUSH (R191, R194, R197 to R202, R217, R219). -/
def execQueuePush (p : Producer) (qid : Nat) (entry : List Byte) (s : State) : Host.Outcome State Fault Refusal :=
  ok (pushFrom p qid (fitBytes 32 entry) s).2

/-- QUEUE_POP (R192, R204): up to `max` entries of an enabled STREAM queue go to the requester. -/
def execQueuePop (r : Requester) (qid max : Nat) (s : State) : Host.Outcome State Fault Refusal :=
  let _ := r
  let x := s.queue qid
  if !qidPresent s qid then ok (s.answer (.error .decodeErr))
  else if !tileRun s (dsqTile (qidDsq qid)) then ok (s.answer (.error .domainAsleep))
  else if x.kind ≠ 3 || !x.en then ok (s.answer (.error .prot))
  else
    let y := popMany max qid s
    ok (y.2.answer (.bytes y.1.flatten))

/-- QUEUE_ENABLE (R193, R194, R412): the write of EN = 1 to the queue's DSQ_Q_CFG; only the Gaffer enables a locked
queue. -/
def execQueueEnable (r : Requester) (qid : Nat) (s : State) : Host.Outcome State Fault Refusal :=
  if !qidPresent s qid then ok (s.answer (.error .decodeErr))
  else if (s.queue qid).lock && r != .gaffer then ok (s.answer (.error .prot))
  else ok ((enableQ (r == .gaffer) s qid).answer .done)

/-- The bytes of a context copied into a slot by the dispatcher's prefetch, or none when a read meets a UE. -/
def prefetchRead (q ctx : Nat) (s : State) : Option (List Byte) × State :=
  memRead (.dsq q) (placeOf s.part ctx) ctx 0x800 s

/-- ARG names a terminal context that can be prefetched (R215). -/
def ctxOk (s : State) (ctx : Nat) : Bool := ctx % 0x800 == 0 && isHbm s ctx

/-- CONTEXT_PREFETCH_DONE (R215, R381). -/
def execContextPrefetchDone (qid : Nat) (s : State) : Host.Outcome State Fault Refusal :=
  let q := qidDsq qid
  let h := peekHead s qid
  match h.1 with
  | none => ok s
  | some e =>
    let x := h.2.queue qid
    let ctx := eArg e
    if x.kind ≠ 0 || !ePrefetch e || s.parison || !ctxOk s ctx || (slotOf s q ctx).isSome || x.ctxUe then ok s
    else match victimSlot s q with
      | none => ok s
      | some k =>
        let r := prefetchRead q ctx h.2
        match r.1 with
        | none => ok (r.2.setQueue qid { x with ctxUe := true })
        | some b =>
          let a := slotAddr q k
          let s := memWrite (.dsq q) (placeOf s.part a) a b r.2
          ok ((setSlot s q k { ctx := ctx, dirty := false, stamp := s.dsq.ctxStamp, busy := false }).setQueue qid
            { x with prefetched := true })

/-! ### Task start and end -/

/-- The task registers of a core as a task starts (R209, R236): A0, A1, G0, G1 and the CORE_TASK registers, MODE
from TMODE, FLAGS cleared, fetch at ENTRY. -/
def startTask (x : Core) (r : Running) (a1 : Nat) (hard : Bool) : Core :=
  let e := r.entry
  let x := ((x.setA 0 (BitVec.ofNat 64 (eArg e))).setA 1 (BitVec.ofNat 64 a1)).setG 0 (BitVec.ofNat 32 r.scale)
  let x := x.setG 1 (BitVec.ofNat 32 (r.flid * 65536 + r.seq))
  { x with
    pc := BitVec.ofNat 64 (eEntry e), flags := 0#32, st := .run, exl := false, sup := bit x.ctrl 2,
    ext := none, rep := none, load := none, tendWait := false, terminating := none, runahead := false,
    taskQ := BitVec.ofNat 32 (eOutq e * 65536 + r.qid), taskId := BitVec.ofNat 32 (r.flid * 65536 + r.seq),
    taskClass := BitVec.ofNat 32 (eFlags e * 65536 + eAffinity e * 256 + eClass e),
    taskS := BitVec.ofNat 32 r.scale, taskDl := BitVec.ofNat 64 (eDeadline e),
    taskEntry := BitVec.ofNat 64 (eEntry e), taskArg := BitVec.ofNat 64 (eArg e),
    ipend := if hard then x.ipend ||| bitMask 1 else setBit x.ipend 1 false }

/-- The deadline of a HARD entry has passed (R210). -/
def hardPassed (s : State) (r : Running) : Bool :=
  eHard r.entry && !eNodl r.entry && decide (lateBy s.dt (eDeadline r.entry) ≠ 0)

/-- CORE_TASK_START (R209 to R211, R236): the core that a dispatch chose starts its task. -/
def execCoreTaskStart (tile core : Nat) (s : State) : Host.Outcome State Fault Refusal :=
  match runningOn s tile core with
  | some r =>
    if coreBusy s tile core || r.reported.isSome || !tileRun s tile then ok s
    else
      let hard := hardPassed s r
      let a1 := match r.slot with | some k => slotAddr r.q k | none => 0
      ok (setRunning (s.setCore tile core (startTask (s.core tile core) r a1 hard)) { r with hardRaised := hard })
  | none => ok s

/-- DEADLINE_HARD (R210): the deadline of a HARD task passes while it runs. -/
def execDeadlineHard (tile core : Nat) (s : State) : Host.Outcome State Fault Refusal :=
  match runningOn s tile core with
  | some r =>
    if coreBusy s tile core && !r.hardRaised && hardPassed s r then
      let x := s.core tile core
      ok (setRunning (s.setCore tile core { x with ipend := x.ipend ||| bitMask 1 }) { r with hardRaised := true })
    else ok s
  | none => ok s

/-- TASK_END_REPORT (R209, R219 to R223): the end of work that its core or tile has reported reaches the dispatcher;
its context slot is released first (R215). -/
def execTaskEndReport (qid seq tile : Nat) (core : Option Nat) (s : State) : Host.Outcome State Fault Refusal :=
  match s.dsq.running.find? fun r => r.qid == qid && r.seq == seq && r.tile == tile && r.core == core
      && r.ended.isNone && r.reported.isSome with
  | some r =>
    let s := match r.slot with | some k => slotRelease s r.q k (r.reported = some false) | none => s
    ok (endWork s r (r.reported.getD false))
  | none => ok s

/-- CATCHUP_SPAN_CLOSE (R226): 1 s after the last episode of a span. -/
def execCatchupSpanClose (q flid : Nat) (s : State) : Host.Outcome State Fault Refusal :=
  let f := s.flow q flid
  match f.span with
  | some sp =>
    match sp.lastEnd with
    | some t =>
      if !f.episode && decide (t + 1000000000 ≤ s.now) then
        ok (catchupEvent (s.setFlow q flid { f with span := none }) q 1 flid sp.lamMax sp.count)
      else ok s
    | none => ok s
  | none => ok s

/-! ### Crumb trace (R229) -/

/-- CRUMB_CTRL's opcode (R93). -/
def opCrumbCtrl : OpInfo := { opcode := 0x0803 }

/-- WPTR and LOST of dispatcher `q`, 0 where it is absent (R229). -/
def crumbStatus (s : State) (q : Nat) : List Byte :=
  if quadPresent s.part q then
    leBytes 4 (s.reg (R.DSQ_CRUMB_WPTR q)).toNat ++ leBytes 4 (s.reg (R.DSQ_CRUMB_LOST q)).toNat
  else leBytes 8 0

/-- The body of CRUMB_CTRL is in range (R229): the ring fields are checked when the ring is on. -/
def crumbBodyOk (s : State) (b : CrumbBody) : Bool :=
  let ring := b.dest % 2 == 1
  let inHbm (q : Nat) : Bool := isHbm s (b.ringBase + q * 2 ^ b.ringLog2) && isHbm s (b.ringBase + (q + 1) * 2 ^ b.ringLog2 - 1)
  decide (b.dsqMask < 16) && (setBits b.dsqMask 4).all (quadPresent s.part) && decide (b.dest < 4)
    && decide (b.tmask < 128) && decide (b.mode < 4) && decide (b.qidLo < 65536) && decide (b.qidHi < 65536)
    && (!ring || (decide (16 ≤ b.ringLog2) && decide (b.ringLog2 ≤ 32) && b.ringBase % 2 ^ b.ringLog2 == 0
        && isHbm s b.ringBase && (setBits b.dsqMask 4).all inHbm))

/-- Apply CRUMB_CTRL to dispatcher `q` (R229). -/
def crumbApply (b : CrumbBody) (s : State) (q : Nat) : State :=
  let ring := b.dest.testBit 0
  let old := s.reg (R.DSQ_CRUMB_CTRL q)
  let base := b.ringBase + q * 2 ^ b.ringLog2
  let moved := ring && (!bit old 31 || (s.reg64 (R.DSQ_CRUMB_BASE q)).toNat != base
    || s.field (R.DSQ_CRUMB_SIZE q) 5 0 != b.ringLog2)
  let s := s.setReg (R.DSQ_CRUMB_CTRL q)
    (BitVec.ofNat 32 (b2n ring * 2 ^ 31 + b2n (b.dest.testBit 1) * 2 ^ 30 + b2n (b.mode.testBit 0) * 2 ^ 29 + b.tmask))
  let s := s.setReg (R.DSQ_CRUMB_QRANGE q) (BitVec.ofNat 32 (b.qidHi * 65536 + b.qidLo))
  let s := if ring then (s.setReg64 (R.DSQ_CRUMB_BASE q) (BitVec.ofNat 64 base)).setReg (R.DSQ_CRUMB_SIZE q)
    (BitVec.ofNat 32 b.ringLog2) else s
  let s := if moved then { s.setReg (R.DSQ_CRUMB_WPTR q) 0#32 with
      dsq := { s.dsq with ringFull := mset q false s.dsq.ringFull } } else s
  if b.mode.testBit 1 then s.setReg (R.DSQ_CRUMB_LOST q) 0#32 else s

/-- A stream with nothing waiting and a full budget (R229). -/
def CrumbStream.none : CrumbStream :=
  { session := 0#32, dsqs := 0, waiting := [], budget := 8272, refilled := 0, frame := 1 }

/-- The streams after a CRUMB_CTRL from port `p`: the dispatchers named go to its session, or to none. -/
def crumbStreams (b : CrumbBody) (p : Nat) (sess : Word) (s : State) : State :=
  let on := b.dest.testBit 1
  let upd (k : Nat) (m : FMap CrumbStream) : FMap CrumbStream :=
    let x := mgetD CrumbStream.none m k
    let x := if k = p && on then
        (if x.session = sess then { x with dsqs := x.dsqs ||| b.dsqMask }
         else { x with session := sess, dsqs := b.dsqMask, waiting := [], frame := 1 })
      else { x with dsqs := x.dsqs &&& (15 ^^^ b.dsqMask) }
    if x = CrumbStream.none then m else mset k x m
  { s with dsq := { s.dsq with streams := upd 1 (upd 0 s.dsq.streams) } }

/-- CRUMB_CTRL (R229), under semaphore 29. -/
def execCrumbCtrl (m : TcsMsg) (b : CrumbBody) (s : State) : Host.Outcome State Fault Refusal :=
  ok (serve opCrumbCtrl m 0 (fun s => guarded m 29 false (fun s =>
    if !crumbBodyOk s b then refuse .badArg s
    else
      let s := (setBits b.dsqMask 4).foldl (crumbApply b) s
      let s := match m.via with | .mgt p => crumbStreams b p.val m.session s | _ => s
      { st := .ok, payload := (List.range 4).flatMap (crumbStatus s), state := s }) s) s)

/-- The byte budget of a stream now (R229). -/
def crumbBudget (s : State) (x : CrumbStream) : Nat := min 8272 (x.budget + (s.now - x.refilled) / 4)

/-- CRUMB_STREAM_SEND (R229): the waiting message of a port leaves once the budget holds its whole length. -/
def execCrumbStreamSend (port : Fin 2) (s : State) : Host.Outcome State Fault Refusal :=
  match mget port.val s.dsq.streams with
  | none => ok s
  | some x =>
    let len := 80 + x.waiting.length * 32
    if x.waiting.isEmpty || !(s.isLive port.val && (s.sess port.val).id == x.session) || decide (crumbBudget s x < len)
    then ok s
    else
      let y := s.sess port.val
      let s := s.send { via := .mgt port, form := y.form, dst := y.src, flags := 2, mbx := 15, crit := 0, session := x.session,
                        seq := BitVec.ofNat 32 x.frame, opcode := 0x0803, status := 0, payload := x.waiting.flatten,
                        key := some y.key }
      let z := { x with waiting := [], budget := crumbBudget s x - len, refilled := s.now, frame := x.frame + 1 }
      ok { s with dsq := { s.dsq with streams := mset port.val z s.dsq.streams } }

/-- PAUSE_FRAME_REPEAT (R203): every 100 µs while a paused queue's fill stays above LO. -/
def execPauseFrameRepeat (qid : Nat) (s : State) : Host.Outcome State Fault Refusal :=
  let x := s.queue qid
  if x.paused && x.hi != 0 && decide (x.lo < x.entries.length) && decide (x.pausedAt + 100000 ≤ s.now) then
    ok (pauseOut (s.setQueue qid { x with pausedAt := s.now }) qid 0xFFFF)
  else ok s

end Sys2Proof.Machine
end

