-- ==== Sys2Proof/Machine/Egress.lean ====
section
/-! DEFINITION. Egress scheduling (R412 to R427): the launch calendar, the order of service, weighted fair queueing,
timed launch, downlink records (R114, R115, R118), completion records and sampling windows. Assumption log: 50
(DEDUCED), 84 (DEDUCED), 108 (DESIGN CHOICE). -/

namespace Sys2Proof.Machine

/-! ### Ports -/

/-- Line rate of a port mode in Mbit/s (R395). -/
def modeRate : Nat → Nat
  | 1 => 10000 | 2 => 25000 | 3 => 50000 | 4 => 100000 | 5 => 100000 | 6 => 100000 | 7 => 200000 | 8 => 200000
  | 9 => 400000 | _ => 0

/-- Net rate of a spur rung in Mbit/s (R459). -/
def spurNet : Nat → Nat
  | 0 => 1200 | 1 => 900 | 2 => 600 | 3 => 300 | 4 => 200 | _ => 0

/-- The port of a key is a spur port. -/
def isSpurKey (key : Nat) : Bool := decide (8 ≤ key % 16)

/-- Rate of a port in Mbit/s; 0 while it is down. -/
def portRate (s : State) (key : Nat) : Nat :=
  if isSpurKey key then spurNet (s.field (R.SPUR_STAT (key % 16 - 8)) 18 16)
  else modeRate (s.field (R.ETH_MODE (key / 16) (key % 16)) 3 0)

/-- The port is in step 8 (R398), or in data mode (R461). -/
def portUp (s : State) (key : Nat) : Bool :=
  if isSpurKey key then s.field (R.SPUR_STAT (key % 16 - 8)) 31 28 == 8
  else s.flag (R.ETH_STAT (key / 16) (key % 16)) 4

/-- Time in ns that `bytes` take at `r` Mbit/s, rounded up; 0 at no rate. -/
def wireTime (r bytes : Nat) : Nat := if r = 0 then 0 else ceilDiv (bytes * 8000) r

/-! ### Entries (R414) and completion records (R415) -/

/-- The entry has the form R414 asks for. -/
def entryOk (x : EgQueue) (e : List Byte) : Bool :=
  let len := ent e 2 2
  let compl := ent e 1 1 == 1
  decide (ent e 1 1 < 2) && ent e 4 4 == 0 && ent e 8 8 % 64 == 0
    && (if compl then ent e 24 8 % 16 == 0 else ent e 24 8 == 0)
    && (match ent e 0 1 with
        | 0 => decide (60 ≤ len) && decide (len ≤ 9212) && (x.timed || ent e 16 8 == 0)
        | 1 => x.binding.isSome && len == 0 && ent e 16 8 == 0
        | _ => false)

/-- Write the completion record of an entry that asks for one (R415). -/
def complete (s : State) (k : Nat) (e : List Byte) (st : Status) (timed slip : Bool) (tTx : Nat) : State :=
  let p := ent e 24 8
  if ent e 1 1 % 2 == 1 && p % 16 == 0 then
    (busWriteMany (.iot k) p (leBytes 2 st.code ++ leBytes 1 (b2n timed + 2 * b2n slip) ++ leBytes 5 0
      ++ leBytes 8 tTx) s).2
  else s

/-- Discard a bad entry (R414). -/
def badEntry (s : State) (k : Nat) (x : EgQueue) (e : List Byte) : State :=
  complete ((s.count (R.WFQ_BADENT k) 1).orReg (R.WFQ_STAT k) 3) k e .badArg x.timed false 0

/-- Count a front-haul event of a binding (R116): causes 1 LATE to 6 DL_LATE. -/
def fhEvent (s : State) (k cause carrier ru : Nat) : State :=
  let s := (s.count (R.ETH_FH_LATE k + 4 * (cause - 1)) 1).orReg (R.ETH_FH_STAT k) (cause - 1)
  s.setReg (R.ETH_FH_LAST k) (BitVec.ofNat 32 (cause * 2 ^ 28 + carrier * 65536 + ru * 256))

/-! ### Compression (R118) -/

/-- The mantissas of a PRB's components at width `w` and exponent `e`. -/
def mantissas (e : Nat) (xs : List Int) : List Int := xs.map fun x => rneShift x e

/-- Every mantissa fits in `w` bits. -/
def fitsWidth (w : Nat) (ms : List Int) : Bool := ms.all fun m => satSigned w m == m

/-- Compress one PRB (R118): the smallest exponent from 0 to 16 − w whose rounded mantissas all fit, else 16 − w
with saturation. -/
def compressPrb (w : Nat) (xs : List Int) : Nat × List Int :=
  match firstBelow (17 - w) fun e => fitsWidth w (mantissas e xs) with
  | some e => (e, mantissas e xs)
  | none => (16 - w, (mantissas (16 - w) xs).map (satSigned w))

/-- Decompress one PRB (R117): the components, and whether one saturated. -/
def decompressPrb (e : Nat) (ms : List Int) : List Int × Bool :=
  let xs := ms.map fun m => m * ((2 ^ (e % 16) : Nat) : Int)
  (xs.map (satSigned 16), xs.any fun x => satSigned 16 x != x)

/-- Signed 16-bit values of a byte list. -/
def s16s : List Byte → List Int
  | a :: b :: l => toSigned 16 (leVal [a, b]) :: s16s l
  | _ => []

/-- Cut a list into pieces of `n`. -/
def chunks {α : Type} (n : Nat) : Nat → List α → List (List α)
  | 0, _ => []
  | fuel + 1, l => if l.isEmpty then [] else l.take n :: chunks n fuel (l.drop n)

/-! ### Downlink records -/

/-- A symbol record header (R108). -/
structure RecHdr where
  kind : Nat
  flags : Nat
  ports : Nat
  carrier : Nat
  ru : Nat
  count : Nat
  tNom : Nat
  deriving DecidableEq, Repr

/-- Read a header from its 64 bytes. -/
def recHdr (b : List Byte) : RecHdr :=
  { kind := ent b 0 1, flags := ent b 1 1, ports := ent b 2 1, carrier := ent b 4 2, ru := ent b 6 2,
    count := ent b 14 2, tNom := ent b 16 8 }

/-- Sample bytes of a record (R109). -/
def recBytes (h : RecHdr) : Nat := h.ports * h.count * (if h.kind = 0 then 48 else 4)

/-- Payload bytes of a record's packets at width `w` (R35, R405). -/
def recWire (h : RecHdr) (w : Nat) : Nat :=
  if h.kind = 0 then h.ports * h.count * (24 * w + 8) / 8 else h.ports * h.count * 4

/-- What a record sends: exponent and mantissas per PRB for frequency-domain records, exponent 0 and 16-bit samples
per port otherwise; zeros where `zeros` (R114, R115). -/
def recPayload (h : RecHdr) (w : Nat) (zeros : Bool) (b : List Byte) : List (Nat × List Int) :=
  let xs := if zeros then List.replicate (recBytes h / 2) 0 else s16s b
  if h.kind = 0 then (chunks 24 (h.ports * h.count) xs).map (compressPrb w)
  else (chunks (2 * h.count) h.ports xs).map fun c => (0, c)

/-! ### The launch calendar (R420, R421) -/

/-- The calendar of a port. -/
def State.calendar (s : State) (key : Nat) : List CalEntry := mgetD [] s.eg.cal key
/-- Replace the calendar of a port. -/
def State.setCalendar (s : State) (key : Nat) (l : List CalEntry) : State :=
  { s with eg := { s.eg with cal := mset key l s.eg.cal } }

/-- Insert in launch order: by launch, then QID, then calendar order (R423). -/
def calInsert (c : CalEntry) : List CalEntry → List CalEntry
  | [] => [c]
  | d :: l => if c.launch < d.launch ∨ (c.launch = d.launch ∧ c.qid < d.qid) then c :: d :: l else d :: calInsert c l

/-- The header of a record, read by its IOT. -/
def readHdr (s : State) (k a : Nat) : Option RecHdr × State :=
  let r := busMemRead (.iot k) a 64 s
  match r.1 with
  | .ok b => (some (recHdr b), r.2)
  | .error _ => (none, r.2)

/-- Launch of a head entry and whether zeros replace its record: LAUNCH for a frame; T_NOM less DL_ADV for a record,
late when less than 50 µs ahead (R114). A record whose header cannot be read goes out as zeros now (R379). -/
def launchOf (s : State) (x : EgQueue) (e : List Byte) : Nat × Bool × Option RecHdr × State :=
  if ent e 0 1 = 0 then (ent e 16 8, false, none, s)
  else
    let r := readHdr s x.iot (ent e 8 8)
    match r.1 with
    | none => (s.devNs, true, none, r.2)
    | some h => let l := h.tNom - x.dlAdv; (l, decide (l < s.devNs + 50000), some h, r.2)

/-- Bytes that an entry takes on the wire: of a record, at its instance's width. -/
def wireLen (s : State) (x : EgQueue) (e : List Byte) (h : Option RecHdr) : Nat :=
  match ent e 0 1, h with
  | 0, _ => frameL e
  | _, none => 24
  | _, some h =>
    let w := ((x.binding.bind fun b => mget b s.cor.insts).map fun i => i.compw.toNat).getD 0
    recWire h (if w = 0 then 9 else min 16 w) + 24

/-- Pop the head of a TIMED queue into its calendar, once it is known to be ready. -/
def calendarTake (s : State) (qid : Nat) (x : EgQueue) (e : List Byte) : State :=
  let r := launchOf s x e
  let s := r.2.2.2
  if s.devNs + 1000000000 < r.1 then s
  else
    let s := dropHead s qid
    if ent e 0 1 = 0 ∧ r.1 < s.devNs + 1000 then
      complete ((s.count (R.WFQ_TL_LATE x.iot) 1).orReg (R.WFQ_STAT x.iot) 0) x.iot e .timeout true false 0
    else
      let s := match r.2.2.1 with
        | some h => if r.2.1 then fhEvent s x.iot 6 h.carrier h.ru else s
        | none => s
      s.setCalendar x.key (calInsert
        { qid := qid, launch := r.1, entry := e, zeros := r.2.1, len := wireLen s x e r.2.2.1 } (s.calendar x.key))

/-- EGRESS_CALENDAR_POP (R414, R420, R421). -/
def execEgressCalendarPop (qid : Nat) (s : State) : Host.Outcome State Fault Refusal :=
  match s.egq qid with
  | none => ok s
  | some x =>
    if !x.en || !(s.queue qid).en || !x.timed || decide (256 ≤ (s.calendar x.key).length) then ok s
    else
      let h := peekHead s qid
      match h.1 with
      | none => ok h.2
      | some e =>
        if entryOk x e then ok (noteDepth (calendarTake h.2 qid x e) qid)
        else ok (noteDepth (badEntry (dropHead h.2 qid) x.iot x e) qid)

/-- A time step carried device time past launches that are held (R421, R114). -/
def dropLate (s : State) : State :=
  s.eg.cal.foldl (fun s kc =>
    let late := kc.2.filter fun c => decide (c.launch < s.devNs) && ent c.entry 0 1 == 0
    let l := kc.2.filter fun c => !(decide (c.launch < s.devNs) && ent c.entry 0 1 == 0)
    let k := kc.1 / 16
    let s := s.setCalendar kc.1 (l.map fun c => if c.launch < s.devNs then { c with zeros := true } else c)
    let s := (l.filter fun c => decide (c.launch < s.devNs) && !c.zeros).foldl (fun s c =>
      match s.egq c.qid with
      | some x => match x.binding with
        | some b => fhEvent s k 6 (b % 1024) (b / 1024)
        | none => s
      | none => s) s
    late.foldl (fun s c =>
      noteDepth (complete ((s.count (R.WFQ_TL_LATE k) 1).orReg (R.WFQ_STAT k) 0) k c.entry .timeout true false 0) c.qid) s) s

/-! ### Transmission -/

/-- The earliest launch held for a port. -/
def nextLaunch (s : State) (key : Nat) : Option Nat := ((s.calendar key).head?).map CalEntry.launch

/-- R422: a frame of length `len` may start now: t + L × 8 / R ≤ T_L − 64 / R. -/
def fitsGuard (s : State) (key len : Nat) : Bool :=
  match nextLaunch s key with
  | none => true
  | some t => decide ((len * 8 + 64) * 1000 + s.devNs * portRate s key ≤ t * portRate s key)

/-- The transmitter of a port is free. -/
def txFree (s : State) (key : Nat) : Bool := !mhas s.eg.tx key
/-- Put a frame in transmission. -/
def State.setTx (s : State) (key : Nat) (f : TxFrame) : State := { s with eg := { s.eg with tx := mset key f s.eg.tx } }

/-- Two calendar entries would be on the wire at the same time. -/
def overlaps (s : State) (key : Nat) (c d : CalEntry) : Bool :=
  let r := portRate s key
  decide (c.launch < d.launch + wireTime r d.len) && decide (d.launch < c.launch + wireTime r c.len)

/-- Of two entries with one launch, or overlapping transmissions, the one with the lower QID goes first (R423): the entry
that gives way to none. -/
def firstEntry (s : State) (key : Nat) (l : List CalEntry) : Option CalEntry :=
  l.find? fun c => !l.any fun d => decide (d.qid < c.qid) && overlaps s key c d

/-- The launch of the calendar entry that goes first is due: its preamble may begin (R422, R423). -/
def launchDue (s : State) (key : Nat) : Option CalEntry :=
  match firstEntry s key (s.calendar key) with
  | some c =>
    if c.launch * portRate s key ≤ s.devNs * portRate s key + 64000 ∧ (portRate s key ≠ 0 ∨ c.launch ≤ s.devNs)
    then some c else none
  | none => none

/-- Whether a due entry starts late, and its T_TX (R423): its launch, unless the transmitter comes free a
nanosecond or more after. -/
def txTime (s : State) (key launch : Nat) : Bool × Nat :=
  let r := portRate s key
  if s.devNs * r + 64000 < (launch + 1) * r ∨ s.devNs ≤ launch then (false, launch)
  else (true, s.devNs + wireTime r 8)

/-- Read a frame's bytes: none where an access fails or meets an uncorrectable error (R379). -/
def readFrame (s : State) (k : Nat) (e : List Byte) : Option (List Byte) × State :=
  let r := busReadMany (.iot k) (ent e 8 8) (ent e 2 2) s
  match r.1 with
  | .ok b => (some b, r.2)
  | .error _ => (none, r.2)

/-- A frame on its way: the MAC discards it while the port is not up (R402). -/
def frameOut (s : State) (key qid : Nat) (kind : TxKind) (e : List Byte) (tTx delay : Nat) : State :=
  let k := key / 16
  let up := portUp s key
  let r := if up then readFrame s k e else (none, s)
  let bad := up && r.1.isNone
  let f : TxFrame :=
    { kind := kind, qid := qid, entry := e, tTx := tTx, ends := s.now + wireTime (portRate s key) (frameL e),
      delay := delay, status := (if up then (if bad then Status.ue else .ok) else .badState).code, disc := !up,
      out := .frame k (key % 16) (ent e 2 2 + 4) tTx bad (r.1.getD []) }
  r.2.setTx key f

/-- Start the MAC control frame at the head of a port's line (R416, R425); none leaves a port that is not up
(R402). -/
def startControl (s : State) (key pcp quanta : Nat) : State :=
  let s := { s with eg := { s.eg with control := mupd [] key (fun l => l.drop 1) s.eg.control } }
  if portUp s key then
    s.setTx key { kind := .control, qid := 0, entry := [], tTx := s.devNs + wireTime (portRate s key) 8,
                  ends := s.now + wireTime (portRate s key) 84, delay := 0, status := 0, disc := false,
                  out := .pause (key / 16) (key % 16) pcp quanta }
  else s

/-- The eligible WFQ heads of a port (R416): QID, queue and head. -/
def wfqReady (s : State) (key : Nat) : List (Nat × EgQueue × List Byte) :=
  (s.eg.bound.filter fun q => q.2.key == key && !q.2.timed && q.2.en && (s.queue q.1).en
      && !rxPaused s (key / 16) (key % 16) q.2.pcp).filterMap fun q =>
    match (peekHead s q.1).1, q.2.headTag with
    | some e, some _ => if fitsGuard s key (frameL e) then some (q.1, q.2, e) else none
    | _, _ => none

/-- Choose the WFQ head: highest tier, smallest tag, lowest QID (R416). -/
def wfqPick : List (Nat × EgQueue × List Byte) → Option (Nat × EgQueue × List Byte)
  | [] => none
  | a :: l => some (l.foldl (fun b x =>
      let tb := b.2.1.headTag.getD 0#64
      let tx := x.2.1.headTag.getD 0#64
      if x.2.1.tier < b.2.1.tier ∨ (x.2.1.tier = b.2.1.tier ∧
          ((tx ≠ tb ∧ tagLe tx tb = true) ∨ (tx = tb ∧ x.1 < b.1))) then x else b) a)

/-- The head that follows takes its tag (R417). -/
def retag (s : State) (qid : Nat) (x : EgQueue) : State :=
  match (peekHead s qid).1 with
  | some e => s.setEgq qid (giveTag (s.vt x.iot x.port x.tier) x.ftag x e)
  | none => s.setEgq qid { x with headTag := none }

/-- Start a WFQ frame: V takes its tag (R418). -/
def startWfq (s : State) (key qid : Nat) (x : EgQueue) (e : List Byte) : State :=
  let stamp := (((s.queue qid).entries.head?).map QEntry.stamp).getD s.devNs
  let s := dropHead s qid
  if !entryOk x e then noteDepth (badEntry (retag s qid x) x.iot x e) qid
  else
    let s := s.setReg64 (vtAddr x.iot x.port x.tier) (x.headTag.getD 0#64)
    let s := retag s qid x
    let t := s.devNs + wireTime (portRate s key) 8
    noteDepth (frameOut s key qid .wfq e t (t - stamp)) qid

/-- Take a frame's delay into its queue's sampling window (R426). -/
def noteDelay (x : EgQueue) (d : Nat) : EgQueue :=
  { x with samp := { x.samp with maxDelay := max x.samp.maxDelay d, sumDelay := x.samp.sumDelay + d,
                                 frames := x.samp.frames + 1 } }

/-- A frame passes on a spur port (R469): its idle time starts again, and it transmits continuously. -/
def spurFrame (s : State) (p : Nat) : State :=
  { s with spur := mupd SpurPort.reset p (fun x => { x with lastFrame := s.now }) s.spur }.setField (R.SPUR_STAT p) 26 26 0

/-- A frame has left the port or has been discarded (R402, R415, R426, R428). -/
def frameDone (s : State) (key : Nat) (f : TxFrame) : State :=
  let k := key / 16
  let p := key % 16
  let s := { s with eg := { s.eg with tx := mdel key s.eg.tx } }
  let s := if isSpurKey key && !f.disc then spurFrame s (key % 16 - 8) else s
  let eth := !isSpurKey key
  let s := if f.disc then (if eth then s.count (R.ETH_TX_DISC k p) 1 else s)
           else (if eth then s.count64 (R.ETH_TX_FRAMES k p) 1 else s).emit f.out
  match f.kind with
  | .control => s
  | kind =>
    let s := match s.egq f.qid with
      | some x =>
        let x := if f.disc then x else noteDelay { x with bytes := x.bytes + BitVec.ofNat 64 (ent f.entry 2 2 + 4) } f.delay
        noteDepth (s.setEgq f.qid x) f.qid
      | none => s
    let timed := match kind with | .timed _ => true | _ => false
    let slip := match kind with | .timed sl => sl | _ => false
    let p := ent f.entry 24 8
    if ent f.entry 1 1 % 2 == 1 then
      (busWriteMany (.iot k) p (leBytes 2 f.status ++ leBytes 1 (b2n timed + 2 * b2n (slip && !f.disc)) ++ leBytes 5 0
        ++ leBytes 8 (if f.disc then 0 else f.tTx)) s).2
    else s

/-- FRAME_TRANSMIT_END (R415): the frame in transmission on a port has ended. -/
def execFrameTransmitEnd (iot port : Nat) (s : State) : Host.Outcome State Fault Refusal :=
  match mget (portKey iot port) s.eg.tx with
  | some f => if f.ends ≤ s.now then ok (frameDone s (portKey iot port) f) else ok s
  | none => ok s

/-! ### Received pause (R403, R419) -/

/-- A received pause on a PCP of a port ends: its WFQ queues that hold entries become active. -/
def pauseEnd (s : State) (k p pcp : Nat) : State :=
  let s := { s with eg := { s.eg with paused := mdel (portKey k p * 8 + pcp) s.eg.paused } }
  (s.eg.bound.filter fun q => q.2.key == portKey k p && q.2.pcp == pcp && !q.2.timed).foldl (fun s q =>
    match (peekHead s q.1).1 with
    | some e => egressActivate s q.1 e
    | none => s) s

/-- Quanta of a priority pause frame in ns: one quantum is 512 bit times (IEEE 802.1Qbb). -/
def quantaNs (s : State) (key quanta : Nat) : Nat := wireTime (portRate s key) (quanta * 64)

/-- A priority pause frame was received for a PCP. -/
def pauseReceive (s : State) (k p pcp quanta : Nat) : State :=
  if quanta = 0 then (if mhas s.eg.paused (portKey k p * 8 + pcp) then pauseEnd s k p pcp else s)
  else
    let s := { s with eg := { s.eg with
      paused := mset (portKey k p * 8 + pcp) (s.now + quantaNs s (portKey k p) quanta) s.eg.paused } }
    let mark (x : EgQueue) : EgQueue := { x with samp := { x.samp with paused := true } }
    let hit (x : EgQueue) : Bool := x.key == portKey k p && x.pcp == pcp
    { s with eg := { s.eg with bound := s.eg.bound.map fun q => (q.1, if hit q.2 then mark q.2 else q.2) } }

/-- PAUSE_EXPIRE (R419): the time of a received pause has run out. -/
def execPauseExpire (iot port pcp : Nat) (s : State) : Host.Outcome State Fault Refusal :=
  match mget (portKey iot port * 8 + pcp) s.eg.paused with
  | some e => if e ≤ s.now then ok (pauseEnd s iot port pcp) else ok s
  | none => ok s

/-! ### Sampling (R426, R427) -/

/-- Length of a queue's sampling window in ns. -/
def windowLen (x : EgQueue) : Nat := 256 * 2 ^ x.swin

/-- The telemetry record of a window with TIME `t`, in 2 ns units (R426). -/
def telRecord (x : EgQueue) (qid t depth : Nat) (lost : Bool) : List Byte :=
  let w := x.samp
  let fl := b2n (w.frames == 0) + 2 * b2n w.paused + 4 * b2n lost
  let mean := if w.frames = 0 then 0 else w.sumDelay / w.frames
  leBytes 6 t ++ leBytes 1 x.swin ++ leBytes 1 fl ++ leBytes 2 qid ++ leBytes 1 (x.port % 8) ++ leBytes 1 0
    ++ leBytes 4 w.dmin ++ leBytes 4 w.dmax ++ leBytes 4 depth ++ leBytes 4 (min w.maxDelay (2 ^ 32 - 1))
    ++ leBytes 4 (min mean (2 ^ 32 - 1))

/-- Size of an IOT's telemetry ring (R427). -/
def telRing (s : State) (k : Nat) : Nat := 2 ^ s.field (R.WFQ_TEL_SIZE k) 4 0

/-- Write a telemetry record, or count it lost beyond one per 8 ns (R427). -/
def telWrite (s : State) (k : Nat) (rec_ : Bool → List Byte) : State :=
  let tooSoon := match mget k s.eg.telAt with | some t => decide (s.now < t + 8) | none => false
  if tooSoon then
    let s := (s.count (R.WFQ_TEL_LOST k) 1).orReg (R.WFQ_STAT k) 2
    { s with eg := { s.eg with telLost := if s.eg.telLost.contains k then s.eg.telLost else s.eg.telLost ++ [k] } }
  else
    let w := (s.reg (R.WFQ_TEL_WPTR k)).toNat
    let a := (s.reg64 (R.WFQ_TEL_BASE k)).toNat + w
    let s := (busWriteMany (.iot k) a (rec_ (s.eg.telLost.contains k)) s).2
    let s := s.setReg (R.WFQ_TEL_WPTR k) (BitVec.ofNat 32 ((w + 32) % telRing s k))
    { s with eg := { s.eg with telAt := mset k s.now s.eg.telAt, telLost := s.eg.telLost.filter (· != k) } }

/-- A sampling window that starts at `t` with the depth now. -/
def newWindow (s : State) (qid : Nat) (x : EgQueue) (t : Nat) : EgQueue :=
  let d := egDepth s qid x
  { x with samp := { start := t, dmin := d, dmax := d, maxDelay := 0, sumDelay := 0, frames := 0,
                     paused := rxPaused s x.iot x.port x.pcp } }

/-- TIME of a record of IOT `k` for a window that ended at `e`: held at the last TIME written until device time passes it
(R426, R441). -/
def telTimeOf (s : State) (k e : Nat) : Nat := max (e / 2) (mgetD 0 s.eg.telTime k)

/-- After a backward step a sampling window that would start later than the new time starts at the last multiple of its
length (R426). -/
def rewindow (s : State) : State :=
  { s with eg := { s.eg with bound := s.eg.bound.map fun q =>
      let x := q.2
      if x.samp.start ≤ s.devNs then q
      else (q.1, { x with samp := { x.samp with start := s.devNs / windowLen x * windowLen x } }) } }

/-- TELEMETRY_WINDOW_END (R426, R427): the sampling window of a queue has ended. -/
def execTelemetryWindowEnd (qid : Nat) (s : State) : Host.Outcome State Fault Refusal :=
  match s.egq qid with
  | none => ok s
  | some x =>
    let e := x.samp.start + windowLen x
    if !x.sampling || decide (s.devNs < e) then ok s
    else
      let d := egDepth s qid x
      let t := telTimeOf s x.iot e
      let s := telWrite s x.iot (telRecord x qid t d)
      let s := { s with eg := { s.eg with telTime := mset x.iot t s.eg.telTime } }
      ok (s.setEgq qid (newWindow s qid x (s.devNs / windowLen x * windowLen x)))

end Sys2Proof.Machine
end

