-- ==== Sys2Proof/Machine/Corridor.lean ====
section
/-! DEFINITION. The corridor model (R21 to R48): objects, positions, capacity sums, the admission checks of R40, and
how each setting takes effect. Assumption log: 20 (PRESUMED), 21 (DESIGN CHOICE), 23 (DEDUCED), 24 (DEDUCED), 41
(DEDUCED), 42 (DEDUCED), 43 (DEDUCED), 105 (DEDUCED), 108 (DESIGN CHOICE). -/

namespace Sys2Proof

/-- The RU of a body. -/
def RuBody.toRu (b : RuBody) : Machine.Ru :=
  { station := b.scope == 1, sindex := b.sindex, ports := b.ports, path := b.path, link := b.link, flowid := b.flowid,
    vlan := b.vlan, mac := b.mac, txproc := b.txproc, chainage := b.chainage }

/-- The carrier of a body. -/
def CarrierBody.toCarrier (b : CarrierBody) : Machine.Carrier :=
  { std := b.std, scs := b.scs, bw := b.bw, duplex := b.duplex, dl := b.dl, ul := b.ul }

end Sys2Proof

namespace Sys2Proof.Machine

/-! ### Objects -/

/-- Key of a carrier. -/
def carrierKey (scope sindex carrier : Nat) : Nat := (scope * 16 + sindex) * 1024 + carrier
/-- Key of a carrier instance. -/
def instKey (ru carrier : Nat) : Nat := ru * 1024 + carrier
/-- The corridor or station cell of an RU as scope × 16 + index. -/
def Ru.place (r : Ru) : Nat := b2n r.station * 16 + r.sindex
/-- The carrier key of a carrier number on an RU. -/
def Ru.carrier (r : Ru) (c : Nat) : Nat := r.place * 1024 + c

/-- RUs of a corridor or station cell: (index, RU). -/
def rusOf (s : State) (place : Nat) : List (Nat × Ru) := s.cor.rus.filter fun x => x.2.place == place

/-- RUs of corridor `c` in position order: ascending chainage (R43). -/
def corridorRus (s : State) (c : Nat) : List (Nat × Ru) :=
  sortBy (fun x => (x.2.chainage.toNat, x.1, 0)) (rusOf s c)
/-- RUs of station cell `n` in position order: ascending index (R46). -/
def stationRus (s : State) (n : Nat) : List (Nat × Ru) := sortBy (fun x => (x.1, 0, 0)) (rusOf s (16 + n))

/-- Position of RU `i` in its corridor or station cell. -/
def ruPos (s : State) (i : Nat) : Nat :=
  match mget i s.cor.rus with
  | some r => (((if r.station then stationRus s r.sindex else corridorRus s r.sindex).map Prod.fst).idxOf? i).getD 0
  | none => 0

/-- The RU at a corridor position. -/
def ruAt (s : State) (c pos : Nat) : Option (Nat × Ru) := (corridorRus s c)[pos]?

/-- The instances of an RU: (carrier, instance). -/
def instsOn (s : State) (ru : Nat) : List (Nat × Inst) :=
  (s.cor.insts.filter fun x => x.1 / 1024 == ru).map fun x => (x.1 % 1024, x.2)

/-- The instances of a carrier: (RU, instance). -/
def instsOf (s : State) (ckey : Nat) : List (Nat × Inst) :=
  (s.cor.insts.filter fun x =>
    match mget (x.1 / 1024) s.cor.rus with
    | some r => r.carrier (x.1 % 1024) == ckey
    | none => false).map fun x => (x.1 / 1024, x.2)

/-- Antenna ports an instance uses. -/
def popCount (w : Word) : Nat := ((List.range 32).filter fun i => w.getLsbD i).length
/-- Ports of an instance. -/
def instPorts (i : Inst) : Nat := popCount i.maskLo + popCount i.maskHi

/-! ### Windows -/

/-- WIN_LO and WIN_HI of a run (R170). -/
def runWin (r : Run) : Nat × Nat := r.win
/-- The run holds a window: not before an import installs it. -/
def runHasWin (r : Run) : Bool := r.import_.isNone && !(r.ending == 3)
/-- Some run's window contains a corridor position of `c` that satisfies `p`. -/
def windowHits (s : State) (c : Nat) (p : Nat → Bool) : Bool :=
  s.runs.any fun x => x.2.corridor == c && runHasWin x.2 &&
    (List.range 256).any fun i => decide ((runWin x.2).1 ≤ i) && decide (i ≤ (runWin x.2).2) && p i

/-! ### Standards (R27, R28, R120) -/

/-- E-UTRA bands for FDD (3GPP TS 36.101; log entry 108, PRESUMED), in kHz: DL low, DL high, UL low, UL high. -/
def eutraFdd : List (Nat × Nat × Nat × Nat) :=
  [(2110000, 2170000, 1920000, 1980000), (1930000, 1990000, 1850000, 1910000), (1805000, 1880000, 1710000, 1785000),
   (2110000, 2155000, 1710000, 1755000), (869000, 894000, 824000, 849000), (875000, 885000, 830000, 840000),
   (2620000, 2690000, 2500000, 2570000), (925000, 960000, 880000, 915000), (1844900, 1879900, 1749900, 1784900),
   (2110000, 2170000, 1710000, 1770000), (1475900, 1495900, 1427900, 1447900), (729000, 746000, 699000, 716000),
   (746000, 756000, 777000, 787000), (758000, 768000, 788000, 798000), (734000, 746000, 704000, 716000),
   (860000, 875000, 815000, 830000), (875000, 890000, 830000, 845000), (791000, 821000, 832000, 862000),
   (1495900, 1510900, 1447900, 1462900), (3510000, 3590000, 3410000, 3490000), (2180000, 2200000, 2000000, 2020000),
   (1525000, 1559000, 1626500, 1660500), (1930000, 1995000, 1850000, 1915000), (859000, 894000, 814000, 849000)] ++
  [(852000, 869000, 807000, 824000), (758000, 803000, 703000, 748000), (2350000, 2360000, 2305000, 2315000),
   (462500, 467500, 452500, 457500), (2110000, 2200000, 1920000, 2010000), (2110000, 2200000, 1710000, 1780000),
   (753000, 783000, 698000, 728000), (1995000, 2020000, 1695000, 1710000), (617000, 652000, 663000, 698000),
   (461000, 466000, 451000, 456000), (460000, 465000, 450000, 455000), (1475000, 1518000, 1427000, 1470000),
   (728000, 746000, 698000, 716000), (420000, 425000, 410000, 415000), (422000, 427000, 412000, 417000)]

/-- E-UTRA bands for TDD (3GPP TS 36.101; log entry 108, PRESUMED), in kHz. -/
def eutraTdd : List (Nat × Nat) :=
  [(1900000, 1920000), (2010000, 2025000), (1850000, 1910000), (1930000, 1990000), (1910000, 1930000), (2570000, 2620000),
   (1880000, 1920000), (2300000, 2400000), (2496000, 2690000), (3400000, 3600000), (3600000, 3800000), (703000, 803000),
   (1447000, 1467000), (5150000, 5925000), (3550000, 3700000), (1432000, 1517000), (1427000, 1432000), (3300000, 3400000),
   (2483500, 2495000)]

/-- FR1 bands for TDD (3GPP TS 38.104; log entry 108, PRESUMED), in kHz. -/
def fr1Tdd : List (Nat × Nat) :=
  [(2010000, 2025000), (2570000, 2620000), (1880000, 1920000), (2300000, 2400000), (2496000, 2690000), (5150000, 5925000),
   (3550000, 3700000), (1432000, 1517000), (1427000, 1432000), (2483500, 2495000), (3300000, 4200000), (3300000, 3800000),
   (4400000, 5000000), (5925000, 7125000), (5925000, 6425000), (6425000, 7125000)]

/-- The bands of a carrier in kHz by STD and DUPLEX: DL low, DL high, UL low, UL high (R27). -/
def bandsOf : Nat → Nat → List (Nat × Nat × Nat × Nat)
  | 0, _ => [(918000, 925000, 873000, 880000)]
  | 1, 0 => eutraFdd
  | 1, _ => eutraTdd.map fun b => (b.1, b.2, b.1, b.2)
  | 2, _ => [(919400, 925000, 874400, 880000)]
  | 3, _ => [(1900000, 1910000, 1900000, 1910000)]
  | 4, _ => fr1Tdd.map fun b => (b.1, b.2, b.1, b.2)
  | _, _ => []

/-- Unit of the centre frequencies in kHz (R28). -/
def freqUnit (std : Nat) : Nat := if std = 0 then 1 else 5

/-- The whole channel lies inside a band. -/
def inBand (f bw lo hi : Nat) : Bool := decide (2 * lo + bw * 100 ≤ 2 * f) && decide (2 * f + bw * 100 ≤ 2 * hi)

/-- Standard, numerology, bandwidth, duplex and use of a carrier (R27). -/
def carrierTypeOk (scope : Nat) (std scs bw duplex : Nat) : Bool :=
  match std with
  | 0 => scope == 0 && scs == 0 && bw == 2 && duplex == 0
  | 1 => scs == 1 && [14, 30, 50, 100, 150, 200].contains bw && decide (duplex < 2)
  | 2 => scope == 0 && scs == 1 && bw == 50 && duplex == 0
  | 3 => scope == 0 && (scs == 1 || scs == 2) && (bw == 50 || bw == 100) && duplex == 1
  | 4 => scope == 1 && scs == 2 && [400, 600, 800, 1000].contains bw && duplex == 1
  | _ => false

/-- Check 3 of a carrier definition (R27, R28, R90): both channels lie inside one band. -/
def carrierRange (b : CarrierBody) : Bool :=
  let u := freqUnit b.std
  decide (b.carrier < 1024) && carrierTypeOk b.scope b.std b.scs b.bw b.duplex
    && (b.duplex == 0 || b.dl == b.ul)
    && (bandsOf b.std b.duplex).any fun x => inBand (b.dl.toNat * u) b.bw x.1 x.2.1 && inBand (b.ul.toNat * u) b.bw x.2.2.1 x.2.2.2

/-- Most antenna ports of an instance by standard (R25, R27). -/
def maxPorts : Nat → Nat
  | 0 => 2 | 1 => 4 | 2 => 8 | 3 => 8 | _ => 64

/-- PRBs of a carrier (3GPP tables; PRESUMED). -/
def prbOf (c : Carrier) : Nat :=
  match c.std, c.scs, c.bw with
  | 1, _, 14 => 6 | 1, _, 30 => 15 | 1, _, 50 => 25 | 1, _, 100 => 50 | 1, _, 150 => 75 | 1, _, 200 => 100
  | 2, _, _ => 25
  | 3, 1, 50 => 25 | 3, 1, 100 => 52 | 3, 2, 50 => 11 | 3, 2, 100 => 24
  | 4, _, 400 => 106 | 4, _, 600 => 162 | 4, _, 800 => 217 | 4, _, 1000 => 273
  | _, _, _ => 0

/-- Symbols per second of a carrier: 14 per slot of 1 ms or 0.5 ms. -/
def symRate (c : Carrier) : Nat := if c.scs = 2 then 28000 else 14000

/-- Symbols, or GSM-R timeslots, of a frame. -/
def symsPerFrame (c : Carrier) : Nat := if c.std = 0 then 8 else symRate c / 100

/-- Start of OFDM symbol `n` in ns: half milliseconds whose first symbol has the longer prefix (R121). -/
def ofdmStart (c : Carrier) (n : Nat) : Nat :=
  let per := symsPerFrame c / 20
  let a := if per = 14 then 1112 else 2208
  let b := if per = 14 then 1096 else 2192
  let j := n % per
  n / per * 500000 + ceilDiv ((if j = 0 then 0 else a + (j - 1) * b) * 3125) 96

/-- Sample rate of a carrier in 10 ksample/s (R35, R120). -/
def sampleRate (c : Carrier) : Nat :=
  match c.std, c.bw with
  | 0, _ => 0
  | _, 14 => 192 | _, 30 => 384 | _, 50 => 768 | _, 100 => 1536 | _, 150 => 2304 | _, 200 => 3072
  | _, 400 => 6144 | _, 600 => 9216 | _, 800 => 12288 | _, 1000 => 12288
  | _, _ => 0

/-! ### Loads (R35 to R39) -/

/-- The carrier of an instance. -/
def instCarrier (s : State) (ru carrier : Nat) : Option Carrier :=
  (mget ru s.cor.rus).bind fun r => mget (r.carrier carrier) s.cor.carriers

/-- Bit rate of one instance on its path (R35), before the factor 1.10. -/
def instLoad (path : Nat) (c : Carrier) (i : Inst) : Nat :=
  if c.std = 0 then instPorts i * 541670 * 32
  else if path = 1 then instPorts i * sampleRate c * 10000 * 32
  else instPorts i * prbOf c * symRate c * (24 * i.compw.toNat + 8)

/-- Sum of the loads of an RU's instances that carry traffic (R35). -/
def ruLoad (s : State) (ru : Nat) : Nat :=
  match mget ru s.cor.rus with
  | none => 0
  | some r => (instsOn s ru).foldl (fun n x =>
      match mget (r.carrier x.1) s.cor.carriers with
      | some c => if x.2.st = .suspended then n else n + instLoad r.path c x.2
      | none => n) 0

/-- IOT of an RU's link. -/
def Ru.iot (r : Ru) : Nat := r.link / 16 % 8
/-- Port of an RU's link. -/
def Ru.port (r : Ru) : Nat := r.link % 4
/-- The port key of an RU's path: a traffic port, or a spur port of IOT 1. -/
def Ru.pkey (r : Ru) : Nat := if r.path = 2 then portKey 1 (8 + r.link % 4) else portKey r.iot r.port

/-- RUs on a port. -/
def rusOnPort (s : State) (key : Nat) : List Nat := (s.cor.rus.filter fun x => x.2.pkey == key).map Prod.fst

/-- Path loads of a port fit: 110 % of the sum against 90 % of the line rate, or against the net rate a spur port
trained to (R36); one that has not trained yet stands at the rung its SPUR_STAT shows (log entry 108). -/
def portFits (s : State) (key : Nat) : Bool :=
  let load := ((rusOnPort s key).map (ruLoad s)).foldl (· + ·) 0
  if isSpurKey key then decide (load * 11 ≤ portRate s key * 10000000)
  else decide (load * 110 ≤ portRate s key * 90 * 1000000)

/-- Sample rates of the RE paths summed over ports, both directions, in 10 ksample/s (R38). -/
def fftLoad (s : State) : Nat :=
  s.cor.insts.foldl (fun n x =>
    match mget (x.1 / 1024) s.cor.rus, instCarrier s (x.1 / 1024) (x.1 % 1024) with
    | some r, some c => if r.path = 1 then n + 2 * instPorts x.2 * sampleRate c else n
    | _, _ => n) 0

/-- The FFT budget of R38. -/
def fftFits (s : State) : Bool := decide (fftLoad s ≤ 800000 * fftTiles s.part)

/-- What of the model loads the accelerators (R39): carriers, instances with their ports, station cells with their layers,
and static cells. -/
def accShape (s : State) : List (Nat × Nat × Nat × Nat × Nat) × List (Nat × Nat) × List (Nat × Nat × Nat) × List (Nat × Nat) :=
  (s.cor.carriers.map fun x => (x.1, x.2.std, x.2.scs, x.2.bw, x.2.duplex), s.cor.insts.map fun x => (x.1, instPorts x.2),
   s.cor.stations.map fun x => (x.1, x.2.maxUl, x.2.maxDl), s.cor.statics.map fun x => (x.1, x.2.rus.length))

/-- The subtype that a FUNC belongs to (R299). -/
def funcKind (f : Nat) : AccKind :=
  match f / 16 with
  | 0 => .fft | 1 => .eq | 2 => .fec | 3 => .leg | _ => .prs

/-- The rate of a FUNC on a tile at 1.6 GHz, as a fraction (R299): work per second over a divisor. `a` and `b` are layers
and branches, iterations, list size and N, or branches. -/
def funcRate (f a b : Nat) : Nat × Nat :=
  match f with
  | 0x01 | 0x02 => (8000000000, 1)
  | 0x10 | 0x11 | 0x12 => (64000000000, 1)
  | 0x13 | 0x15 => if a * b ≤ 64 then (8000000000, 1)
      else (8000000000 * 2 ^ 20, isqrt (isqrt ((a * b) ^ 3 * 2 ^ 80 / 64 ^ 3) 128) 64)
  | 0x14 => (16000000000, 1)
  | 0x20 => (25000000000 * 8, max 1 a)
  | 0x21 => (100000000000, 1)
  | 0x22 => (1000000 * 8 * 512, max 1 a * max b 512)
  | 0x23 => (20000000 * 512, max b 512)
  | 0x30 => (3000000000 * 6, max 1 a)
  | 0x31 => (12000000000, 1)
  | 0x32 | 0x33 => (200000000, 1)
  | 0x34 => (1600000 * 4, max b 4)
  | 0x35 => (2000000, 1)
  | 0x40 => (32000 * 8, max 1 b)
  | _ => (400000, 1)

/-- Occupancy per second of one tile of `k` by a kind of job, in 10^-9 (R300): its work over its rate, halved on a MIX tile
and scaled to the 60 % clock in PARISON service. -/
def occupancy (parison : Bool) (k : AccKind) (j : Nat × Nat × Nat × Nat) : Nat :=
  let r := funcRate j.1 j.2.2.1 j.2.2.2
  let w := j.2.1 * r.2 * 1000000000 * (if k = .mix then 2 else 1)
  if parison then ceilDiv (w * 10) (r.1 * 6) else ceilDiv w r.1

/-- The tiles of a subtype. -/
def kindTiles (s : State) (k : AccKind) : Nat := ((accTiles s.part).filter fun t => accKind s.part t == some k).length

/-- The subtype whose tiles do a FUNC's work: MIX where no LEG or PRS tile is present (R107, R300). -/
def servingKind (s : State) (f : Nat) : AccKind :=
  let k := funcKind f
  if (k = .leg ∨ k = .prs) ∧ kindTiles s k = 0 then .mix else k

/-- The jobs of the configured carriers: the FFT work is that of R38, the rest a free value (R39, R300). -/
def peakJobs (s : State) : List (Nat × Nat × Nat × Nat) :=
  let x := accShape s
  (0x01, fftLoad s * 10000, 0, 0) :: (Config.peakJobs x.1 x.2.1 x.2.2.1 x.2.2.2).filter fun j => decide (0x10 ≤ j.1)

/-- No subtype needs more than 85 % of its capacity (R39, R300). With no instance there is no load. -/
def accFits (s : State) : Bool :=
  s.cor.insts.isEmpty || [.fft, .eq, .fec, .leg, .prs, .mix].all fun k =>
    let load := (((peakJobs s).filter fun j => servingKind s j.1 == k).map (occupancy s.parison k)).foldl (· + ·) 0
    decide (load * 100 ≤ 85 * 1000000000 * kindTiles s k)

/-! ### Counts (R21) -/

/-- Limits of R21. -/
structure Limits where
  corridors : Nat
  stations : Nat
  rus : Nat
  ports : Nat
  insts : Nat
  runs : Nat
  statics : Nat

/-- The limits of each configuration (R21). -/
def limits : Part → Limits
  | .fa960 => ⟨8, 16, 256, 1024, 768, 64, 768⟩
  | .fb480 => ⟨4, 8, 128, 512, 384, 32, 384⟩
  | .fb240 => ⟨2, 4, 64, 256, 192, 16, 192⟩

/-- Antenna ports in all. -/
def allPorts (s : State) : Nat := (s.cor.rus.map fun x => x.2.ports).foldl (· + ·) 0
/-- Antenna ports of a station cell. -/
def stationPorts (s : State) (n : Nat) : Nat := ((stationRus s n).map fun x => x.2.ports).foldl (· + ·) 0

/-- Every object count lies within R21. -/
def countsFit (s : State) : Bool :=
  let l := limits s.part
  decide (s.cor.corridors.length ≤ l.corridors) && decide (s.cor.stations.length ≤ l.stations)
    && decide (s.cor.rus.length ≤ l.rus) && decide (allPorts s ≤ l.ports)
    && decide (s.cor.insts.length ≤ l.insts) && decide (s.cor.statics.length ≤ l.statics)

/-! ### Conflicts (R26, R29) -/

/-- Channels of two carriers overlap in one direction; frequencies in kHz, bandwidths in 100 kHz. -/
def overlap (f1 b1 f2 b2 : Nat) : Bool :=
  decide (2 * f1 < 2 * f2 + (b1 + b2) * 100) && decide (2 * f2 < 2 * f1 + (b1 + b2) * 100)

/-- Two carriers conflict on one RU (R29): channels of a GSM-R and an LTE or NR carrier, or of two LTE or NR
carriers, overlap. -/
def carriersClash (a b : Carrier) : Bool :=
  (a.std != 0 || b.std != 0) &&
    (overlap (a.dl.toNat * freqUnit a.std) a.bw (b.dl.toNat * freqUnit b.std) b.bw
      || overlap (a.ul.toNat * freqUnit a.std) a.bw (b.ul.toNat * freqUnit b.std) b.bw)

/-- No two instances of an RU conflict. -/
def ruClean (s : State) (ru : Nat) : Bool :=
  let l := (instsOn s ru).filterMap fun x => (instCarrier s ru x.1).map fun c => (x.1, c)
  l.all fun a => l.all fun b => a.1 == b.1 || !carriersClash a.2 b.2

/-- No two RUs share a flow identifier on one port (R26), nor a spur port (R24). A PC_ID and a flow ID of one number are
the same identifier (log entry 108). -/
def flowClean (s : State) (ru : Nat) : Bool :=
  match mget ru s.cor.rus with
  | none => true
  | some r => s.cor.rus.all fun x => x.1 == ru || x.2.pkey != r.pkey || (r.path != 2 && x.2.flowid != r.flowid)

/-! ### Chainage (R23) -/

/-- Adjacent chainages are 50.00 m to 3,000.00 m apart. -/
def spacingOk : List Nat → Bool
  | a :: b :: l => decide (a + 5000 ≤ b) && decide (b ≤ a + 300000) && spacingOk (b :: l)
  | _ => true

/-- The chainages of corridor `c` keep R23. -/
def chainageOk (s : State) (c : Nat) : Bool :=
  let l := (corridorRus s c).map fun x => x.2.chainage.toNat
  spacingOk l && decide (l.getLastD 0 - l.headD 0 ≤ 6400000)

/-! ### Static cells (R31, R44, R45) -/

/-- Cut a list of RUs in position order into runs of consecutive positions. -/
def splitRuns (pos : Nat → Nat) : List Nat → List (List Nat)
  | [] => []
  | a :: l =>
    match splitRuns pos l with
    | [] => [[a]]
    | r :: rs => match r with
      | b :: _ => if pos b = pos a + 1 then (a :: r) :: rs else [a] :: r :: rs
      | [] => [a] :: rs

/-- The lowest free static cell number (R45). -/
def freeCell (m : FMap StaticCell) : Nat := (firstBelow 4096 fun n => !mhas m n).getD 4096

/-- Add static cells, each under the lowest free number. -/
def addCells (m : FMap StaticCell) (corridor carrier : Nat) : List (List Nat) → FMap StaticCell
  | [] => m
  | l :: ls => addCells (mset (freeCell m) { corridor := corridor, carrier := carrier, rus := l } m) corridor carrier ls

/-- Take RUs out of every static cell of a carrier; what remains of each splits into its runs. The first keeps the
cell's number. -/
def leaveCells (s : State) (corridor carrier : Nat) (out : List Nat) : FMap StaticCell :=
  s.cor.statics.foldl (fun m x =>
    if x.2.corridor = corridor ∧ x.2.carrier = carrier ∧ (x.2.rus.any out.contains) = true then
      let rest := sortBy (fun i => (ruPos s i, 0, 0)) (x.2.rus.filter fun i => !out.contains i)
      match splitRuns (ruPos s) rest with
      | [] => mdel x.1 m
      | l :: ls => addCells (mset x.1 { x.2 with rus := l } m) corridor carrier ls
    else m) s.cor.statics

/-- Group or ungroup instances (R45). -/
def regroup (s : State) (corridor carrier : Nat) (rus : List Nat) (group : Bool) : State :=
  let m := leaveCells s corridor carrier rus
  { s with cor := { s.cor with statics := addCells m corridor carrier (if group then [rus] else rus.map fun i => [i]) } }

/-- The static cell of an instance. -/
def cellOf (s : State) (ru carrier : Nat) : Option Nat :=
  (s.cor.statics.find? fun x => x.2.carrier == carrier && x.2.rus.contains ru).map Prod.fst

/-- RUs of a span of corridor positions. -/
def spanRus (s : State) (c first count : Nat) : List Nat := (((corridorRus s c).drop first).take count).map Prod.fst

/-- RUs of a span that carry an instance of a carrier. -/
def spanInsts (s : State) (c k first count : Nat) : List Nat :=
  (spanRus s c first count).filter fun r => mhas s.cor.insts (instKey r k)

/-! ### Queues of a binding (R110, R412) -/

/-- An unused QID of dispatcher `q`: which one is a free value (`n`, `k`). -/
def freeQid (s : State) (q n k : Nat) : Nat :=
  let l := ((List.range 16384).map fun i => q * 16384 + i).filter fun i => !mhas s.dsq.queues i
  l.getD (Config.qidChoice n k % l.length) (q * 16384)

/-- DEPTH_LOG2 of a queue the Gaffer makes: a free value from 2 to 16. -/
def madeDepth (n k : Nat) : Nat := 2 + Config.queueDepth n k % 15

/-- A locked queue made by the Gaffer for a binding. -/
def lockedQueue (kind depth : Nat) : Queue := { Queue.reset with en := true, lock := true, kind := kind, depth := depth }

/-- Quadrant of a binding: its IOT's, as far as the part has it. -/
def bindQuad (s : State) (r : Ru) : Nat := if quadPresent s.part (iotQuad (r.pkey / 16)) then iotQuad (r.pkey / 16) else 0

/-- DL_ADV of a binding (R420): the measured path delay and the RU's declared transmit processing time. -/
def dlAdvOf (r : Ru) (delay : Nat) : Nat := delay + r.txproc * 10

/-- Make the queues of a binding and bind its EGRESS queue (R110, R412, R413): an ingress and a free-buffer STREAM
queue and a TIMED EGRESS queue. -/
def makeBinding (s : State) (ru carrier : Nat) (r : Ru) (i : Inst) : State :=
  let q := bindQuad s r
  let f := s.takeFresh
  let n := f.1
  let s := f.2
  let a := freeQid s q n 0
  let s := s.setQueue a (lockedQueue 3 (madeDepth n 0))
  let b := freeQid s q n 1
  let s := s.setQueue b (lockedQueue 3 (madeDepth n 0))
  let c := freeQid s q n 2
  let s := s.setQueue c (lockedQueue 2 (madeDepth n 1))
  let iot := r.pkey / 16
  let x : EgQueue := { EgQueue.reset iot with
    spur := r.path == 2, cfg := BitVec.ofNat 32 (2 ^ 31 + 2 ^ 30 + (r.pkey % 8) * 2 ^ 28),
    binding := some (instKey ru carrier), dlAdv := dlAdvOf r (mgetD 0 s.fh.delay ru) }
  let s := s.setEgq c x
  let i := { i with ingressQid := a, freeQid := b, egressQid := c }
  { s with cor := { s.cor with insts := mset (instKey ru carrier) i s.cor.insts } }

/-- Release a queue: unlocked and disabled. -/
def releaseQueue (s : State) (qid : Nat) : State := { s with dsq := { s.dsq with queues := mdel qid s.dsq.queues } }

/-- Remove a carrier instance with its binding. -/
def dropInst (s : State) (ru carrier : Nat) : State :=
  match mget (instKey ru carrier) s.cor.insts with
  | none => s
  | some i =>
    let s := releaseQueue (releaseQueue (releaseQueue s i.ingressQid) i.freeQid) i.egressQid
    { s with cor := { s.cor with insts := mdel (instKey ru carrier) s.cor.insts },
             eg := { s.eg with bound := mdel i.egressQid s.eg.bound } }

/-! ### Settings: who guards them and what they name -/

/-- The place (scope × 16 + index) a setting names, or none where it names no semaphore (R40). -/
def placeOfScope (scope sindex : Nat) : Option Nat :=
  if (scope = 0 ∧ sindex < 8) ∨ (scope = 1 ∧ sindex < 16) then some (scope * 16 + sindex) else none

/-- The place of an existing RU. -/
def placeOfRu (s : State) (ru : Nat) : Option Nat := (mget ru s.cor.rus).map Ru.place

/-- What guards a setting: a semaphore, an invalid index (BAD_ARG at check 3), or an object that does not exist
(BAD_STATE at check 10). -/
inductive Guard where
  | sem (n : Nat) | badIndex | noObject
  deriving DecidableEq, Repr

/-- The semaphore of a place (R40): corridor c is guarded by c, station cell n by 8 + n. -/
def semOf (place : Nat) : Nat := if place < 16 then place else place - 8

/-- The guard of a place. -/
def guardPlace : Option Nat → Guard
  | some p => .sem (semOf p)
  | none => .badIndex

/-- The guard of an RU. -/
def guardRu (s : State) (ru : Nat) : Guard :=
  match placeOfRu s ru with
  | some p => .sem (semOf p)
  | none => if ru < 256 then .noObject else .badIndex

/-- The guard of a setting (R40, R79). -/
def guardOf (s : State) : Setting → Guard
  | .corridor c _ _ => guardPlace (placeOfScope 0 c)
  | .ru b => guardPlace (placeOfScope b.scope b.sindex)
  | .ruRemove r => guardRu s r
  | .carrier b => guardPlace (placeOfScope b.scope b.sindex)
  | .carrierRemove sc si _ => guardPlace (placeOfScope sc si)
  | .inst _ r _ _ _ => guardRu s r
  | .staticCell c _ _ _ _ => guardPlace (placeOfScope 0 c)
  | .stationCell n _ _ _ => guardPlace (placeOfScope 1 n)
  | .netConfig _ _ _ => .sem 27
  | .timeConfig _ _ _ => .sem 24

/-- The carrier whose boundary a setting waits for (R41, R45, R88). -/
def carrierOf (s : State) : Setting → Option Nat
  | .carrier b => some (carrierKey b.scope b.sindex b.carrier)
  | .carrierRemove sc si c => some (carrierKey sc si c)
  | .inst c r _ _ _ => (mget r s.cor.rus).map fun x => x.carrier c
  | .staticCell c _ k _ _ => some (carrierKey 0 c k)
  | _ => none

/-- PARISON permits a setting (R536). -/
def parisonPermits : Setting → Bool
  | .inst _ _ item _ _ => item == 1 || item == 2
  | .netConfig _ _ _ => true
  | .timeConfig _ _ _ => true
  | _ => false

/-! ### Check 3: ranges -/

/-- HANDOVER_MARGIN is in range (R42). -/
def marginOk (n : Nat) : Bool := n == 0 || (decide (10000 ≤ n) && decide (n ≤ 500000))

/-- Fields of an RU are in range (R22 to R24, R43), and an existing RU keeps its place. -/
def ruRange (s : State) (b : RuBody) : Bool :=
  decide (b.ru < 256) && decide (1 ≤ b.ports) && decide (b.ports ≤ (if b.scope = 0 then 8 else 64))
    && decide (b.path < 3) && (if b.path = 2 then decide (b.link < 4) && b.flowid == 0 else b.link % 16 < 4 && decide (b.link < 128) && iotPresent s.part (b.link / 16))
    && (b.scope == 0 || b.chainage == 0#32) && decide (b.flowid < 65536)
    && (match mget b.ru s.cor.rus with | some r => r.place == b.scope * 16 + b.sindex | none => true)

/-- The value of a carrier instance item is in range (R91, R92); on an RU that does not exist, by its item alone. -/
def instRange (s : State) (carrier ru item : Nat) (v : Word) : Bool :=
  match mget ru s.cor.rus with
  | none => decide (carrier < 1024) && decide (ru < 256) && (match item with
      | 1 => v == 0#32 || v == 1#32
      | 2 => let x := toSigned 32 v.toNat; decide (-1000 ≤ x) && decide (x ≤ 5300)
      | 3 => decide (8 ≤ v.toNat) && decide (v.toNat ≤ 16)
      | 4 | 5 => v != 0#32
      | _ => false)
  | some r =>
    let c := mget (r.carrier carrier) s.cor.carriers
    let i := mget (instKey ru carrier) s.cor.insts
    let lo := match i with | some x => x.maskLo | none => 0#32
    let hi := match i with | some x => x.maskHi | none => 0#32
    let lo := if item = 4 then v else lo
    let hi := if item = 5 then v else hi
    decide (carrier < 1024) && (match item with
      | 1 => v == 0#32 || v == 1#32
      | 2 => let x := toSigned 32 v.toNat; decide (-1000 ≤ x) && decide (x ≤ 5300)
      | 3 => decide (8 ≤ v.toNat) && decide (v.toNat ≤ (if r.path = 2 then 12 else 16))
      | 4 | 5 =>
        decide ((lo.toNat + hi.toNat * 2 ^ 32) < 2 ^ r.ports) && !(lo == 0#32 && hi == 0#32)
          && (match c with
              | some c => decide (popCount lo + popCount hi ≤ maxPorts c.std)
              | none => true)
      | _ => false)

/-! ### How a corridor setting takes effect -/

/-- Change the corridor model. -/
def State.modCor (s : State) (f : CorridorModel → CorridorModel) : State := { s with cor := f s.cor }

/-- A new carrier instance (R92). -/
def newInst (order : Nat) : Inst :=
  { st := .active, txEn := 0#32, pwrLimit := BitVec.ofInt 32 (-1000), compw := 12#32, maskLo := 0#32, maskHi := 0#32,
    order := order, ingressQid := 0xFFFF, freeQid := 0xFFFF, egressQid := 0xFFFF }

/-- An instance with one item changed (R91). Writing TX_EN re-enables a suspended instance (R37). -/
def instItem (i : Inst) (item : Nat) (v : Word) : Inst :=
  match item with
  | 1 => { i with txEn := v, st := if v = 1#32 ∧ i.st = .suspended then .active else i.st }
  | 2 => { i with pwrLimit := v }
  | 3 => { i with compw := v }
  | 4 => { i with maskLo := v }
  | _ => { i with maskHi := v }

/-- The instance after a setting, and whether it is new. -/
def instAfter (s : State) (ru carrier item : Nat) (v : Word) : Inst :=
  instItem ((mget (instKey ru carrier) s.cor.insts).getD (newInst s.cor.nextOrder)) item v

/-- Remove RU `ru` (R44). -/
def removeRu (s : State) (ru : Nat) : State :=
  let s := (instsOn s ru).foldl (fun s x => dropInst s ru x.1) s
  let m := s.cor.statics.foldl (fun m x =>
    if x.2.rus.contains ru then
      let before := x.2.rus.takeWhile (· != ru)
      let after := (x.2.rus.dropWhile (· != ru)).drop 1
      match [before, after].filter fun l => !l.isEmpty with
      | [] => mdel x.1 m
      | l :: ls => addCells (mset x.1 { x.2 with rus := l } m) x.2.corridor x.2.carrier ls
    else m) s.cor.statics
  s.modCor fun c => { c with rus := mdel ru c.rus, statics := m }

/-- Remove a carrier (R44). -/
def removeCarrier (s : State) (key : Nat) : State :=
  let s := (instsOf s key).foldl (fun s x => dropInst s x.1 (key % 1024)) s
  s.modCor fun c => { c with carriers := mdel key c.carriers,
                             statics := c.statics.filter fun x => !(x.2.corridor == key / 1024 && x.2.carrier == key % 1024) }

/-- The RU of an instance after RU_SET: the bindings follow the RU's path; a path delay measured on another port is
forgotten. -/
def rebind (s : State) (ru : Nat) (old : Option Ru) (r : Ru) : State :=
  let s := if old.any fun o => o.pkey == r.pkey then s else { s with fh := { s.fh with delay := mdel ru s.fh.delay } }
  (instsOn s ru).foldl (fun s x =>
    match s.egq x.2.egressQid with
    | some e => s.setEgq x.2.egressQid { e with iot := r.pkey / 16, spur := r.path == 2,
                                                cfg := setFld e.cfg 29 28 (r.pkey % 4),
                                                dlAdv := dlAdvOf r (mgetD 0 s.fh.delay ru) }
    | none => s) s

/-- How a corridor-model setting takes effect (R42 to R46, R90 to R92). -/
def applyCor (s : State) : Setting → State
  | .corridor c action margin =>
    if action = 2 then s.modCor fun m => { m with corridors := mdel c m.corridors }
    else s.modCor fun m => { m with corridors := mset c (if margin = 0 then 50000 else margin) m.corridors }
  | .ru b =>
    let s := rebind (s.modCor fun m => { m with rus := mset b.ru b.toRu m.rus }) b.ru (mget b.ru s.cor.rus) b.toRu
    s.modCor fun m => { m with statics := m.statics.map fun x => (x.1, { x.2 with rus := sortBy (fun i => (ruPos s i, 0, 0)) x.2.rus }) }
  | .ruRemove r => removeRu s r
  | .carrier b => s.modCor fun m => { m with carriers := mset (carrierKey b.scope b.sindex b.carrier) b.toCarrier m.carriers }
  | .carrierRemove sc si c => removeCarrier s (carrierKey sc si c)
  | .inst c r item v _ =>
    let new := !mhas s.cor.insts (instKey r c)
    let i := instAfter s r c item v
    let s := s.modCor fun m => { m with insts := mset (instKey r c) i m.insts,
                                        nextOrder := if new then m.nextOrder + 1 else m.nextOrder }
    if !new then s
    else match mget r s.cor.rus with
      | none => s
      | some x =>
        let s := makeBinding s r c x i
        if x.station then s
        else s.modCor fun m => { m with statics := addCells m.statics x.sindex c [[r]] }
  | .staticCell c action k first count => regroup s c k (spanInsts s c k first count) (action == 0)
  | .stationCell n action ul dl =>
    if action = 1 then s.modCor fun m => { m with stations := mdel n m.stations }
    else s.modCor fun m => { m with stations := mset n { maxUl := ul, maxDl := dl } m.stations }
  | _ => s

/-! ### Check 10: object state -/

/-- A run or peer entry hangs on a corridor. -/
def corridorBusy (s : State) (c : Nat) : Bool :=
  !(rusOf s c).isEmpty || s.cor.carriers.any (fun x => x.1 / 1024 == c) || s.runs.any (fun x => x.2.corridor == c)
    || mhas s.peers (c * 2) || mhas s.peers (c * 2 + 1)

/-- A corridor or station cell exists. -/
def placeExists (s : State) (p : Nat) : Bool :=
  if p < 16 then mhas s.cor.corridors p else mhas s.cor.stations (p - 16)

/-- Positions whose RU index changes between two orders of a corridor. -/
def renumbered (old new : List Nat) : List Nat :=
  (List.range old.length).filter fun i => old[i]? != new[i]?

/-- RUs of a list in the order of their positions. -/
def byPos (pos : Nat → Nat) (l : List Nat) : List Nat := sortBy (fun i => (pos i, 0, 0)) l

/-- RU_SET changes the order of a corridor and puts an RU inside the span of a static cell (R43): the RU itself, or
another one that it passes. -/
def insideCell (s : State) (c ru : Nat) (old new : List Nat) : Bool :=
  let pos (i : Nat) : Nat := (new.idxOf? i).getD 0
  old != new && s.cor.statics.any fun x => x.2.corridor == c &&
    (let l := byPos pos x.2.rus
     decide (1 < (splitRuns pos l).length) || (decide (pos (l.headD 0) < pos ru) && decide (pos ru < pos (l.getLastD 0))))

/-- Check 10 of RU_SET (R40, R43). -/
def ruState (s : State) (b : RuBody) : Bool :=
  let place := b.scope * 16 + b.sindex
  let new := s.modCor fun m => { m with rus := mset b.ru b.toRu m.rus }
  let oldL := (corridorRus s b.sindex).map Prod.fst
  let newL := (corridorRus new b.sindex).map Prod.fst
  let moved := renumbered oldL newL
  let fixed := match mget b.ru s.cor.rus with
    | some r => r.ports == b.ports && r.path == b.path && r.link == b.link && r.flowid == b.flowid && r.chainage == b.chainage
    | none => true
  placeExists s place && (b.scope == 1 ||
    (!windowHits s b.sindex (fun i => moved.contains i) && !insideCell s b.sindex b.ru oldL newL
      && (fixed || !windowHits s b.sindex (fun i => i == ruPos s b.ru))))

/-- Check 10 (R40): the state of the objects a setting names. -/
def objectState (s : State) : Setting → Bool
  | .corridor c action _ => if action = 0 then !mhas s.cor.corridors c
      else mhas s.cor.corridors c && (action == 1 || !corridorBusy s c)
  | .ru b => ruState s b
  | .ruRemove r => match mget r s.cor.rus with
      | none => false
      | some x => x.station || !windowHits s x.sindex (fun i => decide (ruPos s r ≤ i))
  | .carrier b => placeExists s (b.scope * 16 + b.sindex)
  | .carrierRemove sc si c =>
      let k := carrierKey sc si c
      mhas s.cor.carriers k && (sc == 1 || !windowHits s si (fun i => (instsOf s k).any fun x => ruPos s x.1 == i))
  | .inst c r item _ _ => match mget r s.cor.rus with
      | none => false
      | some x => mhas s.cor.carriers (x.carrier c) && (item == 4 || item == 5 || mhas s.cor.insts (instKey r c))
  | .staticCell c _ k _ _ => mhas s.cor.corridors c && mhas s.cor.carriers (carrierKey 0 c k)
  | .stationCell n action _ _ => action == 0 || (mhas s.cor.stations n && (stationRus s n).isEmpty
      && !s.cor.carriers.any fun x => x.1 / 1024 == 16 + n)
  | _ => true

/-! ### The checks in order (R40) -/

/-- Check 3 of a corridor-model setting. That an RU_REMOVE leaves neighbours more than 3,000.00 m apart is no fault of its
field RU (log entry 108); Group asks for every instance of its span, Ungroup for none (R45). -/
def rangeOk (s : State) : Setting → Bool
  | .corridor _ action margin => decide (action < 3) && marginOk margin
  | .ru b => ruRange s b
      && (b.scope == 1 || chainageOk (s.modCor fun m => { m with rus := mset b.ru b.toRu m.rus }) b.sindex)
      && (b.scope == 0 ||
          (let n := s.modCor fun m => { m with rus := mset b.ru b.toRu m.rus }
           decide ((stationRus n b.sindex).length ≤ 4) && decide (stationPorts n b.sindex ≤ 64)))
      && (instsOn s b.ru).all (fun x => decide ((x.2.maskLo.toNat + x.2.maskHi.toNat * 2 ^ 32) < 2 ^ b.ports)
        && (b.path != 2 || decide (x.2.compw.toNat ≤ 12)))
  | .ruRemove r => decide (r < 256)
  | .carrier b => carrierRange b
      && (instsOf s (carrierKey b.scope b.sindex b.carrier)).all (fun x => decide (instPorts x.2 ≤ maxPorts b.std))
  | .carrierRemove _ _ c => decide (c < 1024)
  | .inst c r item v _ => instRange s c r item v
      && (mhas s.cor.insts (instKey r c) || item == 1 || item == 2 || item == 3 || decide ((instsOn s r).length < 8))
  | .staticCell c action k first count =>
      decide (action < 2) && decide (k < 1024) && decide (1 ≤ count) && decide (count ≤ 8)
        && (action == 1 || (spanInsts s c k first count).length == count)
  | .stationCell _ action ul dl =>
      decide (action < 2) && (action == 1 || (decide (1 ≤ ul) && decide (ul ≤ 16) && decide (1 ≤ dl) && decide (dl ≤ 16)))
  | _ => true

/-- Check 4: critical fields match their complements (R85). -/
def pairsOk : Setting → Bool
  | .ru b => isPair b.chainage b.chainageC
  | .carrier b => isPair b.dl b.dlC && isPair b.ul b.ulC
  | .inst _ _ _ v vc => isPair v vc
  | _ => true

/-- RUs and ports whose loads a setting touches. -/
def touched (s : State) : Setting → List Nat
  | .ru b => [b.ru]
  | .carrier b => (instsOf s (carrierKey b.scope b.sindex b.carrier)).map Prod.fst
  | .inst _ r _ _ _ => [r]
  | _ => []

/-- The EGRESS queues bound on an RU's port and on its IOT keep R413. -/
def egressFits (s : State) (ru : Nat) : Bool :=
  match mget ru s.cor.rus with
  | none => true
  | some r =>
    let l := s.eg.bound.filter fun x => x.2.iot == r.pkey / 16
    decide (l.length ≤ 1024) && decide ((l.filter fun x => x.2.key == r.pkey).length ≤ 256)

/-- Checks 5 to 9, made on the model as it will stand. A change that leaves the carriers and ports as they are needs no
more of an accelerator (R39). -/
def capacityOk (before n : State) (st : Setting) : Status :=
  let rus := touched n st
  if !(countsFit n && rus.all (egressFits n)) then .noResource
  else if !(rus.all fun r => ruClean n r && flowClean n r) then .badArg
  else if !(rus.all fun r => match mget r n.cor.rus with
      | some x => portFits n x.pkey || decide (ruLoad n r ≤ ruLoad before r) && (mget r before.cor.rus).any (fun y => y.pkey == x.pkey)
      | none => true) then .noResource
  else if !fftFits n then .noResource
  else if !(accShape n == accShape before || accFits n) then .noResource
  else .ok

/-- Checks 2 to 10 of a corridor-model setting, once its semaphore is held. -/
def checkCor (s : State) (st : Setting) : Status :=
  if s.parison && !parisonPermits st then .notReady
  else if !rangeOk s st then .badArg
  else if !pairsOk st then .cpairMismatch
  else
    let c := match st with
      | .inst c r item _ _ =>
        let acts := mhas s.cor.rus r && (item == 4 || item == 5 || mhas s.cor.insts (instKey r c))
        capacityOk s (if acts then applyCor s st else s) st
      | .ru _ | .carrier _ | .corridor _ _ _ | .stationCell _ _ _ _ | .staticCell _ _ _ _ _ =>
        capacityOk s (applyCor s st) st
      | _ => .ok
    if c ≠ .ok then c
    else if objectState s st then .ok else .badState

end Sys2Proof.Machine
end

