-- ==== Sys2Proof/Machine/NetConfig.lean ====
section
/-! DEFINITION. The network configuration: the checks of NET_CONFIG_SET settings (R96, R395, R396, R413, R457, R473,
R533) and the stored values, which take effect at the next boot (R62). -/

namespace Sys2Proof.Machine

/-- The key of a stored item. -/
def netKey (item index : Nat) : Nat := item * 65536 + index

/-- `n` bytes of a VALUE at an offset, as a number. -/
def valueField (v : List Byte) (off n : Nat) : Nat := leVal ((v.drop off).take n)

/-- The lanes of a port mode (R395). -/
def modeLanes : Nat → Nat
  | 0 => 0 | 1 => 1 | 2 => 1 | 3 => 1 | 4 => 4 | 5 => 2 | 6 => 1 | 7 => 4 | 8 => 2 | 9 => 4 | _ => 0

/-- FEC settings a mode allows (R395; codes of ETH_MODE.FEC). -/
def modeFec (mode fec : Nat) : Bool :=
  match mode with
  | 0 => decide (fec < 3)
  | 1 => fec == 0
  | 2 | 4 => fec == 0 || fec == 1
  | _ => fec == 2

/-- The stored mode of a port. -/
def storedMode (s : State) (k p : Nat) : Nat :=
  match mget (netKey 4 (k * 4 + p)) s.tcs.netStored with
  | some v => valueField v 0 1
  | none => 0

/-- Lane `l` of IOT `k` belongs to the stored port `p`. -/
def laneOf (s : State) (k p l : Nat) : Bool := decide (p ≤ l) && decide (l < p + modeLanes (storedMode s k p))

/-- A PORT_MODE setting obeys R395 and R396. -/
def portModeOk (s : State) (k p mode fec txrev : Nat) : Bool :=
  iotPresent s.part k && decide (mode ≤ 9) && decide (txrev < 2) && modeFec mode fec
    && (k != 0 || mode == 0 || mode == 1 || mode == 2 || mode == 4)
    && (mode == 0 || (p % modeLanes mode == 0
        && (List.range 4).all fun q => q == p ||
             (List.range 4).all fun l => !(decide (p ≤ l) && decide (l < p + modeLanes mode) && laneOf s k q l)))

/-- A port an address item names (R96). -/
def addrPort (s : State) (index : Nat) : Bool :=
  decide (index < 2) || (decide (0x100 ≤ index) && decide (index < 0x120) && iotPresent s.part ((index - 0x100) / 4))

/-- A stored item is a backhaul egress queue of IOT `k`. -/
def isBhOf (k : Nat) (x : Nat × List Byte) : Bool :=
  decide (netKey 6 (k * 1024) ≤ x.1) && decide (x.1 < netKey 6 ((k + 1) * 1024)) && valueField x.2 0 1 != 0xFF

/-- Stored backhaul egress queues of IOT `k` other than `key`, and its front-haul egress queues (R413). -/
def egressCount (s : State) (k key : Nat) : Nat :=
  (s.tcs.netStored.filter fun x => isBhOf k x && x.1 != key).length
    + (s.cor.rus.filter fun x => x.2.pkey / 16 == k).foldl (fun n x => n + (instsOn s x.1).length) 0

/-- The same of one port (R413). -/
def egressOnPort (s : State) (k p key : Nat) : Nat :=
  (s.tcs.netStored.filter fun x => isBhOf k x && x.1 / 256 == netKey 6 (k * 1024) / 256 + p && x.1 != key).length
    + (rusOnPort s (portKey k p)).foldl (fun n r => n + (instsOn s r).length) 0

/-- A BH_EGRESS setting is in range (R96, R413). -/
def bhEgressOk (s : State) (index : Nat) (v : List Byte) : Bool :=
  decide (index < 8192) && iotPresent s.part (index / 1024) &&
  (valueField v 0 1 == 0xFF ||
    (decide (valueField v 0 1 < 4) && decide (valueField v 1 1 < 2) && decide (valueField v 2 1 < 8)
      && decide (valueField v 3 1 < 2) && decide (valueField v 4 1 < 16)
      && decide (2 ≤ valueField v 5 1) && decide (valueField v 5 1 ≤ 16)
      && (valueField v 1 1 == 1 || decide (1 ≤ valueField v 8 2))
      && decide (egressCount s (index / 1024) (netKey 6 index) < 1024)
      && decide (egressOnPort s (index / 1024) (index / 256 % 4) (netKey 6 index) < 256)))

/-- A BH_INGRESS setting is in range (R96, R205). -/
def bhIngressOk (s : State) (index : Nat) (v : List Byte) : Bool :=
  let d := valueField v 0 1
  let hi := valueField v 2 2
  let lo := valueField v 4 2
  decide (index < 256) && iotPresent s.part (index / 32) &&
    (d == 0 || (decide (2 ≤ d) && decide (d ≤ 16) && ((hi == 0 && lo == 0) || (decide (lo < hi) && decide (hi ≤ 2 ^ d)))))

/-- A SPUR setting is in range (R469, R473). -/
def spurOk (index : Nat) (v : List Byte) : Bool :=
  let cfg := valueField v 0 4
  decide (index < 4) && decide (min 4 (bitsOf cfg 18 16) ≤ min 4 (bitsOf cfg 21 19))
    && decide (bitsOf cfg 15 8 ≤ 100) && decide (100 ≤ valueField v 4 2)

/-- The RU of a PARISON entry has an EC path on an IOT 0 port or an SP path (R533); in PARISON service, in the stored
configuration. -/
def parisonRuOk (s : State) (ru : Nat) : Bool :=
  ru == 0xFFFF || match mget ru (if s.parison then s.corStored else s.cor).rus with
    | some r => r.path == 2 || (r.path == 0 && r.iot == 0)
    | none => false

/-- Checks 3 of a NET_CONFIG_SET setting. -/
def checkNet (s : State) (item index : Nat) (v : List Byte) : Status :=
  let good := match item with
    | 1 => addrPort s index && ((valueField v 0 1 == 4 && decide (valueField v 1 1 ≤ 32))
            || (valueField v 0 1 == 6 && decide (valueField v 1 1 ≤ 128)))
    | 2 => addrPort s index && (valueField v 0 1 == 4 || valueField v 0 1 == 6)
    | 3 => addrPort s index
    | 4 => decide (index < 32) && portModeOk s (index / 4) (index % 4) (valueField v 0 1) (valueField v 1 1) (valueField v 2 1)
    | 5 => decide (index < 64) && iotPresent s.part (index / 8) && decide (index % 8 < 5)
            && (index % 8 != 4 || index / 8 < 2) && decide (bitsOf (valueField v 0 4) 15 8 < 64) && decide (valueField v 4 1 < 2)
    | 6 => bhEgressOk s index v
    | 7 => bhIngressOk s index v
    | 8 => spurOk index v
    | 9 => index == 0
    | 10 => decide (index < 8) && parisonRuOk s (valueField v 0 2)
    | _ => false
  if good then .ok else .badArg

/-- The Gaffer writes the setting into the stored configuration (R96). -/
def applyNet (s : State) (item index : Nat) (v : List Byte) : State :=
  { s with tcs := { s.tcs with netStored := mset (netKey item index) (fitBytes 24 v) s.tcs.netStored } }

end Sys2Proof.Machine
end

