-- ==== Sys2Proof/Machine/Dac.lean ====
section
/-! DEFINITION. The auxiliary DACs (R592 to R597): codes, load groups, clear and compliance. Assumption log: 104
(DEDUCED). -/

namespace Sys2Proof.Machine

/-- Channel `n` is the steering channel (R596). -/
def dacLock (s : State) (n : Nat) : Bool := s.flag R.TIME_HO_CFG 31 && s.field R.TIME_HO_CFG 26 24 == n
/-- Load group of a channel. -/
def dacGroup (s : State) (n : Nat) : Nat := s.field (R.DAC_CFG n) 29 29
/-- Channels of a load group. -/
def dacOf (s : State) (g : Nat) : List Nat := (List.range 8).filter fun n => dacGroup s n == g
/-- A group holds the steering channel, so TEV3 alone loads it (R594). -/
def groupLocked (s : State) (g : Nat) : Bool := (dacOf s g).any (dacLock s)

/-- Count a load event of a group (DAC_LOADS). -/
def countLoad (s : State) (g : Nat) : State :=
  let hi := if g = 0 then 15 else 31
  let lo := if g = 0 then 0 else 16
  s.setField R.DAC_LOADS hi lo (satAdd 16 (s.field R.DAC_LOADS hi lo) 1)

/-- An offset trim of the Lehr takes effect at the channel's load event (R568). -/
def dacTrim (s : State) (n : Nat) : State :=
  match mget n s.pins.trimNext with
  | some t => { s with pins := { s.pins with trim := mset n t s.pins.trim, trimNext := mdel n s.pins.trimNext } }
  | none => s

/-- The pending code that a load event takes now: a code written in this cycle is not transferred (R594). -/
def dacPending (s : State) (n : Nat) : Nat :=
  match mget n s.pins.codeAt with
  | some (t, c) => if t = s.now then c else s.field (R.DAC_CODE n) 15 0
  | none => s.field (R.DAC_CODE n) 15 0

/-- A write to DAC_CODE is held pending (R594). -/
def dacCodeWrite (n : Nat) (w : Word) (s : State) : State :=
  let c := dacPending s n
  let s := { s with pins := { s.pins with codeAt := mset n (s.now, c) s.pins.codeAt } }
  s.setReg (R.DAC_CODE n) (BitVec.ofNat 32 (fld w 15 0))

/-- One channel takes its pending code, and its offset trim. -/
def dacTake (s : State) (n : Nat) : State :=
  let s := dacTrim s n
  (s.setReg (R.DAC_OUT n) (BitVec.ofNat 32 (dacPending s n))).setField (R.DAC_CFG n) 27 27 0

/-- A load event of a group (R594, R595): events in the same cycle make one load; nothing is transferred while DAC_CLR_N is
low. -/
def dacLoad (s : State) (g : Nat) : State :=
  if mget g s.pins.loadAt = some s.now then s
  else
    let s := countLoad { s with pins := { s.pins with loadAt := mset g s.now s.pins.loadAt } } g
    if s.pins.clrLow then s else (dacOf s g).foldl dacTake s

/-- One enabled channel drives its clear code. -/
def dacClear (s : State) (n : Nat) : State :=
  if s.flag (R.DAC_CFG n) 31 then
    (s.setReg (R.DAC_OUT n) (BitVec.ofNat 32 (s.field (R.DAC_CLR_CODE n) 15 0))).setField (R.DAC_CFG n) 27 27 1
  else s

/-- A requester may write the registers of a channel (R597). -/
def dacMayWrite (s : State) (r : Requester) (n : Nat) : Bool := r == .gaffer || !dacLock s n

/-- Write DAC_CFG (R593): MODE and GROUP change only while EN is 0. -/
def dacCfgWrite (n : Nat) (w : Word) (s : State) : State :=
  let a := R.DAC_CFG n
  let en := s.flag a 31
  let moved := fld w 30 29 != s.field a 30 29
  let s := if en && moved then s.orReg R.DAC_STAT 16 else s
  let s := s.setField a 26 0 (fld w 26 0)
  let s := if en then s else s.setField a 30 29 (fld w 30 29)
  let s := s.setField a 31 31 (b2n (bit w 31))
  if s.pins.clrLow then dacClear s n else s

/-- DAC_CODE (R594): the code is held pending until a load event of the channel's group. -/
def execDacCode (r : Requester) (ch : Nat) (value : Word) (s : State) : Host.Outcome State Fault Refusal :=
  if 8 ≤ ch then ok (s.answer .done)
  else if !dacMayWrite s r ch then ok (s.answer (.error .prot))
  else ok ((dacCodeWrite ch value s).answer .done)

/-- DAC_CFG (R593, R596, R597). -/
def execDacCfg (r : Requester) (ch : Nat) (value : Word) (s : State) : Host.Outcome State Fault Refusal :=
  if 8 ≤ ch then ok (s.answer .done)
  else if !dacMayWrite s r ch then ok (s.answer (.error .prot))
  else ok ((dacCfgWrite ch value s).answer .done)

/-- DAC_LD_N (R594): a falling edge at least 20 ns low loads the groups whose PIN bit is set. -/
def execDacLdN (lowNs : Nat) (s : State) : Host.Outcome State Fault Refusal :=
  if lowNs < 20 then ok s
  else
    let s := if s.flag R.DAC_GRP_CFG 0 && !groupLocked s 0 then dacLoad s 0 else s
    ok (if s.flag R.DAC_GRP_CFG 4 && !groupLocked s 1 then dacLoad s 1 else s)

/-- DAC_CLR_N (R595): low for 100 ns, every enabled channel drives its clear code. -/
def execDacClrN (lowNs : Nat) (s : State) : Host.Outcome State Fault Refusal :=
  if lowNs < 100 then ok s
  else ok ((List.range 8).foldl dacClear { s with pins := { s.pins with clrLow := true } })

/-- DAC_CLR_N_RELEASE (R595): each channel holds its clear code until its group's next load event. -/
def execDacClrNRelease (s : State) : Host.Outcome State Fault Refusal :=
  ok { s with pins := { s.pins with clrLow := false } }

/-- VDAC_LOW (R592): VDAC crosses 4.5 V. -/
def execVdacLow (low : Bool) (s : State) : Host.Outcome State Fault Refusal :=
  ok (s.setField R.DAC_STAT 31 31 (b2n low))

/-- DAC_COMPLIANCE (R593): an enabled current-mode channel leaves or regains compliance. -/
def execDacCompliance (ch : Nat) (exceeded : Bool) (s : State) : Host.Outcome State Fault Refusal :=
  if 8 ≤ ch then ok s
  else if exceeded then
    (if s.flag (R.DAC_CFG ch) 31 && s.flag (R.DAC_CFG ch) 30 then ok ((s.orReg R.DAC_STAT ch).orReg R.DAC_STAT (8 + ch))
     else ok s)
  else ok (s.setField R.DAC_STAT ch ch 0)

end Sys2Proof.Machine
end

