-- ==== Sys2Proof/Machine/Mailbox.lean ====
section
/-! DEFINITION. Commands that hold their mailbox while they execute (R76, R77), and their end. -/

namespace Sys2Proof.Machine

/-- The mailbox starts executing a command (R77). -/
def holdMbx (s : State) (m : TcsMsg) (opcode : Nat) (rest : List Setting) : State :=
  { s with tcs := { s.tcs with
      mailboxes := mset (mbxKey m)
        { msg := m, opcode := opcode, rest := rest, results := [], waiting := none, order := s.tcs.nextOrder,
          at_ := s.now }
        s.tcs.mailboxes,
      nextOrder := s.tcs.nextOrder + 1 } }

/-- The mailbox returns to IDLE. -/
def freeMbx (s : State) (key : Nat) : State :=
  { s with tcs := { s.tcs with mailboxes := mdel key s.tcs.mailboxes } }

/-- The command of a mailbox ends with a response (R77). -/
def finishMbx (s : State) (key : Nat) (st : Status) (payload : List Byte) (crit : Nat) : State :=
  match mget key s.tcs.mailboxes with
  | some e => (freeMbx s key).respond e.opcode e.msg st payload crit
  | none => s

/-- Accept a command that runs on after it has started: `act` answers at once, or goes on in its mailbox. -/
def begin_ (op : OpInfo) (m : TcsMsg) (critWant : Nat) (act : State → Reply ⊕ State) (s : State) : State :=
  match accept op m critWant s with
  | .done s => s
  | .go s => match act (holdMbx s m op.opcode []) with
    | .inl r => finishMbx r.state (mbxKey m) r.st r.payload r.crit
    | .inr s => s

end Sys2Proof.Machine
end

