-- ==== Sys2Proof/Machine/Time.lean ====
section
/-! DEFINITION. Network time (R429 to R453): the counter and its step, the servo, PTP, PPS, SyncE, time events and
oscillator steering. Assumption log: 2 (DESIGN CHOICE), 85 (DESIGN CHOICE), 86 (DEDUCED). -/

namespace Sys2Proof.Machine

/-! ### The counter (R429, R440) -/

/-- Device time in units of 2^-48 ns. -/
def DevTime.total (t : DevTime) : Nat := (t.sec * 1000000000 + t.ns) * 2 ^ 48 + t.frac

/-- Device time from units of 2^-48 ns. -/
def timeOf (n : Nat) : DevTime :=
  let ns := n / 2 ^ 48
  { sec := ns / 1000000000, ns := ns % 1000000000, frac := n % 2 ^ 48 }

/-- RATE (R436): signed, 2^-48. -/
def State.rate (s : State) : Int := toSigned 48 (s.reg64 R.TIME_RATE).toNat

/-- One tick of the master counter (R429): 2 × (1 + RATE × 2^-48) ns. -/
def tickClock (s : State) : State :=
  let n : Int := (s.clk.total : Int) + 2 * ((2 ^ 48 : Nat) : Int) + 2 * s.rate
  { s with now := s.now + 2, clk := timeOf n.toNat }

/-- Servo state: 0 FREERUN, 1 ACQUIRE, 2 LOCKED, 3 HOLDOVER (TIME_STAT.STATE). -/
def servoState (s : State) : Nat := s.field R.TIME_STAT 31 29
/-- STEP_DONE. -/
def stepDone (s : State) : Bool := s.flag R.TIME_STAT 28
/-- A reference is qualified. -/
def refOk (s : State) : Bool := s.flag R.TIME_STAT 27
/-- JUMP_LIMIT in 2^-16 ns. -/
def jumpLimit (s : State) : Int := ((s.reg R.TIME_JUMP_LIMIT).toNat : Int) * 65536

/-- Change the servo's fields. -/
def State.modTime (s : State) (f : TimeState → TimeState) : State := { s with time := f s.time }

/-- Insertion into an ascending list. -/
def insertInt (a : Int) : List Int → List Int
  | [] => [a]
  | b :: l => if a ≤ b then a :: b :: l else b :: insertInt a l
/-- Median of a list: of an even number, the mean of the middle two rounded down; 0 for none. -/
def medianInt (l : List Int) : Int :=
  let m := l.foldr insertInt []
  let n := m.length
  if n = 0 then 0
  else if n % 2 = 1 then (m.getD (n / 2) 0) else (m.getD (n / 2 - 1) 0 + m.getD (n / 2) 0).fdiv 2

/-- The servo's offset: the median of the last 16 measurements (R433). -/
def servoOffset (s : State) : Int := medianInt s.time.meas

/-- The next occurrence of a time event after a forward step: the first that is not passed (R453). -/
def skipPassed (s : State) (n : Nat) : State :=
  let start := (s.reg64 (R.TIME_TEV_SEC n)).toNat * 1000000000 + s.field (R.TIME_TEV_NS n) 29 0
  let p := (s.reg (R.TIME_TEV_PERIOD n)).toNat
  let k := mgetD 0 s.time.tevNext n
  let k' := if s.devNs ≤ start then 0 else if p = 0 then 1 else ceilDiv (s.devNs - start) p
  s.modTime fun t => { t with tevNext := mset n (max k k') t.tevNext }

/-- A time event whose settings were written starts again at the first occurrence still ahead (R453). -/
def armTev (s : State) (n : Nat) : State := skipPassed (s.modTime fun t => { t with tevNext := mset n 0 t.tevNext }) n

/-- The time engine adds a step in 2^-16 ns to every counter (R440), with its effects on launch calendars (R421),
time events (R453), sampling windows (R426) and the measurements held. -/
def applyStep (s : State) (d : Int) : State :=
  let n : Int := (s.clk.total : Int) + d * ((2 ^ 32 : Nat) : Int)
  let s := { s with clk := timeOf n.toNat }
  let s := s.modTime fun t => { t with meas := t.meas.map (· + d) }
  let s := ((s.count R.TIME_STEP_CNT 1).setField R.TIME_STAT 28 28 1).orReg R.TIME_EVT 4
  let s := s.setField R.TIME_STEP_CTRL 0 0 0
  let s := if 0 < d then [0, 1, 2, 3].foldl skipPassed s else s
  dropLate (rewindow s)

/-- The step registers as a signed number of 2^-16 ns. -/
def stepRegs (s : State) : Int :=
  toSigned 64 (s.reg64 R.TIME_STEP_OFS).toNat * 65536 + (s.field R.TIME_STEP_SUB 15 0 : Nat)

/-- A valid pair with GO = 1 is written to TIME_STEP_CTRL (R440): the step is applied, or refused; the Gaffer
journals both. -/
def stepEngine (s : State) : State :=
  if servoState s = 1 && !stepDone s then
    let d := stepRegs s
    (applyStep s d).journal 0x0010 1 0xFFFF (Config.recordBody 0x0010 (leBytes 1 1 ++ leBytes 8 (ofSigned 64 d)))
  else
    ((s.orReg R.TIME_EVT 5).setField R.TIME_STEP_CTRL 0 0 0).journal 0x0010 1 0xFFFF
      (Config.recordBody 0x0010 (leBytes 1 2 ++ leBytes 8 (ofSigned 64 (stepRegs s))))

/-- The Gaffer writes the step registers and the pair (R435, R440). -/
def gafferStep (s : State) (d : Int) : State :=
  let s := s.setReg64 R.TIME_STEP_OFS (BitVec.ofInt 64 (d.fdiv 65536))
  let s := s.setReg R.TIME_STEP_SUB (BitVec.ofNat 32 (d.fmod 65536).toNat)
  stepEngine (s.setField R.TIME_STEP_CTRL 0 0 1)

/-! ### The servo (R433 to R437, R451) -/

/-- Close the log of RATE while LOCKED. -/
def closeRateLog (s : State) : State :=
  match s.time.rateSince with
  | some t => s.modTime fun x => { x with rateLog := x.rateLog ++ [(s.now - t, s.rate)], rateSince := some s.now }
  | none => s

/-- Sum of RATE over the last `n` ns of a log read backwards. -/
def rateSum : Nat → List (Nat × Int) → Int
  | _, [] => 0
  | n, (d, r) :: l => if n ≤ d then (n : Int) * r else (d : Int) * r + rateSum (n - d) l

/-- RATE in holdover (R451): its mean over the last 1,000 s in LOCKED, once so much was spent there. -/
def holdoverRate (s : State) : Int :=
  let total := (s.time.rateLog.map Prod.fst).foldl (· + ·) 0
  if total < 1000000000000 then s.rate
  else (rateSum 1000000000000 s.time.rateLog.reverse).fdiv 1000000000000

/-- Write RATE. -/
def setRate (s : State) (r : Int) : State :=
  (closeRateLog s).setReg64 R.TIME_RATE (BitVec.ofInt 64 (clampInt (-56294995342) 56294995342 r))

/-- Change the servo state; the log of RATE runs while LOCKED. -/
def setServo (s : State) (n : Nat) : State :=
  let s := closeRateLog s
  let s := s.setField R.TIME_STAT 31 29 n
  let s := if n = 1 then s.setField R.TIME_STAT 28 28 0 else s
  s.modTime fun t => { t with rateSince := if n = 2 then some s.now else none, lockSince := none }

/-- The servo enters HOLDOVER (R434, R451). -/
def enterHoldover (s : State) : State :=
  let s := closeRateLog s
  let r := holdoverRate s
  let s := setRate (setServo s 3) r
  (s.orReg R.TIME_EVT 2).raise 0x0031 0 0 []

/-- A correction beyond a limit is refused (R434). -/
def jumpRefused (s : State) (off : Int) : State :=
  ((s.orReg R.TIME_EVT 3).raise 0x0030 0 0 (leBytes 8 (ofSigned 64 off))).journal 0x0010 1 0xFFFF
    (Config.recordBody 0x0010 (leBytes 1 3 ++ leBytes 8 (ofSigned 64 off)))

/-- Rate steering after a measurement (R436): the parts of RATE are free values within their clamps; while the DPLL
follows a SyncE source, RATE removes phase only (R446). -/
def steer (s : State) : State :=
  let x := s.takeFresh
  let slew : Int := (s.time.slewMax : Int) * 281474977 / 1000
  let p := clampInt (-slew) slew (Config.servoPhase x.1)
  setRate x.2 ((if s.flag R.TIME_SYNCE 30 then 0 else Config.servoFreq x.1) + p)

/-- The offset after a measurement decides (R434): LOCKED beyond JUMP_LIMIT enters HOLDOVER; a qualified reference
back within it leaves HOLDOVER; within 2 ns after the step the time to lock runs. -/
def servoDecide (s : State) : State :=
  let off := servoOffset s
  match servoState s with
  | 2 =>
    if jumpLimit s < off.natAbs then enterHoldover (jumpRefused (s.modTime fun t => { t with refused := true }) off)
    else steer s
  | 3 =>
    if refOk s && decide ((off.natAbs : Int) ≤ jumpLimit s) then setServo (s.modTime fun t => { t with refused := false }) 2 else s
  | 1 =>
    let near := stepDone s && decide (off.natAbs ≤ 131072)
    let s := s.modTime fun t => { t with lockSince := if near then some (t.lockSince.getD s.now) else none }
    steer s
  | _ => s

/-- Take an offset measurement (R433); in STILL the servo is suspended (R442). -/
def takeMeas (s : State) (off : Int) : State :=
  if s.devState = 3 then s else
  let s := s.modTime fun t =>
    let l := t.meas ++ [off]
    { t with meas := l.drop (l.length - 16), lastMeas := s.now,
             reacq := t.reacq.map fun r => if r.taken.length < 16 then { r with taken := r.taken ++ [off] } else r }
  let s := s.setReg64 R.TIME_OFFSET (BitVec.ofInt 64 (servoOffset s))
  servoDecide s

/-- The reference is lost (R433, R434). -/
def refLost (s : State) : State :=
  let s := (s.setField R.TIME_STAT 27 25 0).modTime fun t =>
    { t with meas := [], refused := false, reacq := t.reacq.map fun r => { r with taken := [] } }
  match servoState s with
  | 1 => if (s.reg R.TIME_STEP_CNT).toNat = 0 then setServo s 0 else enterHoldover s
  | 2 => enterHoldover s
  | _ => s

/-- End a TIME_REACQUIRE without a step: from ACQUIRE the servo returns to the state it left (R435, R438). -/
def reacqEnd (s : State) (x : Reacq) (st : Status) : State :=
  let s := if servoState s = 1 then (setServo s x.from_).setField R.TIME_STAT 28 28 (b2n x.done) else s
  let s := s.modTime fun t => { t with reacq := none }
  finishMbx s x.mbx st [] 0

/-- The bounded step of TIME_REACQUIRE (R435, R438): from the median of the first 16 measurements taken since it was
accepted. -/
def reacqStep (s : State) (x : Reacq) : State :=
  let off := medianInt x.taken
  let s := s.setField R.TIME_STAT 27 27 1
  if x.maxStep * 65536 < off.natAbs then reacqEnd (jumpRefused s off) x .timeJumpRefused
  else
    let s := gafferStep s (-off)
    let s := s.modTime fun t => { t with reacq := none }
    finishMbx s x.mbx .ok (leBytes 8 (ofSigned 64 ((-off).fdiv 65536)) ++ leBytes 2 ((-off).fmod 65536).toNat ++ leBytes 6 0) 0

/-- REFERENCE_QUALIFY (R433 to R435): 16 consecutive measurements qualify the reference. -/
def execReferenceQualify (s : State) : Host.Outcome State Fault Refusal :=
  if s.time.meas.length < 16 then ok s
  else match servoState s, s.time.reacq with
    | 1, some x => if x.taken.length < 16 then ok s else ok (reacqStep s x)
    | st, _ =>
      if refOk s then ok s
      else
        let s := s.setField R.TIME_STAT 27 27 1
        match st with
        | 0 => ok (setServo s 1)
        | 3 =>
          if ((servoOffset s).natAbs : Int) ≤ jumpLimit s then ok (setServo s 2)
          else ok (jumpRefused (s.modTime fun t => { t with refused := true }) (servoOffset s))
        | _ => ok s

/-- REFERENCE_LOST (R433): no measurement for 3 s, or the reference port is no longer in SLAVE. -/
def execReferenceLost (s : State) : Host.Outcome State Fault Refusal :=
  let kind := s.field R.TIME_STAT 26 25
  let p := R.PTP_STAT (s.field R.TIME_STAT 15 13) (s.field R.TIME_STAT 12 8)
  let left := kind == 1 && s.field p 31 28 != 9
  if kind ≠ 0 && (left || decide (s.time.lastMeas + 3000000000 ≤ s.now)) then ok (refLost s) else ok s

/-- SERVO_LOCK (R434): within 2 ns for 10 s after the step. -/
def execServoLock (s : State) : Host.Outcome State Fault Refusal :=
  match s.time.lockSince with
  | some t => if servoState s = 1 && stepDone s && decide (t + 10000000000 ≤ s.now) then ok (setServo s 2) else ok s
  | none => ok s

/-- TIME_STEP (R435, R440): the Gaffer asks for the step of the acquisition, equal to the negated median offset; the
time engine refuses it outside ACQUIRE or after the step. -/
def execTimeStep (s : State) : Host.Outcome State Fault Refusal :=
  if servoState s = 1 && !stepDone s && s.time.meas.isEmpty then ok s
  else if servoState s = 1 && s.time.reacq.isSome then ok s
  else ok (gafferStep s (-servoOffset s))

/-- TIME_REACQUIRE's opcode (R93). -/
def opTimeReacquire : OpInfo := { opcode := 0x0404 }

/-- TIME_REACQUIRE (R434, R435, R438), under semaphore 24. -/
def execTimeReacquire (m : TcsMsg) (maxStep maxStepC : DWord) (waitS : Nat) (s : State) :
    Host.Outcome State Fault Refusal :=
  ok (begin_ opTimeReacquire m 1 (fun s =>
    if !holdsSem s m 24 then .inl (refuse .notOwner s)
    else if maxStep.toNat = 0 ∨ 2 ^ 62 < maxStep.toNat ∨ 600 < waitS then .inl (refuse .badArg s)
    else if maxStepC ≠ ~~~maxStep then .inl (refuse .cpairMismatch s)
    else if servoState s = 0 ∨ s.time.reacq.isSome = true then .inl (refuse .badState s)
    else
      let x : Reacq := { maxStep := maxStep.toNat, until_ := s.now + (if waitS = 0 then 10 else waitS) * 1000000000,
                         mbx := mbxKey m, from_ := servoState s, done := stepDone s, taken := [] }
      .inr (((setServo s 1).setField R.TIME_STAT 27 27 0).modTime fun t => { t with reacq := some x, meas := [] })) s)

/-- TIME_REACQUIRE_TIMEOUT (R438): no step within WAIT_S. -/
def execTimeReacquireTimeout (s : State) : Host.Outcome State Fault Refusal :=
  match s.time.reacq with
  | some x => if x.until_ ≤ s.now then ok (reacqEnd s x .timeout) else ok s
  | none => ok s

/-- clockClass advertised by servo state (R443; the values of G.8275.1, PRESUMED). -/
def clockClass (s : State) : Nat :=
  match servoState s with
  | 2 => 6 | 3 => if s.time.gm.isSome then 7 else 135 | _ => 248

/-- The TIME_READ response (R439). -/
def timeReadPayload (s : State) : List Byte :=
  let p := s.field R.TIME_STAT 12 8
  let k := s.field R.TIME_STAT 15 13
  let kind := s.field R.TIME_STAT 26 25
  leBytes 1 (servoState s) ++ leBytes 1 kind ++ leBytes 1 k ++ leBytes 1 p ++ leBytes 1 (clockClass s)
    ++ leBytes 1 (b2n (s.flag R.TIME_SYNCE 30) * 128 + s.field R.TIME_SYNCE 7 4)
    ++ leBytes 1 (b2n (stepDone s) + 2 * b2n (s.flag R.TIME_HO_CFG 31) + 4 * b2n s.time.ppsTaken) ++ leBytes 1 0
    ++ leBytes 8 s.clk.sec ++ leBytes 4 s.clk.ns ++ leBytes 2 (s.clk.frac / 2 ^ 32) ++ leBytes 2 0
    ++ leBytes 8 (s.reg64 R.TIME_OFFSET).toNat ++ leBytes 8 (ofSigned 64 s.rate)
    ++ leBytes 4 (s.reg R.TIME_JUMP_LIMIT).toNat ++ leBytes 4 (s.reg R.TIME_STEP_CNT).toNat
    ++ leBytes 2 (s.field R.TIME_HO_CODE 15 0) ++ leBytes 2 0 ++ leBytes 4 (s.reg R.TIME_HO_SLOPE).toNat
    ++ leBytes 8 (if kind = 1 then (s.reg64 (R.PTP_MEAN_DELAY k p)).toNat else 0)

/-- TIME_READ's opcode. -/
def opTimeRead : OpInfo := { opcode := 0x0401, onchip := true }

/-- TIME_READ (R439). -/
def execTimeRead (m : TcsMsg) (s : State) : Host.Outcome State Fault Refusal :=
  ok (serve opTimeRead m 0 (fun s => { st := .ok, payload := timeReadPayload s, state := s }) s)

/-! ### PTP (R431, R433, R443, R444) -/

/-- The port exists for PTP: 0 to 3, and 4 on IOT 0 and 1. -/
def ptpPort (s : State) (k p : Nat) : Bool := iotPresent s.part k && (decide (p < 4) || (p == 4 && decide (k < 2)))

/-- Port state (R456). -/
def ptpState (s : State) (k p : Nat) : Nat := s.field (R.PTP_STAT k p) 31 28
/-- Role (R444). -/
def ptpRole (s : State) (k p : Nat) : Nat := if s.flag (R.PTP_CFG k p) 31 then s.field (R.PTP_CFG k p) 30 28 else 0

/-- A 48-bit seconds value extended to the 64-bit value nearest the current SEC (R431). -/
def extendSec (sec s48 : Nat) : Nat :=
  let base := sec / 2 ^ 48
  let cands := [(base - 1) * 2 ^ 48 + s48, base * 2 ^ 48 + s48, (base + 1) * 2 ^ 48 + s48]
  let d (x : Nat) : Nat := if x ≤ sec then sec - x else x - sec
  cands.foldl (fun b x => if d x < d b then x else b) (base * 2 ^ 48 + s48)

/-- A PTP timestamp in 2^-16 ns with its seconds extended (R431). -/
def extendStamp (s : State) (t : Int) : Int :=
  let n : Int := 65536000000000
  let sec := (t.fdiv n).toNat % 2 ^ 48
  (extendSec s.clk.sec sec : Int) * n + t.fmod n

/-- PTP_ASYM in 2^-16 ns. -/
def asymOf (s : State) (k p : Nat) : Int := toSigned 32 (s.reg (R.PTP_ASYM k p)).toNat * 256

/-- The port is the servo's reference. -/
def isRef (s : State) (k p : Nat) : Bool :=
  s.field R.TIME_STAT 26 25 == 1 && s.field R.TIME_STAT 15 13 == k && s.field R.TIME_STAT 12 8 == p

/-- An offset measurement from a complete Sync (R433, IEEE 1588): t2 − t1 − correction − meanPathDelay, with the
asymmetry taken as part of the correction. -/
def syncOffset (s : State) (k p : Nat) (t1 corr t2 : Int) : Int :=
  t2 - extendStamp s t1 - corr - asymOf s k p - toSigned 64 (s.reg64 (R.PTP_MEAN_DELAY k p)).toNat

/-- Change what a port holds of its exchange. -/
def setPtp (s : State) (k p : Nat) (x : PtpPort) : State :=
  s.modTime fun t => { t with ptp := mset (k * 8 + p) x t.ptp }

/-- A slave port received a complete Sync. -/
def syncDone (s : State) (k p : Nat) (t1 corr t2 : Int) : State :=
  let s := setPtp s k p { t1 := t1, corr := corr, t2 := t2, twoStep := false }
  if isRef s k p then takeMeas s (syncOffset s k p t1 corr t2) else s

/-- Announce: the best-master decision sets the port state (R443, R444): MASTER or SLAVE only with CAL_OK. -/
def announce (s : State) (k p decision : Nat) : State :=
  let role := ptpRole s k p
  let cal := s.flag (R.PTP_STAT k p) 27
  let allowed := match decision with
    | 9 => role == 2 || role == 3
    | 6 => role == 1 || role == 3
    | _ => true
  let st := if !allowed then (if role = 1 then 6 else 7) else decision
  let st := if (st = 6 ∨ st = 9) ∧ cal = false then (if st = 9 then 8 else 4) else st
  let was := ptpState s k p
  let s := s.setField (R.PTP_STAT k p) 31 28 st
  let s := if was = 9 ∧ st ≠ 9 ∧ isRef s k p = true then refLost s else s
  if st = 9 ∧ s.field R.TIME_STAT 26 25 = 0 ∧ s.time.gm.isNone = true then
    ((s.setField R.TIME_STAT 26 25 1).setField R.TIME_STAT 15 13 k).setField R.TIME_STAT 12 8 p
  else s

/-- The time a PTP message carries, in 2^-16 ns, with SEC[47:0] (R431, R443). -/
def ptpStamp (s : State) : Nat := ((s.clk.sec % 2 ^ 48) * 1000000000 + s.clk.ns) * 65536 + s.clk.frac / 2 ^ 32

/-- Unicast grants that have not run out (R443). -/
def liveGrants (s : State) : List (Nat × Nat × Nat) := s.time.grants.filter fun g => decide (s.now < g.2.2)

/-- A client asks for unicast service (R443, G.8275.2): granted by a master port, at most 64 clients per device. The
answer goes out; a grant is renewed by asking again. -/
def unicastAsk (s : State) (k p client seconds : Nat) : State :=
  if s.time.profile ≠ 2 then s.count (R.PTP_CNT_DISC k p) 1
  else if ptpState s k p ≠ 6 then s
  else
    let key := k * 8 + p
    let l := (liveGrants s).filter fun g => (g.1, g.2.1) != (key, client)
    let s := (s.count (R.PTP_CNT_TX k p) 1).emit (.ptp k p 12 (if l.length < 64 then seconds else 0))
    s.modTime fun t =>
      { t with grants := if l.length < 64 then l ++ [(key, client, s.now + seconds * 1000000000)] else l }

/-- A client gives its grant up (G.8275.2). -/
def unicastDrop (s : State) (k p client : Nat) : State :=
  if s.time.profile ≠ 2 then s.count (R.PTP_CNT_DISC k p) 1
  else s.modTime fun t => { t with grants := (liveGrants s).filter fun g => (g.1, g.2.1) != (k * 8 + p, client) }

/-- PTP_MESSAGE_RECEIVE (R433, R436, R443, R444): messages for another domain or of an unsupported kind are
discarded. -/
def execPtpMessageReceive (iot port domain : Nat) (b : PtpBody) (s : State) : Host.Outcome State Fault Refusal :=
  if !ptpPort s iot port then ok s
  else
    let s := s.count (R.PTP_CNT_RX iot port) 1
    let disc := s.count (R.PTP_CNT_DISC iot port) 1
    if s.time.profile = 0 ∨ domain ≠ s.time.domain ∨ ptpRole s iot port = 0 then ok disc
    else match b with
      | .other => ok disc
      | .announce d => ok (announce s iot port d)
      | .unicastRequest c n => ok (unicastAsk s iot port c n)
      | .unicastCancel c => ok (unicastDrop s iot port c)
      | .sync two t1 corr t2 =>
        if ptpState s iot port ≠ 9 then ok s
        else if two then ok (setPtp s iot port { t1 := t1, corr := corr, t2 := t2, twoStep := true })
        else ok (syncDone s iot port t1 corr t2)
      | .followUp t1 corr =>
        match mget (iot * 8 + port) s.time.ptp with
        | some x => if x.twoStep && ptpState s iot port == 9 then ok (syncDone s iot port t1 (x.corr + corr) x.t2) else ok s
        | none => ok s
      | .delayReq _ =>
        if ptpState s iot port = 6 then ok ((s.count (R.PTP_CNT_TX iot port) 1).emit (.ptp iot port 9 (ptpStamp s))) else ok s
      | .delayResp t3 t4 corr =>
        match mget (iot * 8 + port) s.time.ptp with
        | some x =>
          if ptpState s iot port ≠ 9 then ok s
          else
            let fwd := x.t2 - extendStamp s x.t1 - x.corr
            let back := extendStamp s t4 - t3 - corr
            ok (s.setReg64 (R.PTP_MEAN_DELAY iot port) (BitVec.ofInt 64 ((fwd + back).fdiv 2)))
        | none => ok s

/-- A port whose role is MASTER_ONLY enters MASTER once its lane delays are calibrated (R444). -/
def masterOnly (s : State) (k p : Nat) : State :=
  if ptpRole s k p = 1 && s.flag (R.PTP_STAT k p) 27 && s.time.profile != 0 then s.setField (R.PTP_STAT k p) 31 28 6 else s

/-- One Sync (one-step, with SEC[47:0]: R431) and one Announce of a port. -/
def syncAnnounce (s : State) (k p : Nat) : State :=
  ((s.count (R.PTP_CNT_TX k p) 2).emit (.ptp k p 0 (ptpStamp s))).emit (.ptp k p 11 (clockClass s))

/-- How often a master port sends a message: once, to the multicast address, under G.8275.1; once to each client with a
grant under G.8275.2 (R443). -/
def syncCopies (s : State) (k p : Nat) : Nat :=
  if s.time.profile = 2 then ((liveGrants s).filter fun g => g.1 == k * 8 + p).length else 1

/-- PTP_SYNC_SEND (R443): a master port sends Sync and Announce. -/
def execPtpSyncSend (iot port : Nat) (s : State) : Host.Outcome State Fault Refusal :=
  if !ptpPort s iot port then ok s
  else
    let s := masterOnly s iot port
    if ptpState s iot port == 6 && s.flag (R.PTP_STAT iot port) 27 && s.time.profile != 0 then
      ok ((List.range (syncCopies s iot port)).foldl (fun s _ => syncAnnounce s iot port) s)
    else ok s

/-! ### PPS (R445) -/

/-- PPS_IN_EDGE (R445): `dev` is the edge less the whole second, in 2^-8 ns, before IN_DLY is taken off. -/
def execPpsInEdge (falling : Bool) (dev : Int) (s : State) : Host.Outcome State Fault Refusal :=
  if !s.flag R.TIME_PPS_CFG 30 || s.flag R.TIME_PPS_CFG 29 != falling then ok s
  else
    let d := dev - ((s.field R.TIME_PPS_CFG 15 0 * 64 : Nat) : Int)
    let s := s.setReg R.TIME_PPS_IN_ERR (BitVec.ofInt 32 d)
    match s.time.gm with
    | none => ok s
    | some sec =>
      let s := s.modTime fun t => { t with ppsAt := s.now, gm := some (sec + 1) }
      if 25600 < d.natAbs then ok ((s.orReg R.TIME_EVT 1).modTime fun t => { t with ppsTaken := false })
      else
        let here := if 500000000 ≤ s.clk.ns then s.clk.sec + 1 else s.clk.sec
        let off := ((here : Int) - sec) * 65536000000000 + d * 256
        let s := s.setField R.TIME_STAT 26 25 2
        ok (takeMeas (s.modTime fun t => { t with ppsTaken := true }) off)

/-- PPS_IN_MISS (R445): a pulse missing for 2 s loses the reference. -/
def execPpsInMiss (s : State) : Host.Outcome State Fault Refusal :=
  if s.time.gm.isSome && decide (s.time.ppsAt + 2000000000 ≤ s.now) && s.field R.TIME_STAT 26 25 == 2 then
    ok (refLost ((s.orReg R.TIME_EVT 1).modTime fun t => { t with ppsTaken := false }))
  else ok s

/-! ### Time events and steering (R451 to R453) -/

/-- TIME_EVENT_FIRE (R453): the next occurrence of a generator is due; in STILL PPS_OUT stays low (R582). -/
def execTimeEventFire (n : Nat) (s : State) : Host.Outcome State Fault Refusal :=
  if 4 ≤ n || !s.flag (R.TIME_TEV_CFG n) 31 then ok s
  else
    let start := (s.reg64 (R.TIME_TEV_SEC n)).toNat * 1000000000 + s.field (R.TIME_TEV_NS n) 29 0
    let p := (s.reg (R.TIME_TEV_PERIOD n)).toNat
    let k := mgetD 0 s.time.tevNext n
    if (p = 0 ∧ k ≠ 0) ∨ s.devNs < start + k * p then ok s
    else
      let s := (s.setField (R.TIME_TEV_CFG n) 27 27 1).modTime fun t => { t with tevNext := mset n (k + 1) t.tevNext }
      match s.field (R.TIME_TEV_CFG n) 30 28 with
      | 1 =>
        if n = 0 && s.flag R.TIME_PPS_CFG 31 && !s.power.still then
          ok (s.emit (.ppsOut (start + k * p) (s.field (R.TIME_TEV_CFG n) 19 0)))
        else ok s
      | 2 => if groupLocked s 0 && n != 3 then ok s else ok (dacLoad s 0)
      | 3 => if groupLocked s 1 && n != 3 then ok s else ok (dacLoad s 1)
      | _ => ok s

/-- Write the steering code to its channel (R451). -/
def steerCode (s : State) (acc : Int) : State :=
  let acc := clampInt 0 (65535 * 65536 + 65535) acc
  let code := (acc.fdiv 65536).toNat
  let s := s.modTime fun t => { t with hoAcc := acc }
  let s := s.setReg R.TIME_HO_CODE (BitVec.ofNat 32 code)
  dacCodeWrite (s.field R.TIME_HO_CFG 26 24) (BitVec.ofNat 32 code) s

/-- The device is in STILL: PWR_STAT.STATE 3 with the transition complete. -/
def inStill (s : State) : Bool := s.devState == 3

/-- HOLDOVER_RAMP (R451): once per second in HOLDOVER or STILL with EN and RAMP set. -/
def execHoldoverRamp (s : State) : Host.Outcome State Fault Refusal :=
  if s.flag R.TIME_HO_CFG 31 && s.flag R.TIME_HO_CFG 30 && (servoState s == 3 || inStill s)
      && decide (s.time.rampAt + 1000000000 ≤ s.now) then
    ok (steerCode (s.modTime fun t => { t with rampAt := s.now })
      (s.time.hoAcc + toSigned 32 (s.reg R.TIME_HO_SLOPE).toNat))
  else ok s

/-- The ageing slope of a list of (now, code): the change per second over the list, in 2^-16 code (R451). -/
def ageSlope (l : List (Nat × Nat)) : Int :=
  match l.head?, l.getLast? with
  | some a, some b =>
    let dt := (b.1 - a.1) / 1000000000
    if dt = 0 then 0 else (((b.2 : Int) - a.2) * 65536).fdiv dt
  | _, _ => 0

/-- OCXO_STEERING_UPDATE (R451): in LOCKED the Gaffer moves the DAC code and learns the ageing slope from the last
24 h of codes. -/
def execOcxoSteeringUpdate (code : Nat) (s : State) : Host.Outcome State Fault Refusal :=
  if s.flag R.TIME_HO_CFG 31 && servoState s == 2 then
    let s := steerCode s (((code % 65536) * 65536 : Nat) : Int)
    let l := (s.time.codes.filter fun x => decide (s.now < x.1 + 86400000000000)) ++ [(s.now, code % 65536)]
    ok ((s.modTime fun t => { t with codes := l }).setReg R.TIME_HO_SLOPE (BitVec.ofInt 32 (ageSlope l)))
  else ok s

/-- SPINE_DELAY_MEASURE (R448): an island in RUN is measured and trimmed. -/
def execSpineDelayMeasure (tile trim : Nat) (err : Int) (s : State) : Host.Outcome State Fault Refusal :=
  if !tilePresent s.part tile || !tileRun s tile then ok s
  else
    let s := (dutyDone 2 s).setReg (R.LTIME_TRIM tile) (BitVec.ofNat 32 (trim % 2 ^ 24))
    ok (s.setReg (R.LTIME_STAT tile) (BitVec.ofNat 32 (b2n (decide (err.natAbs ≤ 64)) * 2 ^ 31 + ofSigned 16 err)))

/-! ### SyncE (R446) -/

/-- A port may be the SyncE source: a traffic port with a priority, in step 8, past its wait-to-restore time, with a
usable quality level. -/
def synceOk (s : State) (x : Nat × Nat) : Bool :=
  let k := x.1 / 8
  let p := x.1 % 8
  decide (p < 4) && mgetD 0 s.time.syncePrio x.1 != 0 && portUp s (portKey k p) && !mhas s.time.wtr x.1 && decide (x.2 < 15)

/-- SYNCE_SELECT (R446): among the ports whose received quality levels are given (IOT × 8 + port, SSM code), the best
quality, then the lowest priority number. The source's level is sent on; without a source the level of the OCXO, a free
value. -/
def execSynceSelect (ql : List (Nat × Nat)) (s : State) : Host.Outcome State Fault Refusal :=
  if !s.flag R.TIME_SYNCE 31 then ok s
  else match leastBy (fun x => (x.2, mgetD 0 s.time.syncePrio x.1, x.1)) (ql.filter (synceOk s)) with
    | some x =>
      let s := s.setField R.TIME_SYNCE 30 30 1
      let s := (s.setField R.TIME_SYNCE 23 21 (x.1 / 8)).setField R.TIME_SYNCE 20 16 (x.1 % 8)
      ok ((s.setField R.TIME_SYNCE 7 4 x.2).setField R.TIME_SYNCE 3 0 x.2)
    | none =>
      let f := s.takeFresh
      ok (((f.2.setField R.TIME_SYNCE 30 30 0).setField R.TIME_SYNCE 7 4 0).setField R.TIME_SYNCE 3 0
        (Config.ownQuality f.1 % 16))

/-- SYNCE_WAIT_TO_RESTORE (R446): 300 s after it recovered, a source is a candidate again. -/
def execSynceWaitToRestore (iot port : Nat) (s : State) : Host.Outcome State Fault Refusal :=
  match mget (iot * 8 + port) s.time.wtr with
  | some t => if t ≤ s.now then ok (s.modTime fun x => { x with wtr := mdel (iot * 8 + port) x.wtr }) else ok s
  | none => ok s

/-! ### TIME_CONFIG (R447) -/

/-- The domain fits a profile (R443, R447). -/
def domainFits (profile domain : Nat) : Bool :=
  match profile with
  | 1 => decide (24 ≤ domain) && decide (domain ≤ 43)
  | 2 => decide (44 ≤ domain) && decide (domain ≤ 63)
  | _ => decide (24 ≤ domain) && decide (domain ≤ 63)

/-- Ports in role SLAVE_ONLY or AUTO. -/
def slavePorts (s : State) : List (Nat × Nat) :=
  ((List.range 8).flatMap fun k => (List.range 5).map fun p => (k, p)).filter fun x =>
    ptpPort s x.1 x.2 && s.flag (R.PTP_CFG x.1 x.2) 31 && decide (2 ≤ s.field (R.PTP_CFG x.1 x.2) 30 28)

/-- TEV3 is enabled for another action than loading a steering channel's group: that of channel `ch` or of the
channel steered now (R452). -/
def tev3Taken (s : State) (ch : Nat) : Bool :=
  let act := s.field (R.TIME_TEV_CFG 3) 30 28
  let own := s.flag R.TIME_HO_CFG 31 && act == 2 + dacGroup s (s.field R.TIME_HO_CFG 26 24)
  s.flag (R.TIME_TEV_CFG 3) 31 && act != 2 + dacGroup s ch && !own

/-- Check a TIME_CONFIG setting (R437, R443 to R447, R452): ITEM, IOT × 256 + PORT, VALUE. -/
def checkTime (s : State) (item index : Nat) (value : DWord) : Status :=
  let v := value.toNat
  let k := index / 256
  let p := index % 256
  let between (lo hi : Nat) : Status := if lo ≤ v ∧ v ≤ hi then .ok else .badArg
  match item with
  | 1 => if v = 0 ∨ (v < 3 ∧ domainFits v s.time.domStored = true) then .ok else .badArg
  | 2 => if domainFits s.time.profStored v then .ok else .badArg
  | 3 =>
    if !ptpPort s k p || decide (3 < v) then .badArg
    else if 2 ≤ v ∧ 8 ≤ ((slavePorts s).filter fun x => x != (k, p)).length then .noResource else .ok
  | 4 => between 1 1000000000
  | 5 => if ptpPort s k p && satSigned 32 (toSigned 64 v) == toSigned 64 v then .ok else .badArg
  | 6 => if ptpPort s k p then between 1 255 else .badArg
  | 7 => between 1 200
  | 8 => between 1 10000
  | 9 => if iotPresent s.part k && decide (p < 4) && decide (v ≤ 8) then .ok else .badArg
  | 10 => if v % 2 ^ 3 + (v / 128 % 4) * 128 ≠ v then .badArg else if tev3Taken s (v % 8) then .badArg else .ok
  | 11 => if s.time.profile = 2 then .badArg else .ok
  | 12 => between 0 1000000
  | _ => .badArg

/-- HOLDOVER takes effect (R451, R452): TEV3 loads the steering channel's group at each whole second, and no longer
does so once steering ends. -/
def setHoldover (s : State) (v : Nat) : State :=
  let s := if s.flag R.TIME_HO_CFG 31 then s.setField (R.TIME_TEV_CFG 3) 31 31 0 else s
  let s := s.setReg R.TIME_HO_CFG (BitVec.ofNat 32 ((v / 256) * 2 ^ 31 + (v / 128 % 2) * 2 ^ 30 + (v % 8) * 2 ^ 24))
  if v / 256 = 1 then
    let s := (s.setReg64 (R.TIME_TEV_SEC 3) (BitVec.ofNat 64 (s.clk.sec + 1))).setReg (R.TIME_TEV_NS 3) 0#32
    let s := s.setReg (R.TIME_TEV_PERIOD 3) (BitVec.ofNat 32 1000000000)
    let s := s.modTime fun t => { t with tevNext := mset 3 0 t.tevNext,
                                         hoAcc := ((s.field (R.DAC_CODE (v % 8)) 15 0 * 65536 : Nat) : Int) }
    let s := s.setReg R.TIME_HO_CODE (BitVec.ofNat 32 (s.field (R.DAC_CODE (v % 8)) 15 0))
    s.setReg (R.TIME_TEV_CFG 3) (BitVec.ofNat 32 (2 ^ 31 + (2 + dacGroup s (v % 8)) * 2 ^ 28))
  else s

/-- PPS_OUT takes effect: TEV0 pulses at each whole second (R447, R453). -/
def setPpsOut (s : State) (v : Nat) : State :=
  let s := s.setField R.TIME_PPS_CFG 31 31 (if v = 0 then 0 else 1)
  if v = 0 then s.setField (R.TIME_TEV_CFG 0) 31 31 0
  else
    let s := (s.setReg64 (R.TIME_TEV_SEC 0) (BitVec.ofNat 64 (s.clk.sec + 1))).setReg (R.TIME_TEV_NS 0) 0#32
    let s := s.setReg (R.TIME_TEV_PERIOD 0) (BitVec.ofNat 32 1000000000)
    let s := s.modTime fun t => { t with tevNext := mset 0 0 t.tevNext }
    s.setReg (R.TIME_TEV_CFG 0) (BitVec.ofNat 32 (2 ^ 31 + 2 ^ 28 + v))

/-- A role takes effect (R444): a port leaves MASTER or SLAVE when its role no longer admits it. -/
def setRole (s : State) (k p v : Nat) : State :=
  let s := s.setReg (R.PTP_CFG k p) (BitVec.ofNat 32 ((if v = 0 then 0 else 2 ^ 31) + v * 2 ^ 28))
  let st := ptpState s k p
  let keep := (st == 9 && decide (2 ≤ v)) || (st == 6 && (v == 1 || v == 3))
  if keep then s
  else
    let lost := st == 9 && isRef s k p
    let s := s.setField (R.PTP_STAT k p) 31 28 (if v = 0 then 3 else 4)
    if lost then refLost s else s

/-- The device acts as a grandmaster (R445): PPS_IN is its reference, and a PTP reference is given up. -/
def ppsReference (s : State) (v : Nat) : State :=
  let s := if s.field R.TIME_STAT 26 25 = 1 then refLost s else s
  (s.setField R.TIME_STAT 26 25 2).modTime fun t => { t with gm := some v, ppsAt := s.now }

/-- How a TIME_CONFIG setting takes effect (R447). -/
def applyTime (s : State) (item index : Nat) (value : DWord) : State :=
  let v := value.toNat
  let k := index / 256
  let p := index % 256
  match item with
  | 1 => s.modTime fun t => { t with profStored := v }
  | 2 => s.modTime fun t => { t with domStored := v }
  | 3 => setRole s k p v
  | 4 => s.setReg R.TIME_JUMP_LIMIT (BitVec.ofNat 32 v)
  | 5 => s.setReg (R.PTP_ASYM k p) (value.setWidth 32)
  | 6 => s.setReg (R.PTP_LPRIO k p) (BitVec.ofNat 32 v)
  | 7 => s.modTime fun t => { t with servoBw := v }
  | 8 => s.modTime fun t => { t with slewMax := v }
  | 9 => (s.setField R.TIME_SYNCE 31 31 1).modTime fun t =>
      { t with syncePrio := if v = 0 then mdel (k * 8 + p) t.syncePrio else mset (k * 8 + p) v t.syncePrio }
  | 10 => setHoldover s v
  | 11 => ppsReference (s.setField R.TIME_PPS_CFG 30 30 1) v
  | 12 => setPpsOut s v
  | _ => s

end Sys2Proof.Machine
end

