-- ==== Sys2Proof/Machine/Settings.lean ====
section
/-! DEFINITION. Multi-setting commands (R40, R41, R67, R83, R87 to R89): checking settings in list order, effect at
carrier boundaries, result lists; the Gaffer's own settings on the way to full service (R537, R538); and rate
shortfalls of spur ports (R37). Assumption log: 5 (DESIGN CHOICE), 22 (DEDUCED), 25 (DESIGN CHOICE), 44 (DEDUCED), 45
(DEDUCED), 102 (DESIGN CHOICE), 108 (DESIGN CHOICE). -/

namespace Sys2Proof.Machine

/-- The opcode of a setting. -/
def opcodeOf : Setting → Nat
  | .corridor _ _ _ => 0x0201 | .ru _ => 0x0202 | .ruRemove _ => 0x0203 | .carrier _ => 0x0204
  | .carrierRemove _ _ _ => 0x0205 | .inst _ _ _ _ _ => 0x0206 | .staticCell _ _ _ _ _ => 0x0207
  | .stationCell _ _ _ _ => 0x0208 | .netConfig _ _ _ => 0x0112 | .timeConfig _ _ _ => 0x0402

/-- Critical pairs of a setting (R85, R93). -/
def pairsIn : Setting → Nat
  | .ru _ => 1 | .carrier _ => 2 | .inst _ _ _ _ _ => 1 | _ => 0

/-! ### Carrier boundaries (R41, R432) -/

/-- The number of the frame (LTE, NR) or 51-frame multiframe (GSM-R) that runs at device time `t` ns. -/
def frameNo (std t : Nat) : Nat := if std = 0 then t * 13 / (51 * 60000000) else t / 10000000

/-- Device time in ns at which a frame began, rounded up. -/
def frameStart (std n : Nat) : Nat := if std = 0 then ceilDiv (n * 51 * 60000000) 13 else n * 10000000

/-- STD of a carrier: of the carrier as it stands, else of the setting that creates it. -/
def stdOf (s : State) (st : Setting) (key : Nat) : Nat :=
  match mget key s.cor.carriers with
  | some c => c.std
  | none => match st with
    | .carrier b => b.std
    | _ => 1

/-! ### One setting -/

/-- The mailbox key of the settings the Gaffer makes itself (R537 step 6). -/
def ownKey : Nat := 0x300

/-- Check a setting (R40): the lease, the device state, the ranges, the pairs, the loads and the object. -/
def checkSetting (s : State) (key : Nat) (m : TcsMsg) (st : Setting) : Status :=
  let rest (s : State) : Status := match st with
    | .netConfig item index v => checkNet s item index v
    | .timeConfig item index v => checkTime s item index v
    | _ => checkCor s st
  if key = ownKey then rest (s.setField R.PWR_STAT 31 29 1)
  else match guardOf s st with
    | .sem n => if holdsSem s m n then rest s else .notOwner
    | .badIndex => .badArg
    | .noObject => rest s

/-- A change is written to the stored configuration: the copy with the lower generation takes the next one (R566). -/
def configWritten (s : State) : State :=
  { s with stor := if s.stor.genA ≤ s.stor.genB then { s.stor with genA := s.stor.genB + 1 }
                   else { s.stor with genB := s.stor.genA + 1 } }

/-- The stored configuration after a setting: in full service the model as it stands; in PARISON service the one
item that may change (R536). -/
def storeSetting (s : State) (st : Setting) : State :=
  match st with
  | .netConfig _ _ _ => configWritten s
  | .timeConfig item index v =>
    configWritten (s.modTime fun t => { t with stored := if item = 11 then t.stored else mset (item * 65536 + index) v t.stored })
  | .inst c r item v _ =>
    if s.parison then
      configWritten { s with corStored := { s.corStored with
        insts := match mget (instKey r c) s.corStored.insts with
          | some i => mset (instKey r c) (instItem i item v) s.corStored.insts
          | none => s.corStored.insts } }
    else configWritten { s with corStored := s.cor }
  | _ => configWritten { s with corStored := s.cor }

/-- A setting takes effect. -/
def applySetting (s : State) (own : Bool) (st : Setting) : State :=
  let s := match st with
    | .netConfig item index v => applyNet s item index v
    | .timeConfig item index v => applyTime s item index v
    | _ => applyCor s st
  if own then s else storeSetting s st

/-! ### Results (R87, R89) -/

/-- A setting took effect. -/
def SettingResult.good (r : SettingResult) : Bool := r.status == 0

/-- The header STATUS of a result list (R89). -/
def headerStatus (l : List SettingResult) : Nat :=
  match l.find? fun r => !r.good with
  | none => 0
  | some r => if l.any SettingResult.good then 0x0010 else r.status

/-- One entry of a result list. -/
def resultBytes (x : Nat × SettingResult) : List Byte :=
  leBytes 2 x.1 ++ leBytes 2 x.2.status ++ leBytes 4 0 ++ leBytes 8 x.2.effective

/-- The result list of a command (R87). -/
def resultList (l : List SettingResult) : List Byte :=
  leBytes 2 l.length ++ leBytes 2 0 ++ ((List.range l.length).zip l).flatMap resultBytes

/-- Replace the command of a mailbox. -/
def setMbx (s : State) (key : Nat) (e : MbxExec) : State :=
  { s with tcs := { s.tcs with mailboxes := mset key e s.tcs.mailboxes } }

/-- A settings command ends: its mailbox is IDLE and its response is sent (R77, R89). -/
def finishSettings (s : State) (key : Nat) (e : MbxExec) : State :=
  let s := freeMbx s key
  if key = ownKey then s
  else deliver e.msg (response s e.opcode e.msg (headerStatus e.results) 0 (resultList e.results)) s

/-- Add a result. -/
def MbxExec.add (e : MbxExec) (status effective : Nat) : MbxExec :=
  { e with results := e.results ++ [{ status := status, effective := effective }] }

/-- What the next setting reports without being checked: TIMEOUT once EXPIRY has passed (R67), ABORTED after a
failure under FLAGS.STOP (R88). -/
def skipped (s : State) (e : MbxExec) : Option Status :=
  if e.results.any (fun r => r.status == Status.timeout.code) || expired s e.msg then some .timeout
  else if e.msg.flags.getLsbD 3 && e.results.any (fun r => !r.good) then some .aborted
  else none

/-- The SETTING record of an applied setting, or of one of the Gaffer's own that failed (R561, R537): opcode,
session, index and status. -/
def settingRecord (s : State) (e : MbxExec) (st : Setting) (c : Nat) : State :=
  s.journal 0x0030 0 0xFFFF (Config.recordBody 0x0030 <| leBytes 2 (opcodeOf st) ++ leBytes 4 e.msg.session.toNat
    ++ leBytes 2 e.results.length ++ leBytes 2 c)

/-- Check and apply settings in order until one has to wait for its carrier's boundary, or the list ends. -/
def processMbx : Nat → Nat → State → State
  | 0, _, s => s
  | fuel + 1, key, s =>
    match mget key s.tcs.mailboxes with
    | none => s
    | some e =>
      if e.waiting.isSome then s
      else match e.rest with
        | [] => finishSettings s key e
        | st :: rest =>
          let e := { e with rest := rest }
          match skipped s e with
          | some c => processMbx fuel key (setMbx s key (e.add c.code 0))
          | none =>
            let c := checkSetting s key e.msg st
            if c ≠ .ok then
              let s := if key = ownKey then settingRecord s e st c.code else s
              processMbx fuel key (setMbx s key (e.add c.code 0))
            else match carrierOf s st with
              | some ck => setMbx s key { e with waiting := some (st, ck, frameNo (stdOf s st ck) s.devNs) }
              | none =>
                let s := settingRecord (applySetting s (key == ownKey) st) e st 0
                processMbx fuel key (setMbx s key (e.add 0 s.devNs))

/-- Enough steps for every setting of a mailbox. -/
def mbxFuel (s : State) (key : Nat) : Nat :=
  match mget key s.tcs.mailboxes with
  | some e => e.rest.length + 2
  | none => 0

/-- Go on with the settings of a mailbox. -/
def proceed (key : Nat) (s : State) : State := processMbx (mbxFuel s key) key s

/-- Run a settings command (R77, R85, R87). -/
def settings (opcode : Nat) (m : TcsMsg) (first : Setting) (rest : List Setting) (s : State) :
    Host.Outcome State Fault Refusal :=
  let all := first :: rest
  let op : OpInfo := { opcode := opcode }
  match accept op m ((all.map pairsIn).foldl (· + ·) 0) s with
  | .done s => ok s
  | .go s =>
    if 64 < all.length ∨ (all.any fun x => opcodeOf x != opcode) = true then ok (s.respond opcode m .badArg)
    else ok (proceed (mbxKey m) (holdMbx s m opcode all))

/-! ### From PARISON service to full service (R537, R538) -/

/-- The settings that build what a configuration `d` holds and the model lacks, in its order. -/
def missingFrom (d : CorridorModel) (s : State) : List Setting :=
  let cells := d.statics.filter fun x => !(s.cor.statics.any fun y => y.2 == x.2)
  let pos (l : List Nat) : Nat := (l.head?.map fun r => ((sortBy (fun x => (x.2.chainage.toNat, x.1, 0))
      (d.rus.filter fun y => (mget r d.rus).any fun z => z.place == y.2.place)).map Prod.fst).idxOf r).getD 0
  (d.corridors.filter fun x => !mhas s.cor.corridors x.1).map (fun x => .corridor x.1 0 x.2)
  ++ (d.stations.filter fun x => !mhas s.cor.stations x.1).map (fun x => .stationCell x.1 0 x.2.maxUl x.2.maxDl)
  ++ (d.rus.filter fun x => !mhas s.cor.rus x.1).map (fun x => .ru
      { ru := x.1, scope := b2n x.2.station, sindex := x.2.sindex, ports := x.2.ports, path := x.2.path,
        link := x.2.link, flowid := x.2.flowid, vlan := x.2.vlan, mac := x.2.mac, txproc := x.2.txproc,
        chainage := x.2.chainage, chainageC := ~~~x.2.chainage })
  ++ (d.carriers.filter fun x => !mhas s.cor.carriers x.1).map (fun x => .carrier
      { scope := x.1 / 16384, sindex := x.1 / 1024 % 16, carrier := x.1 % 1024, std := x.2.std, scs := x.2.scs,
        bw := x.2.bw, duplex := x.2.duplex, dl := x.2.dl, dlC := ~~~x.2.dl, ul := x.2.ul, ulC := ~~~x.2.ul })
  ++ (sortBy (fun x => (x.2.order, 0, 0)) (d.insts.filter fun x => !mhas s.cor.insts x.1)).flatMap (fun x =>
      let set (item : Nat) (v : Word) : Setting := .inst (x.1 % 1024) (x.1 / 1024) item v (~~~v)
      (if x.2.maskLo ≠ 0#32 then [set 4 x.2.maskLo] else []) ++ (if x.2.maskHi ≠ 0#32 then [set 5 x.2.maskHi] else [])
        ++ [set 3 x.2.compw, set 2 x.2.pwrLimit, set 1 x.2.txEn])
  ++ (cells.filter fun x => decide (1 < x.2.rus.length)).map (fun x => .staticCell x.2.corridor 0 x.2.carrier (pos x.2.rus) x.2.rus.length)

/-- The header of the Gaffer's own settings. -/
def ownMsg : TcsMsg :=
  { via := .mgt 0, form := .raw 0x88B5, vtags := 0, src := 0, magic := 0#32, ver := 1#8, flags := 0#8, mbx := 0, crit := 0,
    session := 0#32, seq := 0#32, len := 0, frameLen := 0, expiry := 0, tag := 0#256, payload := [] }

/-- The Gaffer makes settings of its own, one at a time (R534, R537). -/
def ownSettings (l : List Setting) (s : State) : State :=
  let e : MbxExec := { msg := ownMsg, opcode := 0, rest := l, results := [], waiting := none, order := s.tcs.nextOrder,
                       at_ := s.now }
  proceed ownKey { s with tcs := { s.tcs with
    mailboxes := mset ownKey e s.tcs.mailboxes, nextOrder := s.tcs.nextOrder + 1 } }

/-- Issue step 6 of R537: what is stored and not in the model. -/
def admitStored (s : State) : State := ownSettings (missingFrom s.corStored s) s

/-- The moves of the PARISON carriers in ascending carrier number (R538). -/
def parisonMoves (s : State) : List ParisonMove :=
  (sortBy (fun k => (k % 1024, k, 0)) s.boot.parisonCarriers).map fun k =>
    { key := k, estimates := false, frame := 0,
      rus := ((instsOf s k).map Prod.fst).filter fun r => mhas s.boot.widths (instKey r (k % 1024)) }

/-- Replace bring-up state. -/
def State.modBoot (s : State) (f : Boot → Boot) : State := { s with boot := f s.boot }

/-- The frame in which the Gaffer issues the next move. -/
def issueMove (s : State) : State :=
  match s.boot.moves with
  | [] => s
  | m :: l =>
    let m := { m with frame := frameNo (stdOf s (.carrierRemove 0 0 0) m.key) s.devNs }
    s.modBoot fun b => { b with moves := m :: l }

/-- HBM stacks of the quadrants present. -/
def hbmStacks (s : State) : List Nat := (List.range 4).filter (quadPresent s.part)

/-- Full service (R537 step 7, R505): ACTIVE, and PARISON_COMPLETE. -/
def fullService (s : State) : State :=
  ((s.modBoot fun b => { b with phase := 7 }).setField R.PWR_STAT 31 29 1).raise 0x0041 0 0 []

/-- Tiles present whose islands are OFF. -/
def offTiles (s : State) : List Nat := (List.range 144).filter fun t => tilePresent s.part t && (s.island t).st == .off

/-- Tiles of quadrant 0 that are present. -/
def q0Tiles (s : State) : List Nat := (List.range 144).filter fun t => tileQuad t == 0 && tilePresent s.part t

/-- A tile of the device runs, or has failed. -/
def tileSettled (s : State) (t : Nat) : Bool := (s.island t).st == .run || (s.island t).failed

/-- PARISON service runs (R532 step 7): the security version minimum follows the Gaffer's version (R540), and the rest of
the device is brought up behind it (R537). -/
def parisonUp (s : State) : State :=
  s.modBoot fun b => { b with
    stage := 7, phase := 1, svMin := max b.svMin b.gver,
    parisonCarriers := b.parisonCarriers.filter fun k => mhas s.cor.carriers k }

/-- Go from one step of R537 to the next where its condition holds. -/
def progress1 (s : State) : State :=
  match s.boot.phase with
  | 0 => if s.boot.stage = 6 && !mhas s.tcs.mailboxes ownKey then parisonUp s else s
  | 1 => if (hbmStacks s).all (s.boot.hbmUp.contains ·) then
           startPorts (s.modBoot fun b => { b with phase := 2, tilesToStart := offTiles s }) 1 [0, 1, 2, 3]
         else s
  | 2 => if s.boot.tilesToStart.isEmpty && (List.range 144).all (fun t => !tilePresent s.part t || tileSettled s t) then
           s.modBoot fun b => { b with phase := 3 } else s
  | 3 => if s.boot.timeOk then s.modBoot fun b => { b with phase := 4, tilesToStart := q0Tiles s } else s
  | 4 => if s.boot.tilesToStart.isEmpty then issueMove (s.modBoot fun b => { b with phase := 5, moves := parisonMoves s }) else s
  | 5 => if s.boot.moves.isEmpty then admitStored (s.modBoot fun b => { b with phase := 6 }) else s
  | 6 => if mhas s.tcs.mailboxes ownKey then s else fullService s
  | _ => s

/-- Go through the steps as far as their conditions hold. -/
def progress (s : State) : State :=
  progress1 (progress1 (progress1 (progress1 (progress1 (progress1 (progress1 s))))))

/-- Change an instance. -/
def modInst (s : State) (key : Nat) (f : Inst → Inst) : State :=
  match mget key s.cor.insts with
  | some i => s.modCor fun c => { c with insts := mset key (f i) c.insts }
  | none => s

/-- One setting of a carrier's move takes effect (R538): channel estimates first, then a stored width per instance;
after the last one the carrier is in full service. -/
def moveStep (s : State) (key : Nat) : State :=
  match s.boot.moves with
  | [] => s
  | m :: l =>
    if m.key ≠ key ∨ frameNo (stdOf s (.carrierRemove 0 0 0) key) s.devNs ≤ m.frame then s
    else
      let done_ (s : State) : State :=
        issueMove ((s.modBoot fun b => { b with moves := l, parisonCarriers := b.parisonCarriers.filter (· != key) }).raise
          0x0040 3 key [])
      if !m.estimates then
        let m := { m with estimates := true }
        if m.rus.isEmpty then done_ s else issueMove (s.modBoot fun b => { b with moves := m :: l })
      else match m.rus with
        | [] => done_ s
        | r :: rs =>
          let ik := instKey r (key % 1024)
          let w := BitVec.ofNat 32 (mgetD 12 s.boot.widths ik)
          let s := modInst s ik fun i => { i with compw := w }
          let s := { s with fh := { s.fh with narrowEnd := mset ik (frameNo (stdOf s (.carrierRemove 0 0 0) key) s.devNs) s.fh.narrowEnd } }
          if rs.isEmpty then done_ s else issueMove (s.modBoot fun b => { b with moves := { m with rus := rs } :: l })

/-! ### SETTING_EFFECT (R41, R78, R88) -/

/-- Mailboxes whose waiting setting falls due at carrier `ck`'s boundary, in the order of acceptance; requests accepted at
the same time go MGT0 first, then by mailbox number (R78). -/
def dueAt (s : State) (ck : Nat) : List (Nat × MbxExec) :=
  sortBy (fun x => (x.2.at_, x.1, x.2.order)) (s.tcs.mailboxes.filter fun x =>
    match x.2.waiting with
    | some (st, k, f) => k == ck && decide (f < frameNo (stdOf s st ck) s.devNs)
    | none => false)

/-- The waiting setting of a mailbox takes effect. -/
def effectOf (s : State) (x : Nat × MbxExec) : State :=
  match x.2.waiting with
  | some (st, ck, _) =>
    let std := stdOf s st ck
    let at_ := frameStart std (frameNo std s.devNs)
    setMbx (settingRecord (applySetting s (x.1 == ownKey) st) x.2 st 0) x.1 { x.2.add 0 at_ with waiting := none }
  | none => s

/-- SETTING_EFFECT (R88). -/
def execSettingEffect (scope sindex carrier : Nat) (s : State) : Host.Outcome State Fault Refusal :=
  let ck := carrierKey scope sindex carrier
  let due := dueAt s ck
  let s := due.foldl effectOf s
  let s := moveStep s ck
  ok (progress (due.foldl (fun s x => proceed x.1 s) s))

/-! ### The settings commands -/

/-- CORRIDOR_SET, ACTION 0 (R42). -/
def execCorridorSetCreate (m : TcsMsg) (corridor margin : Nat) (rest : List Setting) (s : State) :
    Host.Outcome State Fault Refusal := settings 0x0201 m (.corridor corridor 0 margin) rest s
/-- CORRIDOR_SET, ACTION 1 (R42). -/
def execCorridorSetModify (m : TcsMsg) (corridor margin : Nat) (rest : List Setting) (s : State) :
    Host.Outcome State Fault Refusal := settings 0x0201 m (.corridor corridor 1 margin) rest s
/-- CORRIDOR_SET, ACTION 2 (R42). -/
def execCorridorSetDelete (m : TcsMsg) (corridor : Nat) (rest : List Setting) (s : State) :
    Host.Outcome State Fault Refusal := settings 0x0201 m (.corridor corridor 2 0) rest s
/-- RU_SET (R43). -/
def execRuSet (m : TcsMsg) (b : RuBody) (rest : List Setting) (s : State) :
    Host.Outcome State Fault Refusal := settings 0x0202 m (.ru b) rest s
/-- RU_REMOVE (R44). -/
def execRuRemove (m : TcsMsg) (ru : Nat) (rest : List Setting) (s : State) :
    Host.Outcome State Fault Refusal := settings 0x0203 m (.ruRemove ru) rest s
/-- CARRIER_SET (R90). -/
def execCarrierSet (m : TcsMsg) (b : CarrierBody) (rest : List Setting) (s : State) :
    Host.Outcome State Fault Refusal := settings 0x0204 m (.carrier b) rest s
/-- CARRIER_REMOVE (R44). -/
def execCarrierRemove (m : TcsMsg) (scope sindex carrier : Nat) (rest : List Setting) (s : State) :
    Host.Outcome State Fault Refusal := settings 0x0205 m (.carrierRemove scope sindex carrier) rest s
/-- CARRIER_INST_SET, ITEM 1 (R91). -/
def execCarrierInstSetTxEn (m : TcsMsg) (carrier ru : Nat) (value valueC : Word) (rest : List Setting) (s : State) :
    Host.Outcome State Fault Refusal := settings 0x0206 m (.inst carrier ru 1 value valueC) rest s
/-- CARRIER_INST_SET, ITEM 2 (R91). -/
def execCarrierInstSetPwrLimit (m : TcsMsg) (carrier ru : Nat) (value valueC : Word) (rest : List Setting) (s : State) :
    Host.Outcome State Fault Refusal := settings 0x0206 m (.inst carrier ru 2 value valueC) rest s
/-- CARRIER_INST_SET, ITEM 3 (R91). -/
def execCarrierInstSetCompw (m : TcsMsg) (carrier ru : Nat) (value valueC : Word) (rest : List Setting) (s : State) :
    Host.Outcome State Fault Refusal := settings 0x0206 m (.inst carrier ru 3 value valueC) rest s
/-- CARRIER_INST_SET, ITEM 4 (R92). -/
def execCarrierInstSetPortmaskLo (m : TcsMsg) (carrier ru : Nat) (value valueC : Word) (rest : List Setting) (s : State) :
    Host.Outcome State Fault Refusal := settings 0x0206 m (.inst carrier ru 4 value valueC) rest s
/-- CARRIER_INST_SET, ITEM 5 (R92). -/
def execCarrierInstSetPortmaskHi (m : TcsMsg) (carrier ru : Nat) (value valueC : Word) (rest : List Setting) (s : State) :
    Host.Outcome State Fault Refusal := settings 0x0206 m (.inst carrier ru 5 value valueC) rest s
/-- STATIC_CELL_SET, ACTION 0 (R45). -/
def execStaticCellSetGroup (m : TcsMsg) (corridor carrier first count : Nat) (rest : List Setting) (s : State) :
    Host.Outcome State Fault Refusal := settings 0x0207 m (.staticCell corridor 0 carrier first count) rest s
/-- STATIC_CELL_SET, ACTION 1 (R45). -/
def execStaticCellSetUngroup (m : TcsMsg) (corridor carrier first count : Nat) (rest : List Setting) (s : State) :
    Host.Outcome State Fault Refusal := settings 0x0207 m (.staticCell corridor 1 carrier first count) rest s
/-- STATION_CELL_SET, ACTION 0 (R46). -/
def execStationCellSet (m : TcsMsg) (station maxUl maxDl : Nat) (rest : List Setting) (s : State) :
    Host.Outcome State Fault Refusal := settings 0x0208 m (.stationCell station 0 maxUl maxDl) rest s
/-- STATION_CELL_SET, ACTION 1 (R46). -/
def execStationCellSetDelete (m : TcsMsg) (station : Nat) (rest : List Setting) (s : State) :
    Host.Outcome State Fault Refusal := settings 0x0208 m (.stationCell station 1 0 0) rest s

/-- NET_CONFIG_SET, ITEM 1 (R96). -/
def execNetConfigSetPortAddr (m : TcsMsg) (index : Nat) (value : List Byte) (rest : List Setting) (s : State) :
    Host.Outcome State Fault Refusal := settings 0x0112 m (.netConfig 1 index value) rest s
/-- NET_CONFIG_SET, ITEM 2 (R96). -/
def execNetConfigSetPortGw (m : TcsMsg) (index : Nat) (value : List Byte) (rest : List Setting) (s : State) :
    Host.Outcome State Fault Refusal := settings 0x0112 m (.netConfig 2 index value) rest s
/-- NET_CONFIG_SET, ITEM 3 (R96). -/
def execNetConfigSetPortVlan (m : TcsMsg) (index : Nat) (value : List Byte) (rest : List Setting) (s : State) :
    Host.Outcome State Fault Refusal := settings 0x0112 m (.netConfig 3 index value) rest s
/-- NET_CONFIG_SET, ITEM 4 (R397). -/
def execNetConfigSetPortMode (m : TcsMsg) (index : Nat) (value : List Byte) (rest : List Setting) (s : State) :
    Host.Outcome State Fault Refusal := settings 0x0112 m (.netConfig 4 index value) rest s
/-- NET_CONFIG_SET, ITEM 5 (R397). -/
def execNetConfigSetLaneTx (m : TcsMsg) (index : Nat) (value : List Byte) (rest : List Setting) (s : State) :
    Host.Outcome State Fault Refusal := settings 0x0112 m (.netConfig 5 index value) rest s
/-- NET_CONFIG_SET, ITEM 6 (R412). -/
def execNetConfigSetBhEgress (m : TcsMsg) (index : Nat) (value : List Byte) (rest : List Setting) (s : State) :
    Host.Outcome State Fault Refusal := settings 0x0112 m (.netConfig 6 index value) rest s
/-- NET_CONFIG_SET, ITEM 7 (R96). -/
def execNetConfigSetBhIngress (m : TcsMsg) (index : Nat) (value : List Byte) (rest : List Setting) (s : State) :
    Host.Outcome State Fault Refusal := settings 0x0112 m (.netConfig 7 index value) rest s
/-- NET_CONFIG_SET, ITEM 8 (R457). -/
def execNetConfigSetSpur (m : TcsMsg) (index : Nat) (value : List Byte) (rest : List Setting) (s : State) :
    Host.Outcome State Fault Refusal := settings 0x0112 m (.netConfig 8 index value) rest s
/-- NET_CONFIG_SET, ITEM 9 (R515). -/
def execNetConfigSetWake (m : TcsMsg) (value : List Byte) (rest : List Setting) (s : State) :
    Host.Outcome State Fault Refusal := settings 0x0112 m (.netConfig 9 0 value) rest s
/-- NET_CONFIG_SET, ITEM 10 (R533). -/
def execNetConfigSetParisonRu (m : TcsMsg) (entry : Nat) (value : List Byte) (rest : List Setting) (s : State) :
    Host.Outcome State Fault Refusal := settings 0x0112 m (.netConfig 10 entry value) rest s

/-- A TIME_CONFIG setting (R447). -/
def timeSetting (m : TcsMsg) (item index : Nat) (value : DWord) (rest : List Setting) (s : State) :
    Host.Outcome State Fault Refusal := settings 0x0402 m (.timeConfig item index value) rest s

/-- TIME_CONFIG, ITEM 1 (R447). -/
def execTimeConfigProfile (m : TcsMsg) (value : DWord) (rest : List Setting) (s : State) :
    Host.Outcome State Fault Refusal := timeSetting m 1 0 value rest s
/-- TIME_CONFIG, ITEM 2 (R447). -/
def execTimeConfigDomain (m : TcsMsg) (value : DWord) (rest : List Setting) (s : State) :
    Host.Outcome State Fault Refusal := timeSetting m 2 0 value rest s
/-- TIME_CONFIG, ITEM 3 (R444). -/
def execTimeConfigRole (m : TcsMsg) (iot port : Nat) (value : DWord) (rest : List Setting) (s : State) :
    Host.Outcome State Fault Refusal := timeSetting m 3 (iot * 256 + port) value rest s
/-- TIME_CONFIG, ITEM 4 (R437). -/
def execTimeConfigJumpLimit (m : TcsMsg) (value : DWord) (rest : List Setting) (s : State) :
    Host.Outcome State Fault Refusal := timeSetting m 4 0 value rest s
/-- TIME_CONFIG, ITEM 5 (R447). -/
def execTimeConfigAsym (m : TcsMsg) (iot port : Nat) (value : DWord) (rest : List Setting) (s : State) :
    Host.Outcome State Fault Refusal := timeSetting m 5 (iot * 256 + port) value rest s
/-- TIME_CONFIG, ITEM 6 (R447). -/
def execTimeConfigLprio (m : TcsMsg) (iot port : Nat) (value : DWord) (rest : List Setting) (s : State) :
    Host.Outcome State Fault Refusal := timeSetting m 6 (iot * 256 + port) value rest s
/-- TIME_CONFIG, ITEM 7 (R436). -/
def execTimeConfigServoBw (m : TcsMsg) (value : DWord) (rest : List Setting) (s : State) :
    Host.Outcome State Fault Refusal := timeSetting m 7 0 value rest s
/-- TIME_CONFIG, ITEM 8 (R436). -/
def execTimeConfigSlewMax (m : TcsMsg) (value : DWord) (rest : List Setting) (s : State) :
    Host.Outcome State Fault Refusal := timeSetting m 8 0 value rest s
/-- TIME_CONFIG, ITEM 9 (R446). -/
def execTimeConfigSyncePrio (m : TcsMsg) (iot port : Nat) (value : DWord) (rest : List Setting) (s : State) :
    Host.Outcome State Fault Refusal := timeSetting m 9 (iot * 256 + port) value rest s
/-- TIME_CONFIG, ITEM 10 (R452). -/
def execTimeConfigHoldover (m : TcsMsg) (value : DWord) (rest : List Setting) (s : State) :
    Host.Outcome State Fault Refusal := timeSetting m 10 0 value rest s
/-- TIME_CONFIG, ITEM 11 (R445). -/
def execTimeConfigGmTod (m : TcsMsg) (value : DWord) (rest : List Setting) (s : State) :
    Host.Outcome State Fault Refusal := timeSetting m 11 0 value rest s
/-- TIME_CONFIG, ITEM 12 (R447). -/
def execTimeConfigPpsOut (m : TcsMsg) (value : DWord) (rest : List Setting) (s : State) :
    Host.Outcome State Fault Refusal := timeSetting m 12 0 value rest s

/-! ### Rate shortfall of a spur port (R37) -/

/-- Active instances of an RU with their carriers' standards. -/
def activeInsts (s : State) (ru : Nat) : List (Nat × Inst × Nat) :=
  match mget ru s.cor.rus with
  | none => []
  | some r => (instsOn s ru).filterMap fun x =>
      if x.2.st == .suspended then none
      else (mget (r.carrier x.1) s.cor.carriers).map fun c => (x.1, x.2, c.std)

/-- An LTE or NR instance whose width can still be lowered. -/
def lowerable (x : Nat × Inst × Nat) : Bool := x.2.2 != 0 && decide (8 < x.2.1.compw.toNat)

/-- The RU's path is a spur port whose net rate its load exceeds. -/
def shortOf (s : State) (ru : Nat) : Bool :=
  match mget ru s.cor.rus with
  | some r => r.path == 2 && !portFits s r.pkey
  | none => false

/-- Once the load fits, or nothing is left, the suspended instances are reported (R37). -/
def reportShortfall (s : State) (ru : Nat) : State :=
  let l := (s.cor.shortfall.filter fun x => x.1 == ru).map Prod.snd
  if (shortOf s ru && !(activeInsts s ru).isEmpty) || l.isEmpty then s
  else (s.modCor fun c => { c with shortfall := c.shortfall.filter fun x => x.1 != ru }).raise 0x0020 2 ru
    (leBytes 2 ru ++ leBytes 2 l.length ++ l.flatMap (leBytes 2))

/-- The instance to suspend next: reverse admission order, GSM-R last (R37, R466). -/
def nextToDrop (l : List (Nat × Inst × Nat)) : Option Nat :=
  (leastBy (fun x => (if x.2.2 = 0 then 1 else 0, 1000000000000 - x.2.1.order, 0)) l).map Prod.fst

/-- Instances by the order in which they are dropped: reverse admission, GSM-R last (R37, R466). -/
def dropOrder (l : List (Nat × Inst × Nat)) : List Nat :=
  (sortBy (fun x => (if x.2.2 = 0 then 1 else 0, 1000000000000 - x.2.1.order, 0)) l).map Prod.fst

/-- The fewest instances of a drop order whose loads, taken away, leave a load that fits: 11 times the load against
10 times the rate (R35, R466). -/
def shedSet (fits : Nat → Bool) : List (Nat × Nat) → Nat → List Nat
  | [], _ => []
  | (c, n) :: l, load => if fits load then [] else c :: shedSet fits l (load - n)

/-- SHED and the instance states of a spur port: while the load exceeds the net rate the fewest instances are shed;
at a frame boundary at which it fits shedding stops (R466). -/
def reshed (s : State) (ru : Nat) (boundary : Bool) : State :=
  match mget ru s.cor.rus with
  | none => s
  | some r =>
    if r.path ≠ 2 then s
    else
      let load (x : Nat × Inst × Nat) : Nat :=
        match mget (r.carrier x.1) s.cor.carriers with | some c => instLoad r.path c x.2.1 | none => 0
      let act := activeInsts s ru
      let one (c : Nat) : Nat × Nat := (c, ((act.filter fun x => x.1 == c).map load).foldl (· + ·) 0)
      let set := shedSet (fun n => decide (n * 11 ≤ portRate s r.pkey * 10000000)) ((dropOrder act).map one) (ruLoad s ru)
      if set.isEmpty && !boundary then s
      else
        let upd (m : Nat × Inst) : Nat × Inst :=
          if m.1 / 1024 == ru && m.2.st != .suspended then
            (m.1, { m.2 with st := if set.contains (m.1 % 1024) then .shed else .active })
          else m
        (s.modCor fun c => { c with insts := c.insts.map upd }).setField (R.SPUR_STAT (r.link % 4)) 25 25 (b2n (!set.isEmpty))

/-- A frame of the instance's carrier has begun since the times `l` (R37). -/
def frameSince (s : State) (ru carrier : Nat) (l : List (Option Nat)) : Bool :=
  match instCarrier s ru carrier with
  | some c => l.all fun t => match t with
    | some t => decide (frameNo c.std t < frameNo c.std s.devNs)
    | none => true
  | none => false

/-- A shortfall changes an instance now (R37). -/
def stampShort (s : State) (ru carrier : Nat) : State :=
  s.modCor fun c => { c with lowered := mset (instKey ru carrier) s.devNs c.lowered }

/-- COMPRESSION_WIDTH_LOWER (R37): one bit less at a frame boundary of the carrier after the retrain and after the bit
before, while the load exceeds the net rate. -/
def execCompressionWidthLower (ru carrier : Nat) (s : State) : Host.Outcome State Fault Refusal :=
  if shortOf s ru && (activeInsts s ru).any (fun x => x.1 == carrier && lowerable x)
      && frameSince s ru carrier [mget ru s.cor.retrained, mget (instKey ru carrier) s.cor.lowered] then
    let s := stampShort s ru carrier
    ok (reportShortfall (reshed (modInst s (instKey ru carrier) fun i => { i with compw := i.compw - 1#32 }) ru true) ru)
  else ok s

/-- CARRIER_INSTANCE_SUSPEND (R37): with every width at its least, the next instance is suspended, at a frame boundary of
its carrier after the retrain and after the RU's last change (log entry 108). -/
def execCarrierInstanceSuspend (ru carrier : Nat) (s : State) : Host.Outcome State Fault Refusal :=
  let l := activeInsts s ru
  if shortOf s ru && !l.any lowerable && nextToDrop l == some carrier
      && frameSince s ru carrier (mget ru s.cor.retrained :: (instsOn s ru).map fun x => mget (instKey ru x.1) s.cor.lowered) then
    let s := stampShort s ru carrier
    let s := modInst s (instKey ru carrier) fun i => { i with st := .suspended }
    ok (reportShortfall (reshed (s.modCor fun c => { c with shortfall := c.shortfall ++ [(ru, carrier)] }) ru true) ru)
  else ok s

end Sys2Proof.Machine
end

