-- ==== Sys2Proof/Machine/ConfigRead.lean ====
section
/-! DEFINITION. CONFIG_READ (R48): the objects of the configuration as a requester reads them. -/

namespace Sys2Proof.Machine

/-- A value and its complement (R86). -/
def pairBytes (v : Word) : List Byte := leBytes 4 v.toNat ++ leBytes 4 (~~~v).toNat

/-- RU_SET body of an RU (R43). -/
def ruBytes (n : Nat) (r : Ru) : List Byte :=
  leBytes 2 n ++ leBytes 1 (b2n r.station) ++ leBytes 1 r.sindex ++ leBytes 1 r.ports ++ leBytes 1 r.path
    ++ leBytes 1 r.link ++ leBytes 1 0 ++ leBytes 2 r.flowid ++ leBytes 2 r.vlan ++ leBytes 6 r.mac
    ++ leBytes 2 r.txproc ++ pairBytes r.chainage ++ leBytes 4 0

/-- CARRIER_SET body of a carrier (R90). -/
def carrierBytes (key : Nat) (c : Carrier) : List Byte :=
  leBytes 1 (key / 16384) ++ leBytes 1 (key / 1024 % 16) ++ leBytes 2 (key % 1024) ++ leBytes 1 c.std
    ++ leBytes 1 c.scs ++ leBytes 2 c.bw ++ leBytes 1 c.duplex ++ leBytes 3 0 ++ pairBytes c.dl ++ pairBytes c.ul

/-- STATE of an instance (R48). -/
def instStateCode : InstState → Nat
  | .active => 0 | .suspended => 1 | .shed => 2

/-- RXWIN_US of an instance: that of its RU's IOT (R111). -/
def instRxWin (s : State) (ru : Nat) : Nat :=
  match mget ru s.cor.rus with
  | some r => s.field (R.ETH_FH_RXWIN (r.pkey / 16)) 15 0
  | none => 0

/-- Carrier instance record (R48). -/
def instBytes (s : State) (carrier ru : Nat) (i : Inst) : List Byte :=
  leBytes 2 carrier ++ leBytes 2 ru ++ leBytes 1 (instStateCode i.st) ++ leBytes 1 0
    ++ leBytes 2 ((cellOf s ru carrier).getD 0xFFFF) ++ pairBytes i.txEn ++ pairBytes i.pwrLimit ++ pairBytes i.compw
    ++ pairBytes i.maskLo ++ pairBytes i.maskHi ++ leBytes 2 i.ingressQid ++ leBytes 2 i.freeQid
    ++ leBytes 2 i.egressQid ++ leBytes 2 (instRxWin s ru) ++ leBytes 4 (((s.egq i.egressQid).map EgQueue.dlAdv).getD 0) ++ leBytes 4 0

/-- PEER_SET body of a peer entry (R47). -/
def peerBytes (b : PeerBody) : List Byte :=
  leBytes 1 b.corridor ++ leBytes 1 b.endHi ++ leBytes 1 0 ++ leBytes 1 b.peerCorridor ++ leBytes 1 b.iot
    ++ leBytes 1 b.port ++ leBytes 1 b.afamily ++ leBytes 1 0 ++ fitBytes 16 b.addr ++ leBytes 2 b.importQid
    ++ leBytes 6 0 ++ leBytes 8 b.l2Area ++ leBytes 4 b.l2Size ++ leBytes 4 0 ++ fitBytes 32 b.peerId

/-- State code of a peer session (R48). -/
def peerStCode : PeerSt → Nat
  | .none => 0 | .opening => 1 | .live => 2

/-- Bytes 0 to 9 of the BH_EGRESS value of a bound queue (R96). -/
def bhEgressBytes (s : State) (qid : Nat) (x : EgQueue) : List Byte :=
  leBytes 1 x.tier ++ leBytes 1 (b2n x.timed) ++ leBytes 1 x.pcp ++ leBytes 1 (b2n x.sampling) ++ leBytes 1 x.swin
    ++ leBytes 1 (s.queue qid).depth ++ leBytes 2 0 ++ leBytes 2 x.weight

/-- Backhaul queues of a port (R48). -/
def bhBytes (s : State) (k p : Nat) : List Byte :=
  let eg := s.eg.bound.filter fun x => x.2.iot == k && x.2.port == p && x.2.binding.isNone && x.2.en
  (List.range 8).flatMap (fun c => leBytes 2 (mgetD 0xFFFF s.dsq.bhIngress ((k * 4 + p) * 8 + c)))
    ++ leBytes 2 eg.length ++ leBytes 2 0 ++ eg.flatMap fun x => leBytes 2 x.1 ++ bhEgressBytes s x.1 x.2

/-- The object CONFIG_READ returns after its header, with its count of pairs; none where it does not exist. -/
def configObject (s : State) (what index index2 : Nat) : Option (List Byte × Nat) :=
  match what with
  | 0 => (mget index s.cor.corridors).map fun margin =>
      let l := (corridorRus s index).map Prod.fst
      (leBytes 1 index ++ leBytes 3 0 ++ leBytes 4 margin ++ leBytes 8 0 ++ leBytes 2 l.length ++ leBytes 2 0
        ++ l.flatMap (leBytes 2), 0)
  | 1 => (mget index s.cor.rus).map fun r =>
      let l := (instsOn s index).map Prod.fst
      (ruBytes index r ++ leBytes 1 (ruPos s index) ++ leBytes 1 l.length ++ leBytes 2 0 ++ l.flatMap (leBytes 2), 1)
  | 2 =>
    let key := carrierKey (index2 / 256) (index2 % 256) index
    if index2 % 256 < 16 ∧ index < 1024 then (mget key s.cor.carriers).map fun c => (carrierBytes key c, 2) else none
  | 3 => if index < 1024 then (mget (instKey index2 index) s.cor.insts).map fun i => (instBytes s index index2 i, 5)
         else none
  | 4 => (mget index s.cor.statics).map fun c =>
      (leBytes 1 c.corridor ++ leBytes 1 0 ++ leBytes 2 c.carrier ++ leBytes 1 (ruPos s (c.rus.headD 0))
        ++ leBytes 1 c.rus.length ++ leBytes 2 0, 0)
  | 5 => (mget index s.cor.stations).map fun c =>
      (leBytes 1 index ++ leBytes 1 0 ++ leBytes 1 c.maxUl ++ leBytes 1 c.maxDl ++ leBytes 4 0
        ++ (stationRus s index).flatMap fun x => leBytes 2 x.1, 0)
  | 6 => if index < 8 ∧ index2 < 2 then (s.peer (index * 2 + index2)).map fun p =>
      (peerBytes p.cfg ++ leBytes 1 (peerStCode p.st) ++ leBytes 3 0, 0) else none
  | 7 => (mget (netKey index index2) s.tcs.netStored).map fun v =>
      (leBytes 2 index ++ leBytes 2 index2 ++ leBytes 4 0 ++ fitBytes 24 v
        ++ leBytes 1 (b2n (mget (netKey index index2) s.tcs.netRunning == some v)) ++ leBytes 3 0, 0)
  | 8 => if index < 32 && iotPresent s.part (index / 4) then some (bhBytes s (index / 4) (index % 4), 0) else none
  | _ => none

/-- CONFIG_READ (R48). -/
def execConfigRead (m : TcsMsg) (what index index2 : Nat) (s : State) : Host.Outcome State Fault Refusal :=
  ok (serve { opcode := 0x0220, onchip := true } m 0 (fun s =>
    match configObject s what index index2 with
    | some x => { st := .ok, crit := x.2, state := s,
                  payload := leBytes 1 what ++ leBytes 1 0 ++ leBytes 2 index ++ leBytes 2 index2 ++ leBytes 2 0 ++ x.1 }
    | none => refuse .badArg s) s)

end Sys2Proof.Machine
end

