-- ==== Sys2Proof/Machine/Sessions.lean ====
section
/-! DEFINITION. Sessions (R68 to R71), semaphores (R79 to R83), EVENT_FETCH (R98), DEV_INFO (R95), counters (R97) and
the on-chip mailbox registers (R100 to R103). How a session ends is in Abort.lean. Assumption log: 32 (DESIGN CHOICE),
33 (DEDUCED), 34 (DEDUCED), 111 (DESIGN CHOICE). -/

namespace Sys2Proof.Machine

/-! ### SESSION_HELLO and SESSION_CONFIRM (R68, R71) -/

/-- The answer to a SESSION_HELLO: SESSION 0 and a zero tag (R65). -/
def helloAnswer (m : TcsMsg) (st : Status) (payload : List Byte) (s : State) : State :=
  s.send { response s 0x0101 m st.code 0 payload with session := 0#32, key := none }

/-- The state of host key slot `n`. -/
def hostKey (s : State) (n : Nat) : KeySt :=
  match mget n s.boot.keys with
  | some k => k.st
  | none => .empty

/-- A host slot is enrolled. -/
def anyHostKey (s : State) : Bool := (List.range 8).any fun n => hostKey s n == .enrolled

/-- SESSION_HELLO at a port without a session (R71). -/
def helloNone (m : TcsMsg) (p slot : Nat) (hostNonce encKey : List Byte) (s : State) : State :=
  if 7 < slot ∧ slot ≠ 0xFF then helloAnswer m .badArg [] s
  else if (slot = 0xFF ∧ anyHostKey s = true) ∨ (slot < 8 ∧ hostKey s slot ≠ .enrolled) then helloAnswer m .authFail [] s
  else
    let n := s.tcs.nextSession
    let id := Config.sessionId n
    let s := { s with tcs := { s.tcs with nextSession := n + 1 } }
    let ek := fitBytes 1184 encKey
    let key := sessionKey "TCS-SESSION" (Config.kemSecret ek n) (fitBytes 32 hostNonce) (fitBytes 32 (Config.nonce n)) id
    let s := s.setSess p { Session.none with st := .pending, id := id, slot := slot, key := key,
                                             pendingAt := s.now, lastAuth := s.now, src := m.src, form := m.form }
    let body := fitBytes 1088 (Config.kemCiphertext ek n) ++ fitBytes 32 (Config.nonce n) ++ leBytes 4 id.toNat
    let hello := fitBytes 32 hostNonce ++ leBytes 1 slot ++ leBytes 3 0 ++ ek
    helloAnswer m .ok (body ++ fitBytes 2420 (Config.sign (Config.sha3 (hello ++ body)))) s

/-- SESSION_CONFIRM at a PENDING session (R71). -/
def confirmPending (m : TcsMsg) (p : Nat) (sigOk : Bool) (s : State) : State :=
  let x := s.sess p
  if sigOk then
    let s := s.setSess p { x with st := .live, highSeq := m.seq.toNat, lastAuth := s.now, src := m.src, form := m.form }
    s.respond 0x0102 m .ok
  else
    let r := response s 0x0102 m Status.authFail.code 0 []
    (s.setSess p Session.none).send r

/-- The pending session of port `p` is the one `m` names, and its 2 s timer runs. -/
def pendingFor (s : State) (p : Nat) (m : TcsMsg) : Bool :=
  (s.sess p).st == .pending && (s.sess p).id == m.session && decide (s.now < (s.sess p).pendingAt + 2000000000)

/-- SESSION_CONFIRM (R66, R71). -/
def execSessionConfirm (m : TcsMsg) (sigOk : Bool) (s : State) : Host.Outcome State Fault Refusal :=
  match m.via with
  | .mgt p =>
    if !gafferUp s || !formOk s p.val m then ok s
    else match framing m with
      | some n => ok (s.stat p.val n)
      | none =>
        if pendingFor s p.val m then
          if !tagGood (rxKey s m) 0x0102 0 m then ok (s.stat p.val 3)
          else if m.mbx = 15 then ok (s.stat p.val 5)
          else if m.mbx ≠ 0 ∨ m.crit ≠ 0 then ok (s.respond 0x0102 m .badArg)
          else if s.devState = 3 then ok (s.respond 0x0102 m .busy)
          else if expired s m then ok (s.respond 0x0102 m .timeout)
          else ok (confirmPending m p.val sigOk s)
        else ok (serve { opcode := 0x0102, zero := true } m 0 (refuse .badState) s)
  | _ => ok (serve { opcode := 0x0102, zero := true } m 0 (refuse .badState) s)

/-- KEEPALIVE (R70). -/
def execKeepalive (m : TcsMsg) (s : State) : Host.Outcome State Fault Refusal :=
  ok (serve { opcode := 0x0104, zero := true } m 0 (refuse .ok) s)

/-- SESSION_PENDING_TIMEOUT (R71). -/
def execSessionPendingTimeout (port : Fin 2) (s : State) : Host.Outcome State Fault Refusal :=
  let x := s.sess port.val
  if x.st == .pending && decide (x.pendingAt + 2000000000 ≤ s.now) then ok (s.setSess port.val Session.none) else ok s

/-! ### EVENT_FETCH (R98) -/

/-- An event as a session reads it: a placeholder with the event's time where it was addressed to another session alone
(LEASE_EXPIRED, LEASE_BROKEN and SESSION_ENDED), else the event. -/
def fetched (id : Word) (e : EventRec) : Nat × List Byte :=
  (e.evseq, if e.sentTo.contains id || !(e.code == 1 || e.code == 2 || e.code == 3) then eventPayload e
            else eventPayload { e with code := 0, severity := 0, objKind := 0, objIndex := 0, detail := [] })

/-- As many of the blocks as fit into `n` bytes. -/
def fitting : Nat → List (List Byte) → List (List Byte)
  | _, [] => []
  | n, b :: l => if b.length ≤ n then b :: fitting (n - b.length) l else []

/-- The answer of EVENT_FETCH: the events held from `start` on, or the lowest EVSEQ held. -/
def fetchPayload (s : State) (id : Word) (start count : Nat) : List Byte :=
  let held := (s.tcs.events.filter fun e => decide (start ≤ e.evseq)).take count
  match s.tcs.events with
  | e :: _ => if start < e.evseq then Config.fetchList (some e.evseq) [] else Config.fetchList none (held.map (fetched id))
  | [] => Config.fetchList none []

/-- EVENT_FETCH (R98). -/
def execEventFetch (m : TcsMsg) (start count : Nat) (s : State) : Host.Outcome State Fault Refusal :=
  ok (serve { opcode := 0x0106, zero := true } m 0 (fun s =>
    if 1 ≤ count ∧ count ≤ 128 then { st := .ok, payload := fetchPayload s m.session start count, state := s }
    else refuse .badArg s) s)

/-! ### Semaphores (R79 to R83) -/

/-- Semaphore `n` is freed when its lease has run out, and its session is told (R83). -/
def lapse (n : Nat) (s : State) : State :=
  match mget n s.tcs.sems with
  | some x =>
    if x.leaseEnd ≤ s.now then
      ({ s with tcs := { s.tcs with sems := mdel n s.tcs.sems } }).raiseTo [x.session] 0x0001 7 n []
    else s
  | none => s

/-- LEASE_EXPIRED (R83). -/
def execLeaseExpired (sem : Nat) (s : State) : Host.Outcome State Fault Refusal := ok (lapse sem s)

/-- The port of a message. -/
def portOf (m : TcsMsg) : Nat := match m.via with | .mgt p => p.val | _ => 0

/-- LEASE_MS in effect: 0 selects 30,000; none outside 1,000 to 300,000 (R80). -/
def leaseOf (ms : Nat) : Option Nat :=
  if ms = 0 then some 30000 else if 1000 ≤ ms ∧ ms ≤ 300000 then some ms else none

/-- Grant or renew semaphore `n`. -/
def grant (m : TcsMsg) (n ms : Nat) (s : State) : State :=
  { s with tcs := { s.tcs with
      sems := mset n { port := portOf m, session := m.session, leaseEnd := s.now + ms * 1000000 } s.tcs.sems } }

/-- PORT and REMAIN_MS of a semaphore (R80). -/
def semPayload (s : State) (n : Nat) : List Byte :=
  match mget n s.tcs.sems with
  | some x => leBytes 1 x.port ++ leBytes 3 0 ++ leBytes 4 ((x.leaseEnd - s.now) / 1000000)
  | none => leBytes 8 0

/-- Answer with the holder. -/
def semReply (st : Status) (n : Nat) (s : State) : Reply := { st := st, payload := semPayload s n, state := s }

/-- Serve a semaphore command on mailbox 0; a SEM above 63 is refused, and a lapsed lease is freed first. -/
def semOp (opcode : Nat) (m : TcsMsg) (sem : Nat) (act : State → Reply) (s : State) : Host.Outcome State Fault Refusal :=
  ok (serve { opcode := opcode, zero := true } m 0 (fun s => if 63 < sem then refuse .badArg s else act (lapse sem s)) s)

/-- SEM_ACQUIRE (R80). -/
def execSemAcquire (m : TcsMsg) (sem leaseMs : Nat) (s : State) : Host.Outcome State Fault Refusal :=
  semOp 0x0A01 m sem (fun s =>
    match leaseOf leaseMs with
    | none => refuse .badArg s
    | some ms =>
      if mhas s.tcs.sems sem && !holdsSem s m sem then semReply .busy sem s
      else semReply .ok sem (grant m sem ms s)) s

/-- SEM_RENEW (R80). -/
def execSemRenew (m : TcsMsg) (sem leaseMs : Nat) (s : State) : Host.Outcome State Fault Refusal :=
  semOp 0x0A02 m sem (fun s =>
    match leaseOf leaseMs with
    | none => refuse .badArg s
    | some ms => if holdsSem s m sem then semReply .ok sem (grant m sem ms s) else refuse .notOwner s) s

/-- SEM_RELEASE (R80). -/
def execSemRelease (m : TcsMsg) (sem : Nat) (s : State) : Host.Outcome State Fault Refusal :=
  semOp 0x0A03 m sem (fun s =>
    if holdsSem s m sem then refuse .ok { s with tcs := { s.tcs with sems := mdel sem s.tcs.sems } }
    else refuse .notOwner s) s

/-- One entry of SEM_QUERY. -/
def semEntry (s : State) (n : Nat) : List Byte :=
  match mget n s.tcs.sems with
  | some x =>
    if s.now < x.leaseEnd then
      leBytes 1 n ++ leBytes 1 1 ++ leBytes 1 x.port ++ leBytes 1 0 ++ leBytes 4 ((x.leaseEnd - s.now) / 1000000)
    else leBytes 1 n ++ leBytes 7 0
  | none => leBytes 1 n ++ leBytes 7 0

/-- SEM_QUERY (R80). -/
def execSemQuery (m : TcsMsg) (mask : DWord) (s : State) : Host.Outcome State Fault Refusal :=
  ok (serve { opcode := 0x0A04, zero := true } m 0 (fun s =>
    { st := .ok, payload := (setBits mask.toNat 64).flatMap (semEntry s), state := s }) s)

/-- SEM_BREAK (R82). -/
def execSemBreak (m : TcsMsg) (sem : Nat) (s : State) : Host.Outcome State Fault Refusal :=
  semOp 0x0A05 m sem (fun s =>
    match mget sem s.tcs.sems with
    | none => semReply .ok sem (grant m sem 30000 s)
    | some x =>
      if holdsSem s m sem then semReply .ok sem (grant m sem 30000 s)
      else if s.now < (s.sess x.port).lastAuth + 5000000000 then semReply .busy sem s
      else semReply .ok sem ((grant m sem 30000 s).raiseTo [x.session] 0x0002 7 sem [])) s

/-! ### DEV_INFO (R95) and reserved opcodes (R93) -/

/-- DEV_ID (R6): stepping B0. -/
def devIdWord (p : Part) : Nat := partNumber p * 2 ^ 16 + 2 ^ 12

/-- DEV_QMASK (R6). -/
def qmaskWord (p : Part) : Nat := (if p = .fa960 then 16 else 0) + qmask p

/-- The response of DEV_INFO. -/
def devInfoBytes (s : State) : List Byte :=
  let b := s.boot
  let slot := if b.recovery then 0xFF else b.bootedSlot.getD 0xFF
  leBytes 4 (devIdWord s.part) ++ leBytes 4 (qmaskWord s.part)
    ++ leBytes 1 (if b.recovery then 0xFF else s.devState) ++ leBytes 1 slot ++ leBytes 2 b.svMin ++ leBytes 4 b.gver
    ++ leBytes 4 b.hver ++ leBytes 4 b.boots ++ leBytes 8 s.devNs ++ fitBytes 32 (Config.sha3 Config.identityKey)
    ++ leBytes 2 b.cert.length ++ leBytes 2 0 ++ b.cert

/-- DEV_INFO (R95). -/
def execDevInfo (m : TcsMsg) (s : State) : Host.Outcome State Fault Refusal :=
  ok (serve { opcode := 0x0110, onchip := true } m 0 (fun s => { st := .ok, payload := devInfoBytes s, state := s }) s)

/-- The opcodes R93 lists. -/
def listedOpcode (o : Nat) : Bool :=
  [0x0101, 0x0102, 0x0103, 0x0104, 0x0105, 0x0106, 0x0110, 0x0112, 0x0201, 0x0202, 0x0203, 0x0204, 0x0205, 0x0206,
   0x0207, 0x0208, 0x0209, 0x0220, 0x0301, 0x0302, 0x0303, 0x0304, 0x0305, 0x0306, 0x0307, 0x0308, 0x0309, 0x0310,
   0x0311, 0x0312, 0x0401, 0x0402, 0x0404, 0x0501, 0x0502, 0x0504, 0x0601, 0x0602, 0x0701, 0x0702, 0x0703,
   0x0704].contains o ||
  [0x0801, 0x0802, 0x0803, 0x0804, 0x0805, 0x0901, 0x0902, 0x0A01, 0x0A02, 0x0A03, 0x0A04, 0x0A05, 0x0B01, 0x0B02,
   0x0B03, 0x0B04].contains o

/-- RESERVED_OPCODE (R93): a reserved opcode returns BAD_ARG. -/
def execReservedOpcode (m : TcsMsg) (opcode : Nat) (s : State) : Host.Outcome State Fault Refusal :=
  if listedOpcode opcode then ok s
  else ok (serve { opcode := opcode, zero := m.mbx == 0, onchip := opcode / 256 != 1 && opcode / 256 != 10 } m m.crit
    (refuse .badArg) s)

/-! ### Counters (R97) -/

/-- The counters of a group: offset in the block, 64-bit, and RC. DSQ_MAX_LAT is a maximum and no counter. -/
def counterList : Nat → List (Nat × Bool × Bool)
  | 1 => [0x100, 0x104, 0x108, 0x10C, 0x110, 0x114, 0x218].map fun o => (o, false, true)
  | 2 => [0x10, 0x14].map (fun o => (o, false, true)) ++ [0x18, 0x20, 0x28, 0x30, 0x38].map (fun o => (o, true, false))
         ++ [0x40, 0x44, 0x48, 0x4C, 0x50].map fun o => (o, false, true)
  | 3 => [(0x20, true, false), (0x28, true, false), (0x30, false, true)]
  | 4 => [0x804, 0x808, 0x80C, 0x810, 0x814, 0x818].map fun o => (o, false, true)
  | 5 => [0x50, 0x54, 0x58, 0x5C, 0x60].map fun o => (o, false, true)
  | 6 => [0x18, 0x1C, 0x20].map fun o => (o, false, true)
  | 7 => [(0x20, true, false), (0x28, true, false)] ++ [0x30, 0x34, 0x38, 0x3C, 0x40].map fun o => (o, false, true)
  | 8 => [0x40, 0x44, 0x48, 0x4C, 0x50, 0x54, 0x58, 0x5C, 0x60].map fun o => (o, false, true)
  | 9 => [0x8, 0xC, 0x10, 0x14, 0x18, 0x1C].map fun o => (o, false, false)
  | 10 => [0x8, 0xC, 0x10, 0x14, 0x18].map fun o => (o, false, false)
  | 11 => [0x10, 0x14, 0x18, 0x1C, 0x20].map fun o => (o, false, true)
  | 12 => [(0x10, true, false)] ++ [0x18, 0x1C, 0x20, 0x24, 0x28, 0x40].map fun o => (o, false, true)
  | 13 => [0x10, 0x14, 0x18, 0x1C, 0x20].map fun o => (o, false, true)
  | 14 => [(0x2C, false, true), (0x68, true, false)]
  | _ => []

/-- The base address of the block a GROUP and INDEX name; none where no present block is named (R97). -/
def counterBlock (s : State) (group index : Nat) : Option Nat :=
  let p := s.part
  let port (k l : Nat) : Bool := iotPresent p k && (decide (l < 4) || (l == 4 && decide (k < 2)))
  match group with
  | 1 => if index < 4 && quadPresent p index then some (dsqBase index) else none
  | 2 => if port (index / 8) (index % 8) then some (ethBase (index / 8) (index % 8)) else none
  | 3 => if port (index / 8) (index % 8) then some (sdBase (index / 8) (index % 8)) else none
  | 4 => if index < 8 && iotPresent p index then some (typeBase (iotTile index)) else none
  | 5 => if index < 8 && iotPresent p index then some (wfqBase index) else none
  | 6 => if port (index / 8) (index % 8) then some (ptpBase (index / 8) (index % 8)) else none
  | 7 => if index < 4 then some (spurBase index) else none
  | 8 => if tilePresent p index then some (injBase index) else none
  | 9 => if tilePresent p index then some (eccBase index) else none
  | 10 => if tilePresent p index && tileKindOf index == .mem then some (typeBase index) else none
  | 11 => if (accKind p index).isSome then some (typeBase index) else none
  | 12 => if index = 0 then some nvsBase else none
  | 13 => if index < 4 && quadPresent p index then some (fabBase index) else none
  | 14 => let t := index / 16
          if tilePresent p t && (match tileKindOf t with | .ctlG | .ctlH | .dsq _ => false | _ => true)
          then some (dmaBase t + 0x80 * (index % 16)) else none
  | _ => none

/-- One entry of the response. -/
def counterEntry (s : State) (base : Nat) (c : Nat × Bool × Bool) : List Byte :=
  let a := base + c.1
  let v := if c.2.2 then mgetD 0 s.tcs.totals a
           else if c.2.1 then (s.reg64 a).toNat else (s.reg a).toNat
  leBytes 4 c.1 ++ leBytes 4 0 ++ leBytes 8 v

/-- The counter group a register belongs to, and its offset within its block as R97 counts it. -/
def counterGroup : Block → Nat → Nat × Nat
  | .dsq _, o => (1, o) | .eth _ _, o => (2, o) | .sd _ _, o => (3, o) | .fh _, o => (4, o) | .wfq _, o => (5, o)
  | .ptp _ _, o => (6, o) | .spur _, o => (7, o) | .inj _, o => (8, o) | .ecc _, o => (9, o) | .memc _, o => (10, o)
  | .acc _, o => (11, o) | .nvs, o => (12, o) | .fab _, o => (13, o)
  | .dma _, o => if o < 0x800 then (14, o % 0x80) else (0, o)
  | _, o => (0, o)

/-- The register word at `a` is an RC counter of group `g` (R97). -/
def rcOfGroup (s : State) (g a : Nat) : Bool :=
  match placeOf s.part a with
  | .regs b off => (counterGroup b off).1 == g && (counterList g).any fun c => c.1 == (counterGroup b off).2 && c.2.2
  | _ => false

/-- Clear the totals of a group (R97). -/
def clearTotals (g : Nat) (s : State) : State :=
  { s with tcs := { s.tcs with totals := s.tcs.totals.filter fun x => !rcOfGroup s g x.1 } }

/-- COUNTERS_READ (R97). -/
def execCountersRead (m : TcsMsg) (group clear index : Nat) (s : State) : Host.Outcome State Fault Refusal :=
  ok (serve { opcode := 0x0802, onchip := true } m 0 (fun s =>
    let head (n : Nat) := leBytes 1 group ++ leBytes 1 clear ++ leBytes 2 index ++ leBytes 2 n ++ leBytes 2 0
    if 1 < clear then refuse .badArg s
    else if group = 0 then
      if 2 ≤ index then refuse .badArg s else
      let vals := (List.range 6).flatMap fun n => leBytes 4 n ++ leBytes 4 0 ++ leBytes 8 (mgetD 0 s.tcs.stats (index * 8 + n))
      let st := if clear = 1 then [] else s.tcs.stats
      { st := .ok, payload := head 6 ++ vals, state := { s with tcs := { s.tcs with stats := st } } }
    else match counterBlock s group index with
      | none => refuse .badArg s
      | some base =>
        let l := counterList group
        { st := .ok, payload := head l.length ++ l.flatMap (counterEntry s base),
          state := if clear = 1 then clearTotals group s else s }) s)

/-- The register word at `a` is an RC counter of a group (R97). -/
def isRcCounter (s : State) (a : Nat) : Bool := (List.range 15).any fun g => rcOfGroup s g a

/-- The Gaffer reads one RC counter: its value goes to the total, and the register is cleared. -/
def pollCounter (s : State) (x : Nat × Word) : State :=
  if x.2 ≠ 0#32 && isRcCounter s x.1 then
    let s := { s with tcs := { s.tcs with totals := mupd 0 x.1 (fun t => satAdd 64 t x.2.toNat) s.tcs.totals } }
    s.setReg x.1 0#32
  else s

/-- COUNTER_TOTAL_POLL (R97). -/
def execCounterTotalPoll (s : State) : Host.Outcome State Fault Refusal :=
  if gafferUp s then ok (s.regs.words.foldl pollCounter s) else ok s

/-! ### On-chip mailboxes (R100 to R103) -/

/-- STATE of a mailbox: 0 FREE, 1 CLAIMED, 2 BUSY, 3 DONE. -/
def mbxState (s : State) (n : Nat) : Nat := s.field (R.MBX_STAT n) 31 30

/-- The requester is the core that claimed mailbox `n` (R101). -/
def mbxOwner (s : State) (n : Nat) : Requester → Bool
  | .core t c => mbxState s n != 0 && s.field (R.MBX_STAT n) 25 18 == t && s.field (R.MBX_STAT n) 17 16 == c
  | _ => false

/-- MBX_ALLOC (R100): the lowest free mailbox is claimed for the reading core. -/
def execMbxAlloc (r : Requester) (s : State) : Host.Outcome State Fault Refusal :=
  match r, firstBelow 32 fun n => mbxState s n == 0 with
  | .core t c, some n =>
    let s := s.setReg (R.MBX_STAT n) (BitVec.ofNat 32 (2 ^ 30 + t * 2 ^ 18 + c * 2 ^ 16))
    ok (s.answer (.data (BitVec.ofNat 64 (2 ^ 31 + n))))
  | _, _ => ok (s.answer (.data 0#64))

/-- A write by a requester that is not the owner is a bus error with cause PROT (R101). -/
def ownedWrite (r : Requester) (n : Nat) (act : State → State) (s : State) : Host.Outcome State Fault Refusal :=
  if mbxOwner s n r then ok ((act s).answer .done) else ok (s.answer (.error .prot))

/-- MBX_SUBMIT (R101, R102). -/
def execMbxSubmit (r : Requester) (n : Fin 32) (s : State) : Host.Outcome State Fault Refusal :=
  ownedWrite r n.val (fun s =>
    if mbxState s n.val = 1 ∨ mbxState s n.val = 3 then
      let s := s.setField (R.MBX_STAT n.val) 31 30 2
      { s with tcs := { s.tcs with onchipReq := mset n.val r s.tcs.onchipReq } }
    else s) s

/-- MBX_FREE (R101): bit 0 frees the mailbox, unless it is BUSY; the whole of MBX_STAT is then 0 (log entry 111). -/
def execMbxFree (r : Requester) (n : Fin 32) (value : Word) (s : State) : Host.Outcome State Fault Refusal :=
  ownedWrite r n.val (fun s => if bit value 0 && mbxState s n.val != 2 then s.setReg (R.MBX_STAT n.val) 0#32 else s) s

/-- Push the completion entry of a mailbox, or keep it for a retry after 100 µs (R100, R200). -/
def pushNotice (n qid st : Nat) (s : State) : State :=
  match pushQ .gaffer qid (fitBytes 32 (Config.mbxNotice n st)) s with
  | (.lost, s) => { s with tcs := { s.tcs with notices := s.tcs.notices ++ [(n, qid, s.now + 100000)] } }
  | (_, s) => s

/-- MBX_NOTICE_RETRY (R200): the completion notice of a mailbox that met a full queue, every 100 µs. -/
def execMbxNoticeRetry (mailbox : Nat) (s : State) : Host.Outcome State Fault Refusal :=
  let mine (x : Nat × Nat × Nat) : Bool := x.1 == mailbox && decide (x.2.2 ≤ s.now)
  match s.tcs.notices.find? mine with
  | none => ok s
  | some x => ok (pushNotice x.1 x.2.1 (s.field (R.MBX_STAT x.1) 15 0)
      { s with tcs := { s.tcs with notices := s.tcs.notices.filter fun y => !mine y } })

/-- MBX_COMPLETE (R102): once the response is written the mailbox is DONE, and its notice is sent. -/
def execMbxComplete (n : Fin 32) (s : State) : Host.Outcome State Fault Refusal :=
  match mget n.val s.tcs.onchipDone with
  | none => ok s
  | some st =>
    let s := { s with tcs := { s.tcs with onchipDone := mdel n.val s.tcs.onchipDone } }
    let w := s.reg (R.MBX_STAT n.val)
    let s := (s.setReg (R.MBX_STAT n.val) (setFld (setFld w 31 30 3) 15 0 st)).orReg R.MBX_DONE n.val
    let c := s.reg (R.MBX_CTRL n.val)
    match fld c 31 30 with
    | 1 =>
      let t := fld w 25 18
      let k := fld w 17 16
      let x := s.core t k
      ok (s.setCore t k { x with ipend := x.ipend ||| bitMask 2 })
    | 2 => ok (pushNotice n.val (fld c 15 0) st s)
    | _ => ok s

end Sys2Proof.Machine
end

