-- ==== Sys2Proof/Machine/RunCtx.lean ====
section
/-! DEFINITION. Run contexts (R149, R150, R170 to R175): their fields, feed entries and critical pairs in the home
tile's SRAM, the Gaffer's own copies of the pairs in MRAM, and run status entries (R188). Assumption log: 61
(DEDUCED), 62 (DEDUCED), 64 (DESIGN CHOICE). -/

namespace Sys2Proof.Machine

/-! ### Runs and their corridor -/

/-- The run of a number. -/
def State.run (s : State) (n : Nat) : Option Run := mget n s.runs
/-- Replace a run. -/
def State.setRun (s : State) (n : Nat) (r : Run) : State := { s with runs := mset n r s.runs }
/-- Change a run. -/
def State.modRun (s : State) (n : Nat) (f : Run → Run) : State :=
  match mget n s.runs with
  | some r => s.setRun n (f r)
  | none => s

/-- Travelling-cell carriers of a corridor by number (R30). -/
def travelling (s : State) (c : Nat) : List (Nat × Carrier) :=
  (s.cor.carriers.filter fun x => x.1 / 1024 == c && x.2.std != 0).map fun x => (x.1 % 1024, x.2)

/-- Slot duration of a carrier in ns. -/
def slotNs (c : Carrier) : Nat := if c.scs = 2 then 500000 else 1000000

/-- The anchor carrier of a corridor (R150): the longest slot, then the lowest number. -/
def anchorOf (s : State) (c : Nat) : Option (Nat × Carrier) :=
  leastBy (fun x => (1000000 - slotNs x.2, x.1, 0)) (travelling s c)

/-- The anchor carrier of a run. -/
def Run.anchorCarrier (s : State) (r : Run) : Option Carrier := mget (carrierKey 0 r.corridor r.anchor) s.cor.carriers

/-- The anchor slot duration T of a run in ns. -/
def Run.slot (s : State) (r : Run) : Nat := ((r.anchorCarrier s).map slotNs).getD 1000000

/-- Chainages of a corridor by position, in 0.1 mm. -/
def chainages (s : State) (c : Nat) : List Int := (corridorRus s c).map fun x => (x.2.chainage.toNat : Int) * 100

/-- Chainage of a position. -/
def chainageAt (l : List Int) (p : Nat) : Int := l.getD p 0

/-- The position whose chainage is nearest `x`; the lower of two equally near. -/
def nearestPos (l : List Int) (x : Int) : Option Nat :=
  leastBy (fun p => ((chainageAt l p - x).natAbs, p, 0)) (List.range l.length)

/-! ### Aborts on chip (R19, R101 to R103) -/

/-- A position report is withdrawn before its boundary. -/
def abortReport (key : Nat) (s : State) : Option State :=
  match s.runs.find? fun x => x.2.reports.any fun p => p.mbx == key with
  | some (n, _) =>
    let s := s.modRun n fun q => { q with reports := q.reports.filter fun p => p.mbx != key }
    some (finishMbx s key .aborted [] 0)
  | none => none

/-- The answer, with no payload, to the request that the buffer of mailbox `n` holds. -/
def bufferReply (n : Fin 32) (st : Status) (s : State) : State :=
  let a := (s.reg64 (R.MBX_PTR n.val)).toNat
  let o : OutMsg :=
    { via := .onchip n, form := .raw 0, dst := 0, flags := 1, mbx := s.word (a + 6) 1, crit := 0,
      session := BitVec.ofNat 32 (s.word (a + 8) 4), seq := BitVec.ofNat 32 (s.word (a + 12) 4), opcode := s.word (a + 16) 2,
      status := st.code, payload := [], key := none }
  writeOnchip n.val o s

/-- The request of a BUSY mailbox is aborted: one not yet taken up is answered ABORTED, and so is a position report that
waits for its boundary, the one command of DSP software that runs on. -/
def mbxAbort (n : Fin 32) (s : State) : State :=
  if mbxState s n.val ≠ 2 then s
  else if mhas s.tcs.onchipReq n.val then
    bufferReply n .aborted { s with tcs := { s.tcs with onchipReq := mdel n.val s.tcs.onchipReq } }
  else (abortReport (0x100 + n.val) s).getD s

/-! ### Fields of the context (R170, R171) -/

/-- Context fields. -/ def ctxTState : Nat := 0x002
/-- POS. -/ def ctxPos : Nat := 0x008
/-- SPEED. -/ def ctxSpeed : Nat := 0x010
/-- ACCEL. -/ def ctxAccel : Nat := 0x014
/-- FC. -/ def ctxFc : Nat := 0x018
/-- STATUS_LOST. -/ def ctxLost : Nat := 0x01C
/-- T_STATE. -/ def ctxT : Nat := 0x020
/-- PEND[i]. -/ def ctxPend (i : Nat) : Nat := 0x028 + 4 * i
/-- PEND_T[i]. -/ def ctxPendT (i : Nat) : Nat := 0x030 + 8 * i
/-- Pair i: WIN, RUN_TX_EN, TXMASK, ATT[0] to ATT[4]. -/ def ctxPair (i : Nat) : Nat := 0x040 + 8 * i
/-- Feed entry i. -/ def ctxFeed (i : Nat) : Nat := 0x080 + 0x20 * i

/-- A signed field of `n` bytes. -/
def Run.int (r : Run) (s : State) (off n : Nat) : Int := toSigned (8 * n) (s.word (r.ctx + off) n)
/-- An unsigned field of `n` bytes. -/
def Run.nat (r : Run) (s : State) (off n : Nat) : Nat := s.word (r.ctx + off) n
/-- The home tile writes bytes of the context. -/
def ctxWrite (s : State) (r : Run) (off : Nat) (bs : List Byte) : State :=
  memWrite (.home r.home) (.sram r.home) (r.ctx + off) bs s
/-- The home tile writes a field; signed values wrap into their two's complement form. -/
def ctxPut (s : State) (r : Run) (off n : Nat) (v : Int) : State := ctxWrite s r off (leBytes n (ofSigned (8 * n) v))
/-- TSTATE: 0 SEEK, 1 TRACK, 2 COAST, 3 LOST, 4 ENDING. -/
def Run.tstate (r : Run) (s : State) : Nat := r.nat s ctxTState 1

/-- A feed entry (R171). -/
structure Feed where
  pos : Nat
  st : Nat
  flags : Nat
  age : Nat
  snr : Int
  delay : Int
  ful : Int
  fdl : Int
  trimD : Int
  trimF : Int
  deriving DecidableEq, Repr

/-- The feed entry that 32 bytes hold. -/
def feedOf (l : List Byte) : Feed :=
  let v (off n : Nat) : Nat := leVal ((l.drop off).take n)
  let i (off n : Nat) : Int := toSigned (8 * n) (v off n)
  { pos := v 0 2, st := v 2 1, flags := v 3 1, age := v 4 2, snr := i 6 2, delay := i 8 4, ful := i 12 4, fdl := i 16 4,
    trimD := i 20 4, trimF := i 24 4 }

/-- The feed entry of slot `i`. -/
def Run.feed (r : Run) (s : State) (i : Nat) : Feed := feedOf (s.bytes (r.ctx + ctxFeed i) 32)

/-- Bytes of a feed entry. -/
def feedBytes (f : Feed) : List Byte :=
  leBytes 2 f.pos ++ leBytes 1 f.st ++ leBytes 1 f.flags ++ leBytes 2 f.age ++ leBytes 2 (ofSigned 16 f.snr)
    ++ leBytes 4 (ofSigned 32 f.delay) ++ leBytes 4 (ofSigned 32 f.ful) ++ leBytes 4 (ofSigned 32 f.fdl)
    ++ leBytes 4 (ofSigned 32 f.trimD) ++ leBytes 4 (ofSigned 32 f.trimF) ++ leBytes 4 0

/-- Write the feed entry of a feed's slot. -/
def putFeed (s : State) (r : Run) (f : Feed) : State := ctxWrite s r (ctxFeed (f.pos % 8)) (feedBytes f)

/-- The feeds of a run in slot order. -/
def Run.feeds (r : Run) (s : State) : List Feed := ((List.range 8).map (r.feed s)).filter fun f => f.st != 0

/-- The feed at a position. -/
def Run.feedAt (r : Run) (s : State) (p : Nat) : Option Feed := (r.feeds s).find? fun f => f.pos == p

/-! ### Critical pairs (R172 to R174, R383) -/

/-- Bytes of a stored pair: value, then complement (R172). -/
def pairWord (v : Word) : List Byte := leBytes 4 v.toNat ++ leBytes 4 (~~~v).toNat

/-- The Gaffer's own copy of pair `i` of run `n`, in the area of R565. -/
def copyAddr (n i : Nat) : Nat := mramBase + 0x50000 + n * 64 + i * 8

/-- Write the Gaffer's copy of a pair. -/
def putCopy (s : State) (n i : Nat) (v : Word) : State := memWrite .gaffer .mram (copyAddr n i) (pairWord v) s

/-- Write pair `i` of a run in the context, and the Gaffer's copy. -/
def putPair (s : State) (n : Nat) (r : Run) (i : Nat) (v : Word) : State := putCopy (ctxWrite s r (ctxPair i) (pairWord v)) n i v

/-- A stored pair as its checker reads it: the value, none on a mismatch or an uncorrectable error (R383). -/
def readPair (q : Requester) (pl : Place) (a : Nat) (s : State) : Option Word × State :=
  match memRead q pl a 8 s with
  | (some l, s) =>
    let v := BitVec.ofNat 32 (leVal (l.take 4))
    let c := BitVec.ofNat 32 (leVal (l.drop 4))
    (if isPair v c then some v else none, s)
  | (none, s) => (none, s)

/-- Pair `i` of a context as the home tile reads it. -/
def ctxPairOf (s : State) (r : Run) (i : Nat) : Option Word × State :=
  readPair (.home r.home) (.sram r.home) (r.ctx + ctxPair i) s

/-- The value of pair `i` without its check. -/
def Run.pairVal (r : Run) (s : State) (i : Nat) : Word := BitVec.ofNat 32 (r.nat s (ctxPair i) 4)

/-- WIN changes with the window (R180). -/
def putWin (s : State) (n : Nat) (r : Run) (w : Nat × Nat) : State :=
  putPair (s.modRun n fun r => { r with win := w }) n r 0 (BitVec.ofNat 32 (w.2 * 256 + w.1))

/-! ### Status entries (R188) -/

/-- Bytes of a status entry. -/
def statusBytes (s : State) (n : Nat) (r : Run) (kind detail pos tEff : Nat) : List Byte :=
  leBytes 1 n ++ leBytes 1 kind ++ leBytes 1 detail ++ leBytes 1 0 ++ leBytes 2 pos ++ leBytes 2 0 ++ leBytes 8 tEff
    ++ leBytes 8 (ofSigned 64 (r.int s ctxPos 8)) ++ leBytes 4 (ofSigned 32 (r.int s ctxSpeed 4)) ++ leBytes 4 0

/-- Push a status entry; where it is not accepted STATUS_LOST counts (R188). -/
def pushStatus (s : State) (n : Nat) (r : Run) (kind detail pos tEff : Nat) : State :=
  match pushQ (.home n) r.statusQid (statusBytes s n r kind detail pos tEff) s with
  | (.accepted, s) => s
  | (_, s) => ctxPut s r ctxLost 4 (satAdd 32 (r.nat s ctxLost 4) 1 : Nat)

/-- A change of tracking state, with its status entry (R156). -/
def setTState (s : State) (n : Nat) (r : Run) (st at_ : Nat) : State :=
  let s := ctxPut s r ctxTState 1 st
  let s := s.modRun n fun r => { r with since := s.now, noFix := 0 }
  pushStatus s n r 1 st 0xFFFF at_

/-- Entry to LOST: x frozen, v = 0 and a = 0 (R157). -/
def enterLost (s : State) (n : Nat) (r : Run) : State :=
  let s := ctxPut (ctxPut s r ctxSpeed 4 0) r ctxAccel 4 0
  setTState s n r 3 s.devNs

/-! ### Feeds join and leave (R166, R180) -/

/-- Mean of the TRIM_D values kept for an RU (R166). -/
def trimMean (s : State) (ru : Nat) : Int :=
  match mget ru s.ruTrims with
  | some l => rneDiv (l.foldl (· + ·) 0) l.length
  | none => 0

/-- A feed that enters JOINING. -/
def newFeed (s : State) (r : Run) (p : Nat) : Feed :=
  let trim := match ruAt s r.corridor p with
    | some x => trimMean s x.1
    | none => 0
  { pos := p, st := 1, flags := 0, age := 0, snr := 0, delay := 0, ful := 0, fdl := 0, trimD := trim, trimF := 0 }

/-- A feed enters JOINING at position `p`: its entry is filled, its counts at the clamps begin (R165), and its lane
accumulators start from free phases (R160). -/
def startFeed (s : State) (n : Nat) (r : Run) (p : Nat) : State :=
  let i := p % 8
  let f := s.takeFresh
  let s := f.2.modRun n fun r =>
    { r with clampOn := mdel i r.clampOn, clampOff := mdel i r.clampOff, applied := mdel i r.applied,
             seeds := mset i f.1 r.seeds, phi := r.phi.filter fun x => x.1 % 8 != i }
  putFeed s r (newFeed s r p)

/-- A feed has left ACTIVE: its TRIM_D is kept for its RU (R166). -/
def keepTrim (s : State) (r : Run) (f : Feed) : State :=
  if f.st ≠ 2 then s
  else match ruAt s r.corridor f.pos with
    | some x =>
      let l := (mgetD [] s.ruTrims x.1) ++ [f.trimD]
      { s with ruTrims := mset x.1 (l.drop (l.length - 16)) s.ruTrims }
    | none => s

/-- Install a window as one setting, every feed JOINING (R182, R183). -/
def installWin (s : State) (n : Nat) (r : Run) (lo hi : Nat) : State :=
  let s := (List.range (hi + 1 - lo)).foldl (fun s i => startFeed s n r (lo + i)) s
  putWin s n r (lo, hi)

/-! ### Homes (R149) -/

/-- EQ tiles present. -/
def eqTiles (s : State) : List Nat := (accTiles s.part).filter fun t => accKind s.part t == some .eq

/-- The home tile of a new run: an EQ tile; which one is a free value (R149). -/
def homeTile (s : State) (n : Nat) : Nat := (eqTiles s).getD (Config.homeChoice n % (eqTiles s).length) 0

/-- The place of a new run's context in the SRAM of tile `t` (R170): 512 bytes, aligned, that no other run has; which
one is a free value. -/
def freeCtx (s : State) (t n : Nat) : Nat :=
  let l := ((List.range (sramSize (tileKindOf t) / 512)).map fun i => winBase t + 512 * i).filter fun a =>
    !(s.runs.any fun x => x.2.ctx == a)
  l.getD (Config.ctxChoice n % l.length) (winBase t)

/-- A run's number is released: its context, its STATUS_QID, an import that brought it and waiting reports go with it
(R186, R194). -/
def releaseRun (s : State) (n : Nat) (r : Run) : State :=
  let q := s.queue r.statusQid
  let s := if s.runs.any fun x => x.1 != n && x.2.statusQid == r.statusQid then s
           else if mhas s.dsq.queues r.statusQid then s.setQueue r.statusQid { q with lock := false } else s
  let s := { s with runs := mdel n s.runs, mem := { s.mem with ctxOwner := mdel r.ctx s.mem.ctxOwner } }
  let peer (p : Peer) : Peer := { p with import_ := p.import_.filter fun i => i.run != some n, retries := mdel n p.retries }
  let s := { s with peers := s.peers.map fun x => (x.1, peer x.2) }
  let s := r.reports.foldl (fun s p => finishMbx s p.mbx .badArg [] 0) s
  match r.endMbx with
  | some k => finishMbx s k .ok [] 0
  | none => s

end Sys2Proof.Machine
end

