-- ==== Sys2Proof/Machine/AccBase.lean ====
section
/-! DEFINITION. Accelerator jobs (R299 to R312, R315): the descriptor and its checks, caps, the bytes a job writes,
its reads and writes, soft-buffer locks, and how a job ends. Assumption log: 53 (DEDUCED), 59 (DEDUCED). -/

namespace Sys2Proof.Machine

/-! ### The jobs of a tile -/

/-- A job by tile and reference. -/
def State.job (s : State) (t : Nat) (r : JobRef) : Option AccJob :=
  s.acc.jobs.find? fun j => j.tile == t && j.ref == r

/-- Replace a job. -/
def setJob (s : State) (j : AccJob) : State :=
  { s with acc := { s.acc with jobs := s.acc.jobs.map fun x => if x.tile == j.tile && x.ref == j.ref then j else x } }

/-- Remove a job: its slot is free (R301). -/
def dropJob (s : State) (j : AccJob) : State :=
  noteIdle { s with acc := { s.acc with jobs := s.acc.jobs.filter fun x => !(x.tile == j.tile && x.ref == j.ref) } } j.tile

/-- A job that has just arrived. -/
def newJob (tile : Nat) (r : JobRef) (a scale : Nat) (committed : Bool) : AccJob :=
  { tile := tile, ref := r, at_ := a, body := [], scale := scale, committed := committed, started := none, status := none,
    used := 0, cap := 0, nok := 0, sat := false, early := false, result := 0, staged := [], paused := false, soft := [],
    dets := [], ran := false, openOut := false, dropped := false }

/-- Add a job at the end of its tile's FIFO. -/
def addJob (s : State) (j : AccJob) : State := { s with acc := { s.acc with jobs := s.acc.jobs ++ [j] } }

/-- The job came as a CQ command, or takes a CQ slot (R301, R305). -/
def viaCq : JobRef → Bool
  | .dsq _ _ _ => false
  | _ => true

/-- Jobs that hold a CQ slot of a tile. -/
def cqBusy (s : State) (t : Nat) : Nat :=
  (s.acc.jobs.filter fun j => j.tile == t && viaCq j.ref && j.started.isSome).length

/-- Jobs that hold a dispatcher slot of a tile. -/
def dsqBusy (s : State) (t : Nat) : Nat :=
  (s.acc.jobs.filter fun j => j.tile == t && !(viaCq j.ref) && j.started.isSome).length

/-- Commands waiting in a tile's FIFO (R302). -/
def fifoDepth (s : State) (t : Nat) : Nat :=
  (s.acc.jobs.filter fun j => j.tile == t && viaCq j.ref && j.started.isNone && j.status.isNone).length

/-- A job is in flight in the tile (R321). -/
def accBusy (s : State) (t : Nat) : Bool := s.acc.jobs.any fun j => j.tile == t && j.started.isSome

/-- CQ slots, at most all of them (R301, R321). -/
def cqSlotsOf (s : State) (t : Nat) : Nat :=
  match accKind s.part t with
  | some k => min (cqSlots s t) (jobSlots k)
  | none => 0

/-! ### Descriptor fields (R304) -/

/-- Field of a descriptor. -/ def AccJob.f (j : AccJob) (off n : Nat) : Nat := ent j.body off n
/-- Signed field. -/ def AccJob.i (j : AccJob) (off n : Nat) : Int := toSigned (8 * n) (ent j.body off n)
/-- FUNC. -/ def AccJob.func (j : AccJob) : Nat := j.f 0 1
/-- JFLAGS.NEW. -/ def AccJob.new (j : AccJob) : Bool := (j.f 1 1).testBit 0
/-- JFLAGS.NEXT. -/ def AccJob.next (j : AccJob) : Bool := (j.f 1 1).testBit 1
/-- COUNT. -/ def AccJob.count (j : AccJob) : Nat := j.f 4 4
/-- STATUS_PTR. -/ def AccJob.statusPtr (j : AccJob) : Nat := j.f 8 8
/-- IN_PTR. -/ def AccJob.inp (j : AccJob) : Nat := j.f 16 8
/-- OUT_PTR. -/ def AccJob.outp (j : AccJob) : Nat := j.f 24 8
/-- AUX_PTR. -/ def AccJob.aux (j : AccJob) : Nat := j.f 32 8

/-- One PARAM field: offset, bytes, whether signed, range, and the values allowed where they are a set (R305). -/
structure PField where
  off : Nat
  n : Nat
  sg : Bool
  lo : Int
  hi : Int
  set : List Int := []
  mult : Nat := 1
  deriving DecidableEq, Repr

/-- What R299, R304 and R305 ask of a function's descriptor: the subtypes that perform it (as SUBTYPE values of R321),
COUNT, CAP (none: ignored), which pointers are aligned to 64, whether AUX is used, and PARAM. -/
structure JobRule where
  subs : List Nat
  count : Nat × Nat
  cap : Option (Nat × Nat)
  in64 : Bool
  out64 : Bool
  aux : Bool
  params : List PField
  deriving DecidableEq, Repr

/-- An unsigned field with a range. -/
def pf (off n : Nat) (lo hi : Nat) : PField := { off := off, n := n, sg := false, lo := lo, hi := hi }
/-- An unsigned field with any value. -/
def pa (off n : Nat) : PField := pf off n 0 (2 ^ (8 * n) - 1)
/-- A stride: a multiple of 64 (R305). -/
def ps (off : Nat) : PField := { pa off 4 with mult := 64 }
/-- A field with a set of values. -/
def pset (off n : Nat) (l : List Int) : PField := { pa off n with set := l }
/-- A signed field with a range. -/
def psg (off n : Nat) (lo hi : Int) : PField := { off := off, n := n, sg := true, lo := lo, hi := hi }

/-- PARAM of the transforms. -/
def fftParams : List PField :=
  [pset 40 2 [128, 256, 512, 1024, 1536, 2048, 3072, 4096], psg 42 1 (-4) 4, pa 44 2, pf 46 2 1 341,
   ps 48, ps 52]
/-- PARAM of LDPC jobs. -/
def ldpcParams : List PField :=
  [pf 40 1 1 2, pf 41 1 0 3, pa 42 2, pa 44 2, pa 46 2, pf 48 4 0 25344, pa 52 4, pa 56 4, pa 60 1,
   pset 61 1 [1, 2, 4, 6, 8], pf 62 1 0 3]
/-- PARAM of polar jobs. -/
def polarParams : List PField := [pf 40 1 5 10, pf 41 1 0 3, pa 42 2, pa 44 4, pf 48 1 0 1]
/-- PARAM of turbo jobs. -/
def turboParams : List PField :=
  [pa 40 2, pf 42 1 0 3, pset 43 1 [1, 2, 4, 6, 8], pf 44 4 0 25344, pa 48 4, pa 52 4, pa 56 1, pf 57 1 1 2]

/-- The rules of each FUNC (R299, R305). -/
def jobRule : Nat → Option JobRule
  | 0x01 => some ⟨[0], (1, 14), none, true, true, false, fftParams⟩
  | 0x02 => some ⟨[0], (1, 14), none, true, true, false, fftParams⟩
  | 0x10 => some ⟨[1], (1, 14), none, true, true, true, [pf 40 1 0 7, pf 41 1 0 1, ps 44, ps 48]⟩
  | 0x11 => some ⟨[1], (1, 14), some (0, 1), true, false, true,
      [pf 40 1 0 6, pf 41 1 1 16, pa 42 2, pf 44 1 0 1, pf 45 1 0 3, pa 46 2, pa 48 2, ps 52]⟩
  | 0x12 => some ⟨[1], (1, 8), none, false, true, true, [pf 40 1 0 1, pf 41 1 1 14, ps 44, ps 48]⟩
  | 0x13 => some ⟨[1], (1, 14), some (1, 4), true, false, true,
      [pf 40 1 1 16, pf 41 1 1 64, pa 42 2, pa 44 2, ps 48, ps 52]⟩
  | 0x14 => some ⟨[1], (1, 2 ^ 32 - 1), none, false, false, true, [pf 40 1 0 4, pf 41 1 0 1, pa 44 4, pa 48 4]⟩
  | 0x15 => some ⟨[1], (1, 14), none, false, true, true,
      [pf 40 1 1 16, pf 41 1 1 64, pa 42 2, pa 44 2, pset 46 1 [0, 1, 2, 4], pf 47 1 0 8, ps 48]⟩
  | 0x20 => some ⟨[2], (1, 64), some (2, 32), false, false, true, ldpcParams⟩
  | 0x21 => some ⟨[2], (1, 64), none, false, false, false, ldpcParams⟩
  | 0x22 => some ⟨[2], (1, 1), some (2, 8), false, false, false, polarParams⟩
  | 0x23 => some ⟨[2], (1, 1), none, false, false, false, polarParams⟩
  | 0x30 => some ⟨[4, 5], (1, 64), some (2, 16), false, false, true, turboParams⟩
  | 0x31 => some ⟨[4, 5], (1, 64), none, false, false, false, turboParams⟩
  | 0x32 => some ⟨[4, 5], (1, 64), none, false, false, false, [pf 40 1 0 8, pa 41 1]⟩
  | 0x33 => some ⟨[4, 5], (1, 64), none, false, false, false, [pf 40 1 0 7, pa 41 1]⟩
  | 0x34 => some ⟨[4, 5], (1, 16), none, false, false, false, [pf 40 1 0 7, psg 42 2 (-32768) 32767]⟩
  | 0x35 => some ⟨[4, 5], (1, 8), none, false, true, false, [ps 40]⟩
  | 0x40 => some ⟨[3, 5], (1, 64), none, false, false, false,
      [pset 40 1 [0, 1, 2, 3, 0x10, 0x11, 0x20, 0x21, 0x22, 0x23, 0x24, 0x25], pf 41 1 0 2, pf 42 2 0 837, pa 44 2,
       pf 46 1 0 20, pa 47 1, pf 48 1 1 64, ps 52]⟩
  | 0x41 => some ⟨[3, 5], (1, 16), none, false, false, true,
      [pa 40 1, pf 41 1 0 63, pf 42 1 0 20, pa 43 1, pf 44 1 1 64, ps 48]⟩
  | _ => none

/-- A field is in range. -/
def PField.ok (p : PField) (j : AccJob) : Bool :=
  let v : Int := if p.sg then j.i p.off p.n else (j.f p.off p.n : Int)
  decide (p.lo ≤ v) && decide (v ≤ p.hi) && (p.set.isEmpty || p.set.contains v) && decide (v % (p.mult : Int) = 0)

/-- Every PARAM byte that no field names is 0. -/
def reservedOk (ps : List PField) (j : AccJob) : Bool :=
  (List.range 24).all fun i => (ps.any fun p => decide (p.off ≤ 40 + i) && decide (40 + i < p.off + p.n)) || j.f (40 + i) 1 == 0

/-- Longest normal cyclic prefix of a transform of size `n` in samples (R121). -/
def maxCp (n : Nat) : Nat := 176 * n / 2048

/-- SUBTYPE of an accelerator tile (R321). -/
def subtypeOf : AccKind → Nat
  | .fft => 0 | .eq => 1 | .fec => 2 | .prs => 3 | .leg => 4 | .mix => 5

/-- Rules that tie fields to each other or to the part: FFT_ADV at most the longest prefix (R121), the preamble sets of a
format (R139), and DEC_TILE a LEG or MIX tile (R305). -/
def crossOk (p : Part) (j : AccJob) : Bool :=
  match j.func with
  | 0x01 => j.f 44 2 == 0xFFFF || decide (j.f 44 2 ≤ maxCp (j.f 40 2))
  | 0x40 => decide (j.f 41 1 ≤ (if 0x20 ≤ j.f 40 1 then 0 else if j.f 40 1 < 0x10 then 1 else 2))
  | 0x41 => match accKind p (j.f 40 1) with
    | some .leg | some .mix => true
    | _ => false
  | _ => true

/-- The checks of R307 for a job at an accelerator tile. -/
def descOk (p : Part) (k : AccKind) (j : AccJob) : Bool :=
  match jobRule j.func with
  | none => false
  | some r =>
    r.subs.contains (subtypeOf k) && decide (j.f 1 1 < 4) && j.f 3 1 == 0
      && decide (r.count.1 ≤ j.count) && decide (j.count ≤ r.count.2)
      && j.statusPtr % (if j.next then 64 else 32) == 0
      && (!r.in64 || j.inp % 64 == 0) && (!r.out64 || j.outp % 64 == 0) && (r.aux || j.aux == 0)
      && (match r.cap with
          | none => true
          | some c => j.f 2 1 == 0xFF || (decide (c.1 ≤ j.f 2 1) && decide (j.f 2 1 ≤ c.2)))
      && r.params.all (·.ok j) && reservedOk r.params j && crossOk p j

/-- Nominal and least value of the elastic parameter of a function (R145). -/
def elastic : Nat → Option (Nat × Nat)
  | 0x20 => some (8, 2) | 0x30 => some (6, 2) | 0x22 => some (8, 2) | 0x13 => some (2, 1) | 0x11 => some (1, 0)
  | _ => none

/-- The effective cap (R146, R147, R306): scaled for an entry of a dispatcher, as written for a CQ command. -/
def effCap (j : AccJob) : Nat :=
  match elastic j.func with
  | none => 0
  | some (nom, mn) =>
    let n := if j.f 2 1 = 0xFF then nom else j.f 2 1
    match j.ref with
    | .dsq _ _ _ => max mn (ceilDiv (n * j.scale) 256)
    | _ => n

/-- The list size POLAR_DEC uses: the smallest of 2, 4 and 8 that is at least the cap (R306). -/
def listSize (c : Nat) : Nat := if c ≤ 2 then 2 else if c ≤ 4 then 4 else 8

/-- The checks of a helper descriptor (R320, R307): its fields, a square result for CGRAM and a square A for CCHOLSOLVE,
and every operand in the tile's own SRAM. -/
def helperOk (s : State) (j : AccJob) : Bool :=
  let op := j.func
  let m := j.f 2 1
  let k := j.f 3 1
  let n := j.f 4 1
  let b := j.f 6 2
  let rng (x : Nat) : Bool := decide (1 ≤ x) && decide (x ≤ 64)
  let sz := if op = 3 then 8 else 4
  let inOwn (a len : Nat) : Bool :=
    placeOf s.part a == .sram j.tile && placeOf s.part (a + len - 1) == .sram j.tile
  let shape := match op with | 2 => m == n | 3 => m == k | _ => true
  decide (op < 4) && shape && decide (j.f 1 1 < 32) && rng m && rng k && rng n && decide (1 ≤ b) && decide (b ≤ 4096)
    && j.f 5 1 == 0 && (List.range 20).all (fun i => j.f (44 + i) 1 == 0) && j.statusPtr % 32 == 0
    && inOwn j.statusPtr 32 && inOwn j.inp (m * k * b * sz) && (op == 2 || inOwn j.outp (k * n * b * sz))
    && inOwn j.aux (m * n * b * sz)

/-- The descriptor of a job passes its tile's checks. -/
def goodDesc (s : State) (j : AccJob) : Bool :=
  match accKind s.part j.tile with
  | some k => descOk s.part k j
  | none => helperOk s j

/-! ### The bytes a job writes (R305, R308) -/

/-- The record's own cyclic prefix at transform size `n` (R121, R300): longer in the first symbol of a half-subframe. -/
def cpOf (h : List Byte) (n : Nat) : Nat :=
  let sym := ent h 13 1
  if ent h 3 1 = 2 then (if sym = 0 then 176 else 144) * n / 2048 else (if sym % 7 = 0 then 160 else 144) * n / 2048

/-- Bytes padded to the next multiple of 64 (R305). -/
def pad64 (n : Nat) : Nat := ceilDiv n 64 * 64
/-- Bytes of `n` bits, padded. -/
def bits64 (n : Nat) : Nat := pad64 (ceilDiv n 8)

/-- E of block `i` of an LDPC or turbo job. -/
def blockE (j : AccJob) (i : Nat) : Nat :=
  if j.func / 16 = 2 then (if j.f 60 1 ≤ i then j.f 56 4 else j.f 52 4)
  else (if j.f 56 1 ≤ i then j.f 52 4 else j.f 48 4)

/-- Where the runs of `n` blocks start, relative to their pointer, given their sizes. -/
def runStarts (size : Nat → Nat) (n : Nat) : List Nat :=
  (List.range n).map fun i => ((List.range i).map fun k => pad64 (size k)).foldl (· + ·) 0

/-- Bytes of an estimate block (R126): c16 taps of every branch, layer, symbol and subcarrier, an exponent per branch and
layer, an f32 per branch. -/
def estBytes (branches layers prbs syms : Nat) : Nat := branches * layers * (48 * prbs * syms + 1) + 4 * branches

/-- TAU_MAX of a carrier in units of 0.25 ns (R163). -/
def tauMaxOf (c : Carrier) : Int := if c.scs = 2 then 7375 else 16750

/-- The feed entries of a run context's bytes, in slot order (R171). -/
def ctxFeeds (ctx : List Byte) : List Feed :=
  ((List.range 8).map fun i => feedOf ((ctx.drop (ctxFeed i)).take 32)).filter fun f => f.st != 0

/-- A feed's samples count in combining on a carrier (R163, R167): ACTIVE or LEAVING, and in span; while the run's WIN pair
fails its check, only in the last window that passed (R173). A static cell has no context, and each of its inputs counts. -/
def feedCounts (s : State) (aux : Nat) (ctx : List Byte) (ru num : Nat) : Bool :=
  if aux = 0 then true
  else
    let cor := ent ctx 1 1
    match (ctxFeeds ctx).find? fun f => ((ruAt s cor f.pos).map Prod.fst) == some ru, mget (carrierKey 0 cor num) s.cor.carriers with
    | some f, some c =>
      let inWin := match s.runs.find? fun x => x.2.ctx == aux with
        | some x => !x.2.bad.contains 0 || (decide (x.2.lastWin.1 ≤ f.pos) && decide (f.pos ≤ x.2.lastWin.2))
        | none => true
      (f.st == 2 || f.st == 3) && decide (f.delay ≤ tauMaxOf c) && inWin
    | _, _ => false

/-- PORTS of a combined grid (R167): JOINT passes every port through, up to 64; MRC has the largest port count. -/
def combinedPorts (mode : Nat) (ports : List Nat) : Nat :=
  if mode = 1 then min 64 (ports.foldl (· + ·) 0) else ports.foldl max 0

/-- The header of a record as it stands in memory. -/
def peekHdr (s : State) (a : Nat) : List Byte := s.bytes a 64

/-- Where a job writes its outputs on success, and how many bytes (R308). -/
def outSpans (s : State) (j : AccJob) : List (Nat × Nat) :=
  let recs (n stride : Nat) (size : Nat → Nat) := (List.range n).map fun k => (j.outp + k * stride, size k)
  let ports (a : Nat) := (recHdr (peekHdr s a)).ports
  if (accKind s.part j.tile).isNone then [(j.aux, j.f 2 1 * j.f 4 1 * j.f 6 2 * (if j.func = 3 then 8 else 4))]
  else match j.func with
  | 0x01 => recs j.count (j.f 52 4) fun k => 64 + 48 * j.f 46 2 * ports (j.inp + k * j.f 48 4)
  | 0x02 => recs j.count (j.f 52 4) fun k =>
      let a := j.inp + k * j.f 48 4
      64 + 4 * (j.f 40 2 + cpOf (peekHdr s a) (j.f 40 2)) * ports a
  | 0x10 => recs j.count (j.f 48 4) fun k => 64 + recBytes (recHdr (peekHdr s (j.inp + k * j.f 44 4)))
  | 0x11 => [(j.outp, estBytes (ports j.inp) (j.f 41 1) (j.f 48 2) j.count)]
  | 0x12 => recs (j.f 41 1) (j.f 48 4) fun k =>
      let hs := (List.range j.count).map fun i => recHdr (peekHdr s (s.word (j.inp + 16 * i) 8 + k * j.f 44 4))
      let use_ := hs.filter fun h => feedCounts s j.aux (s.bytes j.aux 512) h.ru h.carrier
      64 + 48 * ((hs.head?.map RecHdr.count).getD 0) * combinedPorts (j.f 40 1) (use_.map RecHdr.ports)
  | 0x13 => recs j.count (j.f 52 4) fun _ => 72 * j.f 44 2 * j.f 40 1
  | 0x14 => [(j.outp, j.count)]
  | 0x15 => recs j.count (j.f 48 4) fun _ => 64 + 48 * j.f 44 2 * j.f 41 1
  | 0x20 => recs j.count (bits64 (j.f 44 2)) fun _ => bits64 (j.f 44 2)
  | 0x30 => recs j.count (bits64 (j.f 40 2)) fun _ => bits64 (j.f 40 2)
  | 0x21 | 0x31 => ((runStarts (fun i => ceilDiv (blockE j i) 8) j.count).zipIdx).map fun x =>
      (j.outp + x.1, bits64 (blockE j x.2))
  | 0x22 => [(j.outp, bits64 (j.f 42 2))]
  | 0x23 => [(j.outp, bits64 (j.f 44 4))]
  | 0x32 | 0x33 => recs j.count 64 fun _ => 64
  | 0x34 => [(j.outp, 128 + 8 * j.count)]
  | 0x35 => recs j.count (j.f 40 4) fun _ => 1344
  | 0x40 => [(j.outp, 16 * j.f 48 1)]
  | 0x41 => [(j.outp, 16 * j.f 44 1)]
  | _ => []

/-! ### Reads and writes of a job -/

/-- The address is not in memory that reads without side effects (R314, R315). -/
def sideRegion (s : State) (a : Nat) : Bool :=
  match placeOf s.part a with
  | .sram _ | .hbm _ | .mram => false
  | _ => true

/-- Not a status: the read waits for COMMIT (R315). -/
def waitCommit : Nat := 2 ^ 17

/-- Not a status alone: added to one, nothing but the status record is written (R133, R307). -/
def keepOut : Nat := 2 ^ 16

/-- Who a job reads and writes as: the accelerator, also for the helper of a DSP tile. -/
def AccJob.who (j : AccJob) : Requester := .acc j.tile

/-- The status that a failed access gives a job (R312). -/
def statusOfBus : BusCause → Nat
  | .ue => Status.ue.code | .domainAsleep => Status.domainAsleep.code | _ => Status.badArg.code

/-- The Gaffer's report of a UE met by a job names the queue of its entry (R312, R380). -/
def tagUe (j : AccJob) (s : State) : State :=
  match j.ref with
  | .dsq qid _ _ => { s with mem := { s.mem with ueReports := s.mem.ueReports.map fun u =>
      if u.reader = 3 && u.src == j.tile && u.qid == 0xFFFF then { u with qid := qid } else u } }
  | _ => s

/-- A job reads bytes; before COMMIT not from a side-effect region (R315). -/
def jobRead (j : AccJob) (a n : Nat) (s : State) : Except Nat (List Byte) × State :=
  if !j.committed && (sideRegion s a || sideRegion s (a + n - 1)) then (.error waitCommit, s)
  else
    let x := busReadMany j.who a n s
    match x.1 with
    | .ok b => (.ok b, x.2)
    | .error e => (.error (statusOfBus e), tagUe j x.2)

/-- A job reads several spans, up to the first that fails. -/
def jobReads (j : AccJob) : List (Nat × Nat) → State → Except Nat (List (List Byte)) × State
  | [], s => (.ok [], s)
  | (a, n) :: l, s =>
    let x := jobRead j a n s
    match x.1 with
    | .error e => (.error e, x.2)
    | .ok b =>
      let y := jobReads j l x.2
      match y.1 with
      | .error e => (.error e, y.2)
      | .ok bs => (.ok (b :: bs), y.2)

/-- A symbol record as read: address, header bytes and sample bytes. -/
structure Rec where
  at_ : Nat
  hdr : List Byte
  data : List Byte
  deriving DecidableEq, Repr

/-- The header of a record. -/
def Rec.h (r : Rec) : RecHdr := recHdr r.hdr

/-- Read the record at an address. -/
def jobRec (j : AccJob) (a : Nat) (s : State) : Except Nat Rec × State :=
  let x := jobRead j a 64 s
  match x.1 with
  | .error e => (.error e, x.2)
  | .ok h =>
    let y := jobRead j (a + 64) (recBytes (recHdr h)) x.2
    match y.1 with
    | .error e => (.error e, y.2)
    | .ok d => (.ok { at_ := a, hdr := h, data := d }, y.2)

/-- Read records in order, up to the first that fails. -/
def jobRecs (j : AccJob) : List Nat → State → Except Nat (List Rec) × State
  | [], s => (.ok [], s)
  | a :: l, s =>
    let x := jobRec j a s
    match x.1 with
    | .error e => (.error e, x.2)
    | .ok r =>
      let y := jobRecs j l x.2
      match y.1 with
      | .error e => (.error e, y.2)
      | .ok rs => (.ok (r :: rs), y.2)

/-- Addresses of the records of a job: COUNT records from `a` at a stride. -/
def strided (a n stride : Nat) : List Nat := (List.range n).map fun k => a + k * stride

/-- Perform writes in order: the status of the first that fails (R312). -/
def performWrites (j : AccJob) : List (Nat × List Byte) → State → Option Nat × State
  | [], s => (none, s)
  | (a, b) :: l, s =>
    let x := busWriteMany j.who a b s
    match x.1 with
    | some e => (some (statusOfBus e), x.2)
    | none => performWrites j l x.2

/-- A job writes: at once when it is committed, else into its staging buffer (R315). -/
def jobWrite (j : AccJob) (ws : List (Nat × List Byte)) (s : State) : Option Nat × AccJob × State :=
  if j.committed then
    let x := performWrites j ws s
    (x.1, j, x.2)
  else (none, { j with staged := ws }, s)

/-- An uncommitted job's writes reach 16 KiB (R315). -/
def stageFull (j : AccJob) (ws : List (Nat × List Byte)) : Bool :=
  !j.committed && decide (16384 ≤ (ws.map fun w => w.2.length).foldl (· + ·) 0)

/-- The job pauses until COMMIT or CANCEL, and STAGE_FULL is set (R315). -/
def pauseJob (j : AccJob) (s : State) : State :=
  let s := if (accKind s.part j.tile).isSome then s.orReg (R.ACC_STAT j.tile) 1 else s
  setJob s { j with paused := true }

/-! ### Soft buffers (R131 to R135, R319) -/

/-- A soft buffer is locked by another job (R133). -/
def lockedBy (s : State) (j : AccJob) (a : Nat) : Bool :=
  s.acc.jobs.any fun x => !(x.tile == j.tile && x.ref == j.ref) && x.soft.contains a

/-- Write the header of a soft buffer, changed, in one write with fresh codes: the status of a write that fails (R134). -/
def putHeader (j : AccJob) (a : Nat) (f : List Byte → List Byte) (s : State) : Option Nat × State :=
  let w := busWriteMany j.who a (f (s.bytes a 64)) s
  (w.1.map statusOfBus, w.2)

/-- Write several headers: the status of the first write that fails (R312). -/
def putHeaders (j : AccJob) (f : Nat → List Byte → List Byte) : List (Nat × Nat) → State → Option Nat × State
  | [], s => (none, s)
  | (a, i) :: l, s =>
    let x := putHeader j a (f i) s
    let y := putHeaders j f l x.2
    (x.1.or y.1, y.2)

/-- A header with its LOCK word. -/
def withLock (w : DWord) (h : List Byte) : List Byte := entSet h 16 8 w.toNat

/-- An emptied header: VALID 0, the lock released (R134, R319). -/
def emptyHeader (h : List Byte) : List Byte := withLock 0#64 (entSet h 0 1 0)

/-- The header after a decode (R132): VALID, TXCOUNT, FAILS and LAST_RV by the check of its block, LOCK released. -/
def settledHeader (ok : Bool) (rv : Nat) (h : List Byte) : List Byte :=
  let h := entSet h 2 1 rv
  let h := if ok then entSet h 0 1 0
    else entSet (entSet (entSet h 0 1 1) 1 1 (satAdd 8 (ent h 1 1) 1)) 12 1 (satAdd 8 (ent h 12 1) 1)
  withLock 0#64 h

/-- A header that could not be read is written anew: VALID and LOCK 0; nothing gives its other bytes (R134). -/
def freshHeader (n : Nat) : List Byte :=
  let f (i : Nat) : Byte := Config.undefByte n i
  0#8 :: ((List.range 15).map f ++ List.replicate 8 0#8 ++ (List.range 40).map fun i => f (15 + i))

/-- Empty the soft buffers that a job has locked (R319). -/
def emptySoft (j : AccJob) (s : State) : State := (putHeaders j (fun _ => emptyHeader) (j.soft.zipIdx) s).2

/-- Release the locks only. -/
def unlockSoft (j : AccJob) (s : State) : State := (putHeaders j (fun _ => withLock 0#64) (j.soft.zipIdx) s).2

/-! ### The end of a job (R309 to R312) -/

/-- SFLAGS (R309). -/
def sflags (j : AccJob) : Nat :=
  1 + 2 * b2n j.early + 4 * b2n j.sat + (match j.ref with | .dsq _ _ _ => 0 | _ => 8)

/-- ID of the status record: SEQ, or the tag. -/
def refId : JobRef → Nat
  | .dsq _ seq _ => seq | .cq _ _ tag => tag | .conf _ n => n % 65536

/-- The status record (R309). -/
def statusRecord (s : State) (j : AccJob) (st : Nat) : List Byte :=
  let f := if (accKind s.part j.tile).isSome then j.func else (0x80 + j.func) % 256
  leBytes 2 st ++ leBytes 1 (if j.body.isEmpty then 0 else f) ++ leBytes 1 (sflags j) ++ leBytes 1 j.used ++ leBytes 1 j.cap
    ++ leBytes 2 j.nok ++ leBytes 8 j.result ++ leBytes 8 s.devNs ++ leBytes 2 (refId j.ref) ++ leBytes 1 j.tile ++ leBytes 5 0

/-- Counters and flags of a tile as one of its jobs ends (R321). -/
def accCount (s : State) (j : AccJob) (st : Nat) : State :=
  let t := j.tile
  if (accKind s.part t).isNone then s
  else
    let s := s.count (R.ACC_CNT_JOBS t) 1
    let s := if j.sat then s.count (R.ACC_CNT_SAT t) 1 else s
    let s := if st = Status.aborted.code then s.count (R.ACC_CNT_ABORT t) 1 else s
    if st = 0 then s
    else
      let s := s.count (R.ACC_CNT_FAIL t) 1
      let s := s.setReg64 (R.ACC_LAST_FAIL t) (BitVec.ofNat 64 j.at_)
      let s := s.setReg (R.ACC_LAST_STATUS t) (BitVec.ofNat 32 ((if j.body.isEmpty then 0 else j.func) * 65536 + st))
      if st = Status.timeout.code then s.orReg (R.ACC_STAT t) 4
      else if st = Status.ue.code then s.orReg (R.ACC_STAT t) 3
      else if st = Status.badArg.code then s.orReg (R.ACC_STAT t) 2 else s

/-- The completion entry of an ACC-JOB entry (R311, R312): the status record, or the template of NEXT; a template that
cannot be read gives the record with the status of that read. -/
def completionEntry (j : AccJob) (sr : List Byte) (s : State) : List Byte × State :=
  if j.body.isEmpty || !j.next then (sr, s)
  else
    let x := jobRead j (j.statusPtr + 32) 32 s
    match x.1 with
    | .ok b => (b, x.2)
    | .error e => (leBytes 2 e ++ sr.drop 2, x.2)

/-- The status empties the buffers that a decode had locked (R319). -/
def emptiesSoft (st : Nat) : Bool :=
  st == Status.aborted.code || st == Status.timeout.code || st == Status.domainAsleep.code || st == Status.badArg.code

/-- What becomes of the soft buffers of a job that ends with a status (R132 to R135, R319), and the status it ends with: a
header that cannot be written fails the job (R312). -/
def endSoft (j : AccJob) (st : Nat) (s : State) : Nat × State :=
  if j.soft.isEmpty then (st, s)
  else if st = 0 then
    let x := putHeaders j (fun i => settledHeader (j.result.testBit i) (if j.func = 0x20 then j.f 41 1 else j.f 42 1))
      (j.soft.zipIdx) s
    match x.1 with
    | none => (0, x.2)
    | some e => (e, emptySoft j x.2)
  else if emptiesSoft st then (st, emptySoft j s)
  else (st, unlockSoft j s)

/-- The output bytes of a job that failed or was aborted hold free values where the job can write them (R308, R312,
R319). -/
def openOutputs (j : AccJob) (s : State) : State :=
  if j.openOut && !j.body.isEmpty && goodDesc s j then
    let f := s.takeFresh
    ((outSpans f.2 j).zipIdx).foldl (fun s x =>
      if sideRegion s x.1.1 then s
      else
        let w := busWriteMany j.who x.1.1 ((List.range x.1.2).map fun i => Config.undefByte f.1 (x.2 * 2 ^ 32 + i)) s
        if w.1.isNone then w.2 else s) f.2
  else s

/-- The running entry of a job, by its number. -/
def runningJob (s : State) (t n : Nat) : Option Running :=
  s.dsq.running.find? fun r => r.id == n && r.tile == t && r.core.isNone && r.ended.isNone && r.reported.isNone

/-- Tell who submitted a job its status: an entry in OUTQ and the end of the work, a CQ result, or the outcome of a
confirmation (R310, R311). -/
def deliverJob (j : AccJob) (st : Nat) (sr : List Byte) (s : State) : State :=
  match j.ref with
  | .dsq _ _ n =>
    match runningJob s j.tile n with
    | some r =>
      let e := completionEntry j sr s
      let s := (placeOut e.2 r e.1).getD e.2
      { s with dsq := { s.dsq with running := s.dsq.running.map fun x =>
          if x.id == n then { x with reported := some false } else x } }
    | none => s
  | .cq t c tag =>
    let x := s.core t c
    s.setCore t c { x with cq := x.cq.map fun y => if y.1 = tag then (y.1, { y.2 with result := some st }) else y }
  | .conf _ _ => s

/-- The status record is written in one write; a write that fails gives the job its status, if it had none, and the record
that its submitter may see (R310, R312). -/
def putRecord (j : AccJob) (st : Nat) (s : State) : Nat × List Byte × State :=
  let sr := statusRecord s j st
  if j.body.isEmpty then (st, sr, s)
  else
    let w := busWriteMany j.who j.statusPtr sr s
    match w.1 with
    | none => (st, sr, w.2)
    | some e =>
      let e := if st = 0 then statusOfBus e else st
      (e, statusRecord w.2 j e, w.2)

/-- A job ends with a status (R310): its soft buffers, undefined outputs, the status record, counters, and its
submitter. -/
def endJob (j : AccJob) (st : Nat) (s : State) : State :=
  let x := endSoft j st s
  let y := putRecord j x.1 (openOutputs { j with openOut := j.openOut || (st == 0 && x.1 != 0) } x.2)
  let s := if x.1 == 0 && y.1 != 0 then openOutputs { j with openOut := true } (emptySoft j y.2.2) else y.2.2
  let s := accCount s j y.1
  dropJob (deliverJob j y.1 y.2.1 s) j

/-- The status of a job is decided. -/
def decideJob (j : AccJob) (st : Nat) (s : State) : State := setJob s { j with status := some st, ran := true }

/-- A job fails while it may have written outputs: they are undefined (R312, R319). -/
def failJob (j : AccJob) (st : Nat) (s : State) : State := decideJob { j with openOut := true } st s

/-- The status of a read that failed: whether the job waits, or fails and which of its outputs that leaves open. -/
def failRead (j : AccJob) (e : Nat) (s0 s : State) : State :=
  if e = waitCommit then s0 else if keepOut ≤ e then decideJob j (e - keepOut) s else failJob j e s

/-- A free soft bit in the format of R130. -/
def softBit (j : AccJob) (inputs : List Byte) (i : Nat) : Byte :=
  BitVec.ofInt 8 (Config.signalNum j.func j.body inputs 0 i % 63 - 31)

end Sys2Proof.Machine
end

