-- ==== Sys2Proof/Machine/CoreBase.lean ====
section
/-! DEFINITION. How a DSP core issues an instruction: fetch, long prefix, REP, retirement (R238, R240, R263 to R265),
the MPU (R275), exception entry (R267 to R269) and task termination (R274). Assumption log: 7 (DEDUCED), 69 (DEDUCED),
70 (DESIGN CHOICE), 73 (DEDUCED). -/

namespace Sys2Proof.Machine

/-- Instruction formats (R238). -/
inductive Fmt where
  | a | b | m | x | v | q | c
  deriving DecidableEq, Repr

/-- The format of a major opcode (R238); none for the prefix and the reserved ones above 0x3B. -/
def majorFmt (m : Nat) : Option Fmt :=
  if m < 0x08 then some .a else if m < 0x10 then some .b else if m < 0x18 then some .m else if m < 0x20 then some .x
  else if m < 0x30 then some .v else if m < 0x34 then some .q else if m < 0x3C then some .c else none

/-- The formats a REP body may have (R264). -/
def Fmt.repBody : Fmt → Bool
  | .a | .b | .m | .x | .v => true
  | _ => false

/-! ### Exception causes (R267) -/

/-- Exception causes of R267. -/
inductive Cause where
  | ifetchUe | dloadUe | align | mpuViol | illegal | vgatherFault | sideEffectSpec | cqLate | domainAsleep | break_
  | deadlineHard | trap | interrupt
  deriving DecidableEq, Repr

/-- The code of a cause; an interrupt is 0 (R267). -/
def Cause.code : Cause → Nat
  | .interrupt => 0 | .ifetchUe => 1 | .dloadUe => 2 | .align => 3 | .mpuViol => 4 | .illegal => 5
  | .vgatherFault => 6 | .sideEffectSpec => 7 | .cqLate => 8 | .domainAsleep => 9 | .break_ => 0xA
  | .deadlineHard => 0xB | .trap => 0xC

/-- An exception about to be raised: its cause, EINFO beside IMPRECISE, REP and SLOT, and the data address. -/
structure Exc where
  cause : Cause
  info : Nat := 0
  addr : Option Nat := none
  deriving DecidableEq, Repr

/-- EINFO of a bus error (R272): BUSERR and BUSCAUSE. -/
def busInfo (n : Nat) : Nat := 2 ^ 28 + n * 2 ^ 24

/-- The exception of a bus error on a fetch or load (R272). -/
def busExc (fetch : Bool) (c : BusCause) (a : Nat) : Exc :=
  match c with
  | .ue => { cause := if fetch then .ifetchUe else .dloadUe, addr := if fetch then none else some a }
  | .domainAsleep => { cause := .domainAsleep, addr := if fetch then none else some a }
  | c => { cause := .mpuViol, info := busInfo c.num, addr := if fetch then none else some a }

/-! ### The MPU (R257, R275) -/

/-- Memory types (R257). -/
inductive MemType where
  | normalC | normalNC | sideEffect
  deriving DecidableEq, Repr

/-- Kinds of access the MPU checks. -/
inductive Access where
  | read | write | exec
  deriving DecidableEq, Repr

/-- MPU region `r` of a core. -/
def Core.region (x : Core) (r : Nat) : MpuRegion :=
  mgetD { base := 0#64, limit := 0#64, attr := 0#32 } x.mpu r

/-- The enabled region contains an address, in 64-byte granules (R275). -/
def inRegion (g : MpuRegion) (a : Nat) : Bool :=
  bit g.attr 31 && decide (g.base.toNat / 64 ≤ a / 64) && decide (a / 64 ≤ g.limit.toNat / 64)

/-- The bit of MPU_ATTR that grants an access. -/
def rightBit (sup : Bool) : Access → Nat
  | .read => if sup then 2 else 5
  | .write => if sup then 1 else 4
  | .exec => if sup then 0 else 3

/-- The MPU's answer to an access: the memory type, or none where it refuses (R275). -/
def mpuCheck (x : Core) (k : Access) (a : Nat) : Option MemType :=
  if !bit x.mpuCtrl 0 then some .normalNC
  else match (List.range 16).find? fun r => inRegion (x.region r) a with
    | none => if x.sup && bit x.mpuCtrl 1 then some .normalNC else none
    | some r =>
      let w := (x.region r).attr
      if !bit w (rightBit x.sup k) then none
      else match fld w 7 6 with
        | 0 => some .normalC | 1 => some .normalNC | 2 => some .sideEffect | _ => none

/-- An address whose bits [63:48] are not all 0 (R251). -/
def nonCanonical (a : Nat) : Bool := decide (2 ^ 48 ≤ a)

/-- The MPU check of a data access with its exception (R251, R275). -/
def dataCheck (x : Core) (k : Access) (a : Nat) : Except Exc MemType :=
  if nonCanonical a then .error { cause := .mpuViol, info := busInfo 1, addr := some a }
  else match mpuCheck x k a with
    | some t => .ok t
    | none => .error { cause := .mpuViol, addr := some a }

/-! ### Exception entry and termination -/

/-- MODE and FLAGS as CORE_ESTAT holds them (R269, R278). -/
def Core.statWord (x : Core) : Word := x.flags ||| (if x.sup then bitMask 8 else 0#32)

/-- Finish a termination (R274): CORE_TERM, the report to the dispatcher, IDLE. -/
def finishTerm (s : State) (t c : Nat) : State :=
  let x := s.core t c
  match x.terminating with
  | some w =>
    if !x.stores.isEmpty then s
    else
      let s := s.setCore t c { x with term := w, terminating := none, st := .idle }
      match runningOn s t c with
      | some r => setRunning s { r with reported := some true }
      | none => s
  | none => s

/-- A CQPUSH that nothing younger has followed: it may not have retired yet, so it can still be squashed (R262, R316). -/
def CqCmd.squashable (y : CqCmd) (x : Core) : Bool := y.st == .issued && y.ret == x.retired

/-- Squash up to `k` CQPUSH instructions, youngest first, at most `n` of them: the CANCEL of each is on its way, and it is
executed again after a handler returns (R247, R262, R316). -/
def squashN : Nat → Nat → State → Nat → Nat → State
  | 0, _, s, _, _ => s
  | n + 1, k, s, t, c =>
    let x := s.core t c
    match x.cq.find? fun y => y.2.squashable x with
    | none => s
    | some y =>
      if k = 0 then s
      else squashN n (k - 1) (s.setCore t c { x with
        cq := x.cq.map fun z => if z.1 = y.1 then (z.1, { z.2 with st := .cancelled }) else z,
        pc := y.2.at_, retired := x.retired - 1#64 }) t c

/-- Squash the CQPUSH instructions in flight as an asynchronous source or TASK_STOP finds them (R270, R274): how many of
the youngest have issued and not retired is a matter of the pipeline, a free value. -/
def squashCq (s : State) (t c : Nat) : State :=
  let y := s.takeFresh
  squashN (s.core t c).cq.length (Config.squashed y.1) y.2 t c

/-- Terminate the task on a core (R274): `how` of CORE_TERM and the cause. A termination under way keeps its own. The
instructions before a TTERM or a synchronous exception have retired (R268), so their commands are committed. -/
def terminate (s : State) (t c how cause : Nat) : State :=
  let x := s.core t c
  if x.terminating.isSome then s
  else finishTerm (s.setCore t c { x with
    terminating := some (BitVec.ofNat 32 (how * 2 ^ 29 + cause)), rep := none, ext := none, load := none,
    tendWait := false, runahead := false, st := .run }) t c

/-- The registers of exception entry (R269): EPC, ESTAT, ECAUSE, EINFO, EADDR, EREP (R265), SUP, EXL and the jump. -/
def entryRegs (x : Core) (e : Exc) (epc : DWord) (einfo : Nat) (eaddr : DWord) (erep : Nat) : Core :=
  { x with
    epc := epc, estat := x.statWord, ecause := BitVec.ofNat 32 e.cause.code, einfo := BitVec.ofNat 32 einfo,
    eaddr := eaddr, erep := BitVec.ofNat 32 erep, sup := true, exl := true,
    pc := x.evec + BitVec.ofNat 64 (0x40 * e.cause.code), rep := none, ext := none, load := none,
    tendWait := false, st := .run }

/-- CORE_EADDR of an exception: its data address, or a free value. -/
def eaddrOf (s : State) (e : Exc) : DWord × State :=
  match e.addr with
  | some a => (BitVec.ofNat 64 a, s)
  | none => let y := s.takeFresh; (Config.eaddrFree y.1, y.2)

/-- Exception entry, or the termination of R274 where there is no handler or one is running. `sync`: a synchronous
exception. -/
def takeExc (s : State) (t c : Nat) (e : Exc) (sync : Bool) (epc : DWord) (einfo erep : Nat) : State :=
  let x := s.core t c
  if x.evec = 0#64 then terminate s t c 1 e.cause.code
  else if sync && x.exl then terminate s t c 2 e.cause.code
  else
    let y := eaddrOf s e
    y.2.setCore t c (entryRegs x e epc einfo y.1 erep)

/-- Cycles that a memory stage waited for a bank, counted in CORE_BANKSTALL (R254). -/
def Core.stalled (x : Core) (n : Nat) : Core := { x with bankStall := BitVec.ofNat 32 (satAdd 32 x.bankStall.toNat n) }

/-- An instruction that always issues alone, in slot 0 (R233). -/
def alone (k : Issue) : Issue := { k with slot1 := false }

/-- A synchronous exception of the instruction that issues (R265, R268, R269): EPC is the excepting instruction or
its prefix; inside a REP, EREP holds the iterations left. A prefixed instruction and the body of a REP issue in slot 0
(R233); the cycles its memory stage waited for a bank stay counted (R254, R262). -/
def syncExc (k : Issue) (s : State) (e : Exc) : State :=
  let x := (s.core k.tile k.core).stalled k.stall
  let s := s.setCore k.tile k.core x
  let slot1 := k.slot1 && x.ext.isNone && x.rep.isNone
  let epc := if x.ext.isSome then x.extAt else x.pc
  let rep := match x.rep with | some r => r.left | none => 0
  takeExc s k.tile k.core e true epc (e.info + b2n (rep != 0) * 2 ^ 30 + b2n slot1 * 2 ^ 29) rep

/-- TRAP and the BREAK instruction (R269): EPC is the next instruction. -/
def syncExcNext (k : Issue) (s : State) (e : Exc) : State :=
  let x := s.core k.tile k.core
  takeExc s k.tile k.core e true (x.pc + 4#64) (e.info + b2n k.slot1 * 2 ^ 29) 0

/-- ILLEGAL on the REP whose body is not allowed (R264). -/
def repIllegal (k : Issue) (s : State) (r : RepState) : State :=
  let x := s.core k.tile k.core
  let s := s.setCore k.tile k.core { x with pc := r.at_, rep := none, ext := none, retired := x.retired - 1#64 }
  syncExc (alone k) s { cause := .illegal }

/-! ### Fetch (R256, R257, R275) -/

/-- The line of an address. -/
def lineOf (a : Nat) : Nat := a / 64 * 64

/-- The address lies in the tile's own SRAM. -/
def ownSram (s : State) (t a : Nat) : Bool := placeOf s.part a == .sram t

/-- Lines of the instruction cache (R256). -/
def icacheAdd (x : Core) (l : Nat) : Core := { x with icache := (l :: x.icache.filter (· != l)).take 256 }

/-- A fetch that the MPU refuses: the word is read beside the check, so that an uncorrectable word is reported first
(R268, R275); nothing outside memory is read. -/
def fetchRefused (s : State) (t c a : Nat) : Option Exc × State :=
  match placeOf s.part a with
  | .sram _ | .hbm _ | .mram =>
    let r := busMemRead (.fetch t c) a 4 s
    (some (match r.1 with | .error .ue => { cause := .ifetchUe } | _ => { cause := .mpuViol }), r.2)
  | _ => (some { cause := .mpuViol }, s)

/-- Fetch the instruction at the PC: the exception it meets, if any, and the state after it. -/
def fetch (s : State) (t c : Nat) : Option Exc × State :=
  let x := s.core t c
  let a := x.pc.toNat
  if nonCanonical a then (some { cause := .mpuViol, info := busInfo 1 }, s)
  else match mpuCheck x .exec a with
    | none => fetchRefused s t c a
    | some .sideEffect => fetchRefused s t c a
    | some ty =>
      if ownSram s t a then
        let r := busMemRead (.fetch t c) a 4 s
        match r.1 with
        | .ok _ => (none, r.2)
        | .error e => (some (busExc true e a), r.2)
      else if ty == .normalC && x.icache.contains (lineOf a) then (none, s.setCore t c (icacheAdd x (lineOf a)))
      else
        let r := if ty == .normalC then busMemRead (.fetch t c) (lineOf a) 64 s else busMemRead (.fetch t c) a 4 s
        match r.1 with
        | .ok _ => (none, if ty == .normalC then r.2.setCore t c (icacheAdd (r.2.core t c) (lineOf a)) else r.2)
        | .error e => (some (busExc true e a), r.2)

/-! ### Issue and retirement -/

/-- The core issues instructions: it runs, in a tile in RUN, and waits for nothing. -/
def canIssue (s : State) (t c : Nat) : Bool :=
  let x := s.core t c
  corePresent s t c && tileRun s t && x.st == .run && x.load.isNone && !x.runahead && !x.tendWait
    && x.terminating.isNone

/-- A parity error in the instruction cache line of the PC (R373): the line is invalidated and the refetch counted. -/
def fetchParity (k : Issue) (s : State) : State :=
  let x := s.core k.tile k.core
  let l := lineOf x.pc.toNat
  if k.iparity && x.icache.contains l then
    (s.count (R.ECC_CACHE_CNT k.tile) 1).setCore k.tile k.core { x with icache := x.icache.filter (· != l) }
  else s

/-- Issue an instruction: fetch, the REP and prefix rules, then `act` on the state and the core (R240, R264). `ill` says
where the instruction is undefined or not allowed: ILLEGAL then comes before the other causes of its fetch, but for
IFETCH_UE (R268). -/
def issue (k : Issue) (fmt : Fmt) (takesPrefix : Bool) (act : State → Core → State) (s : State)
    (ill : Core → Bool := fun _ => false) : State :=
  if !canIssue s k.tile k.core then s
  else
    let f := fetch (fetchParity k s) k.tile k.core
    match f.1 with
    | some e =>
      let x := f.2.core k.tile k.core
      if e.cause ≠ .ifetchUe ∧ (ill x || (x.rep.isNone && x.ext.isSome && !takesPrefix)) then syncExc k f.2 { cause := .illegal }
      else syncExc k f.2 e
    | none =>
      let x := f.2.core k.tile k.core
      match x.rep, x.ext with
      | some r, _ => if !r.started && !fmt.repBody then repIllegal k f.2 r else act f.2 x
      | none, some _ => if takesPrefix then act f.2 x else syncExc k f.2 { cause := .illegal }
      | none, none => act f.2 x

/-- Retire an instruction that falls through: the PC advances, or stays at the body of a REP with iterations left;
CORE_RETIRED and CORE_BANKSTALL count. -/
def retire (k : Issue) (x : Core) : Core :=
  let x := { x.stalled k.stall with retired := x.retired + 1#64, ext := none }
  match x.rep with
  | some r => if r.left ≤ 1 then { x with rep := none, pc := x.pc + 4#64 }
              else { x with rep := some { r with left := r.left - 1, started := true } }
  | none => { x with pc := x.pc + 4#64 }

/-- Retire an instruction that jumps. -/
def retireTo (k : Issue) (x : Core) (target : DWord) : Core :=
  let _ := k
  { x with retired := x.retired + 1#64, ext := none, pc := target &&& ~~~3#64 }

/-- Store a core that has retired an instruction. -/
def done (k : Issue) (s : State) (x : Core) : State := s.setCore k.tile k.core (retire k x)

/-- An instruction that only changes its core. -/
def plain (k : Issue) (fmt : Fmt) (takesPrefix : Bool) (f : Core → Core) (s : State) : Host.Outcome State Fault Refusal :=
  ok (issue k fmt takesPrefix (fun s x => done k s (f x)) s)

/-- The immediate of a format B instruction with its prefix (R240): {EXT[15:0], IMM16}. -/
def immOf (x : Core) (imm : BitVec 16) (signed : Bool) : Word :=
  match x.ext with
  | some e => (e.extractLsb' 0 16) ++ imm
  | none => if signed then imm.signExtend 32 else imm.setWidth 32

end Sys2Proof.Machine
end

