-- ==== Sys2Proof/Machine/Flags.lean ====
section
/-! DEFINITION. The flags of a DSP core (R237, R278) and how each instruction class computes them (R241). -/

namespace Sys2Proof.Machine

/-- The bits of CORE_FLAGS that exist (R278). -/
def flagMask : Word := 0xDF#32

/-- Z. -/ def Core.z (x : Core) : Bool := bit x.flags 0
/-- N. -/ def Core.nf (x : Core) : Bool := bit x.flags 1
/-- C. -/ def Core.cf (x : Core) : Bool := bit x.flags 2
/-- V. -/ def Core.vf (x : Core) : Bool := bit x.flags 3
/-- T. -/ def Core.t (x : Core) : Bool := bit x.flags 4

/-- Write Z and N for a result. -/
def flagsZN (fl r : Word) : Word := setBit (setBit fl 0 (r == 0#32)) 1 r.msb
/-- Write Z, N, C and V. -/
def flagsZNCV (fl r : Word) (c v : Bool) : Word := setBit (setBit (flagsZN fl r) 2 c) 3 v

/-- Flags of a + b: C the carry out, V the signed overflow. -/
def flagsAdd (fl a b : Word) : Word :=
  let r := a + b
  flagsZNCV fl r (decide (2 ^ 32 ≤ a.toNat + b.toNat)) (a.msb == b.msb && r.msb != a.msb)

/-- Flags of a − b: C = 1 when a ≥ b unsigned, V the signed overflow (R241). -/
def flagsSub (fl a b : Word) : Word :=
  let r := a - b
  flagsZNCV fl r (decide (b.toNat ≤ a.toNat)) (a.msb != b.msb && r.msb != a.msb)

/-- Set SAT when a narrowing saturated (R237). -/
def Core.sat (x : Core) (b : Bool) : Core := if b then { x with flags := x.flags ||| bitMask 6 } else x
/-- Set ACCOV when an accumulator half saturated (R237). -/
def Core.accov (x : Core) (b : Bool) : Core := if b then { x with flags := x.flags ||| bitMask 7 } else x

/-- A branch condition holds (R240); 15 is reserved. -/
def condHolds (x : Core) (c : Nat) : Bool :=
  match c with
  | 0 => x.z | 1 => !x.z
  | 2 => x.nf != x.vf | 3 => x.nf == x.vf
  | 4 => !x.z && x.nf == x.vf | 5 => x.z || x.nf != x.vf
  | 6 => !x.cf | 7 => x.cf
  | 8 => x.nf | 9 => !x.nf
  | 10 => x.vf | 11 => !x.vf
  | 12 => x.t | 13 => !x.t
  | _ => true

end Sys2Proof.Machine
end

