-- ==== Sys2Proof/Machine/CoreRegs.lean ====
section
/-! DEFINITION. The two halves of a 64-bit register (R12), and the core-private registers (R278) as MOVC and the
Gaffer reach them. -/

namespace Sys2Proof.Machine

/-! ### R12 -/

/-- Remove what a requester holds for an address, and return it. -/
def heldTake (r : Requester) (a : Nat) : List HalfHeld → Option Word × List HalfHeld
  | [] => (none, [])
  | h :: l =>
    if h.by_ = r ∧ h.addr = a then (some h.value, l)
    else let t := heldTake r a l; (t.1, h :: t.2)

/-- Replace what a requester holds for an address. -/
def heldPut (r : Requester) (a : Nat) (w : Word) (l : List HalfHeld) : List HalfHeld :=
  { by_ := r, addr := a, value := w } :: (heldTake r a l).2

/-- Read one half of a 64-bit register at `a` whose value is `v` (R12). -/
def readHalf (r : Requester) (a : Nat) (high : Bool) (v : DWord) (s : State) : Word × State :=
  if !high then (lo32 v, { s with regs := { s.regs with latches := heldPut r a (hi32 v) s.regs.latches } })
  else
    let t := heldTake r a s.regs.latches
    (t.1.getD (hi32 v), { s with regs := { s.regs with latches := t.2 } })

/-- Write one half of a 64-bit register at `a` whose value is `v` (R12): the new value, where it takes one. -/
def writeHalf (r : Requester) (a : Nat) (high : Bool) (w : Word) (v : DWord) (s : State) : Option DWord × State :=
  if !high then (none, { s with regs := { s.regs with held := heldPut r a w s.regs.held } })
  else
    let t := heldTake r a s.regs.held
    (some (dw w (t.1.getD (lo32 v))), { s with regs := { s.regs with held := t.2 } })

/-! ### Core-private registers -/

/-- CORE_IPEND (R278). -/
def Core.ipendWord (x : Core) : Word :=
  (x.ipend &&& 0x1E#32) ||| BitVec.ofNat 32 (b2n (!x.late.isEmpty)) ||| (if x.asyncErr.isSome then bitMask 5 else 0#32)

/-- STATE of CORE_STAT. -/
def CoreSt.num : CoreSt → Nat
  | .idle => 0 | .run => 1 | .wait => 2 | .debugHalt => 3

/-- CORE_STAT (R278). -/
def Core.statusWord (x : Core) : Word :=
  BitVec.ofNat 32 (x.st.num * 2 ^ 30 + min x.asyncLost 255 * 256 + b2n x.exl * 8 + b2n x.sup * 4
    + b2n x.rep.isSome * 2 + b2n x.runahead)

/-- The MPU region and register an offset names: base 0, limit 1, attributes 2. -/
def mpuOff (off : Nat) : Option (Nat × Nat × Bool) :=
  if 0x100 ≤ off ∧ off < 0x300 then
    let o := (off - 0x100) % 0x20
    let r := (off - 0x100) / 0x20
    if o < 8 then some (r, 0, o == 4) else if o < 0x10 then some (r, 1, o == 0xC)
    else if o = 0x10 then some (r, 2, false) else none
  else none

/-- The 64-bit register at an offset (of its low half), if there is one. -/
def coreReg64 (s : State) (t c off : Nat) : Option DWord :=
  let x := s.core t c
  match off with
  | 0x10 => some x.epc | 0x18 => some x.eaddr | 0x20 => some x.evec
  | 0x50 => some x.taskDl | 0x58 => some x.taskEntry | 0x60 => some x.taskArg
  | 0x80 => some (BitVec.ofNat 64 (tileCycles s t)) | 0x88 => some x.retired | 0x90 => some x.timer
  | _ => match mpuOff off with
    | some (r, 0, false) => some (x.region r).base
    | some (r, 1, false) => some (x.region r).limit
    | _ => none

/-- The 32-bit register at an offset; an unassigned offset reads 0 (R277). -/
def coreReg32 (x : Core) (off : Nat) : Word :=
  match off with
  | 0x00 => x.ctrl | 0x04 => x.statusWord | 0x08 => x.flags | 0x0C => x.estat
  | 0x28 => x.ecause | 0x2C => x.einfo | 0x30 => x.ipendWord | 0x34 => x.imask | 0x38 => x.erep | 0x3C => x.term
  | 0x40 => x.taskQ | 0x44 => x.taskId | 0x48 => x.taskClass | 0x4C => x.taskS
  | 0x98 => x.bankStall | 0x9C => x.mispred | 0xA0 => x.runaheads
  | 0x300 => x.mpuCtrl
  | _ => match mpuOff off with
    | some (r, 2, _) => (x.region r).attr
    | _ => 0#32

/-- Clear a read-to-clear register (R14). -/
def coreClear (x : Core) (off : Nat) : Core :=
  match off with
  | 0x98 => { x with bankStall := 0#32 } | 0x9C => { x with mispred := 0#32 }
  | 0xA0 => { x with runaheads := 0#32 } | _ => x

/-- The address of a core register. -/
def coreAddr (t c off : Nat) : Nat := winBase t + 0xC000000 + c * 0x100000 + off

/-- Read a core-private register. -/
def coreRead (r : Requester) (t c off : Nat) (s : State) : Word × State :=
  match coreReg64 s t c off with
  | some v => readHalf r (coreAddr t c off) false v s
  | none => match (if off % 8 = 4 then coreReg64 s t c (off - 4) else none) with
    | some v => readHalf r (coreAddr t c (off - 4)) true v s
    | none => let x := s.core t c; (coreReg32 x off, s.setCore t c (coreClear x off))

/-- Set an MPU region. -/
def Core.setRegion (x : Core) (r : Nat) (g : MpuRegion) : Core := { x with mpu := mset r g x.mpu }

/-- Write a 64-bit register at an offset; the others are read-only. -/
def coreSet64 (x : Core) (off : Nat) (v : DWord) : Core :=
  match off with
  | 0x10 => { x with epc := v } | 0x18 => { x with eaddr := v } | 0x20 => { x with evec := v }
  | 0x90 => { x with timer := v }
  | _ => match mpuOff off with
    | some (r, 0, _) => x.setRegion r { x.region r with base := v }
    | some (r, 1, _) => x.setRegion r { x.region r with limit := v }
    | _ => x

/-- Write a 32-bit register at an offset (R278): the bits that exist; read-only ones ignore it. -/
def coreSet32 (x : Core) (off : Nat) (w : Word) : Core :=
  match off with
  | 0x00 => { x with ctrl := w &&& 7#32 }
  | 0x08 => { x with flags := w &&& flagMask }
  | 0x0C => { x with estat := w &&& 0x1DF#32 }
  | 0x28 => { x with ecause := w &&& 0xFF#32 }
  | 0x2C => { x with einfo := w }
  | 0x30 => { x with ipend := x.ipend &&& ~~~(w &&& 0x1C#32) }
  | 0x34 => { x with imask := w &&& 0x3F#32 }
  | 0x38 => { x with erep := w &&& 0x1FFF#32 }
  | 0x300 => { x with mpuCtrl := w &&& 3#32 }
  | _ => match mpuOff off with
    | some (r, 2, _) => x.setRegion r { x.region r with attr := w &&& 0x800000FF#32 }
    | _ => x

/-- Write a core-private register. -/
def coreWrite (r : Requester) (t c off : Nat) (w : Word) (s : State) : State :=
  let go (lo : Nat) (high : Bool) (v : DWord) : State :=
    let y := writeHalf r (coreAddr t c lo) high w v s
    match y.1 with
    | some d => y.2.setCore t c (coreSet64 (y.2.core t c) lo d)
    | none => y.2
  match coreReg64 s t c off with
  | some v => go off false v
  | none => match (if off % 8 = 4 then coreReg64 s t c (off - 4) else none) with
    | some v => go (off - 4) true v
    | none => s.setCore t c (coreSet32 (s.core t c) off w)

/-- The registers MOVC may read in USR (R277). -/
def usrReadable (off : Nat) : Bool := off == 8 || (0x40 ≤ off && off < 0x68) || (0x80 ≤ off && off < 0x90)

end Sys2Proof.Machine
end

