-- ==== Sys2Proof/Machine/CoreCtl.lean ====
section
/-! DEFINITION. The control instructions (R246, R263, R269, R273, R274), asynchronous exceptions (R270 to R272) and
the core's timed events. Assumption log: 73 (DEDUCED), 74 (DEDUCED). -/

namespace Sys2Proof.Machine

/-! ### Jumps -/

/-- CALL (R246). -/
def execCall (k : Issue) (disp : BitVec 26) (s : State) : Host.Outcome State Fault Refusal :=
  ok (issue k .c false (fun s x =>
    s.setCore k.tile k.core (retireTo k { x with lr := x.pc + 4#64 } (x.pc + (disp.signExtend 64 <<< 2)))) s)
/-- JR (R246). -/
def execJr (k : Issue) (an : Fin 8) (s : State) : Host.Outcome State Fault Refusal :=
  ok (issue k .c false (fun s x => s.setCore k.tile k.core (retireTo k x (x.ar an))) s)
/-- JALR (R246). -/
def execJalr (k : Issue) (an : Fin 8) (s : State) : Host.Outcome State Fault Refusal :=
  ok (issue k .c false (fun s x => s.setCore k.tile k.core (retireTo k { x with lr := x.pc + 4#64 } (x.ar an))) s)
/-- RET (R246). -/
def execRet (k : Issue) (s : State) : Host.Outcome State Fault Refusal :=
  ok (issue k .c false (fun s x => s.setCore k.tile k.core (retireTo k x x.lr)) s)
/-- The count of a REP (R263). -/
def repCount (x : Core) : RepCount → Nat
  | .imm n => n
  | .reg g => if g < 32 then (x.gr g).toNat else 4097

/-- The word after a REP may be its body (R264), by its major opcode (R238). -/
def bodyOk (s : State) (x : Core) : Bool := ((majorFmt (leVal (s.bytes (x.pc.toNat + 4) 4) / 2 ^ 26)).map Fmt.repBody).getD false

/-- REP (R263, R264): the next instruction is repeated; a count of 0 skips it, a count above 4,096 raises ILLEGAL. A body
that REP may not have raises ILLEGAL too: with a count of 0, where no body issues, by the word that follows. -/
def execRep (k : Issue) (n : RepCount) (s : State) : Host.Outcome State Fault Refusal :=
  let k := alone k
  ok (issue k .c false (fun s x =>
    let c := repCount x n
    if 4096 < c || (c = 0 && !bodyOk s x) then syncExc k s { cause := .illegal }
    else if c = 0 then s.setCore k.tile k.core (retireTo k x (x.pc + 8#64))
    else s.setCore k.tile k.core { retire k x with rep := some { at_ := x.pc, left := c, started := false } })
    s (fun x => 4096 < repCount x n))

/-! ### MOVC and the system instructions -/

/-- MOVC (R246, R277, R278): CREG is the offset ÷ 4. -/
def execMovc (k : Issue) (toReg : Bool) (g : Fin 32) (creg : BitVec 12) (s : State) : Host.Outcome State Fault Refusal :=
  ok (issue k .c false (fun s x =>
    let off := creg.toNat * 4
    if !x.sup && !(if toReg then off == 8 else usrReadable off) then syncExc k s { cause := .illegal }
    else if toReg then
      let s := coreWrite (.core k.tile k.core) k.tile k.core off (x.gr g) s
      done k s (s.core k.tile k.core)
    else
      let y := coreRead (.core k.tile k.core) k.tile k.core off s
      done k y.2 ((y.2.core k.tile k.core).setG g y.1))
    s (fun x => !x.sup && !(if toReg then creg == 2#12 else usrReadable (creg.toNat * 4))))

/-- NOP (R246). -/
def execNop (k : Issue) (s : State) : Host.Outcome State Fault Refusal := plain k .c false id s

/-- TEND (R273): with EXL = 0 the core waits for its CQ tags and posted stores; with EXL = 1 it is ILLEGAL. -/
def execTend (k : Issue) (s : State) : Host.Outcome State Fault Refusal :=
  ok (issue k .c false (fun s x =>
    if x.exl then syncExc k s { cause := .illegal }
    else s.setCore k.tile k.core { x with tendWait := true }) s (fun x => x.exl))

/-- TEND_COMPLETE (R273): no tag is outstanding and every posted store is acknowledged; the end is reported and the
core becomes IDLE. -/
def execTendComplete (tile core : Nat) (s : State) : Host.Outcome State Fault Refusal :=
  let x := s.core tile core
  if x.tendWait && x.cq.isEmpty && x.stores.isEmpty then
    let s := s.setCore tile core { x with tendWait := false, st := .idle, retired := x.retired + 1#64, pc := x.pc + 4#64 }
    match runningOn s tile core with
    | some r => ok (setRunning s { r with reported := some false })
    | none => ok s
  else ok s

/-- TRAP (R246, R267): the number is in EINFO.DETAIL. -/
def execTrap (k : Issue) (imm : BitVec 16) (s : State) : Host.Outcome State Fault Refusal :=
  ok (issue k .c false (fun s _ => syncExcNext k s { cause := .trap, info := imm.toNat }) s)
/-- BREAK (R246, R269). -/
def execBreak_ (k : Issue) (s : State) : Host.Outcome State Fault Refusal :=
  ok (issue k .c false (fun s _ => syncExcNext k s { cause := .break_ }) s)

/-- RTE (R269, R265): SUP only. -/
def execRte (k : Issue) (s : State) : Host.Outcome State Fault Refusal :=
  ok (issue k .c false (fun s x =>
    if !x.sup then syncExc k s { cause := .illegal }
    else
      let y := { x with retired := x.retired + 1#64, flags := x.estat &&& flagMask, sup := bit x.estat 8, exl := false,
                        pc := x.epc, rep := if x.erep = 0#32 then none
                          else some { at_ := x.epc, left := x.erep.toNat, started := true } }
      s.setCore k.tile k.core y) s (fun x => !x.sup))

/-- FENCE (R246, R258): completes once every older store has been performed or acknowledged. -/
def execFence (k : Issue) (s : State) : Host.Outcome State Fault Refusal :=
  ok (issue k .c false (fun s x => if x.stores.isEmpty then done k s x else s) s)

/-- WAIT (R246): issue stops unless a source is pending. -/
def execWait (k : Issue) (s : State) : Host.Outcome State Fault Refusal :=
  ok (issue k .c false (fun s x =>
    if x.ipendWord != 0#32 then done k s x
    else s.setCore k.tile k.core { retire k x with st := .wait, waitAt := s.now }) s)

/-- CORE_WAIT_TIMEOUT (R246): a source is pending, or 1,024 cycles have passed. -/
def execCoreWaitTimeout (tile core : Nat) (s : State) : Host.Outcome State Fault Refusal :=
  let x := s.core tile core
  if x.st = .wait && (x.ipendWord != 0#32 || decide (1024 ≤ islandCycles s tile (s.now - x.waitAt))) then
    ok (s.setCore tile core { x with st := .run })
  else ok s

/-- DCINV: the data cache line of An (R246, R258). -/
def execDcinv (k : Issue) (an : Fin 8) (s : State) : Host.Outcome State Fault Refusal :=
  plain k .c false (fun x => { x with dcache := mdel (lineOf (x.ar an).toNat) x.dcache }) s
/-- DCINVALL (R246). -/
def execDcinvall (k : Issue) (s : State) : Host.Outcome State Fault Refusal :=
  plain k .c false (fun x => { x with dcache := [] }) s
/-- ICINV (R246). -/
def execIcinv (k : Issue) (s : State) : Host.Outcome State Fault Refusal :=
  plain k .c false (fun x => { x with icache := [] }) s
/-- TTERM: SUP only (R246, R274). -/
def execTterm (k : Issue) (s : State) : Host.Outcome State Fault Refusal :=
  ok (issue k .c false (fun s x =>
    if !x.sup then syncExc k s { cause := .illegal } else terminate s k.tile k.core 3 0) s (fun x => !x.sup))

/-! ### Asynchronous exceptions (R270 to R272) -/

/-- The source taken first of those pending and enabled (R270), by its CORE_IPEND bit. -/
def asyncSource (x : Core) : Option Nat :=
  [5, 0, 1, 2, 3, 4].find? fun i => bit x.ipendWord i && bit x.imask i

/-- The exception of a source and the core with the source consumed at entry. -/
def asyncExc (x : Core) (i : Nat) : Exc × Core :=
  match i, x.asyncErr, x.late with
  | 5, some e, _ =>
    ({ cause := if e.ecause = 9 then .domainAsleep else .mpuViol,
       info := 2 ^ 31 + (if e.ecause = 9 then 0 else busInfo e.busCause) + (e.element.getD 0) * 2 ^ 16,
       addr := some e.addr }, { x with asyncErr := none })
  | 0, _, (tag, st) :: l => ({ cause := .cqLate, info := tag * 2 ^ 16 + st }, { x with late := l })
  | 1, _, _ => ({ cause := .deadlineHard }, { x with ipend := setBit x.ipend 1 false })
  | _, _, _ => ({ cause := .interrupt }, x)

/-- ASYNC_EXCEPTION (R266, R270): taken at an instruction boundary with EXL = 0 and no REP active; a waiting TEND
is left at its address, and a CQPUSH that has not retired is squashed. -/
def execAsyncException (tile core : Nat) (s : State) : Host.Outcome State Fault Refusal :=
  let x := s.core tile core
  if (x.st = .run || x.st = .wait) && !x.exl && x.rep.isNone && x.ext.isNone && x.load.isNone && x.terminating.isNone
      && !x.runahead && tileRun s tile then
    match asyncSource x with
    | some i =>
      let s := if x.tendWait then s else squashCq s tile core
      let x := s.core tile core
      let y := asyncExc x i
      ok (takeExc (s.setCore tile core y.2) tile core y.1 false x.pc y.1.info 0)
    | none => ok s
  else ok s

/-- CORE_TIMER (R278): CORE_CYCLE has reached a non-zero CORE_TIMER. -/
def execCoreTimer (tile core : Nat) (s : State) : Host.Outcome State Fault Refusal :=
  let x := s.core tile core
  if corePresent s tile core && x.timer != 0#64 && decide (x.timer.toNat ≤ tileCycles s tile) then
    ok (s.setCore tile core { x with timer := 0#64, ipend := x.ipend ||| bitMask 4 })
  else ok s

end Sys2Proof.Machine
end

