-- ==== Sys2Proof/Machine/CoreCq.lean ====
section
/-! DEFINITION. The coprocessor queue at the core (R247, R302, R313 to R318): CQPUSH in its five forms, CQTEST,
CQSTAT, COMMIT, CANCEL and results. Assumption log: 59 (DEDUCED), 60 (DESIGN CHOICE). -/

namespace Sys2Proof.Machine

/-- Commands of a core outstanding to a tile (R302). -/
def outstandingTo (x : Core) (tile : Nat) : Nat := (x.cq.filter fun y => y.2.tile == tile && y.2.op < 0x200).length

/-- The check of the bytes at An (R314): alignment and rights of `n` bytes. -/
def cqCheck (x : Core) (a n : Nat) (kind : Access) : Option Exc :=
  if a % n ≠ 0 then some { cause := .align, addr := some a }
  else match dataCheck x kind a with
    | .error e => some e
    | .ok _ => none

/-- CQPUSH (R247, R259, R302, R314): a posted store not yet acknowledged, an outstanding tag, or a 17th command to one tile, stalls; the command is issued with
`arrived` telling whether it needs no travel. -/
def cqIssue (k : Issue) (op tile n : Nat) (kind : Access) (arrived : Bool) (an : Fin 8) (ga : Fin 32) (tag : Fin 64)
    (act : State → State) (s : State) : State :=
  issue k .q false (fun s x =>
    if !x.stores.isEmpty || mhas x.cq tag || (decide (op < 0x200) && decide (16 ≤ outstandingTo x tile)) then s
    else match cqCheck x (x.ar an).toNat n kind with
      | some e => syncExc k s e
      | none =>
        let y := retire k x
        let c : CqCmd := { op := op, an := (x.ar an).toNat, ga := x.gr ga, st := .issued, tile := tile, at_ := x.pc, ret := y.retired,
                           arrived := arrived, acked := false, result := none }
        act (s.setCore k.tile k.core { y with cq := mset tag c y.cq })) s

/-- ACC_JOB (R313): CQOP 0x000 to 0x08F. -/
def execAccJob (k : Issue) (an : Fin 8) (ga : Fin 32) (tag : Fin 64) (target : Nat) (s : State) :
    Host.Outcome State Fault Refusal :=
  if 0x90 ≤ target then ok (issue k .q false (fun s _ => syncExc k s { cause := .illegal }) s (fun _ => true))
  else ok (cqIssue k target target 64 .read false an ga tag id s)

/-- HELPER (R320): the command joins the helper of the core's own tile. -/
def execHelper (k : Issue) (an : Fin 8) (ga : Fin 32) (tag : Fin 64) (s : State) : Host.Outcome State Fault Refusal :=
  ok (cqIssue k 0x100 k.tile 64 .read true an ga tag (fun s =>
    addJob s (newJob k.tile (.cq k.tile k.core tag) ((s.core k.tile k.core).ar an).toNat 256 false)) s)

/-- Q_PUSH (R318): nothing before COMMIT. -/
def execQPush (k : Issue) (an : Fin 8) (ga : Fin 32) (tag : Fin 64) (s : State) : Host.Outcome State Fault Refusal :=
  ok (cqIssue k 0x200 255 32 .read true an ga tag id s)
/-- Q_POP (R318). -/
def execQPop (k : Issue) (an : Fin 8) (ga : Fin 32) (tag : Fin 64) (s : State) : Host.Outcome State Fault Refusal :=
  ok (cqIssue k 0x201 255 64 .write true an ga tag id s)
/-- JOB_ABORT (R318). -/
def execJobAbort (k : Issue) (an : Fin 8) (ga : Fin 32) (tag : Fin 64) (s : State) : Host.Outcome State Fault Refusal :=
  ok (cqIssue k 0x300 255 64 .read true an ga tag id s)

/-- CQTEST (R247): T = 1 when the tag is not outstanding. -/
def execCqtest (k : Issue) (tag : Fin 64) (s : State) : Host.Outcome State Fault Refusal :=
  plain k .q false (fun x => { x with flags := setBit x.flags 4 (!mhas x.cq tag) }) s

/-- The outstanding-tag mask of a core. -/
def cqMask (x : Core) : BitVec 64 := BitVec.ofNat 64 ((x.cq.map fun y => 2 ^ y.1).foldl (· + ·) 0)

/-- CQSTAT (R247). -/
def execCqstat (k : Issue) (gd : Fin 32) (half : Bool) (s : State) : Host.Outcome State Fault Refusal :=
  plain k .q false (fun x => x.setG gd (if half then hi32 (cqMask x) else lo32 (cqMask x))) s

/-! ### Commit, cancel, results -/

/-- Change an outstanding command. -/
def modCq (s : State) (t c tag : Nat) (f : CqCmd → CqCmd) : State :=
  let x := s.core t c
  s.setCore t c { x with cq := x.cq.map fun y => if y.1 = tag then (y.1, f y.2) else y }

/-- Give a command its result. -/
def cqResult (s : State) (t c tag st : Nat) : State := modCq s t c tag fun y => { y with result := some st }

/-- A committed Q_PUSH (R318): its entry is read and pushed; at a full queue it is held. -/
def doQPush (t c tag : Nat) (y : CqCmd) (s : State) : State :=
  let r := busReadMany (.core t c) y.an 32 s
  match r.1 with
  | .error e => cqResult r.2 t c tag (statusOfBus e)
  | .ok b =>
    let p := pushFrom (.core t c tag) (fld y.ga 15 0) b r.2
    match p.1 with
    | .accepted => cqResult p.2 t c tag 0
    | .absent => cqResult p.2 t c tag Status.badArg.code
    | .asleep => cqResult p.2 t c tag Status.domainAsleep.code
    | .disabled => cqResult p.2 t c tag Status.badState.code
    | _ => p.2

/-- The header of a Q_POP (R318). -/
def popHeader (st n : Nat) : List Byte := leBytes 2 st ++ leBytes 2 n ++ leBytes 28 0

/-- Pop up to `n` entries and write each at its place, from entry `i` on: a write that fails loses the entry it carried
and ends the command (R318). The number popped, the failure, the state. -/
def popEach (r : Requester) (qid a : Nat) : Nat → Nat → State → Nat × Option BusCause × State
  | 0, i, s => (i, none, s)
  | n + 1, i, s =>
    let p := popQ s qid
    match p.1 with
    | none => (i, none, p.2)
    | some b =>
      let w := busWriteMany r (a + 32 * i) b p.2
      match w.1 with
      | some e => (i, some e, w.2)
      | none => popEach r qid a n (i + 1) w.2

/-- A committed Q_POP (R318): the header with COUNT 0 first, then the entries and the final header. -/
def doQPop (t c tag : Nat) (y : CqCmd) (s : State) : State :=
  let qid := fld y.ga 15 0
  let x := s.queue qid
  let st := if !qidPresent s qid then Status.badArg.code
    else if !tileRun s (dsqTile (qidDsq qid)) then Status.domainAsleep.code
    else if x.kind ≠ 3 then Status.badArg.code else if !x.en then Status.badState.code else 0
  let w := busWriteMany (.core t c) y.an (popHeader st 0) s
  match w.1 with
  | some e => cqResult w.2 t c tag (statusOfBus e)
  | none =>
    if st ≠ 0 then cqResult w.2 t c tag st
    else
      let n := fld y.ga 21 16
      let p := popEach (.core t c) qid (y.an + 32) (if n = 0 then 1 else n) 0 w.2
      match p.2.1 with
      | some e => cqResult p.2.2 t c tag (statusOfBus e)
      | none =>
        let v := busWriteMany (.core t c) y.an (popHeader 0 p.1) p.2.2
        cqResult v.2 t c tag (match v.1 with | some e => statusOfBus e | none => 0)

/-- Where an entry with a descriptor is queued: its place in the queue. -/
def queuedAt (s : State) (qid desc : Nat) : Option Nat :=
  let x := s.queue qid
  (List.range x.entries.length).find? fun i =>
    match x.entries[i]? with
    | some e => !e.aborted && eEntry (if x.loc then s.bytes (ringAddr x i) 32 else e.bytes) == desc
    | none => false

/-- A committed JOB_ABORT (R318): through the dispatcher a queued entry is marked for completion at the head; else the
abort goes to the tile. -/
def doJobAbort (t c tag : Nat) (y : CqCmd) (s : State) : State :=
  let send (tile : Nat) (s : State) : State :=
    { s with acc := { s.acc with aborts := s.acc.aborts ++ [{ tile := tile, at_ := y.an, by_ := some (t, c, tag) }] } }
  if !bit y.ga 31 then send (fld y.ga 7 0) s
  else
    let qid := fld y.ga 15 0
    let x := s.queue qid
    if !qidPresent s qid then cqResult s t c tag Status.badArg.code
    else if x.kind ≠ 1 then cqResult s t c tag Status.abortTooLate.code
    else match queuedAt s qid y.an with
      | some i => cqResult (s.setQueue qid { x with entries := x.entries.modify i fun e => { e with aborted := true } })
          t c tag Status.aborted.code
      | none =>
        match s.dsq.running.find? fun r => r.qid == qid && r.core.isNone && r.ended.isNone && r.reported.isNone
            && eEntry r.entry == y.an with
        | some r => send r.tile s
        | none => cqResult s t c tag Status.abortTooLate.code

/-- A job that COMMIT reaches: its staged writes are performed in order (R316); a failed one decides its status. A job
that was aborted before keeps its one outcome, and what it had staged goes (R19, R319). -/
def commitJob (j : AccJob) (s : State) : State :=
  if j.status = some Status.aborted.code then setJob s { j with committed := true, staged := [], paused := false } else
  let w := performWrites j j.staged s
  let j := { j with committed := true, staged := [], paused := false }
  match w.1 with
  | some e => failJob j e w.2
  | none => setJob w.2 j

/-- COMMIT (R316): a command that has arrived is committed; queue commands and aborts act now. -/
def execCommit (tile core tag : Nat) (s : State) : Host.Outcome State Fault Refusal :=
  match mget tag (s.core tile core).cq with
  | none => ok s
  | some y =>
    if y.st ≠ .issued || !y.arrived then ok s
    else
      let s := modCq s tile core tag fun y => { y with st := .committed }
      if y.op = 0x200 then ok (doQPush tile core tag y s)
      else if y.op = 0x201 then ok (doQPop tile core tag y s)
      else if y.op = 0x300 then ok (doJobAbort tile core tag y s)
      else match s.job y.tile (.cq tile core tag) with
        | some j => ok (commitJob j s)
        | none => ok s

/-- CANCEL (R316): the job stops, its staged writes are discarded, its slot is released, and the CANCEL is
acknowledged. -/
def execCancel (tile core tag : Nat) (s : State) : Host.Outcome State Fault Refusal :=
  match mget tag (s.core tile core).cq with
  | none => ok s
  | some y =>
    if y.st ≠ .cancelled || !y.arrived || y.acked then ok s
    else
      let s := modCq s tile core tag fun y => { y with acked := true }
      match s.job y.tile (.cq tile core tag) with
      | some j =>
        let s := if (accKind s.part j.tile).isSome then s.count (R.ACC_CNT_CANCEL j.tile) 1 else s
        ok (dropJob s j)
      | none => ok s

/-- CANCEL_ACK (R316): the tag is freed and counted. -/
def execCancelAck (tile core tag : Nat) (s : State) : Host.Outcome State Fault Refusal :=
  let x := s.core tile core
  match mget tag x.cq with
  | some y =>
    if y.acked then ok ((s.setCore tile core { x with cq := mdel tag x.cq }).count (R.CQ_CNT_CANCEL tile core) 1) else ok s
  | none => ok s

/-- CQ_RESULT_ARRIVE (R246, R310, R317): CQ_RESULT is written, the tag is freed, a status other than OK or ABORTED
enters the late-error FIFO, and a core stopped by WAIT resumes. -/
def execCqResultArrive (tile core tag : Nat) (s : State) : Host.Outcome State Fault Refusal :=
  let x := s.core tile core
  match mget tag x.cq with
  | some y =>
    match y.st, y.result with
    | .committed, some st =>
      let bad := st != 0 && st != Status.aborted.code
      let x := { x with cq := mdel tag x.cq, late := if bad then x.late ++ [(tag, st)] else x.late,
                        st := if x.st = .wait then .run else x.st }
      let s := (s.setCore tile core x).setReg (R.CQ_RESULT tile core tag) (BitVec.ofNat 32 st)
      ok (if bad then s.count (R.CQ_CNT_LATE tile core) 1 else s)
    | _, _ => ok s
  | none => ok s

/-! ### At the accelerator tile -/

/-- ACC_CQ_ARRIVE (R302, R303, R312): a command enters the FIFO of an ACC tile in RUN; a tile that is not an ACC tile
gives BAD_ARG, and a sleeping or draining one returns it. Commands of one core to one tile arrive in issue order. -/
def execAccCqArrive (tile core tag : Nat) (s : State) : Host.Outcome State Fault Refusal :=
  match mget tag (s.core tile core).cq with
  | some y =>
    if y.arrived || 0x100 ≤ y.op || (s.core tile core).cq.any (fun z =>
        !z.2.arrived && z.2.tile == y.tile && decide (z.2.op < 0x100) && decide (z.2.ret.toNat < y.ret.toNat)) then ok s
    else
      let s := modCq s tile core tag fun y => { y with arrived := true }
      match accKind s.part y.tile with
      | none => ok (cqResult s tile core tag Status.badArg.code)
      | some _ =>
        if tileRun s y.tile then ok (addJob s (newJob y.tile (.cq tile core tag) y.an 256 false))
        else ok (cqResult s tile core tag Status.domainAsleep.code)
  | none => ok s

/-- The job that `ref` names may take a slot of its tile: an ACC-JOB entry handed over to it, or the first command of
its FIFO while a CQ slot is free; the helper of a DSP tile runs one command at a time (R301, R302, R320). -/
def mayStart (s : State) (t : Nat) (r : JobRef) : Option AccJob :=
  if !tileRun s t then none
  else match r with
    | .dsq qid seq n =>
      match (runningJob s t n).filter (fun w => w.qid == qid && w.seq == seq), s.job t r with
      | some w, none => some (newJob t r (eEntry w.entry) w.scale true)
      | _, _ => none
    | _ =>
      match (s.acc.jobs.find? fun j => j.tile == t && viaCq j.ref && j.started.isNone && j.status.isNone) with
      | some j =>
        let free := if (accKind s.part t).isSome then decide (cqBusy s t < cqSlotsOf s t) else decide (cqBusy s t = 0)
        if j.ref == r && free then some j else none
      | none => none

/-- A command other than the one named is started or decided only through its own rows: bodies after a read. -/
def startBody (j : AccJob) (b : List Byte) (s : State) : State :=
  let j := { j with body := b }
  if goodDesc s j then setJob s { j with cap := if (accKind s.part j.tile).isSome then effCap j else 0 }
  else decideJob j Status.badArg.code s

/-- ACC_JOB_START (R301, R306 to R308): the job takes its slot, reads its descriptor once, and is checked. -/
def execAccJobStart (tile : Nat) (ref : JobRef) (s : State) : Host.Outcome State Fault Refusal :=
  match mayStart s tile ref with
  | none => ok s
  | some j =>
    if !j.committed && sideRegion s j.at_ then ok s
    else
      let j := { j with started := some s.now }
      let s := match s.job tile ref with | some _ => setJob s j | none => addJob s j
      let r := jobRead j j.at_ 64 s
      match r.1 with
      | .error e => ok (decideJob j e r.2)
      | .ok b => ok (startBody j b r.2)

/-- The next confirmation of a RACH_SEARCH job (R141, R305): the soft bits of its first unsettled detection go to the IN
buffer of the descriptor at AUX_PTR, which is submitted to DEC_TILE. -/
def nextConfirm (j : AccJob) (s : State) : State :=
  let busy := s.acc.jobs.any fun x => x.ref == .conf j.tile (refId j.ref) && x.at_ == j.aux
  match (j.dets.zipIdx).find? fun d => d.1.settled.isNone with
  | some d =>
    if busy || j.func ≠ 0x41 then s
    else
      let r := jobRead j j.aux 64 s
      match r.1 with
      | .error e => failJob j e r.2
      | .ok b =>
        let bits := (List.range 36).map fun i => softBit j (leBytes 4 d.1.peak.delay) (64 * d.2 + i)
        let w := performWrites j [(ent b 16 8, bits)] r.2
        match w.1 with
        | some e => failJob j e w.2
        | none =>
          let t := j.f 40 1
          if tileRun s t then addJob w.2 (newJob t (.conf j.tile (refId j.ref)) j.aux 256 true)
          else failJob j Status.domainAsleep.code w.2
  | none => s

/-- A confirmation has ended: the first unsettled detection of its RACH_SEARCH job is confirmed when the parity check
passed; after one that the search abandoned, the peak it resynchronised on is decoded (R141). -/
def confirmed (x : AccJob) (st : Nat) (s : State) : State :=
  match x.ref with
  | .conf t n =>
    match s.acc.jobs.find? fun j => j.tile == t && refId j.ref == n && j.func == 0x41 && j.started.isSome && j.aux == x.at_ with
    | some j =>
      let ds := match (j.dets.zipIdx).find? fun d => d.1.settled.isNone with
        | some d => j.dets.modify d.2 fun y => { y with settled := some (st == 0 && x.result.testBit 0) }
        | none => j.dets
      let j := if x.dropped then j else { j with dets := ds }
      nextConfirm j (setJob s j)
    | none => s
  | _ => s

/-- The report of a detection (R140). -/
def report (kind carrier : Nat) (d : Detection) : List Byte :=
  leBytes 1 kind ++ leBytes 1 d.peak.index ++ leBytes 2 carrier ++ leBytes 4 d.peak.delay ++ leBytes 2 d.peak.metric
    ++ leBytes 2 (ofSigned 16 d.peak.foff) ++ leBytes 2 d.peak.ru ++ leBytes 1 (b2n d.replaced + 2 * b2n d.peak.alias_)
    ++ leBytes 1 0

/-- KIND of a job's reports (R140). -/
def reportKind (j : AccJob) : Nat := if j.func = 0x41 then 2 else if j.f 40 1 < 0x10 then 0 else 1

/-- Write the reports of a random-access job (R140, R308): MAXDET of them, confirmed or provisional, then zeros. The
carrier is that of the first record. -/
def writeReports (carrier : Nat) (j : AccJob) (s : State) : State :=
  let ds := (j.dets.filter fun d => d.settled != some false)
  let mx := j.f (if j.func = 0x41 then 44 else 48) 1
  let b := fitBytes (16 * mx) (((ds.take mx).map (report (reportKind j) carrier)).flatten)
  let w := jobWrite j [(j.outp, b)] s
  match w.1 with
  | some e => failJob w.2.1 e w.2.2
  | none => setJob w.2.2 { w.2.1 with nok := min mx ds.length }

/-- Every detection of a RACH_SEARCH job that has run is settled: the job is done (R141). -/
def settleRach (j : AccJob) (s : State) : State :=
  if j.func = 0x41 && j.ran && j.status.isNone && j.dets.all (·.settled.isSome) then
    let s := writeReports j.used j s
    match s.job j.tile j.ref with
    | some k => if k.status.isNone then setJob s { k with status := some 0, used := 0 } else s
    | none => s
  else s

/-- ACC_JOB_COMPLETE (R310 to R312): a committed job whose status is decided writes its status record and completion
entry or result. An aborted job that never read its descriptor reads it now for STATUS_PTR. -/
def execAccJobComplete (tile : Nat) (ref : JobRef) (s : State) : Host.Outcome State Fault Refusal :=
  match s.job tile ref with
  | none => ok s
  | some j =>
    let s := settleRach j s
    match s.job tile ref with
    | none => ok s
    | some j =>
      match j.status with
      | some st =>
        if !j.committed || !tileRun s tile then ok s
        else
          let r := if j.body.isEmpty && st == Status.aborted.code then jobRead j j.at_ 64 s else (.error 0, s)
          let j := match r.1 with | .ok b => { j with body := b } | .error _ => j
          ok (confirmed j st (endJob j st (setJob r.2 j)))
      | none => ok s

/-- ACC_WATCHDOG (R312, R319, R321): a job that has not finished within WDOG ends with TIMEOUT. -/
def execAccWatchdog (tile : Nat) (ref : JobRef) (s : State) : Host.Outcome State Fault Refusal :=
  match s.job tile ref, accKind s.part tile with
  | some j, some _ =>
    let w := fld (accCtrl s tile) 31 16
    match j.started, j.status with
    | some t0, none => if w != 0 && decide (w * 10000 ≤ s.now - t0) then ok (failJob j Status.timeout.code s) else ok s
    | _, _ => ok s
  | _, _ => ok s

/-- A job that the dispatcher has handed to a tile and that has not started (R213, R301). -/
def handedOver (s : State) (tile desc : Nat) : Option Running :=
  s.dsq.running.find? fun r => r.tile == tile && r.core.isNone && r.ended.isNone && r.reported.isNone
    && eEntry r.entry == desc && (s.job tile (.dsq r.qid r.seq r.id)).isNone

/-- ACC_ABORT (R318, R319): the abort that waits for a tile and descriptor stops the first job that uses the descriptor;
ABORT_TOO_LATE where there is none, BAD_ARG where the tile is no ACC tile. -/
def execAccAbort (tile desc : Nat) (s : State) : Host.Outcome State Fault Refusal :=
  match s.acc.aborts.find? fun a => a.tile == tile && a.at_ == desc with
  | none => ok s
  | some a =>
    let s := { s with acc := { s.acc with aborts := s.acc.aborts.erase a } }
    let reply (st : Nat) (s : State) : State :=
      match a.by_ with | some (t, c, tag) => cqResult s t c tag st | none => s
    match accKind s.part tile with
    | none => ok (reply Status.badArg.code s)
    | some _ =>
      if !tileRun s tile then ok (reply Status.domainAsleep.code s)
      else match s.acc.jobs.find? fun j => j.tile == tile && j.at_ == desc with
        | some j => ok (reply Status.aborted.code (failJob j Status.aborted.code s))
        | none => match handedOver s tile desc with
          | some r => ok (reply Status.aborted.code (addJob s { newJob tile (.dsq r.qid r.seq r.id) desc r.scale true with
              status := some Status.aborted.code, ran := true }))
          | none => ok (reply Status.abortTooLate.code s)

end Sys2Proof.Machine
end

