-- ==== Sys2Proof/Machine/DmaBase.lean ====
section
/-! DEFINITION. DMA channels (R323, R333 to R337, R342, R344): their registers, the doorbell, the stream gate and the
halt, all that a register access can do to them. Assumption log: 75 (DEDUCED), 76 (DEDUCED). -/

namespace Sys2Proof.Machine

/-- The tile has a DMA engine (R323). -/
def hasDma (s : State) (t : Nat) : Bool :=
  tilePresent s.part t && (match tileKindOf t with
    | .dsp | .acc _ | .iot _ | .mem | .fab _ => true
    | _ => false)

/-- A channel. -/
def State.chan (s : State) (t c : Nat) : DmaChan := mgetD DmaChan.reset s.dma (t * 16 + c)
/-- Replace a channel. -/
def setChan (s : State) (t c : Nat) (x : DmaChan) : State := { s with dma := mset (t * 16 + c) x s.dma }
/-- Change a channel. -/
def modChan (s : State) (t c : Nat) (f : DmaChan → DmaChan) : State := setChan s t c (f (s.chan t c))

/-- Channel states (R346). -/
inductive ChSt where
  | idle | run | wait | park | halt
  deriving DecidableEq, Repr

/-- STATE as DMA_CH_STAT numbers it. -/
def ChSt.num : ChSt → Nat
  | .idle => 0 | .run => 1 | .wait => 2 | .park => 3 | .halt => 4

/-- STATE of a channel. -/
def chSt (s : State) (t c : Nat) : ChSt :=
  match s.field (R.DMA_CH_STAT t c) 31 29 with
  | 1 => .run | 2 => .wait | 3 => .park | 4 => .halt | _ => .idle

/-- Set STATE and WREASON; a channel that leaves RUN may leave its tile idle (R506). -/
def setSt (s : State) (t c : Nat) (x : ChSt) (why : Nat) : State :=
  let s := if chSt s t c == .run && x != .run then noteIdle s t else s
  (s.setField (R.DMA_CH_STAT t c) 31 29 x.num).setField (R.DMA_CH_STAT t c) 28 25 why

/-- WREASON. -/ def wReason (s : State) (t c : Nat) : Nat := s.field (R.DMA_CH_STAT t c) 28 25
/-- RING_PEND. -/ def ringPend (s : State) (t c : Nat) : Bool := s.flag (R.DMA_CH_STAT t c) 20
/-- The stream gate is open. -/ def gateOpen (s : State) (t c : Nat) : Bool := s.flag (R.DMA_CH_STAT t c) 19
/-- DMA_CH_PC. -/ def chPc (s : State) (t c : Nat) : Nat := (s.reg64 (R.DMA_CH_PC t c)).toNat
/-- Set DMA_CH_PC. -/ def setPc (s : State) (t c a : Nat) : State := s.setReg64 (R.DMA_CH_PC t c) (BitVec.ofNat 64 a)

/-- Set CORE_IPEND.DMA of a core of a present DSP tile (R331, R346). -/
def dmaIrq (s : State) (t c : Nat) : State :=
  if corePresent s t c then let x := s.core t c; s.setCore t c { x with ipend := x.ipend ||| bitMask 3 } else s

/-- The notice of entry to HALT or PARK (R334, R346), which a sleeping tile does not take (R362). -/
def chNotice (s : State) (t c bit_ : Nat) : State :=
  let w := s.reg (R.DMA_CH_CTRL t c)
  if bit w bit_ && tileRun s (fld w 26 19) then dmaIrq s (fld w 26 19) (fld w 18 17) else s

/-! ### Stream gate (R337) -/

/-- STREAM.EN. -/
def streamOn (s : State) (t c : Nat) : Bool := s.flag (R.DMA_CH_STREAM t c) 31

/-- The gate's opening condition holds, or its closing condition; a queue without watermarks keeps it open (R205). -/
def gateCond (s : State) (t c : Nat) : Bool × Bool :=
  let w := s.reg (R.DMA_CH_STREAM t c)
  let x := s.queue (fld w 15 0)
  let n := x.entries.length
  if x.hi = 0 then (true, false)
  else if bit w 30 then (decide (n ≤ x.lo), decide (x.hi ≤ n)) else (decide (x.hi ≤ n), decide (n ≤ x.lo))

/-- The gate after it has seen the fill: opened, closed, or as it was; where both conditions hold it is open. -/
def gateUpdate (s : State) (t c : Nat) : State :=
  let g := gateCond s t c
  let open_ := g.1 || (gateOpen s t c && !g.2)
  s.setField (R.DMA_CH_STAT t c) 19 19 (b2n open_)

/-- Issue the fetch at DMA_CH_PC (R334, R335, R337): a closed gate waits instead; RING_PEND is cleared and counted. -/
def issueFetch (s : State) (t c : Nat) (park : Bool := false) : State :=
  let s := modChan s t c fun x => { DmaChan.reset with abort := x.abort, waitAt := s.now, fromPark := park, turn := x.turn }
  if streamOn s t c && !gateOpen s t c then setSt s t c .wait 4
  else
    let s := if ringPend s t c then (s.setField (R.DMA_CH_STAT t c) 20 20 0).count (R.DMA_CH_DBRED t c) 1 else s
    (setSt s t c .run 0).setField (R.DMA_CH_PROG t c) 31 16 0

/-! ### Halts (R339, R340) -/

/-- INDEX of DMA_ERR_INFO. -/
def errIndex (s : State) (t c : Nat) : Nat :=
  ((chPc s t c + 2 ^ 64 - (s.reg64 (R.DMA_CH_START t c)).toNat) / 16) % 4096

/-- Rows completed without a gap from row 0. -/
def rowsDone (x : DmaChan) : Nat := (firstBelow (x.done.length + 1) fun n => !x.done.contains n).getD x.done.length

/-- DMA_CH_PROG from the channel. -/
def putProg (s : State) (t c rows : Nat) : State :=
  s.setReg (R.DMA_CH_PROG t c) (BitVec.ofNat 32 (rows % 65536 * 65536 + (s.chan t c).kept.length))

/-- Enter HALT (R339, R340). -/
def haltWith (s : State) (t c cause : Nat) (write : Bool) (access : Nat) (addr : Option Nat) (rows : Nat) : State :=
  let s := setSt s t c .halt 0
  let s := s.setField (R.DMA_CH_STAT t c) 24 21 cause
  let s := s.setReg (R.DMA_ERR_INFO t c)
    (BitVec.ofNat 32 (cause * 2 ^ 28 + b2n write * 2 ^ 27 + access * 2 ^ 24 + errIndex s t c))
  let s := match addr with | some a => s.setReg64 (R.DMA_ERR_ADDR t c) (BitVec.ofNat 64 a) | none => s
  let s := putProg s t c rows
  chNotice (modChan s t c fun x => { x with fail := none, abort := false, out := [] }) t c 28

/-- Withdraw the push of the channel that is held at a full queue (R342): its producer is no longer held (R200). -/
def withdrawPush (s : State) (t c : Nat) : State :=
  let qid := ent (s.chan t c).insn 4 2
  let x := s.queue qid
  if x.held.any (fun h => h.producer == .dma t c) then
    bpCrumb (s.setQueue qid { x with held := x.held.filter fun h => h.producer != .dma t c }) qid 2 1
  else s

/-- Nothing is outstanding: a latched failure or a pending ABORT halts the channel; ABORT wins (R340, R342). -/
def drainHalt (s : State) (t c : Nat) : State :=
  let x := s.chan t c
  if !x.out.isEmpty then s
  else if x.abort then
    (haltWith s t c 6 false 5 none (rowsDone x)).setReg (R.DMA_CH_ARESULT t c) (BitVec.ofNat 32 Status.aborted.code)
  else match x.fail with
    | some f => haltWith s t c f.cause f.write f.access (some f.addr) f.row
    | none => s

/-! ### Rows of a MOVE (R328, R341) -/

/-- Rows of a MOVE. -/ def moveRows (i : List Byte) : Nat := ent i 6 2
/-- SKIND of a MOVE. -/ def skind (i : List Byte) : Nat := ent i 1 1 % 4
/-- The instruction is a MOVE. -/ def isMove (i : List Byte) : Bool := !i.isEmpty && ent i 0 1 == 1

/-- A failure of the row about to be issued. -/
def popFail (s : State) (t c cause : Nat) : State :=
  modChan s t c fun x => { x with fail := some { row := x.next, addr := ent x.insn 8 2, cause := cause, write := false, access := 2 } }

/-- Pop the entry of the next row (R191, R204, R328, R339): kept until the row completes; an empty queue waits. -/
def popRow (s : State) (t c : Nat) : Bool × State :=
  let x := s.chan t c
  let qid := ent x.insn 8 2
  let q := s.queue qid
  if !qidPresent s qid then (false, popFail s t c 1)
  else if !tileRun s (dsqTile (qidDsq qid)) then (false, popFail s t c 4)
  else if q.kind ≠ 3 || !q.en then (false, popFail s t c 3)
  else if q.entries.isEmpty then (false, setSt s t c .wait 6)
  else
    let r := popQ s qid
    match r.1 with
    | some b => (true, modChan r.2 t c fun x => { x with kept := mset x.next b x.kept })
    | none => (false, popFail r.2 t c 2)

/-! ### Serving the channels (R324) -/

/-- ARi of a channel. -/
def chAR (s : State) (t c i : Nat) : Nat := (s.reg64 (R.DMA_CH_AR t c i)).toNat
/-- A signed field. -/ def iSigned (i : List Byte) (off n : Nat) : Int := toSigned (8 * n) (ent i off n)
/-- ROWLEN. -/ def rowLen (i : List Byte) : Nat := ent i 3 3
/-- Bits [hi:lo] of byte `n`. -/ def iBits (i : List Byte) (n hi lo : Nat) : Nat := ent i n 1 / 2 ^ lo % 2 ^ (hi + 1 - lo)

/-- Base + row × stride, modulo 2^64. -/
def rowAddr (base row : Nat) (stride : Int) : Nat := (((base : Int) + (row : Int) * stride) % 2 ^ 64).toNat

/-- Bytes of a row's source: its address, when it has one. -/
def rowSrc (s : State) (t c row : Nat) : Option Nat :=
  let x := s.chan t c
  match skind x.insn with
  | 1 => none
  | 2 => some (ent (mgetD [] x.kept row) 0 8)
  | _ => some (rowAddr (chAR s t c (iBits x.insn 2 1 0)) row (iSigned x.insn 8 4))

/-- Read requests of a row: packets of at most 512 bytes, none crossing a 512-byte block (R324, R352). -/
def rowReads (s : State) (t c row : Nat) : Nat :=
  match rowSrc s t c row with
  | some a => ceilDiv (a % 512 + rowLen (s.chan t c).insn) 512
  | none => 0

/-- Read requests that the engine of a tile has in flight. -/
def engineReads (s : State) (t : Nat) : Nat :=
  ((List.range 16).map fun c =>
    if isMove (s.chan t c).insn then ((s.chan t c).out.map (rowReads s t c)).foldl (· + ·) 0 else 0).foldl (· + ·) 0

/-- Channel `c` may issue a row: in RUN, or waiting on an empty queue where it is `also`; none after a failure or an ABORT,
at most 16 popped entries, and 256 read requests in flight in the engine. -/
def mayIssueRow (s : State) (t also c : Nat) : Bool :=
  let x := s.chan t c
  (chSt s t c == .run || (c == also && chSt s t c == .wait && wReason s t c == 6)) && x.begun && isMove x.insn &&
  x.fail.isNone && !x.abort && decide (x.next < moveRows x.insn) &&
  (skind x.insn == 0 || x.done.contains x.next || mhas x.kept x.next || decide (x.kept.length < 16)) &&
  decide (engineReads s t < 256)

/-- CLASS of a channel. -/
def chClass (s : State) (t c : Nat) : Nat := s.field (R.DMA_CH_CTRL t c) 30 29

/-- The channel of a class that the engine served last. -/
def lastServed (s : State) (t cls : Nat) : Nat :=
  ((List.range 16).filter fun c => chClass s t c == cls).foldl
    (fun b c => if b = 16 ∨ (s.chan t b).turn < (s.chan t c).turn then c else b) 16

/-- The channel whose turn it is: strictly by class, and round-robin within one. -/
def nextChan (s : State) (t also : Nat) : Option Nat :=
  let order (c : Nat) : Nat := chClass s t c * 32 + (c + 31 - lastServed s t (chClass s t c)) % 16
  ((List.range 16).filter (mayIssueRow s t also)).foldl (fun b c =>
    match b with
    | none => some c
    | some d => if order c < order d then some c else some d) none

/-- A channel's next row is issued, or is not for want of an entry; the engine has served it. -/
def issueOne (s : State) (t c : Nat) : Bool × State :=
  let turn := ((List.range 16).map fun d => (s.chan t d).turn).foldl max 0 + 1
  let s := modChan s t c fun x => { x with turn := turn }
  let x := s.chan t c
  let go (s : State) : State := modChan s t c fun x => { x with out := x.out ++ [x.next], next := x.next + 1 }
  if skind x.insn = 0 ∨ mhas x.kept x.next then (true, go s)
  else if x.done.contains x.next then (true, modChan s t c fun x => { x with next := x.next + 1 })
  else
    let p := popRow s t c
    (p.1, if p.1 then go (setSt p.2 t c .run 0) else p.2)

/-- Issue rows while the engine has room: every channel of the tile in its turn, each in ascending row order; channel `c`
also tries a queue that it found empty, once. -/
def issueRows : Nat → State → Nat → Nat → State
  | 0, s, _, _ => s
  | fuel + 1, s, t, c =>
    match nextChan s t c with
    | none => s
    | some k =>
      let r := issueOne s t k
      issueRows fuel r.2 t (if k = c ∧ !r.1 then 16 else c)

/-! ### The doorbell (R333 to R335, R341, R342) -/

/-- RING (R334, R335, R337). -/
def doRing (s : State) (t c : Nat) : State :=
  match chSt s t c with
  | .idle =>
    let s := (s.setReg64 (R.DMA_CH_START t c) (s.reg64 (R.DMA_CH_PC t c))).setReg64 (R.DMA_CH_BYTES t c) 0#64
    let s := s.setField (R.DMA_CH_STAT t c) 24 21 0
    let s := (s.setReg64 (R.DMA_ERR_ADDR t c) 0#64).setReg (R.DMA_ERR_INFO t c) 0#32
    let s := s.setField (R.DMA_CH_STAT t c) 19 19 (b2n (streamOn s t c && (gateCond s t c).1))
    issueFetch s t c
  | .park => issueFetch s t c true
  | .halt => s.count (R.DMA_CH_DBRED t c) 1
  | .run | .wait => s.orReg (R.DMA_CH_STAT t c) 20

/-- ABORT (R334, R342). -/
def doAbort (s : State) (t c : Nat) : State :=
  match chSt s t c with
  | .run | .wait =>
    let s := if wReason s t c = 5 then modChan (withdrawPush s t c) t c fun x => { x with out := [] } else s
    drainHalt (modChan s t c fun x => { x with abort := true }) t c
  | _ => s.setReg (R.DMA_CH_ARESULT t c) (BitVec.ofNat 32 Status.abortTooLate.code)

/-- RESUME (R341): a MOVE goes on from row ROWS_DONE with its kept entries; queue rows already completed are not
repeated; anything else is fetched and executed again. -/
def doResume (s : State) (t c : Nat) : State :=
  if chSt s t c ≠ .halt then s
  else
    let x := s.chan t c
    let cause := s.field (R.DMA_CH_STAT t c) 24 21
    if isMove x.insn && x.begun && cause ≠ 5 && cause ≠ 7 then
      let n := s.field (R.DMA_CH_PROG t c) 31 16
      let d := if skind x.insn = 0 then x.done.filter (· < n) else x.done
      let s := setChan s t c { x with done := d, next := n, out := [], fail := none, abort := false }
      let s := issueRows 512 (setSt s t c .run 0) t c
      putProg s t c n
    else issueFetch s t c

/-- RESET (R334): PARK and HALT go to IDLE; loop counters and progress are cleared. -/
def doReset (s : State) (t c : Nat) : State :=
  match chSt s t c with
  | .park | .halt =>
    let s := (List.range 4).foldl (fun s i => s.setReg (R.DMA_CH_LC t c i) 0#32) s
    let s := setChan s t c DmaChan.reset
    ((setSt s t c .idle 0).setReg (R.DMA_CH_PROG t c) 0#32).setField (R.DMA_CH_STAT t c) 20 19 0
  | _ => s

/-- A write of DMA_CH_DOORBELL (R333, R346). -/
def dmaDoorbell (s : State) (t c : Nat) (w : Word) : State :=
  match fld w 2 0 with
  | 1 => doRing s t c
  | 2 => doAbort s t c
  | 3 => doResume s t c
  | 4 => doReset s t c
  | _ => s

/-- Registers of a channel may be written now (R333). -/
def chWritable (s : State) (t c : Nat) : Bool :=
  match chSt s t c with
  | .run | .wait => false
  | _ => true

/-- A write of DMA_CH_CTRL (R333, R344, R346): IRQ_TILE keeps its value unless it names a present DSP tile, and LOCK is
read-only. -/
def dmaCtrlWrite (s : State) (t c : Nat) (w : Word) : State :=
  if !chWritable s t c then s
  else
    let a := R.DMA_CH_CTRL t c
    let old := s.reg a
    let w := if isDsp s.part (fld w 26 19) then w else setFld w 26 19 (fld old 26 19)
    s.setReg a ((w &&& 0x7FFE0000#32) ||| (old &&& 0x80000000#32))

/-- Set event flags (R331, R346). -/
def evtSet (s : State) (t : Nat) (m : Word) : State := s.modReg (R.DMA_EVT t) (· ||| m)

end Sys2Proof.Machine
end

