-- ==== Sys2Proof/Machine/Lanes.lean ====
section
/-! DEFINITION. Traffic and management lanes (R394 to R411): bring-up, losses, adaptation by the Lehr, PRBS generators
and checkers, and LANE_TEST. Assumption log: 82 (DESIGN CHOICE), 83 (DEDUCED). -/

namespace Sys2Proof.Machine

/-! ### Ports and lanes -/

/-- The lanes of port `p` in the mode it runs (R395): port 4 is the management lane. -/
def portLanes (s : State) (k p : Nat) : List Nat :=
  (List.range (modeLanes (s.field (R.ETH_MODE k p) 3 0))).map fun i => p + i

/-- The port that lane `l` belongs to in the modes that run. -/
def portOfLane (s : State) (k l : Nat) : Option Nat :=
  (List.range 5).find? fun p => ethPort s k p && (portLanes s k p).contains l

/-- The bring-up step of a port (ETH_STAT.STEP). -/
def ethStep (s : State) (k p : Nat) : Nat := s.field (R.ETH_STAT k p) 3 0

/-- The port is up: in step 8 with no fault for 1 ms (ETH_STAT.LINK_UP). -/
def linkUp (s : State) (k p : Nat) : Bool := s.flag (R.ETH_STAT k p) 4

/-- Set or clear a bit of SD_STAT on lanes. -/
def sdStat (s : State) (k : Nat) (ls : List Nat) (i : Nat) (b : Bool) : State :=
  ls.foldl (fun s l => s.setField (R.SD_STAT k l) i i (b2n b)) s

/-- The port has RS-FEC (R395). -/
def portFec (s : State) (k p : Nat) : Bool := s.field (R.ETH_MODE k p) 5 4 != 0

/-- The time limit of a bring-up step in ns (R398): step 3 by line code, steps 4 to 7 1 ms, the others none. -/
def stepLimit (s : State) (k p n : Nat) : Option Nat :=
  if n = 3 then some (if 3 ≤ s.field (R.SD_CFG k p) 2 0 then 40000000 else 5000000)
  else if 4 ≤ n ∧ n ≤ 7 then some 1000000 else none

/-! ### Bring-up (R398 to R401) -/

/-- SIGNAL_DETECT (R398): signal on every lane for 100 µs ends step 2. -/
def execSignalDetect (iot port : Nat) (s : State) : Host.Outcome State Fault Refusal :=
  if ethPort s iot port && (ethStep s iot port == 1 || ethStep s iot port == 2) then
    ok (enterStep (sdStat s iot (portLanes s iot port) 0 true) iot port 3)
  else ok s

/-- CDR_LOCK (R398): every lane locks within ±200 ppm, which ends step 3; a rate outside that never does. -/
def execCdrLock (iot port : Nat) (ppm : Int) (s : State) : Host.Outcome State Fault Refusal :=
  if ethPort s iot port && ethStep s iot port == 3 && decide (-200 ≤ ppm ∧ ppm ≤ 200) then
    ok (enterStep (sdStat s iot (portLanes s iot port) 1 true) iot port 4)
  else ok s

/-- What a lane finds is of the kind its port's code has: markers with RS-FEC, blocks without (R399). -/
def laneSeesOk (fec : Bool) : LaneSees → Bool
  | .marker _ => fec
  | .blocks n => !fec && decide (n ≤ 1024)

/-- The lane inverts: a complemented marker, or more than 512 of 1,024 blocks valid only after inversion (R399). -/
def seesInverted : LaneSees → Bool
  | .marker c => c
  | .blocks n => decide (512 < n)

/-- POLARITY_CORRECT (R399): block or marker lock on every lane, and what each finds, in lane order; step 5 is skipped on
ports of one lane. -/
def execPolarityCorrect (iot port : Nat) (sees : List LaneSees) (s : State) : Host.Outcome State Fault Refusal :=
  let ls := portLanes s iot port
  if ethPort s iot port && ethStep s iot port == 4 && sees.length == ls.length &&
      sees.all (laneSeesOk (portFec s iot port)) then
    let s := sdStat (sdStat s iot ls 2 true) iot ls 4 false
    let s := sdStat s iot (((ls.zip sees).filter fun x => seesInverted x.2).map Prod.fst) 4 true
    ok (enterStep s iot port (if 1 < ls.length then 5 else 6))
  else ok s

/-- LANE_REVERSAL (R400): the lanes are mapped in the order of the lane numbers in their markers; RXREV shows a whole
reversal. -/
def execLaneReversal (iot port : Nat) (order : List Nat) (s : State) : Host.Outcome State Fault Refusal :=
  let ls := portLanes s iot port
  if ethPort s iot port && ethStep s iot port == 5 && order.length == ls.length &&
      (List.range ls.length).all order.contains then
    let s := { s with lanes := { s.lanes with order := mset (portKey iot port) order s.lanes.order } }
    ok (enterStep (sdStat s iot ls 5 (order == (List.range ls.length).reverse)) iot port 6)
  else ok s

/-- The physical lane at a port's timestamp point: the one that carries lane 0 (R400, R449). -/
def stampLane (s : State) (k p : Nat) : Nat :=
  match mget (portKey k p) s.lanes.order with
  | some l => if (portLanes s k p).length = l.length then p + l.findIdx (· == 0) else p
  | none => p

/-- DESKEW (R398): a skew of at most 180 ns, in units of 0.1 ns, ends step 6; step 7 is skipped without FEC. -/
def execDeskew (iot port skew : Nat) (s : State) : Host.Outcome State Fault Refusal :=
  if ethPort s iot port && ethStep s iot port == 6 then
    let s := s.setReg (R.ETH_SKEW iot port) (BitVec.ofNat 32 (min skew 65535))
    if skew ≤ 1800 then ok (enterStep s iot port (if portFec s iot port then 7 else 8)) else ok s
  else ok s

/-- FEC_LOCK (R398): codeword alignment ends step 7. -/
def execFecLock (iot port : Nat) (s : State) : Host.Outcome State Fault Refusal :=
  if ethPort s iot port && ethStep s iot port == 7 then ok (enterStep s iot port 8) else ok s

/-- A lane of the port is under test (R410). -/
def portUnderTest (s : State) (k p : Nat) : Bool :=
  (portLanes s k p).any fun l => mhas s.lanes.tests (k * 8 + l)

/-- What comes with a link that is up (R398, R406, R446, R449): faults clear, adaptation runs, the lane delays are
calibrated, and a SyncE source waits to be restored. -/
def comeUp (s : State) (k p txDly rxDly : Nat) : State :=
  let s := ((s.setField (R.ETH_STAT k p) 4 4 1).setField (R.ETH_STAT k p) 6 5 0)
  let s := sdStat s k (portLanes s k p) 3 true
  let s := (s.setReg (R.PTP_TX_DLY k p) (BitVec.ofNat 32 txDly)).setReg (R.PTP_RX_DLY k p) (BitVec.ofNat 32 rxDly)
  let s := s.setField (R.PTP_STAT k p) 27 27 1
  let s := { s with fh := { s.fh with measAt := mdel (portKey k p) s.fh.measAt } }
  if p < 4 && mhas s.time.syncePrio (k * 8 + p) then
    s.modTime fun x => { x with wtr := mset (k * 8 + p) (s.now + 300 * 1000000000) x.wtr }
  else s

/-- LINK_UP (R398): 1 ms in step 8 with no local or remote fault, and no lane under test. -/
def execLinkUp (iot port txDly rxDly : Nat) (s : State) : Host.Outcome State Fault Refusal :=
  if ethPort s iot port && ethStep s iot port == 8 && !linkUp s iot port && !portUnderTest s iot port
      && decide (mgetD 0 s.lanes.stepAt (portKey iot port) + 1000000 ≤ s.now) then
    ok (comeUp s iot port txDly rxDly)
  else ok s

/-- BRINGUP_STEP_TIMEOUT (R398): a step 3 to 7 past its limit returns the port to step 2. -/
def execBringupStepTimeout (iot port : Nat) (s : State) : Host.Outcome State Fault Refusal :=
  if ethPort s iot port then
    match stepLimit s iot port (ethStep s iot port) with
    | some n =>
      if mgetD 0 s.lanes.stepAt (portKey iot port) + n < s.now then
        let s := (s.count (R.ETH_CNT_BRINGUP_FAIL iot port) 1).orReg (R.ETH_EVT iot port) 1
        ok (enterStep s iot port 2)
      else ok s
    | none => ok s
  else ok s

/-- What leaving step 8 does (R401, R402, R449): the count and flag, no adaptation, calibration void, a PTP port back in
LISTENING, the DPLL without its SyncE source (R446), and the frame in transmission discarded. -/
def dropLink (s : State) (k p : Nat) : State :=
  let s := (s.count (R.ETH_CNT_LINKDOWN k p) 1).orReg (R.ETH_EVT k p) 0
  let s := s.setField (R.ETH_STAT k p) 4 4 0
  let s := sdStat s k (portLanes s k p) 3 false
  let s := s.setField (R.PTP_STAT k p) 27 27 0
  let s := if ptpState s k p == 6 || ptpState s k p == 9 then s.setField (R.PTP_STAT k p) 31 28 4 else s
  let s := if s.flag R.TIME_SYNCE 30 && s.field R.TIME_SYNCE 23 21 == k && s.field R.TIME_SYNCE 20 16 == p then
      s.setField R.TIME_SYNCE 30 30 0 else s
  match mget (portKey k p) s.eg.tx with
  | some f => s.setTx (portKey k p) { f with disc := true, status := Status.badState.code }
  | none => s

/-- The lane facts of a loss (R401, R411). -/
def noteLoss (s : State) (k p : Nat) : LinkLoss → State
  | .signal l => (sdStat (sdStat (sdStat s k [l] 0 false) k [l] 1 false) k [l] 2 false).orReg (R.SD_EVT k l) 0
  | .cdr l => ((sdStat (sdStat s k [l] 1 false) k [l] 2 false).orReg (R.SD_EVT k l) 1).count (R.SD_CNT_LOL k l) 1
  | .block l => sdStat s k [l] 2 false
  | .skew | .fec => s
  | .localFault => s.setField (R.ETH_STAT k p) 5 5 1
  | .remoteFault => s.setField (R.ETH_STAT k p) 6 6 1

/-- The step a loss sends the port back to (R401). -/
def lossStep : LinkLoss → Nat
  | .signal _ => 2 | .cdr _ => 3 | .block _ => 6 | .skew => 6 | .fec => 7 | .localFault => 8 | .remoteFault => 8

/-- The lane a loss names is one of the port. -/
def lossOnPort (s : State) (k p : Nat) : LinkLoss → Bool
  | .signal l | .cdr l | .block l => (portLanes s k p).contains l
  | .fec => portFec s k p
  | _ => true

/-- LINK_DOWN (R401): a loss after link up. -/
def execLinkDown (iot port : Nat) (loss : LinkLoss) (s : State) : Host.Outcome State Fault Refusal :=
  if ethPort s iot port && linkUp s iot port && lossOnPort s iot port loss then
    ok (enterStep (noteLoss (dropLink s iot port) iot port loss) iot port (lossStep loss))
  else ok s

/-! ### Adaptation and margin (R406, R407) -/

/-- A code moved by at most one step and kept in 8 bits. -/
def nudge (v : Nat) (d : Int) : Nat := (clampInt 0 255 ((v : Int) + clampInt (-1) 1 d)).toNat

/-- ADAPTATION_STEP (R406): every 10 ms, on a port that is up and not under test; the lane's receive delay is measured
again, and is the port's where the lane is at its timestamp point. -/
def execAdaptationStep (iot lane : Nat) (dCtle dDfe : Int) (rxDly : Nat) (s : State) :
    Host.Outcome State Fault Refusal :=
  match portOfLane s iot lane with
  | some p =>
    if linkUp s iot p && !portUnderTest s iot p
        && decide (mgetD 0 s.lanes.adaptAt (iot * 8 + lane) + 10000000 ≤ s.now) then
      let s := s.modReg (R.SD_RXEQ iot lane) fun w =>
        setFld (setFld w 15 8 (nudge (fld w 15 8) dCtle)) 7 0 (nudge (fld w 7 0) dDfe)
      let s := if stampLane s iot p = lane then s.setReg (R.PTP_RX_DLY iot p) (BitVec.ofNat 32 rxDly) else s
      ok (dutyDone 4 (dutyDone 3 { s with lanes := { s.lanes with adaptAt := mset (iot * 8 + lane) s.now s.lanes.adaptAt } }))
    else ok s
  | none => ok s

/-- MARGIN_LOW (R407): the margins the receiver measures; a vertical margin below EYE_MIN for 1 s sets the flag. -/
def execMarginLow (iot lane vert horz : Nat) (s : State) : Host.Outcome State Fault Refusal :=
  if !(ethPort s iot lane) then ok s
  else
    let s := s.modReg (R.SD_EYE iot lane) fun w => setFld (setFld w 15 8 (min vert 255)) 7 0 (min horz 255)
    if vert < s.field (R.SD_EYE iot lane) 23 16 then ok (s.orReg (R.SD_EVT iot lane) 2) else ok s

/-! ### PRBS (R408) -/

/-- The checker of a lane is locked. -/
def prbsLocked (s : State) (k l : Nat) : Bool := s.flag (R.SD_PRBS_CTRL k l) 28

/-- The counters advance by what was compared under lock, 48 bits saturating. -/
def prbsCount (s : State) (k l bits errs : Nat) : State :=
  if prbsLocked s k l then
    let add (a n : Nat) (s : State) : State := s.setReg64 a (BitVec.ofNat 64 (satAdd 48 (s.reg64 a).toNat n))
    add (R.SD_PRBS_BITS k l) bits (add (R.SD_PRBS_ERR k l) errs s)
  else s

/-- Both counters at 0. -/
def prbsClear (s : State) (k l : Nat) : State :=
  (s.setReg64 (R.SD_PRBS_ERR k l) 0#64).setReg64 (R.SD_PRBS_BITS k l) 0#64

/-- The generator of a lane runs. -/
def prbsGen (s : State) (k l : Nat) : Bool := s.flag (R.SD_PRBS_CTRL k l) 31

/-- The loopback of a lane (R409, SD_LPBK). -/
def loopback (s : State) (k l : Nat) : Nat := s.field (R.SD_LPBK k l) 1 0

/-- What a lane drives onto its line: under either near-end loopback the transmitter still drives it, under far-end
loopback it drives what it receives (R409). -/
def laneDrive (s : State) (k l : Nat) : LaneDrive :=
  let inv := s.flag (R.SD_CFG k l) 4
  if s.field (R.SD_CFG k l) 2 0 = 0 then .off
  else if loopback s k l = 3 then .retimed
  else if prbsGen s k l then .pattern (s.field (R.SD_PRBS_CTRL k l) 3 0) inv
  else .own inv

/-- What a lane takes in (R409). -/
def laneTakes (s : State) (k l : Nat) : LaneTakes :=
  if loopback s k l = 1 then .serialiser else if loopback s k l = 2 then .pcs else .line

/-- The line sees what a lane drives once that has changed. -/
def noteDrive (old s : State) (k l : Nat) : State :=
  if laneDrive old k l = laneDrive s k l then s else s.emit (.lane k l (laneDrive s k l))

/-- The loop that the loopback closes (R409): the deserialiser has its own serialiser's signal and the CDR locks to it; the
receive PCS has the blocks of its own transmit PCS, unless the generator replaces them. -/
def closeLoop (s : State) (k l : Nat) : State :=
  let lit := s.field (R.SD_CFG k l) 2 0 != 0
  match laneTakes s k l with
  | .line => s
  | .serialiser => sdStat (sdStat (sdStat s k [l] 0 lit) k [l] 1 lit) k [l] 2 (lit && !prbsGen s k l)
  | .pcs => sdStat s k [l] 2 (lit && !prbsGen s k l)

/-- The checker can meet its pattern: on a closed loop only if the lane's own generator sends it (R409). -/
def checkable (s : State) (k l : Nat) : Bool := laneTakes s k l == .line || prbsGen s k l

/-- PRBS_LOCK (R408, R409): 64 error-free bits lock the checker, in either polarity; what comes back from the transmit PCS
is never inverted. -/
def execPrbsLock (iot lane : Nat) (inverted : Bool) (s : State) : Host.Outcome State Fault Refusal :=
  if ethPort s iot lane && s.flag (R.SD_PRBS_CTRL iot lane) 30 && !prbsLocked s iot lane && checkable s iot lane then
    let inv := inverted && laneTakes s iot lane != .pcs
    ok ((s.setField (R.SD_PRBS_CTRL iot lane) 28 28 1).setField (R.SD_PRBS_CTRL iot lane) 27 27 (b2n inv))
  else ok s

/-- PRBS_LOCK_LOSS (R408): more than 256 errors in 1,024 bits unlock the checker; what it compared under lock has been
counted. -/
def execPrbsLockLoss (iot lane bits errs : Nat) (s : State) : Host.Outcome State Fault Refusal :=
  if ethPort s iot lane && prbsLocked s iot lane then
    let s := prbsCount s iot lane bits errs
    let s := s.setField (R.SD_PRBS_CTRL iot lane) 28 28 0
    ok (s.setField (R.SD_PRBS_CTRL iot lane) 11 4 (satAdd 8 (s.field (R.SD_PRBS_CTRL iot lane) 11 4) 1))
  else ok s

/-- A write to SD_PRBS_CTRL: GEN, CHK and PATTERN, a checker that is off loses its lock, and CLR clears the
counters. -/
def prbsCtrlWrite (k l : Nat) (v : Word) (s0 : State) : State :=
  let s := s0.modReg (R.SD_PRBS_CTRL k l) fun w => setFld (setFld w 31 30 (fld v 31 30)) 3 0 (fld v 3 0)
  let s := if bit v 30 then s else s.setField (R.SD_PRBS_CTRL k l) 28 28 0
  let s := if bit v 29 then prbsClear s k l else s
  noteDrive s0 s k l

/-- A write to SD_LPBK (R409). -/
def lpbkWrite (k l n : Nat) (s : State) : State :=
  noteDrive s (closeLoop (s.setField (R.SD_LPBK k l) 1 0 n) k l) k l

/-- PRBS_COUNTER_CLEAR (R408, R411): a write to SD_PRBS_CTRL, by the Gaffer only. -/
def execPrbsCounterClear (r : Requester) (iot lane : Nat) (value : Word) (s : State) :
    Host.Outcome State Fault Refusal :=
  if !ethPort s iot lane then ok (s.answer (.error .decodeErr))
  else if r != .gaffer then ok (s.answer (.error .prot))
  else ok ((prbsCtrlWrite iot lane value s).answer .done)

/-! ### LANE_TEST (R410) -/

/-- LANE_TEST. -/
def opLaneTest : OpInfo := { opcode := 0x0804 }

/-- The pattern suits the lane's rate (R408). -/
def patternOk (s : State) (k l pattern : Nat) : Bool :=
  (decide (1 ≤ pattern ∧ pattern ≤ 6)) ||
    ((pattern == 7 || pattern == 8) && (s.field (R.SD_CFG k l) 2 0 == 3 || s.field (R.SD_CFG k l) 2 0 == 4))

/-- The lane's port carries a bound RU path, or the lane is the MGT lane of the requester's port. -/
def testRefused (s : State) (m : TcsMsg) (k l : Nat) : Bool :=
  (match portOfLane s k l with
   | some p => !(rusOnPort s (portKey k p)).isEmpty
   | none => false) ||
  (match m.via with
   | .mgt q => l == 4 && k == q.val
   | _ => false)

/-- The response payload: both counters. -/
def testPayload (s : State) (k l : Nat) : List Byte :=
  leBytes 8 (s.reg64 (R.SD_PRBS_ERR k l)).toNat ++ leBytes 8 (s.reg64 (R.SD_PRBS_BITS k l)).toNat

/-- Set ETH_STAT.TEST by the lanes under test. -/
def noteTest (s : State) (k p : Nat) : State := s.setField (R.ETH_STAT k p) 7 7 (b2n (portUnderTest s k p))

/-- A port leaves step 8 for a test. -/
def takeOut (s : State) (k l : Nat) : State :=
  match portOfLane s k l with
  | some p =>
    let s := if linkUp s k p then dropLink s k p else s
    noteTest (enterStep s k p 0) k p
  | none => s

/-- Start a test: the counters are cleared, the generator, checker and loopback set. -/
def testStart (s : State) (k l action pattern loopback durMs : Nat) : State :=
  let t : LaneTest := { action := action, until_ := if durMs = 0 then none else some (s.now + durMs * 1000000) }
  let s := { s with lanes := { s.lanes with tests := mset (k * 8 + l) t s.lanes.tests } }
  let s := prbsClear s k l
  let v := (if action = 1 ∨ action = 3 then 2 ^ 31 else 0) + (if action = 2 ∨ action = 3 then 2 ^ 30 else 0)
    + (if action = 4 then 0 else pattern)
  let s := (s.setField (R.SD_PRBS_CTRL k l) 28 27 0).setField (R.SD_PRBS_CTRL k l) 11 4 0
  takeOut (lpbkWrite k l loopback (prbsCtrlWrite k l (BitVec.ofNat 32 v) s)) k l

/-- Stop a test: the configured mode is restored and the port starts at step 1; the counters keep their values. -/
def testStop (s : State) (k l : Nat) : State :=
  let s := { s with lanes := { s.lanes with tests := mdel (k * 8 + l) s.lanes.tests } }
  let s := lpbkWrite k l 0 (prbsCtrlWrite k l ((s.reg (R.SD_PRBS_CTRL k l)) &&& 0x0FFFFFFF#32) s)
  match portOfLane s k l with
  | some p => noteTest (if portUnderTest s k p then s else enterStep s k p 1) k p
  | none => s

/-- LANE_TEST with its checks; the test itself is `act`. -/
def laneTest (m : TcsMsg) (k l : Nat) (good : State → Bool) (act : State → State) (s : State) :
    Host.Outcome State Fault Refusal :=
  ok (serve opLaneTest m 0 (guarded m 25 false fun s =>
    if !ethPort s k l || !good s then refuse .badArg s
    else if testRefused s m k l then refuse .badState s
    else
      let s := act s
      { st := .ok, payload := testPayload s k l, state := s }) s)

/-- The fields of ACTIONs 1 to 4 are in range. -/
def testArgs (loopback durMs : Nat) : Bool := decide (loopback ≤ 3) && decide (durMs ≤ 86400000)

/-- LANE_TEST_STOP (R410), ACTION 0, with what the checker compared since the last count. -/
def execLaneTestStop (m : TcsMsg) (iot lane bits errs : Nat) (s : State) : Host.Outcome State Fault Refusal :=
  laneTest m iot lane (fun _ => true) (fun s =>
    if mhas s.lanes.tests (iot * 8 + lane) then testStop (prbsCount s iot lane bits errs) iot lane else s) s

/-- LANE_TEST_GENERATE (R410), ACTION 1. -/
def execLaneTestGenerate (m : TcsMsg) (iot lane pattern loopback durationMs : Nat) (s : State) :
    Host.Outcome State Fault Refusal :=
  laneTest m iot lane (fun s => patternOk s iot lane pattern && testArgs loopback durationMs)
    (fun s => testStart s iot lane 1 pattern loopback durationMs) s

/-- LANE_TEST_CHECK (R410), ACTION 2. -/
def execLaneTestCheck (m : TcsMsg) (iot lane pattern loopback durationMs : Nat) (s : State) :
    Host.Outcome State Fault Refusal :=
  laneTest m iot lane (fun s => patternOk s iot lane pattern && testArgs loopback durationMs)
    (fun s => testStart s iot lane 2 pattern loopback durationMs) s

/-- LANE_TEST_GENERATE_CHECK (R410), ACTION 3. -/
def execLaneTestGenerateCheck (m : TcsMsg) (iot lane pattern loopback durationMs : Nat) (s : State) :
    Host.Outcome State Fault Refusal :=
  laneTest m iot lane (fun s => patternOk s iot lane pattern && testArgs loopback durationMs)
    (fun s => testStart s iot lane 3 pattern loopback durationMs) s

/-- LANE_TEST_LOOPBACK (R410), ACTION 4. -/
def execLaneTestLoopback (m : TcsMsg) (iot lane loopback durationMs : Nat) (s : State) :
    Host.Outcome State Fault Refusal :=
  laneTest m iot lane (fun _ => testArgs loopback durationMs)
    (fun s => testStart s iot lane 4 0 loopback durationMs) s

/-- LANE_TEST_DURATION_END (R410): the test has run for DURATION_MS. -/
def execLaneTestDurationEnd (iot lane bits errs : Nat) (s : State) : Host.Outcome State Fault Refusal :=
  match mget (iot * 8 + lane) s.lanes.tests with
  | some t =>
    match t.until_ with
    | some u => if u ≤ s.now then ok (testStop (prbsCount s iot lane bits errs) iot lane) else ok s
    | none => ok s
  | none => ok s

end Sys2Proof.Machine
end

