-- ==== Sys2Proof/Machine/FrontHaul.lean ====
section
/-! DEFINITION. Reception of frames and the front-haul engines (R108 to R113, R117, R403 to R405): symbol records,
their reception windows and release, and where every other frame goes. Assumption log: 46 (DESIGN CHOICE), 47
(DEDUCED), 48 (DESIGN CHOICE), 49 (DESIGN CHOICE), 50 (DEDUCED), 51 (DESIGN CHOICE). -/

namespace Sys2Proof.Machine

/-! ### Symbols of a carrier -/

/-- Frames after which a record's FRAME field repeats (R108). -/
def frameMod (std : Nat) : Nat := if std = 0 then 2715648 else 1024

/-- The frame number since the epoch that a FRAME field names: the one nearest to the present frame. -/
def absFrame (s : State) (c : Carrier) (frame : Nat) : Nat :=
  let m := frameMod c.std
  let now := frameNo c.std s.devNs
  let base := now - now % m + frame % m
  if base + m / 2 < now then base + m else if now + m / 2 < base ∧ m ≤ base then base - m else base

/-- A symbol's place in the order of all symbols of its carrier. -/
def symNo (s : State) (c : Carrier) (frame slot symbol : Nat) : Nat :=
  absFrame s c frame * symsPerFrame c + (if c.std = 0 then slot else slot * 14 + symbol)

/-- Slot and symbol numbers a record of the carrier may have (R108). -/
def symOk (c : Carrier) (slot symbol : Nat) : Bool :=
  if c.std = 0 then decide (slot < 8) && symbol == 0
  else decide (slot * 14 < symsPerFrame c) && decide (symbol < 14)

/-- T_NOM of symbol `n` (R108, R110): a GSM-R record starts at the last sample at or before 4 sample periods ahead of
its timeslot. -/
def symStart (c : Carrier) (n : Nat) : Nat :=
  if c.std = 0 then ceilDiv ((n * 625 - 8) / 2 * 24000) 13 else ofdmStart c n

/-- The nominal end of symbol `n` (R111). -/
def symEnd (c : Carrier) (n : Nat) : Nat :=
  if c.std = 0 then ceilDiv ((n + 1) * 7500000) 13 else ofdmStart c (n + 1)

/-- Transform size of a carrier (R120). -/
def fftSize (c : Carrier) : Nat := if c.scs = 2 then sampleRate c / 3 else sampleRate c * 2 / 3

/-- Samples of OFDM symbol `n` with its cyclic prefix (R110, R121). -/
def symSamples (c : Carrier) (n : Nat) : Nat :=
  let N := fftSize c
  let per := symsPerFrame c / 20
  N + (if per = 14 then (if n % per = 0 then 88 else 72) * N / 1024 else (if n % per = 0 then 160 else 144) * N / 2048)

/-- KIND of an instance's records (R108, R25). -/
def recKind (c : Carrier) (path : Nat) : Nat := if c.std = 0 then 2 else if path = 1 then 1 else 0

/-- COUNT of a record (R108, R110). -/
def recCount (c : Carrier) (path n : Nat) : Nat :=
  match recKind c path with
  | 0 => prbOf c
  | 1 => symSamples c n
  | _ => 320

/-- Components of one unit (a PRB or a sample) of a record. -/
def unitLen (c : Carrier) (path : Nat) : Nat := if recKind c path = 0 then 24 else 2

/-! ### Records under way -/

/-- What a binding needs: its RU, carrier number, RU entry, carrier and instance. -/
structure Bind where
  ru : Nat
  carrier : Nat
  r : Ru
  c : Carrier
  i : Inst

/-- The binding of an instance. -/
def bindOf (s : State) (ru carrier : Nat) : Option Bind :=
  match mget ru s.cor.rus, instCarrier s ru carrier, mget (instKey ru carrier) s.cor.insts with
  | some r, some c, some i => some { ru := ru, carrier := carrier, r := r, c := c, i := i }
  | _, _, _ => none

/-- Key of a binding. -/
def Bind.key (b : Bind) : Nat := instKey b.ru b.carrier
/-- The IOT of a binding: spur ports belong to IOT 1 (R457). -/
def Bind.iot (b : Bind) : Nat := b.r.pkey / 16
/-- Units a whole record of the binding holds. -/
def Bind.units (b : Bind) (n : Nat) : Nat := instPorts b.i * recCount b.c b.r.path n

/-- Change the front-haul state. -/
def State.modFh (s : State) (f : FrontHaul → FrontHaul) : State := { s with fh := f s.fh }

/-- The record of a symbol, when it is under way. -/
def upRec (s : State) (key n : Nat) : Option UpRec := s.fh.recs.find? fun x => x.key == key && x.n == n

/-- Replace a record under way. -/
def setUpRec (s : State) (x : UpRec) : State :=
  s.modFh fun f => { f with recs := f.recs.map fun y => if y.key == x.key && y.n == x.n then x else y }

/-- A record begins: it takes a buffer from the free-buffer queue, or is dropped and counted (R110, R113). -/
def beginRec (s : State) (b : Bind) (n : Nat) (closed : Bool) : State :=
  let x := if (s.queue b.i.freeQid).en then popQ s b.i.freeQid else (none, s)
  let s := match x.1 with | some _ => x.2 | none => fhEvent x.2 b.iot 5 b.carrier b.ru
  let r : UpRec := { key := b.key, n := n, buf := x.1.map fun e => ent e 0 8, got := [], expSat := false, tRx := none,
                     closed := closed }
  s.modFh fun f => { f with recs := f.recs ++ [r] }

/-- The frame, as settings count them, of symbol `n` (R41): a multiframe of 51 frames for GSM-R. -/
def frameOfSym (c : Carrier) (n : Nat) : Nat := if c.std = 0 then n / 8 / 51 else n / symsPerFrame c

/-- The PARISON width is in force for symbol `n` of a binding (R119): until the frame at which the carrier's move gives it
its own width, or while PARISON service lasts; RE paths are not compressed. -/
def narrowAt (s : State) (b : Bind) (n : Nat) : Bool :=
  b.r.path != 1 && (match mget b.key s.fh.narrowEnd with
    | some e => decide (frameOfSym b.c n < e)
    | none => s.parison)

/-- The header of a record (R108). -/
def upHeader (s : State) (b : Bind) (x : UpRec) (miss tRx : Nat) : List Byte :=
  let per := symsPerFrame b.c
  let j := x.n % per
  let flags := b2n (miss != 0) + 2 * b2n x.expSat + 4 * b2n (narrowAt s b x.n)
  leBytes 1 (recKind b.c b.r.path) ++ leBytes 1 flags ++ leBytes 1 (instPorts b.i)
    ++ leBytes 1 (if b.c.std = 0 then 0 else b.c.scs) ++ leBytes 2 b.carrier ++ leBytes 2 b.ru
    ++ leBytes 4 (x.n / per % frameMod b.c.std) ++ leBytes 1 (if b.c.std = 0 then j else j / 14)
    ++ leBytes 1 (if b.c.std = 0 then 0 else j % 14) ++ leBytes 2 (recCount b.c b.r.path x.n)
    ++ leBytes 8 (symStart b.c x.n) ++ leBytes 8 tRx ++ leBytes 2 miss ++ leBytes 30 0

/-- The samples of a record, port by port, zeros where nothing arrived (R109, R112). -/
def upSamples (b : Bind) (x : UpRec) : List Byte :=
  (List.range (b.units x.n)).flatMap fun u =>
    ((mget u x.got).getD (List.replicate (unitLen b.c b.r.path) 0)).flatMap fun v => leBytes 2 (ofSigned 16 v)

/-- The STREAM entry that hands over a buffer: its address. -/
def bufEntry (a : Nat) : List Byte := leBytes 8 a ++ leBytes 24 0

/-- Release a record: written to its buffer and pushed, counted where data is missing (R111, R112). -/
def releaseRec (s : State) (b : Bind) (x : UpRec) : State :=
  let s := s.modFh fun f => { f with
    recs := f.recs.filter fun y => !(y.key == x.key && y.n == x.n), next := mset x.key (x.n + 1) f.next }
  match x.buf with
  | none => s
  | some a =>
    let miss := b.units x.n - x.got.length
    let s := if miss = 0 then s else fhEvent s b.iot 2 b.carrier b.ru
    let t := match x.tRx with | some t => (t, s) | none => (Config.noArrival s.takeFresh.1, s.takeFresh.2)
    let s := (busWriteMany (.iot b.iot) a (upHeader t.2 b x miss t.1 ++ upSamples b x) t.2).2
    (pushQ (.iot b.iot) b.i.ingressQid (bufEntry a) s).2

/-- All data of the record has arrived. -/
def recFull (b : Bind) (x : UpRec) : Bool := x.got.length == b.units x.n

/-- RXWIN of an IOT in ns. -/
def rxWin (s : State) (k : Nat) : Nat := s.field (R.ETH_FH_RXWIN k) 15 0 * 1000

/-- The reception window of symbol `n` has passed (R111). -/
def windowPast (s : State) (b : Bind) (n : Nat) : Bool := decide (symEnd b.c n + rxWin s b.iot ≤ s.devNs)

/-- The first record under way of a binding, in symbol order. -/
def firstRec (s : State) (key : Nat) : Option UpRec :=
  leastBy (fun (x : UpRec) => (x.n, 0, 0)) (s.fh.recs.filter fun x => x.key == key)

/-- Symbol `n` has an uplink record (R111): every symbol of an FDD carrier; of a TDD carrier the uplink symbols, which no
rule names. -/
def hasRec (b : Bind) (n : Nat) : Bool :=
  b.c.duplex == 0 || Config.uplinkSymbol (carrierKey (b2n b.r.station) b.r.sindex b.carrier) n

/-- The first symbol from `m` on and before `n` that has an uplink record. -/
def dueSym (b : Bind) (m n : Nat) : Option Nat := ((List.range (n - m)).map (m + ·)).find? (hasRec b)

/-- Release what may be released, in symbol order (R111): a record goes when it is full or its window has closed, and
waits behind an earlier one. One of which nothing has arrived is waited for, and goes out as zeros once its window has
passed. -/
def releaseReady (b : Bind) : Nat → State → State
  | 0, s => s
  | fuel + 1, s =>
    match firstRec s b.key with
    | none => s
    | some x =>
      match dueSym b ((mget b.key s.fh.next).getD x.n) x.n with
      | some m => if windowPast s b m then releaseReady b fuel (beginRec s b m true) else s
      | none => if x.closed || recFull b x then releaseReady b fuel (releaseRec s b x) else s

/-- How many records one release may have to go through. -/
def releaseFuel (s : State) (b : Bind) : Nat :=
  let top := ((s.fh.recs.filter fun x => x.key == b.key).map UpRec.n).foldl max 0
  2 * (top + 1 - (mget b.key s.fh.next).getD top) + 2 * s.fh.recs.length + 2

/-- Release what may be released of a binding. -/
def release (b : Bind) (s : State) : State := releaseReady b (releaseFuel s b) s

/-! ### Packets -/

/-- The place of an antenna port among those of the instance's mask. -/
def antIndex (i : Inst) (ant : Nat) : Option Nat :=
  let on (n : Nat) : Bool := if n < 32 then i.maskLo.getLsbD n else i.maskHi.getLsbD (n - 32)
  if ant < 64 && on ant then some ((List.range ant).filter on).length else none

/-- The units of a packet with their components, and whether one saturated (R117). -/
def packetUnits (p : FhPayload) : List (List Int) × Bool :=
  match p with
  | .prbs l =>
    let x := l.map fun q => decompressPrb q.1 q.2
    (x.map Prod.fst, x.any Prod.snd)
  | .samples l => (l.map fun q => [satSigned 16 q.1, satSigned 16 q.2], false)

/-- The payload is of the form the binding's records need. -/
def payloadFits (b : Bind) : FhPayload → Bool
  | .prbs l => recKind b.c b.r.path == 0 && l.all fun q => q.2.length == 24
  | .samples _ => recKind b.c b.r.path != 0

/-- The binding of a packet on a port: flow identifier and carrier, its antenna port and place in the record (R26,
R404). -/
def packetBind (s : State) (pkey : Nat) (roe : Bool) (p : FhPacket) : Option (Bind × Nat) :=
  match s.cor.rus.find? fun x => x.2.pkey == pkey && x.2.flowid == p.flow && (x.2.path == 1) == roe with
  | none => none
  | some x =>
    match bindOf s x.1 p.carrier with
    | none => none
    | some b =>
      match antIndex b.i p.ant with
      | some a =>
        let n := symNo s b.c p.frame p.slot p.symbol
        let units := (packetUnits p.data).1
        if symOk b.c p.slot p.symbol && payloadFits b p.data
            && decide (p.first + units.length ≤ recCount b.c b.r.path n) then
          some (b, a * recCount b.c b.r.path n + p.first)
        else none
      | none => none

/-- The units are put in their places. -/
def putUnits (m : FMap (List Int)) (at_ : Nat) : List (List Int) → FMap (List Int)
  | [] => m
  | u :: l => putUnits (mset at_ u m) (at_ + 1) l

/-- A packet of a binding: late, a repetition, or taken into its record (R111 to R113, R117). -/
def takePacket (s : State) (b : Bind) (at_ : Nat) (p : FhPacket) : State :=
  let n := symNo s b.c p.frame p.slot p.symbol
  if n < mgetD 0 s.fh.next b.key then fhEvent s b.iot 1 b.carrier b.ru
  else
    let s := if (upRec s b.key n).isSome then s else beginRec s b n false
    match upRec s b.key n with
    | none => s
    | some x =>
      let u := packetUnits p.data
      if ((List.range u.1.length).any fun j => mhas x.got (at_ + j)) then fhEvent s b.iot 3 b.carrier b.ru
      else
        let s := if u.2 && !x.expSat && x.buf.isSome then fhEvent s b.iot 4 b.carrier b.ru else s
        let x := { x with got := putUnits x.got at_ u.1, expSat := x.expSat || u.2, tRx := some s.devNs }
        release b (setUpRec s x)

/-- A front-haul packet on a port; `drop` counts one that is not taken (R404, R405). -/
def frontHaul (pkey : Nat) (roe : Bool) (p : FhPacket) (drop : State → State) (s : State) : State :=
  match packetBind s pkey roe p with
  | some x => takePacket s x.1 x.2 p
  | none => drop s

/-- An eCPRI frame: message types 0, 2 and 5, at most one tag (R405). -/
def ecpri (pkey tags msgType : Nat) (p : FhPacket) (drop : State → State) (s : State) : State :=
  if 1 < tags then drop s
  else match msgType with
    | 0 => frontHaul pkey false p drop s
    | 2 | 5 => s
    | _ => drop s

/-! ### Frames -/

/-- A backhaul frame that no ingress queue takes (R96, R203). -/
def bhDrop (s : State) (key : Nat) : State :=
  s.modFh fun f => { f with bhDrops := mupd 0 key (satAdd 64 · 1) f.bhDrops }

/-- A frame for the backhaul ingress queue of its PCP (R404, R203). -/
def backhaul (k p pcp : Nat) (s : State) : State :=
  match mget ((k * 4 + p) * 8 + pcp) s.dsq.bhIngress with
  | none => bhDrop s (portKey k p)
  | some q =>
    let x := s.takeFresh
    match pushQ (.iot k) q (fitBytes 32 (Config.bhEntry x.1)) x.2 with
    | (.accepted, s) => s
    | (_, s) => bhDrop s (portKey k p)

/-- The state after a message of the time engine. -/
def ptpInto (k p domain : Nat) (b : PtpBody) (s : State) : State :=
  match execPtpMessageReceive k p domain b s with
  | .next s => s
  | _ => s

/-- Where an intact frame goes (R404). -/
def directFrame (k p : Nat) (f : RxFrame) (s : State) : State :=
  let unbound (s : State) : State := s.count (R.ETH_RX_UNBOUND k p) 1
  match f.body with
  | .ptp d b => ptpInto k p d b s
  | .priorityPause l => l.foldl (fun s q => if q.1 < 8 then pauseReceive s k p q.1 q.2 else s) s
  | .globalPause => s.count (R.ETH_PAUSE_RX k p) 1
  | .peerStray => peerDrop 2 s
  | .ecpri t q => if p = 4 then s else ecpri (portKey k p) f.tags.length t q unbound s
  | .roe q => if p = 4 then s else frontHaul (portKey k p) true q unbound s
  | .other => if p = 4 then s else backhaul k p (f.tags.headD 0 % 8) s

/-- The codewords of a frame (R411). -/
def countCodewords (k p : Nat) (f : RxFrame) (s : State) : State :=
  if !portFec s k p then s
  else
    let s := (s.count64 (R.ETH_FEC_CW k p) f.cw).count64 (R.ETH_FEC_CORR k p) f.corr
    if f.uncorr = 0 then s else (s.count64 (R.ETH_FEC_UNCORR k p) f.uncorr).orReg (R.ETH_EVT k p) 2

/-- ETH_FRAME_RECEIVE (R403, R404): a frame on a port that is up is checked, counted and directed; one with more than two
tags is not accepted. -/
def execEthFrameReceive (iot port : Nat) (f : RxFrame) (s : State) : Host.Outcome State Fault Refusal :=
  if !(ethPort s iot port && linkUp s iot port) then ok s
  else
    let s := countCodewords iot port f s
    if f.len < 64 ∨ 9216 < f.len then ok (s.count (R.ETH_RX_SIZEERR iot port) 1)
    else if 2 < f.tags.length then ok s
    else if !f.fcsOk || (portFec s iot port && f.uncorr != 0) then ok (s.count (R.ETH_RX_FCSERR iot port) 1)
    else ok (directFrame iot port f (s.count64 (R.ETH_RX_FRAMES iot port) 1))

/-- RX_WINDOW_CLOSE (R111, R112): the reception window of a symbol of an instance closes. -/
def execRxWindowClose (ru carrier frame slot symbol : Nat) (s : State) : Host.Outcome State Fault Refusal :=
  match bindOf s ru carrier with
  | none => ok s
  | some b =>
    if !symOk b.c slot symbol then ok s
    else
      let n := symNo s b.c frame slot symbol
      if n < mgetD 0 s.fh.next b.key || !windowPast s b n then ok s
      else match upRec s b.key n with
        | some x => ok (release b (setUpRec s { x with closed := true }))
        | none => if hasRec b n then ok (release b (beginRec s b n true)) else ok s

/-! ### Path delays (R405, R111, R420) -/

/-- A measured path delay: kept, and DL_ADV of the RU's bindings follows it. -/
def noteDelayOf (s : State) (ru delay : Nat) : State :=
  match mget ru s.cor.rus with
  | none => s
  | some r =>
    let s := s.modFh fun f => { f with delay := mset ru delay f.delay }
    let adv := dlAdvOf r delay
    let q (m : Nat × EgQueue) : Nat × EgQueue :=
      match m.2.binding with
      | some key => if key / 1024 == ru then (m.1, { m.2 with dlAdv := adv }) else m
      | none => m
    { s with eg := { s.eg with bound := s.eg.bound.map q } }

/-- RXWIN of an IOT: its largest path delay plus 50 µs, 20 to 1,000 µs (R111). -/
def setRxWin (s : State) (k : Nat) : State :=
  let onIot (ru : Nat) : Bool := match mget ru s.cor.rus with | some r => r.pkey / 16 == k | none => false
  let worst := ((s.fh.delay.filter fun x => onIot x.1).map Prod.snd).foldl max 0
  let us := max 20 (min 1000 (ceilDiv worst 1000 + 50))
  s.setField (R.ETH_FH_RXWIN k) 15 0 us

/-- A shorter window may have passed: the records under way of an IOT are looked at again. -/
def recheckWindows (s : State) (k : Nat) : State :=
  s.fh.recs.foldl (fun s x =>
    match bindOf s (x.key / 1024) (x.key % 1024) with
    | some b =>
      if b.iot == k && windowPast s b x.n then
        (match upRec s x.key x.n with
         | some y => release b (setUpRec s { y with closed := true })
         | none => s)
      else s
    | none => s) s

/-- The port carries front-haul and its delays are due: never measured since link up, or 1 minute ago (R405). -/
def delayDue (s : State) (k p : Nat) : Bool :=
  match mget (portKey k p) s.fh.measAt with
  | some t => decide (t + 60 * 1000000000 ≤ s.now)
  | none => true

/-- FH_DELAY_MEASURE (R405): the path delays, in ns, that type 5 messages measured for RUs of a port. Spur port p of
IOT 1 is port 8 + p. -/
def execFhDelayMeasure (iot port : Nat) (delays : List (Nat × Nat)) (s : State) : Host.Outcome State Fault Refusal :=
  if !(portUp s (portKey iot port) && delayDue s iot port) then ok s
  else
    let mine := delays.filter fun x => (rusOnPort s (portKey iot port)).contains x.1
    let s := mine.foldl (fun s x => noteDelayOf s x.1 x.2) s
    let s := s.modFh fun f => { f with measAt := mset (portKey iot port) s.now f.measAt }
    ok (recheckWindows (setRxWin s iot) iot)

end Sys2Proof.Machine
end

