-- ==== Sys2Proof/Machine/WakeSource.lean ====
section
/-! DEFINITION. Wake sources of STILL (R515, R519) and the start of a wake (R513). Assumption log: 95 (DEDUCED). -/

namespace Sys2Proof.Machine

/-- Change the power manager. -/
def State.modPower (s : State) (f : Power → Power) : State := { s with power := f s.power }

/-- The pad and spine islands of WAKE_FAIL (R531). -/
def otherIslands (s : State) : List Nat := [144, 145, 150] ++ ((List.range 4).filter (quadPresent s.part)).map (146 + ·)

/-- Islands that wake with the device: every present one that has not failed, DSP and ACC tiles only to ACTIVE
(R503, R513). -/
def deviceIslands (s : State) : List Nat :=
  let tile (t : Nat) : Bool :=
    tilePresent s.part t && (s.island t).st != .off
      && (s.power.resume == 1 || !(isDsp s.part t || (accKind s.part t).isSome))
  (List.range 144).filter tile ++ (otherIslands s).filter fun t => (s.island t).st != .off

/-- Islands enter step 1 of a wake, or step 2 where the supply was held (R501, R513). -/
def wakeIslands (s : State) (ts : List Nat) : State :=
  ts.foldl (fun s t =>
    let x := s.island t
    let s := s.setIsland t { x with step := if x.st == .halt then 2 else 1, stepAt := s.now }
    if t < 144 then s.setField (R.ISL_STAT t) 27 24 0 else s) s

/-- Converters marked STILL_OFF are switched on or off (R529). -/
def pmbStill (s : State) (on : Bool) : State :=
  (List.range 16).foldl (fun s e =>
    if s.field (R.PWR_PMB_CFG e) 31 24 != 0 && s.flag (R.PWR_PMB_CFG e) 1 then
      s.emit (.pmbus e 0x01 (if on then 0x80 else 0x00))
    else s) s

/-- The device leaves STILL (R513). -/
def beginWake (s : State) : State :=
  let ts := deviceIslands s
  wakeIslands ((pmbStill s true).modPower fun p => { p with waking := ts, wakeTries := 0 }) ts

/-- WAKE_CAUSE of a source (R531). -/
def causeWord (source port code : Nat) : Word := BitVec.ofNat 32 (source * 2 ^ 28 + port * 2 ^ 24 + code % 65536)

/-- A wake source occurs (R510, R519): from commit until LOGIC_READY it is recorded, the first becomes the cause, by
the order of R519 within one cycle, and the wake begins once STILL is reached. `bit` is its place in WAKE_SRC. -/
def wakeSource (s : State) (order bit : Nat) (cause : Word) : State :=
  if !(s.power.commitAt.isSome || s.power.still) then s
  else
    let s := s.modPower fun p => { p with
      src := p.src ||| bitMask bit
      cause := match p.cause with
        | some (o, w, t) => if t = s.now ∧ order < o then some (order, cause, t) else some (o, w, t)
        | none => some (order, cause, s.now) }
    if s.power.still && s.power.waking.isEmpty then beginWake s else s

end Sys2Proof.Machine
end

