-- ==== Sys2Proof/Machine/Spur.lean ====
section
/-! DEFINITION. Spur ports (R457 to R473): training, the rung ladder, data mode, time transfer, bursts, wake and
shedding. Assumption log: 87 (DEDUCED). -/

namespace Sys2Proof.Machine

/-- A spur port. -/
def State.spurPort (s : State) (p : Nat) : SpurPort := mgetD SpurPort.reset s.spur p
/-- Change a spur port. -/
def State.modSpur (s : State) (p : Nat) (f : SpurPort → SpurPort) : State :=
  { s with spur := mset p (f (s.spurPort p)) s.spur }

/-- The key of spur port `p` among the ports of IOT 1. -/
def spurKey (p : Nat) : Nat := portKey 1 (8 + p)

/-- The training step of a port, 0 when it is disabled (SPUR_STAT.STEP). -/
def spurStep (s : State) (p : Nat) : Nat := s.field (R.SPUR_STAT p) 31 28
/-- The current training is a fast retrain. -/
def spurFast (s : State) (p : Nat) : Bool := s.flag (R.SPUR_STAT p) 27
/-- The current rung. -/
def spurRung (s : State) (p : Nat) : Nat := s.field (R.SPUR_STAT p) 18 16
/-- The port is enabled. -/
def spurEn (s : State) (p : Nat) : Bool := decide (p < 4) && s.flag (R.SPUR_CFG p) 31

/-- Required SNR of a rung in 0.1 dB (R459). -/
def rungSnr : Nat → Int
  | 0 => 300 | 1 => 240 | 2 => 180 | 3 => 150 | _ => 132

/-- MAX_RUNG, the fastest rung allowed (R473). -/
def maxRung (s : State) (p : Nat) : Nat := min 4 (s.field (R.SPUR_CFG p) 18 16)
/-- MIN_RUNG, the slowest rung allowed (R473). -/
def minRung (s : State) (p : Nat) : Nat := min 4 (s.field (R.SPUR_CFG p) 21 19)
/-- MARGIN in 0.1 dB. -/
def spurMargin (s : State) (p : Nat) : Int := s.field (R.SPUR_CFG p) 15 8

/-- The rung both ends choose (R462). -/
def chooseRung (s : State) (p : Nat) (snr : Int) : Nat :=
  ((List.range 5).find? fun r => decide (maxRung s p ≤ r ∧ r ≤ minRung s p ∧ rungSnr r + spurMargin s p ≤ snr)).getD
    (minRung s p)

/-- A port enters a step of training. -/
def spurEnter (s : State) (p n : Nat) : State :=
  (s.setField (R.SPUR_STAT p) 31 28 n).modSpur p fun x => { x with stepAt := s.now }

/-- A port enters training at step `n` (R461, R465): counted and flagged; the frame in transmission is discarded. -/
def spurTrain (s : State) (p n : Nat) (fast : Bool) : State :=
  let s := (s.count (R.SPUR_CNT_RETRAIN p) 1).orReg (R.SPUR_EVT p) 1
  let s := (s.setField (R.SPUR_STAT p) 27 27 (b2n fast)).setField (R.SPUR_STAT p) 26 26 0
  let s := match mget (spurKey p) s.eg.tx with
    | some f => s.setTx (spurKey p) { f with disc := true, status := Status.badState.code }
    | none => s
  spurEnter s p n

/-- SPUR_SNR: far-end and local SNR in 0.1 dB. -/
def setSnr (s : State) (p : Nat) (snr far : Int) : State :=
  s.setReg (R.SPUR_SNR p) (BitVec.ofNat 32 (ofSigned 16 far * 65536 + ofSigned 16 snr))

/-- SPUR_LINE (R472): fault, attenuation in 0.01 dB, distance in 0.1 m. -/
def setLine (s : State) (p fault atten dist : Nat) : State :=
  let w := (fault % 8) * 2 ^ 29 + (min atten 8191) * 65536 + min dist 65535
  let s := s.setReg (R.SPUR_LINE p) (BitVec.ofNat 32 w)
  if fault % 8 = 0 then s else s.orReg (R.SPUR_EVT p) 0

/-- The port is enabled and in step `n`. -/
def inStep (s : State) (p n : Nat) : Bool := spurEn s p && spurStep s p == n

/-! ### Training (R461, R462) -/

/-- SPUR_FAR_END_ENERGY: energy for 100 µs ends step 2; step 1, which nothing but time ends, needs IOT 1 in RUN. -/
def execSpurFarEndEnergy (port : Nat) (s : State) : Host.Outcome State Fault Refusal :=
  if (inStep s port 1 && tileRun s (iotTile 1)) || inStep s port 2 then ok (spurEnter s port 3) else ok s

/-- SPUR_ECHO_TRAINED: the echo is 45 dB down; the line estimate of step 3. -/
def execSpurEchoTrained (port fault atten dist : Nat) (s : State) : Host.Outcome State Fault Refusal :=
  if inStep s port 3 then ok (spurEnter (setLine s port fault atten dist) port 4) else ok s

/-- SPUR_EQUALISER_TRAINED: a far end within ±200 ppm ends step 4 (R460); the line estimate of step 4. -/
def execSpurEqualiserTrained (port : Nat) (ppm : Int) (fault atten dist : Nat) (s : State) :
    Host.Outcome State Fault Refusal :=
  if inStep s port 4 then
    let s := setLine s port fault atten dist
    if -200 ≤ ppm ∧ ppm ≤ 200 then ok (spurEnter s port 5) else ok s
  else ok s

/-- A new rung bears on the RUs of the port (R37, R466). -/
def rungConsequences (s : State) (p : Nat) : State :=
  (rusOnPort s (spurKey p)).foldl (fun s ru =>
    let s := s.modCor fun c => { c with retrained := mset ru s.devNs c.retrained }
    reportShortfall (reshed s ru false) ru) s

/-- SPUR_RUNG_AGREED (R462): both ends report the rung that follows from the SNR measured at either end. -/
def execSpurRungAgreed (port : Nat) (snr farSnr : Int) (s : State) : Host.Outcome State Fault Refusal :=
  if inStep s port 5 then
    let s := setSnr s port snr farSnr
    let r := chooseRung s port (min snr farSnr)
    let s := if r = spurRung s port then s else (s.setField (R.SPUR_STAT port) 18 16 r).orReg (R.SPUR_EVT port) 2
    ok (rungConsequences (spurEnter s port 6) port)
  else ok s

/-- SPUR_BLOCK_LOCK: 256 valid headers end step 6; the measurements of step 7 begin. -/
def execSpurBlockLock (port : Nat) (s : State) : Host.Outcome State Fault Refusal :=
  if inStep s port 6 then ok ((spurEnter s port 7).modSpur port fun x => { x with delays := [] }) else ok s

/-- SPUR_DATA_MODE: 16 measurements are there, data mode begins. -/
def execSpurDataMode (port : Nat) (s : State) : Host.Outcome State Fault Refusal :=
  if inStep s port 7 && decide (16 ≤ (s.spurPort port).delays.length) then
    let s := spurEnter (s.setField (R.SPUR_STAT port) 27 27 0) port 8
    ok ((s.modSpur port fun x => { x with lastFrame := s.now }).modFh
      fun f => { f with measAt := mdel (spurKey port) f.measAt })
  else ok s

/-- Time limits of steps 3 to 7 in ns (R461). -/
def spurLimit (n : Nat) : Option Nat :=
  if n = 6 then some 10000000 else if 3 ≤ n ∧ n ≤ 7 then some 20000000 else none

/-- SPUR_STEP_TIMEOUT: a step past its limit returns the port to step 2, of full training. -/
def execSpurStepTimeout (port : Nat) (s : State) : Host.Outcome State Fault Refusal :=
  if !spurEn s port then ok s
  else match spurLimit (spurStep s port) with
    | some n => if (s.spurPort port).stepAt + n < s.now then ok (spurTrain s port 2 false) else ok s
    | none => ok s

/-- FAST_RETRAIN (R463): SNR below the rung's for 10 ms, or 16 failed blocks within 1 ms. -/
def execFastRetrain (port : Nat) (cause : RetrainCause) (snr farSnr : Int) (s : State) :
    Host.Outcome State Fault Refusal :=
  if inStep s port 8 && (cause == .badBlocks || decide (snr < rungSnr (spurRung s port))) then
    ok (spurTrain (setSnr s port snr farSnr) port 5 true)
  else ok s

/-- UPSHIFT (R464): the SNR has exceeded a faster rung's by MARGIN and 3.0 dB for 60 s; one in 10 minutes. -/
def execUpshift (port : Nat) (snr farSnr : Int) (s : State) : Host.Outcome State Fault Refusal :=
  let high := (List.range (spurRung s port)).any fun r =>
    decide (maxRung s port ≤ r) && decide (rungSnr r + spurMargin s port + 30 < min snr farSnr)
  let late := match (s.spurPort port).upAt with | some t => decide (t + 600 * 1000000000 ≤ s.now) | none => true
  if inStep s port 8 && s.flag (R.SPUR_CFG port) 29 && high && late then
    ok ((spurTrain (setSnr s port snr farSnr) port 5 true).modSpur port fun x => { x with upAt := some s.now })
  else ok s

/-! ### Data mode (R466 to R468) -/

/-- A frame of the byte stream (R467): front-haul frames as from a lane; no other frame has a destination here. -/
def spurRx (p : Nat) (f : RxFrame) (s : State) : State :=
  if !f.fcsOk then s.count (R.SPUR_CNT_FCS p) 1
  else match f.body with
    | .ecpri t q => ecpri (spurKey p) f.tags.length t q (fun s => s) s
    | _ => s

/-- A block: counted, its frames taken, or discarded where it failed its decode. -/
def blockIn (p : Nat) (good : Bool) (fs : List RxFrame) (s : State) : State :=
  let s := s.count64 (R.SPUR_CNT_BLOCKS p) 1
  let s := if good then s else s.count64 (R.SPUR_CNT_UNCORR p) 1
  let s := fs.foldl (fun s f => if good then spurRx p f s else s.count (R.SPUR_CNT_FCS p) 1) s
  if fs.isEmpty then s else spurFrame s p

/-- SPUR_BLOCK_RECEIVE (R467): `frames` are those that end in the block. -/
def execSpurBlockReceive (port : Nat) (decodeOk : Bool) (frames : List RxFrame) (s : State) :
    Host.Outcome State Fault Refusal :=
  if inStep s port 8 then ok (blockIn port decodeOk frames s) else ok s

/-- The device sends a timing block with T1 and the median: the far end sets its time to T1 + the median (R468). -/
def sendTiming (s : State) (p : Nat) : State := s.emit (.spurTime p s.clk.sec s.clk.ns (s.reg (R.SPUR_DELAY p)).toNat)

/-- TIMING_BLOCK (R468): T1, T4, the returned interval and the hybrid asymmetry in units of 2^-8 ns. -/
def execTimingBlock (port t1 t4 returned asym : Nat) (s : State) : Host.Outcome State Fault Refusal :=
  if inStep s port 7 || inStep s port 8 then
    let d := (((t4 : Int) - t1) - returned) / 2 - asym
    let l := (s.spurPort port).delays ++ [d]
    let l := l.drop (l.length - 16)
    let s := s.modSpur port fun x => { x with delays := l }
    ok (sendTiming (s.setReg (R.SPUR_DELAY port) (BitVec.ofNat 32 (ofSigned 32 (medianInt l)))) port)
  else ok s

/-- FRAME_BOUNDARY (R466): at the first frame boundary of a carrier after the retrain shedding is looked at again, and
stops where the load fits. -/
def execFrameBoundary (ru carrier : Nat) (s : State) : Host.Outcome State Fault Refusal :=
  if mhas s.cor.insts (instKey ru carrier) && frameSince s ru carrier [mget ru s.cor.retrained] then ok (reshed s ru true)
  else ok s

/-! ### Bursts (R469, R470) -/

/-- BURST_MODE_ENTER: no frame for IDLE_US. -/
def execBurstModeEnter (port : Nat) (s : State) : Host.Outcome State Fault Refusal :=
  if inStep s port 8 && s.flag (R.SPUR_CFG port) 30 && !s.flag (R.SPUR_STAT port) 26
      && decide ((s.spurPort port).lastFrame + s.field (R.SPUR_IDLE port) 15 0 * 1000 ≤ s.now) then
    ok ((s.setField (R.SPUR_STAT port) 26 26 1).modSpur port fun x => { x with burstAt := s.now, peak := none })
  else ok s

/-- Frames are queued for the port. -/
def spurQueued (s : State) (p : Nat) : Bool :=
  !(s.calendar (spurKey p)).isEmpty || !(wfqReady s (spurKey p)).isEmpty

/-- BURST_SEND: when frames are queued, and otherwise every 10 ms; the first block of a burst is a timing block. -/
def execBurstSend (port : Nat) (s : State) : Host.Outcome State Fault Refusal :=
  if inStep s port 8 && s.flag (R.SPUR_STAT port) 26
      && (spurQueued s port || decide ((s.spurPort port).burstAt + 10000000 ≤ s.now)) then
    let q := spurQueued s port
    let s := sendTiming (s.emit (.spur port 1)) port
    let s := s.modSpur port fun x => { x with burstAt := s.now }
    ok (if q then spurFrame s port else s)
  else ok s

/-- BURST_PREAMBLE_RECEIVE (R470): a preamble with a correlation peak in 0.1 dB, and the verdict on its header CRC once
known; a peak 3.0 dB above that of a reception whose header has not passed replaces it. -/
def execBurstPreambleReceive (port peak : Nat) (header : Option Bool) (frames : List RxFrame) (s : State) :
    Host.Outcome State Fault Refusal :=
  if !(inStep s port 8 && s.flag (R.SPUR_STAT port) 26) then ok s
  else
    let set (s : State) (p : Option Nat) : State := s.modSpur port fun x => { x with peak := p }
    let false_ (s : State) : State := s.count (R.SPUR_CNT_FALSE_PRE port) 1
    let begin_ (s : State) : State :=
      match header with
      | none => set s (some peak)
      | some true => blockIn port true frames (set s none)
      | some false => false_ (set s none)
    match (s.spurPort port).peak with
    | some p => if p + 30 ≤ peak then ok (begin_ (false_ s)) else if p == peak && header.isSome then ok (begin_ s) else ok s
    | none => ok (begin_ s)

/-! ### Wake (R471) -/

/-- The port may wake the device, and its wake is first: WAKE is flagged. -/
def spurWake (s : State) (p : Nat) (cause : Word) : State :=
  if !s.flag (R.SPUR_WAKE p) 31 then s
  else
    let first := s.power.cause.isNone
    let s := wakeSource s (4 + p) (4 + p) cause
    if first then s.orReg (R.SPUR_EVT p) 4 else s

/-- SPUR_ENERGY_DETECT: in STILL, energy arms listening; with ED_WAKE it wakes. -/
def execSpurEnergyDetect (port : Nat) (s : State) : Host.Outcome State Fault Refusal :=
  if !(spurEn s port && s.flag (R.SPUR_STAT port) 24) then ok s
  else
    let s := s.modSpur port fun x => { x with listening := true }
    ok (if s.flag (R.SPUR_WAKE port) 29 then spurWake s port (causeWord 8 port 0) else s)

/-- SPUR_WAKE_PATTERN: its code wakes, or is counted as another's. -/
def execSpurWakePattern (port code : Nat) (s : State) : Host.Outcome State Fault Refusal :=
  if !(spurEn s port && s.flag (R.SPUR_STAT port) 24 && (s.spurPort port).listening) then ok s
  else
    let s := s.modSpur port fun x => { x with listening := false }
    if s.flag (R.SPUR_WAKE port) 30 || code == s.field (R.SPUR_WAKE port) 15 0 then
      ok (spurWake s port (causeWord 7 port code))
    else ok (s.count (R.SPUR_CNT_WAKE_REJ port) 1)

end Sys2Proof.Machine
end

