-- ==== Sys2Proof/Machine/Bus.lean ====
section
/-! DEFINITION. Register accesses over the bus (R11 to R17): who may read and write each block, the registers that
show other state or act when they are accessed, and an access to any address. Assumption log: 14 (DESIGN CHOICE), 15
(DEDUCED), 17 (DEDUCED), 18 (DEDUCED), 19 (DEDUCED), 38 (DEDUCED), 39 (DEDUCED), 40 (DEDUCED), 86 (DEDUCED), 101
(DEDUCED). -/

namespace Sys2Proof.Machine

/-! ### Access rights -/

/-- The DMA channel of an offset is locked (R344). -/
def dmaLocked (s : State) (t off : Nat) : Bool := decide (off < 0x800) && s.flag (R.DMA_CH_CTRL t (off / 0x80)) 31

/-- The value a requester has selected in a selection register (R195, R428). -/
def selOf (s : State) (r : Requester) (a : Nat) : Nat :=
  match s.regs.sel.find? fun x => x.by_ == r && x.addr == a with
  | some x => x.value.toNat
  | none => 0

/-- Set a requester's selection. -/
def setSel (s : State) (r : Requester) (a : Nat) (w : Word) : State :=
  { s with regs := { s.regs with
      sel := { by_ := r, addr := a, value := w } :: s.regs.sel.filter fun x => !(x.by_ == r && x.addr == a) } }

/-- The queue a requester has selected at dispatcher `q`, unless it lies outside the dispatcher's range (R230). -/
def selQueue (s : State) (r : Requester) (q : Nat) : Option Nat :=
  let n := selOf s r (R.DSQ_Q_SEL q)
  if qidDsq n = q then some n else none

/-- The configuration registers of the selected queue (R194). -/
def queueCfgReg (off : Nat) : Bool := off == 0x14 || off == 0x18 || off == 0x1C || off == 0x20 || off == 0x24 || off == 0x30

/-- The crumb registers (R229, R230). -/
def crumbReg (off : Nat) : Bool := decide (0x200 ≤ off) && decide (off < 0x21C)

/-- MBX_PTR, MBX_CTRL, MBX_DOORBELL and MBX_FREE of a mailbox, which only its owner may write (R101). -/
def mbxOwned (off : Nat) : Bool :=
  decide (0x100 ≤ off) && decide (off < 0x500)
    && (decide ((off - 0x100) % 0x20 < 0x10) || (off - 0x100) % 0x20 == 0x14)

/-- The requester may write the register at an offset of a block; an offset that holds no register takes no right
(R13). -/
def mayWrite (s : State) (r : Requester) (b : Block) (off : Nat) : Bool :=
  match b with
  | .sec => r == .ctlh
  | .pwr | .wake | .isl _ | .lehr | .nvs | .ecc _ | .memc _ => isCtl r
  | .time | .eth _ _ | .sd _ _ | .wfq _ | .ptp _ _ | .spur _ | .inj _ | .acc _ | .core _ _ => r == .gaffer
  | .fab _ => (rowAt b off).isNone || r == .gaffer
  | .dac =>
    if off = 0 then true
    else if off < 0x100 then r == .gaffer
    else dacMayWrite s r ((off - 0x100) / 0x10)
  | .dsq q =>
    if crumbReg off then r == .gaffer
    else if queueCfgReg off then
      match selQueue s r q with
      | some n => !(s.queue n).lock || r == .gaffer
      | none => true
    else true
  | .dma t => (rowAt b off).isNone || !dmaLocked s t off || r == .gaffer
  | .mbx => !mbxOwned off || mbxOwner s ((off - 0x100) / 0x20) r
  | _ => true

/-- The error of a register access by its rights: the SEC block is CTL-H's (R366), core registers the Gaffer's
(R278). -/
def regRights (s : State) (r : Requester) (write : Bool) (b : Block) (off : Nat) : Option BusCause :=
  match b with
  | .sec => if r == .ctlh then none else some .prot
  | .core _ _ => if r == .gaffer then none else some .prot
  | _ => if write && !mayWrite s r b off then some .prot else none

/-! ### Registers that show other state -/

/-- DSTATE of NOC_PORT (R364). -/
def dState (s : State) (t : Nat) : Nat :=
  match (s.island t).st with
  | .run | .halt => if (s.island t).st == .run then 0 else 2
  | .draining => 1
  | .keep | .off => 2

/-- An island's STATE as PWR_TSTATE and ISL_STAT number it (R500, R531); a draining island has not left RUN. -/
def IslSt.num : IslSt → Nat
  | .run | .draining => 0 | .halt => 1 | .keep => 2 | .off => 3

/-- NOC_PORT (R364). -/
def nocPort (s : State) (t : Nat) : Word :=
  let shape := match s.part with | .fa960 => 0 | .fb480 => 1 | .fb240 => 2
  BitVec.ofNat 32 (dState s t * 2 ^ 30 + shape * 2 ^ 16 + t)

/-- BURST of a class in flits (R359). -/
def nocBurst (s : State) (t c : Nat) : Nat := max 4 (s.field (R.NOC_INJ_CFG t c) 31 20)
/-- RATE of a class in flits per µs. -/
def nocRate (s : State) (t c : Nat) : Nat := s.field (R.NOC_INJ_CFG t c) 15 0

/-- Tokens a bucket holds now, in 1/1,024 flit (R359). -/
def nocTokens (s : State) (t c : Nat) : Nat :=
  let held := (s.reg (R.NOC_INJ_TOKENS t c)).toNat
  let since := mgetD 0 s.noc.refillAt (t * 4 + c)
  min (nocBurst s t c * 1024) (held + (s.now - since) * nocRate s t c * 1024 / 1000)

/-- Settle a bucket before its rate or its tokens change. -/
def settleTokens (s : State) (t c : Nat) : State :=
  let n := nocTokens s t c
  let s := s.setReg (R.NOC_INJ_TOKENS t c) (BitVec.ofNat 32 n)
  { s with noc := { s.noc with refillAt := mset (t * 4 + c) s.now s.noc.refillAt } }

/-- PWR_TSTATE_n (R531). -/
def tstateWord (s : State) (n : Nat) : Word :=
  BitVec.ofNat 32 (((List.range 16).map fun i => (s.island (16 * n + i)).st.num * 4 ^ i).foldl (· + ·) 0)

/-- The device is entering STILL: phase A of its transition is under way (R510). -/
def enteringStill (s : State) : Bool :=
  match s.power.trans with
  | some x => x.target == 3 && x.back.isNone
  | none => false

/-- PWR_STAT as it reads: STATE is 3 from the start of phase A (R510, R531). -/
def pwrStat (s : State) : Word := if enteringStill s then setFld (s.reg R.PWR_STAT) 31 29 3 else s.reg R.PWR_STAT

/-- SEM_HOLDER_n (R84). -/
def semHolder (s : State) (n : Nat) : Word :=
  match mget n s.tcs.sems with
  | some x => if s.now < x.leaseEnd then
      BitVec.ofNat 32 (2 ^ 31 + x.port * 2 ^ 24 + (x.leaseEnd - s.now) / 1000000) else 0#32
  | none => 0#32

/-- DSQ_CORES (R230). -/
def dsqCores (s : State) (q : Nat) : Word :=
  let ts := quadDspTiles q
  let running := (ts.flatMap fun t => (List.range 4).filter fun c => (runningOn s t c).isSome).length
  BitVec.ofNat 32 ((ts.filter (tileSleeps s)).length * 4 * 65536 + running * 256 + (idleCores s q).length)

/-- DSQ_Q_* of the selected queue as they read (R230). -/
def dsqQueueWord (x : Queue) (off : Nat) : Word :=
  match off with
  | 0x14 => BitVec.ofNat 32 (b2n x.en * 2 ^ 31 + b2n x.lock * 2 ^ 30 + x.kind * 2 ^ 28 + b2n x.loc * 2 ^ 27
      + b2n x.emergOk * 2 ^ 26 + x.depth * 2 ^ 20)
  | 0x18 => BitVec.ofNat 32 (x.hi * 65536 + x.lo)
  | 0x1C => BitVec.ofNat 32 (x.staleUs * 65536 + x.outResv)
  | 0x28 => BitVec.ofNat 32 x.entries.length
  | 0x2C => BitVec.ofNat 32 (min 255 x.held.length * 2 ^ 24 + x.resv)
  | 0x30 => BitVec.ofNat 32 (x.target * 2 ^ 24)
  | _ => 0#32

/-- DSQ_FLOW_* of a flow as they read (R230). -/
def dsqFlowWord (s : State) (q flid off : Nat) : Word :=
  let f := s.flow q flid
  match off with
  | 0x44 => BitVec.ofNat 32 (b2n f.ordered * 2 ^ 31 + b2n f.periodic * 2 ^ 30 + f.period)
  | 0x48 => BitVec.ofNat 32 (b2n f.episode * 2 ^ 31
      + (s.dsq.running.filter fun r => r.q == q && r.flid == flid && r.tile != 255).length * 65536 + f.nextRel)
  | 0x4C => BitVec.ofNat 32 f.lam
  | _ => 0#32

/-- The egress queue a requester has selected at IOT `k` (R428). -/
def selEgress (s : State) (r : Requester) (k : Nat) : Option (Nat × EgQueue) :=
  let n := selOf s r (R.WFQ_Q_SEL k)
  match s.egq n with
  | some x => if x.iot = k then some (n, x) else none
  | none => none

/-- WFQ_PORT_STAT_p (R428). -/
def wfqPortStat (s : State) (k p : Nat) : Word :=
  let pcps := ((List.range 8).map fun i => b2n (rxPaused s k p i) * 2 ^ i).foldl (· + ·) 0
  let n := (s.calendar (portKey k p)).length
  (s.reg (R.WFQ_PORT_STAT k p) &&& bitMask 31) ||| BitVec.ofNat 32 (pcps * 65536 + n)

/-- ACC_INFO (R321). -/
def accInfo (s : State) (t : Nat) : Word :=
  match accKind s.part t with
  | some k =>
    let n := match k with | .fft => 0 | .eq => 1 | .fec => 2 | .prs => 3 | .leg => 4 | .mix => 5
    BitVec.ofNat 32 (n * 2 ^ 28 + jobSlots k)
  | none => 0#32

/-- Channels of a tile in a state, as a mask (R346). -/
def chMask (s : State) (t : Nat) (x : ChSt) : Word :=
  BitVec.ofNat 32 (((List.range 16).map fun c => b2n (chSt s t c == x) * 2 ^ c).foldl (· + ·) 0)

/-- MRAM_STAT (R572). -/
def mramStat (s : State) : Word :=
  let n := stagedRecently s
  BitVec.ofNat 32 (b2n s.nvmPaused * 2 ^ 31 + b2n (decide (stageLimit ≤ n)) * 2 ^ 30 + min 65535 (n / 60 / 16))

/-- Seconds since a memory was last scrubbed completely (R384, R391, R393), by its key: a tile's SRAM under the tile,
the lines of a MEM tile under 0x100 + tile, MRAM under 0x200. -/
def scrubAge (s : State) (k : Nat) : Nat := min (2 ^ 32 - 1) ((s.now - mgetD 0 s.mem.scrubAt k) / 1000000000)

/-- The Lehr runs: CTL-H is up and PARISON service has been reached (R568). -/
def lehrRuns (s : State) : Bool := tileRun s ctlH && decide (4 ≤ s.boot.stage) && s.devState != 3

/-- LEHR_STAT (R572): the Lehr runs; its budget does not cover every duty while one of them is late (R569). -/
def lehrStat (s : State) : Word :=
  BitVec.ofNat 32 (b2n (lehrRuns s) * 2 ^ 31 + b2n (s.field R.LEHR_LAG 10 0 != 0) * 2 ^ 30)

/-- A 32-bit register of a block as it reads. -/
def view32 (s : State) (r : Requester) (b : Block) (off a : Nat) : Word :=
  match b, off with
  | .dev, 0 => BitVec.ofNat 32 (devIdWord s.part)
  | .dev, 4 => BitVec.ofNat 32 (qmaskWord s.part)
  | .sem, o => if o < 0x100 then semHolder s (o / 4) else 0#32
  | .pwr, 0 => pwrStat s
  | .pwr, o => if 0x40 ≤ o && o < 0x64 then tstateWord s ((o - 0x40) / 4) else s.reg a
  | .wake, 8 =>
    let sp := ((List.range 4).map fun p => b2n (s.flag (R.SPUR_WAKE p) 31) * 2 ^ (4 + p)).foldl (· + ·) 0
    let w := s.reg a ||| BitVec.ofNat 32 sp
    if s.part = .fa960 then w else setFld w 1 1 0
  | .isl t, 0 => setFld (setFld (s.reg a) 31 30 (s.island t).st.num) 29 29 (b2n (s.island t).failed)
  | .dsq q, o =>
    if o = 0x10 || o = 0x40 then BitVec.ofNat 32 (selOf s r a)
    else if o = 8 then dsqCores s q
    else if 0x14 ≤ o && o < 0x40 then
      match selQueue s r q with
      | some n => dsqQueueWord (s.queue n) o
      | none => 0#32
    else if 0x44 ≤ o && o < 0x50 then dsqFlowWord s q (selOf s r (R.DSQ_FLOW_SEL q)) o
    else s.reg a
  | .acc t, 0 => accInfo s t
  | .acc t, 4 => accCtrl s t
  | .acc t, 0xC => BitVec.ofNat 32 (fifoDepth s t * 65536 + cqBusy s t * 256 + dsqBusy s t)
  | .cq t, o =>
    if 0x400 ≤ o && o < 0x410 then
      let x := s.core t ((o - 0x400) / 4)
      BitVec.ofNat 32 (min 16 x.late.length * 2 ^ 24 + x.cq.length)
    else s.reg a
  | .dma t, 0x800 => BitVec.ofNat 32 (t * 256 + 16)
  | .dma t, 0x804 => chMask s t .halt
  | .dma t, 0x808 => chMask s t .park
  | .inj t, 4 => nocPort s t
  | .inj t, o =>
    if 0x14 ≤ o && o < 0x30 && o % 8 == 4 then BitVec.ofNat 32 (nocTokens s t ((o - 0x14) / 8)) else s.reg a
  | .wfq k, o =>
    if 0x10 ≤ o && o < 0x20 then wfqPortStat s k ((o - 0x10) / 4)
    else if o = 0x80 then BitVec.ofNat 32 (selOf s r a)
    else if o = 0x84 then ((selEgress s r k).map fun x => x.2.cfg).getD 0#32
    else if o = 0x88 then ((selEgress s r k).map fun x => BitVec.ofNat 32 x.2.weight).getD 0#32
    else s.reg a
  | .lehr, 0 => lehrStat s
  | .nvs, 0 => setFld (s.reg a) 27 27 (b2n s.nvmPaused)
  | .nvs, 0x100 => mramStat s
  | .ecc t, 0x20 => BitVec.ofNat 32 (scrubAge s t)
  | .memc t, 0x1C => BitVec.ofNat 32 (scrubAge s (0x100 + t))
  | .dac, o =>
    if 0x100 ≤ o && o < 0x180 && o % 0x10 == 0 then setFld (s.reg a) 28 28 (b2n (dacLock s ((o - 0x100) / 0x10)))
    else s.reg a
  | _, _ => s.reg a

/-- NS and SUBNS of device time as TIME_NOW_FRAC shows them (R430, R454). -/
def nowFrac (s : State) : DWord := BitVec.ofNat 64 (s.clk.ns * 65536 + s.clk.frac / 2 ^ 32)

/-- A 64-bit register of a block as it reads; `a` is the address of its low half. -/
def view64 (s : State) (r : Requester) (b : Block) (off a : Nat) : DWord :=
  match b, off with
  | .time, 0x10 | .ltime _, 0x08 => nowFrac s
  | .time, 0x18 | .ltime _, 0x10 => BitVec.ofNat 64 s.clk.sec
  | .dsq q, 0x20 => match selQueue s r q with
    | some n => BitVec.ofNat 64 (s.queue n).ring
    | none => 0#64
  | .dsq _, 0x50 => BitVec.ofNat 64 s.dt
  | .wfq k, 0x90 => ((selEgress s r k).map fun x => x.2.ftag).getD 0#64
  | .wfq k, 0x98 => ((selEgress s r k).map fun x => x.2.bytes).getD 0#64
  | _, _ => s.reg64 a

/-! ### Reads -/

/-- The offset is that of NOW_FRAC. -/
def isNowFrac : Block → Nat → Bool
  | .time, 0x10 | .ltime _, 0x08 => true
  | _, _ => false
/-- The offset is that of NOW_SEC. -/
def isNowSec : Block → Nat → Bool
  | .time, 0x18 | .ltime _, 0x10 => true
  | _, _ => false

/-- Change the read latches. -/
def setLatches (s : State) (l : List HalfHeld) : State := { s with regs := { s.regs with latches := l } }

/-- Reading the low half of NOW_FRAC latches the whole device time (R430); the latched NOW_SEC is kept under the
two addresses inside its low word. -/
def latchSec (r : Requester) (sec : Nat) (v : DWord) (s : State) : State :=
  setLatches s (heldPut r (sec + 2) (hi32 v) (heldPut r (sec + 1) (lo32 v) s.regs.latches))

/-- A read of one half of NOW_SEC at `a`: the latched value where one is held. -/
def readSec (r : Requester) (a : Nat) (high : Bool) (v : DWord) (s : State) : Word × State :=
  let k := if high then a + 2 else a + 1
  match heldTake r k s.regs.latches with
  | (some w, l) => (w, setLatches s l)
  | (none, _) => readHalf r a high v s

/-- Read-to-clear registers return their value, then clear it (R14). -/
def clearRead (s : State) (b : Block) (off a : Nat) (k : RegKind) : State :=
  match b, off with
  | .mbx, _ => s
  | _, _ => if k = .rc then s.setReg a 0#32 else s

/-- MBX_ALLOC is read: the answer and the state. -/
def allocRead (r : Requester) (s : State) : Word × State :=
  match r, firstBelow 32 fun n => mbxState s n == 0 with
  | .core t c, some n =>
    (BitVec.ofNat 32 (2 ^ 31 + n), s.setReg (R.MBX_STAT n) (BitVec.ofNat 32 (2 ^ 30 + t * 2 ^ 18 + c * 2 ^ 16)))
  | _, _ => (0#32, s)

/-- Read 32 bits at an offset of a block, rights apart. -/
def read32 (r : Requester) (b : Block) (off a : Nat) (s : State) : Word × State :=
  match b with
  | .core t c => coreRead r t c off s
  | _ =>
    if b == .mbx && off == 0 then allocRead r s else
    match rowAt b off with
    | none => (0#32, s)
    | some row =>
      match row.kind with
      | .wo => (0#32, s)
      | .cp => (if off % 8 == 4 then ~~~(s.reg (a - 4)) else s.reg a, s)
      | _ =>
        if row.wide then
          let high := row.isHigh off
          let lo := if high then a - 4 else a
          let o := if high then off - 4 else off
          let v := view64 s r b o lo
          if isNowSec b o then readSec r lo high v s
          else
            let x := readHalf r lo high v s
            if isNowFrac b o && !high then (x.1, latchSec r (lo + 8) (view64 s r b (o + 8) (lo + 8)) x.2) else x
        else (view32 s r b off a, clearRead s b off a row.kind)

/-- A 64-bit register lies at an offset. -/
def is64 (b : Block) (off : Nat) (s : State) : Bool :=
  match b with
  | .core t c => (coreReg64 s t c off).isSome
  | _ => match rowAt b off with
    | some row => row.wide && !row.isHigh off
    | none => false

/-- Read 64 bits at an offset of a block, rights apart; held halves are untouched (R12). -/
def read64 (r : Requester) (b : Block) (off a : Nat) (s : State) : DWord :=
  match b with
  | .core t c => (coreReg64 s t c off).getD 0#64
  | _ => view64 s r b off a

/-! ### Writes -/

/-- A plain register takes a write: read-only bits keep their value, 1s clear W1C bits (R14). -/
def plainWrite (row : RegRow) (a : Nat) (w : Word) (s : State) : State :=
  let m := BitVec.ofNat 32 row.rw
  let c := BitVec.ofNat 32 row.w1c
  s.modReg a fun old => (w &&& m) ||| (old &&& ~~~m &&& ~~~(w &&& c))

/-- A write to a DSQ register (R194, R195, R216, R230). -/
def dsqWrite (r : Requester) (q off a : Nat) (row : RegRow) (w : Word) (s : State) : State :=
  if off = 0x10 then
    let s := setSel s r a (w &&& 0xFFFF#32)
    if qidDsq (fld w 15 0) = q then s else s.orReg (R.DSQ_STAT q) 1
  else if off = 0x40 then setSel s r a (w &&& 0xFFF#32)
  else if off = 0x44 then writeFlowCfg q (selOf s r (R.DSQ_FLOW_SEL q)) w s
  else if queueCfgReg off then
    match selQueue s r q with
    | none => s
    | some n =>
      let x := s.queue n
      match off with
      | 0x14 => writeQCfg (r == .gaffer) n w s
      | 0x18 => writeQWm n w s
      | 0x1C => s.setQueue n { x with staleUs := fld w 31 16, outResv := fld w 2 0 }
      | 0x30 => s.setQueue n { x with target := fld w 31 24 }
      | _ => s
  else plainWrite row a w s

/-- A write to a WFQ register (R428). -/
def wfqWrite (r : Requester) (k off a : Nat) (row : RegRow) (w : Word) (s : State) : State :=
  match off with
  | 0x80 =>
    let s := setSel s r a (w &&& 0xFFFF#32)
    if (selEgress s r k).isSome then s else s.orReg (R.WFQ_STAT k) 4
  | 0x84 => match selEgress s r k with
    | some (n, x) =>
      let y := { x with cfg := w &&& 0xFEF70000#32 }
      s.setEgq n (if bit w 25 && !bit x.cfg 25 then newWindow s n y s.devNs else y)
    | none => s
  | 0x88 => match selEgress s r k with
    | some (n, x) => s.setEgq n { x with weight := fld w 15 0 }
    | none => s
  | _ => plainWrite row a w s

/-- A write to a TIME register (R434, R453, R454): ACQUIRE clears STEP_DONE; a generator starts again from START. -/
def timeWrite (off a : Nat) (row : RegRow) (w : Word) (s : State) : State :=
  if off = 0 then
    let st := servoState s
    let s := plainWrite row a w (closeRateLog s)
    if servoState s ≠ st ∨ servoState s = 1 then setServo s (servoState s) else s
  else
    let old := s.reg a
    let s := plainWrite row a w s
    let fired : Word := if off % 0x20 = 0x10 then 0x8000000#32 else 0#32
    if 0x80 ≤ off && off < 0x100 && (s.reg a ||| fired) != (old ||| fired) then armTev s ((off - 0x80) / 0x20)
    else s

/-- A write to an ISL register (R498, R499): cycles counted so far are settled; a fixed code takes effect at once. -/
def islWrite (t off a : Nat) (row : RegRow) (w : Word) (s : State) : State :=
  if off = 4 then
    let s := plainWrite row a w (settleCycles s t)
    if !bit w 31 && (s.island t).st == .run then
      s.setReg (R.ISL_VOLT t) (BitVec.ofNat 32 (min 140 (fld w 7 0)))
    else s
  else plainWrite row a w s

/-- A write to a SPUR register: EN starts or stops the port (R457, R461). -/
def spurWrite (p off a : Nat) (row : RegRow) (w : Word) (s : State) : State :=
  if off = 0 then
    let old := s.flag a 31
    let s := plainWrite row a w s
    if bit w 31 && !old then spurTrain s p 1 false
    else if !bit w 31 && old then spurEnter s p 0 else s
  else plainWrite row a w s

/-- A write to a DMA register (R333, R344, R346). -/
def dmaWrite (t off a : Nat) (row : RegRow) (w : Word) (s : State) : State :=
  if 0x810 = off then evtSet s t w
  else if 0x800 ≤ off then plainWrite row a w s
  else
    let c := off / 0x80
    match off % 0x80 with
    | 0x00 => dmaCtrlWrite s t c w
    | 0x10 => dmaDoorbell s t c w
    | 0x18 => if chWritable s t c then plainWrite row a w s else s
    | _ => plainWrite row a w s

/-- ECC_CLR (R376, R391): bit 0 clears every counter of the block. -/
def eccClear (t : Nat) (w : Word) (s : State) : State :=
  if bit w 0 then
    [R.ECC_CE_CNT t, R.ECC_UE_CNT t, R.ECC_CACHE_CNT t, R.ECC_POISON_WR t, R.ECC_CLOG_LOST t].foldl
      (fun s a => s.setReg a 0#32) s
  else s

/-- MEMC_CLR (R376, R393): bit 0 clears every counter of the block. -/
def memcClear (t : Nat) (w : Word) (s : State) : State :=
  if bit w 0 then
    [R.MEMC_CE_CNT t, R.MEMC_UE_CNT t, R.MEMC_ONDIE_CE t, R.MEMC_POISON_WR t].foldl (fun s a => s.setReg a 0#32) s
  else s

/-- A submit on an on-chip mailbox (R101, R102). -/
def mbxSubmit (r : Requester) (n : Nat) (s : State) : State :=
  if mbxState s n = 1 ∨ mbxState s n = 3 then
    let s := s.setField (R.MBX_STAT n) 31 30 2
    { s with tcs := { s.tcs with onchipReq := mset n r s.tcs.onchipReq } }
  else s

/-- A write to an on-chip mailbox register (R100 to R102). -/
def mbxWrite (r : Requester) (off a : Nat) (row : RegRow) (w : Word) (s : State) : State :=
  if off < 0x100 then plainWrite row a w s
  else
    let n := (off - 0x100) / 0x20
    match (off - 0x100) % 0x20 with
    | 0xC =>
      if fld w 1 0 = 1 then mbxSubmit r n s
      else if fld w 1 0 = 2 then mbxAbort (BitVec.ofNat 5 n).toFin s
      else s
    | 0x14 => if bit w 0 && mbxState s n != 2 then s.setReg (R.MBX_STAT n) 0#32 else s
    | _ => plainWrite row a w s

/-- The Lehr's budget in units of 0.1 % of a tile port: 1 to 100 (R569). -/
def lehrBudget (s : State) : Nat := max 1 (min 100 (s.field R.LEHR_BUDGET 6 0))

/-- The BACKGROUND bucket of a tile follows the budget: RATE 1.6 times the budget, BURST 64 (R569). -/
def setBucket (s : State) (t : Nat) : State :=
  (settleTokens s t 3).setReg (R.NOC_INJ_CFG t 3) (BitVec.ofNat 32 (64 * 2 ^ 20 + lehrBudget s * 16 / 10))

/-- Every tile that is not OFF. -/
def litTiles (s : State) : List Nat := (List.range 144).filter fun t => tilePresent s.part t && (s.island t).st != .off

/-- A write of LEHR_BUDGET (R569). -/
def budgetWrite (off a : Nat) (row : RegRow) (w : Word) (s : State) : State :=
  let s := plainWrite row a w s
  if off = 8 then (litTiles s).foldl setBucket s else s

/-- Bits of a 32-bit register of a block take a write. -/
def write32Narrow (r : Requester) (b : Block) (off a : Nat) (row : RegRow) (w : Word) (s : State) : State :=
  match b with
  | .dsq q => dsqWrite r q off a row w s
  | .wfq k => wfqWrite r k off a row w s
  | .time => timeWrite off a row w s
  | .isl t => islWrite t off a row w s
  | .spur p => spurWrite p off a row w s
  | .dma t => dmaWrite t off a row w s
  | .mbx => mbxWrite r off a row w s
  | .ecc t => if off = 4 then eccClear t w s else plainWrite row a w s
  | .memc t => if off = 4 then memcClear t w s else plainWrite row a w s
  | .acc t =>
    if off = 4 then
      (if accBusy s t then s else s.setReg a (w &&& 0xFFFF00FF#32))
    else plainWrite row a w s
  | .lehr => budgetWrite off a row w s
  | .sd k l =>
    if off = 0x18 then prbsCtrlWrite k l w s
    else if off = 0x1C then lpbkWrite k l (fld w 1 0) (plainWrite row a (setFld w 1 0 (loopback s k l)) s)
    else noteDrive s (plainWrite row a w s) k l
  | .dac =>
    if 0x100 ≤ off && off % 0x10 == 0 then dacCfgWrite ((off - 0x100) / 0x10) w s
    else if 0x100 ≤ off && off % 0x10 == 4 then dacCodeWrite ((off - 0x100) / 0x10) w s
    else plainWrite row a w s
  | .inj t =>
    if 0x10 ≤ off && off < 0x30 && off % 8 == 0 then plainWrite row a w (settleTokens s t ((off - 0x10) / 8))
    else plainWrite row a w s
  | _ => plainWrite row a w s

/-- A 64-bit register takes a value; `off` and `a` are those of its low half. -/
def write64 (r : Requester) (b : Block) (off a : Nat) (v : DWord) (s : State) : State :=
  match b with
  | .core t c => s.setCore t c (coreSet64 (s.core t c) off v)
  | _ => match rowAt b off with
    | none => s
    | some row =>
      if row.rw = 0 then s else
      match b, off with
      | .dsq q, 0x20 => match selQueue s r q with
        | some n => writeQRing n v.toNat s
        | none => s
      | .dma t, o =>
        if o % 0x80 = 8 then (if chWritable s t (o / 0x80) then s.setReg64 a (v &&& ~~~0xF#64) else s)
        else s.setReg64 a v
      | .time, 0x20 => s.setReg64 a (BitVec.ofInt 64 (toSigned 48 v.toNat))
      | .time, o =>
        let s := s.setReg64 a v
        if 0x80 ≤ o && o < 0x100 then s.modTime fun t => { t with tevNext := mset ((o - 0x80) / 0x20) 0 t.tevNext } else s
      | .lehr, _ =>
        let s := s.setReg64 a v
        { s with stor := { s.stor with telBytes := 0, telFrames := [] } }
      | _, _ => s.setReg64 a v

/-- A write to one half of a complement-paired register (R16): it starts a pair, completes it, or breaks it; a half
older than 1,024 ns is already discarded. `a` is the address of the register. -/
def cpWriteHalf (r : Requester) (a : Nat) (compl : Bool) (w : Word) (s : State) : State :=
  let drop : State := { s with regs := { s.regs with cp := mdel a s.regs.cp } }
  let start (s : State) : State :=
    let x : CpPending := { complement := compl, value := w, by_ := r, at_ := s.now }
    { s with regs := { s.regs with cp := mset a x s.regs.cp } }
  match mget a s.regs.cp with
  | none => start s
  | some x =>
    if x.at_ + 1024 < s.now then start (drop.orReg R.TIME_EVT 0)
    else if x.by_ = r ∧ x.complement ≠ compl ∧ x.value = ~~~w then
      let v := if compl then x.value else w
      let s := drop.setField a 0 0 (b2n (bit v 0))
      if bit v 0 then stepEngine s else s
    else drop.orReg R.TIME_EVT 0

/-- Write 32 bits at an offset of a block, rights apart. -/
def write32 (r : Requester) (b : Block) (off a : Nat) (w : Word) (s : State) : State :=
  match b with
  | .core t c => if coreBusy s t c then s else coreWrite r t c off w s
  | _ => match rowAt b off with
    | none => s
    | some row =>
      match row.kind with
      | .rc => s
      | .cp => cpWriteHalf r (a - off % 8) (off % 8 == 4) w s
      | _ =>
        if row.wide then
          let high := row.isHigh off
          let lo := if high then a - 4 else a
          let o := if high then off - 4 else off
          let y := writeHalf r lo high w (view64 s r b o lo) s
          match y.1 with
          | some v => write64 r b o lo v y.2
          | none => y.2
        else write32Narrow r b off a row w s

/-! ### Accesses to any address -/

/-- The error of a register access: its size and alignment (R11), a sleeping server (R602), or a right it lacks. -/
def regErr (s : State) (r : Requester) (write : Bool) (a n : Nat) (b : Block) (off : Nat) : Option BusCause :=
  if !answers s r (serverOf a (.regs b off)) then some .domainAsleep
  else if !((n == 4 && a % 4 == 0) || (n == 8 && a % 8 == 0 && is64 b off s)) then some .decodeErr
  else regRights s r write b off

/-- A read of any address (R11, R365). -/
def busRead (r : Requester) (a n : Nat) (s : State) : Except BusCause (List Byte) × State :=
  match placeOf s.part a with
  | .regs b off =>
    match regErr s r false a n b off with
    | some c => (.error c, s)
    | none =>
      if n = 8 then (.ok (leBytes 8 (read64 r b off a s).toNat), s)
      else let x := read32 r b off a s; (.ok (leBytes 4 x.1.toNat), x.2)
  | _ => busMemRead r a n s

/-- A write of any address (R11, R365). -/
def busWrite (r : Requester) (a : Nat) (bs : List Byte) (s : State) : Option BusCause × State :=
  match placeOf s.part a with
  | .regs b off =>
    let n := bs.length
    match regErr s r true a n b off with
    | some c => (some c, s)
    | none =>
      if n = 8 then
        (match b with
         | .core t c => if coreBusy s t c then (none, s) else (none, write64 r b off a (BitVec.ofNat 64 (leVal bs)) s)
         | _ => (none, write64 r b off a (BitVec.ofNat 64 (leVal bs)) s))
      else (none, write32 r b off a (BitVec.ofNat 32 (leVal bs)) s)
  | _ => busMemWrite r a bs s

/-! ### Rows of the register rules -/

/-- The answer of a read of `n` bytes. -/
def readAnswer (r : Requester) (a n : Nat) (s : State) : State :=
  let x := busRead r a n s
  match x.1 with
  | .ok b => x.2.answer (.data (BitVec.ofNat 64 (leVal b)))
  | .error c => x.2.answer (.error c)

/-- The answer of a write. -/
def writeAnswer (r : Requester) (a : Nat) (bs : List Byte) (s : State) : State :=
  let x := busWrite r a bs s
  match x.1 with
  | some c => x.2.answer (.error c)
  | none => x.2.answer .done

/-- REG64_LOW_READ (R12, R430): reading the low half of a 64-bit register latches the high half for the requester. -/
def execReg64LowRead (r : Requester) (addr : Nat) (s : State) : Host.Outcome State Fault Refusal :=
  ok (readAnswer r addr 4 s)

/-- REG64_LOW_WRITE (R12): the low half is held for the requester; the register keeps its value. -/
def execReg64LowWrite (r : Requester) (addr : Nat) (value : Word) (s : State) : Host.Outcome State Fault Refusal :=
  ok (writeAnswer r addr (leBytes 4 value.toNat) s)

/-- REG64_HIGH_WRITE (R12): the register takes the high half and any low half held for the requester. -/
def execReg64HighWrite (r : Requester) (addr : Nat) (value : Word) (s : State) : Host.Outcome State Fault Refusal :=
  ok (writeAnswer r addr (leBytes 4 value.toNat) s)

/-- CP_WRITE (R16): a write to either half of a complement-paired register. -/
def execCpWrite (r : Requester) (addr : Nat) (value : Word) (s : State) : Host.Outcome State Fault Refusal :=
  ok (writeAnswer r addr (leBytes 4 value.toNat) s)

/-- CP_PAIR_TIMEOUT (R16): 1,024 ns have passed without the second half. -/
def execCpPairTimeout (addr : Nat) (s : State) : Host.Outcome State Fault Refusal :=
  match mget addr s.regs.cp with
  | some x =>
    if x.at_ + 1024 ≤ s.now then
      ok (State.orReg { s with regs := { s.regs with cp := mdel addr s.regs.cp } } R.TIME_EVT 0)
    else ok s
  | none => ok s

/-- RC_READ (R14): a read-to-clear register returns its value and clears it. -/
def execRcRead (r : Requester) (addr : Nat) (s : State) : Host.Outcome State Fault Refusal := ok (readAnswer r addr 4 s)

/-- REGISTER_WRITE (R11 to R14): a register write acts under its access code; a refused requester or a wrong size gets a
bus error. -/
def execRegisterWrite (r : Requester) (addr size : Nat) (value : DWord) (s : State) :
    Host.Outcome State Fault Refusal :=
  ok (writeAnswer r addr (leBytes size value.toNat) s)

end Sys2Proof.Machine
end

