-- ==== Sys2Proof/Machine/FabNet.lean ====
section
/-! DEFINITION. User logic in a fabric tile (R474 to R479, R483, R489, R491): cells, wires, carry chains, long lines,
flip-flops, clock generators, pins and the flags of queue controllers. Assumption log: 89 (DEDUCED), 114 (DESIGN
CHOICE). -/

namespace Sys2Proof.Machine

/-- FAB `f` exists in the part. -/
def fabPresent (s : State) (f : Nat) : Bool := decide (f < 4) && quadPresent s.part f
/-- Change a fabric tile. -/
def State.modFab (s : State) (f : Nat) (g : Fab → Fab) : State := { s with fab := mset f (g (s.fabOf f)) s.fab }
/-- The design that user logic runs: also while it is being stopped (R493); its clocks stop outside RUN (R490). -/
def fabUser (s : State) (f : Nat) : Option FabImage :=
  let st := fabSt s f
  if tileRun s (fabTile f) && (st == 4 || st == 1 || st == 2) then (s.fabOf f).design else none

/-! ### Values -/

/-- The value on a routing wire. -/
def NetVal.wire (x : NetVal) (w : Nat) : Bool := (mget w x.wires).getD (Config.fabOpen 0 w)
/-- The carry output of a cell. -/
def NetVal.carry (x : NetVal) (c : Nat) : Bool := (mget c x.carries).getD (Config.fabOpen 1 c)
/-- The value a bus keeper holds its long line at (R477). -/
def NetVal.line (x : NetVal) (l : Nat) : Bool := (mget l x.lines).getD (Config.fabOpen 2 l)
/-- The output of FFA, or of FFB. -/
def NetVal.flop (x : NetVal) (c : Nat) (b : Bool) : Bool := mgetD false x.flops (2 * c + b2n b)

/-! ### Cells (R475) -/

/-- The value at input `i` of a cell, A being 0. -/
def cellInput (k : CellCfg) (x : NetVal) (i : Nat) : Bool := x.wire (k.ins.getD i 0)

/-- The table index: inputs F, E, D, C, B, A, with A the least significant bit. -/
def cellIndex (k : CellCfg) (x : NetVal) : Nat :=
  ((List.range 6).map fun i => b2n (cellInput k x i) * 2 ^ i).foldl (· + ·) 0

/-- LY: the table entry; in split mode the even entry of B to F. -/
def cellLy (k : CellCfg) (x : NetVal) : Bool :=
  let i := cellIndex k x
  k.table.getLsbD (if k.split then i / 2 * 2 else i)

/-- The carry into a cell: from the cell before it in its slab, or from the last cell of the slab above (R475). -/
def carryIn (x : NetVal) (c : Nat) : Bool :=
  if c % 8 ≠ 0 then x.carry (c - 1) else if 512 ≤ c then x.carry (c - 505) else Config.fabOpen 1 (40960 + c)

/-- LZ: LY exclusive-or the carry input; in split mode the odd entry of B to F. -/
def cellLz (k : CellCfg) (x : NetVal) (c : Nat) : Bool :=
  if k.split then k.table.getLsbD (cellIndex k x / 2 * 2 + 1) else xor (cellLy k x) (carryIn x c)

/-- The carry output that a cell computes. -/
def cellCarry (k : CellCfg) (x : NetVal) (c : Nat) : Bool := Config.carryStage (cellLy k x) (carryIn x c) (cellIndex k x)

/-- The D input of a flip-flop of a cell (R476): a bypass input is input A in split mode. -/
def flopD (k : CellCfg) (g : FlopCfg) (x : NetVal) (c : Nat) : Bool :=
  match g.d with
  | .ly => cellLy k x
  | .lz => cellLz k x c
  | .carry => x.carry c
  | .bypass => if k.split then cellInput k x 0 else x.wire g.bypass

/-! ### Wires and long lines (R477) -/

/-- The flags of a queue controller. -/
def qcFlags (s : State) (f q : Nat) : QcFlags := mgetD QcFlags.init (s.fabOf f).flags q

/-- What a wire's multiplexer passes on. -/
def srcVal (s : State) (f : Nat) (d : FabImage) (x : NetVal) : Src → Bool
  | .always v => v
  | .wire w => x.wire w
  | .ly c => ((mget c d.net.cells).map fun k => cellLy k x).getD (Config.fabOpen 0 (2 ^ 32 + c))
  | .lz c => ((mget c d.net.cells).map fun k => cellLz k x c).getD (Config.fabOpen 0 (2 ^ 33 + c))
  | .carry c => x.carry c
  | .flop c b => x.flop c b
  | .gen k => mgetD false x.gens k
  | .pin p => mgetD false x.pins p
  | .line l => x.line l
  | .stop => fabSt s f == 2
  | .full q => (qcFlags s f q).full
  | .almostFull q => (qcFlags s f q).almostFull
  | .empty q => (qcFlags s f q).empty
  | .almostEmpty q => (qcFlags s f q).almostEmpty
  | .pushReady q => s.flag (R.FAB_QC_STAT f q) 29
  | .refuse q b => s.flag (R.FAB_QC_STAT f q) (27 + b % 2)

/-- The enabled drivers of a long line. -/
def driving (d : FabImage) (x : NetVal) (l : Nat) : List LineDrv :=
  d.net.drivers.filter fun v => v.line == l && v.en.all x.wire

/-- The lines that a design drives. -/
def netLines (d : FabImage) : List Nat := (d.net.drivers.map LineDrv.line).eraseDups

/-- The value that a long line goes to: its one driver's; the keeper's while none is enabled or the line is shut down
(R477, R495). Drivers that disagree leave it open. -/
def lineNext (off : List Nat) (d : FabImage) (x : NetVal) (l : Nat) : Bool :=
  if off.contains l then x.line l
  else match (driving d x l).map fun v => x.wire v.data with
    | [] => x.line l
    | v :: vs => if vs.all (· == v) then v else Config.fabOpen 2 (2 ^ 32 + l)

/-- Wires, carries and lines change to the values due; `mv` says which of them do now (wire w is 3w, carry c 3c + 1, line l
3l + 2). -/
def netMove (s : State) (f : Nat) (d : FabImage) (mv : Nat → Bool) (x : NetVal) : NetVal :=
  let off := (s.fabOf f).off
  { x with
    wires := d.net.wires.map fun w => (w.1, if mv (3 * w.1) then srcVal s f d x w.2 else x.wire w.1)
    carries := d.net.cells.map fun k => (k.1, if mv (3 * k.1 + 1) then cellCarry k.2 x k.1 else x.carry k.1)
    lines := (netLines d).map fun l => (l, if mv (3 * l + 2) then lineNext off d x l else x.line l) }

/-! ### Flip-flops and queue flags (R476, R478, R483) -/

/-- A wire made the edge that clocks. -/
def edge (x y : NetVal) (w : Nat) (rising : Bool) : Bool := x.wire w != y.wire w && y.wire w == rising

/-- An input of a cell is still changing. -/
def restless (s : State) (f : Nat) (d : FabImage) (x : NetVal) (c : Nat) (k : CellCfg) (g : FlopCfg) : Bool :=
  let wires := if g.d = .bypass ∧ !k.split then [g.bypass] else k.ins
  let late (w : Nat) : Bool := (mget w d.net.wires).any fun v => srcVal s f d x v != x.wire w
  wires.any late || ((g.d = .lz ∧ !k.split ∨ g.d = .carry : Bool) &&
    [c, c - 1, c - 505].any fun i => (mget i d.net.cells).any fun k => cellCarry k x i != x.carry i)

/-- A flip-flop after its wires went from `x` to `y`: the asynchronous set/reset by level, everything else at the clock's
edge; `m` numbers the free value of one whose D is still changing. -/
def flopNext (s : State) (f : Nat) (d : FabImage) (m : Nat) (x y : NetVal) (c : Nat) (k : CellCfg) (b : Bool) : Bool :=
  let g := if b then k.ffb else k.ffa
  if g.async && g.sr.any y.wire then g.sets
  else if !edge x y g.clk g.rising then x.flop c b
  else if !g.async && g.sr.any x.wire then g.sets
  else if !g.en.all x.wire then x.flop c b
  else if restless s f d x c k g then Config.metastable m (2 * c + b2n b)
  else flopD k g x c

/-- Every flip-flop after a move. -/
def netFlops (s : State) (f : Nat) (d : FabImage) (m : Nat) (x y : NetVal) : FMap Bool :=
  d.net.cells.flatMap fun k => [(2 * k.1, flopNext s f d m x y k.1 k.2 false), (2 * k.1 + 1, flopNext s f d m x y k.1 k.2 true)]

/-- Words a controller holds at most (R483). -/
def qcDepth (c : QcCfg) : Nat := c.blocks * (if c.wide then 512 else 768)
/-- Words a controller holds. -/
def qcWords (s : State) (f n : Nat) : List (BitVec 72) := mgetD [] (s.fabOf f).fifos n

/-- A flag that its own side's operation may raise, and that falls only at an edge of that side's clock. -/
def flagFall (held due now : Bool) : Bool := held && (due || !now)

/-- The write side's flags at an edge of its clock: one that the other side has made false falls at the third edge at the
latest. -/
def QcFlags.atWrite (g : QcFlags) (c : QcCfg) (len m q : Nat) : QcFlags :=
  let full := decide (qcDepth c ≤ len)
  let af := decide (c.af ≤ len)
  if (g.full && !full) || (g.almostFull && !af) then
    let last := decide (2 ≤ g.wEdges)
    { g with full := flagFall g.full full (last || Config.flagFalls m (4 * q)),
             almostFull := flagFall g.almostFull af (last || Config.flagFalls m (4 * q + 1)), wEdges := g.wEdges + 1 }
  else { g with wEdges := 0 }

/-- The read side's flags at an edge of its clock. -/
def QcFlags.atRead (g : QcFlags) (c : QcCfg) (len m q : Nat) : QcFlags :=
  let empty := decide (len = 0)
  let ae := decide (len ≤ c.ae)
  if (g.empty && !empty) || (g.almostEmpty && !ae) then
    let last := decide (2 ≤ g.rEdges)
    { g with empty := flagFall g.empty empty (last || Config.flagFalls m (4 * q + 2)),
             almostEmpty := flagFall g.almostEmpty ae (last || Config.flagFalls m (4 * q + 3)), rEdges := g.rEdges + 1 }
  else { g with rEdges := 0 }

/-- The flags of every controller after a move. -/
def netFlags (s : State) (f : Nat) (d : FabImage) (m : Nat) (x y : NetVal) : FMap QcFlags :=
  d.qcs.map fun q =>
    let len := (qcWords s f q.1).length
    let g := qcFlags s f q.1
    let g := if edge x y q.2.wclk true then g.atWrite q.2 len m q.1 else g
    (q.1, if edge x y q.2.rclk true then g.atRead q.2 len m q.1 else g)

/-- User logic's own write raises the write side's flags (R483). -/
def State.wroteQc (s : State) (f q : Nat) (c : QcCfg) : State :=
  let len := (qcWords s f q).length
  let g := qcFlags s f q
  let g := { g with full := g.full || decide (qcDepth c ≤ len), almostFull := g.almostFull || decide (c.af ≤ len) }
  s.modFab f fun x => { x with flags := mset q g x.flags }

/-- A read raises the read side's flags (R483). -/
def State.readQc (s : State) (f q : Nat) (c : QcCfg) : State :=
  let len := (qcWords s f q).length
  let g := qcFlags s f q
  let g := { g with empty := g.empty || decide (len = 0), almostEmpty := g.almostEmpty || decide (len ≤ c.ae) }
  s.modFab f fun x => { x with flags := mset q g x.flags }

/-! ### One move, one cycle -/

/-- A set of wires, carries and lines changes, and the flip-flops and controllers that their transitions clock respond. -/
def netStep (f : Nat) (d : FabImage) (m : Nat) (mv : Nat → Bool) (s : State) : State :=
  let x := (s.fabOf f).vals
  let y := netMove s f d mv x
  let flags := netFlags s f d m x y
  s.modFab f fun t => { t with vals := { y with flops := netFlops s f d m x y }, flags := flags }

/-- The output of a clock generator (R479) `n` cycles after its release: a divided clock is low first, and high for the
second half of each period. -/
def genLevel (pins : FMap Bool) (n : Nat) : GenCfg → Bool
  | .divide r => decide ((r + 1) / 2 ≤ n % r)
  | .pin p => mgetD false pins p

/-- One island clock cycle: pins and generators, held at 0 for 16 cycles after GSR (R491), then the moves of the cycle. -/
def netCycle (f : Nat) (d : FabImage) (m : Nat) (s : State) : State :=
  let n := (s.fabOf f).cycle
  let pins : FMap Bool := (List.range 24).map fun p => (p, decide (16 ≤ n) && Config.fabPin f p m)
  let gens : FMap Bool := d.net.gens.map fun g => (g.1, decide (16 ≤ n) && genLevel pins (n - 16) g.2)
  let s := s.modFab f fun t => { t with vals := { t.vals with pins := pins, gens := gens }, cycle := n + 1 }
  (Config.fabMoves m).foldl (fun s l => netStep f d m l.contains s) s

/-- What GSR leaves (R491): every flip-flop at INIT, generators and pins at 0, the wires settled. -/
def netReset (f : Nat) (d : FabImage) (s : State) : State :=
  let flops := d.net.cells.flatMap fun k => [(2 * k.1, k.2.ffa.init), (2 * k.1 + 1, k.2.ffb.init)]
  let x : NetVal := { NetVal.none_ with flops := flops, gens := d.net.gens.map fun g => (g.1, false) }
  let n := d.net.wires.length + d.net.cells.length + (netLines d).length
  let y := (List.range n).foldl (fun x _ => netMove s f d (fun _ => true) x) x
  s.modFab f fun t => { t with vals := y, flags := d.qcs.map fun q => (q.1, QcFlags.init), cycle := 0 }

/-! ### Pins (R489, R490) -/

/-- What FAB `f` drives on user pin `p`; none is high impedance: while no design is in RUN, while loading, or by the
design's own enable. In KEEP the pin holds its last state. -/
def pinDrive (s : State) (f p : Nat) : Option Bool :=
  let up := tileRun s (fabTile f) || (s.island (fabTile f)).st == .keep || (s.island (fabTile f)).st == .halt
  let st := fabSt s f
  if up && (st == 4 || st == 1 || st == 2) then
    (s.fabOf f).design.bind fun d => (mget p d.net.pinOut).bind fun o =>
      if o.2.all (s.fabOf f).vals.wire then some ((s.fabOf f).vals.wire o.1) else none
  else none

/-! ### Static checks (R493 step 2) -/

/-- No long line has two drivers that are always enabled. -/
def linesOk (d : FabImage) : Bool :=
  (netLines d).all fun l => decide ((d.net.drivers.filter fun v => v.line == l && v.en.isNone).length ≤ 1)

/-- A driver's line and ID exist (R477). -/
def driverOk (v : LineDrv) : Bool := decide (v.line < 1152) && decide (v.drv < if v.line < 640 then 64 else 80)

/-- A generator's ratio or pin exists (R479). -/
def genOk : GenCfg → Bool
  | .divide r => decide (2 ≤ r) && decide (r ≤ 256)
  | .pin p => decide (p < 24)

/-- A source exists. -/
def srcOk : Src → Bool
  | .ly c | .lz c | .carry c | .flop c _ => decide (c < 40960)
  | .gen k => decide (k < 4)
  | .pin p => decide (p < 24)
  | .line l => decide (l < 1152)
  | .full q | .almostFull q | .empty q | .almostEmpty q | .pushReady q => decide (q < 64)
  | .refuse q b => decide (q < 64) && decide (b < 2)
  | .always _ | .wire _ | .stop => true

/-- A queue controller's fields (R483, R485): its blocks are QUEUE blocks, only a 72-bit one is bound to a QID. -/
def qcOk (d : FabImage) (c : QcCfg) : Bool :=
  decide (1 ≤ c.blocks) && decide (c.blocks ≤ 16) && decide (1 ≤ c.mode) && decide (c.mode ≤ 3) && (c.wide || c.mode == 1) &&
  decide (1 ≤ c.af) && decide (c.af < qcDepth c) && decide (1 ≤ c.ae) && decide (c.ae < qcDepth c) &&
  (List.range c.blocks).all fun i => (mget (c.first + i) d.brams).any fun b => !b.user

/-- A block's shape (R480): ECC only with 72-bit words. -/
def bramOk (b : BramCfg) : Bool := !b.user || ([72, 48, 24, 12].contains b.width && (!b.ecc || b.width == 72))

/-- The static checks of a design: field ranges, and no line with two drivers enabled statically. -/
def fabStatic (d : FabImage) : Bool :=
  d.staticOk && linesOk d && d.net.drivers.all driverOk && d.net.gens.all (fun g => decide (g.1 < 4) && genOk g.2) &&
  d.net.cells.all (fun k => decide (k.1 < 40960) && k.2.ins.length == 6) && d.net.wires.all (fun w => srcOk w.2) &&
  d.net.pinOut.all (fun p => decide (p.1 < 24)) && d.qcs.all (fun q => decide (q.1 < 64) && qcOk d q.2) &&
  d.brams.all (fun b => decide (b.1 < 512) && bramOk b.2)

end Sys2Proof.Machine
end

