-- ==== Sys2Proof/Machine/TrustBase.lean ====
section
/-! DEFINITION. Measurement registers (R542). Assumption log: 99 (DEDUCED). -/

namespace Sys2Proof.Machine

/-- Extend MEASn with a hash; every extension is journalled (R542, R561). -/
def extendMeas (n : Nat) (h : List Byte) (s : State) : State :=
  let m := lupd s.boot.meas n fun x => Config.sha3 (x ++ h)
  State.journal { s with boot := { s.boot with meas := m } } 0x0050 1 0xFFFF
    (Config.recordBody 0x0050 (leBytes 1 2 ++ leBytes 1 n ++ h))

end Sys2Proof.Machine
end

