-- ==== Sys2Proof/Machine/Fab.lean ====
section
/-! DEFINITION. Wenaef fabric tiles (R474 to R496): loading, queue controllers, NoC ports, block RAM ports and long
lines. Assumption log: 2 (DESIGN CHOICE), 88 (DESIGN CHOICE), 89 (DEDUCED), 114 (DESIGN CHOICE). -/

namespace Sys2Proof.Machine

/-- Set STATE of FAB_STATE. -/
def setFabSt (s : State) (f n : Nat) : State := s.setField (R.FAB_STATE f) 31 29 n

/-! ### Loading (R491 to R494) -/

/-- FAB_LOAD's opcode (R492). -/
def opFabLoad : OpInfo := { opcode := 0x0901 }

/-- Response payload of FAB_LOAD (R492). -/
def fabPayload (lost tRun : Nat) : List Byte := leBytes 4 lost ++ leBytes 4 0 ++ leBytes 8 tRun

/-- The checks of FAB_LOAD that every ACTION meets (R40, R492, R494, R536). -/
def fabCheck (m : TcsMsg) (f drainMs : Nat) (argOk : Bool) (s : State) : Option Status :=
  if !holdsSem s m 28 then some .notOwner
  else if s.parison && f != 0 then some .notReady
  else if !fabPresent s f || 1000 < drainMs || !argOk then some .badArg
  else if (s.fabOf f).job.isSome then some .busy
  else none

/-- The load or unload starts. -/
def fabBegin (m : TcsMsg) (f : Nat) (slot : Option Nat) (drainMs st : Nat) (s : State) : State :=
  let j : FabJob := { mbx := mbxKey m, slot := slot, drainMs := if drainMs = 0 then 10 else drainMs, image := none,
                      before := fabSt s f, at_ := s.now, lost := 0 }
  setFabSt (s.modFab f fun x => { x with job := some j }) f st

/-- FAB_LOAD (R492 to R494, R560): ACTION 0 starts loading an image from a NAND slot. -/
def execFabLoad (m : TcsMsg) (fab slot drainMs : Nat) (s : State) : Host.Outcome State Fault Refusal :=
  ok (begin_ opFabLoad m 0 (fun s =>
    match fabCheck m fab drainMs (decide (slot < 64)) s with
    | some st => .inl (refuse st s)
    | none =>
      match (mgetD { st := 0, total := 0, written := 0, data := [], blocks := [] } s.stor.slots slot).st with
      | 1 => .inl (refuse .busy s)
      | 2 => .inr (fabBegin m fab (some slot) drainMs 1 s)
      | _ => .inl (refuse .badState s)) s)

/-- FAB_UNLOAD (R492, R493): ACTION 1 begins at STOPPING. -/
def execFabUnload (m : TcsMsg) (fab drainMs : Nat) (s : State) : Host.Outcome State Fault Refusal :=
  ok (begin_ opFabLoad m 0 (fun s =>
    match fabCheck m fab drainMs true s with
    | some st => .inl (refuse st s)
    | none => .inr (fabBegin m fab none drainMs 2 s)) s)

/-- A load ends before it has touched the running design: the state it found returns. -/
def fabGiveUp (s : State) (f : Nat) (j : FabJob) (st : Status) : State :=
  finishMbx (setFabSt (s.modFab f fun x => { x with job := none }) f j.before) j.mbx st [] 0

/-- The fabric key slot holds an enrolled key (R493, R545). -/
def fabKeyOk (s : State) (k : Nat) : Bool :=
  match mget (2 * 8 + k) s.boot.keys with
  | some x => x.st == .enrolled
  | none => false

/-- FAB_IMAGE_VERIFY (R493 steps 1 and 2, R542, R555): the image is read (`none`: a UE on the way), then signature and
static checks; then STOPPING begins. -/
def execFabImageVerify (fab : Nat) (image : Option FabImage) (s : State) : Host.Outcome State Fault Refusal :=
  match (s.fabOf fab).job with
  | some j =>
    if !(fabSt s fab == 1 && j.slot.isSome) then ok s
    else match image with
    | none => ok (fabGiveUp (countRead 4 true s) fab j .ue)
    | some img =>
      if !((img.signer.map (fabKeyOk s)).getD false) then ok (fabGiveUp s fab j .authFail)
      else if img.fab ≠ fab ∨ !img.forPart ∨ !fabStatic img then ok (fabGiveUp s fab j .badArg)
      else
        let j' := { j with image := some img, at_ := s.now }
        ok (setFabSt (extendMeas (6 + fab) img.hash (s.modFab fab fun x => { x with job := some j' })) fab 2)
  | none => ok s

/-- The controllers of a design that are bound to a QID (R485). -/
def boundQcs (d : FabImage) : List Nat := (d.qcs.filter fun q => q.2.mode == 2 || q.2.mode == 3).map Prod.fst

/-- FILL of FAB_QC_STAT. -/
def setQc (s : State) (f n : Nat) (l : List (BitVec 72)) : State :=
  (s.modFab f fun x => { x with fifos := mset n l x.fifos }).setField (R.FAB_QC_STAT f n) 13 0 l.length

/-- Clear a run of registers. -/
def zeroRegs (s : State) (l : List Nat) : State := l.foldl (fun s a => s.setReg a 0#32) s

/-- The tile forgets its design: FIFOs, controllers, hash, recorded lines (R480, R493, R495). -/
def fabClear (s : State) (f : Nat) : State :=
  let s := s.modFab f fun x =>
    { x with design := none, fifos := [], popAt := [], off := [],
             flags := [], vals := NetVal.none_, cycle := 0 }
  let s := zeroRegs s ((List.range 64).map (R.FAB_QC_STAT f) ++ (List.range 8).map (R.FAB_IMAGE_HASH f)
    ++ (List.range 16).map (R.FAB_CONT_LINE f))
  s.setField (R.FAB_STATE f) 10 0 0

/-- FAB_DRAIN_END (R493 step 4): every bound FIFO is empty, or DRAIN_MS has passed; entries left are lost. An unload ends
here. -/
def execFabDrainEnd (fab : Nat) (s : State) : Host.Outcome State Fault Refusal :=
  match (s.fabOf fab).job with
  | none => ok s
  | some j =>
    if fabSt s fab ≠ 2 then ok s
    else
      let bound := (((s.fabOf fab).design).map boundQcs).getD []
      let left := (bound.map fun n => (qcWords s fab n).length).foldl (· + ·) 0
      if left ≠ 0 ∧ s.now < j.at_ + j.drainMs * 1000000 then ok s
      else
        let lost := (bound.map fun n => (qcWords s fab n).length / 4).foldl (· + ·) 0
        let s := s.count (R.FAB_CNT_LOST fab) lost
        let s := fabClear s fab
        if j.slot.isSome then
          let j' := { j with lost := lost, at_ := s.now }
          ok (setFabSt (s.modFab fab fun x => { x with job := some j' }) fab 3)
        else
          ok (finishMbx (setFabSt (s.modFab fab fun x => { x with job := none }) fab 0) j.mbx .ok (fabPayload lost 0) 0)

/-- FAB_QC_STAT of a controller as the bitstream sets it. -/
def qcInit (s : State) (f : Nat) (q : Nat × QcCfg) : State :=
  s.setReg (R.FAB_QC_STAT f q.1) (BitVec.ofNat 32 (q.2.mode % 4 * 2 ^ 30 + b2n (q.2.mode == 2) * 2 ^ 29))

/-- FAB_GSR_RELEASE (R491, R493 step 5): 12 MiB of configuration are written at 4 GB/s, GSR is released, and the design
runs. -/
def execFabGsrRelease (fab : Nat) (s : State) : Host.Outcome State Fault Refusal :=
  match (s.fabOf fab).job with
  | none => ok s
  | some j =>
    match j.image with
    | none => ok s
    | some d =>
      if fabSt s fab ≠ 3 ∨ s.now < j.at_ + 3145728 then ok s
      else
        let s := s.modFab fab fun x => { x with design := some d, job := none }
        let s := netReset fab d (d.qcs.foldl (fun s q => qcInit s fab q) s)
        let s := (List.range 8).foldl (fun s i =>
          s.setReg (R.FAB_IMAGE_HASH fab i) (BitVec.ofNat 32 (ent d.hash (4 * i) 4))) s
        ok (finishMbx (setFabSt s fab 4) j.mbx .ok (fabPayload j.lost s.devNs) 0)

/-! ### Long lines (R495) -/

/-- FAB_REARM (R495): ACTION 2 re-arms one line, or all. -/
def execFabRearm (m : TcsMsg) (fab line : Nat) (s : State) : Host.Outcome State Fault Refusal :=
  ok (serve opFabLoad m 0 (fun s =>
    match fabCheck m fab 0 (decide (line < 1152) || line == 0xFFFF) s with
    | some st => refuse st s
    | none =>
      let hit (l : Nat) : Bool := line == 0xFFFF || l == line
      let s := s.modFab fab fun x => { x with off := x.off.filter fun l => !hit l }
      let s := s.setField (R.FAB_STATE fab) 10 0 (s.fabOf fab).off.length
      let gone := (List.range 16).filter fun i =>
        s.flag (R.FAB_CONT_LINE fab i) 31 && hit (s.field (R.FAB_CONT_LINE fab i) 10 0)
      { st := .ok, payload := fabPayload 0 0, state := zeroRegs s (gone.map (R.FAB_CONT_LINE fab)) }) s)

/-- A long line with the enabled drivers `ds` is shut down, recorded and reported (R495). -/
def shutLine (fab line : Nat) (ds : List Nat) (s : State) : State :=
    let s := s.modFab fab fun x => { x with off := x.off ++ [line] }
    let s := (s.setField (R.FAB_STATE fab) 10 0 (s.fabOf fab).off.length).orReg (R.FAB_EVT fab) 3
    let a := ds.getD 0 0
    let b := ds.getD 1 0
    let s := match firstBelow 16 fun i => !s.flag (R.FAB_CONT_LINE fab i) 31 with
      | some i => s.setReg (R.FAB_CONT_LINE fab i) (BitVec.ofNat 32 (2 ^ 31 + b * 2 ^ 20 + a * 2 ^ 13 + line))
      | none => s.count (R.FAB_CNT_CONT fab) 1
    s.raise 0x0070 6 (fabTile fab)
      (leBytes 1 fab ++ leBytes 1 ds.length ++ leBytes 2 line ++ leBytes 1 a ++ leBytes 1 b ++ leBytes 2 0)

/-- LONG_LINE_CONTENTION (R495): two or more enabled drivers for 0.5 ns shut the line down. -/
def execLongLineContention (fab line : Nat) (drivers : List Nat) (s : State) : Host.Outcome State Fault Refusal :=
  let ds := (List.range 128).filter drivers.contains
  if !(fabUser s fab).isSome || 1152 ≤ line || ds.length < 2 || (s.fabOf fab).off.contains line then ok s
  else ok (shutLine fab line ds s)

/-- The IDs of the drivers that a line has enabled, in ascending order. -/
def drvIds (d : FabImage) (x : NetVal) (l : Nat) : List Nat :=
  (List.range 128).filter ((driving d x l).map LineDrv.drv).contains

/-- User logic through one tick of 2 ns: the island cycles that begin in it, each with its moves; a change that was due at
its start has happened by its end (R477's worst-case delays); a line with two drivers enabled throughout is shut down
(R495). `before` is the state before the tick. -/
def fabTick (before : State) (s : State) (f : Nat) : State :=
  match fabUser s f with
  | none => s
  | some d =>
    let m := s.takeFresh
    let n := tileCycles s (fabTile f) - tileCycles before (fabTile f)
    let two (l : Nat) (s : State) : Bool := decide (2 ≤ (drvIds d (s.fabOf f).vals l).length)
    let t := (List.range n).foldl (fun s i => netCycle f d (8 * m.1 + i) s) m.2
    let t := netStep f d (8 * m.1 + 7) (fun _ => true) t
    let bad := (netLines d).filter fun l => two l s && two l t && !(t.fabOf f).off.contains l
    bad.foldl (fun t l => shutLine f l (drvIds d (t.fabOf f).vals l) t) t

/-- FAB_STATUS (R495). -/
def execFabStatus (m : TcsMsg) (fab : Nat) (s : State) : Host.Outcome State Fault Refusal :=
  ok (serve { opcode := 0x0902, onchip := true } m 0 (unguarded (fab == 0) fun s =>
    if !fabPresent s fab then refuse .badArg s
    else
      let regs := R.FAB_STATE fab :: R.FAB_EVT fab :: (List.range 8).map (R.FAB_IMAGE_HASH fab)
        ++ (List.range 16).map (R.FAB_CONT_LINE fab)
      { st := .ok, payload := regs.flatMap fun a => leBytes 4 (s.reg a).toNat, state := s }) s)

/-! ### Queue controllers (R483 to R487) -/

/-- A controller of the running design. -/
def qcOf (s : State) (f n : Nat) : Option QcCfg := (fabUser s f).bind fun d => mget n d.qcs

/-- QC_WRITE (R484, R485): a write of user logic to a FIFO or DSQ_PUSH controller. -/
def execQcWrite (fab n : Nat) (word : BitVec 72) (s : State) : Host.Outcome State Fault Refusal :=
  match qcOf s fab n with
  | none => ok s
  | some c =>
    if c.mode ≠ 1 ∧ c.mode ≠ 2 then ok s
    else
      let l := qcWords s fab n
      if qcDepth c ≤ l.length ∨ (qcFlags s fab n).full then ok ((s.orReg (R.FAB_QC_STAT fab n) 25).orReg (R.FAB_EVT fab) 1)
      else
        let w := if c.mode = 2 then word &&& 0xFFFFFFFFFFFFFFFF#72 else if c.wide then word else word &&& 0xFFFFFFFFFFFF#72
        ok ((setQc s fab n (l ++ [w])).wroteQc fab n c)

/-- QC_READ (R484): a read of user logic from a FIFO or DSQ_POP controller; while EMPTY it returns undefined data. -/
def execQcRead (fab n : Nat) (s : State) : Host.Outcome State Fault Refusal :=
  match qcOf s fab n with
  | none => ok s
  | some c =>
    if c.mode ≠ 1 ∧ c.mode ≠ 3 then ok s
    else match if (qcFlags s fab n).empty then [] else qcWords s fab n with
      | [] =>
        let f := s.takeFresh
        let s := (f.2.orReg (R.FAB_QC_STAT fab n) 24).orReg (R.FAB_EVT fab) 0
        ok (s.answer (.bytes (fitBytes 9 (Config.fabData f.1))))
      | w :: l => ok (((setQc s fab n l).readQc fab n c).answer (.bytes (leBytes 9 w.toNat)))

/-- QC_PUSH (R486): a whole entry at the head and PUSH_READY push it; a refusal leaves it there. -/
def execQcPush (fab n : Nat) (s : State) : Host.Outcome State Fault Refusal :=
  match qcOf s fab n with
  | none => ok s
  | some c =>
    let l := qcWords s fab n
    if c.mode ≠ 2 ∨ l.length < 4 ∨ !s.flag (R.FAB_QC_STAT fab n) 29 then ok s
    else
      let e := (l.take 4).flatMap fun w => leBytes 8 w.toNat
      let p := pushQ (.fab fab n) c.qid e s
      let no (code : Nat) (s : State) : State :=
        ((s.setField (R.FAB_QC_STAT fab n) 29 29 0).setField (R.FAB_QC_STAT fab n) 28 27 code).count
          (R.FAB_CNT_PUSH_REF fab) 1
      match p.1 with
      | .accepted => ok ((setQc p.2 fab n (l.drop 4)).readQc fab n c)
      | .absent => ok (no 3 p.2)
      | .disabled => ok (no 2 p.2)
      | .asleep => ok p.2
      | _ => ok (no 1 p.2)

/-- PUSH_RETRY (R486): user logic lets a refused controller push again. -/
def execPushRetry (fab n : Nat) (s : State) : Host.Outcome State Fault Refusal :=
  match qcOf s fab n with
  | none => ok s
  | some c => if c.mode = 2 then ok (s.setField (R.FAB_QC_STAT fab n) 29 29 1) else ok s

/-- A pop of a DSQ_POP controller (R487): up to 16 entries, no more than fit; none while STOPPING (R493). -/
def qcPopNow (s : State) (f n : Nat) : State :=
  match qcOf s f n with
  | none => s
  | some c =>
    let l := qcWords s f n
    let k := min 16 ((qcDepth c - l.length) / 4)
    if c.mode ≠ 3 ∨ fabSt s f = 2 ∨ s.flag (R.FAB_QC_STAT f n) 26 ∨ s.now < mgetD 0 (s.fabOf f).popAt n ∨ k = 0 then s
    else if qidPresent s c.qid && !tileRun s (dsqTile (qidDsq c.qid)) then s
    else
      let x := s.queue c.qid
      if !qidPresent s c.qid || x.kind ≠ 3 || !x.en then (s.orReg (R.FAB_QC_STAT f n) 26).orReg (R.FAB_EVT f) 5
      else
        let p := popMany k c.qid s
        if p.1.isEmpty then p.2.modFab f fun x => { x with popAt := mset n (s.now + 256) x.popAt }
        else
          let ws := p.1.flatMap fun e => (List.range 4).map fun i => BitVec.ofNat 72 (ent e (8 * i) 8)
          (setQc p.2 f n (l ++ ws)).wroteQc f n c

/-- QC_POP (R487). -/
def execQcPop (fab n : Nat) (s : State) : Host.Outcome State Fault Refusal := ok (qcPopNow s fab n)
/-- QC_POP_RETRY (R487): 256 ns after a pop that returned nothing. -/
def execQcPopRetry (fab n : Nat) (s : State) : Host.Outcome State Fault Refusal :=
  if mhas (s.fabOf fab).popAt n then ok (qcPopNow s fab n) else ok s

/-! ### NoC ports (R488) -/

/-- The bytes lie in one aligned 512-byte block (R352). -/
def oneBlock (a n : Nat) : Bool := decide (1 ≤ n) && decide (n ≤ 512) && a / 512 == (a + n - 1) / 512

/-- FAB_TARGET_REQUEST (R488): a request to a fabric window waits for user logic on P0 or P1. -/
def execFabTargetRequest (r : Requester) (addr : Nat) (write : Bool) (n : Nat) (s : State) :
    Host.Outcome State Fault Refusal :=
  match placeOf s.part addr with
  | .fabw f =>
    if !answers s r (fabTile f) then ok (s.answer (.error .domainAsleep))
    else if !fabTargetOn s f addr || !oneBlock addr n then ok (s.answer (.error .decodeErr))
    else
      let t : FabTgt := { id := (s.fabOf f).nextTgt, by_ := r, addr := addr, write := write, n := n, at_ := s.now }
      ok ((s.modFab f fun x => { x with targets := x.targets ++ [t], nextTgt := x.nextTgt + 1 }).answer .none)
  | _ => ok (s.answer (.error .decodeErr))

/-- Remove a target request. -/
def dropTarget (s : State) (f id : Nat) : State :=
  s.modFab f fun x => { x with targets := x.targets.filter fun t => t.id != id }

/-- FAB_TGT_TO in ns (R496): 0 acts as 1 µs. -/
def tgtLimit (s : State) (f : Nat) : Nat := max 1 (s.field (R.FAB_TGT_TO f) 15 0) * 1000

/-- FAB_TARGET_TIMEOUT (R488). -/
def execFabTargetTimeout (fab id : Nat) (s : State) : Host.Outcome State Fault Refusal :=
  match (s.fabOf fab).targets.find? fun t => t.id == id with
  | some t =>
    if s.now < t.at_ + tgtLimit s fab then ok s
    else
      let s := ((dropTarget s fab id).orReg (R.FAB_EVT fab) 2).count (R.FAB_CNT_TGT_TO fab) 1
      ok (s.answer (.error .decodeErr))
  | none => ok s

/-- FAB_TARGET_ANSWER (R488): user logic answers a request; an answer after the time-out is discarded. -/
def execFabTargetAnswer (fab id : Nat) (data : List Byte) (s : State) : Host.Outcome State Fault Refusal :=
  match (s.fabOf fab).targets.find? fun t => t.id == id with
  | some t => ok ((dropTarget s fab id).answer (if t.write then .done else .bytes (fitBytes t.n data)))
  | none => ok s

/-- FAB_INITIATOR_REQUEST (R488): user logic reads or writes through an initiator port; nothing new is issued while
STOPPING (R493). -/
def execFabInitiatorRequest (fab : Nat) (port1 write : Bool) (addr n : Nat) (data : List Byte) (s : State) :
    Host.Outcome State Fault Refusal :=
  let _ := port1
  if !(fabUser s fab).isSome || fabSt s fab == 2 || !oneBlock addr n then ok s
  else if write then ok (writeAnswer (.fab fab) addr (fitBytes n data) s)
  else
    let x := busRead (.fab fab) addr n s
    match x.1 with
    | .ok b => ok (x.2.answer (.bytes b))
    | .error c => ok (x.2.answer (.error c))

/-! ### Block RAM ports (R480 to R482) -/

/-- The SRAM address of a 72-bit row of a block. -/
def bramAddr (f b row : Nat) : Nat := winBase (fabTile f) + b * 0x1000 + row * 8

/-- The 72 bits of a row. -/
def bramRow (s : State) (f b row : Nat) : Nat :=
  s.word (bramAddr f b row) 8 + (mgetD 0#8 (s.fabOf f).ext (b * 512 + row)).toNat * 2 ^ 64

/-- Set the 72 bits of a row. -/
def setBramRow (s : State) (f b row v : Nat) : State :=
  (s.putWord (bramAddr f b row) 8 v).modFab f fun x =>
    { x with ext := mset (b * 512 + row) (BitVec.ofNat 8 (v / 2 ^ 64)) x.ext }

/-- The word of a narrow shape: in 72-bit row ⌊w × width / 72⌋, at bit offset (w × width) mod 72 (R480). -/
def bramGet (s : State) (f b width w : Nat) : Nat :=
  let r := w * width / 72
  let o := w * width % 72
  (bramRow s f b r + bramRow s f b (r + 1) * 2 ^ 72) / 2 ^ o % 2 ^ width

/-- Write a word of a narrow shape. -/
def bramPut (s : State) (f b width w v : Nat) : State :=
  let r := w * width / 72
  let o := w * width % 72
  let all := bramRow s f b r + bramRow s f b (r + 1) * 2 ^ 72
  let all := all - all / 2 ^ o % 2 ^ width * 2 ^ o + v % 2 ^ width * 2 ^ o
  let s := setBramRow s f b r (all % 2 ^ 72)
  if 72 < o + width then setBramRow s f b (r + 1) (all / 2 ^ 72) else s

/-- Words of a block RAM shape. -/
def bramWords (width : Nat) : Nat := if width = 0 then 0 else 36864 / width

/-- One port reads a word: its bytes, and the port's flags (bit 0 UE, bit 1 collision). -/
def bramRead (s : State) (f b width : Nat) (ecc coll : Bool) (o : Option PortOp) : List Byte × State :=
  match o with
  | none => ([], s)
  | some p =>
    if ecc then
      let a := bramAddr f b p.word
      let x := memRead (.fab f) (.sram (fabTile f)) a 8 s
      (x.2.bytes a 8 ++ leBytes 1 (b2n x.1.isNone + 2 * b2n coll), x.2)
    else (leBytes (ceilDiv width 8) (bramGet s f b width p.word) ++ leBytes 1 (2 * b2n coll), s)

/-- One port writes a word. -/
def bramWrite (s : State) (f b width : Nat) (ecc : Bool) (o : Option PortOp) : State :=
  match o with
  | some { word := w, write := some v } =>
    if ecc then memWrite (.fab f) (.sram (fabTile f)) (bramAddr f b w) (leBytes 8 v.toNat) s
    else bramPut s f b width w v.toNat
  | _ => s

/-- Both ports write the same word. -/
def bramBoth (a b : Option PortOp) : Bool :=
  match a, b with
  | some x, some y => x.write.isSome && y.write.isSome && x.word == y.word
  | _, _ => false

/-- The word lies in the block. -/
def bramIn (width : Nat) (o : Option PortOp) : Bool :=
  match o with | some p => decide (p.word < bramWords width) | none => true

/-- BRAM_PORT_ACCESS (R480 to R482): both ports of a block in one cycle; reads return the old data; of two writes to one
word, port B's stands in a SHARED block and port A's in a USER block. -/
def execBramPortAccess (fab block : Nat) (a b : Option PortOp) (s : State) : Host.Outcome State Fault Refusal :=
  match fabUser s fab with
  | none => ok s
  | some d =>
    let cfg := mget block d.brams
    let shared := cfg.isNone
    let width := (cfg.map BramCfg.width).getD 72
    let ecc := (cfg.map BramCfg.ecc).getD true
    let usable := (cfg.map BramCfg.user).getD true
    if 512 ≤ block ∨ !usable ∨ !bramIn width a ∨ !bramIn width b then ok s
    else
      let both := bramBoth a b
      let ra := bramRead s fab block width ecc (both && shared) a
      let rb := bramRead ra.2 fab block width ecc false b
      let s := rb.2
      let s := if both && shared then (s.orReg (R.FAB_EVT fab) 4).count (R.FAB_CNT_COLL fab) 1 else s
      let s := bramWrite s fab block width ecc (if both && shared then none else a)
      let s := bramWrite s fab block width ecc (if both && !shared then none else b)
      ok (s.answer (.bytes (ra.1 ++ rb.1)))

end Sys2Proof.Machine
end

