-- ==== Sys2Proof/Machine/PowerBase.lean ====
section
/-! DEFINITION. How islands go to sleep (R501, R507), and the device transitions of POWER_STATE_SET up to their commit
or rollback (R505, R507 to R512). Assumption log: 83 (DEDUCED), 90 (DESIGN CHOICE), 92 (DEDUCED), 102 (DESIGN CHOICE).
-/

namespace Sys2Proof.Machine

/-! ### Islands -/

/-- Change an island. -/
def State.modIsland (s : State) (t : Nat) (f : Island → Island) : State := s.setIsland t (f (s.island t))

/-- A dispatcher has work that keeps its tile from sleeping (R507): a task or job in flight, an eligible head, or a push
held. -/
def dsqPending (s : State) (q : Nat) : Bool :=
  s.dsq.running.any (fun r => r.q == q)
    || (heads s q).any (fun x => (blocked s x.1 x.2.1 x.2.2).isNone)
    || s.dsq.queues.any fun x => qidDsq x.1 == q && !x.2.held.isEmpty

/-- The participants of a tile that are busy, in the order asked, as UNIT and REASON (R507). -/
def busyParts (s : State) (t : Nat) : List (Nat × Nat) :=
  let cores := if isDsp s.part t then (List.range 4).filterMap fun c => if coreBusy s t c then some (0x10 + c, 1) else none
               else []
  let jobs := if s.acc.jobs.any fun j => j.tile == t then [(0x40, 3)] else []
  let dma := (List.range 16).filterMap fun c => if chSt s t c == .run then some (0x20 + c, 2) else none
  let unit_ := match tileKindOf t with
    | .fab f => if (s.fabOf f).job.isSome then [(0x60, 6)] else []
    | .iot k => if s.eg.tx.any fun x => x.1 / 16 == k then [(0x80, 8)] else []
    | .mem => if s.mem.writeBacks.any fun a => isHbm s a && memTileOf a == t then [(0x70, 7)] else []
    | .dsq q => if dsqPending s q then [(0x51, 5)] else []
    | _ => []
  cores ++ jobs ++ dma ++ unit_

/-- A packet with a request of tile `t`, or an answer that it sends. -/
def packetOf (t : Nat) (p : Packet) : Bool :=
  match p.cargo with | .request q => q.src == t && q.op != 2 | .answer r => r.src == t && r.op == 3

/-- The tile still awaits an answer from the network, or owes one (R362). -/
def owing (s : State) (t : Nat) : Bool :=
  s.noc.outstanding.any (fun x => x.src == t) || s.noc.atTarget.any (fun x => x.src == t && x.op != 2) ||
  s.noc.flight.any (packetOf t)

/-- A MEM tile puts its pseudo-channels into self-refresh: it writes their canaries with the next count (R390). -/
def selfRefresh (s : State) (t : Nat) : State :=
  if tileKindOf t = .mem then { s with mem := { s.mem with hbmK := mupd 0 t (fun k => (k + 1) % 2 ^ 32) s.mem.hbmK } } else s

/-- An island stops (R501): HALT stops its clock; KEEP counts the sleep, writes the canaries and goes to code 0 (R388);
OFF removes its supply. A wake requested meanwhile begins at once (R502). -/
def enterSleep (s : State) (t : Nat) (target : IslSt) : State :=
  let wake := (s.island t).wakePending
  let s := settleCycles s t
  let s := if t < 144 then
      match target with
      | .keep =>
        let k := (mgetD 0 s.mem.sleepK t + 1) % 2 ^ 32
        let s := { s with mem := { s.mem with sleepK := mset t k s.mem.sleepK } }
        ((s.setReg (R.ISL_SLEEPS t) (BitVec.ofNat 32 k)).setReg (R.ISL_VOLT t) 0#32).setField (R.ISL_STAT t) 28 24 0
      | .halt => s.setField (R.ISL_STAT t) 27 24 0
      | _ => (s.setReg (R.ISL_VOLT t) 0#32).setField (R.ISL_STAT t) 28 24 0
    else s
  let s := s.modIsland t fun x => { x with st := target, target := target, wakePending := false, step := 0, tries := 0 }
  if wake then startWake s t else s

/-- Every participant has agreed: the tile sleeps, or drains first while it awaits answers (R362, R501). -/
def sleepOrDrain (s : State) (t : Nat) (target : IslSt) : State :=
  if owing s t then s.modIsland t fun x => { x with st := .draining, target := target }
  else enterSleep s t target

/-! ### What a stopping tile does first (R510) -/

/-- Entries held in the launch calendars of an IOT are discarded (R510). -/
def dropCalendars (s : State) (k : Nat) : State :=
  (s.eg.cal.filter fun x => x.1 / 16 == k).foldl (fun s kc =>
    (kc.2.foldl (fun s c => complete s k c.entry .badState true false 0) (s.setCalendar kc.1 []))) s

/-- The ports of an IOT go down (R402, R510). -/
def portsDown (s : State) (k : Nat) : State :=
  (List.range 5).foldl (fun s p =>
    if ethPort s k p && ethStep s k p != 0 then
      let s := if linkUp s k p then dropLink s k p else s
      enterStep s k p 0
    else s) s

/-- What a tile does as it stops for STILL (R510). -/
def beforeStop (s : State) (t : Nat) : State :=
  match tileKindOf t with
  | .iot k => dropCalendars (portsDown s k) k
  | .mem => selfRefresh s t
  | _ => s

/-! ### Requests (R509, R512) -/

/-- The power manager may start a transition (R524, R509). -/
def powerFree (s : State) : Bool := !s.nvmPaused && s.power.trans.isNone && s.power.commitAt.isNone && !s.power.still

/-- The response of POWER_STATE_SET (R512). -/
def powerPayload (s : State) (ref : Nat × Nat × Nat) : List Byte :=
  leBytes 1 s.devState ++ leBytes 1 ref.1 ++ leBytes 1 ref.2.1 ++ leBytes 1 ref.2.2 ++ leBytes 4 0 ++ leBytes 8 s.devNs

/-- A POWER record (R561): what happened and its number. -/
def powerRecord (s : State) (what a : Nat) (more : List Byte := []) : State :=
  s.journal 0x0040 1 ctlH (Config.recordBody 0x0040 (leBytes 2 what ++ leBytes 4 a ++ more))

/-- PWR_REQ (R531). -/
def powerReq (s : State) (ref : Nat × Nat × Nat) (result : Nat) : State :=
  s.setReg R.PWR_REQ (BitVec.ofNat 32 (ref.1 * 2 ^ 24 + ref.2.1 * 2 ^ 16 + ref.2.2 * 2 ^ 8 + result))

/-- PWR_STAT.BUSY. -/
def powerBusy (s : State) (b : Bool) : State := s.setField R.PWR_STAT 28 28 (b2n b)

/-- A request that completes a transition is answered (R512). -/
def powerDone (s : State) (key : Nat) : State :=
  finishMbx (powerReq s (0, 0, 0) 1) key .ok (powerPayload s (0, 0, 0)) 0

/-! ### Phase A of STILL (R507, R508, R510) -/

/-- The tiles of phase A in the order they are asked (R510). -/
def phaseA (s : State) : List Nat :=
  let all := (List.range 144).filter fun t => tilePresent s.part t
  let has (f : TileKind → Bool) : List Nat := all.filter fun t => f (tileKindOf t)
  has (fun k => match k with | .dsp | .acc _ | .fab _ => true | _ => false)
    ++ ((List.range 6).map fun i => i + 2).filterMap (fun k => if iotPresent s.part k then some (iotTile k) else none)
    ++ has (fun k => k == .mem)
    ++ ((List.range 4).filter (quadPresent s.part)).map dsqTile

/-- A rollback ends once its tiles run again: the dispatchers leave STOPPING and the request is answered (R508). -/
def endRollback (s : State) : State :=
  match s.power.trans with
  | some x =>
    match x.back with
    | some st =>
      if x.starts.isEmpty && x.stopped.all (fun t => (s.island t).st == .run || (s.island t).failed) then
        let s := powerBusy (s.modPower fun p => { p with trans := none, stopping := false }) false
        finishMbx s x.mbx (if st = Status.refused.code then .refused else .aborted) (powerPayload s x.refuser) 0
      else s
    | none => s
  | none => s

/-- A transition to STILL rolls back with a status (R508, R511): what it stopped is started again, last first. -/
def beginRollback (s : State) (x : Trans) (st : Status) (ref : Nat × Nat × Nat) : State :=
  let s := powerReq s ref (if st = .refused then 2 else 3)
  let s := powerRecord s (if st = .refused then 2 else 3) (ref.1 * 65536 + ref.2.1 * 256 + ref.2.2)
  endRollback (s.modPower fun p => { p with
    trans := some { x with todo := [], askedAt := none, starts := x.stopped, back := some st.code, refuser := ref } })

/-- Phase A is complete: the request is answered, every wake source is armed, and requests are turned away (R510). -/
def commitStill (s : State) (x : Trans) : State :=
  let s := s.setField R.PWR_STAT 31 29 3
  let s := s.modPower fun p => { p with trans := none, resume := x.resume, commitAt := some s.now, still := false,
                                        cause := none, src := 0#32, waking := [] }
  powerRecord (powerDone s x.mbx) 1 3

/-- One tile of phase A: asleep already, stopped now, or not yet (`none`). -/
def stopTile (s : State) (x : Trans) (t : Nat) : Option (Trans × State) :=
  let i := s.island t
  match i.st with
  | .draining => none
  | .run =>
    if (busyParts s t).isEmpty then
      some ({ x with askedAt := none, stopped := t :: x.stopped }, sleepOrDrain (beforeStop s t) t .keep)
    else none
  | _ => if i.step = 0 then some (x, s) else none

/-- The first busy participant of a tile is asked from now on, again every cycle (R507). -/
def askTile (s : State) (x : Trans) (t : Nat) : Trans :=
  match busyParts s t with
  | [] => x
  | p :: _ =>
    if (s.island t).st == .run && (x.askedAt.isNone || x.askedUnit != p.1) then
      { x with askedAt := some s.now, askedUnit := p.1 }
    else x

/-- Go through the tiles of phase A until one is busy, then commit (R507, R510). -/
def walkTiles (x : Trans) : List Nat → State → State
  | [], s => commitStill s { x with todo := [] }
  | t :: l, s =>
    match stopTile s x t with
    | some y =>
      if (y.2.island t).st == .draining then y.2.modPower fun p => { p with trans := some { y.1 with todo := t :: l } }
      else walkTiles y.1 l y.2
    | none => s.modPower fun p => { p with trans := some { askTile s x t with todo := t :: l } }

/-- Go on with phase A where a transition to STILL is under way. -/
def walk (s : State) : State :=
  match s.power.trans with
  | some x => if x.target = 3 && x.back.isNone then walkTiles x x.todo s else s
  | none => s

/-- An ACTIVE request is complete once every DSP and ACC tile runs (R505). -/
def endActive (s : State) : State :=
  match s.power.trans with
  | some x =>
    if x.target = 1 && x.starts.isEmpty
        && ((dspTiles s.part ++ accTiles s.part).all fun t => !tileSleeps s t && (s.island t).st != .draining) then
      powerDone (powerBusy (s.modPower fun p => { p with trans := none }) false) x.mbx
    else s
  | none => s

end Sys2Proof.Machine
end

