-- ==== Sys2Proof/Machine/Tracker.lean ====
section
/-! DEFINITION. The tracker and the lane synthesisers (R151 to R166): position and speed fixes, prediction and update,
external reports, synthesiser values and trims. Positions are in 0.1 mm, speeds in 0.1 mm/s, frequencies in 0.01 Hz,
delays in 0.25 ns; quotients are rounded convergently. Assumption log: 61 (DEDUCED), 62 (DEDUCED). -/

namespace Sys2Proof.Machine

/-- The speed of light in m/s (R153). -/
def lightSpeed : Nat := 299792458

/-- r_k(x) in 2^-24 of 0.1 mm: the distance at a lateral offset of 10.00 m (R153). -/
def rangeQ (x c : Int) : Nat := isqrt (((x - c) * (x - c) + 10000000000).toNat * 2 ^ 48) 64

/-- Factors 10^(2^i / 100) in 2^-32. -/
def snrFactors : List Nat :=
  [4395009936, 4497382869, 4709337993, 5163686428, 6208116544, 8973458554, 18748212237, 81838914675, 1559408371133,
   566186957983139]

/-- The linear SNR of a measurement at or above −3.0 dB (R153), up to a common factor: 10^((snr + 30) / 100) in
2^-32, for SNRs up to 99.3 dB. -/
def snrWeight (snr : Int) : Nat :=
  let n := min (snr + 30).toNat 1023
  (snrFactors.zip (List.range 10)).foldl (fun w x => if n.testBit x.2 then w * x.1 / 2 ^ 32 else w) (2 ^ 32)

/-- A retained measurement with its chainage, weight, trim and total frequency offset Δf_k (R152). -/
structure MeasW where
  m : Meas
  c : Int
  w : Int
  trimD : Int
  df : Int
  deriving DecidableEq, Repr

/-- The feed yields measurements: its anchor instance is active and transmits (R185). -/
def yields (s : State) (r : Run) (p : Nat) : Bool :=
  match ruAt s r.corridor p with
  | some x => match mget (instKey x.1 r.anchor) s.cor.insts with
    | some i => i.st == .active && i.txEn == 1#32
    | none => false
  | none => false

/-- The most recent measurement of the feed at a position (R152). -/
def newestMeas (ms : List Meas) (p : Nat) : Option Meas := leastBy (fun m => (m.age, 0, 0)) (ms.filter fun m => m.pos == p)

/-- FREQ_UL as it was applied to a measurement `age` slots old (R152). -/
def appliedFreq (r : Run) (f : Feed) (age : Nat) : Int := (mgetD [] r.applied (f.pos % 8)).getD age f.ful

/-- The measurements the tracker retains: of each feed the most recent, unless it is discarded, with Δf_k the FREQ_UL
applied to it plus the residual (R152). -/
def retained (s : State) (r : Run) (l : List Int) (ms : List Meas) : List MeasW :=
  (r.feeds s).filterMap fun f =>
    match newestMeas ms f.pos with
    | some m =>
      if decide (-30 ≤ m.snr) && !m.missing && decide (m.age ≤ 4) && yields s r f.pos then
        some { m := m, c := chainageAt l f.pos, w := snrWeight m.snr, trimD := f.trimD, df := appliedFreq r f m.age + m.nu }
      else none
    | none => none

/-- Sum over measurements. -/
def sumOf (ms : List MeasW) (f : MeasW → Int) : Int := ms.foldl (fun a m => a + f m) 0

/-- c × (e_k − TRIM_D_k) in 2^-24 of 0.1 mm. -/
def pathQ (m : MeasW) : Int := rneDiv ((m.m.e - m.trimD * 64) * lightSpeed * 2 ^ 16) 100000

/-- One Gauss–Newton iteration over x and b, both in 2^-24 of 0.1 mm (R153). -/
def gaussNewton (ms : List MeasW) (xb : Int × Int) : Int × Int :=
  let x := xb.1
  let r (m : MeasW) : Int := rangeQ (rneShift x 24) m.c
  let h (m : MeasW) : Int := rneDiv ((x - m.c * 2 ^ 24) * 2 ^ 32) (r m).toNat
  let res (m : MeasW) : Int := pathQ m - r m - xb.2
  let a := sumOf ms fun m => m.w * h m * h m
  let b := sumOf ms fun m => m.w * h m
  let c := sumOf ms fun m => m.w
  let r1 := sumOf ms fun m => m.w * h m * res m
  let r2 := sumOf ms fun m => m.w * res m
  let det := a * c - b * b
  if det ≤ 0 then xb
  else (x + rneDiv ((c * r1 - b * r2) * 2 ^ 32) det.toNat, xb.2 + rneDiv (a * r2 - b * r1) det.toNat)

/-- Measurements lie more than 20.00 m on both sides of x⁻ (R153). -/
def bothSides (ms : List MeasW) (x : Int) : Bool :=
  ms.any (fun m => decide (x + 200000 < m.c)) && ms.any (fun m => decide (m.c < x - 200000))

/-- The position fix z_x and the new b, in 2^-24 of 0.1 mm (R153). -/
def positionFix (ms : List MeasW) (x b : Int) : Option (Int × Int) :=
  if bothSides ms x then some (gaussNewton ms (gaussNewton ms (x * 2 ^ 24, b))) else none

/-- A centre frequency in Hz (R28). -/
def freqHz (c : Carrier) (f : Word) : Nat := f.toNat * freqUnit c.std * 1000

/-- (c_k − x) / r_k(x) in 2^-32. -/
def cosQ (x c : Int) : Int := rneDiv ((c - x) * 2 ^ 56) (rangeQ x c)

/-- g_k in 0.01 Hz per 0.1 mm/s, in 2^-32 (R154). -/
def gainQ (ful : Nat) (x : Int) (m : MeasW) : Int := rneDiv (ful * cosQ x m.c) (lightSpeed * 100)

/-- The speed fix z_v and f_c (R154). -/
def speedFix (ms : List MeasW) (ful : Nat) (x fc : Int) : Option Int × Int :=
  let g := gainQ ful x
  if bothSides ms x then
    let sw := sumOf ms fun m => m.w
    let sg := sumOf ms fun m => m.w * g m
    let sgg := sumOf ms fun m => m.w * g m * g m
    let sd := sumOf ms fun m => m.w * m.df
    let sgd := sumOf ms fun m => m.w * g m * m.df
    let det := sw * sgg - sg * sg
    if det ≤ 0 then (none, fc)
    else
      let v := rneDiv ((sw * sgd - sg * sd) * 2 ^ 32) det.toNat
      (some v, rneDiv (sd * 2 ^ 32 - v * sg) (sw * 2 ^ 32).toNat)
  else if ms.any fun m => decide (200000 ≤ (m.c - x).natAbs) then
    let n := sumOf ms fun m => m.w * g m * (m.df - fc)
    let d := sumOf ms fun m => m.w * g m * g m
    (if 0 < d then some (rneDiv (n * 2 ^ 32) d.toNat) else none, fc)
  else (none, fc)

/-- x, v and a. -/
structure Motion where
  x : Int
  v : Int
  a : Int
  deriving DecidableEq, Repr

/-- The clamps of R151. -/
def Motion.clamp (k : Motion) : Motion := { k with v := clampInt (-1800000) 1800000 k.v, a := clampInt (-20000) 20000 k.a }

/-- Prediction over `t` ns (R155). -/
def Motion.predict (k : Motion) (t : Nat) : Motion :=
  { k with x := k.x + rneDiv (k.v * t * 2000000000 + k.a * t * t) (2 * 10 ^ 18), v := k.v + rneDiv (k.a * t) 1000000000 }

/-- Update by the fixes that exist (R155). -/
def Motion.update (k : Motion) (t : Nat) (zx zv : Option Int) (hold : Bool) : Motion :=
  { x := match zx with
      | some z => k.x + rneDiv (z - k.x * 2 ^ 24) (8 * 2 ^ 24)
      | none => k.x
    v := match zv with
      | some z => k.v + rneDiv (z - k.v) 8
      | none => k.v
    a := if hold then 0 else match zv with
      | some z => k.a + rneDiv ((z - k.v) * 1000000000) (4096 * t)
      | none => k.a }

/-- The state of a run. -/
def Run.motion (r : Run) (s : State) : Motion := { x := r.int s ctxPos 8, v := r.int s ctxSpeed 4, a := r.int s ctxAccel 4 }

/-- Write the state of a run. -/
def putMotion (s : State) (r : Run) (k : Motion) : State :=
  ctxPut (ctxPut (ctxPut s r ctxPos 8 k.x) r ctxSpeed 4 k.v) r ctxAccel 4 k.a

/-- The uplink part of the tracker at boundary `b` (R152 to R156). -/
def track (s : State) (n : Nat) (r : Run) (l : List Int) (ms : List MeasW) (b t : Nat) : State :=
  let st := r.tstate s
  let pre := (r.motion s).predict t
  let ful := ((r.anchorCarrier s).map fun c => freqHz c c.ul).getD 0
  let fix := positionFix ms pre.x r.bTerm
  let sp := speedFix ms ful pre.x (r.int s ctxFc 4)
  let s := ctxPut s r ctxFc 4 (satSigned 32 sp.2)
  let s := s.modRun n fun r => { r with bTerm := (fix.map Prod.snd).getD r.bTerm,
                                        noFix := if fix.isSome then 0 else r.noFix + 1 }
  if st = 3 then
    match fix with
    | some z =>
      let k := Motion.clamp { x := rneShift z.1 24, v := sp.1.getD 0, a := 0 }
      setTState (putMotion s r k) n r 1 b
    | none => s
  else
    let s := putMotion s r ((pre.update t (fix.map Prod.fst) sp.1 (st == 2)).clamp)
    if (st = 0 ∨ st = 2) ∧ fix.isSome = true then setTState s n r 1 b else s

/-- One external report at boundary `b` (R159): the state, and RESULT with INNOV. -/
def applyReport (s : State) (n : Nat) (r : Run) (xp : Int) (left : Bool) (b : Nat) (p : PosReport) : State :=
  let k := r.motion s
  let sp : Int := p.speed * 100
  let v := if p.speedValid then sp else k.v
  let z := (p.chainage : Int) * 100 + rneDiv (v * ((b : Int) - p.tFix)) 1000000000
  let innov := satSigned 32 (rneDiv (z - xp) 100)
  let answer (res : Nat) (s : State) : State :=
    finishMbx s p.mbx .ok (leBytes 1 res ++ leBytes 3 0 ++ leBytes 4 (ofSigned 32 innov)) 0
  let st := r.tstate s
  if st = 0 ∨ st = 2 ∨ st = 3 then
    let k := Motion.clamp { k with x := z, v := if p.speedValid then sp else k.v }
    answer 1 (setTState (putMotion s r k) n r 1 b)
  else if 4 * p.accuracy * 1000 + 500000 < (z - xp).natAbs then answer 2 s
  else
    let k := Motion.clamp { k with x := k.x + rneDiv (z - k.x) 2,
                                   v := if p.speedValid then k.v + rneDiv (sp - k.v) 4 else k.v }
    answer (if left then 1 else 0) ((putMotion s r k).modRun n fun r => { r with noFix := 0 })

/-- The reports that fall due at a boundary, in order of T_FIX (R159). -/
def applyReports (s : State) (n : Nat) (r : Run) (xp : Int) (left : Bool) (b : Nat) : State :=
  let s := (sortBy (fun p => (p.tFix, 0, 0)) r.reports).foldl (fun s p => applyReport s n r xp left b p) s
  s.modRun n fun r => { r with reports := [] }

/-! ### Lane synthesisers -/

/-- Amount of a fraction rounded into a signed 32-bit field. -/
def field32 (num : Int) (d : Nat) : Int := satSigned 32 (rneDiv num d)

/-- The least TAU_MAX in 0.25 ns over the travelling-cell carriers on an RU (R163). -/
def tauMax (s : State) (r : Run) (p : Nat) : Option Int :=
  match ruAt s r.corridor p with
  | none => none
  | some x =>
    let l := (travelling s r.corridor).filter fun c => mhas s.cor.insts (instKey x.1 c.1)
    if l.isEmpty then none else some (if l.any fun c => c.2.scs == 2 then 7375 else 16750)

/-- The reference feed (R162): the ACTIVE feed nearest the train; before one is ACTIVE, the nearest feed. -/
def refFeed (l : List Int) (x : Int) (fs : List Feed) : Option Feed :=
  let act := fs.filter fun f => f.st == 2
  leastBy (fun f => (rangeQ x (chainageAt l f.pos), f.pos, 0)) (if act.isEmpty then fs else act)

/-- Synthesiser values of a feed (R157, R161, R162). -/
def synth (l : List Int) (lost : Bool) (ful fdl : Nat) (k : Motion) (fc : Int) (rf f : Feed) : Feed :=
  let dtrim := f.trimD - rf.trimD
  if lost then { f with delay := satSigned 32 dtrim, ful := fc, fdl := 0 }
  else
    let c := chainageAt l f.pos
    let dr : Int := (rangeQ k.x c : Int) - rangeQ k.x (chainageAt l rf.pos)
    let u := cosQ k.x c
    let d := lightSpeed * 100 * 2 ^ 32
    { f with delay := field32 (dr * 400000 + dtrim * (lightSpeed * 2 ^ 24 : Nat)) (lightSpeed * 2 ^ 24),
             ful := field32 (ful * k.v * u + (fc + f.trimF) * (d : Nat)) d,
             fdl := if ful = 0 then 0 else field32 ((fdl * k.v * u) * ful + fdl * f.trimF * (d : Nat)) (d * ful) }

/-- The trims of a measured feed after the common part is removed (R164). -/
def trimFeed (sw srho snu : Int) (m : Meas) (f : Feed) : Feed :=
  { f with snr := satSigned 16 m.snr,
           trimD := clampInt (-4000) 4000 (f.trimD + rneDiv (m.rho * sw - srho) (256 * sw.toNat)),
           trimF := if m.twoPoints then clampInt (-10000) 10000 (f.trimF + rneDiv (m.nu * sw - snu) (4 * sw.toNat)) else f.trimF }

/-- A trim of the feed is at its clamp (R165). -/
def clamped (f : Feed) : Bool := f.trimD.natAbs == 4000 || f.trimF.natAbs == 10000

/-- What the synthesiser values of a run's feeds rest on at a boundary: its time, the chainages, whether the run is LOST,
the anchor's centre frequencies, the motion, f_c and the feed entries. -/
structure LaneBase where
  b : Nat
  l : List Int
  lost : Bool
  ful : Nat
  fdl : Nat
  k : Motion
  fc : Int
  fs : List Feed
  deriving DecidableEq, Repr

/-- A feed's synthesiser values for a downlink symbol at time `t`: x and v predicted to it (R162). -/
def LaneBase.at_ (z : LaneBase) (f : Feed) (t : Nat) : Feed :=
  let k := z.k.predict (t - z.b)
  match refFeed z.l k.x z.fs with
  | some rf => synth z.l z.lost z.ful z.fdl k z.fc rf f
  | none => f

/-- FREQ_DL × time summed over the symbols of a carrier from time `u`, the start of symbol `n`, up to time `t` (R160,
R162); beyond the last symbol counted FREQ_DL is that of `t`. -/
def dlSum (c : Carrier) (freq : Nat → Int) (t : Nat) : Nat → Nat → Nat → Int → Int
  | 0, _, u, acc => acc + freq t * ((t : Int) - u)
  | fuel + 1, n, u, acc =>
    let v := ofdmStart c (n + 1)
    if v ≤ t then dlSum c freq t fuel (n + 1) v (acc + freq v * ((v : Int) - u)) else acc + freq t * ((t : Int) - u)

/-- The OFDM symbol that starts at a boundary. -/
def symAt (c : Carrier) (b : Nat) : Nat := b / 500000 * (symsPerFrame c / 20)

/-- FREQ_DL × time of a feed's lane from its boundary to time `t`. -/
def LaneBase.dlTo (z : LaneBase) (c : Carrier) (f : Feed) (t : Nat) : Int :=
  dlSum c (fun v => (z.at_ f v).fdl) t 256 (symAt c z.b) z.b 0

/-- The advance of a 32-bit accumulator for FREQ × time (0.01 Hz × ns), scaled by the ratio of centre frequencies (R160,
R161). -/
def phaseOf (x : Int) (fc fa : Nat) : Word := BitVec.ofInt 32 (rneDiv (x * 2 ^ 32 * fc) (10 ^ 11 * fa))

/-- The accumulators of a feed on every carrier at boundary `b` (R160): each symbol adds the FREQ in force at it times the
time since the symbol before, so the first symbol after the boundary adds the new FREQ. -/
def lanePhases (cs : List (Nat × Carrier)) (z : LaneBase) (f g : Feed) (b : Nat) (m : FMap (Word × Word)) :
    FMap (Word × Word) :=
  cs.foldl (fun m c =>
    let k := c.1 * 8 + g.pos % 8
    let ph := mgetD (0#32, 0#32) m k
    let last := ofdmStart c.2 (symAt c.2 b - 1)
    let up := f.ful * ((last : Int) - z.b) + g.ful * ((b : Int) - last)
    let dn := z.dlTo c.2 f last + g.fdl * ((b : Int) - last)
    mset k (ph.1 + phaseOf up (freqHz c.2 c.2.ul) z.ful, ph.2 + phaseOf dn (freqHz c.2 c.2.dl) z.fdl) m) m

/-- The base of a run's synthesiser values as its context stands. -/
def laneBase (s : State) (r : Run) : LaneBase :=
  { b := r.boundary, l := chainages s r.corridor, lost := r.tstate s == 3,
    ful := ((r.anchorCarrier s).map fun c => freqHz c c.ul).getD 0,
    fdl := ((r.anchorCarrier s).map fun c => freqHz c c.dl).getD 0,
    k := r.motion s, fc := r.int s ctxFc 4, fs := r.feeds s }

/-- Trims, synthesiser values and flags of every feed at boundary `b`, and its accumulators since `z`, the base of the
boundary before (R160 to R165, R171). -/
def setLanes (s : State) (n : Nat) (r : Run) (l : List Int) (ms : List MeasW) (z : LaneBase) (b : Nat) : State :=
  let sw := sumOf ms fun m => m.w
  let srho := sumOf ms fun m => m.w * m.m.rho
  let snu := sumOf ms fun m => m.w * m.m.nu
  let trimmed (f : Feed) : Feed := match ms.find? fun m => m.m.pos == f.pos with
    | some m => trimFeed sw srho snu m.m f
    | none => f
  let fs := (r.feeds s).map trimmed
  let k := r.motion s
  let ful := ((r.anchorCarrier s).map fun c => freqHz c c.ul).getD 0
  let fdl := ((r.anchorCarrier s).map fun c => freqHz c c.dl).getD 0
  match refFeed l k.x fs with
  | none => s
  | some rf =>
    let one (s : State) (f : Feed) : State :=
      let g := synth l (r.tstate s == 3) ful fdl k (r.int s ctxFc 4) rf f
      let out := match tauMax s r f.pos with
        | some tau => decide (tau < g.delay)
        | none => false
      let g := { g with flags := (g.flags / 2 % 2) * 2 + b2n out + (if ms.any fun m => m.m.pos == f.pos then 0 else 4) }
      let i := f.pos % 8
      let s := putFeed s r g
      s.modRun n fun r =>
        { r with clampOn := mset i (if clamped g then mgetD 0 r.clampOn i + 1 else 0) r.clampOn,
                 clampOff := mset i (if clamped g then 0 else mgetD 0 r.clampOff i + 1) r.clampOff,
                 applied := mset i ((g.ful :: mgetD [] r.applied i).take 5) r.applied,
                 phi := match z.fs.find? fun x => x.pos == f.pos with
                   | some x => lanePhases (travelling s r.corridor) z x g b r.phi
                   | none => r.phi }
    fs.foldl one s

end Sys2Proof.Machine
end

