-- ==== Sys2Proof/Machine/Handover.lean ====
section
/-! DEFINITION. The exporter's side of a boundary hand-over (R52 to R58): exports start, their records and blobs go to
the peer, and they end. Assumption log: 27 (DEDUCED). -/

namespace Sys2Proof.Machine

/-- Send a message of a peer session to the peer of end `k` (R50). -/
def peerSend (s : State) (k opcode mbx crit : Nat) (payload : List Byte) : State :=
  match s.peer k with
  | none => s
  | some p =>
    let s := s.setPeer k { p with sentSeq := p.sentSeq + 1, lastSent := s.now }
    s.send { via := .peer (BitVec.ofNat 3 (k / 2)).toFin (k % 2 == 1), dst := 0, flags := 0,
             form := if p.cfg.afamily = 4 then .udp4 p.cfg.addr 47601 else .udp6 p.cfg.addr false 47601, mbx := mbx, crit := crit,
             session := p.session, seq := BitVec.ofNat 32 (p.sentSeq + 1), opcode := opcode, status := 0,
             payload := payload, key := if opcode = 0x0310 then none else some p.key }

/-- The direction of travel is towards increasing chainage: the sign of v, else DIR. -/
def forward (r : Run) (v : Int) : Bool := if v = 0 then r.dir == 0 else decide (0 < v)

/-- The corridor end in a run's direction of travel (R52, R187). -/
def Run.endKey (r : Run) (s : State) : Nat := r.corridor * 2 + b2n (forward r (r.int s ctxSpeed 4))

/-- The export of run `n` at end `k`. -/
def exportsAt (s : State) (n k : Nat) : Option Export := (s.peer k).bind fun p => mget n p.exports

/-- The end at which run `n` is being exported, else the one it travels towards. -/
def exportKey (s : State) (n : Nat) (r : Run) : Nat :=
  if (exportsAt s n (r.corridor * 2)).isSome then r.corridor * 2
  else if (exportsAt s n (r.corridor * 2 + 1)).isSome then r.corridor * 2 + 1
  else r.endKey s

/-- The export of run `n`. -/
def exportOf (s : State) (n : Nat) (r : Run) : Option Export := exportsAt s n (exportKey s n r)

/-- Change the export of run `n` at end `k`. -/
def modExport (s : State) (k n : Nat) (f : Export → Export) : State :=
  match s.peer k, exportsAt s n k with
  | some p, some e => s.setPeer k { p with exports := mset n (f e) p.exports }
  | _, _ => s

/-- Take the export of run `n` at end `k` away. -/
def dropExport (s : State) (k n : Nat) : State :=
  match s.peer k with
  | some p => s.setPeer k { p with exports := mdel n p.exports }
  | none => s

/-- The peer session at end `k` is live. -/
def peerLive (s : State) (k : Nat) : Bool := (s.peer k).any fun p => p.st == .live

/-- An export or import is in progress at end `k` (R47). -/
def endBusy (s : State) (k : Nat) : Bool := (s.peer k).any fun p => !p.exports.isEmpty || p.import_.isSome

/-- The run's estimated position is within HANDOVER_MARGIN of the last RU in its direction of travel (R52). -/
def withinMargin (s : State) (r : Run) : Bool :=
  let l := chainages s r.corridor
  let x := r.int s ctxPos 8
  let m : Int := (mgetD 50000 s.cor.corridors r.corridor : Nat) * 100
  if l.isEmpty then false
  else if forward r (r.int s ctxSpeed 4) then decide (chainageAt l (l.length - 1) - x ≤ m)
  else decide (x - chainageAt l 0 ≤ m)

/-- EXPORT_START (R52, R58): a new export of run `n`, with the first slot S at least 25 ms away, and its KIND 5
status entry. -/
def exportStart (s : State) (n : Nat) (r : Run) (mbx : Option Nat) : State :=
  let t := r.slot s
  let sTime := ((s.devNs + 25000000) / t + 1) * t
  match s.peer (r.endKey s) with
  | none => s
  | some p =>
    let e : Export := { run := n, sTime := sTime, started := s.now, ctx := none, delta := none, recordSent := false,
                        accepted := false, deltaSent := false, mbxKey := mbx, peerRun := 0, seq := 0 }
    let s := s.setPeer (r.endKey s) { p with exports := mset n e p.exports, retries := mdel n p.retries }
    pushStatus s n r 5 0 0xFFFF sTime

/-- A pair as a message carries it (R86). -/
def pairMsg (v : Word) : List Byte := pairBytes v

/-- A carrier entry of the export record (R57). -/
def entryBytes (anchor : Nat) (x : Nat × Carrier) : List Byte :=
  leBytes 1 x.2.std ++ leBytes 1 x.2.scs ++ leBytes 2 x.2.bw ++ leBytes 1 (b2n (x.1 == anchor)) ++ leBytes 3 0
    ++ pairBytes x.2.dl ++ pairBytes x.2.ul

/-- The carriers of an export record: at most 16, the anchor among them. -/
def exportCarriers (s : State) (r : Run) : List (Nat × Carrier) :=
  let l := travelling s r.corridor
  ((l.filter fun x => x.1 == r.anchor) ++ (l.filter fun x => x.1 != r.anchor)).take 16

/-- RUN_IMPORT body of a run (R57). -/
def recordBytes (s : State) (r : Run) (p : Peer) (e : Export) : List Byte :=
  let cs := exportCarriers s r
  let i (off n : Nat) : List Byte := leBytes n (r.nat s off n)
  leBytes 1 1 ++ leBytes 1 p.cfg.peerCorridor ++ leBytes 1 r.dir ++ leBytes 1 r.winSize ++ leBytes 1 r.combMode
    ++ leBytes 1 cs.length ++ leBytes 2 r.hyst ++ leBytes 2 r.lead ++ leBytes 2 r.coast
    ++ leBytes 4 ((e.ctx.map Prod.fst).getD 0) ++ leBytes 8 e.sTime ++ i ctxT 8 ++ i ctxPos 8 ++ i ctxSpeed 4
    ++ i ctxAccel 4 ++ i ctxFc 4 ++ leBytes 4 0 ++ pairMsg (r.pairVal s 0) ++ pairMsg (r.pairVal s 1)
    ++ (List.range 5).flatMap (fun d => pairMsg (r.pairVal s (3 + d))) ++ leBytes 16 0
    ++ cs.flatMap (entryBytes r.anchor)

/-- Send a blob in RUN_BLOB messages in ascending OFFSET (R58). -/
def sendBlob (s : State) (k run kind : Nat) (b : Nat × Nat) : State :=
  (List.range (ceilDiv b.1 8176)).foldl (fun s i =>
    let off := i * 8176
    peerSend s k 0x0308 2 0 (leBytes 1 run ++ leBytes 1 kind ++ leBytes 2 0 ++ leBytes 4 off
      ++ s.bytes (b.2 + off) (min 8176 (b.1 - off)))) s

/-- EXPORT_RECORD_SEND (R58): RUN_IMPORT, then the context blob. -/
def sendRecord (s : State) (n : Nat) (r : Run) : State :=
  let k := exportKey s n r
  match s.peer k, exportOf s n r with
  | some p, some e =>
    if e.recordSent then s
    else
      let s := peerSend s k 0x0304 1 (7 + 2 * (exportCarriers s r).length) (recordBytes s r p e)
      let s := match e.ctx with
        | some b => sendBlob s k n 1 b
        | none => s
      modExport s k n fun e => { e with recordSent := true, seq := p.sentSeq + 1 }
  | _, _ => s

/-- DELTA_RECORD_SEND (R52, R58): once slot S − 1 has ended, the delta blob and RUN_DELTA. -/
def sendDelta (s : State) (n : Nat) (r : Run) : State :=
  let k := exportKey s n r
  match exportOf s n r with
  | some e =>
    match e.delta with
    | some b =>
      if e.accepted && !e.deltaSent && decide (e.sTime ≤ s.devNs) then
        let s := sendBlob s k n 2 b
        let s := peerSend s k 0x0307 2 0 (leBytes 1 n ++ leBytes 3 0 ++ fitBytes 32 (Config.sha3 (s.bytes b.2 b.1)))
        modExport s k n fun e => { e with deltaSent := true }
      else s
    | none => s
  | none => s

/-- RUN_EXPORT response payload (R187). -/
def exportPayload (e : Export) (status run : Nat) : List Byte :=
  leBytes 8 e.sTime ++ leBytes 2 status ++ leBytes 1 run ++ leBytes 5 0

/-- Answer the RUN_EXPORT that waits for an export. -/
def answerExport (s : State) (e : Export) (st : Status) (status run : Nat) : State :=
  match e.mbxKey with
  | some key => finishMbx s key st (exportPayload e status run) 0
  | none => s

/-- An export fails: the run stays, the event is raised, and a retry may follow after 100 ms (R53). -/
def exportFails (s : State) (k : Nat) (e : Export) (event : Nat) (st : Status) (status : Nat) : State :=
  let s := answerExport (s.raise event 4 e.run (leBytes 2 status)) e st status 0
  match s.peer k with
  | some p => s.setPeer k { p with exports := mdel e.run p.exports, retries := mset e.run (s.now + 100000000) p.retries }
  | none => s

/-- An export stops before ACCEPT (R56). -/
def abortExport (s : State) (n : Nat) (r : Run) : State :=
  match exportOf s n r with
  | some e => dropExport (answerExport s e .aborted 0 0) (exportKey s n r) n
  | none => s

end Sys2Proof.Machine
end

