-- ==== Sys2Proof/Machine/Runs.lean ====
section
/-! DEFINITION. Window moves and boundaries of runs (R173 to R186), and the commands that create, read, end and report
on runs (R158, R187, R189, R190). Assumption log: 27 (DEDUCED), 28 (DESIGN CHOICE), 61 (DEDUCED), 62 (DEDUCED), 63
(DEDUCED), 112 (DESIGN CHOICE). -/

namespace Sys2Proof.Machine

/-! ### Pair checks (R173, R174) -/

/-- Check pair `i`: its state in `bad`; one newly found is to be rewritten (R173, R174). -/
def checkPair (n b : Nat) (s : State) (i : Nat) : State :=
  match s.run n with
  | none => s
  | some r =>
    match ctxPairOf s r i with
    | (some w, s) =>
      s.modRun n fun r => { r with bad := r.bad.filter (· != i),
                                   lastWin := if i = 0 then (fld w 7 0, fld w 15 8) else r.lastWin }
    | (none, s) =>
      if r.bad.contains i then s
      else
        s.modRun n fun r => { r with bad := r.bad ++ [i], rewrite := r.rewrite ++ [i], rewriteAt := b / r.slot s }

/-- A status entry for each pair that this boundary found bad and the one before did not, with the position and speed of
this boundary (R173, R188). -/
def reportPairs (s : State) (n : Nat) (r : Run) (was : List Nat) (b : Nat) : State :=
  (r.bad.filter fun i => !was.contains i).foldl (fun s i => pushStatus s n r 3 (8 + i) 0xFFFF b) s

/-- Rewrite pair `i` of a context from the Gaffer's copy; where that fails too, the run is silenced (R174). -/
def rewritePair (n : Nat) (r : Run) (s : State) (i : Nat) : State :=
  match readPair .gaffer .mram (copyAddr n i) s with
  | (some v, s) => memWrite .gaffer (.sram r.home) (r.ctx + ctxPair i) (pairWord v) s
  | (none, s) =>
    let s := putCopy (memWrite .gaffer (.sram r.home) (r.ctx + ctxPair 1) (pairWord 0#32) s) n 1 0#32
    s.journal 0x0020 2 0xFFFF (Config.recordBody 0x0020 (leBytes 4 0 ++ leBytes 1 n ++ leBytes 1 i))

/-- GAFFER_PAIR_REWRITE (R174): at the boundary after a mismatch entry. -/
def execGafferPairRewrite (n : Nat) (s : State) : Host.Outcome State Fault Refusal :=
  match s.run n with
  | some r =>
    if !r.rewrite.isEmpty && decide (r.rewriteAt < s.devNs / r.slot s) && gafferUp s then
      ok ((r.rewrite.foldl (rewritePair n r) s).modRun n fun r => { r with rewrite := [] })
    else ok s
  | none => ok s

/-! ### Window steps (R176 to R180) -/

/-- A step and its corridor position; codes of PEND (R170). -/
structure Step_ where
  code : Nat
  pos : Nat
  deriving DecidableEq, Repr

/-- A PEND word. -/
def stepWord (x : Step_) : Nat := x.code * 2 ^ 24 + x.pos % 256 * 2 ^ 16
/-- The step of a PEND word. -/
def stepOf (w : Nat) : Step_ := { code := w / 2 ^ 24, pos := w / 2 ^ 16 % 256 }

/-- TXMASK: one bit per ACTIVE feed, by its slot (R180). -/
def txMask (s : State) (r : Run) : Word :=
  BitVec.ofNat 32 (((r.feeds s).filter fun f => f.st == 2).foldl (fun n f => n + 2 ^ (f.pos % 8)) 0)

/-- Write the TXMASK pair from the feeds. -/
def putMask (s : State) (n : Nat) (r : Run) : State := putPair s n r 2 (txMask s r)

/-- A feed's entry becomes EMPTY, and WIN shrinks at its end (R180). -/
def removeFeed (s : State) (n : Nat) (r : Run) (f : Feed) : State :=
  let s := putFeed (keepTrim s r f) r { f with st := 0, age := 0 }
  let s := if f.st = 2 then putMask s n r else s
  let w := r.win
  if w.1 = w.2 then s
  else putWin s n r (if f.pos = w.1 then (w.1 + 1, w.2) else (w.1, w.2 - 1))

/-- A step takes effect: the feed entry is written before the pair (R180). -/
def applyWinStep (s : State) (n : Nat) (r : Run) (x : Step_) : State :=
  match x.code, r.feedAt s x.pos with
  | 1, _ =>
    let s := startFeed s n r x.pos
    putWin s n r (if x.pos < r.win.1 then (x.pos, r.win.2) else (r.win.1, x.pos))
  | 2, some f => putMask (putFeed s r { f with st := 2, age := 0 }) n r
  | 3, some f => putMask (putFeed (keepTrim s r f) r { f with st := 3, age := 0 }) n r
  | 4, some f => removeFeed s n r f
  | _, _ => s

/-- The feeds as they will stand after a step: position, FSTATE and AGE. -/
def afterStep (l : List (Nat × Nat × Nat)) (x : Step_) : List (Nat × Nat × Nat) :=
  let l := l.map fun f => (f.1, f.2.1, f.2.2 + 1)
  let set (st : Nat) := l.map fun f => if f.1 = x.pos then (f.1, st, 0) else f
  match x.code with
  | 1 => if l.any fun f => f.1 == x.pos then l else (x.pos, 1, 0) :: l
  | 2 => set 2
  | 3 => set 3
  | 4 => l.filter fun f => f.1 != x.pos
  | _ => l

/-- The centre after R177's rule is applied from `m`. -/
def moveCentre (l : List Int) (xp hyst : Int) : Nat → Nat → Nat
  | 0, m => m
  | fuel + 1, m =>
    if m + 1 < l.length ∧ chainageAt l m + chainageAt l (m + 1) + 2 * hyst ≤ 2 * xp then moveCentre l xp hyst fuel (m + 1)
    else if 0 < m ∧ 2 * xp ≤ chainageAt l (m - 1) + chainageAt l m - 2 * hyst then moveCentre l xp hyst fuel (m - 1)
    else m

/-- The target window about centre `m` (R176). -/
def targetWin (count size m : Nat) (fwd : Bool) : Nat × Nat :=
  let n := min size count
  let lo : Int := if n % 2 = 1 then (m : Int) - (n - 1) / 2
                  else if fwd then (m : Int) - n / 2 + 1 else (m : Int) - n / 2
  let lo := (clampInt 0 ((count : Int) - n) lo).toNat
  (lo, lo + n - 1)

/-- Least and greatest position of a list of feeds. -/
def winOf (l : List (Nat × Nat × Nat)) : Option (Nat × Nat) :=
  match l with
  | [] => none
  | f :: fs => some (fs.foldl (fun w g => (min w.1 g.1, max w.2 g.1)) (f.1, f.1))

/-- The step decided at boundary `b` for `b` + 2 (R179), from the feeds as they will stand at `b` + 1. -/
def decideStep (r : Run) (l : List Int) (k : Motion) (m : Nat) (fs : List (Nat × Nat × Nat)) : Step_ :=
  let none_ : Step_ := { code := 0, pos := 0 }
  let near := leastBy (fun f : Nat × Nat × Nat => ((chainageAt l f.1 - k.x).natAbs, f.1, 0))
  match winOf fs with
  | none => none_
  | some w =>
    let fwd := forward r k.v
    let t := targetWin l.length r.winSize m fwd
    let up : Option Nat := if w.2 < t.2 then some (w.2 + 1) else none
    let down : Option Nat := if t.1 < w.1 then some (w.1 - 1) else none
    let towards := if fwd then up.or down else down.or up
    let lowOut : Option Nat := if w.1 < t.1 then some w.1 else none
    let highOut : Option Nat := if t.2 < w.2 then some w.2 else none
    let away := if fwd then lowOut.or highOut else highOut.or lowOut
    match near (fs.filter fun f => f.2.1 == 1), fs.find? (fun f => f.2.1 == 3) with
    | some j, _ => if r.joinSlots ≤ j.2.2 + 1 then { code := 2, pos := j.1 } else none_
    | none, some f => { code := 4, pos := f.1 }
    | none, none =>
      match (if fs.length ≤ r.winSize then towards else none), away with
      | some p, _ => { code := 1, pos := p }
      | none, some p =>
        if 2 ≤ fs.length ∧ 2 ≤ (fs.filter fun f => f.2.1 == 2).length then { code := 3, pos := p } else none_
      | none, none => none_

/-- The step of a run whose export is accepted (R183): LEAVE and REMOVE only, and from S + 1 the whole window,
trailing edge first. -/
def decideExport (r : Run) (l : List Int) (k : Motion) (m : Nat) (fs : List (Nat × Nat × Nat)) (all : Bool) : Step_ :=
  let x := decideStep r l k m fs
  if !all then (if x.code = 3 ∨ x.code = 4 then x else { code := 0, pos := 0 })
  else match fs.find? (fun f => f.2.1 == 3), winOf fs with
    | some f, _ => { code := 4, pos := f.1 }
    | none, some w =>
      let p := if forward r k.v then w.1 else w.2
      if fs.any fun f => f.1 == p && f.2.1 == 1 then { code := 4, pos := p } else { code := 3, pos := p }
    | none, none => { code := 0, pos := 0 }

/-- Announce the step for `b` + 2 (R178): the step announced before moves into PEND[0]. -/
def announceStep (s : State) (n : Nat) (r : Run) (b t : Nat) (x : Step_) : State :=
  let p1 := r.nat s (ctxPend 1) 4
  let s := ctxPut (ctxPut s r (ctxPend 0) 4 (p1 : Nat)) r (ctxPendT 0) 8 (b + t : Nat)
  let s := ctxPut (ctxPut s r (ctxPend 1) 4 (stepWord x : Nat)) r (ctxPendT 1) 8 (b + 2 * t : Nat)
  if x.code = 0 then s else pushStatus s n r 2 x.code x.pos (b + 2 * t)

/-- Decide and announceStep at boundary `b`: while LOST the window and its transmit enables stay (R157). -/
def decideAt (s : State) (n b t : Nat) : State :=
  match s.run n with
  | none => s
  | some r =>
    let l := chainages s r.corridor
    let k := r.motion s
    let lost := r.tstate s == 3
    let m := if lost then r.centre else moveCentre l (k.x + rneDiv (k.v * r.lead) 1000) (r.hyst * 100) 256 r.centre
    let s := s.setRun n { r with centre := m }
    let fs := afterStep ((r.feeds s).map fun f => (f.pos, f.st, f.age)) (stepOf (r.nat s (ctxPend 1) 4))
    let x : Step_ :=
      if r.ending ≠ 0 then { code := 0, pos := 0 }
      else match r.exported with
        | some e => decideExport r l k m fs (decide (e ≤ b + 2 * t))
        | none => if lost then { code := 0, pos := 0 } else decideStep r l k m fs
    announceStep s n r b t x

/-! ### RUN_END, import and export at a boundary -/

/-- The feed farthest from x. -/
def farthest (s : State) (r : Run) : Option Feed :=
  let l := chainages s r.corridor
  let x := r.int s ctxPos 8
  leastBy (fun f : Feed => (1000000000000 - (chainageAt l f.pos - x).natAbs, f.pos, 0)) (r.feeds s)

/-- One step of RUN_END at a boundary on which no announced step took effect (R186). -/
def endStep (s : State) (n : Nat) (r : Run) : State :=
  match r.ending with
  | 1 => (putPair s n r 1 0#32).modRun n fun r => { r with ending := 2 }
  | 2 => match farthest s r with
    | some f =>
      let s := removeFeed s n r f
      s.modRun n fun q => if (r.feeds s).isEmpty then { q with ending := 3 } else q
    | none => releaseRun s n r
  | 3 => releaseRun s n r
  | _ => s

/-- The import installs its window at the second boundary after ACCEPT, with the first promotion announced
(R183). -/
def importStep (s : State) (n : Nat) (r : Run) (b t : Nat) : State :=
  match r.import_ with
  | none => s
  | some k =>
    if k = 0 then s.setRun n { r with import_ := some 1 }
    else
      let l := chainages s r.corridor
      let size := min r.winSize l.length
      let lo := if r.endHi then l.length - size else 0
      let x := r.int s ctxPos 8
      let r := { r with import_ := none, centre := (nearestPos l x).getD 0, win := (lo, lo + size - 1) }
      let s := installWin (s.setRun n r) n r lo (lo + size - 1)
      let s := putPair (putMask s n r) n r 1 0#32
      match leastBy (fun f : Feed => ((chainageAt l f.pos - x).natAbs, f.pos, 0)) (r.feeds s) with
      | some f =>
        let s := ctxPut s r (ctxPend 1) 4 (stepWord { code := 2, pos := f.pos } : Nat)
        pushStatus s n r 2 2 f.pos (b + t)
      | none => s

/-- The device empties the soft buffers of a run (R54, R135): VALID is 0 in each; which buffers a run has is a free
value. -/
def clearHarq (n : Nat) (s : State) : State :=
  let f := s.takeFresh
  let one (s : State) (i : Nat) : State :=
    let a := hbmBase 0 + i * 64
    memWrite .gaffer (placeOf s.part a) a [0#8] s
  (Config.runSoftBuffers n f.1).foldl one f.2

/-- HANDOVER_OWNERSHIP at the importer (R52 to R54): at S + 1 the run transmits; without the delta record its soft
buffers are emptied and the hand-over is degraded. -/
def importOwn (s : State) (n : Nat) (r : Run) (b : Nat) : State :=
  match r.importS with
  | none => s
  | some e =>
    if b < e then s
    else
      let s := putPair (s.setRun n { r with importS := none }) n r 1 1#32
      let k := peerKey r.corridor r.endHi
      match s.peer k with
      | some p =>
        let got := p.import_.any fun i => i.deltaOk
        let s := s.setPeer k { p with import_ := none }
        if got then s else (clearHarq n s).raise 0x0013 4 n []
      | none => (clearHarq n s).raise 0x0013 4 n []

/-- The exporter at a boundary (R52, R54, R183): silent from S, the delta record, and at S + 1 the command's end. -/
def exportStep (s : State) (n : Nat) (r : Run) (b t : Nat) : State :=
  match exportOf s n r with
  | some e =>
    if !e.accepted || decide (b < e.sTime) then s
    else
      let s := if r.pairVal s 1 = 0#32 then s else putPair s n r 1 0#32
      let s := sendDelta s n r
      if b < e.sTime + t then s
      else modExport (answerExport s e .ok 0 e.peerRun) (exportKey s n r) n fun e => { e with mbxKey := none }
  | none => s

/-- A run whose export was accepted ends when its window is empty (R183). -/
def exportEnd (s : State) (n : Nat) (r : Run) : State :=
  if r.exported.isSome && (r.feeds s).isEmpty then releaseRun (dropExport s (exportKey s n r) n) n r else s

/-- EXPORT_START at a boundary (R52): a run near the end in its direction of travel, unless a retry is to come (R53).
After a host's abort (R56) the export starts again at the next boundary (log entry 112). -/
def autoExport (s : State) (n : Nat) (r : Run) : State :=
  let k := r.endKey s
  if r.ending = 0 && r.import_.isNone && r.importS.isNone && r.exported.isNone && peerLive s k && (exportOf s n r).isNone
      && (s.peer k).any (fun p => !mhas p.retries n) && withinMargin s r then exportStart s n r none
  else s

/-! ### RUN_BOUNDARY -/

/-- Every feed is one boundary older. -/
def ageFeeds (s : State) (r : Run) : State :=
  (r.feeds s).foldl (fun s f => putFeed s r { f with age := min 65535 (f.age + 1) }) s

/-- Do `f` for a run that still exists. -/
def withRun (n : Nat) (f : Run → State → State) (s : State) : State :=
  match s.run n with
  | some r => f r s
  | none => s

/-- RUN_BOUNDARY (R155, R173, R178): what the home tile does at an anchor slot boundary. -/
def execRunBoundary (n : Nat) (ms : List Meas) (s : State) : Host.Outcome State Fault Refusal :=
  match s.run n with
  | none => ok s
  | some r =>
    let t := r.slot s
    let b := s.devNs / t * t
    if b ≤ r.boundary then ok s
    else
      let z := laneBase s r
      let s := (List.range 8).foldl (checkPair n b) s
      let s := withRun n (fun r s => ageFeeds s r) s
      let due := stepOf (r.nat s (ctxPend 0) 4)
      let s := withRun n (fun r s => ctxPut (applyWinStep s n r due) r (ctxPend 0) 4 0) s
      let l := chainages s r.corridor
      let was := r.tstate s
      let xp := ((r.motion s).predict t).x
      let s := withRun n (fun r s => track s n r l (retained s r l ms) b t) s
      let s := withRun n (fun r s => applyReports s n r xp (was == 0 || was == 2 || was == 3) b) s
      let s := withRun n (fun q s => reportPairs s n q r.bad b) s
      let s := withRun n (fun r s => setLanes s n r l (retained s r l ms) z b) s
      let s := withRun n (fun r s => ctxPut (s.setRun n { r with boundary := b }) r ctxT 8 (b : Nat)) s
      let s := withRun n (fun r s => importStep s n r b t) s
      let s := withRun n (fun r s => importOwn s n r b) s
      let s := withRun n (fun r s => exportStep s n r b t) s
      let s := withRun n (fun r s => autoExport s n r) s
      let s := withRun n (fun r s => if due.code = 0 then endStep s n r else s) s
      let s := withRun n (fun _ s => decideAt s n b t) s
      ok (withRun n (fun r s => exportEnd s n r) s)

/-! ### Time limits and LOOP_SAT (R156, R165) -/

/-- SEEK_TIMEOUT (R156): 10 s in SEEK without a fix. -/
def execSeekTimeout (n : Nat) (s : State) : Host.Outcome State Fault Refusal :=
  match s.run n with
  | some r => if r.tstate s = 0 ∧ r.since + 10000000000 ≤ s.now then ok (enterLost s n r) else ok s
  | none => ok s

/-- COAST_ENTER (R156): 20 boundaries without a position fix; a = 0. -/
def execCoastEnter (n : Nat) (s : State) : Host.Outcome State Fault Refusal :=
  match s.run n with
  | some r => if r.tstate s = 1 ∧ 20 ≤ r.noFix then ok (setTState (ctxPut s r ctxAccel 4 0) n r 2 s.devNs) else ok s
  | none => ok s

/-- COAST_LIMIT_EXPIRY (R156). -/
def execCoastLimitExpiry (n : Nat) (s : State) : Host.Outcome State Fault Refusal :=
  match s.run n with
  | some r => if r.tstate s = 2 ∧ r.since + r.coast * 100000000 ≤ s.now then ok (enterLost s n r) else ok s
  | none => ok s

/-- Set or clear LOOP_SAT of a feed, with its status entry. -/
def setLoopSat (s : State) (n : Nat) (r : Run) (f : Feed) (v : Nat) : State :=
  pushStatus (putFeed s r { f with flags := f.flags - f.flags / 2 % 2 * 2 + 2 * v }) n r 4 v f.pos s.devNs

/-- LOOP_SAT_SET (R165). -/
def execLoopSatSet (n pos : Nat) (s : State) : Host.Outcome State Fault Refusal :=
  match s.run n with
  | some r => match r.feedAt s pos with
    | some f => if f.flags / 2 % 2 = 0 ∧ 8 ≤ mgetD 0 r.clampOn (pos % 8) then ok (setLoopSat s n r f 1) else ok s
    | none => ok s
  | none => ok s

/-- LOOP_SAT_CLEAR (R165). -/
def execLoopSatClear (n pos : Nat) (s : State) : Host.Outcome State Fault Refusal :=
  match s.run n with
  | some r => match r.feedAt s pos with
    | some f => if f.flags / 2 % 2 = 1 ∧ 8 ≤ mgetD 0 r.clampOff (pos % 8) then ok (setLoopSat s n r f 0) else ok s
    | none => ok s
  | none => ok s

/-! ### Commands -/

/-- RUN_POSITION (R158, R159): the report waits for the next boundary. -/
def execRunPosition (m : TcsMsg) (run : Nat) (speedValid : Bool) (accuracy chainage : Nat) (speed : Int) (tFix : Nat)
    (s : State) : Host.Outcome State Fault Refusal :=
  ok (begin_ { opcode := 0x0305, onchip := true } m 0 (fun s =>
    if s.parison then .inl (refuse .notReady s)
    else match s.run run with
      | none => .inl (refuse .badArg s)
      | some r =>
        if s.devNs + 1000000 < tFix ∨ tFix + 2000000000 < s.devNs ∨ accuracy = 0 ∨ 10000 < accuracy then .inl (refuse .badArg s)
        else .inr (s.setRun run { r with reports := r.reports ++ [{ speedValid := speedValid, accuracy := accuracy, chainage := chainage, speed := speed, tFix := tFix, mbx := mbxKey m }] })) s)

/-- Ranges of a RUN_CREATE (check 3; R189, R190). -/
def createRange (s : State) (b : RunBody) : Bool :=
  let l := chainages s b.corridor
  let lo := fld b.win 7 0
  let hi := fld b.win 15 8
  let size := if b.winSize = 0 then 7 else b.winSize
  decide (b.dir < 2) && decide (b.winSize ≤ 7) && decide (b.speed ≤ 18000) && decide (b.combMode < 2)
    && decide (b.joinSlots ≤ 8) && decide (b.hyst ≤ 10000) && decide (b.lead ≤ 500)
    && (b.coast == 0 || (decide (5 ≤ b.coast) && decide (b.coast ≤ 600)))
    && (b.run == 0xFF || (decide (b.run < 64) && !mhas s.runs b.run)) && decide (b.txEn.toNat < 2)
    && b.atts.all (fun a => decide (a.1.toNat ≤ 6000)) && b.atts.length == 5 && decide (b.win.toNat < 65536)
    && decide (lo ≤ hi) && decide (hi < l.length) && decide (hi + 1 - lo ≤ size)
    && (anchorOf s b.corridor).isSome
    && (match nearestPos l ((b.chainage : Int) * 100) with
        | some p => decide (lo ≤ p) && decide (p ≤ hi)
        | none => false)

/-- Pairs of a RUN_CREATE (check 4). -/
def createPairs (b : RunBody) : Bool :=
  isPair b.win b.winC && isPair b.txEn b.txEnC && b.atts.all fun a => isPair a.1 a.2

/-- The lowest free run number; none at the run limit (check 5, R33). -/
def freeRun (s : State) : Option Nat :=
  if (limits s.part).runs ≤ s.runs.length then none else (List.range 64).find? fun n => !mhas s.runs n

/-- A new run with its context: zeros, its constant fields, its motion and its pairs, and the entry for its tracking state
(R156). -/
def startRun (s : State) (n : Nat) (r : Run) (k : Motion) (fc : Int) (st : Nat) (atts : List Word) (txEn : Word) : State :=
  let s := s.setRun n r
  let s := { s with mem := { s.mem with ctxOwner := mset r.ctx r.home s.mem.ctxOwner } }
  let s := ctxWrite s r 0 (List.replicate 512 0#8)
  let s := ctxWrite s r 0 (leBytes 1 n ++ leBytes 1 r.corridor ++ leBytes 1 st ++ leBytes 1 r.winSize ++ leBytes 2 r.anchor
    ++ leBytes 1 r.joinSlots ++ leBytes 1 r.combMode)
  let s := ctxPut (ctxPut (putMotion s r k) r ctxFc 4 fc) r ctxT 8 (r.boundary : Nat)
  let q := s.queue r.statusQid
  let s := if qidPresent s r.statusQid then s.setQueue r.statusQid { q with lock := true } else s
  let s := putPair (putPair (putPair s n r 0 0#32) n r 1 txEn) n r 2 0#32
  let s := ((List.range 5).zip atts).foldl (fun s x => putPair s n r (3 + x.1) x.2) s
  pushStatus s n r 1 st 0xFFFF s.devNs

/-- A run before anything has happened to it. -/
def Run.fresh (corridor home ctx anchor : Nat) : Run :=
  { corridor := corridor, home := home, ctx := ctx, anchor := anchor, dir := 0, winSize := 7, joinSlots := 2, combMode := 0,
    hyst := 1000, lead := 50, coast := 50, statusQid := 0, win := (0, 0), centre := 0, bTerm := 0, noFix := 0, since := 0,
    reports := [], clampOn := [], clampOff := [], phi := [], seeds := [], applied := [], lastWin := (0, 0), bad := [], rewrite := [], rewriteAt := 0,
    boundary := 0, ending := 0, endMbx := none, exported := none, import_ := none, importS := none, endHi := false }

/-- Create the run of an admitted RUN_CREATE (R182, R189). -/
def createRun (s : State) (n : Nat) (b : RunBody) (anchor : Nat × Carrier) : State :=
  let f := s.takeFresh
  let s := f.2
  let home := homeTile s f.1
  let t := slotNs anchor.2
  let lo := fld b.win 7 0
  let hi := fld b.win 15 8
  let x : Int := (b.chainage : Int) * 100
  let r : Run := { Run.fresh b.corridor home (freeCtx s home f.1) anchor.1 with
    dir := b.dir, winSize := if b.winSize = 0 then 7 else b.winSize,
    joinSlots := if b.joinSlots = 0 then 2 else b.joinSlots, combMode := b.combMode,
    hyst := if b.hyst = 0 then 1000 else b.hyst, lead := if b.lead = 0 then 50 else b.lead,
    coast := if b.coast = 0 then 50 else b.coast, statusQid := b.statusQid, win := (lo, hi),
    centre := (nearestPos (chainages s b.corridor) x).getD 0, since := s.now, lastWin := (lo, hi),
    boundary := s.devNs / t * t }
  let v : Int := (b.speed : Int) * 100
  let s := startRun s n r { x := x, v := if b.dir = 0 then v else -v, a := 0 } 0 0 (b.atts.map Prod.fst) b.txEn
  installWin s n r lo hi

/-- RUN_CREATE (R189, R190). -/
def execRunCreate (m : TcsMsg) (b : RunBody) (s : State) : Host.Outcome State Fault Refusal :=
  let act (s : State) : Reply :=
    if s.parison then refuse .notReady s
    else if !createRange s b then refuse .badArg s
    else if !createPairs b then refuse .cpairMismatch s
    else match freeRun s, anchorOf s b.corridor with
      | some n, some a =>
        let n := if b.run = 0xFF then n else b.run
        let s := createRun s n b a
        { st := .ok, state := s, payload := leBytes 1 n ++ leBytes 1 ((s.run n).map Run.home |>.getD 0) ++ leBytes 6 0
            ++ leBytes 8 ((s.run n).map Run.ctx |>.getD 0) }
      | _, _ => refuse .noResource (s.raise 0x0010 1 b.corridor [])
  ok (serve { opcode := 0x0301 } m 7 (fun s =>
    if 8 ≤ b.corridor then refuse .badArg s
    else if holdsSem s m b.corridor then act s else refuse .notOwner s) s)

/-- A command on run `n` that needs its corridor's semaphore. -/
def onRun (m : TcsMsg) (n : Nat) (act : Run → State → Reply ⊕ State) (s : State) : Reply ⊕ State :=
  if s.parison then .inl (refuse .notReady s)
  else match s.run n with
    | none => .inl (refuse .badArg s)
    | some r => if holdsSem s m r.corridor then act r s else .inl (refuse .notOwner s)

/-- RUN_END (R186, R187). -/
def execRunEnd (m : TcsMsg) (n : Nat) (s : State) : Host.Outcome State Fault Refusal :=
  ok (begin_ { opcode := 0x0302 } m 0 (onRun m n fun r s =>
    if r.ending ≠ 0 ∨ r.exported.isSome = true then .inl (refuse .badState s)
    else
      let s := abortExport s n r
      .inr (setTState (s.setRun n { r with ending := 1, endMbx := some (mbxKey m) }) n r 4 s.devNs)) s)

/-- RUN_READ (R170, R187): the context, with its pairs, then CTX_ADDR (no rule places it). -/
def execRunRead (m : TcsMsg) (n : Nat) (s : State) : Host.Outcome State Fault Refusal :=
  ok (serve { opcode := 0x0306, onchip := true } m 0 (fun s =>
    match s.run n with
    | none => refuse .badArg s
    | some r =>
      match memRead .gaffer (.sram r.home) r.ctx 512 s with
      | (some l, s) => { st := .ok, payload := l ++ leBytes 8 r.ctx, crit := 8, state := s }
      | (none, s) => { st := .ok, payload := s.bytes r.ctx 512 ++ leBytes 8 r.ctx, crit := 8, state := s }) s)

/-- RUN_EXPORT (R187). -/
def execRunExport (m : TcsMsg) (n : Nat) (s : State) : Host.Outcome State Fault Refusal :=
  ok (begin_ { opcode := 0x0303 } m 0 (onRun m n fun r s =>
    if r.ending ≠ 0 || r.exported.isSome || !peerLive s (r.endKey s) || (exportOf s n r).isSome then .inl (refuse .badState s)
    else .inr (exportStart s n r (some (mbxKey m)))) s)

end Sys2Proof.Machine
end

