-- ==== Sys2Proof/Machine/Abort.lean ====
section
/-! DEFINITION. Aborts of commands (R19, R84, R103) and the end of sessions (R71, R72), with SESSION_HELLO, which may
end one. Assumption log: 31 (DEDUCED), 35 (DEDUCED), 36 (DEDUCED), 63 (DEDUCED). -/

namespace Sys2Proof.Machine

/-! ### Aborting a command (R19, R84) -/

/-- A settings command is aborted: what is not resolved is ABORTED (R77, R84). -/
def abortSettings (key : Nat) (e : MbxExec) (s : State) : State :=
  let n := e.rest.length + b2n e.waiting.isSome
  let rs : List SettingResult := List.replicate n { status := Status.aborted.code, effective := 0 }
  finishSettings s key { e with rest := [], waiting := none, results := e.results ++ rs }

/-- A RUN_END is aborted: the run goes on, coasting until its next fix. -/
def abortRunEnd (key : Nat) (s : State) : Option State :=
  match s.runs.find? fun x => x.2.endMbx == some key with
  | some (n, r) =>
    if r.ending = 3 then none
    else
      let s := setTState (s.modRun n fun q => { q with ending := 0, endMbx := none }) n r 2 s.devNs
      some (finishMbx s key .aborted [] 0)
  | none => none

/-- A RUN_EXPORT is aborted before ACCEPT (R56). -/
def abortRunExport (key : Nat) (s : State) : Option State :=
  match s.runs.find? fun x => (exportOf s x.1 x.2).any fun e => e.mbxKey == some key with
  | some (n, r) => if (exportOf s n r).any Export.accepted then none else some (abortExport s n r)
  | none => none

/-- A fabric load is aborted before it has touched the running design (R493). -/
def abortFab (key : Nat) (s : State) : Option State :=
  match s.fab.find? fun x => x.2.job.any fun j => j.mbx == key with
  | some (f, x) =>
    match x.job with
    | some j => if fabSt s f = 1 ∨ fabSt s f = 2 then some (fabGiveUp s f j .aborted) else none
    | none => none
  | none => none

/-- A transition to STILL is aborted before commit (R511). -/
def abortPower (key : Nat) (s : State) : Option State :=
  match s.power.trans with
  | some x =>
    if x.target = 3 ∧ x.mbx = key ∧ x.back.isNone = true then some (beginRollback s x .aborted (0, 0, 0)) else none
  | none => none

/-- A TIME_REACQUIRE is aborted before its step (R438). -/
def abortReacq (key : Nat) (s : State) : Option State :=
  match s.time.reacq with
  | some x => if x.mbx = key then some (reacqEnd s x .aborted) else none
  | none => none

/-- Abort the command of a mailbox; none where it can no longer be aborted (R19). -/
def abortEffect (key : Nat) (e : MbxExec) (s : State) : Option State :=
  match e.opcode with
  | 0x0302 => abortRunEnd key s
  | 0x0303 => abortRunExport key s
  | 0x0305 => abortReport key s
  | 0x0404 => abortReacq key s
  | 0x0501 => abortPower key s
  | 0x0901 => abortFab key s
  | _ => some (abortSettings key e s)

/-- OP_ABORT (R84). From the commit of STILL every new request is BUSY (R510), but an OP_ABORT of the POWER_STATE_SET
is ABORT_TOO_LATE (R511). -/
def opAbortReply (m : TcsMsg) (mbx : Nat) (seq : Word) (s : State) : Reply :=
  let key := portOf m * 16 + mbx
  let power := (s.sess (portOf m)).cache.any fun e => e.mbx == mbx && e.seq == seq && e.resp.opcode == 0x0501
  if s.devState = 3 then refuse (if power then .abortTooLate else .busy) s
  else if mbx < 1 ∨ 14 < mbx then refuse .badArg s
  else
    let cached := (s.sess (portOf m)).cache.any fun e => e.mbx == mbx && e.seq == seq
    match mget key s.tcs.mailboxes with
    | some e =>
      if e.msg.seq = seq then
        match abortEffect key e s with
        | some s' => refuse .aborted s'
        | none => refuse .abortTooLate s
      else refuse (if cached then .abortTooLate else .badArg) s
    | none => refuse (if cached then .abortTooLate else .badArg) s

/-- OP_ABORT (R84). -/
def execOpAbort (m : TcsMsg) (mbx : Nat) (seq : Word) (s : State) : Host.Outcome State Fault Refusal :=
  ok (serve { opcode := 0x0105, zero := true } m 0 (opAbortReply m mbx seq) s)

/-- MBX_ABORT (R19, R101, R103). -/
def execMbxAbort (r : Requester) (n : Fin 32) (s : State) : Host.Outcome State Fault Refusal :=
  ownedWrite r n.val (mbxAbort n) s

/-! ### The end of a session (R72) -/

/-- No mailbox: what waits for it is answered no more. -/
def noMbx : Nat := 0xFFFF

/-- Nothing answers the mailbox `key` any more. -/
def orphan (key : Nat) (s : State) : State :=
  let sub (k : Nat) : Nat := if k = key then noMbx else k
  let exp1 (e : Export) : Export := { e with mbxKey := e.mbxKey.filter (· != key) }
  let exp (p : Peer) : Peer := { p with exports := p.exports.map fun x => (x.1, exp1 x.2) }
  let rep (p : PosReport) : PosReport := { p with mbx := sub p.mbx }
  let run (r : Run) : Run := { r with endMbx := r.endMbx.filter (· != key), reports := r.reports.map rep }
  let job (j : FabJob) : FabJob := { j with mbx := sub j.mbx }
  let fab (x : Fab) : Fab := { x with job := x.job.map job }
  let both (x : Nat × Peer) : Nat × Peer := (x.1, exp x.2)
  let runs (x : Nat × Run) : Nat × Run := (x.1, run x.2)
  let fabs (x : Nat × Fab) : Nat × Fab := (x.1, fab x.2)
  let acq (x : Reacq) : Reacq := { x with mbx := sub x.mbx }
  let tr (x : Trans) : Trans := { x with mbx := sub x.mbx }
  let time (t : TimeState) : TimeState := { t with reacq := t.reacq.map acq }
  let power (p : Power) : Power := { p with trans := p.trans.map tr }
  { s with peers := s.peers.map both, runs := s.runs.map runs, fab := s.fab.map fabs, time := time s.time, power := power s.power }

/-- The command of a mailbox ends with its session: aborted where it can be, its response discarded (R77). -/
def endCommand (s : State) (x : Nat × MbxExec) : State :=
  let s := freeMbx s x.1
  let s := match x.2.opcode with
    | 0x0302 | 0x0303 | 0x0305 | 0x0404 | 0x0501 | 0x0901 => (abortEffect x.1 x.2 s).getD s
    | _ => s
  orphan x.1 s

/-- Causes of a session's end in the journal (R72): closed, idle, replaced by a SESSION_HELLO, idle through STILL
(R520), key revoked. -/
inductive EndCause where
  | closed | idle | replaced | still | revoked
  deriving DecidableEq, Repr

/-- The number of a cause in a SESSION_END record. -/
def EndCause.code : EndCause → Nat
  | .closed => 1 | .idle => 2 | .replaced => 3 | .still => 4 | .revoked => 5

/-- The session of port `p` ends (R72): its commands are aborted, its semaphores released, its cache goes, what its crumb
stream holds can no longer be sent (R229: later records are lost), and the end is journalled; the other port is told (R99). -/
def endSession (p : Nat) (cause : EndCause) (s : State) : State :=
  let x := s.sess p
  if x.st != .live then s.setSess p Session.none
  else
    let s := (s.tcs.mailboxes.filter fun y => y.1 / 16 == p && decide (y.1 < 32)).foldl endCommand s
    let s := { s with tcs := { s.tcs with sems := s.tcs.sems.filter fun y => !(y.2.port == p && y.2.session == x.id) } }
    let s := { s with dsq := { s.dsq with streams := s.dsq.streams.map fun (y : Nat × CrumbStream) => if y.1 = p then (p, { y.2 with waiting := [] }) else y } }
    let s := (s.setSess p Session.none).journal 0x0002 0 0xFFFF
      (Config.recordBody 0x0002 (leBytes 1 p ++ leBytes 1 x.slot ++ leBytes 2 cause.code))
    let other := 1 - p
    s.raiseTo (if s.isLive other then [(s.sess other).id] else []) 0x0003 5 p []

/-! ### SESSION_HELLO, SESSION_CLOSE and the idle limit (R71) -/

/-- SESSION_HELLO by the state of the port (R71). -/
def helloAtPort (m : TcsMsg) (p slot : Nat) (hostNonce encKey : List Byte) (s : State) : State :=
  let x := s.sess p
  match x.st with
  | .none => helloNone m p slot hostNonce encKey s
  | .pending => helloAnswer m .busy [] s
  | .live =>
    if s.now < x.lastAuth + 10000000000 then helloAnswer m .busy [] s
    else helloNone m p slot hostNonce encKey (endSession p .replaced s)

/-- SESSION_HELLO (R65, R66, R71). -/
def execSessionHello (m : TcsMsg) (slot : Nat) (hostNonce encKey : List Byte) (s : State) :
    Host.Outcome State Fault Refusal :=
  match m.via with
  | .mgt p =>
    if !gafferUp s || !formOk s p.val m then ok s
    else match framing m with
      | some n => ok (s.stat p.val n)
      | none =>
        if m.session ≠ 0#32 ∨ m.tag ≠ 0#256 then ok (s.stat p.val 3)
        else if m.mbx = 15 then ok (s.stat p.val 5)
        else if m.mbx ≠ 0 ∨ m.crit ≠ 0 then ok (helloAnswer m .badArg [] s)
        else if s.devState = 3 then ok (helloAnswer m .busy [] s)
        else if expired s m then ok (helloAnswer m .timeout [] s)
        else ok (helloAtPort m p.val slot hostNonce encKey s)
  | _ => ok (serve { opcode := 0x0101, zero := true } m 0 (refuse .badArg) s)

/-- SESSION_CLOSE (R71, R72). -/
def execSessionClose (m : TcsMsg) (s : State) : Host.Outcome State Fault Refusal :=
  match accept { opcode := 0x0103, zero := true } m 0 s with
  | .done s => ok s
  | .go s => ok (endSession (portOf m) .closed (s.respond 0x0103 m .ok))

/-- SESSION_IDLE_TIMEOUT (R71): 60 s without an authenticated message. -/
def execSessionIdleTimeout (port : Fin 2) (s : State) : Host.Outcome State Fault Refusal :=
  let x := s.sess port.val
  if x.st == .live && decide (x.lastAuth + 60000000000 ≤ s.now) && s.devState != 3 then ok (endSession port.val .idle s)
  else ok s

end Sys2Proof.Machine
end

