-- ==== Sys2Proof/Machine/Integrity.lean ====
section
/-! DEFINITION. Memory integrity beyond the single access (R375 to R392): write-backs, UE reports, scrubbing, the CLOG
harvest, soft-fuse entries and error injection. Assumption log: 16 (DEDUCED), 80 (DEDUCED). -/

namespace Sys2Proof.Machine

/-- CORRECTED_WRITEBACK (R375): the corrected code word is written back, unless a newer write to it was accepted. -/
def execCorrectedWriteback (cw : Nat) (s : State) : Host.Outcome State Fault Refusal :=
  if !s.mem.writeBacks.contains cw then ok s
  else
    let s1 : State := { s with mem := { s.mem with writeBacks := s.mem.writeBacks.filter (· != cw) } }
    match mget cw s.mem.marks with
    | some (.ce _) => ok (s1.setMark cw none)
    | _ => ok s1

/-! ### UE reports (R380) -/

/-- DETAIL of UE_REPORT. -/
def ueDetail (s : State) (r : UeRep) : List Byte :=
  leBytes 1 r.kind ++ leBytes 1 r.reader ++ leBytes 1 r.src ++ leBytes 1 0 ++ leBytes 2 s.mem.suppressed
    ++ leBytes 2 r.qid ++ leBytes 8 r.cw ++ leBytes 8 0

/-- Reports sent in the second that runs. -/
def reportsNow (s : State) : Nat := if s.mem.reportSec = s.now / 1000000000 then s.mem.reportCount else 0

/-- UE_REPORT (R380): the oldest first UE is reported, or counted as suppressed beyond 64 events in one second. -/
def execUeReport (s : State) : Host.Outcome State Fault Refusal :=
  match s.mem.ueReports with
  | [] => ok s
  | r :: l =>
    if !gafferUp s then ok s
    else
      let n := reportsNow s
      let s1 : State := { s with mem := { s.mem with ueReports := l } }
      if 64 ≤ n then ok { s1 with mem := { s1.mem with suppressed := satAdd 16 s1.mem.suppressed 1 } }
      else
        let s2 := s1.raise 0x0060 6 (serverOf r.cw (placeOf s.part r.cw)) (ueDetail s r)
        let m : MemState := { s2.mem with suppressed := 0, reportSec := s.now / 1000000000, reportCount := n + 1 }
        ok { s2 with mem := m }

/-! ### Scrubbing (R384, R385) -/

/-- The address lies in the memory. -/
def scrubHas (s : State) (m : ScrubMem) (a : Nat) : Bool :=
  match m, placeOf s.part a with
  | .sram t, .sram u => t == u
  | .hbm q, .hbm k => q == k
  | .mram, .mram => true
  | _, _ => false

/-- Keys of `scrubAt` of a memory. -/
def scrubKeys : ScrubMem → List Nat
  | .sram t => [t]
  | .hbm q => [0x100 + (memTiles q).1, 0x100 + (memTiles q).2]
  | .mram => [0x200]

/-- The scrub interval in seconds. -/
def scrubSec : ScrubMem → Nat
  | .sram _ => 600 | .hbm _ => 14400 | .mram => 86400

/-- The memory exists in the part. -/
def scrubPresent (s : State) : ScrubMem → Bool
  | .sram t => (match placeOf s.part (winBase t) with | .sram _ => true | _ => false)
  | .hbm q => quadPresent s.part q
  | .mram => true

/-- The memory can be scrubbed now: its tiles run, and a stack is trained. -/
def scrubAwake (s : State) : ScrubMem → Bool
  | .sram t => tileRun s t
  | .hbm q => tileRun s (memTiles q).1 && tileRun s (memTiles q).2 && s.boot.hbmUp.contains q
  | .mram => tileRun s ctlH

/-- Age of a memory's last complete pass in ns. -/
def scrubElapsed (s : State) (m : ScrubMem) : Nat := s.now - mgetD 0 s.mem.scrubAt ((scrubKeys m).headD 0)

/-- Tile `t` serves the stack. -/
def scrubTiles (m : ScrubMem) (t : Nat) : Bool :=
  match m with
  | .hbm q => t == (memTiles q).1 || t == (memTiles q).2
  | _ => false

/-- The stack lost pseudo-channels at a wake and is scrubbed before any other work (R390). -/
def scrubFirst (s : State) (m : ScrubMem) : Bool := s.mem.retFailed.any (scrubTiles m)

/-- No other stack comes before this memory: a stack that lost pseudo-channels is scrubbed before any other HBM work
(R390). -/
def scrubTurn (s : State) (m : ScrubMem) : Bool :=
  match m with
  | .hbm _ => scrubFirst s m || !s.mem.retFailed.any fun t => tileRun s t
  | _ => true

/-- One code word met by the scrubber. -/
def scrubWord (s : State) (a : Nat) : State :=
  let pl := placeOf s.part a
  (readCode (.scrub (serverOf a pl)) pl a s).2

/-- Count the passes in a row that corrected each code word of a memory (R387). -/
def scrubCount (m : ScrubMem) (hit : List Nat) (s : State) : State :=
  let old := s.mem.scrubRuns.filter fun x => !scrubHas s m x.1
  let new := hit.foldl (fun l a => mset a (mgetD 0 s.mem.scrubRuns a + 1) l) old
  { s with mem := { s.mem with scrubRuns := new } }

/-- The pass is complete. -/
def scrubDone (m : ScrubMem) (s : State) : State :=
  let s := { s with mem := { s.mem with scrubAt := (scrubKeys m).foldl (fun l k => mset k s.now l) s.mem.scrubAt } }
  match m with
  | .hbm q =>
    let t := memTiles q
    (s.setReg64 (R.MEMC_SCRUB_PTR t.1) (BitVec.ofNat 64 (hbmBase q))).setReg64 (R.MEMC_SCRUB_PTR t.2)
      (BitVec.ofNat 64 (hbmBase q + 0x100))
  | _ => s

/-- SCRUB_PASS (R384, R385): a memory whose last pass is as old as its interval is read through; corrected words await
their write-back, and uncorrectable ones are poisoned, logged, counted and reported. -/
def execScrubPass (mem : ScrubMem) (s : State) : Host.Outcome State Fault Refusal :=
  if !(lehrRuns s && scrubPresent s mem && scrubAwake s mem && scrubTurn s mem
       && (decide (scrubSec mem * 1000000000 ≤ scrubElapsed s mem) || scrubFirst s mem)) then ok s
  else
    let bad := (mkeys s.mem.marks).filter (scrubHas s mem)
    let hit := bad.filter fun a => match mget a s.mem.marks with | some (.ce _) => true | _ => false
    let s := dutyDone 6 (scrubDone mem (scrubCount mem hit (bad.foldl scrubWord s)))
    ok { s with mem := { s.mem with retFailed := s.mem.retFailed.filter fun t => !scrubTiles mem t } }

/-- The register and bit that show a late scrub. -/
def lateFlags : ScrubMem → List Nat
  | .sram t => [R.ECC_STAT t]
  | .hbm q => [R.MEMC_STAT (memTiles q).1, R.MEMC_STAT (memTiles q).2]
  | .mram => [R.ECC_STAT ctlH]

/-- SCRUB_LATE (R384): the age of a memory's last pass reaches twice its interval. -/
def execScrubLate (mem : ScrubMem) (s : State) : Host.Outcome State Fault Refusal :=
  if scrubPresent s mem && decide (2 * scrubSec mem * 1000000000 ≤ scrubElapsed s mem) then
    ok ((lateFlags mem).foldl (fun s a => s.orReg a 4) s)
  else ok s

/-! ### Soft-fuse entries (R387) -/

/-- What an entry repairs: kind, tile, unit, where. -/
abbrev FuseKey := Nat × Nat × Nat × Nat

/-- Corrected errors of the last 24 hours. -/
def seenRecent (s : State) : List ErrSeen := s.mem.seen.filter fun e => decide (s.now / 1000000000 < e.sec + 86400)

/-- Number of distinct values. -/
def distinct (l : List Nat) : Nat := (l.foldl (fun a x => if a.contains x then a else x :: a) []).length

/-- The row of a code word. -/
def rowKey (s : State) (cw : Nat) : FuseKey :=
  let pl := placeOf s.part cw
  match pl with
  | .hbm q => (3, serverOf cw pl, hbmPc cw, Config.hbmRow (cw - hbmBase q))
  | _ => let p := sramPos (cw % 0x10000000); (1, serverOf cw pl, p.1, p.2.1)

/-- What an error asks for by the row and the column rule. -/
def fuseAsks (l : List ErrSeen) (e : ErrSeen) : List FuseKey :=
  let row := l.filter fun x => x.tile == e.tile && x.hbm == e.hbm && x.bank == e.bank && x.row == e.row
  let col := l.filter fun x => x.tile == e.tile && x.hbm == e.hbm && x.bank == e.bank && x.col == e.col && x.synd == e.synd
  (if 3 ≤ distinct (row.map ErrSeen.word_) then [((if e.hbm then 3 else 1), e.tile, e.bank, e.row)] else [])
    ++ (if !e.hbm && decide (3 ≤ distinct (col.map ErrSeen.row)) then [(2, e.tile, e.bank, e.col)] else [])

/-- Every repair that the conditions of R387 ask for; `stuck` are UE words that a whole-word rewrite by the Lehr did not
clear. -/
def fuseWanted (s : State) (stuck : List Nat) : List FuseKey :=
  let l := seenRecent s
  l.flatMap (fuseAsks l) ++ ((s.mem.scrubRuns.filter fun x => decide (4 ≤ x.2)).map fun x => rowKey s x.1)
    ++ stuck.map (rowKey s)

/-- Spares of a unit: 8 rows and 2 columns of a bank (R370), or the spare rows of a pseudo-channel. -/
def fuseSpares (kind : Nat) : Nat := match kind with | 1 => 8 | 2 => 2 | _ => Config.hbmSpares

/-- The spare an entry takes: the first that neither the fuse map nor an entry uses, or 0xFF (R387). -/
def fuseSpare (s : State) (k : FuseKey) : Nat :=
  let used (n : Nat) : Bool := Config.fusedSpare k.1 k.2.1 k.2.2.1 n ||
    s.mem.softFuses.any fun e => e.kind == k.1 && e.tile == k.2.1 && e.unit_ == k.2.2.1 && e.spare == n
  (firstBelow (fuseSpares k.1) fun n => !used n).getD 0xFF

/-- The entry of a repair. -/
def fuseEntry (s : State) (k : FuseKey) : SoftFuse :=
  let e : SoftFuse := { kind := k.1, tile := k.2.1, unit_ := k.2.2.1, spare := fuseSpare s k, where_ := k.2.2.2,
                        first := s.clk.sec % 2 ^ 32, crc := 0#32 }
  { e with crc := crc32 (fuseHead e) }

/-- Write one entry, or record the refusal when the area is full (R387). -/
def fuseWrite (s : State) (k : FuseKey) : State :=
  if s.mem.softFuses.any fun e => e.kind == k.1 && e.tile == k.2.1 && e.unit_ == k.2.2.1 && e.where_ == k.2.2.2 then s
  else
    let e := fuseEntry s k
    if 4096 ≤ s.mem.softFuses.length then
      (s.orReg R.LEHR_EVT 1).journal 0x0020 2 ctlH (Config.recordBody 0x0020 (leBytes 4 3 ++ fuseBytes e))
    else
      State.journal { s with mem := { s.mem with softFuses := s.mem.softFuses ++ [e] } } 0x0020 2 ctlH
        (Config.recordBody 0x0020 (leBytes 4 2 ++ fuseBytes e))

/-- Write the entries that the conditions ask for, and forget errors older than 24 hours. -/
def fuseUpdate (stuck : List Nat) (s : State) : State :=
  let s := (fuseWanted s stuck).foldl fuseWrite s
  { s with mem := { s.mem with seen := seenRecent s } }

/-! ### The CLOG harvest (R378) -/

/-- Harvest one entry: telemetry copy, journal record of a UE, V cleared. -/
def harvestOne (t : Nat) (s : State) (n : Nat) : State :=
  let w := s.reg (clogInfo t n)
  if !bit w 31 then s
  else
    let a := s.reg64 (R.ECC_CLOG_ADDR t n)
    let s := { s with stor := { s.stor with clogCopies := s.stor.clogCopies ++ [(t, a, w)] } }
    let s := if bit w 30 then 
      s.journal 0x0020 2 t (Config.recordBody 0x0020 (leBytes 4 1 ++ leBytes 4 w.toNat ++ leBytes 8 a.toNat)) else s
    s.setReg (clogInfo t n) (setBit w 31 false)

/-- CLOG_HARVEST (R378, R387): every valid entry is copied into telemetry, UEs are journalled, and V is cleared. -/
def execClogHarvest (tile : Nat) (stuck : List Nat) (s : State) : Host.Outcome State Fault Refusal :=
  if !(lehrRuns s && tilePresent s.part tile && tileRun s tile) then ok s
  else
    let poisoned := stuck.filter fun a => match mget a s.mem.marks with | some .poison => true | _ => false
    ok (dutyDone 0 (fuseUpdate poisoned ((List.range 16).foldl (harvestOne tile) s)))

/-! ### Error injection and clearing (R376, R392) -/

/-- ERR_INJECT's checks of its body. -/
def injectArgs (s : State) (target tile arm double pos : Nat) : Bool :=
  decide (target ≤ 1) && decide (arm ≤ 1) && decide (double ≤ 1) && tilePresent s.part tile
    && (if target = 1 then tileKindOf tile == .mem && decide (pos ≤ 66) else decide (pos ≤ 71))
    && (match placeOf s.part (R.ECC_STAT tile) with | .regs _ _ => true | _ => false)

/-- ERR_INJECT (R392): the Gaffer arms ECC_INJ or MEMC_INJ. -/
def execErrInject (m : TcsMsg) (target tile arm double pos : Nat) (s : State) : Host.Outcome State Fault Refusal :=
  ok (serve { opcode := 0x0805 } m 0 (guarded m 25 false fun s =>
    if !injectArgs s target tile arm double pos then refuse .badArg s
    else if !answers s .gaffer tile then refuse .domainAsleep s
    else
      let a := if target = 1 then R.MEMC_INJ tile else R.ECC_INJ tile
      let s := s.setReg a (BitVec.ofNat 32 (arm * 2 ^ 31 + double * 2 ^ 30 + pos * 2 ^ 23))
      { st := .ok, payload := leBytes 4 (s.reg a).toNat ++ leBytes 4 0, state := s }) s)

/-- ECC_CLR (R376, R391). -/
def execEccClr (r : Requester) (tile : Nat) (value : Word) (s : State) : Host.Outcome State Fault Refusal :=
  ok (writeAnswer r (R.ECC_CLR tile) (leBytes 4 value.toNat) s)
/-- MEMC_CLR (R376, R393). -/
def execMemcClr (r : Requester) (tile : Nat) (value : Word) (s : State) : Host.Outcome State Fault Refusal :=
  ok (writeAnswer r (R.MEMC_CLR tile) (leBytes 4 value.toNat) s)

end Sys2Proof.Machine
end

