-- ==== Sys2Proof/Machine/Peers.lean ====
section
/-! DEFINITION. Peer entries and sessions (R47, R50, R51), the layer-2 blobs of an export (R58), and the importer's
side of a boundary hand-over (R52 to R59). Assumption log: 26 (DEDUCED), 27 (DEDUCED), 29 (DEDUCED), 42 (DEDUCED), 112
(DESIGN CHOICE). -/

namespace Sys2Proof.Machine

/-! ### Peer entries (R47) -/

/-- A peer entry with no session. -/
def Peer.fresh (b : PeerBody) (s : State) : Peer :=
  { cfg := b, st := .none, session := 0#32, key := 0#256, nonce := [], kem := 0, lastAuth := s.now, lastSent := s.now,
    endedAt := s.now, highSeq := 0, cache := [], exports := [], import_ := none, retries := [], sentSeq := 0,
    keepAt := s.now }

/-- The opener sends PEER_HELLO (R51). -/
def sendHello (s : State) (k : Nat) : State :=
  match s.peer k with
  | none => s
  | some p =>
    let x := s.takeFresh
    let body := fitBytes 32 (Config.nonce x.1) ++ leBytes 1 (k / 2) ++ leBytes 1 (k % 2) ++ leBytes 2 0
      ++ fitBytes 1184 (Config.kemKey x.1) ++ fitBytes 1312 Config.identityKey
    let s := x.2.setPeer k { p with st := .opening, session := 0#32, nonce := fitBytes 32 (Config.nonce x.1), kem := x.1,
                                    lastAuth := s.now }
    peerSend s k 0x0310 0 0 (body ++ fitBytes 2420 (Config.sign (Config.sha3 body)))

/-- Ranges of a PEER_SET (check 3). -/
def peerRange (s : State) (b : PeerBody) : Bool :=
  decide (b.endHi < 2) && decide (b.peerCorridor < 8) && iotPresent s.part b.iot && decide (b.port < 4)
    && (b.afamily == 4 || b.afamily == 6) && qidPresent s b.importQid && isHbm s b.l2Area && b.l2Area % 4096 == 0
    && b.l2Size % 4096 == 0 && decide (b.l2Size ≤ 268435456)

/-- The checks of a PEER_SET on a corridor end (R40, R47). -/
def peerGuard (m : TcsMsg) (corridor endHi : Nat) (range : State → Bool) (act : State → State) (s : State) : Reply :=
  if 8 ≤ corridor then refuse .badArg s
  else guarded m corridor false (fun s =>
    if !(decide (endHi < 2) && range s) then refuse .badArg s
    else if !mhas s.cor.corridors corridor || endBusy s (corridor * 2 + endHi) then refuse .badState s
    else refuse .ok (configWritten (act s))) s

/-- PEER_SET, ACTION 0 (R47): the entry is set, and its session starts. -/
def execPeerSet (m : TcsMsg) (b : PeerBody) (s : State) : Host.Outcome State Fault Refusal :=
  ok (serve { opcode := 0x0209 } m 0 (peerGuard m b.corridor b.endHi (fun s => peerRange s b) fun s =>
    let k := b.corridor * 2 + b.endHi
    let s := s.setPeer k (Peer.fresh b s)
    if b.endHi = 1 then sendHello s k else s) s)

/-- PEER_SET, ACTION 1 (R47). A clear of an entry that does not exist is refused with BAD_STATE (check 10). -/
def execPeerSetClear (m : TcsMsg) (corridor endHi : Nat) (s : State) : Host.Outcome State Fault Refusal :=
  ok (serve { opcode := 0x0209 } m 0 (fun s =>
    let k := corridor * 2 + endHi
    let r := peerGuard m corridor endHi (fun _ => true) (fun s => { s with peers := mdel k s.peers }) s
    if r.st = .ok ∧ !mhas s.peers k then refuse .badState s else r) s)

/-! ### Peer sessions (R51) -/

/-- The end a message of a peer session concerns. -/
def endOf (m : TcsMsg) : Option Nat :=
  match m.via with
  | .peer c hi => some (peerKey c.val hi)
  | _ => none

/-- The peer opcodes are refused with BAD_ARG anywhere else (R93). -/
def peerOp (opcode mbx : Nat) : OpInfo := { opcode := opcode, peerMbx := some mbx, host := false }

/-- A peer session ends: an export not yet accepted is a HANDOVER_TIMEOUT, an accepted hand-over completes (R51). -/
def endPeer (s : State) (k : Nat) (p : Peer) : State :=
  let s := s.setPeer k { p with st := .none, endedAt := s.now,
                                import_ := p.import_.filter fun i => i.run.isSome }
  p.exports.foldl (fun s x => if x.2.accepted then s else exportFails s k x.2 0x0012 .timeout 0) s

/-- The responder's answer to a PEER_HELLO (R51): a new session, its own key, and its signature over the HELLO payload
and its own. -/
def helloReply (m : TcsMsg) (k : Nat) (p : Peer) (s : State) : State :=
  let x := s.takeFresh
  let id := Config.sessionId x.1
  let ek := (m.payload.drop 36).take 1184
  let own := fitBytes 32 (Config.nonce x.1)
  let key := sessionKey "TCS-PEER" (Config.kemSecret ek x.1) (m.payload.take 32) own id
  let body := fitBytes 1088 (Config.kemCiphertext ek x.1) ++ own ++ leBytes 4 id.toNat ++ fitBytes 1312 Config.identityKey
  let s := x.2.setPeer k { p with st := .opening, session := id, key := key, highSeq := 0, cache := [], lastAuth := s.now }
  s.send { response s 0x0310 m 0 0 (body ++ fitBytes 2420 (Config.sign (Config.sha3 (m.payload ++ body)))) with key := none }

/-- PEER_HELLO at the responder (R51): its answer, or the message is dropped and counted; it ends a session the end
still has. In PARISON service it is answered NOT_READY (R536). -/
def helloAt (m : TcsMsg) (k : Nat) (good : Bool) (s : State) : State :=
  match s.peer k, framing m with
  | none, _ => peerDrop 2 s
  | some _, some n => peerDrop n s
  | some p, none =>
    if k % 2 = 1 then peerDrop 2 s
    else if m.session ≠ 0#32 ∨ m.tag ≠ 0#256 ∨ m.mbx ≠ 0 ∨ good = false then peerDrop 3 s
    else if s.parison then s.send { response s 0x0310 m Status.notReady.code 0 [] with key := none }
    else
      let s := if p.st = .none then s else endPeer s k p
      match s.peer k with
      | some p => helloReply m k p s
      | none => s

/-- PEER_HELLO (R51): `idOk` and `sigOk` tell whether the opener's key hash and signature verify. -/
def execPeerHello (m : TcsMsg) (idOk sigOk : Bool) (s : State) : Host.Outcome State Fault Refusal :=
  match endOf m with
  | some k => if gafferUp s && peerForm m then ok (helloAt m k (idOk && sigOk) s) else ok s
  | none => ok (serve (peerOp 0x0310 0) m 0 (refuse .badArg) s)

/-- PEER_HELLO_RESPONSE (R51): the opener checks the responder (`authOk`: key hash and signature verify), forms the session key from its payload, and sends
PEER_CONFIRM. -/
def execPeerHelloResponse (corridor : Fin 8) (hiEnd : Bool) (session : Word) (payload : List Byte) (authOk : Bool)
    (s : State) : Host.Outcome State Fault Refusal :=
  let k := peerKey corridor.val hiEnd
  match s.peer k with
  | some p =>
    if !gafferUp s || p.st != .opening || !hiEnd then ok s
    else if !authOk then ok (peerDrop 3 s)
    else
      let key := sessionKey "TCS-PEER" (Config.kemOpen p.kem (payload.take 1088)) p.nonce ((payload.drop 1088).take 32) session
      let s := s.setPeer k { p with session := session, key := key, highSeq := 0, cache := [], sentSeq := 0, lastAuth := s.now }
      ok (peerSend s k 0x0311 0 0 [])
  | none => ok (peerDrop 2 s)

/-- PEER_CONFIRM (R51): the responder's session becomes live. -/
def execPeerConfirm (m : TcsMsg) (s : State) : Host.Outcome State Fault Refusal :=
  match endOf m with
  | none => ok (serve (peerOp 0x0311 0) m 0 (refuse .badArg) s)
  | some k =>
    match s.peer k with
    | some p =>
      if gafferUp s && p.st == .opening && k % 2 == 0 then
        if !peerForm m then ok s
        else if (framing m).isSome || m.session != p.session then ok (peerDrop ((framing m).getD 2) s)
        else if !tagGood p.key 0x0311 0 m then ok (peerDrop 3 s)
        else if m.mbx ≠ 0 then ok (s.respond 0x0311 m .badArg)
        else if s.parison then ok (s.respond 0x0311 m .notReady)
        else
          let s := s.setPeer k { p with st := .live, lastAuth := s.now, keepAt := s.now, highSeq := m.seq.toNat }
          ok (s.respond 0x0311 m .ok)
      else ok (serve (peerOp 0x0311 0) m 0 (refuse .badState) s)
    | none => ok (serve (peerOp 0x0311 0) m 0 (refuse .badState) s)

/-- PEER_CONFIRM_RESPONSE (R51): the opener's session becomes live. -/
def execPeerConfirmResponse (corridor : Fin 8) (hiEnd : Bool) (m : TcsMsg) (status : Nat) (s : State) :
    Host.Outcome State Fault Refusal :=
  let k := peerKey corridor.val hiEnd
  match s.peer k with
  | some p =>
    if !gafferUp s || p.st != .opening || !hiEnd || !peerForm m || status ≠ 0 then ok s
    else if m.session ≠ p.session then ok (peerDrop 2 s)
    else if !tagGood p.key 0x0311 status m then ok (peerDrop 3 s)
    else ok (s.setPeer k { p with st := .live, lastAuth := s.now, keepAt := s.now })
  | none => ok (peerDrop 2 s)

/-- PEER_KEEPALIVE received (R51). -/
def execPeerKeepalive (m : TcsMsg) (s : State) : Host.Outcome State Fault Refusal :=
  ok (serve (peerOp 0x0312 0) m 0 (unguarded false (refuse .ok)) s)

/-- PEER_KEEPALIVE_SEND (R51): every 1 s. -/
def execPeerKeepaliveSend (corridor : Fin 8) (hiEnd : Bool) (s : State) : Host.Outcome State Fault Refusal :=
  let k := peerKey corridor.val hiEnd
  match s.peer k with
  | some p =>
    if p.st == .live && decide (p.keepAt + 1000000000 ≤ s.now) then
      ok (peerSend (s.setPeer k { p with keepAt := s.now }) k 0x0312 0 0 [])
    else ok s
  | none => ok s

/-- PEER_SESSION_TIMEOUT (R51): 5 s without an authenticated message. -/
def execPeerSessionTimeout (corridor : Fin 8) (hiEnd : Bool) (s : State) : Host.Outcome State Fault Refusal :=
  let k := peerKey corridor.val hiEnd
  match s.peer k with
  | some p => if p.st != .none && decide (p.lastAuth + 5000000000 ≤ s.now) then ok (endPeer s k p) else ok s
  | none => ok s

/-- PEER_SESSION_REOPEN (R51): the opener opens a new session 1 s later. -/
def execPeerSessionReopen (corridor : Fin 8) (hiEnd : Bool) (s : State) : Host.Outcome State Fault Refusal :=
  let k := peerKey corridor.val hiEnd
  match s.peer k with
  | some p =>
    if gafferUp s && p.st == .none && hiEnd && decide (p.endedAt + 1000000000 ≤ s.now) then ok (sendHello s k) else ok s
  | none => ok s

/-! ### The exporter (R53, R58) -/

/-- RUN_L2_DATA (R58): DSP software names a blob of an export in progress. One it has named and the Gaffer has sent
cannot be named again: BAD_STATE (log entry 112). -/
def execRunL2Data (m : TcsMsg) (run kind len addr : Nat) (s : State) : Host.Outcome State Fault Refusal :=
  ok (serve { opcode := 0x0309, onchip := true, host := false } m 0 (fun s =>
    if s.parison then refuse .notReady s
    else if !(kind == 1 || kind == 2) || decide (16777216 < len) || !isHbm s addr || addr % 64 != 0 then refuse .badArg s
    else match s.run run with
      | none => refuse .badState s
      | some r =>
        match exportOf s run r with
        | none => refuse .badState s
        | some e =>
          if kind = 1 then
            if e.recordSent then refuse .badState s
            else refuse .ok (sendRecord (modExport s (exportKey s run r) run fun e => { e with ctx := some (len, addr) }) run r)
          else if e.deltaSent then refuse .badState s
          else refuse .ok (sendDelta (modExport s (exportKey s run r) run fun e => { e with delta := some (len, addr) }) run r)) s)

/-- EXPORT_L2_WAIT_EXPIRY (R58): after 5 ms the record goes without a context blob. -/
def execExportL2WaitExpiry (corridor : Fin 8) (hiEnd : Bool) (s : State) : Host.Outcome State Fault Refusal :=
  let one (s : State) (x : Nat × Export) : State :=
    match s.run x.1 with
    | some r => if !x.2.recordSent && decide (x.2.started + 5000000 ≤ s.now) then sendRecord s x.1 r else s
    | none => s
  match s.peer (peerKey corridor.val hiEnd) with
  | some p => ok (p.exports.foldl one s)
  | none => ok s

/-- EXPORT_REPLY_RECEIVE (R52, R53): ACCEPT, or a refusal, for the export whose RUN_IMPORT had the reply's SEQ. -/
def execExportReplyReceive (corridor : Fin 8) (hiEnd : Bool) (m : TcsMsg) (status peerRun : Nat) (s : State) :
    Host.Outcome State Fault Refusal :=
  let k := peerKey corridor.val hiEnd
  match s.peer k with
  | none => ok (peerDrop 2 s)
  | some p =>
    if !peerForm m then ok s
    else if p.st != .live || m.session != p.session then ok (peerDrop 2 s)
    else if !tagGood p.key 0x0304 status m then ok (peerDrop 3 s)
    else
      let s := s.setPeer k { p with lastAuth := s.now }
      match (p.exports.map Prod.snd).find? fun e => e.seq == m.seq.toNat with
      | none => ok s
      | some e =>
        if !e.recordSent || e.accepted || decide (e.sTime < s.devNs + 10000000) then ok s
        else if status = 0 then
          let s := modExport s k e.run fun e => { e with accepted := true, peerRun := peerRun }
          ok (s.modRun e.run fun r => { r with exported := some (e.sTime + r.slot s) })
        else ok (exportFails s k e 0x0011 .refused status)

/-- HANDOVER_TIMEOUT (R53): no reply by S − 10 ms. -/
def execHandoverTimeout (corridor : Fin 8) (hiEnd : Bool) (s : State) : Host.Outcome State Fault Refusal :=
  let k := peerKey corridor.val hiEnd
  let one (s : State) (x : Nat × Export) : State :=
    if !x.2.accepted && decide (x.2.sTime ≤ s.devNs + 10000000) then exportFails s k x.2 0x0012 .timeout 0 else s
  match s.peer k with
  | some p => ok (p.exports.foldl one s)
  | none => ok s

/-- A retry of run `n` at end `k` still makes sense: the run is near that end and not exported (R53). -/
def retryHolds (s : State) (k n : Nat) : Bool :=
  match s.run n with
  | some r => r.ending == 0 && r.exported.isNone && (exportOf s n r).isNone && r.endKey s == k && withinMargin s r
  | none => false

/-- HANDOVER_RETRY (R53): a new export of the first run that is due, while it is still near the end; others that are due
and no longer near it are forgotten. -/
def execHandoverRetry (corridor : Fin 8) (hiEnd : Bool) (s : State) : Host.Outcome State Fault Refusal :=
  let k := peerKey corridor.val hiEnd
  match s.peer k with
  | some p =>
    let keep := p.retries.filter fun x => decide (s.now < x.2) || retryHolds s k x.1
    let s := s.setPeer k { p with retries := keep }
    match keep.find? fun x => decide (x.2 ≤ s.now) with
    | some x =>
      match s.run x.1 with
      | some r => if p.st == .live then ok (exportStart s x.1 r none) else ok s
      | none => ok s
    | none => ok s
  | none => ok s

/-! ### The importer (R55, R57 to R59) -/

/-- A carrier entry equals a travelling-cell carrier of corridor `c`: its number (R57). -/
def matchEntry (s : State) (c : Nat) (e : CarrierEntry) : Option Nat :=
  ((travelling s c).find? fun x => x.2.std == e.std && x.2.scs == e.scs && x.2.bw == e.bw && x.2.dl == e.dl
    && x.2.ul == e.ul).map Prod.fst

/-- Ranges of a RUN_IMPORT (check 3, R57); its window has to fit on the corridor's RUs (R183). -/
def importRange (s : State) (c : Nat) (b : ImportBody) : Bool :=
  b.ver == 1 && b.corridor == c && decide (b.dir < 2) && decide (1 ≤ b.winSize) && decide (b.winSize ≤ 7)
    && decide (b.combMode < 2) && decide (1 ≤ b.carriers.length) && decide (b.carriers.length ≤ 16)
    && decide (b.hyst ≤ 10000) && decide (b.lead ≤ 500) && (b.coast == 0 || (decide (5 ≤ b.coast) && decide (b.coast ≤ 600)))
    && decide (b.txEn.toNat < 2) && b.atts.length == 5 && b.atts.all (fun a => decide (a.1.toNat ≤ 6000))
    && decide (b.winSize ≤ (chainages s c).length) && (anchorOf s c).isSome

/-- Pairs of a RUN_IMPORT (R55). -/
def importPairs (b : ImportBody) : Bool :=
  isPair b.win b.winC && isPair b.txEn b.txEnC && b.atts.all (fun a => isPair a.1 a.2)
    && b.carriers.all fun e => isPair e.dl e.dlC && isPair e.ul e.ulC

/-- The checks of a RUN_IMPORT at end `k` (R55, R57, R59); the area holds both blobs at the L2_LEN stated (log entry
112). -/
def importCheck (s : State) (k : Nat) (p : Peer) (b : ImportBody) : Status :=
  if p.import_.isSome then .busy
  else if s.parison then .notReady
  else if !importRange s (k / 2) b then .badArg
  else if !importPairs b then .cpairMismatch
  else if ((b.carriers.find? fun e => e.anchor).bind (matchEntry s (k / 2))).isNone then .badArg
  else if (freeRun s).isNone then .noResource
  else if p.cfg.l2Size < 2 * b.l2Len then .noResource
  else .ok

/-- Bytes that have arrived of a blob without a hole, from its chunks. -/
def arrived (l : List (Nat × Nat)) : Nat :=
  (sortBy (fun x => (x.1, x.2, 0)) l).foldl (fun n x => if x.1 ≤ n then max n (x.1 + x.2) else n) 0

/-- Push an IMPORT_QID entry for a complete blob (R58). -/
def pushBlobEntry (s : State) (p : Peer) (run kind len addr sTime : Nat) : State :=
  (pushQ .gaffer p.cfg.importQid (leBytes 1 run ++ leBytes 1 kind ++ leBytes 2 0 ++ leBytes 4 len ++ leBytes 8 addr
    ++ leBytes 8 sTime ++ leBytes 8 0) s).2

/-- Create the run of an import, and answer ACCEPT (R59, R183). -/
def acceptImport (s : State) (k : Nat) (p : Peer) (i : Import) : State :=
  match freeRun s, anchorOf s (k / 2) with
  | some n, some a =>
    let b := i.body
    let f := s.takeFresh
    let s := f.2
    let home := homeTile s f.1
    let t := slotNs a.2
    let r : Run := { Run.fresh (k / 2) home (freeCtx s home f.1) a.1 with
      dir := b.dir, winSize := b.winSize, joinSlots := 1, combMode := b.combMode,
      hyst := if b.hyst = 0 then 1000 else b.hyst, lead := if b.lead = 0 then 50 else b.lead,
      coast := if b.coast = 0 then 50 else b.coast, statusQid := p.cfg.importQid, since := s.now,
      boundary := s.devNs / t * t, import_ := some 0, importS := some (b.sTime + t), endHi := k % 2 == 1 }
    let s := startRun s n r { x := b.pos, v := b.speed, a := b.accel } b.fc 1 (b.atts.map Prod.fst) 0#32
    let s := ctxPut s r ctxT 8 (b.tState : Nat)
    let s := s.setPeer k { p with import_ := some { i with run := some n } }
    let s := if b.l2Len = 0 then s else pushBlobEntry s p n 1 b.l2Len p.cfg.l2Area b.sTime
    s.respond 0x0304 i.msg .ok (leBytes 1 n ++ leBytes 1 home ++ leBytes 6 0)
  | _, _ => ((s.setPeer k { p with import_ := none }).raise 0x0010 1 (k / 2) []).respond 0x0304 i.msg .noResource

/-- RUN_IMPORT (R57, R59): the export record arrives; it is answered once the context blob is complete. -/
def execRunImport (m : TcsMsg) (b : ImportBody) (s : State) : Host.Outcome State Fault Refusal :=
  match accept (peerOp 0x0304 1) m (7 + 2 * b.carriers.length) s, endOf m with
  | .done s, _ => ok s
  | .go s, none => ok (s.respond 0x0304 m .badArg)
  | .go s, some k =>
    match s.peer k with
    | none => ok s
    | some p =>
      let c := importCheck s k p b
      if c = .noResource ∧ (freeRun s).isNone = true then ok ((s.raise 0x0010 1 (k / 2) []).respond 0x0304 m c)
      else if c ≠ .ok then ok (s.respond 0x0304 m c)
      else
        let i : Import := { msg := m, body := b, run := none, ctxParts := [], deltaParts := [], deltaOk := false }
        if b.l2Len = 0 then ok (acceptImport s k p i)
        else ok (s.setPeer k { p with import_ := some i })

/-- RUN_BLOB (R58): a chunk goes to the layer-2 area; the context blob's last chunk brings the answer to
RUN_IMPORT. -/
def execRunBlob (m : TcsMsg) (run kind offset : Nat) (data : List Byte) (s : State) : Host.Outcome State Fault Refusal :=
  match accept (peerOp 0x0308 2) m 0 s, endOf m with
  | .done s, _ => ok s
  | .go s, none => ok (s.respond 0x0308 m .badArg)
  | .go s, some k =>
    if s.parison then ok (s.respond 0x0308 m .notReady)
    else match (s.peer k), (s.peer k).bind Peer.import_ with
    | some p, some i =>
      let base := if kind = 1 then p.cfg.l2Area else p.cfg.l2Area + i.body.l2Len
      let room := if kind = 1 then i.body.l2Len else p.cfg.l2Size - i.body.l2Len
      if !(kind == 1 || kind == 2) || decide (8176 < data.length) || decide (room < offset + data.length) then
        ok (s.respond 0x0308 m .badArg)
      else
        let a := base + offset
        let s := memWrite .gaffer (placeOf s.part a) a data s
        let i := if kind = 1 then { i with ctxParts := i.ctxParts ++ [(offset, data.length)] }
                 else { i with deltaParts := i.deltaParts ++ [(offset, data.length)] }
        let s := (s.setPeer k { p with import_ := some i }).respond 0x0308 m .ok
        match s.peer k with
        | some p => if kind = 1 && i.run.isNone && arrived i.ctxParts == i.body.l2Len then ok (acceptImport s k p i) else ok s
        | none => ok s
    | _, _ => ok (s.respond 0x0308 m .badState)

/-- RUN_DELTA (R58): the delta record counts as received when its hash verifies. -/
def execRunDelta (m : TcsMsg) (run : Nat) (hash : List Byte) (s : State) : Host.Outcome State Fault Refusal :=
  match accept (peerOp 0x0307 2) m 0 s, endOf m with
  | .done s, _ => ok s
  | .go s, none => ok (s.respond 0x0307 m .badArg)
  | .go s, some k =>
    if s.parison then ok (s.respond 0x0307 m .notReady)
    else match (s.peer k), (s.peer k).bind Peer.import_ with
    | some p, some i =>
      let base := p.cfg.l2Area + i.body.l2Len
      let got := arrived i.deltaParts
      if hash == fitBytes 32 (Config.sha3 (s.bytes base got)) then
        let s := s.setPeer k { p with import_ := some { i with deltaOk := true } }
        let s := pushBlobEntry s p (i.run.getD 0) 2 got base i.body.sTime
        ok (s.respond 0x0307 m .ok)
      else ok (s.respond 0x0307 m .ok)
    | _, _ => ok (s.respond 0x0307 m .badState)

end Sys2Proof.Machine
end

