-- ==== Sys2Proof/Machine/Reset.lean ====
section
/-! DEFINITION. A reset of the whole device (R514, R523, R578, R580): what MRAM, NAND and the fuses hold outlives it,
everything else takes its reset value. Assumption log: 81 (DESIGN CHOICE), 96 (DEDUCED). -/

namespace Sys2Proof.Machine

/-- An address in MRAM. -/
def inMram (p : Part) (a : Nat) : Bool := placeOf p a == .mram

/-- A block's patrol is timed anew after a reset. -/
def blockKept (x : Nat × NandBlock) : Nat × NandBlock := (x.1, { x.2 with patrolAt := 0 })

/-- Storage after a reset: the journal's NAND and staging parts, image slots and blocks (R559, R561, R565). -/
def storKept (x : Storage) : Storage :=
  { Storage.reset with jNext := x.jNext, chain := x.chain, staging := x.staging, nand := x.nand, jPage := x.jPage,
                       jCap := x.jCap, pages := x.pages, factoryBad := x.factoryBad, grownBad := x.grownBad,
                       unreadable := x.unreadable, baseChain := x.baseChain, slots := x.slots,
                       blocks := x.blocks.map blockKept,
                       endurance := x.endurance, genA := x.genA, genB := x.genB }

/-- Bring-up state after a reset: versions, BOOTS, slots, certificate, keys and the debug fuse (R540, R545, R551). -/
def bootKept (x : Boot) : Boot :=
  { Boot.reset with svMin := x.svMin, boots := x.boots, slotA := x.slotA, slotB := x.slotB, cert := x.cert,
                    keys := x.keys, debugNow := x.debugNow, debugNext := x.debugNext, sealed := x.sealed }

/-- Memory after a reset: MRAM alone keeps its bytes, and the soft-fuse entries stand. -/
def memKept (p : Part) (x : MemState) : MemState :=
  { MemState.reset with cells := x.cells.filter fun c => inMram p c.1, marks := x.marks.filter fun c => inMram p c.1,
                        softFuses := x.softFuses }

/-- The device is reset; WAKE_CAUSE will read `cause`. Commands that wait and what has already gone out stand. -/
def devReset (s : State) (cause : Word) : State :=
  let r := State.reset
  let tcs := { Tcs.reset with netStored := s.tcs.netStored, nextSession := s.tcs.nextSession }
  let time := { TimeState.reset with profStored := s.time.profStored, domStored := s.time.domStored, stored := s.time.stored }
  let power := { Power.reset with pmbStored := s.power.pmbStored, khzStored := s.power.khzStored }
  let peer (x : Nat × Peer) : Nat × Peer := (x.1, Peer.fresh x.2.cfg r)
  let t : State := { r with
    part := s.part, mem := memKept s.part s.mem, peers := s.peers.map peer, tcs := tcs, out := s.out,
    boot := bootKept s.boot, stor := storKept s.stor, lines := s.lines, ruTrims := s.ruTrims, corStored := s.corStored,
    time := time, power := power, fresh := s.fresh, pending := s.pending }
  t.setReg R.WAKE_CAUSE cause

end Sys2Proof.Machine
end

