-- ==== Sys2Proof/Machine/Storage.lean ====
section
/-! DEFINITION. NAND, image slots, the journal and the Lehr (R552 to R572). Assumption log: 100 (DESIGN CHOICE), 101
(DEDUCED), 102 (DESIGN CHOICE), 104 (DEDUCED). -/

namespace Sys2Proof.Machine

/-- Change storage. -/
def State.modStor (s : State) (f : Storage → Storage) : State := { s with stor := f s.stor }
/-- A STORAGE record (R561): what happened, to which target and block. -/
def storRecord (s : State) (what target block : Nat) : State :=
  s.journal 0x0060 1 ctlH (Config.recordBody 0x0060 (leBytes 2 what ++ leBytes 2 target ++ leBytes 4 block))

/-! ### Blocks (R553, R556, R557) -/

/-- Blocks of a use. -/
def blocksOf (s : State) (u : BlockUse) : List (Nat × NandBlock) := s.stor.blocks.filter fun x => x.2.use == u
/-- Targets that have blocks. -/
def nandTargets (s : State) : List Nat :=
  (List.range 16).filter fun t => s.stor.blocks.any fun x => x.2.target == t
/-- Free spares of a target. -/
def sparesOf (s : State) (t : Nat) : Nat := ((blocksOf s .spare).filter fun x => x.2.target == t).length
/-- A target without spares refuses writes (R557). -/
def targetRo (s : State) (t : Nat) : Bool := sparesOf s t == 0

/-- NVS_SPARE, SPARE_LOW and TARGET_RO follow the spares (R557, R572). -/
def spareCheck (s : State) : State :=
  match leastBy (fun t => (sparesOf s t, t, 0)) (nandTargets s) with
  | none => s
  | some t =>
    let n := sparesOf s t
    let s := s.setReg R.NVS_SPARE (BitVec.ofNat 32 (min n 65535 * 65536 + t))
    let s := if n ≤ 16 && !s.flag R.NVS_STAT 29 then s.orReg R.NVS_EVT 2 else s
    let ro := n == 0
    (s.setField R.NVS_STAT 29 29 (b2n (decide (n ≤ 16)))).setField R.NVS_STAT 28 28 (b2n ro)

/-- NVS_ERASE and NVS_CULLET follow the blocks (R572). -/
def nvsCounts (s : State) : State :=
  let l := (s.stor.blocks.filter fun x => x.2.use != .retired).map fun x => min 65535 x.2.erases
  let hi := l.foldl max 0
  let lo := l.foldl min (l.headD 0)
  (s.setReg R.NVS_ERASE (BitVec.ofNat 32 (hi * 65536 + lo))).setReg R.NVS_CULLET
    (BitVec.ofNat 32 (min 65535 s.stor.factoryBad * 65536 + min 65535 s.stor.grownBad))

/-- Replace a block. -/
def setBlock (s : State) (n : Nat) (x : NandBlock) : State := s.modStor fun y => { y with blocks := mset n x y.blocks }

/-- References to block `n` go to block `m`: readable data was moved there. -/
def moveData (s : State) (n m : Nat) : State :=
  let sub (k : Nat) : Nat := if k = n then m else k
  let slot (x : Nat × ImgSlot) : Nat × ImgSlot := (x.1, { x.2 with blocks := x.2.blocks.map sub })
  s.modStor fun y => { y with
    nand := y.nand.map fun x => (sub x.1, x.2), slots := y.slots.map slot, jPage := y.jPage.map fun x => (sub x.1, x.2) }

/-- The free block that a write takes: lowest erase count, on a target that takes writes (R556, R557). -/
def freeBlock (s : State) : Option Nat :=
  (leastBy (fun x => (x.2.erases, x.1, 0)) ((blocksOf s .free).filter fun x => !targetRo s x.2.target)).map Prod.fst

/-- What takes the place of a retired block: a spare of its target, else a free block of a target that takes writes
(R557). -/
def replacement (s : State) (target : Nat) : Option Nat :=
  match (blocksOf s .spare).find? fun y => y.2.target == target with
  | some y => some y.1
  | none => freeBlock s

/-- A block enters the cullet pool; another takes its place and its readable data (R557). A target whose last spare this
was is read-only from then on, and journalled. -/
def retireBlock (s : State) (n : Nat) : State :=
  match mget n s.stor.blocks with
  | none => s
  | some x =>
    if x.use = .retired then s
    else
      let wasRo := targetRo s x.target
      let s := setBlock s n { x with use := .retired }
      let s := match (replacement s x.target).bind fun m => (mget m s.stor.blocks).map fun y => (m, y) with
        | some (m, y) => moveData (setBlock s m { y with use := x.use, patrolAt := s.now }) n m
        | none => s
      let s := s.modStor fun y => { y with grownBad := y.grownBad + 1 }
      let s := storRecord (s.orReg R.NVS_EVT 3) 1 x.target n
      spareCheck (nvsCounts (if targetRo s x.target && !wasRo then storRecord s 2 x.target 0 else s))

/-- Erase a block: it becomes free, or is retired where the erase fails or it is worn (R556, R557). -/
def eraseBlock (s : State) (n : Nat) (good : Bool) : State :=
  match mget n s.stor.blocks with
  | none => s
  | some x =>
    let s := setBlock s n { x with use := .free, erases := x.erases + 1, softHits := 0 }
    if !good || (s.stor.endurance != 0 && decide (s.stor.endurance ≤ x.erases + 1)) then retireBlock s n else nvsCounts s

/-- Take a free block for a use. -/
def takeBlock (s : State) (u : BlockUse) : Option Nat × State :=
  match freeBlock s with
  | some n => match mget n s.stor.blocks with
    | some x => (some n, setBlock s n { x with use := u, patrolAt := s.now })
    | none => (none, s)
  | none => (none, s)

/-- Take as many free blocks as are missing. -/
def takeBlocks : Nat → BlockUse → State → List Nat × State
  | 0, _, s => ([], s)
  | n + 1, u, s =>
    match takeBlock s u with
    | (some b, s) => let r := takeBlocks n u s; (b :: r.1, r.2)
    | (none, s) => ([], s)

/-- Bytes of a block. -/
def blockBytes (s : State) : Nat := s.stor.pages * 16384

/-! ### The NAND at boot (R552, R553) -/

/-- The blocks of a fresh layout: block 0 of each target holds the partition table, 2 % of its good blocks are spares,
the others are free. -/
def layTarget (l : List (Nat × Nat)) (t : Nat) : List (Nat × NandBlock) :=
  let mine := (l.filter fun x => x.2 == t).map Prod.fst
  let spares := mine.length * 2 / 100
  let use (i : Nat) : BlockUse := if i = 0 then .table else if mine.length ≤ i + spares then .spare else .free
  (List.range mine.length).zip mine |>.map fun x =>
    (x.2, { target := t, use := use x.1, erases := 0, softHits := 0, patrolAt := 0 })

/-- Format the NAND (R553). -/
def formatNand (b : BootInfo) (s : State) : State :=
  let l := (List.range 16).flatMap (layTarget b.blocks)
  let map := l.foldl (fun m x => mset x.1 x.2 m) []
  let per := b.pages * 16384
  let free := (l.filter fun x => x.2.use == .free).length
  let image := if per = 0 then 0 else ceilDiv (4 * 2 ^ 30) per
  let cap := if per = 0 then 0 else min (32 * 2 ^ 30 / per) (free - image)
  let s := s.modStor fun y => { y with
    blocks := map, nand := [], jPage := none, jCap := cap, pages := b.pages, endurance := b.endurance,
    factoryBad := b.factoryBad.length, grownBad := 0, unreadable := [],
    slots := y.slots.filter fun x => decide (0xFF00 ≤ x.1) }
  storRecord s 3 0 0

/-- The NVS controller and the partition table at boot (R552, R553, R572). -/
def nandBoot (b : BootInfo) (s : State) : State :=
  let s := b.refusedTargets.foldl (fun s t => storRecord s 4 t 0) s
  let s := s.setReg R.NVS_GEOM (BitVec.ofNat 32 (b.targets1 % 256 * 2 ^ 24 + b.targets0 % 256 * 2 ^ 16 + b.capacityGiB % 65536))
  let s := if b.tableOk && !s.stor.blocks.isEmpty then s else formatNand b s
  spareCheck (nvsCounts ((s.setField R.NVS_STAT 31 31 1).setField R.NVS_STAT 30 30 1))

/-! ### Image slots (R560) -/

/-- An EMPTY slot. -/
def ImgSlot.empty : ImgSlot := { st := 0, total := 0, written := 0, data := [], blocks := [] }
/-- An image slot. -/
def State.slot (s : State) (n : Nat) : ImgSlot := mgetD ImgSlot.empty s.stor.slots n
/-- Replace an image slot. -/
def setSlotImg (s : State) (n : Nat) (x : ImgSlot) : State := s.modStor fun y => { y with slots := mset n x y.slots }

/-- The largest image of a slot; none where no slot has the number. -/
def slotSize (n : Nat) : Option Nat :=
  if n < 64 then some (64 * 2 ^ 20) else if n = 0xFF00 ∨ n = 0xFF01 then some (5 * 2 ^ 20)
  else if n = 0xFF02 then some (2 * 2 ^ 20) else none

/-- A Gaffer image passes R540. -/
def gafferOk (s : State) (g : GafferImage) : Bool :=
  g.present && g.sigOk && g.builtFor && decide (s.boot.svMin ≤ g.version)

/-- A Gaffer slot holds an image, or none that is valid. -/
def setGafferSlot (s : State) (n : Nat) (g : GafferImage) : State :=
  { s with boot := if n = 0xFF00 then { s.boot with slotA := g } else { s.boot with slotB := g } }

/-- The first chunk discards what the slot held (R560, R566). -/
def discardSlot (s : State) (n total : Nat) (eraseOk : Bool) : State :=
  let s := (s.slot n).blocks.foldl (fun s b => eraseBlock s b eraseOk) s
  let s := if n = 0xFF00 ∨ n = 0xFF01 then setGafferSlot s n GafferImage.none else s
  setSlotImg s n { ImgSlot.empty with st := 1, total := total }

/-- A failed program retires the block and the page is programmed in another (R557). -/
def programBlock (s : State) (b : Option Nat) (good : Bool) : State :=
  match b with
  | some n => if good then s else retireBlock s n
  | none => s

/-- The response of IMAGE_STAGE. -/
def stagePayload (s : State) (n : Nat) (hash : List Byte) : List Byte :=
  let x := s.slot n
  leBytes 1 x.st ++ leBytes 3 0 ++ leBytes 4 x.written ++ (if hash.isEmpty then [] else fitBytes 32 hash)

/-- Write one chunk into a slot that takes it; in recovery a verified image restarts the device (R541). -/
def stageChunk (n : Nat) (last : Bool) (data : List Byte) (g : GafferImage) (programOk : Bool) (s : State) : Reply :=
  let x := s.slot n
  let need := if n < 64 ∧ blockBytes s ≠ 0 then ceilDiv (x.written + data.length) (blockBytes s) - x.blocks.length else 0
  let got := takeBlocks need .image s
  if n < 64 ∧ (blockBytes s = 0 ∨ got.1.length < need) then refuse .noResource s
  else
    let s := setSlotImg got.2 n { x with written := x.written + data.length, data := x.data ++ data, blocks := x.blocks ++ got.1 }
    let s := if n < 64 then programBlock s (s.slot n).blocks.getLast? programOk else s
    if !last then { st := .ok, payload := stagePayload s n [], state := s }
    else
      let gaffer := n == 0xFF00 || n == 0xFF01
      if gaffer && !gafferOk s g then
        let s := setSlotImg s n { s.slot n with st := 3 }
        { st := .authFail, payload := stagePayload s n [], state := s }
      else
        let s := setSlotImg s n { s.slot n with st := 2 }
        let s := if gaffer then setGafferSlot s n g else s
        { st := .ok, payload := stagePayload s n (Config.sha3 (s.slot n).data), state := s }

/-- The slot is the one the device booted from. -/
def bootedFrom (s : State) (n : Nat) : Bool :=
  !s.boot.recovery && ((n == 0xFF00 && s.boot.bootedSlot == some 0) || (n == 0xFF01 && s.boot.bootedSlot == some 1))

/-- The checks and effect of IMAGE_STAGE (R541, R560). -/
def stageReply (slot flags offset total : Nat) (data : List Byte) (g : GafferImage) (programOk eraseOk : Bool)
    (s : State) : Reply :=
  match slotSize slot with
  | none => refuse .badArg s
  | some max =>
    let first := flags % 2 == 1
    let last := flags / 2 % 2 == 1
    if max < total ∨ (!last ∧ data.length % 16 ≠ 0) then refuse .badArg s
    else if s.boot.recovery ∧ slot < 0xFF00 ∨ s.boot.recovery ∧ slot = 0xFF02 then refuse .notReady s
    else if bootedFrom s slot then refuse .badState s
    else if !first ∧ (s.slot slot).st ≠ 1 then refuse .badState s
    else
      let written := if first then 0 else (s.slot slot).written
      let whole := if first then total else (s.slot slot).total
      if offset ≠ written ∨ whole ≠ total ∨ total < offset + data.length ∨ (last ∧ offset + data.length ≠ total) then
        refuse .badArg s
      else stageChunk slot last data g programOk (if first then discardSlot s slot total eraseOk else s)

/-- In recovery a verified image restarts the device (R541). -/
def recoveryRestart (before : State) (s : State) : State :=
  if before.boot.recovery && (s.boot.slotA != before.boot.slotA && gafferOk s s.boot.slotA
      || s.boot.slotB != before.boot.slotB && gafferOk s s.boot.slotB) then devReset s (BitVec.ofNat 32 (2 ^ 28))
  else s

/-- IMAGE_STAGE (R560). In recovery the ROM serves it without a semaphore, since SEM_ACQUIRE is not served there
(R541). -/
def execImageStage (m : TcsMsg) (slot flags offset total : Nat) (data : List Byte) (g : GafferImage)
    (programOk eraseOk : Bool) (s : State) : Host.Outcome State Fault Refusal :=
  let act := stageReply slot flags offset total data g programOk eraseOk
  ok (recoveryRestart s (serve { opcode := 0x0602 } m 0 (fun s => if s.boot.recovery then act s else guarded m 26 true act s) s))

/-! ### The journal in NAND (R561 to R564) -/

/-- The next page's records: as many staged ones as fit into 16 KiB. -/
def pageRecords : Nat → List JRec → List JRec
  | _, [] => []
  | n, r :: l => if jLen r ≤ n then r :: pageRecords (n - jLen r) l else []

/-- The oldest journal block is erased, and its last CHAIN kept (R562). -/
def dropOldest (s : State) (eraseOk : Bool) : State :=
  match s.stor.nand with
  | [] => s
  | (b, _) :: _ =>
    let gone := s.stor.nand.filter fun x => x.1 == b
    let chain := (gone.getLast?.map fun x => x.2.chain).getD s.stor.baseChain
    let s := s.modStor fun y => { y with nand := y.nand.filter fun x => x.1 != b, baseChain := chain,
                                         unreadable := y.unreadable.filter fun j => !gone.any fun x => x.2.jseq == j }
    eraseBlock s b eraseOk

/-- The block that the next journal page goes to. -/
def journalBlock (s : State) (eraseOk : Bool) : Option (Nat × Nat) × State :=
  match s.stor.jPage with
  | some (b, n) =>
    if n < s.stor.pages then (some (b, n), s)
    else
      let s := if s.stor.jCap ≤ (blocksOf s .journal).length then dropOldest s eraseOk else s
      match takeBlock s .journal with
      | (some b, s) => (some (b, 0), s)
      | (none, s) => (none, s)
  | none =>
    match takeBlock s .journal with
    | (some b, s) => (some (b, 0), s)
    | (none, s) => (none, s)

/-- Copy one page of staged records to NAND. -/
def copyPage (programOk eraseOk : Bool) (s : State) : State :=
  let rs := pageRecords 16384 s.stor.staging
  match journalBlock s eraseOk with
  | (none, s) => s
  | (some (b, n), s) =>
    let s := s.modStor fun y => { y with
      nand := y.nand ++ rs.map fun r => (b, r), staging := y.staging.drop rs.length, jPage := some (b, n + 1) }
    programBlock s (some b) programOk

/-- JOURNAL_COPY (R557, R563): a full page, or what is staged every 1 s; writes held by a supply warning wait (R521). -/
def execJournalCopy (programOk eraseOk : Bool) (s : State) : Host.Outcome State Fault Refusal :=
  let s := if lehrRuns s then drainBuffer s.stor.buffer.length s else s
  let full := decide (16384 ≤ (s.stor.staging.map jLen).foldl (· + ·) 0)
  let due := decide (mgetD 0 s.stor.dutyAt 9 + 1000000000 ≤ s.now)
  if !lehrRuns s || s.nvmPaused || s.stor.staging.isEmpty || !(full || due) then ok s
  else ok (dutyDone 9 (copyPage programOk eraseOk s))

/-- A record is chained and written to the staging ring, or waits (R561, R563). -/
def severityOf (rtype given : Nat) : Option Nat :=
  match rtype with
  | 0x0001 | 0x0002 | 0x0030 => some 0
  | 0x0003 => some given
  | 0x0010 | 0x0040 | 0x0050 | 0x0060 => some 1
  | 0x0020 => some 2
  | _ => none

/-- JOURNAL_RECORD (R561, R563): a record type of the table; LOST and UNREADABLE are made by the device alone. -/
def execJournalRecord (rtype severity source : Nat) (body : List Byte) (s : State) : Host.Outcome State Fault Refusal :=
  match severityOf rtype severity with
  | some v => ok (s.journal rtype v source body)
  | none => ok s

/-- Every record held, oldest first: NAND, staging ring, buffer. -/
def heldRecords (s : State) : List JRec := s.stor.nand.map Prod.snd ++ s.stor.staging ++ s.stor.buffer

/-- A record as JOURNAL_READ returns it: UNREADABLE in place of one in a NAND UE (R561, R564). -/
def readRecord (s : State) (r : JRec) : List Byte :=
  if s.stor.unreadable.contains r.jseq then
    jBytes { r with rtype := 0x00FE, chain := List.replicate 32 0#8, body := [] }
  else jBytes r

/-- The payload of JOURNAL_READ (R564). -/
def journalPayload (s : State) (from_ count : Nat) : List Byte :=
  let l := heldRecords s
  let oldest := (l.head?.map JRec.jseq).getD s.stor.jNext
  leBytes 8 s.stor.jNext ++ leBytes 8 oldest ++ fitBytes 32 s.stor.baseChain
    ++ (fitting 8144 (((l.filter fun r => decide (max from_ oldest ≤ r.jseq)).take count).map (readRecord s))).flatten

/-- JOURNAL_READ (R564). -/
def execJournalRead (m : TcsMsg) (from_ count : Nat) (s : State) : Host.Outcome State Fault Refusal :=
  ok (serve { opcode := 0x0601, onchip := true } m 0 (unguarded true fun s =>
    if 1 ≤ count ∧ count ≤ 64 then { st := .ok, payload := journalPayload s from_ count, state := s }
    else refuse .badArg s) s)

/-! ### Patrol, refresh and levelling (R556 to R558) -/

/-- Blocks that hold data. -/
def holdsData (x : NandBlock) : Bool := x.use == .journal || x.use == .image

/-- The data of block `n` moves to block `m`, and `n` is erased. -/
def relocate (s : State) (n m : Nat) (eraseOk : Bool) : State :=
  match mget n s.stor.blocks, mget m s.stor.blocks with
  | some x, some y => eraseBlock (moveData (setBlock s m { y with use := x.use, patrolAt := s.now }) n m) n eraseOk
  | _, _ => s

/-- STATIC_LEVELLING (R556): once an hour, where erase counts differ by more than 500. -/
def execStaticLevelling (eraseOk : Bool) (s : State) : Host.Outcome State Fault Refusal :=
  if !lehrRuns s || s.nvmPaused || decide (s.now < mgetD 0 s.stor.dutyAt 11 + 3600000000000) then ok s
  else
    let s := dutyDone 11 s
    let live := s.stor.blocks.filter fun x => x.2.use != .retired
    let hi := (live.map fun x => x.2.erases).foldl max 0
    match leastBy (fun x => (x.2.erases, x.1, 0)) live,
          leastBy (fun x => (2 ^ 40 - x.2.erases, x.1, 0)) ((blocksOf s .free).filter fun x => !targetRo s x.2.target) with
    | some (n, x), some (m, _) => if x.erases + 500 < hi && holdsData x then ok (relocate s n m eraseOk) else ok s
    | _, _ => ok s

/-- A block is refreshed: its data is rewritten elsewhere (R558). -/
def refreshBlock (s : State) (n : Nat) (eraseOk : Bool) : State :=
  match freeBlock s with
  | some m => relocate (s.count R.NVS_CNT_REFRESH 1) n m eraseOk
  | none => s

/-- What a patrol read leads to (R555, R557, R558): a UE is journalled and the block retired; two soft reads in
succession retire it; a retry or more than 60 corrected bits refresh it. -/
def patrolResult (s : State) (n stage corrected : Nat) (authOk eraseOk : Bool) (records : List Nat) : State :=
  match mget n s.stor.blocks with
  | none => s
  | some x =>
    if 4 ≤ stage ∨ !authOk then
      let s := storRecord s 5 x.target n
      let here := records.filter fun j => s.stor.nand.any fun y => y.1 == n && y.2.jseq == j
      retireBlock (s.modStor fun y => { y with unreadable := y.unreadable ++ here }) n
    else
      let hits := if stage = 3 then x.softHits + 1 else 0
      let s := setBlock s n { x with softHits := hits, patrolAt := s.now }
      if 2 ≤ hits then retireBlock s n
      else if 60 < corrected ∨ 2 ≤ stage then
        refreshBlock s n eraseOk
      else s

/-- NAND_PATROL (R554, R555, R557, R558): once every 7 days per block that holds data. -/
def execNandPatrol (block stage corrected : Nat) (authOk eraseOk : Bool) (records : List Nat) (s : State) :
    Host.Outcome State Fault Refusal :=
  match mget block s.stor.blocks with
  | some x =>
    if !lehrRuns s || !holdsData x || decide (s.now < x.patrolAt + 7 * 86400 * 1000000000) then ok s
    else ok (dutyDone 10 (patrolResult (countRead stage authOk s) block stage corrected authOk (eraseOk) records))
  | none => ok s

/-! ### Telemetry (R570, R571) -/

/-- An item of a frame. -/
def itemBytes (x : Nat × Nat × Word) : List Byte := leBytes 2 x.1 ++ leBytes 2 x.2.1 ++ leBytes 4 x.2.2.toNat

/-- The items of a CLOG copy: the tile, then its address and its INFO word (R570). -/
def copyItems (c : Nat × DWord × Word) : List (List Byte) :=
  [itemBytes (0x02FF, c.1, 0#32), leBytes 8 c.2.1.toNat, leBytes 8 c.2.2.toNat]

/-- Bytes of the telemetry ring. -/
def telRingBytes (s : State) : Nat := 2 ^ max 20 (min 30 (s.field R.LEHR_TEL_SIZE 4 0))

/-- Write bytes into the ring, wrapping at its end. -/
def telPut (s : State) (bs : List Byte) : State :=
  let base := (s.reg64 R.LEHR_TEL_BASE).toNat
  let size := telRingBytes s
  let off := s.stor.telBytes % size
  let a := base + off
  let s := memWrite .ctlh (placeOf s.part a) a (bs.take (size - off)) s
  if bs.length ≤ size - off then s else memWrite .ctlh (placeOf s.part base) base (bs.drop (size - off)) s

/-- Frames that the ring still holds. -/
def keepFrames (size : Nat) (written : Nat) (l : List TelFrame) : List TelFrame :=
  l.filter fun f => decide (written ≤ f.addr + size)

/-- The frame due now is LATE: more than 100 µs past its millisecond, which ends 1 ms after the last frame (R570). -/
def frameLate (s : State) : Bool := decide (mgetD 0 s.stor.dutyAt 1 + 1100000 < s.now)

/-- TELEMETRY_FRAME (R570): once per ms, the CLOG copies, the changes of CE counts (`counts`) and the other items measured, of
the enabled groups. -/
def execTelemetryFrame (counts items : List (Nat × Nat × Word)) (s : State) : Host.Outcome State Fault Refusal :=
  if !lehrRuns s || decide (s.now < mgetD 0 s.stor.dutyAt 1 + 1000000) then ok s
  else
    let on (g : Nat) : Bool := decide (g < 8) && s.flag R.LEHR_TEL_GROUPS g
    let copies := if on 2 then s.stor.clogCopies.take 300 else []
    let its := (copies.flatMap copyItems ++ ((counts ++ items).filter fun x => on (x.1 / 256)).map itemBytes).take 1000
    let n := (s.reg R.LEHR_TEL_SAMPLE).toNat + 1
    let f := leBytes 8 s.devNs ++ leBytes 4 n ++ leBytes 2 its.length ++ leBytes 2 (b2n (frameLate s)) ++ leBytes 16 0 ++ its.flatten
    let at_ := s.stor.telBytes
    let s := telPut (s.setReg R.LEHR_TEL_SAMPLE (BitVec.ofNat 32 n)) f
    let w := at_ + f.length
    let size := telRingBytes s
    ok (dutyDone 1 (s.modStor fun y => { y with
      telBytes := w, telFrames := keepFrames size w (y.telFrames ++ [{ sample := n, addr := at_, bytes := f }]),
      clogCopies := if on 2 then y.clogCopies.drop 300 else [] }))

/-- TELEMETRY_READ (R571). -/
def execTelemetryRead (m : TcsMsg) (from_ count stride : Nat) (s : State) : Host.Outcome State Fault Refusal :=
  ok (serve { opcode := 0x0801, onchip := true } m 0 (unguarded true fun s =>
    if 1 ≤ count ∧ count ≤ 64 ∧ 1 ≤ stride ∧ stride ≤ 1000 then
      let fs := (s.stor.telFrames.filter fun f => decide (from_ ≤ f.sample) && (f.sample - from_) % stride == 0).take count
      let head := (s.reg R.LEHR_TEL_SAMPLE).toNat
      let oldest := (s.stor.telFrames.head?.map TelFrame.sample).getD head
      { st := .ok, payload := leBytes 4 head ++ leBytes 4 oldest ++ (fitting 8184 (fs.map TelFrame.bytes)).flatten, state := s }
    else refuse .badArg s) s)

/-! ### Other duties of the Lehr (R568, R569) -/

/-- AUXDAC_OFFSET_TRIM (R568): every 60 s, by at most 1 LSB, applied at the channel's next load event. -/
def execAuxdacOffsetTrim (ch : Nat) (step : Int) (s : State) : Host.Outcome State Fault Refusal :=
  if !lehrRuns s || decide (8 ≤ ch) || decide (s.now < mgetD 0 s.stor.dutyAt (100 + ch) + 60000000000) then ok s
  else
    let t := mgetD 0 s.pins.trim ch + clampInt (-1) 1 step
    ok (dutyDone (100 + ch) (dutyDone 5 { s with pins := { s.pins with trimNext := mset ch t s.pins.trimNext } }))

/-- An entry whose CRC fails is invalidated and journalled (R568). -/
def fuseFailed (s : State) (e : SoftFuse) : State := 
  s.journal 0x0020 2 ctlH (Config.recordBody 0x0020 (leBytes 4 4 ++ fuseBytes e))

/-- The CRC of an entry verifies. -/
def fuseGood (e : SoftFuse) : Bool := e.crc == crc32 (fuseHead e)

/-- SOFT_FUSE_UPKEEP (R387, R568): every 24 h entries are written and every CRC is checked. -/
def execSoftFuseUpkeep (s : State) : Host.Outcome State Fault Refusal :=
  if !lehrRuns s || s.nvmPaused || decide (s.now < mgetD 0 s.stor.dutyAt 7 + 86400 * 1000000000) then ok s
  else
    let s := fuseUpdate [] s
    let bad := s.mem.softFuses.filter fun e => !fuseGood e
    let s := bad.foldl fuseFailed s
    ok (dutyDone 7 { s with mem := { s.mem with softFuses := s.mem.softFuses.filter fuseGood } })

/-- LEHR_BUDGET (R569, R572): a write of the budget, which every tile's BACKGROUND bucket follows. -/
def execLehrBudget (r : Requester) (value : Word) (s : State) : Host.Outcome State Fault Refusal :=
  ok (writeAnswer r R.LEHR_BUDGET (leBytes 4 value.toNat) s)

/-- Interval of a duty in ns, where it has one (R568). -/
def dutyNs : Nat → Option Nat
  | 0 => some 10000000 | 1 => some 1000000 | 2 => some 1000000000 | 3 => some 10000000 | 4 => some 10000000
  | 5 => some 60000000000 | 7 => some 86400000000000 | 8 => some 1000000 | 9 => some 1000000000
  | _ => none

/-- Every memory that can be scrubbed now. -/
def scrubMems (s : State) : List ScrubMem :=
  .mram :: ((List.range 144).map ScrubMem.sram ++ (List.range 4).map ScrubMem.hbm).filter fun m => scrubPresent s m && scrubAwake s m

/-- The age of a duty has reached twice its interval. -/
def dutyLate (s : State) (d : Nat) : Bool :=
  match dutyNs d with
  | some n => decide (mgetD 0 s.stor.dutyAt d + 2 * n ≤ s.now)
  | none =>
    if d = 6 then (scrubMems s).any fun m => decide (2 * scrubSec m * 1000000000 ≤ scrubElapsed s m)
    else d == 10 && (decide (mgetD 0 s.stor.dutyAt 11 + 2 * 3600000000000 ≤ s.now)
      || s.stor.blocks.any fun x => holdsData x.2 && decide (x.2.patrolAt + 14 * 86400 * 1000000000 ≤ s.now))

/-- LEHR_LAG (R569): a duty whose age reaches twice its interval. -/
def execLehrLag (duty : Nat) (s : State) : Host.Outcome State Fault Refusal :=
  if lehrRuns s && dutyLate s duty then ok ((s.setField R.LEHR_LAG duty duty 1).orReg R.LEHR_EVT 0) else ok s

/-- WFQ_TELEMETRY_COLLECT (R427, R568): every 1 ms the Lehr reads an IOT's ring up to its write pointer. -/
def execWfqTelemetryCollect (iot : Nat) (s : State) : Host.Outcome State Fault Refusal :=
  if !lehrRuns s || !iotPresent s.part iot || !tileRun s (iotTile iot)
      || decide (s.now < mgetD 0 s.stor.dutyAt (200 + iot) + 1000000) then ok s
  else
    let w := (s.reg (R.WFQ_TEL_WPTR iot)).toNat
    ok (dutyDone (200 + iot) (dutyDone 8 { s with eg := { s.eg with telRead := mset iot w s.eg.telRead } }))

end Sys2Proof.Machine
end

