-- ==== Sys2Proof/Machine/Trust.lean ====
section
/-! DEFINITION. DSP images (R548 to R550), attestation (R542 to R544), key slots (R545, R546) and debug access (R551).
Assumption log: 73 (DEDUCED), 74 (DEDUCED), 98 (DEDUCED), 99 (DEDUCED). -/

namespace Sys2Proof.Machine

/-! ### DSP images -/

/-- The key slot of a kind (0 host, 1 DSP image, 2 fabric) is ENROLLED (R545). -/
def keyState (s : State) (kind slot : Nat) : KeySt :=
  match mget (kind * 8 + slot) s.boot.keys with
  | some k => k.st
  | none => .empty

/-- A DSP image's signature and security version hold (R548, R549). -/
def imageAuth (s : State) (img : DspImage) : Bool :=
  img.versionOk && (img.signer.map fun k => decide (k < 8) && keyState s 1 k == .enrolled).getD false

/-- The cores an image claims, in ascending order. -/
def claimed (img : DspImage) : List Nat := (List.range 576).filter img.cores.contains

/-- Every byte of a segment lies in the SRAM of a present tile or in HBM (R548). -/
def segmentOk (s : State) (x : Nat × List Byte) : Bool :=
  let place (a : Nat) : Bool := match placeOf s.part a with
    | .sram _ => true
    | .hbm _ => true
    | _ => false
  x.2.isEmpty || (place x.1 && place (x.1 + x.2.length - 1) && placeOf s.part x.1 == placeOf s.part (x.1 + x.2.length - 1))

/-- A segment of the PARISON image: Q0 tile SRAM only (R548). -/
def q0Segment (s : State) (x : Nat × List Byte) : Bool :=
  match placeOf s.part x.1 with
  | .sram t => tileQuad t == 0
  | _ => false

/-- The segments and the claimed cores exist; the PARISON image targets only Q0 tile SRAM (R548). -/
def imageShape (s : State) (slot : Nat) (img : DspImage) : Bool :=
  !img.cores.isEmpty && img.cores.all (fun c => corePresent s (c / 4) (c % 4)) && img.segments.all (segmentOk s)
    && (slot != 0xFF02 || img.segments.all (q0Segment s))

/-- The tiles an image is written to run: those of its cores and of its segments. -/
def imageAwake (s : State) (img : DspImage) : Bool :=
  img.cores.all (fun c => tileRun s (c / 4))
    && img.segments.all fun x => x.2.isEmpty || tileRun s (serverOf x.1 (placeOf s.part x.1))

/-- Loaded images once `cores` belong to another image: an image left with no cores is unloaded (R550). -/
def unclaim (cores : List Nat) (l : FMap Loaded) : FMap Loaded :=
  (l.map fun x => (x.1, { x.2 with cores := x.2.cores.filter fun c => !cores.contains c })).filter fun x => !x.2.cores.isEmpty

/-- The registers of R277 that a core takes from an image: TMODE, CORE_EVEC and the MPU regions. -/
def imageCore (img : DspImage) (x : Core) : Core :=
  let region (n : Nat) : Nat × MpuRegion :=
    let r := img.mpu.getD n (0#64, 0#64, 0#32)
    (n, { base := r.1, limit := r.2.1, attr := r.2.2 &&& 0x800000FF#32 })
  { x with ctrl := setBit x.ctrl 2 img.tmode, evec := img.evec, mpu := (List.range 16).map region }

/-- Write an image's segments and core registers, and hold it under handle `id` (R549, R550). -/
def placeImage (s : State) (id slot : Nat) (img : DspImage) : State :=
  let s := img.segments.foldl (fun s x => (busWriteMany .gaffer x.1 x.2 s).2) s
  let s := (claimed img).foldl (fun s c => s.setCore (c / 4) (c % 4) (imageCore img (s.core (c / 4) (c % 4)))) s
  let x : Loaded := { slot := slot, version := img.version, hash := img.hash, cores := claimed img, startTask := fitBytes 32 img.startTask }
  s.modBoot fun b => { b with images := mset id x (unclaim (claimed img) b.images) }

/-- The handle a new image takes: the lowest that is free once the cores it claims are its own; at most 16 images are
loaded (R550). -/
def imageHandle (s : State) (img : DspImage) : Option Nat :=
  firstBelow 16 fun n => !mhas (unclaim (claimed img) s.boot.images) n

/-- The steps of R549 once the slot has been read. -/
def loadReply (slot : Nat) (img : DspImage) (s : State) : Reply :=
  if img.cores.any fun c => coreBusy s (c / 4) (c % 4) then refuse .busy s
  else if !imageAuth s img then refuse .authFail s
  else if !imageShape s slot img then refuse .badArg s
  else if !imageAwake s img then refuse .domainAsleep s
  else match imageHandle s img with
    | none => refuse .noResource s
    | some id =>
      { st := .ok, payload := leBytes 2 id ++ leBytes 2 (claimed img).length ++ fitBytes 32 img.hash,
        state := extendMeas 5 (fitBytes 32 img.hash) (placeImage s id slot img) }

/-- IMAGE_LOAD (R549, R550, R554). -/
def execImageLoad (m : TcsMsg) (slot : Nat) (img : DspImage) (nandUe : Bool) (s : State) : Host.Outcome State Fault Refusal :=
  ok (serve { opcode := 0x0B01 } m 0 (guarded m 29 false fun s =>
    if ¬ (slot < 64 ∨ slot = 0xFF02) then refuse .badArg s
    else match (s.slot slot).st with
      | 1 => refuse .busy s
      | 2 => if nandUe && decide (slot < 64) then refuse .ue (countRead 4 true s) else loadReply slot img s
      | _ => refuse .badState s) s)

/-- Checks 1 and 2 of R40 for TASK_START and TASK_STOP, which PARISON service has for the PARISON image alone (R536); then
the handle must name a loaded image (R550). -/
def withImage (m : TcsMsg) (imgid : Nat) (act : Loaded → State → Reply) (s : State) : Reply :=
  if !holdsSem s m 29 then refuse .notOwner s
  else match mget imgid s.boot.images with
    | none => refuse .badArg s
    | some x => if s.parison && x.slot != 0xFF02 then refuse .notReady s else act x s

/-- The queue is a TASK queue of a dispatcher whose quadrant holds a core of the image (R550). -/
def startQueueOk (s : State) (qid : Nat) (x : Loaded) : Bool :=
  qidPresent s qid && (s.queue qid).kind == 0 && x.cores.any fun c => tileQuad (c / 4) == qidDsq qid

/-- TASK_START (R549, R550). -/
def execTaskStart (m : TcsMsg) (imgid qid : Nat) (s : State) : Host.Outcome State Fault Refusal :=
  ok (serve { opcode := 0x0B02 } m 0 (withImage m imgid fun x s =>
    if !startQueueOk s qid x then refuse .badArg s
    else
      let p := pushQ .gaffer qid x.startTask s
      match p.1 with
      | .accepted => { st := .ok, state := p.2 }
      | .disabled => refuse .badState p.2
      | .asleep => refuse .domainAsleep p.2
      | _ => refuse .noResource p.2) s)

/-- The cores of an image that run a task. -/
def runningCores (s : State) (x : Loaded) : List Nat := x.cores.filter fun c => coreBusy s (c / 4) (c % 4)

/-- The Gaffer stops the task of a core (R274): a CQPUSH that has not retired is squashed. -/
def stopCore (s : State) (c : Nat) : State := terminate (squashCq s (c / 4) (c % 4)) (c / 4) (c % 4) 4 0

/-- TASK_STOP (R274, R549, R550): HOW 0b100. -/
def execTaskStop (m : TcsMsg) (imgid : Nat) (s : State) : Host.Outcome State Fault Refusal :=
  ok (serve { opcode := 0x0B03 } m 0 (withImage m imgid fun x s =>
    let l := runningCores s x
    { st := .ok, payload := leBytes 2 l.length ++ leBytes 2 0,
      state := l.foldl stopCore s }) s)

/-- An entry of IMAGE_STATUS (R550). -/
def imageEntry (x : Nat × Loaded) : List Byte :=
  leBytes 2 x.1 ++ leBytes 2 x.2.slot ++ leBytes 4 x.2.version ++ fitBytes 32 x.2.hash
    ++ leBytes 72 ((x.2.cores.map fun c => 2 ^ c).foldl (· + ·) 0)

/-- IMAGE_STATUS (R549, R550). -/
def execImageStatus (m : TcsMsg) (s : State) : Host.Outcome State Fault Refusal :=
  ok (serve { opcode := 0x0B04, onchip := true } m 0 (fun s =>
    { st := .ok, payload := leBytes 2 s.boot.images.length ++ leBytes 2 0 ++ s.boot.images.flatMap imageEntry, state := s }) s)

/-! ### Attestation (R544) -/

/-- The bytes of a quote before the signature (R544). -/
def quoteBytes (s : State) (nonce : List Byte) (mask : Nat) : List Byte :=
  leBytes 4 (devIdWord s.part) ++ leBytes 4 s.boot.boots ++ leBytes 8 s.devNs ++ fitBytes 32 nonce ++ leBytes 2 mask
    ++ leBytes 2 s.boot.debugNow
    ++ ((List.range 16).filter mask.testBit).flatMap (fun n => fitBytes 32 (s.boot.meas.getD n []))
    ++ fitBytes 1312 Config.identityKey

/-- ATTEST_QUOTE (R544). -/
def execAttestQuote (m : TcsMsg) (nonce : List Byte) (mask : Nat) (s : State) : Host.Outcome State Fault Refusal :=
  ok (serve { opcode := 0x0701, onchip := true } m 0 (fun s =>
    let q := quoteBytes s nonce mask
    { st := .ok, payload := q ++ fitBytes 2420 (Config.sign (Config.sha3 q)), state := s }) s)

/-! ### Keys (R545, R546) -/

/-- The body of an enrolment or revocation, which MEAS10 measures (R542, R545). -/
def keyBody (kind slot action : Nat) (pubkey : List Byte) : List Byte :=
  leBytes 1 kind ++ leBytes 1 slot ++ leBytes 1 action ++ leBytes 1 0 ++ fitBytes 1312 pubkey

/-- A slot changes: MEAS10 is extended and the change journalled (R542, R561). -/
def setKey (s : State) (kind slot action : Nat) (k : KeySlot) (body : List Byte) : State :=
  let s := s.modBoot fun b => { b with keys := mset (kind * 8 + slot) k b.keys }
  extendMeas 10 (Config.sha3 body)
    (s.journal 0x0050 1 0xFFFF (Config.recordBody 0x0050 (leBytes 1 1 ++ leBytes 1 kind ++ leBytes 1 slot ++ leBytes 1 action)))

/-- An enrol: only on an EMPTY slot (R546). -/
def enrolReply (kind slot : Nat) (pubkey : List Byte) (s : State) : Reply :=
  if keyState s kind slot ≠ .empty then refuse .badState s
  else { st := .ok, state := setKey s kind slot 1 { st := .enrolled, pubkey := fitBytes 1312 pubkey } (keyBody kind slot 1 pubkey) }

/-- The public key a slot holds. -/
def keyOf (s : State) (kind slot : Nat) : List Byte := ((mget (kind * 8 + slot) s.boot.keys).map KeySlot.pubkey).getD []

/-- A revoke makes the slot REVOKED (R546). -/
def revoke (kind slot : Nat) (s : State) : State :=
  setKey s kind slot 2 { st := .revoked, pubkey := keyOf s kind slot } (keyBody kind slot 2 [])

/-- KEY_ENROL takes kinds 1 and 2, HOSTKEY_ENROL only 0; slots 0 to 7 (R545). -/
def keyOp (opcode : Nat) (m : TcsMsg) (kind slot : Nat) (act : State → Reply) (s : State) : State :=
  serve { opcode := opcode } m 0 (guarded m 27 true fun s =>
    let kindOk := if opcode = 0x0703 then kind == 0 else kind == 1 || kind == 2
    if !kindOk || 7 < slot then refuse .badArg s else act s) s

/-- KEY_ENROL, ACTION 1 (R545, R546). -/
def execKeyEnrolEnrol (m : TcsMsg) (kind slot : Nat) (pubkey : List Byte) (s : State) : Host.Outcome State Fault Refusal :=
  ok (keyOp 0x0702 m kind slot (enrolReply kind slot pubkey) s)

/-- KEY_ENROL, ACTION 2 (R545, R546). -/
def execKeyEnrolRevoke (m : TcsMsg) (kind slot : Nat) (s : State) : Host.Outcome State Fault Refusal :=
  ok (keyOp 0x0702 m kind slot (fun s => { st := .ok, state := revoke kind slot s }) s)

/-- HOSTKEY_ENROL, ACTION 1 (R545, R546). -/
def execHostkeyEnrolEnrol (m : TcsMsg) (kind slot : Nat) (pubkey : List Byte) (s : State) : Host.Outcome State Fault Refusal :=
  ok (keyOp 0x0703 m kind slot (enrolReply kind slot pubkey) s)

/-- A revoke of this host slot is refused: the requesting session's own, or the last ENROLLED one (R546). -/
def revokeKept (m : TcsMsg) (slot : Nat) (s : State) : Bool :=
  let own := match m.via with
    | .mgt p => (s.sess p.val).slot == slot
    | _ => false
  own || (keyState s 0 slot == .enrolled && (List.range 8).all fun n => n == slot || keyState s 0 n != .enrolled)

/-- Every session opened with a host slot ends (R72, R546). -/
def endKeySessions (slot : Nat) (s : State) : State :=
  [0, 1].foldl (fun s p =>
    let x := s.sess p
    if x.st != .none && x.slot == slot then endSession p .revoked s else s) s

/-- HOSTKEY_ENROL, ACTION 2 (R546). -/
def execHostkeyEnrolRevoke (m : TcsMsg) (kind slot : Nat) (s : State) : Host.Outcome State Fault Refusal :=
  ok (keyOp 0x0703 m kind slot (fun s =>
    if revokeKept m slot s then refuse .badState s
    else { st := .ok, state := endKeySessions slot (revoke kind slot s) }) s)

/-! ### Debug access (R551) -/

/-- The debug level that the next boot puts in force. -/
def nextLevel (b : Boot) : Nat := if b.sealed then 2 else b.debugNext

/-- A change of the debug level: 2 blows the fuse at once, 0 and 1 wait for the next boot; MEAS11 is extended
(R542, R551). -/
def changeLevel (level : Nat) (s : State) : State :=
  if level = nextLevel s.boot then s
  else
    let s := s.modBoot fun b => if level = 2 then { b with sealed := true, debugNow := 2, debugNext := 2 } else { b with debugNext := level }
    extendMeas 11 (Config.sha3 (leBytes 1 level)) (s.journal 0x0050 1 0xFFFF (Config.recordBody 0x0050 (leBytes 1 3 ++ leBytes 1 level)))

/-- DEBUG_LOCK (R551). -/
def execDebugLock (m : TcsMsg) (level : Nat) (s : State) : Host.Outcome State Fault Refusal :=
  ok (serve { opcode := 0x0704 } m 0 (guarded m 27 true fun s =>
    if 2 < level then refuse .badArg s
    else if s.boot.sealed && level != 2 then refuse .badState s
    else { st := .ok, state := changeLevel level s }) s)

/-- DEBUG_BREAK (R267, R269, R551): at level OPEN the debug port stops a core that runs a task with the BREAK exception,
or in debug halt. -/
def execDebugBreak (tile core : Nat) (halt : Bool) (s : State) : Host.Outcome State Fault Refusal :=
  if s.boot.debugNow ≠ 0 || !corePresent s tile core || !tileRun s tile || !coreBusy s tile core then ok s
  else
    let x := s.core tile core
    if halt then ok (s.setCore tile core { x with st := .debugHalt })
    else
      let rep := match x.rep with | some r => r.left | none => 0
      ok (takeExc s tile core { cause := .break_ } true (if x.ext.isSome then x.extAt else x.pc) (b2n (rep != 0) * 2 ^ 30) rep)

end Sys2Proof.Machine
end

