-- ==== Sys2Proof/Machine/Boot.lean ====
section
/-! DEFINITION. From reset to PARISON service (R532 to R535, R540 to R542), and the parts of R537 that wait for HBM
and for time. Assumption log: 50 (DEDUCED), 86 (DEDUCED), 97 (DESIGN CHOICE), 102 (DESIGN CHOICE), 105 (DEDUCED). -/

namespace Sys2Proof.Machine

/-! ### The boot ROM: spares and slots (R386, R532, R540) -/

/-- Spares that soft-fuse entries have taken: kind, tile, unit and spare. -/
abbrev SpareUse := List (Nat × Nat × Nat × Nat)

/-- The spare that an entry gets: its own, or the next free one of its kind; none where it is unrepairable (R386). -/
def spareFor (used : SpareUse) (e : SoftFuse) : Option Nat :=
  let free (n : Nat) : Bool := decide (n < fuseSpares e.kind) && !Config.fusedSpare e.kind e.tile e.unit_ n
    && !used.contains (e.kind, e.tile, e.unit_, n)
  if free e.spare then some e.spare else firstBelow (fuseSpares e.kind) free

/-- Spares switched in, in entry order, and how many entries got none. -/
def spareAll : List SoftFuse → SpareUse → Nat → SpareUse × Nat
  | [], u, n => (u, n)
  | e :: l, u, n => match spareFor u e with
    | some k => spareAll l ((e.kind, e.tile, e.unit_, k) :: u) n
    | none => spareAll l u (n + 1)

/-- The BOOT record (R386, R387, R561): DEV_ID, WAKE_CAUSE, slot, entries unrepairable and skipped, version, and the
indexes of skipped entries. -/
def bootRecord (s : State) : State :=
  let l := (List.range s.mem.softFuses.length).zip s.mem.softFuses
  let skipped := (l.filter fun x => !fuseGood x.2).map Prod.fst
  let bad := (spareAll (s.mem.softFuses.filter fun e => fuseGood e && decide (e.kind < 3)) [] 0).2
  s.journal 0x0001 0 ctlH (Config.recordBody 0x0001 <| leBytes 4 (devIdWord s.part) ++ leBytes 4 (s.reg R.WAKE_CAUSE).toNat
    ++ leBytes 1 (s.boot.bootedSlot.getD 0xFF) ++ leBytes 1 bad ++ leBytes 2 skipped.length ++ leBytes 4 s.boot.gver
    ++ skipped.flatMap (leBytes 2))

/-- The slots in the order the ROM tries them: the higher security version first (R540). -/
def slotOrder (b : Boot) : List (Nat × GafferImage) :=
  if b.slotA.version < b.slotB.version then [(1, b.slotB), (0, b.slotA)] else [(0, b.slotA), (1, b.slotB)]

/-! ### Islands that start at boot (R503, R535) -/

/-- A tile island runs: its ready signals, voltage and BACKGROUND bucket (R349, R497, R513, R569). -/
def lightTile (s : State) (t : Nat) : State :=
  let s := s.setIsland t { Island.run with idleSince := s.now }
  setBucket ((s.setField (R.ISL_STAT t) 27 24 15).setReg (R.ISL_VOLT t) (BitVec.ofNat 32 (s.field (R.ISL_CTRL t) 7 0))) t

/-- Islands that no tile has: spines and pads. -/
def lightIsland (s : State) (n : Nat) : State := s.setIsland n Island.run

/-- The tiles that run in PARISON service: those of Q0 without its MEM tiles (R503). -/
def parisonTiles (s : State) : List Nat := (q0Tiles s).filter fun t => tileKindOf t != .mem

/-- The Q0 tiles start at MULT 24 (R499, R503). -/
def startQ0 (s : State) : State :=
  (parisonTiles s).foldl (fun s t => lightTile (s.setField (R.ISL_CTRL t) 29 24 24) t) s

/-! ### The stored configuration takes effect (R62, R96) -/

/-- RATE of SD_CFG under a port mode (R395, R411). -/
def sdRate : Nat → Nat
  | 1 => 1 | 2 => 2 | 4 => 2 | 3 => 3 | 5 => 3 | 7 => 3 | 6 => 4 | 8 => 4 | 9 => 4 | _ => 0

/-- A stored item as it takes effect at boot. -/
def bootItem (s : State) (x : Nat × List Byte) : State :=
  let i := x.1 % 65536
  let v := x.2
  match x.1 / 65536 with
  | 4 =>
    let k := i / 4
    let p := i % 4
    let mode := valueField v 0 1
    let s := s.setReg (R.ETH_MODE k p) (BitVec.ofNat 32 (mode % 16 + valueField v 1 1 % 4 * 16 + valueField v 2 1 % 2 * 256))
    (List.range (modeLanes mode)).foldl (fun s l => s.setField (R.SD_CFG k (p + l)) 2 0 (sdRate mode)) s
  | 5 =>
    let k := i / 8
    let l := i % 8
    (s.setReg (R.SD_TXEQ k l) (BitVec.ofNat 32 (valueField v 0 4))).setField (R.SD_CFG k l) 4 4 (valueField v 4 1 % 2)
  | 8 =>
    let s := s.setReg (R.SPUR_CFG i) (BitVec.ofNat 32 (valueField v 0 4) &&& 0xE03FFF00#32)
    (s.setReg (R.SPUR_IDLE i) (BitVec.ofNat 32 (valueField v 4 2))).setReg (R.SPUR_WAKE i)
      (BitVec.ofNat 32 (valueField v 8 4) &&& 0xE000FFFF#32)
  | 9 =>
    let s := s.setReg R.WAKE_EN (BitVec.ofNat 32 (valueField v 0 4) &&& 0xF#32)
    (s.setReg R.WAKE_MGT (BitVec.ofNat 32 (valueField v 4 4) &&& 0xF800FFFF#32)).setReg R.WAKE_BUS
      (BitVec.ofNat 32 (valueField v 8 4) &&& 0x800003FF#32)
  | _ => s

/-- The MGT ports run 10GBASE-R (R395, R532). -/
def mgtMode (s : State) (k : Nat) : State :=
  (s.setField (R.ETH_MODE k 4) 3 0 1).setField (R.SD_CFG k 4) 2 0 1

/-- A stored backhaul queue of dispatcher `q` is made (R404, R412): egress items 6, ingress items 7. -/
def bootQueue (q : Nat) (s : State) (x : Nat × List Byte) : State :=
  let i := x.1 % 65536
  let v := x.2
  match x.1 / 65536 with
  | 6 =>
    let k := i / 1024
    if iotQuad k ≠ q ∨ !iotPresent s.part k ∨ valueField v 0 1 = 0xFF then s
    else
      let f := s.takeFresh
      let n := freeQid f.2 q f.1 0
      let s := f.2
      let cfg := 2 ^ 31 + valueField v 1 1 % 2 * 2 ^ 30 + i / 256 % 4 * 2 ^ 28 + valueField v 0 1 % 4 * 2 ^ 26
        + valueField v 3 1 % 2 * 2 ^ 25 + valueField v 4 1 % 16 * 2 ^ 20 + valueField v 2 1 % 8 * 2 ^ 16
      let s := s.setQueue n (lockedQueue 2 (valueField v 5 1))
      s.setEgq n { EgQueue.reset k with cfg := BitVec.ofNat 32 cfg, weight := valueField v 8 2,
                                        samp := { (EgQueue.reset k).samp with start := s.devNs } }
  | 7 =>
    if iotQuad (i / 32) ≠ q ∨ !iotPresent s.part (i / 32) ∨ valueField v 0 1 = 0 then s
    else
      let f := s.takeFresh
      let n := freeQid f.2 q f.1 0
      let s := f.2
      let s := s.setQueue n { lockedQueue 3 (valueField v 0 1) with hi := valueField v 2 2, lo := valueField v 4 2 }
      { s with dsq := { s.dsq with bhIngress := mset i n s.dsq.bhIngress } }
  | _ => s

/-- The backhaul queues of dispatcher `q` (R412). -/
def bootQueues (s : State) (q : Nat) : State := s.tcs.netRunning.foldl (bootQueue q) s

/-- The network configuration in force is the stored one (R62). -/
def bootNet (s : State) : State :=
  let s := { s with tcs := { s.tcs with netRunning := s.tcs.netStored } }
  mgtMode (mgtMode (s.tcs.netRunning.foldl bootItem s) 0) 1

/-- The time configuration in force is the stored one (R443, R447). -/
def bootTime (s : State) : State :=
  let s := s.modTime fun t => { t with profile := t.profStored, domain := t.domStored }
  s.time.stored.foldl (fun s x => applyTime s (x.1 / 65536) (x.1 % 65536) x.2) s

/-- A converter entry is loaded (R512, R526). -/
def bootPmb (s : State) (x : Nat × Nat × Nat) : State :=
  let s := s.setReg (R.PWR_PMB_CFG x.1) (BitVec.ofNat 32 x.2.1)
  let e : PmbEntry := { nom := x.2.2, set := x.2.2, nacks := 0, vout := 0, iout := 0, temp := 0, polledAt := 0 }
  if x.2.1 / 2 ^ 24 = 0 then s else s.modPower fun p => { p with pmb := mset x.1 e p.pmb }

/-- The PMBus entries and rate in force are the stored ones (R512). -/
def bootPower (s : State) : State :=
  s.power.pmbStored.foldl bootPmb (s.modPower fun p => { p with khz := p.khzStored })

/-! ### PARISON service (R533 to R535, R548) -/

/-- The RUs of the PARISON list, in list order (R533). -/
def parisonList (s : State) : List Nat :=
  ((List.range 8).filterMap fun n => (mget (netKey 10 n) s.tcs.netRunning).map fun v => valueField v 0 2).filter (· != 0xFFFF)

/-- The RUs step 6 takes: stored, with an EC path on IOT 0 or an SP path, and that path up. -/
def parisonRus (s : State) (paths : List Nat) : List (Nat × Ru) :=
  ((parisonList s).eraseDups.filterMap fun r => (mget r s.corStored.rus).map fun x => (r, x)).filter fun x =>
    paths.contains x.1 && (x.2.path == 2 || (x.2.path == 0 && x.2.iot == 0))

/-- A carrier of 5 MHz that PARISON service takes: n100, or n101 at 15 kHz (R534). -/
def parisonNr (c : Carrier) : Bool := c.bw == 50 && (c.std == 2 || (c.std == 3 && c.scs == 1))

/-- The carriers taken: up to 4 of GSM-R and 2 of NR, in ascending carrier number (R534). -/
def parisonKeys (s : State) (rus : List (Nat × Ru)) : List Nat :=
  let here (k : Nat) : Bool := rus.any fun r => mhas s.corStored.insts (instKey r.1 (k % 1024)) && r.2.carrier (k % 1024) == k
  let all := sortBy (fun x => (x.1 % 1024, x.1, 0)) (s.corStored.carriers.filter fun x => here x.1)
  (((all.filter fun x => x.2.std == 0).take 4) ++ ((all.filter fun x => parisonNr x.2).take 2)).map Prod.fst

/-- Runs of consecutive RUs of a static cell that are in the list (R534). -/
def parisonRuns (keep : Nat → Bool) : List Nat → List Nat → List (List Nat)
  | [], acc => if acc.isEmpty then [] else [acc]
  | r :: l, acc => if keep r then parisonRuns keep l (acc ++ [r])
    else (if acc.isEmpty then [] else [acc]) ++ parisonRuns keep l []

/-- The static cells reduced to the listed RUs. -/
def parisonCells (s : State) (rus : List (Nat × Ru)) (keys : List Nat) : List StaticCell :=
  (s.corStored.statics.filter fun x => keys.contains (carrierKey 0 x.2.corridor x.2.carrier)).flatMap fun x =>
    (parisonRuns (fun r => rus.any fun y => y.1 == r) x.2.rus []).map fun l => { x.2 with rus := l }

/-- What step 6 takes from the stored configuration (R534): LTE and NR widths are 9 bits (R119, R535). -/
def parisonModel (s : State) (paths : List Nat) : CorridorModel :=
  let d := s.corStored
  let rus := parisonRus s paths
  let keys := parisonKeys s rus
  let std (k : Nat) : Nat := ((mget k d.carriers).map Carrier.std).getD 0
  let insts := rus.flatMap fun r => (d.insts.filter fun x => x.1 / 1024 == r.1 && keys.contains (r.2.carrier (x.1 % 1024))).map fun x =>
    (x.1, if std (r.2.carrier (x.1 % 1024)) = 0 then x.2 else { x.2 with compw := 9#32 })
  let cells := parisonCells s rus keys
  { d with
    corridors := d.corridors.filter fun x => rus.any fun r => r.2.place == x.1,
    stations := d.stations.filter fun x => rus.any fun r => r.2.place == 16 + x.1,
    rus := rus, carriers := keys.filterMap (fun k => (mget k d.carriers).map fun c => (k, c)), insts := insts,
    statics := (List.range cells.length).zip cells }

/-- The stored widths that the instances of an LTE or NR carrier return to (R538). -/
def parisonWidths (s : State) (d : CorridorModel) : FMap Nat :=
  d.insts.foldl (fun m x =>
    let nr := d.carriers.any fun c => c.1 % 1024 == x.1 % 1024 && c.2.std != 0
    match mget x.1 s.corStored.insts with
    | some i => if nr then mset x.1 i.compw.toNat m else m
    | none => m) []

/-- Step 6: the settings are made one at a time (R532, R534). -/
def parisonAdmit (paths : List Nat) (s : State) : State :=
  let d := parisonModel s paths
  let s := s.modBoot fun b => { b with stage := 6, parisonCarriers := d.carriers.map Prod.fst, widths := parisonWidths s d }
  progress (ownSettings (missingFrom d s) s)

/-- Step 5: the PARISON image is verified, measured and loaded, and its start task goes to a TASK queue of DSQ0 (R532,
R542, R548). -/
def parisonImage (paths : List Nat) (img : Option DspImage) (s : State) : State :=
  match img with
  | none => s
  | some g =>
    if !imageAuth s g || !imageShape s 0xFF02 g || !imageAwake s g then s
    else
      let s := placeImage (extendMeas 4 (fitBytes 32 g.hash) s) 0 0xFF02 g
      let f := s.takeFresh
      let n := freeQid f.2 0 f.1 0
      let s := f.2.setQueue n { Queue.reset with en := true, depth := madeDepth f.1 0 }
      parisonAdmit paths ((pushQ .gaffer n (fitBytes 32 g.startTask) s).2.modBoot fun b => { b with stage := 5 })

/-- Steps 3 and 4: configuration, Q0 and DSQ0, then the links (R532). -/
def bootGaffer (b : BootInfo) (s : State) : State :=
  let s := extendMeas 3 (fitBytes 32 b.confHash) (bootPower (bootTime (bootNet s)))
  let s := bootQueues ([144, 145, 146, 150].foldl lightIsland (startQ0 s)) 0
  let s := startPorts (startPorts s 0 [0, 1, 2, 3, 4]) 1 [4]
  let s := (List.range 4).foldl (fun s p => if spurEn s p then spurTrain s p 1 false else s) s
  parisonImage b.paths b.parison (s.modBoot fun x => { x with stage := 4 })

/-- Neither slot is accepted: recovery (R541). -/
def bootRecovery (s : State) : State :=
  let s := [144, 145, 146, 150].foldl lightIsland (lightTile (lightTile s (iotTile 0)) (iotTile 1))
  let s := startPorts (startPorts (mgtMode (mgtMode s 0) 1) 0 [4]) 1 [4]
  s.modBoot fun x => { x with recovery := true }

/-- Steps 1 and 2 (R532, R540, R542): CTL-H's ROM, the NAND, the measurements and the Gaffer slot. -/
def bootRom (b : BootInfo) (s : State) : State :=
  let cause := if s.reg R.WAKE_CAUSE = 0#32 then BitVec.ofNat 32 (2 ^ 28) else s.reg R.WAKE_CAUSE
  let s := (s.setReg R.WAKE_CAUSE cause).setReg R.WAKE_SRC 0#32
  let s := s.modBoot fun x => { x with
    boots := (x.boots + 1) % 2 ^ 32, hver := b.hver, cert := b.cert, stage := 1,
    slotA := b.slotA.getD x.slotA, slotB := b.slotB.getD x.slotB, debugNow := nextLevel x }
  let s := extendMeas 2 (fitBytes 32 b.ctlhHash) (extendMeas 0 (fitBytes 32 b.romHash) (lightTile s ctlH))
  match (slotOrder s.boot).find? fun x => gafferOk s x.2 with
  | none => bootRecovery (bootRecord (nandBoot b s))
  | some (n, g) =>
    let s := extendMeas 1 (fitBytes 32 g.hash) (s.modBoot fun x => { x with bootedSlot := some n, gver := g.version, stage := 2 })
    bootGaffer b (bootRecord (nandBoot b s))

/-! ### Commands -/

/-- PORST_N (R578, R580): a low level of `lowUs` µs. -/
def execPorstN (lowUs : Nat) (s : State) : Host.Outcome State Fault Refusal :=
  if lowUs < 1 ∨ (lowUs < 10 ∧ Config.porstTaken lowUs = false) then ok s
  else ok (devReset s (BitVec.ofNat 32 (2 ^ 28)))

/-- POWER_ON_RESET (R523, R532, R580): reset is released and the device boots; while THERMTRIP_N is held it stays in
reset. -/
def execPowerOnReset (b : BootInfo) (s : State) : Host.Outcome State Fault Refusal :=
  if s.pins.thermTrip then ok s
  else ok (bootRom b (if s.boot.stage = 0 && !s.boot.recovery then s else devReset s (BitVec.ofNat 32 (2 ^ 28))))

/-- Post-package repairs of a stack's MEM tile, applied and refused (R386, R393). -/
def pprCounts (s : State) (t : Nat) : State :=
  let l := s.mem.softFuses.filter fun e => fuseGood e && e.kind == 3 && e.tile == t
  let bad := (spareAll l [] 0).2
  s.setReg (R.MEMC_PPR t) (BitVec.ofNat 32 ((l.length - bad) % 65536 * 65536 + bad % 65536))

/-- A stack is trained: repaired, and written with zeros and fresh codes (R386). -/
def stackUp (s : State) (q : Nat) : State :=
  let here (a : Nat) : Bool := placeOf s.part a == .hbm q
  let mem (m : MemState) : MemState := { m with cells := m.cells.filter fun c => !here c.1, marks := m.marks.filter fun c => !here c.1 }
  let s := { s with mem := mem s.mem }
  pprCounts (pprCounts (s.modBoot fun b => { b with hbmUp := b.hbmUp ++ [q] }) (memTiles q).1) (memTiles q).2

/-- HBM_TRAINING (R386, R537, R539): the MEM tiles of a stack run, and it trains, is trained once more, or leaves the device
in PARISON service. -/
def execHbmTraining (q : Nat) (pass : Bool) (s : State) : Host.Outcome State Fault Refusal :=
  if s.boot.phase ≠ 1 || !(hbmStacks s).contains q || s.boot.hbmUp.contains q || decide (1 < mgetD 0 s.boot.hbmTries q) then ok s
  else
    let s := lightIsland (lightTile (lightTile s (memTiles q).1) (memTiles q).2) (146 + q)
    if pass then ok (progress (stackUp s q))
    else
      let n := mgetD 0 s.boot.hbmTries q + 1
      let s := s.modBoot fun b => { b with hbmTries := mset q n b.hbmTries, hbmFailed := b.hbmFailed || decide (1 < n) }
      if n < 2 then ok s else ok (s.journal 0x0020 2 0xFFFF (Config.recordBody 0x0020 (leBytes 4 5 ++ leBytes 4 q)))

/-- PARISON_TIME_CONDITION (R537 step 3): servo LOCKED, no slave port configured, or 300 s since reset release. -/
def execParisonTimeCondition (s : State) : Host.Outcome State Fault Refusal :=
  if s.boot.stage = 7 && (servoState s == 2 || (slavePorts s).isEmpty || decide (300000000000 ≤ s.now)) then
    ok (progress (s.modBoot fun b => { b with timeOk := true }))
  else ok s

end Sys2Proof.Machine
end

