-- ==== Sys2Proof/Machine/NocNet.lean ====
section
/-! DEFINITION. Packets in the tile network (R349 to R356, R360): routes, virtual channels and datelines, the request
and response lanes of the routers, and the arbitration of each link. Assumption log: 2 (DESIGN CHOICE), 5 (DESIGN
CHOICE), 78 (DESIGN CHOICE). -/

namespace Sys2Proof.Machine

/-! ### Routes (R353, R354) -/

/-- `k` hops along a ring of `n` from coordinate `c`: the coordinates left, each with the virtual channel of its link: VC0,
and VC1 from the dateline link on. -/
def ringHops (n : Nat) (up : Bool) : Nat → Nat → Nat → List (Nat × Nat)
  | 0, _, _ => []
  | k + 1, c, vc =>
    let v := if (if up then c + 1 == n else c == 0) then 1 else vc
    (c, v) :: ringHops n up k (if up then (c + 1) % n else (c + n - 1) % n) v

/-- A leg of a route: whether it goes up, and its hops; the shorter way, upwards when both are equal. -/
def leg (n a b : Nat) : Bool × List (Nat × Nat) :=
  let d := (b + n - a) % n
  if 2 * d ≤ n then (true, ringHops n true d a 0) else (false, ringHops n false (n - d) a 0)

/-- The route of a packet: the X leg, then the Y leg; its own tile's packet is turned round in the router. -/
def route (p : Part) (a b : Nat) : List Hop :=
  if a = b then [{ tile := a, dir := 4, vc := 0 }]
  else
    let x := leg (torusW p) (a % 12) (b % 12)
    let y := leg (torusH p) (a / 12) (b / 12)
    x.2.map (fun h => { tile := a / 12 * 12 + h.1, dir := b2n !x.1, vc := h.2 })
      ++ y.2.map (fun h => { tile := h.1 * 12 + b % 12, dir := 2 + b2n !y.1, vc := h.2 })

/-! ### Lanes (R355) -/

/-- The packet uses the response lanes. -/
def Cargo.isAnswer : Cargo → Bool | .answer _ => true | .request _ => false

/-- Packets of the same class and kind share the lanes of a virtual channel. -/
def sameLanes (p q : Packet) : Bool := p.cls == q.cls && p.cargo.isAnswer == q.cargo.isAnswer

/-- The lane that a flit holds after `i` hops: router, the direction it came in by (5: its tile's port), and channel. -/
def laneAt (p : Packet) (i : Nat) : Option (Nat × Nat × Nat) :=
  (p.hops[i]?).map fun h => if i = 0 then (h.tile, 5, 0)
    else match p.hops[i - 1]? with
      | some g => (h.tile, g.dir, g.vc)
      | none => (h.tile, 5, 0)

/-- Flits of the lane after `i` hops that the packet holds: from the admission of its head, all that have not left it. -/
def heldAt (p : Packet) (i : Nat) : Nat :=
  if (p.flits.head?.map Prod.fst).getD 0 < i then 0 else (p.flits.filter fun f => decide (f.1 ≤ i)).length

/-- Flits of a lane that packets of the kind of `p` hold. -/
def laneUse (l : List Packet) (p : Packet) (lane : Option (Nat × Nat × Nat)) : Nat :=
  ((l.filter (sameLanes p)).map fun q =>
    (((List.range q.hops.length).filter fun i => laneAt q i == lane).map (heldAt q)).foldl (· + ·) 0).foldl (· + ·) 0

/-- The packet's next lane can take all of its flits; the destination tile always can. -/
def canEnter (l : List Packet) (p : Packet) (i : Nat) : Bool :=
  decide (p.hops.length ≤ i + 1) || decide (laneUse l p (laneAt p (i + 1)) + p.flits.length ≤ 4)

/-- The flit of a packet that may make hop `i` at transfer slot `u`, given the packets injected before it: flits go in
order, packets of one lane in order, and the head only into a lane that can hold the whole packet. -/
def readyFlit (l before : List Packet) (p : Packet) (i u : Nat) : Option Nat :=
  let j := p.flits.findIdx fun f => decide (f.1 ≤ i)
  match p.flits[j]? with
  | some f =>
    let first := laneUse before p (laneAt p i) == 0
    if f.1 = i ∧ f.2 ≤ u ∧ first ∧ (j ≠ 0 ∨ canEnter l p i) then some j else none
  | none => none

/-! ### Links (R350, R356) -/

/-- A link: the router it leaves and the direction. -/
abbrev Link := Nat × Nat

/-- Key of a link. -/
def linkKey (k : Link) : Nat := k.1 * 5 + k.2

/-- The hop of a packet that takes a link. -/
def hopOn (p : Packet) (k : Link) : Option Nat := p.hops.findIdx? fun h => h.tile == k.1 && h.dir == k.2

/-- A flit that a link could transfer: the packet's place, its class, the number of its lane, and the flit. -/
structure Bid where
  at_ : Nat
  cls : Nat
  lane : Nat
  flit : Nat
  deriving DecidableEq, Repr

/-- The lane's number among those that meet at a router, for round-robin service. -/
def vcNo (p : Packet) (i : Nat) : Nat :=
  match laneAt p i with
  | some l => l.2.1 * 4 + l.2.2 * 2 + b2n p.cargo.isAnswer
  | none => 0

/-- Every flit that link `k` could transfer in slot `u`. -/
def bids (l : List Packet) (k : Link) (u : Nat) : List Bid :=
  (List.range l.length).filterMap fun n =>
    (l[n]?).bind fun p => (hopOn p k).bind fun i =>
      (readyFlit l (l.take n) p i u).map fun j => { at_ := n, cls := p.cls, lane := vcNo p i, flit := j }

/-- The least of a list by a measure. -/
def leastBid (f : Bid → Nat) : List Bid → Option Bid
  | [] => none
  | b :: l => match leastBid f l with
    | none => some b
    | some c => some (if f b ≤ f c then b else c)

/-- The bid that wins (R356): strictly by class, and round-robin among the lanes of one class. -/
def winner (served : FMap Nat) (k : Link) (l : List Bid) : Option Bid :=
  leastBid (fun b => b.cls * 64 + (b.lane + 63 - mgetD 63 served (linkKey k * 4 + b.cls)) % 64) l

/-- A flit makes its next hop: 2.5 ns are four transfer slots (R360). -/
def advance (u j : Nat) (p : Packet) : Packet :=
  { p with flits := (List.range p.flits.length).zipWith (fun n f => if n = j then (f.1 + 1, u + 4) else f) p.flits }

/-- One transfer slot of one link. -/
def linkSlot (now u : Nat) (x : NocState) (k : Link) : NocState :=
  if now < mgetD 0 x.held (linkKey k) then x
  else match winner x.served k (bids x.flight k u) with
    | none => x
    | some b => { x with flight := x.flight.modify b.at_ (advance u b.flit),
                         served := mset (linkKey k * 4 + b.cls) b.lane x.served }

/-- The links that packets have yet to take. -/
def links (l : List Packet) : List Link := (l.flatMap fun p => p.hops.map fun h => (h.tile, h.dir)).eraseDups

/-- Every flit of the packet has arrived by slot `u`. -/
def landed (u : Nat) (p : Packet) : Bool := p.flits.all fun f => decide (p.hops.length ≤ f.1) && decide (f.2 ≤ u)

/-- Requests at their target, and answers at their requester, leave the network. -/
def landAll (u : Nat) (x : NocState) : NocState :=
  let reqs := (x.flight.filter (landed u)).filterMap fun p => match p.cargo with | .request q => some q | .answer _ => none
  { x with flight := x.flight.filter fun p => !landed u p, atTarget := x.atTarget ++ reqs }

/-- Transfer slots begun by a time: 1.6 per ns (R350). -/
def slotOfNs (t : Nat) : Nat := t * 8 / 5

/-- The network from `before` to the present: every slot of every link. In STILL the spine carries nothing (R349). -/
def nocTick (before s : State) : State :=
  if s.noc.flight.isEmpty || s.devState == 3 then s
  else
    let a := slotOfNs before.now
    let x := (List.range (slotOfNs s.now - a)).foldl (fun x i => (links x.flight).foldl (linkSlot s.now (a + i)) x) s.noc
    { s with noc := landAll (slotOfNs s.now) x }

/-- A packet enters the network at its tile's port. -/
def launchPacket (s : State) (c : Cargo) (cls src dst flits : Nat) : State :=
  let u := slotOfNs s.now
  let p : Packet := { cargo := c, cls := cls, hops := route s.part src dst, flits := List.replicate flits (0, u) }
  { s with noc := { s.noc with flight := s.noc.flight ++ [p] } }

/-- The packet that carries `c` has not arrived yet. -/
def flying (s : State) (c : Cargo) : Bool := s.noc.flight.any fun p => p.cargo == c

end Sys2Proof.Machine
end

