-- ==== Sys2Proof/Machine/Noc.lean ====
section
/-! DEFINITION. The tile network (R348 to R364): injection regulators, READ, WRITE, MESSAGE, RESPONSE and RETURN
packets, and link errors. Assumption log: 77 (DESIGN CHOICE), 78 (DESIGN CHOICE), 102 (DESIGN CHOICE). -/

namespace Sys2Proof.Machine

/-! ### Injection regulators (R359) -/

/-- A packet of `n` flits may be injected now. -/
def mayInject (s : State) (t c n : Nat) : Bool :=
  decide (1600 ≤ nocRate s t c) || (nocRate s t c != 0 && decide (n * 1024 ≤ nocTokens s t c))

/-- Reduce a bucket by `n` flits. -/
def chargeFlits (s : State) (t c n : Nat) : State :=
  let s := settleTokens s t c
  s.modReg (R.NOC_INJ_TOKENS t c) fun w => BitVec.ofNat 32 (w.toNat - n * 1024)

/-- A packet waits for tokens: it is counted, and THROTTLED is set. -/
def countWait (s : State) (t c : Nat) : State := (s.count (R.NOC_CNT_WAIT t c) 1).orReg (R.NOC_STAT t) 0

/-- An access of a tile stays inside it, and no packet is injected. -/
def isLocal (s : State) (t a : Nat) : Bool := serverOf a (placeOf s.part a) == t

/-- Packets of `n` bytes from `a`: their lengths, none crossing a 512-byte block (R352). -/
def packetLens : Nat → Nat → Nat → List Nat
  | 0, _, _ => []
  | fuel + 1, a, n =>
    if n = 0 then [] else let k := min n (512 - a % 512); k :: packetLens fuel (a + k) (n - k)

/-- Flits that the READs of `n` bytes inject. -/
def readFlits (s : State) (t a n : Nat) : Nat := if isLocal s t a then 0 else (packetLens (n / 512 + 2) a n).length
/-- Flits that the WRITEs of `n` bytes inject. -/
def writeFlits (s : State) (t a n : Nat) : Nat :=
  if isLocal s t a then 0 else ((packetLens (n / 512 + 2) a n).map fun k => ceilDiv k 128).foldl (· + ·) 0

/-! ### Requests -/

/-- The destination tile of an address does not exist in the part (R4, R348). -/
def absentDest (s : State) (a : Nat) : Bool :=
  if a < 0x1800000000 then !quadPresent s.part (a / 0x600000000)
  else if 0x010000000000 ≤ a && a < 0x010900000000 then !tilePresent s.part ((a - 0x010000000000) / 0x10000000)
  else if 0x020000100000 ≤ a && a < 0x020000140000 then !quadPresent s.part ((a - 0x020000100000) / 0x10000)
  else if 0x020000200000 ≤ a && a < 0x020000280000 then !tilePresent s.part (iotTile ((a - 0x020000200000) / 0x10000))
  else if 0x040000000000 ≤ a && a < 0x040400000000 then !quadPresent s.part ((a - 0x040000000000) / 0x100000000)
  else false

/-- The tile that an address leads a packet to: the tile of its window, or the one that serves it; none for an unassigned
address, which fails at its requester (R365, R367). -/
def nocDest (s : State) (a : Nat) : Option Nat :=
  match placeOf s.part a with
  | .nowhere => if 0x010000000000 ≤ a && a < 0x010900000000 then some ((a - 0x010000000000) / 0x10000000) else none
  | pl => some (serverOf a pl)

/-- A request of the same class and tile that waits for tokens, and is not this one, stands before it: a waiting packet
holds back its class (R358, R359). -/
def waitsBehind (s : State) (q : NocReq) : Bool :=
  match s.noc.waiting.find? fun x => x.src == q.src && x.cls == q.cls with
  | some x => x != q
  | none => false

/-- The waiting requests once `q` has left: the requesters of its class in its tile are served round-robin (R359). -/
def leaveWaiting (q : NocReq) (l : List NocReq) : List NocReq :=
  let same (x : NocReq) : Bool := x.src == q.src && x.req == q.req && x.cls == q.cls
  let l := l.erase q
  l.filter (fun x => !same x) ++ l.filter same

/-- Whether a request enters the network now; the state with its tokens taken, or with it waiting. -/
def inject (q : NocReq) (flits : Nat) (s : State) : Bool × State :=
  if !waitsBehind s q && mayInject s q.src q.cls flits then
    let s := chargeFlits s q.src q.cls flits
    (true, { s with noc := { s.noc with waiting := leaveWaiting q s.noc.waiting } })
  else if s.noc.waiting.contains q then (false, s)
  else
    let s := countWait s q.src q.cls
    (false, { s with noc := { s.noc with waiting := s.noc.waiting ++ [q] } })

/-- The network carries packets for a tile: the spine runs and the tile is not asleep (R349). -/
def canSend (s : State) (t : Nat) : Bool := s.devState != 3 && (tileRun s t || t == ctlH || t == ctlG)

/-- The virtual channel of the last link of a route (R354). -/
def lastVc (p : Part) (src dst : Nat) : Nat := ((route p src dst).getLast?.map Hop.vc).getD 0

/-- The header of a packet (R351), as bytes. -/
def packetHeader (q : NocReq) (dst flits vc : Nat) : List Byte :=
  leBytes 16 (q.addr % 2 ^ 48 + vc % 2 * 2 ^ 109 + (q.nbytes - 1) % 1024 * 2 ^ 70 + q.req % 64 * 2 ^ 88 + (flits - 1) % 4 * 2 ^ 94
    + q.tag % 1024 * 2 ^ 96 + q.op * 2 ^ 106 + q.cls * 2 ^ 110 + q.src * 2 ^ 112 + dst * 2 ^ 120)

/-- Put an answer on its way in the class of its request, and note the request as outstanding. -/
def sendBack (q : NocReq) (r : NocResp) (s : State) : State :=
  let out := if q.op = 2 then s.noc.outstanding else s.noc.outstanding ++ [q]
  let s := launchPacket s (.answer r) r.cls r.src r.dst (if r.op = 3 then max 1 (ceilDiv r.data.length 128) else 1)
  { s with noc := { s.noc with responses := s.noc.responses ++ [r], outstanding := out } }

/-- A tile that has left RUN returns a request to its sender (R362, R363). -/
def returnToSender (q : NocReq) (dst flits : Nat) (s : State) : State :=
  let s := (s.count (R.NOC_CNT_RET_SENT dst) 1).orReg (R.NOC_STAT dst) 1
  sendBack q { dst := q.src, src := dst, req := q.req, tag := q.tag, cls := q.cls, op := 4, status := 4, addr := q.addr,
               nbytes := q.nbytes, data := packetHeader q dst flits (lastVc s.part q.src dst) ++ List.replicate 112 0#8 } s

/-- The RESPONSE to a request. -/
def respond (q : NocReq) (dst status : Nat) (data : List Byte) (s : State) : State :=
  sendBack q { dst := q.src, src := dst, req := q.req, tag := q.tag, cls := q.cls, op := 3, status := status,
               addr := q.addr, nbytes := q.nbytes, data := data } s

/-- The bytes of a READ or WRITE lie within one 512-byte block (R352). -/
def inOneBlock (a n : Nat) : Bool := n != 0 && decide (a % 512 + n ≤ 512)

/-- A request to an absent tile is not injected (R348). -/
def refuseAtPort (src : Nat) (s : State) : State := (s.count (R.NOC_CNT_DECODE src) 1).answer (.error .decodeErr)

/-- A request that has reached its target tile. -/
def atTarget (s : State) (q : NocReq) : Bool := s.noc.atTarget.contains q
/-- The target tile takes a request in. -/
def takeRequest (q : NocReq) (s : State) : State := { s with noc := { s.noc with atTarget := s.noc.atTarget.erase q } }

/-- Carry a request to its target tile `dst`: it enters the network once it has its tokens; when it has arrived, `act` is
what the target does with it, unless the tile returns it. -/
def carry (q : NocReq) (dst flits : Nat) (act : State → State) (s : State) : State :=
  if atTarget s q then
    let t := takeRequest q s
    if answers t q.by_ dst then act t else returnToSender q dst flits t
  else if flying s (.request q) || !canSend s q.src then s
  else
    let x := inject q flits s
    if x.1 then launchPacket x.2 (.request q) q.cls q.src dst flits else x.2

/-- NOC_READ (R348, R352, R359, R362, R365): the target answers with data, an error status or a RETURN. -/
def execNocRead (r : Requester) (cls : Fin 4) (tag req addr n : Nat) (s : State) : Host.Outcome State Fault Refusal :=
  if !inOneBlock addr n then ok s
  else if absentDest s addr then ok (refuseAtPort (reqTile r) s)
  else match nocDest s addr with
  | none => ok (s.answer (.error .decodeErr))
  | some dst =>
    let q : NocReq := { src := reqTile r, req := req, tag := tag, cls := cls, op := 0, by_ := r, addr := addr, nbytes := n, data := [] }
    ok (carry q dst 1 (fun s =>
      let x := busRead r addr n s
      match x.1 with
      | .ok b => respond q dst 0 b x.2
      | .error c => respond q dst c.num [] x.2) s)

/-- NOC_WRITE (R348, R352, R359, R362, R365): the target writes and acknowledges, or returns it. -/
def execNocWrite (r : Requester) (cls : Fin 4) (tag req addr : Nat) (data : List Byte) (s : State) :
    Host.Outcome State Fault Refusal :=
  if !inOneBlock addr data.length then ok s
  else if absentDest s addr then ok (refuseAtPort (reqTile r) s)
  else match nocDest s addr with
  | none => ok (s.answer (.error .decodeErr))
  | some dst =>
    let q : NocReq := { src := reqTile r, req := req, tag := tag, cls := cls, op := 1, by_ := r, addr := addr,
                        nbytes := data.length, data := data }
    ok (carry q dst (ceilDiv data.length 128) (fun s =>
      let x := busWrite r addr data s
      match x.1 with
      | none => respond q dst 0 [] x.2
      | some c => respond q dst c.num [] x.2) s)

/-- NOC_MESSAGE (R348, R352, R362): 1 to 4 flits reach the unit that the message names, or are returned. -/
def execNocMessage (r : Requester) (cls : Fin 4) (tag req dst addr : Nat) (data : List Byte) (s : State) :
    Host.Outcome State Fault Refusal :=
  let flits := max 1 (ceilDiv data.length 128)
  if 4 < flits then ok s
  else if !tilePresent s.part dst then ok (refuseAtPort (reqTile r) s)
  else
    let q : NocReq := { src := reqTile r, req := req, tag := tag, cls := cls, op := 2, by_ := r, addr := addr,
                        nbytes := data.length, data := data }
    let m : NocMsg := { src := q.src, dst := dst, cls := cls, addr := addr, data := data }
    ok (carry q dst flits (fun s => { s with noc := { s.noc with messages := s.noc.messages ++ [m] } }) s)

/-! ### Answers -/

/-- The first answer to a request that has come back, by its kind. -/
def answerTo (s : State) (dst req tag op : Nat) : Option NocResp :=
  s.noc.responses.find? fun x => x.dst == dst && x.req == req && x.tag == tag && x.op == op && !flying s (.answer x)

/-- An answer leaves the network, and its request is no longer outstanding. -/
def takeAnswer (x : NocResp) (s : State) : State :=
  let same (q : NocReq) : Bool := q.src == x.dst && q.req == x.req && q.tag == x.tag && q.cls == x.cls
  { s with noc := { s.noc with responses := s.noc.responses.erase x, outstanding := s.noc.outstanding.eraseP same } }

/-- The tile drops what arrives: it is in KEEP or OFF (R362). -/
def dropsAnswers (s : State) (t : Nat) : Bool := dState s t == 2

/-- An answer dropped at a sleeping tile. -/
def dropAnswer (t : Nat) (s : State) : State := (s.count (R.NOC_CNT_DROP t) 1).orReg (R.NOC_STAT t) 2

/-- The cause of a status of R351. -/
def statusCause : Nat → BusCause
  | 2 => .ue | 3 => .prot | 4 => .domainAsleep | _ => .decodeErr

/-- NOC_RESPONSE (R352, R362): a RESPONSE reaches its requester, or is dropped at a sleeping tile. -/
def execNocResponse (dst req tag : Nat) (s : State) : Host.Outcome State Fault Refusal :=
  match answerTo s dst req tag 3 with
  | none => ok s
  | some x =>
    let s := takeAnswer x s
    if dropsAnswers s dst then ok (dropAnswer dst s)
    else ok (s.answer (if x.status = 0 then (if x.data.isEmpty then .done else .bytes x.data)
                       else .error (statusCause x.status)))

/-- NOC_RETURN (R363): a RETURN reaches its sender, which treats the request as DOMAIN_ASLEEP. -/
def execNocReturn (dst req tag : Nat) (s : State) : Host.Outcome State Fault Refusal :=
  match answerTo s dst req tag 4 with
  | none => ok s
  | some x =>
    let s := takeAnswer x s
    if dropsAnswers s dst then ok (dropAnswer dst s)
    else ok ((s.count (R.NOC_CNT_RET_RCVD dst) 1).answer (.error .domainAsleep))

/-! ### Links (R350) -/

/-- Consecutive failed replays of a link. -/
def linkFails (s : State) (t l : Nat) : Nat := mgetD 0 s.noc.replays (t * 4 + l)

/-- LINK_CRC_REPLAY (R350): a transfer that failed its CRC is replayed, which holds its link for 5 ns, and counted; `fails` where the replay fails
as well. -/
def execLinkCrcReplay (tile : Nat) (link : Fin 4) (fails : Bool) (s : State) : Host.Outcome State Fault Refusal :=
  if !tilePresent s.part tile || s.devState == 3 then ok s
  else
    let n := if fails then linkFails s tile link + 1 else 0
    let s := s.count (R.NOC_CNT_LINK_RETRY tile) 1
    let held := mset (linkKey (tile, link.val)) (s.now + 5) s.noc.held
    ok { s with noc := { s.noc with replays := mset (tile * 4 + link) n s.noc.replays, held := held } }

/-- LINK_FAIL (R350): after 64 consecutive failed replays the router sets LINK_FAIL and the Gaffer journals the fault;
the link keeps retrying. -/
def execLinkFail (tile : Nat) (link : Fin 4) (s : State) : Host.Outcome State Fault Refusal :=
  if linkFails s tile link < 64 then ok s
  else ok ((s.orReg (R.NOC_STAT tile) 3).journal Config.linkFailRecord.1 Config.linkFailRecord.2 tile
    (Config.recordBody Config.linkFailRecord.1 [BitVec.ofNat 8 link.val]))

end Sys2Proof.Machine
end

