-- ==== Sys2Proof/Machine/CoreMac.lean ====
section
/-! DEFINITION. The quad-multiplier unit and the accumulators (R245, R248 to R250). -/

namespace Sys2Proof.Machine

/-- Real part of a c16 word. -/
def cRe (w : Word) : Int := (w.extractLsb' 0 16).toInt
/-- Imaginary part of a c16 word. -/
def cIm (w : Word) : Int := (w.extractLsb' 16 16).toInt

/-- Add to an accumulator half, saturating (R249): the new half and whether it clamped. -/
def accAdd (h : BitVec 40) (p : Int) : BitVec 40 × Bool :=
  let v := h.toInt + p
  (BitVec.ofInt 40 (satSigned 40 v), satSigned 40 v != v)

/-- Add (re, im) to ACCn. -/
def accAdd2 (x : Core) (n : Nat) (re im : Int) : Core :=
  let a := accAdd (x.accRe n) re
  let b := accAdd (x.accIm n) im
  (x.setAcc n a.1 b.1).accov (a.2 || b.2)

/-- a × b (R248). -/
def cmulP (a b : Word) : Int × Int := (cRe a * cRe b - cIm a * cIm b, cRe a * cIm b + cIm a * cRe b)
/-- a × conj(b) (R248). -/
def cmuljP (a b : Word) : Int × Int := (cRe a * cRe b + cIm a * cIm b, cIm a * cRe b - cRe a * cIm b)

/-- CMAC: ACCn += a × b (R245, R248, R249). -/
def execCmac (k : Issue) (n : Fin 4) (ga gb : Fin 32) (s : State) : Host.Outcome State Fault Refusal :=
  plain k .x false (fun x => let p := cmulP (x.gr ga) (x.gr gb); accAdd2 x n p.1 p.2) s
/-- CMACJ: ACCn += a × conj(b). -/
def execCmacj (k : Issue) (n : Fin 4) (ga gb : Fin 32) (s : State) : Host.Outcome State Fault Refusal :=
  plain k .x false (fun x => let p := cmuljP (x.gr ga) (x.gr gb); accAdd2 x n p.1 p.2) s
/-- CMSU: ACCn −= a × b. -/
def execCmsu (k : Issue) (n : Fin 4) (ga gb : Fin 32) (s : State) : Host.Outcome State Fault Refusal :=
  plain k .x false (fun x => let p := cmulP (x.gr ga) (x.gr gb); accAdd2 x n (-p.1) (-p.2)) s
/-- CMUL: ACCn = a × b. -/
def execCmul (k : Issue) (n : Fin 4) (ga gb : Fin 32) (s : State) : Host.Outcome State Fault Refusal :=
  plain k .x false (fun x =>
    let p := cmulP (x.gr ga) (x.gr gb); x.setAcc n (BitVec.ofInt 40 p.1) (BitVec.ofInt 40 p.2)) s

/-- FIR4 (R248): four halves of ACCn and ACC(n+1); n = 1 or 3 raises ILLEGAL. -/
def execFir4 (k : Issue) (n : Fin 4) (ga gb gc : Fin 32) (hi : Bool) (s : State) :
    Host.Outcome State Fault Refusal :=
  ok (issue k .x false (fun s x =>
    if n.val % 2 = 1 then syncExc k s { cause := .illegal }
    else
      let c := if hi then cIm (x.gr gc) else cRe (x.gr gc)
      let y := accAdd2 x n (cRe (x.gr ga) * c) (cIm (x.gr ga) * c)
      done k s (accAdd2 y (n.val + 1) (cRe (x.gr gb) * c) (cIm (x.gr gb) * c)))
    s (fun _ => n.val % 2 = 1))

/-- Narrow one half by rs to `w` bits (R250): the value and whether it clamped. -/
def narrow (w rs : Nat) (h : BitVec 40) : Int × Bool :=
  let q := rneShift h.toInt rs
  (satSigned w q, satSigned w q != q)

/-- The c16 word of two narrowed halves. -/
def c16 (re im : Int) : Word := BitVec.ofInt 16 im ++ BitVec.ofInt 16 re

/-- STACC.C (R245, R250). -/
def staccC (x : Core) (gd n rs : Nat) : Core :=
  let a := narrow 16 rs (x.accRe n)
  let b := narrow 16 rs (x.accIm n)
  (x.setG gd (c16 a.1 b.1)).sat (a.2 || b.2)
/-- STACC.RE and STACC.IM: one half to 32 bits. -/
def staccHalf (x : Core) (gd rs : Nat) (h : BitVec 40) : Core :=
  let a := narrow 32 rs h
  (x.setG gd (BitVec.ofInt 32 a.1)).sat a.2

/-- STACC.C (R250). -/
def execStaccC (k : Issue) (gd : Fin 32) (n : Fin 4) (rs : Fin 40) (s : State) : Host.Outcome State Fault Refusal :=
  plain k .x false (fun x => staccC x gd n rs) s
/-- STACC.RE (R250). -/
def execStaccRe (k : Issue) (gd : Fin 32) (n : Fin 4) (rs : Fin 40) (s : State) : Host.Outcome State Fault Refusal :=
  plain k .x false (fun x => staccHalf x gd rs (x.accRe n)) s
/-- STACC.IM (R250). -/
def execStaccIm (k : Issue) (gd : Fin 32) (n : Fin 4) (rs : Fin 40) (s : State) : Host.Outcome State Fault Refusal :=
  plain k .x false (fun x => staccHalf x gd rs (x.accIm n)) s
/-- STACC.CZ: as STACC.C, then ACCn = 0 (R245). -/
def execStaccCz (k : Issue) (gd : Fin 32) (n : Fin 4) (rs : Fin 40) (s : State) : Host.Outcome State Fault Refusal :=
  plain k .x false (fun x => (staccC x gd n rs).setAcc n 0#40 0#40) s
/-- ACCCLR (R245). -/
def execAccclr (k : Issue) (n : Fin 4) (s : State) : Host.Outcome State Fault Refusal :=
  plain k .x false (fun x => x.setAcc n 0#40 0#40) s
/-- ACCLD: re = sext(Ga), im = sext(Gb) (R245). -/
def execAccld (k : Issue) (n : Fin 4) (ga gb : Fin 32) (s : State) : Host.Outcome State Fault Refusal :=
  plain k .x false (fun x => x.setAcc n ((x.gr ga).signExtend 40) ((x.gr gb).signExtend 40)) s
/-- ACCADD: ACCn += ACCm (R245, R249). -/
def execAccadd (k : Issue) (n m : Fin 4) (s : State) : Host.Outcome State Fault Refusal :=
  plain k .x false (fun x => accAdd2 x n (x.accRe m).toInt (x.accIm m).toInt) s

end Sys2Proof.Machine
end

