-- ==== Sys2Proof/Machine/Vector.lean ====
section
/-! DEFINITION. The fixed-point vector instructions (R279 to R289). -/

namespace Sys2Proof

/-- Width of an element in bits. -/
def VTy.w : VTy → Nat
  | .i8 => 8 | .i16 | .f16 | .bf16 => 16 | .i32 | .c16 | .f32 => 32 | .c32 => 64
/-- Width of a component: half an element for the complex types (R279). -/
def VTy.cw : VTy → Nat
  | .i8 => 8 | .i16 | .c16 | .f16 | .bf16 => 16 | .i32 | .c32 | .f32 => 32
/-- Integer types. -/
def VTy.int : VTy → Bool
  | .i8 | .i16 | .i32 => true | _ => false
/-- Complex types. -/
def VTy.cplx : VTy → Bool
  | .c16 | .c32 => true | _ => false
/-- Fixed-point types. -/
def VTy.fixed (t : VTy) : Bool := t.int || t.cplx
/-- Floating-point types. -/
def VTy.flt : VTy → Bool
  | .f16 | .bf16 | .f32 => true | _ => false

end Sys2Proof

namespace Sys2Proof.Machine

/-! ### Elements -/

/-- The `n` fields of width `w` of a number, lowest first. -/
def fields (w : Nat) : Nat → Nat → List Nat
  | 0, _ => []
  | n + 1, v => v % 2 ^ w :: fields w n (v >>> w)
/-- The fields of width `w` of a V register (R279). -/
def lanes (w : Nat) (v : BitVec 512) : List Nat := fields w (512 / w) v.toNat
/-- A number from fields of width `w`, lowest first. -/
def packN (w : Nat) : List Nat → Nat
  | [] => 0
  | a :: l => a % 2 ^ w + 2 ^ w * packN w l
/-- A V register from lanes of width `w`. -/
def pack (w : Nat) (l : List Nat) : BitVec 512 := BitVec.ofNat 512 (packN w l)
/-- Signed lanes. -/
def slanes (w : Nat) (v : BitVec 512) : List Int := (lanes w v).map (toSigned w)

/-- The result of an exact value with `d` bits to discard under a mode (R285): the pattern and whether it
saturated. -/
def modeRes (mode : Nat) (w d : Nat) (x : Int) : Nat × Bool :=
  let q := if mode = 2 ∨ mode = 3 then rneShift x d else x.fdiv ((2 ^ d : Nat) : Int)
  if mode = 1 ∨ mode = 2 then (ofSigned w (satSigned w q), satSigned w q != q) else (ofSigned w q, false)

/-- The results of a list of exact values. -/
def modeList (mode w d : Nat) (l : List Int) : List Nat × Bool :=
  (l.map fun x => (modeRes mode w d x).1, l.any fun x => (modeRes mode w d x).2)

/-! ### Issue -/

/-- A format V instruction: where its form is defined it changes its core, else it raises ILLEGAL (R238, R286,
R292). -/
def vins (k : Issue) (okForm : Bool) (f : Core → Core) (s : State) : Host.Outcome State Fault Refusal :=
  ok (issue k .v false (fun s x => if okForm then done k s (f x) else syncExc k s { cause := .illegal }) s
    (fun _ => !okForm))

/-- Write Vd from exact component values under a mode, setting SAT (R285). -/
def wrMode (x : Core) (vd : Nat) (mode w d : Nat) (l : List Int) : Core :=
  let r := modeList mode w d l
  (x.setV vd (pack w r.1)).sat r.2

/-- A component-wise fixed-point operation on two registers. -/
def vbin (op : Int → Int → Int) (d : Nat) (okTy : VTy → Bool) (k : Issue) (vd va vb : Fin 32) (ty : VTy) (mode : Fin 4)
    (s : State) : Host.Outcome State Fault Refusal :=
  vins k (okTy ty) (fun x =>
    wrMode x vd mode ty.cw d (List.zipWith op (slanes ty.cw (x.vr va)) (slanes ty.cw (x.vr vb)))) s

/-- A component-wise fixed-point operation on one register. -/
def vun (op : Int → Int) (d : Nat) (okForm : Bool) (k : Issue) (vd va : Fin 32) (ty : VTy) (mode : Fin 4)
    (s : State) : Host.Outcome State Fault Refusal :=
  vins k okForm (fun x => wrMode x vd mode ty.cw d ((slanes ty.cw (x.vr va)).map op)) s

/-- A bitwise operation on whole registers. -/
def vbits (op : BitVec 512 → BitVec 512 → BitVec 512) (k : Issue) (vd va vb : Fin 32) (ty : VTy) (mode : Fin 4)
    (s : State) : Host.Outcome State Fault Refusal :=
  vins k (ty.int && mode == 0) (fun x => x.setV vd (op (x.vr va) (x.vr vb))) s

/-! ### Element ALU (major 0x20) -/

/-- VADD (R287). -/
def execVadd (k : Issue) (vd va vb : Fin 32) (ty : VTy) (mode : Fin 4) (s : State) : Host.Outcome State Fault Refusal :=
  vbin (· + ·) 0 VTy.fixed k vd va vb ty mode s
/-- VSUB (R287). -/
def execVsub (k : Issue) (vd va vb : Fin 32) (ty : VTy) (mode : Fin 4) (s : State) : Host.Outcome State Fault Refusal :=
  vbin (· - ·) 0 VTy.fixed k vd va vb ty mode s
/-- VAVG: the exact sum with one bit discarded (R287). -/
def execVavg (k : Issue) (vd va vb : Fin 32) (ty : VTy) (mode : Fin 4) (s : State) : Host.Outcome State Fault Refusal :=
  vbin (· + ·) 1 VTy.fixed k vd va vb ty mode s
/-- VNEG (R287). -/
def execVneg (k : Issue) (vd va : Fin 32) (ty : VTy) (mode : Fin 4) (s : State) : Host.Outcome State Fault Refusal :=
  vun (- ·) 0 ty.fixed k vd va ty mode s
/-- VABS: integer types (R287). -/
def execVabs (k : Issue) (vd va : Fin 32) (ty : VTy) (mode : Fin 4) (s : State) : Host.Outcome State Fault Refusal :=
  vun (fun a => (a.natAbs : Int)) 0 ty.int k vd va ty mode s
/-- VMIN (R287, R286). -/
def execVmin (k : Issue) (vd va vb : Fin 32) (ty : VTy) (mode : Fin 4) (s : State) : Host.Outcome State Fault Refusal :=
  vins k (ty.int && mode == 0) (fun x =>
    x.setV vd (pack ty.w ((List.zipWith min (slanes ty.w (x.vr va)) (slanes ty.w (x.vr vb))).map (ofSigned ty.w)))) s
/-- VMAX (R287, R286). -/
def execVmax (k : Issue) (vd va vb : Fin 32) (ty : VTy) (mode : Fin 4) (s : State) : Host.Outcome State Fault Refusal :=
  vins k (ty.int && mode == 0) (fun x =>
    x.setV vd (pack ty.w ((List.zipWith max (slanes ty.w (x.vr va)) (slanes ty.w (x.vr vb))).map (ofSigned ty.w)))) s
/-- VAND (R287). -/
def execVand (k : Issue) (vd va vb : Fin 32) (ty : VTy) (mode : Fin 4) (s : State) : Host.Outcome State Fault Refusal :=
  vbits (· &&& ·) k vd va vb ty mode s
/-- VOR (R287). -/
def execVor (k : Issue) (vd va vb : Fin 32) (ty : VTy) (mode : Fin 4) (s : State) : Host.Outcome State Fault Refusal :=
  vbits (· ||| ·) k vd va vb ty mode s
/-- VXOR (R287). -/
def execVxor (k : Issue) (vd va vb : Fin 32) (ty : VTy) (mode : Fin 4) (s : State) : Host.Outcome State Fault Refusal :=
  vbits (· ^^^ ·) k vd va vb ty mode s
/-- VANDN (R287). -/
def execVandn (k : Issue) (vd va vb : Fin 32) (ty : VTy) (mode : Fin 4) (s : State) : Host.Outcome State Fault Refusal :=
  vbits (fun a b => a &&& ~~~b) k vd va vb ty mode s
/-- VSHLI: a × 2^sh, sh below the width (R287). -/
def execVshli (k : Issue) (vd va : Fin 32) (sh : Fin 32) (ty : VTy) (mode : Fin 4) (s : State) :
    Host.Outcome State Fault Refusal :=
  vun (fun a => a * ((2 ^ sh.val : Nat) : Int)) 0 (ty.fixed && decide (sh.val < ty.cw)) k vd va ty mode s
/-- VSARI: a × 2^−sh, bits discarded per mode (R287). -/
def execVsari (k : Issue) (vd va : Fin 32) (sh : Fin 32) (ty : VTy) (mode : Fin 4) (s : State) :
    Host.Outcome State Fault Refusal :=
  vun id sh (ty.fixed && decide (sh.val < ty.cw)) k vd va ty mode s
/-- VSHRI: logical, integer types, mode 0b00 (R287). -/
def execVshri (k : Issue) (vd va : Fin 32) (sh : Fin 32) (ty : VTy) (mode : Fin 4) (s : State) :
    Host.Outcome State Fault Refusal :=
  vins k (ty.int && mode == 0 && decide (sh.val < ty.w)) (fun x =>
    x.setV vd (pack ty.w ((lanes ty.w (x.vr va)).map (· >>> sh.val)))) s
/-- A compare: all ones where it holds (R287). -/
def vcmp (p : Int → Int → Bool) (okForm : Bool) (k : Issue) (vd va vb : Fin 32) (ty : VTy) (s : State) :
    Host.Outcome State Fault Refusal :=
  vins k okForm (fun x =>
    x.setV vd (pack ty.w (List.zipWith (fun a b => if p a b then 2 ^ ty.w - 1 else 0) (slanes ty.w (x.vr va))
      (slanes ty.w (x.vr vb))))) s
/-- VCMPEQ (R287). -/
def execVcmpeq (k : Issue) (vd va vb : Fin 32) (ty : VTy) (mode : Fin 4) (s : State) : Host.Outcome State Fault Refusal :=
  vcmp (fun a b => a == b) (ty.fixed && mode == 0) k vd va vb ty s
/-- VCMPLT: signed, integer types (R287). -/
def execVcmplt (k : Issue) (vd va vb : Fin 32) (ty : VTy) (mode : Fin 4) (s : State) : Host.Outcome State Fault Refusal :=
  vcmp (fun a b => decide (a < b)) (ty.int && mode == 0) k vd va vb ty s
/-- VSEL: (Vd & Va) | (~Vd & Vb) (R287). -/
def execVsel (k : Issue) (vd va vb : Fin 32) (ty : VTy) (mode : Fin 4) (s : State) : Host.Outcome State Fault Refusal :=
  vins k (ty.fixed && mode == 0) (fun x =>
    x.setV vd ((x.vr vd &&& x.vr va) ||| (~~~(x.vr vd) &&& x.vr vb))) s

/-- Pairs of components to complex elements. -/
def pairUp : List Int → List (Int × Int)
  | a :: b :: l => (a, b) :: pairUp l
  | _ => []
/-- Complex elements of a register. -/
def clanes (w : Nat) (v : BitVec 512) : List (Int × Int) := pairUp (slanes w v)
/-- Components of complex elements. -/
def unpair (l : List (Int × Int)) : List Int := l.flatMap fun p => [p.1, p.2]

/-- A complex operation on one register. -/
def vcun (op : Int × Int → Int × Int) (k : Issue) (vd va : Fin 32) (ty : VTy) (mode : Fin 4) (s : State) :
    Host.Outcome State Fault Refusal :=
  vins k ty.cplx (fun x => wrMode x vd mode ty.cw 0 (unpair ((clanes ty.cw (x.vr va)).map op))) s
/-- VCONJ (R287). -/
def execVconj (k : Issue) (vd va : Fin 32) (ty : VTy) (mode : Fin 4) (s : State) : Host.Outcome State Fault Refusal :=
  vcun (fun p => (p.1, -p.2)) k vd va ty mode s
/-- VROTJ: j × a (R287). -/
def execVrotj (k : Issue) (vd va : Fin 32) (ty : VTy) (mode : Fin 4) (s : State) : Host.Outcome State Fault Refusal :=
  vcun (fun p => (-p.2, p.1)) k vd va ty mode s

/-! ### Multiply (major 0x21) -/

/-- VMUL: a × b to width w; i8 and i16 (R287). -/
def execVmul (k : Issue) (vd va vb : Fin 32) (ty : VTy) (mode : Fin 4) (s : State) : Host.Outcome State Fault Refusal :=
  vbin (· * ·) 0 (fun t => t == .i8 || t == .i16) k vd va vb ty mode s
/-- VMULHR: 2ab × 2^−w; i16 and i32 (R287). -/
def execVmulhr (k : Issue) (vd va vb : Fin 32) (ty : VTy) (mode : Fin 4) (s : State) : Host.Outcome State Fault Refusal :=
  vbin (fun a b => 2 * a * b) ty.w (fun t => t == .i16 || t == .i32) k vd va vb ty mode s

/-- Complex product. -/
def cmulI (a b : Int × Int) : Int × Int := (a.1 * b.1 - a.2 * b.2, a.1 * b.2 + a.2 * b.1)
/-- Complex product with the conjugate. -/
def cmuljI (a b : Int × Int) : Int × Int := (a.1 * b.1 + a.2 * b.2, a.2 * b.1 - a.1 * b.2)
/-- A complex multiply scaled by 2^−(w−1) (R287). -/
def vcmulOp (op : Int × Int → Int × Int → Int × Int) (k : Issue) (vd va vb : Fin 32) (ty : VTy) (mode : Fin 4)
    (s : State) : Host.Outcome State Fault Refusal :=
  vins k ty.cplx (fun x =>
    wrMode x vd mode ty.cw (ty.cw - 1) (unpair (List.zipWith op (clanes ty.cw (x.vr va)) (clanes ty.cw (x.vr vb))))) s
/-- VCMUL (R287). -/
def execVcmul (k : Issue) (vd va vb : Fin 32) (ty : VTy) (mode : Fin 4) (s : State) : Host.Outcome State Fault Refusal :=
  vcmulOp cmulI k vd va vb ty mode s
/-- VCMULJ (R287). -/
def execVcmulj (k : Issue) (vd va vb : Fin 32) (ty : VTy) (mode : Fin 4) (s : State) : Host.Outcome State Fault Refusal :=
  vcmulOp cmuljI k vd va vb ty mode s

/-! ### Widening accumulate (major 0x22) -/

/-- One accumulation (R288): p × 2^−8 rounded, added and saturated to 32 bits. -/
def wacc (acc p : Int) : Int × Bool :=
  let v := acc + rneShift p 8
  (satSigned 32 v, satSigned 32 v != v)

/-- The 32-bit lanes of a pair (R280). -/
def pairLanes (x : Core) (v : Nat) : List Int := slanes 32 (x.vr v) ++ slanes 32 (x.vr (v + 1))
/-- Write the 32-bit lanes of a pair. -/
def setPair (x : Core) (v : Nat) (l : List Int) : Core :=
  (x.setV v (pack 32 ((l.take 16).map (ofSigned 32)))).setV (v + 1) (pack 32 ((l.drop 16).map (ofSigned 32)))

/-- Accumulate products into the pair at Vd, setting ACCOV (R288). -/
def vacc (x : Core) (vd : Nat) (ps : List Int) : Core :=
  let r := List.zipWith wacc (pairLanes x vd) ps
  (setPair x vd (r.map Prod.fst)).accov (r.any Prod.snd)

/-- A widening accumulation: source type, mode 0b10 and an even pair, else ILLEGAL (R280, R288). -/
def vmacOp (want : VTy) (ps : Core → List Int) (k : Issue) (vd : Fin 32) (ty : VTy) (mode : Fin 4) (s : State) :
    Host.Outcome State Fault Refusal :=
  vins k (ty == want && mode == 2 && vd.val % 2 == 0) (fun x => vacc x vd (ps x)) s

/-- Products of the i16 lanes. -/
def ps16 (sg : Int) (va vb : Nat) (x : Core) : List Int :=
  List.zipWith (fun a b => sg * (a * b)) (slanes 16 (x.vr va)) (slanes 16 (x.vr vb))
/-- Products of the c16 elements. -/
def psC (sg : Int) (op : Int × Int → Int × Int → Int × Int) (a b : List (Int × Int)) : List Int :=
  (unpair (List.zipWith op a b)).map (sg * ·)

/-- VMACW (R287, R288). -/
def execVmacw (k : Issue) (vd va vb : Fin 32) (ty : VTy) (mode : Fin 4) (s : State) : Host.Outcome State Fault Refusal :=
  vmacOp .i16 (ps16 1 va vb) k vd ty mode s
/-- VMSUW. -/
def execVmsuw (k : Issue) (vd va vb : Fin 32) (ty : VTy) (mode : Fin 4) (s : State) : Host.Outcome State Fault Refusal :=
  vmacOp .i16 (ps16 (-1) va vb) k vd ty mode s
/-- VCMACW. -/
def execVcmacw (k : Issue) (vd va vb : Fin 32) (ty : VTy) (mode : Fin 4) (s : State) : Host.Outcome State Fault Refusal :=
  vmacOp .c16 (fun x => psC 1 cmulI (clanes 16 (x.vr va)) (clanes 16 (x.vr vb))) k vd ty mode s
/-- VCMACJW. -/
def execVcmacjw (k : Issue) (vd va vb : Fin 32) (ty : VTy) (mode : Fin 4) (s : State) : Host.Outcome State Fault Refusal :=
  vmacOp .c16 (fun x => psC 1 cmuljI (clanes 16 (x.vr va)) (clanes 16 (x.vr vb))) k vd ty mode s
/-- VCMSUW. -/
def execVcmsuw (k : Issue) (vd va vb : Fin 32) (ty : VTy) (mode : Fin 4) (s : State) : Host.Outcome State Fault Refusal :=
  vmacOp .c16 (fun x => psC (-1) cmulI (clanes 16 (x.vr va)) (clanes 16 (x.vr vb))) k vd ty mode s
/-- VCMACWS: every b is element 0 of Vb. -/
def execVcmacws (k : Issue) (vd va vb : Fin 32) (ty : VTy) (mode : Fin 4) (s : State) : Host.Outcome State Fault Refusal :=
  vmacOp .c16 (fun x => psC 1 cmulI (clanes 16 (x.vr va))
    (List.replicate 16 ((clanes 16 (x.vr vb)).headD (0, 0)))) k vd ty mode s

/-! ### Narrow and widen (major 0x23) -/

/-- VNARROW: i32 pair to i16, c32 pair to c16 (R287, R289). -/
def execVnarrow (k : Issue) (vd va : Fin 32) (sh : Fin 32) (ty : VTy) (mode : Fin 4) (s : State) :
    Host.Outcome State Fault Refusal :=
  vins k ((ty == .i16 || ty == .c16) && va.val % 2 == 0) (fun x => wrMode x vd mode 16 sh (pairLanes x va)) s
/-- VWIDEN: i16 to an i32 pair, c16 to a c32 pair, × 2^sh (R287). -/
def execVwiden (k : Issue) (vd va : Fin 32) (sh : Fin 32) (ty : VTy) (mode : Fin 4) (s : State) :
    Host.Outcome State Fault Refusal :=
  vins k ((ty == .i16 || ty == .c16) && vd.val % 2 == 0 && mode == 0 && decide (sh.val ≤ 16)) (fun x =>
    setPair x vd ((slanes 16 (x.vr va)).map fun a => a * ((2 ^ sh.val : Nat) : Int))) s

/-! ### Permute and move (major 0x24), reduction (0x25) -/

/-- Types of VDUP, VMOVG and VINS (R287). -/
def moveTy (t : VTy) : Bool := t.int || t == .c16

/-- VDUP (R287). -/
def execVdup (k : Issue) (vd ga : Fin 32) (ty : VTy) (s : State) : Host.Outcome State Fault Refusal :=
  vins k (moveTy ty) (fun x => x.setV vd (pack ty.w (List.replicate (512 / ty.w) (x.gr ga).toNat))) s
/-- VEXT: elements n .. n + E − 1 of a pair (R287). -/
def execVext (k : Issue) (vd va : Fin 32) (n : Fin 32) (ty : VTy) (s : State) : Host.Outcome State Fault Refusal :=
  vins k (ty.fixed && va.val % 2 == 0 && decide (n.val < 512 / ty.w)) (fun x =>
    x.setV vd (pack ty.w (((lanes ty.w (x.vr va) ++ lanes ty.w (x.vr (va.val + 1))).drop n).take (512 / ty.w)))) s
/-- VPERMX (R287). -/
def execVpermx (k : Issue) (vd va vb : Fin 32) (ty : VTy) (s : State) : Host.Outcome State Fault Refusal :=
  vins k ty.int (fun x =>
    let a := lanes ty.w (x.vr va)
    x.setV vd (pack ty.w ((lanes ty.w (x.vr vb)).map fun i => a.getD (i % (512 / ty.w)) 0))) s
/-- VREV (R287). -/
def execVrev (k : Issue) (vd va : Fin 32) (ty : VTy) (s : State) : Host.Outcome State Fault Refusal :=
  vins k ty.fixed (fun x => x.setV vd (pack ty.w (lanes ty.w (x.vr va)).reverse)) s
/-- VMOVG: element n to Gd, i8 and i16 sign-extended (R287). -/
def execVmovg (k : Issue) (gd va : Fin 32) (n : Fin 32) (ty : VTy) (s : State) : Host.Outcome State Fault Refusal :=
  vins k (moveTy ty && decide (n.val < 512 / ty.w)) (fun x =>
    x.setG gd (BitVec.ofInt 32 (toSigned ty.w ((lanes ty.w (x.vr va)).getD n 0)))) s
/-- VINS (R287). -/
def execVins (k : Issue) (vd ga : Fin 32) (n : Fin 32) (ty : VTy) (s : State) : Host.Outcome State Fault Refusal :=
  vins k (moveTy ty && decide (n.val < 512 / ty.w)) (fun x =>
    x.setV vd (pack ty.w ((lanes ty.w (x.vr vd)).set n (x.gr ga).toNat))) s
/-- VRSUMW: the exact sum of all elements in element 0 (R287). -/
def execVrsumw (k : Issue) (vd va : Fin 32) (ty : VTy) (mode : Fin 4) (s : State) : Host.Outcome State Fault Refusal :=
  vins k (ty == .i32 || ty == .c32) (fun x =>
    let l := slanes 32 (x.vr va)
    if ty == .i32 then wrMode x vd mode 32 0 [l.foldl (· + ·) 0]
    else let p := pairUp l; wrMode x vd mode 32 0 [(p.map Prod.fst).foldl (· + ·) 0, (p.map Prod.snd).foldl (· + ·) 0]) s

end Sys2Proof.Machine
end

