-- ==== Sys2Proof/Machine/CoreMem.lean ====
section
/-! DEFINITION. Loads and stores of the DSP cores (R232, R243, R244, R251 to R262, R272, R291 to R298): addresses, the
data cache, the write buffer, run-ahead, gathers and scatters. Assumption log: 71 (DEDUCED), 72 (DEDUCED). -/

namespace Sys2Proof.Machine

/-! ### Effective addresses (R240, R251, R252) -/

/-- rev_k: the low `k` bits of `x` reversed. -/
def revBits (k x : Nat) : Nat := ((List.range k).map fun i => if x.testBit i then 2 ^ (k - 1 - i) else 0).foldl (· + ·) 0

/-- The byte offset of a format M instruction in offset mode (R240, R243). -/
def mOffset (x : Core) (off : BitVec 9) (n : Nat) : Int :=
  match x.ext with
  | some e => ((e.extractLsb' 0 23) ++ off).toInt
  | none => off.toInt * n

/-- The circular update (R251). -/
def circAddr (x : Core) (an mm : Nat) : DWord :=
  let b : Int := (x.br an).toNat
  let n : Int := (x.nr an).toNat
  let t : Int := (x.ar an).toNat + (x.mr mm).toInt
  BitVec.ofInt 64 (if n ≠ 0 ∧ b + n ≤ t then t - n else if n ≠ 0 ∧ t < b then t + n else t)

/-- The bit-reversed update (R251, R252). -/
def revAddr (x : Core) (an mm : Nat) : DWord :=
  let n := (x.nr an).toNat
  let k := if n = 0 then 0 else n.log2
  x.br an + BitVec.ofNat 64
    ((revBits k (x.ar an - x.br an).toNat + revBits k ((x.mr mm).signExtend 64).toNat) % 2 ^ k |> revBits k)

/-- The effective address and the value An takes, if it changes (R251); `off` is the byte offset of offset mode. -/
def effAddr (x : Core) (mode : AMode) (an mm : Nat) (off : Int) : Nat × List (Nat × DWord) :=
  match mode with
  | .offset => ((x.ar an + BitVec.ofInt 64 off).toNat, [])
  | .postModify => ((x.ar an).toNat, [(an, x.ar an + (x.mr mm).signExtend 64)])
  | .circular => ((x.ar an).toNat, [(an, circAddr x an mm)])
  | .bitReversed => ((x.ar an).toNat, [(an, revAddr x an mm)])

/-- The effective address of a format M operand for accesses of `n` bytes; none where OFF9 is not 0 in another mode
than offset mode (R243). -/
def mAddr (x : Core) (a : MAddr) (n : Nat) : Option (Nat × List (Nat × DWord)) :=
  let off := BitVec.ofInt 9 a.off
  if a.mode ≠ .offset ∧ off ≠ 0#9 then none
  else some (effAddr x a.mode (a.an % 8) (a.mm % 8) (mOffset x off n))

/-- Address registers updated. -/
def Core.setAs (x : Core) (l : List (Nat × DWord)) : Core := l.foldl (fun x y => x.setA y.1 y.2) x

/-! ### The order of exceptions (R268, R296) -/

/-- The place of a data exception in the order of R268. -/
def Exc.rank (e : Exc) : Nat :=
  match e.cause with
  | .align => 0 | .mpuViol => 1 | .sideEffectSpec | .vgatherFault => 2 | .dloadUe => 3 | _ => 4

/-- The exception reported of several: the first cause, and among its accesses the first. -/
def firstExc (l : List Exc) : Option Exc :=
  l.foldl (fun b e => match b with | some y => if e.rank < y.rank then some e else b | none => some e) none

/-- The checks of an ordinary access in AG (R251, R255, R275): alignment, then the MPU; `vec` marks the instructions
that may not touch a SIDE_EFFECT region (R257). The memory type where they pass. -/
def accessCheck (x : Core) (k : Access) (vec : Bool) (a n : Nat) : Except Exc MemType :=
  if a % n ≠ 0 then .error { cause := .align, addr := some a }
  else match dataCheck x k a with
    | .error e => .error e
    | .ok .sideEffect => if vec then .error { cause := .sideEffectSpec, addr := some a } else .ok .sideEffect
    | .ok t => .ok t

/-! ### Reads: own SRAM, the data cache, the write buffer (R256, R258) -/

/-- Bytes with a posted store laid over them. -/
def overlayOne (a : Nat) (bs : List Byte) (p : PostedStore) : List Byte :=
  (List.range bs.length).map fun i =>
    if p.addr ≤ a + i then p.bytes.getD (a + i - p.addr) (bs.getD i 0#8) else bs.getD i 0#8

/-- Bytes as the core sees them: its posted stores, oldest first, over memory (R258). -/
def overlay (x : Core) (a : Nat) (bs : List Byte) : List Byte := x.stores.foldl (overlayOne a) bs

/-- The line of an address is in the data cache. -/
def dcacheHit (x : Core) (a : Nat) : Bool := mhas x.dcache (lineOf a)

/-- The set of a line: 64 sets of 4 ways (R256). -/
def dcSet (l : Nat) : Nat := l / 64 % 64

/-- Fill a line: the least recently used of a full set leaves (R256). -/
def dcacheFill (x : Core) (l : Nat) (bs : List Byte) : Core :=
  let set := x.dcache.filter fun y => dcSet y.1 == dcSet l && y.1 != l
  let d := if set.length < 4 then x.dcache
    else match leastBy (fun y : Nat × CacheLine => (y.2.stamp, 0, 0)) set with
      | some y => mdel y.1 x.dcache
      | none => x.dcache
  { x with dcache := mset l { bytes := bs, stamp := x.stamp } d, stamp := x.stamp + 1 }

/-- A hit makes the line the most recently used. -/
def dcacheTouch (x : Core) (l : Nat) : Core :=
  let d := mupd { bytes := [], stamp := 0 } l (fun y : CacheLine => { y with stamp := x.stamp }) x.dcache
  { x with dcache := d, stamp := x.stamp + 1 }

/-- A store updates the line it hits and allocates none (R256). -/
def dcacheWrite (x : Core) (a : Nat) (bs : List Byte) : Core :=
  match mget (lineOf a) x.dcache with
  | some y =>
    let l : CacheLine := { y with bytes := overlayOne (lineOf a) y.bytes { addr := a, bytes := bs, sideEffect := false, waited := false, element := none } }
    { x with dcache := mset (lineOf a) l x.dcache }
  | none => x

/-- One access of a load, performed. -/
def readPart (t c : Nat) (p : LoadPart) (s : State) : Except BusCause (List Byte) × State :=
  let x := s.core t c
  if ownSram s t p.addr then busRead (.core t c) p.addr p.n s
  else if p.cached then
    let l := lineOf p.addr
    match mget l x.dcache with
    | some y => (.ok ((y.bytes.drop (p.addr - l)).take p.n), s.setCore t c (dcacheTouch x l))
    | none =>
      let r := busRead (.core t c) l 64 s
      match r.1 with
      | .error e => (.error e, r.2)
      | .ok bs =>
        let x := r.2.core t c
        let bs := overlay x l bs
        (.ok ((bs.drop (p.addr - l)).take p.n), r.2.setCore t c (dcacheFill x l bs))
  else
    let r := busRead (.core t c) p.addr p.n s
    match r.1 with
    | .error e => (.error e, r.2)
    | .ok bs => (.ok (overlay (r.2.core t c) p.addr bs), r.2)

/-- The exception of a failed access (R272, R295); element `i` of a gather. -/
def readExc (gather : Bool) (i a : Nat) (e : BusCause) : Exc :=
  let y := busExc false e a
  if !gather then y
  else match y.cause with
    | .mpuViol => { y with cause := .vgatherFault, info := y.info + i * 2 ^ 16 + 4 }
    | _ => { y with info := y.info + i * 2 ^ 16 }

/-- Every access of a load, in order: the bytes with their places, and the exceptions met. -/
def readParts (t c : Nat) (gather : Bool) : Nat → List LoadPart → State →
    List (LoadDest × List Byte) × List Exc × State
  | _, [], s => ([], [], s)
  | i, p :: l, s =>
    let r := readPart t c p s
    let y := readParts t c gather (i + 1) l r.2
    match r.1 with
    | .ok b => ((p.dest, b) :: y.1, y.2.1, y.2.2)
    | .error e => (y.1, readExc gather i p.addr e :: y.2.1, y.2.2)

/-- Loaded bytes into their register (R243, R291). -/
def loadInto (x : Core) (d : LoadDest × List Byte) : Core :=
  let v := leVal d.2
  match d.1 with
  | .g r n sx => x.setG r (if sx then BitVec.ofInt 32 (toSigned (8 * n) v) else BitVec.ofNat 32 v)
  | .file .a r => x.setA r (BitVec.ofNat 64 v)
  | .file .b r => x.setB r (BitVec.ofNat 64 v)
  | .file .lr _ => { x with lr := BitVec.ofNat 64 v }
  | .v r lo n =>
    let m := 2 ^ n
    let o := (x.vr r).toNat
    x.setV r (BitVec.ofNat 512 (o - (o / 2 ^ lo % m) * 2 ^ lo + (v % m) * 2 ^ lo))

/-- Perform a load: all its reads, then the registers or the exception. The loaded value goes over an update of the
same A register. -/
def finishLoad (p : PendLoad) (s : State) : State :=
  let k := p.issue
  let r := readParts k.tile k.core p.gather 0 p.parts s
  match firstExc r.2.1 with
  | some e => syncExc k r.2.2 e
  | none => done k r.2.2 (r.1.foldl loadInto ((r.2.2.core k.tile k.core).setAs p.upd))

/-- The load needs no access outside own SRAM and the data cache. -/
def loadNow (s : State) (k : Issue) (p : PendLoad) : Bool :=
  p.parts.all fun y => ownSram s k.tile y.addr || (y.cached && dcacheHit (s.core k.tile k.core) y.addr)

/-- Flits of the READs a load injects, class RT (R357, R359). -/
def loadFlits (s : State) (p : PendLoad) : Nat :=
  (p.parts.map fun y =>
    if y.cached && dcacheHit (s.core p.issue.tile p.issue.core) y.addr then 0 else readFlits s p.issue.tile y.addr y.n).foldl (· + ·) 0

/-- Inject the READs of a load; none while tokens are lacking. A load of more flits than a bucket holds waits for a
full bucket. -/
def sendLoad (p : PendLoad) (s : State) : Option State :=
  let t := p.issue.tile
  let n := min (loadFlits s p) (nocBurst s t 0)
  if mayInject s t 0 n then some (chargeFlits s t 0 n) else none

/-- A parity error in the data cache lines of a load (R373): each line is invalidated and its refetch counted. -/
def loadParity (p : PendLoad) (s : State) : State :=
  let t := p.issue.tile
  let c := p.issue.core
  if !p.issue.dparity then s
  else p.parts.foldl (fun s y =>
    let x := s.core t c
    if y.cached && dcacheHit x y.addr && !ownSram s t y.addr then
      (s.count (R.ECC_CACHE_CNT t) 1).setCore t c { x with dcache := mdel (lineOf y.addr) x.dcache }
    else s) s

/-- Issue a load whose checks have passed: at once, or it holds M2 until its data returns (R232). -/
def startLoad (p : PendLoad) (s : State) : State :=
  let k := p.issue
  let s := loadParity p s
  if loadNow s k p then finishLoad p s
  else
    let hold (s : State) (sent : Bool) : State :=
      s.setCore k.tile k.core { s.core k.tile k.core with load := some { p with sent := sent } }
    match sendLoad p s with
    | some s => hold s true
    | none => hold (countWait s k.tile 0) false

/-- A SIDE_EFFECT store that is not yet performed: a younger SIDE_EFFECT access waits for it (R257). -/
def sePending (x : Core) : Bool := x.stores.any fun y => y.sideEffect

/-- A load of one access. -/
def loadOne (k : Issue) (a : MAddr) (n : Nat) (vec : Bool) (dest : LoadDest) (s : State) :
    Host.Outcome State Fault Refusal :=
  ok (issue k .m (a.mode == .offset) (fun s x =>
    match mAddr x a n with
    | none => syncExc k s { cause := .illegal }
    | some (ea, upd) =>
      match accessCheck x .read vec ea n with
      | .error e => syncExc k s e
      | .ok t =>
        if t == .sideEffect && sePending x then s
        else startLoad { issue := k, parts := [{ addr := ea, n := n, dest := dest, cached := t == .normalC }],
                         upd := upd, gather := false, since := s.now, sent := false } s)
    s (fun x => (mAddr x a n).isNone))

/-- LD (R243): 8, 16 or 32 bits. -/
def execLd (k : Issue) (gd : Fin 32) (a : MAddr) (size : Fin 3) (sx : Bool) (s : State) :
    Host.Outcome State Fault Refusal := loadOne k a (2 ^ size.val) false (.g gd (2 ^ size.val) sx) s

/-- LDA (R243): 64 bits into A, B or LR. -/
def execLda (k : Issue) (f : AFile) (i : Fin 8) (a : MAddr) (s : State) : Host.Outcome State Fault Refusal :=
  loadOne k a 8 false (.file f i) s

/-- VLD (R291): 64 bytes. -/
def execVld (k : Issue) (vd : Fin 32) (a : MAddr) (s : State) : Host.Outcome State Fault Refusal :=
  loadOne k a 64 true (.v vd 0 512) s

/-- The exceptions of two checks, in the order of R268. -/
def bothExc (a b : Except Exc MemType) : Option Exc :=
  firstExc ((match a with | .error e => [e] | .ok _ => []) ++ (match b with | .error e => [e] | .ok _ => []))

/-- LDXY (R244): two 32-bit loads; each A register uses the M register of its index. -/
def execLdxy (k : Issue) (gx gy : Fin 32) (ax ay : Fin 4) (mx my : AMode) (s : State) :
    Host.Outcome State Fault Refusal :=
  ok (issue k .m false (fun s x =>
    if gx = gy then syncExc k s { cause := .illegal }
    else
      let p := effAddr x mx ax.val ax.val 0
      let q := effAddr x my (ay.val + 4) (ay.val + 4) 0
      let cp := accessCheck x .read true p.1 4
      let cq := accessCheck x .read true q.1 4
      match bothExc cp cq with
      | some e => syncExc k s e
      | none =>
        let c (r : Except Exc MemType) : Bool := match r with | .ok t => t == .normalC | .error _ => false
        startLoad { issue := k, parts := [{ addr := p.1, n := 4, dest := .g gx 4 false, cached := c cp },
                                          { addr := q.1, n := 4, dest := .g gy 4 false, cached := c cq }],
                    upd := p.2 ++ q.2, gather := false, since := s.now, sent := false } s) s (fun _ => gx = gy))

/-- The waiting load gets its data. -/
def loadReturns (t c : Nat) (p : PendLoad) (s : State) : State :=
  finishLoad p (s.setCore t c { s.core t c with load := none })

/-- LOAD_DATA_RETURN (R232, R359): the data of the waiting load returns; a load still without tokens waits on. -/
def execLoadDataReturn (tile core : Nat) (s : State) : Host.Outcome State Fault Refusal :=
  match (s.core tile core).load with
  | none => ok s
  | some p =>
    if p.sent then ok (loadReturns tile core p s)
    else match sendLoad p s with
      | some s => ok (loadReturns tile core p s)
      | none => ok s

/-! ### Stores (R258, R272, R291) -/

/-- An error of a posted store (R272): the first waits as ASYNC_ERR, a further one counts as lost. -/
def postError (x : Core) (p : PostedStore) (e : BusCause) : Core :=
  if x.asyncErr.isSome then { x with asyncLost := satAdd 8 x.asyncLost 1 }
  else
    let d : AsyncErr := { ecause := if e = .domainAsleep then 9 else 4, busCause := e.num, addr := p.addr, element := p.element }
    { x with asyncErr := some d }

/-- The tile that a posted store reaches. -/
def storeTile (s : State) (p : PostedStore) : Nat := serverOf p.addr (placeOf s.part p.addr)

/-- Perform entry `n` of the write buffer. -/
def performStore (t c n : Nat) (s : State) : State :=
  let x := s.core t c
  match x.stores[n]? with
  | none => s
  | some p =>
    let r := busWrite (.core t c) p.addr p.bytes s
    let x := r.2.core t c
    let x := { x with stores := x.stores.eraseIdx n }
    r.2.setCore t c (match r.1 with | some e => postError x p e | none => x)

/-- Entry `n` may be performed: no older entry for the same tile waits, and no older SIDE_EFFECT entry where it is one
itself (R257, R258). -/
def storeReady (s : State) (x : Core) (n : Nat) : Bool :=
  match x.stores[n]? with
  | none => false
  | some p => (x.stores.take n).all fun q => storeTile s q != storeTile s p && !(q.sideEffect && p.sideEffect)

/-- Entry `n` waits for tokens; it is counted once (R359). -/
def storeWaits (t c n : Nat) (s : State) : State :=
  let x := s.core t c
  match x.stores[n]? with
  | some p => if p.waited then s
              else (countWait s t 0).setCore t c { x with stores := x.stores.set n { p with waited := true } }
  | none => s

/-- Flits of entry `n` of the write buffer, class RT. -/
def storeFlits (s : State) (t c n : Nat) : Nat :=
  match (s.core t c).stores[n]? with
  | some p => writeFlits s t p.addr p.bytes.length
  | none => 0

/-- POSTED_STORE_ACK (R258, R272, R359): entry `n` of the write buffer is performed and acknowledged. -/
def execPostedStoreAck (tile core n : Nat) (s : State) : Host.Outcome State Fault Refusal :=
  if !storeReady s (s.core tile core) n then ok s
  else
    let k := storeFlits s tile core n
    if mayInject s tile 0 k then ok (finishTerm (performStore tile core n (chargeFlits s tile 0 k)) tile core)
    else ok (storeWaits tile core n s)

/-- The error of a store to own SRAM, before it is performed: DSP software cannot store to a run context of another
home tile (R175). -/
def ownStoreErr (s : State) (t c a : Nat) : Option BusCause :=
  if ownSram s t a then memErr s (.core t c) true a else none

/-- Perform or post one store whose checks have passed; the oldest posted store makes room in a full buffer. -/
def putStore (t c : Nat) (p : PostedStore) (s : State) : State :=
  if ownSram s t p.addr then (busWrite (.core t c) p.addr p.bytes s).2
  else
    let s := if 8 ≤ (s.core t c).stores.length then performStore t c 0 s else s
    let x := dcacheWrite (s.core t c) p.addr p.bytes
    s.setCore t c { x with stores := x.stores ++ [p] }

/-- A store of one access: performed at retirement; a full write buffer stalls it (R258), and so does an older SIDE_EFFECT
store a SIDE_EFFECT store to own SRAM (R257). -/
def storeOne (k : Issue) (a : MAddr) (n : Nat) (vec : Bool) (val : Core → Nat) (s : State) :
    Host.Outcome State Fault Refusal :=
  ok (issue k .m (a.mode == .offset) (fun s x =>
    match mAddr x a n with
    | none => syncExc k s { cause := .illegal }
    | some (ea, upd) =>
      match accessCheck x .write vec ea n with
      | .error e => syncExc k s e
      | .ok t =>
        match ownStoreErr s k.tile k.core ea with
        | some e => syncExc k s (busExc false e ea)
        | none =>
          if (!ownSram s k.tile ea && decide (8 ≤ x.stores.length))
              || (ownSram s k.tile ea && t == .sideEffect && sePending x) then s
          else
            let s := putStore k.tile k.core { addr := ea, bytes := leBytes n (val x), sideEffect := t == .sideEffect,
                                              waited := false, element := none } s
            done k s ((s.core k.tile k.core).setAs upd)) s (fun x => (mAddr x a n).isNone))

/-- ST (R243): the low 8, 16 or 32 bits. -/
def execSt (k : Issue) (gs : Fin 32) (a : MAddr) (size : Fin 3) (s : State) : Host.Outcome State Fault Refusal :=
  storeOne k a (2 ^ size.val) false (fun x => (x.gr gs).toNat) s

/-- The 64-bit registers of STA. -/
def Core.file (x : Core) (f : AFile) (i : Nat) : DWord :=
  match f with | .a => x.ar i | .b => x.br i | .lr => x.lr

/-- STA (R243): 64 bits of A, B or LR. -/
def execSta (k : Issue) (f : AFile) (i : Fin 8) (a : MAddr) (s : State) : Host.Outcome State Fault Refusal :=
  storeOne k a 8 false (fun x => (x.file f i).toNat) s

/-- VST (R291): 64 bytes, as one write outside own SRAM. -/
def execVst (k : Issue) (vs : Fin 32) (a : MAddr) (s : State) : Host.Outcome State Fault Refusal :=
  storeOne k a 64 true (fun x => (x.vr vs).toNat) s

/-! ### Gathers and scatters (R293 to R298) -/

/-- The 16 addresses (R293): An + sext64(element) × scale. -/
def vecAddrs (x : Core) (an va scale : Nat) : List Nat :=
  (slanes 32 (x.vr va)).map fun o => (x.ar an + BitVec.ofInt 64 (o * (if scale = 1 then 4 else 1))).toNat

/-- The checks of one element in AG (R294): none where they pass. -/
def elemCheck (x : Core) (k : Access) (i a : Nat) : Option Exc :=
  let el := i * 2 ^ 16
  if nonCanonical a then some { cause := .vgatherFault, info := busInfo 1 + el + 4, addr := some a }
  else if a % 4 ≠ 0 then some { cause := .vgatherFault, info := el + 3, addr := some a }
  else match mpuCheck x k a with
    | none => some { cause := .vgatherFault, info := el + 4, addr := some a }
    | some .sideEffect => some { cause := .sideEffectSpec, info := el, addr := some a }
    | some _ => none

/-- The element of the fault reported (R296): the lowest. -/
def vecCheck (x : Core) (k : Access) (l : List Nat) : Option Exc :=
  firstExc ((l.zip (List.range 16)).filterMap fun y => elemCheck x k y.2 y.1)

/-- The types and scales of R293. -/
def vecForm (ty : VTy) (scale : Fin 4) : Bool := (ty == .i32 || ty == .c16 || ty == .f32) && decide (scale.val ≤ 1)

/-- The accesses of a gather. -/
def gatherParts (x : Core) (vd : Nat) (l : List Nat) : List LoadPart :=
  (l.zip (List.range 16)).map fun y =>
    { addr := y.1, n := 4, dest := .v vd (32 * y.2) 32, cached := mpuCheck x .read y.1 == some .normalC }

/-- VGATHER (R293 to R296): 16 checks, then 16 reads; Vd is written only where all succeed. -/
def execVgather (k : Issue) (vd : Fin 32) (an : Fin 8) (va : Fin 32) (ty : VTy) (scale : Fin 4) (s : State) :
    Host.Outcome State Fault Refusal :=
  ok (issue k .v false (fun s x =>
    if !vecForm ty scale then syncExc k s { cause := .illegal }
    else
      let l := vecAddrs x an va scale
      match vecCheck x .read l with
      | some e => syncExc k s e
      | none => startLoad { issue := k, parts := gatherParts x vd l, upd := [], gather := true, since := s.now, sent := false } s)
    s (fun _ => !vecForm ty scale))

/-- The first element whose store to own SRAM is refused. -/
def scatterErr (s : State) (t c : Nat) (l : List Nat) : Option Exc :=
  (l.zip (List.range 16)).findSome? fun y => (ownStoreErr s t c y.1).map fun e => readExc true y.2 y.1 e

/-- The stores of a scatter, in ascending index order. -/
def scatterStores (l data : List Nat) : List PostedStore :=
  ((l.zip data).zip (List.range 16)).map fun y =>
    { addr := y.1.1, bytes := leBytes 4 y.1.2, sideEffect := false, waited := false, element := some y.2 }

/-- VSCATTER (R293, R294, R297): 16 checks, then the elements in ascending order at retirement. -/
def execVscatter (k : Issue) (vs : Fin 32) (an : Fin 8) (va : Fin 32) (ty : VTy) (scale : Fin 4) (s : State) :
    Host.Outcome State Fault Refusal :=
  ok (issue k .v false (fun s x =>
    if !vecForm ty scale then syncExc k s { cause := .illegal }
    else
      let l := vecAddrs x an va scale
      match vecCheck x .write l with
      | some e => syncExc k s e
      | none =>
        match scatterErr s k.tile k.core l with
        | some e => syncExc k s e
        | none =>
          let s := (scatterStores l (lanes 32 (x.vr vs))).foldl (fun s p => putStore k.tile k.core p s) s
          done k s (s.core k.tile k.core)) s (fun _ => !vecForm ty scale))

end Sys2Proof.Machine
end

