-- ==== Sys2Proof/Machine/CoreBranch.lean ====
section
/-! DEFINITION. Reads ahead of retirement (R260 to R262, R298) and the predicted branches (R234, R246). Assumption
log: 70 (DESIGN CHOICE), 72 (DEDUCED). Assumption log: 70 (DESIGN CHOICE), 72 (DEDUCED). -/

namespace Sys2Proof.Machine

/-! ### Reads ahead of retirement -/

/-- One early read: of own SRAM, or into the data cache; a READ that the injection regulators hold back is not sent. An error
leaves no fill and raises nothing (R262). -/
def prefetch (t c a : Nat) (s : State) : State :=
  if ownSram s t a then (busRead (.core t c) a 1 s).2
  else if dcacheHit (s.core t c) a then s
  else
    let n := min (readFlits s t a 1) (nocBurst s t 0)
    if mayInject s t 0 n then
      (readPart t c { addr := a, n := 1, dest := .g 0 1 false, cached := true } (chargeFlits s t 0 n)).2
    else countWait s t 0

/-- The early reads of one load, by its addresses: only where every one passes the MPU in a NORMAL-C region (R257, R260; for a
gather R298). -/
def earlyRead (t c : Nat) (l : List Nat) (s : State) : State :=
  let pass (a : Nat) : Bool := match dataCheck (s.core t c) .read a with | .ok ty => ty == .normalC | .error _ => false
  if l.all pass then (l.take 16).foldl (fun s a => prefetch t c a s) s else s

/-! ### Run-ahead (R261, R262) -/

/-- RUNAHEAD_ENTER (R261, R262): a load has waited 16 cycles in M2, no REP is active, EXL = 0 and RA_EN = 1; of the 64
younger instructions decoded, the loads with valid addresses are prefetched. Each comes with the clocks its accesses
waited for banks (R254). -/
def execRunaheadEnter (tile core : Nat) (prefetches : List (List Nat × Nat)) (s : State) :
    Host.Outcome State Fault Refusal :=
  let x := s.core tile core
  match x.load with
  | none => ok s
  | some p =>
    if x.runahead || x.rep.isSome || x.exl || !bit x.ctrl 1
        || decide (islandCycles s tile (s.now - p.since) < 16) then ok s
    else
      let s := s.setCore tile core { x.stalled ((prefetches.take 64).map Prod.snd).sum with
        runahead := true, runaheads := BitVec.ofNat 32 (satAdd 32 x.runaheads.toNat 1) }
      ok ((prefetches.take 64).foldl (fun s g => earlyRead tile core g.1 s) s)

/-- RUNAHEAD_EXIT (R261): the data has returned; the run-ahead results are discarded. -/
def execRunaheadExit (tile core : Nat) (s : State) : Host.Outcome State Fault Refusal :=
  let x := s.core tile core
  if x.runahead && x.load.isNone then ok (s.setCore tile core { x with runahead := false }) else ok s

/-! ### Branches -/

/-- The predictor says taken (R234). -/
def predicts (x : Core) (at_ : Nat) (backward : Bool) : Bool :=
  if !bit x.ctrl 0 then false
  else match mget (Config.btbIndex at_ % 1024) x.btb with
    | some (a, n) => if a = at_ then decide (2 ≤ n) else backward
    | none => backward

/-- Train the predictor with an outcome: 2-bit saturating counters (R234). -/
def trainBtb (x : Core) (at_ : Nat) (taken : Bool) : Core :=
  let i := Config.btbIndex at_ % 1024
  let n := match mget i x.btb with
    | some (a, n) => if a = at_ then n else Config.btbInit at_ % 4
    | none => Config.btbInit at_ % 4
  { x with btb := mset i (at_, if taken then min (n + 1) 3 else n - 1) x.btb }

/-- A conditional branch resolves (R234, R246). Where it was mispredicted, loads of the path left have read memory by then:
those that reached M1 and M2, at most two in a cycle (R231, R233, R260, R262). -/
def branch (k : Issue) (s : State) (x : Core) (taken : Bool) (disp : DWord) : State :=
  let base := if x.ext.isSome then x.extAt else x.pc
  let miss := predicts x base.toNat disp.msb != taken
  let y := trainBtb (if miss then { x with mispred := BitVec.ofNat 32 (satAdd 32 x.mispred.toNat 1) } else x) base.toNat taken
  let s := if taken then s.setCore k.tile k.core (retireTo k y (base + disp)) else done k s y
  if miss then (k.shadow.take 4).foldl (fun s g => earlyRead k.tile k.core g s) s else s

/-- B.cond (R240, R246). -/
def execBCond (k : Issue) (cond : Cond) (disp : BitVec 22) (s : State) : Host.Outcome State Fault Refusal :=
  ok (issue k .c true (fun s x =>
    if cond.val = 15 then syncExc k s { cause := .illegal }
    else
      let d : DWord := match x.ext with
        | some e => ((e.extractLsb' 0 20) ++ disp).signExtend 64
        | none => disp.signExtend 64
      branch k s x (condHolds x cond) (d <<< 2)) s (fun _ => cond.val = 15))

/-- DBNZ (R246). -/
def execDbnz (k : Issue) (ga : Fin 32) (disp : BitVec 21) (s : State) : Host.Outcome State Fault Refusal :=
  ok (issue k .c false (fun s x =>
    let v := x.gr ga - 1#32
    branch k s (x.setG ga v) (v != 0#32) (disp.signExtend 64 <<< 2)) s)

end Sys2Proof.Machine
end

