-- ==== Sys2Proof/Machine/CoreInt.lean ====
section
/-! DEFINITION. The integer instructions (R241) and MOVX (R242). Assumption log: 69 (DEDUCED). -/

namespace Sys2Proof.Machine

/-- Write Gd, and the flags when F = 1. -/
def wr (x : Core) (gd : Nat) (r : Word) (f : Bool) (fl : Word) : Core :=
  let y := x.setG gd r
  if f then { y with flags := fl } else y

/-- A format A operation on two registers with flags `fl`. -/
def aluOp (op : Word → Word → Word) (fl : Word → Word → Word → Word) (k : Issue) (gd ga gb : Fin 32) (f : Bool)
    (s : State) : Host.Outcome State Fault Refusal :=
  plain k .a false (fun x => let a := x.gr ga; let b := x.gr gb; wr x gd (op a b) f (fl x.flags a b)) s

/-- ADD (R241). -/
def execAdd_ (k : Issue) (gd ga gb : Fin 32) (f : Bool) (s : State) : Host.Outcome State Fault Refusal :=
  aluOp (· + ·) flagsAdd k gd ga gb f s
/-- SUB (R241). -/
def execSub_ (k : Issue) (gd ga gb : Fin 32) (f : Bool) (s : State) : Host.Outcome State Fault Refusal :=
  aluOp (· - ·) flagsSub k gd ga gb f s
/-- AND (R241). -/
def execAnd_ (k : Issue) (gd ga gb : Fin 32) (f : Bool) (s : State) : Host.Outcome State Fault Refusal :=
  aluOp (· &&& ·) (fun fl a b => flagsZN fl (a &&& b)) k gd ga gb f s
/-- OR (R241). -/
def execOr_ (k : Issue) (gd ga gb : Fin 32) (f : Bool) (s : State) : Host.Outcome State Fault Refusal :=
  aluOp (· ||| ·) (fun fl a b => flagsZN fl (a ||| b)) k gd ga gb f s
/-- XOR (R241). -/
def execXor_ (k : Issue) (gd ga gb : Fin 32) (f : Bool) (s : State) : Host.Outcome State Fault Refusal :=
  aluOp (· ^^^ ·) (fun fl a b => flagsZN fl (a ^^^ b)) k gd ga gb f s
/-- ANDN: Ga & ~Gb (R241). -/
def execAndn (k : Issue) (gd ga gb : Fin 32) (f : Bool) (s : State) : Host.Outcome State Fault Refusal :=
  aluOp (fun a b => a &&& ~~~b) (fun fl a b => flagsZN fl (a &&& ~~~b)) k gd ga gb f s
/-- NEG (R241). -/
def execNeg (k : Issue) (gd ga : Fin 32) (f : Bool) (s : State) : Host.Outcome State Fault Refusal :=
  plain k .a false (fun x => wr x gd (0#32 - x.gr ga) f (flagsZN x.flags (0#32 - x.gr ga))) s

/-- |a| with 0x8000_0000 giving 0x7FFF_FFFF (R241). -/
def absSat (a : Word) : Word := if a = 0x80000000#32 then 0x7FFFFFFF#32 else if a.msb then 0#32 - a else a
/-- ABS; the saturated case sets SAT (R241, R237). -/
def execAbs_ (k : Issue) (gd ga : Fin 32) (f : Bool) (s : State) : Host.Outcome State Fault Refusal :=
  plain k .a false (fun x => (wr x gd (absSat (x.gr ga)) f (flagsZN x.flags (absSat (x.gr ga)))).sat
    (x.gr ga == 0x80000000#32)) s

/-- Shift left by 0 to 63. -/ def shlW (a b : Word) : Word := a <<< (b.toNat % 64)
/-- Logical shift right by 0 to 63. -/ def shrW (a b : Word) : Word := a >>> (b.toNat % 64)
/-- Arithmetic shift right by 0 to 63. -/ def sarW (a b : Word) : Word := a.sshiftRight (b.toNat % 64)
/-- Rotate right by 0 to 31. -/ def rorW (a b : Word) : Word := a.rotateRight (b.toNat % 32)

/-- SHL (R241). -/
def execShl (k : Issue) (gd ga gb : Fin 32) (f : Bool) (s : State) : Host.Outcome State Fault Refusal :=
  aluOp shlW (fun fl a b => flagsZN fl (shlW a b)) k gd ga gb f s
/-- SHR (R241). -/
def execShr (k : Issue) (gd ga gb : Fin 32) (f : Bool) (s : State) : Host.Outcome State Fault Refusal :=
  aluOp shrW (fun fl a b => flagsZN fl (shrW a b)) k gd ga gb f s
/-- SAR (R241). -/
def execSar (k : Issue) (gd ga gb : Fin 32) (f : Bool) (s : State) : Host.Outcome State Fault Refusal :=
  aluOp sarW (fun fl a b => flagsZN fl (sarW a b)) k gd ga gb f s
/-- ROR (R241). -/
def execRor (k : Issue) (gd ga gb : Fin 32) (f : Bool) (s : State) : Host.Outcome State Fault Refusal :=
  aluOp rorW (fun fl a b => flagsZN fl (rorW a b)) k gd ga gb f s

/-- A shift by an immediate. -/
def shiftImm (op : Word → Word → Word) (k : Issue) (gd ga : Fin 32) (sh : Fin 32) (f : Bool) (s : State) :
    Host.Outcome State Fault Refusal :=
  plain k .a false (fun x => let r := op (x.gr ga) (BitVec.ofNat 32 sh.val); wr x gd r f (flagsZN x.flags r)) s

/-- SHLI (R241). -/
def execShli (k : Issue) (gd ga : Fin 32) (sh : Fin 32) (f : Bool) (s : State) : Host.Outcome State Fault Refusal :=
  shiftImm shlW k gd ga sh f s
/-- SHRI (R241). -/
def execShri (k : Issue) (gd ga : Fin 32) (sh : Fin 32) (f : Bool) (s : State) : Host.Outcome State Fault Refusal :=
  shiftImm shrW k gd ga sh f s
/-- SARI (R241). -/
def execSari (k : Issue) (gd ga : Fin 32) (sh : Fin 32) (f : Bool) (s : State) : Host.Outcome State Fault Refusal :=
  shiftImm sarW k gd ga sh f s
/-- RORI (R241). -/
def execRori (k : Issue) (gd ga : Fin 32) (sh : Fin 32) (f : Bool) (s : State) : Host.Outcome State Fault Refusal :=
  shiftImm rorW k gd ga sh f s

/-- Leading zeros, 32 for 0. -/
def clzW (a : Word) : Word := BitVec.ofNat 32 (32 - (if a = 0#32 then 0 else Nat.log2 a.toNat + 1))
/-- Population count. -/
def popcW (a : Word) : Word := BitVec.ofNat 32 ((List.range 32).filter fun i => bit a i).length
/-- Bit reverse. -/
def brevW (a : Word) : Word := a.reverse

/-- CLZ (R241). -/
def execClz (k : Issue) (gd ga : Fin 32) (s : State) : Host.Outcome State Fault Refusal :=
  plain k .a false (fun x => x.setG gd (clzW (x.gr ga))) s
/-- POPC (R241). -/
def execPopc (k : Issue) (gd ga : Fin 32) (s : State) : Host.Outcome State Fault Refusal :=
  plain k .a false (fun x => x.setG gd (popcW (x.gr ga))) s
/-- BREV (R241). -/
def execBrev (k : Issue) (gd ga : Fin 32) (s : State) : Host.Outcome State Fault Refusal :=
  plain k .a false (fun x => x.setG gd (brevW (x.gr ga))) s

/-- An operation without flags on two registers. -/
def binOp (op : Word → Word → Word) (k : Issue) (gd ga gb : Fin 32) (s : State) : Host.Outcome State Fault Refusal :=
  plain k .a false (fun x => x.setG gd (op (x.gr ga) (x.gr gb))) s

/-- High half of the signed product. -/
def mulhW (a b : Word) : Word := BitVec.ofInt 32 ((a.toInt * b.toInt).fdiv (2 ^ 32 : Nat))
/-- High half of the unsigned product. -/
def mulhuW (a b : Word) : Word := BitVec.ofNat 32 (a.toNat * b.toNat / 2 ^ 32)

/-- MUL (R241). -/
def execMul (k : Issue) (gd ga gb : Fin 32) (s : State) : Host.Outcome State Fault Refusal := binOp (· * ·) k gd ga gb s
/-- MULH (R241). -/
def execMulh (k : Issue) (gd ga gb : Fin 32) (s : State) : Host.Outcome State Fault Refusal := binOp mulhW k gd ga gb s
/-- MULHU (R241). -/
def execMulhu (k : Issue) (gd ga gb : Fin 32) (s : State) : Host.Outcome State Fault Refusal :=
  binOp mulhuW k gd ga gb s

/-- Signed quotient rounded towards 0; 0 by a divisor of 0; 0x8000_0000 / −1 gives 0x7FFF_FFFF (R241). -/
def divW (a b : Word) : Word :=
  if b = 0#32 then 0#32 else if a = 0x80000000#32 ∧ b = 0xFFFFFFFF#32 then 0x7FFFFFFF#32
  else BitVec.ofInt 32 (a.toInt.tdiv b.toInt)
/-- Unsigned quotient; 0 by a divisor of 0 (R241). -/
def divuW (a b : Word) : Word := if b = 0#32 then 0#32 else a / b

/-- DIV: V is written with F = 1 (R241, R237), SAT when the quotient saturates. -/
def execDiv_ (k : Issue) (gd ga gb : Fin 32) (f : Bool) (s : State) : Host.Outcome State Fault Refusal :=
  plain k .a false (fun x =>
    let a := x.gr ga; let b := x.gr gb
    (wr x gd (divW a b) f (setBit x.flags 3 (b == 0#32))).sat (a == 0x80000000#32 && b == 0xFFFFFFFF#32)) s
/-- DIVU (R241, R237). -/
def execDivu (k : Issue) (gd ga gb : Fin 32) (f : Bool) (s : State) : Host.Outcome State Fault Refusal :=
  aluOp divuW (fun fl _ b => setBit fl 3 (b == 0#32)) k gd ga gb f s

/-- A saturating signed operation (R241). -/
def satOp (op : Int → Int → Int) (k : Issue) (gd ga gb : Fin 32) (s : State) : Host.Outcome State Fault Refusal :=
  plain k .a false (fun x =>
    let v := op (x.gr ga).toInt (x.gr gb).toInt
    (x.setG gd (BitVec.ofInt 32 (satSigned 32 v))).sat (satSigned 32 v != v)) s

/-- ADDS (R241). -/
def execAdds (k : Issue) (gd ga gb : Fin 32) (s : State) : Host.Outcome State Fault Refusal := satOp (· + ·) k gd ga gb s
/-- SUBS (R241). -/
def execSubs (k : Issue) (gd ga gb : Fin 32) (s : State) : Host.Outcome State Fault Refusal := satOp (· - ·) k gd ga gb s
/-- MIN (R241). -/
def execMin_ (k : Issue) (gd ga gb : Fin 32) (s : State) : Host.Outcome State Fault Refusal :=
  binOp (fun a b => if a.toInt ≤ b.toInt then a else b) k gd ga gb s
/-- MAX (R241). -/
def execMax_ (k : Issue) (gd ga gb : Fin 32) (s : State) : Host.Outcome State Fault Refusal :=
  binOp (fun a b => if a.toInt ≤ b.toInt then b else a) k gd ga gb s
/-- MINU (R241). -/
def execMinu (k : Issue) (gd ga gb : Fin 32) (s : State) : Host.Outcome State Fault Refusal :=
  binOp (fun a b => if a.toNat ≤ b.toNat then a else b) k gd ga gb s
/-- MAXU (R241). -/
def execMaxu (k : Issue) (gd ga gb : Fin 32) (s : State) : Host.Outcome State Fault Refusal :=
  binOp (fun a b => if a.toNat ≤ b.toNat then b else a) k gd ga gb s
/-- CMP: the flags of Ga − Gb (R241). -/
def execCmp (k : Issue) (ga gb : Fin 32) (s : State) : Host.Outcome State Fault Refusal :=
  plain k .a false (fun x => { x with flags := flagsSub x.flags (x.gr ga) (x.gr gb) }) s
/-- TST: the flags of Ga & Gb, C and V cleared (R241). -/
def execTst (k : Issue) (ga gb : Fin 32) (s : State) : Host.Outcome State Fault Refusal :=
  plain k .a false (fun x => { x with flags := flagsZNCV x.flags (x.gr ga &&& x.gr gb) false false }) s
/-- SEL: T ? Ga : Gb (R241). -/
def execSel (k : Issue) (gd ga gb : Fin 32) (s : State) : Host.Outcome State Fault Refusal :=
  plain k .a false (fun x => x.setG gd (if x.t then x.gr ga else x.gr gb)) s

/-- A file holds 64-bit registers. -/
def xWide : XFile → Bool
  | .a | .b | .lr => true
  | _ => false
/-- Registers in a file. -/
def xSize : XFile → Nat
  | .g => 32 | .lr => 1 | _ => 8

/-- Read a register of a file as 64 bits. -/
def xRead (x : Core) (f : XFile) (i : Nat) : DWord :=
  match f with
  | .g => (x.gr i).setWidth 64 | .m => (x.mr i).setWidth 64 | .n => (x.nr i).setWidth 64
  | .a => x.ar i | .b => x.br i | .lr => x.lr
/-- Write a register of a file from 64 bits. -/
def xWrite (x : Core) (f : XFile) (i : Nat) (v : DWord) : Core :=
  match f with
  | .g => x.setG i (lo32 v) | .m => x.setM i (lo32 v) | .n => x.setN i (lo32 v)
  | .a => x.setA i v | .b => x.setB i v | .lr => { x with lr := v }

/-- The moves R242 defines. -/
def movxOk (dst src : XFile) (di si : Nat) (half : Bool) : Bool :=
  decide (di < xSize dst) && decide (si < xSize src) &&
  (if xWide dst && xWide src then !half
   else if xWide dst then src == XFile.g
   else if xWide src then dst == XFile.g
   else true)

/-- The value MOVX writes (R242). -/
def movxVal (x : Core) (dst src : XFile) (di si : Nat) (half : Bool) : DWord :=
  let v := xRead x src si
  if xWide dst && !xWide src then (if half then dw (lo32 v) (lo32 (xRead x dst di)) else v)
  else if xWide src && !xWide dst then (if half then v >>> 32 else v)
  else v

/-- MOVX (R242); a move R242 does not define raises ILLEGAL (R238). -/
def execMovx (k : Issue) (dst : XFile) (di : Fin 32) (src : XFile) (si : Fin 32) (half : Bool) (s : State) :
    Host.Outcome State Fault Refusal :=
  ok (issue k .a false (fun s x =>
    if movxOk dst src di si half then done k s (xWrite x dst di (movxVal x dst src di si half))
    else syncExc k s { cause := .illegal }) s (fun _ => !movxOk dst src di si half))

/-- ADDI (R241, R240). -/
def execAddi (k : Issue) (gd ga : Fin 32) (imm : BitVec 16) (s : State) : Host.Outcome State Fault Refusal :=
  plain k .b true (fun x => x.setG gd (x.gr ga + immOf x imm true)) s
/-- ANDI (R241, R240). -/
def execAndi (k : Issue) (gd ga : Fin 32) (imm : BitVec 16) (s : State) : Host.Outcome State Fault Refusal :=
  plain k .b true (fun x => x.setG gd (x.gr ga &&& immOf x imm false)) s
/-- ORI (R241, R240). -/
def execOri (k : Issue) (gd ga : Fin 32) (imm : BitVec 16) (s : State) : Host.Outcome State Fault Refusal :=
  plain k .b true (fun x => x.setG gd (x.gr ga ||| immOf x imm false)) s
/-- XORI (R241, R240). -/
def execXori (k : Issue) (gd ga : Fin 32) (imm : BitVec 16) (s : State) : Host.Outcome State Fault Refusal :=
  plain k .b true (fun x => x.setG gd (x.gr ga ^^^ immOf x imm false)) s
/-- MOVHI: the immediate << 16 (R241, R240). -/
def execMovhi (k : Issue) (gd : Fin 32) (imm : BitVec 16) (s : State) : Host.Outcome State Fault Refusal :=
  plain k .b true (fun x => x.setG gd (immOf x imm false <<< 16)) s
/-- CMPI (R241, R240). -/
def execCmpi (k : Issue) (ga : Fin 32) (imm : BitVec 16) (s : State) : Host.Outcome State Fault Refusal :=
  plain k .b true (fun x => { x with flags := flagsSub x.flags (x.gr ga) (immOf x imm true) }) s
/-- AADDI: An plus the sign-extended immediate (R241, R240). -/
def execAaddi (k : Issue) (an : Fin 8) (imm : BitVec 16) (s : State) : Host.Outcome State Fault Refusal :=
  plain k .b true (fun x => x.setA an (x.ar an + (immOf x imm true).signExtend 64)) s

/-- LONG_PREFIX (R240): EXT waits for the next instruction; a prefix before a prefix, or as a REP body, is
ILLEGAL. -/
def execLongPrefix (k : Issue) (ext : BitVec 26) (s : State) : Host.Outcome State Fault Refusal :=
  ok (issue (alone k) .c false (fun s x =>
    s.setCore k.tile k.core { x with ext := some ext, extAt := x.pc, pc := x.pc + 4#64 }) s)

/-- ILLEGAL (R238): an undefined encoding raises ILLEGAL. -/
def execIllegal (k : Issue) (s : State) : Host.Outcome State Fault Refusal :=
  ok (issue k .a true (fun s _ => syncExc k s { cause := .illegal }) s (fun _ => true))

end Sys2Proof.Machine
end

