-- ==== Sys2Proof/Machine/Dma.lean ====
section
/-! DEFINITION. DMA channel programs (R323 to R345): the instructions, rows, signals, waits and halts. Assumption log:
65 (DEDUCED), 75 (DEDUCED), 76 (DEDUCED), 77 (DESIGN CHOICE). -/

namespace Sys2Proof.Machine

/-- Set ARi. -/
def setAR (s : State) (t c i v : Nat) : State := s.setReg64 (R.DMA_CH_AR t c i) (BitVec.ofNat 64 v)

/-! ### Instructions (R327) -/

/-- Opcode. -/ def iOp (i : List Byte) : Nat := ent i 0 1
/-- The instruction has no reserved field set and no field out of range (R327). -/
def insnOk (i : List Byte) : Bool :=
  match iOp i with
  | 0 => true
  | 1 =>
    let k := iBits i 1 1 0
    decide (k ≤ 2) && iBits i 1 7 4 == 0 && iBits i 2 3 2 == 0 && iBits i 2 7 6 == 0 && rowLen i != 0
      && moveRows i != 0
      && (k == 0 || (ent i 10 2 == 0 && iBits i 1 2 2 == 0)) && (k != 1 || rowLen i == 32)
  | 2 => iBits i 1 7 2 == 0 && ent i 4 4 != 0 && ent i 8 8 == 0
  | 3 => decide (ent i 1 1 ≤ 4)
  | 4 =>
    let k := ent i 1 1
    decide (k ≤ 2) && iBits i 6 7 4 == 0 && ent i 7 1 == 0
      && (k != 0 || decide (ent i 3 1 < 32)) && (k != 2 || decide (ent i 3 1 < 4))
      && ((k == 1 && iBits i 6 0 0 == 0) || ent i 8 8 == 0)
  | 5 => ent i 8 8 % 16 == 0 && decide (ent i 8 8 < 2 ^ 48)
  | 6 => decide (ent i 1 1 ≤ 7) && iBits i 2 7 1 == 0 && ent i 3 5 == 0
  | 7 => ent i 1 7 == 0 && ent i 8 8 == 0
  | _ => false

/-- BAD_INSN (R327, R339). -/
def badInsn (s : State) (t c : Nat) : State := haltWith s t c 5 false 5 none 0

/-- Go on at an address. -/
def chGoto (s : State) (t c a : Nat) : State := issueFetch (setPc s t c (a % 2 ^ 64)) t c
/-- The instruction ends; the next follows it. -/
def chNext (s : State) (t c : Nat) : State := chGoto s t c (chPc s t c + 16)

/-- The channel holds a fetched instruction with this opcode that has not begun. -/
def ready (s : State) (t c op : Nat) : Bool :=
  let x := s.chan t c
  chSt s t c == .run && tileRun s t && !x.insn.isEmpty && !x.begun && iOp x.insn == op

/-- DMA_FETCH (R326): the 16 bytes at DMA_CH_PC arrive and the instruction is decoded. -/
def execDmaFetch (tile : Nat) (ch : Fin 16) (s : State) : Host.Outcome State Fault Refusal :=
  let t := tile
  let c := ch.val
  if !(chSt s t c == .run && tileRun s t && (s.chan t c).insn.isEmpty) then ok s
  else
    let r := busRead (.dma t c) (chPc s t c) 16 s
    match r.1 with
    | .error e => ok (haltWith r.2 t c e.num false 0 (some (chPc s t c)) 0)
    | .ok b =>
      if insnOk b then ok (modChan r.2 t c fun x => { x with insn := b })
      else ok (badInsn (modChan r.2 t c fun x => { x with insn := b }) t c)

/-- END (R334, R335): the channel parks at the END, or fetches again when a RING is pending. -/
def execEnd_ (tile : Nat) (ch : Fin 16) (s : State) : Host.Outcome State Fault Refusal :=
  let t := tile
  let c := ch.val
  if !ready s t c 0 then ok s
  else if ringPend s t c then
    ok (issueFetch (s.setField (R.DMA_CH_STAT t c) 20 20 0) t c (s.chan t c).fromPark)
  else
    let s1 := if (s.chan t c).fromPark then s.count (R.DMA_CH_DBRED t c) 1 else s
    ok (chNotice (setSt (setChan s1 t c DmaChan.reset) t c .park 0) t c 27)

/-- MOVE (R325, R328): its rows are issued in ascending order. -/
def execMove (tile : Nat) (ch : Fin 16) (s : State) : Host.Outcome State Fault Refusal :=
  let t := tile
  let c := ch.val
  if !ready s t c 1 then ok s
  else ok (issueRows 512 (modChan s t c fun x => { x with begun := true }) t c)

/-- LOOP (R329). -/
def execLoop (tile : Nat) (ch : Fin 16) (s : State) : Host.Outcome State Fault Refusal :=
  let t := tile
  let c := ch.val
  if !ready s t c 2 then ok s
  else
    let i := (s.chan t c).insn
    let a := R.DMA_CH_LC t c (iBits i 1 1 0)
    let n := (s.reg a).toNat
    let n' := if n = 0 then ent i 4 4 - 1 else n - 1
    let s := s.setReg a (BitVec.ofNat 32 n')
    if n' = 0 then ok (chNext s t c)
    else ok (chGoto s t c (rowAddr (chPc s t c) 16 (iSigned i 2 2)))

/-- JUMP (R332). -/
def execJump (tile : Nat) (ch : Fin 16) (s : State) : Host.Outcome State Fault Refusal :=
  if !ready s tile ch.val 5 then ok s else ok (chGoto s tile ch.val (ent (s.chan tile ch.val).insn 8 8))

/-- SET (R332). -/
def execSet (tile : Nat) (ch : Fin 16) (s : State) : Host.Outcome State Fault Refusal :=
  let t := tile
  let c := ch.val
  if !ready s t c 6 then ok s
  else
    let i := (s.chan t c).insn
    let k := ent i 1 1
    let v := ent i 8 8
    let add := iBits i 2 0 0 == 1
    if k < 4 then
      let n := (if add then chAR s t c k + v else v) % 2 ^ 64
      if 2 ^ 48 ≤ n then ok (badInsn s t c) else ok (chNext (setAR s t c k n) t c)
    else
      let a := R.DMA_CH_LC t c (k - 4)
      let n := if add then (s.reg a).toNat + v else v
      ok (chNext (s.setReg a (BitVec.ofNat 32 n)) t c)

/-- The channel NOP (R332). -/
def execDmaNop (tile : Nat) (ch : Fin 16) (s : State) : Host.Outcome State Fault Refusal :=
  if !ready s tile ch.val 7 then ok s else ok (chNext s tile ch.val)

/-! ### Rows of a MOVE (R324, R328, R340) -/

/-- The beats of `n` bytes from `a`: offset and length, none crossing a multiple of 128. -/
def beats : Nat → Nat → Nat → Nat → List (Nat × Nat)
  | 0, _, _, _ => []
  | fuel + 1, a, off, n =>
    if n ≤ off then []
    else let k := min (n - off) (128 - (a + off) % 128)
         (off, k) :: beats fuel a (off + k) n

/-- The beats of a transfer. -/
def beatsOf (a n : Nat) : List (Nat × Nat) := beats (n / 128 + 2) a 0 n

/-- Read beats in order up to the first that fails: the bytes read, and where and why it failed. -/
def readBeats (r : Requester) (a : Nat) : List (Nat × Nat) → List Byte → State → (List Byte × Option (Nat × BusCause)) × State
  | [], acc, s => ((acc, none), s)
  | (o, k) :: l, acc, s =>
    let x := busRead r (a + o) k s
    match x.1 with
    | .ok b => readBeats r a l (acc ++ b) x.2
    | .error c => ((acc, some (a + o, c)), x.2)

/-- Write the beats whose data was read, in order up to the first that fails: the bytes written, and the failure. -/
def writeBeats (r : Requester) (a : Nat) (d : List Byte) : List (Nat × Nat) → Nat → State → (Nat × Option (Nat × BusCause)) × State
  | [], n, s => ((n, none), s)
  | (o, k) :: l, n, s =>
    if d.length < o + k then ((n, none), s)
    else
      let x := busWrite r (a + o) ((d.drop o).take k) s
      match x.1 with
      | none => writeBeats r a d l (n + k) x.2
      | some c => ((n, some (a + o, c)), x.2)

/-- Source and destination of a SKIND 0 MOVE overlap (R328). -/
def spansOverlap (s : State) (t c : Nat) (i : List Byte) : Bool :=
  let n := rowLen i
  let src := chAR s t c (iBits i 2 1 0)
  let dst := chAR s t c (iBits i 2 5 4)
  let rows := List.range (moveRows i)
  let lo (b : Nat) (d : Int) : Int := min (b : Int) ((b : Int) + ((moveRows i - 1 : Nat) : Int) * d)
  let hi (b : Nat) (d : Int) : Int := max (b : Int) ((b : Int) + ((moveRows i - 1 : Nat) : Int) * d) + (n : Int)
  let ss := iSigned i 8 4
  let ds := iSigned i 12 4
  decide (lo src ss < hi dst ds) && decide (lo dst ds < hi src ss) &&
    rows.any fun r => rows.any fun q =>
      let a := rowAddr src r ss
      let b := rowAddr dst q ds
      decide (a < b + n) && decide (b < a + n)

/-- Source and destination of a MOVE overlap, as far as the source of row `row` shows (R328). -/
def moveOverlaps (s : State) (t c row : Nat) (i : List Byte) : Bool :=
  match skind i, rowSrc s t c row with
  | 0, _ => spansOverlap s t c i
  | _, some a =>
    (List.range (moveRows i)).any fun q =>
      let b := rowAddr (chAR s t c (iBits i 2 5 4)) q (iSigned i 12 4)
      decide (a < b + rowLen i) && decide (b < a + rowLen i)
  | _, none => false

/-- The source of a row: its bytes, or where and why the read failed. -/
def rowData (s : State) (t c row : Nat) : (List Byte × Option (Nat × BusCause)) × State :=
  let x := s.chan t c
  let i := x.insn
  let kept := mgetD [] x.kept row
  match skind i with
  | 1 => ((fitBytes 32 kept, none), s)
  | k =>
    let a := if k = 2 then ent kept 0 8 else rowAddr (chAR s t c (iBits i 2 1 0)) row (iSigned i 8 4)
    readBeats (.dma t c) a (beatsOf a (rowLen i)) [] s

/-- One row is read and written: its failure, if it has one. -/
def performRow (s : State) (t c row : Nat) : Option DmaFail × State :=
  let i := (s.chan t c).insn
  let r := rowData s t c row
  let s := r.2
  let d := r.1.1
  let clash := moveOverlaps s t c row i
  let f := s.takeFresh
  let d := if clash then (List.range d.length).map (Config.undefByte f.1) else d
  let s := if clash then f.2 else s
  let a := rowAddr (chAR s t c (iBits i 2 5 4)) row (iSigned i 12 4)
  let w := writeBeats (.dma t c) a d (beatsOf a (rowLen i)) 0 s
  let s := w.2.count64 (R.DMA_CH_BYTES t c) w.1.1
  match w.1.2, r.1.2 with
  | some (b, e), _ => (some { row := row, addr := b, cause := e.num, write := true, access := 1 }, s)
  | none, some (b, e) => (some { row := row, addr := b, cause := e.num, write := false, access := 1 }, s)
  | none, none => (none, s)

/-- Latch a failure: the lowest row's stands (R340). -/
def latchFail (s : State) (t c : Nat) (f : DmaFail) : State :=
  let keep (g : DmaFail) : DmaFail := if f.row < g.row then f else g
  modChan s t c fun x => { x with fail := some ((x.fail.map keep).getD f) }

/-- Every row has completed: the post-increments, and the next instruction (R328). -/
def endMove (s : State) (t c : Nat) : State :=
  let i := (s.chan t c).insn
  let bump (k : Nat) (stride : Int) (s : State) : State := setAR s t c k (rowAddr (chAR s t c k) (moveRows i) stride)
  let s := if iBits i 1 2 2 = 1 then bump (iBits i 2 1 0) (iSigned i 8 4) s else s
  let s := if iBits i 1 3 3 = 1 then bump (iBits i 2 5 4) (iSigned i 12 4) s else s
  chNext s t c

/-- A row of a MOVE completes. -/
def rowComplete (s : State) (t c row : Nat) : State :=
  let p := performRow s t c row
  let s := modChan p.2 t c fun x => { x with out := x.out.filter (· != row) }
  let s := match p.1 with
    | some f => latchFail s t c f
    | none => modChan s t c fun x => { x with done := x.done ++ [row], kept := mdel row x.kept }
  let s := issueRows 512 s t c
  let x := s.chan t c
  let s := putProg s t c (rowsDone x)
  if x.fail.isNone && !x.abort && rowsDone x == moveRows x.insn then endMove s t c else s

/-- Flits that a row injects in the class of its channel (R324, R359). -/
def rowFlits (s : State) (t c row : Nat) : Nat :=
  let x := s.chan t c
  let i := x.insn
  let a := rowAddr (chAR s t c (iBits i 2 5 4)) row (iSigned i 12 4)
  let r := match skind i with
    | 1 => 0
    | k => readFlits s t (if k = 2 then ent (mgetD [] x.kept row) 0 8 else rowAddr (chAR s t c (iBits i 2 1 0)) row (iSigned i 8 4)) (rowLen i)
  r + writeFlits s t a (rowLen i)

/-- A row completes once its packets have had their tokens (R359); a row of more flits than a bucket holds waits for a
full bucket. Waiting is counted once. -/
def rowInject (s : State) (t c row : Nat) : State :=
  let cls := s.field (R.DMA_CH_CTRL t c) 30 29
  let n := min (rowFlits s t c row) (nocBurst s t cls)
  if mayInject s t cls n then
    let s := modChan (chargeFlits s t cls n) t c fun x => { x with waited := x.waited.filter (· != row) }
    rowComplete s t c row
  else if (s.chan t c).waited.contains row then s
  else modChan (countWait s t cls) t c fun x => { x with waited := row :: x.waited }

/-! ### SIGNAL (R331) -/

/-- A SIGNAL is delivered and awaits its acknowledgement, or fails. -/
def signalOut (s : State) (t c : Nat) (r : Option (Nat × Nat × Nat)) : State :=
  match r with
  | none => modChan s t c fun x => { x with begun := true, out := [0] }
  | some (cause, access, a) =>
    let f : DmaFail := { row := 0, addr := a, cause := cause, write := access == 4, access := access }
    modChan s t c fun x => { x with begun := true, out := [], fail := some f }

/-- The address of the DMA_EVT register or of the core that a SIGNAL reaches, as DMA_ERR_ADDR shows it. -/
def signalAddr (i : List Byte) : Nat := if ent i 1 1 = 0 then R.DMA_EVT_SET (ent i 2 1) else coreAddr (ent i 2 1) (ent i 3 1) 0x30

/-- SIGNAL EVENT (R331, R345). -/
def execSignalEvent (tile : Nat) (ch : Fin 16) (s : State) : Host.Outcome State Fault Refusal :=
  let t := tile
  let c := ch.val
  let i := (s.chan t c).insn
  if !ready s t c 4 || ent i 1 1 != 0 then ok s
  else
    let g := ent i 2 1
    if !hasDma s g then ok (signalOut s t c (some (1, 4, signalAddr i)))
    else if !(tileRun s g || g == t) then ok (signalOut s t c (some (4, 4, signalAddr i)))
    else ok (signalOut (evtSet s g (bitMask (ent i 3 1))) t c none)

/-- SIGNAL INTERRUPT (R331, R345). -/
def execSignalInterrupt (tile : Nat) (ch : Fin 16) (s : State) : Host.Outcome State Fault Refusal :=
  let t := tile
  let c := ch.val
  let i := (s.chan t c).insn
  if !ready s t c 4 || ent i 1 1 != 2 then ok s
  else
    let g := ent i 2 1
    if !isDsp s.part g then ok (signalOut s t c (some (1, 4, signalAddr i)))
    else if !(tileRun s g || g == t) then ok (signalOut s t c (some (4, 4, signalAddr i)))
    else ok (signalOut (dmaIrq s g (ent i 3 1)) t c none)

/-- The address of the entry of a SIGNAL QPUSH. -/
def entryAddr (s : State) (t c : Nat) (i : List Byte) : Nat :=
  if iBits i 6 0 0 = 1 then chAR s t c (iBits i 6 2 1) else ent i 8 8

/-- SIGNAL QPUSH (R191, R194, R200, R331): the entry is read and pushed; at a full queue the channel waits. -/
def execSignalQpush (tile : Nat) (ch : Fin 16) (s : State) : Host.Outcome State Fault Refusal :=
  let t := tile
  let c := ch.val
  let i := (s.chan t c).insn
  if !ready s t c 4 || ent i 1 1 != 1 then ok s
  else
    let a := entryAddr s t c i
    let r := busReadMany (.dma t c) a 32 s
    match r.1 with
    | .error e => ok (signalOut r.2 t c (some (e.num, 3, a)))
    | .ok b =>
      let qid := ent i 4 2
      let p := pushQ (.dma t c) qid b r.2
      match p.1 with
      | .accepted => ok (signalOut p.2 t c none)
      | .held => ok (setSt (signalOut p.2 t c none) t c .wait 5)
      | .absent => ok (signalOut p.2 t c (some (1, 4, qid)))
      | .asleep => ok (signalOut p.2 t c (some (4, 4, qid)))
      | _ => ok (signalOut p.2 t c (some (3, 4, qid)))

/-- A SIGNAL's acknowledgement arrives: POST applies and the instruction ends. -/
def signalDone (s : State) (t c : Nat) : State :=
  let x := s.chan t c
  let i := x.insn
  let s := modChan s t c fun x => { x with out := [] }
  if x.abort then s
  else
    let k := iBits i 6 2 1
    let s := if ent i 1 1 = 1 && iBits i 6 3 3 == 1 && iBits i 6 0 0 == 1 then setAR s t c k ((chAR s t c k + 32) % 2 ^ 64) else s
    chNext s t c

/-- DMA_REQUEST_COMPLETE (R325, R340): the requests of a row, or of a SIGNAL, complete; the last ends the
instruction. -/
def execDmaRequestComplete (tile : Nat) (ch : Fin 16) (row : Nat) (s : State) : Host.Outcome State Fault Refusal :=
  let t := tile
  let c := ch.val
  let x := s.chan t c
  let st := chSt s t c
  if !(st == .run || (st == .wait && wReason s t c == 6)) || !x.begun || !x.out.contains row then ok s
  else if isMove x.insn then ok (rowInject s t c row)
  else if iOp x.insn = 4 then ok (signalDone s t c)
  else ok s

/-- DMA_HALT (R339, R340, R342): nothing is outstanding after a failure or an ABORT. -/
def execDmaHalt (tile : Nat) (ch : Fin 16) (s : State) : Host.Outcome State Fault Refusal :=
  match chSt s tile ch.val with
  | .run | .wait => ok (drainHalt s tile ch.val)
  | _ => ok s

/-! ### WAIT (R330) -/

/-- WREASON of a WAIT by its KIND. -/
def waitReason (kind : Nat) : Nat := if kind = 0 then 1 else if kind ≤ 2 then 2 else 3

/-- WAIT (R191, R330): the channel waits with its reason. -/
def execDmaWait (tile : Nat) (ch : Fin 16) (s : State) : Host.Outcome State Fault Refusal :=
  let t := tile
  let c := ch.val
  if !ready s t c 3 then ok s
  else
    let i := (s.chan t c).insn
    let k := ent i 1 1
    if (k = 1 ∨ k = 2) ∧ !qidPresent s (ent i 2 2) then ok (haltWith s t c 1 false 5 none 0)
    else if (k = 1 ∨ k = 2) ∧ !tileRun s (dsqTile (qidDsq (ent i 2 2))) then ok (haltWith s t c 4 false 5 none 0)
    else ok (setSt (modChan s t c fun x => { x with begun := true, waitAt := s.now }) t c .wait (waitReason k))

/-- The condition of a WAIT holds. -/
def waitHolds (s : State) (t c : Nat) : Bool :=
  let x := s.chan t c
  let i := x.insn
  let v := ent i 8 8
  match ent i 1 1 with
  | 0 =>
    let m := BitVec.ofNat 32 v
    let e := s.reg (R.DMA_EVT t) &&& m
    if v.testBit 32 then e == m else e != 0#32
  | 1 => decide (v % 2 ^ 17 ≤ (s.queue (ent i 2 2)).entries.length)
  | 2 => decide ((s.queue (ent i 2 2)).entries.length ≤ v % 2 ^ 17)
  | 3 => decide (v ≤ s.devNs)
  | _ => decide (x.waitAt + v ≤ s.now)

/-- The channel is in a WAIT instruction. -/
def inWait (s : State) (t c : Nat) : Bool :=
  chSt s t c == .wait && decide (1 ≤ wReason s t c) && decide (wReason s t c ≤ 3) && tileRun s t

/-- A wait for a fill whose dispatcher sleeps: the read of the fill comes back (R339, R362). -/
def fillAsleep (s : State) (t c : Nat) : Bool :=
  let i := (s.chan t c).insn
  inWait s t c && wReason s t c == 2 && !tileRun s (dsqTile (qidDsq (ent i 2 2)))

/-- A wait ends if its condition holds. -/
def satisfy (s : State) (t c : Nat) : State :=
  if fillAsleep s t c then haltWith s t c 4 false 5 none 0
  else if inWait s t c && waitHolds s t c then
    let i := (s.chan t c).insn
    let v := ent i 8 8
    let s := if ent i 1 1 = 0 && v.testBit 33 then s.modReg (R.DMA_EVT t) (· &&& ~~~(BitVec.ofNat 32 v)) else s
    chNext s t c
  else s

/-- DMA_WAIT_SATISFIED (R330): the engine evaluates its waiting channels in ascending number, so lower channels that wait
for events come before channel `ch`. -/
def execDmaWaitSatisfied (tile : Nat) (ch : Fin 16) (s : State) : Host.Outcome State Fault Refusal :=
  let lower := (List.range ch.val).filter fun c => inWait s tile c && wReason s tile c == 1
  ok (satisfy (lower.foldl (fun s c => satisfy s tile c) s) tile ch.val)

/-- DMA_WAIT_TIMEOUT (R330, R339). -/
def execDmaWaitTimeout (tile : Nat) (ch : Fin 16) (s : State) : Host.Outcome State Fault Refusal :=
  let t := tile
  let c := ch.val
  let x := s.chan t c
  let us := ent x.insn 4 4
  if inWait s t c && us != 0 && decide (x.waitAt + us * 1000 ≤ s.now) && !waitHolds s t c then
    ok (haltWith s t c 7 false 5 none 0)
  else ok s

/-- QEMPTY_RETRY (R328): a row that waits on an empty queue repeats its pop. -/
def execQemptyRetry (tile : Nat) (ch : Fin 16) (s : State) : Host.Outcome State Fault Refusal :=
  if chSt s tile ch.val == .wait && wReason s tile ch.val == 6 && tileRun s tile then
    ok (issueRows 512 s tile ch.val)
  else ok s

/-- STREAM_GATE_MESSAGE (R337): a watermark crossing opens or closes the gate; a channel that waits at the gate goes
on. -/
def execStreamGateMessage (tile : Nat) (ch : Fin 16) (s : State) : Host.Outcome State Fault Refusal :=
  let t := tile
  let c := ch.val
  if !(hasDma s t && streamOn s t c && tileRun s t) || chSt s t c == .idle then ok s
  else
    let s := gateUpdate s t c
    if chSt s t c == .wait && wReason s t c == 4 && gateOpen s t c then ok (issueFetch s t c (s.chan t c).fromPark) else ok s

/-! ### The doorbell -/

/-- A write of a command to DMA_CH_DOORBELL. -/
def bell (r : Requester) (t c cmd : Nat) (s : State) : Host.Outcome State Fault Refusal :=
  ok (writeAnswer r (R.DMA_CH_DOORBELL t c) (leBytes 4 cmd) s)

/-- RING (R334, R335, R337). -/
def execRing (r : Requester) (tile : Nat) (ch : Fin 16) (s : State) : Host.Outcome State Fault Refusal :=
  bell r tile ch.val 1 s
/-- ABORT (R334, R342). -/
def execAbort (r : Requester) (tile : Nat) (ch : Fin 16) (s : State) : Host.Outcome State Fault Refusal :=
  bell r tile ch.val 2 s
/-- RESUME (R341). -/
def execResume (r : Requester) (tile : Nat) (ch : Fin 16) (s : State) : Host.Outcome State Fault Refusal :=
  bell r tile ch.val 3 s
/-- RESET (R334). -/
def execReset (r : Requester) (tile : Nat) (ch : Fin 16) (s : State) : Host.Outcome State Fault Refusal :=
  bell r tile ch.val 4 s
/-- DMA_EVT_SET (R346): 1s set event flags. -/
def execDmaEvtSet (r : Requester) (tile : Nat) (mask : Word) (s : State) : Host.Outcome State Fault Refusal :=
  ok (writeAnswer r (R.DMA_EVT_SET tile) (leBytes 4 mask.toNat) s)

/-! ### Held pushes (R200, R201) -/

/-- HELD_PUSH_ACCEPT (R201): space frees, and the oldest held push is accepted; its core command ends, or its channel goes
on. -/
def execHeldPushAccept (qid : Nat) (s : State) : Host.Outcome State Fault Refusal :=
  let x := s.queue qid
  match x.held.head? with
  | none => ok s
  | some h =>
    let s' := acceptHeld s qid
    if (s'.queue qid).held.length = x.held.length then ok s
    else match h.producer with
      | .core t c tag => ok (cqResult s' t c tag 0)
      | .dma t c => if chSt s' t c == .wait && wReason s' t c == 5 then ok (setSt s' t c .run 0) else ok s'
      | _ => ok s'

end Sys2Proof.Machine
end

