-- ==== Sys2Proof/Machine/Signal.lean ====
section
/-! DEFINITION. Arithmetic of the signal chain: exact rotations and transforms with convergent rounding (R122, R123,
R143, R160), LLRs and descrambling (R129, R130), and the places a transmission covers in a soft buffer (R132).
Assumption log: 52 (DEDUCED), 53 (DEDUCED), 54 (PRESUMED), 55 (DESIGN CHOICE), 56 (DEDUCED). -/

namespace Sys2Proof

/-! ### Rotations

Cosine and sine are computed to 60 fraction bits. A product of them with samples is snapped to the nearest multiple of
2^-30 LSB before it is rounded, so that exact halves round to even. -/

/-- Fraction bits of the trigonometric values. -/
def trigBits : Nat := 60

/-- 2π with 60 fraction bits. -/
def twoPi : Nat := 7244019458077122842

/-- Terms of a power series in `y`: t, −t·y/(n(n+1)), and so on. -/
def trigSeries (y : Int) : Nat → Nat → Int → Int
  | 0, _, _ => 0
  | k + 1, n, t => t + trigSeries y k (n + 2) (-(t * y) / (2 ^ trigBits * (n * (n + 1) : Nat)))

/-- Cosine and sine of an angle below an eighth of a turn, in units of 2^-60. -/
def trigSmall (a : Int) : Int × Int :=
  let y := a * a / 2 ^ trigBits
  (trigSeries y 14 1 (2 ^ trigBits), trigSeries y 14 2 a)

/-- Cosine and sine of `k / n` turns, in units of 2^-60. -/
def turn (k n : Nat) : Int × Int :=
  let m := k % n
  let o := 8 * m / n
  -- the angle beyond the last multiple of a quarter turn, or before the next one
  let q := (o + 1) / 2
  let num : Int := 4 * (m : Int) - (q * n : Nat)
  let x := trigSmall (num * twoPi / (4 * n : Nat))
  match q % 4 with
  | 0 => x
  | 1 => (-x.2, x.1)
  | 2 => (-x.1, -x.2)
  | _ => (x.2, -x.1)

/-- A complex sample. -/
abbrev CInt := Int × Int

/-- Complex product. -/
def cmulI (a b : CInt) : CInt := (a.1 * b.1 - a.2 * b.2, a.1 * b.2 + a.2 * b.1)
/-- Complex sum. -/
def caddI (a b : CInt) : CInt := (a.1 + b.1, a.2 + b.2)
/-- Complex conjugate. -/
def conjI (a : CInt) : CInt := (a.1, -a.2)

/-- Scale `x / 2^(60 + k)` to an integer by convergent rounding, after snapping (R143). -/
def narrow60 (x : Int) (k : Nat) : Int := rneShift (rneShift x 30) (30 + k)

/-- Narrow a complex value of scale 2^-(60 + k) to c16: how many of its components saturated, and the value. The model
counts the two components apart as saturated values (R122 does not say; log entry 55). -/
def narrowC (x : CInt) (k : Nat) : Nat × CInt :=
  let r := narrow60 x.1 k
  let i := narrow60 x.2 k
  (b2n (satSigned 16 r != r) + b2n (satSigned 16 i != i), (satSigned 16 r, satSigned 16 i))

/-- DFT bin `m` of samples with sign `inv` of the exponent, in units of 2^-60. -/
def dftBin (n m : Nat) (inv : Bool) (xs : List CInt) : CInt :=
  (xs.zipIdx).foldl (fun acc x =>
    let w := turn ((m * x.2) % n) n
    caddI acc (cmulI x.1 (if inv then w else conjI w))) (0, 0)

/-- `⌈log2(n) / 2⌉`: the least k with n ≤ 4^k (R122). -/
def halfLog (n : Nat) : Nat := (firstBelow 13 fun k => decide (n ≤ 4 ^ k)).getD 13

/-- One output of a transform scaled by 2^(shift − ⌈log2(N)/2⌉) (R122). -/
def fftScale (n : Nat) (shift : Int) (x : CInt) : Nat × CInt :=
  let k := (halfLog n : Int) - shift
  narrowC x k.toNat

/-- The transform bin of subcarrier `i` of `c` centred subcarriers: DC at the middle. -/
def binOf (n c i : Nat) : Nat := (i + n - c / 2) % n

/-- A forward transform (R121, R122): window `xs` taken `adv` samples early, whose linear phase is removed; the `c`
centred subcarriers. -/
def fftForward (n c adv : Nat) (shift : Int) (xs : List CInt) : List (Nat × CInt) :=
  (List.range c).map fun i =>
    let m := binOf n c i
    let y := dftBin n m false xs
    let w := turn ((m * adv) % n) n
    let z := cmulI y w
    fftScale n shift (rneShift z.1 trigBits, rneShift z.2 trigBits)

/-- An inverse transform (R122) of `c` centred subcarriers: the `n` time samples. -/
def fftInverse (n : Nat) (shift : Int) (ys : List CInt) : List (Nat × CInt) :=
  let c := ys.length
  (List.range n).map fun t =>
    let x := (ys.zipIdx).foldl (fun acc y => caddI acc (cmulI y.1 (turn ((binOf n c y.2 * t) % n) n))) ((0, 0) : CInt)
    fftScale n shift x

/-- A sample turned by `ph` of 2^32 parts of a turn and scaled by a Q1.15 gain (R160, R168). -/
def rotate (gain : Nat) (ph : Int) (x : CInt) : Nat × CInt :=
  let w := turn (ofSigned 32 ph) (2 ^ 32)
  narrowC (cmulI (x.1 * gain, x.2 * gain) w) 15

/-! ### LLRs (R129, R130) -/

/-- Bits per symbol of MOD (R129, R305). -/
def modBits (mod : Nat) : Nat := [1, 2, 4, 6, 8].getD mod 1

/-- One rail of a Gray-mapped QAM point, in units of its least amplitude: the bits of the rail, sign first (R129; PRESUMED
from 3GPP TS 38.211 5.1). -/
def railOf : List Bool → Int
  | [] => 1
  | [b] => if b then -1 else 1
  | b :: l => (if b then -1 else 1) * (2 ^ l.length - railOf l)

/-- The point of the bits of symbol `k` (R129): bit i of `p` is the i-th bit; even bits lie on the real rail, odd ones on
the imaginary rail. A π/2-BPSK symbol lies on a diagonal that turns by π/2 from one symbol to the next. The amplitude
is free: no rule relates it to the c16 scale. -/
def constellation (mod k p : Nat) : Int × Int :=
  let u : Int := Config.constellationUnit mod
  let rail (o : Nat) : Int := railOf ((List.range (modBits mod / 2)).map fun i => p.testBit (2 * i + o))
  if mod = 0 then
    let x := if p.testBit 0 then -u else u
    if k % 2 = 0 then (x, x) else (-x, x)
  else (u * rail 0, u * rail 1)

/-- |x − s|² of a c16 symbol and a constellation point, in units of 2^-62. -/
def dist2 (x s : CInt) : Nat :=
  let a := x.1 * 2 ^ 16 - s.1
  let b := x.2 * 2 ^ 16 - s.2
  (a * a + b * b).toNat

/-- The least distance of symbol `k` over the points whose bit `b` (0 first) is `v`; 0 where there is none. -/
def minDist (mod k b : Nat) (v : Bool) (x : CInt) : Nat :=
  let n := modBits mod
  let l := ((List.range (2 ^ n)).filter fun p => p.testBit b == v).map fun p => dist2 x (constellation mod k p)
  match l with
  | [] => 0
  | d :: l => l.foldl min d

/-- The number `num / 2^62 ÷ (sm × 2^se)`, doubled and rounded convergently (R130), before it is saturated to ±31; σ² is
sm × 2^se and not 0. -/
def llr6 (num : Int) (sm : Nat) (se : Int) : Int :=
  let k := 61 + se
  if 0 ≤ k then rneDiv num (sm * 2 ^ k.toNat) else rneDiv (num * 2 ^ (-k).toNat) sm

/-- The scrambling sequence of initialiser `cinit` (length-31 Gold sequence with offset 1,600; PRESUMED from 3GPP TS
38.211 5.2.1): the registers advanced by one bit. -/
def goldStep (r : Nat × Nat) : Nat × Nat :=
  let a := r.1
  let b := r.2
  let na := (b2n (a.testBit 3) + b2n (a.testBit 0)) % 2
  let nb := (b2n (b.testBit 3) + b2n (b.testBit 2) + b2n (b.testBit 1) + b2n (b.testBit 0)) % 2
  (a / 2 + na * 2 ^ 30, b / 2 + nb * 2 ^ 30)

/-- Advance the registers by `n` bits. -/
def goldSkip : Nat → Nat × Nat → Nat × Nat
  | 0, r => r
  | n + 1, r => goldSkip n (goldStep r)

/-- `n` scrambling bits from the registers. -/
def goldBits : Nat → Nat × Nat → List Bool
  | 0, _ => []
  | n + 1, r => (r.1.testBit 0 != r.2.testBit 0) :: goldBits n (goldStep r)

/-- Scrambling bits `off` .. `off + n − 1`. -/
def scramble (cinit off n : Nat) : List Bool := goldBits n (goldSkip (1600 + off) (1, cinit % 2 ^ 31))

/-! ### Channel estimation (R124 to R126) -/

/-- Subcarriers of a PRB that carry a layer's pilots, by PATTERN: NR types 1 and 2, LTE DMRS, SRS comb 4 (R124, R305;
PRESUMED from 3GPP TS 38.211 and TS 36.211). -/
def pilotSubs (pattern layer : Nat) : List Nat :=
  match pattern with
  | 0 => [0, 2, 4, 6, 8, 10].map (· + layer / 2 % 2)
  | 1 => [0, 1, 6, 7].map (· + 2 * (layer / 2 % 3))
  | 2 => List.range 12
  | _ => [0, 4, 8]

/-- Despread code-division pairs (R124): each pair of successive pilots takes its mean at both subcarriers. Values are
doubled; where pilots are not paired they are doubled alone. -/
def despread (paired : Bool) : List (Nat × CInt) → List (Nat × CInt)
  | (i, x) :: (k, y) :: l =>
    if paired then (i, caddI x y) :: (k, caddI x y) :: despread paired l
    else (i, caddI x x) :: despread paired ((k, y) :: l)
  | l => l.map fun x => (x.1, caddI x.2 x.2)

/-- An integer times a complex value. -/
def scaleI (k : Int) (x : CInt) : CInt := (k * x.1, k * x.2)

/-- 20 times the value at subcarrier `i` of pilots in ascending order (R125): linear between the pilots on either side,
whose distance divides 20, and the edge value beyond the outermost. -/
def interpolate (i : Nat) (prev : Option (Nat × CInt)) : List (Nat × CInt) → CInt
  | [] => ((prev.map fun x => scaleI 20 x.2).getD (0, 0))
  | (k, y) :: l =>
    if k ≤ i then interpolate i (some (k, y)) l
    else match prev with
      | none => scaleI 20 y
      | some (p, x) => caddI (scaleI ((20 / (k - p) * (k - i) : Nat) : Int) x) (scaleI ((20 / (k - p) * (i - p) : Nat) : Int) y)

/-- The least common multiple of 1 to 13. -/
def lcm13 : Nat := 360360

/-- 360360 times the mean over 2M + 1 subcarriers about `i`, or those that are present (R125). -/
def movingMean (m i : Nat) (l : List CInt) : CInt :=
  let w := (l.drop (i - m)).take (min i m + m + 1)
  scaleI ((lcm13 / w.length : Nat) : Int) (w.foldl caddI (0, 0))

/-- 2^15 times the tap at time `t` from the taps of the time points (R125): held before the first and after the last,
linear between with a weight rounded to Q1.15. -/
def timeInterpolate (t : Nat) (prev : Option (Nat × CInt)) : List (Nat × CInt) → CInt
  | [] => ((prev.map fun x => scaleI 32768 x.2).getD (0, 0))
  | (k, y) :: l =>
    if k ≤ t then timeInterpolate t (some (k, y)) l
    else match prev with
      | none => scaleI 32768 y
      | some (p, x) =>
        let w := rneDiv (((t - p : Nat) : Int) * 32768) (k - p)
        caddI (scaleI (32768 - w) x) (scaleI w y)

/-- Time points of a job in half symbols, each with its symbols (R125): a double-symbol position counts once, midway. -/
def timePoints (double : Bool) : List Nat → List (Nat × List Nat)
  | a :: b :: l => if double then (a + b, [a, b]) :: timePoints double l else (2 * a, [a]) :: timePoints double (b :: l)
  | l => l.map fun a => (2 * a, [a])

/-- What the integers of a tap are scaled by: products of two Q1.15 values, the means over two symbols and over a pair,
interpolation, moving mean and time weights. -/
def tapScale : Nat := 2 ^ 30 * 4 * 20 * lcm13 * 2 ^ 15

/-! ### Rate matching (R132; PRESUMED from 3GPP TS 38.212 5.4.2 and TS 36.212 5.1.4.1) -/

/-- Starting position of redundancy version `rv` of an LDPC circular buffer. -/
def ldpcK0 (bg zc ncb rv : Nat) : Nat :=
  let den := if bg = 1 then 66 else 50
  let num := (if bg = 1 then [0, 17, 33, 56] else [0, 13, 25, 43]).getD (rv % 4) 0
  if zc = 0 then 0 else num * ncb / (den * zc) * zc

/-- `n` successive positions from `k` in a circular buffer, skipping those that `skip` names; `fuel` bounds the
search. -/
def selectPos (ncb : Nat) (skip : Nat → Bool) : Nat → Nat → Nat → List Nat
  | 0, _, _ => []
  | fuel + 1, k, n =>
    if n = 0 then []
    else
      let p := k % ncb
      if skip p then selectPos ncb skip fuel (k + 1) n else p :: selectPos ncb skip fuel (k + 1) (n - 1)

/-- Undo the bit interleaver: the position of each received LLR. -/
def deinterleave (qm : Nat) (l : List Nat) : List Nat :=
  let e := l.length
  let q := if qm = 0 || e % qm != 0 then 1 else qm
  (List.range e).map fun r => l.getD (r % q * (e / q) + r / q) 0

/-- Positions of the E LLRs of an LDPC transmission, in order of arrival. -/
def ldpcPositions (bg zc ncb rv e kprime filler qm : Nat) : List Nat :=
  let lo := kprime - 2 * zc
  let skip (p : Nat) : Bool := decide (lo ≤ p) && decide (p < lo + filler)
  if ncb = 0 ∨ (List.range ncb).all skip then [] else
  deinterleave qm (selectPos ncb skip ((e + 1) * (filler + 1) + ncb) (ldpcK0 bg zc ncb rv) e)

/-- The column permutation of the sub-block interleaver. -/
def turboPerm : List Nat :=
  [0, 16, 8, 24, 4, 20, 12, 28, 2, 18, 10, 26, 6, 22, 14, 30, 1, 17, 9, 25, 5, 21, 13, 29, 3, 19, 11, 27, 7, 23, 15, 31]

/-- Entry `p` of a turbo circular buffer of block length `k` holds a dummy bit. -/
def turboNull (k p : Nat) : Bool :=
  let d := k + 4
  let r := ceilDiv d 32
  let kp := 32 * r
  let nd := kp - d
  let src (j : Nat) : Nat := turboPerm.getD (j / r) 0 + 32 * (j % r)
  if p < kp then decide (src p < nd)
  else
    let j := (p - kp) / 2
    if (p - kp) % 2 = 0 then decide (src j < nd) else decide ((src j + 1) % kp < nd)

/-- Positions of the E LLRs of a turbo transmission. -/
def turboPositions (k ncb rv e : Nat) : List Nat :=
  let r := ceilDiv (k + 4) 32
  let k0 := r * (2 * ceilDiv ncb (8 * r) * rv + 2)
  if ncb = 0 ∨ r = 0 ∨ (List.range ncb).all (turboNull k) then [] else
  selectPos ncb (turboNull k) ((e + 1) * 97 + ncb) k0 e

/-- Combine LLRs into a soft buffer (R132 step 2). -/
def combineSoft (b : FMap Int) : List (Nat × Int) → FMap Int
  | [] => b
  | (p, x) :: l => combineSoft (mset p (max (-127) (min 127 (mgetD 0 b p + x))) b) l

end Sys2Proof
end

