-- ==== Sys2Proof/Machine/SoftFloat.lean ====
section
/-! DEFINITION. Exact IEEE 754-2019 arithmetic by rational rounding to nearest, ties to even (R290). -/

namespace Sys2Proof

/-- A binary format: exponent and mantissa bits. -/
structure FFmt where
  eb : Nat
  mb : Nat
  deriving DecidableEq, Repr

/-- binary16. -/ def f16F : FFmt := { eb := 5, mb := 10 }
/-- bfloat16: binary32 without its low 16 bits. -/ def bf16F : FFmt := { eb := 8, mb := 7 }
/-- binary32. -/ def f32F : FFmt := { eb := 8, mb := 23 }
/-- binary64. -/ def f64F : FFmt := { eb := 11, mb := 52 }

/-- Width of a format. -/
def FFmt.w (f : FFmt) : Nat := 1 + f.eb + f.mb
/-- The exponent of the least significant bit of a subnormal. -/
def FFmt.qmin (f : FFmt) : Int := 1 - ((2 ^ (f.eb - 1) - 1 : Nat) : Int) - (f.mb : Int)
/-- The largest exponent field. -/
def FFmt.emax (f : FFmt) : Nat := 2 ^ f.eb - 1

/-- A decoded number: a NaN (quiet or signalling), an infinity, or ±m × 2^e. -/
inductive FNum where
  | nan (quiet : Bool)
  | inf (neg : Bool)
  | fin (neg : Bool) (m : Nat) (e : Int)
  deriving DecidableEq, Repr

/-- Decode bits. -/
def fdec (f : FFmt) (b : Nat) : FNum :=
  let neg := b.testBit (f.eb + f.mb)
  let ex := (b >>> f.mb) % 2 ^ f.eb
  let m := b % 2 ^ f.mb
  if ex = f.emax then (if m = 0 then .inf neg else .nan (m.testBit (f.mb - 1)))
  else if ex = 0 then .fin neg m f.qmin
  else .fin neg (m + 2 ^ f.mb) (f.qmin + (ex : Int) - 1)

/-- The sign bit of a format. -/
def fsign (f : FFmt) (neg : Bool) : Nat := if neg then 2 ^ (f.eb + f.mb) else 0
/-- An infinity. -/
def finf (f : FFmt) (neg : Bool) : Nat := fsign f neg + f.emax * 2 ^ f.mb
/-- The canonical quiet NaN (R290). -/
def fnan (f : FFmt) : Nat := f.emax * 2 ^ f.mb + 2 ^ (f.mb - 1)

/-- `m / 2^k` to nearest, ties to even. -/
def rneNat (m k : Nat) : Nat :=
  let q := m >>> k
  let r := m % 2 ^ k
  if k = 0 then m
  else if 2 ^ (k - 1) < r ∨ (r = 2 ^ (k - 1) ∧ q % 2 = 1) then q + 1 else q

/-- Round ±m × 2^e into a format. -/
def fround (f : FFmt) (neg : Bool) (m : Nat) (e : Int) : Nat :=
  if m = 0 then fsign f neg
  else
    let q := max ((Nat.log2 m : Int) + e - f.mb) f.qmin
    let n := if e < q then rneNat m (q - e).toNat else m <<< (e - q).toNat
    let q' := if n = 2 ^ (f.mb + 1) then q + 1 else q
    let n' := if n = 2 ^ (f.mb + 1) then 2 ^ f.mb else n
    if n' < 2 ^ f.mb then fsign f neg + n'
    else
      let be := (q' - f.qmin + 1).toNat
      if f.emax ≤ be then finf f neg else fsign f neg + be * 2 ^ f.mb + (n' - 2 ^ f.mb)

/-- The NaN of an operation with a quiet NaN operand: its sign and payload are free. -/
def ffree (f : FFmt) (op a b : Nat) : Nat := ((Config.quietNan f.w op a b) % 2 ^ f.w) ||| fnan f

/-- The NaN an operation with a NaN operand gives: canonical for a signalling one (an invalid operation). -/
def nanOf (f : FFmt) (op a b : Nat) (x y : FNum) : Nat :=
  if x = .nan false ∨ y = .nan false then fnan f else ffree f op a b

/-- Exact sum of two finite numbers, rounded; an exact zero is +0 unless both are −0. -/
def faddFin (f : FFmt) (n1 : Bool) (m1 : Nat) (e1 : Int) (n2 : Bool) (m2 : Nat) (e2 : Int) : Nat :=
  let e := min e1 e2
  let a : Int := (if n1 then -1 else 1) * ((m1 <<< (e1 - e).toNat : Nat) : Int)
  let b : Int := (if n2 then -1 else 1) * ((m2 <<< (e2 - e).toNat : Nat) : Int)
  let s := a + b
  if s = 0 then fsign f (n1 && n2) else fround f (decide (s < 0)) s.natAbs e

/-- a + b. -/
def fadd (f : FFmt) (a b : Nat) : Nat :=
  match fdec f a, fdec f b with
  | .nan q, y => nanOf f 0 a b (.nan q) y
  | x, .nan q => nanOf f 0 a b x (.nan q)
  | .inf s, .inf t => if s = t then finf f s else fnan f
  | .inf s, _ => finf f s
  | _, .inf t => finf f t
  | .fin n1 m1 e1, .fin n2 m2 e2 => faddFin f n1 m1 e1 n2 m2 e2

/-- The number with its sign changed. -/
def fneg (f : FFmt) (a : Nat) : Nat := a ^^^ 2 ^ (f.eb + f.mb)

/-- a − b; a NaN operand is taken as it stands. -/
def fsub (f : FFmt) (a b : Nat) : Nat :=
  match fdec f b with
  | .nan q => nanOf f 1 a b (fdec f a) (.nan q)
  | _ => match fdec f a with
    | .nan q => nanOf f 1 a b (.nan q) (fdec f b)
    | _ => fadd f a (fneg f b)

/-- a × b. -/
def fmul (f : FFmt) (a b : Nat) : Nat :=
  match fdec f a, fdec f b with
  | .nan q, y => nanOf f 2 a b (.nan q) y
  | x, .nan q => nanOf f 2 a b x (.nan q)
  | .inf s, .inf t => finf f (s != t)
  | .inf s, .fin t m _ => if m = 0 then fnan f else finf f (s != t)
  | .fin s m _, .inf t => if m = 0 then fnan f else finf f (s != t)
  | .fin s m e, .fin t n g => fround f (s != t) (m * n) (e + g)

/-- c + a × b, rounded once. -/
def ffma (f : FFmt) (c a b : Nat) : Nat :=
  let key := a * 2 ^ f.w + b
  match fdec f a, fdec f b, fdec f c with
  | .nan q, y, z => if z = .nan false then fnan f else nanOf f 3 key c (.nan q) y
  | x, .nan q, z => if z = .nan false then fnan f else nanOf f 3 key c x (.nan q)
  | .inf s, .fin t m _, z => infProd f s t m key c z
  | .fin t m _, .inf s, z => infProd f s t m key c z
  | .inf s, .inf t, z => infProd f s t 1 key c z
  | .fin s m e, .fin t n g, .fin u k h => faddFin f (s != t) (m * n) (e + g) u k h
  | .fin _ _ _, .fin _ _ _, .inf u => finf f u
  | .fin _ _ _, .fin _ _ _, .nan q => nanOf f 3 key c (.nan q) (.nan q)
where
  /-- An infinite product plus `z`. -/
  infProd (f : FFmt) (s t : Bool) (m : Nat) (key c : Nat) (z : FNum) : Nat :=
    if m = 0 then fnan f
    else match z with
      | .nan q => nanOf f 3 key c (.nan q) (.nan q)
      | .inf u => if (s != t) = u then finf f u else fnan f
      | .fin _ _ _ => finf f (s != t)

/-- a / b: a quotient with 64 bits beyond the format and a sticky bit, rounded once. -/
def fdiv (f : FFmt) (a b : Nat) : Nat :=
  match fdec f a, fdec f b with
  | .nan q, y => nanOf f 4 a b (.nan q) y
  | x, .nan q => nanOf f 4 a b x (.nan q)
  | .inf _, .inf _ => fnan f
  | .inf s, .fin t _ _ => finf f (s != t)
  | .fin s _ _, .inf t => fsign f (s != t)
  | .fin s m e, .fin t n g =>
    if n = 0 then (if m = 0 then fnan f else finf f (s != t))
    else
      let k := 2 * f.mb + 66
      let num := m <<< k
      let q := num / n
      fround f (s != t) (2 * q + (if num % n = 0 then 0 else 1)) (e - g - k - 1)

/-- Square root. -/
def fsqrt (f : FFmt) (a : Nat) : Nat :=
  match fdec f a with
  | .nan q => nanOf f 5 a a (.nan q) (.nan q)
  | .inf neg => if neg then fnan f else finf f false
  | .fin neg m e =>
    if m = 0 then fsign f neg
    else if neg then fnan f
    else
      let k := 2 * f.mb + 8
      let m' := if e % 2 = 0 then m <<< (2 * k) else (m <<< (2 * k)) * 2
      let e' := if e % 2 = 0 then e else e - 1
      let r := isqrt m' (f.mb + k + 2)
      fround f false (2 * r + (if r * r = m' then 0 else 1)) (e' / 2 - k - 1)

/-- Sign and magnitude compared: less, equal, greater or unordered (R290 FCMPG); −0 equals +0. -/
def fcmp (f : FFmt) (a b : Nat) : Nat :=
  match fdec f a, fdec f b with
  | .nan _, _ | _, .nan _ => 8
  | x, y =>
    let v := key x; let w := key y
    if v < w then 1 else if v = w then 2 else 4
where
  /-- A number as a rational scaled beyond every format: an integer that orders as the number does. -/
  key : FNum → Int
    | .nan _ => 0
    | .inf neg => if neg then -(2 ^ 4096 : Nat) else (2 ^ 4096 : Nat)
    | .fin neg m e => (if neg then -1 else 1) * ((m <<< (e + 1100).toNat : Nat) : Int)

/-- The lesser: the other operand when one is a NaN, and −0 below +0 (R290). -/
def fmin (f : FFmt) (a b : Nat) : Nat :=
  match fdec f a, fdec f b with
  | .nan q, .nan r => nanOf f 6 a b (.nan q) (.nan r)
  | .nan _, _ => b
  | _, .nan _ => a
  | _, _ => match fcmp f a b with
    | 1 => a | 4 => b | _ => if a.testBit (f.eb + f.mb) then a else b
/-- The greater: as `fmin`. -/
def fmax (f : FFmt) (a b : Nat) : Nat :=
  match fdec f a, fdec f b with
  | .nan q, .nan r => nanOf f 7 a b (.nan q) (.nan r)
  | .nan _, _ => b
  | _, .nan _ => a
  | _, _ => match fcmp f a b with
    | 1 => b | 4 => a | _ => if a.testBit (f.eb + f.mb) then b else a

/-- Convert between formats. -/
def fcvt (from_ to_ : FFmt) (a : Nat) : Nat :=
  match fdec from_ a with
  | .nan q => nanOf to_ 8 a from_.w (.nan q) (.nan q)
  | .inf neg => finf to_ neg
  | .fin neg m e => fround to_ neg m e

/-- Nearest integer, ties to even. -/
def fnearest (neg : Bool) (m : Nat) (e : Int) : Int :=
  let n := if e < 0 then rneNat m (-e).toNat else m <<< e.toNat
  if neg then -(n : Int) else n

/-- To i32, saturated; a NaN gives 0 (R290): the bits and whether it clamped. -/
def ftoi (f : FFmt) (a : Nat) : Nat × Bool :=
  match fdec f a with
  | .nan _ => (0, false)
  | .inf neg => (if neg then 0x80000000 else 0x7FFFFFFF, true)
  | .fin neg m e =>
    let v := fnearest neg m e
    (ofSigned 32 (satSigned 32 v), satSigned 32 v != v)

/-- From i32. -/
def fromi (f : FFmt) (a : Nat) : Nat :=
  let v := toSigned 32 a
  fround f (decide (v < 0)) v.natAbs 0

end Sys2Proof
end

