-- ==== Sys2Proof/Machine/Jobs.lean ====
section
/-! DEFINITION. What the accelerator functions compute (R120 to R143, R160, R167, R305, R308) and the helper's matrix
operations (R320). Assumption log: 53 (DEDUCED), 54 (PRESUMED), 55 (DESIGN CHOICE), 56 (DEDUCED), 57 (DEDUCED), 58
(DESIGN CHOICE), 60 (DESIGN CHOICE), 61 (DEDUCED). -/

namespace Sys2Proof.Machine

/-- What a function leaves: its writes, USED, NOK, RESULT, SAT and EARLY. -/
structure JobOut where
  writes : List (Nat × List Byte)
  used : Nat := 0
  nok : Nat := 0
  result : Nat := 0
  sat : Bool := false
  early : Bool := false
  deriving DecidableEq, Repr

/-- The job can run its function now: started, checked, not yet run, not paused, its tile in RUN. -/
def canRun (s : State) (func : Nat) (j : AccJob) : Bool :=
  j.started.isSome && j.status.isNone && !j.ran && !j.paused && !j.body.isEmpty && j.func == func && tileRun s j.tile

/-- Run a function: it waits for COMMIT where it reads a side-effect region or its writes reach 16 KiB; else its outputs
are written or staged, and its status is decided (R308, R310, R312, R315). -/
def runJob (acc : Bool) (func : Nat) (tile : Nat) (ref : JobRef)
    (work : AccJob → State → Except Nat JobOut × AccJob × State) (s : State) : Host.Outcome State Fault Refusal :=
  match s.job tile ref with
  | none => ok s
  | some j =>
    if (accKind s.part tile).isSome != acc || !canRun s func j then ok s
    else
      let x := work j s
      match x.1 with
      | .error e => ok (failRead x.2.1 e s x.2.2)
      | .ok o =>
        if stageFull j o.writes then ok (pauseJob j x.2.2)
        else
          let j := { x.2.1 with used := o.used, nok := o.nok, result := o.result, sat := o.sat, early := o.early }
          let w := jobWrite j o.writes x.2.2
          match w.1 with
          | some e => ok (failJob w.2.1 e w.2.2)
          | none => ok (decideJob w.2.1 0 w.2.2)

/-- A function that reads spans and computes its outputs from them. -/
def simple (spans : AccJob → List (Nat × Nat)) (f : AccJob → List (List Byte) → JobOut) (j : AccJob) (s : State) :
    Except Nat JobOut × AccJob × State :=
  let r := jobReads j (spans j) s
  match r.1 with
  | .error e => (.error e, j, r.2)
  | .ok bs => (.ok (f j bs), j, r.2)

/-- A function over symbol records. -/
def onRecs (addrs : AccJob → List Nat) (f : State → AccJob → List Rec → JobOut) (j : AccJob) (s : State) :
    Except Nat JobOut × AccJob × State :=
  let r := jobRecs j (addrs j) s
  match r.1 with
  | .error e => (.error e, j, r.2)
  | .ok rs => (.ok (f r.2 j rs), j, r.2)

/-- Free output bytes of a function, cut to `n` (`i`-th output). -/
def freeOut (j : AccJob) (inputs : List Byte) (i n : Nat) : List Byte :=
  fitBytes n (Config.signalBytes j.func j.body inputs j.cap i)

/-- All bytes of a list of records. -/
def recsBytes (rs : List Rec) : List Byte := rs.flatMap fun r => r.hdr ++ r.data

/-! ### Samples -/

/-- The c16 samples of bytes. -/
def c16s : List Byte → List CInt
  | a :: b :: c :: d :: l => (toSigned 16 (leVal [a, b]), toSigned 16 (leVal [c, d])) :: c16s l
  | _ => []

/-- Bytes of c16 samples. -/
def c16Bytes (l : List CInt) : List Byte := l.flatMap fun x => leBytes 2 (ofSigned 16 x.1) ++ leBytes 2 (ofSigned 16 x.2)

/-- Narrowed samples: their bytes and how many components saturated. -/
def outSamples (l : List (Nat × CInt)) : Nat × List Byte :=
  ((l.map Prod.fst).foldl (· + ·) 0, c16Bytes (l.map Prod.snd))

/-- Samples of port `p` of a record, `n` per port. -/
def recPort (r : Rec) (n p : Nat) : List CInt := c16s ((r.data.drop (4 * n * p)).take (4 * n))

/-- A record header with another KIND and COUNT. -/
def hdrAs (h : List Byte) (kind count : Nat) : List Byte := entSet (entSet h 0 1 kind) 14 2 count

/-- Write records at OUT_PTR + k × OSTRIDE. -/
def recWrites (j : AccJob) (stride : Nat) (l : List (List Byte)) : List (Nat × List Byte) :=
  (l.zipIdx).map fun x => (j.outp + x.2 * stride, x.1)

/-- One FFT_FWD record: saturated components and bytes. The window lies at most the record's own prefix ahead, and the
phase of the advance taken is removed (R121). -/
def fftRec (j : AccJob) (r : Rec) : Nat × List Byte :=
  let n := j.f 40 2
  let c := 12 * j.f 46 2
  let cp := cpOf r.hdr n
  let adv := min cp (if j.f 44 2 = 0xFFFF then n / 64 else j.f 44 2)
  let ports := (List.range r.h.ports).map fun p =>
    outSamples (fftForward n c adv (j.i 42 1) (((recPort r r.h.count p).drop (cp - adv)).take n))
  ((ports.map Prod.fst).foldl (· + ·) 0, hdrAs r.hdr 0 (j.f 46 2) ++ (ports.map Prod.snd).flatten)

/-- One FFT_INV record: the centred NPRB PRBs of each port, their transform, and the cyclic prefix. -/
def ifftRec (j : AccJob) (r : Rec) : Nat × List Byte :=
  let n := j.f 40 2
  let c := 12 * j.f 46 2
  let have_ := 12 * r.h.count
  let cp := cpOf r.hdr n
  let ports := (List.range r.h.ports).map fun p =>
    let y := fftInverse n (j.i 42 1) (((recPort r have_ p).drop ((have_ - c) / 2)).take c)
    outSamples (y.drop (n - cp) ++ y)
  ((ports.map Prod.fst).foldl (· + ·) 0, hdrAs r.hdr 1 (n + cp) ++ (ports.map Prod.snd).flatten)

/-- What a transform job leaves: its records, and the saturated output count in RESULT (R122, R309). -/
def fftOut (one : AccJob → Rec → Nat × List Byte) (j : AccJob) (rs : List Rec) : JobOut :=
  let l := rs.map (one j)
  let n := (l.map Prod.fst).foldl (· + ·) 0
  { writes := recWrites j (j.f 52 4) (l.map Prod.snd), result := n, sat := n != 0 }

/-- FFT_FWD (R121, R122). -/
def execFftFwd (tile : Nat) (ref : JobRef) (s : State) : Host.Outcome State Fault Refusal :=
  runJob true 0x01 tile ref (onRecs (fun j => strided j.inp j.count (j.f 48 4)) fun _ j rs => fftOut fftRec j rs) s
/-- FFT_INV (R121, R122). -/
def execFftInv (tile : Nat) (ref : JobRef) (s : State) : Host.Outcome State Fault Refusal :=
  runJob true 0x02 tile ref (onRecs (fun j => strided j.inp j.count (j.f 48 4)) fun _ j rs => fftOut ifftRec j rs) s

/-! ### Feed correction (R160, R161, R168) -/

/-- 10^(−a/e) in Q1.15 reaches t − 1/2. -/
def attReaches (e t a : Nat) : Bool := decide ((2 * t - 1) ^ e * 10 ^ a ≤ 2 ^ (16 * e))

/-- G of an attenuation in 0.01 dB (R168): 10^(−a/2000) rounded to Q1.15. -/
def attGain (a : Nat) : Nat :=
  if 9634 ≤ a then 0
  else min 32767 (((List.range 16).reverse.foldl (fun g i =>
    let t := g + 2 ^ i
    if attReaches 2000 t a then t else g) 0))

/-- The position of a run's window whose RU is nearest to `x`, and the distance of a position from it, at most 4 (R168). -/
def attIndex (s : State) (r : Run) (x : Int) (pos : Nat) : Nat :=
  let l := chainages s r.corridor
  let near := (leastBy (fun p => ((chainageAt l p - x).natAbs, p, 0))
    ((List.range (r.win.2 + 1 - r.win.1)).map (· + r.win.1))).getD pos
  min 4 (if pos ≤ near then near - pos else pos - near)

/-- The value of pair `i` in the bytes of a run context. -/
def ctxVal (ctx : List Byte) (i : Nat) : Word := BitVec.ofNat 32 (ent ctx (ctxPair i) 4)

/-- POS in the bytes of a run context. -/
def ctxPosition (ctx : List Byte) : Int := toSigned 64 (ent ctx ctxPos 8)

/-- A feed of a run transmits on a carrier (R168); a pair that failed its check silences it (R173). -/
def feedSends (s : State) (r : Run) (ctx : List Byte) (f : Feed) (num : Nat) (c : Carrier) : Bool :=
  let tx := match ruAt s r.corridor f.pos with
    | some x => ((mget (instKey x.1 num) s.cor.insts).map fun i => bit i.txEn 0).getD false
    | none => false
  (r.bad.all fun i => decide (3 ≤ i)) && bit (ctxVal ctx 1) 0 && bit (ctxVal ctx 2) (f.pos % 8) && f.st == 2
    && decide (f.delay ≤ tauMaxOf c) && !(f.flags.testBit 1) && tx

/-- G_k of a feed on a carrier (R168): 0 where it does not transmit, also where ATT[d] failed its check (R173). -/
def feedGain (s : State) (r : Run) (ctx : List Byte) (f : Feed) (num : Nat) (c : Carrier) : Nat :=
  let d := attIndex s r (ctxPosition ctx) f.pos
  if feedSends s r ctx f num c && !r.bad.contains (3 + d) then attGain (ctxVal ctx (3 + d)).toNat else 0

/-- The base of the synthesiser values that a run context's bytes hold (R305). -/
def ctxBase (s : State) (r : Run) (ctx : List Byte) : LaneBase :=
  { laneBase s r with
    b := ent ctx ctxT 8, lost := ent ctx ctxTState 1 == 3,
    k := { x := ctxPosition ctx, v := toSigned 32 (ent ctx ctxSpeed 4), a := toSigned 32 (ent ctx ctxAccel 4) },
    fc := toSigned 32 (ent ctx ctxFc 4), fs := ctxFeeds ctx }

/-- The phase of a feed's lane at time `t` (R160): the free start, the accumulator at the boundary, and FREQ since, scaled
to the carrier's centre frequency (R161). -/
def lanePhase (r : Run) (z : LaneBase) (f : Feed) (num : Nat) (c : Carrier) (dl : Bool) (t : Nat) : Int :=
  let i := f.pos % 8
  let ph := mgetD (0#32, 0#32) r.phi (num * 8 + i)
  let start := Config.startPhase (mgetD 0 r.seeds i) num dl
  let w := if dl then start + ph.2 + phaseOf (z.dlTo c f t) (freqHz c c.dl) z.fdl
    else start + ph.1 + phaseOf (f.ful * ((t : Int) - z.b)) (freqHz c c.ul) z.ful
  (w.toNat : Int)

/-- The corrected samples of one record (R160): DELAY of the feed entry in the uplink, of x and v predicted to the symbol
in the downlink (R162). -/
def feedRec (s : State) (j : AccJob) (r : Run) (ctx : List Byte) (f : Feed) (x : Rec) : Nat × List Byte :=
  let dl := j.f 41 1 == 1
  let num := x.h.carrier
  match mget (carrierKey 0 r.corridor num) s.cor.carriers with
  | some c =>
    let z := ctxBase s r ctx
    let scs := if c.scs = 2 then 30000 else 15000
    let delay := if dl then (z.at_ f x.h.tNom).delay else f.delay
    let phase := lanePhase r z f num c dl x.h.tNom
    let gain := if dl then feedGain s r ctx f num c else 32768
    let n := 12 * x.h.count
    let one (i : Nat) (v : CInt) : Nat × CInt :=
      let m : Int := (i : Int) - (n / 2 : Nat)
      rotate gain (rneDiv (m * scs * delay * 2 ^ 32) 4000000000 - phase) v
    let ports := (List.range x.h.ports).map fun p => outSamples ((recPort x n p).zipIdx.map fun v => one v.2 v.1)
    ((ports.map Prod.fst).foldl (· + ·) 0, x.hdr ++ (ports.map Prod.snd).flatten)
  | none => (0, x.hdr ++ freeOut j (x.hdr ++ x.data) 0 x.data.length)

/-- FEEDCORR on the records read, with the feed entry of the context's bytes: BAD_ARG when it is EMPTY (R305, R308); a
context that no run holds has no lane accumulators, and gives free values. -/
def feedOut (s : State) (j : AccJob) (ctx : List Byte) (rs : List Rec) : Except Nat JobOut :=
  let f := feedOf ((ctx.drop (ctxFeed (j.f 40 1))).take 32)
  if f.st = 0 then .error Status.badArg.code
  else match s.runs.find? fun x => x.2.ctx == j.aux with
    | some x =>
      let l := rs.map (feedRec s j x.2 ctx f)
      let n := (l.map Prod.fst).foldl (· + ·) 0
      .ok { writes := recWrites j (j.f 48 4) (l.map Prod.snd), sat := n != 0 }
    | none => .ok { writes := recWrites j (j.f 48 4) (rs.map fun r => r.hdr ++ freeOut j (ctx ++ r.hdr ++ r.data) 0 r.data.length) }

/-- FEEDCORR (R160, R161, R305). -/
def execFeedcorr (tile : Nat) (ref : JobRef) (s : State) : Host.Outcome State Fault Refusal :=
  runJob true 0x10 tile ref (fun j s =>
    let c := jobRead j j.aux 512 s
    match c.1 with
    | .error e => (.error e, j, c.2)
    | .ok ctx =>
      let r := jobRecs j (strided j.inp j.count (j.f 44 4)) c.2
      match r.1 with
      | .error e => (.error e, j, r.2)
      | .ok rs => (feedOut r.2 j ctx rs, j, r.2)) s

/-! ### Channel estimation (R124 to R126) -/

/-- Round taps of scale `tapScale` to 16-bit mantissas with one exponent, the least from −64 on for which no component
reaches 0.5, so that the largest lies from 0.25 on (R126); in PARISON service to 12 bits. Where every tap is 0 no
exponent is stated: `free`. -/
def tapBlock (narrow : Bool) (free : Int) (l : List Int) : Int × List Int :=
  if l.all (· == 0) then (free, l)
  else
    let k := if narrow then 4 else 0
    let m (e : Nat) (x : Int) : Int := rneDiv (x * 2 ^ (143 - e)) (tapScale * 2 ^ (64 + k)) * 2 ^ k
    let e := (firstBelow 128 fun e => l.all fun x => decide ((m e x).natAbs < 16384)).getD 127
    ((e : Int) - 64, l.map (m e))

/-- The symbol records of a slot, by symbol number. -/
def symRec (rs : List Rec) (n : Nat) : Option Rec := rs.find? fun r => ent r.hdr 13 1 == n

/-- The least-squares estimate y × conj(p) of one pilot (R124), in units of 2^-30: symbol `n`, branch `b`, subcarrier `i`
of the carrier, and the pilot's place in the pilot block. -/
def pilotLs (rs : List Rec) (pil : List Byte) (n b i place : Nat) : CInt :=
  match symRec rs n with
  | some r => cmulI ((recPort r (12 * r.h.count) b).getD i (0, 0)) (conjI ((c16s ((pil.drop (4 * place)).take 4)).getD 0 (0, 0)))
  | none => (0, 0)

/-- The taps of one time point, branch and layer over the allocation (R124, R125): least squares, despread, interpolated
and averaged over frequency. -/
def freqTaps (j : AccJob) (rs : List Rec) (pil : List Byte) (syms point : List Nat) (b l : Nat) : List CInt :=
  let pattern := j.f 45 1
  let prbs := j.f 48 2
  let subs := pilotSubs pattern l
  let at_ := (List.range prbs).flatMap fun k => subs.map fun i => 12 * k + i
  let ls (n i k : Nat) : CInt :=
    pilotLs rs pil n b (12 * j.f 46 2 + i) ((l * syms.length + syms.idxOf n) * (prbs * subs.length) + k)
  let one (x : Nat × Nat) : Nat × CInt :=
    (x.1, scaleI (if point.length = 1 then 2 else 1) ((point.map fun n => ls n x.1 x.2).foldl caddI (0, 0)))
  let pilots := despread (decide (pattern < 2)) (at_.zipIdx.map one)
  let raw := (List.range (12 * prbs)).map fun i => interpolate i none pilots
  (List.range (12 * prbs)).map fun i => movingMean (j.f 40 1) i raw

/-- The taps of one branch and layer, by symbol of the job and subcarrier (R125), and what a decision-directed pass adds
where CE_REFINE allows one: no rule gives its arithmetic (R145). -/
def slotTaps (j : AccJob) (rs : List Rec) (pil : List Byte) (b l : Nat) : List CInt :=
  let syms := setBits (j.f 42 2) 14
  let points := (timePoints (j.f 44 1 == 1) syms).map fun p => (p.1, freqTaps j rs pil syms p.2 b l)
  let refine (k i h : Nat) : Int :=
    if j.cap = 0 then 0
    else Config.signalNum 0x11 j.body (recsBytes rs ++ pil) j.cap ((((b * 16 + l) * 16 + k) * 4096 + i) * 2 + h)
  rs.zipIdx.flatMap fun r => (List.range (12 * j.f 48 2)).map fun i =>
    let x := timeInterpolate (2 * ent r.1.hdr 13 1) none (points.map fun p => (p.1, p.2.getD i (0, 0)))
    (x.1 + refine r.2 i 0, x.2 + refine r.2 i 1)

/-- The estimate block (R126): mantissas by branch, layer, symbol and subcarrier, then exponents, then noise variances,
which are free: no rule gives their formula. The order is the model's (log entry 55). -/
def estimateBlock (narrow : Bool) (j : AccJob) (branches : Nat) (rs : List Rec) (pil : List Byte) : List Byte :=
  let layers := j.f 41 1
  let inputs := recsBytes rs ++ pil
  let blocks := (List.range (branches * layers)).map fun k =>
    tapBlock narrow (Config.signalNum 0x11 j.body inputs 2 k)
      ((slotTaps j rs pil (k / layers) (k % layers)).flatMap fun x => [x.1, x.2])
  blocks.flatMap (fun x => x.2.flatMap fun v => leBytes 2 (ofSigned 16 v)) ++ blocks.map (fun x => BitVec.ofInt 8 x.1)
    ++ freeOut j inputs 0 (4 * branches)

/-- CHEST (R124 to R126, R305): records, pilot block, estimate block. -/
def execChest (tile : Nat) (ref : JobRef) (s : State) : Host.Outcome State Fault Refusal :=
  runJob true 0x11 tile ref (fun j s =>
    let r := jobRecs j (strided j.inp j.count (j.f 52 4)) s
    match r.1 with
    | .error e => (.error e, j, r.2)
    | .ok rs =>
      let syms := (setBits (j.f 42 2) 14).length
      let p := jobRead j j.aux (4 * j.f 41 1 * syms * j.f 48 2 * (pilotSubs (j.f 45 1) 0).length) r.2
      match p.1 with
      | .error e => (.error e, j, p.2)
      | .ok pil =>
        let branches := ((rs.head?).map fun x => x.h.ports).getD 1
        (.ok { writes := [(j.outp, estimateBlock p.2.parison j branches rs pil)], used := j.cap }, j, p.2)) s

/-! ### Combining, detection, precoding -/

/-- A list of record addresses is aligned (R307). -/
def aligned64 (l : List Nat) : Bool := l.all fun a => a % 64 == 0

/-- Narrow an accumulator to c16 (R123, R143): how many components saturated, and the value. -/
def narrowAcc (sh : Nat) (x : CInt) : Nat × CInt :=
  let r := rneShift x.1 sh
  let i := rneShift x.2 sh
  (b2n (satSigned 16 r != r) + b2n (satSigned 16 i != i), (satSigned 16 r, satSigned 16 i))

/-- Branch `b` of the MRC sum of one symbol (R167): antenna port `b` of every counting feed that has it, by weights from the
estimates `est`, whose rule is not given; in units of 2^-45. -/
def mrcBranch (j : AccJob) (k : Nat) (rs : List Rec) (est : List Byte) (n b : Nat) : List CInt :=
  let w (f i h : Nat) : Int := Config.signalNum 0x12 j.body est k ((((f * 64 + b) * 4096) + i) * 2 + h)
  let l := (rs.zipIdx.filter fun r => decide (b < r.1.h.ports)).map fun r => (r.2, recPort r.1 n b)
  (List.range n).map fun i =>
    (l.map fun x => cmulI (x.2.getD i (0, 0)) (w x.1 i 0, w x.1 i 1)).foldl caddI (0, 0)

/-- One combined grid (R123, R167): JOINT passes the ports of the counting inputs through as branches, up to 64; MRC sums
each port over them, rounded and saturated. -/
def combineOne (s : State) (j : AccJob) (ctx est : List Byte) (k : Nat) (rs : List Rec) : Nat × List Byte :=
  let h := (rs.head?.map Rec.hdr).getD (List.replicate 64 0#8)
  let use_ := rs.filter fun r => feedCounts s j.aux ctx r.h.ru r.h.carrier
  let count := ent h 14 2
  let ports := combinedPorts (j.f 40 1) (use_.map fun r => r.h.ports)
  let hd := entSet (entSet (hdrAs h 0 count) 2 1 ports) 6 2 0xFFFF
  if j.f 40 1 = 1 then (0, hd ++ fitBytes (48 * count * ports) (use_.flatMap Rec.data))
  else
    let l := (List.range ports).map fun b => outSamples ((mrcBranch j k use_ est (12 * count) b).map (narrowAcc 30))
    ((l.map Prod.fst).foldl (· + ·) 0, hd ++ (l.map Prod.snd).flatten)

/-- Read the symbols of every input: NSYM lists of records. -/
def combineReads (j : AccJob) (addrs : List Nat) : List Nat → State → Except Nat (List (List Rec)) × State
  | [], s => (.ok [], s)
  | k :: l, s =>
    let r := jobRecs j (addrs.map fun a => a + k * j.f 44 4) s
    match r.1 with
    | .error e => (.error e, r.2)
    | .ok rs =>
      let y := combineReads j addrs l r.2
      match y.1 with
      | .error e => (.error e, y.2)
      | .ok ls => (.ok (rs :: ls), y.2)

/-- Layers of the estimate blocks that COMBINE reads: its descriptor has no such field, so a free value from 1 to 16. -/
def combineLayers (j : AccJob) : Nat := 1 + (Config.signalNum 0x12 j.body [] 15 0).toNat % 16

/-- The estimate blocks of COMBINE's inputs: where, and how long each is for its records. -/
def combineEsts (j : AccJob) (list : List Byte) (ls : List (List Rec)) : List (Nat × Nat) :=
  (ls.headD []).zipIdx.map fun r => (ent list (16 * r.2 + 8) 8, estBytes r.1.h.ports (combineLayers j) r.1.h.count (j.f 41 1))

/-- What COMBINE writes from what it read. -/
def combineOut (s : State) (j : AccJob) (ctx est : List Byte) (ls : List (List Rec)) : JobOut :=
  let l := ls.zipIdx.map fun x => combineOne s j ctx est x.2 x.1
  let n := (l.map Prod.fst).foldl (· + ·) 0
  { writes := recWrites j (j.f 48 4) (l.map Prod.snd), sat := n != 0 }

/-- COMBINE (R123, R163, R167, R305, R307): the list, the run context, every symbol of every input, the estimate blocks. -/
def execCombine (tile : Nat) (ref : JobRef) (s : State) : Host.Outcome State Fault Refusal :=
  runJob true 0x12 tile ref (fun j s =>
    let l := jobRead j j.inp (16 * j.count) s
    match l.1 with
    | .error e => (.error e, j, l.2)
    | .ok b =>
      let addrs := (List.range j.count).map fun i => ent b (16 * i) 8
      if !aligned64 addrs then (.error (keepOut + Status.badArg.code), j, l.2)
      else
        let c := jobReads j (if j.aux = 0 then [] else [(j.aux, 512)]) l.2
        match c.1 with
        | .error e => (.error e, j, c.2)
        | .ok ctx =>
          let r := combineReads j addrs (List.range (j.f 41 1)) c.2
          match r.1 with
          | .error e => (.error e, j, r.2)
          | .ok ls =>
            let e := jobReads j (combineEsts j b ls) r.2
            match e.1 with
            | .error x => (.error x, j, e.2)
            | .ok est => (.ok (combineOut e.2 j ctx.flatten est.flatten ls), j, e.2)) s

/-- DETECT (R127, R128, R305): x and σ² of every resource element and layer, per symbol, from the grids and the whole
estimate block; the detector's arithmetic is not given, so its values and SAT are free. The model applies as many
passes as the cap allows, and USED says so (log entry 55). -/
def execDetect (tile : Nat) (ref : JobRef) (s : State) : Host.Outcome State Fault Refusal :=
  runJob true 0x13 tile ref (fun j s =>
    let r := jobRecs j (strided j.inp j.count (j.f 48 4)) s
    match r.1 with
    | .error e => (.error e, j, r.2)
    | .ok rs =>
      let a := jobRead j j.aux (estBytes (j.f 41 1) (j.f 40 1) (j.f 44 2) j.count) r.2
      match a.1 with
      | .error e => (.error e, j, a.2)
      | .ok est =>
        let x := recsBytes rs ++ est
        (.ok { writes := recWrites j (j.f 52 4) ((List.range j.count).map fun k => freeOut j x k (72 * j.f 44 2 * j.f 40 1)),
               used := j.cap, sat := Config.signalNum 0x13 j.body x j.cap 0 % 2 == 1 }, j, a.2)) s

/-- One LLR of DEMAP (R129, R130): bit `b` of symbol `k`, inverted by its scrambling bit, and whether it saturated; a σ²
that is no positive number gives a free value. -/
def demapOne (j : AccJob) (mod k : Nat) (sym : CInt) (sig : Nat) (b : Nat) (scr : Bool) (i : Nat) : Bool × Byte :=
  let d : Int := (minDist mod k b true sym : Int) - minDist mod k b false sym
  let l : Int := match fdec f16F sig with
    | .fin false m e => if m = 0 then Config.signalNum 0x14 j.body (leBytes 2 sig) 0 i else llr6 d m e
    | _ => Config.signalNum 0x14 j.body (leBytes 2 sig) 0 i
  (decide (31 < l.natAbs), BitVec.ofInt 8 (max (-31) (min 31 (if scr then -l else l))))

/-- DEMAP (R129, R130, R305, R308, R309): COUNT bytes of LLRs. -/
def execDemap (tile : Nat) (ref : JobRef) (s : State) : Host.Outcome State Fault Refusal :=
  runJob true 0x14 tile ref (simple (fun j => [(j.inp, 4 * j.count), (j.aux, 2 * j.count)]) fun j bs =>
    let mod := j.f 40 1
    let q := modBits mod
    let xs := c16s (bs.getD 0 [])
    let sg := bs.getD 1 []
    let scr := if j.f 41 1 = 1 then scramble (j.f 44 4) (j.f 48 4) j.count else []
    let out := (List.range j.count).map fun k =>
      demapOne j mod (k / q) (xs.getD (k / q) (0, 0)) (ent sg (2 * (k / q)) 2) (k % q) (scr.getD k false) k
    { writes := [(j.outp, out.map Prod.snd)], sat := out.any Prod.fst }) s

/-- Matrices of a PRECODE job: one per PRG PRBs of the allocation, or one (R305). -/
def precodeMats (j : AccJob) : Nat := if j.f 46 1 = 0 then 1 else ceilDiv (j.f 44 2) (j.f 46 1)

/-- The header of a PRECODE record: what R108 fixes; the symbol it stands for is free, as nothing names it. -/
def precodeHdr (j : AccJob) (inputs : List Byte) (k : Nat) : List Byte :=
  let f (i n : Nat) : List Byte := freeOut j inputs (16 * k + i) n
  leBytes 1 0 ++ leBytes 1 0 ++ leBytes 1 (j.f 41 1) ++ leBytes 1 (1 + leVal (f 0 1) % 2) ++ f 1 2 ++ f 2 2
    ++ leBytes 4 (leVal (f 3 4) % 1024) ++ f 4 1 ++ leBytes 1 (leVal (f 5 1) % 14) ++ leBytes 2 (j.f 44 2) ++ f 6 8
    ++ leBytes 8 0 ++ leBytes 2 0 ++ leBytes 30 0

/-- One PRECODE record (R123, R305): port p of a subcarrier is the sum over layers of the matrix of its PRBs times the
layer's symbol, rounded and saturated. -/
def precodeRec (j : AccJob) (bs : List (List Byte)) (k : Nat) : Nat × List Byte :=
  let layers := j.f 40 1
  let ports := j.f 41 1
  let n := 12 * j.f 44 2
  let xs := c16s (bs.getD 0 [])
  let ws := c16s (bs.getD 1 [])
  let mat (i : Nat) : Nat := if j.f 46 1 = 0 then 0 else i / 12 / j.f 46 1
  let one (p i : Nat) : Nat × CInt :=
    narrowAcc (Config.precodeDrop (j.f 47 1)) (((List.range layers).map fun l =>
      cmulI (ws.getD ((mat i * ports + p) * layers + l) (0, 0))
        (xs.getD (Config.layerPlace j.body ((k * layers + l) * n + i) % xs.length) (0, 0))).foldl caddI (0, 0))
  let l := (List.range ports).map fun p => outSamples ((List.range n).map (one p))
  ((l.map Prod.fst).foldl (· + ·) 0, precodeHdr j bs.flatten k ++ (l.map Prod.snd).flatten)

/-- PRECODE (R123, R305). -/
def execPrecode (tile : Nat) (ref : JobRef) (s : State) : Host.Outcome State Fault Refusal :=
  runJob true 0x15 tile ref (simple
    (fun j => [(j.inp, 48 * j.f 44 2 * j.f 40 1 * j.count), (j.aux, 4 * j.f 40 1 * j.f 41 1 * precodeMats j)]) fun j bs =>
      let l := (List.range j.count).map (precodeRec j bs)
      let n := (l.map Prod.fst).foldl (· + ·) 0
      { writes := recWrites j (j.f 48 4) (l.map Prod.snd), sat := n != 0 }) s

/-! ### Decoding and encoding -/

/-- NCB of an LDPC or turbo job. -/
def softLen (j : AccJob) : Nat := if j.func = 0x20 then j.f 48 4 else j.f 44 4

/-- Positions that a block's transmission covers (R132). -/
def positions (j : AccJob) (i : Nat) : List Nat :=
  if j.func = 0x20 then ldpcPositions (j.f 40 1) (j.f 42 2) (j.f 48 4) (j.f 41 1) (blockE j i) (j.f 44 2) (j.f 46 2) (j.f 61 1)
  else turboPositions (j.f 40 2) (j.f 44 4) (j.f 42 1) (blockE j i)

/-- The combined values of a block (R132): the old ones, or zeros, and the new LLRs. -/
def combined (j : AccJob) (i : Nat) (old : List Byte) (llr : List Byte) : List Int :=
  let b : FMap Int := (old.map fun x => toSigned 8 x.toNat).zipIdx.map fun x => (x.2, x.1)
  let l := (positions j i).zip (llr.map fun x => toSigned 8 x.toNat)
  let m := combineSoft b l
  (List.range (softLen j)).map fun p => mgetD 0 m p

/-- Lock the soft buffers of a decode in order: their headers, or the status of the header that cannot be read (R133,
R134). `j.soft` names those locked. -/
def lockSofts (j : AccJob) : List Nat → State → Except Nat (List (List Byte)) × AccJob × State
  | [], s => (.ok [], j, s)
  | a :: l, s =>
    let r := jobRead j a 64 s
    match r.1 with
    | .error e =>
      if e = Status.ue.code then
        let f := r.2.takeFresh
        (.error e, j, (putHeader j a (fun _ => freshHeader f.1) f.2).2)
      else (.error e, j, r.2)
    | .ok h =>
      let w := putHeader j a (withLock (Config.lockWord j.tile a)) r.2
      match w.1 with
      | some e => (.error e, { j with soft := j.soft ++ [a] }, w.2)
      | none =>
        let y := lockSofts { j with soft := j.soft ++ [a] } l w.2
        match y.1 with
        | .error e => (.error e, y.2)
        | .ok hs => (.ok (h :: hs), y.2)

/-- The buffer starts afresh (R132): NEW, or VALID is 0. -/
def startsAfresh (j : AccJob) (h : List Byte) : Bool := j.new || ent h 0 1 == 0

/-- Read the LLRs of the locked buffers that do not start afresh; one that cannot be read for a UE is written with VALID 0
and keeps its entries (R134). -/
def readSofts (j : AccJob) : List (Nat × List Byte) → State → Except Nat (List (List Byte)) × AccJob × State
  | [], s => (.ok [], j, s)
  | (a, h) :: l, s =>
    let r := if startsAfresh j h then (.ok [], s) else jobRead j (a + 64) (softLen j) s
    match r.1 with
    | .error e =>
      if e = Status.ue.code then
        (.error e, { j with soft := j.soft.filter (· != a) }, (putHeader j a emptyHeader r.2).2)
      else (.error e, j, r.2)
    | .ok b =>
      let y := readSofts j l r.2
      match y.1 with
      | .error e => (.error e, y.2)
      | .ok bs => (.ok (b :: bs), y.2)

/-- The writes of combined buffers (R131, R132): the header, with TXCOUNT and FAILS 0 in one started afresh, and the
entries padded to 64 bytes. -/
def softWrites (j : AccJob) (l : List (Nat × List Byte × List Int)) : List (Nat × List Byte) :=
  l.flatMap fun x =>
    let h := withLock (Config.lockWord j.tile x.1) x.2.1
    let h := if startsAfresh j x.2.1 then entSet (entSet h 1 1 0) 12 1 0 else h
    [(x.1, h), (x.1 + 64, fitBytes (pad64 (softLen j)) (x.2.2.map fun v => BitVec.ofInt 8 v))]

/-- Combine the LLRs of a job's blocks into its soft buffers (R131 to R135): lock, read, add, write; the combined values,
or the status that the job ends with. -/
def combineSofts (j : AccJob) (addrs : List Nat) (llrs : List (List Byte)) (s : State) :
    Except Nat (List (List Int)) × AccJob × State :=
  let h := lockSofts j addrs s
  match h.1 with
  | .error e => (.error e, h.2)
  | .ok hs =>
    let r := readSofts h.2.1 (addrs.zip hs) h.2.2
    match r.1 with
    | .error e => (.error e, r.2)
    | .ok olds =>
      let vs := ((olds.zip llrs).zipIdx).map fun x => combined j x.2 x.1.1 x.1.2
      let w := performWrites r.2.1 (softWrites j (addrs.zip (hs.zip vs))) r.2.2
      match w.1 with
      | some e => (.error e, r.2.1, w.2)
      | none => (.ok vs, r.2.1, w.2)

/-- What a decoder finds in its inputs: bits of each block, which blocks pass, and USED: what is given, or the iterations
run, at most the cap (R129, R137, R299, R309). The bits, the checks and the iterations are free values. -/
def decodeOut (j : AccJob) (n : Nat) (size : Nat) (inputs : List Byte) (used : Option Nat) : JobOut :=
  let okb (i : Nat) : Bool := Config.signalNum j.func j.body inputs j.cap (2 * i) % 2 == 1
  let it (i : Nat) : Nat := 1 + (Config.signalNum j.func j.body inputs j.cap (2 * i + 1)).toNat % (max 1 j.cap)
  { writes := (List.range n).map fun i => (j.outp + i * size, freeOut j inputs i size),
    used := used.getD (((List.range n).map it).foldl max 0), nok := ((List.range n).filter okb).length,
    result := ((List.range n).map fun i => if okb i then 2 ^ i else 0).foldl (· + ·) 0,
    early := used.isNone && (List.range n).all fun i => decide (it i < j.cap) }

/-- The LLRs that a decoder reads from combined values (R132 step 3). -/
def sat31 (l : List Int) : List Byte := l.map fun x => BitVec.ofInt 8 (max (-31) (min 31 x))

/-- Decode with HARQ soft buffers (R131 to R135, R305, R307, R315): addresses checked and buffers locked after COMMIT,
before any output is written. -/
def softDecode (j : AccJob) (size : Nat) (s : State) : Except Nat JobOut × AccJob × State :=
  let n := j.count
  let starts := runStarts (blockE j) n
  let r := jobReads j ((List.range n).map fun i => (j.inp + starts.getD i 0, blockE j i)) s
  match r.1 with
  | .error e => (.error e, j, r.2)
  | .ok llrs =>
    if j.aux = 0 then
      let vs := (llrs.zipIdx).map fun x => combined j x.2 [] x.1
      (.ok (decodeOut j n size (vs.flatMap sat31) none), j, r.2)
    else
      let a := jobRead j j.aux (8 * n) r.2
      match a.1 with
      | .error e => (.error e, j, a.2)
      | .ok ab =>
        let addrs := (List.range n).map fun i => ent ab (8 * i) 8
        if !aligned64 addrs then (.error (keepOut + Status.badArg.code), j, a.2)
        else if addrs.any (lockedBy a.2 j) then (.error (keepOut + Status.busy.code), j, a.2)
        else
          let c := combineSofts j addrs llrs a.2
          match c.1 with
          | .error e => (.error e, c.2)
          | .ok vs => (.ok (decodeOut c.2.1 n size (vs.flatMap sat31) none), c.2)

/-- A decode with soft buffers waits for COMMIT (R315). -/
def decodeReady (tile : Nat) (ref : JobRef) (s : State) : Bool :=
  match s.job tile ref with
  | some j => j.committed || j.aux == 0
  | none => false

/-- LDPC_DEC (R104, R132, R305). -/
def execLdpcDec (tile : Nat) (ref : JobRef) (s : State) : Host.Outcome State Fault Refusal :=
  if decodeReady tile ref s then runJob true 0x20 tile ref (fun j s => softDecode j (bits64 (j.f 44 2)) s) s else ok s
/-- TURBO_DEC (R104, R132, R305). -/
def execTurboDec (tile : Nat) (ref : JobRef) (s : State) : Host.Outcome State Fault Refusal :=
  if decodeReady tile ref s then runJob true 0x30 tile ref (fun j s => softDecode j (bits64 (j.f 40 2)) s) s else ok s

/-- An encoder: `n` runs of input bits, and the E coded bits of each. -/
def encodeJob (func inBits : Nat) (tile : Nat) (ref : JobRef) (s : State) : Host.Outcome State Fault Refusal :=
  runJob true func tile ref (simple
    (fun j => (List.range j.count).map fun i => (j.inp + i * bits64 (j.f inBits 2), ceilDiv (j.f inBits 2) 8)) fun j bs =>
      let starts := runStarts (fun i => ceilDiv (blockE j i) 8) j.count
      { writes := (List.range j.count).map fun i =>
          (j.outp + starts.getD i 0, freeOut j (bs.getD i []) i (bits64 (blockE j i))) }) s

/-- LDPC_ENC (R105, R305). -/
def execLdpcEnc (tile : Nat) (ref : JobRef) (s : State) : Host.Outcome State Fault Refusal := encodeJob 0x21 44 tile ref s
/-- TURBO_ENC (R105, R305). -/
def execTurboEnc (tile : Nat) (ref : JobRef) (s : State) : Host.Outcome State Fault Refusal := encodeJob 0x31 40 tile ref s

/-- POLAR_DEC (R305, R306): one block, at the list size of the cap. -/
def execPolarDec (tile : Nat) (ref : JobRef) (s : State) : Host.Outcome State Fault Refusal :=
  runJob true 0x22 tile ref (simple (fun j => [(j.inp, j.f 44 4)]) fun j bs =>
    decodeOut j 1 (bits64 (j.f 42 2)) bs.flatten (some (listSize j.cap))) s
/-- POLAR_ENC (R305). -/
def execPolarEnc (tile : Nat) (ref : JobRef) (s : State) : Host.Outcome State Fault Refusal :=
  runJob true 0x23 tile ref (simple (fun j => [(j.inp, ceilDiv (j.f 42 2) 8)]) fun j bs =>
    { writes := [(j.outp, freeOut j bs.flatten 0 (bits64 (j.f 44 4)))] }) s

/-- Soft bits of a convolutional block: 456, or 36 for an access burst (R137; PRESUMED from 3GPP TS 45.003). -/
def convBits (j : AccJob) : Nat := if j.f 40 1 = 8 then 36 else 456

/-- CONV_DEC (R137, R141, R305). -/
def execConvDec (tile : Nat) (ref : JobRef) (s : State) : Host.Outcome State Fault Refusal :=
  runJob true 0x32 tile ref (simple
    (fun j => (List.range j.count).map fun i => (j.inp + i * pad64 (convBits j), convBits j)) fun j bs =>
      decodeOut j j.count 64 bs.flatten (some 0)) s
/-- CONV_ENC (R138, R305). -/
def execConvEnc (tile : Nat) (ref : JobRef) (s : State) : Host.Outcome State Fault Refusal :=
  runJob true 0x33 tile ref (simple (fun j => (List.range j.count).map fun i => (j.inp + i * 64, 64)) fun j bs =>
    { writes := (List.range j.count).map fun i => (j.outp + i * 64, freeOut j (bs.getD i []) i 64) }) s

/-! ### GSM-R bursts (R136, R138) -/

/-- The report of a branch (R136, R305): timing within ±32 quarter symbols, FOFF within ±1,500 Hz, SNR. -/
def mlseReport (j : AccJob) (inputs : List Byte) (b : Nat) : List Byte :=
  let v (k : Nat) : Int := Config.signalNum 0x34 j.body inputs 1 (3 * b + k)
  leBytes 2 (ofSigned 16 (j.i 42 2 + v 0 % 65 - 32)) ++ leBytes 2 (ofSigned 16 (v 1 % 3001 - 1500))
    ++ leBytes 2 (ofSigned 16 (v 2)) ++ leBytes 2 0

/-- Read a list of record addresses and the records that `more` finds from each (R307). -/
def listedRecs (j : AccJob) (more : Nat → List Nat) (s : State) : Except Nat (List Rec) × State :=
  let l := jobRead j j.inp (8 * j.count) s
  match l.1 with
  | .error e => (.error e, l.2)
  | .ok b =>
    let addrs := (List.range j.count).map fun i => ent b (8 * i) 8
    if !aligned64 addrs then (.error (keepOut + Status.badArg.code), l.2) else jobRecs j (addrs.flatMap more) l.2

/-- GMSK_MLSE (R136, R305): 116 soft bits in 128 bytes, then a report per branch. -/
def execGmskMlse (tile : Nat) (ref : JobRef) (s : State) : Host.Outcome State Fault Refusal :=
  runJob true 0x34 tile ref (fun j s =>
    let r := listedRecs j (fun a => [a]) s
    match r.1 with
    | .error e => (.error e, j, r.2)
    | .ok rs =>
      let x := recsBytes rs
      let out := fitBytes 128 ((List.range 116).map (softBit j x)) ++ (List.range j.count).flatMap (mlseReport j x)
      (.ok { writes := [(j.outp, out)] }, j, r.2)) s

/-- The header of a burst's record: what R108 and R110 fix; the timeslot it stands for is free, as nothing names it. -/
def gmskHdr (j : AccJob) (bits : List Byte) (i : Nat) : List Byte :=
  let f (k n : Nat) : List Byte := freeOut j bits (8 * i + k) n
  leBytes 1 2 ++ leBytes 1 0 ++ leBytes 1 1 ++ leBytes 1 0 ++ f 0 2 ++ f 1 2 ++ leBytes 4 (leVal (f 2 4) % 2715648)
    ++ leBytes 1 (leVal (f 3 1) % 8) ++ leBytes 1 0 ++ leBytes 2 320 ++ f 4 8 ++ leBytes 8 0 ++ leBytes 2 0 ++ leBytes 30 0

/-- A burst's record (R110, R138): 320 samples of magnitude 16,384; the phases of the modulation are free, as no rule of
the specification gives its pulse. -/
def gmskRec (j : AccJob) (bits : List Byte) (i : Nat) : List Byte :=
  gmskHdr j bits i ++ c16Bytes ((List.range 320).map fun n =>
    (narrowC (cmulI (16384, 0) (turn ((Config.signalNum 0x35 j.body bits i n).toNat % 2 ^ 32) (2 ^ 32))) 0).2)

/-- GMSK_MOD (R138, R305). -/
def execGmskMod (tile : Nat) (ref : JobRef) (s : State) : Host.Outcome State Fault Refusal :=
  runJob true 0x35 tile ref (simple (fun j => (List.range j.count).map fun i => (j.inp + 32 * i, 32)) fun j bs =>
    { writes := recWrites j (j.f 40 4) ((List.range j.count).map fun i => gmskRec j (bs.getD i []) i) }) s

/-! ### Random access (R139 to R141) -/

/-- A peak joins the detections of a job (R141): a stronger peak of an index that is provisional replaces it and counts
a false preamble; a confirmed detection stands beside it; one below the threshold, or a weaker one, is ignored. -/
def addPeak (margin thresh : Nat) (x : List Detection × Nat) (p : Peak) : List Detection × Nat :=
  if p.metric < thresh then x
  else match (x.1.zipIdx).find? fun d => d.1.peak.index == p.index && d.1.settled.isNone with
    | some d =>
      if d.1.peak.metric + 5 * margin ≤ p.metric then
        (x.1.set d.2 { peak := p, replaced := true, settled := none }, x.2 + 1)
      else x
    | none => (x.1 ++ [{ peak := p, replaced := false, settled := none }], x.2)

/-- The peak lies within the delay search of its job (R139): MAX_DELAY symbol periods of 48/13 µs for access bursts. -/
def inSearch (j : AccJob) (p : Peak) : Bool := j.func != 0x41 || decide (p.delay * 13 ≤ j.f 41 1 * 48000)

/-- The records of one branch of a search: from the first at ISTRIDE, as many as its occasion has, a free number. -/
def branchRecs (j : AccJob) (a : Nat) : List Nat :=
  let n := 1 + Config.occasionRecords j.func (if j.func = 0x40 then j.f 40 1 else 0) % 64
  strided a n (j.f (if j.func = 0x40 then 52 else 48) 4)

/-- A random-access search takes up peaks: at its first row it reads its records. -/
def searchJob (func margin thresh : Nat) (tile : Nat) (ref : JobRef) (peaks : List Peak) (after : AccJob → State → State)
    (s : State) : Host.Outcome State Fault Refusal :=
  match s.job tile ref with
  | none => ok s
  | some j =>
    if (accKind s.part tile).isNone || !canRun s func { j with ran := false } || !(j.committed || func == 0x40) then ok s
    else
      let r := if j.ran then (.ok [], s) else listedRecs j (branchRecs j) s
      match r.1 with
      | .error e => ok (failRead j e s r.2)
      | .ok rs =>
        let carrier := if j.ran then j.used else ((rs.head?).map fun x => x.h.carrier).getD 0
        let d := (peaks.filter (inSearch j)).foldl (addPeak (j.f margin 1) (j.f thresh 1)) (j.dets, 0)
        let s := if d.2 = 0 then r.2 else
          { r.2 with acc := { r.2.acc with falsePreambles := mupd 0 tile (· + d.2) r.2.acc.falsePreambles } }
        let j := { j with dets := d.1, ran := true, used := carrier }
        ok (after j (writeReports carrier j (setJob s j)))

/-- PRACH_SEARCH (R139 to R141). -/
def execPrachSearch (tile : Nat) (ref : JobRef) (peaks : List Peak) (s : State) : Host.Outcome State Fault Refusal :=
  searchJob 0x40 46 47 tile ref peaks (fun _ s => s) s

/-- PRACH_WINDOW_CLOSE (R141): the provisional detections of an occasion are confirmed, and the job is done. -/
def execPrachWindowClose (tile : Nat) (ref : JobRef) (s : State) : Host.Outcome State Fault Refusal :=
  match s.job tile ref with
  | some j =>
    if j.func = 0x40 && j.ran && j.status.isNone && !j.body.isEmpty then
      ok (setJob s { j with dets := j.dets.map (fun d => { d with settled := some true }), status := some 0, used := 0 })
    else ok s
  | none => ok s

/-- The confirmation under way is aborted when its detection was replaced (R141, R19, R318). -/
def dropConfirm (old j : AccJob) (s : State) : State :=
  let first (l : List Detection) := l.find? fun d => d.settled.isNone
  if first old.dets == first j.dets then s
  else match s.acc.jobs.find? fun x => x.ref == .conf j.tile (refId j.ref) && x.at_ == j.aux with
    | some x => failJob { x with dropped := true } Status.aborted.code s
    | none => s

/-- RACH_SEARCH (R139 to R141, R305): each provisional detection is confirmed by a decode job at DEC_TILE. -/
def execRachSearch (tile : Nat) (ref : JobRef) (peaks : List Peak) (s : State) : Host.Outcome State Fault Refusal :=
  match s.job tile ref with
  | some old => searchJob 0x41 42 43 tile ref peaks (fun j s => nextConfirm j (dropConfirm old j s)) s
  | none => ok s

/-! ### The matrix helper (R320) -/

/-- Rows of C, inner dimension, columns of C. -/
def dims (j : AccJob) : Nat × Nat × Nat := (j.f 2 1, j.f 3 1, j.f 4 1)

/-- Element (r, c) of a row-major matrix of `n` columns. -/
def elt (m : List CInt) (n r c : Nat) : CInt := m.getD (r * n + c) (0, 0)

/-- An inner product of `k` terms. -/
def inner (k : Nat) (f : Nat → CInt) : CInt := (List.range k).foldl (fun a i => caddI a (f i)) (0, 0)

/-- σ² in units of 2^-30 of a product; a free value where it is no finite number. -/
def sigmaQ (j : AccJob) : Int :=
  match fdec f32F (j.f 40 4) with
  | .fin neg m e => fnearest neg m (e + 30)
  | _ => Config.signalNum 0x82 j.body [] 0 0

/-- One result matrix of ops 0 to 2: C = A × B, A × Bᴴ, or Aᴴ × A + σ² I. -/
def helperMat (op : Nat) (j : AccJob) (a b : List CInt) : List CInt :=
  let d := dims j
  (List.range (d.1 * d.2.2)).map fun i =>
    let r := i / d.2.2
    let c := i % d.2.2
    match op with
    | 0 => inner d.2.1 fun k => cmulI (elt a d.2.1 r k) (elt b d.2.2 k c)
    | 1 => inner d.2.1 fun k => cmulI (elt a d.2.1 r k) (conjI (elt b d.2.1 c k))
    | _ => caddI (inner d.2.1 fun k => cmulI (conjI (elt a d.1 k r)) (elt a d.1 k c)) (if r = c then sigmaQ j else 0, 0)

/-- Ops 0 to 2 over a batch. -/
def helperJob (op : Nat) (tile : Nat) (ref : JobRef) (s : State) : Host.Outcome State Fault Refusal :=
  runJob false op tile ref (simple
    (fun j => let d := dims j
              (j.inp, 4 * d.1 * d.2.1 * j.f 6 2) :: (if op = 2 then [] else [(j.outp, 4 * d.2.1 * d.2.2 * j.f 6 2)])) fun j bs =>
      let d := dims j
      let as_ := c16s (bs.getD 0 [])
      let bb := c16s (bs.getD 1 [])
      let l := (List.range (j.f 6 2)).flatMap fun n =>
        helperMat op j (as_.drop (n * d.1 * d.2.1)) (bb.drop (n * d.2.1 * d.2.2))
      let o := outSamples (l.map (narrowAcc (j.f 1 1)))
      { writes := [(j.aux, o.2)], sat := o.1 != 0 }) s

/-- CMATMUL (R320). -/
def execCmatmul (tile : Nat) (ref : JobRef) (s : State) : Host.Outcome State Fault Refusal := helperJob 0 tile ref s
/-- CMATMULH (R320). -/
def execCmatmulh (tile : Nat) (ref : JobRef) (s : State) : Host.Outcome State Fault Refusal := helperJob 1 tile ref s
/-- CGRAM (R320). -/
def execCgram (tile : Nat) (ref : JobRef) (s : State) : Host.Outcome State Fault Refusal := helperJob 2 tile ref s

/-- The pivot at which matrix `n` of a CCHOLSOLVE fails, or its size where it is positive definite: a free value. -/
def failPivot (j : AccJob) (inputs : List Byte) (n : Nat) : Nat :=
  (Config.signalNum 0x83 j.body inputs 0 n).toNat % (j.f 2 1 + 1)

/-- CCHOLSOLVE (R320): rows of X in f32, free values; from the failing pivot onwards they are 0 and SAT is set. -/
def execCcholsolve (tile : Nat) (ref : JobRef) (s : State) : Host.Outcome State Fault Refusal :=
  runJob false 3 tile ref (simple
    (fun j => let d := dims j
              [(j.inp, 8 * d.1 * d.2.1 * j.f 6 2), (j.outp, 8 * d.2.1 * d.2.2 * j.f 6 2)]) fun j bs =>
      let d := dims j
      let one (n : Nat) : List Byte :=
        fitBytes (8 * d.1 * d.2.2) (fitBytes (8 * failPivot j bs.flatten n * d.2.2) (freeOut j bs.flatten n (8 * d.1 * d.2.2)))
      { writes := [(j.aux, (List.range (j.f 6 2)).flatMap one)],
        sat := (List.range (j.f 6 2)).any fun n => decide (failPivot j bs.flatten n < d.1) }) s

end Sys2Proof.Machine
end

