-- ==== Sys2Proof/Machine/Launch.lean ====
section
/-! DEFINITION. Timed launch of downlink records (R114, R115, R118, R119, R423, R424): what a record sends in its
frame, the zeros of silent instances, and what a free transmitter starts. Assumption log: 46 (DESIGN CHOICE). -/

namespace Sys2Proof.Machine

/-! ### Settings in force in a symbol's frame -/

/-- The frame, as settings count them, of a record by its T_NOM (R41); a GSM-R record starts 4 sample periods ahead of its
timeslot. -/
def recFrame (s : State) (key tNom : Nat) : Nat :=
  match instCarrier s (key / 1024) (key % 1024) with
  | some c => frameNo c.std (if c.std = 0 then tNom + 7385 else tNom)
  | none => 0

/-- The settings of instance `key` that wait and take effect by frame `fr`: items and values, in the order in which they
will take effect (R41, R78). -/
def settingsBy (s : State) (key fr : Nat) : List (Nat × Word) :=
  (sortBy (fun (x : Nat × MbxExec) => (x.2.at_, x.1, x.2.order)) s.tcs.mailboxes).filterMap fun x =>
    match x.2.waiting with
    | some (.inst c r item v _, _, f) => if instKey r c == key && decide (f < fr) then some (item, v) else none
    | _ => none

/-- An instance as it stands in frame `fr`: a symbol may be launched before its frame begins (R115, R119). -/
def instAt (s : State) (key fr : Nat) : Option Inst :=
  (mget key s.cor.insts).map fun i => (settingsBy s key fr).foldl (fun i x => instItem i x.1 x.2) i

/-- The width that a carrier's move out of PARISON service gives instance `key` by frame `fr` (R538). -/
def moveWidth (s : State) (key fr : Nat) : Option Nat :=
  match s.boot.moves with
  | [] => none
  | m :: _ =>
    if m.estimates && m.rus.head? == some (key / 1024) && m.key % 1024 == key % 1024 && decide (m.frame < fr)
    then some (mgetD 12 s.boot.widths key) else none

/-- Compression width in force of an instance in a frame (R119). -/
def widthOf (s : State) (key fr : Nat) : Nat :=
  match moveWidth s key fr, instAt s key fr with
  | some w, _ => w
  | none, some i => if i.compw = 0#32 then 9 else min 16 i.compw.toNat
  | none, none => 9

/-- The instance sends in a frame: TX_EN is 1 and it is active (R115, R37). -/
def instSends (s : State) (key fr : Nat) : Bool :=
  match instAt s key fr with
  | some i => bit i.txEn 0 && i.st != .suspended
  | none => false

/-- The instance is shed by its spur port (R466). -/
def instShed (s : State) (key : Nat) : Bool :=
  match mget key s.cor.insts with
  | some i => i.st == .shed
  | none => false

/-- The last symbol of a carrier that starts at or before time `t`. -/
def symBefore (c : Carrier) (t : Nat) : Nat :=
  if c.std = 0 then
    let n := t * 13 / 7500000
    if symStart c (n + 1) ≤ t then n + 1 else n
  else
    let per := symsPerFrame c / 20
    let n := t / 500000 * per
    n + (((List.range per).filter fun j => decide (ofdmStart c (n + j) ≤ t)).length - 1)

/-- A binding has sent the symbol that starts at `tNom`. -/
def noteSent (s : State) (key tNom : Nat) : State :=
  match instCarrier s (key / 1024) (key % 1024) with
  | some c => s.modFh fun f => { f with sentNext := mset key (symBefore c tNom + 1) f.sentNext }
  | none => s

/-! ### What a free transmitter starts -/

/-- A downlink record on its way (R114, R115, R118, R466). -/
def recordOut (s : State) (key qid : Nat) (x : EgQueue) (c : CalEntry) (slip : Bool) (tTx : Nat) : State :=
  let k := key / 16
  let b := x.binding.getD 0
  let h := readHdr s k (ent c.entry 8 8)
  let hd := h.1.getD { kind := 0, flags := 0, ports := 0, carrier := b % 1024, ru := b / 1024, count := 0, tNom := 0 }
  let d := busReadMany (.iot k) (ent c.entry 8 8 + 64) (recBytes hd) h.2
  let data := match d.1 with | .ok l => some l | .error _ => none
  let fr := recFrame s b hd.tNom
  let zeros := c.zeros || h.1.isNone || data.isNone || !instSends s b fr
  let shed := instShed s b
  let up := portUp s key
  let w := widthOf s b fr
  let s := noteSent d.2 b hd.tNom
  let f : TxFrame :=
    { kind := .timed slip, qid := qid, entry := c.entry, tTx := tTx,
      ends := s.now + wireTime (portRate s key) (recWire hd w + 24), delay := tTx - c.launch,
      status := (if up && !shed then (if h.1.isNone || data.isNone then Status.ue
                                      else if c.zeros then .timeout else .ok) else .badState).code,
      disc := !up || shed,
      out := .record k (key % 16) hd.carrier hd.ru tTx zeros (recPayload hd w zeros (data.getD [])) }
  let s := if shed then s.count (R.SPUR_CNT_SHED (key % 16 - 8)) 1 else s
  s.setTx key f

/-- Start the due timed frame of a free port (R423, R424). -/
def startTimed (s : State) (key : Nat) (c : CalEntry) : State :=
  let k := key / 16
  let s := s.setCalendar key ((s.calendar key).erase c)
  match s.egq c.qid with
  | none => s
  | some x =>
    if rxPaused s k (key % 16) x.pcp then
      noteDepth (complete ((s.count (R.WFQ_TL_PAUSED k) 1).orReg (R.WFQ_STAT k) 0) k c.entry .busy true false 0) c.qid
    else
      let t := txTime s key c.launch
      let s := if t.1 then (s.count (R.WFQ_TL_SLIP k) 1).orReg (R.WFQ_STAT k) 1 else s
      if ent c.entry 0 1 = 0 then frameOut s key c.qid (.timed t.1) c.entry t.2 (t.2 - c.launch)
      else recordOut s key c.qid x c t.1 t.2

/-! ### Silent instances (R115) -/

/-- The symbol of an instance whose launch is due and that the IOT itself fills with zeros (R115): TX_EN is 0 in its
frame, no record stands for it in the calendar, nothing was sent for it, and it is no uplink symbol of a TDD carrier. -/
def silentSym (s : State) (key : Nat) (q : Nat × EgQueue) : Option (Bind × Nat) :=
  match q.2.binding.bind fun b => bindOf s (b / 1024) (b % 1024) with
  | none => none
  | some b =>
    let n := symBefore b.c (s.devNs + q.2.dlAdv)
    let t := symStart b.c n
    if q.2.key == key && q.2.en && decide (mgetD 0 s.fh.sentNext b.key ≤ n) && b.i.st != .suspended
        && !instSends s b.key (frameOfSym b.c n) && (b.c.duplex == 0 || !hasRec b n)
        && !((s.calendar key).any fun c => c.qid == q.1 && c.launch + q.2.dlAdv == t)
    then some (b, n) else none

/-- The first queue of a port with such a symbol. -/
def silentDue (s : State) (key : Nat) : Option (Nat × Bind × Nat) :=
  s.eg.bound.findSome? fun q => (silentSym s key q).map fun x => (q.1, x)

/-- Send the zeros of a silent instance's symbol (R115). -/
def startZeros (s : State) (key qid : Nat) (b : Bind) (n : Nat) : State :=
  let k := key / 16
  let h : RecHdr := { kind := recKind b.c b.r.path, flags := 0, ports := instPorts b.i, carrier := b.carrier, ru := b.ru,
                      count := recCount b.c b.r.path n, tNom := symStart b.c n }
  let w := widthOf s b.key (frameOfSym b.c n)
  let shed := b.i.st == .shed
  let t := s.devNs + wireTime (portRate s key) 8
  let f : TxFrame :=
    { kind := .control, qid := qid, entry := [], tTx := t, ends := s.now + wireTime (portRate s key) (recWire h w + 24),
      delay := 0, status := 0, disc := !portUp s key || shed,
      out := .record k (key % 16) b.carrier b.ru t true (recPayload h w true []) }
  let s := if shed then s.count (R.SPUR_CNT_SHED (key % 16 - 8)) 1 else s
  (noteSent s b.key h.tNom).setTx key f

/-- TIMED_LAUNCH (R423, R424, R115): the launch of a port's first calendar entry, or of a silent instance's symbol, is due
and the transmitter is free. -/
def execTimedLaunch (iot port : Nat) (s : State) : Host.Outcome State Fault Refusal :=
  let key := portKey iot port
  if !txFree s key then ok s
  else match launchDue s key with
    | some c => ok (startTimed s key c)
    | none => match silentDue s key with
      | some (q, b, n) => ok (startZeros s key q b n)
      | none => ok s

/-- TRANSMIT_START (R416, R402, R422, R425): a free transmitter starts the first frame that is ready. -/
def execTransmitStart (iot port : Nat) (s : State) : Host.Outcome State Fault Refusal :=
  let key := portKey iot port
  if !txFree s key then ok s
  else match mgetD [] s.eg.control key, fitsGuard s key 84 with
    | (pcp, quanta) :: _, true => ok (startControl s key pcp quanta)
    | _, _ => match launchDue s key with
      | some c => ok (startTimed s key c)
      | none => match silentDue s key with
        | some (q, b, n) => ok (startZeros s key q b n)
        | none => match wfqPick (wfqReady s key) with
          | some (qid, x, e) => ok (startWfq s key qid x e)
          | none => ok s

end Sys2Proof.Machine
end

