-- ==== Sys2Proof/Machine/PowerState.lean ====
section
/-! DEFINITION. POWER_STATE_SET and what it sets going: device transitions, islands going to sleep and waking (R500 to
R514, R520). Assumption log: 86 (DEDUCED), 87 (DEDUCED), 91 (DEDUCED), 92 (DEDUCED), 93 (DEDUCED), 95 (DEDUCED). -/

namespace Sys2Proof.Machine

/-! ### POWER_STATE_SET (R505, R509, R512) -/

/-- POWER_STATE_SET's opcode. -/
def opPower : OpInfo := { opcode := 0x0501 }

/-- The fields of a KIND 1 request are in range (R512). -/
def powerArgs (resume settleUs rekeepUs : Nat) : Bool :=
  decide (resume ≤ 2) && (settleUs == 0 || (decide (10 ≤ settleUs) && decide (settleUs ≤ 10000)))
    && (rekeepUs == 0 || (decide (10 ≤ rekeepUs) && decide (rekeepUs ≤ 60000)))

/-- STILL is refused: a run, a transmitter that is on, or a lane test (R509). -/
def stillBlocked (s : State) : Bool :=
  !s.runs.isEmpty || s.cor.insts.any (fun x => x.2.txEn != 0#32) || !s.lanes.tests.isEmpty

/-- The checks of a KIND 1 request in their order (R509, R512, R524). -/
def powerCheck (m : TcsMsg) (argOk still : Bool) (s : State) : Option Status :=
  if !holdsSem s m 25 then some .notOwner
  else if !argOk then some .badArg
  else if s.parison then some .notReady
  else if still && stillBlocked s then some .badState
  else if !powerFree s then some .busy
  else none

/-- A non-zero REKEEP_US takes effect (R512). -/
def rekeep (s : State) (us : Nat) : State := if us = 0 then s else s.setField R.PWR_CTRL 15 0 us

/-- A KIND 1 request: checks, REKEEP_US, then `act`. -/
def powerSet (m : TcsMsg) (argOk still : Bool) (rekeepUs : Nat) (act : State → Reply ⊕ State) (s : State) :
    Host.Outcome State Fault Refusal :=
  ok (begin_ opPower m 0 (fun s =>
    match powerCheck m argOk still s with
    | some st => .inl (refuse st s)
    | none => act (rekeep s rekeepUs)) s)

/-- A request that is complete at once. -/
def powerOk (s : State) : Reply := { st := .ok, payload := powerPayload s (0, 0, 0), state := powerReq s (0, 0, 0) 1 }

/-- A request for the state in force changes nothing (R512). -/
def powerSame (s : State) : Reply := { st := .ok, payload := powerPayload s (0, 0, 0), state := s }

/-- A transition to start. -/
def newTrans (m : TcsMsg) (target resume settleUs : Nat) : Trans :=
  { target := target, resume := resume, settle := (if settleUs = 0 then 1000 else settleUs) * 1000, mbx := mbxKey m,
    todo := [], askedAt := none, askedUnit := 0, stopped := [], starts := [], back := none, refuser := (0, 0, 0) }

/-- POWER_STATE_SET ACTIVE (R505, R512): every sleeping DSP and ACC tile is woken. -/
def execPowerStateSetActive (m : TcsMsg) (settleUs rekeepUs : Nat) (s : State) : Host.Outcome State Fault Refusal :=
  powerSet m (powerArgs 0 settleUs rekeepUs) false rekeepUs (fun s =>
    if s.devState = 1 then .inl (powerSame s)
    else
      let tiles := (dspTiles s.part ++ accTiles s.part).filter fun t => tileSleeps s t || (s.island t).st == .draining
      let s := powerBusy (s.setField R.PWR_STAT 31 29 1) true
      .inr (endActive (s.modPower fun p => { p with
        trans := some { newTrans m 1 0 settleUs with starts := sortBy (fun t => (t, 0, 0)) tiles } }))) s

/-- POWER_STATE_SET LULL (R505, R506). -/
def execPowerStateSetLull (m : TcsMsg) (settleUs rekeepUs : Nat) (s : State) : Host.Outcome State Fault Refusal :=
  powerSet m (powerArgs 0 settleUs rekeepUs) false rekeepUs (fun s =>
    .inl (if s.devState = 2 then powerSame s else powerOk (s.setField R.PWR_STAT 31 29 2))) s

/-- POWER_STATE_SET STILL (R509, R510): the dispatchers stop and phase A begins. -/
def execPowerStateSetStill (m : TcsMsg) (resume settleUs rekeepUs : Nat) (s : State) : Host.Outcome State Fault Refusal :=
  powerSet m (powerArgs resume settleUs rekeepUs) true rekeepUs (fun s =>
    let x := { newTrans m 3 (if resume = 0 then 2 else resume) settleUs with todo := phaseA s }
    .inr (walk ((powerBusy s true).modPower fun p => { p with stopping := true, trans := some x }))) s

/-- The fields of a KIND 2 request are in range (R512, R526). -/
def pmbArgs (entry addr role flags busKhz : Nat) : Bool :=
  decide (entry < 16) && decide (addr < 128) && decide (role < 3) && (busKhz == 100 || busKhz == 400 || busKhz == 1000)
    && !(role != 0 && flags.testBit 1)

/-- POWER_STATE_SET KIND 2 (R512, R524, R526): a PMBus entry is stored for the next boot. -/
def execPowerStateSetPmbus (m : TcsMsg) (entry addr page role flags nomMv busKhz : Nat) (s : State) :
    Host.Outcome State Fault Refusal :=
  ok (begin_ opPower m 0 (fun s => .inl (guarded m 25 false (fun s =>
    if !pmbArgs entry addr role flags busKhz then refuse .badArg s
    else if s.nvmPaused then refuse .busy s
    else
      let cfg := addr * 2 ^ 24 + page % 256 * 2 ^ 16 + role * 2 ^ 8 + flags % 256
      { powerSame s with state := configWritten (s.modPower fun p => { p with
          pmbStored := mset entry (cfg, nomMv % 65536) p.pmbStored, khzStored := busKhz }) }) s)) s)

/-! ### Transitions go on -/

/-- Go on with whatever transition waits for an island: phase A, a rollback, a return to ACTIVE, bring-up. -/
def moveOn (s : State) : State := progress (endActive (endRollback (walk s)))

/-- SETTLE_TIMEOUT (R507, R508): the participant asked is still busy after SETTLE_US and refuses. -/
def execSettleTimeout (s : State) : Host.Outcome State Fault Refusal :=
  match s.power.trans with
  | none => ok s
  | some x =>
    match x.target == 3 && x.back.isNone, x.askedAt, x.todo with
    | true, some t0, t :: _ =>
      match busyParts s t with
      | [] => ok (walk s)
      | p :: _ =>
        if p.1 ≠ x.askedUnit then ok (walk s)
        else if s.now < t0 + x.settle then ok s
        else
          let s := (s.setReg (R.ISL_REFUSE t) (BitVec.ofNat 32 (p.1 * 256 + p.2))).orReg R.PWR_EVT 3
          ok (beginRollback s x .refused (t, p.1, p.2))
    | _, _, _ => ok s

/-- ISLAND_SLEEP_ENTER (R362, R501, R502, R507): a draining tile that owes and awaits nothing goes to sleep; the tile
that a transition to STILL asks is asked again. -/
def execIslandSleepEnter (tile : Nat) (s : State) : Host.Outcome State Fault Refusal :=
  if (s.island tile).st == .draining then
    if owing s tile then ok s else ok (moveOn (enterSleep s tile (s.island tile).target))
  else if (s.power.trans.bind fun x => x.todo.head?) = some tile then ok (walk s)
  else ok s

/-- A DSP or ACC tile. -/
def isWorkTile (s : State) (t : Nat) : Bool := isDsp s.part t || (accKind s.part t).isSome

/-- TILE_IDLE_SLEEP (R506): a DSP or ACC tile idle for REKEEP_US, or woken only for a scrub pass that is complete,
sleeps in LULL. -/
def execTileIdleSleep (tile : Nat) (s : State) : Host.Outcome State Fault Refusal :=
  let x := s.island tile
  let due := if x.forScrub then decide (x.stepAt ≤ mgetD 0 s.mem.scrubAt tile)
             else decide (x.idleSince + s.field R.PWR_CTRL 15 0 * 1000 ≤ s.now)
  if s.devState = 2 && s.power.trans.isNone && !s.nvmPaused && isWorkTile s tile && x.st == .run && (busyParts s tile).isEmpty && due then
    ok (sleepOrDrain (s.modIsland tile fun y => { y with forScrub := false }) tile (if s.flag R.PWR_CTRL 31 then .halt else .keep))
  else ok s

/-- SCRUB_WAKE (R384, R502, R506): a sleeping DSP or ACC tile whose scrub age reaches 10 minutes is woken. -/
def execScrubWake (tile : Nat) (s : State) : Host.Outcome State Fault Refusal :=
  if s.devState = 2 && !s.nvmPaused && isWorkTile s tile && tileSleeps s tile && (s.island tile).step == 0
      && !(s.island tile).failed && decide (600 ≤ scrubAge s tile) then
    ok (startWake (s.modIsland tile fun x => { x with forScrub := true }) tile)
  else ok s

/-- One tile of a staggered start: a sleeping tile wakes, a draining one as soon as it sleeps (R502). -/
def startTile (s : State) (t : Nat) : State :=
  if (s.island t).st == .draining then s.modIsland t fun x => { x with wakePending := true } else startWake s t

/-- One tile of bring-up: in step 2 of R537 an OFF tile starts, in step 4 a Q0 tile goes to its configured MULT. -/
def bootTile (s : State) (t : Nat) : State :=
  if s.boot.phase = 2 then s.modIsland t fun x => { x with step := 1, stepAt := s.now, tries := 0 }
  else (settleCycles s t).setField (R.ISL_CTRL t) 29 24 40

/-- TILE_START (R505, R508, R537): the next tile of a staggered start, 2 µs after the one before. -/
def execTileStart (s : State) : Host.Outcome State Fault Refusal :=
  if s.now < s.power.nextStart || s.nvmPaused then ok s
  else
    let next := s.now + 2000
    match s.power.trans.bind fun x => x.starts.head?.map fun t => (x, t), s.boot.tilesToStart with
    | some (x, t), _ =>
      let s := startTile s t
      ok (moveOn (s.modPower fun p => { p with trans := some { x with starts := x.starts.drop 1 }, nextStart := next }))
    | none, t :: l =>
      let s := (bootTile s t).modBoot fun b => { b with tilesToStart := l }
      ok (moveOn (s.modPower fun p => { p with nextStart := next }))
    | none, [] => ok s

/-! ### Phase B of STILL (R510) -/

/-- A spur port in STILL: its transmitter is off and its detector armed (R471). -/
def spurStill (s : State) (p : Nat) : State :=
  if !spurEn s p then s
  else
    let s := match mget (spurKey p) s.eg.tx with
      | some f => s.setTx (spurKey p) { f with disc := true, status := Status.badState.code }
      | none => s
    let s := (spurEnter s p 0).modSpur p fun x => { x with listening := false }
    (s.setField (R.SPUR_STAT p) 27 26 0).setField (R.SPUR_STAT p) 24 24 1

/-- The servo at entry to STILL (R434, R442, R451): HOLDOVER at the holdover RATE; the event is sent at wake. The
servo is suspended, so that a reference must qualify again after the wake. -/
def servoStill (s : State) : State :=
  let s := (s.setField R.TIME_STAT 27 25 0).modTime fun t =>
    { t with meas := [], refused := false, reacq := t.reacq.map fun r => { r with taken := [] } }
  if servoState s = 1 ∨ servoState s = 2 then
    let s := closeRateLog s
    let r := holdoverRate s
    ((setRate (setServo s 3) r).orReg R.TIME_EVT 2).modTime fun t => { t with heldEvents := true }
  else s

/-- An island that is not OFF goes to KEEP. -/
def keepIsland (s : State) (t : Nat) : State :=
  match (s.island t).st with
  | .off => s
  | .keep => s
  | _ => enterSleep s t .keep

/-- STILL_PHASE_B (R510): 1 ms after commit what is left stops, in order, and STILL is reached; a wake source that came
meanwhile begins the wake. -/
def execStillPhaseB (s : State) : Host.Outcome State Fault Refusal :=
  match s.power.commitAt with
  | none => ok s
  | some t =>
    if s.power.still || decide (s.now < t + 1000000) then ok s
    else
      let tiles := (List.range 144).filter fun t => tilePresent s.part t && t != ctlG && t != ctlH
      let s := portsDown (portsDown s 0) 1
      let s := (List.range 4).foldl spurStill s
      let s := keepIsland (tiles.foldl keepIsland s) ctlG
      let s := servoStill (keepIsland s 145)
      let s := (([144, 146, 147, 148, 149, 150].foldl keepIsland s))
      let s := pmbStill (keepIsland s ctlH) false
      let s := powerRecord (s.modPower fun p => { p with still := true }) 6 0
      ok (if s.power.cause.isSome then beginWake s else s)

/-! ### Waking (R513, R514) -/

/-- The time limit of a wake step in ns, counted from the start of the wake (R501, R513). -/
def wakeLimit (device halt : Bool) : Nat → Nat
  | 1 => if device then 40000 else 8000
  | 2 => if device then 100000 else if halt then 2000 else 10000
  | 3 => if device then 300000 else 16000
  | _ => if device then 400000 else if halt then 2000 else 20000

/-- A spine, pad or tile island by its number in WAKE_FAIL (R531). -/
def islandPresent (s : State) (n : Nat) : Bool := tilePresent s.part n || (otherIslands s).contains n

/-- The step after `n`: a HALT island goes from step 2 to 4 (R501). -/
def nextStep (st : IslSt) (n : Nat) : Nat := if n = 2 && st == .halt then 4 else n + 1

/-- A signal of step `n` may come from an island now: the step is under way, for every island that wakes with it, and no
supply warning holds it (R513, R514). -/
def awaits (s : State) (i n : Nat) : Bool :=
  (s.island i).step == n && !s.nvmPaused
    && (!s.power.waking.contains i || s.power.waking.all fun j => decide (n ≤ (s.island j).step))

/-- µs since the wake source, as WAKE_T_A and WAKE_T_B hold them. -/
def sinceCause (s : State) : Nat :=
  match s.power.cause with
  | some (_, _, t) => min 1023 ((s.now - t) / 1000)
  | none => 0

/-- The time at which a step of the wake from STILL was complete (R513). -/
def noteStep (s : State) (n : Nat) : State :=
  match n with
  | 1 => s.setField R.WAKE_T_A 9 0 (sinceCause s)
  | 2 => s.setField R.WAKE_T_A 25 16 (sinceCause s)
  | 3 => s.setField R.WAKE_T_B 9 0 (sinceCause s)
  | _ => s.setField R.WAKE_T_B 25 16 (sinceCause s)

/-- A ready signal: shown in ISL_STAT, and the island's next step follows; with the last island of a wake from STILL
the step is complete. -/
def signal (s : State) (i n : Nat) : State :=
  let s := if i < 144 then s.setField (R.ISL_STAT i) (23 + n) (23 + n) 1 else s
  let s := s.modIsland i fun x => { x with step := nextStep x.st n }
  if s.power.waking.contains i && s.power.waking.all (fun j => decide (n < (s.island j).step)) then noteStep s n else s

/-- IVR_READY (R497, R513): the regulator has reached its run code. -/
def execIvrReady (island : Nat) (s : State) : Host.Outcome State Fault Refusal :=
  if awaits s island 1 then
    let s := if island < 144 then s.setReg (R.ISL_VOLT island) (BitVec.ofNat 32 (min 140 (s.field (R.ISL_CTRL island) 7 0))) else s
    ok (signal s island 1)
  else ok s

/-- OSC_READY (R513). -/
def execOscReady (island : Nat) (s : State) : Host.Outcome State Fault Refusal :=
  if awaits s island 2 then ok (signal s island 2) else ok s

/-! ### Retention (R388 to R390) -/

/-- A byte of the SRAM of tile `t` in one of the banks of a mask. -/
def inBanks (s : State) (t mask a : Nat) : Bool := placeOf s.part a == .sram t && mask.testBit (a / 8 % 16)

/-- Zeros with fresh codes in the banks of a mask (R389). -/
def zeroBanks (s : State) (t mask : Nat) : State :=
  let mem (m : MemState) : MemState := { m with
    cells := m.cells.filter fun c => !inBanks s t mask c.1, marks := m.marks.filter fun c => !inBanks s t mask c.1,
    writeBacks := m.writeBacks.filter fun a => !inBanks s t mask a }
  { s with mem := mem s.mem }

/-- RETENTION_FAIL (R389, R390). -/
def retentionFail (s : State) (t kind cause mask k : Nat) : State :=
  (s.raise 0x0051 6 t (leBytes 1 kind ++ leBytes 1 cause ++ leBytes 2 mask ++ leBytes 4 k)).journal 0x0040 1 ctlH
    (Config.recordBody 0x0040 (leBytes 2 8 ++ leBytes 4 t ++ leBytes 1 kind ++ leBytes 1 cause ++ leBytes 2 mask ++ leBytes 4 k))

/-- The SRAM of a tile that wakes from KEEP: failed banks are zeroed and reported (R388, R389). `canary` are the banks
whose canary failed. -/
def sramWake (s : State) (t canary : Nat) : State :=
  let latched := s.flag (R.ISL_STAT t) 28
  let mask := if latched then 0xFFFF else canary % 65536
  if mask = 0 then s
  else
    let cause := b2n latched + 2 * b2n (canary % 65536 != 0)
    let s := (zeroBanks s t mask).setReg (R.ECC_RET_FAIL t) (BitVec.ofNat 32 (cause * 65536 + mask))
    retentionFail (s.orReg (R.ECC_STAT t) 3) t 0 cause mask (mgetD 0 s.mem.sleepK t)

/-- The pseudo-channels of a MEM tile that leave self-refresh: failures are reported, and the stack is scrubbed first
(R390). -/
def hbmWake (s : State) (t canary : Nat) : State :=
  let latched := s.flag (R.ISL_STAT t) 28
  let mask := if latched then 0xFFFF else canary % 65536
  if tileKindOf t ≠ .mem ∨ mask = 0 then s
  else
    let cause := b2n latched + 2 * b2n (canary % 65536 != 0)
    let s := (s.setReg (R.MEMC_RET_FAIL t) (BitVec.ofNat 32 (cause * 65536 + mask))).orReg (R.MEMC_STAT t) 3
    retentionFail { s with mem := { s.mem with retFailed := s.mem.retFailed ++ [t] } } t 1 cause mask (mgetD 0 s.mem.hbmK t)

/-- A tile that was OFF: its SRAM is zero and its registers take their reset values (R501). -/
def freshTile (s : State) (t : Nat) : State :=
  let own (a : Nat) : Bool := decide (winBase t ≤ a) && decide (a < winBase t + 0x10000000)
  let fab := match tileKindOf t with | .fab f => some f | _ => none
  let mine (a : Nat) : Bool := own a || fab.any fun f => decide (R.FAB_STATE f ≤ a) && decide (a < R.FAB_STATE f + 0x1000)
  let keep := s.reg (R.ISL_STAT t)
  let volt := s.reg (R.ISL_VOLT t)
  let s := zeroBanks s t 0xFFFF
  let regs (r : RegState) : RegState := { r with words := r.words.filter fun x => !mine x.1 }
  let cores (c : Cores) : Cores := { c with core := c.core.filter fun x => x.1 / 4 != t }
  let s := { s with regs := regs s.regs, cores := cores s.cores, fab := s.fab.filter fun x => fab != some x.1 }
  (s.setReg (R.ISL_STAT t) keep).setReg (R.ISL_VOLT t) volt

/-- MEM_READY (R388 to R390, R501, R513): retention is checked, or a tile that was OFF is initialised; `canary` and
`hbmCanary` are the SRAM banks and pseudo-channels whose canaries failed. -/
def execMemReady (island canary hbmCanary : Nat) (s : State) : Host.Outcome State Fault Refusal :=
  if !awaits s island 3 then ok s
  else
    let s := if 144 ≤ island then s
      else if (s.island island).st == .off then freshTile s island
      else hbmWake (sramWake s island canary) island hbmCanary
    ok (signal s island 3)

/-! ### The end of a wake -/

/-- A tile runs (R398, R412, R448, R513): from OFF with its bucket and queues; an IOT's ports start bring-up. -/
def tileUp (s : State) (t : Nat) : State :=
  let off := (s.island t).st == .off
  let s := settleCycles s t
  let s := s.modIsland t fun x => { x with st := .run, target := .run, step := 0, tries := 0, idleSince := s.now, wakePending := false }
  let s := if off then setBucket s t else s
  match tileKindOf t with
  | .iot k => if (List.range 5).any fun p => ethPort s k p && ethStep s k p != 0 then s else startPorts s k [0, 1, 2, 3, 4]
  | .dsq q => if off then bootQueues s q else s
  | _ => s

/-- Sessions idle for 60 s end with cause STILL (R520). -/
def endIdle (s : State) : State :=
  [0, 1].foldl (fun s p =>
    if (s.sess p).st != .none && decide ((s.sess p).lastAuth + 60000000000 ≤ s.now) then endSession p .still s else s) s

/-- A spur port trains from step 1 after STILL (R461, R471, R520). -/
def spurUp (s : State) (p : Nat) : State :=
  if spurEn s p then spurTrain (s.setField (R.SPUR_STAT p) 24 24 0) p 1 false else s

/-- LOGIC_READY of the last island of a wake from STILL (R505, R513, R519, R520). -/
def deviceUp (s : State) : State :=
  let p := s.power
  let s := p.waking.foldl (fun s i => if i < 144 then tileUp s i else lightIsland s i) s
  let cause := (p.cause.map fun c => c.2.1).getD 0#32
  let s := ((s.setReg R.WAKE_CAUSE cause).setReg R.WAKE_SRC p.src).count R.WAKE_CNT 1
  let s := powerBusy (s.setField R.PWR_STAT 31 29 p.resume) false
  let s := s.modPower fun p => { p with stopping := false, commitAt := none, still := false, cause := none, src := 0#32,
                                        waking := [], wakeTries := 0 }
  let s := endIdle s
  let s := (List.range 4).foldl spurUp s
  let s := if s.time.heldEvents then (s.modTime fun t => { t with heldEvents := false }).raise 0x0031 0 0 [] else s
  powerRecord s 5 cause.toNat

/-- LOGIC_READY (R501, R513): a tile runs; from STILL, the device once every island is ready. -/
def execLogicReady (island : Nat) (s : State) : Host.Outcome State Fault Refusal :=
  if !awaits s island 4 then ok s
  else
    let s := signal s island 4
    if s.power.waking.contains island then
      ok (if s.power.waking.all fun j => decide (4 < (s.island j).step) then deviceUp s else s)
    else ok (moveOn (tileUp s island))

/-- A failed tile island is OFF and FAILED (R514). -/
def islandFailed (s : State) (t : Nat) : State :=
  let s := (s.setReg (R.ISL_VOLT t) 0#32).setField (R.ISL_STAT t) 28 24 0
  let s := s.modIsland t fun x => { Island.off with failed := true, idleSince := x.idleSince }
  let s := (s.setField (R.WAKE_FAIL (t / 32)) (t % 32) (t % 32) 1).orReg R.PWR_EVT 4
  let s := s.modPower fun p => { p with waking := p.waking.filter (· != t) }
  moveOn (powerRecord s 4 t)

/-- The wake of an island is repeated from its first step; a wake from STILL is timed anew (R514). -/
def repeatWake (s : State) (i : Nat) : State :=
  let s := s.modIsland i fun x => { x with step := if x.st == .halt then 2 else 1, stepAt := s.now, tries := 1 }
  let s := if i < 144 then s.setField (R.ISL_STAT i) 27 24 0 else s
  if s.power.waking.contains i then
    s.power.waking.foldl (fun s j => s.modIsland j fun x => { x with stepAt := s.now }) s
  else s

/-- WAKE_STEP_TIMEOUT (R514): a ready signal is missing at twice its limit. -/
def execWakeStepTimeout (island : Nat) (s : State) : Host.Outcome State Fault Refusal :=
  let x := s.island island
  let device := s.power.waking.contains island
  if x.step = 0 || !awaits s island x.step || decide (s.now < x.stepAt + 2 * wakeLimit device (x.st == .halt) x.step) then ok s
  else if x.tries = 0 then ok (repeatWake s island)
  else if island < 144 && island != ctlG && island != ctlH then
    let s := islandFailed s island
    ok (if device && !s.power.waking.isEmpty && s.power.waking.all (fun j => decide (4 < (s.island j).step)) then deviceUp s else s)
  else ok (devReset s (BitVec.ofNat 32 (2 * 2 ^ 28 + 2 ^ 16)))

end Sys2Proof.Machine
end

