-- ==== Sys2Proof/Machine/PowerSupply.lean ====
section
/-! DEFINITION. The alarm and the other wake sources (R515 to R519, R590, R591), supply and temperature (R497 to R499,
R521 to R525, R580), PMBus (R526 to R529) and POWER_STATUS (R530). Assumption log: 93 (DEDUCED), 94 (DEDUCED), 95
(DEDUCED). -/

namespace Sys2Proof.Machine

/-! ### The alarm (R518) -/

/-- SEC, NS and FLAGS of the alarm as ALARM_SET returns them. -/
def alarmPayload (s : State) : List Byte :=
  leBytes 8 (s.reg64 R.WAKE_ALARM_SEC).toNat ++ leBytes 4 (s.field R.WAKE_ALARM_NS 29 0)
    ++ leBytes 1 (b2n (s.flag R.WAKE_ALARM_NS 31)) ++ leBytes 3 0

/-- ALARM_SET (R518). -/
def execAlarmSet (m : TcsMsg) (sec ns flags : Nat) (s : State) : Host.Outcome State Fault Refusal :=
  ok (serve { opcode := 0x0504 } m 0 (guarded m 25 true fun s =>
    let old := alarmPayload s
    if flags.testBit 0 then
      if decide (1000000000 ≤ ns) || decide ((sec * 1000000000 + ns) * 2 ^ 48 < s.clk.total + 1000000000 * 2 ^ 48) then refuse .badArg s
      else
        let s := (s.setReg64 R.WAKE_ALARM_SEC (BitVec.ofNat 64 sec)).setReg R.WAKE_ALARM_NS (BitVec.ofNat 32 (2 ^ 31 + ns))
        { st := .ok, payload := old, state := s }
    else { st := .ok, payload := old, state := s.setField R.WAKE_ALARM_NS 31 31 0 }) s)

/-- ALARM_FIRE (R518): an armed alarm whose time device time has reached wakes the device or only passes. -/
def execAlarmFire (s : State) : Host.Outcome State Fault Refusal :=
  let at_ := (s.reg64 R.WAKE_ALARM_SEC).toNat * 1000000000 + s.field R.WAKE_ALARM_NS 29 0
  if !s.flag R.WAKE_ALARM_NS 31 || decide (s.devNs < at_) then ok s
  else
    let s := s.setField R.WAKE_ALARM_NS 31 31 0
    if inStill s && s.flag R.WAKE_EN 0 then ok (wakeSource s 0 0 (causeWord 3 0 0)) else ok (s.orReg R.PWR_EVT 7)

/-! ### MGT ports and the wake bus (R516, R517, R590, R591) -/

/-- MGT_ENERGY_WAKE (R516): signal for 100 µs on an MGT lane. -/
def execMgtEnergyWake (port : Fin 2) (s : State) : Host.Outcome State Fault Refusal :=
  let p := port.val
  if inStill s && s.flag R.WAKE_EN (2 + p) && s.flag R.WAKE_MGT (31 - p) then ok (wakeSource s (2 + p) (2 + p) (causeWord 5 p 0))
  else ok s

/-- MGT_WAKE_FRAME (R516): the expected code, or any with ANY, wakes; another is counted. -/
def execMgtWakeFrame (port : Fin 2) (code : Nat) (s : State) : Host.Outcome State Fault Refusal :=
  let p := port.val
  if !(inStill s && s.flag R.WAKE_EN (2 + p) && s.flag R.WAKE_MGT (29 - p)) then ok s
  else if s.flag R.WAKE_MGT 27 || code == s.field R.WAKE_MGT 15 0 then ok (wakeSource s (2 + p) (2 + p) (causeWord 6 p code))
  else ok (s.count R.WAKE_CNT_REJ 1)

/-- The bits of wake bus symbols, each a high gap and a low pulse in ns: pulses below 0.5 µs are ignored, and a gap above
10 µs before the eleventh symbol or any other pulse abandons the message (R591). -/
def busBits : List (Nat × Nat) → Nat → List Bool → Option (List Bool)
  | [], _, acc => some acc
  | (gap, low) :: l, held, acc =>
    let g := held + gap
    if low < 500 then busBits l (g + low) acc
    else if acc.length < 11 ∧ 10000 < g then none
    else if 800 ≤ low ∧ low ≤ 2500 then busBits l 0 (acc ++ [false])
    else if 3500 ≤ low ∧ low ≤ 7000 then busBits l 0 (acc ++ [true])
    else none

/-- The address of a wake bus message with correct parity (R590, R591). -/
def busAddress (start : Nat) (symbols : List (Nat × Nat)) (stop : Nat) : Option Nat :=
  if ¬ (8000 ≤ start ∧ start ≤ 14000) ∨ stop < 20000 then none
  else match busBits symbols 0 [] with
    | some l =>
      if l.length = 11 ∧ (l.filter id).length % 2 = 0 then some ((l.take 10).foldl (fun n b => 2 * n + b2n b) 0) else none
    | none => none

/-- WAKE_BUS_MESSAGE (R517, R590, R591): only in STILL and in the FA package. -/
def execWakeBusMessage (start : Nat) (symbols : List (Nat × Nat)) (stop : Nat) (s : State) : Host.Outcome State Fault Refusal :=
  match busAddress start symbols stop with
  | some a =>
    let hit := a == s.field R.WAKE_BUS 9 0 || (a == 0x3FF && s.flag R.WAKE_BUS 31)
    if inStill s && s.part == .fa960 && s.flag R.WAKE_EN 1 && hit then ok (wakeSource s 1 1 (causeWord 4 0 a)) else ok s
  | none => ok s

/-! ### VIN_CORE (R521 to R524) -/

/-- Settle the cycle counts of every tile that runs. -/
def settleAll (s : State) : State := (litTiles s).foldl settleCycles s

/-- SUPPLY_WARNING (R521): VIN_CORE below 1.710 V. -/
def execSupplyWarning (mv : Nat) (s : State) : Host.Outcome State Fault Refusal :=
  if 1710 ≤ mv then ok s
  else
    let s := s.setReg R.PWR_VIN (BitVec.ofNat 32 (mv % 65536))
    if s.nvmPaused then ok s
    else
      let s := settleAll s
      let s := ((s.setField R.PWR_STAT 27 27 1).orReg R.PWR_EVT 0).count R.PWR_SUPPLY_CNT 1
      ok (powerRecord (s.modPower fun p => { p with stretched := true, droopAt := s.now, warnings := satAdd 32 p.warnings 1 }) 7 mv)

/-- SUPPLY_LOW (R521): a warning that has lasted 100 ms. -/
def execSupplyLow (s : State) : Host.Outcome State Fault Refusal :=
  if s.nvmPaused && !s.flag R.PWR_STAT 26 && decide (s.power.droopAt + 100000000 ≤ s.now) then
    ok ((s.setField R.PWR_STAT 26 26 1).orReg R.PWR_EVT 1)
  else ok s

/-- A tile's stretched cycles are counted in ISL_STRETCH (R521). -/
def countStretch (s : State) (t : Nat) : State := settleCycles (s.count (R.ISL_STRETCH t) (cyclesSince s t)) t

/-- The time limit of a wake stood still during a warning (R514). -/
def shiftWake (now droopAt : Nat) (x : Island) : Island :=
  if x.step = 0 then x else { x with stepAt := if x.stepAt < droopAt then x.stepAt + (now - droopAt) else now }

/-- SUPPLY_RECOVERY (R521, R522): clocks are restored, writes read back (`redo` of them were repeated) and released, and
SUPPLY_EVT is raised. -/
def execSupplyRecovery (minMv redo : Nat) (s : State) : Host.Outcome State Fault Refusal :=
  if !s.nvmPaused then ok s
  else
    let d := s.now - s.power.droopAt
    let s := (litTiles s).foldl countStretch s
    let from_ := s.power.droopAt
    let shift (x : Nat × Island) : Nat × Island := (x.1, shiftWake s.now from_ x.2)
    let s : State := { s with islands := s.islands.map shift }
    let s := (s.modPower fun p => { p with stretched := false }).setField R.PWR_STAT 27 26 0
    let s := s.setReg R.PWR_SUPPLY_EVT (BitVec.ofNat 32 (minMv % 65536 * 65536 + min 65535 (d / 1000)))
    let s := s.count R.PWR_NVM_REDO redo
    let s := drainBuffer s.stor.buffer.length s
    ok (s.raise 0x0050 0 0 (leBytes 2 minMv ++ leBytes 2 (min 65535 redo) ++ leBytes 4 (min (2 ^ 32 - 1) d)))

/-- SUPPLY_RESET (R523, R580): VIN_CORE below 1.620 V for 1 µs; a THERMTRIP_N held is released only below 0.9 V. -/
def execSupplyReset (below900 : Bool) (s : State) : Host.Outcome State Fault Refusal :=
  let trip := s.pins.thermTrip && !below900
  let s := devReset s (BitVec.ofNat 32 (if below900 || trip then 2 ^ 28 else 2 * 2 ^ 28))
  ok { s with pins := { s.pins with thermTrip := trip } }

/-! ### Temperature, voltage and clocks (R497 to R499, R525, R580) -/

/-- ISL_TEMP as a number, in 0.125 °C. -/
def islTemp (s : State) (t : Nat) : Int := toSigned 16 (s.field (R.ISL_TEMP t) 15 0)

/-- A sensor reading: ISL_TEMP, and the hottest island in PWR_TEMP_MAX (R525, R531). -/
def noteTemp (s : State) (t : Nat) (temp : Int) : State :=
  let s := s.setReg (R.ISL_TEMP t) (BitVec.ofNat 32 (ofSigned 16 temp))
  let hot := (litTiles s).foldl (fun m i => max m (islTemp s i)) temp
  s.setReg R.PWR_TEMP_MAX (BitVec.ofNat 32 (ofSigned 16 hot))

/-- TJ_THROT in °C, within its range of 90 to 110 (R525). -/
def tjThrot (s : State) : Nat := max 90 (min 110 (s.field R.PWR_CTRL 30 24))

/-- Set MULT of a throttled island (R525). -/
def throttleTo (s : State) (t n : Nat) : State :=
  let s := (settleCycles s t).setField (R.ISL_CTRL t) 29 24 n
  s.modPower fun p => { p with multAt := mset t s.now p.multAt }

/-- THROTTLED follows the islands whose MULT is reduced. -/
def throttled (s : State) : State := s.setField R.PWR_STAT 25 25 (b2n (!s.power.mult.isEmpty))

/-- MULT of a hot island falls by 1 every 1 ms, down to 10. -/
def throttleDown (s : State) (t : Nat) : State :=
  let s := s.modPower fun p => { p with
    mult := if mhas p.mult t then p.mult else mset t (clkMult s t) p.mult, raising := p.raising.filter (· != t) }
  let s := throttled (s.orReg R.PWR_EVT 2)
  if clkMult s t = 10 ∨ s.now < mgetD 0 s.power.multAt t + 1000000 then s else throttleTo s t (clkMult s t - 1)

/-- MULT of an island that has cooled rises by 1 every 10 ms, up to the configured value. -/
def throttleUp (s : State) (t n : Nat) : State :=
  let s := s.modPower fun p => { p with raising := if p.raising.contains t then p.raising else t :: p.raising }
  let s := if s.now < mgetD 0 s.power.multAt t + 10000000 then s else throttleTo s t (min n (clkMult s t + 1))
  if n ≤ clkMult s t then
    throttled (s.modPower fun p => { p with mult := mdel t p.mult, raising := p.raising.filter (· != t) })
  else s

/-- THROTTLE_STEP (R525): a reading of a tile's sensor. -/
def execThrottleStep (tile : Nat) (temp : Int) (s : State) : Host.Outcome State Fault Refusal :=
  if !tilePresent s.part tile || (s.island tile).st == .off then ok s
  else
    let s := noteTemp s tile temp
    let hot := decide ((tjThrot s * 8 : Nat) ≤ temp)
    match mget tile s.power.mult with
    | none => ok (if hot then throttleDown s tile else s)
    | some n =>
      let cool := decide (temp < ((tjThrot s - 3) * 8 : Nat))
      if hot || (!cool && !s.power.raising.contains tile) then ok (throttleDown s tile) else ok (throttleUp s tile n)

/-- AVS_UPDATE (R498): the code that the speed monitor asks for, at most 4 codes away every 1 ms, within VMIN to VMAX. -/
def execAvsUpdate (tile code : Nat) (s : State) : Host.Outcome State Fault Refusal :=
  if tilePresent s.part tile && tileRun s tile && s.flag (R.ISL_CTRL tile) 31
      && decide (mgetD 0 s.power.avsAt tile + 1000000 ≤ s.now) then
    let cur := s.field (R.ISL_VOLT tile) 7 0
    let near := max (cur - 4) (min (cur + 4) code)
    let v := min 140 (max (s.field (R.ISL_AVS tile) 7 0) (min (s.field (R.ISL_AVS tile) 23 16) near))
    ok ((s.setReg (R.ISL_VOLT tile) (BitVec.ofNat 32 v)).modPower fun p => { p with avsAt := mset tile s.now p.avsAt })
  else ok s

/-- CLOCK_STRETCH (R499): cycles stretched in a droop of the island's own supply. -/
def execClockStretch (tile cycles : Nat) (s : State) : Host.Outcome State Fault Refusal :=
  if tilePresent s.part tile && tileRun s tile then ok (s.count (R.ISL_STRETCH tile) cycles) else ok s

/-- RETENTION_MONITOR_LATCH (R497, R388): a supply below 0.460 V in KEEP. -/
def execRetentionMonitorLatch (island mv : Nat) (s : State) : Host.Outcome State Fault Refusal :=
  if decide (mv < 460) && tilePresent s.part island && (s.island island).st == .keep then
    ok (s.setField (R.ISL_STAT island) 28 28 1)
  else ok s

/-- THERMTRIP (R525, R580): 120 °C on any island holds the device in reset. -/
def execThermtrip (island : Nat) (temp : Int) (s : State) : Host.Outcome State Fault Refusal :=
  if islandPresent s island && decide (960 ≤ temp) then
    let s := devReset s (BitVec.ofNat 32 (2 ^ 28))
    ok { s with pins := { s.pins with thermTrip := true } }
  else ok s

/-! ### PMBus (R526 to R529) -/

/-- The entry is enabled: it was loaded at boot. -/
def pmbOn (s : State) (e : Nat) : Bool := decide (e < 16) && mhas s.power.pmb e
/-- The entry is marked ABSENT. -/
def pmbAbsent (s : State) (e : Nat) : Bool := s.flag (R.PWR_PMB_STAT e) 31
/-- Change a converter entry. -/
def modPmb (s : State) (e : Nat) (f : PmbEntry → PmbEntry) : State :=
  match mget e s.power.pmb with
  | some x => s.modPower fun p => { p with pmb := mset e (f x) p.pmb }
  | none => s

/-- A STATUS_WORD: its fault bits are flagged, and a word that is new is recorded (R527). -/
def pmbStatus (s : State) (e word : Nat) : State :=
  let old := s.field (R.PWR_PMB_STAT e) 15 0
  let s := s.setReg (R.PWR_PMB_STAT e) (BitVec.ofNat 32 (b2n (word % 65536 != 0) * 2 ^ 30 + word % 65536))
  if word % 65536 = 0 then s
  else
    let s := s.orReg R.PWR_EVT 5
    if old = word % 65536 then s else powerRecord s 9 (e * 65536 + word % 65536)

/-- A poll of an entry that answers. -/
def pmbRead (s : State) (e : Nat) (r : PmbReading) : State :=
  pmbStatus (modPmb s e fun x => { x with nacks := 0, polledAt := s.now, vout := r.vout % 65536, iout := r.iout % 65536,
                                          temp := r.temp % 65536 }) e r.status

/-- A NACK or PEC error: the third in succession marks the entry ABSENT (R527). -/
def pmbNack (s : State) (e : Nat) : State :=
  let n := ((mget e s.power.pmb).map PmbEntry.nacks).getD 0 + 1
  let s := modPmb s e fun x => { x with nacks := n, polledAt := s.now }
  if 3 ≤ n then (s.setField (R.PWR_PMB_STAT e) 31 31 1).orReg R.PWR_EVT 6 else s

/-- An entry is polled after an interval in ns. -/
def pmbPoll (s : State) (e every : Nat) (ans : Option PmbReading) : State :=
  let at_ := ((mget e s.power.pmb).map PmbEntry.polledAt).getD 0
  if s.now < at_ + every then s
  else match ans with
    | some r => pmbRead s e r
    | none => pmbNack s e

/-- PMBUS_POLL (R527): every enabled entry once every 10 ms. -/
def execPmbusPoll (entry : Nat) (ans : Option PmbReading) (s : State) : Host.Outcome State Fault Refusal :=
  if pmbOn s entry && !pmbAbsent s entry then ok (pmbPoll s entry 10000000 ans) else ok s

/-- PMBUS_ABSENT_POLL (R527): an ABSENT entry once per second until it answers. -/
def execPmbusAbsentPoll (entry : Nat) (ans : Option PmbReading) (s : State) : Host.Outcome State Fault Refusal :=
  if pmbOn s entry && pmbAbsent s entry then ok (pmbPoll s entry 1000000000 ans) else ok s

/-- PMBUS_ALERT (R527): STATUS_WORD of every entry, as (entry, word). -/
def execPmbusAlert (words : List (Nat × Nat)) (s : State) : Host.Outcome State Fault Refusal :=
  ok (words.foldl (fun s x => if pmbOn s x.1 && !pmbAbsent s x.1 then pmbStatus s x.1 x.2 else s) s)

/-- The setpoint of an entry moves by `d` mV within NOM_MV ± 3 % (R528). -/
def trimEntry (d : Int) (s : State) (e : Nat) : State :=
  match mget e s.power.pmb with
  | none => s
  | some x =>
    let v := (clampInt (x.nom * 97 / 100 : Nat) (x.nom * 103 / 100 : Nat) ((x.set : Int) + d)).toNat
    (modPmb s e fun y => { y with set := v }).emit (.pmbus e 0x21 v)

/-- Entries with ROLE VIN_CORE and TRIM set (R528). -/
def trimEntries (s : State) : List Nat :=
  (List.range 16).filter fun e => pmbOn s e && s.field (R.PWR_PMB_CFG e) 15 8 == 1 && s.flag (R.PWR_PMB_CFG e) 0

/-- PMBUS_TRIM (R528): every 10 ms VIN_CORE is brought towards 1.800 V ± 10 mV, at most 5 mV at a time. -/
def execPmbusTrim (vinMv : Nat) (s : State) : Host.Outcome State Fault Refusal :=
  if s.nvmPaused || inStill s || decide (s.now < s.power.trimAt + 10000000) then ok s
  else
    let s := (s.setReg R.PWR_VIN (BitVec.ofNat 32 (vinMv % 65536))).modPower fun p => { p with trimAt := s.now }
    let err : Int := 1800 - (vinMv : Int)
    if err.natAbs ≤ 10 then ok s
    else ok ((trimEntries s).foldl (trimEntry (clampInt (-5) 5 err)) s)

/-! ### POWER_STATUS (R530) -/

/-- Entry `e` of POWER_STATUS. -/
def pmbBytes (s : State) (e : Nat) : List Byte :=
  match mget e s.power.pmb with
  | some x => leBytes 2 x.vout ++ leBytes 2 x.iout ++ leBytes 2 x.temp ++ leBytes 2 (s.field (R.PWR_PMB_STAT e) 15 0)
  | none => leBytes 8 0

/-- The response of POWER_STATUS. -/
def powerStatusBytes (s : State) : List Byte :=
  leBytes 1 (fld (pwrStat s) 31 29) ++ leBytes 1 (s.field R.PWR_STAT 28 25) ++ leBytes 2 (s.field R.PWR_VIN 15 0)
    ++ leBytes 2 (s.field R.PWR_TEMP_MAX 15 0) ++ leBytes 2 0 ++ leBytes 4 (s.reg R.WAKE_CAUSE).toNat
    ++ leBytes 4 (s.reg R.WAKE_SRC).toNat ++ leBytes 4 (s.reg R.WAKE_T_A).toNat ++ leBytes 4 (s.reg R.WAKE_T_B).toNat
    ++ leBytes 4 (s.reg R.PWR_SUPPLY_EVT).toNat ++ leBytes 4 s.power.warnings
    ++ (List.range 9).flatMap (fun n => leBytes 4 (tstateWord s n).toNat)
    ++ (List.range 5).flatMap (fun n => leBytes 4 (s.reg (R.WAKE_FAIL n)).toNat)
    ++ (List.range 16).flatMap (pmbBytes s)

/-- POWER_STATUS (R530). -/
def execPowerStatus (m : TcsMsg) (s : State) : Host.Outcome State Fault Refusal :=
  ok (serve { opcode := 0x0502, onchip := true } m 0 (fun s => { st := .ok, payload := powerStatusBytes s, state := s }) s)

end Sys2Proof.Machine
end

