-- ==== Sys2Proof/Machine/VectorFloat.lean ====
section
/-! DEFINITION. The floating-point instructions (R281, R290). -/

namespace Sys2Proof

/-- The format of a floating-point element type. -/
def VTy.fmt : VTy → FFmt
  | .f16 => f16F | .bf16 => bf16F | _ => f32F

end Sys2Proof

namespace Sys2Proof.Machine

/-- An element-wise floating-point operation. -/
def vfbin (op : FFmt → Nat → Nat → Nat) (k : Issue) (vd va vb : Fin 32) (ty : VTy) (s : State) :
    Host.Outcome State Fault Refusal :=
  vins k ty.flt (fun x =>
    x.setV vd (pack ty.w (List.zipWith (op ty.fmt) (lanes ty.w (x.vr va)) (lanes ty.w (x.vr vb))))) s

/-- VFADD (R290). -/
def execVfadd (k : Issue) (vd va vb : Fin 32) (ty : VTy) (s : State) : Host.Outcome State Fault Refusal :=
  vfbin fadd k vd va vb ty s
/-- VFSUB. -/
def execVfsub (k : Issue) (vd va vb : Fin 32) (ty : VTy) (s : State) : Host.Outcome State Fault Refusal :=
  vfbin fsub k vd va vb ty s
/-- VFMUL. -/
def execVfmul (k : Issue) (vd va vb : Fin 32) (ty : VTy) (s : State) : Host.Outcome State Fault Refusal :=
  vfbin fmul k vd va vb ty s
/-- Three lists combined. -/
def zip3 (g : Nat → Nat → Nat → Nat) : List Nat → List Nat → List Nat → List Nat
  | a :: l, b :: m, c :: n => g a b c :: zip3 g l m n
  | _, _, _ => []
/-- VFMA: Vd + a × b, rounded once. -/
def execVfma (k : Issue) (vd va vb : Fin 32) (ty : VTy) (s : State) : Host.Outcome State Fault Refusal :=
  vins k ty.flt (fun x =>
    x.setV vd (pack ty.w (zip3 (ffma ty.fmt) (lanes ty.w (x.vr vd)) (lanes ty.w (x.vr va)) (lanes ty.w (x.vr vb))))) s
/-- VFMIN. -/
def execVfmin (k : Issue) (vd va vb : Fin 32) (ty : VTy) (s : State) : Host.Outcome State Fault Refusal :=
  vfbin fmin k vd va vb ty s
/-- VFMAX. -/
def execVfmax (k : Issue) (vd va vb : Fin 32) (ty : VTy) (s : State) : Host.Outcome State Fault Refusal :=
  vfbin fmax k vd va vb ty s
/-- VFNARROW: an f32 pair to f16 or bf16. -/
def execVfnarrow (k : Issue) (vd va : Fin 32) (ty : VTy) (s : State) : Host.Outcome State Fault Refusal :=
  vins k ((ty == .f16 || ty == .bf16) && va.val % 2 == 0) (fun x =>
    x.setV vd (pack 16 ((lanes 32 (x.vr va) ++ lanes 32 (x.vr (va.val + 1))).map (fcvt f32F ty.fmt)))) s
/-- VFWIDEN: f16 or bf16 to an f32 pair. -/
def execVfwiden (k : Issue) (vd va : Fin 32) (ty : VTy) (s : State) : Host.Outcome State Fault Refusal :=
  vins k ((ty == .f16 || ty == .bf16) && vd.val % 2 == 0) (fun x =>
    let l := (lanes 16 (x.vr va)).map (fcvt ty.fmt f32F)
    (x.setV vd (pack 32 (l.take 16))).setV (vd.val + 1) (pack 32 (l.drop 16))) s
/-- VFCVTI: f32 to i32, saturated. -/
def execVfcvti (k : Issue) (vd va : Fin 32) (ty : VTy) (s : State) : Host.Outcome State Fault Refusal :=
  vins k (ty == .f32) (fun x =>
    let r := (lanes 32 (x.vr va)).map (ftoi f32F)
    (x.setV vd (pack 32 (r.map Prod.fst))).sat (r.any Prod.snd)) s
/-- VFCVTF: i32 to f32. -/
def execVfcvtf (k : Issue) (vd va : Fin 32) (ty : VTy) (s : State) : Host.Outcome State Fault Refusal :=
  vins k (ty == .f32) (fun x => x.setV vd (pack 32 ((lanes 32 (x.vr va)).map (fromi f32F)))) s

/-! ### Scalars (F registers: R281) -/

/-- The scalar format. -/
def sfmt (dbl : Bool) : FFmt := if dbl then f64F else f32F
/-- Read F n as a scalar. -/
def fget (x : Core) (n : Nat) (dbl : Bool) : Nat := (x.vr n).toNat % (if dbl then 2 ^ 64 else 2 ^ 32)
/-- Replace bits [63:0] of V n; an f32 result clears bits [63:32] (R281). -/
def fset (x : Core) (n : Nat) (v : Nat) : Core :=
  x.setV n ((x.vr n &&& ~~~(BitVec.ofNat 512 (2 ^ 64 - 1))) ||| BitVec.ofNat 512 (v % 2 ^ 64))

/-- A scalar operation on two F registers. -/
def fbin (op : FFmt → Nat → Nat → Nat) (k : Issue) (fd fa fb : Fin 32) (dbl : Bool) (s : State) :
    Host.Outcome State Fault Refusal :=
  plain k .v false (fun x => fset x fd (op (sfmt dbl) (fget x fa dbl) (fget x fb dbl))) s

/-- FADD (R290). -/
def execFadd (k : Issue) (fd fa fb : Fin 32) (dbl : Bool) (s : State) : Host.Outcome State Fault Refusal := fbin fadd k fd fa fb dbl s
/-- FSUB. -/
def execFsub (k : Issue) (fd fa fb : Fin 32) (dbl : Bool) (s : State) : Host.Outcome State Fault Refusal := fbin fsub k fd fa fb dbl s
/-- FMUL. -/
def execFmul (k : Issue) (fd fa fb : Fin 32) (dbl : Bool) (s : State) : Host.Outcome State Fault Refusal := fbin fmul k fd fa fb dbl s
/-- FMA: Fd + Fa × Fb, rounded once. -/
def execFma (k : Issue) (fd fa fb : Fin 32) (dbl : Bool) (s : State) : Host.Outcome State Fault Refusal :=
  plain k .v false (fun x => fset x fd (ffma (sfmt dbl) (fget x fd dbl) (fget x fa dbl) (fget x fb dbl))) s
/-- FDIV. -/
def execFdiv (k : Issue) (fd fa fb : Fin 32) (dbl : Bool) (s : State) : Host.Outcome State Fault Refusal := fbin fdiv k fd fa fb dbl s
/-- FSQRT. -/
def execFsqrt (k : Issue) (fd fa : Fin 32) (dbl : Bool) (s : State) : Host.Outcome State Fault Refusal :=
  plain k .v false (fun x => fset x fd (fsqrt (sfmt dbl) (fget x fa dbl))) s
/-- FMIN. -/
def execFmin (k : Issue) (fd fa fb : Fin 32) (dbl : Bool) (s : State) : Host.Outcome State Fault Refusal := fbin fmin k fd fa fb dbl s
/-- FMAX. -/
def execFmax (k : Issue) (fd fa fb : Fin 32) (dbl : Bool) (s : State) : Host.Outcome State Fault Refusal := fbin fmax k fd fa fb dbl s
/-- FCVT: to the type field, from the other of f32 and f64. -/
def execFcvt (k : Issue) (fd fa : Fin 32) (dbl : Bool) (s : State) : Host.Outcome State Fault Refusal :=
  plain k .v false (fun x => fset x fd (fcvt (sfmt !dbl) (sfmt dbl) (fget x fa !dbl))) s
/-- FCVTI: to i32, saturated; a NaN gives 0. -/
def execFcvti (k : Issue) (gd fa : Fin 32) (dbl : Bool) (s : State) : Host.Outcome State Fault Refusal :=
  plain k .v false (fun x =>
    let r := ftoi (sfmt dbl) (fget x fa dbl); (x.setG gd (BitVec.ofNat 32 r.1)).sat r.2) s
/-- FCVTF: from i32. -/
def execFcvtf (k : Issue) (fd ga : Fin 32) (dbl : Bool) (s : State) : Host.Outcome State Fault Refusal :=
  plain k .v false (fun x => fset x fd (fromi (sfmt dbl) (x.gr ga).toNat)) s
/-- FMOVG: a half of Fa to Gd. -/
def execFmovg (k : Issue) (gd fa : Fin 32) (half : Bool) (s : State) : Host.Outcome State Fault Refusal :=
  plain k .v false (fun x => x.setG gd (BitVec.ofNat 32 (if half then fget x fa true >>> 32 else fget x fa false))) s
/-- FMOVF: Ga to a half of Fd; the other bits stay. -/
def execFmovf (k : Issue) (fd ga : Fin 32) (half : Bool) (s : State) : Host.Outcome State Fault Refusal :=
  plain k .v false (fun x =>
    let v := fget x fd true
    fset x fd (if half then v % 2 ^ 32 + (x.gr ga).toNat * 2 ^ 32 else v / 2 ^ 32 * 2 ^ 32 + (x.gr ga).toNat)) s
/-- FCMPG: 1 less, 2 equal, 4 greater, 8 unordered. -/
def execFcmpg (k : Issue) (gd fa fb : Fin 32) (dbl : Bool) (s : State) : Host.Outcome State Fault Refusal :=
  plain k .v false (fun x => x.setG gd (BitVec.ofNat 32 (fcmp (sfmt dbl) (fget x fa dbl) (fget x fb dbl)))) s

end Sys2Proof.Machine
end

