-- ==== Sys2Proof/Machine/Dispatch.lean ====
section
/-! DEFINITION. The meaning of every command, one arm per constructor. -/

namespace Sys2Proof.Machine

def exec (i : Instr) (s : State) : Host.Outcome State Fault Refusal :=
  match i with
  | .add_ k gd ga gb f => Sys2Proof.Machine.execAdd_ k gd ga gb f s
  | .sub_ k gd ga gb f => Sys2Proof.Machine.execSub_ k gd ga gb f s
  | .and_ k gd ga gb f => Sys2Proof.Machine.execAnd_ k gd ga gb f s
  | .or_ k gd ga gb f => Sys2Proof.Machine.execOr_ k gd ga gb f s
  | .xor_ k gd ga gb f => Sys2Proof.Machine.execXor_ k gd ga gb f s
  | .andn k gd ga gb f => Sys2Proof.Machine.execAndn k gd ga gb f s
  | .shl k gd ga gb f => Sys2Proof.Machine.execShl k gd ga gb f s
  | .shr k gd ga gb f => Sys2Proof.Machine.execShr k gd ga gb f s
  | .sar k gd ga gb f => Sys2Proof.Machine.execSar k gd ga gb f s
  | .ror k gd ga gb f => Sys2Proof.Machine.execRor k gd ga gb f s
  | .div_ k gd ga gb f => Sys2Proof.Machine.execDiv_ k gd ga gb f s
  | .divu k gd ga gb f => Sys2Proof.Machine.execDivu k gd ga gb f s
  | .neg k gd ga f => Sys2Proof.Machine.execNeg k gd ga f s
  | .abs_ k gd ga f => Sys2Proof.Machine.execAbs_ k gd ga f s
  | .shli k gd ga sh f => Sys2Proof.Machine.execShli k gd ga sh f s
  | .shri k gd ga sh f => Sys2Proof.Machine.execShri k gd ga sh f s
  | .sari k gd ga sh f => Sys2Proof.Machine.execSari k gd ga sh f s
  | .rori k gd ga sh f => Sys2Proof.Machine.execRori k gd ga sh f s
  | .clz k gd ga => Sys2Proof.Machine.execClz k gd ga s
  | .popc k gd ga => Sys2Proof.Machine.execPopc k gd ga s
  | .brev k gd ga => Sys2Proof.Machine.execBrev k gd ga s
  | .mul k gd ga gb => Sys2Proof.Machine.execMul k gd ga gb s
  | .mulh k gd ga gb => Sys2Proof.Machine.execMulh k gd ga gb s
  | .mulhu k gd ga gb => Sys2Proof.Machine.execMulhu k gd ga gb s
  | .adds k gd ga gb => Sys2Proof.Machine.execAdds k gd ga gb s
  | .subs k gd ga gb => Sys2Proof.Machine.execSubs k gd ga gb s
  | .min_ k gd ga gb => Sys2Proof.Machine.execMin_ k gd ga gb s
  | .max_ k gd ga gb => Sys2Proof.Machine.execMax_ k gd ga gb s
  | .minu k gd ga gb => Sys2Proof.Machine.execMinu k gd ga gb s
  | .maxu k gd ga gb => Sys2Proof.Machine.execMaxu k gd ga gb s
  | .sel k gd ga gb => Sys2Proof.Machine.execSel k gd ga gb s
  | .cmp k ga gb => Sys2Proof.Machine.execCmp k ga gb s
  | .tst k ga gb => Sys2Proof.Machine.execTst k ga gb s
  | .movx k dst di src si half => Sys2Proof.Machine.execMovx k dst di src si half s
  | .addi k gd ga imm => Sys2Proof.Machine.execAddi k gd ga imm s
  | .andi k gd ga imm => Sys2Proof.Machine.execAndi k gd ga imm s
  | .ori k gd ga imm => Sys2Proof.Machine.execOri k gd ga imm s
  | .xori k gd ga imm => Sys2Proof.Machine.execXori k gd ga imm s
  | .movhi k gd imm => Sys2Proof.Machine.execMovhi k gd imm s
  | .cmpi k ga imm => Sys2Proof.Machine.execCmpi k ga imm s
  | .aaddi k an imm => Sys2Proof.Machine.execAaddi k an imm s
  | .longPrefix k ext => Sys2Proof.Machine.execLongPrefix k ext s
  | .ld k gd a size sx => Sys2Proof.Machine.execLd k gd a size sx s
  | .st k gs a size => Sys2Proof.Machine.execSt k gs a size s
  | .lda k f n a => Sys2Proof.Machine.execLda k f n a s
  | .sta k f n a => Sys2Proof.Machine.execSta k f n a s
  | .ldxy k gx gy ax ay mx my => Sys2Proof.Machine.execLdxy k gx gy ax ay mx my s
  | .vld k vd a => Sys2Proof.Machine.execVld k vd a s
  | .vst k vs a => Sys2Proof.Machine.execVst k vs a s
  | .loadDataReturn tile core => Sys2Proof.Machine.execLoadDataReturn tile core s
  | .runaheadEnter tile core prefetches => Sys2Proof.Machine.execRunaheadEnter tile core prefetches s
  | .runaheadExit tile core => Sys2Proof.Machine.execRunaheadExit tile core s
  | .postedStoreAck tile core n => Sys2Proof.Machine.execPostedStoreAck tile core n s
  | .cmac k n ga gb => Sys2Proof.Machine.execCmac k n ga gb s
  | .cmacj k n ga gb => Sys2Proof.Machine.execCmacj k n ga gb s
  | .cmsu k n ga gb => Sys2Proof.Machine.execCmsu k n ga gb s
  | .cmul k n ga gb => Sys2Proof.Machine.execCmul k n ga gb s
  | .fir4 k n ga gb gc hi => Sys2Proof.Machine.execFir4 k n ga gb gc hi s
  | .staccC k gd n rs => Sys2Proof.Machine.execStaccC k gd n rs s
  | .staccRe k gd n rs => Sys2Proof.Machine.execStaccRe k gd n rs s
  | .staccIm k gd n rs => Sys2Proof.Machine.execStaccIm k gd n rs s
  | .staccCz k gd n rs => Sys2Proof.Machine.execStaccCz k gd n rs s
  | .accclr k n => Sys2Proof.Machine.execAccclr k n s
  | .accld k n ga gb => Sys2Proof.Machine.execAccld k n ga gb s
  | .accadd k n m => Sys2Proof.Machine.execAccadd k n m s
  | .bCond k cond disp => Sys2Proof.Machine.execBCond k cond disp s
  | .call k disp => Sys2Proof.Machine.execCall k disp s
  | .jr k an => Sys2Proof.Machine.execJr k an s
  | .jalr k an => Sys2Proof.Machine.execJalr k an s
  | .ret k => Sys2Proof.Machine.execRet k s
  | .rep k n => Sys2Proof.Machine.execRep k n s
  | .dbnz k ga disp => Sys2Proof.Machine.execDbnz k ga disp s
  | .movc k toReg g creg => Sys2Proof.Machine.execMovc k toReg g creg s
  | .nop k => Sys2Proof.Machine.execNop k s
  | .tend k => Sys2Proof.Machine.execTend k s
  | .break_ k => Sys2Proof.Machine.execBreak_ k s
  | .rte k => Sys2Proof.Machine.execRte k s
  | .fence k => Sys2Proof.Machine.execFence k s
  | .wait k => Sys2Proof.Machine.execWait k s
  | .dcinvall k => Sys2Proof.Machine.execDcinvall k s
  | .icinv k => Sys2Proof.Machine.execIcinv k s
  | .tterm k => Sys2Proof.Machine.execTterm k s
  | .trap k imm => Sys2Proof.Machine.execTrap k imm s
  | .dcinv k an => Sys2Proof.Machine.execDcinv k an s
  | .tendComplete tile core => Sys2Proof.Machine.execTendComplete tile core s
  | .illegal k => Sys2Proof.Machine.execIllegal k s
  | .asyncException tile core => Sys2Proof.Machine.execAsyncException tile core s
  | .coreTimer tile core => Sys2Proof.Machine.execCoreTimer tile core s
  | .coreWaitTimeout tile core => Sys2Proof.Machine.execCoreWaitTimeout tile core s
  | .deadlineHard tile core => Sys2Proof.Machine.execDeadlineHard tile core s
  | .vadd k vd va vb ty mode => Sys2Proof.Machine.execVadd k vd va vb ty mode s
  | .vsub k vd va vb ty mode => Sys2Proof.Machine.execVsub k vd va vb ty mode s
  | .vavg k vd va vb ty mode => Sys2Proof.Machine.execVavg k vd va vb ty mode s
  | .vmin k vd va vb ty mode => Sys2Proof.Machine.execVmin k vd va vb ty mode s
  | .vmax k vd va vb ty mode => Sys2Proof.Machine.execVmax k vd va vb ty mode s
  | .vand k vd va vb ty mode => Sys2Proof.Machine.execVand k vd va vb ty mode s
  | .vor k vd va vb ty mode => Sys2Proof.Machine.execVor k vd va vb ty mode s
  | .vxor k vd va vb ty mode => Sys2Proof.Machine.execVxor k vd va vb ty mode s
  | .vandn k vd va vb ty mode => Sys2Proof.Machine.execVandn k vd va vb ty mode s
  | .vcmpeq k vd va vb ty mode => Sys2Proof.Machine.execVcmpeq k vd va vb ty mode s
  | .vcmplt k vd va vb ty mode => Sys2Proof.Machine.execVcmplt k vd va vb ty mode s
  | .vsel k vd va vb ty mode => Sys2Proof.Machine.execVsel k vd va vb ty mode s
  | .vmul k vd va vb ty mode => Sys2Proof.Machine.execVmul k vd va vb ty mode s
  | .vmulhr k vd va vb ty mode => Sys2Proof.Machine.execVmulhr k vd va vb ty mode s
  | .vcmul k vd va vb ty mode => Sys2Proof.Machine.execVcmul k vd va vb ty mode s
  | .vcmulj k vd va vb ty mode => Sys2Proof.Machine.execVcmulj k vd va vb ty mode s
  | .vmacw k vd va vb ty mode => Sys2Proof.Machine.execVmacw k vd va vb ty mode s
  | .vmsuw k vd va vb ty mode => Sys2Proof.Machine.execVmsuw k vd va vb ty mode s
  | .vcmacw k vd va vb ty mode => Sys2Proof.Machine.execVcmacw k vd va vb ty mode s
  | .vcmacjw k vd va vb ty mode => Sys2Proof.Machine.execVcmacjw k vd va vb ty mode s
  | .vcmsuw k vd va vb ty mode => Sys2Proof.Machine.execVcmsuw k vd va vb ty mode s
  | .vcmacws k vd va vb ty mode => Sys2Proof.Machine.execVcmacws k vd va vb ty mode s
  | .vneg k vd va ty mode => Sys2Proof.Machine.execVneg k vd va ty mode s
  | .vabs k vd va ty mode => Sys2Proof.Machine.execVabs k vd va ty mode s
  | .vconj k vd va ty mode => Sys2Proof.Machine.execVconj k vd va ty mode s
  | .vrotj k vd va ty mode => Sys2Proof.Machine.execVrotj k vd va ty mode s
  | .vrsumw k vd va ty mode => Sys2Proof.Machine.execVrsumw k vd va ty mode s
  | .vshli k vd va sh ty mode => Sys2Proof.Machine.execVshli k vd va sh ty mode s
  | .vsari k vd va sh ty mode => Sys2Proof.Machine.execVsari k vd va sh ty mode s
  | .vshri k vd va sh ty mode => Sys2Proof.Machine.execVshri k vd va sh ty mode s
  | .vnarrow k vd va sh ty mode => Sys2Proof.Machine.execVnarrow k vd va sh ty mode s
  | .vwiden k vd va sh ty mode => Sys2Proof.Machine.execVwiden k vd va sh ty mode s
  | .vdup k vd ga ty => Sys2Proof.Machine.execVdup k vd ga ty s
  | .vext k vd va n ty => Sys2Proof.Machine.execVext k vd va n ty s
  | .vpermx k vd va vb ty => Sys2Proof.Machine.execVpermx k vd va vb ty s
  | .vrev k vd va ty => Sys2Proof.Machine.execVrev k vd va ty s
  | .vmovg k gd va n ty => Sys2Proof.Machine.execVmovg k gd va n ty s
  | .vins k vd ga n ty => Sys2Proof.Machine.execVins k vd ga n ty s
  | .vfadd k vd va vb ty => Sys2Proof.Machine.execVfadd k vd va vb ty s
  | .vfsub k vd va vb ty => Sys2Proof.Machine.execVfsub k vd va vb ty s
  | .vfmul k vd va vb ty => Sys2Proof.Machine.execVfmul k vd va vb ty s
  | .vfma k vd va vb ty => Sys2Proof.Machine.execVfma k vd va vb ty s
  | .vfmin k vd va vb ty => Sys2Proof.Machine.execVfmin k vd va vb ty s
  | .vfmax k vd va vb ty => Sys2Proof.Machine.execVfmax k vd va vb ty s
  | .vfnarrow k vd va ty => Sys2Proof.Machine.execVfnarrow k vd va ty s
  | .vfwiden k vd va ty => Sys2Proof.Machine.execVfwiden k vd va ty s
  | .vfcvti k vd va ty => Sys2Proof.Machine.execVfcvti k vd va ty s
  | .vfcvtf k vd va ty => Sys2Proof.Machine.execVfcvtf k vd va ty s
  | .fadd k fd fa fb dbl => Sys2Proof.Machine.execFadd k fd fa fb dbl s
  | .fsub k fd fa fb dbl => Sys2Proof.Machine.execFsub k fd fa fb dbl s
  | .fmul k fd fa fb dbl => Sys2Proof.Machine.execFmul k fd fa fb dbl s
  | .fma k fd fa fb dbl => Sys2Proof.Machine.execFma k fd fa fb dbl s
  | .fdiv k fd fa fb dbl => Sys2Proof.Machine.execFdiv k fd fa fb dbl s
  | .fmin k fd fa fb dbl => Sys2Proof.Machine.execFmin k fd fa fb dbl s
  | .fmax k fd fa fb dbl => Sys2Proof.Machine.execFmax k fd fa fb dbl s
  | .fsqrt k fd fa dbl => Sys2Proof.Machine.execFsqrt k fd fa dbl s
  | .fcvt k fd fa dbl => Sys2Proof.Machine.execFcvt k fd fa dbl s
  | .fcvti k gd fa dbl => Sys2Proof.Machine.execFcvti k gd fa dbl s
  | .fcvtf k fd ga dbl => Sys2Proof.Machine.execFcvtf k fd ga dbl s
  | .fmovg k gd fa half => Sys2Proof.Machine.execFmovg k gd fa half s
  | .fmovf k fd ga half => Sys2Proof.Machine.execFmovf k fd ga half s
  | .fcmpg k gd fa fb dbl => Sys2Proof.Machine.execFcmpg k gd fa fb dbl s
  | .vgather k vd an va ty scale => Sys2Proof.Machine.execVgather k vd an va ty scale s
  | .vscatter k vs an va ty scale => Sys2Proof.Machine.execVscatter k vs an va ty scale s
  | .mbxNoticeRetry mailbox => Sys2Proof.Machine.execMbxNoticeRetry mailbox s
  | .cqtest k tag => Sys2Proof.Machine.execCqtest k tag s
  | .cqstat k gd half => Sys2Proof.Machine.execCqstat k gd half s
  | .accJob k an ga tag target => Sys2Proof.Machine.execAccJob k an ga tag target s
  | .helper k an ga tag => Sys2Proof.Machine.execHelper k an ga tag s
  | .qPush k an ga tag => Sys2Proof.Machine.execQPush k an ga tag s
  | .qPop k an ga tag => Sys2Proof.Machine.execQPop k an ga tag s
  | .jobAbort k an ga tag => Sys2Proof.Machine.execJobAbort k an ga tag s
  | .commit tile core tag => Sys2Proof.Machine.execCommit tile core tag s
  | .cancel tile core tag => Sys2Proof.Machine.execCancel tile core tag s
  | .cancelAck tile core tag => Sys2Proof.Machine.execCancelAck tile core tag s
  | .cqResultArrive tile core tag => Sys2Proof.Machine.execCqResultArrive tile core tag s
  | .accCqArrive tile core tag => Sys2Proof.Machine.execAccCqArrive tile core tag s
  | .accJobStart tile ref => Sys2Proof.Machine.execAccJobStart tile ref s
  | .accJobComplete tile ref => Sys2Proof.Machine.execAccJobComplete tile ref s
  | .accWatchdog tile ref => Sys2Proof.Machine.execAccWatchdog tile ref s
  | .accAbort tile desc => Sys2Proof.Machine.execAccAbort tile desc s
  | .cmatmul tile ref => Sys2Proof.Machine.execCmatmul tile ref s
  | .cmatmulh tile ref => Sys2Proof.Machine.execCmatmulh tile ref s
  | .cgram tile ref => Sys2Proof.Machine.execCgram tile ref s
  | .ccholsolve tile ref => Sys2Proof.Machine.execCcholsolve tile ref s
  | .fftFwd tile ref => Sys2Proof.Machine.execFftFwd tile ref s
  | .fftInv tile ref => Sys2Proof.Machine.execFftInv tile ref s
  | .feedcorr tile ref => Sys2Proof.Machine.execFeedcorr tile ref s
  | .chest tile ref => Sys2Proof.Machine.execChest tile ref s
  | .combine tile ref => Sys2Proof.Machine.execCombine tile ref s
  | .detect tile ref => Sys2Proof.Machine.execDetect tile ref s
  | .demap tile ref => Sys2Proof.Machine.execDemap tile ref s
  | .precode tile ref => Sys2Proof.Machine.execPrecode tile ref s
  | .ldpcDec tile ref => Sys2Proof.Machine.execLdpcDec tile ref s
  | .ldpcEnc tile ref => Sys2Proof.Machine.execLdpcEnc tile ref s
  | .polarDec tile ref => Sys2Proof.Machine.execPolarDec tile ref s
  | .polarEnc tile ref => Sys2Proof.Machine.execPolarEnc tile ref s
  | .turboDec tile ref => Sys2Proof.Machine.execTurboDec tile ref s
  | .turboEnc tile ref => Sys2Proof.Machine.execTurboEnc tile ref s
  | .convDec tile ref => Sys2Proof.Machine.execConvDec tile ref s
  | .convEnc tile ref => Sys2Proof.Machine.execConvEnc tile ref s
  | .gmskMlse tile ref => Sys2Proof.Machine.execGmskMlse tile ref s
  | .gmskMod tile ref => Sys2Proof.Machine.execGmskMod tile ref s
  | .prachSearch tile ref peaks => Sys2Proof.Machine.execPrachSearch tile ref peaks s
  | .rachSearch tile ref peaks => Sys2Proof.Machine.execRachSearch tile ref peaks s
  | .prachWindowClose tile ref => Sys2Proof.Machine.execPrachWindowClose tile ref s
  | .reg64LowRead r addr => Sys2Proof.Machine.execReg64LowRead r addr s
  | .reg64LowWrite r addr value => Sys2Proof.Machine.execReg64LowWrite r addr value s
  | .reg64HighWrite r addr value => Sys2Proof.Machine.execReg64HighWrite r addr value s
  | .cpWrite r addr value => Sys2Proof.Machine.execCpWrite r addr value s
  | .cpPairTimeout addr => Sys2Proof.Machine.execCpPairTimeout addr s
  | .rcRead r addr => Sys2Proof.Machine.execRcRead r addr s
  | .registerWrite r addr size value => Sys2Proof.Machine.execRegisterWrite r addr size value s
  | .corridorSetCreate m corridor margin rest => Sys2Proof.Machine.execCorridorSetCreate m corridor margin rest s
  | .corridorSetModify m corridor margin rest => Sys2Proof.Machine.execCorridorSetModify m corridor margin rest s
  | .corridorSetDelete m corridor rest => Sys2Proof.Machine.execCorridorSetDelete m corridor rest s
  | .ruSet m b rest => Sys2Proof.Machine.execRuSet m b rest s
  | .ruRemove m ru rest => Sys2Proof.Machine.execRuRemove m ru rest s
  | .carrierSet m b rest => Sys2Proof.Machine.execCarrierSet m b rest s
  | .carrierRemove m scope sindex carrier rest => Sys2Proof.Machine.execCarrierRemove m scope sindex carrier rest s
  | .carrierInstSetTxEn m carrier ru value valueC rest => Sys2Proof.Machine.execCarrierInstSetTxEn m carrier ru value valueC rest s
  | .carrierInstSetPwrLimit m carrier ru value valueC rest => Sys2Proof.Machine.execCarrierInstSetPwrLimit m carrier ru value valueC rest s
  | .carrierInstSetCompw m carrier ru value valueC rest => Sys2Proof.Machine.execCarrierInstSetCompw m carrier ru value valueC rest s
  | .carrierInstSetPortmaskLo m carrier ru value valueC rest => Sys2Proof.Machine.execCarrierInstSetPortmaskLo m carrier ru value valueC rest s
  | .carrierInstSetPortmaskHi m carrier ru value valueC rest => Sys2Proof.Machine.execCarrierInstSetPortmaskHi m carrier ru value valueC rest s
  | .staticCellSetGroup m corridor carrier first count rest => Sys2Proof.Machine.execStaticCellSetGroup m corridor carrier first count rest s
  | .staticCellSetUngroup m corridor carrier first count rest => Sys2Proof.Machine.execStaticCellSetUngroup m corridor carrier first count rest s
  | .stationCellSet m station maxUl maxDl rest => Sys2Proof.Machine.execStationCellSet m station maxUl maxDl rest s
  | .stationCellSetDelete m station rest => Sys2Proof.Machine.execStationCellSetDelete m station rest s
  | .peerSet m b => Sys2Proof.Machine.execPeerSet m b s
  | .peerSetClear m corridor endHi => Sys2Proof.Machine.execPeerSetClear m corridor endHi s
  | .configRead m what index index2 => Sys2Proof.Machine.execConfigRead m what index index2 s
  | .settingEffect scope sindex carrier => Sys2Proof.Machine.execSettingEffect scope sindex carrier s
  | .compressionWidthLower ru carrier => Sys2Proof.Machine.execCompressionWidthLower ru carrier s
  | .carrierInstanceSuspend ru carrier => Sys2Proof.Machine.execCarrierInstanceSuspend ru carrier s
  | .netConfigSetPortAddr m index value rest => Sys2Proof.Machine.execNetConfigSetPortAddr m index value rest s
  | .netConfigSetPortGw m index value rest => Sys2Proof.Machine.execNetConfigSetPortGw m index value rest s
  | .netConfigSetPortVlan m index value rest => Sys2Proof.Machine.execNetConfigSetPortVlan m index value rest s
  | .netConfigSetPortMode m index value rest => Sys2Proof.Machine.execNetConfigSetPortMode m index value rest s
  | .netConfigSetLaneTx m index value rest => Sys2Proof.Machine.execNetConfigSetLaneTx m index value rest s
  | .netConfigSetBhEgress m index value rest => Sys2Proof.Machine.execNetConfigSetBhEgress m index value rest s
  | .netConfigSetBhIngress m index value rest => Sys2Proof.Machine.execNetConfigSetBhIngress m index value rest s
  | .netConfigSetSpur m index value rest => Sys2Proof.Machine.execNetConfigSetSpur m index value rest s
  | .netConfigSetWake m value rest => Sys2Proof.Machine.execNetConfigSetWake m value rest s
  | .netConfigSetParisonRu m entry value rest => Sys2Proof.Machine.execNetConfigSetParisonRu m entry value rest s
  | .sessionHello m slot hostNonce encKey => Sys2Proof.Machine.execSessionHello m slot hostNonce encKey s
  | .sessionConfirm m sigOk => Sys2Proof.Machine.execSessionConfirm m sigOk s
  | .sessionClose m => Sys2Proof.Machine.execSessionClose m s
  | .keepalive m => Sys2Proof.Machine.execKeepalive m s
  | .sessionPendingTimeout port => Sys2Proof.Machine.execSessionPendingTimeout port s
  | .sessionIdleTimeout port => Sys2Proof.Machine.execSessionIdleTimeout port s
  | .opAbort m mbx seq => Sys2Proof.Machine.execOpAbort m mbx seq s
  | .eventFetch m start count => Sys2Proof.Machine.execEventFetch m start count s
  | .semAcquire m sem leaseMs => Sys2Proof.Machine.execSemAcquire m sem leaseMs s
  | .semRenew m sem leaseMs => Sys2Proof.Machine.execSemRenew m sem leaseMs s
  | .semRelease m sem => Sys2Proof.Machine.execSemRelease m sem s
  | .semQuery m mask => Sys2Proof.Machine.execSemQuery m mask s
  | .semBreak m sem => Sys2Proof.Machine.execSemBreak m sem s
  | .leaseExpired sem => Sys2Proof.Machine.execLeaseExpired sem s
  | .devInfo m => Sys2Proof.Machine.execDevInfo m s
  | .countersRead m group clear index => Sys2Proof.Machine.execCountersRead m group clear index s
  | .counterTotalPoll => Sys2Proof.Machine.execCounterTotalPoll s
  | .mbxAlloc r => Sys2Proof.Machine.execMbxAlloc r s
  | .mbxSubmit r n => Sys2Proof.Machine.execMbxSubmit r n s
  | .mbxAbort r n => Sys2Proof.Machine.execMbxAbort r n s
  | .mbxFree r n value => Sys2Proof.Machine.execMbxFree r n value s
  | .mbxComplete n => Sys2Proof.Machine.execMbxComplete n s
  | .reservedOpcode m opcode => Sys2Proof.Machine.execReservedOpcode m opcode s
  | .ethFrameReceive iot port f => Sys2Proof.Machine.execEthFrameReceive iot port f s
  | .rxWindowClose ru carrier frame slot symbol => Sys2Proof.Machine.execRxWindowClose ru carrier frame slot symbol s
  | .fhDelayMeasure iot port delays => Sys2Proof.Machine.execFhDelayMeasure iot port delays s
  | .runBoundary run ms => Sys2Proof.Machine.execRunBoundary run ms s
  | .seekTimeout run => Sys2Proof.Machine.execSeekTimeout run s
  | .coastEnter run => Sys2Proof.Machine.execCoastEnter run s
  | .coastLimitExpiry run => Sys2Proof.Machine.execCoastLimitExpiry run s
  | .loopSatSet run pos => Sys2Proof.Machine.execLoopSatSet run pos s
  | .loopSatClear run pos => Sys2Proof.Machine.execLoopSatClear run pos s
  | .runPosition m run speedValid accuracy chainage speed tFix => Sys2Proof.Machine.execRunPosition m run speedValid accuracy chainage speed tFix s
  | .runCreate m b => Sys2Proof.Machine.execRunCreate m b s
  | .runEnd m run => Sys2Proof.Machine.execRunEnd m run s
  | .runRead m run => Sys2Proof.Machine.execRunRead m run s
  | .runExport m run => Sys2Proof.Machine.execRunExport m run s
  | .gafferPairRewrite run => Sys2Proof.Machine.execGafferPairRewrite run s
  | .peerHello m idOk sigOk => Sys2Proof.Machine.execPeerHello m idOk sigOk s
  | .peerHelloResponse corridor hiEnd session payload authOk => Sys2Proof.Machine.execPeerHelloResponse corridor hiEnd session payload authOk s
  | .peerConfirm m => Sys2Proof.Machine.execPeerConfirm m s
  | .peerConfirmResponse corridor hiEnd m status => Sys2Proof.Machine.execPeerConfirmResponse corridor hiEnd m status s
  | .peerKeepalive m => Sys2Proof.Machine.execPeerKeepalive m s
  | .peerKeepaliveSend corridor hiEnd => Sys2Proof.Machine.execPeerKeepaliveSend corridor hiEnd s
  | .peerSessionTimeout corridor hiEnd => Sys2Proof.Machine.execPeerSessionTimeout corridor hiEnd s
  | .peerSessionReopen corridor hiEnd => Sys2Proof.Machine.execPeerSessionReopen corridor hiEnd s
  | .runL2Data m run kind len addr => Sys2Proof.Machine.execRunL2Data m run kind len addr s
  | .exportL2WaitExpiry corridor hiEnd => Sys2Proof.Machine.execExportL2WaitExpiry corridor hiEnd s
  | .runImport m b => Sys2Proof.Machine.execRunImport m b s
  | .runBlob m run kind offset data => Sys2Proof.Machine.execRunBlob m run kind offset data s
  | .runDelta m run hash => Sys2Proof.Machine.execRunDelta m run hash s
  | .exportReplyReceive corridor hiEnd m status peerRun => Sys2Proof.Machine.execExportReplyReceive corridor hiEnd m status peerRun s
  | .handoverTimeout corridor hiEnd => Sys2Proof.Machine.execHandoverTimeout corridor hiEnd s
  | .handoverRetry corridor hiEnd => Sys2Proof.Machine.execHandoverRetry corridor hiEnd s
  | .queuePush p qid entry => Sys2Proof.Machine.execQueuePush p qid entry s
  | .queuePop r qid max => Sys2Proof.Machine.execQueuePop r qid max s
  | .heldPushAccept qid => Sys2Proof.Machine.execHeldPushAccept qid s
  | .queueEnable r qid => Sys2Proof.Machine.execQueueEnable r qid s
  | .dispatch q => Sys2Proof.Machine.execDispatch q s
  | .contextPrefetchDone qid => Sys2Proof.Machine.execContextPrefetchDone qid s
  | .taskEndReport qid seq tile core => Sys2Proof.Machine.execTaskEndReport qid seq tile core s
  | .catchupSpanClose q flid => Sys2Proof.Machine.execCatchupSpanClose q flid s
  | .crumbCtrl m b => Sys2Proof.Machine.execCrumbCtrl m b s
  | .crumbStreamSend port => Sys2Proof.Machine.execCrumbStreamSend port s
  | .pauseFrameRepeat qid => Sys2Proof.Machine.execPauseFrameRepeat qid s
  | .coreTaskStart tile core => Sys2Proof.Machine.execCoreTaskStart tile core s
  | .ring r tile ch => Sys2Proof.Machine.execRing r tile ch s
  | .abort r tile ch => Sys2Proof.Machine.execAbort r tile ch s
  | .resume r tile ch => Sys2Proof.Machine.execResume r tile ch s
  | .reset r tile ch => Sys2Proof.Machine.execReset r tile ch s
  | .dmaFetch tile ch => Sys2Proof.Machine.execDmaFetch tile ch s
  | .end_ tile ch => Sys2Proof.Machine.execEnd_ tile ch s
  | .move tile ch => Sys2Proof.Machine.execMove tile ch s
  | .loop tile ch => Sys2Proof.Machine.execLoop tile ch s
  | .dmaWait tile ch => Sys2Proof.Machine.execDmaWait tile ch s
  | .signalEvent tile ch => Sys2Proof.Machine.execSignalEvent tile ch s
  | .signalQpush tile ch => Sys2Proof.Machine.execSignalQpush tile ch s
  | .signalInterrupt tile ch => Sys2Proof.Machine.execSignalInterrupt tile ch s
  | .jump tile ch => Sys2Proof.Machine.execJump tile ch s
  | .set tile ch => Sys2Proof.Machine.execSet tile ch s
  | .dmaNop tile ch => Sys2Proof.Machine.execDmaNop tile ch s
  | .dmaRequestComplete tile ch row => Sys2Proof.Machine.execDmaRequestComplete tile ch row s
  | .dmaHalt tile ch => Sys2Proof.Machine.execDmaHalt tile ch s
  | .dmaWaitSatisfied tile ch => Sys2Proof.Machine.execDmaWaitSatisfied tile ch s
  | .dmaWaitTimeout tile ch => Sys2Proof.Machine.execDmaWaitTimeout tile ch s
  | .qemptyRetry tile ch => Sys2Proof.Machine.execQemptyRetry tile ch s
  | .streamGateMessage tile ch => Sys2Proof.Machine.execStreamGateMessage tile ch s
  | .dmaEvtSet r tile mask => Sys2Proof.Machine.execDmaEvtSet r tile mask s
  | .nocRead r cls tag req addr n => Sys2Proof.Machine.execNocRead r cls tag req addr n s
  | .nocWrite r cls tag req addr data => Sys2Proof.Machine.execNocWrite r cls tag req addr data s
  | .nocMessage r cls tag req dst addr data => Sys2Proof.Machine.execNocMessage r cls tag req dst addr data s
  | .nocResponse dst req tag => Sys2Proof.Machine.execNocResponse dst req tag s
  | .nocReturn dst req tag => Sys2Proof.Machine.execNocReturn dst req tag s
  | .linkCrcReplay tile link fails => Sys2Proof.Machine.execLinkCrcReplay tile link fails s
  | .linkFail tile link => Sys2Proof.Machine.execLinkFail tile link s
  | .correctedWriteback cw => Sys2Proof.Machine.execCorrectedWriteback cw s
  | .ueReport => Sys2Proof.Machine.execUeReport s
  | .scrubPass mem => Sys2Proof.Machine.execScrubPass mem s
  | .scrubLate mem => Sys2Proof.Machine.execScrubLate mem s
  | .clogHarvest tile stuck => Sys2Proof.Machine.execClogHarvest tile stuck s
  | .errInject m target tile arm double pos => Sys2Proof.Machine.execErrInject m target tile arm double pos s
  | .eccClr r tile value => Sys2Proof.Machine.execEccClr r tile value s
  | .memcClr r tile value => Sys2Proof.Machine.execMemcClr r tile value s
  | .signalDetect iot port => Sys2Proof.Machine.execSignalDetect iot port s
  | .cdrLock iot port ppm => Sys2Proof.Machine.execCdrLock iot port ppm s
  | .polarityCorrect iot port sees => Sys2Proof.Machine.execPolarityCorrect iot port sees s
  | .laneReversal iot port order => Sys2Proof.Machine.execLaneReversal iot port order s
  | .deskew iot port skew => Sys2Proof.Machine.execDeskew iot port skew s
  | .fecLock iot port => Sys2Proof.Machine.execFecLock iot port s
  | .linkUp iot port txDly rxDly => Sys2Proof.Machine.execLinkUp iot port txDly rxDly s
  | .bringupStepTimeout iot port => Sys2Proof.Machine.execBringupStepTimeout iot port s
  | .linkDown iot port loss => Sys2Proof.Machine.execLinkDown iot port loss s
  | .adaptationStep iot lane dCtle dDfe rxDly => Sys2Proof.Machine.execAdaptationStep iot lane dCtle dDfe rxDly s
  | .marginLow iot lane vert horz => Sys2Proof.Machine.execMarginLow iot lane vert horz s
  | .prbsLock iot lane inverted => Sys2Proof.Machine.execPrbsLock iot lane inverted s
  | .prbsLockLoss iot lane bits errs => Sys2Proof.Machine.execPrbsLockLoss iot lane bits errs s
  | .prbsCounterClear r iot lane value => Sys2Proof.Machine.execPrbsCounterClear r iot lane value s
  | .laneTestStop m iot lane bits errs => Sys2Proof.Machine.execLaneTestStop m iot lane bits errs s
  | .laneTestGenerate m iot lane pattern loopback durationMs => Sys2Proof.Machine.execLaneTestGenerate m iot lane pattern loopback durationMs s
  | .laneTestCheck m iot lane pattern loopback durationMs => Sys2Proof.Machine.execLaneTestCheck m iot lane pattern loopback durationMs s
  | .laneTestGenerateCheck m iot lane pattern loopback durationMs => Sys2Proof.Machine.execLaneTestGenerateCheck m iot lane pattern loopback durationMs s
  | .laneTestLoopback m iot lane loopback durationMs => Sys2Proof.Machine.execLaneTestLoopback m iot lane loopback durationMs s
  | .laneTestDurationEnd iot lane bits errs => Sys2Proof.Machine.execLaneTestDurationEnd iot lane bits errs s
  | .egressCalendarPop qid => Sys2Proof.Machine.execEgressCalendarPop qid s
  | .transmitStart iot port => Sys2Proof.Machine.execTransmitStart iot port s
  | .timedLaunch iot port => Sys2Proof.Machine.execTimedLaunch iot port s
  | .frameTransmitEnd iot port => Sys2Proof.Machine.execFrameTransmitEnd iot port s
  | .pauseExpire iot port pcp => Sys2Proof.Machine.execPauseExpire iot port pcp s
  | .telemetryWindowEnd qid => Sys2Proof.Machine.execTelemetryWindowEnd qid s
  | .wfqTelemetryCollect iot => Sys2Proof.Machine.execWfqTelemetryCollect iot s
  | .ptpMessageReceive iot port domain b => Sys2Proof.Machine.execPtpMessageReceive iot port domain b s
  | .ptpSyncSend iot port => Sys2Proof.Machine.execPtpSyncSend iot port s
  | .referenceQualify => Sys2Proof.Machine.execReferenceQualify s
  | .referenceLost => Sys2Proof.Machine.execReferenceLost s
  | .servoLock => Sys2Proof.Machine.execServoLock s
  | .timeStep => Sys2Proof.Machine.execTimeStep s
  | .timeReacquire m maxStep maxStepC waitS => Sys2Proof.Machine.execTimeReacquire m maxStep maxStepC waitS s
  | .timeReacquireTimeout => Sys2Proof.Machine.execTimeReacquireTimeout s
  | .timeRead m => Sys2Proof.Machine.execTimeRead m s
  | .timeConfigProfile m value rest => Sys2Proof.Machine.execTimeConfigProfile m value rest s
  | .timeConfigDomain m value rest => Sys2Proof.Machine.execTimeConfigDomain m value rest s
  | .timeConfigRole m iot port value rest => Sys2Proof.Machine.execTimeConfigRole m iot port value rest s
  | .timeConfigJumpLimit m value rest => Sys2Proof.Machine.execTimeConfigJumpLimit m value rest s
  | .timeConfigAsym m iot port value rest => Sys2Proof.Machine.execTimeConfigAsym m iot port value rest s
  | .timeConfigLprio m iot port value rest => Sys2Proof.Machine.execTimeConfigLprio m iot port value rest s
  | .timeConfigServoBw m value rest => Sys2Proof.Machine.execTimeConfigServoBw m value rest s
  | .timeConfigSlewMax m value rest => Sys2Proof.Machine.execTimeConfigSlewMax m value rest s
  | .timeConfigSyncePrio m iot port value rest => Sys2Proof.Machine.execTimeConfigSyncePrio m iot port value rest s
  | .timeConfigHoldover m value rest => Sys2Proof.Machine.execTimeConfigHoldover m value rest s
  | .timeConfigGmTod m value rest => Sys2Proof.Machine.execTimeConfigGmTod m value rest s
  | .timeConfigPpsOut m value rest => Sys2Proof.Machine.execTimeConfigPpsOut m value rest s
  | .ppsInEdge falling dev => Sys2Proof.Machine.execPpsInEdge falling dev s
  | .ppsInMiss => Sys2Proof.Machine.execPpsInMiss s
  | .timeEventFire n => Sys2Proof.Machine.execTimeEventFire n s
  | .holdoverRamp => Sys2Proof.Machine.execHoldoverRamp s
  | .ocxoSteeringUpdate code => Sys2Proof.Machine.execOcxoSteeringUpdate code s
  | .spineDelayMeasure tile trim err => Sys2Proof.Machine.execSpineDelayMeasure tile trim err s
  | .synceSelect ql => Sys2Proof.Machine.execSynceSelect ql s
  | .synceWaitToRestore iot port => Sys2Proof.Machine.execSynceWaitToRestore iot port s
  | .spurFarEndEnergy port => Sys2Proof.Machine.execSpurFarEndEnergy port s
  | .spurEchoTrained port fault atten dist => Sys2Proof.Machine.execSpurEchoTrained port fault atten dist s
  | .spurEqualiserTrained port ppm fault atten dist => Sys2Proof.Machine.execSpurEqualiserTrained port ppm fault atten dist s
  | .spurRungAgreed port snr farSnr => Sys2Proof.Machine.execSpurRungAgreed port snr farSnr s
  | .spurBlockLock port => Sys2Proof.Machine.execSpurBlockLock port s
  | .spurDataMode port => Sys2Proof.Machine.execSpurDataMode port s
  | .spurStepTimeout port => Sys2Proof.Machine.execSpurStepTimeout port s
  | .fastRetrain port cause snr farSnr => Sys2Proof.Machine.execFastRetrain port cause snr farSnr s
  | .upshift port snr farSnr => Sys2Proof.Machine.execUpshift port snr farSnr s
  | .spurBlockReceive port decodeOk frames => Sys2Proof.Machine.execSpurBlockReceive port decodeOk frames s
  | .timingBlock port t1 t4 returned asym => Sys2Proof.Machine.execTimingBlock port t1 t4 returned asym s
  | .burstModeEnter port => Sys2Proof.Machine.execBurstModeEnter port s
  | .burstSend port => Sys2Proof.Machine.execBurstSend port s
  | .burstPreambleReceive port peak header frames => Sys2Proof.Machine.execBurstPreambleReceive port peak header frames s
  | .spurEnergyDetect port => Sys2Proof.Machine.execSpurEnergyDetect port s
  | .spurWakePattern port code => Sys2Proof.Machine.execSpurWakePattern port code s
  | .frameBoundary ru carrier => Sys2Proof.Machine.execFrameBoundary ru carrier s
  | .fabLoad m fab slot drainMs => Sys2Proof.Machine.execFabLoad m fab slot drainMs s
  | .fabUnload m fab drainMs => Sys2Proof.Machine.execFabUnload m fab drainMs s
  | .fabRearm m fab line => Sys2Proof.Machine.execFabRearm m fab line s
  | .fabImageVerify fab image => Sys2Proof.Machine.execFabImageVerify fab image s
  | .fabDrainEnd fab => Sys2Proof.Machine.execFabDrainEnd fab s
  | .fabGsrRelease fab => Sys2Proof.Machine.execFabGsrRelease fab s
  | .fabStatus m fab => Sys2Proof.Machine.execFabStatus m fab s
  | .longLineContention fab line drivers => Sys2Proof.Machine.execLongLineContention fab line drivers s
  | .qcWrite fab n word => Sys2Proof.Machine.execQcWrite fab n word s
  | .qcRead fab n => Sys2Proof.Machine.execQcRead fab n s
  | .qcPush fab n => Sys2Proof.Machine.execQcPush fab n s
  | .pushRetry fab n => Sys2Proof.Machine.execPushRetry fab n s
  | .qcPop fab n => Sys2Proof.Machine.execQcPop fab n s
  | .qcPopRetry fab n => Sys2Proof.Machine.execQcPopRetry fab n s
  | .fabTargetRequest r addr write n => Sys2Proof.Machine.execFabTargetRequest r addr write n s
  | .fabTargetTimeout fab id => Sys2Proof.Machine.execFabTargetTimeout fab id s
  | .fabTargetAnswer fab id data => Sys2Proof.Machine.execFabTargetAnswer fab id data s
  | .fabInitiatorRequest fab port1 write addr n data => Sys2Proof.Machine.execFabInitiatorRequest fab port1 write addr n data s
  | .bramPortAccess fab block a b => Sys2Proof.Machine.execBramPortAccess fab block a b s
  | .powerStateSetActive m settleUs rekeepUs => Sys2Proof.Machine.execPowerStateSetActive m settleUs rekeepUs s
  | .powerStateSetLull m settleUs rekeepUs => Sys2Proof.Machine.execPowerStateSetLull m settleUs rekeepUs s
  | .powerStateSetStill m resume settleUs rekeepUs => Sys2Proof.Machine.execPowerStateSetStill m resume settleUs rekeepUs s
  | .powerStateSetPmbus m entry addr page role flags nomMv busKhz => Sys2Proof.Machine.execPowerStateSetPmbus m entry addr page role flags nomMv busKhz s
  | .stillPhaseB => Sys2Proof.Machine.execStillPhaseB s
  | .settleTimeout => Sys2Proof.Machine.execSettleTimeout s
  | .islandSleepEnter tile => Sys2Proof.Machine.execIslandSleepEnter tile s
  | .tileIdleSleep tile => Sys2Proof.Machine.execTileIdleSleep tile s
  | .scrubWake tile => Sys2Proof.Machine.execScrubWake tile s
  | .tileStart => Sys2Proof.Machine.execTileStart s
  | .ivrReady island => Sys2Proof.Machine.execIvrReady island s
  | .oscReady island => Sys2Proof.Machine.execOscReady island s
  | .memReady island canary hbmCanary => Sys2Proof.Machine.execMemReady island canary hbmCanary s
  | .logicReady island => Sys2Proof.Machine.execLogicReady island s
  | .wakeStepTimeout island => Sys2Proof.Machine.execWakeStepTimeout island s
  | .alarmSet m sec ns flags => Sys2Proof.Machine.execAlarmSet m sec ns flags s
  | .alarmFire => Sys2Proof.Machine.execAlarmFire s
  | .mgtEnergyWake port => Sys2Proof.Machine.execMgtEnergyWake port s
  | .mgtWakeFrame port code => Sys2Proof.Machine.execMgtWakeFrame port code s
  | .supplyWarning mv => Sys2Proof.Machine.execSupplyWarning mv s
  | .supplyLow => Sys2Proof.Machine.execSupplyLow s
  | .supplyRecovery minMv redo => Sys2Proof.Machine.execSupplyRecovery minMv redo s
  | .supplyReset below900 => Sys2Proof.Machine.execSupplyReset below900 s
  | .throttleStep tile temp => Sys2Proof.Machine.execThrottleStep tile temp s
  | .avsUpdate tile code => Sys2Proof.Machine.execAvsUpdate tile code s
  | .pmbusPoll entry ans => Sys2Proof.Machine.execPmbusPoll entry ans s
  | .pmbusAlert words => Sys2Proof.Machine.execPmbusAlert words s
  | .pmbusAbsentPoll entry ans => Sys2Proof.Machine.execPmbusAbsentPoll entry ans s
  | .pmbusTrim vinMv => Sys2Proof.Machine.execPmbusTrim vinMv s
  | .powerStatus m => Sys2Proof.Machine.execPowerStatus m s
  | .retentionMonitorLatch island mv => Sys2Proof.Machine.execRetentionMonitorLatch island mv s
  | .clockStretch tile cycles => Sys2Proof.Machine.execClockStretch tile cycles s
  | .porstN lowUs => Sys2Proof.Machine.execPorstN lowUs s
  | .powerOnReset b => Sys2Proof.Machine.execPowerOnReset b s
  | .hbmTraining q pass => Sys2Proof.Machine.execHbmTraining q pass s
  | .parisonTimeCondition => Sys2Proof.Machine.execParisonTimeCondition s
  | .imageLoad m slot img nandUe => Sys2Proof.Machine.execImageLoad m slot img nandUe s
  | .taskStart m imgid qid => Sys2Proof.Machine.execTaskStart m imgid qid s
  | .taskStop m imgid => Sys2Proof.Machine.execTaskStop m imgid s
  | .imageStatus m => Sys2Proof.Machine.execImageStatus m s
  | .attestQuote m nonce mask => Sys2Proof.Machine.execAttestQuote m nonce mask s
  | .keyEnrolEnrol m kind slot pubkey => Sys2Proof.Machine.execKeyEnrolEnrol m kind slot pubkey s
  | .keyEnrolRevoke m kind slot => Sys2Proof.Machine.execKeyEnrolRevoke m kind slot s
  | .hostkeyEnrolEnrol m kind slot pubkey => Sys2Proof.Machine.execHostkeyEnrolEnrol m kind slot pubkey s
  | .hostkeyEnrolRevoke m kind slot => Sys2Proof.Machine.execHostkeyEnrolRevoke m kind slot s
  | .debugLock m level => Sys2Proof.Machine.execDebugLock m level s
  | .debugBreak tile core halt => Sys2Proof.Machine.execDebugBreak tile core halt s
  | .imageStage m slot flags offset total data g programOk eraseOk => Sys2Proof.Machine.execImageStage m slot flags offset total data g programOk eraseOk s
  | .journalRead m from_ count => Sys2Proof.Machine.execJournalRead m from_ count s
  | .journalRecord rtype severity source body => Sys2Proof.Machine.execJournalRecord rtype severity source body s
  | .journalCopy programOk eraseOk => Sys2Proof.Machine.execJournalCopy programOk eraseOk s
  | .staticLevelling eraseOk => Sys2Proof.Machine.execStaticLevelling eraseOk s
  | .nandPatrol block stage corrected authOk eraseOk records => Sys2Proof.Machine.execNandPatrol block stage corrected authOk eraseOk records s
  | .telemetryFrame counts items => Sys2Proof.Machine.execTelemetryFrame counts items s
  | .telemetryRead m from_ count stride => Sys2Proof.Machine.execTelemetryRead m from_ count stride s
  | .auxdacOffsetTrim ch step => Sys2Proof.Machine.execAuxdacOffsetTrim ch step s
  | .softFuseUpkeep => Sys2Proof.Machine.execSoftFuseUpkeep s
  | .lehrBudget r value => Sys2Proof.Machine.execLehrBudget r value s
  | .lehrLag duty => Sys2Proof.Machine.execLehrLag duty s
  | .dacCode r ch value => Sys2Proof.Machine.execDacCode r ch value s
  | .dacCfg r ch value => Sys2Proof.Machine.execDacCfg r ch value s
  | .dacLdN lowNs => Sys2Proof.Machine.execDacLdN lowNs s
  | .dacClrN lowNs => Sys2Proof.Machine.execDacClrN lowNs s
  | .dacClrNRelease => Sys2Proof.Machine.execDacClrNRelease s
  | .vdacLow low => Sys2Proof.Machine.execVdacLow low s
  | .dacCompliance ch exceeded => Sys2Proof.Machine.execDacCompliance ch exceeded s
  | .thermtrip island temp => Sys2Proof.Machine.execThermtrip island temp s
  | .wakeBusMessage start symbols stop => Sys2Proof.Machine.execWakeBusMessage start symbols stop s

end Sys2Proof.Machine
end

