-- ==== Sys2Proof/Machine/Tick.lean ====
section
/-! DEFINITION. What one tick of 2 ns brings while no command waits: the time counter (R429), the packets in the tile
network (R350 to R356) and the user logic of the fabric tiles (R475 to R479). Assumption log: 2 (DESIGN CHOICE). -/

namespace Sys2Proof.Machine

/-- One tick: the clocks, the tile network, then the fabric tiles in order. -/
def tick (s : State) : State := [0, 1, 2, 3].foldl (fabTick s) (nocTick s (tickClock s))

end Sys2Proof.Machine
end

