-- ==== Sys2Proof/Machine/CoreDecode.lean ====
section
/-! DEFINITION. The instruction words of a DSP core (R238 to R240, R243 to R247, R263, R284, R291, R293, R313): the
command that a word spells, and the word of a command. Assumption log: 7 (DEDUCED), 113 (DEDUCED). -/

namespace Sys2Proof.Machine

/-! ### Fields -/

/-- Bits [lo + n − 1 : lo] of a word. -/
def fieldOf (w : Word) (lo n : Nat) : Nat := w.toNat / 2 ^ lo % 2 ^ n
/-- A register number of five bits. -/
def fin32 (w : Word) (lo : Nat) : Fin 32 := Fin.ofNat 32 (fieldOf w lo 5)
/-- A register number of three bits. -/
def fin8 (w : Word) (lo : Nat) : Fin 8 := Fin.ofNat 8 (fieldOf w lo 3)
/-- A field of two bits. -/
def fin4 (w : Word) (lo : Nat) : Fin 4 := Fin.ofNat 4 (fieldOf w lo 2)
/-- One bit. -/
def bitOf (w : Word) (i : Nat) : Bool := fieldOf w i 1 == 1

/-- The type of a code (element types). -/
def vtyOf : Nat → VTy
  | 0 => .i8 | 1 => .i16 | 2 => .i32 | 3 => .c16 | 4 => .c32 | 5 => .f16 | 6 => .bf16 | _ => .f32
/-- The code of a type. -/
def vtyCode : VTy → Nat
  | .i8 => 0 | .i16 => 1 | .i32 => 2 | .c16 => 3 | .c32 => 4 | .f16 => 5 | .bf16 => 6 | .f32 => 7
/-- The register file of a MOVX code (R239). -/
def xfileOf : Nat → Option XFile
  | 0 => some .g | 1 => some .a | 2 => some .m | 3 => some .b | 4 => some .n | 5 => some .lr | _ => none
/-- The MOVX code of a register file. -/
def xfileCode : XFile → Nat
  | .g => 0 | .a => 1 | .m => 2 | .b => 3 | .n => 4 | .lr => 5
/-- The file of LDA and STA by bits [25:24] (R243). -/
def afileOf : Nat → Option AFile
  | 0 => some .a | 1 => some .b | 2 => some .lr | _ => none
/-- Bits [25:24] of a file. -/
def afileCode : AFile → Nat
  | .a => 0 | .b => 1 | .lr => 2
/-- MODE (R251). -/
def amodeOf : Nat → AMode
  | 0 => .offset | 1 => .postModify | 2 => .circular | _ => .bitReversed
/-- The code of a MODE. -/
def amodeCode : AMode → Nat
  | .offset => 0 | .postModify => 1 | .circular => 2 | .bitReversed => 3
/-- The address operand of a format M word (R243). -/
def maddrOf (w : Word) : MAddr :=
  { an := fieldOf w 18 3, mode := amodeOf (fieldOf w 16 2), mm := fieldOf w 13 3, off := toSigned 9 (fieldOf w 0 9) }

/-! ### Decoding, by format -/

/-- Majors 0x00 to 0x04: format A (R239, R241, R242). -/
def decodeA (k : Issue) (w : Word) : Instr :=
  let gd := fin32 w 21
  let ga := fin32 w 16
  let gb := fin32 w 11
  let sh := fin32 w 5
  let f := bitOf w 10
  match fieldOf w 26 6, fieldOf w 0 5 with
  | 0, 0 => .add_ k gd ga gb f | 0, 1 => .sub_ k gd ga gb f | 0, 2 => .and_ k gd ga gb f | 0, 3 => .or_ k gd ga gb f
  | 0, 4 => .xor_ k gd ga gb f | 0, 5 => .andn k gd ga gb f | 0, 6 => .neg k gd ga f | 0, 7 => .abs_ k gd ga f
  | 1, 0 => .shl k gd ga gb f | 1, 1 => .shli k gd ga sh f | 1, 2 => .shr k gd ga gb f | 1, 3 => .shri k gd ga sh f
  | 1, 4 => .sar k gd ga gb f | 1, 5 => .sari k gd ga sh f | 1, 6 => .ror k gd ga gb f | 1, 7 => .rori k gd ga sh f
  | 1, 8 => .clz k gd ga | 1, 9 => .popc k gd ga | 1, 10 => .brev k gd ga
  | 2, 0 => .mul k gd ga gb | 2, 1 => .mulh k gd ga gb | 2, 2 => .mulhu k gd ga gb
  | 2, 3 => .div_ k gd ga gb f | 2, 4 => .divu k gd ga gb f
  | 3, 0 => .adds k gd ga gb | 3, 1 => .subs k gd ga gb | 3, 2 => .min_ k gd ga gb | 3, 3 => .max_ k gd ga gb
  | 3, 4 => .minu k gd ga gb | 3, 5 => .maxu k gd ga gb | 3, 6 => .cmp k ga gb | 3, 7 => .tst k ga gb | 3, 8 => .sel k gd ga gb
  | 4, 0 =>
    match xfileOf (fieldOf w 13 3), xfileOf (fieldOf w 10 3) with
    | some d, some r => if fieldOf w 5 4 = 0 then .movx k d gd r ga (bitOf w 9) else .illegal k
    | _, _ => .illegal k
  | _, _ => .illegal k

/-- Majors 0x08 to 0x0E: format B (R239, R241). -/
def decodeB (k : Issue) (w : Word) : Instr :=
  let gd := fin32 w 21
  let ga := fin32 w 16
  let imm := BitVec.ofNat 16 (fieldOf w 0 16)
  match fieldOf w 26 6 with
  | 0x08 => .addi k gd ga imm | 0x09 => .andi k gd ga imm | 0x0A => .ori k gd ga imm | 0x0B => .xori k gd ga imm
  | 0x0C => if ga = 0 then .movhi k gd imm else .illegal k
  | 0x0D => .cmpi k ga imm | 0x0E => .aaddi k (fin8 w 21) imm
  | _ => .illegal k

/-- Majors 0x10 to 0x16: format M (R243, R244, R291). -/
def decodeM (k : Issue) (w : Word) : Instr :=
  let gd := fin32 w 21
  let a := maddrOf w
  let size := fieldOf w 10 3
  let sx := bitOf w 9
  match fieldOf w 26 6 with
  | 0x10 => if size < 3 then .ld k gd a (Fin.ofNat 3 size) sx else .illegal k
  | 0x11 => if size < 3 then .st k gd a (Fin.ofNat 3 size) else .illegal k
  | 0x12 => match afileOf (fieldOf w 24 2) with
    | some f => if size = 3 then .lda k f (fin8 w 21) a else .illegal k
    | none => .illegal k
  | 0x13 => match afileOf (fieldOf w 24 2) with
    | some f => if size = 3 then .sta k f (fin8 w 21) a else .illegal k
    | none => .illegal k
  | 0x14 => if size = 6 ∧ sx = false then .vld k gd a else .illegal k
  | 0x15 => if size = 6 ∧ sx = false then .vst k gd a else .illegal k
  | 0x16 => if fieldOf w 0 8 = 0 then
      .ldxy k gd (fin32 w 16) (fin4 w 14) (fin4 w 12) (amodeOf (fieldOf w 10 2)) (amodeOf (fieldOf w 8 2))
    else .illegal k
  | _ => .illegal k

/-- Majors 0x18 to 0x1E: format X (R239, R245). -/
def decodeX (k : Issue) (w : Word) : Instr :=
  let n := fin4 w 24
  let ga := fin32 w 19
  let gb := fin32 w 14
  let rs := fieldOf w 0 6
  match fieldOf w 26 6, fieldOf w 6 3 with
  | 0x18, _ => .cmac k n ga gb | 0x19, _ => .cmacj k n ga gb | 0x1A, _ => .cmsu k n ga gb | 0x1B, _ => .cmul k n ga gb
  | 0x1C, v => .fir4 k n ga gb (fin32 w 9) (v % 2 == 1)
  | 0x1D, 0 => if rs < 40 then .staccC k ga n (Fin.ofNat 40 rs) else .illegal k
  | 0x1D, 1 => if rs < 40 then .staccRe k ga n (Fin.ofNat 40 rs) else .illegal k
  | 0x1D, 2 => if rs < 40 then .staccIm k ga n (Fin.ofNat 40 rs) else .illegal k
  | 0x1D, 3 => if rs < 40 then .staccCz k ga n (Fin.ofNat 40 rs) else .illegal k
  | 0x1E, 0 => .accclr k n | 0x1E, 1 => .accld k n ga gb | 0x1E, 2 => .accadd k n (fin4 w 9)
  | _, _ => .illegal k

/-- Majors 0x20 to 0x2E: format V (R284, R287, R290, R293). -/
def decodeV (k : Issue) (w : Word) : Instr :=
  let d := fin32 w 21
  let a := fin32 w 16
  let b := fin32 w 11
  let ty := vtyOf (fieldOf w 8 3)
  let m := fin4 w 6
  let no := m = 0
  let dbl := fieldOf w 8 3 = 0
  let scalar := no ∧ (fieldOf w 8 3 = 0 ∨ fieldOf w 8 3 = 7)
  match fieldOf w 26 6, fieldOf w 0 6 with
  | 0x20, 0x00 => .vadd k d a b ty m | 0x20, 0x01 => .vsub k d a b ty m | 0x20, 0x02 => .vavg k d a b ty m
  | 0x20, 0x03 => .vneg k d a ty m | 0x20, 0x04 => .vabs k d a ty m | 0x20, 0x05 => .vmin k d a b ty m
  | 0x20, 0x06 => .vmax k d a b ty m | 0x20, 0x07 => .vand k d a b ty m | 0x20, 0x08 => .vor k d a b ty m
  | 0x20, 0x09 => .vxor k d a b ty m | 0x20, 0x0A => .vandn k d a b ty m | 0x20, 0x0B => .vshli k d a b ty m
  | 0x20, 0x0C => .vsari k d a b ty m | 0x20, 0x0D => .vshri k d a b ty m | 0x20, 0x0E => .vcmpeq k d a b ty m
  | 0x20, 0x0F => .vcmplt k d a b ty m | 0x20, 0x10 => .vsel k d a b ty m | 0x20, 0x11 => .vconj k d a ty m
  | 0x20, 0x12 => .vrotj k d a ty m
  | 0x21, 0x00 => .vmul k d a b ty m | 0x21, 0x01 => .vmulhr k d a b ty m | 0x21, 0x02 => .vcmul k d a b ty m
  | 0x21, 0x03 => .vcmulj k d a b ty m
  | 0x22, 0x00 => .vmacw k d a b ty m | 0x22, 0x01 => .vmsuw k d a b ty m | 0x22, 0x02 => .vcmacw k d a b ty m
  | 0x22, 0x03 => .vcmacjw k d a b ty m | 0x22, 0x04 => .vcmsuw k d a b ty m | 0x22, 0x05 => .vcmacws k d a b ty m
  | 0x23, 0x00 => .vnarrow k d a b ty m | 0x23, 0x01 => .vwiden k d a b ty m
  | 0x24, 0x00 => if no then .vdup k d a ty else .illegal k
  | 0x24, 0x01 => if no then .vext k d a b ty else .illegal k
  | 0x24, 0x02 => if no then .vpermx k d a b ty else .illegal k
  | 0x24, 0x03 => if no then .vrev k d a ty else .illegal k
  | 0x24, 0x04 => if no then .vmovg k d a b ty else .illegal k
  | 0x24, 0x05 => if no then .vins k d a b ty else .illegal k
  | 0x25, 0x00 => if b = 0 then .vrsumw k d a ty m else .illegal k
  | 0x27, 0x00 => if no then .vfadd k d a b ty else .illegal k
  | 0x27, 0x01 => if no then .vfsub k d a b ty else .illegal k
  | 0x27, 0x02 => if no then .vfmul k d a b ty else .illegal k
  | 0x27, 0x03 => if no then .vfma k d a b ty else .illegal k
  | 0x27, 0x04 => if no then .vfmin k d a b ty else .illegal k
  | 0x27, 0x05 => if no then .vfmax k d a b ty else .illegal k
  | 0x27, 0x06 => if no then .vfnarrow k d a ty else .illegal k
  | 0x27, 0x07 => if no then .vfwiden k d a ty else .illegal k
  | 0x27, 0x08 => if no then .vfcvti k d a ty else .illegal k
  | 0x27, 0x09 => if no then .vfcvtf k d a ty else .illegal k
  | 0x28, 0x00 => if fieldOf w 14 2 = 0 then .vgather k d (fin8 w 11) a ty m else .illegal k
  | 0x28, 0x01 => if fieldOf w 14 2 = 0 then .vscatter k d (fin8 w 11) a ty m else .illegal k
  | 0x2E, 0x00 => if scalar then .fadd k d a b dbl else .illegal k
  | 0x2E, 0x01 => if scalar then .fsub k d a b dbl else .illegal k
  | 0x2E, 0x02 => if scalar then .fmul k d a b dbl else .illegal k
  | 0x2E, 0x03 => if scalar then .fma k d a b dbl else .illegal k
  | 0x2E, 0x04 => if scalar then .fdiv k d a b dbl else .illegal k
  | 0x2E, 0x05 => if scalar then .fsqrt k d a dbl else .illegal k
  | 0x2E, 0x06 => if scalar then .fmin k d a b dbl else .illegal k
  | 0x2E, 0x07 => if scalar then .fmax k d a b dbl else .illegal k
  | 0x2E, 0x08 => if scalar then .fcvt k d a dbl else .illegal k
  | 0x2E, 0x09 => if scalar then .fcvti k d a dbl else .illegal k
  | 0x2E, 0x0A => if scalar then .fcvtf k d a dbl else .illegal k
  | 0x2E, 0x0B => if no ∧ dbl then .fmovg k d a (bitOf w 11) else .illegal k
  | 0x2E, 0x0C => if no ∧ dbl then .fmovf k d a (bitOf w 11) else .illegal k
  | 0x2E, 0x0D => if scalar then .fcmpg k d a b dbl else .illegal k
  | _, _ => .illegal k

/-- Majors 0x30 to 0x32: format Q (R239, R247, R313). -/
def decodeQ (k : Issue) (w : Word) : Instr :=
  let an := fin8 w 23
  let tag := Fin.ofNat 64 (fieldOf w 17 6)
  let ga := fin32 w 12
  let op := fieldOf w 0 12
  match fieldOf w 26 6 with
  | 0x30 =>
    if op < 0x90 then .accJob k an ga tag op
    else if op = 0x100 then .helper k an ga tag
    else if op = 0x200 then .qPush k an ga tag
    else if op = 0x201 then .qPop k an ga tag
    else if op = 0x300 then .jobAbort k an ga tag
    else .illegal k
  | 0x31 => if fieldOf w 23 3 = 0 ∧ fieldOf w 0 17 = 0 then .cqtest k tag else .illegal k
  | 0x32 => if fieldOf w 1 20 = 0 then .cqstat k (fin32 w 21) (bitOf w 0) else .illegal k
  | _ => .illegal k

/-- Majors 0x34 to 0x3A: format C (R239, R246, R263). -/
def decodeC (k : Issue) (w : Word) : Instr :=
  let an := fin8 w 23
  match fieldOf w 26 6 with
  | 0x34 => .bCond k (Fin.ofNat 16 (fieldOf w 22 4)) (BitVec.ofNat 22 (fieldOf w 0 22))
  | 0x35 => .call k (BitVec.ofNat 26 (fieldOf w 0 26))
  | 0x36 =>
    if fieldOf w 0 21 ≠ 0 then .illegal k
    else match bitOf w 22, bitOf w 21 with
      | false, false => .jr k an | true, false => .jalr k an | false, true => .ret k | true, true => .illegal k
  | 0x37 =>
    if fieldOf w 12 8 ≠ 0 then .illegal k
    else if bitOf w 25 then .rep k (.reg (fieldOf w 20 5)) else .rep k (.imm (fieldOf w 0 12 + 1))
  | 0x38 => .dbnz k (fin32 w 21) (BitVec.ofNat 21 (fieldOf w 0 21))
  | 0x39 =>
    if bitOf w 22 then .illegal k
    else match fieldOf w 0 6 with
      | 0x00 => .nop k | 0x01 => .tend k | 0x02 => .trap k (BitVec.ofNat 16 (fieldOf w 6 16)) | 0x03 => .break_ k
      | 0x04 => .rte k | 0x05 => .fence k | 0x06 => .wait k | 0x07 => .dcinv k an | 0x08 => .dcinvall k | 0x09 => .icinv k
      | 0x0A => .tterm k
      | _ => .illegal k
  | 0x3A => if fieldOf w 0 8 = 0 then .movc k (bitOf w 20) (fin32 w 21) (BitVec.ofNat 12 (fieldOf w 8 12)) else .illegal k
  | _ => .illegal k

/-- The command that the instruction word `w` spells where it issues as `k` says (R238): every word spells one, ILLEGAL where
the chapter defines nothing. -/
def coreInstr (k : Issue) (w : Word) : Instr :=
  match majorFmt (fieldOf w 26 6) with
  | some .a => decodeA k w
  | some .b => decodeB k w
  | some .m => decodeM k w
  | some .x => decodeX k w
  | some .v => decodeV k w
  | some .q => decodeQ k w
  | some .c => decodeC k w
  | none => if fieldOf w 26 6 = 0x3F then .longPrefix k (BitVec.ofNat 26 (fieldOf w 0 26)) else .illegal k

/-! ### Encoding -/

/-- A format A word. -/
def wordA (major gd ga gb f sh minor : Nat) : Word :=
  BitVec.ofNat 32 (major * 2 ^ 26 + gd * 2 ^ 21 + ga * 2 ^ 16 + gb * 2 ^ 11 + f * 2 ^ 10 + sh * 2 ^ 5 + minor)
/-- A format B word. -/
def wordB (major gd ga imm : Nat) : Word := BitVec.ofNat 32 (major * 2 ^ 26 + gd * 2 ^ 21 + ga * 2 ^ 16 + imm)
/-- A format M word. -/
def wordM (major gd size sx : Nat) (a : MAddr) : Word :=
  BitVec.ofNat 32 (major * 2 ^ 26 + gd * 2 ^ 21 + a.an * 2 ^ 18 + amodeCode a.mode * 2 ^ 16 + a.mm * 2 ^ 13 + size * 2 ^ 10
    + sx * 2 ^ 9 + ofSigned 9 a.off)
/-- A format X word. -/
def wordX (major n ga gb gc var rs : Nat) : Word :=
  BitVec.ofNat 32 (major * 2 ^ 26 + n * 2 ^ 24 + ga * 2 ^ 19 + gb * 2 ^ 14 + gc * 2 ^ 9 + var * 2 ^ 6 + rs)
/-- A format V word. -/
def wordV (major d a b ty mode minor : Nat) : Word :=
  BitVec.ofNat 32 (major * 2 ^ 26 + d * 2 ^ 21 + a * 2 ^ 16 + b * 2 ^ 11 + ty * 2 ^ 8 + mode * 2 ^ 6 + minor)
/-- The word of a CQPUSH. -/
def wordQ (an tag ga op : Nat) : Word :=
  BitVec.ofNat 32 (0x30 * 2 ^ 26 + an * 2 ^ 23 + tag * 2 ^ 17 + ga * 2 ^ 12 + op)
/-- The word of a system instruction. -/
def wordSys (an imm func : Nat) : Word := BitVec.ofNat 32 (0x39 * 2 ^ 26 + an * 2 ^ 23 + imm * 2 ^ 6 + func)

/-- The word of an instruction; none for the commands that are no instruction. -/
def coreWord : Instr → Option Word
  | .add_ _ d a b f => some (wordA 0 d a b (b2n f) 0 0) | .sub_ _ d a b f => some (wordA 0 d a b (b2n f) 0 1)
  | .and_ _ d a b f => some (wordA 0 d a b (b2n f) 0 2) | .or_ _ d a b f => some (wordA 0 d a b (b2n f) 0 3)
  | .xor_ _ d a b f => some (wordA 0 d a b (b2n f) 0 4) | .andn _ d a b f => some (wordA 0 d a b (b2n f) 0 5)
  | .neg _ d a f => some (wordA 0 d a 0 (b2n f) 0 6) | .abs_ _ d a f => some (wordA 0 d a 0 (b2n f) 0 7)
  | .shl _ d a b f => some (wordA 1 d a b (b2n f) 0 0) | .shli _ d a sh f => some (wordA 1 d a 0 (b2n f) sh 1)
  | .shr _ d a b f => some (wordA 1 d a b (b2n f) 0 2) | .shri _ d a sh f => some (wordA 1 d a 0 (b2n f) sh 3)
  | .sar _ d a b f => some (wordA 1 d a b (b2n f) 0 4) | .sari _ d a sh f => some (wordA 1 d a 0 (b2n f) sh 5)
  | .ror _ d a b f => some (wordA 1 d a b (b2n f) 0 6) | .rori _ d a sh f => some (wordA 1 d a 0 (b2n f) sh 7)
  | .clz _ d a => some (wordA 1 d a 0 0 0 8) | .popc _ d a => some (wordA 1 d a 0 0 0 9) | .brev _ d a => some (wordA 1 d a 0 0 0 10)
  | .mul _ d a b => some (wordA 2 d a b 0 0 0) | .mulh _ d a b => some (wordA 2 d a b 0 0 1)
  | .mulhu _ d a b => some (wordA 2 d a b 0 0 2) | .div_ _ d a b f => some (wordA 2 d a b (b2n f) 0 3)
  | .divu _ d a b f => some (wordA 2 d a b (b2n f) 0 4)
  | .adds _ d a b => some (wordA 3 d a b 0 0 0) | .subs _ d a b => some (wordA 3 d a b 0 0 1)
  | .min_ _ d a b => some (wordA 3 d a b 0 0 2) | .max_ _ d a b => some (wordA 3 d a b 0 0 3)
  | .minu _ d a b => some (wordA 3 d a b 0 0 4) | .maxu _ d a b => some (wordA 3 d a b 0 0 5)
  | .cmp _ a b => some (wordA 3 0 a b 0 0 6) | .tst _ a b => some (wordA 3 0 a b 0 0 7) | .sel _ d a b => some (wordA 3 d a b 0 0 8)
  | .movx _ df d sf a h => some (BitVec.ofNat 32 (0x04 * 2 ^ 26 + d * 2 ^ 21 + a * 2 ^ 16 + xfileCode df * 2 ^ 13
      + xfileCode sf * 2 ^ 10 + b2n h * 2 ^ 9))
  | .addi _ d a i => some (wordB 0x08 d a i.toNat) | .andi _ d a i => some (wordB 0x09 d a i.toNat)
  | .ori _ d a i => some (wordB 0x0A d a i.toNat) | .xori _ d a i => some (wordB 0x0B d a i.toNat)
  | .movhi _ d i => some (wordB 0x0C d 0 i.toNat) | .cmpi _ a i => some (wordB 0x0D 0 a i.toNat)
  | .aaddi _ n i => some (wordB 0x0E n 0 i.toNat)
  | .ld _ d a z sx => some (wordM 0x10 d z (b2n sx) a) | .st _ d a z => some (wordM 0x11 d z 0 a)
  | .lda _ f n a => some (wordM 0x12 (afileCode f * 8 + n) 3 0 a) | .sta _ f n a => some (wordM 0x13 (afileCode f * 8 + n) 3 0 a)
  | .vld _ d a => some (wordM 0x14 d 6 0 a) | .vst _ d a => some (wordM 0x15 d 6 0 a)
  | .ldxy _ x y ax ay mx my => some (BitVec.ofNat 32 (0x16 * 2 ^ 26 + x * 2 ^ 21 + y * 2 ^ 16 + ax * 2 ^ 14 + ay * 2 ^ 12
      + amodeCode mx * 2 ^ 10 + amodeCode my * 2 ^ 8))
  | .cmac _ n a b => some (wordX 0x18 n a b 0 0 0) | .cmacj _ n a b => some (wordX 0x19 n a b 0 0 0)
  | .cmsu _ n a b => some (wordX 0x1A n a b 0 0 0) | .cmul _ n a b => some (wordX 0x1B n a b 0 0 0)
  | .fir4 _ n a b c h => some (wordX 0x1C n a b c (b2n h) 0)
  | .staccC _ d n rs => some (wordX 0x1D n d 0 0 0 rs) | .staccRe _ d n rs => some (wordX 0x1D n d 0 0 1 rs)
  | .staccIm _ d n rs => some (wordX 0x1D n d 0 0 2 rs) | .staccCz _ d n rs => some (wordX 0x1D n d 0 0 3 rs)
  | .accclr _ n => some (wordX 0x1E n 0 0 0 0 0) | .accld _ n a b => some (wordX 0x1E n a b 0 1 0)
  | .accadd _ n m => some (wordX 0x1E n 0 0 m 2 0)
  | .vadd _ d a b t m => some (wordV 0x20 d a b (vtyCode t) m 0x00) | .vsub _ d a b t m => some (wordV 0x20 d a b (vtyCode t) m 0x01)
  | .vavg _ d a b t m => some (wordV 0x20 d a b (vtyCode t) m 0x02) | .vneg _ d a t m => some (wordV 0x20 d a 0 (vtyCode t) m 0x03)
  | .vabs _ d a t m => some (wordV 0x20 d a 0 (vtyCode t) m 0x04) | .vmin _ d a b t m => some (wordV 0x20 d a b (vtyCode t) m 0x05)
  | .vmax _ d a b t m => some (wordV 0x20 d a b (vtyCode t) m 0x06) | .vand _ d a b t m => some (wordV 0x20 d a b (vtyCode t) m 0x07)
  | .vor _ d a b t m => some (wordV 0x20 d a b (vtyCode t) m 0x08) | .vxor _ d a b t m => some (wordV 0x20 d a b (vtyCode t) m 0x09)
  | .vandn _ d a b t m => some (wordV 0x20 d a b (vtyCode t) m 0x0A)
  | .vshli _ d a b t m => some (wordV 0x20 d a b (vtyCode t) m 0x0B) | .vsari _ d a b t m => some (wordV 0x20 d a b (vtyCode t) m 0x0C)
  | .vshri _ d a b t m => some (wordV 0x20 d a b (vtyCode t) m 0x0D)
  | .vcmpeq _ d a b t m => some (wordV 0x20 d a b (vtyCode t) m 0x0E)
  | .vcmplt _ d a b t m => some (wordV 0x20 d a b (vtyCode t) m 0x0F) | .vsel _ d a b t m => some (wordV 0x20 d a b (vtyCode t) m 0x10)
  | .vconj _ d a t m => some (wordV 0x20 d a 0 (vtyCode t) m 0x11) | .vrotj _ d a t m => some (wordV 0x20 d a 0 (vtyCode t) m 0x12)
  | .vmul _ d a b t m => some (wordV 0x21 d a b (vtyCode t) m 0x00) | .vmulhr _ d a b t m => some (wordV 0x21 d a b (vtyCode t) m 0x01)
  | .vcmul _ d a b t m => some (wordV 0x21 d a b (vtyCode t) m 0x02) | .vcmulj _ d a b t m => some (wordV 0x21 d a b (vtyCode t) m 0x03)
  | .vmacw _ d a b t m => some (wordV 0x22 d a b (vtyCode t) m 0x00) | .vmsuw _ d a b t m => some (wordV 0x22 d a b (vtyCode t) m 0x01)
  | .vcmacw _ d a b t m => some (wordV 0x22 d a b (vtyCode t) m 0x02)
  | .vcmacjw _ d a b t m => some (wordV 0x22 d a b (vtyCode t) m 0x03)
  | .vcmsuw _ d a b t m => some (wordV 0x22 d a b (vtyCode t) m 0x04)
  | .vcmacws _ d a b t m => some (wordV 0x22 d a b (vtyCode t) m 0x05)
  | .vnarrow _ d a b t m => some (wordV 0x23 d a b (vtyCode t) m 0x00) | .vwiden _ d a b t m => some (wordV 0x23 d a b (vtyCode t) m 0x01)
  | .vdup _ d a t => some (wordV 0x24 d a 0 (vtyCode t) 0 0x00) | .vext _ d a b t => some (wordV 0x24 d a b (vtyCode t) 0 0x01)
  | .vpermx _ d a b t => some (wordV 0x24 d a b (vtyCode t) 0 0x02) | .vrev _ d a t => some (wordV 0x24 d a 0 (vtyCode t) 0 0x03)
  | .vmovg _ d a b t => some (wordV 0x24 d a b (vtyCode t) 0 0x04) | .vins _ d a b t => some (wordV 0x24 d a b (vtyCode t) 0 0x05)
  | .vrsumw _ d a t m => some (wordV 0x25 d a 0 (vtyCode t) m 0x00)
  | .vfadd _ d a b t => some (wordV 0x27 d a b (vtyCode t) 0 0x00) | .vfsub _ d a b t => some (wordV 0x27 d a b (vtyCode t) 0 0x01)
  | .vfmul _ d a b t => some (wordV 0x27 d a b (vtyCode t) 0 0x02) | .vfma _ d a b t => some (wordV 0x27 d a b (vtyCode t) 0 0x03)
  | .vfmin _ d a b t => some (wordV 0x27 d a b (vtyCode t) 0 0x04) | .vfmax _ d a b t => some (wordV 0x27 d a b (vtyCode t) 0 0x05)
  | .vfnarrow _ d a t => some (wordV 0x27 d a 0 (vtyCode t) 0 0x06) | .vfwiden _ d a t => some (wordV 0x27 d a 0 (vtyCode t) 0 0x07)
  | .vfcvti _ d a t => some (wordV 0x27 d a 0 (vtyCode t) 0 0x08) | .vfcvtf _ d a t => some (wordV 0x27 d a 0 (vtyCode t) 0 0x09)
  | .vgather _ d n a t sc => some (wordV 0x28 d a n (vtyCode t) sc 0x00)
  | .vscatter _ d n a t sc => some (wordV 0x28 d a n (vtyCode t) sc 0x01)
  | .fadd _ d a b f => some (wordV 0x2E d a b (if f then 0 else 7) 0 0x00)
  | .fsub _ d a b f => some (wordV 0x2E d a b (if f then 0 else 7) 0 0x01)
  | .fmul _ d a b f => some (wordV 0x2E d a b (if f then 0 else 7) 0 0x02)
  | .fma _ d a b f => some (wordV 0x2E d a b (if f then 0 else 7) 0 0x03)
  | .fdiv _ d a b f => some (wordV 0x2E d a b (if f then 0 else 7) 0 0x04)
  | .fsqrt _ d a f => some (wordV 0x2E d a 0 (if f then 0 else 7) 0 0x05)
  | .fmin _ d a b f => some (wordV 0x2E d a b (if f then 0 else 7) 0 0x06)
  | .fmax _ d a b f => some (wordV 0x2E d a b (if f then 0 else 7) 0 0x07)
  | .fcvt _ d a f => some (wordV 0x2E d a 0 (if f then 0 else 7) 0 0x08)
  | .fcvti _ d a f => some (wordV 0x2E d a 0 (if f then 0 else 7) 0 0x09)
  | .fcvtf _ d a f => some (wordV 0x2E d a 0 (if f then 0 else 7) 0 0x0A)
  | .fmovg _ d a h => some (wordV 0x2E d a (b2n h) 0 0 0x0B) | .fmovf _ d a h => some (wordV 0x2E d a (b2n h) 0 0 0x0C)
  | .fcmpg _ d a b f => some (wordV 0x2E d a b (if f then 0 else 7) 0 0x0D)
  | .accJob _ n a g t => some (wordQ n g a t) | .helper _ n a g => some (wordQ n g a 0x100)
  | .qPush _ n a g => some (wordQ n g a 0x200) | .qPop _ n a g => some (wordQ n g a 0x201) | .jobAbort _ n a g => some (wordQ n g a 0x300)
  | .cqtest _ g => some (BitVec.ofNat 32 (0x31 * 2 ^ 26 + g * 2 ^ 17))
  | .cqstat _ d h => some (BitVec.ofNat 32 (0x32 * 2 ^ 26 + d * 2 ^ 21 + b2n h))
  | .bCond _ c d => some (BitVec.ofNat 32 (0x34 * 2 ^ 26 + c * 2 ^ 22 + d.toNat))
  | .call _ d => some (BitVec.ofNat 32 (0x35 * 2 ^ 26 + d.toNat))
  | .jr _ n => some (BitVec.ofNat 32 (0x36 * 2 ^ 26 + n * 2 ^ 23))
  | .jalr _ n => some (BitVec.ofNat 32 (0x36 * 2 ^ 26 + n * 2 ^ 23 + 2 ^ 22))
  | .ret _ => some (BitVec.ofNat 32 (0x36 * 2 ^ 26 + 2 ^ 21))
  | .rep _ (.imm n) => some (BitVec.ofNat 32 (0x37 * 2 ^ 26 + (n - 1)))
  | .rep _ (.reg g) => some (BitVec.ofNat 32 (0x37 * 2 ^ 26 + 2 ^ 25 + g * 2 ^ 20))
  | .dbnz _ a d => some (BitVec.ofNat 32 (0x38 * 2 ^ 26 + a * 2 ^ 21 + d.toNat))
  | .nop _ => some (wordSys 0 0 0x00) | .tend _ => some (wordSys 0 0 0x01) | .trap _ i => some (wordSys 0 i.toNat 0x02)
  | .break_ _ => some (wordSys 0 0 0x03) | .rte _ => some (wordSys 0 0 0x04) | .fence _ => some (wordSys 0 0 0x05)
  | .wait _ => some (wordSys 0 0 0x06) | .dcinv _ n => some (wordSys n 0 0x07) | .dcinvall _ => some (wordSys 0 0 0x08)
  | .icinv _ => some (wordSys 0 0 0x09) | .tterm _ => some (wordSys 0 0 0x0A)
  | .movc _ r g c => some (BitVec.ofNat 32 (0x3A * 2 ^ 26 + g * 2 ^ 21 + b2n r * 2 ^ 20 + c.toNat * 2 ^ 8))
  | .longPrefix _ e => some (BitVec.ofNat 32 (0x3F * 2 ^ 26 + e.toNat))
  | _ => none

end Sys2Proof.Machine
end

