-- ==== Sys2Proof/Safety.lean ====
section
/-! DEFINITION. What the statements about this machine are written in: when a command meets the conditions under which
the spec gives it its effect, what a completed instruction leaves, and what every run keeps. -/

namespace Sys2Proof.Machine

/-! ### Instructions of a DSP core -/

/-- Core `k` issues an instruction that no long prefix precedes; `u` is the state after its fetch. -/
def Issues (k : Issue) (s u : State) : Prop :=
  canIssue s k.tile k.core = true ∧ fetch (fetchParity k s) k.tile k.core = (none, u) ∧ (u.core k.tile k.core).ext = none

/-- Core `k` issues an instruction that stands alone: no long prefix and no REP before it. -/
def IssuesAlone (k : Issue) (s u : State) : Prop := Issues k s u ∧ (u.core k.tile k.core).rep = none

/-- Core `k` issues an instruction behind a long prefix that holds `e` (R240). -/
def IssuesLong (k : Issue) (e : BitVec 26) (s u : State) : Prop :=
  canIssue s k.tile k.core = true ∧ fetch (fetchParity k s) k.tile k.core = (none, u)
    ∧ (u.core k.tile k.core).rep = none ∧ (u.core k.tile k.core).ext = some e

/-- The outcome is the next state in which core `k` of `u` has been changed by `f` and has retired the instruction. -/
def Ran (k : Issue) (u : State) (o : Host.Outcome State Fault Refusal) (f : Core → Core) : Prop :=
  o = .next (u.setCore k.tile k.core (retire k (f (u.core k.tile k.core))))

/-- The outcome is the next state in which core `k` of `u`, changed by `f`, continues at `target`. -/
def Jumped (k : Issue) (u : State) (o : Host.Outcome State Fault Refusal) (f : Core → Core) (target : DWord) : Prop :=
  let x := f (u.core k.tile k.core)
  o = .next (u.setCore k.tile k.core { x with retired := x.retired + 1#64, ext := none, pc := target &&& ~~~3#64 })

/-- Flags word `fl'` follows `fl` by writing Z and N for result `r` and nothing else. -/
def WritesZN (fl fl' r : Word) : Prop :=
  bit fl' 0 = (r == 0#32) ∧ bit fl' 1 = r.msb ∧ ∀ i, 2 ≤ i → bit fl' i = bit fl i

/-- Flags word `fl'` follows `fl` by writing Z and N for `r`, C and V, and nothing else. -/
def WritesZNCV (fl fl' r : Word) (c v : Bool) : Prop :=
  bit fl' 0 = (r == 0#32) ∧ bit fl' 1 = r.msb ∧ bit fl' 2 = c ∧ bit fl' 3 = v ∧ ∀ i, 4 ≤ i → bit fl' i = bit fl i

/-- The outcome is the next state in which G register `gd` of core `k` holds `r` and its flags are `fl`. -/
def YieldsG (k : Issue) (u : State) (o : Host.Outcome State Fault Refusal) (gd : Nat) (r fl : Word) : Prop :=
  Ran k u o fun x => { x.setG gd r with flags := fl }

/-- As `YieldsG`, with Z and N written for the result when F = 1 and no flag otherwise (R237). -/
def YieldsZN (k : Issue) (u : State) (f : Bool) (o : Host.Outcome State Fault Refusal) (gd : Nat) (r : Word) : Prop :=
  ∃ fl, YieldsG k u o gd r fl ∧
    (if f then WritesZN (u.core k.tile k.core).flags fl r else fl = (u.core k.tile k.core).flags)

/-! ### Vector registers -/

/-- Component `i` of width `w` of a V register, as a signed number (R279). -/
def comp (w : Nat) (v : BitVec 512) (i : Nat) : Int := (v.extractLsb' (w * i) w).toInt

/-- What R285 makes of an exact value with `d` bits to discard: the component's value, and whether it saturated. -/
def modeValue (mode w d : Nat) (x : Int) : Int × Bool :=
  let q : Int := if mode = 2 ∨ mode = 3 then rneShift x d else x / ((2 ^ d : Nat) : Int)
  if mode = 1 ∨ mode = 2 then (satSigned w q, satSigned w q != q) else ((BitVec.ofInt w q).toInt, false)

/-- The outcome is the next state in which component `i` of Vd of core `k` is the value R285 makes of `f i`, for every
component of width `w`, with SAT set when one saturated. -/
def YieldsV (k : Issue) (u : State) (o : Host.Outcome State Fault Refusal) (vd mode w d : Nat) (f : Nat → Int) : Prop :=
  ∃ v : BitVec 512, (∀ i, i < 512 / w → comp w v i = (modeValue mode w d (f i)).1) ∧
    Ran k u o fun y => { y.setV vd v with
      flags := if (List.range (512 / w)).any (fun i => (modeValue mode w d (f i)).2) then y.flags ||| 0x40#32 else y.flags }

/-! ### Accelerator jobs and TCS requests -/

/-- A job is ready to run function `func` on an accelerator tile (`acc`) or on a matrix helper. -/
def JobReady (acc : Bool) (func tile : Nat) (ref : JobRef) (s : State) (j : AccJob) : Prop :=
  s.job tile ref = some j ∧ (accKind s.part tile).isSome = acc ∧ canRun s func j = true

/-- The outcome is the next state in which job `j`, become `y` in state `v` by what it read, has its results `r`: paused
where its uncommitted writes reach 16 KiB; else its writes performed or staged, and its status decided: 0 where every
write passed, that of the first write that failed otherwise (R308, R310, R312, R315). -/
def JobDone (o : Host.Outcome State Fault Refusal) (j y : AccJob) (v : State) (r : JobOut) : Prop :=
  let w := jobWrite { y with used := r.used, nok := r.nok, result := r.result, sat := r.sat, early := r.early } r.writes v
  o = .next (if stageFull j r.writes then pauseJob j v
    else match w.1 with
    | none => decideJob w.2.1 0 w.2.2
    | some e => failJob w.2.1 e w.2.2)

/-- The Gaffer accepts the request up to the start of its command: framed, authenticated, in order, on a fitting mailbox,
not expired (R66 to R77, R85); `u` is the state in which the command starts. -/
def Accepted (op : OpInfo) (m : TcsMsg) (crit : Nat) (s u : State) : Prop := accept op m crit s = .go u

/-- The outcome is the next state in which the request's command has left state `t` and is answered. -/
def Answered (o : Host.Outcome State Fault Refusal) (op : OpInfo) (m : TcsMsg) (st : Status) (payload : List Byte)
    (crit : Nat) (t : State) : Prop := o = .next (t.respond op.opcode m st payload crit)

/-! ### Settings (R40, R41, R88) -/

/-- The command `m` of one setting as its mailbox holds it in `u`, with no setting left to check. -/
def oneSetting (opcode : Nat) (m : TcsMsg) (u : State) : MbxExec :=
  { msg := m, opcode := opcode, rest := [], results := [], waiting := none, order := u.tcs.nextOrder - 1, at_ := u.now }

/-- The command of the one setting `st` is accepted and its setting passes every check of R40; `u` is the state in which
its mailbox starts executing it. -/
def SettingPasses (opcode : Nat) (m : TcsMsg) (st : Setting) (s u : State) : Prop :=
  ∃ a, Accepted { opcode := opcode } m (pairsIn st) s a ∧ u = holdMbx a m opcode [st]
    ∧ checkSetting u (mbxKey m) m st = .ok

/-- The outcome is the next state in which the setting has taken effect at once and its command is answered OK with the
device time of the effect. -/
def SettingDone (o : Host.Outcome State Fault Refusal) (opcode : Nat) (m : TcsMsg) (st : Setting) (u : State) : Prop :=
  let e := oneSetting opcode m u
  let w := settingRecord (applySetting u false st) e st 0
  let x := freeMbx (setMbx w (mbxKey m) (e.add 0 w.devNs)) (mbxKey m)
  o = .next (deliver m (response x opcode m 0 0 (resultList [{ status := 0, effective := w.devNs }])) x)

/-- The outcome is the next state in which the setting, passed, waits in its mailbox for the next boundary of carrier
`ck`, and nothing is applied yet. -/
def SettingWaits (o : Host.Outcome State Fault Refusal) (opcode : Nat) (m : TcsMsg) (st : Setting) (ck : Nat) (u : State) :
    Prop :=
  o = .next (setMbx u (mbxKey m) { oneSetting opcode m u with
    waiting := some (st, ck, frameNo (stdOf u st ck) u.devNs) })

/-- A multi-setting command: its opcode, its request, its first setting and the rest of its list (R87). -/
def settingRequest : Instr → Option (Nat × TcsMsg × Setting × List Setting)
  | .corridorSetCreate m c n l => some (0x0201, m, .corridor c 0 n, l)
  | .corridorSetModify m c n l => some (0x0201, m, .corridor c 1 n, l)
  | .corridorSetDelete m c l => some (0x0201, m, .corridor c 2 0, l)
  | .ruSet m b l => some (0x0202, m, .ru b, l)
  | .ruRemove m r l => some (0x0203, m, .ruRemove r, l)
  | .carrierSet m b l => some (0x0204, m, .carrier b, l)
  | .carrierRemove m a i c l => some (0x0205, m, .carrierRemove a i c, l)
  | .carrierInstSetTxEn m c r v w l => some (0x0206, m, .inst c r 1 v w, l)
  | .carrierInstSetPwrLimit m c r v w l => some (0x0206, m, .inst c r 2 v w, l)
  | .carrierInstSetCompw m c r v w l => some (0x0206, m, .inst c r 3 v w, l)
  | .carrierInstSetPortmaskLo m c r v w l => some (0x0206, m, .inst c r 4 v w, l)
  | .carrierInstSetPortmaskHi m c r v w l => some (0x0206, m, .inst c r 5 v w, l)
  | .staticCellSetGroup m c k f n l => some (0x0207, m, .staticCell c 0 k f n, l)
  | .staticCellSetUngroup m c k f n l => some (0x0207, m, .staticCell c 1 k f n, l)
  | .stationCellSet m n ul dl l => some (0x0208, m, .stationCell n 0 ul dl, l)
  | .stationCellSetDelete m n l => some (0x0208, m, .stationCell n 1 0 0, l)
  | .netConfigSetPortAddr m i v l => some (0x0112, m, .netConfig 1 i v, l)
  | .netConfigSetPortGw m i v l => some (0x0112, m, .netConfig 2 i v, l)
  | .netConfigSetPortVlan m i v l => some (0x0112, m, .netConfig 3 i v, l)
  | .netConfigSetPortMode m i v l => some (0x0112, m, .netConfig 4 i v, l)
  | .netConfigSetLaneTx m i v l => some (0x0112, m, .netConfig 5 i v, l)
  | .netConfigSetBhEgress m i v l => some (0x0112, m, .netConfig 6 i v, l)
  | .netConfigSetBhIngress m i v l => some (0x0112, m, .netConfig 7 i v, l)
  | .netConfigSetSpur m i v l => some (0x0112, m, .netConfig 8 i v, l)
  | .netConfigSetWake m v l => some (0x0112, m, .netConfig 9 0 v, l)
  | .netConfigSetParisonRu m i v l => some (0x0112, m, .netConfig 10 i v, l)
  | .timeConfigProfile m v l => some (0x0402, m, .timeConfig 1 0 v, l)
  | .timeConfigDomain m v l => some (0x0402, m, .timeConfig 2 0 v, l)
  | .timeConfigRole m i p v l => some (0x0402, m, .timeConfig 3 (i * 256 + p) v, l)
  | .timeConfigJumpLimit m v l => some (0x0402, m, .timeConfig 4 0 v, l)
  | .timeConfigAsym m i p v l => some (0x0402, m, .timeConfig 5 (i * 256 + p) v, l)
  | .timeConfigLprio m i p v l => some (0x0402, m, .timeConfig 6 (i * 256 + p) v, l)
  | .timeConfigServoBw m v l => some (0x0402, m, .timeConfig 7 0 v, l)
  | .timeConfigSlewMax m v l => some (0x0402, m, .timeConfig 8 0 v, l)
  | .timeConfigSyncePrio m i p v l => some (0x0402, m, .timeConfig 9 (i * 256 + p) v, l)
  | .timeConfigHoldover m v l => some (0x0402, m, .timeConfig 10 0 v, l)
  | .timeConfigGmTod m v l => some (0x0402, m, .timeConfig 11 0 v, l)
  | .timeConfigPpsOut m v l => some (0x0402, m, .timeConfig 12 0 v, l)
  | _ => none

/-! ### What every command keeps -/

/-- The kept events are at most 4,096 and carry the EVSEQ just before the next one, without a gap (R98). -/
def EventsKept (x : Tcs) : Prop :=
  x.events.length ≤ 4096 ∧ x.events.length < x.evseq
    ∧ x.events.map EventRec.evseq = List.range' (x.evseq - x.events.length) x.events.length

/-- What holds of the machine between commands: memory is in its canonical form, the events are in order, a SEALED device
is at debug level 2 (R551), and there are sixteen measurement registers (R542). -/
def Inv (s : State) : Prop :=
  Memory.wf s.mem.cells = true ∧ EventsKept s.tcs ∧ (s.boot.sealed = true → s.boot.debugNow = 2) ∧ s.boot.meas.length = 16

/-- What no command undoes on the way from `s` to `t`: the configuration; the queue; the blown debug fuse (R551); a key
slot that is not EMPTY keeps its key and stays so, and a REVOKED one stays REVOKED (R546); the minimum security version
(R540) and the next JSEQ (R561) never fall; what has been sent, and what ports and pins have put out, stands. -/
structure NothingUndone (s t : State) : Prop where
  part : t.part = s.part
  pending : t.pending = s.pending
  sealed_ : s.boot.sealed = true → t.boot.sealed = true
  keys : ∀ k x, mget k s.boot.keys = some x → x.st ≠ .empty →
    ∃ y, mget k t.boot.keys = some y ∧ y.pubkey = x.pubkey ∧ y.st ≠ .empty ∧ (x.st = .revoked → y.st = .revoked)
  version : s.boot.svMin ≤ t.boot.svMin
  jseq : s.stor.jNext ≤ t.stor.jNext
  out : s.out <+: t.out
  lines : s.lines <+: t.lines

/-! ### Frames of the instructions of a core -/

/-- From `s` to `t` nothing outside the cores has moved, but for error counts and logs, tokens, tasks reported ended,
jobs of matrix helpers and free values taken: every byte of memory reads as before, and configuration, sessions, runs,
islands, channels, ports, time and power stand. -/
structure Elsewhere (s t : State) : Prop where
  bytes : ∀ a, t.byte a = s.byte a
  rest : t.part = s.part ∧ t.now = s.now ∧ t.cor = s.cor ∧ t.peers = s.peers ∧ t.tcs = s.tcs ∧ t.out = s.out ∧ t.clk = s.clk
    ∧ t.boot = s.boot ∧ t.stor = s.stor ∧ t.lines = s.lines ∧ t.runs = s.runs ∧ t.ruTrims = s.ruTrims
    ∧ t.corStored = s.corStored ∧ t.islands = s.islands ∧ t.dma = s.dma ∧ t.eg = s.eg ∧ t.time = s.time ∧ t.lanes = s.lanes
    ∧ t.fh = s.fh ∧ t.spur = s.spur ∧ t.fab = s.fab ∧ t.power = s.power ∧ t.pins = s.pins ∧ t.pending = s.pending

/-- From `s` to `t` no core but the one with key `n` has changed. -/
def OtherCores (n : Nat) (s t : State) : Prop := ∀ a b, coreKey a b ≠ n → t.core a b = s.core a b

/-- The instructions of a core that neither load nor store, with the core that executes them. -/
def inCore : Instr → Option Issue
  | .ret k | .nop k | .tend k | .break_ k | .rte k | .fence k | .wait k | .dcinvall k | .icinv k | .tterm k
  | .illegal k => some k
  | .longPrefix k _ | .accclr k _ | .call k _ | .jr k _ | .jalr k _ | .rep k _ | .trap k _ | .dcinv k _
  | .cqtest k _ => some k
  | .clz k _ _ | .popc k _ _ | .brev k _ _ | .cmp k _ _ | .tst k _ _ | .movhi k _ _ | .cmpi k _ _ | .aaddi k _ _
  | .accadd k _ _ | .bCond k _ _ | .dbnz k _ _ | .cqstat k _ _ => some k
  | .neg k _ _ _ | .abs_ k _ _ _ | .mul k _ _ _ | .mulh k _ _ _ | .mulhu k _ _ _ | .adds k _ _ _ | .subs k _ _ _
  | .min_ k _ _ _ | .max_ k _ _ _ | .minu k _ _ _ | .maxu k _ _ _ | .sel k _ _ _ | .addi k _ _ _ | .andi k _ _ _
  | .ori k _ _ _ | .xori k _ _ _ | .cmac k _ _ _ | .cmacj k _ _ _ | .cmsu k _ _ _ | .cmul k _ _ _ | .staccC k _ _ _
  | .staccRe k _ _ _ | .staccIm k _ _ _ | .staccCz k _ _ _ | .accld k _ _ _ | .movc k _ _ _ | .vdup k _ _ _
  | .vrev k _ _ _ | .vfnarrow k _ _ _ | .vfwiden k _ _ _ | .vfcvti k _ _ _ | .vfcvtf k _ _ _ | .fsqrt k _ _ _
  | .fcvt k _ _ _ | .fcvti k _ _ _ | .fcvtf k _ _ _ | .fmovg k _ _ _ | .fmovf k _ _ _ | .helper k _ _ _
  | .qPush k _ _ _ | .qPop k _ _ _ | .jobAbort k _ _ _ => some k
  | .add_ k _ _ _ _ | .sub_ k _ _ _ _ | .and_ k _ _ _ _ | .or_ k _ _ _ _ | .xor_ k _ _ _ _ | .andn k _ _ _ _
  | .shl k _ _ _ _ | .shr k _ _ _ _ | .sar k _ _ _ _ | .ror k _ _ _ _ | .div_ k _ _ _ _ | .divu k _ _ _ _
  | .shli k _ _ _ _ | .shri k _ _ _ _ | .sari k _ _ _ _ | .rori k _ _ _ _ | .vneg k _ _ _ _ | .vabs k _ _ _ _
  | .vconj k _ _ _ _ | .vrotj k _ _ _ _ | .vrsumw k _ _ _ _ | .vext k _ _ _ _ | .vpermx k _ _ _ _
  | .vmovg k _ _ _ _ | .vins k _ _ _ _ | .vfadd k _ _ _ _ | .vfsub k _ _ _ _ | .vfmul k _ _ _ _ | .vfma k _ _ _ _
  | .vfmin k _ _ _ _ | .vfmax k _ _ _ _ | .fadd k _ _ _ _ | .fsub k _ _ _ _ | .fmul k _ _ _ _ | .fma k _ _ _ _
  | .fdiv k _ _ _ _ | .fmin k _ _ _ _ | .fmax k _ _ _ _ | .fcmpg k _ _ _ _ | .accJob k _ _ _ _ => some k
  | .movx k _ _ _ _ _ | .fir4 k _ _ _ _ _ | .vadd k _ _ _ _ _ | .vsub k _ _ _ _ _ | .vavg k _ _ _ _ _
  | .vmin k _ _ _ _ _ | .vmax k _ _ _ _ _ | .vand k _ _ _ _ _ | .vor k _ _ _ _ _ | .vxor k _ _ _ _ _
  | .vandn k _ _ _ _ _ | .vcmpeq k _ _ _ _ _ | .vcmplt k _ _ _ _ _ | .vsel k _ _ _ _ _ | .vmul k _ _ _ _ _
  | .vmulhr k _ _ _ _ _ | .vcmul k _ _ _ _ _ | .vcmulj k _ _ _ _ _ | .vmacw k _ _ _ _ _ | .vmsuw k _ _ _ _ _
  | .vcmacw k _ _ _ _ _ | .vcmacjw k _ _ _ _ _ | .vcmsuw k _ _ _ _ _ | .vcmacws k _ _ _ _ _ | .vshli k _ _ _ _ _
  | .vsari k _ _ _ _ _ | .vshri k _ _ _ _ _ | .vnarrow k _ _ _ _ _ | .vwiden k _ _ _ _ _ => some k
  | _ => none

/-- The loads, with the core that executes them. -/
def loadOf : Instr → Option Issue
  | .ld k _ _ _ _ => some k
  | .lda k _ _ _ => some k
  | .ldxy k _ _ _ _ _ _ => some k
  | .vgather k _ _ _ _ _ => some k
  | .vld k _ _ => some k
  | _ => none

end Sys2Proof.Machine
end

