-- ==== Sys2Proof/Certificates/Slice0/Obligations.lean ====
section
/-! DEFINITION. The statements about this model, for the provers. -/

open Sys2Proof Sys2Proof.Machine

/-- For every core that issues them, with or without a REP, and every operand: ADD and SUB write Ga + Gb and Ga - Gb modulo 2^32 to Gd; with F = 1 they write Z, N, C (the carry out of ADD; Ga at least Gb unsigned for SUB) and V (the signed result does not fit) and no other flag, with F = 0 no flag. CMP writes the flags of Ga - Gb and TST those of Ga and Gb combined with C and V cleared; neither writes a G register. The machine answers a next state that differs from the fetched one in that core alone. -/
def Obligations.AddSubCompareFlags : Prop :=
  ∀ (k : Issue) (gd ga gb : Fin 32) (f : Bool) (s u : State), Issues k s u →
    let x := u.core k.tile k.core
    let a := x.gr ga
    let b := x.gr gb
    (∃ fl, YieldsG k u (exec (.add_ k gd ga gb f) s) gd (a + b) fl ∧
      (f = true → WritesZNCV x.flags fl (a + b) (decide (2 ^ 32 ≤ a.toNat + b.toNat))
        (decide ((a + b).toInt ≠ a.toInt + b.toInt))) ∧ (f = false → fl = x.flags)) ∧
    (∃ fl, YieldsG k u (exec (.sub_ k gd ga gb f) s) gd (a - b) fl ∧
      (f = true → WritesZNCV x.flags fl (a - b) (decide (b.toNat ≤ a.toNat))
        (decide ((a - b).toInt ≠ a.toInt - b.toInt))) ∧ (f = false → fl = x.flags)) ∧
    (∃ fl, Ran k u (exec (.cmp k ga gb) s) (fun y => { y with flags := fl }) ∧
      WritesZNCV x.flags fl (a - b) (decide (b.toNat ≤ a.toNat)) (decide ((a - b).toInt ≠ a.toInt - b.toInt))) ∧
    (∃ fl, Ran k u (exec (.tst k ga gb) s) (fun y => { y with flags := fl }) ∧
      WritesZNCV x.flags fl (a &&& b) false false)

/-- For every core that issues them and every operand: AND, OR, XOR, ANDN, NEG, SHL, SHR, SAR, ROR and the immediate shifts SHLI, SHRI, SARI, RORI write the result of the table to Gd (bitwise; 0 - Ga; a shift by Gb[5:0] read as multiplication or floored division by a power of two, so that amounts of 32 or more give 0, or copies of the sign for SAR; a rotate by Gb[4:0]), write Z and N for it when F = 1 and change no other flag and nothing else of the core but what retiring changes. -/
def Obligations.LogicShiftResults : Prop :=
  ∀ (k : Issue) (gd ga gb sh : Fin 32) (f : Bool) (s u : State), Issues k s u →
    let x := u.core k.tile k.core
    let a := x.gr ga
    let b := x.gr gb
    let n := b.toNat % 64
    YieldsZN k u f (exec (.and_ k gd ga gb f) s) gd (a &&& b) ∧
    YieldsZN k u f (exec (.or_ k gd ga gb f) s) gd (a ||| b) ∧
    YieldsZN k u f (exec (.xor_ k gd ga gb f) s) gd (a ^^^ b) ∧
    YieldsZN k u f (exec (.andn k gd ga gb f) s) gd (a &&& ~~~b) ∧
    YieldsZN k u f (exec (.neg k gd ga f) s) gd (BitVec.ofInt 32 (-a.toInt)) ∧
    YieldsZN k u f (exec (.shl k gd ga gb f) s) gd (BitVec.ofNat 32 (a.toNat * 2 ^ n)) ∧
    YieldsZN k u f (exec (.shr k gd ga gb f) s) gd (BitVec.ofNat 32 (a.toNat / 2 ^ n)) ∧
    YieldsZN k u f (exec (.sar k gd ga gb f) s) gd (BitVec.ofInt 32 (a.toInt / (2 ^ n : Nat))) ∧
    YieldsZN k u f (exec (.ror k gd ga gb f) s) gd (a.rotateRight (b.toNat % 32)) ∧
    YieldsZN k u f (exec (.shli k gd ga sh f) s) gd (BitVec.ofNat 32 (a.toNat * 2 ^ sh.val)) ∧
    YieldsZN k u f (exec (.shri k gd ga sh f) s) gd (BitVec.ofNat 32 (a.toNat / 2 ^ sh.val)) ∧
    YieldsZN k u f (exec (.sari k gd ga sh f) s) gd (BitVec.ofInt 32 (a.toInt / (2 ^ sh.val : Nat))) ∧
    YieldsZN k u f (exec (.rori k gd ga sh f) s) gd (a.rotateRight sh.val)

/-- For every core that issues them and every operand: ABS writes the absolute value (0x7FFFFFFF for 0x80000000, which also sets SAT) and Z and N with F = 1; MUL, MULH and MULHU write the low half, the signed high half and the unsigned high half of the product; DIV and DIVU write the quotient rounded towards 0, 0 for a divisor of 0, which V shows when F = 1, and DIV of 0x80000000 by -1 writes 0x7FFFFFFF and sets SAT; ADDS and SUBS clamp the signed sum or difference and set SAT when they clamp; MIN, MAX, MINU and MAXU choose the lesser or greater; SEL chooses by T; CLZ, POPC and BREV count and reverse bits. No other flag changes. -/
def Obligations.ArithmeticResults : Prop :=
  ∀ (k : Issue) (gd ga gb : Fin 32) (f : Bool) (s u : State), Issues k s u →
    let x := u.core k.tile k.core
    let a := x.gr ga
    let b := x.gr gb
    let lim (v : Int) : Int := max (-(2 ^ 31)) (min (2 ^ 31 - 1) v)
    let sat (fl : Word) (c : Bool) : Word := if c then fl ||| 0x40#32 else fl
    (∃ fl, YieldsG k u (exec (.abs_ k gd ga f) s) gd (BitVec.ofInt 32 (lim (a.toInt.natAbs : Int)))
      (sat fl (a == 0x80000000#32)) ∧
      (if f then WritesZN x.flags fl (BitVec.ofInt 32 (lim (a.toInt.natAbs : Int))) else fl = x.flags)) ∧
    YieldsG k u (exec (.mul k gd ga gb) s) gd (a * b) x.flags ∧
    YieldsG k u (exec (.mulh k gd ga gb) s) gd (BitVec.ofInt 32 (a.toInt * b.toInt / 2 ^ 32)) x.flags ∧
    YieldsG k u (exec (.mulhu k gd ga gb) s) gd (BitVec.ofNat 32 (a.toNat * b.toNat / 2 ^ 32)) x.flags ∧
    (∃ fl, YieldsG k u (exec (.div_ k gd ga gb f) s) gd (BitVec.ofInt 32 (lim (a.toInt.tdiv b.toInt)))
      (sat fl (a == 0x80000000#32 && b == 0xFFFFFFFF#32)) ∧
      fl = if f then setBit x.flags 3 (b == 0#32) else x.flags) ∧
    YieldsG k u (exec (.divu k gd ga gb f) s) gd (BitVec.ofNat 32 (a.toNat / b.toNat))
      (if f then setBit x.flags 3 (b == 0#32) else x.flags) ∧
    YieldsG k u (exec (.adds k gd ga gb) s) gd (BitVec.ofInt 32 (lim (a.toInt + b.toInt)))
      (sat x.flags (lim (a.toInt + b.toInt) != a.toInt + b.toInt)) ∧
    YieldsG k u (exec (.subs k gd ga gb) s) gd (BitVec.ofInt 32 (lim (a.toInt - b.toInt)))
      (sat x.flags (lim (a.toInt - b.toInt) != a.toInt - b.toInt)) ∧
    YieldsG k u (exec (.min_ k gd ga gb) s) gd (BitVec.ofInt 32 (min a.toInt b.toInt)) x.flags ∧
    YieldsG k u (exec (.max_ k gd ga gb) s) gd (BitVec.ofInt 32 (max a.toInt b.toInt)) x.flags ∧
    YieldsG k u (exec (.minu k gd ga gb) s) gd (BitVec.ofNat 32 (min a.toNat b.toNat)) x.flags ∧
    YieldsG k u (exec (.maxu k gd ga gb) s) gd (BitVec.ofNat 32 (max a.toNat b.toNat)) x.flags ∧
    YieldsG k u (exec (.sel k gd ga gb) s) gd (if bit x.flags 4 then a else b) x.flags ∧
    (∃ z : Nat, YieldsG k u (exec (.clz k gd ga) s) gd (BitVec.ofNat 32 z) x.flags ∧ z ≤ 32 ∧ a.toNat < 2 ^ (32 - z) ∧
      (z < 32 → 2 ^ (31 - z) ≤ a.toNat)) ∧
    YieldsG k u (exec (.popc k gd ga) s) gd
      (BitVec.ofNat 32 (((List.range 32).filter fun i => a.getLsbD i).length)) x.flags ∧
    (∃ r : Word, YieldsG k u (exec (.brev k gd ga) s) gd r x.flags ∧ ∀ i, i < 32 → r.getLsbD i = a.getLsbD (31 - i))

/-- For every core that issues them: ADDI, ANDI, ORI, XORI and MOVHI write Gd, CMPI writes the flags of Ga minus the immediate, AADDI writes An; the immediate is sign-extended (ADDI, CMPI, AADDI) or zero-extended (the others), and behind a long prefix it is EXT[15:0] above IMM16. A long prefix is held for the instruction that follows and advances the pc. MOVX between G registers copies the value. A reserved encoding raises ILLEGAL, whose entry is the synchronous exception of that cause. Words written out from the layouts of formats A, B, M, X, V, Q and C and of the long prefix spell the instructions they stand for, and words of a reserved major, minor or size spell ILLEGAL. -/
def Obligations.ImmediatesAndPrefix : Prop :=
  ∀ (k : Issue) (gd ga gs : Fin 32) (an : Fin 8) (imm : BitVec 16) (e : BitVec 26) (s u : State),
    (Issues k s u →
      let x := u.core k.tile k.core
      let a := x.gr ga
      YieldsG k u (exec (.addi k gd ga imm) s) gd (a + imm.signExtend 32) x.flags ∧
      YieldsG k u (exec (.andi k gd ga imm) s) gd (a &&& imm.setWidth 32) x.flags ∧
      YieldsG k u (exec (.ori k gd ga imm) s) gd (a ||| imm.setWidth 32) x.flags ∧
      YieldsG k u (exec (.xori k gd ga imm) s) gd (a ^^^ imm.setWidth 32) x.flags ∧
      YieldsG k u (exec (.movhi k gd imm) s) gd (imm ++ 0#16) x.flags ∧
      (∃ fl, Ran k u (exec (.cmpi k ga imm) s) (fun y => { y with flags := fl }) ∧
        WritesZNCV x.flags fl (a - imm.signExtend 32) (decide ((imm.signExtend 32).toNat ≤ a.toNat))
          (decide ((a - imm.signExtend 32).toInt ≠ a.toInt - imm.toInt))) ∧
      Ran k u (exec (.aaddi k an imm) s) (fun y => y.setA an (y.ar an + imm.signExtend 64)) ∧
      YieldsG k u (exec (.movx k .g gd .g gs false) s) gd (x.gr gs) x.flags) ∧
    (IssuesLong k e s u →
      let x := u.core k.tile k.core
      let a := x.gr ga
      let v : Word := e.extractLsb' 0 16 ++ imm
      YieldsG k u (exec (.addi k gd ga imm) s) gd (a + v) x.flags ∧
      YieldsG k u (exec (.andi k gd ga imm) s) gd (a &&& v) x.flags ∧
      YieldsG k u (exec (.ori k gd ga imm) s) gd (a ||| v) x.flags ∧
      YieldsG k u (exec (.xori k gd ga imm) s) gd (a ^^^ v) x.flags) ∧
    (IssuesAlone k s u →
      (exec (.longPrefix k e) s = .next (u.setCore k.tile k.core
        { u.core k.tile k.core with ext := some e, extAt := (u.core k.tile k.core).pc, pc := (u.core k.tile k.core).pc + 4#64 })) ∧
      exec (.illegal k) s = .next (syncExc k u { cause := .illegal })) ∧
    (coreInstr k 0x00622C00#32 = .add_ k 3 2 5 true ∧ coreInstr k 0x04E10105#32 = .sari k 7 1 8 false ∧
      coreInstr k 0x10A43000#32 = .movx k .a 5 .n 4 false ∧ coreInstr k 0x21E0FFFF#32 = .addi k 15 0 0xFFFF#16 ∧
      coreInstr k 0x40C74BFC#32 = .ld k 6 { an := 1, mode := .bitReversed, mm := 2, off := -4 } 2 true ∧
      coreInstr k 0x62518000#32 = .cmac k 2 10 6 ∧ coreInstr k 0x80A6CBC1#32 = .vsub k 5 6 25 .c16 3 ∧
      coreInstr k 0xC0867010#32 = .accJob k 1 7 3 16 ∧ coreInstr k 0xD03FFFFF#32 = .bCond k 0 0x3FFFFF#22 ∧
      coreInstr k 0xE4000082#32 = .trap k 2#16 ∧ coreInstr k 0xFC000001#32 = .longPrefix k 1#26) ∧
    (coreInstr k 0x14000000#32 = .illegal k ∧ coreInstr k 0x0400000B#32 = .illegal k ∧ coreInstr k 0xCC000000#32 = .illegal k ∧
      coreInstr k 0x40001800#32 = .illegal k)

/-- For every core that issues them alone: CALL and JALR write pc + 4 to LR and, like JR and RET, continue at the target (pc plus four times the displacement, An or LR); B.cond with a condition other than 15 continues at pc plus four times the displacement when the condition holds and at the next word otherwise; DBNZ lowers Ga by 1 modulo 2^32 and branches when the result is not 0; REP with a count of 1 to 4,096 leaves the loop state with that count, with 0 skips the body, above 4,096, or with 0 before a word that may not be a body, raises ILLEGAL; a retired body inside a REP stays at the body and lowers the count until the last iteration, which falls through. A branch counts a misprediction only when the prediction was wrong, and only then have the early reads beyond it been sent. -/
def Obligations.BranchesAndLoops : Prop :=
  ∀ (k : Issue) (cond : Cond) (an : Fin 8) (ga : Fin 32) (d22 : BitVec 22) (d26 : BitVec 26) (d21 : BitVec 21) (n : RepCount)
    (s u : State), IssuesAlone k s u →
    let x := u.core k.tile k.core
    let after (taken : Bool) (g : FMap Word) (target : DWord) (o : Host.Outcome State Fault Refusal) : Prop :=
      let miss := predicts x x.pc.toNat (target - x.pc).msb != taken
      let early (w : State) : State := if miss then (k.shadow.take 4).foldl (fun s l => earlyRead k.tile k.core l s) w else w
      ∃ y : Core, o = .next (early (u.setCore k.tile k.core y)) ∧ y.g = g ∧ y.a = x.a ∧ y.v = x.v ∧ y.acc = x.acc ∧ y.lr = x.lr
        ∧ y.flags = x.flags ∧ y.st = x.st ∧ y.rep = none ∧ y.retired = x.retired + 1#64
        ∧ y.pc = (if taken then target &&& ~~~3#64 else x.pc + 4#64)
        ∧ y.mispred = (if miss then BitVec.ofNat 32 (satAdd 32 x.mispred.toNat 1) else x.mispred)
    Jumped k u (exec (.call k d26) s) (fun y => { y with lr := y.pc + 4#64 }) (x.pc + (d26.signExtend 64 <<< 2)) ∧
    Jumped k u (exec (.jr k an) s) id (x.ar an) ∧
    Jumped k u (exec (.jalr k an) s) (fun y => { y with lr := y.pc + 4#64 }) (x.ar an) ∧
    Jumped k u (exec (.ret k) s) id x.lr ∧
    (cond.val ≠ 15 → after (condHolds x cond) x.g (x.pc + (d22.signExtend 64 <<< 2)) (exec (.bCond k cond d22) s)) ∧
    after (x.gr ga != 1#32) (x.setG ga (x.gr ga - 1#32)).g (x.pc + (d21.signExtend 64 <<< 2)) (exec (.dbnz k ga d21) s) ∧
    (let c := match n with | .imm n => n | .reg g => if g < 32 then (x.gr g).toNat else 4097
     (1 ≤ c ∧ c ≤ 4096 → exec (.rep k n) s = .next (u.setCore k.tile k.core
        { retire k x with rep := some { at_ := x.pc, left := c, started := false } })) ∧
     (c = 0 → bodyOk u x = true → Jumped k u (exec (.rep k n) s) id (x.pc + 8#64)) ∧
     (4096 < c ∨ c = 0 ∧ bodyOk u x = false → exec (.rep k n) s = .next (syncExc (alone k) u { cause := .illegal }))) ∧
    (∀ (y : Core) (r : RepState), y.rep = some r →
      (r.left ≤ 1 → (retire k y).rep = none ∧ (retire k y).pc = y.pc + 4#64) ∧
      (1 < r.left → (retire k y).rep = some { r with left := r.left - 1, started := true } ∧ (retire k y).pc = y.pc))

/-- For every core that issues them alone: NOP changes nothing but what retiring changes; MOVC in SUP reads the core-private register at 4 times CREG into a G register or writes it; FENCE with no posted store retires; WAIT with no pending source stops issue and CORE_WAIT_TIMEOUT ends it once a source is pending or 1,024 cycles have passed; DCINV drops the line of An, DCINVALL and ICINV empty the data and instruction caches; TEND outside a handler leaves the core waiting and TEND_COMPLETE with no tag and no posted store outstanding makes it IDLE; TTERM in SUP terminates the task; RTE in SUP restores mode and flags from CORE_ESTAT, clears EXL, continues at EPC and resumes the REP that CORE_EREP holds. -/
def Obligations.SystemInstructions : Prop :=
  ∀ (k : Issue) (an : Fin 8) (g : Fin 32) (creg : BitVec 12) (s u : State), IssuesAlone k s u →
    let x := u.core k.tile k.core
    let c : Requester := .core k.tile k.core
    Ran k u (exec (.nop k) s) id ∧
    (x.sup = true → exec (.movc k false g creg) s =
      .next (let y := coreRead c k.tile k.core (creg.toNat * 4) u
             done k y.2 ((y.2.core k.tile k.core).setG g y.1))) ∧
    (x.sup = true → exec (.movc k true g creg) s =
      .next (let v := coreWrite c k.tile k.core (creg.toNat * 4) (x.gr g) u
             done k v (v.core k.tile k.core))) ∧
    (x.stores = [] → Ran k u (exec (.fence k) s) id) ∧
    (x.ipendWord = 0#32 → exec (.wait k) s = .next (u.setCore k.tile k.core { retire k x with st := .wait, waitAt := u.now })) ∧
    Ran k u (exec (.dcinv k an) s) (fun y => { y with dcache := mdel ((y.ar an).toNat / 64 * 64) y.dcache }) ∧
    Ran k u (exec (.dcinvall k) s) (fun y => { y with dcache := [] }) ∧
    Ran k u (exec (.icinv k) s) (fun y => { y with icache := [] }) ∧
    (x.exl = false → exec (.tend k) s = .next (u.setCore k.tile k.core { x with tendWait := true })) ∧
    (x.sup = true → exec (.tterm k) s = .next (terminate u k.tile k.core 3 0)) ∧
    (x.sup = true → x.erep = 0#32 → exec (.rte k) s = .next (u.setCore k.tile k.core
      { x with retired := x.retired + 1#64, flags := x.estat &&& flagMask, sup := bit x.estat 8, exl := false, pc := x.epc,
               rep := none })) ∧
    (x.sup = true → x.erep ≠ 0#32 → exec (.rte k) s = .next (u.setCore k.tile k.core
      { x with retired := x.retired + 1#64, flags := x.estat &&& flagMask, sup := bit x.estat 8, exl := false, pc := x.epc,
               rep := some { at_ := x.epc, left := x.erep.toNat, started := true } }))

/-- For every core with a vector base set and no handler running: TRAP (code 0xC) and an instruction BREAK (0xA) enter with EPC the next instruction; every other precise exception, ILLEGAL (5) among them, with EPC the excepting instruction (its long prefix, where it has one), EINFO.REP and CORE_EREP set inside a REP and EINFO.SLOT clear for what issues alone in slot 0; an asynchronous cause, taken by ASYNC_EXCEPTION, with EPC the next instruction to execute once the younger instruction in flight is squashed. Each entry writes the mode and flags before to CORE_ESTAT, writes CORE_ECAUSE and CORE_EINFO and, where the exception has a data address, CORE_EADDR, sets SUP and EXL and jumps to CORE_EVEC + 0x40 × ECAUSE; G, A, V registers, accumulators and the outstanding CQ commands are unchanged. RTE in SUP restores mode and flags from CORE_ESTAT, clears EXL, continues at EPC and, with CORE_EREP not 0, resumes the body at EPC for CORE_EREP iterations. -/
def Obligations.ExceptionEntry : Prop :=
  let entered (o : Host.Outcome State Fault Refusal) (w : State) (tile core : Nat) (e : Exc) (epc : DWord) (einfo erep : Nat) :
      Prop :=
    ∃ t, o = .next t ∧
      let x := w.core tile core
      let y := t.core tile core
      y.epc = epc ∧ y.estat = x.flags ||| (if x.sup then 0x100#32 else 0#32) ∧ y.ecause = BitVec.ofNat 32 e.cause.code ∧
      y.einfo = BitVec.ofNat 32 einfo ∧ (∀ a, e.addr = some a → y.eaddr = BitVec.ofNat 64 a) ∧ y.erep = BitVec.ofNat 32 erep ∧
      y.sup = true ∧ y.exl = true ∧ y.pc = x.evec + BitVec.ofNat 64 (0x40 * e.cause.code) ∧
      y.g = x.g ∧ y.a = x.a ∧ y.v = x.v ∧ y.acc = x.acc ∧ y.cq = x.cq
  (∀ (k : Issue) (imm : BitVec 16) (s u : State), IssuesAlone k s u →
    let x := u.core k.tile k.core
    let slot := b2n k.slot1 * 2 ^ 29
    (x.evec ≠ 0#64 → x.exl = false →
      entered (exec (.trap k imm) s) u k.tile k.core { cause := .trap } (x.pc + 4#64) (imm.toNat + slot) 0 ∧
      entered (exec (.break_ k) s) u k.tile k.core { cause := .break_ } (x.pc + 4#64) slot 0 ∧
      entered (exec (.illegal k) s) u k.tile k.core { cause := .illegal } x.pc slot 0) ∧
    (x.sup = true → ∃ y : Core, exec (.rte k) s = .next (u.setCore k.tile k.core y) ∧
      y.sup = bit x.estat 8 ∧ y.flags = x.estat &&& 0xDF#32 ∧ y.exl = false ∧ y.pc = x.epc ∧
      y.rep = if x.erep = 0#32 then none else some { at_ := x.epc, left := x.erep.toNat, started := true })) ∧
  (∀ (k : Issue) (e : Exc) (w : State),
    let x := w.core k.tile k.core
    let rep := match x.rep with | some r => r.left | none => 0
    x.evec ≠ 0#64 → x.exl = false →
    entered (.next (syncExc k w e)) w k.tile k.core e (if x.ext.isSome then x.extAt else x.pc)
      (e.info + b2n (rep != 0) * 2 ^ 30 + b2n (k.slot1 && x.ext.isNone && x.rep.isNone) * 2 ^ 29) rep) ∧
  ∀ (tile core i : Nat) (s : State),
    let x := s.core tile core
    (x.st = .run ∨ x.st = .wait) → x.exl = false → x.rep = none → x.ext = none → x.load = none → x.terminating = none →
    x.runahead = false → tileRun s tile = true → asyncSource x = some i →
    let w := if x.tendWait then s else squashCq s tile core
    let y := w.core tile core
    y.evec ≠ 0#64 →
    entered (exec (.asyncException tile core) s) (w.setCore tile core (asyncExc y i).2) tile core (asyncExc y i).1 y.pc
      (asyncExc y i).1.info 0

/-- TEND_COMPLETE, CORE_WAIT_TIMEOUT, CORE_TIMER, ASYNC_EXCEPTION, RUNAHEAD_ENTER and RUNAHEAD_EXIT take effect in every state that meets their condition: the ended task's core is IDLE past its TEND; the waiting core runs again once a source pends or 1,024 cycles have passed; the timer is cleared and TIMER pends; the pending enabled source that R270 takes first is entered with EPC the next instruction; a load that has waited 16 cycles of the island, stretched as the supply stretches them, starts a run-ahead that is counted and sends its early reads; a run-ahead whose data has returned ends. -/
def Obligations.CoreEvents : Prop :=
  ∀ (tile core : Nat) (s : State),
    let x := s.core tile core
    (x.tendWait = true → x.cq = [] → x.stores = [] → runningOn s tile core = none →
      exec (.tendComplete tile core) s = .next (s.setCore tile core
        { x with tendWait := false, st := .idle, retired := x.retired + 1#64, pc := x.pc + 4#64 })) ∧
    (∀ r, x.tendWait = true → x.cq = [] → x.stores = [] →
      runningOn (s.setCore tile core { x with tendWait := false, st := .idle, retired := x.retired + 1#64, pc := x.pc + 4#64 })
        tile core = some r →
      exec (.tendComplete tile core) s = .next (setRunning (s.setCore tile core
        { x with tendWait := false, st := .idle, retired := x.retired + 1#64, pc := x.pc + 4#64 })
          { r with reported := some false })) ∧
    (x.st = .wait → x.ipendWord ≠ 0#32 ∨ 1024 ≤ islandCycles s tile (s.now - x.waitAt) →
      exec (.coreWaitTimeout tile core) s = .next (s.setCore tile core { x with st := .run })) ∧
    (corePresent s tile core = true → x.timer ≠ 0#64 → x.timer.toNat ≤ tileCycles s tile →
      exec (.coreTimer tile core) s = .next (s.setCore tile core { x with timer := 0#64, ipend := x.ipend ||| 0x10#32 })) ∧
    (∀ i, (x.st = .run ∨ x.st = .wait) → x.exl = false → x.rep = none → x.ext = none → x.load = none →
      x.terminating = none → x.runahead = false → tileRun s tile = true → asyncSource x = some i → x.tendWait = true →
      exec (.asyncException tile core) s = .next (takeExc (s.setCore tile core (asyncExc x i).2) tile core
        (asyncExc x i).1 false x.pc (asyncExc x i).1.info 0)) ∧
    (∀ p (l : List (List Nat × Nat)), x.load = some p → x.runahead = false → x.rep = none → x.exl = false → bit x.ctrl 1 = true →
      16 ≤ islandCycles s tile (s.now - p.since) →
      exec (.runaheadEnter tile core l) s = .next ((l.take 64).foldl (fun s g => earlyRead tile core g.1 s)
        (s.setCore tile core { x.stalled ((l.take 64).map Prod.snd).sum with
          runahead := true, runaheads := BitVec.ofNat 32 (satAdd 32 x.runaheads.toNat 1) }))) ∧
    (x.runahead = true → x.load = none →
      exec (.runaheadExit tile core) s = .next (s.setCore tile core { x with runahead := false }))

/-- For every core that issues LD, LDA, VLD or LDXY with an address form the spec defines whose accesses pass the alignment and MPU checks (and wait for no SIDE_EFFECT store), the load starts with its destination, its address and its address-register updates; with all its data at hand (own SRAM or a cached line) it reads, writes the destination and retires, otherwise it waits and LOAD_DATA_RETURN finishes it. An LD of n bytes writes the little-endian value sign- or zero-extended, LDA 64 bits, VLD all 512 bits. -/
def Obligations.LoadsComplete : Prop :=
  (∀ (k : Issue) (gd gx gy : Fin 32) (fl : AFile) (i : Fin 8) (ax ay : Fin 4) (mx my : AMode) (a : MAddr) (size : Fin 3) (sx : Bool)
    (s u : State), Issues k s u →
    let x := u.core k.tile k.core
    let starts (n : Nat) (vec : Bool) (dest : LoadDest) (o : Host.Outcome State Fault Refusal) : Prop :=
      ∀ ea up ty, mAddr x a n = some (ea, up) → accessCheck x .read vec ea n = .ok ty →
        (ty = .sideEffect → sePending x = false) →
        o = .next (startLoad
          { issue := k, parts := [{ addr := ea, n := n, dest := dest, cached := ty == .normalC }], upd := up,
            gather := false, since := u.now, sent := false } u)
    starts (2 ^ size.val) false (.g gd (2 ^ size.val) sx) (exec (.ld k gd a size sx) s) ∧
    starts 8 false (.file fl i) (exec (.lda k fl i a) s) ∧
    starts 64 true (.v gd 0 512) (exec (.vld k gd a) s) ∧
    (∀ tx ty, gx ≠ gy → accessCheck x .read true (effAddr x mx ax ax 0).1 4 = .ok tx →
      accessCheck x .read true (effAddr x my (ay.val + 4) (ay.val + 4) 0).1 4 = .ok ty →
      exec (.ldxy k gx gy ax ay mx my) s = .next (startLoad
        { issue := k, parts := [{ addr := (effAddr x mx ax ax 0).1, n := 4, dest := .g gx 4 false, cached := tx == .normalC },
                                { addr := (effAddr x my (ay.val + 4) (ay.val + 4) 0).1, n := 4, dest := .g gy 4 false, cached := ty == .normalC }],
          upd := (effAddr x mx ax ax 0).2 ++ (effAddr x my (ay.val + 4) (ay.val + 4) 0).2, gather := false, since := u.now,
          sent := false } u))) ∧
  (∀ (tile core : Nat) (w : State) (p : PendLoad), (w.core tile core).load = some p → p.sent = true →
    exec (.loadDataReturn tile core) w =
      .next (finishLoad p (w.setCore tile core { w.core tile core with load := none }))) ∧
  (∀ (k : Issue) (p : PendLoad) (bs : List (LoadDest × List Byte)) (v w : State), p.issue = k → p.issue.dparity = false →
    loadNow w k p = true → readParts k.tile k.core p.gather 0 p.parts w = (bs, [], v) →
    startLoad p w = done k v (bs.foldl loadInto ((v.core k.tile k.core).setAs p.upd))) ∧
  ∀ (y : Core) (gd : Fin 32) (i : Fin 8) (sx : Bool) (bs : List Byte),
    (loadInto y (.g gd 4 sx, bs)).gr gd = (if sx then BitVec.ofInt 32 (toSigned 32 (leVal bs)) else BitVec.ofNat 32 (leVal bs)) ∧
    (loadInto y (.v gd 0 512, bs)).vr gd = BitVec.ofNat 512 (leVal bs) ∧
    (loadInto y (.file .lr i, bs)).lr = BitVec.ofNat 64 (leVal bs)

/-- For every core that issues ST, STA or VST with a defined address form whose access passes its checks and finds room in the write buffer (in own SRAM: with no older SIDE_EFFECT store waiting, for a SIDE_EFFECT one), the store is performed (own SRAM) or posted with the register's low bytes, little-endian, at the address computed from the addressing mode, and the address register is updated; the effective address of a post-modify, circular or bit-reversed access is An itself. POSTED_STORE_ACK performs an entry that is ready and has tokens. VGATHER starts one read per element and VSCATTER stores each element, when their form is defined and every element's check passes. -/
def Obligations.StoresComplete : Prop :=
  (∀ (tile core n : Nat) (w : State), storeReady w (w.core tile core) n = true →
    mayInject w tile 0 (storeFlits w tile core n) = true →
    exec (.postedStoreAck tile core n) w = .next (finishTerm (performStore tile core n
      (chargeFlits w tile 0 (storeFlits w tile core n))) tile core)) ∧
  ∀ (k : Issue) (gs va : Fin 32) (fl : AFile) (i an : Fin 8) (a : MAddr) (size : Fin 3) (ty : VTy) (scale : Fin 4) (s u : State), Issues k s u →
    let x := u.core k.tile k.core
    let stores (n : Nat) (vec : Bool) (v : Nat) (o : Host.Outcome State Fault Refusal) : Prop :=
      ∀ ea up t, mAddr x a n = some (ea, up) → accessCheck x .write vec ea n = .ok t →
        ownStoreErr u k.tile k.core ea = none →
        (if ownSram u k.tile ea then t = .sideEffect → sePending x = false else x.stores.length < 8) →
        o = .next (let w := putStore k.tile k.core { addr := ea, bytes := leBytes n v, sideEffect := t == .sideEffect,
                                                     waited := false, element := none } u
                   done k w ((w.core k.tile k.core).setAs up))
    stores (2 ^ size.val) false (x.gr gs).toNat (exec (.st k gs a size) s) ∧
    stores 8 false (match fl with | .a => x.ar i | .b => x.br i | .lr => x.lr).toNat (exec (.sta k fl i a) s) ∧
    stores 64 true (x.vr gs).toNat (exec (.vst k gs a) s) ∧
    (∀ m, (effAddr x .postModify i m 0).1 = (x.ar i).toNat ∧ (effAddr x .circular i m 0).1 = (x.ar i).toNat ∧
      (effAddr x .bitReversed i m 0).1 = (x.ar i).toNat) ∧
    (vecForm ty scale = true → vecCheck x .read (vecAddrs x an va scale) = none →
      exec (.vgather k gs an va ty scale) s = .next (startLoad
        { issue := k, parts := gatherParts x gs (vecAddrs x an va scale), upd := [], gather := true, since := u.now,
          sent := false } u)) ∧
    (vecForm ty scale = true → vecCheck x .write (vecAddrs x an va scale) = none →
      scatterErr u k.tile k.core (vecAddrs x an va scale) = none →
      exec (.vscatter k gs an va ty scale) s =
        .next (let w := (scatterStores (vecAddrs x an va scale) (lanes 32 (x.vr gs))).foldl
                 (fun s p => putStore k.tile k.core p s) u
               done k w (w.core k.tile k.core)))

/-- For every core that issues them: CMAC, CMACJ and CMSU add the exact complex product (with b conjugated for CMACJ, subtracted for CMSU) to both halves of ACCn, each clamped to -2^39 to 2^39 - 1, setting ACCOV when a half clamps; CMUL writes the exact product; FIR4 with n 0 or 2 adds Ga's and Gb's parts times the selected half of Gc to ACCn and ACC(n+1); STACC.C, .RE, .IM and .CZ write Gd the halves scaled by 2^-rs, rounded to nearest even, clamped, with SAT set when they clamp, and CZ then clears ACCn; ACCCLR, ACCLD and ACCADD clear, load and add an accumulator. -/
def Obligations.AccumulatorResults : Prop :=
  ∀ (k : Issue) (n m : Fin 4) (ga gb gc gd : Fin 32) (hi : Bool) (rs : Fin 40) (s u : State), Issues k s u →
    let x := u.core k.tile k.core
    let re (g : Fin 32) : Int := ((x.gr g).extractLsb' 0 16).toInt
    let im (g : Fin 32) : Int := ((x.gr g).extractLsb' 16 16).toInt
    let lim (v : Int) : Int := max (-(2 ^ 39)) (min (2 ^ 39 - 1) v)
    let accumulates (o : Host.Outcome State Fault Refusal) (n : Nat) (a b : Int) : Prop :=
      let p := (x.accRe n).toInt + a
      let q := (x.accIm n).toInt + b
      Ran k u o fun y => { y.setAcc n (BitVec.ofInt 40 (lim p)) (BitVec.ofInt 40 (lim q)) with
        flags := if lim p ≠ p ∨ lim q ≠ q then y.flags ||| 0x80#32 else y.flags }
    let narrowed (w : Nat) (h : BitVec 40) : Int := satSigned w (rneShift h.toInt rs)
    let clamps (w : Nat) (h : BitVec 40) : Bool := narrowed w h != rneShift h.toInt rs
    accumulates (exec (.cmac k n ga gb) s) n (re ga * re gb - im ga * im gb) (re ga * im gb + im ga * re gb) ∧
    accumulates (exec (.cmacj k n ga gb) s) n (re ga * re gb + im ga * im gb) (im ga * re gb - re ga * im gb) ∧
    accumulates (exec (.cmsu k n ga gb) s) n (-(re ga * re gb - im ga * im gb)) (-(re ga * im gb + im ga * re gb)) ∧
    Ran k u (exec (.cmul k n ga gb) s) (fun y => y.setAcc n (BitVec.ofInt 40 (re ga * re gb - im ga * im gb))
      (BitVec.ofInt 40 (re ga * im gb + im ga * re gb))) ∧
    (n.val % 2 = 0 →
      let c := if hi then im gc else re gc
      ∃ y : Core, exec (.fir4 k n ga gb gc hi) s = .next (u.setCore k.tile k.core (retire k y)) ∧
        y.accRe n = BitVec.ofInt 40 (lim ((x.accRe n).toInt + re ga * c)) ∧
        y.accIm n = BitVec.ofInt 40 (lim ((x.accIm n).toInt + im ga * c)) ∧
        y.accRe (n.val + 1) = BitVec.ofInt 40 (lim ((x.accRe (n.val + 1)).toInt + re gb * c)) ∧
        y.accIm (n.val + 1) = BitVec.ofInt 40 (lim ((x.accIm (n.val + 1)).toInt + im gb * c)) ∧
        y.g = x.g ∧ y.a = x.a ∧ y.v = x.v ∧ ∀ i, i < 7 → bit y.flags i = bit x.flags i) ∧
    YieldsG k u (exec (.staccC k gd n rs) s) gd
      (BitVec.ofInt 16 (narrowed 16 (x.accIm n)) ++ BitVec.ofInt 16 (narrowed 16 (x.accRe n)))
      (if clamps 16 (x.accRe n) || clamps 16 (x.accIm n) then x.flags ||| 0x40#32 else x.flags) ∧
    YieldsG k u (exec (.staccRe k gd n rs) s) gd (BitVec.ofInt 32 (narrowed 32 (x.accRe n)))
      (if clamps 32 (x.accRe n) then x.flags ||| 0x40#32 else x.flags) ∧
    YieldsG k u (exec (.staccIm k gd n rs) s) gd (BitVec.ofInt 32 (narrowed 32 (x.accIm n)))
      (if clamps 32 (x.accIm n) then x.flags ||| 0x40#32 else x.flags) ∧
    Ran k u (exec (.staccCz k gd n rs) s) (fun y => { (y.setG gd
      (BitVec.ofInt 16 (narrowed 16 (x.accIm n)) ++ BitVec.ofInt 16 (narrowed 16 (x.accRe n)))).setAcc n 0#40 0#40 with
        flags := if clamps 16 (x.accRe n) || clamps 16 (x.accIm n) then y.flags ||| 0x40#32 else y.flags }) ∧
    Ran k u (exec (.accclr k n) s) (fun y => y.setAcc n 0#40 0#40) ∧
    Ran k u (exec (.accld k n ga gb) s) (fun y => y.setAcc n ((y.gr ga).signExtend 40) ((y.gr gb).signExtend 40)) ∧
    accumulates (exec (.accadd k n m) s) n (x.accRe m).toInt (x.accIm m).toInt

/-- For every core that issues them with a type the table allows and every mode: each component of Vd becomes the exact sum (VADD), difference (VSUB), halved sum (VAVG), negation (VNEG), absolute value (VABS), product (VMUL), doubled product times 2^-w (VMULHR), or the component times 2^sh (VSHLI) or 2^-sh (VSARI), with its low bits discarded and its value brought into range as the mode says; SAT is set exactly when a component saturated, and nothing else of the core changes but what retiring changes. -/
def Obligations.VectorComponentArithmetic : Prop :=
  ∀ (k : Issue) (vd va vb sh : Fin 32) (ty : VTy) (mode : Fin 4) (s u : State), Issues k s u →
    let a := comp ty.cw ((u.core k.tile k.core).vr va)
    let b := comp ty.cw ((u.core k.tile k.core).vr vb)
    (ty.fixed = true →
      YieldsV k u (exec (.vadd k vd va vb ty mode) s) vd mode ty.cw 0 (fun i => a i + b i) ∧
      YieldsV k u (exec (.vsub k vd va vb ty mode) s) vd mode ty.cw 0 (fun i => a i - b i) ∧
      YieldsV k u (exec (.vavg k vd va vb ty mode) s) vd mode ty.cw 1 (fun i => a i + b i) ∧
      YieldsV k u (exec (.vneg k vd va ty mode) s) vd mode ty.cw 0 (fun i => - a i)) ∧
    (ty.int = true → YieldsV k u (exec (.vabs k vd va ty mode) s) vd mode ty.cw 0 (fun i => ((a i).natAbs : Int))) ∧
    (ty = .i8 ∨ ty = .i16 → YieldsV k u (exec (.vmul k vd va vb ty mode) s) vd mode ty.cw 0 (fun i => a i * b i)) ∧
    (ty = .i16 ∨ ty = .i32 → YieldsV k u (exec (.vmulhr k vd va vb ty mode) s) vd mode ty.cw ty.w (fun i => 2 * a i * b i)) ∧
    (ty.fixed = true → sh.val < ty.cw →
      YieldsV k u (exec (.vshli k vd va sh ty mode) s) vd mode ty.cw 0 (fun i => a i * 2 ^ sh.val) ∧
      YieldsV k u (exec (.vsari k vd va sh ty mode) s) vd mode ty.cw sh.val a)

/-- For every core that issues them in mode 0b00 with a type the table allows: VMIN and VMAX write the lesser and greater component; VCMPEQ and VCMPLT write all ones (-1) where the compare holds and 0 elsewhere; VAND, VOR, VXOR, VANDN and VSEL combine whole registers bit by bit; VSHRI shifts each element right as an unsigned number. In any other mode each of them raises ILLEGAL. -/
def Obligations.VectorCompareLogic : Prop :=
  ∀ (k : Issue) (vd va vb sh : Fin 32) (ty : VTy) (mode : Fin 4) (s u : State), Issues k s u →
    let x := u.core k.tile k.core
    let a := comp ty.cw (x.vr va)
    let b := comp ty.cw (x.vr vb)
    let lanewise (o : Host.Outcome State Fault Refusal) (f : Nat → Int) : Prop :=
      ∃ v : BitVec 512, (∀ i, i < 512 / ty.cw → comp ty.cw v i = f i) ∧ Ran k u o fun y => y.setV vd v
    let illegal (o : Host.Outcome State Fault Refusal) : Prop := o = .next (syncExc k u { cause := .illegal })
    (ty.int = true → mode = 0 →
      lanewise (exec (.vmin k vd va vb ty mode) s) (fun i => min (a i) (b i)) ∧
      lanewise (exec (.vmax k vd va vb ty mode) s) (fun i => max (a i) (b i)) ∧
      lanewise (exec (.vcmplt k vd va vb ty mode) s) (fun i => if a i < b i then -1 else 0) ∧
      Ran k u (exec (.vand k vd va vb ty mode) s) (fun y => y.setV vd (y.vr va &&& y.vr vb)) ∧
      Ran k u (exec (.vor k vd va vb ty mode) s) (fun y => y.setV vd (y.vr va ||| y.vr vb)) ∧
      Ran k u (exec (.vxor k vd va vb ty mode) s) (fun y => y.setV vd (y.vr va ^^^ y.vr vb)) ∧
      Ran k u (exec (.vandn k vd va vb ty mode) s) (fun y => y.setV vd (y.vr va &&& ~~~(y.vr vb))) ∧
      (sh.val < ty.w → ∃ v : BitVec 512,
        (∀ i, i < 512 / ty.w → v.extractLsb' (ty.w * i) ty.w = (x.vr va).extractLsb' (ty.w * i) ty.w >>> sh.val) ∧
        Ran k u (exec (.vshri k vd va sh ty mode) s) fun y => y.setV vd v)) ∧
    (ty.fixed = true → mode = 0 →
      (∃ v : BitVec 512, (∀ i, i < 512 / ty.w → comp ty.w v i =
          if comp ty.w (x.vr va) i = comp ty.w (x.vr vb) i then -1 else 0) ∧
        Ran k u (exec (.vcmpeq k vd va vb ty mode) s) fun y => y.setV vd v) ∧
      Ran k u (exec (.vsel k vd va vb ty mode) s)
        (fun y => y.setV vd ((y.vr vd &&& y.vr va) ||| (~~~(y.vr vd) &&& y.vr vb)))) ∧
    (mode ≠ 0 →
      illegal (exec (.vmin k vd va vb ty mode) s) ∧ illegal (exec (.vmax k vd va vb ty mode) s) ∧
      illegal (exec (.vcmplt k vd va vb ty mode) s) ∧ illegal (exec (.vcmpeq k vd va vb ty mode) s) ∧
      illegal (exec (.vand k vd va vb ty mode) s) ∧ illegal (exec (.vor k vd va vb ty mode) s) ∧
      illegal (exec (.vxor k vd va vb ty mode) s) ∧ illegal (exec (.vandn k vd va vb ty mode) s) ∧
      illegal (exec (.vsel k vd va vb ty mode) s) ∧ illegal (exec (.vshri k vd va sh ty mode) s))

/-- For every core that issues them with a form the spec defines: VCONJ, VROTJ, VCMUL and VCMULJ write the complex results of the type's components under the mode; VMACW, VMSUW, VCMACW, VCMACJW, VCMSUW and VCMACWS add the exact products, scaled by 2^-8 with convergent rounding and clamped, to the even pair of 32-bit accumulators; VNARROW narrows a pair with the instruction's scale, VWIDEN widens into a pair; VRSUMW writes the exact sum in element 0. -/
def Obligations.VectorComplexAndPairs : Prop :=
  ∀ (k : Issue) (vd va vb sh : Fin 32) (ty : VTy) (mode : Fin 4) (s u : State), Issues k s u →
    let accumulates (o : Host.Outcome State Fault Refusal) (ps : Core → List Int) : Prop := Ran k u o fun y => vacc y vd (ps y)
    let a := comp ty.cw ((u.core k.tile k.core).vr va)
    let b := comp ty.cw ((u.core k.tile k.core).vr vb)
    (ty.cplx = true →
      YieldsV k u (exec (.vconj k vd va ty mode) s) vd mode ty.cw 0 (fun i => if i % 2 = 0 then a i else - a i) ∧
      YieldsV k u (exec (.vrotj k vd va ty mode) s) vd mode ty.cw 0 (fun i => if i % 2 = 0 then - a (i + 1) else a (i - 1)) ∧
      YieldsV k u (exec (.vcmul k vd va vb ty mode) s) vd mode ty.cw (ty.cw - 1) (fun i =>
        if i % 2 = 0 then a i * b i - a (i + 1) * b (i + 1) else a (i - 1) * b i + a i * b (i - 1)) ∧
      YieldsV k u (exec (.vcmulj k vd va vb ty mode) s) vd mode ty.cw (ty.cw - 1) (fun i =>
        if i % 2 = 0 then a i * b i + a (i + 1) * b (i + 1) else a i * b (i - 1) - a (i - 1) * b i)) ∧
    (mode = 2 → vd.val % 2 = 0 →
      (ty = .i16 → accumulates (exec (.vmacw k vd va vb ty mode) s) (ps16 1 va vb) ∧
        accumulates (exec (.vmsuw k vd va vb ty mode) s) (ps16 (-1) va vb)) ∧
      (ty = .c16 →
        accumulates (exec (.vcmacw k vd va vb ty mode) s) (fun y => psC 1 Machine.cmulI (clanes 16 (y.vr va)) (clanes 16 (y.vr vb))) ∧
        accumulates (exec (.vcmacjw k vd va vb ty mode) s) (fun y => psC 1 cmuljI (clanes 16 (y.vr va)) (clanes 16 (y.vr vb))) ∧
        accumulates (exec (.vcmsuw k vd va vb ty mode) s) (fun y => psC (-1) Machine.cmulI (clanes 16 (y.vr va)) (clanes 16 (y.vr vb))) ∧
        accumulates (exec (.vcmacws k vd va vb ty mode) s) (fun y => psC 1 Machine.cmulI (clanes 16 (y.vr va))
          (List.replicate 16 ((clanes 16 (y.vr vb)).headD (0, 0)))))) ∧
    (ty = .i16 ∨ ty = .c16 → va.val % 2 = 0 →
      Ran k u (exec (.vnarrow k vd va sh ty mode) s) (fun y => wrMode y vd mode 16 sh (pairLanes y va))) ∧
    (ty = .i16 ∨ ty = .c16 → vd.val % 2 = 0 → mode = 0 → sh.val ≤ 16 →
      Ran k u (exec (.vwiden k vd va sh ty mode) s)
        (fun y => setPair y vd ((slanes 16 (y.vr va)).map fun a => a * 2 ^ sh.val))) ∧
    (ty = .i32 → Ran k u (exec (.vrsumw k vd va ty mode) s)
      (fun y => wrMode y vd mode 32 0 [(slanes 32 (y.vr va)).foldl (· + ·) 0])) ∧
    (ty = .c32 → Ran k u (exec (.vrsumw k vd va ty mode) s)
      (fun y => wrMode y vd mode 32 0 [((pairUp (slanes 32 (y.vr va))).map Prod.fst).foldl (· + ·) 0,
        ((pairUp (slanes 32 (y.vr va))).map Prod.snd).foldl (· + ·) 0]))

/-- For every core that issues them with a form the spec defines: VDUP writes the low bits of Ga to every element; VEXT writes elements n to n + E - 1 of the pair; VPERMX writes element i of Vd the element of Va that element i of Vb names modulo E; VREV reverses the elements; VINS replaces element n by the low bits of Ga; VMOVG writes the sign-extended element n to Gd. -/
def Obligations.VectorPermutes : Prop :=
  ∀ (k : Issue) (vd va vb ga gd n : Fin 32) (ty : VTy) (s u : State), Issues k s u →
    let x := u.core k.tile k.core
    let el (r i : Nat) : BitVec ty.w := (x.vr r).extractLsb' (ty.w * i) ty.w
    let e := 512 / ty.w
    let lanewise (o : Host.Outcome State Fault Refusal) (f : Nat → BitVec ty.w) : Prop :=
      ∃ v : BitVec 512, (∀ i, i < e → v.extractLsb' (ty.w * i) ty.w = f i) ∧ Ran k u o fun y => y.setV vd v
    (moveTy ty = true → lanewise (exec (.vdup k vd ga ty) s) (fun _ => (x.gr ga).setWidth ty.w)) ∧
    (ty.fixed = true → va.val % 2 = 0 → n.val < e →
      lanewise (exec (.vext k vd va n ty) s)
        (fun i => if n.val + i < e then el va (n.val + i) else el (va.val + 1) (n.val + i - e))) ∧
    (ty.int = true → lanewise (exec (.vpermx k vd va vb ty) s) (fun i => el va ((el vb i).toNat % e))) ∧
    (ty.fixed = true → lanewise (exec (.vrev k vd va ty) s) (fun i => el va (e - 1 - i))) ∧
    (moveTy ty = true → n.val < e →
      lanewise (exec (.vins k vd ga n ty) s) (fun i => if i = n.val then (x.gr ga).setWidth ty.w else el vd i) ∧
      YieldsG k u (exec (.vmovg k gd va n ty) s) gd (BitVec.ofInt 32 (el va n).toInt) x.flags)

/-- For every core that issues them with a floating-point type: VFADD, VFSUB, VFMUL, VFMIN and VFMAX write the element-wise result of the type's format, VFMA the sum of Vd and the product rounded once; VFNARROW converts a pair of f32 registers to f16 or bf16 and VFWIDEN the reverse; VFCVTI converts f32 to i32, setting SAT when an element clamped, and VFCVTF i32 to f32. Only Vd (and the register above it for VFWIDEN) and SAT change. -/
def Obligations.VectorFloatResults : Prop :=
  ∀ (k : Issue) (vd va vb : Fin 32) (ty : VTy) (s u : State), Issues k s u →
    let bin (o : Host.Outcome State Fault Refusal) (op : FFmt → Nat → Nat → Nat) : Prop :=
      Ran k u o fun y => y.setV vd (pack ty.w (List.zipWith (op ty.fmt) (lanes ty.w (y.vr va)) (lanes ty.w (y.vr vb))))
    (ty.flt = true →
      bin (exec (.vfadd k vd va vb ty) s) fadd ∧ bin (exec (.vfsub k vd va vb ty) s) fsub ∧
      bin (exec (.vfmul k vd va vb ty) s) fmul ∧ bin (exec (.vfmin k vd va vb ty) s) fmin ∧
      bin (exec (.vfmax k vd va vb ty) s) fmax ∧
      Ran k u (exec (.vfma k vd va vb ty) s) (fun y => y.setV vd
        (pack ty.w (zip3 (ffma ty.fmt) (lanes ty.w (y.vr vd)) (lanes ty.w (y.vr va)) (lanes ty.w (y.vr vb)))))) ∧
    (ty = .f16 ∨ ty = .bf16 →
      (va.val % 2 = 0 → Ran k u (exec (.vfnarrow k vd va ty) s) (fun y => y.setV vd
        (pack 16 ((lanes 32 (y.vr va) ++ lanes 32 (y.vr (va.val + 1))).map (fcvt f32F ty.fmt))))) ∧
      (vd.val % 2 = 0 → Ran k u (exec (.vfwiden k vd va ty) s) (fun y =>
        (y.setV vd (pack 32 (((lanes 16 (y.vr va)).map (fcvt ty.fmt f32F)).take 16))).setV (vd.val + 1)
          (pack 32 (((lanes 16 (y.vr va)).map (fcvt ty.fmt f32F)).drop 16))))) ∧
    (ty = .f32 →
      Ran k u (exec (.vfcvti k vd va ty) s) (fun y =>
        { y.setV vd (pack 32 (((lanes 32 (y.vr va)).map (ftoi f32F)).map Prod.fst)) with
          flags := if ((lanes 32 (y.vr va)).map (ftoi f32F)).any Prod.snd then y.flags ||| 0x40#32 else y.flags }) ∧
      Ran k u (exec (.vfcvtf k vd va ty) s) (fun y => y.setV vd (pack 32 ((lanes 32 (y.vr va)).map (fromi f32F)))))

/-- For every core that issues them, in single and double format: FADD, FSUB, FMUL, FDIV, FMIN and FMAX write the operation's result of the two scalars to bits [63:0] of Vd, FMA the sum of Fd and the product rounded once, FSQRT the root, FCVT the conversion from the other format, FCVTF the conversion of the signed Ga; the bits of Vd above 63 stay. FCVTI writes the clamped integer to Gd and sets SAT when it clamped; FMOVG and FMOVF move one 32-bit half between Gd or Ga and F; FCMPG writes 1, 2, 4 or 8 for less, equal, greater or unordered. -/
def Obligations.ScalarFloatResults : Prop :=
  ∀ (k : Issue) (fd fa fb gd ga : Fin 32) (dbl half : Bool) (s u : State), Issues k s u →
    let x := u.core k.tile k.core
    let fmt (d : Bool) : FFmt := if d then f64F else f32F
    let f (r : Nat) (d : Bool) : Nat := (x.vr r).toNat % (if d then 2 ^ 64 else 2 ^ 32)
    let yieldsF (o : Host.Outcome State Fault Refusal) (r : Nat) : Prop :=
      ∃ v : BitVec 512, v.extractLsb' 0 64 = BitVec.ofNat 64 r ∧ v.extractLsb' 64 448 = (x.vr fd).extractLsb' 64 448 ∧
        Ran k u o fun y => y.setV fd v
    yieldsF (exec (.fadd k fd fa fb dbl) s) (fadd (fmt dbl) (f fa dbl) (f fb dbl)) ∧
    yieldsF (exec (.fsub k fd fa fb dbl) s) (fsub (fmt dbl) (f fa dbl) (f fb dbl)) ∧
    yieldsF (exec (.fmul k fd fa fb dbl) s) (fmul (fmt dbl) (f fa dbl) (f fb dbl)) ∧
    yieldsF (exec (.fdiv k fd fa fb dbl) s) (fdiv (fmt dbl) (f fa dbl) (f fb dbl)) ∧
    yieldsF (exec (.fmin k fd fa fb dbl) s) (fmin (fmt dbl) (f fa dbl) (f fb dbl)) ∧
    yieldsF (exec (.fmax k fd fa fb dbl) s) (fmax (fmt dbl) (f fa dbl) (f fb dbl)) ∧
    yieldsF (exec (.fma k fd fa fb dbl) s) (ffma (fmt dbl) (f fd dbl) (f fa dbl) (f fb dbl)) ∧
    yieldsF (exec (.fsqrt k fd fa dbl) s) (fsqrt (fmt dbl) (f fa dbl)) ∧
    yieldsF (exec (.fcvt k fd fa dbl) s) (fcvt (fmt !dbl) (fmt dbl) (f fa !dbl)) ∧
    yieldsF (exec (.fcvtf k fd ga dbl) s) (fromi (fmt dbl) (x.gr ga).toNat) ∧
    yieldsF (exec (.fmovf k fd ga half) s)
      (if half then f fd true % 2 ^ 32 + (x.gr ga).toNat * 2 ^ 32 else f fd true / 2 ^ 32 * 2 ^ 32 + (x.gr ga).toNat) ∧
    YieldsG k u (exec (.fmovg k gd fa half) s) gd
      (if half then (x.vr fa).extractLsb' 32 32 else (x.vr fa).extractLsb' 0 32) x.flags ∧
    YieldsG k u (exec (.fcvti k gd fa dbl) s) gd (BitVec.ofNat 32 (ftoi (fmt dbl) (f fa dbl)).1)
      (if (ftoi (fmt dbl) (f fa dbl)).2 then x.flags ||| 0x40#32 else x.flags) ∧
    YieldsG k u (exec (.fcmpg k gd fa fb dbl) s) gd (BitVec.ofNat 32 (fcmp (fmt dbl) (f fa dbl) (f fb dbl))) x.flags

/-- For every core that issues them alone: CQTEST sets T to 1 exactly when its tag is not outstanding and changes no other flag; CQSTAT writes a half of the mask of outstanding tags. ACC_JOB, HELPER, Q_PUSH, Q_POP and JOB_ABORT, when no posted store waits, the tag is free, the target tile has fewer than 16 commands of this core and the descriptor passes its check, retire and leave under the tag a command that is issued, not acknowledged and without result, with the operation code, An and Ga; HELPER also queues the job at the tile's own helper. An ACC_JOB target of 0x90 or more raises ILLEGAL. -/
def Obligations.CoprocessorQueueIssue : Prop :=
  ∀ (k : Issue) (an : Fin 8) (ga gd : Fin 32) (tag : Fin 64) (target : Nat) (half : Bool) (s u : State), IssuesAlone k s u →
    let x := u.core k.tile k.core
    let cmd (op tile : Nat) (arrived : Bool) : CqCmd :=
      { op := op, an := (x.ar an).toNat, ga := x.gr ga, st := .issued, tile := tile, at_ := x.pc, ret := x.retired + 1#64,
        arrived := arrived, acked := false, result := none }
    let pushed (c : CqCmd) : State := u.setCore k.tile k.core { retire k x with cq := mset tag.val c x.cq }
    let free : Prop := x.stores = [] ∧ mhas x.cq tag.val = false
    (∃ fl, Ran k u (exec (.cqtest k tag) s) (fun y => { y with flags := fl }) ∧ bit fl 4 = !(mhas x.cq tag.val) ∧
      ∀ i, i ≠ 4 → bit fl i = bit x.flags i) ∧
    YieldsG k u (exec (.cqstat k gd half) s) gd (if half then hi32 (cqMask x) else lo32 (cqMask x)) x.flags ∧
    (free → target < 0x90 → outstandingTo x target < 16 → cqCheck x (x.ar an).toNat 64 .read = none →
      exec (.accJob k an ga tag target) s = .next (pushed (cmd target target false))) ∧
    (free → outstandingTo x k.tile < 16 → cqCheck x (x.ar an).toNat 64 .read = none →
      exec (.helper k an ga tag) s = .next (addJob (pushed (cmd 0x100 k.tile true))
        (newJob k.tile (.cq k.tile k.core tag) (x.ar an).toNat 256 false))) ∧
    (free → cqCheck x (x.ar an).toNat 32 .read = none →
      exec (.qPush k an ga tag) s = .next (pushed (cmd 0x200 255 true))) ∧
    (free → cqCheck x (x.ar an).toNat 64 .write = none →
      exec (.qPop k an ga tag) s = .next (pushed (cmd 0x201 255 true))) ∧
    (free → cqCheck x (x.ar an).toNat 64 .read = none →
      exec (.jobAbort k an ga tag) s = .next (pushed (cmd 0x300 255 true))) ∧
    (0x90 ≤ target → exec (.accJob k an ga tag target) s = .next (syncExc k u { cause := .illegal }))

/-- In every state that meets the event's condition: ACC_CQ_ARRIVE of the oldest command on its way from that core to that tile queues the job at its accelerator tile in RUN; COMMIT commits an issued command that has arrived, and with it its job, queue operation or abort; CANCEL of a cancelled command that has arrived drops its job, counted where an accelerator tile holds it, and acknowledges; CANCEL_ACK frees the tag and counts it; CQ_RESULT_ARRIVE frees the tag, keeps the status in CQ_RESULT, lets a core stopped by WAIT issue again and, for a status other than OK and ABORTED, notes the late error and counts it; ACC_JOB_START gives the job its slot and reads its descriptor; ACC_WATCHDOG decides TIMEOUT once the watchdog interval has passed; ACC_ABORT decides ABORTED for the job of the descriptor it names and answers the command that asked; ACC_JOB_COMPLETE delivers the status of a committed, decided job and drops it. -/
def Obligations.CommandLifecycle : Prop :=
  ∀ (tile core tag : Nat) (y : CqCmd) (ref : JobRef) (s : State),
    let x := s.core tile core
    (mget tag x.cq = some y → y.arrived = false → y.op < 0x100 →
      (x.cq.any fun z => !z.2.arrived && z.2.tile == y.tile && decide (z.2.op < 0x100) && decide (z.2.ret.toNat < y.ret.toNat)) = false →
      (accKind s.part y.tile).isSome = true →
      tileRun (modCq s tile core tag fun z => { z with arrived := true }) y.tile = true →
      exec (.accCqArrive tile core tag) s = .next (addJob (modCq s tile core tag fun z => { z with arrived := true })
        (newJob y.tile (.cq tile core tag) y.an 256 false))) ∧
    (∀ j, mget tag x.cq = some y → y.st = .issued → y.arrived = true → y.op < 0x200 →
      (modCq s tile core tag fun z => { z with st := .committed }).job y.tile (.cq tile core tag) = some j →
      exec (.commit tile core tag) s = .next (commitJob j (modCq s tile core tag fun z => { z with st := .committed }))) ∧
    (mget tag x.cq = some y → y.st = .issued → y.arrived = true →
      let u := modCq s tile core tag fun z => { z with st := .committed }
      (y.op = 0x200 → exec (.commit tile core tag) s = .next (doQPush tile core tag y u)) ∧
      (y.op = 0x201 → exec (.commit tile core tag) s = .next (doQPop tile core tag y u)) ∧
      (y.op = 0x300 → exec (.commit tile core tag) s = .next (doJobAbort tile core tag y u))) ∧
    (mget tag x.cq = some y → y.st = .cancelled → y.arrived = true → y.acked = false →
      let u := modCq s tile core tag fun z => { z with acked := true }
      exec (.cancel tile core tag) s = .next (match u.job y.tile (.cq tile core tag) with
        | some j => dropJob (if (accKind s.part j.tile).isSome then u.count (R.ACC_CNT_CANCEL j.tile) 1 else u) j
        | none => u)) ∧
    (mget tag x.cq = some y → y.acked = true →
      exec (.cancelAck tile core tag) s =
        .next ((s.setCore tile core { x with cq := mdel tag x.cq }).count (R.CQ_CNT_CANCEL tile core) 1)) ∧
    (∀ st, mget tag x.cq = some y → y.st = .committed → y.result = some st → (st = 0 ∨ st = 12) →
      exec (.cqResultArrive tile core tag) s =
        .next ((s.setCore tile core { x with cq := mdel tag x.cq, st := if x.st = .wait then .run else x.st }).setReg (R.CQ_RESULT tile core tag) (BitVec.ofNat 32 st))) ∧
    (∀ st, mget tag x.cq = some y → y.st = .committed → y.result = some st → st ≠ 0 → st ≠ 12 →
      exec (.cqResultArrive tile core tag) s =
        .next (((s.setCore tile core { x with cq := mdel tag x.cq, late := x.late ++ [(tag, st)],
                                              st := if x.st = .wait then .run else x.st }).setReg
          (R.CQ_RESULT tile core tag) (BitVec.ofNat 32 st)).count (R.CQ_CNT_LATE tile core) 1)) ∧
    (∀ j b v, mayStart s tile ref = some j → (j.committed = true ∨ sideRegion s j.at_ = false) → s.job tile ref = some j →
      jobRead { j with started := some s.now } j.at_ 64 (setJob s { j with started := some s.now }) = (.ok b, v) →
      exec (.accJobStart tile ref) s = .next (startBody { j with started := some s.now } b v)) ∧
    (∀ j b v, mayStart s tile ref = some j → (j.committed = true ∨ sideRegion s j.at_ = false) → s.job tile ref = none →
      jobRead { j with started := some s.now } j.at_ 64 (addJob s { j with started := some s.now }) = (.ok b, v) →
      exec (.accJobStart tile ref) s = .next (startBody { j with started := some s.now } b v)) ∧
    (∀ j t0, s.job tile ref = some j → (accKind s.part tile).isSome = true → j.started = some t0 → j.status = none →
      fld (accCtrl s tile) 31 16 ≠ 0 → fld (accCtrl s tile) 31 16 * 10000 ≤ s.now - t0 →
      exec (.accWatchdog tile ref) s = .next (failJob j 15 s)) ∧
    (∀ (a : AccAbort) j desc, (s.acc.aborts.find? fun a => a.tile == tile && a.at_ == desc) = some a →
      (accKind s.part tile).isSome = true → tileRun s tile = true →
      (s.acc.jobs.find? fun j => j.tile == tile && j.at_ == desc) = some j →
      let u := failJob j 12 { s with acc := { s.acc with aborts := s.acc.aborts.erase a } }
      exec (.accAbort tile desc) s = .next (match a.by_ with | some (t, c, g) => cqResult u t c g 12 | none => u)) ∧
    (∀ i j st, s.job tile ref = some i → (settleRach i s).job tile ref = some j → j.status = some st → j.committed = true →
      tileRun (settleRach i s) tile = true → (j.body ≠ [] ∨ st ≠ 12) →
      exec (.accJobComplete tile ref) s = .next (confirmed j st (endJob j st (setJob (settleRach i s) j))))

/-- For every job that is ready to run its function (started, its descriptor good, not yet run, its tile in RUN) and whose inputs are read without error, FFT_FWD, FFT_INV, FEEDCORR, GMSK_MLSE, CONV_ENC, GMSK_MOD, POLAR_ENC, LDPC_ENC and TURBO_ENC compute the function's output from what was read, perform or stage its writes and decide the job's status (writes of 16 KiB or more pause an uncommitted job instead, and a write that fails gives the job its status); LDPC_DEC and TURBO_DEC do so when the job is committed or uses no soft buffer. -/
def Obligations.AcceleratorFunctions : Prop :=
  ∀ (tile : Nat) (ref : JobRef) (s v : State) (j : AccJob),
    (∀ rs, jobRecs j (strided j.inp j.count (j.f 48 4)) s = (.ok rs, v) →
      (JobReady true 0x01 tile ref s j → JobDone (exec (.fftFwd tile ref) s) j j v (fftOut fftRec j rs)) ∧
      (JobReady true 0x02 tile ref s j → JobDone (exec (.fftInv tile ref) s) j j v (fftOut ifftRec j rs))) ∧
    (∀ ctx w rs, JobReady true 0x10 tile ref s j → jobRead j j.aux 512 s = (.ok ctx, w) →
      jobRecs j (strided j.inp j.count (j.f 44 4)) w = (.ok rs, v) →
      ∀ r, feedOut v j ctx rs = .ok r → JobDone (exec (.feedcorr tile ref) s) j j v r) ∧
    (∀ rs, JobReady true 0x34 tile ref s j → listedRecs j (fun a => [a]) s = (.ok rs, v) →
      JobDone (exec (.gmskMlse tile ref) s) j j v { writes := [(j.outp,
        fitBytes 128 ((List.range 116).map (softBit j (recsBytes rs))) ++ (List.range j.count).flatMap (mlseReport j (recsBytes rs)))] }) ∧
    (∀ bs, JobReady true 0x33 tile ref s j →
      jobReads j ((List.range j.count).map fun i => (j.inp + i * 64, 64)) s = (.ok bs, v) →
      JobDone (exec (.convEnc tile ref) s) j j v
        { writes := (List.range j.count).map fun i => (j.outp + i * 64, freeOut j (bs.getD i []) i 64) }) ∧
    (∀ bs, JobReady true 0x35 tile ref s j →
      jobReads j ((List.range j.count).map fun i => (j.inp + 32 * i, 32)) s = (.ok bs, v) →
      JobDone (exec (.gmskMod tile ref) s) j j v
        { writes := recWrites j (j.f 40 4) ((List.range j.count).map fun i => gmskRec j (bs.getD i []) i) }) ∧
    (∀ bs, JobReady true 0x23 tile ref s j → jobReads j [(j.inp, ceilDiv (j.f 42 2) 8)] s = (.ok bs, v) →
      JobDone (exec (.polarEnc tile ref) s) j j v { writes := [(j.outp, freeOut j bs.flatten 0 (bits64 (j.f 44 4)))] }) ∧
    (∀ r y w, JobReady true 0x20 tile ref s j → (j.committed = true ∨ j.aux = 0) →
      softDecode j (bits64 (j.f 44 2)) s = (.ok r, y, w) → JobDone (exec (.ldpcDec tile ref) s) j y w r) ∧
    (∀ r y w, JobReady true 0x30 tile ref s j → (j.committed = true ∨ j.aux = 0) →
      softDecode j (bits64 (j.f 40 2)) s = (.ok r, y, w) → JobDone (exec (.turboDec tile ref) s) j y w r) ∧
    (∀ bs, JobReady true 0x21 tile ref s j →
      jobReads j ((List.range j.count).map fun i => (j.inp + i * bits64 (j.f 44 2), ceilDiv (j.f 44 2) 8)) s = (.ok bs, v) →
      JobDone (exec (.ldpcEnc tile ref) s) j j v { writes := (List.range j.count).map fun i =>
        (j.outp + (runStarts (fun i => ceilDiv (blockE j i) 8) j.count).getD i 0,
         freeOut j (bs.getD i []) i (bits64 (blockE j i))) }) ∧
    (∀ bs, JobReady true 0x31 tile ref s j →
      jobReads j ((List.range j.count).map fun i => (j.inp + i * bits64 (j.f 40 2), ceilDiv (j.f 40 2) 8)) s = (.ok bs, v) →
      JobDone (exec (.turboEnc tile ref) s) j j v { writes := (List.range j.count).map fun i =>
        (j.outp + (runStarts (fun i => ceilDiv (blockE j i) 8) j.count).getD i 0,
         freeOut j (bs.getD i []) i (bits64 (blockE j i))) })

/-- For every job that is ready to run its function and whose inputs are read without error: CHEST, DETECT, PRECODE, DEMAP, COMBINE, POLAR_DEC, CONV_DEC and CMATMUL, CMATMULH, CGRAM and CCHOLSOLVE of the helper write or stage the output of their function and decide the status; a random-access search (PRACH_SEARCH, RACH_SEARCH) records the detections that its peaks within the delay search give and writes their reports, and PRACH_WINDOW_CLOSE confirms them and decides OK. -/
def Obligations.EqualiserAndSearchFunctions : Prop :=
  ∀ (tile : Nat) (ref : JobRef) (s v : State) (j : AccJob) (peaks : List Peak),
    let countFalse (w : State) (n : Nat) : State :=
      if n = 0 then w else { w with acc := { w.acc with falsePreambles := mupd 0 tile (· + n) w.acc.falsePreambles } }
    (∀ rs w pil, JobReady true 0x11 tile ref s j → jobRecs j (strided j.inp j.count (j.f 52 4)) s = (.ok rs, w) →
      jobRead j j.aux (4 * j.f 41 1 * (setBits (j.f 42 2) 14).length * j.f 48 2 * (pilotSubs (j.f 45 1) 0).length) w = (.ok pil, v) →
      JobDone (exec (.chest tile ref) s) j j v { writes := [(j.outp, estimateBlock v.parison j
        (((rs.head?).map fun x => x.h.ports).getD 1) rs pil)], used := j.cap }) ∧
    (∀ rs w est, JobReady true 0x13 tile ref s j → jobRecs j (strided j.inp j.count (j.f 48 4)) s = (.ok rs, w) →
      jobRead j j.aux (estBytes (j.f 41 1) (j.f 40 1) (j.f 44 2) j.count) w = (.ok est, v) →
      let x := recsBytes rs ++ est
      JobDone (exec (.detect tile ref) s) j j v
        { writes := recWrites j (j.f 52 4) ((List.range j.count).map fun k => freeOut j x k (72 * j.f 44 2 * j.f 40 1)),
          used := j.cap, sat := Config.signalNum 0x13 j.body x j.cap 0 % 2 == 1 }) ∧
    (∀ bs, JobReady true 0x22 tile ref s j → jobReads j [(j.inp, j.f 44 4)] s = (.ok bs, v) →
      JobDone (exec (.polarDec tile ref) s) j j v (decodeOut j 1 (bits64 (j.f 42 2)) bs.flatten (some (listSize j.cap)))) ∧
    (∀ bs, JobReady true 0x32 tile ref s j →
      jobReads j ((List.range j.count).map fun i => (j.inp + i * pad64 (convBits j), convBits j)) s = (.ok bs, v) →
      JobDone (exec (.convDec tile ref) s) j j v (decodeOut j j.count 64 bs.flatten (some 0))) ∧
    (∀ bs, JobReady true 0x14 tile ref s j → jobReads j [(j.inp, 4 * j.count), (j.aux, 2 * j.count)] s = (.ok bs, v) →
      let scr := if j.f 41 1 = 1 then scramble (j.f 44 4) (j.f 48 4) j.count else []
      let out := (List.range j.count).map fun k =>
        demapOne j (j.f 40 1) (k / modBits (j.f 40 1)) ((c16s (bs.getD 0 [])).getD (k / modBits (j.f 40 1)) (0, 0))
          (ent (bs.getD 1 []) (2 * (k / modBits (j.f 40 1))) 2) (k % modBits (j.f 40 1)) (scr.getD k false) k
      JobDone (exec (.demap tile ref) s) j j v { writes := [(j.outp, out.map Prod.snd)], sat := out.any Prod.fst }) ∧
    (∀ bs, JobReady true 0x15 tile ref s j →
      jobReads j [(j.inp, 48 * j.f 44 2 * j.f 40 1 * j.count), (j.aux, 4 * j.f 40 1 * j.f 41 1 * precodeMats j)] s = (.ok bs, v) →
      let l := (List.range j.count).map (precodeRec j bs)
      JobDone (exec (.precode tile ref) s) j j v
        { writes := recWrites j (j.f 48 4) (l.map Prod.snd), sat := (l.map Prod.fst).foldl (· + ·) 0 != 0 }) ∧
    (∀ b w c x e ls est, JobReady true 0x12 tile ref s j → jobRead j j.inp (16 * j.count) s = (.ok b, w) →
      aligned64 ((List.range j.count).map fun i => ent b (16 * i) 8) = true → j.aux ≠ 0 →
      jobReads j [(j.aux, 512)] w = (.ok c, x) →
      combineReads j ((List.range j.count).map fun i => ent b (16 * i) 8) (List.range (j.f 41 1)) x = (.ok ls, e) →
      jobReads j (combineEsts j b ls) e = (.ok est, v) →
      JobDone (exec (.combine tile ref) s) j j v (combineOut v j c.flatten est.flatten ls)) ∧
    (∀ b w e ls est, JobReady true 0x12 tile ref s j → jobRead j j.inp (16 * j.count) s = (.ok b, w) →
      aligned64 ((List.range j.count).map fun i => ent b (16 * i) 8) = true → j.aux = 0 →
      combineReads j ((List.range j.count).map fun i => ent b (16 * i) 8) (List.range (j.f 41 1)) w = (.ok ls, e) →
      jobReads j (combineEsts j b ls) e = (.ok est, v) →
      JobDone (exec (.combine tile ref) s) j j v (combineOut v j [] est.flatten ls)) ∧
    (let a := 4 * (dims j).1 * (dims j).2.1 * j.f 6 2
     let b := 4 * (dims j).2.1 * (dims j).2.2 * j.f 6 2
     let out (op : Nat) (bs : List (List Byte)) : JobOut :=
       let o := outSamples (((List.range (j.f 6 2)).flatMap fun n => helperMat op j
         ((c16s (bs.getD 0 [])).drop (n * (dims j).1 * (dims j).2.1))
         ((c16s (bs.getD 1 [])).drop (n * (dims j).2.1 * (dims j).2.2))).map (narrowAcc (j.f 1 1)))
       { writes := [(j.aux, o.2)], sat := o.1 != 0 }
     (∀ bs, jobReads j [(j.inp, a), (j.outp, b)] s = (.ok bs, v) →
       (JobReady false 0 tile ref s j → JobDone (exec (.cmatmul tile ref) s) j j v (out 0 bs)) ∧
       (JobReady false 1 tile ref s j → JobDone (exec (.cmatmulh tile ref) s) j j v (out 1 bs))) ∧
     (∀ bs, jobReads j [(j.inp, a)] s = (.ok bs, v) →
       JobReady false 2 tile ref s j → JobDone (exec (.cgram tile ref) s) j j v (out 2 bs))) ∧
    (∀ bs, JobReady false 3 tile ref s j →
      jobReads j [(j.inp, 8 * (dims j).1 * (dims j).2.1 * j.f 6 2), (j.outp, 8 * (dims j).2.1 * (dims j).2.2 * j.f 6 2)] s = (.ok bs, v) →
      ∃ r, JobDone (exec (.ccholsolve tile ref) s) j j v r ∧ r.writes.length = 1 ∧
        r.sat = (List.range (j.f 6 2)).any fun n => decide (failPivot j bs.flatten n < (dims j).1)) ∧
    (let found := (peaks.filter (inSearch j)).foldl (addPeak (j.f 46 1) (j.f 47 1)) (j.dets, 0)
     ∀ rs, s.job tile ref = some j → (accKind s.part tile).isSome = true → canRun s 0x40 { j with ran := false } = true →
      (if j.ran then (.ok [], s) else listedRecs j (branchRecs j) s) = (.ok rs, v) →
      exec (.prachSearch tile ref peaks) s =
        .next (let c := if j.ran then j.used else ((rs.head?).map fun x => x.h.carrier).getD 0
               let y := { j with dets := found.1, ran := true, used := c }
               writeReports c y (setJob (countFalse v found.2) y))) ∧
    (let found := (peaks.filter (inSearch j)).foldl (addPeak (j.f 42 1) (j.f 43 1)) (j.dets, 0)
     ∀ rs, s.job tile ref = some j → (accKind s.part tile).isSome = true → canRun s 0x41 { j with ran := false } = true →
      j.committed = true → (if j.ran then (.ok [], s) else listedRecs j (branchRecs j) s) = (.ok rs, v) →
      exec (.rachSearch tile ref peaks) s =
        .next (let c := if j.ran then j.used else ((rs.head?).map fun x => x.h.carrier).getD 0
               let y := { j with dets := found.1, ran := true, used := c }
               nextConfirm y (dropConfirm j y (writeReports c y (setJob (countFalse v found.2) y))))) ∧
    (s.job tile ref = some j → j.func = 0x40 → j.ran = true → j.status = none → j.body ≠ [] →
      exec (.prachWindowClose tile ref) s =
        .next (setJob s { j with dets := j.dets.map (fun d => { d with settled := some true }), status := some 0, used := 0 }))

/-- For every requester and every register address where the access is allowed (R11, R365): the low-half read of a plain wide register answers the low word and latches the high word for that requester; a low-half write holds the low word and leaves the register unchanged; a high-half write sets the register to the high word over the held low word, or over its current low word; a write to a plain 32-bit register changes exactly its writable bits and clears the W1C bits written 1, answering done; a read-to-clear register answers its value and then holds 0; the first half of a complement pair is held without effect, the matching second half by the same requester takes effect, and anything else discards the pair and sets CPAIR_ERR, as does the passing of 1,024 ns. -/
def Obligations.RegisterAccess : Prop :=
  ∀ (r : Requester) (a : Nat) (v : Word) (b : Block) (off : Nat) (row : RegRow) (s : State),
    placeOf s.part a = .regs b off → (∀ t c, b ≠ .core t c) → rowAt b off = some row →
    ((off = 0 → b ≠ .mbx) → regErr s r false a 4 b off = none → row.kind ≠ .wo → row.kind ≠ .cp →
      (row.wide = true → row.isHigh off = false → isNowSec b off = false → isNowFrac b off = false →
        exec (.reg64LowRead r a) s = .next (State.answer
          { s with regs := { s.regs with latches := heldPut r a (hi32 (view64 s r b off a)) s.regs.latches } }
          (.data ((lo32 (view64 s r b off a)).setWidth 64)))) ∧
      (row.wide = false → row.kind = .rc → b ≠ .mbx →
        exec (.rcRead r a) s = .next ((s.setReg a 0#32).answer (.data ((view32 s r b off a).setWidth 64))))) ∧
    (regErr s r true a 4 b off = none → row.kind ≠ .rc → row.kind ≠ .cp → row.wide = true →
      (row.isHigh off = false → exec (.reg64LowWrite r a v) s = .next (State.answer
        { s with regs := { s.regs with held := heldPut r a v s.regs.held } } .done)) ∧
      (row.isHigh off = true → exec (.reg64HighWrite r a v) s = .next (State.answer
        (let t := heldTake r (a - 4) s.regs.held
         write64 r b (off - 4) (a - 4) (dw v (t.1.getD (lo32 (view64 s r b (off - 4) (a - 4)))))
           { s with regs := { s.regs with held := t.2 } }) .done))) ∧
    (regErr s r true a 4 b off = none → row.kind = .cp →
      exec (.cpWrite r a v) s = .next ((cpWriteHalf r (a - off % 8) (off % 8 == 4) v s).answer .done)) ∧
    (regErr s r true a 4 b off = none → row.kind ≠ .rc → row.kind ≠ .cp → row.wide = false → b = .pwr ∨ b = .wake →
      exec (.registerWrite r a 4 (v.setWidth 64)) s = .next ((plainWrite row a v s).answer .done)) ∧
    (∀ (c : Bool), mget a s.regs.cp = none →
      cpWriteHalf r a c v s = { s with regs := { s.regs with
        cp := mset a { complement := c, value := v, by_ := r, at_ := s.now } s.regs.cp } }) ∧
    (∀ (c : Bool) (x : CpPending), mget a s.regs.cp = some x → s.now ≤ x.at_ + 1024 →
      (x.by_ = r → x.complement ≠ c → x.value = ~~~v → bit (if c then x.value else v) 0 = false →
        cpWriteHalf r a c v s = State.setField { s with regs := { s.regs with cp := mdel a s.regs.cp } } a 0 0 0) ∧
      (x.by_ ≠ r ∨ x.complement = c ∨ x.value ≠ ~~~v →
        cpWriteHalf r a c v s = State.orReg { s with regs := { s.regs with cp := mdel a s.regs.cp } } R.TIME_EVT 0)) ∧
    (∀ x : CpPending, mget a s.regs.cp = some x → x.at_ + 1024 ≤ s.now →
      exec (.cpPairTimeout a) s = .next (State.orReg { s with regs := { s.regs with cp := mdel a s.regs.cp } } R.TIME_EVT 0))

/-- For every DMA channel in RUN whose fetched instruction has not begun: NOP and JUMP go on at the next instruction and at the target; SET writes or adds to ARi or LCi (an ARi of 2^48 or more halts with BAD_INSN); LOOP counts LCi down (loading it from 0) and branches back while it is not 0; MOVE issues its rows; WAIT waits with the reason of its kind, on a queue only of a dispatcher tile in RUN; END parks a channel whose doorbell has not rung again, with its notice, and counts a run that a parked channel's doorbell began; SIGNAL EVENT sets the event flag of a running tile's engine, SIGNAL INTERRUPT the pending bit of a running tile's core, and SIGNAL QPUSH pushes the entry it read, waiting where the push is held. DMA_FETCH takes the 16 bytes at DMA_CH_PC and, where a field is out of range, halts with BAD_INSN. -/
def Obligations.DmaInstructions : Prop :=
  ∀ (t : Nat) (ch : Fin 16) (s : State),
    let c := ch.val
    let i := (s.chan t c).insn
    let pc := chPc s t c
    (∀ b v, chSt s t c = .run → tileRun s t = true → i = [] → busRead (.dma t c) pc 16 s = (.ok b, v) →
      exec (.dmaFetch t ch) s = .next (if insnOk b then modChan v t c fun x => { x with insn := b }
        else badInsn (modChan v t c fun x => { x with insn := b }) t c)) ∧
    (ready s t c 7 = true → exec (.dmaNop t ch) s = .next (chGoto s t c (pc + 16))) ∧
    (ready s t c 5 = true → exec (.jump t ch) s = .next (chGoto s t c (ent i 8 8))) ∧
    (ready s t c 6 = true → ent i 1 1 < 4 →
      let n := (if iBits i 2 0 0 = 1 then chAR s t c (ent i 1 1) + ent i 8 8 else ent i 8 8) % 2 ^ 64
      exec (.set t ch) s = .next (if 2 ^ 48 ≤ n then badInsn s t c
        else chNext (s.setReg64 (R.DMA_CH_AR t c (ent i 1 1)) (BitVec.ofNat 64 n)) t c)) ∧
    (ready s t c 6 = true → 4 ≤ ent i 1 1 →
      let a := R.DMA_CH_LC t c (ent i 1 1 - 4)
      exec (.set t ch) s = .next (chNext (s.setReg a
        (BitVec.ofNat 32 (if iBits i 2 0 0 = 1 then (s.reg a).toNat + ent i 8 8 else ent i 8 8))) t c)) ∧
    (ready s t c 2 = true →
      let a := R.DMA_CH_LC t c (iBits i 1 1 0)
      let n := if s.reg a = 0#32 then ent i 4 4 - 1 else (s.reg a).toNat - 1
      let w := s.setReg a (BitVec.ofNat 32 n)
      exec (.loop t ch) s = .next (if n = 0 then chNext w t c else chGoto w t c (rowAddr (chPc w t c) 16 (iSigned i 2 2)))) ∧
    (ready s t c 1 = true → exec (.move t ch) s = .next (issueRows 512 (modChan s t c fun x => { x with begun := true }) t c)) ∧
    (ready s t c 3 = true → (ent i 1 1 = 1 ∨ ent i 1 1 = 2 → qidPresent s (ent i 2 2) = true ∧
        tileRun s (dsqTile (qidDsq (ent i 2 2))) = true) →
      exec (.dmaWait t ch) s = .next (setSt (modChan s t c fun x => { x with begun := true, waitAt := s.now }) t c .wait
        (if ent i 1 1 = 0 then 1 else if ent i 1 1 ≤ 2 then 2 else 3))) ∧
    (ready s t c 0 = true → ringPend s t c = false →
      let w := if (s.chan t c).fromPark then s.count (R.DMA_CH_DBRED t c) 1 else s
      exec (.end_ t ch) s = .next (chNotice (setSt (setChan w t c DmaChan.reset) t c .park 0) t c 27)) ∧
    (ready s t c 0 = true → ringPend s t c = true →
      exec (.end_ t ch) s = .next (issueFetch (s.setField (R.DMA_CH_STAT t c) 20 20 0) t c (s.chan t c).fromPark)) ∧
    (ready s t c 4 = true → ent i 1 1 = 0 → hasDma s (ent i 2 1) = true → tileRun s (ent i 2 1) = true →
      exec (.signalEvent t ch) s =
        .next (modChan (evtSet s (ent i 2 1) (bitMask (ent i 3 1))) t c fun x => { x with begun := true, out := [0] })) ∧
    (ready s t c 4 = true → ent i 1 1 = 2 → isDsp s.part (ent i 2 1) = true → tileRun s (ent i 2 1) = true →
      exec (.signalInterrupt t ch) s =
        .next (modChan (dmaIrq s (ent i 2 1) (ent i 3 1)) t c fun x => { x with begun := true, out := [0] })) ∧
    (∀ b v w, ready s t c 4 = true → ent i 1 1 = 1 → busReadMany (.dma t c) (entryAddr s t c i) 32 s = (.ok b, v) →
      let u := modChan w t c fun x => { x with begun := true, out := [0] }
      (pushQ (.dma t c) (ent i 4 2) b v = (.accepted, w) → exec (.signalQpush t ch) s = .next u) ∧
      (pushQ (.dma t c) (ent i 4 2) b v = (.held, w) → exec (.signalQpush t ch) s = .next (setSt u t c .wait 5)))

/-- For every DMA channel: a request of a row in flight completes when its tokens are there; a channel with an abort pending and nothing outstanding halts with cause 6 and ARESULT ABORTED; a satisfied wait with no channel of a lower number waiting on events before it goes on at the next instruction, its flags cleared where it says so, a wait on a queue whose dispatcher tile left RUN halts with cause 4, and an expired one halts with cause 7; a channel waiting on an empty queue tries its rows again; a stream gate that opens lets its waiting channel fetch. A RING, ABORT, RESUME or RESET that reaches the engine acts by the channel's state: RING of an IDLE channel starts it at DMA_CH_PC with its byte count and error state cleared and RING of a running one sets RING_PEND; ABORT of a channel that does not run answers ABORT_TOO_LATE; RESET of a parked or halted channel makes it IDLE. A write of DMA_EVT_SET sets flags; a held push that finds room is accepted and its channel runs on. -/
def Obligations.DmaChannelEvents : Prop :=
  ∀ (r : Requester) (t : Nat) (ch : Fin 16) (row qid : Nat) (mask : Word) (s : State),
    let c := ch.val
    let x := s.chan t c
    let rung (o : Host.Outcome State Fault Refusal) (u : State) : Prop :=
      placeOf s.part (R.DMA_CH_DOORBELL t c) = .regs (.dma t) (0x80 * c + 0x10) →
        regErr s r true (R.DMA_CH_DOORBELL t c) 4 (.dma t) (0x80 * c + 0x10) = none → o = .next (u.answer .done)
    (chSt s t c = .run ∨ chSt s t c = .wait ∧ wReason s t c = 6 → x.begun = true → row ∈ x.out → isMove x.insn = true →
      exec (.dmaRequestComplete t ch row) s = .next (rowInject s t c row)) ∧
    (chSt s t c = .run ∨ chSt s t c = .wait → x.out = [] → x.abort = true →
      exec (.dmaHalt t ch) s = .next ((haltWith s t c 6 false 5 none (rowsDone x)).setReg (R.DMA_CH_ARESULT t c) 12#32)) ∧
    (((List.range c).filter fun k => inWait s t k && wReason s t k == 1) = [] →
      (fillAsleep s t c = true → exec (.dmaWaitSatisfied t ch) s = .next (haltWith s t c 4 false 5 none 0)) ∧
      (fillAsleep s t c = false → inWait s t c = true → waitHolds s t c = true →
        exec (.dmaWaitSatisfied t ch) s = .next (chNext (if ent x.insn 1 1 = 0 && (ent x.insn 8 8).testBit 33
          then s.modReg (R.DMA_EVT t) (· &&& ~~~(BitVec.ofNat 32 (ent x.insn 8 8))) else s) t c))) ∧
    (inWait s t c = true → ent x.insn 4 4 ≠ 0 → x.waitAt + ent x.insn 4 4 * 1000 ≤ s.now → waitHolds s t c = false →
      exec (.dmaWaitTimeout t ch) s = .next (haltWith s t c 7 false 5 none 0)) ∧
    (chSt s t c = .wait → wReason s t c = 6 → tileRun s t = true →
      exec (.qemptyRetry t ch) s = .next (issueRows 512 s t c)) ∧
    (hasDma s t = true → streamOn s t c = true → tileRun s t = true → chSt s t c ≠ .idle →
      chSt (gateUpdate s t c) t c = .wait → wReason (gateUpdate s t c) t c = 4 → gateOpen (gateUpdate s t c) t c = true →
      exec (.streamGateMessage t ch) s =
        .next (issueFetch (gateUpdate s t c) t c ((gateUpdate s t c).chan t c).fromPark)) ∧
    rung (exec (.ring r t ch) s) (doRing s t c) ∧ rung (exec (.abort r t ch) s) (doAbort s t c) ∧
    rung (exec (.resume r t ch) s) (doResume s t c) ∧ rung (exec (.reset r t ch) s) (doReset s t c) ∧
    (chSt s t c = .run → doRing s t c = s.orReg (R.DMA_CH_STAT t c) 20) ∧
    (chSt s t c = .idle → doAbort s t c = s.setReg (R.DMA_CH_ARESULT t c) 11#32) ∧
    (placeOf s.part (R.DMA_EVT_SET t) = .regs (.dma t) 0x810 → regErr s r true (R.DMA_EVT_SET t) 4 (.dma t) 0x810 = none →
      exec (.dmaEvtSet r t mask) s = .next ((evtSet s t mask).answer .done)) ∧
    (∀ h l, (s.queue qid).held = h :: l → h.producer = .dma t c →
      ((acceptHeld s qid).queue qid).held.length ≠ (s.queue qid).held.length →
      chSt (acceptHeld s qid) t c = .wait → wReason (acceptHeld s qid) t c = 5 →
      exec (.heldPushAccept qid) s = .next (setSt (acceptHeld s qid) t c .run 0))

/-- In every state that meets its condition: QUEUE_PUSH to a present, awake, enabled queue with room appends the entry, and to a disabled one changes only the dispatcher's status bit; QUEUE_POP of an enabled STREAM queue answers the entries it takes from the head, and an absent queue answers DECODE_ERR; QUEUE_ENABLE of an unlocked queue enables it; DISPATCH of a running dispatcher tries the heads of its queues in their order; CORE_TASK_START starts the task that the dispatcher placed on an idle core: its A0, A1, G0 and G1, its entry point, flags cleared and the core in RUN; a passed HARD deadline of a running task pends once; TASK_END_REPORT of a reported task ends its work; CONTEXT_PREFETCH_DONE of a head that asks for a prefetch copies its context into the chosen slot, or notes the uncorrectable error that the copy met. -/
def Obligations.DispatchAndTasks : Prop :=
  ∀ (p : Producer) (r : Requester) (qid q max tile core seq : Nat) (entry : List Byte) (s : State),
    let x := s.queue qid
    (qidPresent s qid = true → tileRun s (dsqTile (qidDsq qid)) = true →
      (∀ t c k, p = .core t c k → ∀ w, runningOn s t c = some w → w.outq ≠ some qid ∨ w.resvLeft = 0) →
      (x.en = true → qFree x ≠ 0 → x.held = [] →
        exec (.queuePush p qid entry) s = .next (enqueue s qid (fitBytes 32 entry))) ∧
      (x.en = false → exec (.queuePush p qid entry) s = .next (s.orReg (R.DSQ_STAT (qidDsq qid)) 3))) ∧
    (qidPresent s qid = true → tileRun s (dsqTile (qidDsq qid)) = true → x.kind = 3 → x.en = true →
      exec (.queuePop r qid max) s = .next ((popMany max qid s).2.answer (.bytes (popMany max qid s).1.flatten))) ∧
    (qidPresent s qid = false → exec (.queuePop r qid max) s = .next (s.answer (.error .decodeErr))) ∧
    (qidPresent s qid = true → x.lock = false → x.en = false → 2 ≤ x.depth → x.depth ≤ 16 → x.kind ≠ 2 →
      x.loc = false → granulesUsed s (qidDsq qid) + ceilDiv (2 ^ x.depth) 32 ≤ 2048 →
      exec (.queueEnable r qid) s = .next ((s.setQueue qid { x with en := true }).answer .done)) ∧
    (quadPresent s.part q = true → s.power.stopping = false → tileRun s (dsqTile q) = true →
      exec (.dispatch q) s = .next (decide_ ((sortBy (fun x => headKey s x.1 x.2.1 x.2.2) (heads s q)).map fun x => x.1) s)) ∧
    (∀ w : Running, runningOn s tile core = some w → coreBusy s tile core = false → w.reported = none → tileRun s tile = true →
      w.slot = none → hardPassed s w = false →
      ∃ y : Core, exec (.coreTaskStart tile core) s = .next (setRunning (s.setCore tile core y) { w with hardRaised := false }) ∧
        y.pc = BitVec.ofNat 64 (eEntry w.entry) ∧ y.flags = 0#32 ∧ y.st = .run ∧ y.ar 0 = BitVec.ofNat 64 (eArg w.entry) ∧
        y.ar 1 = 0#64 ∧ y.gr 0 = BitVec.ofNat 32 w.scale ∧ y.gr 1 = BitVec.ofNat 32 (w.flid * 65536 + w.seq) ∧
        y.exl = false ∧ y.sup = bit (s.core tile core).ctrl 2 ∧ y.v = (s.core tile core).v ∧ y.cq = (s.core tile core).cq) ∧
    (∀ w : Running, runningOn s tile core = some w → coreBusy s tile core = true → w.hardRaised = false →
      hardPassed s w = true → exec (.deadlineHard tile core) s = .next (setRunning (s.setCore tile core
        { s.core tile core with ipend := (s.core tile core).ipend ||| 2#32 }) { w with hardRaised := true })) ∧
    (∀ (w : Running) (how : Bool), s.dsq.running = [w] → w.ended = none → w.reported = some how → w.slot = none →
      w.qid = qid → w.seq = seq → w.tile = tile → exec (.taskEndReport qid seq tile w.core) s = .next (endWork s w how)) ∧
    (∀ b k v, peekHead s qid = (some b, v) → (v.queue qid).kind = 0 → ePrefetch b = true → s.parison = false →
      ctxOk s (eArg b) = true → slotOf s (qidDsq qid) (eArg b) = none → (v.queue qid).ctxUe = false →
      victimSlot s (qidDsq qid) = some k →
      (∀ l w, prefetchRead (qidDsq qid) (eArg b) v = (some l, w) →
        exec (.contextPrefetchDone qid) s = .next (
          let a := slotAddr (qidDsq qid) k
          let t := memWrite (.dsq (qidDsq qid)) (placeOf w.part a) a l w
          (setSlot t (qidDsq qid) k { ctx := eArg b, dirty := false, stamp := t.dsq.ctxStamp, busy := false }).setQueue qid
            { v.queue qid with prefetched := true })) ∧
      ∀ w, prefetchRead (qidDsq qid) (eArg b) v = (none, w) →
        exec (.contextPrefetchDone qid) s = .next (w.setQueue qid { v.queue qid with ctxUe := true }))

/-- In every state that meets its condition: a READ, WRITE or MESSAGE of at most one block to a present tile that has its tokens enters the network on its route, and without tokens waits at its port and is counted; once it has arrived its target answers with its data or its error, or delivers the message, and a target that takes no packets returns it; a READ, WRITE or MESSAGE to an absent tile is refused at the port, a READ or WRITE of an address that no tile serves is answered DECODE_ERR; a RESPONSE or RETURN that has come back to a tile that takes its answers is handed over, with the data, done or the error (DOMAIN_ASLEEP, counted, for a RETURN). A route takes the shorter way round each ring of the torus, first along X, on virtual channel 0 until the leg passes its dateline and on 1 from there; a link serves the highest class that bids for it. A link CRC error is counted and replayed, and a link that failed 64 replays in succession sets the status bit and is journalled. -/
def Obligations.NocPackets : Prop :=
  ∀ (r : Requester) (cls : Fin 4) (tag req addr n dst tile : Nat) (data : List Byte) (link : Fin 4) (fails : Bool) (s : State),
    let q (op n : Nat) (d : List Byte) : NocReq :=
      { src := reqTile r, req := req, tag := tag, cls := cls, op := op, by_ := r, addr := addr, nbytes := n, data := d }
    let carried (o : Host.Outcome State Fault Refusal) (x : NocReq) (to_ flits : Nat) (act : State → State) : Prop :=
      (atTarget s x = false → flying s (.request x) = false → canSend s x.src = true →
        (waitsBehind s x = false → mayInject s x.src x.cls flits = true →
          let w := chargeFlits s x.src x.cls flits
          o = .next (launchPacket { w with noc := { w.noc with waiting := leaveWaiting x w.noc.waiting } } (.request x) x.cls
            x.src to_ flits)) ∧
        (mayInject s x.src x.cls flits = false → s.noc.waiting.contains x = false →
          let w := countWait s x.src x.cls
          o = .next { w with noc := { w.noc with waiting := w.noc.waiting ++ [x] } })) ∧
      (atTarget s x = true →
        o = .next (if answers (takeRequest x s) r to_ then act (takeRequest x s) else returnToSender x to_ flits (takeRequest x s)))
    (∀ to_, inOneBlock addr n = true → absentDest s addr = false → nocDest s addr = some to_ →
      carried (exec (.nocRead r cls tag req addr n) s) (q 0 n []) to_ 1 fun w =>
        match (busRead r addr n w).1 with
        | .ok b => respond (q 0 n []) to_ 0 b (busRead r addr n w).2
        | .error c => respond (q 0 n []) to_ c.num [] (busRead r addr n w).2) ∧
    (∀ to_, inOneBlock addr data.length = true → absentDest s addr = false → nocDest s addr = some to_ →
      carried (exec (.nocWrite r cls tag req addr data) s) (q 1 data.length data) to_ (ceilDiv data.length 128) fun w =>
        match (busWrite r addr data w).1 with
        | none => respond (q 1 data.length data) to_ 0 [] (busWrite r addr data w).2
        | some c => respond (q 1 data.length data) to_ c.num [] (busWrite r addr data w).2) ∧
    (data.length ≤ 512 → tilePresent s.part dst = true →
      carried (exec (.nocMessage r cls tag req dst addr data) s) (q 2 data.length data) dst (max 1 (ceilDiv data.length 128))
        fun w => { w with noc := { w.noc with messages := w.noc.messages ++
          [{ src := reqTile r, dst := dst, cls := cls, addr := addr, data := data }] } }) ∧
    (inOneBlock addr n = true → absentDest s addr = true →
      exec (.nocRead r cls tag req addr n) s = .next (refuseAtPort (reqTile r) s)) ∧
    (inOneBlock addr data.length = true → absentDest s addr = true →
      exec (.nocWrite r cls tag req addr data) s = .next (refuseAtPort (reqTile r) s)) ∧
    (data.length ≤ 512 → tilePresent s.part dst = false →
      exec (.nocMessage r cls tag req dst addr data) s = .next (refuseAtPort (reqTile r) s)) ∧
    (inOneBlock addr n = true → absentDest s addr = false → nocDest s addr = none →
      exec (.nocRead r cls tag req addr n) s = .next (s.answer (.error .decodeErr))) ∧
    (inOneBlock addr data.length = true → absentDest s addr = false → nocDest s addr = none →
      exec (.nocWrite r cls tag req addr data) s = .next (s.answer (.error .decodeErr))) ∧
    (∀ x, answerTo s dst req tag 3 = some x → dropsAnswers (takeAnswer x s) dst = false →
      exec (.nocResponse dst req tag) s = .next ((takeAnswer x s).answer (if x.status = 0 then
        (if x.data.isEmpty then .done else .bytes x.data) else .error (statusCause x.status)))) ∧
    (∀ x, answerTo s dst req tag 4 = some x → dropsAnswers (takeAnswer x s) dst = false →
      exec (.nocReturn dst req tag) s =
        .next (((takeAnswer x s).count (R.NOC_CNT_RET_RCVD dst) 1).answer (.error .domainAsleep))) ∧
    (∀ (p : Part) (a b : Nat), a ≠ b → a % 12 < torusW p → b % 12 < torusW p → a / 12 < torusH p → b / 12 < torusH p →
      let across (n c d : Nat) : Nat := min ((d + n - c) % n) (n - (d + n - c) % n)
      (route p a b).length = across (torusW p) (a % 12) (b % 12) + across (torusH p) (a / 12) (b / 12) ∧
      (∀ h ∈ (route p a b).take (across (torusW p) (a % 12) (b % 12)), h.dir < 2 ∧ h.tile / 12 = a / 12) ∧
      (∀ h ∈ (route p a b).drop (across (torusW p) (a % 12) (b % 12)), 2 ≤ h.dir ∧ h.dir < 4 ∧ h.tile % 12 = b % 12)) ∧
    (∀ (k c m vc : Nat) (up : Bool), c < m →
      (∀ h ∈ ringHops m up k c vc, h.2 = 1 ∨ h.2 = vc) ∧
      ∀ i h, (ringHops m up k c 0)[i]? = some h → i < m →
        h.2 = if (if up then m ≤ c + i + 1 else c ≤ i) then 1 else 0) ∧
    (∀ (served : FMap Nat) (k : Link) (l : List Bid) (w : Bid), winner served k l = some w →
      w ∈ l ∧ ∀ b ∈ l, w.cls ≤ b.cls) ∧
    (tilePresent s.part tile = true → s.devState ≠ 3 →
      exec (.linkCrcReplay tile link fails) s =
        .next (let v := s.count (R.NOC_CNT_LINK_RETRY tile) 1
               let n := if fails then linkFails s tile link + 1 else 0
               { v with noc := { v.noc with replays := mset (tile * 4 + link) n v.noc.replays,
                                            held := mset (linkKey (tile, link.val)) (s.now + 5) v.noc.held } })) ∧
    (64 ≤ linkFails s tile link →
      exec (.linkFail tile link) s = .next ((s.orReg (R.NOC_STAT tile) 3).journal Config.linkFailRecord.1 Config.linkFailRecord.2 tile
        (Config.recordBody Config.linkFailRecord.1 [BitVec.ofNat 8 link.val])))

/-- In every state that meets its condition. CORRECTED_WRITEBACK of a word that waits takes it off the list and, where the word still holds its correctable error, writes it back clean. UE_REPORT with a report waiting and the Gaffer up raises the event with the report's detail and starts the count of suppressed reports anew, or, the 64 of the second sent, counts the report as suppressed. A scrub pass that is due, or is made first, reads every marked word of its memory, counts the words with a repeated correctable error, and starts the next interval with the duty's lag cleared; a memory at twice its interval sets its late flags. The harvest of a running tile collects its 16 CLOG entries, brings the soft-fuse table up to date with the stuck words that are still poisoned, and ends the duty. An accepted ERR_INJECT with the semaphore and good arguments writes the injection register and answers it. A permitted write of ECC_CLR or MEMC_CLR clears the block's counters where bit 0 is 1, and one of LEHR_BUDGET sets the budget and, with it, the BACKGROUND bucket of every lit tile. JOURNAL_RECORD of a listed type journals its record; with room to stage, no record waiting and none lost, that appends one record of that type, source and body whose sequence number is the next one. JOURNAL_COPY drains the buffer and, due or with a page full, programs one page and ends the duty. A late duty sets its LAG bit and event. The telemetry collection of a running I/O tile notes the ring's write pointer as read and ends the duty. -/
def Obligations.IntegrityAndDuties : Prop :=
  ∀ (cw tile target arm pos rtype sev source duty iot : Nat) (double : Nat) (pOk eOk : Bool) (body : List Byte) (mem : ScrubMem)
    (stuck : List Nat) (r : Requester) (value : Word) (m : TcsMsg) (s u : State),
    (cw ∈ s.mem.writeBacks →
      let w : State := { s with mem := { s.mem with writeBacks := s.mem.writeBacks.filter (· != cw) } }
      (∀ b, mget cw s.mem.marks = some (.ce b) → exec (.correctedWriteback cw) s = .next (w.setMark cw none)) ∧
      ((∀ b, mget cw s.mem.marks ≠ some (.ce b)) → exec (.correctedWriteback cw) s = .next w)) ∧
    (∀ x l, s.mem.ueReports = x :: l → gafferUp s = true →
      let v : State := { s with mem := { s.mem with ueReports := l } }
      (reportsNow s < 64 → exec .ueReport s = .next (
        let w := v.raise 0x0060 6 (serverOf x.cw (placeOf s.part x.cw)) (ueDetail s x)
        { w with mem := { w.mem with suppressed := 0, reportSec := s.now / 1000000000, reportCount := reportsNow s + 1 } })) ∧
      (64 ≤ reportsNow s →
        exec .ueReport s = .next { v with mem := { v.mem with suppressed := satAdd 16 v.mem.suppressed 1 } })) ∧
    (lehrRuns s = true → scrubPresent s mem = true → scrubAwake s mem = true → scrubTurn s mem = true →
      (scrubSec mem * 1000000000 ≤ scrubElapsed s mem ∨ scrubFirst s mem = true) →
      let bad := (mkeys s.mem.marks).filter (scrubHas s mem)
      let hit := bad.filter fun a => match mget a s.mem.marks with | some (.ce _) => true | _ => false
      exec (.scrubPass mem) s = .next (let v := dutyDone 6 (scrubDone mem (scrubCount mem hit (bad.foldl scrubWord s)))
        { v with mem := { v.mem with retFailed := v.mem.retFailed.filter fun t => !scrubTiles mem t } })) ∧
    (scrubPresent s mem = true → 2 * scrubSec mem * 1000000000 ≤ scrubElapsed s mem →
      exec (.scrubLate mem) s = .next ((lateFlags mem).foldl (fun s a => s.orReg a 4) s)) ∧
    (lehrRuns s = true → tilePresent s.part tile = true → tileRun s tile = true →
      exec (.clogHarvest tile stuck) s = .next (dutyDone 0 (fuseUpdate
        (stuck.filter fun a => match mget a s.mem.marks with | some .poison => true | _ => false)
        ((List.range 16).foldl (harvestOne tile) s)))) ∧
    (Accepted { opcode := 0x0805 } m 0 s u → holdsSem u m 25 = true → u.parison = false →
      injectArgs u target tile arm double pos = true → answers u .gaffer tile = true →
      let a := if target = 1 then R.MEMC_INJ tile else R.ECC_INJ tile
      let w := u.setReg a (BitVec.ofNat 32 (arm * 2 ^ 31 + double * 2 ^ 30 + pos * 2 ^ 23))
      Answered (exec (.errInject m target tile arm double pos) s) { opcode := 0x0805 } m .ok
        (leBytes 4 (w.reg a).toNat ++ leBytes 4 0) 0 w) ∧
    (placeOf s.part (R.ECC_CLR tile) = .regs (.ecc tile) 4 → regErr s r true (R.ECC_CLR tile) 4 (.ecc tile) 4 = none →
      exec (.eccClr r tile value) s = .next ((eccClear tile value s).answer .done)) ∧
    (placeOf s.part (R.MEMC_CLR tile) = .regs (.memc tile) 4 → regErr s r true (R.MEMC_CLR tile) 4 (.memc tile) 4 = none →
      exec (.memcClr r tile value) s = .next ((memcClear tile value s).answer .done)) ∧
    (placeOf s.part R.LEHR_BUDGET = .regs .lehr 8 → regErr s r true R.LEHR_BUDGET 4 .lehr 8 = none →
      let v := s.modReg R.LEHR_BUDGET fun old => (value &&& 0x7F#32) ||| (old &&& ~~~0x7F#32)
      exec (.lehrBudget r value) s = .next (((litTiles v).foldl setBucket v).answer .done)) ∧
    (∀ v, severityOf rtype sev = some v →
      exec (.journalRecord rtype sev source body) s = .next (s.journal rtype v source body) ∧
      (canStage s (min 256 (64 + ceilDiv body.length 16 * 16)) = true → s.stor.buffer = [] → s.stor.lostCount = 0 →
        (s.journal rtype v source body).stor.jNext = s.stor.jNext + 1 ∧
        ∃ x : JRec, (s.journal rtype v source body).stor.staging = s.stor.staging ++ [x] ∧ x.jseq = s.stor.jNext ∧
          x.rtype = rtype ∧ x.source = source ∧ x.body = body ∧ x.severity = v)) ∧
    (let w := drainBuffer s.stor.buffer.length s
     lehrRuns s = true → lehrRuns w = true → w.nvmPaused = false → w.stor.staging ≠ [] →
      (16384 ≤ (w.stor.staging.map jLen).foldl (· + ·) 0 ∨ mgetD 0 w.stor.dutyAt 9 + 1000000000 ≤ w.now) →
      exec (.journalCopy pOk eOk) s = .next (dutyDone 9 (copyPage pOk eOk w))) ∧
    (lehrRuns s = true → dutyLate s duty = true →
      exec (.lehrLag duty) s = .next ((s.setField R.LEHR_LAG duty duty 1).orReg R.LEHR_EVT 0)) ∧
    (lehrRuns s = true → iotPresent s.part iot = true → tileRun s (iotTile iot) = true →
      mgetD 0 s.stor.dutyAt (200 + iot) + 1000000 ≤ s.now →
      exec (.wfqTelemetryCollect iot) s = .next (dutyDone (200 + iot) (dutyDone 8
        { s with eg := { s.eg with telRead := mset iot (s.reg (R.WFQ_TEL_WPTR iot)).toNat s.eg.telRead } })))

/-- For every request of one setting that is accepted and passes the checks of R40: a corridor, RU, station-cell or RU-removal setting takes effect at once, its command is answered OK with the device time, and its mailbox is free again; a carrier, carrier-instance or static-cell setting waits in its mailbox for the next boundary of its carrier with nothing applied. What each setting applies is its object's new value: the margin of a corridor (0 selects 500.00 m), the fields of an RU and of a carrier, the item of an instance, the limits of a station cell, and nothing else of the corridor model. -/
def Obligations.CorridorSettings : Prop :=
  ∀ (m : TcsMsg) (corridor margin ru carrier scope sindex station maxUl maxDl first count : Nat) (b : RuBody)
    (cb : CarrierBody) (v vc : Word) (s u : State),
    (SettingPasses 0x0201 m (.corridor corridor 0 margin) s u →
      SettingDone (exec (.corridorSetCreate m corridor margin []) s) 0x0201 m (.corridor corridor 0 margin) u) ∧
    (SettingPasses 0x0201 m (.corridor corridor 1 margin) s u →
      SettingDone (exec (.corridorSetModify m corridor margin []) s) 0x0201 m (.corridor corridor 1 margin) u) ∧
    (SettingPasses 0x0201 m (.corridor corridor 2 0) s u →
      SettingDone (exec (.corridorSetDelete m corridor []) s) 0x0201 m (.corridor corridor 2 0) u) ∧
    (SettingPasses 0x0202 m (.ru b) s u → SettingDone (exec (.ruSet m b []) s) 0x0202 m (.ru b) u) ∧
    (SettingPasses 0x0203 m (.ruRemove ru) s u → SettingDone (exec (.ruRemove m ru []) s) 0x0203 m (.ruRemove ru) u) ∧
    (SettingPasses 0x0208 m (.stationCell station 0 maxUl maxDl) s u →
      SettingDone (exec (.stationCellSet m station maxUl maxDl []) s) 0x0208 m (.stationCell station 0 maxUl maxDl) u) ∧
    (SettingPasses 0x0208 m (.stationCell station 1 0 0) s u →
      SettingDone (exec (.stationCellSetDelete m station []) s) 0x0208 m (.stationCell station 1 0 0) u) ∧
    (SettingPasses 0x0204 m (.carrier cb) s u → SettingWaits (exec (.carrierSet m cb []) s) 0x0204 m (.carrier cb)
      (carrierKey cb.scope cb.sindex cb.carrier) u) ∧
    (SettingPasses 0x0205 m (.carrierRemove scope sindex carrier) s u →
      SettingWaits (exec (.carrierRemove m scope sindex carrier []) s) 0x0205 m (.carrierRemove scope sindex carrier)
        (carrierKey scope sindex carrier) u) ∧
    (∀ r, mget ru u.cor.rus = some r →
      (SettingPasses 0x0206 m (.inst carrier ru 1 v vc) s u → SettingWaits
        (exec (.carrierInstSetTxEn m carrier ru v vc []) s) 0x0206 m (.inst carrier ru 1 v vc) (r.carrier carrier) u) ∧
      (SettingPasses 0x0206 m (.inst carrier ru 2 v vc) s u → SettingWaits
        (exec (.carrierInstSetPwrLimit m carrier ru v vc []) s) 0x0206 m (.inst carrier ru 2 v vc) (r.carrier carrier) u) ∧
      (SettingPasses 0x0206 m (.inst carrier ru 3 v vc) s u → SettingWaits
        (exec (.carrierInstSetCompw m carrier ru v vc []) s) 0x0206 m (.inst carrier ru 3 v vc) (r.carrier carrier) u) ∧
      (SettingPasses 0x0206 m (.inst carrier ru 4 v vc) s u → SettingWaits
        (exec (.carrierInstSetPortmaskLo m carrier ru v vc []) s) 0x0206 m (.inst carrier ru 4 v vc) (r.carrier carrier) u) ∧
      (SettingPasses 0x0206 m (.inst carrier ru 5 v vc) s u → SettingWaits
        (exec (.carrierInstSetPortmaskHi m carrier ru v vc []) s) 0x0206 m (.inst carrier ru 5 v vc) (r.carrier carrier) u)) ∧
    (SettingPasses 0x0207 m (.staticCell corridor 0 carrier first count) s u →
      SettingWaits (exec (.staticCellSetGroup m corridor carrier first count []) s) 0x0207 m
        (.staticCell corridor 0 carrier first count) (carrierKey 0 corridor carrier) u) ∧
    (SettingPasses 0x0207 m (.staticCell corridor 1 carrier first count) s u →
      SettingWaits (exec (.staticCellSetUngroup m corridor carrier first count []) s) 0x0207 m
        (.staticCell corridor 1 carrier first count) (carrierKey 0 corridor carrier) u) ∧
    (applySetting u false (.corridor corridor 0 margin)).cor =
      { u.cor with corridors := mset corridor (if margin = 0 then 50000 else margin) u.cor.corridors } ∧
    (applySetting u false (.corridor corridor 2 margin)).cor = { u.cor with corridors := mdel corridor u.cor.corridors } ∧
    (applySetting u false (.ru b)).cor = { u.cor with rus := mset b.ru b.toRu u.cor.rus } ∧
    (applySetting u false (.carrier cb)).cor =
      { u.cor with carriers := mset (carrierKey cb.scope cb.sindex cb.carrier) cb.toCarrier u.cor.carriers } ∧
    (applySetting u false (.stationCell station 0 maxUl maxDl)).cor =
      { u.cor with stations := mset station { maxUl := maxUl, maxDl := maxDl } u.cor.stations } ∧
    (applySetting u false (.stationCell station 1 maxUl maxDl)).cor = { u.cor with stations := mdel station u.cor.stations } ∧
    (∀ i item, mget (instKey ru carrier) u.cor.insts = some i →
      (applySetting u false (.inst carrier ru item v vc)).cor =
        { u.cor with insts := mset (instKey ru carrier) (instItem i item v) u.cor.insts })

/-- At a carrier's boundary every setting that waits for it takes effect, in the order in which the requests were taken, dated with the boundary, and then their commands go on; on a spur port whose load exceeds its net rate an LTE or NR instance above width 8 is lowered by one bit, and when no width can be lowered the next instance in dropping order is suspended, each only once a frame of its carrier has begun since the last such step and the last retraining; CONFIG_READ of an object answers its fields with its pair count and changes nothing else; PEER_SET stores a fresh entry of the named corridor end and PEER_SET with ACTION 1 removes it. -/
def Obligations.BoundaryAndPeerEntries : Prop :=
  ∀ (m : TcsMsg) (scope sindex carrier ru what index index2 corridor endHi : Nat) (b : PeerBody) (s u : State),
    (let due := dueAt s (carrierKey scope sindex carrier)
     exec (.settingEffect scope sindex carrier) s = .next (progress (due.foldl (fun t x => proceed x.1 t)
        (moveStep (due.foldl effectOf s) (carrierKey scope sindex carrier)))) ∧
      ∀ k e, (k, e) ∈ due → mget k s.tcs.mailboxes ≠ none ∧ e.waiting.isSome = true) ∧
    (∀ k e st ck f, e.waiting = some (st, ck, f) → k ≠ ownKey →
      (effectOf s (k, e)).cor = (applySetting s false st).cor ∧
      mget k (effectOf s (k, e)).tcs.mailboxes =
        some { e.add 0 (frameStart (stdOf s st ck) (frameNo (stdOf s st ck) s.devNs)) with waiting := none }) ∧
    (let since := frameSince s ru carrier [mget ru s.cor.retrained, mget (instKey ru carrier) s.cor.lowered]
     (shortOf s ru = true → ((activeInsts s ru).any fun x => x.1 == carrier && lowerable x) = true → since = true →
      exec (.compressionWidthLower ru carrier) s = .next (reportShortfall (reshed (modInst (stampShort s ru carrier)
        (instKey ru carrier) fun i => { i with compw := i.compw - 1#32 }) ru true) ru)) ∧
     (since = false → exec (.compressionWidthLower ru carrier) s = .next s)) ∧
    (let since := frameSince s ru carrier
       (mget ru s.cor.retrained :: (instsOn s ru).map fun x => mget (instKey ru x.1) s.cor.lowered)
     (shortOf s ru = true → (activeInsts s ru).any lowerable = false → nextToDrop (activeInsts s ru) = some carrier →
      since = true → exec (.carrierInstanceSuspend ru carrier) s = .next (reportShortfall (reshed
        ((modInst (stampShort s ru carrier) (instKey ru carrier) fun i => { i with st := .suspended }).modCor
          fun c => { c with shortfall := c.shortfall ++ [(ru, carrier)] }) ru true) ru)) ∧
     (since = false → exec (.carrierInstanceSuspend ru carrier) s = .next s)) ∧
    (∀ x n, Accepted { opcode := 0x0220, onchip := true } m 0 s u → configObject u what index index2 = some (x, n) →
      Answered (exec (.configRead m what index index2) s) { opcode := 0x0220, onchip := true } m .ok
        (leBytes 1 what ++ leBytes 1 0 ++ leBytes 2 index ++ leBytes 2 index2 ++ leBytes 2 0 ++ x) n u) ∧
    (Accepted { opcode := 0x0209 } m 0 s u → b.corridor < 8 → holdsSem u m b.corridor = true → u.parison = false →
      peerRange u b = true → mhas u.cor.corridors b.corridor = true → endBusy u (b.corridor * 2 + b.endHi) = false →
      let k := b.corridor * 2 + b.endHi
      let w := u.setPeer k (Peer.fresh b u)
      Answered (exec (.peerSet m b) s) { opcode := 0x0209 } m .ok [] 0
        (configWritten (if b.endHi = 1 then sendHello w k else w))) ∧
    (Accepted { opcode := 0x0209 } m 0 s u → corridor < 8 → endHi < 2 → holdsSem u m corridor = true → u.parison = false →
      mhas u.cor.corridors corridor = true → endBusy u (corridor * 2 + endHi) = false →
      mhas u.peers (corridor * 2 + endHi) = true →
      Answered (exec (.peerSetClear m corridor endHi) s) { opcode := 0x0209 } m .ok [] 0
        (configWritten { u with peers := mdel (corridor * 2 + endHi) u.peers }))

/-- For every NET_CONFIG_SET or TIME_CONFIG request of one setting that is accepted and passes its checks: the setting takes effect at once and the command is answered OK with the device time. A network item is stored under its ITEM and INDEX, padded to 24 bytes, and the running configuration is unchanged until the next boot; a time item reaches the time system. -/
def Obligations.NetworkAndTimeSettings : Prop :=
  ∀ (m : TcsMsg) (index iot port : Nat) (value : List Byte) (v : DWord) (s u : State),
    let net (item i : Nat) (c : Instr) : Prop := SettingPasses 0x0112 m (.netConfig item i value) s u →
      SettingDone (exec c s) 0x0112 m (.netConfig item i value) u
    let time (item i : Nat) (c : Instr) : Prop := SettingPasses 0x0402 m (.timeConfig item i v) s u →
      SettingDone (exec c s) 0x0402 m (.timeConfig item i v) u
    net 1 index (.netConfigSetPortAddr m index value []) ∧ net 2 index (.netConfigSetPortGw m index value []) ∧
    net 3 index (.netConfigSetPortVlan m index value []) ∧ net 4 index (.netConfigSetPortMode m index value []) ∧
    net 5 index (.netConfigSetLaneTx m index value []) ∧ net 6 index (.netConfigSetBhEgress m index value []) ∧
    net 7 index (.netConfigSetBhIngress m index value []) ∧ net 8 index (.netConfigSetSpur m index value []) ∧
    net 9 0 (.netConfigSetWake m value []) ∧ net 10 index (.netConfigSetParisonRu m index value []) ∧
    time 1 0 (.timeConfigProfile m v []) ∧ time 2 0 (.timeConfigDomain m v []) ∧
    time 3 (iot * 256 + port) (.timeConfigRole m iot port v []) ∧ time 4 0 (.timeConfigJumpLimit m v []) ∧
    time 5 (iot * 256 + port) (.timeConfigAsym m iot port v []) ∧ time 6 (iot * 256 + port) (.timeConfigLprio m iot port v []) ∧
    time 7 0 (.timeConfigServoBw m v []) ∧ time 8 0 (.timeConfigSlewMax m v []) ∧
    time 9 (iot * 256 + port) (.timeConfigSyncePrio m iot port v []) ∧ time 10 0 (.timeConfigHoldover m v []) ∧
    time 11 0 (.timeConfigGmTod m v []) ∧ time 12 0 (.timeConfigPpsOut m v []) ∧
    (∀ item, (applySetting u false (.netConfig item index value)).tcs.netStored =
        mset (netKey item index) (fitBytes 24 value) u.tcs.netStored ∧
      (applySetting u false (.netConfig item index value)).tcs.netRunning = u.tcs.netRunning)

/-- Every accepted multi-setting command of 1 to 64 settings of its opcode, whose CRIT is the number of critical pairs of all its settings, holds its mailbox and goes through its list from the first setting. In its mailbox a command that does not wait for a boundary takes its next setting: once EXPIRY has passed it and every later one report TIMEOUT, after a failure under FLAGS.STOP ABORTED; one that fails a check reports the check's status, and the next is checked in its turn; one with no carrier takes effect when it is checked, and the next is checked against the state that includes it; one with a carrier waits for its boundary. The list ends with the response, whose STATUS is OK when every setting took effect, PARTIAL when some did, else the status of the first that did not. -/
def Obligations.SettingListsInOrder : Prop :=
  (∀ (c : Instr) (opcode : Nat) (m : TcsMsg) (first : Setting) (rest : List Setting) (s u : State),
    settingRequest c = some (opcode, m, first, rest) → rest.length < 64 →
    (∀ x ∈ rest, opcodeOf x = opcode) →
    Accepted { opcode := opcode } m (((first :: rest).map pairsIn).foldl (· + ·) 0) s u →
    exec c s = .next (proceed (mbxKey m) (holdMbx u m opcode (first :: rest)))) ∧
  (∀ (key : Nat) (e : MbxExec) (st : Setting) (rest : List Setting) (s : State),
    mget key s.tcs.mailboxes = some e → e.waiting = none → e.rest = st :: rest →
    let d := { e with rest := rest }
    let c := checkSetting s key e.msg st
    (∀ x, skipped s e = some x → proceed key s = proceed key (setMbx s key (d.add x.code 0))) ∧
    (skipped s e = none → c ≠ .ok → key ≠ ownKey → proceed key s = proceed key (setMbx s key (d.add c.code 0))) ∧
    (skipped s e = none → c = .ok → carrierOf s st = none →
      let w := settingRecord (applySetting s (key == ownKey) st) d st 0
      mget key w.tcs.mailboxes = some e →
      proceed key s = proceed key (setMbx w key (d.add 0 w.devNs))) ∧
    (∀ ck, skipped s e = none → c = .ok → carrierOf s st = some ck →
      proceed key s = setMbx s key { d with waiting := some (st, ck, frameNo (stdOf s st ck) s.devNs) }) ∧
    (skipped s e = if e.results.any (fun r => r.status == 0x000F) || expired s e.msg then some .timeout
      else if e.msg.flags.getLsbD 3 && e.results.any (fun r => !r.good) then some .aborted else none)) ∧
  (∀ (key : Nat) (e : MbxExec) (s : State), mget key s.tcs.mailboxes = some e → e.waiting = none → e.rest = [] →
    proceed key s = finishSettings s key e) ∧
  (∀ l : List SettingResult,
    ((∀ r ∈ l, r.status = 0) → headerStatus l = 0) ∧
    ((∃ r ∈ l, r.status = 0) → (∃ r ∈ l, r.status ≠ 0) → headerStatus l = 0x0010) ∧
    (∀ r t, l = r :: t → (∀ x ∈ l, x.status ≠ 0) → headerStatus l = r.status))

/-- For every accepted SEM_BREAK of a semaphore 0 to 63, with `v` the state after a lapsed lease of it has been freed: a semaphore that no session holds, or that the requesting session holds, is granted to the requesting session with the default lease of 30,000 ms and answered OK, and no event is raised; one that another session holds which sent an authenticated message less than 5 s ago stays and is answered BUSY; otherwise it is granted to the requesting session with the default lease, LEASE_BROKEN (0x0002) is raised to the session that lost it, and the answer is OK. The other semaphores keep their holders. -/
def Obligations.SemBreak : Prop :=
  ∀ (m : TcsMsg) (sem : Nat) (s u : State), sem ≤ 63 → Accepted { opcode := 0x0A05, zero := true } m 0 s u →
    let v := lapse sem u
    let g := grant m sem 30000 v
    let ans (st : Status) (t : State) : Prop :=
      Answered (exec (.semBreak m sem) s) { opcode := 0x0A05, zero := true } m st (semPayload t sem) 0 t
    (mget sem v.tcs.sems = none → ans .ok g) ∧
    (holdsSem v m sem = true → ans .ok g) ∧
    (∀ x, mget sem v.tcs.sems = some x → holdsSem v m sem = false →
      (v.now < (v.sess x.port).lastAuth + 5000000000 → ans .busy v) ∧
      ((v.sess x.port).lastAuth + 5000000000 ≤ v.now → ans .ok (g.raiseTo [x.session] 0x0002 7 sem []))) ∧
    mget sem g.tcs.sems = some { port := portOf m, session := m.session, leaseEnd := v.now + 30000 * 1000000 } ∧
    (∀ n, n ≠ sem → mget n g.tcs.sems = mget n v.tcs.sems)

/-- For every accepted semaphore command of a semaphore 0 to 63, with `v` the state after a lapsed lease of it has been freed: SEM_ACQUIRE of one that nobody else holds grants it for LEASE_MS (0 selects 30,000) and answers OK with the holder, and of one that another session holds answers BUSY with its holder; SEM_RENEW by the holder sets its lease; SEM_RELEASE by the holder frees it; both answer NOT_OWNER otherwise; SEM_QUERY answers an entry per semaphore named and changes nothing. A semaphore whose lease has run out is freed and LEASE_EXPIRED raised to its session. -/
def Obligations.Semaphores : Prop :=
  ∀ (m : TcsMsg) (sem leaseMs ms : Nat) (mask : DWord) (s u : State),
    let v := lapse sem u
    let op (o : Nat) : OpInfo := { opcode := o, zero := true }
    (leaseOf 0 = some 30000 ∧ (1000 ≤ ms → ms ≤ 300000 → leaseOf ms = some ms)) ∧
    (Accepted (op 0x0A01) m 0 s u → sem ≤ 63 → leaseOf leaseMs = some ms →
      ((mget sem v.tcs.sems).isNone = true ∨ holdsSem v m sem = true →
        Answered (exec (.semAcquire m sem leaseMs) s) (op 0x0A01) m .ok (semPayload (grant m sem ms v) sem) 0 (grant m sem ms v)) ∧
      ((mget sem v.tcs.sems).isSome = true → holdsSem v m sem = false →
        Answered (exec (.semAcquire m sem leaseMs) s) (op 0x0A01) m .busy (semPayload v sem) 0 v)) ∧
    (Accepted (op 0x0A02) m 0 s u → sem ≤ 63 → leaseOf leaseMs = some ms →
      (holdsSem v m sem = true →
        Answered (exec (.semRenew m sem leaseMs) s) (op 0x0A02) m .ok (semPayload (grant m sem ms v) sem) 0 (grant m sem ms v)) ∧
      (holdsSem v m sem = false → Answered (exec (.semRenew m sem leaseMs) s) (op 0x0A02) m .notOwner [] 0 v)) ∧
    (Accepted (op 0x0A03) m 0 s u → sem ≤ 63 →
      (holdsSem v m sem = true → Answered (exec (.semRelease m sem) s) (op 0x0A03) m .ok [] 0
        { v with tcs := { v.tcs with sems := mdel sem v.tcs.sems } }) ∧
      (holdsSem v m sem = false → Answered (exec (.semRelease m sem) s) (op 0x0A03) m .notOwner [] 0 v)) ∧
    (Accepted (op 0x0A04) m 0 s u → Answered (exec (.semQuery m mask) s) (op 0x0A04) m .ok
      ((setBits mask.toNat 64).flatMap (semEntry u)) 0 u) ∧
    (∀ x, mget sem s.tcs.sems = some x → x.leaseEnd ≤ s.now → exec (.leaseExpired sem) s =
      .next (({ s with tcs := { s.tcs with sems := mdel sem s.tcs.sems } }).raiseTo [x.session] 0x0001 7 sem []))

/-- A framed SESSION_HELLO with SESSION 0 and a zero tag at a port without a session, naming an enrolled slot or, with no host key enrolled, slot 0xFF, makes the port PENDING with the next session, whose key is derived from the shared secret, both nonces and the session number, and answers OK; SESSION_CONFIRM of the pending session within 2 s with its tag good is answered TIMEOUT when it has expired, makes the session LIVE at its SEQ and answers OK with a good signature, and with a bad one drops it; 2 s after the HELLO a pending session is dropped; KEEPALIVE is answered OK and changes nothing else; SESSION_CLOSE answers OK and ends the session, which leaves its port NONE, and so does an idle time of 60 s; before the commit of STILL, OP_ABORT of a mailbox whose command can be aborted answers ABORTED. -/
def Obligations.Sessions : Prop :=
  ∀ (m : TcsMsg) (p : Fin 2) (slot mbx : Nat) (seq : Word) (nonce ek : List Byte) (s u : State),
    (m.via = .mgt p → gafferUp s = true → formOk s p.val m = true → framing m = none → m.session = 0#32 → m.tag = 0#256 → m.mbx = 0 → m.crit = 0 →
      s.devState ≠ 3 → expired s m = false → (s.sess p.val).st = .none →
      (slot < 8 ∧ hostKey s slot = .enrolled ∨ slot = 0xFF ∧ anyHostKey s = false) →
      ∃ t o, exec (.sessionHello m slot nonce ek) s = .next t ∧ (t.sess p.val).st = .pending ∧
        (t.sess p.val).id = Config.sessionId s.tcs.nextSession ∧ (t.sess p.val).pendingAt = s.now ∧
        (t.sess p.val).key = sessionKey "TCS-SESSION" (Config.kemSecret (fitBytes 1184 ek) s.tcs.nextSession)
          (fitBytes 32 nonce) (fitBytes 32 (Config.nonce s.tcs.nextSession)) (Config.sessionId s.tcs.nextSession) ∧
        t.out = s.out ++ [o] ∧ o.status = 0 ∧ o.session = 0#32 ∧ o.key = none) ∧
    (m.via = .mgt p → gafferUp s = true → formOk s p.val m = true → framing m = none → pendingFor s p.val m = true →
      tagGood (rxKey s m) 0x0102 0 m = true → m.mbx = 0 → m.crit = 0 → s.devState ≠ 3 →
      (expired s m = true → exec (.sessionConfirm m true) s = .next (s.respond 0x0102 m .timeout)) ∧
      (expired s m = false →
      (∃ t, exec (.sessionConfirm m true) s = .next t ∧ (t.sess p.val).st = .live ∧
        (t.sess p.val).highSeq = m.seq.toNat ∧ (t.sess p.val).lastAuth = s.now ∧ (t.sess p.val).id = (s.sess p.val).id) ∧
      (∃ t, exec (.sessionConfirm m false) s = .next t ∧ (t.sess p.val).st = .none))) ∧
    ((s.sess p.val).st = .pending → (s.sess p.val).pendingAt + 2000000000 ≤ s.now →
      exec (.sessionPendingTimeout p) s = .next (s.setSess p.val Session.none)) ∧
    (Accepted { opcode := 0x0104, zero := true } m 0 s u →
      Answered (exec (.keepalive m) s) { opcode := 0x0104, zero := true } m .ok [] 0 u) ∧
    (Accepted { opcode := 0x0103, zero := true } m 0 s u →
      exec (.sessionClose m) s = .next (endSession (portOf m) .closed (u.respond 0x0103 m .ok))) ∧
    ((s.sess p.val).st = .live → (s.sess p.val).lastAuth + 60000000000 ≤ s.now → s.devState ≠ 3 →
      exec (.sessionIdleTimeout p) s = .next (endSession p.val .idle s)) ∧
    (∀ c, ((endSession p.val c s).sess p.val).st = .none) ∧
    (∀ e t, Accepted { opcode := 0x0105, zero := true } m 0 s u → u.devState ≠ 3 → 1 ≤ mbx → mbx ≤ 14 →
      mget (portOf m * 16 + mbx) u.tcs.mailboxes = some e → e.msg.seq = seq →
      abortEffect (portOf m * 16 + mbx) e u = some t →
      Answered (exec (.opAbort m mbx seq) s) { opcode := 0x0105, zero := true } m .aborted [] 0 t)

/-- For every accepted request: EVENT_FETCH of 1 to 128 events answers the events held, DEV_INFO answers the device information, COUNTERS_READ of group 0 answers the message counters of an Ethernet port, and of another group those of a present block, and clears the group's totals when asked, and a reserved opcode is answered BAD_ARG; a counter poll moves every count-on-read register into its total. A core that reads MBX_ALLOC claims the lowest free mailbox; by its owner a claimed mailbox is submitted (BUSY), a submitted request not yet taken up is aborted with its response in its buffer, and a mailbox that is not BUSY is freed; a completed request leaves its mailbox DONE with its status, and gives the core's interrupt or the queue notice that MBX_CTRL asks for; a notice is retried when due. -/
def Obligations.EventsCountersMailboxes : Prop :=
  ∀ (m : TcsMsg) (start count group clear index opcode t c mailbox : Nat) (r : Requester) (n : Fin 32) (v : Word) (s u : State),
    (Accepted { opcode := 0x0106, zero := true } m 0 s u → 1 ≤ count → count ≤ 128 →
      Answered (exec (.eventFetch m start count) s) { opcode := 0x0106, zero := true } m .ok
        (fetchPayload u m.session start count) 0 u) ∧
    (Accepted { opcode := 0x0110, onchip := true } m 0 s u →
      Answered (exec (.devInfo m) s) { opcode := 0x0110, onchip := true } m .ok (devInfoBytes u) 0 u) ∧
    (Accepted { opcode := 0x0802, onchip := true } m 0 s u → clear ≤ 1 → index < 2 →
      Answered (exec (.countersRead m 0 clear index) s) { opcode := 0x0802, onchip := true } m .ok
        (leBytes 1 0 ++ leBytes 1 clear ++ leBytes 2 index ++ leBytes 2 6 ++ leBytes 2 0 ++ (List.range 6).flatMap fun n =>
          leBytes 4 n ++ leBytes 4 0 ++ leBytes 8 (mgetD 0 u.tcs.stats (index * 8 + n))) 0
        { u with tcs := { u.tcs with stats := if clear = 1 then [] else u.tcs.stats } }) ∧
    (∀ base, Accepted { opcode := 0x0802, onchip := true } m 0 s u → clear ≤ 1 → group ≠ 0 →
      counterBlock u group index = some base →
      Answered (exec (.countersRead m group clear index) s) { opcode := 0x0802, onchip := true } m .ok
        (leBytes 1 group ++ leBytes 1 clear ++ leBytes 2 index ++ leBytes 2 (counterList group).length ++ leBytes 2 0
          ++ (counterList group).flatMap (counterEntry u base)) 0
        (if clear = 1 then clearTotals group u else u)) ∧
    (listedOpcode opcode = false →
      let op : OpInfo := { opcode := opcode, zero := m.mbx == 0, onchip := opcode / 256 != 1 && opcode / 256 != 10 }
      Accepted op m m.crit s u → Answered (exec (.reservedOpcode m opcode) s) op m .badArg [] 0 u) ∧
    (gafferUp s = true → exec .counterTotalPoll s = .next (s.regs.words.foldl pollCounter s)) ∧
    (∀ k, firstBelow 32 (fun n => mbxState s n == 0) = some k →
      exec (.mbxAlloc (.core t c)) s = .next ((s.setReg (R.MBX_STAT k) (BitVec.ofNat 32
        (2 ^ 30 + t * 2 ^ 18 + c * 2 ^ 16))).answer (.data (BitVec.ofNat 64 (2 ^ 31 + k))))) ∧
    (mbxOwner s n.val r = true → mbxState s n.val = 1 ∨ mbxState s n.val = 3 →
      exec (.mbxSubmit r n) s = .next (State.answer (let x := s.setField (R.MBX_STAT n.val) 31 30 2
        { x with tcs := { x.tcs with onchipReq := mset n.val r x.tcs.onchipReq } }) .done)) ∧
    (mbxOwner s n.val r = true → mbxState s n.val = 2 → mhas s.tcs.onchipReq n.val = true →
      exec (.mbxAbort r n) s = .next (State.answer (bufferReply n .aborted { s with tcs := { s.tcs with
        onchipReq := mdel n.val s.tcs.onchipReq } }) .done)) ∧
    (mbxOwner s n.val r = true → mbxState s n.val ≠ 2 → bit v 0 = true →
      exec (.mbxFree r n v) s = .next ((s.setReg (R.MBX_STAT n.val) 0#32).answer .done)) ∧
    (∀ st, mget n.val s.tcs.onchipDone = some st →
      let w := (State.setReg { s with tcs := { s.tcs with onchipDone := mdel n.val s.tcs.onchipDone } } (R.MBX_STAT n.val)
          (setFld (setFld (s.reg (R.MBX_STAT n.val)) 31 30 3) 15 0 st)).orReg R.MBX_DONE n.val
      let c := w.reg (R.MBX_CTRL n.val)
      (fld c 31 30 = 0 ∨ fld c 31 30 = 3 → exec (.mbxComplete n) s = .next w) ∧
      (fld c 31 30 = 1 → exec (.mbxComplete n) s = .next (w.setCore (fld c 25 18) (fld c 17 16)
        { w.core (fld c 25 18) (fld c 17 16) with ipend := (w.core (fld c 25 18) (fld c 17 16)).ipend ||| bitMask 2 })) ∧
      (fld c 31 30 = 2 → exec (.mbxComplete n) s = .next (pushNotice n.val (fld c 15 0) st w))) ∧
    (∀ q at_, s.tcs.notices = [(mailbox, q, at_)] → at_ ≤ s.now →
      exec (.mbxNoticeRetry mailbox) s = .next (pushNotice mailbox q (s.field (R.MBX_STAT mailbox) 15 0)
        { s with tcs := { s.tcs with notices := [] } }))

/-- For every accepted request outside PARISON service: RUN_CREATE in range with matching pairs on a corridor with a free run and a travelling carrier creates the run under the number asked for, or the lowest free one for 0xFF, and answers its number, home tile and context address; RUN_END by the holder of the corridor's semaphore starts the end of a run in service, in its mailbox, and RUN_EXPORT its export to the end it runs towards, whose peer session is live; RUN_READ answers the 512 bytes of the context with its 8 pairs, and its address; RUN_POSITION in range keeps the report for the run's next boundary. -/
def Obligations.RunCommands : Prop :=
  ∀ (m : TcsMsg) (b : RunBody) (n acc ch tFix : Nat) (sv : Bool) (sp : Int) (s u : State),
    (∀ k a, Accepted { opcode := 0x0301 } m 7 s u → b.corridor < 8 → holdsSem u m b.corridor = true → u.parison = false →
      createRange u b = true → createPairs b = true → freeRun u = some k → anchorOf u b.corridor = some a →
      let j := if b.run = 0xFF then k else b.run
      Answered (exec (.runCreate m b) s) { opcode := 0x0301 } m .ok
        (leBytes 1 j ++ leBytes 1 (((createRun u j b a).run j).map Run.home |>.getD 0) ++ leBytes 6 0
          ++ leBytes 8 (((createRun u j b a).run j).map Run.ctx |>.getD 0)) 0 (createRun u j b a)) ∧
    (∀ r, Accepted { opcode := 0x0302 } m 0 s u → u.parison = false → u.run n = some r → holdsSem u m r.corridor = true →
      r.ending = 0 → r.exported = none → exec (.runEnd m n) s = .next (let v := abortExport (holdMbx u m 0x0302 []) n r
        setTState (v.setRun n { r with ending := 1, endMbx := some (mbxKey m) }) n r 4 v.devNs)) ∧
    (∀ r, Accepted { opcode := 0x0303 } m 0 s u → u.parison = false → u.run n = some r → holdsSem u m r.corridor = true →
      r.ending = 0 → r.exported = none → peerLive u (r.endKey u) = true → exportOf u n r = none →
      exec (.runExport m n) s = .next (exportStart (holdMbx u m 0x0303 []) n r (some (mbxKey m)))) ∧
    (∀ r l v, Accepted { opcode := 0x0306, onchip := true } m 0 s u → u.run n = some r →
      (memRead .gaffer (.sram r.home) r.ctx 512 u = (some l, v) →
        Answered (exec (.runRead m n) s) { opcode := 0x0306, onchip := true } m .ok (l ++ leBytes 8 r.ctx) 8 v) ∧
      (memRead .gaffer (.sram r.home) r.ctx 512 u = (none, v) →
        Answered (exec (.runRead m n) s) { opcode := 0x0306, onchip := true } m .ok (v.bytes r.ctx 512 ++ leBytes 8 r.ctx) 8 v)) ∧
    (∀ r, Accepted { opcode := 0x0305, onchip := true } m 0 s u → u.parison = false → u.run n = some r →
      tFix ≤ u.devNs + 1000000 → u.devNs ≤ tFix + 2000000000 → 1 ≤ acc → acc ≤ 10000 →
      exec (.runPosition m n sv acc ch sp tFix) s = .next ((holdMbx u m 0x0305 []).setRun n { r with
        reports := r.reports ++ [{ speedValid := sv, accuracy := acc, chainage := ch, speed := sp, tFix := tFix,
                                   mbx := mbxKey m }] }))

/-- At an anchor slot boundary after its last one a run's home tile, in this order, checks its pairs, ages its feeds, applies the announced step, updates its track, applies position reports, reports the pairs that failed, sets its lane table from the values that held since the last boundary, advances an import, an export and its end, and decides the next step; at the last boundary or before it nothing changes. 10 s in SEEK and the coast limit in COAST end in LOST, 20 boundaries without a fix in TRACK in COAST with acceleration 0; a feed whose lanes clamped, or did not clamp, for 8 boundaries sets or clears LOOP_SAT; the Gaffer writes back a pair once the run has passed the boundary after it was reported. -/
def Obligations.RunBoundaries : Prop :=
  ∀ (n pos : Nat) (ms : List Meas) (r : Run) (f : Feed) (s : State), s.run n = some r →
    let t := r.slot s
    let b := s.devNs / t * t
    (b ≤ r.boundary → exec (.runBoundary n ms) s = .next s) ∧
    (r.boundary < b → exec (.runBoundary n ms) s = .next (
      let z := laneBase s r
      let v1 := withRun n (fun r s => ageFeeds s r) ((List.range 8).foldl (checkPair n b) s)
      let due := stepOf (r.nat v1 (ctxPend 0) 4)
      let v2 := withRun n (fun r s => ctxPut (applyWinStep s n r due) r (ctxPend 0) 4 0) v1
      let l := chainages v2 r.corridor
      let was := r.tstate v2
      let xp := ((r.motion v2).predict t).x
      let v3 := withRun n (fun r s => track s n r l (retained s r l ms) b t) v2
      let v4 := withRun n (fun q s => reportPairs s n q r.bad b)
        (withRun n (fun q s => applyReports s n q xp (was == 0 || was == 2 || was == 3) b) v3)
      let v5 := withRun n (fun r s => setLanes s n r l (retained s r l ms) z b) v4
      let v6 := withRun n (fun r s => ctxPut (s.setRun n { r with boundary := b }) r ctxT 8 (b : Nat)) v5
      let v7 := withRun n (fun r s => importOwn s n r b) (withRun n (fun r s => importStep s n r b t) v6)
      let v8 := withRun n (fun r s => autoExport s n r) (withRun n (fun r s => exportStep s n r b t) v7)
      let v9 := withRun n (fun r s => if due.code = 0 then endStep s n r else s) v8
      withRun n (fun r s => exportEnd s n r) (withRun n (fun _ s => decideAt s n b t) v9))) ∧
    (r.tstate s = 0 → r.since + 10000000000 ≤ s.now → exec (.seekTimeout n) s = .next (enterLost s n r)) ∧
    (r.tstate s = 1 → 20 ≤ r.noFix →
      exec (.coastEnter n) s = .next (setTState (ctxPut s r ctxAccel 4 0) n r 2 s.devNs)) ∧
    (r.tstate s = 2 → r.since + r.coast * 100000000 ≤ s.now → exec (.coastLimitExpiry n) s = .next (enterLost s n r)) ∧
    (r.feedAt s pos = some f → f.flags / 2 % 2 = 0 → 8 ≤ mgetD 0 r.clampOn (pos % 8) →
      exec (.loopSatSet n pos) s = .next (setLoopSat s n r f 1)) ∧
    (r.feedAt s pos = some f → f.flags / 2 % 2 = 1 → 8 ≤ mgetD 0 r.clampOff (pos % 8) →
      exec (.loopSatClear n pos) s = .next (setLoopSat s n r f 0)) ∧
    (r.rewrite ≠ [] → r.rewriteAt < s.devNs / t → gafferUp s = true → exec (.gafferPairRewrite n) s =
      .next ((r.rewrite.foldl (rewritePair n r) s).modRun n fun r => { r with rewrite := [] }))

/-- The step of a run that neither ends nor is exported: while a feed joins, the nearest joining feed is promoted once it has joined for JOIN_SLOTS slots, and nothing else is decided; else a leaving feed is removed; else a position towards the target window joins while the window does not exceed WIN_SIZE, the one in the direction of travel first; else an end outside the target leaves while two active feeds stay; else no step. A run being exported decides only leaves and removals. -/
def Obligations.WindowSteps : Prop :=
  (∀ (r : Run) (l : List Int) (k : Motion) (m : Nat) (fs : List (Nat × Nat × Nat)) (w : Nat × Nat),
    winOf fs = some w →
    let near := leastBy (fun f : Nat × Nat × Nat => ((chainageAt l f.1 - k.x).natAbs, f.1, 0)) (fs.filter fun f => f.2.1 == 1)
    let t := targetWin l.length r.winSize m (forward r k.v)
    let x := decideStep r l k m fs
    (∀ j, near = some j → x = if r.joinSlots ≤ j.2.2 + 1 then { code := 2, pos := j.1 } else { code := 0, pos := 0 }) ∧
    (∀ f, near = none → fs.find? (fun f => f.2.1 == 3) = some f → x = { code := 4, pos := f.1 }) ∧
    (near = none → fs.find? (fun f => f.2.1 == 3) = none →
      (fs.length ≤ r.winSize → forward r k.v = true → w.2 < t.2 → x = { code := 1, pos := w.2 + 1 }) ∧
      (fs.length ≤ r.winSize → forward r k.v = false → t.1 < w.1 → x = { code := 1, pos := w.1 - 1 }) ∧
      (w.2 = t.2 → t.1 = w.1 → x = { code := 0, pos := 0 }) ∧
      (x.code = 3 → 2 ≤ (fs.filter fun f => f.2.1 == 2).length ∧ (x.pos = w.1 ∨ x.pos = w.2)))) ∧
  (∀ (r : Run) (l : List Int) (k : Motion) (m : Nat) (fs : List (Nat × Nat × Nat)) (all : Bool),
    let x := decideExport r l k m fs all
    x.code = 0 ∨ x.code = 3 ∨ x.code = 4)

/-- In the states each step of R51 meets, outside PARISON service: a framed, verified PEER_HELLO at the responder (end 0) ends a session that is there and opens one with a fresh SESSION, whose key is derived from the shared secret, both nonces and the session number, and is answered; its verified answer makes the opener take the session, derive the key and send PEER_CONFIRM; a tagged PEER_CONFIRM makes the responder's session live and is answered OK; its tagged OK makes the opener's live; a PEER_KEEPALIVE is answered OK, and one is sent every 1 s; a session with no authenticated message for 5 s ends, and the opener opens a new one 1 s later. -/
def Obligations.PeerSessions : Prop :=
  ∀ (m : TcsMsg) (c : Fin 8) (hi : Bool) (session : Word) (payload : List Byte) (p : Peer) (s u : State),
    let k := peerKey c.val hi
    (m.via = .peer c hi → gafferUp s = true → peerForm m = true → s.peer k = some p → hi = false → framing m = none →
      m.session = 0#32 → m.tag = 0#256 → m.mbx = 0 → s.parison = false →
      let v := if p.st = .none then s else endPeer s k p
      ∃ t q, exec (.peerHello m true true) s = .next t ∧ t.peer k = some q ∧ q.st = .opening ∧
        q.session = Config.sessionId v.fresh ∧ t.fresh = v.fresh + 1 ∧
        q.key = sessionKey "TCS-PEER" (Config.kemSecret ((m.payload.drop 36).take 1184) v.fresh) (m.payload.take 32)
          (fitBytes 32 (Config.nonce v.fresh)) (Config.sessionId v.fresh)) ∧
    (gafferUp s = true → s.peer k = some p → p.st = .opening → hi = true →
      exec (.peerHelloResponse c hi session payload true) s = .next (peerSend (s.setPeer k
        { p with session := session, highSeq := 0, cache := [], sentSeq := 0, lastAuth := s.now,
                 key := sessionKey "TCS-PEER" (Config.kemOpen p.kem (payload.take 1088)) p.nonce
                   ((payload.drop 1088).take 32) session }) k 0x0311 0 0 [])) ∧
    (m.via = .peer c hi → gafferUp s = true → peerForm m = true → s.peer k = some p → p.st = .opening → hi = false →
      framing m = none → m.session = p.session → tagGood p.key 0x0311 0 m = true → m.mbx = 0 → s.parison = false →
      exec (.peerConfirm m) s = .next ((s.setPeer k { p with
        st := .live, lastAuth := s.now, keepAt := s.now, highSeq := m.seq.toNat }).respond 0x0311 m .ok)) ∧
    (gafferUp s = true → s.peer k = some p → p.st = .opening → hi = true → peerForm m = true → m.session = p.session →
      tagGood p.key 0x0311 0 m = true →
      exec (.peerConfirmResponse c hi m 0) s = .next (s.setPeer k { p with st := .live, lastAuth := s.now, keepAt := s.now })) ∧
    (Accepted (peerOp 0x0312 0) m 0 s u → u.parison = false → Answered (exec (.peerKeepalive m) s) (peerOp 0x0312 0) m .ok [] 0 u) ∧
    (s.peer k = some p → p.st = .live → p.keepAt + 1000000000 ≤ s.now →
      exec (.peerKeepaliveSend c hi) s = .next (peerSend (s.setPeer k { p with keepAt := s.now }) k 0x0312 0 0 [])) ∧
    (s.peer k = some p → p.st ≠ .none → p.lastAuth + 5000000000 ≤ s.now →
      exec (.peerSessionTimeout c hi) s = .next (endPeer s k p)) ∧
    (gafferUp s = true → s.peer k = some p → p.st = .none → hi = true → p.endedAt + 1000000000 ≤ s.now →
      exec (.peerSessionReopen c hi) s = .next (sendHello s k))

/-- In the states each step of a hand-over meets: RUN_L2_DATA names the context or the delta blob of an export and sends it, and is refused BAD_STATE once that has been sent (a choice of the model's, log entry 112); 5 ms after its start the record of each of an end's exports goes without a context blob; the tagged ACCEPT of an end's one export, at least 10 ms before S, marks it accepted and the run exported at S plus one slot, and a refusal ends it; each export with no ACCEPT 10 ms before S fails with HANDOVER_TIMEOUT, and a due retry starts it again; RUN_IMPORT that passes its checks is accepted at once when it announces no blob, else it waits for it, and one that fails a check is answered with the check's status; RUN_BLOB of either kind writes its data into the layer-2 area and is answered OK, the context's with the import accepted once all of it has arrived; RUN_DELTA is answered OK and, with the hash of the delta that arrived, marks it complete. -/
def Obligations.Handover : Prop :=
  ∀ (m : TcsMsg) (c : Fin 8) (hi : Bool) (n len addr off peerRun : Nat) (data hash : List Byte) (b : ImportBody)
    (p : Peer) (e : Export) (i : Import) (r : Run) (s u : State),
    let k := peerKey c.val hi
    let l2 : OpInfo := { opcode := 0x0309, onchip := true, host := false }
    (Accepted l2 m 0 s u → u.parison = false → len ≤ 16777216 → isHbm u addr = true → addr % 64 = 0 → u.run n = some r →
      exportOf u n r = some e →
      (e.recordSent = false → Answered (exec (.runL2Data m n 1 len addr) s) l2 m .ok [] 0
        (sendRecord (modExport u (exportKey u n r) n fun e => { e with ctx := some (len, addr) }) n r)) ∧
      (e.recordSent = true → Answered (exec (.runL2Data m n 1 len addr) s) l2 m .badState [] 0 u) ∧
      (e.deltaSent = false → Answered (exec (.runL2Data m n 2 len addr) s) l2 m .ok [] 0
        (sendDelta (modExport u (exportKey u n r) n fun e => { e with delta := some (len, addr) }) n r)) ∧
      (e.deltaSent = true → Answered (exec (.runL2Data m n 2 len addr) s) l2 m .badState [] 0 u)) ∧
    (s.peer k = some p → exec (.exportL2WaitExpiry c hi) s = .next (p.exports.foldl (fun s x => match s.run x.1 with
      | some r => if !x.2.recordSent && decide (x.2.started + 5000000 ≤ s.now) then sendRecord s x.1 r else s
      | none => s) s)) ∧
    (s.peer k = some p → p.st = .live → peerForm m = true → m.session = p.session → p.exports = [(e.run, e)] →
      e.seq = m.seq.toNat → e.recordSent = true → e.accepted = false → s.devNs + 10000000 ≤ e.sTime →
      let v := s.setPeer k { p with lastAuth := s.now }
      (tagGood p.key 0x0304 0 m = true → exec (.exportReplyReceive c hi m 0 peerRun) s = .next
        (let w := modExport v k e.run fun e => { e with accepted := true, peerRun := peerRun }
         w.modRun e.run fun r => { r with exported := some (e.sTime + r.slot w) })) ∧
      (∀ st, st ≠ 0 → tagGood p.key 0x0304 st m = true → exec (.exportReplyReceive c hi m st peerRun) s =
        .next (exportFails v k e 0x0011 .refused st))) ∧
    (s.peer k = some p → exec (.handoverTimeout c hi) s = .next (p.exports.foldl (fun s x =>
      if !x.2.accepted && decide (x.2.sTime ≤ s.devNs + 10000000) then exportFails s k x.2 0x0012 .timeout 0 else s) s)) ∧
    (∀ at_, s.peer k = some p → p.retries = [(n, at_)] → at_ ≤ s.now → p.st = .live → s.run n = some r →
      retryHolds s k n = true → exec (.handoverRetry c hi) s = .next (exportStart s n r none)) ∧
    (Accepted (peerOp 0x0304 1) m (7 + 2 * b.carriers.length) s u → m.via = .peer c hi → u.peer k = some p →
      let im : Import := { msg := m, body := b, run := none, ctxParts := [], deltaParts := [], deltaOk := false }
      (importCheck u k p b = .ok → b.l2Len = 0 → exec (.runImport m b) s = .next (acceptImport u k p im)) ∧
      (importCheck u k p b = .ok → b.l2Len ≠ 0 → exec (.runImport m b) s = .next (u.setPeer k { p with import_ := some im })) ∧
      (importCheck u k p b ≠ .ok → importCheck u k p b ≠ .noResource →
        exec (.runImport m b) s = .next (u.respond 0x0304 m (importCheck u k p b)))) ∧
    (Accepted (peerOp 0x0308 2) m 0 s u → u.parison = false → m.via = .peer c hi → u.peer k = some p →
      p.import_ = some i → data.length ≤ 8176 →
      let put (a : Nat) (j : Import) : State :=
        ((memWrite .gaffer (placeOf u.part a) a data u).setPeer k { p with import_ := some j }).respond 0x0308 m .ok
      (off + data.length ≤ i.body.l2Len → (i.run ≠ none ∨ arrived (i.ctxParts ++ [(off, data.length)]) ≠ i.body.l2Len) →
        exec (.runBlob m n 1 off data) s =
          .next (put (p.cfg.l2Area + off) { i with ctxParts := i.ctxParts ++ [(off, data.length)] })) ∧
      (off + data.length ≤ p.cfg.l2Size - i.body.l2Len → exec (.runBlob m n 2 off data) s =
        .next (put (p.cfg.l2Area + i.body.l2Len + off) { i with deltaParts := i.deltaParts ++ [(off, data.length)] }))) ∧
    (Accepted (peerOp 0x0307 2) m 0 s u → u.parison = false → m.via = .peer c hi → u.peer k = some p → p.import_ = some i →
      let a := p.cfg.l2Area + i.body.l2Len
      let got := arrived i.deltaParts
      exec (.runDelta m n hash) s = .next (State.respond (if hash = fitBytes 32 (Config.sha3 (u.bytes a got)) then
          pushBlobEntry (u.setPeer k { p with import_ := some { i with deltaOk := true } }) p (i.run.getD 0) 2 got a i.body.sTime
        else u) 0x0307 m .ok))

/-- In the states each event of R117, R203, R226 and R229 meets: a span whose last task ended 1 s ago and that holds no episode closes with its event; an accepted CRUMB_CTRL in range is applied to every dispatcher it names and answered with their rings; a live session's waiting crumbs are sent in one frame when its budget holds it; a paused queue with watermarks, above its low one, repeats its pause every 100 µs; a good frame on a linked port is counted and directed, a size or FCS error is counted and dropped, and a frame with more than two tags is dropped (uncounted: log entry 83); the window of a bound symbol that has passed closes its record; path delays are measured when due. -/
def Obligations.CrumbsAndReception : Prop :=
  ∀ (m : TcsMsg) (b : CrumbBody) (p : Fin 2) (q flid qid iot port ru carrier frame slot sym : Nat) (f : RxFrame)
    (delays : List (Nat × Nat)) (s u : State),
    (∀ sp t, (s.flow q flid).span = some sp → sp.lastEnd = some t → (s.flow q flid).episode = false → t + 1000000000 ≤ s.now →
      exec (.catchupSpanClose q flid) s =
        .next (catchupEvent (s.setFlow q flid { s.flow q flid with span := none }) q 1 flid sp.lamMax sp.count)) ∧
    (Accepted opCrumbCtrl m 0 s u → holdsSem u m 29 = true → u.parison = false → crumbBodyOk u b = true → m.via = .mgt p →
      let v := crumbStreams b p.val m.session ((setBits b.dsqMask 4).foldl (crumbApply b) u)
      Answered (exec (.crumbCtrl m b) s) opCrumbCtrl m .ok ((List.range 4).flatMap (crumbStatus v)) 0 v) ∧
    (∀ x, mget p.val s.dsq.streams = some x → x.waiting ≠ [] → s.isLive p.val = true → (s.sess p.val).id = x.session →
      80 + x.waiting.length * 32 ≤ crumbBudget s x →
      ∃ t o, exec (.crumbStreamSend p) s = .next t ∧ t.out = s.out ++ [o] ∧ o.via = .mgt p ∧ o.opcode = 0x0803 ∧
        o.payload = x.waiting.flatten ∧ o.seq = BitVec.ofNat 32 x.frame ∧
        t.dsq.streams = mset p.val { x with waiting := [], budget := crumbBudget s x - (80 + x.waiting.length * 32),
                                            refilled := s.now, frame := x.frame + 1 } s.dsq.streams) ∧
    ((s.queue qid).paused = true → (s.queue qid).hi ≠ 0 → (s.queue qid).lo < (s.queue qid).entries.length → (s.queue qid).pausedAt + 100000 ≤ s.now →
      exec (.pauseFrameRepeat qid) s = .next (pauseOut (s.setQueue qid { s.queue qid with pausedAt := s.now }) qid 0xFFFF)) ∧
    (ethPort s iot port = true → linkUp s iot port = true →
      let v := countCodewords iot port f s
      (f.len < 64 ∨ 9216 < f.len → exec (.ethFrameReceive iot port f) s = .next (v.count (R.ETH_RX_SIZEERR iot port) 1)) ∧
      (64 ≤ f.len → f.len ≤ 9216 → f.tags.length ≤ 2 → f.fcsOk = false ∨ portFec v iot port = true ∧ f.uncorr ≠ 0 →
        exec (.ethFrameReceive iot port f) s = .next (v.count (R.ETH_RX_FCSERR iot port) 1)) ∧
      (64 ≤ f.len → f.len ≤ 9216 → 2 < f.tags.length → exec (.ethFrameReceive iot port f) s = .next v) ∧
      (64 ≤ f.len → f.len ≤ 9216 → f.tags.length ≤ 2 → f.fcsOk = true → (portFec v iot port = false ∨ f.uncorr = 0) →
        exec (.ethFrameReceive iot port f) s = .next (directFrame iot port f (v.count64 (R.ETH_RX_FRAMES iot port) 1)))) ∧
    (∀ bd, bindOf s ru carrier = some bd → symOk bd.c slot sym = true →
      let n := symNo s bd.c frame slot sym
      mgetD 0 s.fh.next bd.key ≤ n → windowPast s bd n = true →
      (∀ x, upRec s bd.key n = some x → exec (.rxWindowClose ru carrier frame slot sym) s =
        .next (release bd (setUpRec s { x with closed := true }))) ∧
      (upRec s bd.key n = none → hasRec bd n = true → exec (.rxWindowClose ru carrier frame slot sym) s = .next (release bd (beginRec s bd n true)))) ∧
    (portUp s (portKey iot port) = true → delayDue s iot port = true → exec (.fhDelayMeasure iot port delays) s =
      .next (recheckWindows (setRxWin (State.modFh ((delays.filter fun x => (rusOnPort s (portKey iot port)).contains x.1).foldl
        (fun s x => noteDelayOf s x.1 x.2) s) fun f => { f with measAt := mset (portKey iot port) s.now f.measAt }) iot) iot))

/-- In the states each event meets: a well-formed head entry of an enabled TIMED queue goes to its port's calendar and a malformed one is discarded with its completion; a free port starts a waiting control frame that fits its guard first, else the due timed frame, else the zeros of a silent instance's due symbol, else the weighted fair choice; at its end a frame is completed; an expired pause ends; at the end of its window a sampled queue writes its telemetry record and starts the next window. -/
def Obligations.EgressService : Prop :=
  ∀ (qid iot port pcp : Nat) (x : EgQueue) (s : State),
    let key := portKey iot port
    (∀ e v, s.egq qid = some x → x.en = true → (s.queue qid).en = true → x.timed = true → (s.calendar x.key).length < 256 → peekHead s qid = (some e, v) →
      (entryOk x e = true → exec (.egressCalendarPop qid) s = .next (noteDepth (calendarTake v qid x e) qid)) ∧
      (entryOk x e = false → exec (.egressCalendarPop qid) s = .next (noteDepth (badEntry (dropHead v qid) x.iot x e) qid))) ∧
    (∀ c, txFree s key = true → launchDue s key = some c → exec (.timedLaunch iot port) s = .next (startTimed s key c)) ∧
    (∀ q b n, txFree s key = true → launchDue s key = none → silentDue s key = some (q, b, n) →
      exec (.timedLaunch iot port) s = .next (startZeros s key q b n)) ∧
    (txFree s key = true →
      (∀ a l, mgetD [] s.eg.control key = a :: l → fitsGuard s key 84 = true →
        exec (.transmitStart iot port) s = .next (startControl s key a.1 a.2)) ∧
      (∀ c, mgetD [] s.eg.control key = [] → launchDue s key = some c →
        exec (.transmitStart iot port) s = .next (startTimed s key c)) ∧
      (∀ c, fitsGuard s key 84 = false → launchDue s key = some c →
        exec (.transmitStart iot port) s = .next (startTimed s key c)) ∧
      (∀ q b n, mgetD [] s.eg.control key = [] → launchDue s key = none → silentDue s key = some (q, b, n) →
        exec (.transmitStart iot port) s = .next (startZeros s key q b n)) ∧
      (∀ y, mgetD [] s.eg.control key = [] → launchDue s key = none → silentDue s key = none → wfqPick (wfqReady s key) = some y →
        exec (.transmitStart iot port) s = .next (startWfq s key y.1 y.2.1 y.2.2))) ∧
    (∀ f, mget key s.eg.tx = some f → f.ends ≤ s.now → exec (.frameTransmitEnd iot port) s = .next (frameDone s key f)) ∧
    (∀ e, mget (key * 8 + pcp) s.eg.paused = some e → e ≤ s.now → exec (.pauseExpire iot port pcp) s = .next (pauseEnd s iot port pcp)) ∧
    (s.egq qid = some x → x.sampling = true → x.samp.start + windowLen x ≤ s.devNs →
      exec (.telemetryWindowEnd qid) s =
        .next (let t := telTimeOf s x.iot (x.samp.start + windowLen x)
               let w := telWrite s x.iot (telRecord x qid t (egDepth s qid x))
               let v : State := { w with eg := { w.eg with telTime := mset x.iot t w.eg.telTime } }
               v.setEgq qid (newWindow v qid x (v.devNs / windowLen x * windowLen x))))

/-- For every enabled port in the step named: signal on every lane ends step 2, lock within 200 ppm step 3, what every lane saw before and after inverting ends step 4 (step 5 is skipped on one lane) with the inverted lanes noted, the order of the lanes, whatever it is, step 5 with a reversal noted, a skew of at most 180 ns step 6 (step 7 is skipped without FEC), alignment step 7, and 1 ms in step 8 with no lane under test brings the link up; a step 3 to 7 past its limit is counted and returns the port to step 2; a loss of an up link sends it back to the loss's step. An up port's lane adapts every 10 ms, the lane that stamps times with its receive delay, and a low margin is reported. -/
def Obligations.LaneBringUp : Prop :=
  ∀ (iot port lane skew txDly rxDly vert horz : Nat) (ppm dCtle dDfe : Int) (sees : List LaneSees) (order : List Nat) (loss : LinkLoss) (s : State),
    let ls := portLanes s iot port
    (ethPort s iot port = true →
      (ethStep s iot port = 1 ∨ ethStep s iot port = 2 →
        exec (.signalDetect iot port) s = .next (enterStep (sdStat s iot ls 0 true) iot port 3)) ∧
      (ethStep s iot port = 3 → -200 ≤ ppm → ppm ≤ 200 →
        exec (.cdrLock iot port ppm) s = .next (enterStep (sdStat s iot ls 1 true) iot port 4)) ∧
      (ethStep s iot port = 4 → sees.length = ls.length → sees.all (laneSeesOk (portFec s iot port)) = true →
        exec (.polarityCorrect iot port sees) s = .next (enterStep
          (sdStat (sdStat (sdStat s iot ls 2 true) iot ls 4 false) iot
            (((ls.zip sees).filter fun x => seesInverted x.2).map Prod.fst) 4 true) iot port
          (if 1 < ls.length then 5 else 6))) ∧
      (ethStep s iot port = 5 → order.length = ls.length → (∀ i, i < ls.length → i ∈ order) →
        exec (.laneReversal iot port order) s = .next (let v : State :=
            { s with lanes := { s.lanes with order := mset (portKey iot port) order s.lanes.order } }
          enterStep (sdStat v iot ls 5 (order == (List.range ls.length).reverse)) iot port 6)) ∧
      (ethStep s iot port = 6 →
        let v := s.setReg (R.ETH_SKEW iot port) (BitVec.ofNat 32 (min skew 65535))
        (skew ≤ 1800 → exec (.deskew iot port skew) s = .next (enterStep v iot port (if portFec v iot port then 7 else 8))) ∧
        (1800 < skew → exec (.deskew iot port skew) s = .next v)) ∧
      (ethStep s iot port = 7 → exec (.fecLock iot port) s = .next (enterStep s iot port 8)) ∧
      (ethStep s iot port = 8 → linkUp s iot port = false → portUnderTest s iot port = false →
        mgetD 0 s.lanes.stepAt (portKey iot port) + 1000000 ≤ s.now →
        exec (.linkUp iot port txDly rxDly) s = .next (comeUp s iot port txDly rxDly)) ∧
      (∀ n, stepLimit s iot port (ethStep s iot port) = some n → mgetD 0 s.lanes.stepAt (portKey iot port) + n < s.now →
        exec (.bringupStepTimeout iot port) s = .next (enterStep
          ((s.count (R.ETH_CNT_BRINGUP_FAIL iot port) 1).orReg (R.ETH_EVT iot port) 1) iot port 2)) ∧
      (linkUp s iot port = true → lossOnPort s iot port loss = true → exec (.linkDown iot port loss) s =
        .next (enterStep (noteLoss (dropLink s iot port) iot port loss) iot port (lossStep loss)))) ∧
    (portOfLane s iot lane = some port → linkUp s iot port = true → portUnderTest s iot port = false →
      mgetD 0 s.lanes.adaptAt (iot * 8 + lane) + 10000000 ≤ s.now →
      exec (.adaptationStep iot lane dCtle dDfe rxDly) s = .next (dutyDone 4 (dutyDone 3 (
        let w := s.modReg (R.SD_RXEQ iot lane) fun w =>
          setFld (setFld w 15 8 (nudge (fld w 15 8) dCtle)) 7 0 (nudge (fld w 7 0) dDfe)
        let v := if stampLane w iot port = lane then w.setReg (R.PTP_RX_DLY iot port) (BitVec.ofNat 32 rxDly) else w
        { v with lanes := { v.lanes with adaptAt := mset (iot * 8 + lane) s.now s.lanes.adaptAt } })))) ∧
    (ethPort s iot lane = true →
      let v := s.modReg (R.SD_EYE iot lane) fun w => setFld (setFld w 15 8 (min vert 255)) 7 0 (min horz 255)
      exec (.marginLow iot lane vert horz) s =
        .next (if vert < v.field (R.SD_EYE iot lane) 23 16 then v.orReg (R.SD_EVT iot lane) 2 else v))

/-- On a lane with a checker that is on and has a pattern to check: it locks once, inverted where the line's bits are, and losing lock counts what it compared and the loss; the Gaffer's write of the PRBS control register is performed and any other requester's is an error. An accepted LANE_TEST by the holder of semaphore 25 outside PARISON service, of a lane that may be tested, with its fields in range, starts the test of its ACTION, or stops the one that runs, and answers its counters; a test whose duration ended stops. -/
def Obligations.LaneTests : Prop :=
  ∀ (m : TcsMsg) (r : Requester) (iot lane pat lb dur bits errs : Nat) (inv : Bool) (v : Word) (s u : State),
    let ctrl := R.SD_PRBS_CTRL iot lane
    let free := Accepted opLaneTest m 0 s u ∧ holdsSem u m 25 = true ∧ u.parison = false ∧ ethPort u iot lane = true ∧
      testRefused u m iot lane = false
    let runs (c : Instr) (t : State) : Prop := Answered (exec c s) opLaneTest m .ok (testPayload t iot lane) 0 t
    (ethPort s iot lane = true → s.flag ctrl 30 = true → prbsLocked s iot lane = false → checkable s iot lane = true →
      exec (.prbsLock iot lane inv) s =
        .next ((s.setField ctrl 28 28 1).setField ctrl 27 27 (b2n (inv && laneTakes s iot lane != .pcs)))) ∧
    (ethPort s iot lane = true → prbsLocked s iot lane = true → exec (.prbsLockLoss iot lane bits errs) s =
      .next (let w := (prbsCount s iot lane bits errs).setField ctrl 28 28 0
             w.setField ctrl 11 4 (satAdd 8 (w.field ctrl 11 4) 1))) ∧
    (ethPort s iot lane = true →
      exec (.prbsCounterClear .gaffer iot lane v) s = .next ((prbsCtrlWrite iot lane v s).answer .done) ∧
      (r ≠ .gaffer → exec (.prbsCounterClear r iot lane v) s = .next (s.answer (.error .prot)))) ∧
    (free → runs (.laneTestStop m iot lane bits errs) (if mhas u.lanes.tests (iot * 8 + lane)
      then testStop (prbsCount u iot lane bits errs) iot lane else u)) ∧
    (free → lb ≤ 3 → dur ≤ 86400000 →
      (patternOk u iot lane pat = true →
        runs (.laneTestGenerate m iot lane pat lb dur) (testStart u iot lane 1 pat lb dur) ∧
        runs (.laneTestCheck m iot lane pat lb dur) (testStart u iot lane 2 pat lb dur) ∧
        runs (.laneTestGenerateCheck m iot lane pat lb dur) (testStart u iot lane 3 pat lb dur)) ∧
      runs (.laneTestLoopback m iot lane lb dur) (testStart u iot lane 4 0 lb dur)) ∧
    (∀ t e, mget (iot * 8 + lane) s.lanes.tests = some t → t.until_ = some e → e ≤ s.now →
      exec (.laneTestDurationEnd iot lane bits errs) s = .next (testStop (prbsCount s iot lane bits errs) iot lane))

/-- For every spur port in the step named: far-end energy, echo training, an equaliser within 200 ppm, rung agreement, block lock and 16 timing delays take it from step 2 to data mode, where the data-fault bit is cleared; a step past its limit trains it again; in data mode bad blocks or a low SNR start a fast retrain, an upshift a fast retrain that is noted; a received block and a timing block are taken; with nothing to send the port enters burst mode, sends a burst when a frame waits or 10 ms have passed, and a preamble's header decides the burst, one 3.0 dB above a preamble that waits for its header taking its place; at a frame boundary, once a frame has begun since the retraining, its instances are shed anew; in STILL energy makes it listen or wake, and the right pattern wakes it. -/
def Obligations.SpurPorts : Prop :=
  ∀ (port fault atten dist t1 t4 ret asym ru carrier peak code : Nat) (ppm snr far : Int) (good : Bool) (frames : List RxFrame)
    (s : State),
    let x := s.spurPort port
    (inStep s port 1 = true ∧ tileRun s (iotTile 1) = true ∨ inStep s port 2 = true → exec (.spurFarEndEnergy port) s = .next (spurEnter s port 3)) ∧
    (inStep s port 3 = true → exec (.spurEchoTrained port fault atten dist) s =
      .next (spurEnter (setLine s port fault atten dist) port 4)) ∧
    (inStep s port 4 = true → -200 ≤ ppm → ppm ≤ 200 → exec (.spurEqualiserTrained port ppm fault atten dist) s =
      .next (spurEnter (setLine s port fault atten dist) port 5)) ∧
    (inStep s port 5 = true → exec (.spurRungAgreed port snr far) s = .next (
      let v := setSnr s port snr far
      let r := chooseRung v port (min snr far)
      let w := if r = spurRung v port then v else (v.setField (R.SPUR_STAT port) 18 16 r).orReg (R.SPUR_EVT port) 2
      rungConsequences (spurEnter w port 6) port)) ∧
    (inStep s port 6 = true → exec (.spurBlockLock port) s =
      .next ((spurEnter s port 7).modSpur port fun x => { x with delays := [] })) ∧
    (inStep s port 7 = true → 16 ≤ x.delays.length → exec (.spurDataMode port) s = .next (
      let v := spurEnter (s.setField (R.SPUR_STAT port) 27 27 0) port 8
      (v.modSpur port fun x => { x with lastFrame := v.now }).modFh fun f => { f with measAt := mdel (spurKey port) f.measAt })) ∧
    (∀ n, spurEn s port = true → spurLimit (spurStep s port) = some n → x.stepAt + n < s.now →
      exec (.spurStepTimeout port) s = .next (spurTrain s port 2 false)) ∧
    (inStep s port 8 = true → exec (.fastRetrain port .badBlocks snr far) s =
      .next (spurTrain (setSnr s port snr far) port 5 true)) ∧
    (inStep s port 8 = true → snr < rungSnr (spurRung s port) → exec (.fastRetrain port .lowSnr snr far) s =
      .next (spurTrain (setSnr s port snr far) port 5 true)) ∧
    (∀ r, inStep s port 8 = true → s.flag (R.SPUR_CFG port) 29 = true → r < spurRung s port → maxRung s port ≤ r →
      rungSnr r + spurMargin s port + 30 < min snr far → (∀ t, x.upAt = some t → t + 600 * 1000000000 ≤ s.now) →
      exec (.upshift port snr far) s =
        .next ((spurTrain (setSnr s port snr far) port 5 true).modSpur port fun x => { x with upAt := some s.now })) ∧
    (inStep s port 8 = true → exec (.spurBlockReceive port good frames) s = .next (blockIn port good frames s)) ∧
    (inStep s port 7 = true ∨ inStep s port 8 = true → exec (.timingBlock port t1 t4 ret asym) s = .next (
      let l := x.delays ++ [(((t4 : Int) - t1) - ret) / 2 - asym]
      let l := l.drop (l.length - 16)
      sendTiming ((s.modSpur port fun x => { x with delays := l }).setReg (R.SPUR_DELAY port)
        (BitVec.ofNat 32 (ofSigned 32 (medianInt l)))) port)) ∧
    (mhas s.cor.insts (instKey ru carrier) = true → frameSince s ru carrier [mget ru s.cor.retrained] = true →
      exec (.frameBoundary ru carrier) s = .next (reshed s ru true)) ∧
    (inStep s port 8 = true → s.flag (R.SPUR_CFG port) 30 = true → s.flag (R.SPUR_STAT port) 26 = false →
      x.lastFrame + s.field (R.SPUR_IDLE port) 15 0 * 1000 ≤ s.now → exec (.burstModeEnter port) s =
        .next ((s.setField (R.SPUR_STAT port) 26 26 1).modSpur port fun x => { x with burstAt := s.now, peak := none })) ∧
    (inStep s port 8 = true → s.flag (R.SPUR_STAT port) 26 = true →
      (spurQueued s port = true ∨ x.burstAt + 10000000 ≤ s.now) → exec (.burstSend port) s = .next (
        let v := (sendTiming (s.emit (.spur port 1)) port)
        let w := v.modSpur port fun x => { x with burstAt := v.now }
        if spurQueued s port then spurFrame w port else w)) ∧
    (inStep s port 8 = true → s.flag (R.SPUR_STAT port) 26 = true →
      let begins (c : Instr) (h : Option Bool) (v : State) : Prop := exec c s = .next (
        let w := v.modSpur port fun x => { x with peak := none }
        match h with
        | none => v.modSpur port fun x => { x with peak := some peak }
        | some true => blockIn port true frames w
        | some false => w.count (R.SPUR_CNT_FALSE_PRE port) 1)
      ∀ h, (x.peak = none → begins (.burstPreambleReceive port peak h frames) h s) ∧
        (∀ p, x.peak = some p → p + 30 ≤ peak →
          begins (.burstPreambleReceive port peak h frames) h (s.count (R.SPUR_CNT_FALSE_PRE port) 1)) ∧
        (x.peak = some peak → h ≠ none → begins (.burstPreambleReceive port peak h frames) h s) ∧
        (∀ p, x.peak = some p → peak < p + 30 → p ≠ peak ∨ h = none →
          exec (.burstPreambleReceive port peak h frames) s = .next s)) ∧
    (spurEn s port = true → s.flag (R.SPUR_STAT port) 24 = true →
      let v := s.modSpur port fun x => { x with listening := true }
      (v.flag (R.SPUR_WAKE port) 29 = false → exec (.spurEnergyDetect port) s = .next v) ∧
      (v.flag (R.SPUR_WAKE port) 29 = true → exec (.spurEnergyDetect port) s = .next (spurWake v port (causeWord 8 port 0)))) ∧
    (spurEn s port = true → s.flag (R.SPUR_STAT port) 24 = true → x.listening = true →
      let v := s.modSpur port fun x => { x with listening := false }
      (v.flag (R.SPUR_WAKE port) 30 = true ∨ code = v.field (R.SPUR_WAKE port) 15 0 →
        exec (.spurWakePattern port code) s = .next (spurWake v port (causeWord 7 port code))) ∧
      (v.flag (R.SPUR_WAKE port) 30 = false → code ≠ v.field (R.SPUR_WAKE port) 15 0 →
        exec (.spurWakePattern port code) s = .next (v.count (R.SPUR_CNT_WAKE_REJ port) 1)))

/-- In the states each event meets: 16 measurements qualify a reference in FREERUN (to ACQUIRE) and in HOLDOVER within the jump limit (to LOCKED), beyond it the jump is refused; in ACQUIRE under TIME_REACQUIRE 16 taken since it was accepted step; a reference with no measurement for 3 s is lost; 10 s within the lock limits after the step lock the servo; the first step of ACQUIRE follows its first measurement; TIME_REACQUIRE by the holder of semaphore 24 in range starts ACQUIRE with the reference no longer good, and ends with TIMEOUT when its time is over; TIME_READ answers the time state; each second in HOLDOVER the ramp advances the steering code and in LOCKED the steering code is recorded; the spine's trim is written. -/
def Obligations.TimeServo : Prop :=
  ∀ (m : TcsMsg) (maxStep : DWord) (waitS code tile trim : Nat) (err : Int) (s u : State),
    (16 ≤ s.time.meas.length →
      let v := s.setField R.TIME_STAT 27 27 1
      (servoState s = 0 → refOk s = false → exec .referenceQualify s = .next (setServo v 1)) ∧
      (servoState s = 3 → refOk s = false → ((servoOffset v).natAbs : Int) ≤ jumpLimit v →
        exec .referenceQualify s = .next (setServo v 2)) ∧
      (servoState s = 3 → refOk s = false → jumpLimit v < ((servoOffset v).natAbs : Int) →
        exec .referenceQualify s = .next (jumpRefused (v.modTime fun t => { t with refused := true }) (servoOffset v))) ∧
      (∀ x, servoState s = 1 → s.time.reacq = some x → 16 ≤ x.taken.length →
        exec .referenceQualify s = .next (reacqStep s x))) ∧
    (s.field R.TIME_STAT 26 25 ≠ 0 → s.time.lastMeas + 3000000000 ≤ s.now → exec .referenceLost s = .next (refLost s)) ∧
    (∀ t, s.time.lockSince = some t → servoState s = 1 → stepDone s = true → t + 10000000000 ≤ s.now →
      exec .servoLock s = .next (setServo s 2)) ∧
    ((servoState s = 1 → (stepDone s = true ∨ s.time.meas ≠ []) ∧ s.time.reacq = none) →
      exec .timeStep s = .next (gafferStep s (-servoOffset s))) ∧
    (Accepted opTimeReacquire m 1 s u → holdsSem u m 24 = true → maxStep.toNat ≠ 0 → maxStep.toNat ≤ 2 ^ 62 → waitS ≤ 600 →
      servoState u ≠ 0 → u.time.reacq = none →
      exec (.timeReacquire m maxStep (~~~maxStep) waitS) s = .next (State.modTime
        ((setServo (holdMbx u m 0x0404 []) 1).setField R.TIME_STAT 27 27 0) fun t =>
        { t with reacq := some { maxStep := maxStep.toNat, until_ := u.now + (if waitS = 0 then 10 else waitS) * 1000000000,
                                 mbx := mbxKey m, from_ := servoState u, done := stepDone u, taken := [] }, meas := [] })) ∧
    (∀ x, s.time.reacq = some x → x.until_ ≤ s.now → exec .timeReacquireTimeout s = .next (reacqEnd s x .timeout)) ∧
    (Accepted opTimeRead m 0 s u → Answered (exec (.timeRead m) s) opTimeRead m .ok (timeReadPayload u) 0 u) ∧
    (s.flag R.TIME_HO_CFG 31 = true → s.flag R.TIME_HO_CFG 30 = true → servoState s = 3 ∨ inStill s = true →
      s.time.rampAt + 1000000000 ≤ s.now → exec .holdoverRamp s = .next (steerCode (s.modTime fun t => { t with rampAt := s.now })
        (s.time.hoAcc + toSigned 32 (s.reg R.TIME_HO_SLOPE).toNat))) ∧
    (s.flag R.TIME_HO_CFG 31 = true → servoState s = 2 → exec (.ocxoSteeringUpdate code) s = .next (
      let v := steerCode s (((code % 65536) * 65536 : Nat) : Int)
      let l := (v.time.codes.filter fun x => decide (v.now < x.1 + 86400000000000)) ++ [(v.now, code % 65536)]
      (v.modTime fun t => { t with codes := l }).setReg R.TIME_HO_SLOPE (BitVec.ofInt 32 (ageSlope l)))) ∧
    (tilePresent s.part tile = true → tileRun s tile = true → exec (.spineDelayMeasure tile trim err) s =
      .next (((dutyDone 2 s).setReg (R.LTIME_TRIM tile) (BitVec.ofNat 32 (trim % 2 ^ 24))).setReg (R.LTIME_STAT tile)
        (BitVec.ofNat 32 (b2n (decide (err.natAbs ≤ 64)) * 2 ^ 31 + ofSigned 16 err))))

/-- In the states each event meets: a PTP message on a PTP port with no profile, or of another domain, or on a disabled port, is counted and discarded; an Announce is taken; a one-step Sync on a slave port gives a measurement and a two-step one is kept until its Follow_Up, and a Delay_Resp gives the mean path delay; a master answers a Delay_Req, grants a unicast request while fewer than 64 stand, and forgets a cancelled one; a master port sends its Sync and Announce, one to each grantee under profile 2; SyncE selects the best usable source by quality level, priority and port, and none otherwise, with a quality of its own that is free; a wait to restore that has passed ends; an edge of the PPS input of the configured sense sets the measured error and, taken as the grandmaster's, gives a measurement unless it is out of range; 2 s without one lose the reference; an enabled time event that is due fires: nothing more, a PPS output, or the load of a DAC group. -/
def Obligations.PtpAndTimeEvents : Prop :=
  ∀ (iot port domain n : Nat) (b : PtpBody) (d : Nat) (falling : Bool) (t1 corr t2 dev : Int)
    (ql : List (Nat × Nat)) (s : State),
    let v := s.count (R.PTP_CNT_RX iot port) 1
    (ptpPort s iot port = true →
      (v.time.profile = 0 ∨ domain ≠ v.time.domain ∨ ptpRole v iot port = 0 →
        exec (.ptpMessageReceive iot port domain b) s = .next (v.count (R.PTP_CNT_DISC iot port) 1)) ∧
      (v.time.profile ≠ 0 → domain = v.time.domain → ptpRole v iot port ≠ 0 →
        exec (.ptpMessageReceive iot port domain (.announce d)) s = .next (announce v iot port d) ∧
        (ptpState v iot port = 9 →
          exec (.ptpMessageReceive iot port domain (.sync false t1 corr t2)) s = .next (syncDone v iot port t1 corr t2) ∧
          exec (.ptpMessageReceive iot port domain (.sync true t1 corr t2)) s =
            .next (setPtp v iot port { t1 := t1, corr := corr, t2 := t2, twoStep := true }) ∧
          ∀ x, mget (iot * 8 + port) v.time.ptp = some x →
            (x.twoStep = true → exec (.ptpMessageReceive iot port domain (.followUp t1 corr)) s =
              .next (syncDone v iot port t1 (x.corr + corr) x.t2)) ∧
            exec (.ptpMessageReceive iot port domain (.delayResp t1 t2 corr)) s =
              .next (v.setReg64 (R.PTP_MEAN_DELAY iot port) (BitVec.ofInt 64
                (((x.t2 - extendStamp v x.t1 - x.corr) + (extendStamp v t2 - t1 - corr)).fdiv 2)))) ∧
        (ptpState v iot port = 6 → exec (.ptpMessageReceive iot port domain (.delayReq d)) s =
          .next ((v.count (R.PTP_CNT_TX iot port) 1).emit (.ptp iot port 9 (ptpStamp v)))) ∧
        (v.time.profile = 2 → ptpState v iot port = 6 →
          let l := (liveGrants v).filter fun g => (g.1, g.2.1) != (iot * 8 + port, d)
          (l.length < 64 → exec (.ptpMessageReceive iot port domain (.unicastRequest d n)) s =
            .next (((v.count (R.PTP_CNT_TX iot port) 1).emit (.ptp iot port 12 n)).modTime
              fun t => { t with grants := l ++ [(iot * 8 + port, d, v.now + n * 1000000000)] })) ∧
          exec (.ptpMessageReceive iot port domain (.unicastCancel d)) s = .next (v.modTime fun t => { t with grants := l })))) ∧
    (ptpPort s iot port = true →
      let w := masterOnly s iot port
      ptpState w iot port = 6 → w.flag (R.PTP_STAT iot port) 27 = true → w.time.profile ≠ 0 →
      exec (.ptpSyncSend iot port) s =
        .next ((List.range (syncCopies w iot port)).foldl (fun s _ => syncAnnounce s iot port) w)) ∧
    (s.flag R.TIME_SYNCE 31 = true →
      let best := leastBy (fun x => (x.2, mgetD 0 s.time.syncePrio x.1, x.1)) (ql.filter (synceOk s))
      (∀ x, best = some x → exec (.synceSelect ql) s = .next (
        let w := ((s.setField R.TIME_SYNCE 30 30 1).setField R.TIME_SYNCE 23 21 (x.1 / 8)).setField R.TIME_SYNCE 20 16 (x.1 % 8)
        (w.setField R.TIME_SYNCE 7 4 x.2).setField R.TIME_SYNCE 3 0 x.2)) ∧
      (best = none → exec (.synceSelect ql) s = .next (((s.takeFresh.2.setField R.TIME_SYNCE 30 30 0).setField
        R.TIME_SYNCE 7 4 0).setField R.TIME_SYNCE 3 0 (Config.ownQuality s.takeFresh.1 % 16)))) ∧
    (∀ t, mget (iot * 8 + port) s.time.wtr = some t → t ≤ s.now → exec (.synceWaitToRestore iot port) s =
      .next (s.modTime fun x => { x with wtr := mdel (iot * 8 + port) x.wtr })) ∧
    (s.flag R.TIME_PPS_CFG 30 = true → s.flag R.TIME_PPS_CFG 29 = falling →
      let e := dev - ((s.field R.TIME_PPS_CFG 15 0 * 64 : Nat) : Int)
      let w := s.setReg R.TIME_PPS_IN_ERR (BitVec.ofInt 32 e)
      (s.time.gm = none → exec (.ppsInEdge falling dev) s = .next w) ∧
      ∀ sec, s.time.gm = some sec →
        let x := w.modTime fun t => { t with ppsAt := w.now, gm := some (sec + 1) }
        let here := if 500000000 ≤ x.clk.ns then x.clk.sec + 1 else x.clk.sec
        (25600 < e.natAbs → exec (.ppsInEdge falling dev) s =
          .next ((x.orReg R.TIME_EVT 1).modTime fun t => { t with ppsTaken := false })) ∧
        (e.natAbs ≤ 25600 → exec (.ppsInEdge falling dev) s = .next (takeMeas
          ((x.setField R.TIME_STAT 26 25 2).modTime fun t => { t with ppsTaken := true })
          (((here : Int) - sec) * 65536000000000 + e * 256)))) ∧
    (s.time.gm.isSome = true → s.time.ppsAt + 2000000000 ≤ s.now → s.field R.TIME_STAT 26 25 = 2 →
      exec .ppsInMiss s = .next (refLost ((s.orReg R.TIME_EVT 1).modTime fun t => { t with ppsTaken := false }))) ∧
    (n < 4 → s.flag (R.TIME_TEV_CFG n) 31 = true →
      let k := mgetD 0 s.time.tevNext n
      let p := (s.reg (R.TIME_TEV_PERIOD n)).toNat
      let start := (s.reg64 (R.TIME_TEV_SEC n)).toNat * 1000000000 + s.field (R.TIME_TEV_NS n) 29 0
      let w := (s.setField (R.TIME_TEV_CFG n) 27 27 1).modTime fun t => { t with tevNext := mset n (k + 1) t.tevNext }
      p ≠ 0 ∨ k = 0 → start + k * p ≤ s.devNs →
      (w.field (R.TIME_TEV_CFG n) 30 28 = 0 → exec (.timeEventFire n) s = .next w) ∧
      (w.field (R.TIME_TEV_CFG n) 30 28 = 1 → exec (.timeEventFire n) s = .next (
        if n = 0 && w.flag R.TIME_PPS_CFG 31 && !w.power.still
        then w.emit (.ppsOut (start + k * p) (w.field (R.TIME_TEV_CFG n) 19 0)) else w)) ∧
      (∀ g, g < 2 → w.field (R.TIME_TEV_CFG n) 30 28 = 2 + g → exec (.timeEventFire n) s = .next (
        if groupLocked w g && n != 3 then w else dacLoad w g)))

/-- A DAC_CODE write that its requester may make holds the code pending, with the one before it kept for the load of this instant, and one to the steering channel by another requester than the Gaffer is PROT; DAC_CFG is written under its rules; a load edge 20 ns low loads the groups whose PIN bit is set and that do not hold the steering channel; a clear edge 100 ns low makes every enabled channel drive its clear code until its next load event; VDAC_LOW and DAC_COMPLIANCE set and clear their status bits. -/
def Obligations.AuxiliaryDacs : Prop :=
  ∀ (r : Requester) (ch lowNs : Nat) (v : Word) (low : Bool) (s : State), ch < 8 →
    (dacMayWrite s r ch = true →
      exec (.dacCode r ch v) s = .next ((State.setReg
        { s with pins := { s.pins with codeAt := mset ch (s.now, dacPending s ch) s.pins.codeAt } }
        (R.DAC_CODE ch) (BitVec.ofNat 32 (fld v 15 0))).answer .done) ∧
      exec (.dacCfg r ch v) s = .next ((dacCfgWrite ch v s).answer .done)) ∧
    (dacLock s ch = true → r ≠ .gaffer → exec (.dacCode r ch v) s = .next (s.answer (.error .prot)) ∧
      exec (.dacCfg r ch v) s = .next (s.answer (.error .prot))) ∧
    (20 ≤ lowNs →
      let w := if s.flag R.DAC_GRP_CFG 0 && !groupLocked s 0 then dacLoad s 0 else s
      exec (.dacLdN lowNs) s = .next (if w.flag R.DAC_GRP_CFG 4 && !groupLocked w 1 then dacLoad w 1 else w)) ∧
    (100 ≤ lowNs → exec (.dacClrN lowNs) s =
      .next ((List.range 8).foldl dacClear { s with pins := { s.pins with clrLow := true } })) ∧
    (s.flag (R.DAC_CFG ch) 31 = true → dacClear s ch =
      (s.setReg (R.DAC_OUT ch) (BitVec.ofNat 32 (s.field (R.DAC_CLR_CODE ch) 15 0))).setField (R.DAC_CFG ch) 27 27 1) ∧
    exec .dacClrNRelease s = .next { s with pins := { s.pins with clrLow := false } } ∧
    exec (.vdacLow low) s = .next (s.setField R.DAC_STAT 31 31 (b2n low)) ∧
    (s.flag (R.DAC_CFG ch) 31 = true → s.flag (R.DAC_CFG ch) 30 = true → exec (.dacCompliance ch true) s =
      .next ((s.orReg R.DAC_STAT ch).orReg R.DAC_STAT (8 + ch))) ∧
    exec (.dacCompliance ch false) s = .next (s.setField R.DAC_STAT ch ch 0)

/-- For every accepted FAB_LOAD that passes its checks: ACTION 0 of a VALID slot and ACTION 1 hold their mailbox and start, ACTION 2 switches the named lines on again and is answered OK; FAB_STATUS of a present fabric answers its 26 registers. A load whose image verifies goes to DRAIN with its measurement extended, one whose signature fails is given up with AUTH_FAIL and one that lies in a bad NAND page with UE; when the couplers are empty or the drain's time is over the lost entries are counted and the load goes on to configuration, or the unload is answered OK; after the configuration time the design runs, its flip-flops at their initial values, and the load is answered; a long line with two or more drivers is switched off and journalled. -/
def Obligations.FabricLoading : Prop :=
  ∀ (m : TcsMsg) (fab slot drainMs line : Nat) (img : FabImage) (drivers : List Nat) (s u : State),
    (Accepted opFabLoad m 0 s u → slot < 64 → fabCheck m fab drainMs true (holdMbx u m 0x0901 []) = none →
      (mgetD { st := 0, total := 0, written := 0, data := [], blocks := [] } u.stor.slots slot).st = 2 →
      exec (.fabLoad m fab slot drainMs) s = .next (fabBegin m fab (some slot) drainMs 1 (holdMbx u m 0x0901 []))) ∧
    (Accepted opFabLoad m 0 s u → fabCheck m fab drainMs true (holdMbx u m 0x0901 []) = none →
      exec (.fabUnload m fab drainMs) s = .next (fabBegin m fab none drainMs 2 (holdMbx u m 0x0901 []))) ∧
    (Accepted opFabLoad m 0 s u → line < 1152 ∨ line = 0xFFFF → fabCheck m fab 0 true u = none →
      let v := u.modFab fab fun x => { x with off := x.off.filter fun l => !(line == 0xFFFF || l == line) }
      let w := v.setField (R.FAB_STATE fab) 10 0 (v.fabOf fab).off.length
      Answered (exec (.fabRearm m fab line) s) opFabLoad m .ok (fabPayload 0 0) 0 (zeroRegs w
        (((List.range 16).filter fun i => w.flag (R.FAB_CONT_LINE fab i) 31 &&
          (line == 0xFFFF || w.field (R.FAB_CONT_LINE fab i) 10 0 == line)).map (R.FAB_CONT_LINE fab)))) ∧
    (Accepted { opcode := 0x0902, onchip := true } m 0 s u → u.parison = false ∨ fab = 0 → fabPresent u fab = true →
      Answered (exec (.fabStatus m fab) s) { opcode := 0x0902, onchip := true } m .ok ((R.FAB_STATE fab :: R.FAB_EVT fab ::
        (List.range 8).map (R.FAB_IMAGE_HASH fab) ++ (List.range 16).map (R.FAB_CONT_LINE fab)).flatMap
          fun a => leBytes 4 (u.reg a).toNat) 0 u) ∧
    (∀ j, (s.fabOf fab).job = some j →
      (fabSt s fab = 1 → j.slot.isSome = true →
        exec (.fabImageVerify fab none) s = .next (fabGiveUp (countRead 4 true s) fab j .ue)) ∧
      (fabSt s fab = 1 → j.slot.isSome = true → (img.signer.map (fabKeyOk s)).getD false = false →
        exec (.fabImageVerify fab (some img)) s = .next (fabGiveUp s fab j .authFail)) ∧
      (∀ k, fabSt s fab = 1 → j.slot.isSome = true → img.signer = some k → fabKeyOk s k = true → img.fab = fab →
        img.forPart = true → fabStatic img = true → exec (.fabImageVerify fab (some img)) s =
          .next (setFabSt (extendMeas (6 + fab) img.hash (s.modFab fab fun x =>
            { x with job := some { j with image := some img, at_ := s.now } })) fab 2)) ∧
      (let bound := (((s.fabOf fab).design).map boundQcs).getD []
       fabSt s fab = 2 → ((bound.map fun n => (qcWords s fab n).length).foldl (· + ·) 0 = 0 ∨ j.at_ + j.drainMs * 1000000 ≤ s.now) →
        let lost := (bound.map fun n => (qcWords s fab n).length / 4).foldl (· + ·) 0
        let v := fabClear (s.count (R.FAB_CNT_LOST fab) lost) fab
        (j.slot.isSome = true → exec (.fabDrainEnd fab) s = .next (setFabSt (v.modFab fab fun x =>
          { x with job := some { j with lost := lost, at_ := v.now } }) fab 3)) ∧
        (j.slot = none → exec (.fabDrainEnd fab) s = .next (finishMbx (setFabSt (v.modFab fab fun x =>
          { x with job := none }) fab 0) j.mbx .ok (fabPayload lost 0) 0))) ∧
      (∀ d, j.image = some d → fabSt s fab = 3 → j.at_ + 3145728 ≤ s.now →
        exec (.fabGsrRelease fab) s = .next (
          let v := netReset fab d (d.qcs.foldl (fun s q => qcInit s fab q)
            (s.modFab fab fun x => { x with design := some d, job := none }))
          let w := (List.range 8).foldl (fun s i =>
            s.setReg (R.FAB_IMAGE_HASH fab i) (BitVec.ofNat 32 (ent d.hash (4 * i) 4))) v
          finishMbx (setFabSt w fab 4) j.mbx .ok (fabPayload j.lost w.devNs) 0))) ∧
    (∀ a b l, (fabUser s fab).isSome = true → line < 1152 → (List.range 128).filter drivers.contains = a :: b :: l →
      (s.fabOf fab).off.contains line = false →
      ∃ v : State, exec (.longLineContention fab line drivers) s = .next (v.raise 0x0070 6 (fabTile fab)
        (leBytes 1 fab ++ leBytes 1 (l.length + 2) ++ leBytes 2 line ++ leBytes 1 a ++ leBytes 1 b ++ leBytes 2 0)) ∧
        (v.fabOf fab).off = (s.fabOf fab).off ++ [line])

/-- For every queue coupler of a running design: a write in a writing mode appends its word, or sets the overflow flag when the coupler is full or still shows full; a read takes the oldest word, or sets the underflow flag and returns a free value when there is none or the coupler still shows empty; four words of a push coupler that may push become one entry of its queue; a refused coupler tries again; a pop takes what its queue gives. A target access in an enabled window waits for the fabric's answer, and is answered with its data, or with DECODE_ERR past its limit; an initiator write or read is a bus access of the fabric; an access of a block RAM of the design's reads both ports, then writes, port B's write giving way where both write one word. -/
def Obligations.FabricPorts : Prop :=
  ∀ (r : Requester) (fab n id addr len block : Nat) (word : BitVec 72) (p1 wr : Bool) (data : List Byte) (c : QcCfg) (s : State),
    let l := qcWords s fab n
    (qcOf s fab n = some c →
      (c.mode = 1 ∨ c.mode = 2 → l.length < qcDepth c → (qcFlags s fab n).full = false →
        let w := if c.mode = 2 then word &&& 0xFFFFFFFFFFFFFFFF#72 else if c.wide then word else word &&& 0xFFFFFFFFFFFF#72
        exec (.qcWrite fab n word) s = .next ((setQc s fab n (l ++ [w])).wroteQc fab n c)) ∧
      (c.mode = 1 ∨ c.mode = 2 → (qcDepth c ≤ l.length ∨ (qcFlags s fab n).full = true) →
        exec (.qcWrite fab n word) s = .next ((s.orReg (R.FAB_QC_STAT fab n) 25).orReg (R.FAB_EVT fab) 1)) ∧
      (c.mode = 1 ∨ c.mode = 3 →
        (∀ w t, l = w :: t → (qcFlags s fab n).empty = false →
          exec (.qcRead fab n) s = .next (((setQc s fab n t).readQc fab n c).answer (.bytes (leBytes 9 w.toNat)))) ∧
        (l = [] ∨ (qcFlags s fab n).empty = true → exec (.qcRead fab n) s = .next (((s.takeFresh.2.orReg (R.FAB_QC_STAT fab n) 24).orReg (R.FAB_EVT fab) 0).answer
          (.bytes (fitBytes 9 (Config.fabData s.takeFresh.1)))))) ∧
      (∀ v, c.mode = 2 → 4 ≤ l.length → s.flag (R.FAB_QC_STAT fab n) 29 = true →
        pushQ (.fab fab n) c.qid ((l.take 4).flatMap fun w => leBytes 8 w.toNat) s = (.accepted, v) →
        exec (.qcPush fab n) s = .next ((setQc v fab n (l.drop 4)).readQc fab n c)) ∧
      (c.mode = 2 → exec (.pushRetry fab n) s = .next (s.setField (R.FAB_QC_STAT fab n) 29 29 1))) ∧
    exec (.qcPop fab n) s = .next (qcPopNow s fab n) ∧
    (mhas (s.fabOf fab).popAt n = true → exec (.qcPopRetry fab n) s = .next (qcPopNow s fab n)) ∧
    (placeOf s.part addr = .fabw fab → answers s r (fabTile fab) = true → fabTargetOn s fab addr = true → oneBlock addr len = true →
      exec (.fabTargetRequest r addr wr len) s = .next ((s.modFab fab fun x => { x with
        targets := x.targets ++ [{ id := (s.fabOf fab).nextTgt, by_ := r, addr := addr, write := wr, n := len, at_ := s.now }],
        nextTgt := x.nextTgt + 1 }).answer .none)) ∧
    (∀ t, (s.fabOf fab).targets.find? (fun t => t.id == id) = some t →
      exec (.fabTargetAnswer fab id data) s =
        .next ((dropTarget s fab id).answer (if t.write then .done else .bytes (fitBytes t.n data))) ∧
      (t.at_ + tgtLimit s fab ≤ s.now → exec (.fabTargetTimeout fab id) s =
        .next ((((dropTarget s fab id).orReg (R.FAB_EVT fab) 2).count (R.FAB_CNT_TGT_TO fab) 1).answer (.error .decodeErr)))) ∧
    ((fabUser s fab).isSome = true → fabSt s fab ≠ 2 → oneBlock addr len = true →
      exec (.fabInitiatorRequest fab p1 true addr len data) s = .next (writeAnswer (.fab fab) addr (fitBytes len data) s) ∧
      (∀ b v, busRead (.fab fab) addr len s = (.ok b, v) →
        exec (.fabInitiatorRequest fab p1 false addr len data) s = .next (v.answer (.bytes b)))) ∧
    (∀ d cfg (a b : Option PortOp), fabUser s fab = some d → mget block d.brams = some cfg → cfg.user = true → block < 512 →
      bramIn cfg.width a = true → bramIn cfg.width b = true →
      exec (.bramPortAccess fab block a b) s = .next (
        let x := bramRead s fab block cfg.width cfg.ecc false a
        let y := bramRead x.2 fab block cfg.width cfg.ecc false b
        (bramWrite (bramWrite y.2 fab block cfg.width cfg.ecc a) fab block cfg.width cfg.ecc
          (if bramBoth a b then none else b)).answer (.bytes (x.1 ++ y.1))))

/-- For every accepted POWER_STATE_SET that passes its checks: LULL is answered at once and the device is in LULL; a request for LULL or ACTIVE in force is answered at once and changes nothing but REKEEP_US; ACTIVE of another state starts the transition that wakes every sleeping DSP and ACC tile; STILL starts the walk over the islands with nothing new starting; KIND 2 stores the converter entry and the bus rate for the next boot. An island that has drained enters its sleep; a refused settle time rolls the transition back with the refuser noted; idle work tiles sleep in LULL and wake for an overdue scrub; tiles start one by one, 2 µs apart; phase B follows the commit by 1 ms; each ready signal ends its wake step, and a step that misses twice its limit is repeated once, then the island fails, or for islands of the control tiles and the device the device is reset. -/
def Obligations.PowerStates : Prop :=
  ∀ (m : TcsMsg) (resume us re entry addr page role flags mv khz tile isl canary hbmCanary : Nat) (s u : State),
    let h := holdMbx u m 0x0501 []
    (Accepted opPower m 0 s u →
      (powerCheck m (powerArgs 0 us re) false h = none →
        ((rekeep h re).devState ≠ 2 → exec (.powerStateSetLull m us re) s = .next (
          let v := (rekeep h re).setField R.PWR_STAT 31 29 2
          finishMbx (powerReq v (0, 0, 0) 1) (mbxKey m) .ok (powerPayload v (0, 0, 0)) 0)) ∧
        ((rekeep h re).devState = 2 → exec (.powerStateSetLull m us re) s = .next (
          let v := rekeep h re
          finishMbx v (mbxKey m) .ok (powerPayload v (0, 0, 0)) 0)) ∧
        ((rekeep h re).devState = 1 → exec (.powerStateSetActive m us re) s = .next (
          let v := rekeep h re
          finishMbx v (mbxKey m) .ok (powerPayload v (0, 0, 0)) 0)) ∧
        ((rekeep h re).devState ≠ 1 → exec (.powerStateSetActive m us re) s = .next (
          let v := rekeep h re
          let tiles := (dspTiles v.part ++ accTiles v.part).filter fun t => tileSleeps v t || (v.island t).st == .draining
          let x : Trans := { newTrans m 1 0 us with starts := sortBy (fun t => (t, 0, 0)) tiles }
          endActive ((powerBusy (v.setField R.PWR_STAT 31 29 1) true).modPower fun p => { p with trans := some x })))) ∧
      (powerCheck m (powerArgs resume us re) true h = none → exec (.powerStateSetStill m resume us re) s = .next (
        let v := rekeep h re
        let x : Trans := { newTrans m 3 (if resume = 0 then 2 else resume) us with todo := phaseA v }
        walk ((powerBusy v true).modPower fun p => { p with stopping := true, trans := some x }))) ∧
      (holdsSem u m 25 = true → u.parison = false → pmbArgs entry addr role flags khz = true → u.nvmPaused = false →
        exec (.powerStateSetPmbus m entry addr page role flags mv khz) s = .next (
          let c := (addr * 2 ^ 24 + page % 256 * 2 ^ 16 + role * 2 ^ 8 + flags % 256, mv % 65536)
          finishMbx (configWritten (h.modPower fun p =>
            { p with pmbStored := mset entry c p.pmbStored, khzStored := khz })) (mbxKey m) .ok (powerPayload h (0, 0, 0)) 0))) ∧
    ((s.island tile).st = .draining → owing s tile = false →
      exec (.islandSleepEnter tile) s = .next (moveOn (enterSleep s tile (s.island tile).target))) ∧
    (∀ x t0 t l p ps, s.power.trans = some x → x.target = 3 → x.back = none → x.askedAt = some t0 → x.todo = t :: l →
      busyParts s t = p :: ps → p.1 = x.askedUnit → t0 + x.settle ≤ s.now → exec .settleTimeout s = .next (beginRollback
        ((s.setReg (R.ISL_REFUSE t) (BitVec.ofNat 32 (p.1 * 256 + p.2))).orReg R.PWR_EVT 3) x .refused (t, p.1, p.2))) ∧
    (s.devState = 2 → s.power.trans = none → s.nvmPaused = false → isWorkTile s tile = true → (s.island tile).st = .run →
      busyParts s tile = [] → (s.island tile).forScrub = false →
      (s.island tile).idleSince + s.field R.PWR_CTRL 15 0 * 1000 ≤ s.now →
      exec (.tileIdleSleep tile) s = .next (sleepOrDrain (s.modIsland tile fun y => { y with forScrub := false }) tile
        (if s.flag R.PWR_CTRL 31 then .halt else .keep))) ∧
    (s.devState = 2 → s.nvmPaused = false → isWorkTile s tile = true → tileSleeps s tile = true → (s.island tile).step = 0 →
      (s.island tile).failed = false → 600 ≤ scrubAge s tile →
      exec (.scrubWake tile) s = .next (startWake (s.modIsland tile fun x => { x with forScrub := true }) tile)) ∧
    (∀ t l, s.power.nextStart ≤ s.now → s.nvmPaused = false → s.power.trans = none → s.boot.tilesToStart = t :: l →
      exec .tileStart s = .next (moveOn (((bootTile s t).modBoot fun b => { b with tilesToStart := l }).modPower
        fun p => { p with nextStart := s.now + 2000 }))) ∧
    (∀ t, s.power.commitAt = some t → s.power.still = false → t + 1000000 ≤ s.now →
      exec .stillPhaseB s = .next (
        let v := powerRecord (State.modPower (pmbStill (keepIsland ([144, 146, 147, 148, 149, 150].foldl keepIsland
          (servoStill (keepIsland (keepIsland (((List.range 144).filter fun t => tilePresent s.part t && t != ctlG && t != ctlH).foldl
            keepIsland ((List.range 4).foldl spurStill (portsDown (portsDown s 0) 1))) ctlG) 145))) ctlH) false)
          fun p => { p with still := true }) 6 0
        if v.power.cause.isSome then beginWake v else v)) ∧
    (awaits s isl 1 = true → 144 ≤ isl → exec (.ivrReady isl) s = .next (signal s isl 1)) ∧
    (awaits s isl 1 = true → isl < 144 → exec (.ivrReady isl) s = .next (signal (s.setReg (R.ISL_VOLT isl)
      (BitVec.ofNat 32 (min 140 (s.field (R.ISL_CTRL isl) 7 0)))) isl 1)) ∧
    (awaits s isl 2 = true → exec (.oscReady isl) s = .next (signal s isl 2)) ∧
    (awaits s isl 3 = true → exec (.memReady isl canary hbmCanary) s = .next (signal (if 144 ≤ isl then s
      else if (s.island isl).st == .off then freshTile s isl else hbmWake (sramWake s isl canary) isl hbmCanary) isl 3)) ∧
    (awaits s isl 4 = true → (signal s isl 4).power.waking.contains isl = false →
      exec (.logicReady isl) s = .next (moveOn (tileUp (signal s isl 4) isl))) ∧
    ((s.island isl).step ≠ 0 → awaits s isl (s.island isl).step = true → (s.island isl).tries = 0 →
      (s.island isl).stepAt + 2 * wakeLimit (s.power.waking.contains isl) ((s.island isl).st == .halt) (s.island isl).step ≤ s.now →
      exec (.wakeStepTimeout isl) s = .next (repeatWake s isl)) ∧
    ((s.island isl).step ≠ 0 → awaits s isl (s.island isl).step = true → (s.island isl).tries ≠ 0 →
      (s.island isl).stepAt + 2 * wakeLimit (s.power.waking.contains isl) ((s.island isl).st == .halt) (s.island isl).step ≤ s.now →
      (isl < 144 → isl ≠ ctlG → isl ≠ ctlH → s.power.waking.contains isl = false →
        exec (.wakeStepTimeout isl) s = .next (islandFailed s isl)) ∧
      (144 ≤ isl ∨ isl = ctlG ∨ isl = ctlH →
        exec (.wakeStepTimeout isl) s = .next (devReset s (BitVec.ofNat 32 (2 * 2 ^ 28 + 2 ^ 16)))))

/-- In the states each event meets: ALARM_SET by the holder of semaphore 25 arms the alarm at a time at least 1 s ahead and answers the old one, and a due alarm disarms and wakes the device from STILL or sets its event bit; an enabled management port, wake frame or wake bus message wakes it from STILL; below 1.71 V NVM writes are paused, the warning counted and recorded, after 100 ms the low flag set, and recovery ends the pause; a supply reset and the thermal trip reset the device; a throttled, cooling or scaled tile changes its clock or its voltage within its limits; converter polls, alerts and trims do what the answers ask; POWER_STATUS answers its payload. -/
def Obligations.PowerSupplyAndWake : Prop :=
  ∀ (m : TcsMsg) (p : Fin 2) (sec ns tile code cycles isl mv entry start stop redo : Nat) (temp : Int) (sy : List (Nat × Nat))
    (ans : Option PmbReading) (ws : List (Nat × Nat)) (s u : State),
    let alarm := (s.reg64 R.WAKE_ALARM_SEC).toNat * 1000000000 + s.field R.WAKE_ALARM_NS 29 0
    (Accepted { opcode := 0x0504 } m 0 s u → holdsSem u m 25 = true →
      (ns < 1000000000 → u.clk.total + 1000000000 * 2 ^ 48 ≤ (sec * 1000000000 + ns) * 2 ^ 48 → Answered (exec (.alarmSet m sec ns 1) s)
        { opcode := 0x0504 } m .ok (alarmPayload u) 0 ((u.setReg64 R.WAKE_ALARM_SEC (BitVec.ofNat 64 sec)).setReg
          R.WAKE_ALARM_NS (BitVec.ofNat 32 (2 ^ 31 + ns)))) ∧
      Answered (exec (.alarmSet m sec ns 0) s) { opcode := 0x0504 } m .ok (alarmPayload u) 0
        (u.setField R.WAKE_ALARM_NS 31 31 0)) ∧
    (s.flag R.WAKE_ALARM_NS 31 = true → alarm ≤ s.devNs →
      let v := s.setField R.WAKE_ALARM_NS 31 31 0
      (inStill v = true → v.flag R.WAKE_EN 0 = true → exec .alarmFire s = .next (wakeSource v 0 0 (causeWord 3 0 0))) ∧
      (inStill v = false → exec .alarmFire s = .next (v.orReg R.PWR_EVT 7))) ∧
    (inStill s = true → s.flag R.WAKE_EN (2 + p.val) = true →
      (s.flag R.WAKE_MGT (31 - p.val) = true → exec (.mgtEnergyWake p) s =
        .next (wakeSource s (2 + p.val) (2 + p.val) (causeWord 5 p.val 0))) ∧
      (s.flag R.WAKE_MGT (29 - p.val) = true → s.flag R.WAKE_MGT 27 = true ∨ code = s.field R.WAKE_MGT 15 0 →
        exec (.mgtWakeFrame p code) s = .next (wakeSource s (2 + p.val) (2 + p.val) (causeWord 6 p.val code)))) ∧
    (busAddress start sy stop = some (s.field R.WAKE_BUS 9 0) → inStill s = true → s.part = .fa960 → s.flag R.WAKE_EN 1 = true →
      exec (.wakeBusMessage start sy stop) s = .next (wakeSource s 1 1 (causeWord 4 0 (s.field R.WAKE_BUS 9 0)))) ∧
    (mv < 1710 → s.nvmPaused = true →
      exec (.supplyWarning mv) s = .next (s.setReg R.PWR_VIN (BitVec.ofNat 32 (mv % 65536)))) ∧
    (mv < 1710 → (s.setReg R.PWR_VIN (BitVec.ofNat 32 (mv % 65536))).nvmPaused = false → exec (.supplyWarning mv) s = .next (
      let v := (((settleAll (s.setReg R.PWR_VIN (BitVec.ofNat 32 (mv % 65536)))).setField R.PWR_STAT 27 27 1).orReg
        R.PWR_EVT 0).count R.PWR_SUPPLY_CNT 1
      powerRecord (v.modPower fun p => { p with stretched := true, droopAt := v.now, warnings := satAdd 32 p.warnings 1 }) 7 mv)) ∧
    (s.nvmPaused = true → s.flag R.PWR_STAT 26 = false → s.power.droopAt + 100000000 ≤ s.now →
      exec .supplyLow s = .next ((s.setField R.PWR_STAT 26 26 1).orReg R.PWR_EVT 1)) ∧
    (s.nvmPaused = true →
      let d := s.now - s.power.droopAt
      let c := (litTiles s).foldl countStretch s
      let v : State := { c with islands := c.islands.map fun x => (x.1, shiftWake c.now c.power.droopAt x.2) }
      let w := ((v.modPower fun p => { p with stretched := false }).setField R.PWR_STAT 27 26 0).setReg R.PWR_SUPPLY_EVT
        (BitVec.ofNat 32 (mv % 65536 * 65536 + min 65535 (d / 1000)))
      let y := w.count R.PWR_NVM_REDO redo
      exec (.supplyRecovery mv redo) s = .next ((drainBuffer y.stor.buffer.length y).raise 0x0050 0 0 (leBytes 2 mv ++
        leBytes 2 (min 65535 redo) ++ leBytes 4 (min (2 ^ 32 - 1) d)))) ∧
    (s.pins.thermTrip = false → exec (.supplyReset true) s = .next (let v := devReset s (BitVec.ofNat 32 (2 ^ 28))
      { v with pins := { v.pins with thermTrip := false } })) ∧
    (islandPresent s isl = true → 960 ≤ temp → exec (.thermtrip isl temp) s = .next
      (let v := devReset s (BitVec.ofNat 32 (2 ^ 28))
       { v with pins := { v.pins with thermTrip := true } })) ∧
    (tilePresent s.part tile = true → (s.island tile).st ≠ .off →
      let v := noteTemp s tile temp
      mget tile v.power.mult = none →
      ((tjThrot v * 8 : Nat) ≤ temp → exec (.throttleStep tile temp) s = .next (throttleDown v tile)) ∧
      (temp < (tjThrot v * 8 : Nat) → exec (.throttleStep tile temp) s = .next v)) ∧
    (tilePresent s.part tile = true → tileRun s tile = true →
      (s.flag (R.ISL_CTRL tile) 31 = true → mgetD 0 s.power.avsAt tile + 1000000 ≤ s.now →
        let cur := s.field (R.ISL_VOLT tile) 7 0
        let near := max (cur - 4) (min (cur + 4) code)
        let v := min 140 (max (s.field (R.ISL_AVS tile) 7 0) (min (s.field (R.ISL_AVS tile) 23 16) near))
        exec (.avsUpdate tile code) s = .next ((s.setReg (R.ISL_VOLT tile) (BitVec.ofNat 32 v)).modPower
          fun p => { p with avsAt := mset tile s.now p.avsAt })) ∧
      exec (.clockStretch tile cycles) s = .next (s.count (R.ISL_STRETCH tile) cycles)) ∧
    (mv < 460 → tilePresent s.part isl = true → (s.island isl).st = .keep →
      exec (.retentionMonitorLatch isl mv) s = .next (s.setField (R.ISL_STAT isl) 28 28 1)) ∧
    (pmbOn s entry = true →
      (pmbAbsent s entry = false → exec (.pmbusPoll entry ans) s = .next (pmbPoll s entry 10000000 ans)) ∧
      (pmbAbsent s entry = true → exec (.pmbusAbsentPoll entry ans) s = .next (pmbPoll s entry 1000000000 ans))) ∧
    exec (.pmbusAlert ws) s =
      .next (ws.foldl (fun s x => if pmbOn s x.1 && !pmbAbsent s x.1 then pmbStatus s x.1 x.2 else s) s) ∧
    (s.nvmPaused = false → inStill s = false → s.power.trimAt + 10000000 ≤ s.now →
      let v := (s.setReg R.PWR_VIN (BitVec.ofNat 32 (mv % 65536))).modPower fun p => { p with trimAt := s.now }
      ((1800 - (mv : Int)).natAbs ≤ 10 → exec (.pmbusTrim mv) s = .next v) ∧
      (10 < (1800 - (mv : Int)).natAbs → exec (.pmbusTrim mv) s =
        .next ((trimEntries v).foldl (trimEntry (clampInt (-5) 5 (1800 - (mv : Int)))) v))) ∧
    (Accepted { opcode := 0x0502, onchip := true } m 0 s u →
      Answered (exec (.powerStatus m) s) { opcode := 0x0502, onchip := true } m .ok (powerStatusBytes u) 0 u)

/-- In the states each event meets: a reset pulse of 10 µs resets the device with a power-on cause and a shorter one than 1 µs does nothing; power-on reset of a device that has not booted runs the ROM; a stack that trains in its turn is brought up and boot goes on, and its first failure is noted; the PARISON time condition lets boot go on; IMAGE_STAGE by the holder of semaphore 26 stores its chunk and answers; JOURNAL_READ and TELEMETRY_READ in range answer the records and frames asked for and change nothing; the static levelling, patrol, telemetry, trim and soft-fuse duties of the Lehr, when due, do their work and note it. -/
def Obligations.BootAndStorage : Prop :=
  ∀ (m : TcsMsg) (b : BootInfo) (us q slot flags off total block stage corr n stride ch start : Nat) (step : Int)
    (data : List Byte) (g : GafferImage) (pOk eOk auth : Bool) (recs : List Nat) (counts items : List (Nat × Nat × Word)) (s u : State),
    (10 ≤ us → exec (.porstN us) s = .next (devReset s (BitVec.ofNat 32 (2 ^ 28)))) ∧
    (us < 1 → exec (.porstN us) s = .next s) ∧
    (s.pins.thermTrip = false → s.boot.stage = 0 → s.boot.recovery = false → exec (.powerOnReset b) s = .next (bootRom b s)) ∧
    (s.boot.phase = 1 → (hbmStacks s).contains q = true → s.boot.hbmUp.contains q = false → mgetD 0 s.boot.hbmTries q ≤ 1 →
      let v := lightIsland (lightTile (lightTile s (memTiles q).1) (memTiles q).2) (146 + q)
      exec (.hbmTraining q true) s = .next (progress (stackUp v q)) ∧
      (mgetD 0 s.boot.hbmTries q = 0 → exec (.hbmTraining q false) s = .next (v.modBoot fun b =>
        { b with hbmTries := mset q (mgetD 0 v.boot.hbmTries q + 1) b.hbmTries,
                 hbmFailed := b.hbmFailed || decide (1 < mgetD 0 v.boot.hbmTries q + 1) }))) ∧
    (s.boot.stage = 7 → 300000000000 ≤ s.now →
      exec .parisonTimeCondition s = .next (progress (s.modBoot fun b => { b with timeOk := true }))) ∧
    (Accepted { opcode := 0x0602 } m 0 s u → s.boot.recovery = false → u.boot.recovery = false → holdsSem u m 26 = true →
      let r := stageReply slot flags off total data g pOk eOk u
      Answered (exec (.imageStage m slot flags off total data g pOk eOk) s) { opcode := 0x0602 } m r.st r.payload r.crit r.state) ∧
    (Accepted { opcode := 0x0601, onchip := true } m 0 s u → 1 ≤ n → n ≤ 64 →
      Answered (exec (.journalRead m start n) s) { opcode := 0x0601, onchip := true } m .ok (journalPayload u start n) 0 u) ∧
    (Accepted { opcode := 0x0801, onchip := true } m 0 s u → 1 ≤ n → n ≤ 64 → 1 ≤ stride → stride ≤ 1000 →
      Answered (exec (.telemetryRead m start n stride) s) { opcode := 0x0801, onchip := true } m .ok
        (leBytes 4 (u.reg R.LEHR_TEL_SAMPLE).toNat
          ++ leBytes 4 ((u.stor.telFrames.head?.map TelFrame.sample).getD (u.reg R.LEHR_TEL_SAMPLE).toNat)
          ++ (fitting 8184 (((u.stor.telFrames.filter fun f =>
            decide (start ≤ f.sample) && (f.sample - start) % stride == 0).take n).map TelFrame.bytes)).flatten) 0 u) ∧
    (lehrRuns s = true → s.nvmPaused = false → mgetD 0 s.stor.dutyAt 11 + 3600000000000 ≤ s.now → s.stor.blocks = [] →
      exec (.staticLevelling eOk) s = .next (dutyDone 11 s)) ∧
    (∀ x y k z, lehrRuns s = true → s.nvmPaused = false → mgetD 0 s.stor.dutyAt 11 + 3600000000000 ≤ s.now →
      leastBy (fun x => (x.2.erases, x.1, 0)) (s.stor.blocks.filter fun x => x.2.use != .retired) = some (block, x) →
      leastBy (fun x => (2 ^ 40 - x.2.erases, x.1, 0)) ((blocksOf (dutyDone 11 s) .free).filter
        fun x => !targetRo (dutyDone 11 s) x.2.target) = some (k, y) →
      ((s.stor.blocks.filter fun x => x.2.use != .retired).map fun x => x.2.erases).foldl max 0 = z →
      x.erases + 500 < z → holdsData x = true →
      exec (.staticLevelling eOk) s = .next (relocate (dutyDone 11 s) block k eOk)) ∧
    (∀ x, mget block s.stor.blocks = some x → lehrRuns s = true → holdsData x = true →
      x.patrolAt + 7 * 86400 * 1000000000 ≤ s.now → exec (.nandPatrol block stage corr auth eOk recs) s =
        .next (dutyDone 10 (patrolResult (countRead stage auth s) block stage corr auth eOk recs))) ∧
    (lehrRuns s = true → mgetD 0 s.stor.dutyAt 1 + 1000000 ≤ s.now →
      let on (g : Nat) : Bool := decide (g < 8) && s.flag R.LEHR_TEL_GROUPS g
      let copies := if on 2 then s.stor.clogCopies.take 300 else []
      let its := (copies.flatMap copyItems ++ ((counts ++ items).filter fun x => on (x.1 / 256)).map itemBytes).take 1000
      let k := (s.reg R.LEHR_TEL_SAMPLE).toNat + 1
      let f := leBytes 8 s.devNs ++ leBytes 4 k ++ leBytes 2 its.length ++ leBytes 2 (b2n (frameLate s)) ++ leBytes 16 0 ++
        its.flatten
      let v := telPut (s.setReg R.LEHR_TEL_SAMPLE (BitVec.ofNat 32 k)) f
      exec (.telemetryFrame counts items) s = .next (dutyDone 1 (v.modStor fun y => { y with
        telBytes := s.stor.telBytes + f.length,
        telFrames := keepFrames (telRingBytes v) (s.stor.telBytes + f.length)
          (y.telFrames ++ [{ sample := k, addr := s.stor.telBytes, bytes := f }]),
        clogCopies := if on 2 then y.clogCopies.drop 300 else [] }))) ∧
    (lehrRuns s = true → ch < 8 → mgetD 0 s.stor.dutyAt (100 + ch) + 60000000000 ≤ s.now →
      exec (.auxdacOffsetTrim ch step) s = .next (dutyDone (100 + ch) (dutyDone 5 { s with pins := { s.pins with
        trimNext := mset ch (mgetD 0 s.pins.trim ch + clampInt (-1) 1 step) s.pins.trimNext } }))) ∧
    (lehrRuns s = true → s.nvmPaused = false → mgetD 0 s.stor.dutyAt 7 + 86400 * 1000000000 ≤ s.now →
      exec .softFuseUpkeep s = .next (
        let v := fuseUpdate [] s
        let w := (v.mem.softFuses.filter fun e => !fuseGood e).foldl fuseFailed v
        dutyDone 7 { w with mem := { w.mem with softFuses := w.mem.softFuses.filter fuseGood } }))

/-- For every accepted request that meets its checks: IMAGE_LOAD of a valid, authentic image places it, extends MEAS5 with its hash and answers its handle; TASK_START pushes its start task and is answered OK; TASK_STOP terminates the cores that run the image and answers their number; IMAGE_STATUS and ATTEST_QUOTE answer and change nothing; enrolment of an EMPTY slot by the holder of semaphore 27 makes it ENROLLED and a revoke makes it REVOKED for good; DEBUG_LOCK changes the level, or is refused when sealed; the debug port at level 0 halts a running core or breaks into it. -/
def Obligations.TrustCommands : Prop :=
  ∀ (m : TcsMsg) (slot kind id imgid qid mask level tile core : Nat) (img : DspImage) (pk nonce : List Byte) (x : Loaded)
    (s u : State),
    (Accepted { opcode := 0x0B01 } m 0 s u → holdsSem u m 29 = true → u.parison = false → slot < 64 → (u.slot slot).st = 2 →
      (img.cores.any fun c => coreBusy u (c / 4) (c % 4)) = false → imageAuth u img = true → imageShape u slot img = true →
      imageAwake u img = true → imageHandle u img = some id →
      Answered (exec (.imageLoad m slot img false) s) { opcode := 0x0B01 } m .ok
        (leBytes 2 id ++ leBytes 2 (claimed img).length ++ fitBytes 32 img.hash) 0
        (extendMeas 5 (fitBytes 32 img.hash) (placeImage u id slot img))) ∧
    (holdsSem u m 29 = true → mget imgid u.boot.images = some x → u.parison = false →
      (∀ v, Accepted { opcode := 0x0B02 } m 0 s u → startQueueOk u qid x = true →
        pushQ .gaffer qid x.startTask u = (.accepted, v) →
        Answered (exec (.taskStart m imgid qid) s) { opcode := 0x0B02 } m .ok [] 0 v) ∧
      (Accepted { opcode := 0x0B03 } m 0 s u → Answered (exec (.taskStop m imgid) s) { opcode := 0x0B03 } m .ok
        (leBytes 2 (runningCores u x).length ++ leBytes 2 0) 0
        ((runningCores u x).foldl stopCore u))) ∧
    (Accepted { opcode := 0x0B04, onchip := true } m 0 s u → Answered (exec (.imageStatus m) s) { opcode := 0x0B04, onchip := true } m .ok
      (leBytes 2 u.boot.images.length ++ leBytes 2 0 ++ u.boot.images.flatMap imageEntry) 0 u) ∧
    (Accepted { opcode := 0x0701, onchip := true } m 0 s u →
      Answered (exec (.attestQuote m nonce mask) s) { opcode := 0x0701, onchip := true } m .ok
        (quoteBytes u nonce mask ++ fitBytes 2420 (Config.sign (Config.sha3 (quoteBytes u nonce mask)))) 0 u) ∧
    (holdsSem u m 27 = true → slot ≤ 7 →
      (kind = 1 ∨ kind = 2 → Accepted { opcode := 0x0702 } m 0 s u →
        (keyState u kind slot = .empty → Answered (exec (.keyEnrolEnrol m kind slot pk) s) { opcode := 0x0702 } m .ok [] 0
          (setKey u kind slot 1 { st := .enrolled, pubkey := fitBytes 1312 pk } (keyBody kind slot 1 pk))) ∧
        Answered (exec (.keyEnrolRevoke m kind slot) s) { opcode := 0x0702 } m .ok [] 0 (revoke kind slot u)) ∧
      (Accepted { opcode := 0x0703 } m 0 s u →
        (keyState u 0 slot = .empty → Answered (exec (.hostkeyEnrolEnrol m 0 slot pk) s) { opcode := 0x0703 } m .ok [] 0
          (setKey u 0 slot 1 { st := .enrolled, pubkey := fitBytes 1312 pk } (keyBody 0 slot 1 pk))) ∧
        (revokeKept m slot u = false → Answered (exec (.hostkeyEnrolRevoke m 0 slot) s) { opcode := 0x0703 } m .ok [] 0
          (endKeySessions slot (revoke 0 slot u))))) ∧
    (Accepted { opcode := 0x0704 } m 0 s u → holdsSem u m 27 = true → level ≤ 2 → (u.boot.sealed = true → level = 2) →
      Answered (exec (.debugLock m level) s) { opcode := 0x0704 } m .ok [] 0 (changeLevel level u)) ∧
    (s.boot.debugNow = 0 → corePresent s tile core = true → tileRun s tile = true → coreBusy s tile core = true →
      exec (.debugBreak tile core true) s = .next (s.setCore tile core { s.core tile core with st := .debugHalt }) ∧
      let y := s.core tile core
      let left := (y.rep.map fun r => r.left).getD 0
      exec (.debugBreak tile core false) s = .next (takeExc s tile core { cause := .break_ } true
        (if y.ext.isSome then y.extAt else y.pc) (b2n (left != 0) * 2 ^ 30) left))

/-- For every state and command: step on a state whose queue has the command in front answers what exec answers for that command on the state with the rest of the queue. On an empty queue step answers the next state in which 2 ns have passed: the clock counts them at its rate, then the packets on the tile network move, and each running fabric clocks its user logic; with no packet on its way and no fabric running it is the clock alone. That a tick stands for idling is the model's choice (log entry 2). -/
def Obligations.StepTakesFront : Prop :=
  (∀ (s : State) (c : Instr) (rest : List Instr),
    Machine.step { s with pending := c :: rest } = exec c { s with pending := rest }) ∧
  (∀ s : State, s.pending = [] →
    Machine.step s = .next ([0, 1, 2, 3].foldl (fabTick s) (nocTick s (tickClock s)))) ∧
  ∀ s : State, s.pending = [] → s.noc.flight = [] → (∀ f, f < 4 → fabUser (tickClock s) f = none) →
    Machine.step s = .next (tickClock s)

/-- Right after reset every byte of memory reads 0 and no code word is bad; no session is live, no semaphore is held, no event is kept and the next EVSEQ is 1; the next JSEQ is 1; the servo is in FREERUN with no step made and the counter at 0; every core is IDLE with the control and status registers of R278 at their reset values; every queue and flow is disabled, and each dispatcher's control, crumb range and crumb size registers read their reset values; no command waits; and the invariant that every step keeps holds. -/
def Obligations.ResetState : Prop :=
  let s := State.reset
  (∀ a, s.byte a = 0#8) ∧ s.mem.marks = [] ∧ s.pending = [] ∧ Inv s ∧
  (∀ p, s.isLive p = false) ∧ (∀ n, mget n s.tcs.sems = none) ∧ s.tcs.events = [] ∧ s.tcs.evseq = 1 ∧ s.stor.jNext = 1 ∧
  servoState s = 0 ∧ stepDone s = false ∧ s.clk = { sec := 0, ns := 0, frac := 0 } ∧
  (∀ t c, let x := s.core t c
    x.st = .idle ∧ x.exl = false ∧ x.sup = false ∧ x.rep = none ∧ x.runahead = false ∧ x.flags = 0#32 ∧ x.ctrl = 3#32 ∧
    x.estat = 0#32 ∧ x.epc = 0#64 ∧ x.eaddr = 0#64 ∧ x.evec = 0#64 ∧ x.ecause = 0#32 ∧ x.einfo = 0#32 ∧ x.ipend = 0#32 ∧
    x.imask = 0x3F#32 ∧ x.erep = 0#32 ∧ x.term = 0#32 ∧ x.taskQ = 0#32 ∧ x.taskId = 0#32 ∧ x.taskClass = 0#32 ∧
    x.taskS = 0x100#32 ∧ x.taskDl = 0#64 ∧ x.taskEntry = 0#64 ∧ x.taskArg = 0#64 ∧ x.retired = 0#64 ∧ x.timer = 0#64 ∧
    x.bankStall = 0#32 ∧ x.mispred = 0#32 ∧ x.runaheads = 0#32 ∧ x.mpuCtrl = 0#32) ∧
  (∀ q, (s.queue q).en = false ∧ (s.queue q).entries = []) ∧ (∀ q f, (s.flow q f).ordered = false ∧ (s.flow q f).periodic = false) ∧
  ∀ q, q < 4 → s.reg (R.DSQ_CTRL q) = 0x100#32 ∧ s.reg (R.DSQ_CRUMB_QRANGE q) = 0xFFFF0000#32 ∧
    s.reg (R.DSQ_CRUMB_SIZE q) = 0x10#32

/-- For every state, whether a run reaches it or not: if memory is in its canonical form, the kept events are at most 4,096 with consecutive EVSEQ up to the one before the next, a SEALED device is at debug level 2 and there are sixteen measurement registers, and a step answers a next state, then all of this holds of that state. The canonical form of memory is the model's own. -/
def Obligations.EveryStepKeepsTheInvariant : Prop :=
  ∀ s t : State, Inv s → Machine.step s = .next t → Inv t

/-- For every command and every state: exec answers a next state. In it the configuration and the queue are as they were; a blown debug fuse stays blown; a key slot that was not EMPTY holds the same key and is not EMPTY, and a REVOKED one is still REVOKED; neither the minimum security version nor the next JSEQ has fallen; and everything sent, and everything put out at ports and pins, still stands in its place. -/
def Obligations.EveryCommandCompletesAndUndoesNothing : Prop :=
  ∀ (c : Instr) (s : State), ∃ t, exec c s = .next t ∧ NothingUndone s t

/-- For every instruction of a core that neither loads nor stores, and every state: in the next state every byte of memory reads as before, every other core is as before, and so are the time, the corridor model, peers, sessions and mailboxes, messages sent, bring-up, storage, runs, islands, DMA channels, egress, time engine, lanes, front-haul, spur ports, fabrics, power and pins; what stands outside this frame besides the core are register words (error counts), error marks and logs, tasks reported ended and, for HELPER, the job it adds. A load leaves the same, but for the registers of cores; so does a branch that reads early, down the path it had guessed. -/
def Obligations.CoreInstructionFrame : Prop :=
  (∀ (c : Instr) (k : Issue) (s t : State), inCore c = some k → exec c s = .next t →
    Elsewhere s t ∧ (k.shadow = [] ∨ ((∀ b d, c ≠ .bCond k b d) ∧ ∀ g d, c ≠ .dbnz k g d) →
      OtherCores (coreKey k.tile k.core) s t)) ∧
  ∀ (c : Instr) (k : Issue) (s t : State), loadOf c = some k → exec c s = .next t → Elsewhere s t

/-- For every core that issues ST, STA or VST, with the address ea computed from the fetched core by the store's address form: in the next state every byte outside the n bytes at ea reads as before; where there is no such address, or it is not in the tile's own SRAM, every byte does. A store into own SRAM that passes its checks leaves, in canonical memory, the register's low bytes at ea, little-endian. VSCATTER with all its elements in own SRAM changes bytes of its elements alone. The acknowledgement of a posted store to memory changes the store's bytes alone. -/
def Obligations.StoreFrame : Prop :=
  (∀ (k : Issue) (gs va : Fin 32) (fl : AFile) (i an : Fin 8) (a : MAddr) (size : Fin 3) (ty : VTy) (scale : Fin 4) (s u t : State),
    Issues k s u →
    let x := u.core k.tile k.core
    let frame (n v : Nat) (vec : Bool) (c : Instr) : Prop := exec c s = .next t →
      (∀ ea up, mAddr x a n = some (ea, up) → ∀ b, b < ea ∨ ea + n ≤ b → t.byte b = s.byte b) ∧
      ((∀ ea up, mAddr x a n = some (ea, up) → ownSram u k.tile ea = false) → ∀ b, t.byte b = s.byte b) ∧
      ∀ ea up ty, mAddr x a n = some (ea, up) → accessCheck x .write vec ea n = .ok ty → ownSram u k.tile ea = true →
        ownStoreErr u k.tile k.core ea = none → Memory.wf s.mem.cells = true → t.bytes ea n = leBytes n v
    frame (2 ^ size.val) (x.gr gs).toNat false (.st k gs a size) ∧
    frame 8 (match fl with | .a => x.ar i | .b => x.br i | .lr => x.lr).toNat false (.sta k fl i a) ∧
    frame 64 (x.vr gs).toNat true (.vst k gs a) ∧
    (exec (.vscatter k gs an va ty scale) s = .next t →
      let l := scatterStores (vecAddrs x an va scale) (lanes 32 (x.vr gs))
      (∀ p ∈ l, ownSram u k.tile p.addr = true) →
      ∀ b, (∀ p ∈ l, b < p.addr ∨ p.addr + p.bytes.length ≤ b) → t.byte b = s.byte b)) ∧
  ∀ (tile core n : Nat) (s t : State), exec (.postedStoreAck tile core n) s = .next t →
    ∀ b, (∀ p, (s.core tile core).stores[n]? = some p →
      (∀ r off, placeOf s.part p.addr ≠ .regs r off) ∧ (b < p.addr ∨ p.addr + p.bytes.length ≤ b)) → t.byte b = s.byte b
end

