-- ==== Sys2Proof/Laws/Core.lean ====
section
/-! SUPPORT. What the shared operations of the DSP cores do: issuing, retiring, writing a register. -/

namespace Sys2Proof.Machine

/-! ### Counting bank stalls leaves the rest of a core alone -/

@[simp] theorem Core.stalled_g (x : Core) {n} : (x.stalled n).g = x.g := rfl
@[simp] theorem Core.stalled_a (x : Core) {n} : (x.stalled n).a = x.a := rfl
@[simp] theorem Core.stalled_m (x : Core) {n} : (x.stalled n).m = x.m := rfl
@[simp] theorem Core.stalled_b (x : Core) {n} : (x.stalled n).b = x.b := rfl
@[simp] theorem Core.stalled_n (x : Core) {n} : (x.stalled n).n = x.n := rfl
@[simp] theorem Core.stalled_acc (x : Core) {n} : (x.stalled n).acc = x.acc := rfl
@[simp] theorem Core.stalled_v (x : Core) {n} : (x.stalled n).v = x.v := rfl
@[simp] theorem Core.stalled_lr (x : Core) {n} : (x.stalled n).lr = x.lr := rfl
@[simp] theorem Core.stalled_pc (x : Core) {n} : (x.stalled n).pc = x.pc := rfl
@[simp] theorem Core.stalled_flags (x : Core) {n} : (x.stalled n).flags = x.flags := rfl
@[simp] theorem Core.stalled_st (x : Core) {n} : (x.stalled n).st = x.st := rfl
@[simp] theorem Core.stalled_exl (x : Core) {n} : (x.stalled n).exl = x.exl := rfl
@[simp] theorem Core.stalled_sup (x : Core) {n} : (x.stalled n).sup = x.sup := rfl
@[simp] theorem Core.stalled_runahead (x : Core) {n} : (x.stalled n).runahead = x.runahead := rfl
@[simp] theorem Core.stalled_asyncLost (x : Core) {n} : (x.stalled n).asyncLost = x.asyncLost := rfl
@[simp] theorem Core.stalled_ctrl (x : Core) {n} : (x.stalled n).ctrl = x.ctrl := rfl
@[simp] theorem Core.stalled_estat (x : Core) {n} : (x.stalled n).estat = x.estat := rfl
@[simp] theorem Core.stalled_epc (x : Core) {n} : (x.stalled n).epc = x.epc := rfl
@[simp] theorem Core.stalled_eaddr (x : Core) {n} : (x.stalled n).eaddr = x.eaddr := rfl
@[simp] theorem Core.stalled_evec (x : Core) {n} : (x.stalled n).evec = x.evec := rfl
@[simp] theorem Core.stalled_ecause (x : Core) {n} : (x.stalled n).ecause = x.ecause := rfl
@[simp] theorem Core.stalled_einfo (x : Core) {n} : (x.stalled n).einfo = x.einfo := rfl
@[simp] theorem Core.stalled_ipend (x : Core) {n} : (x.stalled n).ipend = x.ipend := rfl
@[simp] theorem Core.stalled_imask (x : Core) {n} : (x.stalled n).imask = x.imask := rfl
@[simp] theorem Core.stalled_erep (x : Core) {n} : (x.stalled n).erep = x.erep := rfl
@[simp] theorem Core.stalled_term (x : Core) {n} : (x.stalled n).term = x.term := rfl
@[simp] theorem Core.stalled_taskQ (x : Core) {n} : (x.stalled n).taskQ = x.taskQ := rfl
@[simp] theorem Core.stalled_taskId (x : Core) {n} : (x.stalled n).taskId = x.taskId := rfl
@[simp] theorem Core.stalled_taskClass (x : Core) {n} : (x.stalled n).taskClass = x.taskClass := rfl
@[simp] theorem Core.stalled_taskS (x : Core) {n} : (x.stalled n).taskS = x.taskS := rfl
@[simp] theorem Core.stalled_taskDl (x : Core) {n} : (x.stalled n).taskDl = x.taskDl := rfl
@[simp] theorem Core.stalled_taskEntry (x : Core) {n} : (x.stalled n).taskEntry = x.taskEntry := rfl
@[simp] theorem Core.stalled_taskArg (x : Core) {n} : (x.stalled n).taskArg = x.taskArg := rfl
@[simp] theorem Core.stalled_retired (x : Core) {n} : (x.stalled n).retired = x.retired := rfl
@[simp] theorem Core.stalled_timer (x : Core) {n} : (x.stalled n).timer = x.timer := rfl
@[simp] theorem Core.stalled_mispred (x : Core) {n} : (x.stalled n).mispred = x.mispred := rfl
@[simp] theorem Core.stalled_runaheads (x : Core) {n} : (x.stalled n).runaheads = x.runaheads := rfl
@[simp] theorem Core.stalled_mpu (x : Core) {n} : (x.stalled n).mpu = x.mpu := rfl
@[simp] theorem Core.stalled_mpuCtrl (x : Core) {n} : (x.stalled n).mpuCtrl = x.mpuCtrl := rfl
@[simp] theorem Core.stalled_ext (x : Core) {n} : (x.stalled n).ext = x.ext := rfl
@[simp] theorem Core.stalled_extAt (x : Core) {n} : (x.stalled n).extAt = x.extAt := rfl
@[simp] theorem Core.stalled_rep (x : Core) {n} : (x.stalled n).rep = x.rep := rfl
@[simp] theorem Core.stalled_load (x : Core) {n} : (x.stalled n).load = x.load := rfl
@[simp] theorem Core.stalled_stores (x : Core) {n} : (x.stalled n).stores = x.stores := rfl
@[simp] theorem Core.stalled_asyncErr (x : Core) {n} : (x.stalled n).asyncErr = x.asyncErr := rfl
@[simp] theorem Core.stalled_late (x : Core) {n} : (x.stalled n).late = x.late := rfl
@[simp] theorem Core.stalled_cq (x : Core) {n} : (x.stalled n).cq = x.cq := rfl
@[simp] theorem Core.stalled_dcache (x : Core) {n} : (x.stalled n).dcache = x.dcache := rfl
@[simp] theorem Core.stalled_icache (x : Core) {n} : (x.stalled n).icache = x.icache := rfl
@[simp] theorem Core.stalled_stamp (x : Core) {n} : (x.stalled n).stamp = x.stamp := rfl
@[simp] theorem Core.stalled_btb (x : Core) {n} : (x.stalled n).btb = x.btb := rfl
@[simp] theorem Core.stalled_tendWait (x : Core) {n} : (x.stalled n).tendWait = x.tendWait := rfl
@[simp] theorem Core.stalled_terminating (x : Core) {n} : (x.stalled n).terminating = x.terminating := rfl
@[simp] theorem Core.stalled_waitAt (x : Core) {n} : (x.stalled n).waitAt = x.waitAt := rfl

/-- An instruction that issues with no prefix before it performs its action on the fetched state. -/
theorem issue_eq {k : Issue} {fmt : Fmt} {p : Bool} {act : State → Core → State} {ill : Core → Bool}
    {s u : State} (h : Issues k s u) (hb : fmt.repBody = true) : issue k fmt p act s ill = act u (u.core k.tile k.core) := by
  obtain ⟨h1, h2, h3⟩ := h
  unfold issue
  simp only [h1, h2, h3, hb, Bool.not_true, Bool.and_false, Bool.false_eq_true, if_false]
  split <;> simp_all

/-- An instruction that issues alone performs its action on the fetched state. -/
theorem issue_alone {k : Issue} {fmt : Fmt} {p : Bool} {act : State → Core → State} {ill : Core → Bool} {s u : State}
    (h : IssuesAlone k s u) : issue k fmt p act s ill = act u (u.core k.tile k.core) := by
  obtain ⟨⟨h1, h2, h3⟩, h4⟩ := h
  unfold issue
  simp [h1, h2, h3, h4]

/-- So when it can issue in slot 0 only. -/
theorem issue_slot0 {k : Issue} {fmt : Fmt} {p : Bool} {act : State → Core → State} {ill : Core → Bool} {s u : State}
    (h : IssuesAlone k s u) : issue (alone k) fmt p act s ill = act u (u.core k.tile k.core) :=
  issue_alone (k := alone k) h

/-- An instruction that takes a prefix performs its action on the fetched state behind one. -/
theorem issue_long {k : Issue} {fmt : Fmt} {act : State → Core → State} {ill : Core → Bool} {e : BitVec 26} {s u : State}
    (h : IssuesLong k e s u) : issue k fmt true act s ill = act u (u.core k.tile k.core) := by
  obtain ⟨h1, h2, h3, h4⟩ := h
  unfold issue
  simp [h1, h2, h3, h4]

/-- A plain instruction retires with its core changed. -/
theorem plain_ran {k : Issue} {fmt : Fmt} {p : Bool} {f : Core → Core} {s u : State} (h : Issues k s u)
    (hb : fmt.repBody = true) : Ran k u (plain k fmt p f s) f := by
  unfold plain Ran ok
  rw [issue_eq h hb]
  rfl

/-- A plain instruction of any format that issues alone. -/
theorem plain_alone {k : Issue} {fmt : Fmt} {p : Bool} {f : Core → Core} {s u : State} (h : IssuesAlone k s u) :
    Ran k u (plain k fmt p f s) f := by
  unfold plain Ran ok
  rw [issue_alone h]
  rfl

/-- A plain instruction behind a long prefix. -/
theorem plain_long {k : Issue} {fmt : Fmt} {f : Core → Core} {e : BitVec 26} {s u : State} (h : IssuesLong k e s u) :
    Ran k u (plain k fmt true f s) f := by
  unfold plain Ran ok
  rw [issue_long h]
  rfl

/-- The action of `Ran` matters only on the fetched core. -/
theorem Ran.congr {k : Issue} {u : State} {o : Host.Outcome State Fault Refusal} {f g : Core → Core} (h : Ran k u o f)
    (e : f (u.core k.tile k.core) = g (u.core k.tile k.core)) : Ran k u o g := by
  unfold Ran at *
  rw [h, e]

end Sys2Proof.Machine
end

