-- ==== Sys2Proof/Laws/State.lean ====
section
/-! SUPPORT. What each named update of the state leaves alone, field by field, and what it writes reads back. -/

namespace Sys2Proof.Machine

/-! ### Maps -/

theorem mget_mset_self {α : Type} (k : Nat) (v : α) (m : FMap α) : mget k (mset k v m) = some v := by
  induction m with
  | nil => simp [mset, mget]
  | cons x m ih =>
    obtain ⟨j, w⟩ := x
    unfold mset
    split
    · simp [mget]
    · split
      · simp [mget]
      · next h1 h2 => simp [mget, Ne.symm h2, ih]

theorem mget_mset_ne {α : Type} {k l : Nat} (h : l ≠ k) (v : α) (m : FMap α) : mget l (mset k v m) = mget l m := by
  induction m with
  | nil => simp [mset, mget, Ne.symm h]
  | cons x m ih =>
    obtain ⟨j, w⟩ := x
    unfold mset
    split
    · simp [mget, Ne.symm h]
    · split
      · next h2 => subst h2; simp [mget, Ne.symm h]
      · simp [mget, ih]

/-! ### Registers, cores, queues, runs read back -/

@[simp] theorem State.reg_setReg (s : State) (a : Nat) (w : Word) : (s.setReg a w).reg a = w := by
  simp [State.reg, State.setReg, mget_mset_self]

theorem State.reg_setReg_ne (s : State) {a b : Nat} (h : b ≠ a) (w : Word) : (s.setReg a w).reg b = s.reg b := by
  simp [State.reg, State.setReg, mget_mset_ne h]

@[simp] theorem State.core_setCore (s : State) (t c : Nat) (x : Core) : (s.setCore t c x).core t c = x := by
  simp [State.core, State.setCore, mgetD, mget_mset_self]

theorem State.core_setCore_ne (s : State) {t c a b : Nat} (h : coreKey a b ≠ coreKey t c) (x : Core) :
    (s.setCore t c x).core a b = s.core a b := by
  simp [State.core, State.setCore, mgetD, mget_mset_ne h]

@[simp] theorem State.setCore_setCore_core (s : State) (t c : Nat) (x y : Core) :
    ((s.setCore t c x).setCore t c y).core t c = y := State.core_setCore ..

@[simp] theorem State.takeFresh_fst (s : State) : s.takeFresh.1 = s.fresh := rfl

/-! ### Fields an update leaves alone -/

@[simp] theorem State.setReg_part (s : State) {a w} : (s.setReg a w).part = s.part := rfl
@[simp] theorem State.setReg_now (s : State) {a w} : (s.setReg a w).now = s.now := rfl
@[simp] theorem State.setReg_mem (s : State) {a w} : (s.setReg a w).mem = s.mem := rfl
@[simp] theorem State.setReg_noc (s : State) {a w} : (s.setReg a w).noc = s.noc := rfl
@[simp] theorem State.setReg_cor (s : State) {a w} : (s.setReg a w).cor = s.cor := rfl
@[simp] theorem State.setReg_peers (s : State) {a w} : (s.setReg a w).peers = s.peers := rfl
@[simp] theorem State.setReg_tcs (s : State) {a w} : (s.setReg a w).tcs = s.tcs := rfl
@[simp] theorem State.setReg_out (s : State) {a w} : (s.setReg a w).out = s.out := rfl
@[simp] theorem State.setReg_clk (s : State) {a w} : (s.setReg a w).clk = s.clk := rfl
@[simp] theorem State.setReg_boot (s : State) {a w} : (s.setReg a w).boot = s.boot := rfl
@[simp] theorem State.setReg_stor (s : State) {a w} : (s.setReg a w).stor = s.stor := rfl
@[simp] theorem State.setReg_lines (s : State) {a w} : (s.setReg a w).lines = s.lines := rfl
@[simp] theorem State.setReg_runs (s : State) {a w} : (s.setReg a w).runs = s.runs := rfl
@[simp] theorem State.setReg_ruTrims (s : State) {a w} : (s.setReg a w).ruTrims = s.ruTrims := rfl
@[simp] theorem State.setReg_corStored (s : State) {a w} : (s.setReg a w).corStored = s.corStored := rfl
@[simp] theorem State.setReg_islands (s : State) {a w} : (s.setReg a w).islands = s.islands := rfl
@[simp] theorem State.setReg_dsq (s : State) {a w} : (s.setReg a w).dsq = s.dsq := rfl
@[simp] theorem State.setReg_cores (s : State) {a w} : (s.setReg a w).cores = s.cores := rfl
@[simp] theorem State.setReg_acc (s : State) {a w} : (s.setReg a w).acc = s.acc := rfl
@[simp] theorem State.setReg_dma (s : State) {a w} : (s.setReg a w).dma = s.dma := rfl
@[simp] theorem State.setReg_eg (s : State) {a w} : (s.setReg a w).eg = s.eg := rfl
@[simp] theorem State.setReg_time (s : State) {a w} : (s.setReg a w).time = s.time := rfl
@[simp] theorem State.setReg_lanes (s : State) {a w} : (s.setReg a w).lanes = s.lanes := rfl
@[simp] theorem State.setReg_fh (s : State) {a w} : (s.setReg a w).fh = s.fh := rfl
@[simp] theorem State.setReg_spur (s : State) {a w} : (s.setReg a w).spur = s.spur := rfl
@[simp] theorem State.setReg_fab (s : State) {a w} : (s.setReg a w).fab = s.fab := rfl
@[simp] theorem State.setReg_power (s : State) {a w} : (s.setReg a w).power = s.power := rfl
@[simp] theorem State.setReg_pins (s : State) {a w} : (s.setReg a w).pins = s.pins := rfl
@[simp] theorem State.setReg_fresh (s : State) {a w} : (s.setReg a w).fresh = s.fresh := rfl
@[simp] theorem State.setReg_pending (s : State) {a w} : (s.setReg a w).pending = s.pending := rfl

@[simp] theorem State.answer_part (s : State) {r} : (s.answer r).part = s.part := rfl
@[simp] theorem State.answer_now (s : State) {r} : (s.answer r).now = s.now := rfl
@[simp] theorem State.answer_mem (s : State) {r} : (s.answer r).mem = s.mem := rfl
@[simp] theorem State.answer_noc (s : State) {r} : (s.answer r).noc = s.noc := rfl
@[simp] theorem State.answer_cor (s : State) {r} : (s.answer r).cor = s.cor := rfl
@[simp] theorem State.answer_peers (s : State) {r} : (s.answer r).peers = s.peers := rfl
@[simp] theorem State.answer_tcs (s : State) {r} : (s.answer r).tcs = s.tcs := rfl
@[simp] theorem State.answer_out (s : State) {r} : (s.answer r).out = s.out := rfl
@[simp] theorem State.answer_clk (s : State) {r} : (s.answer r).clk = s.clk := rfl
@[simp] theorem State.answer_boot (s : State) {r} : (s.answer r).boot = s.boot := rfl
@[simp] theorem State.answer_stor (s : State) {r} : (s.answer r).stor = s.stor := rfl
@[simp] theorem State.answer_lines (s : State) {r} : (s.answer r).lines = s.lines := rfl
@[simp] theorem State.answer_runs (s : State) {r} : (s.answer r).runs = s.runs := rfl
@[simp] theorem State.answer_ruTrims (s : State) {r} : (s.answer r).ruTrims = s.ruTrims := rfl
@[simp] theorem State.answer_corStored (s : State) {r} : (s.answer r).corStored = s.corStored := rfl
@[simp] theorem State.answer_islands (s : State) {r} : (s.answer r).islands = s.islands := rfl
@[simp] theorem State.answer_dsq (s : State) {r} : (s.answer r).dsq = s.dsq := rfl
@[simp] theorem State.answer_cores (s : State) {r} : (s.answer r).cores = s.cores := rfl
@[simp] theorem State.answer_acc (s : State) {r} : (s.answer r).acc = s.acc := rfl
@[simp] theorem State.answer_dma (s : State) {r} : (s.answer r).dma = s.dma := rfl
@[simp] theorem State.answer_eg (s : State) {r} : (s.answer r).eg = s.eg := rfl
@[simp] theorem State.answer_time (s : State) {r} : (s.answer r).time = s.time := rfl
@[simp] theorem State.answer_lanes (s : State) {r} : (s.answer r).lanes = s.lanes := rfl
@[simp] theorem State.answer_fh (s : State) {r} : (s.answer r).fh = s.fh := rfl
@[simp] theorem State.answer_spur (s : State) {r} : (s.answer r).spur = s.spur := rfl
@[simp] theorem State.answer_fab (s : State) {r} : (s.answer r).fab = s.fab := rfl
@[simp] theorem State.answer_power (s : State) {r} : (s.answer r).power = s.power := rfl
@[simp] theorem State.answer_pins (s : State) {r} : (s.answer r).pins = s.pins := rfl
@[simp] theorem State.answer_fresh (s : State) {r} : (s.answer r).fresh = s.fresh := rfl
@[simp] theorem State.answer_pending (s : State) {r} : (s.answer r).pending = s.pending := rfl

@[simp] theorem State.putBytes_part (s : State) {a bs} : (s.putBytes a bs).part = s.part := rfl
@[simp] theorem State.putBytes_now (s : State) {a bs} : (s.putBytes a bs).now = s.now := rfl
@[simp] theorem State.putBytes_regs (s : State) {a bs} : (s.putBytes a bs).regs = s.regs := rfl
@[simp] theorem State.putBytes_noc (s : State) {a bs} : (s.putBytes a bs).noc = s.noc := rfl
@[simp] theorem State.putBytes_cor (s : State) {a bs} : (s.putBytes a bs).cor = s.cor := rfl
@[simp] theorem State.putBytes_peers (s : State) {a bs} : (s.putBytes a bs).peers = s.peers := rfl
@[simp] theorem State.putBytes_tcs (s : State) {a bs} : (s.putBytes a bs).tcs = s.tcs := rfl
@[simp] theorem State.putBytes_out (s : State) {a bs} : (s.putBytes a bs).out = s.out := rfl
@[simp] theorem State.putBytes_clk (s : State) {a bs} : (s.putBytes a bs).clk = s.clk := rfl
@[simp] theorem State.putBytes_boot (s : State) {a bs} : (s.putBytes a bs).boot = s.boot := rfl
@[simp] theorem State.putBytes_stor (s : State) {a bs} : (s.putBytes a bs).stor = s.stor := rfl
@[simp] theorem State.putBytes_lines (s : State) {a bs} : (s.putBytes a bs).lines = s.lines := rfl
@[simp] theorem State.putBytes_runs (s : State) {a bs} : (s.putBytes a bs).runs = s.runs := rfl
@[simp] theorem State.putBytes_ruTrims (s : State) {a bs} : (s.putBytes a bs).ruTrims = s.ruTrims := rfl
@[simp] theorem State.putBytes_corStored (s : State) {a bs} : (s.putBytes a bs).corStored = s.corStored := rfl
@[simp] theorem State.putBytes_islands (s : State) {a bs} : (s.putBytes a bs).islands = s.islands := rfl
@[simp] theorem State.putBytes_dsq (s : State) {a bs} : (s.putBytes a bs).dsq = s.dsq := rfl
@[simp] theorem State.putBytes_cores (s : State) {a bs} : (s.putBytes a bs).cores = s.cores := rfl
@[simp] theorem State.putBytes_acc (s : State) {a bs} : (s.putBytes a bs).acc = s.acc := rfl
@[simp] theorem State.putBytes_dma (s : State) {a bs} : (s.putBytes a bs).dma = s.dma := rfl
@[simp] theorem State.putBytes_eg (s : State) {a bs} : (s.putBytes a bs).eg = s.eg := rfl
@[simp] theorem State.putBytes_time (s : State) {a bs} : (s.putBytes a bs).time = s.time := rfl
@[simp] theorem State.putBytes_lanes (s : State) {a bs} : (s.putBytes a bs).lanes = s.lanes := rfl
@[simp] theorem State.putBytes_fh (s : State) {a bs} : (s.putBytes a bs).fh = s.fh := rfl
@[simp] theorem State.putBytes_spur (s : State) {a bs} : (s.putBytes a bs).spur = s.spur := rfl
@[simp] theorem State.putBytes_fab (s : State) {a bs} : (s.putBytes a bs).fab = s.fab := rfl
@[simp] theorem State.putBytes_power (s : State) {a bs} : (s.putBytes a bs).power = s.power := rfl
@[simp] theorem State.putBytes_pins (s : State) {a bs} : (s.putBytes a bs).pins = s.pins := rfl
@[simp] theorem State.putBytes_fresh (s : State) {a bs} : (s.putBytes a bs).fresh = s.fresh := rfl
@[simp] theorem State.putBytes_pending (s : State) {a bs} : (s.putBytes a bs).pending = s.pending := rfl

@[simp] theorem State.setCore_part (s : State) {t c x} : (s.setCore t c x).part = s.part := rfl
@[simp] theorem State.setCore_now (s : State) {t c x} : (s.setCore t c x).now = s.now := rfl
@[simp] theorem State.setCore_regs (s : State) {t c x} : (s.setCore t c x).regs = s.regs := rfl
@[simp] theorem State.setCore_mem (s : State) {t c x} : (s.setCore t c x).mem = s.mem := rfl
@[simp] theorem State.setCore_noc (s : State) {t c x} : (s.setCore t c x).noc = s.noc := rfl
@[simp] theorem State.setCore_cor (s : State) {t c x} : (s.setCore t c x).cor = s.cor := rfl
@[simp] theorem State.setCore_peers (s : State) {t c x} : (s.setCore t c x).peers = s.peers := rfl
@[simp] theorem State.setCore_tcs (s : State) {t c x} : (s.setCore t c x).tcs = s.tcs := rfl
@[simp] theorem State.setCore_out (s : State) {t c x} : (s.setCore t c x).out = s.out := rfl
@[simp] theorem State.setCore_clk (s : State) {t c x} : (s.setCore t c x).clk = s.clk := rfl
@[simp] theorem State.setCore_boot (s : State) {t c x} : (s.setCore t c x).boot = s.boot := rfl
@[simp] theorem State.setCore_stor (s : State) {t c x} : (s.setCore t c x).stor = s.stor := rfl
@[simp] theorem State.setCore_lines (s : State) {t c x} : (s.setCore t c x).lines = s.lines := rfl
@[simp] theorem State.setCore_runs (s : State) {t c x} : (s.setCore t c x).runs = s.runs := rfl
@[simp] theorem State.setCore_ruTrims (s : State) {t c x} : (s.setCore t c x).ruTrims = s.ruTrims := rfl
@[simp] theorem State.setCore_corStored (s : State) {t c x} : (s.setCore t c x).corStored = s.corStored := rfl
@[simp] theorem State.setCore_islands (s : State) {t c x} : (s.setCore t c x).islands = s.islands := rfl
@[simp] theorem State.setCore_dsq (s : State) {t c x} : (s.setCore t c x).dsq = s.dsq := rfl
@[simp] theorem State.setCore_acc (s : State) {t c x} : (s.setCore t c x).acc = s.acc := rfl
@[simp] theorem State.setCore_dma (s : State) {t c x} : (s.setCore t c x).dma = s.dma := rfl
@[simp] theorem State.setCore_eg (s : State) {t c x} : (s.setCore t c x).eg = s.eg := rfl
@[simp] theorem State.setCore_time (s : State) {t c x} : (s.setCore t c x).time = s.time := rfl
@[simp] theorem State.setCore_lanes (s : State) {t c x} : (s.setCore t c x).lanes = s.lanes := rfl
@[simp] theorem State.setCore_fh (s : State) {t c x} : (s.setCore t c x).fh = s.fh := rfl
@[simp] theorem State.setCore_spur (s : State) {t c x} : (s.setCore t c x).spur = s.spur := rfl
@[simp] theorem State.setCore_fab (s : State) {t c x} : (s.setCore t c x).fab = s.fab := rfl
@[simp] theorem State.setCore_power (s : State) {t c x} : (s.setCore t c x).power = s.power := rfl
@[simp] theorem State.setCore_pins (s : State) {t c x} : (s.setCore t c x).pins = s.pins := rfl
@[simp] theorem State.setCore_fresh (s : State) {t c x} : (s.setCore t c x).fresh = s.fresh := rfl
@[simp] theorem State.setCore_pending (s : State) {t c x} : (s.setCore t c x).pending = s.pending := rfl

@[simp] theorem State.setQueue_part (s : State) {q x} : (s.setQueue q x).part = s.part := rfl
@[simp] theorem State.setQueue_now (s : State) {q x} : (s.setQueue q x).now = s.now := rfl
@[simp] theorem State.setQueue_regs (s : State) {q x} : (s.setQueue q x).regs = s.regs := rfl
@[simp] theorem State.setQueue_mem (s : State) {q x} : (s.setQueue q x).mem = s.mem := rfl
@[simp] theorem State.setQueue_noc (s : State) {q x} : (s.setQueue q x).noc = s.noc := rfl
@[simp] theorem State.setQueue_cor (s : State) {q x} : (s.setQueue q x).cor = s.cor := rfl
@[simp] theorem State.setQueue_peers (s : State) {q x} : (s.setQueue q x).peers = s.peers := rfl
@[simp] theorem State.setQueue_tcs (s : State) {q x} : (s.setQueue q x).tcs = s.tcs := rfl
@[simp] theorem State.setQueue_out (s : State) {q x} : (s.setQueue q x).out = s.out := rfl
@[simp] theorem State.setQueue_clk (s : State) {q x} : (s.setQueue q x).clk = s.clk := rfl
@[simp] theorem State.setQueue_boot (s : State) {q x} : (s.setQueue q x).boot = s.boot := rfl
@[simp] theorem State.setQueue_stor (s : State) {q x} : (s.setQueue q x).stor = s.stor := rfl
@[simp] theorem State.setQueue_lines (s : State) {q x} : (s.setQueue q x).lines = s.lines := rfl
@[simp] theorem State.setQueue_runs (s : State) {q x} : (s.setQueue q x).runs = s.runs := rfl
@[simp] theorem State.setQueue_ruTrims (s : State) {q x} : (s.setQueue q x).ruTrims = s.ruTrims := rfl
@[simp] theorem State.setQueue_corStored (s : State) {q x} : (s.setQueue q x).corStored = s.corStored := rfl
@[simp] theorem State.setQueue_islands (s : State) {q x} : (s.setQueue q x).islands = s.islands := rfl
@[simp] theorem State.setQueue_cores (s : State) {q x} : (s.setQueue q x).cores = s.cores := rfl
@[simp] theorem State.setQueue_acc (s : State) {q x} : (s.setQueue q x).acc = s.acc := rfl
@[simp] theorem State.setQueue_dma (s : State) {q x} : (s.setQueue q x).dma = s.dma := rfl
@[simp] theorem State.setQueue_eg (s : State) {q x} : (s.setQueue q x).eg = s.eg := rfl
@[simp] theorem State.setQueue_time (s : State) {q x} : (s.setQueue q x).time = s.time := rfl
@[simp] theorem State.setQueue_lanes (s : State) {q x} : (s.setQueue q x).lanes = s.lanes := rfl
@[simp] theorem State.setQueue_fh (s : State) {q x} : (s.setQueue q x).fh = s.fh := rfl
@[simp] theorem State.setQueue_spur (s : State) {q x} : (s.setQueue q x).spur = s.spur := rfl
@[simp] theorem State.setQueue_fab (s : State) {q x} : (s.setQueue q x).fab = s.fab := rfl
@[simp] theorem State.setQueue_power (s : State) {q x} : (s.setQueue q x).power = s.power := rfl
@[simp] theorem State.setQueue_pins (s : State) {q x} : (s.setQueue q x).pins = s.pins := rfl
@[simp] theorem State.setQueue_fresh (s : State) {q x} : (s.setQueue q x).fresh = s.fresh := rfl
@[simp] theorem State.setQueue_pending (s : State) {q x} : (s.setQueue q x).pending = s.pending := rfl

@[simp] theorem State.setFlow_part (s : State) {q f x} : (s.setFlow q f x).part = s.part := rfl
@[simp] theorem State.setFlow_now (s : State) {q f x} : (s.setFlow q f x).now = s.now := rfl
@[simp] theorem State.setFlow_regs (s : State) {q f x} : (s.setFlow q f x).regs = s.regs := rfl
@[simp] theorem State.setFlow_mem (s : State) {q f x} : (s.setFlow q f x).mem = s.mem := rfl
@[simp] theorem State.setFlow_noc (s : State) {q f x} : (s.setFlow q f x).noc = s.noc := rfl
@[simp] theorem State.setFlow_cor (s : State) {q f x} : (s.setFlow q f x).cor = s.cor := rfl
@[simp] theorem State.setFlow_peers (s : State) {q f x} : (s.setFlow q f x).peers = s.peers := rfl
@[simp] theorem State.setFlow_tcs (s : State) {q f x} : (s.setFlow q f x).tcs = s.tcs := rfl
@[simp] theorem State.setFlow_out (s : State) {q f x} : (s.setFlow q f x).out = s.out := rfl
@[simp] theorem State.setFlow_clk (s : State) {q f x} : (s.setFlow q f x).clk = s.clk := rfl
@[simp] theorem State.setFlow_boot (s : State) {q f x} : (s.setFlow q f x).boot = s.boot := rfl
@[simp] theorem State.setFlow_stor (s : State) {q f x} : (s.setFlow q f x).stor = s.stor := rfl
@[simp] theorem State.setFlow_lines (s : State) {q f x} : (s.setFlow q f x).lines = s.lines := rfl
@[simp] theorem State.setFlow_runs (s : State) {q f x} : (s.setFlow q f x).runs = s.runs := rfl
@[simp] theorem State.setFlow_ruTrims (s : State) {q f x} : (s.setFlow q f x).ruTrims = s.ruTrims := rfl
@[simp] theorem State.setFlow_corStored (s : State) {q f x} : (s.setFlow q f x).corStored = s.corStored := rfl
@[simp] theorem State.setFlow_islands (s : State) {q f x} : (s.setFlow q f x).islands = s.islands := rfl
@[simp] theorem State.setFlow_cores (s : State) {q f x} : (s.setFlow q f x).cores = s.cores := rfl
@[simp] theorem State.setFlow_acc (s : State) {q f x} : (s.setFlow q f x).acc = s.acc := rfl
@[simp] theorem State.setFlow_dma (s : State) {q f x} : (s.setFlow q f x).dma = s.dma := rfl
@[simp] theorem State.setFlow_eg (s : State) {q f x} : (s.setFlow q f x).eg = s.eg := rfl
@[simp] theorem State.setFlow_time (s : State) {q f x} : (s.setFlow q f x).time = s.time := rfl
@[simp] theorem State.setFlow_lanes (s : State) {q f x} : (s.setFlow q f x).lanes = s.lanes := rfl
@[simp] theorem State.setFlow_fh (s : State) {q f x} : (s.setFlow q f x).fh = s.fh := rfl
@[simp] theorem State.setFlow_spur (s : State) {q f x} : (s.setFlow q f x).spur = s.spur := rfl
@[simp] theorem State.setFlow_fab (s : State) {q f x} : (s.setFlow q f x).fab = s.fab := rfl
@[simp] theorem State.setFlow_power (s : State) {q f x} : (s.setFlow q f x).power = s.power := rfl
@[simp] theorem State.setFlow_pins (s : State) {q f x} : (s.setFlow q f x).pins = s.pins := rfl
@[simp] theorem State.setFlow_fresh (s : State) {q f x} : (s.setFlow q f x).fresh = s.fresh := rfl
@[simp] theorem State.setFlow_pending (s : State) {q f x} : (s.setFlow q f x).pending = s.pending := rfl

@[simp] theorem State.setIsland_part (s : State) {t x} : (s.setIsland t x).part = s.part := rfl
@[simp] theorem State.setIsland_now (s : State) {t x} : (s.setIsland t x).now = s.now := rfl
@[simp] theorem State.setIsland_regs (s : State) {t x} : (s.setIsland t x).regs = s.regs := rfl
@[simp] theorem State.setIsland_mem (s : State) {t x} : (s.setIsland t x).mem = s.mem := rfl
@[simp] theorem State.setIsland_noc (s : State) {t x} : (s.setIsland t x).noc = s.noc := rfl
@[simp] theorem State.setIsland_cor (s : State) {t x} : (s.setIsland t x).cor = s.cor := rfl
@[simp] theorem State.setIsland_peers (s : State) {t x} : (s.setIsland t x).peers = s.peers := rfl
@[simp] theorem State.setIsland_tcs (s : State) {t x} : (s.setIsland t x).tcs = s.tcs := rfl
@[simp] theorem State.setIsland_out (s : State) {t x} : (s.setIsland t x).out = s.out := rfl
@[simp] theorem State.setIsland_clk (s : State) {t x} : (s.setIsland t x).clk = s.clk := rfl
@[simp] theorem State.setIsland_boot (s : State) {t x} : (s.setIsland t x).boot = s.boot := rfl
@[simp] theorem State.setIsland_stor (s : State) {t x} : (s.setIsland t x).stor = s.stor := rfl
@[simp] theorem State.setIsland_lines (s : State) {t x} : (s.setIsland t x).lines = s.lines := rfl
@[simp] theorem State.setIsland_runs (s : State) {t x} : (s.setIsland t x).runs = s.runs := rfl
@[simp] theorem State.setIsland_ruTrims (s : State) {t x} : (s.setIsland t x).ruTrims = s.ruTrims := rfl
@[simp] theorem State.setIsland_corStored (s : State) {t x} : (s.setIsland t x).corStored = s.corStored := rfl
@[simp] theorem State.setIsland_dsq (s : State) {t x} : (s.setIsland t x).dsq = s.dsq := rfl
@[simp] theorem State.setIsland_cores (s : State) {t x} : (s.setIsland t x).cores = s.cores := rfl
@[simp] theorem State.setIsland_acc (s : State) {t x} : (s.setIsland t x).acc = s.acc := rfl
@[simp] theorem State.setIsland_dma (s : State) {t x} : (s.setIsland t x).dma = s.dma := rfl
@[simp] theorem State.setIsland_eg (s : State) {t x} : (s.setIsland t x).eg = s.eg := rfl
@[simp] theorem State.setIsland_time (s : State) {t x} : (s.setIsland t x).time = s.time := rfl
@[simp] theorem State.setIsland_lanes (s : State) {t x} : (s.setIsland t x).lanes = s.lanes := rfl
@[simp] theorem State.setIsland_fh (s : State) {t x} : (s.setIsland t x).fh = s.fh := rfl
@[simp] theorem State.setIsland_spur (s : State) {t x} : (s.setIsland t x).spur = s.spur := rfl
@[simp] theorem State.setIsland_fab (s : State) {t x} : (s.setIsland t x).fab = s.fab := rfl
@[simp] theorem State.setIsland_power (s : State) {t x} : (s.setIsland t x).power = s.power := rfl
@[simp] theorem State.setIsland_pins (s : State) {t x} : (s.setIsland t x).pins = s.pins := rfl
@[simp] theorem State.setIsland_fresh (s : State) {t x} : (s.setIsland t x).fresh = s.fresh := rfl
@[simp] theorem State.setIsland_pending (s : State) {t x} : (s.setIsland t x).pending = s.pending := rfl

@[simp] theorem State.setRun_part (s : State) {n r} : (s.setRun n r).part = s.part := rfl
@[simp] theorem State.setRun_now (s : State) {n r} : (s.setRun n r).now = s.now := rfl
@[simp] theorem State.setRun_regs (s : State) {n r} : (s.setRun n r).regs = s.regs := rfl
@[simp] theorem State.setRun_mem (s : State) {n r} : (s.setRun n r).mem = s.mem := rfl
@[simp] theorem State.setRun_noc (s : State) {n r} : (s.setRun n r).noc = s.noc := rfl
@[simp] theorem State.setRun_cor (s : State) {n r} : (s.setRun n r).cor = s.cor := rfl
@[simp] theorem State.setRun_peers (s : State) {n r} : (s.setRun n r).peers = s.peers := rfl
@[simp] theorem State.setRun_tcs (s : State) {n r} : (s.setRun n r).tcs = s.tcs := rfl
@[simp] theorem State.setRun_out (s : State) {n r} : (s.setRun n r).out = s.out := rfl
@[simp] theorem State.setRun_clk (s : State) {n r} : (s.setRun n r).clk = s.clk := rfl
@[simp] theorem State.setRun_boot (s : State) {n r} : (s.setRun n r).boot = s.boot := rfl
@[simp] theorem State.setRun_stor (s : State) {n r} : (s.setRun n r).stor = s.stor := rfl
@[simp] theorem State.setRun_lines (s : State) {n r} : (s.setRun n r).lines = s.lines := rfl
@[simp] theorem State.setRun_ruTrims (s : State) {n r} : (s.setRun n r).ruTrims = s.ruTrims := rfl
@[simp] theorem State.setRun_corStored (s : State) {n r} : (s.setRun n r).corStored = s.corStored := rfl
@[simp] theorem State.setRun_islands (s : State) {n r} : (s.setRun n r).islands = s.islands := rfl
@[simp] theorem State.setRun_dsq (s : State) {n r} : (s.setRun n r).dsq = s.dsq := rfl
@[simp] theorem State.setRun_cores (s : State) {n r} : (s.setRun n r).cores = s.cores := rfl
@[simp] theorem State.setRun_acc (s : State) {n r} : (s.setRun n r).acc = s.acc := rfl
@[simp] theorem State.setRun_dma (s : State) {n r} : (s.setRun n r).dma = s.dma := rfl
@[simp] theorem State.setRun_eg (s : State) {n r} : (s.setRun n r).eg = s.eg := rfl
@[simp] theorem State.setRun_time (s : State) {n r} : (s.setRun n r).time = s.time := rfl
@[simp] theorem State.setRun_lanes (s : State) {n r} : (s.setRun n r).lanes = s.lanes := rfl
@[simp] theorem State.setRun_fh (s : State) {n r} : (s.setRun n r).fh = s.fh := rfl
@[simp] theorem State.setRun_spur (s : State) {n r} : (s.setRun n r).spur = s.spur := rfl
@[simp] theorem State.setRun_fab (s : State) {n r} : (s.setRun n r).fab = s.fab := rfl
@[simp] theorem State.setRun_power (s : State) {n r} : (s.setRun n r).power = s.power := rfl
@[simp] theorem State.setRun_pins (s : State) {n r} : (s.setRun n r).pins = s.pins := rfl
@[simp] theorem State.setRun_fresh (s : State) {n r} : (s.setRun n r).fresh = s.fresh := rfl
@[simp] theorem State.setRun_pending (s : State) {n r} : (s.setRun n r).pending = s.pending := rfl

@[simp] theorem State.setSess_part (s : State) {p x} : (s.setSess p x).part = s.part := rfl
@[simp] theorem State.setSess_now (s : State) {p x} : (s.setSess p x).now = s.now := rfl
@[simp] theorem State.setSess_regs (s : State) {p x} : (s.setSess p x).regs = s.regs := rfl
@[simp] theorem State.setSess_mem (s : State) {p x} : (s.setSess p x).mem = s.mem := rfl
@[simp] theorem State.setSess_noc (s : State) {p x} : (s.setSess p x).noc = s.noc := rfl
@[simp] theorem State.setSess_cor (s : State) {p x} : (s.setSess p x).cor = s.cor := rfl
@[simp] theorem State.setSess_peers (s : State) {p x} : (s.setSess p x).peers = s.peers := rfl
@[simp] theorem State.setSess_out (s : State) {p x} : (s.setSess p x).out = s.out := rfl
@[simp] theorem State.setSess_clk (s : State) {p x} : (s.setSess p x).clk = s.clk := rfl
@[simp] theorem State.setSess_boot (s : State) {p x} : (s.setSess p x).boot = s.boot := rfl
@[simp] theorem State.setSess_stor (s : State) {p x} : (s.setSess p x).stor = s.stor := rfl
@[simp] theorem State.setSess_lines (s : State) {p x} : (s.setSess p x).lines = s.lines := rfl
@[simp] theorem State.setSess_runs (s : State) {p x} : (s.setSess p x).runs = s.runs := rfl
@[simp] theorem State.setSess_ruTrims (s : State) {p x} : (s.setSess p x).ruTrims = s.ruTrims := rfl
@[simp] theorem State.setSess_corStored (s : State) {p x} : (s.setSess p x).corStored = s.corStored := rfl
@[simp] theorem State.setSess_islands (s : State) {p x} : (s.setSess p x).islands = s.islands := rfl
@[simp] theorem State.setSess_dsq (s : State) {p x} : (s.setSess p x).dsq = s.dsq := rfl
@[simp] theorem State.setSess_cores (s : State) {p x} : (s.setSess p x).cores = s.cores := rfl
@[simp] theorem State.setSess_acc (s : State) {p x} : (s.setSess p x).acc = s.acc := rfl
@[simp] theorem State.setSess_dma (s : State) {p x} : (s.setSess p x).dma = s.dma := rfl
@[simp] theorem State.setSess_eg (s : State) {p x} : (s.setSess p x).eg = s.eg := rfl
@[simp] theorem State.setSess_time (s : State) {p x} : (s.setSess p x).time = s.time := rfl
@[simp] theorem State.setSess_lanes (s : State) {p x} : (s.setSess p x).lanes = s.lanes := rfl
@[simp] theorem State.setSess_fh (s : State) {p x} : (s.setSess p x).fh = s.fh := rfl
@[simp] theorem State.setSess_spur (s : State) {p x} : (s.setSess p x).spur = s.spur := rfl
@[simp] theorem State.setSess_fab (s : State) {p x} : (s.setSess p x).fab = s.fab := rfl
@[simp] theorem State.setSess_power (s : State) {p x} : (s.setSess p x).power = s.power := rfl
@[simp] theorem State.setSess_pins (s : State) {p x} : (s.setSess p x).pins = s.pins := rfl
@[simp] theorem State.setSess_fresh (s : State) {p x} : (s.setSess p x).fresh = s.fresh := rfl
@[simp] theorem State.setSess_pending (s : State) {p x} : (s.setSess p x).pending = s.pending := rfl

@[simp] theorem State.setPeer_part (s : State) {k p} : (s.setPeer k p).part = s.part := rfl
@[simp] theorem State.setPeer_now (s : State) {k p} : (s.setPeer k p).now = s.now := rfl
@[simp] theorem State.setPeer_regs (s : State) {k p} : (s.setPeer k p).regs = s.regs := rfl
@[simp] theorem State.setPeer_mem (s : State) {k p} : (s.setPeer k p).mem = s.mem := rfl
@[simp] theorem State.setPeer_noc (s : State) {k p} : (s.setPeer k p).noc = s.noc := rfl
@[simp] theorem State.setPeer_cor (s : State) {k p} : (s.setPeer k p).cor = s.cor := rfl
@[simp] theorem State.setPeer_tcs (s : State) {k p} : (s.setPeer k p).tcs = s.tcs := rfl
@[simp] theorem State.setPeer_out (s : State) {k p} : (s.setPeer k p).out = s.out := rfl
@[simp] theorem State.setPeer_clk (s : State) {k p} : (s.setPeer k p).clk = s.clk := rfl
@[simp] theorem State.setPeer_boot (s : State) {k p} : (s.setPeer k p).boot = s.boot := rfl
@[simp] theorem State.setPeer_stor (s : State) {k p} : (s.setPeer k p).stor = s.stor := rfl
@[simp] theorem State.setPeer_lines (s : State) {k p} : (s.setPeer k p).lines = s.lines := rfl
@[simp] theorem State.setPeer_runs (s : State) {k p} : (s.setPeer k p).runs = s.runs := rfl
@[simp] theorem State.setPeer_ruTrims (s : State) {k p} : (s.setPeer k p).ruTrims = s.ruTrims := rfl
@[simp] theorem State.setPeer_corStored (s : State) {k p} : (s.setPeer k p).corStored = s.corStored := rfl
@[simp] theorem State.setPeer_islands (s : State) {k p} : (s.setPeer k p).islands = s.islands := rfl
@[simp] theorem State.setPeer_dsq (s : State) {k p} : (s.setPeer k p).dsq = s.dsq := rfl
@[simp] theorem State.setPeer_cores (s : State) {k p} : (s.setPeer k p).cores = s.cores := rfl
@[simp] theorem State.setPeer_acc (s : State) {k p} : (s.setPeer k p).acc = s.acc := rfl
@[simp] theorem State.setPeer_dma (s : State) {k p} : (s.setPeer k p).dma = s.dma := rfl
@[simp] theorem State.setPeer_eg (s : State) {k p} : (s.setPeer k p).eg = s.eg := rfl
@[simp] theorem State.setPeer_time (s : State) {k p} : (s.setPeer k p).time = s.time := rfl
@[simp] theorem State.setPeer_lanes (s : State) {k p} : (s.setPeer k p).lanes = s.lanes := rfl
@[simp] theorem State.setPeer_fh (s : State) {k p} : (s.setPeer k p).fh = s.fh := rfl
@[simp] theorem State.setPeer_spur (s : State) {k p} : (s.setPeer k p).spur = s.spur := rfl
@[simp] theorem State.setPeer_fab (s : State) {k p} : (s.setPeer k p).fab = s.fab := rfl
@[simp] theorem State.setPeer_power (s : State) {k p} : (s.setPeer k p).power = s.power := rfl
@[simp] theorem State.setPeer_pins (s : State) {k p} : (s.setPeer k p).pins = s.pins := rfl
@[simp] theorem State.setPeer_fresh (s : State) {k p} : (s.setPeer k p).fresh = s.fresh := rfl
@[simp] theorem State.setPeer_pending (s : State) {k p} : (s.setPeer k p).pending = s.pending := rfl

@[simp] theorem State.send_part (s : State) {m} : (s.send m).part = s.part := rfl
@[simp] theorem State.send_now (s : State) {m} : (s.send m).now = s.now := rfl
@[simp] theorem State.send_regs (s : State) {m} : (s.send m).regs = s.regs := rfl
@[simp] theorem State.send_mem (s : State) {m} : (s.send m).mem = s.mem := rfl
@[simp] theorem State.send_noc (s : State) {m} : (s.send m).noc = s.noc := rfl
@[simp] theorem State.send_cor (s : State) {m} : (s.send m).cor = s.cor := rfl
@[simp] theorem State.send_peers (s : State) {m} : (s.send m).peers = s.peers := rfl
@[simp] theorem State.send_tcs (s : State) {m} : (s.send m).tcs = s.tcs := rfl
@[simp] theorem State.send_clk (s : State) {m} : (s.send m).clk = s.clk := rfl
@[simp] theorem State.send_boot (s : State) {m} : (s.send m).boot = s.boot := rfl
@[simp] theorem State.send_stor (s : State) {m} : (s.send m).stor = s.stor := rfl
@[simp] theorem State.send_lines (s : State) {m} : (s.send m).lines = s.lines := rfl
@[simp] theorem State.send_runs (s : State) {m} : (s.send m).runs = s.runs := rfl
@[simp] theorem State.send_ruTrims (s : State) {m} : (s.send m).ruTrims = s.ruTrims := rfl
@[simp] theorem State.send_corStored (s : State) {m} : (s.send m).corStored = s.corStored := rfl
@[simp] theorem State.send_islands (s : State) {m} : (s.send m).islands = s.islands := rfl
@[simp] theorem State.send_dsq (s : State) {m} : (s.send m).dsq = s.dsq := rfl
@[simp] theorem State.send_cores (s : State) {m} : (s.send m).cores = s.cores := rfl
@[simp] theorem State.send_acc (s : State) {m} : (s.send m).acc = s.acc := rfl
@[simp] theorem State.send_dma (s : State) {m} : (s.send m).dma = s.dma := rfl
@[simp] theorem State.send_eg (s : State) {m} : (s.send m).eg = s.eg := rfl
@[simp] theorem State.send_time (s : State) {m} : (s.send m).time = s.time := rfl
@[simp] theorem State.send_lanes (s : State) {m} : (s.send m).lanes = s.lanes := rfl
@[simp] theorem State.send_fh (s : State) {m} : (s.send m).fh = s.fh := rfl
@[simp] theorem State.send_spur (s : State) {m} : (s.send m).spur = s.spur := rfl
@[simp] theorem State.send_fab (s : State) {m} : (s.send m).fab = s.fab := rfl
@[simp] theorem State.send_power (s : State) {m} : (s.send m).power = s.power := rfl
@[simp] theorem State.send_pins (s : State) {m} : (s.send m).pins = s.pins := rfl
@[simp] theorem State.send_fresh (s : State) {m} : (s.send m).fresh = s.fresh := rfl
@[simp] theorem State.send_pending (s : State) {m} : (s.send m).pending = s.pending := rfl

@[simp] theorem State.emit_part (s : State) {o} : (s.emit o).part = s.part := rfl
@[simp] theorem State.emit_now (s : State) {o} : (s.emit o).now = s.now := rfl
@[simp] theorem State.emit_regs (s : State) {o} : (s.emit o).regs = s.regs := rfl
@[simp] theorem State.emit_mem (s : State) {o} : (s.emit o).mem = s.mem := rfl
@[simp] theorem State.emit_noc (s : State) {o} : (s.emit o).noc = s.noc := rfl
@[simp] theorem State.emit_cor (s : State) {o} : (s.emit o).cor = s.cor := rfl
@[simp] theorem State.emit_peers (s : State) {o} : (s.emit o).peers = s.peers := rfl
@[simp] theorem State.emit_tcs (s : State) {o} : (s.emit o).tcs = s.tcs := rfl
@[simp] theorem State.emit_out (s : State) {o} : (s.emit o).out = s.out := rfl
@[simp] theorem State.emit_clk (s : State) {o} : (s.emit o).clk = s.clk := rfl
@[simp] theorem State.emit_boot (s : State) {o} : (s.emit o).boot = s.boot := rfl
@[simp] theorem State.emit_stor (s : State) {o} : (s.emit o).stor = s.stor := rfl
@[simp] theorem State.emit_runs (s : State) {o} : (s.emit o).runs = s.runs := rfl
@[simp] theorem State.emit_ruTrims (s : State) {o} : (s.emit o).ruTrims = s.ruTrims := rfl
@[simp] theorem State.emit_corStored (s : State) {o} : (s.emit o).corStored = s.corStored := rfl
@[simp] theorem State.emit_islands (s : State) {o} : (s.emit o).islands = s.islands := rfl
@[simp] theorem State.emit_dsq (s : State) {o} : (s.emit o).dsq = s.dsq := rfl
@[simp] theorem State.emit_cores (s : State) {o} : (s.emit o).cores = s.cores := rfl
@[simp] theorem State.emit_acc (s : State) {o} : (s.emit o).acc = s.acc := rfl
@[simp] theorem State.emit_dma (s : State) {o} : (s.emit o).dma = s.dma := rfl
@[simp] theorem State.emit_eg (s : State) {o} : (s.emit o).eg = s.eg := rfl
@[simp] theorem State.emit_time (s : State) {o} : (s.emit o).time = s.time := rfl
@[simp] theorem State.emit_lanes (s : State) {o} : (s.emit o).lanes = s.lanes := rfl
@[simp] theorem State.emit_fh (s : State) {o} : (s.emit o).fh = s.fh := rfl
@[simp] theorem State.emit_spur (s : State) {o} : (s.emit o).spur = s.spur := rfl
@[simp] theorem State.emit_fab (s : State) {o} : (s.emit o).fab = s.fab := rfl
@[simp] theorem State.emit_power (s : State) {o} : (s.emit o).power = s.power := rfl
@[simp] theorem State.emit_pins (s : State) {o} : (s.emit o).pins = s.pins := rfl
@[simp] theorem State.emit_fresh (s : State) {o} : (s.emit o).fresh = s.fresh := rfl
@[simp] theorem State.emit_pending (s : State) {o} : (s.emit o).pending = s.pending := rfl

@[simp] theorem State.modCor_part (s : State) {f} : (s.modCor f).part = s.part := rfl
@[simp] theorem State.modCor_now (s : State) {f} : (s.modCor f).now = s.now := rfl
@[simp] theorem State.modCor_regs (s : State) {f} : (s.modCor f).regs = s.regs := rfl
@[simp] theorem State.modCor_mem (s : State) {f} : (s.modCor f).mem = s.mem := rfl
@[simp] theorem State.modCor_noc (s : State) {f} : (s.modCor f).noc = s.noc := rfl
@[simp] theorem State.modCor_peers (s : State) {f} : (s.modCor f).peers = s.peers := rfl
@[simp] theorem State.modCor_tcs (s : State) {f} : (s.modCor f).tcs = s.tcs := rfl
@[simp] theorem State.modCor_out (s : State) {f} : (s.modCor f).out = s.out := rfl
@[simp] theorem State.modCor_clk (s : State) {f} : (s.modCor f).clk = s.clk := rfl
@[simp] theorem State.modCor_boot (s : State) {f} : (s.modCor f).boot = s.boot := rfl
@[simp] theorem State.modCor_stor (s : State) {f} : (s.modCor f).stor = s.stor := rfl
@[simp] theorem State.modCor_lines (s : State) {f} : (s.modCor f).lines = s.lines := rfl
@[simp] theorem State.modCor_runs (s : State) {f} : (s.modCor f).runs = s.runs := rfl
@[simp] theorem State.modCor_ruTrims (s : State) {f} : (s.modCor f).ruTrims = s.ruTrims := rfl
@[simp] theorem State.modCor_corStored (s : State) {f} : (s.modCor f).corStored = s.corStored := rfl
@[simp] theorem State.modCor_islands (s : State) {f} : (s.modCor f).islands = s.islands := rfl
@[simp] theorem State.modCor_dsq (s : State) {f} : (s.modCor f).dsq = s.dsq := rfl
@[simp] theorem State.modCor_cores (s : State) {f} : (s.modCor f).cores = s.cores := rfl
@[simp] theorem State.modCor_acc (s : State) {f} : (s.modCor f).acc = s.acc := rfl
@[simp] theorem State.modCor_dma (s : State) {f} : (s.modCor f).dma = s.dma := rfl
@[simp] theorem State.modCor_eg (s : State) {f} : (s.modCor f).eg = s.eg := rfl
@[simp] theorem State.modCor_time (s : State) {f} : (s.modCor f).time = s.time := rfl
@[simp] theorem State.modCor_lanes (s : State) {f} : (s.modCor f).lanes = s.lanes := rfl
@[simp] theorem State.modCor_fh (s : State) {f} : (s.modCor f).fh = s.fh := rfl
@[simp] theorem State.modCor_spur (s : State) {f} : (s.modCor f).spur = s.spur := rfl
@[simp] theorem State.modCor_fab (s : State) {f} : (s.modCor f).fab = s.fab := rfl
@[simp] theorem State.modCor_power (s : State) {f} : (s.modCor f).power = s.power := rfl
@[simp] theorem State.modCor_pins (s : State) {f} : (s.modCor f).pins = s.pins := rfl
@[simp] theorem State.modCor_fresh (s : State) {f} : (s.modCor f).fresh = s.fresh := rfl
@[simp] theorem State.modCor_pending (s : State) {f} : (s.modCor f).pending = s.pending := rfl

@[simp] theorem State.modBoot_part (s : State) {f} : (s.modBoot f).part = s.part := rfl
@[simp] theorem State.modBoot_now (s : State) {f} : (s.modBoot f).now = s.now := rfl
@[simp] theorem State.modBoot_regs (s : State) {f} : (s.modBoot f).regs = s.regs := rfl
@[simp] theorem State.modBoot_mem (s : State) {f} : (s.modBoot f).mem = s.mem := rfl
@[simp] theorem State.modBoot_noc (s : State) {f} : (s.modBoot f).noc = s.noc := rfl
@[simp] theorem State.modBoot_cor (s : State) {f} : (s.modBoot f).cor = s.cor := rfl
@[simp] theorem State.modBoot_peers (s : State) {f} : (s.modBoot f).peers = s.peers := rfl
@[simp] theorem State.modBoot_tcs (s : State) {f} : (s.modBoot f).tcs = s.tcs := rfl
@[simp] theorem State.modBoot_out (s : State) {f} : (s.modBoot f).out = s.out := rfl
@[simp] theorem State.modBoot_clk (s : State) {f} : (s.modBoot f).clk = s.clk := rfl
@[simp] theorem State.modBoot_stor (s : State) {f} : (s.modBoot f).stor = s.stor := rfl
@[simp] theorem State.modBoot_lines (s : State) {f} : (s.modBoot f).lines = s.lines := rfl
@[simp] theorem State.modBoot_runs (s : State) {f} : (s.modBoot f).runs = s.runs := rfl
@[simp] theorem State.modBoot_ruTrims (s : State) {f} : (s.modBoot f).ruTrims = s.ruTrims := rfl
@[simp] theorem State.modBoot_corStored (s : State) {f} : (s.modBoot f).corStored = s.corStored := rfl
@[simp] theorem State.modBoot_islands (s : State) {f} : (s.modBoot f).islands = s.islands := rfl
@[simp] theorem State.modBoot_dsq (s : State) {f} : (s.modBoot f).dsq = s.dsq := rfl
@[simp] theorem State.modBoot_cores (s : State) {f} : (s.modBoot f).cores = s.cores := rfl
@[simp] theorem State.modBoot_acc (s : State) {f} : (s.modBoot f).acc = s.acc := rfl
@[simp] theorem State.modBoot_dma (s : State) {f} : (s.modBoot f).dma = s.dma := rfl
@[simp] theorem State.modBoot_eg (s : State) {f} : (s.modBoot f).eg = s.eg := rfl
@[simp] theorem State.modBoot_time (s : State) {f} : (s.modBoot f).time = s.time := rfl
@[simp] theorem State.modBoot_lanes (s : State) {f} : (s.modBoot f).lanes = s.lanes := rfl
@[simp] theorem State.modBoot_fh (s : State) {f} : (s.modBoot f).fh = s.fh := rfl
@[simp] theorem State.modBoot_spur (s : State) {f} : (s.modBoot f).spur = s.spur := rfl
@[simp] theorem State.modBoot_fab (s : State) {f} : (s.modBoot f).fab = s.fab := rfl
@[simp] theorem State.modBoot_power (s : State) {f} : (s.modBoot f).power = s.power := rfl
@[simp] theorem State.modBoot_pins (s : State) {f} : (s.modBoot f).pins = s.pins := rfl
@[simp] theorem State.modBoot_fresh (s : State) {f} : (s.modBoot f).fresh = s.fresh := rfl
@[simp] theorem State.modBoot_pending (s : State) {f} : (s.modBoot f).pending = s.pending := rfl

@[simp] theorem State.modStor_part (s : State) {f} : (s.modStor f).part = s.part := rfl
@[simp] theorem State.modStor_now (s : State) {f} : (s.modStor f).now = s.now := rfl
@[simp] theorem State.modStor_regs (s : State) {f} : (s.modStor f).regs = s.regs := rfl
@[simp] theorem State.modStor_mem (s : State) {f} : (s.modStor f).mem = s.mem := rfl
@[simp] theorem State.modStor_noc (s : State) {f} : (s.modStor f).noc = s.noc := rfl
@[simp] theorem State.modStor_cor (s : State) {f} : (s.modStor f).cor = s.cor := rfl
@[simp] theorem State.modStor_peers (s : State) {f} : (s.modStor f).peers = s.peers := rfl
@[simp] theorem State.modStor_tcs (s : State) {f} : (s.modStor f).tcs = s.tcs := rfl
@[simp] theorem State.modStor_out (s : State) {f} : (s.modStor f).out = s.out := rfl
@[simp] theorem State.modStor_clk (s : State) {f} : (s.modStor f).clk = s.clk := rfl
@[simp] theorem State.modStor_boot (s : State) {f} : (s.modStor f).boot = s.boot := rfl
@[simp] theorem State.modStor_lines (s : State) {f} : (s.modStor f).lines = s.lines := rfl
@[simp] theorem State.modStor_runs (s : State) {f} : (s.modStor f).runs = s.runs := rfl
@[simp] theorem State.modStor_ruTrims (s : State) {f} : (s.modStor f).ruTrims = s.ruTrims := rfl
@[simp] theorem State.modStor_corStored (s : State) {f} : (s.modStor f).corStored = s.corStored := rfl
@[simp] theorem State.modStor_islands (s : State) {f} : (s.modStor f).islands = s.islands := rfl
@[simp] theorem State.modStor_dsq (s : State) {f} : (s.modStor f).dsq = s.dsq := rfl
@[simp] theorem State.modStor_cores (s : State) {f} : (s.modStor f).cores = s.cores := rfl
@[simp] theorem State.modStor_acc (s : State) {f} : (s.modStor f).acc = s.acc := rfl
@[simp] theorem State.modStor_dma (s : State) {f} : (s.modStor f).dma = s.dma := rfl
@[simp] theorem State.modStor_eg (s : State) {f} : (s.modStor f).eg = s.eg := rfl
@[simp] theorem State.modStor_time (s : State) {f} : (s.modStor f).time = s.time := rfl
@[simp] theorem State.modStor_lanes (s : State) {f} : (s.modStor f).lanes = s.lanes := rfl
@[simp] theorem State.modStor_fh (s : State) {f} : (s.modStor f).fh = s.fh := rfl
@[simp] theorem State.modStor_spur (s : State) {f} : (s.modStor f).spur = s.spur := rfl
@[simp] theorem State.modStor_fab (s : State) {f} : (s.modStor f).fab = s.fab := rfl
@[simp] theorem State.modStor_power (s : State) {f} : (s.modStor f).power = s.power := rfl
@[simp] theorem State.modStor_pins (s : State) {f} : (s.modStor f).pins = s.pins := rfl
@[simp] theorem State.modStor_fresh (s : State) {f} : (s.modStor f).fresh = s.fresh := rfl
@[simp] theorem State.modStor_pending (s : State) {f} : (s.modStor f).pending = s.pending := rfl

@[simp] theorem State.modTime_part (s : State) {f} : (s.modTime f).part = s.part := rfl
@[simp] theorem State.modTime_now (s : State) {f} : (s.modTime f).now = s.now := rfl
@[simp] theorem State.modTime_regs (s : State) {f} : (s.modTime f).regs = s.regs := rfl
@[simp] theorem State.modTime_mem (s : State) {f} : (s.modTime f).mem = s.mem := rfl
@[simp] theorem State.modTime_noc (s : State) {f} : (s.modTime f).noc = s.noc := rfl
@[simp] theorem State.modTime_cor (s : State) {f} : (s.modTime f).cor = s.cor := rfl
@[simp] theorem State.modTime_peers (s : State) {f} : (s.modTime f).peers = s.peers := rfl
@[simp] theorem State.modTime_tcs (s : State) {f} : (s.modTime f).tcs = s.tcs := rfl
@[simp] theorem State.modTime_out (s : State) {f} : (s.modTime f).out = s.out := rfl
@[simp] theorem State.modTime_clk (s : State) {f} : (s.modTime f).clk = s.clk := rfl
@[simp] theorem State.modTime_boot (s : State) {f} : (s.modTime f).boot = s.boot := rfl
@[simp] theorem State.modTime_stor (s : State) {f} : (s.modTime f).stor = s.stor := rfl
@[simp] theorem State.modTime_lines (s : State) {f} : (s.modTime f).lines = s.lines := rfl
@[simp] theorem State.modTime_runs (s : State) {f} : (s.modTime f).runs = s.runs := rfl
@[simp] theorem State.modTime_ruTrims (s : State) {f} : (s.modTime f).ruTrims = s.ruTrims := rfl
@[simp] theorem State.modTime_corStored (s : State) {f} : (s.modTime f).corStored = s.corStored := rfl
@[simp] theorem State.modTime_islands (s : State) {f} : (s.modTime f).islands = s.islands := rfl
@[simp] theorem State.modTime_dsq (s : State) {f} : (s.modTime f).dsq = s.dsq := rfl
@[simp] theorem State.modTime_cores (s : State) {f} : (s.modTime f).cores = s.cores := rfl
@[simp] theorem State.modTime_acc (s : State) {f} : (s.modTime f).acc = s.acc := rfl
@[simp] theorem State.modTime_dma (s : State) {f} : (s.modTime f).dma = s.dma := rfl
@[simp] theorem State.modTime_eg (s : State) {f} : (s.modTime f).eg = s.eg := rfl
@[simp] theorem State.modTime_lanes (s : State) {f} : (s.modTime f).lanes = s.lanes := rfl
@[simp] theorem State.modTime_fh (s : State) {f} : (s.modTime f).fh = s.fh := rfl
@[simp] theorem State.modTime_spur (s : State) {f} : (s.modTime f).spur = s.spur := rfl
@[simp] theorem State.modTime_fab (s : State) {f} : (s.modTime f).fab = s.fab := rfl
@[simp] theorem State.modTime_power (s : State) {f} : (s.modTime f).power = s.power := rfl
@[simp] theorem State.modTime_pins (s : State) {f} : (s.modTime f).pins = s.pins := rfl
@[simp] theorem State.modTime_fresh (s : State) {f} : (s.modTime f).fresh = s.fresh := rfl
@[simp] theorem State.modTime_pending (s : State) {f} : (s.modTime f).pending = s.pending := rfl

@[simp] theorem State.modPower_part (s : State) {f} : (s.modPower f).part = s.part := rfl
@[simp] theorem State.modPower_now (s : State) {f} : (s.modPower f).now = s.now := rfl
@[simp] theorem State.modPower_regs (s : State) {f} : (s.modPower f).regs = s.regs := rfl
@[simp] theorem State.modPower_mem (s : State) {f} : (s.modPower f).mem = s.mem := rfl
@[simp] theorem State.modPower_noc (s : State) {f} : (s.modPower f).noc = s.noc := rfl
@[simp] theorem State.modPower_cor (s : State) {f} : (s.modPower f).cor = s.cor := rfl
@[simp] theorem State.modPower_peers (s : State) {f} : (s.modPower f).peers = s.peers := rfl
@[simp] theorem State.modPower_tcs (s : State) {f} : (s.modPower f).tcs = s.tcs := rfl
@[simp] theorem State.modPower_out (s : State) {f} : (s.modPower f).out = s.out := rfl
@[simp] theorem State.modPower_clk (s : State) {f} : (s.modPower f).clk = s.clk := rfl
@[simp] theorem State.modPower_boot (s : State) {f} : (s.modPower f).boot = s.boot := rfl
@[simp] theorem State.modPower_stor (s : State) {f} : (s.modPower f).stor = s.stor := rfl
@[simp] theorem State.modPower_lines (s : State) {f} : (s.modPower f).lines = s.lines := rfl
@[simp] theorem State.modPower_runs (s : State) {f} : (s.modPower f).runs = s.runs := rfl
@[simp] theorem State.modPower_ruTrims (s : State) {f} : (s.modPower f).ruTrims = s.ruTrims := rfl
@[simp] theorem State.modPower_corStored (s : State) {f} : (s.modPower f).corStored = s.corStored := rfl
@[simp] theorem State.modPower_islands (s : State) {f} : (s.modPower f).islands = s.islands := rfl
@[simp] theorem State.modPower_dsq (s : State) {f} : (s.modPower f).dsq = s.dsq := rfl
@[simp] theorem State.modPower_cores (s : State) {f} : (s.modPower f).cores = s.cores := rfl
@[simp] theorem State.modPower_acc (s : State) {f} : (s.modPower f).acc = s.acc := rfl
@[simp] theorem State.modPower_dma (s : State) {f} : (s.modPower f).dma = s.dma := rfl
@[simp] theorem State.modPower_eg (s : State) {f} : (s.modPower f).eg = s.eg := rfl
@[simp] theorem State.modPower_time (s : State) {f} : (s.modPower f).time = s.time := rfl
@[simp] theorem State.modPower_lanes (s : State) {f} : (s.modPower f).lanes = s.lanes := rfl
@[simp] theorem State.modPower_fh (s : State) {f} : (s.modPower f).fh = s.fh := rfl
@[simp] theorem State.modPower_spur (s : State) {f} : (s.modPower f).spur = s.spur := rfl
@[simp] theorem State.modPower_fab (s : State) {f} : (s.modPower f).fab = s.fab := rfl
@[simp] theorem State.modPower_pins (s : State) {f} : (s.modPower f).pins = s.pins := rfl
@[simp] theorem State.modPower_fresh (s : State) {f} : (s.modPower f).fresh = s.fresh := rfl
@[simp] theorem State.modPower_pending (s : State) {f} : (s.modPower f).pending = s.pending := rfl

@[simp] theorem State.modFab_part (s : State) {n f} : (s.modFab n f).part = s.part := rfl
@[simp] theorem State.modFab_now (s : State) {n f} : (s.modFab n f).now = s.now := rfl
@[simp] theorem State.modFab_regs (s : State) {n f} : (s.modFab n f).regs = s.regs := rfl
@[simp] theorem State.modFab_mem (s : State) {n f} : (s.modFab n f).mem = s.mem := rfl
@[simp] theorem State.modFab_noc (s : State) {n f} : (s.modFab n f).noc = s.noc := rfl
@[simp] theorem State.modFab_cor (s : State) {n f} : (s.modFab n f).cor = s.cor := rfl
@[simp] theorem State.modFab_peers (s : State) {n f} : (s.modFab n f).peers = s.peers := rfl
@[simp] theorem State.modFab_tcs (s : State) {n f} : (s.modFab n f).tcs = s.tcs := rfl
@[simp] theorem State.modFab_out (s : State) {n f} : (s.modFab n f).out = s.out := rfl
@[simp] theorem State.modFab_clk (s : State) {n f} : (s.modFab n f).clk = s.clk := rfl
@[simp] theorem State.modFab_boot (s : State) {n f} : (s.modFab n f).boot = s.boot := rfl
@[simp] theorem State.modFab_stor (s : State) {n f} : (s.modFab n f).stor = s.stor := rfl
@[simp] theorem State.modFab_lines (s : State) {n f} : (s.modFab n f).lines = s.lines := rfl
@[simp] theorem State.modFab_runs (s : State) {n f} : (s.modFab n f).runs = s.runs := rfl
@[simp] theorem State.modFab_ruTrims (s : State) {n f} : (s.modFab n f).ruTrims = s.ruTrims := rfl
@[simp] theorem State.modFab_corStored (s : State) {n f} : (s.modFab n f).corStored = s.corStored := rfl
@[simp] theorem State.modFab_islands (s : State) {n f} : (s.modFab n f).islands = s.islands := rfl
@[simp] theorem State.modFab_dsq (s : State) {n f} : (s.modFab n f).dsq = s.dsq := rfl
@[simp] theorem State.modFab_cores (s : State) {n f} : (s.modFab n f).cores = s.cores := rfl
@[simp] theorem State.modFab_acc (s : State) {n f} : (s.modFab n f).acc = s.acc := rfl
@[simp] theorem State.modFab_dma (s : State) {n f} : (s.modFab n f).dma = s.dma := rfl
@[simp] theorem State.modFab_eg (s : State) {n f} : (s.modFab n f).eg = s.eg := rfl
@[simp] theorem State.modFab_time (s : State) {n f} : (s.modFab n f).time = s.time := rfl
@[simp] theorem State.modFab_lanes (s : State) {n f} : (s.modFab n f).lanes = s.lanes := rfl
@[simp] theorem State.modFab_fh (s : State) {n f} : (s.modFab n f).fh = s.fh := rfl
@[simp] theorem State.modFab_spur (s : State) {n f} : (s.modFab n f).spur = s.spur := rfl
@[simp] theorem State.modFab_power (s : State) {n f} : (s.modFab n f).power = s.power := rfl
@[simp] theorem State.modFab_pins (s : State) {n f} : (s.modFab n f).pins = s.pins := rfl
@[simp] theorem State.modFab_fresh (s : State) {n f} : (s.modFab n f).fresh = s.fresh := rfl
@[simp] theorem State.modFab_pending (s : State) {n f} : (s.modFab n f).pending = s.pending := rfl

@[simp] theorem State.modSpur_part (s : State) {n f} : (s.modSpur n f).part = s.part := rfl
@[simp] theorem State.modSpur_now (s : State) {n f} : (s.modSpur n f).now = s.now := rfl
@[simp] theorem State.modSpur_regs (s : State) {n f} : (s.modSpur n f).regs = s.regs := rfl
@[simp] theorem State.modSpur_mem (s : State) {n f} : (s.modSpur n f).mem = s.mem := rfl
@[simp] theorem State.modSpur_noc (s : State) {n f} : (s.modSpur n f).noc = s.noc := rfl
@[simp] theorem State.modSpur_cor (s : State) {n f} : (s.modSpur n f).cor = s.cor := rfl
@[simp] theorem State.modSpur_peers (s : State) {n f} : (s.modSpur n f).peers = s.peers := rfl
@[simp] theorem State.modSpur_tcs (s : State) {n f} : (s.modSpur n f).tcs = s.tcs := rfl
@[simp] theorem State.modSpur_out (s : State) {n f} : (s.modSpur n f).out = s.out := rfl
@[simp] theorem State.modSpur_clk (s : State) {n f} : (s.modSpur n f).clk = s.clk := rfl
@[simp] theorem State.modSpur_boot (s : State) {n f} : (s.modSpur n f).boot = s.boot := rfl
@[simp] theorem State.modSpur_stor (s : State) {n f} : (s.modSpur n f).stor = s.stor := rfl
@[simp] theorem State.modSpur_lines (s : State) {n f} : (s.modSpur n f).lines = s.lines := rfl
@[simp] theorem State.modSpur_runs (s : State) {n f} : (s.modSpur n f).runs = s.runs := rfl
@[simp] theorem State.modSpur_ruTrims (s : State) {n f} : (s.modSpur n f).ruTrims = s.ruTrims := rfl
@[simp] theorem State.modSpur_corStored (s : State) {n f} : (s.modSpur n f).corStored = s.corStored := rfl
@[simp] theorem State.modSpur_islands (s : State) {n f} : (s.modSpur n f).islands = s.islands := rfl
@[simp] theorem State.modSpur_dsq (s : State) {n f} : (s.modSpur n f).dsq = s.dsq := rfl
@[simp] theorem State.modSpur_cores (s : State) {n f} : (s.modSpur n f).cores = s.cores := rfl
@[simp] theorem State.modSpur_acc (s : State) {n f} : (s.modSpur n f).acc = s.acc := rfl
@[simp] theorem State.modSpur_dma (s : State) {n f} : (s.modSpur n f).dma = s.dma := rfl
@[simp] theorem State.modSpur_eg (s : State) {n f} : (s.modSpur n f).eg = s.eg := rfl
@[simp] theorem State.modSpur_time (s : State) {n f} : (s.modSpur n f).time = s.time := rfl
@[simp] theorem State.modSpur_lanes (s : State) {n f} : (s.modSpur n f).lanes = s.lanes := rfl
@[simp] theorem State.modSpur_fh (s : State) {n f} : (s.modSpur n f).fh = s.fh := rfl
@[simp] theorem State.modSpur_fab (s : State) {n f} : (s.modSpur n f).fab = s.fab := rfl
@[simp] theorem State.modSpur_power (s : State) {n f} : (s.modSpur n f).power = s.power := rfl
@[simp] theorem State.modSpur_pins (s : State) {n f} : (s.modSpur n f).pins = s.pins := rfl
@[simp] theorem State.modSpur_fresh (s : State) {n f} : (s.modSpur n f).fresh = s.fresh := rfl
@[simp] theorem State.modSpur_pending (s : State) {n f} : (s.modSpur n f).pending = s.pending := rfl

@[simp] theorem State.modFh_part (s : State) {f} : (s.modFh f).part = s.part := rfl
@[simp] theorem State.modFh_now (s : State) {f} : (s.modFh f).now = s.now := rfl
@[simp] theorem State.modFh_regs (s : State) {f} : (s.modFh f).regs = s.regs := rfl
@[simp] theorem State.modFh_mem (s : State) {f} : (s.modFh f).mem = s.mem := rfl
@[simp] theorem State.modFh_noc (s : State) {f} : (s.modFh f).noc = s.noc := rfl
@[simp] theorem State.modFh_cor (s : State) {f} : (s.modFh f).cor = s.cor := rfl
@[simp] theorem State.modFh_peers (s : State) {f} : (s.modFh f).peers = s.peers := rfl
@[simp] theorem State.modFh_tcs (s : State) {f} : (s.modFh f).tcs = s.tcs := rfl
@[simp] theorem State.modFh_out (s : State) {f} : (s.modFh f).out = s.out := rfl
@[simp] theorem State.modFh_clk (s : State) {f} : (s.modFh f).clk = s.clk := rfl
@[simp] theorem State.modFh_boot (s : State) {f} : (s.modFh f).boot = s.boot := rfl
@[simp] theorem State.modFh_stor (s : State) {f} : (s.modFh f).stor = s.stor := rfl
@[simp] theorem State.modFh_lines (s : State) {f} : (s.modFh f).lines = s.lines := rfl
@[simp] theorem State.modFh_runs (s : State) {f} : (s.modFh f).runs = s.runs := rfl
@[simp] theorem State.modFh_ruTrims (s : State) {f} : (s.modFh f).ruTrims = s.ruTrims := rfl
@[simp] theorem State.modFh_corStored (s : State) {f} : (s.modFh f).corStored = s.corStored := rfl
@[simp] theorem State.modFh_islands (s : State) {f} : (s.modFh f).islands = s.islands := rfl
@[simp] theorem State.modFh_dsq (s : State) {f} : (s.modFh f).dsq = s.dsq := rfl
@[simp] theorem State.modFh_cores (s : State) {f} : (s.modFh f).cores = s.cores := rfl
@[simp] theorem State.modFh_acc (s : State) {f} : (s.modFh f).acc = s.acc := rfl
@[simp] theorem State.modFh_dma (s : State) {f} : (s.modFh f).dma = s.dma := rfl
@[simp] theorem State.modFh_eg (s : State) {f} : (s.modFh f).eg = s.eg := rfl
@[simp] theorem State.modFh_time (s : State) {f} : (s.modFh f).time = s.time := rfl
@[simp] theorem State.modFh_lanes (s : State) {f} : (s.modFh f).lanes = s.lanes := rfl
@[simp] theorem State.modFh_spur (s : State) {f} : (s.modFh f).spur = s.spur := rfl
@[simp] theorem State.modFh_fab (s : State) {f} : (s.modFh f).fab = s.fab := rfl
@[simp] theorem State.modFh_power (s : State) {f} : (s.modFh f).power = s.power := rfl
@[simp] theorem State.modFh_pins (s : State) {f} : (s.modFh f).pins = s.pins := rfl
@[simp] theorem State.modFh_fresh (s : State) {f} : (s.modFh f).fresh = s.fresh := rfl
@[simp] theorem State.modFh_pending (s : State) {f} : (s.modFh f).pending = s.pending := rfl

@[simp] theorem State.setEgq_part (s : State) {q x} : (s.setEgq q x).part = s.part := rfl
@[simp] theorem State.setEgq_now (s : State) {q x} : (s.setEgq q x).now = s.now := rfl
@[simp] theorem State.setEgq_regs (s : State) {q x} : (s.setEgq q x).regs = s.regs := rfl
@[simp] theorem State.setEgq_mem (s : State) {q x} : (s.setEgq q x).mem = s.mem := rfl
@[simp] theorem State.setEgq_noc (s : State) {q x} : (s.setEgq q x).noc = s.noc := rfl
@[simp] theorem State.setEgq_cor (s : State) {q x} : (s.setEgq q x).cor = s.cor := rfl
@[simp] theorem State.setEgq_peers (s : State) {q x} : (s.setEgq q x).peers = s.peers := rfl
@[simp] theorem State.setEgq_tcs (s : State) {q x} : (s.setEgq q x).tcs = s.tcs := rfl
@[simp] theorem State.setEgq_out (s : State) {q x} : (s.setEgq q x).out = s.out := rfl
@[simp] theorem State.setEgq_clk (s : State) {q x} : (s.setEgq q x).clk = s.clk := rfl
@[simp] theorem State.setEgq_boot (s : State) {q x} : (s.setEgq q x).boot = s.boot := rfl
@[simp] theorem State.setEgq_stor (s : State) {q x} : (s.setEgq q x).stor = s.stor := rfl
@[simp] theorem State.setEgq_lines (s : State) {q x} : (s.setEgq q x).lines = s.lines := rfl
@[simp] theorem State.setEgq_runs (s : State) {q x} : (s.setEgq q x).runs = s.runs := rfl
@[simp] theorem State.setEgq_ruTrims (s : State) {q x} : (s.setEgq q x).ruTrims = s.ruTrims := rfl
@[simp] theorem State.setEgq_corStored (s : State) {q x} : (s.setEgq q x).corStored = s.corStored := rfl
@[simp] theorem State.setEgq_islands (s : State) {q x} : (s.setEgq q x).islands = s.islands := rfl
@[simp] theorem State.setEgq_dsq (s : State) {q x} : (s.setEgq q x).dsq = s.dsq := rfl
@[simp] theorem State.setEgq_cores (s : State) {q x} : (s.setEgq q x).cores = s.cores := rfl
@[simp] theorem State.setEgq_acc (s : State) {q x} : (s.setEgq q x).acc = s.acc := rfl
@[simp] theorem State.setEgq_dma (s : State) {q x} : (s.setEgq q x).dma = s.dma := rfl
@[simp] theorem State.setEgq_time (s : State) {q x} : (s.setEgq q x).time = s.time := rfl
@[simp] theorem State.setEgq_lanes (s : State) {q x} : (s.setEgq q x).lanes = s.lanes := rfl
@[simp] theorem State.setEgq_fh (s : State) {q x} : (s.setEgq q x).fh = s.fh := rfl
@[simp] theorem State.setEgq_spur (s : State) {q x} : (s.setEgq q x).spur = s.spur := rfl
@[simp] theorem State.setEgq_fab (s : State) {q x} : (s.setEgq q x).fab = s.fab := rfl
@[simp] theorem State.setEgq_power (s : State) {q x} : (s.setEgq q x).power = s.power := rfl
@[simp] theorem State.setEgq_pins (s : State) {q x} : (s.setEgq q x).pins = s.pins := rfl
@[simp] theorem State.setEgq_fresh (s : State) {q x} : (s.setEgq q x).fresh = s.fresh := rfl
@[simp] theorem State.setEgq_pending (s : State) {q x} : (s.setEgq q x).pending = s.pending := rfl

@[simp] theorem State.setTx_part (s : State) {k x} : (s.setTx k x).part = s.part := rfl
@[simp] theorem State.setTx_now (s : State) {k x} : (s.setTx k x).now = s.now := rfl
@[simp] theorem State.setTx_regs (s : State) {k x} : (s.setTx k x).regs = s.regs := rfl
@[simp] theorem State.setTx_mem (s : State) {k x} : (s.setTx k x).mem = s.mem := rfl
@[simp] theorem State.setTx_noc (s : State) {k x} : (s.setTx k x).noc = s.noc := rfl
@[simp] theorem State.setTx_cor (s : State) {k x} : (s.setTx k x).cor = s.cor := rfl
@[simp] theorem State.setTx_peers (s : State) {k x} : (s.setTx k x).peers = s.peers := rfl
@[simp] theorem State.setTx_tcs (s : State) {k x} : (s.setTx k x).tcs = s.tcs := rfl
@[simp] theorem State.setTx_out (s : State) {k x} : (s.setTx k x).out = s.out := rfl
@[simp] theorem State.setTx_clk (s : State) {k x} : (s.setTx k x).clk = s.clk := rfl
@[simp] theorem State.setTx_boot (s : State) {k x} : (s.setTx k x).boot = s.boot := rfl
@[simp] theorem State.setTx_stor (s : State) {k x} : (s.setTx k x).stor = s.stor := rfl
@[simp] theorem State.setTx_lines (s : State) {k x} : (s.setTx k x).lines = s.lines := rfl
@[simp] theorem State.setTx_runs (s : State) {k x} : (s.setTx k x).runs = s.runs := rfl
@[simp] theorem State.setTx_ruTrims (s : State) {k x} : (s.setTx k x).ruTrims = s.ruTrims := rfl
@[simp] theorem State.setTx_corStored (s : State) {k x} : (s.setTx k x).corStored = s.corStored := rfl
@[simp] theorem State.setTx_islands (s : State) {k x} : (s.setTx k x).islands = s.islands := rfl
@[simp] theorem State.setTx_dsq (s : State) {k x} : (s.setTx k x).dsq = s.dsq := rfl
@[simp] theorem State.setTx_cores (s : State) {k x} : (s.setTx k x).cores = s.cores := rfl
@[simp] theorem State.setTx_acc (s : State) {k x} : (s.setTx k x).acc = s.acc := rfl
@[simp] theorem State.setTx_dma (s : State) {k x} : (s.setTx k x).dma = s.dma := rfl
@[simp] theorem State.setTx_time (s : State) {k x} : (s.setTx k x).time = s.time := rfl
@[simp] theorem State.setTx_lanes (s : State) {k x} : (s.setTx k x).lanes = s.lanes := rfl
@[simp] theorem State.setTx_fh (s : State) {k x} : (s.setTx k x).fh = s.fh := rfl
@[simp] theorem State.setTx_spur (s : State) {k x} : (s.setTx k x).spur = s.spur := rfl
@[simp] theorem State.setTx_fab (s : State) {k x} : (s.setTx k x).fab = s.fab := rfl
@[simp] theorem State.setTx_power (s : State) {k x} : (s.setTx k x).power = s.power := rfl
@[simp] theorem State.setTx_pins (s : State) {k x} : (s.setTx k x).pins = s.pins := rfl
@[simp] theorem State.setTx_fresh (s : State) {k x} : (s.setTx k x).fresh = s.fresh := rfl
@[simp] theorem State.setTx_pending (s : State) {k x} : (s.setTx k x).pending = s.pending := rfl

@[simp] theorem State.setCalendar_part (s : State) {k l} : (s.setCalendar k l).part = s.part := rfl
@[simp] theorem State.setCalendar_now (s : State) {k l} : (s.setCalendar k l).now = s.now := rfl
@[simp] theorem State.setCalendar_regs (s : State) {k l} : (s.setCalendar k l).regs = s.regs := rfl
@[simp] theorem State.setCalendar_mem (s : State) {k l} : (s.setCalendar k l).mem = s.mem := rfl
@[simp] theorem State.setCalendar_noc (s : State) {k l} : (s.setCalendar k l).noc = s.noc := rfl
@[simp] theorem State.setCalendar_cor (s : State) {k l} : (s.setCalendar k l).cor = s.cor := rfl
@[simp] theorem State.setCalendar_peers (s : State) {k l} : (s.setCalendar k l).peers = s.peers := rfl
@[simp] theorem State.setCalendar_tcs (s : State) {k l} : (s.setCalendar k l).tcs = s.tcs := rfl
@[simp] theorem State.setCalendar_out (s : State) {k l} : (s.setCalendar k l).out = s.out := rfl
@[simp] theorem State.setCalendar_clk (s : State) {k l} : (s.setCalendar k l).clk = s.clk := rfl
@[simp] theorem State.setCalendar_boot (s : State) {k l} : (s.setCalendar k l).boot = s.boot := rfl
@[simp] theorem State.setCalendar_stor (s : State) {k l} : (s.setCalendar k l).stor = s.stor := rfl
@[simp] theorem State.setCalendar_lines (s : State) {k l} : (s.setCalendar k l).lines = s.lines := rfl
@[simp] theorem State.setCalendar_runs (s : State) {k l} : (s.setCalendar k l).runs = s.runs := rfl
@[simp] theorem State.setCalendar_ruTrims (s : State) {k l} : (s.setCalendar k l).ruTrims = s.ruTrims := rfl
@[simp] theorem State.setCalendar_corStored (s : State) {k l} : (s.setCalendar k l).corStored = s.corStored := rfl
@[simp] theorem State.setCalendar_islands (s : State) {k l} : (s.setCalendar k l).islands = s.islands := rfl
@[simp] theorem State.setCalendar_dsq (s : State) {k l} : (s.setCalendar k l).dsq = s.dsq := rfl
@[simp] theorem State.setCalendar_cores (s : State) {k l} : (s.setCalendar k l).cores = s.cores := rfl
@[simp] theorem State.setCalendar_acc (s : State) {k l} : (s.setCalendar k l).acc = s.acc := rfl
@[simp] theorem State.setCalendar_dma (s : State) {k l} : (s.setCalendar k l).dma = s.dma := rfl
@[simp] theorem State.setCalendar_time (s : State) {k l} : (s.setCalendar k l).time = s.time := rfl
@[simp] theorem State.setCalendar_lanes (s : State) {k l} : (s.setCalendar k l).lanes = s.lanes := rfl
@[simp] theorem State.setCalendar_fh (s : State) {k l} : (s.setCalendar k l).fh = s.fh := rfl
@[simp] theorem State.setCalendar_spur (s : State) {k l} : (s.setCalendar k l).spur = s.spur := rfl
@[simp] theorem State.setCalendar_fab (s : State) {k l} : (s.setCalendar k l).fab = s.fab := rfl
@[simp] theorem State.setCalendar_power (s : State) {k l} : (s.setCalendar k l).power = s.power := rfl
@[simp] theorem State.setCalendar_pins (s : State) {k l} : (s.setCalendar k l).pins = s.pins := rfl
@[simp] theorem State.setCalendar_fresh (s : State) {k l} : (s.setCalendar k l).fresh = s.fresh := rfl
@[simp] theorem State.setCalendar_pending (s : State) {k l} : (s.setCalendar k l).pending = s.pending := rfl

@[simp] theorem State.takeFresh_part (s : State) : s.takeFresh.2.part = s.part := rfl
@[simp] theorem State.takeFresh_now (s : State) : s.takeFresh.2.now = s.now := rfl
@[simp] theorem State.takeFresh_regs (s : State) : s.takeFresh.2.regs = s.regs := rfl
@[simp] theorem State.takeFresh_mem (s : State) : s.takeFresh.2.mem = s.mem := rfl
@[simp] theorem State.takeFresh_noc (s : State) : s.takeFresh.2.noc = s.noc := rfl
@[simp] theorem State.takeFresh_cor (s : State) : s.takeFresh.2.cor = s.cor := rfl
@[simp] theorem State.takeFresh_peers (s : State) : s.takeFresh.2.peers = s.peers := rfl
@[simp] theorem State.takeFresh_tcs (s : State) : s.takeFresh.2.tcs = s.tcs := rfl
@[simp] theorem State.takeFresh_out (s : State) : s.takeFresh.2.out = s.out := rfl
@[simp] theorem State.takeFresh_clk (s : State) : s.takeFresh.2.clk = s.clk := rfl
@[simp] theorem State.takeFresh_boot (s : State) : s.takeFresh.2.boot = s.boot := rfl
@[simp] theorem State.takeFresh_stor (s : State) : s.takeFresh.2.stor = s.stor := rfl
@[simp] theorem State.takeFresh_lines (s : State) : s.takeFresh.2.lines = s.lines := rfl
@[simp] theorem State.takeFresh_runs (s : State) : s.takeFresh.2.runs = s.runs := rfl
@[simp] theorem State.takeFresh_ruTrims (s : State) : s.takeFresh.2.ruTrims = s.ruTrims := rfl
@[simp] theorem State.takeFresh_corStored (s : State) : s.takeFresh.2.corStored = s.corStored := rfl
@[simp] theorem State.takeFresh_islands (s : State) : s.takeFresh.2.islands = s.islands := rfl
@[simp] theorem State.takeFresh_dsq (s : State) : s.takeFresh.2.dsq = s.dsq := rfl
@[simp] theorem State.takeFresh_cores (s : State) : s.takeFresh.2.cores = s.cores := rfl
@[simp] theorem State.takeFresh_acc (s : State) : s.takeFresh.2.acc = s.acc := rfl
@[simp] theorem State.takeFresh_dma (s : State) : s.takeFresh.2.dma = s.dma := rfl
@[simp] theorem State.takeFresh_eg (s : State) : s.takeFresh.2.eg = s.eg := rfl
@[simp] theorem State.takeFresh_time (s : State) : s.takeFresh.2.time = s.time := rfl
@[simp] theorem State.takeFresh_lanes (s : State) : s.takeFresh.2.lanes = s.lanes := rfl
@[simp] theorem State.takeFresh_fh (s : State) : s.takeFresh.2.fh = s.fh := rfl
@[simp] theorem State.takeFresh_spur (s : State) : s.takeFresh.2.spur = s.spur := rfl
@[simp] theorem State.takeFresh_fab (s : State) : s.takeFresh.2.fab = s.fab := rfl
@[simp] theorem State.takeFresh_power (s : State) : s.takeFresh.2.power = s.power := rfl
@[simp] theorem State.takeFresh_pins (s : State) : s.takeFresh.2.pins = s.pins := rfl
@[simp] theorem State.takeFresh_pending (s : State) : s.takeFresh.2.pending = s.pending := rfl

/-! ### What a journal record leaves alone -/

/-- A LOST record changes storage and registers only. -/
theorem stageLost_tcs (s : State) : (stageLost s).tcs = s.tcs := by
  unfold stageLost; split <;> rfl

/-- A record that waits changes storage and registers only. -/
theorem bufferRec_tcs (s : State) (r : JRec) : (bufferRec s r).tcs = s.tcs := by
  unfold bufferRec
  split
  · rfl
  · dsimp only; split <;> rfl

/-- A journal record leaves sessions, mailboxes and semaphores as they are. -/
@[simp] theorem State.journal_tcs (s : State) (rtype severity source : Nat) (body : List Byte) :
    (s.journal rtype severity source body).tcs = s.tcs := by
  unfold State.journal
  dsimp only
  cases canStage s (min 256 (64 + ceilDiv body.length 16 * 16)) && s.stor.buffer.isEmpty
  · exact bufferRec_tcs _ _
  · exact stageLost_tcs s

end Sys2Proof.Machine
end

