-- ==== Sys2Proof/Laws/Frame.lean ====
section
/-! SUPPORT. What the instructions of a core leave alone: memory, and every other core. -/

namespace Sys2Proof.Machine

/-- The frame of an instruction of a core: nothing elsewhere moves, and with a core key no other core changes. -/
def Framed (n : Option Nat) (s t : State) : Prop :=
  (t.mem.cells = s.mem.cells ∧ Elsewhere s t) ∧ ∀ m, n = some m → OtherCores m s t

theorem Framed.refl (n : Option Nat) (s : State) : Framed n s s :=
  ⟨⟨rfl, fun _ => rfl, rfl, rfl, rfl, rfl, rfl, rfl, rfl, rfl, rfl, rfl, rfl, rfl, rfl, rfl, rfl, rfl, rfl, rfl, rfl, rfl, rfl,
    rfl, rfl, rfl⟩, fun _ _ _ _ _ => rfl⟩

/-- Without a core key the frame asks less. -/
theorem Framed.weaken {n : Option Nat} {s t : State} (h : Framed n s t) : Framed none s t := ⟨h.1, fun _ e => nomatch e⟩

/-- A state written field by field, with the memory's bytes and the cores as they were. -/
theorem Framed.isMk {n : Option Nat} {s0 s : State} {regs' mem' noc' dsq' cores' acc' fresh'}
    (e : (mem'.cells, cores') = (s.mem.cells, s.cores)) (h : Framed n s0 s) :
    Framed n s0 (State.mk s.part s.now regs' mem' noc' s.cor s.peers s.tcs s.out s.clk s.boot s.stor s.lines s.runs s.ruTrims s.corStored s.islands dsq' cores' acc' s.dma s.eg s.time s.lanes s.fh s.spur s.fab s.power s.pins fresh' s.pending) := by
  obtain ⟨⟨c, b, r⟩, o⟩ := h
  simp only [Prod.mk.injEq] at e
  obtain ⟨e1, e2⟩ := e
  refine ⟨⟨e1.trans c, fun a => ?_, r⟩, fun m hm a d hd => ?_⟩
  · unfold State.byte; dsimp only; rw [e1]; exact b a
  · unfold State.core; dsimp only; rw [e2]; exact o m hm a d hd

/-- Replacing the core with the key changes no other. -/
theorem State.setCore_framed {n : Option Nat} {s0 s : State} {t c x} (hn : ∀ m, n = some m → m = coreKey t c)
    (h : Framed n s0 s) : Framed n s0 (s.setCore t c x) := by
  obtain ⟨⟨e, b, r⟩, o⟩ := h
  refine ⟨⟨e, b, r⟩, fun m hm a d hd => ?_⟩
  rw [← o m hm a d hd]
  unfold State.core State.setCore mgetD
  dsimp only
  rw [mget_mset_ne (by rw [← hn m hm]; exact hd)]

/-- An outcome is a next state with the frame. -/
def FOut (n : Option Nat) (s0 : State) (o : Host.Outcome State Fault Refusal) : Prop :=
  match o with
  | .next t => Framed n s0 t
  | _ => False

/-- So for a state that may be there. -/
def FOpt (n : Option Nat) (s0 : State) (o : Option State) : Prop :=
  match o with
  | some t => Framed n s0 t
  | none => True

theorem ok_framed {n : Option Nat} {s0 s : State} (h : Framed n s0 s) : FOut n s0 (ok s) := h
theorem FOut.next {n : Option Nat} {s0 s : State} (h : Framed n s0 s) : FOut n s0 (.next s) := h
theorem FOpt.some_ {n : Option Nat} {s0 s : State} (h : Framed n s0 s) : FOpt n s0 (some s) := h
theorem FOpt.none_ {n : Option Nat} {s0 : State} : FOpt n s0 none := trivial
theorem Framed.id_ {n : Option Nat} {s0 s : State} (h : Framed n s0 s) : Framed n s0 (id s) := h
theorem Framed.noKey {c : Nat} : ∀ m, (none : Option Nat) = some m → m = c := fun _ e => nomatch e
theorem Framed.ofPair {α} {n : Option Nat} {s0 t : State} {a : α} {p : α × State} (e : p = (a, t)) (h : Framed n s0 p.2) :
    Framed n s0 t := by
  rw [e] at h; exact h
theorem Framed.ofSome {n : Option Nat} {s0 t : State} {o : Option State} (e : o = some t) (h : FOpt n s0 o) :
    Framed n s0 t := by
  rw [e] at h; exact h
theorem Framed.getD {n : Option Nat} {s0 s : State} {o : Option State} (g : FOpt n s0 o) (h : Framed n s0 s) :
    Framed n s0 (o.getD s) := by
  cases o with
  | none => exact h
  | some t => exact g
theorem Framed.cut {n : Option Nat} {s0 : State} {G : Prop} (x : State) (h : Framed n s0 x) (g : Framed n s0 x → G) : G := g h
theorem Framed.cut2 {α} {n : Option Nat} {s0 : State} {G : Prop} (x : α × State) (h : Framed n s0 x.2)
    (g : Framed n s0 x.2 → G) : G := g h
theorem Framed.foldl {α} {n : Option Nat} {s0 : State} {f : State → α → State} (l : List α) {s : State} (h : Framed n s0 s)
    (hf : ∀ s a, Framed n s0 s → Framed n s0 (f s a)) : Framed n s0 (l.foldl f s) := by
  induction l generalizing s with
  | nil => exact h
  | cons a l ih => exact ih (hf s a h)

end Sys2Proof.Machine
end

