-- ==== Sys2Proof/Laws/FrameOps.lean ====
section
/-! SUPPORT. Each operation of a core, and each of its instructions that stores nothing, has the frame `Framed`. -/

namespace Sys2Proof.Machine

theorem State.setMark_framed {n : Option Nat} {s0 : State} {s cw x2} (hs : Framed n s0 s) :
    Framed n s0 (State.setMark s cw x2) := by
  unfold State.setMark
  repeat' first
    | with_reducible assumption
    | (extract_lets +onlyGivenNames w)
    | split
    | dsimp +zetaDelta only
    | ((with_reducible refine Framed.isMk ?_ ?_); rfl)

theorem State.setReg_framed {n : Option Nat} {s0 : State} {s a x2} (hs : Framed n s0 s) :
    Framed n s0 (State.setReg s a x2) := by
  unfold State.setReg
  repeat' first
    | with_reducible assumption
    | (extract_lets +onlyGivenNames w)
    | dsimp +zetaDelta only
    | ((with_reducible refine Framed.isMk ?_ ?_); rfl)

theorem State.modReg_framed {n : Option Nat} {s0 : State} {s a f} (hs : Framed n s0 s) :
    Framed n s0 (State.modReg s a f) := by
  unfold State.modReg
  repeat' with_reducible first | assumption | apply State.setReg_framed

theorem seenAdd_framed {n : Option Nat} {s0 : State} {s t cw pl synd scrub} (hs : Framed n s0 s) :
    Framed n s0 (seenAdd s t cw pl synd scrub) := by
  unfold seenAdd
  repeat' first
    | with_reducible assumption
    | (extract_lets +onlyGivenNames w)
    | split
    | dsimp +zetaDelta only
    | ((with_reducible refine Framed.isMk ?_ ?_); rfl)

theorem State.setReg64_framed {n : Option Nat} {s0 : State} {s a d} (hs : Framed n s0 s) :
    Framed n s0 (State.setReg64 s a d) := by
  unfold State.setReg64
  repeat' with_reducible first | assumption | apply State.setReg_framed

theorem clogFill_framed {n : Option Nat} {s0 : State} {s t x2 cw ue kind r synd} (hs : Framed n s0 s) :
    Framed n s0 (clogFill s t x2 cw ue kind r synd) := by
  unfold clogFill
  repeat' first
    | with_reducible first | assumption | apply State.setReg64_framed | apply State.setReg_framed

theorem State.orReg_framed {n : Option Nat} {s0 : State} {s a i} (hs : Framed n s0 s) :
    Framed n s0 (State.orReg s a i) := by
  unfold State.orReg
  repeat' with_reducible first | assumption | apply State.modReg_framed

theorem State.count_framed {n : Option Nat} {s0 : State} {s a x2} (hs : Framed n s0 s) :
    Framed n s0 (State.count s a x2) := by
  unfold State.count
  repeat' with_reducible first | assumption | apply State.modReg_framed

theorem clogAdd_framed {n : Option Nat} {s0 : State} {s t cw ue kind r synd} (hs : Framed n s0 s) :
    Framed n s0 (clogAdd s t cw ue kind r synd) := by
  unfold clogAdd
  repeat' first
    | with_reducible first | assumption | apply State.modReg_framed | apply clogFill_framed | apply State.orReg_framed
    | with_reducible apply State.count_framed
    | split

theorem countCE_framed {n : Option Nat} {s0 : State} {s t pl} (hs : Framed n s0 s) :
    Framed n s0 (countCE s t pl) := by
  unfold countCE
  repeat' first
    | with_reducible first | assumption | apply State.orReg_framed | apply State.count_framed
    | split

theorem noteCE_framed {n : Option Nat} {s0 : State} {r pl cw pos s} (hs : Framed n s0 s) :
    Framed n s0 (noteCE r pl cw pos s) := by
  unfold noteCE
  repeat' first
    | with_reducible first | assumption | apply seenAdd_framed | apply clogAdd_framed | apply countCE_framed

theorem countUE_framed {n : Option Nat} {s0 : State} {s t pl} (hs : Framed n s0 s) :
    Framed n s0 (countUE s t pl) := by
  unfold countUE
  repeat' first
    | with_reducible first | assumption | apply State.orReg_framed | apply State.count_framed
    | split

theorem countWait_framed {n : Option Nat} {s0 : State} {s t c} (hs : Framed n s0 s) :
    Framed n s0 (countWait s t c) := by
  unfold countWait
  repeat' with_reducible first | assumption | apply State.orReg_framed | apply State.count_framed

theorem State.takeFresh_framed {n : Option Nat} {s0 : State} {s} (hs : Framed n s0 s) :
    Framed n s0 (State.takeFresh s).2 := by
  unfold State.takeFresh
  repeat' first
    | with_reducible assumption
    | dsimp only
    | ((with_reducible refine Framed.isMk ?_ ?_); rfl)

theorem readCode_framed {n : Option Nat} {s0 : State} {r pl cw s} (hs : Framed n s0 s) :
    Framed n s0 (readCode r pl cw s).2 := by
  unfold readCode
  repeat' first
    | with_reducible first | assumption | apply noteCE_framed | apply clogAdd_framed | apply countUE_framed
    | with_reducible apply State.setMark_framed
    | (extract_lets +onlyGivenNames w;
        refine Framed.cut (n := n) (s0 := s0) w ?a ?b;
        (case' a => dsimp only [w]); (case' b => clear_value w; intro hw))
    | (extract_lets +onlyGivenNames w)
    | split
    | dsimp only
    | dsimp +zetaDelta only
    | ((with_reducible refine Framed.isMk ?_ ?_); rfl)

theorem readCodes_framed {n : Option Nat} {s0 : State} {r pl x2 x3} (hx3 : Framed n s0 x3) :
    Framed n s0 (readCodes r pl x2 x3).2 := by
  fun_induction readCodes r pl x2 x3
  all_goals repeat' first
    | with_reducible first | assumption | apply readCode_framed | apply_assumption -exfalso -symm

theorem memRead_framed {n : Option Nat} {s0 : State} {r pl a x3 s} (hs : Framed n s0 s) :
    Framed n s0 (memRead r pl a x3 s).2 := by
  unfold memRead
  repeat' with_reducible first | assumption | apply readCodes_framed

theorem targetLate_framed {n : Option Nat} {s0 : State} {s f} (hs : Framed n s0 s) :
    Framed n s0 (targetLate s f) := by
  unfold targetLate
  repeat' first
    | with_reducible first | assumption | apply State.count_framed | apply State.orReg_framed | apply ok_framed
    | with_reducible first | apply FOut.next | apply FOpt.some_ | exact FOpt.none_ | apply Framed.id_
    | with_reducible first | exact Framed.noKey | apply Framed.foldl | apply Framed.getD | refine Framed.ofPair (by assumption) ?_
    | with_reducible first | refine Framed.ofSome (by assumption) ?_
    | intro _
    | (extract_lets +onlyGivenNames w;
        refine Framed.cut (n := n) (s0 := s0) w ?a ?b;
        (case' a => dsimp only [w]); (case' b => clear_value w; intro hw))
    | (extract_lets +onlyGivenNames w;
        refine Framed.cut2 (n := n) (s0 := s0) w ?a ?b;
        (case' a => dsimp only [w]); (case' b => clear_value w; intro hw))
    | (extract_lets +onlyGivenNames w)
    | split
    | dsimp only
    | dsimp +zetaDelta only
    | ((with_reducible refine Framed.isMk ?_ ?_); rfl)

theorem busMemRead_framed {n : Option Nat} {s0 : State} {r a x2 s} (hs : Framed n s0 s) :
    Framed n s0 (busMemRead r a x2 s).2 := by
  unfold busMemRead
  repeat' first
    | with_reducible first | assumption | apply State.takeFresh_framed | apply memRead_framed | apply targetLate_framed
    | with_reducible first | apply ok_framed | apply FOut.next | apply FOpt.some_ | exact FOpt.none_
    | with_reducible first | apply Framed.id_ | exact Framed.noKey | apply Framed.foldl | apply Framed.getD
    | with_reducible first | refine Framed.ofPair (by assumption) ?_ | refine Framed.ofSome (by assumption) ?_
    | intro _
    | (extract_lets +onlyGivenNames w;
        refine Framed.cut (n := n) (s0 := s0) w ?a ?b;
        (case' a => dsimp only [w]); (case' b => clear_value w; intro hw))
    | (extract_lets +onlyGivenNames w;
        refine Framed.cut2 (n := n) (s0 := s0) w ?a ?b;
        (case' a => dsimp only [w]); (case' b => clear_value w; intro hw))
    | (extract_lets +onlyGivenNames w)
    | split
    | dsimp only
    | dsimp +zetaDelta only
    | ((with_reducible refine Framed.isMk ?_ ?_); rfl)

theorem fetchRefused_framed {n : Option Nat} {s0 : State} {s t c a} (hs : Framed n s0 s) :
    Framed n s0 (fetchRefused s t c a).2 := by
  unfold fetchRefused
  repeat' first
    | with_reducible first | assumption | apply busMemRead_framed | apply ok_framed
    | with_reducible first | apply FOut.next | apply FOpt.some_ | exact FOpt.none_ | apply Framed.id_
    | with_reducible first | exact Framed.noKey | apply Framed.foldl | apply Framed.getD | refine Framed.ofPair (by assumption) ?_
    | with_reducible first | refine Framed.ofSome (by assumption) ?_
    | intro _
    | (extract_lets +onlyGivenNames w;
        refine Framed.cut (n := n) (s0 := s0) w ?a ?b;
        (case' a => dsimp only [w]); (case' b => clear_value w; intro hw))
    | (extract_lets +onlyGivenNames w;
        refine Framed.cut2 (n := n) (s0 := s0) w ?a ?b;
        (case' a => dsimp only [w]); (case' b => clear_value w; intro hw))
    | (extract_lets +onlyGivenNames w)
    | split
    | dsimp only
    | dsimp +zetaDelta only
    | ((with_reducible refine Framed.isMk ?_ ?_); rfl)

theorem fetch_framed {n : Option Nat} {s0 : State} {s t c} (hn : ∀ m, n = some m → m = coreKey t c) (hs : Framed n s0
    s) :
    Framed n s0 (fetch s t c).2 := by
  unfold fetch
  repeat' first
    | with_reducible first | assumption | apply State.setCore_framed | apply busMemRead_framed | apply fetchRefused_framed
    | with_reducible first | apply ok_framed | apply FOut.next | apply FOpt.some_ | exact FOpt.none_
    | with_reducible first | apply Framed.id_ | exact Framed.noKey | apply Framed.foldl | apply Framed.getD
    | with_reducible first | refine Framed.ofPair (by assumption) ?_ | refine Framed.ofSome (by assumption) ?_
    | exact hn
    | intro _
    | (extract_lets +onlyGivenNames w;
        refine Framed.cut (n := n) (s0 := s0) w ?a ?b;
        (case' a => dsimp only [w]); (case' b => clear_value w; intro hw))
    | (extract_lets +onlyGivenNames w;
        refine Framed.cut2 (n := n) (s0 := s0) w ?a ?b;
        (case' a => dsimp only [w]); (case' b => clear_value w; intro hw))
    | (extract_lets +onlyGivenNames w)
    | split
    | dsimp only
    | dsimp +zetaDelta only
    | ((with_reducible refine Framed.isMk ?_ ?_); rfl)

theorem fetchParity_framed {n : Option Nat} {s0 : State} {k s} (hn : ∀ m, n = some m → m = coreKey k.tile k.core) (hs
    : Framed n s0 s) :
    Framed n s0 (fetchParity k s) := by
  unfold fetchParity
  repeat' first
    | with_reducible first | assumption | apply State.setCore_framed | apply State.count_framed
    | (extract_lets +onlyGivenNames w)
    | split

theorem setRunning_framed {n : Option Nat} {s0 : State} {s r} (hs : Framed n s0 s) :
    Framed n s0 (setRunning s r) := by
  unfold setRunning
  repeat' first
    | with_reducible assumption
    | (extract_lets +onlyGivenNames w)
    | dsimp +zetaDelta only
    | ((with_reducible refine Framed.isMk ?_ ?_); rfl)

theorem finishTerm_framed {n : Option Nat} {s0 : State} {s t c} (hn : ∀ m, n = some m → m = coreKey t c) (hs : Framed
    n s0 s) :
    Framed n s0 (finishTerm s t c) := by
  unfold finishTerm
  repeat' first
    | with_reducible first | assumption | apply State.setCore_framed | apply setRunning_framed
    | (extract_lets +onlyGivenNames w;
        refine Framed.cut (n := n) (s0 := s0) w ?a ?b;
        (case' a => dsimp only [w]); (case' b => clear_value w; intro hw))
    | (extract_lets +onlyGivenNames w)
    | split

theorem terminate_framed {n : Option Nat} {s0 : State} {s t c x3 cause} (hn : ∀ m, n = some m → m = coreKey t c) (hs :
    Framed n s0 s) :
    Framed n s0 (terminate s t c x3 cause) := by
  unfold terminate
  repeat' first
    | with_reducible first | assumption | apply State.setCore_framed | apply finishTerm_framed | apply ok_framed
    | with_reducible first | apply FOut.next | apply FOpt.some_ | exact FOpt.none_ | apply Framed.id_
    | with_reducible first | exact Framed.noKey | apply Framed.foldl | apply Framed.getD | refine Framed.ofPair (by assumption) ?_
    | with_reducible first | refine Framed.ofSome (by assumption) ?_
    | exact hn
    | intro _
    | (extract_lets +onlyGivenNames w;
        refine Framed.cut (n := n) (s0 := s0) w ?a ?b;
        (case' a => dsimp only [w]); (case' b => clear_value w; intro hw))
    | (extract_lets +onlyGivenNames w;
        refine Framed.cut2 (n := n) (s0 := s0) w ?a ?b;
        (case' a => dsimp only [w]); (case' b => clear_value w; intro hw))
    | (extract_lets +onlyGivenNames w)
    | split
    | dsimp only
    | dsimp +zetaDelta only
    | ((with_reducible refine Framed.isMk ?_ ?_); rfl)

theorem eaddrOf_framed {n : Option Nat} {s0 : State} {s e} (hs : Framed n s0 s) :
    Framed n s0 (eaddrOf s e).2 := by
  unfold eaddrOf
  repeat' first
    | with_reducible first | assumption | apply State.takeFresh_framed
    | (extract_lets +onlyGivenNames w;
        refine Framed.cut2 (n := n) (s0 := s0) w ?a ?b;
        (case' a => dsimp only [w]); (case' b => clear_value w; intro hw))
    | split

theorem takeExc_framed {n : Option Nat} {s0 : State} {s t c e sync epc einfo erep} (hn : ∀ m, n = some m → m = coreKey
    t c) (hs : Framed n s0 s) :
    Framed n s0 (takeExc s t c e sync epc einfo erep) := by
  unfold takeExc
  repeat' first
    | with_reducible first | assumption | apply terminate_framed | apply eaddrOf_framed | apply State.setCore_framed
    | (extract_lets +onlyGivenNames w;
        refine Framed.cut2 (n := n) (s0 := s0) w ?a ?b;
        (case' a => dsimp only [w]); (case' b => clear_value w; intro hw))
    | (extract_lets +onlyGivenNames w)
    | split

theorem syncExc_framed {n : Option Nat} {s0 : State} {k s e} (hn : ∀ m, n = some m → m = coreKey k.tile k.core) (hs :
    Framed n s0 s) :
    Framed n s0 (syncExc k s e) := by
  unfold syncExc
  repeat' first
    | with_reducible first | assumption | apply State.setCore_framed | apply takeExc_framed | apply ok_framed
    | with_reducible first | apply FOut.next | apply FOpt.some_ | exact FOpt.none_ | apply Framed.id_
    | with_reducible first | exact Framed.noKey | apply Framed.foldl | apply Framed.getD | refine Framed.ofPair (by assumption) ?_
    | with_reducible first | refine Framed.ofSome (by assumption) ?_
    | exact hn
    | intro _
    | (extract_lets +onlyGivenNames w;
        refine Framed.cut (n := n) (s0 := s0) w ?a ?b;
        (case' a => dsimp only [w]); (case' b => clear_value w; intro hw))
    | (extract_lets +onlyGivenNames w;
        refine Framed.cut2 (n := n) (s0 := s0) w ?a ?b;
        (case' a => dsimp only [w]); (case' b => clear_value w; intro hw))
    | (extract_lets +onlyGivenNames w)
    | split
    | dsimp only
    | dsimp +zetaDelta only
    | ((with_reducible refine Framed.isMk ?_ ?_); rfl)

theorem repIllegal_framed {n : Option Nat} {s0 : State} {k s r} (hn : ∀ m, n = some m → m = coreKey k.tile k.core) (hs
    : Framed n s0 s) :
    Framed n s0 (repIllegal k s r) := by
  unfold repIllegal
  repeat' first
    | with_reducible first | assumption | apply State.setCore_framed | apply syncExc_framed | apply ok_framed
    | with_reducible first | apply FOut.next | apply FOpt.some_ | exact FOpt.none_ | apply Framed.id_
    | with_reducible first | exact Framed.noKey | apply Framed.foldl | apply Framed.getD | refine Framed.ofPair (by assumption) ?_
    | with_reducible first | refine Framed.ofSome (by assumption) ?_
    | exact hn
    | intro _
    | (extract_lets +onlyGivenNames w;
        refine Framed.cut (n := n) (s0 := s0) w ?a ?b;
        (case' a => dsimp only [w]); (case' b => clear_value w; intro hw))
    | (extract_lets +onlyGivenNames w;
        refine Framed.cut2 (n := n) (s0 := s0) w ?a ?b;
        (case' a => dsimp only [w]); (case' b => clear_value w; intro hw))
    | (extract_lets +onlyGivenNames w)
    | split
    | dsimp only
    | dsimp +zetaDelta only
    | ((with_reducible refine Framed.isMk ?_ ?_); rfl)

theorem issue_framed {n : Option Nat} {s0 : State} {k fmt takesPrefix act s ill} (hn : ∀ m, n = some m → m = coreKey
    k.tile k.core) (hact : ∀ (y0 : State) (y1 : Core), Framed n s0 y0 → Framed n s0 (act y0 y1)) (hs : Framed n s0 s)
    :
    Framed n s0 (issue k fmt takesPrefix act s ill) := by
  unfold issue
  repeat' first
    | with_reducible first | assumption | apply hact | apply fetch_framed | apply fetchParity_framed
    | with_reducible first | apply syncExc_framed | apply repIllegal_framed
    | (extract_lets +onlyGivenNames w;
        refine Framed.cut2 (n := n) (s0 := s0) w ?a ?b;
        (case' a => dsimp only [w]); (case' b => clear_value w; intro hw))
    | (extract_lets +onlyGivenNames w)
    | split

theorem writeHalf_framed {n : Option Nat} {s0 : State} {r a high x3 v s} (hs : Framed n s0 s) :
    Framed n s0 (writeHalf r a high x3 v s).2 := by
  unfold writeHalf
  repeat' first
    | with_reducible assumption
    | (extract_lets +onlyGivenNames w)
    | split
    | dsimp only
    | dsimp +zetaDelta only
    | ((with_reducible refine Framed.isMk ?_ ?_); rfl)

theorem coreWrite_framed {n : Option Nat} {s0 : State} {r t c off x4 s} (hn : ∀ m, n = some m → m = coreKey t c) (hs :
    Framed n s0 s) :
    Framed n s0 (coreWrite r t c off x4 s) := by
  unfold coreWrite
  repeat' first
    | with_reducible first | assumption | apply writeHalf_framed | apply State.setCore_framed
    | (extract_lets +onlyGivenNames w)
    | split
    | dsimp +zetaDelta only

theorem settleTokens_framed {n : Option Nat} {s0 : State} {s t c} (hs : Framed n s0 s) :
    Framed n s0 (settleTokens s t c) := by
  unfold settleTokens
  repeat' first
    | with_reducible first | assumption | apply State.setReg_framed
    | (extract_lets +onlyGivenNames w;
        refine Framed.cut (n := n) (s0 := s0) w ?a ?b;
        (case' a => dsimp only [w]); (case' b => clear_value w; intro hw))
    | (extract_lets +onlyGivenNames w)
    | dsimp +zetaDelta only
    | ((with_reducible refine Framed.isMk ?_ ?_); rfl)

theorem done_framed {n : Option Nat} {s0 : State} {k s x} (hn : ∀ m, n = some m → m = coreKey k.tile k.core) (hs :
    Framed n s0 s) :
    Framed n s0 (done k s x) := by
  unfold done
  repeat' with_reducible first | assumption | apply State.setCore_framed

theorem readHalf_framed {n : Option Nat} {s0 : State} {r a high v s} (hs : Framed n s0 s) :
    Framed n s0 (readHalf r a high v s).2 := by
  unfold readHalf
  repeat' first
    | with_reducible assumption
    | (extract_lets +onlyGivenNames w)
    | split
    | dsimp only
    | dsimp +zetaDelta only
    | ((with_reducible refine Framed.isMk ?_ ?_); rfl)

theorem coreRead_framed {n : Option Nat} {s0 : State} {r t c off s} (hn : ∀ m, n = some m → m = coreKey t c) (hs :
    Framed n s0 s) :
    Framed n s0 (coreRead r t c off s).2 := by
  unfold coreRead
  repeat' first
    | with_reducible first | assumption | apply readHalf_framed | apply State.setCore_framed
    | (extract_lets +onlyGivenNames w)
    | split

theorem allocRead_framed {n : Option Nat} {s0 : State} {r s} (hs : Framed n s0 s) :
    Framed n s0 (allocRead r s).2 := by
  unfold allocRead
  repeat' first
    | with_reducible first | assumption | apply State.setReg_framed
    | split

theorem setLatches_framed {n : Option Nat} {s0 : State} {s l} (hs : Framed n s0 s) :
    Framed n s0 (setLatches s l) := by
  unfold setLatches
  repeat' first
    | with_reducible assumption
    | (extract_lets +onlyGivenNames w)
    | dsimp +zetaDelta only
    | ((with_reducible refine Framed.isMk ?_ ?_); rfl)

theorem readSec_framed {n : Option Nat} {s0 : State} {r a high v s} (hs : Framed n s0 s) :
    Framed n s0 (readSec r a high v s).2 := by
  unfold readSec
  repeat' first
    | with_reducible first | assumption | apply setLatches_framed | apply readHalf_framed
    | (extract_lets +onlyGivenNames w)
    | split

theorem latchSec_framed {n : Option Nat} {s0 : State} {r sec v s} (hs : Framed n s0 s) :
    Framed n s0 (latchSec r sec v s) := by
  unfold latchSec
  repeat' with_reducible first | assumption | apply setLatches_framed

theorem clearRead_framed {n : Option Nat} {s0 : State} {s b off a k} (hs : Framed n s0 s) :
    Framed n s0 (clearRead s b off a k) := by
  unfold clearRead
  repeat' first
    | with_reducible first | assumption | apply State.setReg_framed
    | split

theorem read32_framed {s0 : State} {r b off a s} (hs : Framed none s0 s) :
    Framed none s0 (read32 r b off a s).2 := by
  unfold read32
  repeat' first
    | with_reducible first | assumption | apply coreRead_framed | apply allocRead_framed | apply readSec_framed
    | with_reducible first | apply readHalf_framed | apply latchSec_framed | apply clearRead_framed
    | with_reducible exact Framed.noKey
    | (extract_lets +onlyGivenNames w;
        refine Framed.cut2 (n := none) (s0 := s0) w ?a ?b;
        (case' a => dsimp only [w]); (case' b => clear_value w; intro hw))
    | (extract_lets +onlyGivenNames w)
    | split

theorem busRead_framed {s0 : State} {r a x2 s} (hs : Framed none s0 s) :
    Framed none s0 (busRead r a x2 s).2 := by
  unfold busRead
  repeat' first
    | with_reducible first | assumption | apply read32_framed | apply busMemRead_framed
    | (extract_lets +onlyGivenNames w;
        refine Framed.cut2 (n := none) (s0 := s0) w ?a ?b;
        (case' a => dsimp only [w]); (case' b => clear_value w; intro hw))
    | split

theorem addJob_framed {n : Option Nat} {s0 : State} {s j} (hs : Framed n s0 s) : Framed n s0 (addJob s j) := by
  unfold addJob
  repeat' first
    | with_reducible assumption
    | (extract_lets +onlyGivenNames w)
    | dsimp +zetaDelta only
    | ((with_reducible refine Framed.isMk ?_ ?_); rfl)

theorem execRte_framed {n : Option Nat} {s0 : State} {k s} (hn : ∀ m, n = some m → m = coreKey k.tile k.core) (hs :
    Framed n s0 s) :
    FOut n s0 (execRte k s) := by
  unfold execRte
  repeat' first
    | with_reducible first | assumption | apply ok_framed | apply issue_framed | apply syncExc_framed
    | with_reducible apply State.setCore_framed
    | intro _
    | (extract_lets +onlyGivenNames w)
    | split

theorem plain_framed {n : Option Nat} {s0 : State} {k fmt takesPrefix f s} (hn : ∀ m, n = some m → m = coreKey k.tile
    k.core) (hs : Framed n s0 s) :
    FOut n s0 (plain k fmt takesPrefix f s) := by
  unfold plain
  repeat' first
    | with_reducible first | assumption | apply ok_framed | apply issue_framed | apply done_framed
    | intro _

theorem execCqtest_framed {n : Option Nat} {s0 : State} {k tag s} (hn : ∀ m, n = some m → m = coreKey k.tile k.core)
    (hs : Framed n s0 s) :
    FOut n s0 (execCqtest k tag s) := by
  unfold execCqtest
  repeat' with_reducible first | assumption | apply plain_framed

theorem vins_framed {n : Option Nat} {s0 : State} {k okForm f s} (hn : ∀ m, n = some m → m = coreKey k.tile k.core)
    (hs : Framed n s0 s) :
    FOut n s0 (vins k okForm f s) := by
  unfold vins
  repeat' first
    | with_reducible first | assumption | apply ok_framed | apply issue_framed | apply done_framed
    | with_reducible apply syncExc_framed
    | intro _
    | (extract_lets +onlyGivenNames w)
    | split

theorem execVfma_framed {n : Option Nat} {s0 : State} {k vd va vb ty s} (hn : ∀ m, n = some m → m = coreKey k.tile
    k.core) (hs : Framed n s0 s) :
    FOut n s0 (execVfma k vd va vb ty s) := by
  unfold execVfma
  repeat' with_reducible first | assumption | apply vins_framed

theorem chargeFlits_framed {n : Option Nat} {s0 : State} {s t c x3} (hs : Framed n s0 s) :
    Framed n s0 (chargeFlits s t c x3) := by
  unfold chargeFlits
  repeat' with_reducible first | assumption | apply settleTokens_framed | apply State.modReg_framed

theorem aluOp_framed {n : Option Nat} {s0 : State} {op fl k gd ga gb f s} (hn : ∀ m, n = some m → m = coreKey k.tile
    k.core) (hs : Framed n s0 s) :
    FOut n s0 (aluOp op fl k gd ga gb f s) := by
  unfold aluOp
  repeat' with_reducible first | assumption | apply plain_framed

theorem execDivu_framed {n : Option Nat} {s0 : State} {k gd ga gb f s} (hn : ∀ m, n = some m → m = coreKey k.tile
    k.core) (hs : Framed n s0 s) :
    FOut n s0 (execDivu k gd ga gb f s) := by
  unfold execDivu
  repeat' with_reducible first | assumption | apply aluOp_framed

theorem execRet_framed {n : Option Nat} {s0 : State} {k s} (hn : ∀ m, n = some m → m = coreKey k.tile k.core) (hs :
    Framed n s0 s) :
    FOut n s0 (execRet k s) := by
  unfold execRet
  repeat' first
    | with_reducible first | assumption | apply ok_framed | apply issue_framed | apply State.setCore_framed
    | intro _

theorem execPopc_framed {n : Option Nat} {s0 : State} {k gd ga s} (hn : ∀ m, n = some m → m = coreKey k.tile k.core)
    (hs : Framed n s0 s) :
    FOut n s0 (execPopc k gd ga s) := by
  unfold execPopc
  repeat' with_reducible first | assumption | apply plain_framed

theorem execDcinv_framed {n : Option Nat} {s0 : State} {k an s} (hn : ∀ m, n = some m → m = coreKey k.tile k.core) (hs
    : Framed n s0 s) :
    FOut n s0 (execDcinv k an s) := by
  unfold execDcinv
  repeat' with_reducible first | assumption | apply plain_framed

theorem vun_framed {n : Option Nat} {s0 : State} {op d okForm k vd va ty mode s} (hn : ∀ m, n = some m → m = coreKey
    k.tile k.core) (hs : Framed n s0 s) :
    FOut n s0 (vun op d okForm k vd va ty mode s) := by
  unfold vun
  repeat' with_reducible first | assumption | apply vins_framed

theorem execVabs_framed {n : Option Nat} {s0 : State} {k vd va ty mode s} (hn : ∀ m, n = some m → m = coreKey k.tile
    k.core) (hs : Framed n s0 s) :
    FOut n s0 (execVabs k vd va ty mode s) := by
  unfold execVabs
  repeat' with_reducible first | assumption | apply vun_framed

theorem execTend_framed {n : Option Nat} {s0 : State} {k s} (hn : ∀ m, n = some m → m = coreKey k.tile k.core) (hs :
    Framed n s0 s) :
    FOut n s0 (execTend k s) := by
  unfold execTend
  repeat' first
    | with_reducible first | assumption | apply ok_framed | apply issue_framed | apply syncExc_framed
    | with_reducible apply State.setCore_framed
    | intro _
    | (extract_lets +onlyGivenNames w)
    | split

theorem vmacOp_framed {n : Option Nat} {s0 : State} {want ps k vd ty mode s} (hn : ∀ m, n = some m → m = coreKey
    k.tile k.core) (hs : Framed n s0 s) :
    FOut n s0 (vmacOp want ps k vd ty mode s) := by
  unfold vmacOp
  repeat' with_reducible first | assumption | apply vins_framed

theorem execVmsuw_framed {n : Option Nat} {s0 : State} {k vd va vb ty mode s} (hn : ∀ m, n = some m → m = coreKey
    k.tile k.core) (hs : Framed n s0 s) :
    FOut n s0 (execVmsuw k vd va vb ty mode s) := by
  unfold execVmsuw
  repeat' with_reducible first | assumption | apply vmacOp_framed

theorem execTst_framed {n : Option Nat} {s0 : State} {k ga gb s} (hn : ∀ m, n = some m → m = coreKey k.tile k.core)
    (hs : Framed n s0 s) :
    FOut n s0 (execTst k ga gb s) := by
  unfold execTst
  repeat' with_reducible first | assumption | apply plain_framed

theorem execVmovg_framed {n : Option Nat} {s0 : State} {k gd va x3 ty s} (hn : ∀ m, n = some m → m = coreKey k.tile
    k.core) (hs : Framed n s0 s) :
    FOut n s0 (execVmovg k gd va x3 ty s) := by
  unfold execVmovg
  repeat' with_reducible first | assumption | apply vins_framed

theorem execCmacj_framed {n : Option Nat} {s0 : State} {k x1 ga gb s} (hn : ∀ m, n = some m → m = coreKey k.tile
    k.core) (hs : Framed n s0 s) :
    FOut n s0 (execCmacj k x1 ga gb s) := by
  unfold execCmacj
  repeat' with_reducible first | assumption | apply plain_framed

theorem execLongPrefix_framed {n : Option Nat} {s0 : State} {k ext s} (hn : ∀ m, n = some m → m = coreKey k.tile
    k.core) (hs : Framed n s0 s) :
    FOut n s0 (execLongPrefix k ext s) := by
  unfold execLongPrefix
  repeat' first
    | with_reducible first | assumption | apply State.setCore_framed | apply issue_framed | apply ok_framed
    | with_reducible first | apply FOut.next | apply FOpt.some_ | exact FOpt.none_ | apply Framed.id_
    | with_reducible first | exact Framed.noKey | apply Framed.foldl | apply Framed.getD | refine Framed.ofPair (by assumption) ?_
    | with_reducible first | refine Framed.ofSome (by assumption) ?_
    | exact hn
    | intro _
    | (extract_lets +onlyGivenNames w;
        refine Framed.cut (n := n) (s0 := s0) w ?a ?b;
        (case' a => dsimp only [w]); (case' b => clear_value w; intro hw))
    | (extract_lets +onlyGivenNames w;
        refine Framed.cut2 (n := n) (s0 := s0) w ?a ?b;
        (case' a => dsimp only [w]); (case' b => clear_value w; intro hw))
    | (extract_lets +onlyGivenNames w)
    | split
    | dsimp only
    | dsimp +zetaDelta only
    | ((with_reducible refine Framed.isMk ?_ ?_); rfl)

theorem loadParity_framed {n : Option Nat} {s0 : State} {p s} (hn : ∀ m, n = some m → m = coreKey p.issue.tile
    p.issue.core) (hs : Framed n s0 s) :
    Framed n s0 (loadParity p s) := by
  unfold loadParity
  repeat' first
    | with_reducible first | assumption | apply State.setCore_framed | apply State.count_framed | apply Framed.foldl
    | intro _
    | (extract_lets +onlyGivenNames w)
    | split

theorem readPart_framed {s0 : State} {t c p s} (hs : Framed none s0 s) :
    Framed none s0 (readPart t c p s).2 := by
  unfold readPart
  repeat' first
    | with_reducible first | assumption | apply busRead_framed | apply State.setCore_framed | exact Framed.noKey
    | (extract_lets +onlyGivenNames w;
        refine Framed.cut2 (n := none) (s0 := s0) w ?a ?b;
        (case' a => dsimp only [w]); (case' b => clear_value w; intro hw))
    | (extract_lets +onlyGivenNames w)
    | split

theorem readParts_framed {s0 : State} {t c gather x3 x4 x5} (hx5 : Framed none s0 x5) :
    Framed none s0 (readParts t c gather x3 x4 x5).2.2 := by
  fun_induction readParts t c gather x3 x4 x5
  all_goals repeat' first
    | with_reducible first | assumption | apply readPart_framed | apply_assumption -exfalso -symm

theorem finishLoad_framed {s0 : State} {p s} (hs : Framed none s0 s) : Framed none s0 (finishLoad p s) := by
  unfold finishLoad
  repeat' first
    | with_reducible first | assumption | apply readParts_framed | apply syncExc_framed | apply done_framed
    | with_reducible exact Framed.noKey
    | (extract_lets +onlyGivenNames w)
    | split

theorem sendLoad_framed {s0 : State} {p s} (hs : Framed none s0 s) : FOpt none s0 (sendLoad p s) := by
  unfold sendLoad
  repeat' first
    | with_reducible first | assumption | apply chargeFlits_framed | apply FOpt.some_ | exact FOpt.none_
    | (extract_lets +onlyGivenNames w)
    | split

theorem startLoad_framed {s0 : State} {p s} (hs : Framed none s0 s) : Framed none s0 (startLoad p s) := by
  unfold startLoad
  repeat' first
    | with_reducible first | assumption | apply loadParity_framed | apply finishLoad_framed
    | with_reducible first | apply State.setCore_framed | apply sendLoad_framed | apply countWait_framed
    | with_reducible first | refine Framed.ofSome (by assumption) ?_ | exact Framed.noKey
    | (extract_lets +onlyGivenNames w;
        refine Framed.cut (n := none) (s0 := s0) w ?a ?b;
        (case' a => dsimp only [w]); (case' b => clear_value w; intro hw))
    | (extract_lets +onlyGivenNames w)
    | split

theorem execLdxy_framed {s0 : State} {k gx gy ax ay mx my s} (hs : Framed none s0 s) :
    FOut none s0 (execLdxy k gx gy ax ay mx my s) := by
  unfold execLdxy
  repeat' first
    | with_reducible first | assumption | apply ok_framed | apply issue_framed | apply syncExc_framed
    | with_reducible first | apply startLoad_framed | exact Framed.noKey
    | intro _
    | (extract_lets +onlyGivenNames w)
    | split

theorem execVcmacjw_framed {n : Option Nat} {s0 : State} {k vd va vb ty mode s} (hn : ∀ m, n = some m → m = coreKey
    k.tile k.core) (hs : Framed n s0 s) :
    FOut n s0 (execVcmacjw k vd va vb ty mode s) := by
  unfold execVcmacjw
  repeat' with_reducible first | assumption | apply vmacOp_framed

theorem fbin_framed {n : Option Nat} {s0 : State} {op k fd fa fb dbl s} (hn : ∀ m, n = some m → m = coreKey k.tile
    k.core) (hs : Framed n s0 s) :
    FOut n s0 (fbin op k fd fa fb dbl s) := by
  unfold fbin
  repeat' with_reducible first | assumption | apply plain_framed

theorem execFmul_framed {n : Option Nat} {s0 : State} {k fd fa fb dbl s} (hn : ∀ m, n = some m → m = coreKey k.tile
    k.core) (hs : Framed n s0 s) :
    FOut n s0 (execFmul k fd fa fb dbl s) := by
  unfold execFmul
  repeat' with_reducible first | assumption | apply fbin_framed

theorem cqIssue_framed {n : Option Nat} {s0 : State} {k op tile x3 kind arrived an ga tag act s} (hn : ∀ m, n = some m
    → m = coreKey k.tile k.core) (hact : ∀ (y0 : State), Framed n s0 y0 → Framed n s0 (act y0)) (hs : Framed n s0 s) :
    Framed n s0 (cqIssue k op tile x3 kind arrived an ga tag act s) := by
  unfold cqIssue
  repeat' first
    | with_reducible first | assumption | apply hact | apply issue_framed | apply syncExc_framed
    | with_reducible apply State.setCore_framed
    | intro _
    | (extract_lets +onlyGivenNames w)
    | split

theorem execAccJob_framed {n : Option Nat} {s0 : State} {k an ga tag target s} (hn : ∀ m, n = some m → m = coreKey
    k.tile k.core) (hs : Framed n s0 s) :
    FOut n s0 (execAccJob k an ga tag target s) := by
  unfold execAccJob
  repeat' first
    | with_reducible first | assumption | apply ok_framed | apply issue_framed | apply syncExc_framed
    | with_reducible first | apply cqIssue_framed | apply Framed.id_
    | intro _
    | split

theorem vcmulOp_framed {n : Option Nat} {s0 : State} {op k vd va vb ty mode s} (hn : ∀ m, n = some m → m = coreKey
    k.tile k.core) (hs : Framed n s0 s) :
    FOut n s0 (vcmulOp op k vd va vb ty mode s) := by
  unfold vcmulOp
  repeat' with_reducible first | assumption | apply vins_framed

theorem execFir4_framed {n : Option Nat} {s0 : State} {k x1 ga gb gc x5 s} (hn : ∀ m, n = some m → m = coreKey k.tile
    k.core) (hs : Framed n s0 s) :
    FOut n s0 (execFir4 k x1 ga gb gc x5 s) := by
  unfold execFir4
  repeat' first
    | with_reducible first | assumption | apply ok_framed | apply issue_framed | apply syncExc_framed
    | with_reducible apply done_framed
    | intro _
    | (extract_lets +onlyGivenNames w)
    | split

theorem execAaddi_framed {n : Option Nat} {s0 : State} {k an imm s} (hn : ∀ m, n = some m → m = coreKey k.tile k.core)
    (hs : Framed n s0 s) :
    FOut n s0 (execAaddi k an imm s) := by
  unfold execAaddi
  repeat' with_reducible first | assumption | apply plain_framed

theorem loadOne_framed {s0 : State} {k a x2 vec dest s} (hs : Framed none s0 s) :
    FOut none s0 (loadOne k a x2 vec dest s) := by
  unfold loadOne
  repeat' first
    | with_reducible first | assumption | apply ok_framed | apply issue_framed | apply syncExc_framed
    | with_reducible first | apply startLoad_framed | exact Framed.noKey
    | intro _
    | (extract_lets +onlyGivenNames w)
    | split

theorem execLda_framed {s0 : State} {k f i a s} (hs : Framed none s0 s) : FOut none s0 (execLda k f i a s) := by
  unfold execLda
  repeat' with_reducible first | assumption | apply loadOne_framed

theorem execJalr_framed {n : Option Nat} {s0 : State} {k an s} (hn : ∀ m, n = some m → m = coreKey k.tile k.core) (hs
    : Framed n s0 s) :
    FOut n s0 (execJalr k an s) := by
  unfold execJalr
  repeat' first
    | with_reducible first | assumption | apply ok_framed | apply issue_framed | apply State.setCore_framed
    | intro _

theorem execStaccC_framed {n : Option Nat} {s0 : State} {k gd x2 rs s} (hn : ∀ m, n = some m → m = coreKey k.tile
    k.core) (hs : Framed n s0 s) :
    FOut n s0 (execStaccC k gd x2 rs s) := by
  unfold execStaccC
  repeat' with_reducible first | assumption | apply plain_framed

theorem execAnd__framed {n : Option Nat} {s0 : State} {k gd ga gb f s} (hn : ∀ m, n = some m → m = coreKey k.tile
    k.core) (hs : Framed n s0 s) :
    FOut n s0 (execAnd_ k gd ga gb f s) := by
  unfold execAnd_
  repeat' with_reducible first | assumption | apply aluOp_framed

theorem execVcmacw_framed {n : Option Nat} {s0 : State} {k vd va vb ty mode s} (hn : ∀ m, n = some m → m = coreKey
    k.tile k.core) (hs : Framed n s0 s) :
    FOut n s0 (execVcmacw k vd va vb ty mode s) := by
  unfold execVcmacw
  repeat' with_reducible first | assumption | apply vmacOp_framed

theorem syncExcNext_framed {n : Option Nat} {s0 : State} {k s e} (hn : ∀ m, n = some m → m = coreKey k.tile k.core)
    (hs : Framed n s0 s) :
    Framed n s0 (syncExcNext k s e) := by
  unfold syncExcNext
  repeat' with_reducible first | assumption | apply takeExc_framed

theorem execQPush_framed {n : Option Nat} {s0 : State} {k an ga tag s} (hn : ∀ m, n = some m → m = coreKey k.tile
    k.core) (hs : Framed n s0 s) :
    FOut n s0 (execQPush k an ga tag s) := by
  unfold execQPush
  repeat' first
    | with_reducible first | assumption | apply ok_framed | apply cqIssue_framed | apply Framed.id_

theorem prefetch_framed {s0 : State} {t c a s} (hs : Framed none s0 s) :
    Framed none s0 (prefetch t c a s) := by
  unfold prefetch
  split
  · with_reducible exact busRead_framed hs
  · split
    · exact hs
    · extract_lets w
      split
      · with_reducible exact readPart_framed (chargeFlits_framed hs)
      · with_reducible exact countWait_framed hs

theorem earlyRead_framed {s0 : State} {t c l s} (hs : Framed none s0 s) :
    Framed none s0 (earlyRead t c l s) := by
  unfold earlyRead
  repeat' first
    | with_reducible first | assumption | apply prefetch_framed | apply ok_framed | apply FOut.next
    | with_reducible first | apply FOpt.some_ | exact FOpt.none_ | apply Framed.id_ | exact Framed.noKey
    | with_reducible first | apply Framed.foldl | apply Framed.getD | refine Framed.ofPair (by assumption) ?_ | refine Framed.ofSome (by assumption) ?_
    | intro _
    | (extract_lets +onlyGivenNames w;
        refine Framed.cut (n := none) (s0 := s0) w ?a ?b;
        (case' a => dsimp only [w]); (case' b => clear_value w; intro hw))
    | (extract_lets +onlyGivenNames w;
        refine Framed.cut2 (n := none) (s0 := s0) w ?a ?b;
        (case' a => dsimp only [w]); (case' b => clear_value w; intro hw))
    | (extract_lets +onlyGivenNames w)
    | split
    | dsimp only
    | dsimp +zetaDelta only
    | ((with_reducible refine Framed.isMk ?_ ?_); rfl)

theorem branch_framed {s0 : State} {k s x taken disp} (hs : Framed none s0 s) :
    Framed none s0 (branch k s x taken disp) := by
  unfold branch
  repeat' first
    | with_reducible first | assumption | apply State.setCore_framed | apply done_framed | apply earlyRead_framed
    | with_reducible first | apply ok_framed | apply FOut.next | apply FOpt.some_ | exact FOpt.none_
    | with_reducible first | apply Framed.id_ | exact Framed.noKey | apply Framed.foldl | apply Framed.getD
    | with_reducible first | refine Framed.ofPair (by assumption) ?_ | refine Framed.ofSome (by assumption) ?_
    | intro _
    | (extract_lets +onlyGivenNames w;
        refine Framed.cut (n := none) (s0 := s0) w ?a ?b;
        (case' a => dsimp only [w]); (case' b => clear_value w; intro hw))
    | (extract_lets +onlyGivenNames w;
        refine Framed.cut2 (n := none) (s0 := s0) w ?a ?b;
        (case' a => dsimp only [w]); (case' b => clear_value w; intro hw))
    | (extract_lets +onlyGivenNames w)
    | split
    | dsimp only
    | dsimp +zetaDelta only
    | ((with_reducible refine Framed.isMk ?_ ?_); rfl)

/-- A branch with nothing guessed after it leaves the other cores alone. -/
theorem branch_framed_alone {n : Option Nat} {s0 : State} {k s x taken disp} (hk : k.shadow = [])
    (hn : ∀ m, n = some m → m = coreKey k.tile k.core) (hs : Framed n s0 s) :
    Framed n s0 (branch k s x taken disp) := by
  unfold branch
  rw [hk]
  simp only [List.take_nil, List.foldl_nil, ite_self]
  split
  · exact State.setCore_framed hn hs
  · exact done_framed hn hs

theorem execDbnz_framed {s0 : State} {k g disp s} (hs : Framed none s0 s) :
    FOut none s0 (execDbnz k g disp s) := by
  unfold execDbnz
  repeat' first
    | with_reducible first | assumption | apply branch_framed | apply issue_framed | apply ok_framed
    | with_reducible first | apply FOut.next | apply FOpt.some_ | exact FOpt.none_ | apply Framed.id_
    | with_reducible first | exact Framed.noKey | apply Framed.foldl | apply Framed.getD | refine Framed.ofPair (by assumption) ?_
    | with_reducible first | refine Framed.ofSome (by assumption) ?_
    | intro _
    | (extract_lets +onlyGivenNames w;
        refine Framed.cut (n := none) (s0 := s0) w ?a ?b;
        (case' a => dsimp only [w]); (case' b => clear_value w; intro hw))
    | (extract_lets +onlyGivenNames w;
        refine Framed.cut2 (n := none) (s0 := s0) w ?a ?b;
        (case' a => dsimp only [w]); (case' b => clear_value w; intro hw))
    | (extract_lets +onlyGivenNames w)
    | split
    | dsimp only
    | dsimp +zetaDelta only
    | ((with_reducible refine Framed.isMk ?_ ?_); rfl)

theorem execClz_framed {n : Option Nat} {s0 : State} {k gd ga s} (hn : ∀ m, n = some m → m = coreKey k.tile k.core)
    (hs : Framed n s0 s) :
    FOut n s0 (execClz k gd ga s) := by
  unfold execClz
  repeat' with_reducible first | assumption | apply plain_framed

theorem execVdup_framed {n : Option Nat} {s0 : State} {k vd ga ty s} (hn : ∀ m, n = some m → m = coreKey k.tile
    k.core) (hs : Framed n s0 s) :
    FOut n s0 (execVdup k vd ga ty s) := by
  unfold execVdup
  repeat' with_reducible first | assumption | apply vins_framed

theorem shiftImm_framed {n : Option Nat} {s0 : State} {op k gd ga sh f s} (hn : ∀ m, n = some m → m = coreKey k.tile
    k.core) (hs : Framed n s0 s) :
    FOut n s0 (shiftImm op k gd ga sh f s) := by
  unfold shiftImm
  repeat' with_reducible first | assumption | apply plain_framed

theorem execShli_framed {n : Option Nat} {s0 : State} {k gd ga sh f s} (hn : ∀ m, n = some m → m = coreKey k.tile
    k.core) (hs : Framed n s0 s) :
    FOut n s0 (execShli k gd ga sh f s) := by
  unfold execShli
  repeat' with_reducible first | assumption | apply shiftImm_framed

theorem binOp_framed {n : Option Nat} {s0 : State} {op k gd ga gb s} (hn : ∀ m, n = some m → m = coreKey k.tile
    k.core) (hs : Framed n s0 s) :
    FOut n s0 (binOp op k gd ga gb s) := by
  unfold binOp
  repeat' with_reducible first | assumption | apply plain_framed

theorem execMax__framed {n : Option Nat} {s0 : State} {k gd ga gb s} (hn : ∀ m, n = some m → m = coreKey k.tile
    k.core) (hs : Framed n s0 s) :
    FOut n s0 (execMax_ k gd ga gb s) := by
  unfold execMax_
  repeat' with_reducible first | assumption | apply binOp_framed

theorem execCall_framed {n : Option Nat} {s0 : State} {k disp s} (hn : ∀ m, n = some m → m = coreKey k.tile k.core)
    (hs : Framed n s0 s) :
    FOut n s0 (execCall k disp s) := by
  unfold execCall
  repeat' first
    | with_reducible first | assumption | apply ok_framed | apply issue_framed | apply State.setCore_framed
    | intro _

theorem execVext_framed {n : Option Nat} {s0 : State} {k vd va x3 ty s} (hn : ∀ m, n = some m → m = coreKey k.tile
    k.core) (hs : Framed n s0 s) :
    FOut n s0 (execVext k vd va x3 ty s) := by
  unfold execVext
  repeat' with_reducible first | assumption | apply vins_framed

theorem execFadd_framed {n : Option Nat} {s0 : State} {k fd fa fb dbl s} (hn : ∀ m, n = some m → m = coreKey k.tile
    k.core) (hs : Framed n s0 s) :
    FOut n s0 (execFadd k fd fa fb dbl s) := by
  unfold execFadd
  repeat' with_reducible first | assumption | apply fbin_framed

theorem execRor_framed {n : Option Nat} {s0 : State} {k gd ga gb f s} (hn : ∀ m, n = some m → m = coreKey k.tile
    k.core) (hs : Framed n s0 s) :
    FOut n s0 (execRor k gd ga gb f s) := by
  unfold execRor
  repeat' with_reducible first | assumption | apply aluOp_framed

theorem execVmacw_framed {n : Option Nat} {s0 : State} {k vd va vb ty mode s} (hn : ∀ m, n = some m → m = coreKey
    k.tile k.core) (hs : Framed n s0 s) :
    FOut n s0 (execVmacw k vd va vb ty mode s) := by
  unfold execVmacw
  repeat' with_reducible first | assumption | apply vmacOp_framed

theorem execOr__framed {n : Option Nat} {s0 : State} {k gd ga gb f s} (hn : ∀ m, n = some m → m = coreKey k.tile
    k.core) (hs : Framed n s0 s) :
    FOut n s0 (execOr_ k gd ga gb f s) := by
  unfold execOr_
  repeat' with_reducible first | assumption | apply aluOp_framed

theorem execMulh_framed {n : Option Nat} {s0 : State} {k gd ga gb s} (hn : ∀ m, n = some m → m = coreKey k.tile
    k.core) (hs : Framed n s0 s) :
    FOut n s0 (execMulh k gd ga gb s) := by
  unfold execMulh
  repeat' with_reducible first | assumption | apply binOp_framed

theorem vbin_framed {n : Option Nat} {s0 : State} {op d okTy k vd va vb ty mode s} (hn : ∀ m, n = some m → m = coreKey
    k.tile k.core) (hs : Framed n s0 s) :
    FOut n s0 (vbin op d okTy k vd va vb ty mode s) := by
  unfold vbin
  repeat' with_reducible first | assumption | apply vins_framed

theorem execVavg_framed {n : Option Nat} {s0 : State} {k vd va vb ty mode s} (hn : ∀ m, n = some m → m = coreKey
    k.tile k.core) (hs : Framed n s0 s) :
    FOut n s0 (execVavg k vd va vb ty mode s) := by
  unfold execVavg
  repeat' with_reducible first | assumption | apply vbin_framed

theorem execAbs__framed {n : Option Nat} {s0 : State} {k gd ga f s} (hn : ∀ m, n = some m → m = coreKey k.tile k.core)
    (hs : Framed n s0 s) :
    FOut n s0 (execAbs_ k gd ga f s) := by
  unfold execAbs_
  repeat' with_reducible first | assumption | apply plain_framed

theorem execAndn_framed {n : Option Nat} {s0 : State} {k gd ga gb f s} (hn : ∀ m, n = some m → m = coreKey k.tile
    k.core) (hs : Framed n s0 s) :
    FOut n s0 (execAndn k gd ga gb f s) := by
  unfold execAndn
  repeat' with_reducible first | assumption | apply aluOp_framed

theorem execVsari_framed {n : Option Nat} {s0 : State} {k vd va sh ty mode s} (hn : ∀ m, n = some m → m = coreKey
    k.tile k.core) (hs : Framed n s0 s) :
    FOut n s0 (execVsari k vd va sh ty mode s) := by
  unfold execVsari
  repeat' with_reducible first | assumption | apply vun_framed

theorem execTterm_framed {n : Option Nat} {s0 : State} {k s} (hn : ∀ m, n = some m → m = coreKey k.tile k.core) (hs :
    Framed n s0 s) :
    FOut n s0 (execTterm k s) := by
  unfold execTterm
  repeat' first
    | with_reducible first | assumption | apply ok_framed | apply issue_framed | apply syncExc_framed
    | with_reducible apply terminate_framed
    | intro _
    | (extract_lets +onlyGivenNames w)
    | split

theorem execDiv__framed {n : Option Nat} {s0 : State} {k gd ga gb f s} (hn : ∀ m, n = some m → m = coreKey k.tile
    k.core) (hs : Framed n s0 s) :
    FOut n s0 (execDiv_ k gd ga gb f s) := by
  unfold execDiv_
  repeat' with_reducible first | assumption | apply plain_framed

theorem execHelper_framed {n : Option Nat} {s0 : State} {k an ga tag s} (hn : ∀ m, n = some m → m = coreKey k.tile
    k.core) (hs : Framed n s0 s) :
    FOut n s0 (execHelper k an ga tag s) := by
  unfold execHelper
  repeat' first
    | with_reducible first | assumption | apply ok_framed | apply cqIssue_framed | apply addJob_framed
    | intro _

theorem execTrap_framed {n : Option Nat} {s0 : State} {k imm s} (hn : ∀ m, n = some m → m = coreKey k.tile k.core) (hs
    : Framed n s0 s) :
    FOut n s0 (execTrap k imm s) := by
  unfold execTrap
  repeat' first
    | with_reducible first | assumption | apply ok_framed | apply issue_framed | apply syncExcNext_framed
    | intro _

theorem execAdd__framed {n : Option Nat} {s0 : State} {k gd ga gb f s} (hn : ∀ m, n = some m → m = coreKey k.tile
    k.core) (hs : Framed n s0 s) :
    FOut n s0 (execAdd_ k gd ga gb f s) := by
  unfold execAdd_
  repeat' with_reducible first | assumption | apply aluOp_framed

theorem vcun_framed {n : Option Nat} {s0 : State} {op k vd va ty mode s} (hn : ∀ m, n = some m → m = coreKey k.tile
    k.core) (hs : Framed n s0 s) :
    FOut n s0 (vcun op k vd va ty mode s) := by
  unfold vcun
  repeat' with_reducible first | assumption | apply vins_framed

theorem execVconj_framed {n : Option Nat} {s0 : State} {k vd va ty mode s} (hn : ∀ m, n = some m → m = coreKey k.tile
    k.core) (hs : Framed n s0 s) :
    FOut n s0 (execVconj k vd va ty mode s) := by
  unfold execVconj
  repeat' with_reducible first | assumption | apply vcun_framed

theorem execJr_framed {n : Option Nat} {s0 : State} {k an s} (hn : ∀ m, n = some m → m = coreKey k.tile k.core) (hs :
    Framed n s0 s) :
    FOut n s0 (execJr k an s) := by
  unfold execJr
  repeat' first
    | with_reducible first | assumption | apply ok_framed | apply issue_framed | apply State.setCore_framed
    | intro _

theorem execVshri_framed {n : Option Nat} {s0 : State} {k vd va sh ty mode s} (hn : ∀ m, n = some m → m = coreKey
    k.tile k.core) (hs : Framed n s0 s) :
    FOut n s0 (execVshri k vd va sh ty mode s) := by
  unfold execVshri
  repeat' with_reducible first | assumption | apply vins_framed

theorem execSari_framed {n : Option Nat} {s0 : State} {k gd ga sh f s} (hn : ∀ m, n = some m → m = coreKey k.tile
    k.core) (hs : Framed n s0 s) :
    FOut n s0 (execSari k gd ga sh f s) := by
  unfold execSari
  repeat' with_reducible first | assumption | apply shiftImm_framed

theorem vbits_framed {n : Option Nat} {s0 : State} {op k vd va vb ty mode s} (hn : ∀ m, n = some m → m = coreKey
    k.tile k.core) (hs : Framed n s0 s) :
    FOut n s0 (vbits op k vd va vb ty mode s) := by
  unfold vbits
  repeat' with_reducible first | assumption | apply vins_framed

theorem execVand_framed {n : Option Nat} {s0 : State} {k vd va vb ty mode s} (hn : ∀ m, n = some m → m = coreKey
    k.tile k.core) (hs : Framed n s0 s) :
    FOut n s0 (execVand k vd va vb ty mode s) := by
  unfold execVand
  repeat' with_reducible first | assumption | apply vbits_framed

theorem execMulhu_framed {n : Option Nat} {s0 : State} {k gd ga gb s} (hn : ∀ m, n = some m → m = coreKey k.tile
    k.core) (hs : Framed n s0 s) :
    FOut n s0 (execMulhu k gd ga gb s) := by
  unfold execMulhu
  repeat' with_reducible first | assumption | apply binOp_framed

theorem execVneg_framed {n : Option Nat} {s0 : State} {k vd va ty mode s} (hn : ∀ m, n = some m → m = coreKey k.tile
    k.core) (hs : Framed n s0 s) :
    FOut n s0 (execVneg k vd va ty mode s) := by
  unfold execVneg
  repeat' with_reducible first | assumption | apply vun_framed

theorem execVld_framed {s0 : State} {k vd a s} (hs : Framed none s0 s) : FOut none s0 (execVld k vd a s) := by
  unfold execVld
  repeat' with_reducible first | assumption | apply loadOne_framed

theorem execStaccRe_framed {n : Option Nat} {s0 : State} {k gd x2 rs s} (hn : ∀ m, n = some m → m = coreKey k.tile
    k.core) (hs : Framed n s0 s) :
    FOut n s0 (execStaccRe k gd x2 rs s) := by
  unfold execStaccRe
  repeat' with_reducible first | assumption | apply plain_framed

theorem execNop_framed {n : Option Nat} {s0 : State} {k s} (hn : ∀ m, n = some m → m = coreKey k.tile k.core) (hs :
    Framed n s0 s) :
    FOut n s0 (execNop k s) := by
  unfold execNop
  repeat' with_reducible first | assumption | apply plain_framed

theorem execVandn_framed {n : Option Nat} {s0 : State} {k vd va vb ty mode s} (hn : ∀ m, n = some m → m = coreKey
    k.tile k.core) (hs : Framed n s0 s) :
    FOut n s0 (execVandn k vd va vb ty mode s) := by
  unfold execVandn
  repeat' with_reducible first | assumption | apply vbits_framed

theorem execVfnarrow_framed {n : Option Nat} {s0 : State} {k vd va ty s} (hn : ∀ m, n = some m → m = coreKey k.tile
    k.core) (hs : Framed n s0 s) :
    FOut n s0 (execVfnarrow k vd va ty s) := by
  unfold execVfnarrow
  repeat' with_reducible first | assumption | apply vins_framed

theorem execJobAbort_framed {n : Option Nat} {s0 : State} {k an ga tag s} (hn : ∀ m, n = some m → m = coreKey k.tile
    k.core) (hs : Framed n s0 s) :
    FOut n s0 (execJobAbort k an ga tag s) := by
  unfold execJobAbort
  repeat' first
    | with_reducible first | assumption | apply ok_framed | apply cqIssue_framed | apply Framed.id_

theorem execXor__framed {n : Option Nat} {s0 : State} {k gd ga gb f s} (hn : ∀ m, n = some m → m = coreKey k.tile
    k.core) (hs : Framed n s0 s) :
    FOut n s0 (execXor_ k gd ga gb f s) := by
  unfold execXor_
  repeat' with_reducible first | assumption | apply aluOp_framed

theorem execOri_framed {n : Option Nat} {s0 : State} {k gd ga imm s} (hn : ∀ m, n = some m → m = coreKey k.tile
    k.core) (hs : Framed n s0 s) :
    FOut n s0 (execOri k gd ga imm s) := by
  unfold execOri
  repeat' with_reducible first | assumption | apply plain_framed

theorem execLd_framed {s0 : State} {k gd a size sx s} (hs : Framed none s0 s) :
    FOut none s0 (execLd k gd a size sx s) := by
  unfold execLd
  repeat' with_reducible first | assumption | apply loadOne_framed

theorem execAccld_framed {n : Option Nat} {s0 : State} {k x1 ga gb s} (hn : ∀ m, n = some m → m = coreKey k.tile
    k.core) (hs : Framed n s0 s) :
    FOut n s0 (execAccld k x1 ga gb s) := by
  unfold execAccld
  repeat' with_reducible first | assumption | apply plain_framed

theorem execFsqrt_framed {n : Option Nat} {s0 : State} {k fd fa dbl s} (hn : ∀ m, n = some m → m = coreKey k.tile
    k.core) (hs : Framed n s0 s) :
    FOut n s0 (execFsqrt k fd fa dbl s) := by
  unfold execFsqrt
  repeat' with_reducible first | assumption | apply plain_framed

theorem execVmin_framed {n : Option Nat} {s0 : State} {k vd va vb ty mode s} (hn : ∀ m, n = some m → m = coreKey
    k.tile k.core) (hs : Framed n s0 s) :
    FOut n s0 (execVmin k vd va vb ty mode s) := by
  unfold execVmin
  repeat' with_reducible first | assumption | apply vins_framed

theorem execVrev_framed {n : Option Nat} {s0 : State} {k vd va ty s} (hn : ∀ m, n = some m → m = coreKey k.tile
    k.core) (hs : Framed n s0 s) :
    FOut n s0 (execVrev k vd va ty s) := by
  unfold execVrev
  repeat' with_reducible first | assumption | apply vins_framed

theorem execVor_framed {n : Option Nat} {s0 : State} {k vd va vb ty mode s} (hn : ∀ m, n = some m → m = coreKey k.tile
    k.core) (hs : Framed n s0 s) :
    FOut n s0 (execVor k vd va vb ty mode s) := by
  unfold execVor
  repeat' with_reducible first | assumption | apply vbits_framed

theorem execAccclr_framed {n : Option Nat} {s0 : State} {k x1 s} (hn : ∀ m, n = some m → m = coreKey k.tile k.core)
    (hs : Framed n s0 s) :
    FOut n s0 (execAccclr k x1 s) := by
  unfold execAccclr
  repeat' with_reducible first | assumption | apply plain_framed

theorem execBCond_framed {s0 : State} {k cond disp s} (hs : Framed none s0 s) :
    FOut none s0 (execBCond k cond disp s) := by
  unfold execBCond
  repeat' first
    | with_reducible first | assumption | apply branch_framed | apply issue_framed | apply syncExc_framed
    | with_reducible first | apply ok_framed | apply FOut.next | apply FOpt.some_ | exact FOpt.none_
    | with_reducible first | apply Framed.id_ | exact Framed.noKey | apply Framed.foldl | apply Framed.getD
    | with_reducible first | refine Framed.ofPair (by assumption) ?_ | refine Framed.ofSome (by assumption) ?_
    | intro _
    | (extract_lets +onlyGivenNames w;
        refine Framed.cut (n := none) (s0 := s0) w ?a ?b;
        (case' a => dsimp only [w]); (case' b => clear_value w; intro hw))
    | (extract_lets +onlyGivenNames w;
        refine Framed.cut2 (n := none) (s0 := s0) w ?a ?b;
        (case' a => dsimp only [w]); (case' b => clear_value w; intro hw))
    | (extract_lets +onlyGivenNames w)
    | split
    | dsimp only
    | dsimp +zetaDelta only
    | ((with_reducible refine Framed.isMk ?_ ?_); rfl)

theorem execXori_framed {n : Option Nat} {s0 : State} {k gd ga imm s} (hn : ∀ m, n = some m → m = coreKey k.tile
    k.core) (hs : Framed n s0 s) :
    FOut n s0 (execXori k gd ga imm s) := by
  unfold execXori
  repeat' with_reducible first | assumption | apply plain_framed

theorem execVfcvti_framed {n : Option Nat} {s0 : State} {k vd va ty s} (hn : ∀ m, n = some m → m = coreKey k.tile
    k.core) (hs : Framed n s0 s) :
    FOut n s0 (execVfcvti k vd va ty s) := by
  unfold execVfcvti
  repeat' with_reducible first | assumption | apply vins_framed

theorem execVfwiden_framed {n : Option Nat} {s0 : State} {k vd va ty s} (hn : ∀ m, n = some m → m = coreKey k.tile
    k.core) (hs : Framed n s0 s) :
    FOut n s0 (execVfwiden k vd va ty s) := by
  unfold execVfwiden
  repeat' with_reducible first | assumption | apply vins_framed

theorem execFma_framed {n : Option Nat} {s0 : State} {k fd fa fb dbl s} (hn : ∀ m, n = some m → m = coreKey k.tile
    k.core) (hs : Framed n s0 s) :
    FOut n s0 (execFma k fd fa fb dbl s) := by
  unfold execFma
  repeat' with_reducible first | assumption | apply plain_framed

theorem execSar_framed {n : Option Nat} {s0 : State} {k gd ga gb f s} (hn : ∀ m, n = some m → m = coreKey k.tile
    k.core) (hs : Framed n s0 s) :
    FOut n s0 (execSar k gd ga gb f s) := by
  unfold execSar
  repeat' with_reducible first | assumption | apply aluOp_framed

theorem execAndi_framed {n : Option Nat} {s0 : State} {k gd ga imm s} (hn : ∀ m, n = some m → m = coreKey k.tile
    k.core) (hs : Framed n s0 s) :
    FOut n s0 (execAndi k gd ga imm s) := by
  unfold execAndi
  repeat' with_reducible first | assumption | apply plain_framed

theorem execVcmulj_framed {n : Option Nat} {s0 : State} {k vd va vb ty mode s} (hn : ∀ m, n = some m → m = coreKey
    k.tile k.core) (hs : Framed n s0 s) :
    FOut n s0 (execVcmulj k vd va vb ty mode s) := by
  unfold execVcmulj
  repeat' with_reducible first | assumption | apply vcmulOp_framed

theorem execFdiv_framed {n : Option Nat} {s0 : State} {k fd fa fb dbl s} (hn : ∀ m, n = some m → m = coreKey k.tile
    k.core) (hs : Framed n s0 s) :
    FOut n s0 (execFdiv k fd fa fb dbl s) := by
  unfold execFdiv
  repeat' with_reducible first | assumption | apply fbin_framed

theorem execMinu_framed {n : Option Nat} {s0 : State} {k gd ga gb s} (hn : ∀ m, n = some m → m = coreKey k.tile
    k.core) (hs : Framed n s0 s) :
    FOut n s0 (execMinu k gd ga gb s) := by
  unfold execMinu
  repeat' with_reducible first | assumption | apply binOp_framed

theorem execVwiden_framed {n : Option Nat} {s0 : State} {k vd va sh ty mode s} (hn : ∀ m, n = some m → m = coreKey
    k.tile k.core) (hs : Framed n s0 s) :
    FOut n s0 (execVwiden k vd va sh ty mode s) := by
  unfold execVwiden
  repeat' with_reducible first | assumption | apply vins_framed

theorem execFmovf_framed {n : Option Nat} {s0 : State} {k fd ga half s} (hn : ∀ m, n = some m → m = coreKey k.tile
    k.core) (hs : Framed n s0 s) :
    FOut n s0 (execFmovf k fd ga half s) := by
  unfold execFmovf
  repeat' with_reducible first | assumption | apply plain_framed

theorem execFcvti_framed {n : Option Nat} {s0 : State} {k gd fa dbl s} (hn : ∀ m, n = some m → m = coreKey k.tile
    k.core) (hs : Framed n s0 s) :
    FOut n s0 (execFcvti k gd fa dbl s) := by
  unfold execFcvti
  repeat' with_reducible first | assumption | apply plain_framed

theorem satOp_framed {n : Option Nat} {s0 : State} {op k gd ga gb s} (hn : ∀ m, n = some m → m = coreKey k.tile
    k.core) (hs : Framed n s0 s) :
    FOut n s0 (satOp op k gd ga gb s) := by
  unfold satOp
  repeat' with_reducible first | assumption | apply plain_framed

theorem execSubs_framed {n : Option Nat} {s0 : State} {k gd ga gb s} (hn : ∀ m, n = some m → m = coreKey k.tile
    k.core) (hs : Framed n s0 s) :
    FOut n s0 (execSubs k gd ga gb s) := by
  unfold execSubs
  repeat' with_reducible first | assumption | apply satOp_framed

theorem vfbin_framed {n : Option Nat} {s0 : State} {op k vd va vb ty s} (hn : ∀ m, n = some m → m = coreKey k.tile
    k.core) (hs : Framed n s0 s) :
    FOut n s0 (vfbin op k vd va vb ty s) := by
  unfold vfbin
  repeat' with_reducible first | assumption | apply vins_framed

theorem execVfsub_framed {n : Option Nat} {s0 : State} {k vd va vb ty s} (hn : ∀ m, n = some m → m = coreKey k.tile
    k.core) (hs : Framed n s0 s) :
    FOut n s0 (execVfsub k vd va vb ty s) := by
  unfold execVfsub
  repeat' with_reducible first | assumption | apply vfbin_framed

theorem execStaccCz_framed {n : Option Nat} {s0 : State} {k gd x2 rs s} (hn : ∀ m, n = some m → m = coreKey k.tile
    k.core) (hs : Framed n s0 s) :
    FOut n s0 (execStaccCz k gd x2 rs s) := by
  unfold execStaccCz
  repeat' with_reducible first | assumption | apply plain_framed

theorem execFcvt_framed {n : Option Nat} {s0 : State} {k fd fa dbl s} (hn : ∀ m, n = some m → m = coreKey k.tile
    k.core) (hs : Framed n s0 s) :
    FOut n s0 (execFcvt k fd fa dbl s) := by
  unfold execFcvt
  repeat' with_reducible first | assumption | apply plain_framed

theorem execVgather_framed {s0 : State} {k vd an va ty scale s} (hs : Framed none s0 s) :
    FOut none s0 (execVgather k vd an va ty scale s) := by
  unfold execVgather
  repeat' first
    | with_reducible first | assumption | apply ok_framed | apply issue_framed | apply syncExc_framed
    | with_reducible first | apply startLoad_framed | exact Framed.noKey
    | intro _
    | (extract_lets +onlyGivenNames w)
    | split

theorem execVsub_framed {n : Option Nat} {s0 : State} {k vd va vb ty mode s} (hn : ∀ m, n = some m → m = coreKey
    k.tile k.core) (hs : Framed n s0 s) :
    FOut n s0 (execVsub k vd va vb ty mode s) := by
  unfold execVsub
  repeat' with_reducible first | assumption | apply vbin_framed

theorem execMin__framed {n : Option Nat} {s0 : State} {k gd ga gb s} (hn : ∀ m, n = some m → m = coreKey k.tile
    k.core) (hs : Framed n s0 s) :
    FOut n s0 (execMin_ k gd ga gb s) := by
  unfold execMin_
  repeat' with_reducible first | assumption | apply binOp_framed

theorem execNeg_framed {n : Option Nat} {s0 : State} {k gd ga f s} (hn : ∀ m, n = some m → m = coreKey k.tile k.core)
    (hs : Framed n s0 s) :
    FOut n s0 (execNeg k gd ga f s) := by
  unfold execNeg
  repeat' with_reducible first | assumption | apply plain_framed

theorem execVrotj_framed {n : Option Nat} {s0 : State} {k vd va ty mode s} (hn : ∀ m, n = some m → m = coreKey k.tile
    k.core) (hs : Framed n s0 s) :
    FOut n s0 (execVrotj k vd va ty mode s) := by
  unfold execVrotj
  repeat' with_reducible first | assumption | apply vcun_framed

theorem execVins_framed {n : Option Nat} {s0 : State} {k vd ga x3 ty s} (hn : ∀ m, n = some m → m = coreKey k.tile
    k.core) (hs : Framed n s0 s) :
    FOut n s0 (execVins k vd ga x3 ty s) := by
  unfold execVins
  repeat' with_reducible first | assumption | apply vins_framed

theorem execFmin_framed {n : Option Nat} {s0 : State} {k fd fa fb dbl s} (hn : ∀ m, n = some m → m = coreKey k.tile
    k.core) (hs : Framed n s0 s) :
    FOut n s0 (execFmin k fd fa fb dbl s) := by
  unfold execFmin
  repeat' with_reducible first | assumption | apply fbin_framed

theorem execMovc_framed {n : Option Nat} {s0 : State} {k toReg g creg s} (hn : ∀ m, n = some m → m = coreKey k.tile
    k.core) (hs : Framed n s0 s) :
    FOut n s0 (execMovc k toReg g creg s) := by
  unfold execMovc
  repeat' first
    | with_reducible first | assumption | apply ok_framed | apply issue_framed | apply syncExc_framed
    | with_reducible first | apply coreWrite_framed | apply done_framed | apply coreRead_framed
    | intro _
    | (extract_lets +onlyGivenNames w;
        refine Framed.cut (n := n) (s0 := s0) w ?a ?b;
        (case' a => dsimp only [w]); (case' b => clear_value w; intro hw))
    | (extract_lets +onlyGivenNames w)
    | split

theorem execAddi_framed {n : Option Nat} {s0 : State} {k gd ga imm s} (hn : ∀ m, n = some m → m = coreKey k.tile
    k.core) (hs : Framed n s0 s) :
    FOut n s0 (execAddi k gd ga imm s) := by
  unfold execAddi
  repeat' with_reducible first | assumption | apply plain_framed

theorem execVrsumw_framed {n : Option Nat} {s0 : State} {k vd va ty mode s} (hn : ∀ m, n = some m → m = coreKey k.tile
    k.core) (hs : Framed n s0 s) :
    FOut n s0 (execVrsumw k vd va ty mode s) := by
  unfold execVrsumw
  repeat' with_reducible first | assumption | apply vins_framed

theorem execVnarrow_framed {n : Option Nat} {s0 : State} {k vd va sh ty mode s} (hn : ∀ m, n = some m → m = coreKey
    k.tile k.core) (hs : Framed n s0 s) :
    FOut n s0 (execVnarrow k vd va sh ty mode s) := by
  unfold execVnarrow
  repeat' with_reducible first | assumption | apply vins_framed

theorem vcmp_framed {n : Option Nat} {s0 : State} {p okForm k vd va vb ty s} (hn : ∀ m, n = some m → m = coreKey
    k.tile k.core) (hs : Framed n s0 s) :
    FOut n s0 (vcmp p okForm k vd va vb ty s) := by
  unfold vcmp
  repeat' with_reducible first | assumption | apply vins_framed

theorem execVcmpeq_framed {n : Option Nat} {s0 : State} {k vd va vb ty mode s} (hn : ∀ m, n = some m → m = coreKey
    k.tile k.core) (hs : Framed n s0 s) :
    FOut n s0 (execVcmpeq k vd va vb ty mode s) := by
  unfold execVcmpeq
  repeat' with_reducible first | assumption | apply vcmp_framed

theorem execFcmpg_framed {n : Option Nat} {s0 : State} {k gd fa fb dbl s} (hn : ∀ m, n = some m → m = coreKey k.tile
    k.core) (hs : Framed n s0 s) :
    FOut n s0 (execFcmpg k gd fa fb dbl s) := by
  unfold execFcmpg
  repeat' with_reducible first | assumption | apply plain_framed

theorem execVmul_framed {n : Option Nat} {s0 : State} {k vd va vb ty mode s} (hn : ∀ m, n = some m → m = coreKey
    k.tile k.core) (hs : Framed n s0 s) :
    FOut n s0 (execVmul k vd va vb ty mode s) := by
  unfold execVmul
  repeat' with_reducible first | assumption | apply vbin_framed

theorem execVcmul_framed {n : Option Nat} {s0 : State} {k vd va vb ty mode s} (hn : ∀ m, n = some m → m = coreKey
    k.tile k.core) (hs : Framed n s0 s) :
    FOut n s0 (execVcmul k vd va vb ty mode s) := by
  unfold execVcmul
  repeat' with_reducible first | assumption | apply vcmulOp_framed

theorem execCqstat_framed {n : Option Nat} {s0 : State} {k gd half s} (hn : ∀ m, n = some m → m = coreKey k.tile
    k.core) (hs : Framed n s0 s) :
    FOut n s0 (execCqstat k gd half s) := by
  unfold execCqstat
  repeat' with_reducible first | assumption | apply plain_framed

theorem execVshli_framed {n : Option Nat} {s0 : State} {k vd va sh ty mode s} (hn : ∀ m, n = some m → m = coreKey
    k.tile k.core) (hs : Framed n s0 s) :
    FOut n s0 (execVshli k vd va sh ty mode s) := by
  unfold execVshli
  repeat' with_reducible first | assumption | apply vun_framed

theorem execCmp_framed {n : Option Nat} {s0 : State} {k ga gb s} (hn : ∀ m, n = some m → m = coreKey k.tile k.core)
    (hs : Framed n s0 s) :
    FOut n s0 (execCmp k ga gb s) := by
  unfold execCmp
  repeat' with_reducible first | assumption | apply plain_framed

theorem execVxor_framed {n : Option Nat} {s0 : State} {k vd va vb ty mode s} (hn : ∀ m, n = some m → m = coreKey
    k.tile k.core) (hs : Framed n s0 s) :
    FOut n s0 (execVxor k vd va vb ty mode s) := by
  unfold execVxor
  repeat' with_reducible first | assumption | apply vbits_framed

theorem execShr_framed {n : Option Nat} {s0 : State} {k gd ga gb f s} (hn : ∀ m, n = some m → m = coreKey k.tile
    k.core) (hs : Framed n s0 s) :
    FOut n s0 (execShr k gd ga gb f s) := by
  unfold execShr
  repeat' with_reducible first | assumption | apply aluOp_framed

theorem execVfmul_framed {n : Option Nat} {s0 : State} {k vd va vb ty s} (hn : ∀ m, n = some m → m = coreKey k.tile
    k.core) (hs : Framed n s0 s) :
    FOut n s0 (execVfmul k vd va vb ty s) := by
  unfold execVfmul
  repeat' with_reducible first | assumption | apply vfbin_framed

theorem execFsub_framed {n : Option Nat} {s0 : State} {k fd fa fb dbl s} (hn : ∀ m, n = some m → m = coreKey k.tile
    k.core) (hs : Framed n s0 s) :
    FOut n s0 (execFsub k fd fa fb dbl s) := by
  unfold execFsub
  repeat' with_reducible first | assumption | apply fbin_framed

theorem execMul_framed {n : Option Nat} {s0 : State} {k gd ga gb s} (hn : ∀ m, n = some m → m = coreKey k.tile k.core)
    (hs : Framed n s0 s) :
    FOut n s0 (execMul k gd ga gb s) := by
  unfold execMul
  repeat' with_reducible first | assumption | apply binOp_framed

theorem execCmac_framed {n : Option Nat} {s0 : State} {k x1 ga gb s} (hn : ∀ m, n = some m → m = coreKey k.tile
    k.core) (hs : Framed n s0 s) :
    FOut n s0 (execCmac k x1 ga gb s) := by
  unfold execCmac
  repeat' with_reducible first | assumption | apply plain_framed

theorem execIcinv_framed {n : Option Nat} {s0 : State} {k s} (hn : ∀ m, n = some m → m = coreKey k.tile k.core) (hs :
    Framed n s0 s) :
    FOut n s0 (execIcinv k s) := by
  unfold execIcinv
  repeat' with_reducible first | assumption | apply plain_framed

theorem execVfadd_framed {n : Option Nat} {s0 : State} {k vd va vb ty s} (hn : ∀ m, n = some m → m = coreKey k.tile
    k.core) (hs : Framed n s0 s) :
    FOut n s0 (execVfadd k vd va vb ty s) := by
  unfold execVfadd
  repeat' with_reducible first | assumption | apply vfbin_framed

theorem execVfcvtf_framed {n : Option Nat} {s0 : State} {k vd va ty s} (hn : ∀ m, n = some m → m = coreKey k.tile
    k.core) (hs : Framed n s0 s) :
    FOut n s0 (execVfcvtf k vd va ty s) := by
  unfold execVfcvtf
  repeat' with_reducible first | assumption | apply vins_framed

theorem execVmulhr_framed {n : Option Nat} {s0 : State} {k vd va vb ty mode s} (hn : ∀ m, n = some m → m = coreKey
    k.tile k.core) (hs : Framed n s0 s) :
    FOut n s0 (execVmulhr k vd va vb ty mode s) := by
  unfold execVmulhr
  repeat' with_reducible first | assumption | apply vbin_framed

theorem execRori_framed {n : Option Nat} {s0 : State} {k gd ga sh f s} (hn : ∀ m, n = some m → m = coreKey k.tile
    k.core) (hs : Framed n s0 s) :
    FOut n s0 (execRori k gd ga sh f s) := by
  unfold execRori
  repeat' with_reducible first | assumption | apply shiftImm_framed

theorem execAccadd_framed {n : Option Nat} {s0 : State} {k x1 x2 s} (hn : ∀ m, n = some m → m = coreKey k.tile k.core)
    (hs : Framed n s0 s) :
    FOut n s0 (execAccadd k x1 x2 s) := by
  unfold execAccadd
  repeat' with_reducible first | assumption | apply plain_framed

theorem execVcmplt_framed {n : Option Nat} {s0 : State} {k vd va vb ty mode s} (hn : ∀ m, n = some m → m = coreKey
    k.tile k.core) (hs : Framed n s0 s) :
    FOut n s0 (execVcmplt k vd va vb ty mode s) := by
  unfold execVcmplt
  repeat' with_reducible first | assumption | apply vcmp_framed

theorem execSel_framed {n : Option Nat} {s0 : State} {k gd ga gb s} (hn : ∀ m, n = some m → m = coreKey k.tile k.core)
    (hs : Framed n s0 s) :
    FOut n s0 (execSel k gd ga gb s) := by
  unfold execSel
  repeat' with_reducible first | assumption | apply plain_framed

theorem execBrev_framed {n : Option Nat} {s0 : State} {k gd ga s} (hn : ∀ m, n = some m → m = coreKey k.tile k.core)
    (hs : Framed n s0 s) :
    FOut n s0 (execBrev k gd ga s) := by
  unfold execBrev
  repeat' with_reducible first | assumption | apply plain_framed

theorem execVcmsuw_framed {n : Option Nat} {s0 : State} {k vd va vb ty mode s} (hn : ∀ m, n = some m → m = coreKey
    k.tile k.core) (hs : Framed n s0 s) :
    FOut n s0 (execVcmsuw k vd va vb ty mode s) := by
  unfold execVcmsuw
  repeat' with_reducible first | assumption | apply vmacOp_framed

theorem execMovhi_framed {n : Option Nat} {s0 : State} {k gd imm s} (hn : ∀ m, n = some m → m = coreKey k.tile k.core)
    (hs : Framed n s0 s) :
    FOut n s0 (execMovhi k gd imm s) := by
  unfold execMovhi
  repeat' with_reducible first | assumption | apply plain_framed

theorem execVpermx_framed {n : Option Nat} {s0 : State} {k vd va vb ty s} (hn : ∀ m, n = some m → m = coreKey k.tile
    k.core) (hs : Framed n s0 s) :
    FOut n s0 (execVpermx k vd va vb ty s) := by
  unfold execVpermx
  repeat' with_reducible first | assumption | apply vins_framed

theorem execMaxu_framed {n : Option Nat} {s0 : State} {k gd ga gb s} (hn : ∀ m, n = some m → m = coreKey k.tile
    k.core) (hs : Framed n s0 s) :
    FOut n s0 (execMaxu k gd ga gb s) := by
  unfold execMaxu
  repeat' with_reducible first | assumption | apply binOp_framed

theorem execMovx_framed {n : Option Nat} {s0 : State} {k dst di src si half s} (hn : ∀ m, n = some m → m = coreKey
    k.tile k.core) (hs : Framed n s0 s) :
    FOut n s0 (execMovx k dst di src si half s) := by
  unfold execMovx
  repeat' first
    | with_reducible first | assumption | apply ok_framed | apply issue_framed | apply done_framed
    | with_reducible apply syncExc_framed
    | intro _
    | (extract_lets +onlyGivenNames w)
    | split

theorem execIllegal_framed {n : Option Nat} {s0 : State} {k s} (hn : ∀ m, n = some m → m = coreKey k.tile k.core) (hs
    : Framed n s0 s) :
    FOut n s0 (execIllegal k s) := by
  unfold execIllegal
  repeat' first
    | with_reducible first | assumption | apply ok_framed | apply issue_framed | apply syncExc_framed
    | intro _

theorem execCmul_framed {n : Option Nat} {s0 : State} {k x1 ga gb s} (hn : ∀ m, n = some m → m = coreKey k.tile
    k.core) (hs : Framed n s0 s) :
    FOut n s0 (execCmul k x1 ga gb s) := by
  unfold execCmul
  repeat' with_reducible first | assumption | apply plain_framed

theorem execWait_framed {n : Option Nat} {s0 : State} {k s} (hn : ∀ m, n = some m → m = coreKey k.tile k.core) (hs :
    Framed n s0 s) :
    FOut n s0 (execWait k s) := by
  unfold execWait
  repeat' first
    | with_reducible first | assumption | apply ok_framed | apply issue_framed | apply done_framed
    | with_reducible apply State.setCore_framed
    | intro _
    | (extract_lets +onlyGivenNames w)
    | split

theorem execCmpi_framed {n : Option Nat} {s0 : State} {k ga imm s} (hn : ∀ m, n = some m → m = coreKey k.tile k.core)
    (hs : Framed n s0 s) :
    FOut n s0 (execCmpi k ga imm s) := by
  unfold execCmpi
  repeat' with_reducible first | assumption | apply plain_framed

theorem execQPop_framed {n : Option Nat} {s0 : State} {k an ga tag s} (hn : ∀ m, n = some m → m = coreKey k.tile
    k.core) (hs : Framed n s0 s) :
    FOut n s0 (execQPop k an ga tag s) := by
  unfold execQPop
  repeat' first
    | with_reducible first | assumption | apply ok_framed | apply cqIssue_framed | apply Framed.id_

theorem execVsel_framed {n : Option Nat} {s0 : State} {k vd va vb ty mode s} (hn : ∀ m, n = some m → m = coreKey
    k.tile k.core) (hs : Framed n s0 s) :
    FOut n s0 (execVsel k vd va vb ty mode s) := by
  unfold execVsel
  repeat' with_reducible first | assumption | apply vins_framed

theorem execFcvtf_framed {n : Option Nat} {s0 : State} {k fd ga dbl s} (hn : ∀ m, n = some m → m = coreKey k.tile
    k.core) (hs : Framed n s0 s) :
    FOut n s0 (execFcvtf k fd ga dbl s) := by
  unfold execFcvtf
  repeat' with_reducible first | assumption | apply plain_framed

theorem execVadd_framed {n : Option Nat} {s0 : State} {k vd va vb ty mode s} (hn : ∀ m, n = some m → m = coreKey
    k.tile k.core) (hs : Framed n s0 s) :
    FOut n s0 (execVadd k vd va vb ty mode s) := by
  unfold execVadd
  repeat' with_reducible first | assumption | apply vbin_framed

theorem execSub__framed {n : Option Nat} {s0 : State} {k gd ga gb f s} (hn : ∀ m, n = some m → m = coreKey k.tile
    k.core) (hs : Framed n s0 s) :
    FOut n s0 (execSub_ k gd ga gb f s) := by
  unfold execSub_
  repeat' with_reducible first | assumption | apply aluOp_framed

theorem execFmovg_framed {n : Option Nat} {s0 : State} {k gd fa half s} (hn : ∀ m, n = some m → m = coreKey k.tile
    k.core) (hs : Framed n s0 s) :
    FOut n s0 (execFmovg k gd fa half s) := by
  unfold execFmovg
  repeat' with_reducible first | assumption | apply plain_framed

theorem execShl_framed {n : Option Nat} {s0 : State} {k gd ga gb f s} (hn : ∀ m, n = some m → m = coreKey k.tile
    k.core) (hs : Framed n s0 s) :
    FOut n s0 (execShl k gd ga gb f s) := by
  unfold execShl
  repeat' with_reducible first | assumption | apply aluOp_framed

theorem execFmax_framed {n : Option Nat} {s0 : State} {k fd fa fb dbl s} (hn : ∀ m, n = some m → m = coreKey k.tile
    k.core) (hs : Framed n s0 s) :
    FOut n s0 (execFmax k fd fa fb dbl s) := by
  unfold execFmax
  repeat' with_reducible first | assumption | apply fbin_framed

theorem execAdds_framed {n : Option Nat} {s0 : State} {k gd ga gb s} (hn : ∀ m, n = some m → m = coreKey k.tile
    k.core) (hs : Framed n s0 s) :
    FOut n s0 (execAdds k gd ga gb s) := by
  unfold execAdds
  repeat' with_reducible first | assumption | apply satOp_framed

theorem execVfmax_framed {n : Option Nat} {s0 : State} {k vd va vb ty s} (hn : ∀ m, n = some m → m = coreKey k.tile
    k.core) (hs : Framed n s0 s) :
    FOut n s0 (execVfmax k vd va vb ty s) := by
  unfold execVfmax
  repeat' with_reducible first | assumption | apply vfbin_framed

theorem execFence_framed {n : Option Nat} {s0 : State} {k s} (hn : ∀ m, n = some m → m = coreKey k.tile k.core) (hs :
    Framed n s0 s) :
    FOut n s0 (execFence k s) := by
  unfold execFence
  repeat' first
    | with_reducible first | assumption | apply ok_framed | apply issue_framed | apply done_framed
    | intro _
    | (extract_lets +onlyGivenNames w)
    | split

theorem execRep_framed {n : Option Nat} {s0 : State} {k x1 s} (hn : ∀ m, n = some m → m = coreKey k.tile k.core) (hs :
    Framed n s0 s) :
    FOut n s0 (execRep k x1 s) := by
  unfold execRep
  repeat' first
    | with_reducible first | assumption | apply State.setCore_framed | apply issue_framed | apply syncExc_framed
    | with_reducible first | apply ok_framed | apply FOut.next | apply FOpt.some_ | exact FOpt.none_
    | with_reducible first | apply Framed.id_ | exact Framed.noKey | apply Framed.foldl | apply Framed.getD
    | with_reducible first | refine Framed.ofPair (by assumption) ?_ | refine Framed.ofSome (by assumption) ?_
    | exact hn
    | intro _
    | (extract_lets +onlyGivenNames w;
        refine Framed.cut (n := n) (s0 := s0) w ?a ?b;
        (case' a => dsimp only [w]); (case' b => clear_value w; intro hw))
    | (extract_lets +onlyGivenNames w;
        refine Framed.cut2 (n := n) (s0 := s0) w ?a ?b;
        (case' a => dsimp only [w]); (case' b => clear_value w; intro hw))
    | (extract_lets +onlyGivenNames w)
    | split
    | dsimp only
    | dsimp +zetaDelta only
    | ((with_reducible refine Framed.isMk ?_ ?_); rfl)

theorem execVfmin_framed {n : Option Nat} {s0 : State} {k vd va vb ty s} (hn : ∀ m, n = some m → m = coreKey k.tile
    k.core) (hs : Framed n s0 s) :
    FOut n s0 (execVfmin k vd va vb ty s) := by
  unfold execVfmin
  repeat' with_reducible first | assumption | apply vfbin_framed

theorem execCmsu_framed {n : Option Nat} {s0 : State} {k x1 ga gb s} (hn : ∀ m, n = some m → m = coreKey k.tile
    k.core) (hs : Framed n s0 s) :
    FOut n s0 (execCmsu k x1 ga gb s) := by
  unfold execCmsu
  repeat' with_reducible first | assumption | apply plain_framed

theorem execVmax_framed {n : Option Nat} {s0 : State} {k vd va vb ty mode s} (hn : ∀ m, n = some m → m = coreKey
    k.tile k.core) (hs : Framed n s0 s) :
    FOut n s0 (execVmax k vd va vb ty mode s) := by
  unfold execVmax
  repeat' with_reducible first | assumption | apply vins_framed

theorem execBreak__framed {n : Option Nat} {s0 : State} {k s} (hn : ∀ m, n = some m → m = coreKey k.tile k.core) (hs :
    Framed n s0 s) :
    FOut n s0 (execBreak_ k s) := by
  unfold execBreak_
  repeat' first
    | with_reducible first | assumption | apply ok_framed | apply issue_framed | apply syncExcNext_framed
    | intro _

theorem execVcmacws_framed {n : Option Nat} {s0 : State} {k vd va vb ty mode s} (hn : ∀ m, n = some m → m = coreKey
    k.tile k.core) (hs : Framed n s0 s) :
    FOut n s0 (execVcmacws k vd va vb ty mode s) := by
  unfold execVcmacws
  repeat' with_reducible first | assumption | apply vmacOp_framed

theorem execDcinvall_framed {n : Option Nat} {s0 : State} {k s} (hn : ∀ m, n = some m → m = coreKey k.tile k.core) (hs
    : Framed n s0 s) :
    FOut n s0 (execDcinvall k s) := by
  unfold execDcinvall
  repeat' with_reducible first | assumption | apply plain_framed

theorem execShri_framed {n : Option Nat} {s0 : State} {k gd ga sh f s} (hn : ∀ m, n = some m → m = coreKey k.tile
    k.core) (hs : Framed n s0 s) :
    FOut n s0 (execShri k gd ga sh f s) := by
  unfold execShri
  repeat' with_reducible first | assumption | apply shiftImm_framed

theorem execStaccIm_framed {n : Option Nat} {s0 : State} {k gd x2 rs s} (hn : ∀ m, n = some m → m = coreKey k.tile
    k.core) (hs : Framed n s0 s) :
    FOut n s0 (execStaccIm k gd x2 rs s) := by
  unfold execStaccIm
  repeat' with_reducible first | assumption | apply plain_framed

end Sys2Proof.Machine
end

