-- ==== Sys2Proof/Laws/Memory.lean ====
section
/-! SUPPORT. Memory: its operations keep the canonical form, and a byte written reads back while every other stands. -/

namespace Sys2Proof.Machine

theorem cellsAbove_mono {m : List Host.Cell} {lo hi : Option Nat} (h : cellsAbove hi m = true)
    (hl : ∀ a, lo = some a → ∃ b, hi = some b ∧ a ≤ b) : cellsAbove lo m = true := by
  cases m with
  | nil => rfl
  | cons x m =>
    obtain ⟨j, b⟩ := x
    cases lo with
    | none => cases hi <;> simp_all [cellsAbove]
    | some a => obtain ⟨c, rfl, hc⟩ := hl a rfl; simp_all [cellsAbove]; omega

theorem cellSet_above {m : List Host.Cell} {lo : Option Nat} {a : Nat} {b : Byte} (h : cellsAbove lo m = true)
    (ha : ∀ l, lo = some l → l < a) : cellsAbove lo (cellSet a b m) = true := by
  induction m generalizing lo with
  | nil => unfold cellSet; split <;> cases lo <;> simp_all [cellsAbove]
  | cons x m ih =>
    obtain ⟨j, c⟩ := x
    have h2 : cellsAbove (some j) m = true := by cases lo <;> simp_all [cellsAbove]
    have h1 : c ≠ 0#8 := by cases lo <;> simp_all [cellsAbove]
    have h3 : ∀ l, lo = some l → l < j := by cases lo <;> simp_all [cellsAbove]
    unfold cellSet
    split
    · split
      · exact h
      · cases lo <;> simp_all [cellsAbove]
    · split
      · next hj hk =>
        subst hk
        split
        · exact cellsAbove_mono h2 fun l e => ⟨_, rfl, Nat.le_of_lt (h3 l e)⟩
        · cases lo <;> simp_all [cellsAbove]
      · have := ih h2 (by intro l e; cases e; omega)
        cases lo <;> simp_all [cellsAbove]

theorem cellSet_wf {m : List Host.Cell} (a : Nat) (b : Byte) (h : Memory.wf m = true) : Memory.wf (cellSet a b m) = true :=
  cellSet_above h (by intro l e; cases e)

theorem cellsPut_wf (bs : List Byte) (a : Nat) {m : List Host.Cell} (h : Memory.wf m = true) :
    Memory.wf (cellsPut a bs m) = true := by
  induction bs generalizing a m with
  | nil => exact h
  | cons b bs ih => exact ih (a + 1) (cellSet_wf a b h)

theorem filter_above (f : Host.Cell → Bool) {m : List Host.Cell} {lo : Option Nat} (h : cellsAbove lo m = true) :
    cellsAbove lo (m.filter f) = true := by
  induction m generalizing lo with
  | nil => rfl
  | cons x m ih =>
    obtain ⟨j, c⟩ := x
    have h2 : cellsAbove (some j) m = true := by cases lo <;> simp_all [cellsAbove]
    have h3 : ∀ l, lo = some l → l < j := by cases lo <;> simp_all [cellsAbove]
    rw [List.filter_cons]
    split
    · cases lo <;> simp_all [cellsAbove]
    · exact ih (cellsAbove_mono h2 fun l e => ⟨_, rfl, Nat.le_of_lt (h3 l e)⟩)

/-- Memory that loses a region (a stack that comes up, a bank that lost its contents, a reset) stays canonical. -/
theorem filter_wf (f : Host.Cell → Bool) {m : List Host.Cell} (h : Memory.wf m = true) : Memory.wf (m.filter f) = true :=
  filter_above f h

/-- Memory at reset is canonical. -/
theorem reset_wf : Memory.wf State.reset.mem.cells = true := rfl

/-- The single writer of memory keeps the canonical form. -/
theorem State.putBytes_wf {s : State} (a : Nat) (bs : List Byte) (h : Memory.wf s.mem.cells = true) :
    Memory.wf (s.putBytes a bs).mem.cells = true := cellsPut_wf bs a h

/-- An address below every listed one reads 0. -/
theorem cellGet_above {m : List Host.Cell} {a : Nat} (h : cellsAbove (some a) m = true) : cellGet a m = 0#8 := by
  induction m with
  | nil => rfl
  | cons x m ih =>
    obtain ⟨j, c⟩ := x
    simp only [cellsAbove, Bool.and_eq_true, decide_eq_true_eq] at h
    have hj : ¬ j = a := by omega
    simp only [cellGet, hj, if_false]
    exact ih (cellsAbove_mono h.2 fun l e => ⟨j, rfl, by cases e; omega⟩)

theorem cellGet_cellSet_other {m : List Host.Cell} {a c : Nat} (b : Byte) (h : c ≠ a) :
    cellGet c (cellSet a b m) = cellGet c m := by
  induction m with
  | nil => unfold cellSet; split <;> simp [cellGet, Ne.symm h]
  | cons x m ih =>
    obtain ⟨j, d⟩ := x
    unfold cellSet
    split
    · split <;> simp [cellGet, Ne.symm h]
    · split
      · next hk => subst hk; split <;> simp [cellGet, Ne.symm h]
      · simp [cellGet, ih]

theorem cellGet_cellSet_same {m : List Host.Cell} {lo : Option Nat} (a : Nat) (b : Byte) (h : cellsAbove lo m = true) :
    cellGet a (cellSet a b m) = b := by
  induction m generalizing lo with
  | nil => unfold cellSet; split <;> simp_all [cellGet]
  | cons x m ih =>
    obtain ⟨j, d⟩ := x
    have h2 : cellsAbove (some j) m = true := by cases lo <;> simp_all [cellsAbove]
    unfold cellSet
    split
    · next hj =>
      split
      · next hb =>
        have hja : ¬ j = a := by omega
        simp only [cellGet, hja, if_false, hb]
        exact cellGet_above (cellsAbove_mono h2 fun l e => ⟨j, rfl, by cases e; omega⟩)
      · simp [cellGet]
    · split
      · next hj hk =>
        subst hk
        split
        · next hb => rw [hb]; exact cellGet_above h2
        · simp [cellGet]
      · next hj hk => simp [cellGet, Ne.symm hk, ih h2]

theorem cellGet_cellsPut_other {bs : List Byte} {a c : Nat} {m : List Host.Cell} (h : c < a ∨ a + bs.length ≤ c) :
    cellGet c (cellsPut a bs m) = cellGet c m := by
  induction bs generalizing a m with
  | nil => rfl
  | cons b bs ih =>
    simp only [List.length_cons] at h
    unfold cellsPut
    rw [ih (by omega), cellGet_cellSet_other b (by omega)]

theorem cellGet_cellsPut_same {bs : List Byte} {a i : Nat} {m : List Host.Cell} (h : Memory.wf m = true) (hi : i < bs.length) :
    cellGet (a + i) (cellsPut a bs m) = bs[i] := by
  induction bs generalizing a i m with
  | nil => cases hi
  | cons b bs ih =>
    unfold cellsPut
    cases i with
    | zero => rw [cellGet_cellsPut_other (by omega)]; exact cellGet_cellSet_same a b h
    | succ i =>
      have := ih (a := a + 1) (i := i) (cellSet_wf a b h) (by simpa using hi)
      rw [show a + (i + 1) = a + 1 + i by omega, this]
      rfl

/-- Bytes stored elsewhere leave a byte as it was. -/
theorem State.byte_putBytes_other {s : State} {a c : Nat} {bs : List Byte} (h : c < a ∨ a + bs.length ≤ c) :
    (s.putBytes a bs).byte c = s.byte c := cellGet_cellsPut_other h

/-- Bytes stored into canonical memory read back. -/
theorem State.bytes_putBytes {s : State} {a : Nat} {bs : List Byte} (h : Memory.wf s.mem.cells = true) :
    (s.putBytes a bs).bytes a bs.length = bs := by
  unfold State.bytes
  apply List.ext_getElem
  · simp
  · intro i h1 h2
    simp only [List.getElem_map, List.getElem_range]
    exact cellGet_cellsPut_same h h2

end Sys2Proof.Machine
end

