-- ==== Sys2Proof/Laws/Keeps.lean ====
section
/-! SUPPORT. What every command keeps. -/

namespace Sys2Proof.Machine

/-- What a command that starts in `s` and gives `t` keeps: nothing is undone, and every part of `Inv` that held holds. -/
structure Keeps (s t : State) : Prop extends NothingUndone s t where
  mem : Memory.wf s.mem.cells = true → Memory.wf t.mem.cells = true
  events : EventsKept s.tcs → EventsKept t.tcs
  debug : (s.boot.sealed = true → s.boot.debugNow = 2) → (t.boot.sealed = true → t.boot.debugNow = 2)
  meas : s.boot.meas.length = 16 → t.boot.meas.length = 16

/-- The invariant passes along. -/
theorem Keeps.inv {s t : State} (h : Keeps s t) (i : Inv s) : Inv t :=
  ⟨h.mem i.1, h.events i.2.1, h.debug i.2.2.1, h.meas i.2.2.2⟩

theorem NothingUndone.refl (s : State) : NothingUndone s s :=
  ⟨rfl, rfl, id, fun _ x a b => ⟨x, a, rfl, b, id⟩, Nat.le_refl _, Nat.le_refl _, List.prefix_refl _, List.prefix_refl _⟩

theorem Keeps.refl (s : State) : Keeps s s := ⟨NothingUndone.refl s, id, id, id, id⟩

theorem NothingUndone.trans {a b c : State} (h : NothingUndone a b) (g : NothingUndone b c) : NothingUndone a c := by
  refine ⟨g.part.trans h.part, g.pending.trans h.pending, g.sealed_ ∘ h.sealed_, fun k x e n => ?_,
    Nat.le_trans h.version g.version, Nat.le_trans h.jseq g.jseq, h.out.trans g.out, h.lines.trans g.lines⟩
  obtain ⟨y, e1, p1, n1, r1⟩ := h.keys k x e n
  obtain ⟨z, e2, p2, n2, r2⟩ := g.keys k y e1 n1
  exact ⟨z, e2, p2.trans p1, n2, r2 ∘ r1⟩

theorem Keeps.trans {a b c : State} (h : Keeps a b) (g : Keeps b c) : Keeps a c :=
  ⟨h.toNothingUndone.trans g.toNothingUndone, g.mem ∘ h.mem, g.events ∘ h.events, g.debug ∘ h.debug, g.meas ∘ h.meas⟩

/-- The fields that `Keeps` speaks of, but for the configuration and the queue. -/
def keptFields (m : MemState) (t : Tcs) (b : Boot) (st : Storage) (o : List OutMsg) (l : List DevOut) :=
  (m.cells, (t.events, t.evseq), (b.sealed, b.debugNow, b.keys, b.svMin, b.meas), st.jNext, o, l)

/-- A state written field by field from `s` with those fields as they were. -/
theorem Keeps.isMk {s0 s : State} {now' regs' mem' noc' cor' peers' tcs' out' clk' boot' stor' lines' runs' ruTrims' corStored' islands' dsq' cores' acc' dma' eg' time' lanes' fh' spur' fab' power' pins' fresh'}
    (e : keptFields mem' tcs' boot' stor' out' lines' = keptFields s.mem s.tcs s.boot s.stor s.out s.lines)
    (h : Keeps s0 s) : Keeps s0 (State.mk s.part now' regs' mem' noc' cor' peers' tcs' out' clk' boot' stor' lines' runs' ruTrims' corStored' islands' dsq' cores' acc' dma' eg' time' lanes' fh' spur' fab' power' pins' fresh' s.pending) := by
  simp only [keptFields, Prod.mk.injEq] at e
  obtain ⟨e1, ⟨e2, e3⟩, ⟨e4, e5, e6, e7, e8⟩, e9, e10, e11⟩ := e
  refine h.trans ⟨⟨rfl, rfl, ?_, ?_, ?_, ?_, ?_, ?_⟩, ?_, ?_, ?_, ?_⟩
  · dsimp only; rw [e4]; exact id
  · intro k x a n; refine ⟨x, ?_, rfl, n, id⟩; dsimp only; rw [e6]; exact a
  · dsimp only; rw [e7]
  · dsimp only; rw [e9]
  · dsimp only; rw [e10]
  · dsimp only; rw [e11]
  · dsimp only; rw [e1]; exact id
  · unfold EventsKept; dsimp only; rw [e2, e3]; exact id
  · dsimp only; rw [e4, e5]; exact id
  · dsimp only; rw [e8]; exact id

/-- A change of the bring-up state that keeps what `Keeps` asks of it. -/
theorem boot_keeps {s0 s : State} {f : Boot → Boot} (h : Keeps s0 s)
    (e1 : (s.boot.sealed = true → s.boot.debugNow = 2) → (f s.boot).sealed = true → (f s.boot).debugNow = 2)
    (e2 : s.boot.sealed = true → (f s.boot).sealed = true) (e3 : ∀ k x, mget k s.boot.keys = some x → x.st ≠ .empty →
      ∃ y, mget k (f s.boot).keys = some y ∧ y.pubkey = x.pubkey ∧ y.st ≠ .empty ∧ (x.st = .revoked → y.st = .revoked))
    (e4 : s.boot.svMin ≤ (f s.boot).svMin) (e5 : (f s.boot).meas = s.boot.meas) : Keeps s0 (s.modBoot f) :=
  h.trans ⟨⟨rfl, rfl, e2, e3, e4, Nat.le_refl _, List.prefix_refl _, List.prefix_refl _⟩, id, id, e1,
    fun x => by show (f s.boot).meas.length = 16; rw [e5]; exact x⟩

/-- An outcome is a next state that keeps what it must. -/
def KOut (s0 : State) (o : Host.Outcome State Fault Refusal) : Prop :=
  match o with
  | .next t => Keeps s0 t
  | _ => False

/-- So for a state that may be there. -/
def KOpt (s0 : State) (o : Option State) : Prop :=
  match o with
  | some t => Keeps s0 t
  | none => True

/-- So for a transition and its state. -/
def KTrans (s0 : State) (o : Option (Trans × State)) : Prop :=
  match o with
  | some (_, t) => Keeps s0 t
  | none => True

/-- So for a reply or a state. -/
def KSum (s0 : State) (o : Reply ⊕ State) : Prop :=
  match o with
  | .inl r => Keeps s0 r.state
  | .inr t => Keeps s0 t

/-- So for an acceptance. -/
def KAcc (s0 : State) (o : Accept) : Prop :=
  match o with
  | .done t => Keeps s0 t
  | .go t => Keeps s0 t

theorem KOut.next {s0 s : State} (h : Keeps s0 s) : KOut s0 (.next s) := h
theorem ok_keeps {s0 s : State} (h : Keeps s0 s) : KOut s0 (ok s) := KOut.next h
theorem KOpt.some_ {s0 s : State} (h : Keeps s0 s) : KOpt s0 (some s) := h
theorem KOpt.none_ {s0 : State} : KOpt s0 none := trivial
theorem KTrans.some_ {s0 s : State} {x : Trans} (h : Keeps s0 s) : KTrans s0 (some (x, s)) := h
theorem KTrans.none_ {s0 : State} : KTrans s0 none := trivial
theorem KSum.inl_ {s0 : State} {r : Reply} (h : Keeps s0 r.state) : KSum s0 (.inl r) := h
theorem KSum.inr_ {s0 t : State} (h : Keeps s0 t) : KSum s0 (.inr t) := h
theorem KAcc.done_ {s0 t : State} (h : Keeps s0 t) : KAcc s0 (.done t) := h
theorem KAcc.go_ {s0 t : State} (h : Keeps s0 t) : KAcc s0 (.go t) := h

theorem getD_keeps {s0 s : State} {o : Option State} (g : KOpt s0 o) (h : Keeps s0 s) : Keeps s0 (o.getD s) := by
  cases o with
  | none => exact h
  | some t => exact g
theorem Keeps.ofOut {s0 t : State} {o : Host.Outcome State Fault Refusal} (e : o = .next t) (h : KOut s0 o) : Keeps s0 t := by
  rw [e] at h; exact h
theorem Keeps.mk2 {α} {s0 t : State} {a : α} (h : Keeps s0 t) : Keeps s0 (a, t).2 := h
theorem Keeps.ofPair {α} {s0 t : State} {a : α} {p : α × State} (e : p = (a, t)) (h : Keeps s0 p.2) : Keeps s0 t := by
  rw [e] at h; exact h
theorem Keeps.ofPair3 {α β} {s0 t : State} {a : α} {b : β} {p : α × β × State} (e : p = (a, b, t)) (h : Keeps s0 p.2.2) : Keeps s0 t := by
  rw [e] at h; exact h
theorem Keeps.ofPair4 {α β γ} {s0 t : State} {a : α} {b : β} {c : γ} {p : α × β × γ × State} (e : p = (a, b, c, t))
    (h : Keeps s0 p.2.2.2) : Keeps s0 t := by
  rw [e] at h; exact h
theorem Keeps.ofSome {s0 t : State} {o : Option State} (e : o = some t) (h : KOpt s0 o) : Keeps s0 t := by
  rw [e] at h; exact h
theorem Keeps.ofTrans {s0 t : State} {x} {o : Option (Trans × State)} (e : o = some (x, t)) (h : KTrans s0 o) : Keeps s0 t := by
  rw [e] at h; exact h
theorem Keeps.ofInl {s0 : State} {r : Reply} {o : Reply ⊕ State} (e : o = .inl r) (h : KSum s0 o) : Keeps s0 r.state := by
  rw [e] at h; exact h
theorem Keeps.ofInr {s0 t : State} {o : Reply ⊕ State} (e : o = .inr t) (h : KSum s0 o) : Keeps s0 t := by
  rw [e] at h; exact h
theorem Keeps.ofDone {s0 t : State} {o : Accept} (e : o = .done t) (h : KAcc s0 o) : Keeps s0 t := by
  rw [e] at h; exact h
theorem Keeps.ofGo {s0 t : State} {o : Accept} (e : o = .go t) (h : KAcc s0 o) : Keeps s0 t := by
  rw [e] at h; exact h

theorem Keeps.cut {s0 : State} {G : Prop} (x : State) (h : Keeps s0 x) (g : Keeps s0 x → G) : G := g h
theorem Keeps.cut2 {α} {s0 : State} {G : Prop} (x : α × State) (h : Keeps s0 x.2) (g : Keeps s0 x.2 → G) : G := g h
theorem Keeps.cut3 {α β} {s0 : State} {G : Prop} (x : α × β × State) (h : Keeps s0 x.2.2) (g : Keeps s0 x.2.2 → G) : G := g h
theorem Keeps.cut4 {α β γ} {s0 : State} {G : Prop} (x : α × β × γ × State) (h : Keeps s0 x.2.2.2)
    (g : Keeps s0 x.2.2.2 → G) : G := g h
theorem Keeps.cut1 {α} {s0 : State} {G : Prop} (x : State × α) (h : Keeps s0 x.1) (g : Keeps s0 x.1 → G) : G := g h
theorem Keeps.cutF {s0 : State} {G : Prop} (x : State → State) (h : ∀ t, Keeps s0 t → Keeps s0 (x t))
    (g : (∀ t, Keeps s0 t → Keeps s0 (x t)) → G) : G := g h
theorem Keeps.cutF2 {α} {s0 : State} {G : Prop} (x : α → State → State) (h : ∀ a t, Keeps s0 t → Keeps s0 (x a t))
    (g : (∀ a t, Keeps s0 t → Keeps s0 (x a t)) → G) : G := g h
theorem Keeps.cutF3 {α} {s0 : State} {G : Prop} (x : State → α → State) (h : ∀ t a, Keeps s0 t → Keeps s0 (x t a))
    (g : (∀ t a, Keeps s0 t → Keeps s0 (x t a)) → G) : G := g h
theorem Keeps.cutR {s0 : State} {G : Prop} (x : Reply) (h : Keeps s0 x.state) (g : Keeps s0 x.state → G) : G := g h
theorem Keeps.cutO {s0 : State} {G : Prop} (x : Option State) (h : KOpt s0 x) (g : KOpt s0 x → G) : G := g h
theorem Keeps.cutS {s0 : State} {G : Prop} (x : Reply ⊕ State) (h : KSum s0 x) (g : KSum s0 x → G) : G := g h
theorem Keeps.cutA {s0 : State} {G : Prop} (x : Accept) (h : KAcc s0 x) (g : KAcc s0 x → G) : G := g h

theorem Keeps.foldl {α} {s0 : State} {f : State → α → State} (l : List α) {s : State} (h : Keeps s0 s)
    (hf : ∀ s a, Keeps s0 s → Keeps s0 (f s a)) : Keeps s0 (l.foldl f s) := by
  induction l generalizing s with
  | nil => exact h
  | cons a l ih => exact ih (hf s a h)
theorem Keeps.foldl2 {α β} {s0 : State} {f : β × State → α → β × State} (l : List α) {s : β × State} (h : Keeps s0 s.2)
    (hf : ∀ s a, Keeps s0 s.2 → Keeps s0 (f s a).2) : Keeps s0 (l.foldl f s).2 := by
  induction l generalizing s with
  | nil => exact h
  | cons a l ih => exact ih (hf s a h)
theorem Keeps.foldl1 {α β} {s0 : State} {f : State × β → α → State × β} (l : List α) {s : State × β} (h : Keeps s0 s.1)
    (hf : ∀ s a, Keeps s0 s.1 → Keeps s0 (f s a).1) : Keeps s0 (l.foldl f s).1 := by
  induction l generalizing s with
  | nil => exact h
  | cons a l ih => exact ih (hf s a h)

theorem State.putBytes_keeps {s0 s : State} {a : Nat} {bs : List Byte} (h : Keeps s0 s) : Keeps s0 (s.putBytes a bs) :=
  h.trans ⟨⟨rfl, rfl, id, fun _ x a b => ⟨x, a, rfl, b, id⟩, Nat.le_refl _, Nat.le_refl _, List.prefix_refl _,
    List.prefix_refl _⟩, cellsPut_wf bs a, id, id, id⟩

theorem events_drop {l : List EventRec} {e : EventRec} {q cap : Nat} (h2 : l.length < q)
    (h3 : l.map EventRec.evseq = List.range' (q - l.length) l.length) (he : e.evseq = q) (m : List EventRec)
    (hm : m = (l ++ [e]).drop ((l ++ [e]).length - cap)) :
    m.length ≤ cap ∧ m.length < q + 1 ∧ m.map EventRec.evseq = List.range' (q + 1 - m.length) m.length := by
  have h4 : (l ++ [e]).map EventRec.evseq = List.range' (q - l.length) (l.length + 1) := by
    rw [List.map_append, h3, List.range'_concat, List.map_singleton, he, Nat.one_mul, Nat.sub_add_cancel (Nat.le_of_lt h2)]
  have hl : m.length = l.length + 1 - (l.length + 1 - cap) := by
    rw [hm, List.length_drop, List.length_append, List.length_singleton]
  have hx : m.map EventRec.evseq = List.range' (q - l.length + (l.length + 1 - cap)) (l.length + 1 - (l.length + 1 - cap)) := by
    rw [hm, List.map_drop, h4, List.drop_range', List.length_append, List.length_singleton, Nat.mul_one]
  refine ⟨by omega, by omega, ?_⟩
  rw [hx, ← hl]
  have : q - l.length + (l.length + 1 - cap) = q + 1 - m.length := by omega
  rw [this]

theorem events_put {s0 s : State} {e : EventRec} (h : Keeps s0 s) (he : e.evseq = s.tcs.evseq) (m : List EventRec)
    (hm : m = (s.tcs.events ++ [e]).drop ((s.tcs.events ++ [e]).length - 4096)) :
    Keeps s0 { s with tcs := { s.tcs with evseq := s.tcs.evseq + 1, events := m } } :=
  h.trans ⟨⟨rfl, rfl, id, fun _ x a b => ⟨x, a, rfl, b, id⟩, Nat.le_refl _, Nat.le_refl _, List.prefix_refl _,
    List.prefix_refl _⟩, id, fun g => events_drop g.2.1 g.2.2 he m hm, id, id⟩

theorem stage_keeps {s0 s : State} {n : Nat} (h : Keeps s0 s) : Keeps s0 (s.modBoot fun b => { b with stage := n }) :=
  boot_keeps h id id (fun _ x a b => ⟨x, a, rfl, b, id⟩) (Nat.le_refl _) rfl

theorem lupd_length {α : Type} (l : List α) (i : Nat) (f : α → α) : (lupd l i f).length = l.length := by
  simp [lupd]

end Sys2Proof.Machine
end

