-- ==== Sys2Proof/Laws/Keeps01.lean ====
section
/-! SUPPORT. Each shared operation and each command keeps what `Keeps` says (part 1 of 10, in the order in which
they use one another). -/

namespace Sys2Proof.Machine

theorem State.stat_keeps {s0 : State} {s p n} (h0 : Keeps s0 s) : Keeps s0 (State.stat s p n) := by
  unfold State.stat
  repeat' first
    | with_reducible assumption
    | (extract_lets +onlyGivenNames w)
    | dsimp +zetaDelta only
    | ((with_reducible refine Keeps.isMk ?_ ?_); rfl)

theorem State.send_keeps {s0 : State} {x0 x1} (h0 : Keeps s0 x0) : Keeps s0 (State.send x0 x1) :=
  h0.trans ⟨⟨rfl, rfl, id, fun _ x a b => ⟨x, a, rfl, b, id⟩, Nat.le_refl _, Nat.le_refl _, ⟨_, rfl⟩, List.prefix_refl _⟩, id, id, id, id⟩

theorem State.ack_keeps {s0 : State} {s opcode m} (h0 : Keeps s0 s) : Keeps s0 (State.ack s opcode m) := by
  unfold State.ack
  repeat' with_reducible first | assumption | apply State.send_keeps

theorem State.setSess_keeps {s0 : State} {s p x} (h0 : Keeps s0 s) : Keeps s0 (State.setSess s p x) := by
  unfold State.setSess
  repeat' first
    | with_reducible assumption
    | (extract_lets +onlyGivenNames w)
    | dsimp +zetaDelta only
    | ((with_reducible refine Keeps.isMk ?_ ?_); rfl)

theorem State.setPeer_keeps {s0 : State} {s k p} (h0 : Keeps s0 s) : Keeps s0 (State.setPeer s k p) := by
  unfold State.setPeer
  repeat' first
    | with_reducible assumption
    | ((with_reducible refine Keeps.isMk ?_ ?_); rfl)

theorem State.setMark_keeps {s0 : State} {s cw m} (h0 : Keeps s0 s) : Keeps s0 (State.setMark s cw m) := by
  unfold State.setMark
  repeat' first
    | with_reducible assumption
    | (extract_lets +onlyGivenNames w)
    | split
    | dsimp +zetaDelta only
    | ((with_reducible refine Keeps.isMk ?_ ?_); rfl)

theorem State.setReg_keeps {s0 : State} {s a x2} (h0 : Keeps s0 s) : Keeps s0 (State.setReg s a x2) := by
  unfold State.setReg
  repeat' first
    | with_reducible assumption
    | (extract_lets +onlyGivenNames w)
    | dsimp +zetaDelta only
    | ((with_reducible refine Keeps.isMk ?_ ?_); rfl)

theorem State.modReg_keeps {s0 : State} {s a f} (h0 : Keeps s0 s) : Keeps s0 (State.modReg s a f) := by
  unfold State.modReg
  repeat' with_reducible first | assumption | apply State.setReg_keeps

theorem State.setField_keeps {s0 : State} {s a x2 lo v} (h0 : Keeps s0 s) :
    Keeps s0 (State.setField s a x2 lo v) := by
  unfold State.setField
  repeat' with_reducible first | assumption | apply State.modReg_keeps

theorem injectOn_keeps {s0 : State} {pl cw s} (h2 : Keeps s0 s) : Keeps s0 (injectOn pl cw s) := by
  unfold injectOn
  repeat' first
    | with_reducible first | assumption | apply State.setMark_keeps | apply State.setField_keeps
    | (extract_lets +onlyGivenNames w)
    | split

theorem seenAdd_keeps {s0 : State} {s t cw pl synd scrub} (h0 : Keeps s0 s) :
    Keeps s0 (seenAdd s t cw pl synd scrub) := by
  unfold seenAdd
  repeat' first
    | with_reducible assumption
    | (extract_lets +onlyGivenNames w)
    | split
    | dsimp +zetaDelta only
    | ((with_reducible refine Keeps.isMk ?_ ?_); rfl)

theorem State.setReg64_keeps {s0 : State} {s a d} (h0 : Keeps s0 s) : Keeps s0 (State.setReg64 s a d) := by
  unfold State.setReg64
  repeat' with_reducible first | assumption | apply State.setReg_keeps

theorem clogFill_keeps {s0 : State} {s t n cw ue kind r synd} (h0 : Keeps s0 s) :
    Keeps s0 (clogFill s t n cw ue kind r synd) := by
  unfold clogFill
  repeat' with_reducible first | assumption | apply State.setReg64_keeps | apply State.setReg_keeps

theorem State.orReg_keeps {s0 : State} {s a i} (h0 : Keeps s0 s) : Keeps s0 (State.orReg s a i) := by
  unfold State.orReg
  repeat' with_reducible first | assumption | apply State.modReg_keeps

theorem State.count_keeps {s0 : State} {s a n} (h0 : Keeps s0 s) : Keeps s0 (State.count s a n) := by
  unfold State.count
  repeat' with_reducible first | assumption | apply State.modReg_keeps

theorem clogAdd_keeps {s0 : State} {s t cw ue kind r synd} (h0 : Keeps s0 s) :
    Keeps s0 (clogAdd s t cw ue kind r synd) := by
  unfold clogAdd
  repeat' first
    | with_reducible first | assumption | apply State.modReg_keeps | apply clogFill_keeps | apply State.orReg_keeps
    | with_reducible apply State.count_keeps
    | split

theorem countCE_keeps {s0 : State} {s t pl} (h0 : Keeps s0 s) : Keeps s0 (countCE s t pl) := by
  unfold countCE
  repeat' first
    | with_reducible first | assumption | apply State.orReg_keeps | apply State.count_keeps
    | split

theorem noteCE_keeps {s0 : State} {r pl cw pos s} (h4 : Keeps s0 s) : Keeps s0 (noteCE r pl cw pos s) := by
  unfold noteCE
  repeat' first
    | with_reducible first | assumption | apply seenAdd_keeps | apply clogAdd_keeps | apply countCE_keeps

theorem countPoisonWr_keeps {s0 : State} {s t pl} (h0 : Keeps s0 s) : Keeps s0 (countPoisonWr s t pl) := by
  unfold countPoisonWr
  repeat' first
    | with_reducible first | assumption | apply State.count_keeps
    | split

theorem countUE_keeps {s0 : State} {s t pl} (h0 : Keeps s0 s) : Keeps s0 (countUE s t pl) := by
  unfold countUE
  repeat' first
    | with_reducible first | assumption | apply State.orReg_keeps | apply State.count_keeps
    | split

theorem writeCode_keeps {s0 : State} {r pl a n cw s} (h5 : Keeps s0 s) : Keeps s0 (writeCode r pl a n cw s) := by
  unfold writeCode
  repeat' first
    | with_reducible first | assumption | apply injectOn_keeps | apply State.setMark_keeps | apply noteCE_keeps
    | with_reducible first | apply clogAdd_keeps | apply countPoisonWr_keeps | apply countUE_keeps
    | (extract_lets +onlyGivenNames w;
        refine Keeps.cut (s0 := s0) w ?a ?b;
        (case' a => dsimp only [w]); (case' b => clear_value w; intro hw))
    | (extract_lets +onlyGivenNames w)
    | split
    | dsimp +zetaDelta only
    | ((with_reducible refine Keeps.isMk ?_ ?_); rfl)

theorem writeCodes_keeps {s0 : State} {r pl a n x4 x5} (h5 : Keeps s0 x5) : Keeps s0 (writeCodes r pl a n x4 x5) := by
  fun_induction writeCodes r pl a n x4 x5
  all_goals repeat' first
    | with_reducible first | assumption | apply writeCode_keeps | apply_assumption -exfalso -symm

theorem memWrite_keeps {s0 : State} {r pl a bs s} (h4 : Keeps s0 s) : Keeps s0 (memWrite r pl a bs s) := by
  unfold memWrite
  repeat' with_reducible first | assumption | apply State.putBytes_keeps | apply writeCodes_keeps

theorem writeOnchip_keeps {s0 : State} {n o s} (h2 : Keeps s0 s) : Keeps s0 (writeOnchip n o s) := by
  unfold writeOnchip
  repeat' first
    | with_reducible first | assumption | apply memWrite_keeps
    | (extract_lets +onlyGivenNames w;
        refine Keeps.cut (s0 := s0) w ?a ?b;
        (case' a => dsimp only [w]); (case' b => clear_value w; intro hw))
    | (extract_lets +onlyGivenNames w)
    | dsimp +zetaDelta only
    | ((with_reducible refine Keeps.isMk ?_ ?_); rfl)

theorem deliver_keeps {s0 : State} {m o s} (h2 : Keeps s0 s) : Keeps s0 (deliver m o s) := by
  unfold deliver
  repeat' first
    | with_reducible first | assumption | apply State.send_keeps | apply State.setSess_keeps
    | with_reducible first | apply State.setPeer_keeps | apply writeOnchip_keeps
    | (extract_lets +onlyGivenNames w;
        refine Keeps.cut (s0 := s0) w ?a ?b;
        (case' a => dsimp only [w]); (case' b => clear_value w; intro hw))
    | (extract_lets +onlyGivenNames w)
    | split

theorem State.respond_keeps {s0 : State} {s opcode m st payload crit} (h0 : Keeps s0 s) :
    Keeps s0 (State.respond s opcode m st payload crit) := by
  unfold State.respond
  repeat' with_reducible first | assumption | apply deliver_keeps

theorem screened_keeps {s0 : State} {op m critWant bare s} (h4 : Keeps s0 s) : KAcc s0 (screened op m critWant bare s)
    := by
  unfold screened
  repeat' first
    | with_reducible first | assumption | apply State.respond_keeps | apply KAcc.done_ | apply KAcc.go_
    | split

theorem acceptAuth_keeps {s0 : State} {op m critWant p s} (h4 : Keeps s0 s) :
    KAcc s0 (acceptAuth op m critWant p s) := by
  unfold acceptAuth
  repeat' first
    | with_reducible first | assumption | apply State.send_keeps | apply State.stat_keeps | apply State.ack_keeps
    | with_reducible first | apply State.setSess_keeps | apply State.respond_keeps | apply screened_keeps
    | with_reducible apply KAcc.done_
    | (extract_lets +onlyGivenNames w;
        refine Keeps.cut (s0 := s0) w ?a ?b;
        (case' a => dsimp only [w]); (case' b => clear_value w; intro hw))
    | (extract_lets +onlyGivenNames w)
    | split

theorem acceptOnchip_keeps {s0 : State} {op m critWant n s} (h4 : Keeps s0 s) :
    KAcc s0 (acceptOnchip op m critWant n s) := by
  unfold acceptOnchip
  repeat' first
    | with_reducible first | assumption | apply State.respond_keeps | apply screened_keeps | apply KAcc.done_
    | (extract_lets +onlyGivenNames w;
        refine Keeps.cut (s0 := s0) w ?a ?b;
        (case' a => dsimp only [w]); (case' b => clear_value w; intro hw))
    | (extract_lets +onlyGivenNames w)
    | split
    | dsimp +zetaDelta only
    | ((with_reducible refine Keeps.isMk ?_ ?_); rfl)

theorem peerDrop_keeps {s0 : State} {n s} (h1 : Keeps s0 s) : Keeps s0 (peerDrop n s) := by
  unfold peerDrop
  repeat' first
    | with_reducible first | assumption | apply State.stat_keeps | apply ok_keeps
    | intro _
    | (extract_lets +onlyGivenNames w)
    | split

theorem freeMbx_keeps {s0 : State} {s key} (h0 : Keeps s0 s) : Keeps s0 (freeMbx s key) := by
  unfold freeMbx
  repeat' first
    | with_reducible assumption
    | (extract_lets +onlyGivenNames w)
    | dsimp +zetaDelta only
    | ((with_reducible refine Keeps.isMk ?_ ?_); rfl)

theorem finishSettings_keeps {s0 : State} {s key e} (h0 : Keeps s0 s) : Keeps s0 (finishSettings s key e) := by
  unfold finishSettings
  repeat' first
    | with_reducible first | assumption | apply freeMbx_keeps | apply deliver_keeps
    | (extract_lets +onlyGivenNames w;
        refine Keeps.cut (s0 := s0) w ?a ?b;
        (case' a => dsimp only [w]); (case' b => clear_value w; intro hw))
    | split

theorem setMbx_keeps {s0 : State} {s key e} (h0 : Keeps s0 s) : Keeps s0 (setMbx s key e) := by
  unfold setMbx
  repeat' first
    | with_reducible assumption
    | (extract_lets +onlyGivenNames w)
    | dsimp +zetaDelta only
    | ((with_reducible refine Keeps.isMk ?_ ?_); rfl)

theorem makeRec_keeps {s0 : State} {x0 x1 x2 x3 x4} (h0 : Keeps s0 x0) : Keeps s0 (makeRec x0 x1 x2 x3 x4).2 := by
  refine Keeps.trans h0 ?_
  unfold makeRec
  exact ⟨⟨rfl, rfl, id, fun _ x a b => ⟨x, a, rfl, b, id⟩, Nat.le_refl _, Nat.le_succ _, List.prefix_refl _, List.prefix_refl _⟩, id, id, id, id⟩

theorem stageRec_keeps {s0 : State} {s r} (h0 : Keeps s0 s) : Keeps s0 (stageRec s r) := by
  unfold stageRec
  repeat' first
    | with_reducible assumption
    | (extract_lets +onlyGivenNames w)
    | dsimp +zetaDelta only
    | ((with_reducible refine Keeps.isMk ?_ ?_); rfl)

theorem stageLost_keeps {s0 : State} {s} (h0 : Keeps s0 s) : Keeps s0 (stageLost s) := by
  unfold stageLost
  repeat' first
    | with_reducible first | assumption | apply makeRec_keeps | apply stageRec_keeps
    | (extract_lets +onlyGivenNames w;
        refine Keeps.cut2 (s0 := s0) w ?a ?b;
        (case' a => dsimp only [w]); (case' b => clear_value w; intro hw))
    | (extract_lets +onlyGivenNames w)
    | split
    | dsimp +zetaDelta only
    | ((with_reducible refine Keeps.isMk ?_ ?_); rfl)

theorem bufferPut_keeps {s0 : State} {s r} (h0 : Keeps s0 s) : Keeps s0 (bufferPut s r) := by
  unfold bufferPut
  repeat' first
    | with_reducible first | assumption | apply State.setField_keeps
    | (extract_lets +onlyGivenNames w)
    | dsimp +zetaDelta only
    | ((with_reducible refine Keeps.isMk ?_ ?_); rfl)

theorem loseRec_keeps {s0 : State} {s r} (h0 : Keeps s0 s) : Keeps s0 (loseRec s r) := by
  unfold loseRec
  repeat' first
    | with_reducible first | assumption | apply State.orReg_keeps | apply State.count_keeps
    | (extract_lets +onlyGivenNames w;
        refine Keeps.cut (s0 := s0) w ?a ?b;
        (case' a => dsimp only [w]); (case' b => clear_value w; intro hw))
    | (extract_lets +onlyGivenNames w)
    | split
    | dsimp +zetaDelta only
    | ((with_reducible refine Keeps.isMk ?_ ?_); rfl)

theorem bufferRec_keeps {s0 : State} {s r} (h0 : Keeps s0 s) : Keeps s0 (bufferRec s r) := by
  unfold bufferRec
  repeat' first
    | with_reducible first | assumption | apply bufferPut_keeps | apply loseRec_keeps
    | (extract_lets +onlyGivenNames w)
    | split
    | dsimp +zetaDelta only
    | ((with_reducible refine Keeps.isMk ?_ ?_); rfl)

theorem State.journal_keeps {s0 : State} {s rtype severity source body} (h0 : Keeps s0 s) :
    Keeps s0 (State.journal s rtype severity source body) := by
  unfold State.journal
  repeat' first
    | with_reducible first | assumption | apply stageLost_keeps | apply makeRec_keeps | apply stageRec_keeps
    | with_reducible apply bufferRec_keeps
    | (extract_lets +onlyGivenNames w;
        refine Keeps.cut (s0 := s0) w ?a ?b;
        (case' a => dsimp only [w]); (case' b => clear_value w; intro hw))
    | (extract_lets +onlyGivenNames w)
    | split

theorem settingRecord_keeps {s0 : State} {s e st c} (h0 : Keeps s0 s) : Keeps s0 (settingRecord s e st c) := by
  unfold settingRecord
  repeat' with_reducible first | assumption | apply State.journal_keeps

theorem applyNet_keeps {s0 : State} {s item index v} (h0 : Keeps s0 s) : Keeps s0 (applyNet s item index v) := by
  unfold applyNet
  repeat' first
    | with_reducible assumption
    | (extract_lets +onlyGivenNames w)
    | dsimp +zetaDelta only
    | ((with_reducible refine Keeps.isMk ?_ ?_); rfl)

theorem State.modTime_keeps {s0 : State} {s f} (h0 : Keeps s0 s) : Keeps s0 (State.modTime s f) := by
  unfold State.modTime
  repeat' first
    | with_reducible assumption
    | ((with_reducible refine Keeps.isMk ?_ ?_); rfl)

theorem closeRateLog_keeps {s0 : State} {s} (h0 : Keeps s0 s) : Keeps s0 (closeRateLog s) := by
  unfold closeRateLog
  repeat' first
    | with_reducible first | assumption | apply State.modTime_keeps
    | split

theorem setServo_keeps {s0 : State} {s n} (h0 : Keeps s0 s) : Keeps s0 (setServo s n) := by
  unfold setServo
  repeat' first
    | with_reducible first | assumption | apply closeRateLog_keeps | apply State.setField_keeps
    | with_reducible apply State.modTime_keeps
    | (extract_lets +onlyGivenNames w)
    | split

theorem setRate_keeps {s0 : State} {s r} (h0 : Keeps s0 s) : Keeps s0 (setRate s r) := by
  unfold setRate
  repeat' with_reducible first | assumption | apply State.setReg64_keeps | apply closeRateLog_keeps

theorem sendEvent_keeps {s0 : State} {e s p} (h1 : Keeps s0 s) : Keeps s0 (sendEvent e s p) := by
  unfold sendEvent
  repeat' first
    | with_reducible first | assumption | apply State.send_keeps
    | (extract_lets +onlyGivenNames w)
    | split

theorem State.raiseTo_keeps {s0 : State} {x0 x1 x2 x3 x4 x5} (h0 : Keeps s0 x0) : Keeps s0 (State.raiseTo x0 x1 x2 x3 x4 x5)
    := by
  unfold State.raiseTo
  extract_lets sev e evs src s
  have hs : Keeps s0 s := events_put (e := e) h0 rfl (evs.drop (evs.length - 4096)) rfl
  clear_value s
  with_reducible exact State.journal_keeps (sendEvent_keeps (sendEvent_keeps hs))

theorem State.raise_keeps {s0 : State} {s code kind idx detail} (h0 : Keeps s0 s) :
    Keeps s0 (State.raise s code kind idx detail) := by
  unfold State.raise
  repeat' with_reducible first | assumption | apply State.raiseTo_keeps

theorem enterHoldover_keeps {s0 : State} {s} (h0 : Keeps s0 s) : Keeps s0 (enterHoldover s) := by
  unfold enterHoldover
  repeat' first
    | with_reducible first | assumption | apply closeRateLog_keeps | apply setRate_keeps | apply setServo_keeps
    | with_reducible first | apply State.raise_keeps | apply State.orReg_keeps

theorem refLost_keeps {s0 : State} {s} (h0 : Keeps s0 s) : Keeps s0 (refLost s) := by
  unfold refLost
  repeat' first
    | with_reducible first | assumption | apply State.modTime_keeps | apply State.setField_keeps
    | with_reducible first | apply setServo_keeps | apply enterHoldover_keeps
    | (extract_lets +onlyGivenNames w;
        refine Keeps.cut (s0 := s0) w ?a ?b;
        (case' a => dsimp only [w]); (case' b => clear_value w; intro hw))
    | split

theorem setRole_keeps {s0 : State} {s k p v} (h0 : Keeps s0 s) : Keeps s0 (setRole s k p v) := by
  unfold setRole
  repeat' first
    | with_reducible first | assumption | apply State.setReg_keeps | apply State.setField_keeps | apply refLost_keeps
    | (extract_lets +onlyGivenNames w;
        refine Keeps.cut (s0 := s0) w ?a ?b;
        (case' a => dsimp only [w]); (case' b => clear_value w; intro hw))
    | (extract_lets +onlyGivenNames w)
    | split

theorem setHoldover_keeps {s0 : State} {s v} (h0 : Keeps s0 s) : Keeps s0 (setHoldover s v) := by
  unfold setHoldover
  repeat' first
    | with_reducible first | assumption | apply State.setReg_keeps | apply State.setReg64_keeps
    | with_reducible first | apply State.modTime_keeps | apply State.setField_keeps
    | (extract_lets +onlyGivenNames w;
        refine Keeps.cut (s0 := s0) w ?a ?b;
        (case' a => dsimp only [w]); (case' b => clear_value w; intro hw))
    | (extract_lets +onlyGivenNames w)
    | split

theorem setPpsOut_keeps {s0 : State} {s v} (h0 : Keeps s0 s) : Keeps s0 (setPpsOut s v) := by
  unfold setPpsOut
  repeat' first
    | with_reducible first | assumption | apply State.setField_keeps | apply State.setReg_keeps
    | with_reducible first | apply State.setReg64_keeps | apply State.modTime_keeps
    | (extract_lets +onlyGivenNames w;
        refine Keeps.cut (s0 := s0) w ?a ?b;
        (case' a => dsimp only [w]); (case' b => clear_value w; intro hw))
    | (extract_lets +onlyGivenNames w)
    | split

theorem ppsReference_keeps {s0 : State} {s v} (h0 : Keeps s0 s) : Keeps s0 (ppsReference s v) := by
  unfold ppsReference
  repeat' first
    | with_reducible first | assumption | apply State.modTime_keeps | apply State.setField_keeps | apply refLost_keeps
    | with_reducible apply ok_keeps
    | intro _
    | (extract_lets +onlyGivenNames w)
    | split

theorem applyTime_keeps {s0 : State} {s item index value} (h0 : Keeps s0 s) :
    Keeps s0 (applyTime s item index value) := by
  unfold applyTime
  repeat' first
    | with_reducible first | assumption | apply State.modTime_keeps | apply State.setField_keeps
    | with_reducible first | apply State.setReg_keeps | apply ppsReference_keeps | apply setHoldover_keeps
    | with_reducible first | apply setPpsOut_keeps | apply setRole_keeps | apply ok_keeps
    | intro _
    | (extract_lets +onlyGivenNames w)
    | split

theorem State.modCor_keeps {s0 : State} {s f} (h0 : Keeps s0 s) : Keeps s0 (State.modCor s f) := by
  unfold State.modCor
  repeat' first
    | with_reducible assumption
    | ((with_reducible refine Keeps.isMk ?_ ?_); rfl)

theorem State.setEgq_keeps {s0 : State} {s qid x} (h0 : Keeps s0 s) : Keeps s0 (State.setEgq s qid x) := by
  unfold State.setEgq
  repeat' first
    | with_reducible assumption
    | (extract_lets +onlyGivenNames w)
    | dsimp +zetaDelta only
    | ((with_reducible refine Keeps.isMk ?_ ?_); rfl)

theorem rebind_keeps {s0 : State} {s ru old r} (h0 : Keeps s0 s) : Keeps s0 (rebind s ru old r) := by
  unfold rebind
  repeat' first
    | with_reducible first | assumption | apply State.setEgq_keeps | apply ok_keeps | apply Keeps.foldl
    | intro _
    | (extract_lets +onlyGivenNames w)
    | split
    | ((with_reducible refine Keeps.isMk ?_ ?_); rfl)

theorem releaseQueue_keeps {s0 : State} {s qid} (h0 : Keeps s0 s) : Keeps s0 (releaseQueue s qid) := by
  unfold releaseQueue
  repeat' first
    | with_reducible assumption
    | (extract_lets +onlyGivenNames w)
    | dsimp +zetaDelta only
    | ((with_reducible refine Keeps.isMk ?_ ?_); rfl)

theorem dropInst_keeps {s0 : State} {s ru carrier} (h0 : Keeps s0 s) : Keeps s0 (dropInst s ru carrier) := by
  unfold dropInst
  repeat' first
    | with_reducible first | assumption | apply releaseQueue_keeps
    | (extract_lets +onlyGivenNames w;
        refine Keeps.cut (s0 := s0) w ?a ?b;
        (case' a => dsimp only [w]); (case' b => clear_value w; intro hw))
    | (extract_lets +onlyGivenNames w)
    | split
    | dsimp +zetaDelta only
    | ((with_reducible refine Keeps.isMk ?_ ?_); rfl)

theorem removeRu_keeps {s0 : State} {s ru} (h0 : Keeps s0 s) : Keeps s0 (removeRu s ru) := by
  unfold removeRu
  repeat' first
    | with_reducible first | assumption | apply dropInst_keeps | apply State.modCor_keeps | apply Keeps.foldl
    | intro _

theorem removeCarrier_keeps {s0 : State} {s key} (h0 : Keeps s0 s) : Keeps s0 (removeCarrier s key) := by
  unfold removeCarrier
  repeat' first
    | with_reducible first | assumption | apply dropInst_keeps | apply State.modCor_keeps | apply Keeps.foldl
    | intro _

theorem State.setQueue_keeps {s0 : State} {s qid x} (h0 : Keeps s0 s) : Keeps s0 (State.setQueue s qid x) := by
  unfold State.setQueue
  repeat' first
    | with_reducible assumption
    | (extract_lets +onlyGivenNames w)
    | dsimp +zetaDelta only
    | ((with_reducible refine Keeps.isMk ?_ ?_); rfl)

theorem State.takeFresh_keeps {s0 : State} {s} (h0 : Keeps s0 s) : Keeps s0 (State.takeFresh s).2 := by
  unfold State.takeFresh
  repeat' first
    | with_reducible assumption
    | dsimp only [State.modBoot, State.modStor]
    | ((with_reducible refine Keeps.isMk ?_ ?_); rfl)

theorem makeBinding_keeps {s0 : State} {x0 x1 x2 x3 x4} (h0 : Keeps s0 x0) : Keeps s0 (makeBinding x0 x1 x2 x3 x4) := by
  unfold makeBinding
  extract_lets q f n sf a s1 b s2 c s3 iot src x s4 i src2
  have hf : Keeps s0 sf := by dsimp only [sf, f]; with_reducible exact State.takeFresh_keeps h0
  clear_value sf
  have h1 : Keeps s0 s1 := by dsimp only [s1]; with_reducible exact State.setQueue_keeps hf
  clear_value s1
  have h2 : Keeps s0 s2 := by dsimp only [s2]; with_reducible exact State.setQueue_keeps h1
  clear_value s2
  have h3 : Keeps s0 s3 := by dsimp only [s3]; with_reducible exact State.setQueue_keeps h2
  clear_value s3
  have h4 : Keeps s0 s4 := by dsimp only [s4]; with_reducible exact State.setEgq_keeps h3
  refine Keeps.isMk rfl h4

theorem regroup_keeps {s0 : State} {s corridor carrier rus group} (h0 : Keeps s0 s) :
    Keeps s0 (regroup s corridor carrier rus group) := by
  unfold regroup
  repeat' first
    | with_reducible assumption
    | (extract_lets +onlyGivenNames w)
    | split
    | dsimp +zetaDelta only
    | ((with_reducible refine Keeps.isMk ?_ ?_); rfl)

theorem applyCor_keeps {s0 : State} {s x1} (h0 : Keeps s0 s) : Keeps s0 (applyCor s x1) := by
  unfold applyCor
  repeat' first
    | with_reducible first | assumption | apply State.modCor_keeps | apply rebind_keeps | apply removeRu_keeps
    | with_reducible first | apply removeCarrier_keeps | apply makeBinding_keeps | apply regroup_keeps
    | (extract_lets +onlyGivenNames w;
        refine Keeps.cut (s0 := s0) w ?a ?b;
        (case' a => dsimp only [w]); (case' b => clear_value w; intro hw))
    | (extract_lets +onlyGivenNames w)
    | split

theorem configWritten_keeps {s0 : State} {s} (h0 : Keeps s0 s) : Keeps s0 (configWritten s) := by
  unfold configWritten
  repeat' first
    | with_reducible assumption
    | (extract_lets +onlyGivenNames w)
    | split
    | dsimp +zetaDelta only
    | ((with_reducible refine Keeps.isMk ?_ ?_); rfl)

theorem storeSetting_keeps {s0 : State} {s st} (h0 : Keeps s0 s) : Keeps s0 (storeSetting s st) := by
  unfold storeSetting
  repeat' first
    | with_reducible first | assumption | apply configWritten_keeps | apply State.modTime_keeps
    | (extract_lets +onlyGivenNames w)
    | split
    | dsimp +zetaDelta only
    | ((with_reducible refine Keeps.isMk ?_ ?_); rfl)

theorem applySetting_keeps {s0 : State} {s own st} (h0 : Keeps s0 s) : Keeps s0 (applySetting s own st) := by
  unfold applySetting
  repeat' first
    | with_reducible first | assumption | apply applyNet_keeps | apply applyTime_keeps | apply applyCor_keeps
    | with_reducible apply storeSetting_keeps
    | (extract_lets +onlyGivenNames w;
        refine Keeps.cut (s0 := s0) w ?a ?b;
        (case' a => dsimp only [w]); (case' b => clear_value w; intro hw))
    | split

theorem processMbx_keeps {s0 : State} {x0 x1 x2} (h2 : Keeps s0 x2) : Keeps s0 (processMbx x0 x1 x2) := by
  fun_induction processMbx x0 x1 x2
  all_goals repeat' first
    | with_reducible first | assumption | apply finishSettings_keeps | apply setMbx_keeps | apply settingRecord_keeps
    | with_reducible first | apply applySetting_keeps | apply_assumption -exfalso -symm
    | (extract_lets +onlyGivenNames w)
    | split
    | dsimp +zetaDelta only

theorem proceed_keeps {s0 : State} {key s} (h1 : Keeps s0 s) : Keeps s0 (proceed key s) := by
  unfold proceed
  repeat' with_reducible first | assumption | apply processMbx_keeps

theorem holdMbx_keeps {s0 : State} {s m opcode rest} (h0 : Keeps s0 s) : Keeps s0 (holdMbx s m opcode rest) := by
  unfold holdMbx
  repeat' first
    | with_reducible assumption
    | (extract_lets +onlyGivenNames w)
    | dsimp +zetaDelta only
    | ((with_reducible refine Keeps.isMk ?_ ?_); rfl)

theorem launchPacket_keeps {s0 : State} {s c cls src dst flits} (h0 : Keeps s0 s) : Keeps s0 (launchPacket s c cls src dst flits)
    := by
  unfold launchPacket
  repeat' first
    | with_reducible first | assumption | apply ok_keeps
    | intro _
    | (extract_lets +onlyGivenNames w)
    | split
    | ((with_reducible refine Keeps.isMk ?_ ?_); rfl)

theorem State.setCore_keeps {s0 : State} {s t c x} (h0 : Keeps s0 s) : Keeps s0 (State.setCore s t c x) := by
  unfold State.setCore
  repeat' first
    | with_reducible assumption
    | (extract_lets +onlyGivenNames w)
    | dsimp +zetaDelta only
    | ((with_reducible refine Keeps.isMk ?_ ?_); rfl)

theorem modCq_keeps {s0 : State} {s t c tag f} (h0 : Keeps s0 s) : Keeps s0 (modCq s t c tag f) := by
  unfold modCq
  repeat' with_reducible first | assumption | apply State.setCore_keeps

theorem cqResult_keeps {s0 : State} {s t c tag st} (h0 : Keeps s0 s) : Keeps s0 (cqResult s t c tag st) := by
  unfold cqResult
  repeat' with_reducible first | assumption | apply modCq_keeps

theorem doJobAbort_keeps {s0 : State} {t c tag y s} (h4 : Keeps s0 s) : Keeps s0 (doJobAbort t c tag y s) := by
  unfold doJobAbort
  repeat' first
    | with_reducible first | assumption | apply cqResult_keeps | apply State.setQueue_keeps
    | with_reducible apply_assumption -exfalso -symm
    | intro _
    | (extract_lets +onlyGivenNames w;
        refine Keeps.cutF2 (s0 := s0) w ?a ?b;
        (case' a => dsimp only [w]); (case' b => clear_value w; intro hw))
    | (extract_lets +onlyGivenNames w)
    | split
    | ((with_reducible refine Keeps.isMk ?_ ?_); rfl)

theorem State.setRun_keeps {s0 : State} {s n r} (h0 : Keeps s0 s) : Keeps s0 (State.setRun s n r) := by
  unfold State.setRun
  repeat' first
    | with_reducible assumption
    | ((with_reducible refine Keeps.isMk ?_ ?_); rfl)

theorem countWait_keeps {s0 : State} {s t c} (h0 : Keeps s0 s) : Keeps s0 (countWait s t c) := by
  unfold countWait
  repeat' with_reducible first | assumption | apply State.orReg_keeps | apply State.count_keeps

theorem readCode_keeps {s0 : State} {r pl cw s} (h3 : Keeps s0 s) : Keeps s0 (readCode r pl cw s).2 := by
  unfold readCode
  repeat' first
    | with_reducible first | assumption | apply noteCE_keeps | apply clogAdd_keeps | apply countUE_keeps
    | with_reducible apply State.setMark_keeps
    | (extract_lets +onlyGivenNames w;
        refine Keeps.cut (s0 := s0) w ?a ?b;
        (case' a => dsimp only [w]); (case' b => clear_value w; intro hw))
    | (extract_lets +onlyGivenNames w)
    | split
    | dsimp only [State.modBoot, State.modStor]
    | dsimp +zetaDelta only
    | ((with_reducible refine Keeps.isMk ?_ ?_); rfl)

theorem readCodes_keeps {s0 : State} {r pl x2 x3} (h3 : Keeps s0 x3) : Keeps s0 (readCodes r pl x2 x3).2 := by
  fun_induction readCodes r pl x2 x3
  all_goals repeat' first
    | with_reducible first | assumption | apply readCode_keeps | apply_assumption -exfalso -symm

theorem memRead_keeps {s0 : State} {r pl a n s} (h4 : Keeps s0 s) : Keeps s0 (memRead r pl a n s).2 := by
  unfold memRead
  repeat' with_reducible first | assumption | apply readCodes_keeps

theorem targetLate_keeps {s0 : State} {s f} (h0 : Keeps s0 s) : Keeps s0 (targetLate s f) := by
  unfold targetLate
  repeat' first
    | with_reducible first | assumption | apply State.count_keeps | apply State.orReg_keeps | apply ok_keeps
    | intro _
    | (extract_lets +onlyGivenNames w)
    | split

theorem busMemRead_keeps {s0 : State} {r a n s} (h3 : Keeps s0 s) : Keeps s0 (busMemRead r a n s).2 := by
  unfold busMemRead
  repeat' first
    | with_reducible first | assumption | apply State.takeFresh_keeps | apply memRead_keeps | apply targetLate_keeps
    | with_reducible apply ok_keeps
    | intro _
    | (extract_lets +onlyGivenNames w)
    | split

theorem fetchRefused_keeps {s0 : State} {s t c a} (h0 : Keeps s0 s) : Keeps s0 (fetchRefused s t c a).2 := by
  unfold fetchRefused
  repeat' first
    | with_reducible first | assumption | apply busMemRead_keeps | apply ok_keeps
    | intro _
    | (extract_lets +onlyGivenNames w)
    | split

theorem fetch_keeps {s0 : State} {s t c} (h0 : Keeps s0 s) : Keeps s0 (fetch s t c).2 := by
  unfold fetch
  repeat' first
    | with_reducible first | assumption | apply State.setCore_keeps | apply busMemRead_keeps | apply fetchRefused_keeps
    | with_reducible apply ok_keeps
    | intro _
    | (extract_lets +onlyGivenNames w)
    | split
    | dsimp +zetaDelta only

theorem fetchParity_keeps {s0 : State} {k s} (h1 : Keeps s0 s) : Keeps s0 (fetchParity k s) := by
  unfold fetchParity
  repeat' first
    | with_reducible first | assumption | apply State.setCore_keeps | apply State.count_keeps
    | (extract_lets +onlyGivenNames w)
    | split

theorem setRunning_keeps {s0 : State} {s r} (h0 : Keeps s0 s) : Keeps s0 (setRunning s r) := by
  unfold setRunning
  repeat' first
    | with_reducible first | assumption | apply ok_keeps
    | intro _
    | (extract_lets +onlyGivenNames w)
    | split
    | ((with_reducible refine Keeps.isMk ?_ ?_); rfl)

theorem finishTerm_keeps {s0 : State} {s t c} (h0 : Keeps s0 s) : Keeps s0 (finishTerm s t c) := by
  unfold finishTerm
  repeat' first
    | with_reducible first | assumption | apply State.setCore_keeps | apply setRunning_keeps
    | (extract_lets +onlyGivenNames w;
        refine Keeps.cut (s0 := s0) w ?a ?b;
        (case' a => dsimp only [w]); (case' b => clear_value w; intro hw))
    | (extract_lets +onlyGivenNames w)
    | split

theorem terminate_keeps {s0 : State} {s t c x3 cause} (h0 : Keeps s0 s) : Keeps s0 (terminate s t c x3 cause) := by
  unfold terminate
  repeat' first
    | with_reducible first | assumption | apply State.setCore_keeps | apply finishTerm_keeps | apply ok_keeps
    | intro _
    | (extract_lets +onlyGivenNames w)
    | split

theorem eaddrOf_keeps {s0 : State} {s e} (h0 : Keeps s0 s) : Keeps s0 (eaddrOf s e).2 := by
  unfold eaddrOf
  repeat' first
    | with_reducible first | assumption | apply State.takeFresh_keeps
    | (extract_lets +onlyGivenNames w;
        refine Keeps.cut2 (s0 := s0) w ?a ?b;
        (case' a => dsimp only [w]); (case' b => clear_value w; intro hw))
    | split

theorem takeExc_keeps {s0 : State} {s t c e sync epc einfo erep} (h0 : Keeps s0 s) :
    Keeps s0 (takeExc s t c e sync epc einfo erep) := by
  unfold takeExc
  repeat' first
    | with_reducible first | assumption | apply terminate_keeps | apply eaddrOf_keeps | apply State.setCore_keeps
    | (extract_lets +onlyGivenNames w;
        refine Keeps.cut2 (s0 := s0) w ?a ?b;
        (case' a => dsimp only [w]); (case' b => clear_value w; intro hw))
    | (extract_lets +onlyGivenNames w)
    | split

theorem syncExc_keeps {s0 : State} {k s e} (h1 : Keeps s0 s) : Keeps s0 (syncExc k s e) := by
  unfold syncExc
  repeat' first
    | with_reducible first | assumption | apply State.setCore_keeps | apply takeExc_keeps | apply ok_keeps
    | intro _
    | (extract_lets +onlyGivenNames w)
    | split

theorem repIllegal_keeps {s0 : State} {k s r} (h1 : Keeps s0 s) : Keeps s0 (repIllegal k s r) := by
  unfold repIllegal
  repeat' with_reducible first | assumption | apply State.setCore_keeps | apply syncExc_keeps

theorem issue_keeps {s0 : State} {k fmt takesPrefix act s ill} (h3 : ∀ (y0 : State) (y1 : Core), Keeps s0 y0 → Keeps s0
    (act y0 y1)) (h4 : Keeps s0 s) :
    Keeps s0 (issue k fmt takesPrefix act s ill) := by
  unfold issue
  repeat' first
    | with_reducible first | assumption | apply fetch_keeps | apply fetchParity_keeps | apply repIllegal_keeps
    | with_reducible first | apply syncExc_keeps | apply ok_keeps | apply_assumption -exfalso -symm
    | intro _
    | (extract_lets +onlyGivenNames w)
    | split

theorem cfgErr_keeps {s0 : State} {s qid} (h0 : Keeps s0 s) : Keeps s0 (cfgErr s qid) := by
  unfold cfgErr
  repeat' with_reducible first | assumption | apply State.orReg_keeps

theorem writeQRing_keeps {s0 : State} {qid v s} (h2 : Keeps s0 s) : Keeps s0 (writeQRing qid v s) := by
  unfold writeQRing
  repeat' first
    | with_reducible first | assumption | apply cfgErr_keeps | apply State.setQueue_keeps
    | (extract_lets +onlyGivenNames w)
    | split

theorem write64_keeps {s0 : State} {r b off a v s} (h5 : Keeps s0 s) : Keeps s0 (write64 r b off a v s) := by
  unfold write64
  repeat' first
    | with_reducible first | assumption | apply State.setCore_keeps | apply writeQRing_keeps
    | with_reducible first | apply State.setReg64_keeps | apply State.modTime_keeps
    | (extract_lets +onlyGivenNames w;
        refine Keeps.cut (s0 := s0) w ?a ?b;
        (case' a => dsimp only [w]); (case' b => clear_value w; intro hw))
    | (extract_lets +onlyGivenNames w)
    | split
    | dsimp +zetaDelta only
    | ((with_reducible refine Keeps.isMk ?_ ?_); rfl)

theorem writeHalf_keeps {s0 : State} {r a high x3 v s} (h5 : Keeps s0 s) :
    Keeps s0 (writeHalf r a high x3 v s).2 := by
  unfold writeHalf
  repeat' first
    | with_reducible assumption
    | (extract_lets +onlyGivenNames w)
    | split
    | dsimp only [State.modBoot, State.modStor]
    | dsimp +zetaDelta only
    | ((with_reducible refine Keeps.isMk ?_ ?_); rfl)

theorem coreWrite_keeps {s0 : State} {r t c off x4 s} (h5 : Keeps s0 s) : Keeps s0 (coreWrite r t c off x4 s) := by
  unfold coreWrite
  repeat' first
    | with_reducible first | assumption | apply writeHalf_keeps | apply State.setCore_keeps
    | (extract_lets +onlyGivenNames w)
    | split
    | dsimp +zetaDelta only

theorem skipPassed_keeps {s0 : State} {s n} (h0 : Keeps s0 s) : Keeps s0 (skipPassed s n) := by
  unfold skipPassed
  repeat' with_reducible first | assumption | apply State.modTime_keeps

theorem armTev_keeps {s0 : State} {s n} (h0 : Keeps s0 s) : Keeps s0 (armTev s n) :=
  skipPassed_keeps (State.modTime_keeps h0)

theorem State.setCalendar_keeps {s0 : State} {s key l} (h0 : Keeps s0 s) : Keeps s0 (State.setCalendar s key l) := by
  unfold State.setCalendar
  repeat' first
    | with_reducible assumption
    | (extract_lets +onlyGivenNames w)
    | dsimp +zetaDelta only
    | ((with_reducible refine Keeps.isMk ?_ ?_); rfl)

theorem fhEvent_keeps {s0 : State} {s k cause carrier ru} (h0 : Keeps s0 s) :
    Keeps s0 (fhEvent s k cause carrier ru) := by
  unfold fhEvent
  repeat' first
    | with_reducible first | assumption | apply State.orReg_keeps | apply State.count_keeps | apply State.setReg_keeps

theorem noteDepth_keeps {s0 : State} {s qid} (h0 : Keeps s0 s) : Keeps s0 (noteDepth s qid) := by
  unfold noteDepth
  repeat' first
    | with_reducible first | assumption | apply State.setEgq_keeps
    | split

theorem setSlot_keeps {s0 : State} {s q k x} (h0 : Keeps s0 s) : Keeps s0 (setSlot s q k x) := by
  unfold setSlot
  repeat' first
    | with_reducible assumption
    | (extract_lets +onlyGivenNames w)
    | dsimp +zetaDelta only
    | ((with_reducible refine Keeps.isMk ?_ ?_); rfl)

theorem markSlot_keeps {s0 : State} {s r a} (h0 : Keeps s0 s) : Keeps s0 (markSlot s r a) := by
  unfold markSlot
  repeat' first
    | with_reducible first | assumption | apply setSlot_keeps
    | split

theorem busMemWrite_keeps {s0 : State} {r a bs s} (h3 : Keeps s0 s) : Keeps s0 (busMemWrite r a bs s).2 := by
  unfold busMemWrite
  repeat' first
    | with_reducible first | assumption | apply State.takeFresh_keeps | apply markSlot_keeps | apply memWrite_keeps
    | with_reducible first | apply targetLate_keeps | apply ok_keeps
    | intro _
    | (extract_lets +onlyGivenNames w)
    | split

theorem busWriteBlocks_keeps {s0 : State} {r x1 x2 x3 x4} (h4 : Keeps s0 x4) :
    Keeps s0 (busWriteBlocks r x1 x2 x3 x4).2 := by
  fun_induction busWriteBlocks r x1 x2 x3 x4
  all_goals repeat' first
    | with_reducible first | assumption | apply busMemWrite_keeps | apply_assumption -exfalso -symm

theorem busWriteMany_keeps {s0 : State} {r a bs s} (h3 : Keeps s0 s) : Keeps s0 (busWriteMany r a bs s).2 := by
  unfold busWriteMany
  repeat' with_reducible first | assumption | apply busWriteBlocks_keeps

theorem complete_keeps {s0 : State} {s k e st timed slip tTx} (h0 : Keeps s0 s) :
    Keeps s0 (complete s k e st timed slip tTx) := by
  unfold complete
  repeat' first
    | with_reducible first | assumption | apply busWriteMany_keeps
    | (extract_lets +onlyGivenNames w)
    | split

theorem dropLate_keeps {s0 : State} {s} (h0 : Keeps s0 s) : Keeps s0 (dropLate s) := by
  unfold dropLate
  repeat' first
    | with_reducible first | assumption | apply State.setCalendar_keeps | apply fhEvent_keeps | apply noteDepth_keeps
    | with_reducible first | apply complete_keeps | apply State.orReg_keeps | apply State.count_keeps
    | with_reducible apply Keeps.foldl
    | intro _
    | (extract_lets +onlyGivenNames w)
    | split

theorem rewindow_keeps {s0 : State} {s} (h0 : Keeps s0 s) : Keeps s0 (rewindow s) := by
  unfold rewindow
  repeat' first
    | with_reducible first | assumption | apply ok_keeps
    | intro _
    | (extract_lets +onlyGivenNames w)
    | split
    | ((with_reducible refine Keeps.isMk ?_ ?_); rfl)

theorem applyStep_keeps {s0 : State} {s d} (h0 : Keeps s0 s) : Keeps s0 (applyStep s d) := by
  unfold applyStep
  repeat' first
    | with_reducible apply rewindow_keeps
    | with_reducible first | assumption | apply State.modTime_keeps | apply State.orReg_keeps
    | with_reducible first | apply State.setField_keeps | apply State.count_keeps | apply skipPassed_keeps
    | with_reducible first | apply dropLate_keeps | apply Keeps.foldl
    | (extract_lets +onlyGivenNames w)
    | split
    | ((with_reducible refine Keeps.isMk ?_ ?_); rfl)

end Sys2Proof.Machine
end

