-- ==== Sys2Proof/Laws/Keeps02.lean ====
section
/-! SUPPORT. Each shared operation and each command keeps what `Keeps` says (part 2 of 10, in the order in which
they use one another). -/

namespace Sys2Proof.Machine

theorem stepEngine_keeps {s0 : State} {s} (h0 : Keeps s0 s) : Keeps s0 (stepEngine s) := by
  unfold stepEngine
  repeat' first
    | with_reducible first | assumption | apply State.journal_keeps | apply applyStep_keeps
    | with_reducible first | apply State.setField_keeps | apply State.orReg_keeps
    | (extract_lets +onlyGivenNames w)
    | split

theorem cpWriteHalf_keeps {s0 : State} {r a compl x3 s} (h4 : Keeps s0 s) :
    Keeps s0 (cpWriteHalf r a compl x3 s) := by
  unfold cpWriteHalf
  repeat' first
    | with_reducible first | assumption | apply State.orReg_keeps | apply State.setField_keeps
    | with_reducible apply stepEngine_keeps
    | (extract_lets +onlyGivenNames w;
        refine Keeps.cut (s0 := s0) w ?a ?b;
        (case' a => dsimp only [w]); (case' b => clear_value w; intro hw))
    | (extract_lets +onlyGivenNames w)
    | split
    | dsimp +zetaDelta only
    | ((with_reducible refine Keeps.isMk ?_ ?_); rfl)

theorem setSel_keeps {s0 : State} {s r a x3} (h0 : Keeps s0 s) : Keeps s0 (setSel s r a x3) := by
  unfold setSel
  repeat' first
    | with_reducible assumption
    | (extract_lets +onlyGivenNames w)
    | dsimp +zetaDelta only
    | ((with_reducible refine Keeps.isMk ?_ ?_); rfl)

theorem State.setFlow_keeps {s0 : State} {s q flid f} (h0 : Keeps s0 s) : Keeps s0 (State.setFlow s q flid f) := by
  unfold State.setFlow
  repeat' first
    | with_reducible assumption
    | (extract_lets +onlyGivenNames w)
    | dsimp +zetaDelta only
    | ((with_reducible refine Keeps.isMk ?_ ?_); rfl)

theorem writeFlowCfg_keeps {s0 : State} {q flid x2 s} (h3 : Keeps s0 s) : Keeps s0 (writeFlowCfg q flid x2 s) := by
  unfold writeFlowCfg
  repeat' first
    | with_reducible first | assumption | apply State.orReg_keeps | apply State.setFlow_keeps
    | (extract_lets +onlyGivenNames w)
    | split

theorem enableQ_keeps {s0 : State} {gaffer s qid} (h1 : Keeps s0 s) : Keeps s0 (enableQ gaffer s qid) := by
  unfold enableQ
  repeat' first
    | with_reducible first | assumption | apply cfgErr_keeps | apply State.orReg_keeps | apply State.setQueue_keeps
    | (extract_lets +onlyGivenNames w)
    | split

theorem writeQCfg_keeps {s0 : State} {gaffer qid x2 s} (h3 : Keeps s0 s) : Keeps s0 (writeQCfg gaffer qid x2 s) := by
  unfold writeQCfg
  repeat' first
    | with_reducible first | assumption | apply cfgErr_keeps | apply enableQ_keeps | apply State.setQueue_keeps
    | (extract_lets +onlyGivenNames w;
        refine Keeps.cut (s0 := s0) w ?a ?b;
        (case' a => dsimp only [w]); (case' b => clear_value w; intro hw))
    | (extract_lets +onlyGivenNames w)
    | split

theorem plainWrite_keeps {s0 : State} {row a x2 s} (h3 : Keeps s0 s) : Keeps s0 (plainWrite row a x2 s) := by
  unfold plainWrite
  repeat' with_reducible first | assumption | apply State.modReg_keeps

theorem wfqWrite_keeps {s0 : State} {r k off a row x5 s} (h6 : Keeps s0 s) :
    Keeps s0 (wfqWrite r k off a row x5 s) := by
  unfold wfqWrite
  repeat' first
    | with_reducible first | assumption | apply setSel_keeps | apply State.orReg_keeps | apply State.setEgq_keeps
    | with_reducible apply plainWrite_keeps
    | (extract_lets +onlyGivenNames w;
        refine Keeps.cut (s0 := s0) w ?a ?b;
        (case' a => dsimp only [w]); (case' b => clear_value w; intro hw))
    | split

theorem timeWrite_keeps {s0 : State} {off a row x3 s} (h4 : Keeps s0 s) : Keeps s0 (timeWrite off a row x3 s) := by
  unfold timeWrite
  repeat' first
    | with_reducible first | assumption | apply plainWrite_keeps | apply State.setField_keeps
    | with_reducible first | apply closeRateLog_keeps | apply setServo_keeps | apply armTev_keeps
    | (extract_lets +onlyGivenNames w;
        refine Keeps.cut (s0 := s0) w ?a ?b;
        (case' a => dsimp only [w]); (case' b => clear_value w; intro hw))
    | (extract_lets +onlyGivenNames w)
    | split

theorem settleCycles_keeps {s0 : State} {s t} (h0 : Keeps s0 s) : Keeps s0 (settleCycles s t) := by
  unfold settleCycles
  repeat' first
    | with_reducible assumption
    | (extract_lets +onlyGivenNames w)
    | dsimp +zetaDelta only
    | ((with_reducible refine Keeps.isMk ?_ ?_); rfl)

theorem islWrite_keeps {s0 : State} {t off a row x4 s} (h5 : Keeps s0 s) : Keeps s0 (islWrite t off a row x4 s) := by
  unfold islWrite
  repeat' first
    | with_reducible first | assumption | apply plainWrite_keeps | apply settleCycles_keeps | apply State.setReg_keeps
    | (extract_lets +onlyGivenNames w;
        refine Keeps.cut (s0 := s0) w ?a ?b;
        (case' a => dsimp only [w]); (case' b => clear_value w; intro hw))
    | split

theorem State.setTx_keeps {s0 : State} {s key f} (h0 : Keeps s0 s) : Keeps s0 (State.setTx s key f) := by
  unfold State.setTx
  repeat' first
    | with_reducible assumption
    | (extract_lets +onlyGivenNames w)
    | dsimp +zetaDelta only
    | ((with_reducible refine Keeps.isMk ?_ ?_); rfl)

theorem State.modSpur_keeps {s0 : State} {s p f} (h0 : Keeps s0 s) : Keeps s0 (State.modSpur s p f) := by
  unfold State.modSpur
  repeat' first
    | with_reducible assumption
    | ((with_reducible refine Keeps.isMk ?_ ?_); rfl)

theorem spurEnter_keeps {s0 : State} {s p n} (h0 : Keeps s0 s) : Keeps s0 (spurEnter s p n) := by
  unfold spurEnter
  repeat' first
    | with_reducible first | assumption | apply State.modSpur_keeps | apply State.setField_keeps

theorem spurTrain_keeps {s0 : State} {s p n fast} (h0 : Keeps s0 s) : Keeps s0 (spurTrain s p n fast) := by
  unfold spurTrain
  repeat' first
    | with_reducible first | assumption | apply State.orReg_keeps | apply State.count_keeps
    | with_reducible first | apply State.setField_keeps | apply State.setTx_keeps | apply spurEnter_keeps
    | (extract_lets +onlyGivenNames w)
    | split

theorem spurWrite_keeps {s0 : State} {p off a row x4 s} (h5 : Keeps s0 s) :
    Keeps s0 (spurWrite p off a row x4 s) := by
  unfold spurWrite
  repeat' first
    | with_reducible first | assumption | apply plainWrite_keeps | apply spurTrain_keeps | apply spurEnter_keeps
    | (extract_lets +onlyGivenNames w;
        refine Keeps.cut (s0 := s0) w ?a ?b;
        (case' a => dsimp only [w]); (case' b => clear_value w; intro hw))
    | (extract_lets +onlyGivenNames w)
    | split

theorem evtSet_keeps {s0 : State} {s t m} (h0 : Keeps s0 s) : Keeps s0 (evtSet s t m) := by
  unfold evtSet
  repeat' with_reducible first | assumption | apply State.modReg_keeps

theorem dmaCtrlWrite_keeps {s0 : State} {s t c x3} (h0 : Keeps s0 s) : Keeps s0 (dmaCtrlWrite s t c x3) := by
  unfold dmaCtrlWrite
  repeat' first
    | with_reducible first | assumption | apply State.setReg_keeps
    | (extract_lets +onlyGivenNames w)
    | split

theorem setChan_keeps {s0 : State} {s t c x} (h0 : Keeps s0 s) : Keeps s0 (setChan s t c x) := by
  unfold setChan
  repeat' first
    | with_reducible assumption
    | ((with_reducible refine Keeps.isMk ?_ ?_); rfl)

theorem modChan_keeps {s0 : State} {s t c f} (h0 : Keeps s0 s) : Keeps s0 (modChan s t c f) := by
  unfold modChan
  repeat' with_reducible first | assumption | apply setChan_keeps

theorem State.setIsland_keeps {s0 : State} {s t x} (h0 : Keeps s0 s) : Keeps s0 (State.setIsland s t x) := by
  unfold State.setIsland
  repeat' first
    | with_reducible assumption
    | ((with_reducible refine Keeps.isMk ?_ ?_); rfl)

theorem noteIdle_keeps {s0 : State} {s t} (h0 : Keeps s0 s) : Keeps s0 (noteIdle s t) := by
  unfold noteIdle
  repeat' first
    | with_reducible first | assumption | apply State.setIsland_keeps
    | split

theorem setSt_keeps {s0 : State} {s t c x why} (h0 : Keeps s0 s) : Keeps s0 (setSt s t c x why) := by
  unfold setSt
  repeat' first
    | with_reducible first | assumption | apply noteIdle_keeps | apply State.setField_keeps
    | (extract_lets +onlyGivenNames w)
    | split

theorem issueFetch_keeps {s0 : State} {s t c park} (h0 : Keeps s0 s) : Keeps s0 (issueFetch s t c park) := by
  unfold issueFetch
  repeat' first
    | with_reducible first | assumption | apply modChan_keeps | apply setSt_keeps | apply State.count_keeps
    | with_reducible apply State.setField_keeps
    | (extract_lets +onlyGivenNames w;
        refine Keeps.cut (s0 := s0) w ?a ?b;
        (case' a => dsimp only [w]); (case' b => clear_value w; intro hw))
    | (extract_lets +onlyGivenNames w)
    | split
    | dsimp +zetaDelta only

theorem doRing_keeps {s0 : State} {s t c} (h0 : Keeps s0 s) : Keeps s0 (doRing s t c) := by
  unfold doRing
  repeat' first
    | with_reducible first | assumption | apply State.setReg64_keeps | apply State.setField_keeps
    | with_reducible first | apply State.setReg_keeps | apply issueFetch_keeps | apply State.count_keeps
    | with_reducible apply State.orReg_keeps
    | (extract_lets +onlyGivenNames w;
        refine Keeps.cut (s0 := s0) w ?a ?b;
        (case' a => dsimp only [w]); (case' b => clear_value w; intro hw))
    | (extract_lets +onlyGivenNames w)
    | split

theorem crumbLose_keeps {s0 : State} {s q} (h0 : Keeps s0 s) : Keeps s0 (crumbLose s q) := by
  unfold crumbLose
  repeat' with_reducible first | assumption | apply State.orReg_keeps | apply State.count_keeps

theorem crumbRing_keeps {s0 : State} {s q b} (h0 : Keeps s0 s) : Keeps s0 (crumbRing s q b) := by
  unfold crumbRing
  repeat' first
    | with_reducible first | assumption | apply State.setReg_keeps | apply crumbLose_keeps | apply memWrite_keeps
    | with_reducible apply ok_keeps
    | intro _
    | (extract_lets +onlyGivenNames w)
    | split
    | ((with_reducible refine Keeps.isMk ?_ ?_); rfl)

theorem crumbStream_keeps {s0 : State} {s q p b} (h0 : Keeps s0 s) : Keeps s0 (crumbStream s q p b) := by
  unfold crumbStream
  repeat' first
    | with_reducible first | assumption | apply crumbLose_keeps
    | (extract_lets +onlyGivenNames w)
    | split
    | dsimp +zetaDelta only
    | ((with_reducible refine Keeps.isMk ?_ ?_); rfl)

theorem crumb_keeps {s0 : State} {s q c} (h0 : Keeps s0 s) : Keeps s0 (crumb s q c) := by
  unfold crumb
  repeat' first
    | with_reducible first | assumption | apply crumbRing_keeps | apply crumbStream_keeps
    | (extract_lets +onlyGivenNames w;
        refine Keeps.cut (s0 := s0) w ?a ?b;
        (case' a => dsimp only [w]); (case' b => clear_value w; intro hw))
    | (extract_lets +onlyGivenNames w)
    | split
    | dsimp +zetaDelta only
    | ((with_reducible refine Keeps.isMk ?_ ?_); rfl)

theorem bpCrumb_keeps {s0 : State} {s qid src act} (h0 : Keeps s0 s) : Keeps s0 (bpCrumb s qid src act) := by
  unfold bpCrumb
  repeat' first
    | with_reducible first | assumption | apply State.count_keeps | apply crumb_keeps
    | (extract_lets +onlyGivenNames w)
    | split

theorem withdrawPush_keeps {s0 : State} {s t c} (h0 : Keeps s0 s) : Keeps s0 (withdrawPush s t c) := by
  unfold withdrawPush
  repeat' first
    | with_reducible first | assumption | apply bpCrumb_keeps | apply State.setQueue_keeps
    | split
    | (extract_lets +onlyGivenNames w)
    | dsimp only [State.modBoot, State.modStor]
    | dsimp +zetaDelta only
    | ((with_reducible refine Keeps.isMk ?_ ?_); rfl)

theorem putProg_keeps {s0 : State} {s t c rows} (h0 : Keeps s0 s) : Keeps s0 (putProg s t c rows) := by
  unfold putProg
  repeat' with_reducible first | assumption | apply State.setReg_keeps

theorem dmaIrq_keeps {s0 : State} {s t c} (h0 : Keeps s0 s) : Keeps s0 (dmaIrq s t c) := by
  unfold dmaIrq
  repeat' first
    | with_reducible first | assumption | apply State.setCore_keeps
    | (extract_lets +onlyGivenNames w)
    | split

theorem chNotice_keeps {s0 : State} {s t c bit_} (h0 : Keeps s0 s) : Keeps s0 (chNotice s t c bit_) := by
  unfold chNotice
  repeat' first
    | with_reducible first | assumption | apply dmaIrq_keeps
    | (extract_lets +onlyGivenNames w)
    | split

theorem haltWith_keeps {s0 : State} {s t c cause write access addr rows} (h0 : Keeps s0 s) :
    Keeps s0 (haltWith s t c cause write access addr rows) := by
  unfold haltWith
  repeat' first
    | with_reducible first | assumption | apply setSt_keeps | apply State.setField_keeps | apply State.setReg_keeps
    | with_reducible first | apply State.setReg64_keeps | apply putProg_keeps | apply chNotice_keeps
    | with_reducible apply modChan_keeps
    | (extract_lets +onlyGivenNames w)
    | split

theorem drainHalt_keeps {s0 : State} {s t c} (h0 : Keeps s0 s) : Keeps s0 (drainHalt s t c) := by
  unfold drainHalt
  repeat' first
    | with_reducible first | assumption | apply State.setReg_keeps | apply haltWith_keeps
    | (extract_lets +onlyGivenNames w)
    | split

theorem doAbort_keeps {s0 : State} {s t c} (h0 : Keeps s0 s) : Keeps s0 (doAbort s t c) := by
  unfold doAbort
  repeat' first
    | with_reducible first | assumption | apply modChan_keeps | apply withdrawPush_keeps | apply drainHalt_keeps
    | with_reducible apply State.setReg_keeps
    | (extract_lets +onlyGivenNames w;
        refine Keeps.cut (s0 := s0) w ?a ?b;
        (case' a => dsimp only [w]); (case' b => clear_value w; intro hw))
    | split

theorem popFail_keeps {s0 : State} {s t c cause} (h0 : Keeps s0 s) : Keeps s0 (popFail s t c cause) := by
  unfold popFail
  repeat' with_reducible first | assumption | apply modChan_keeps

theorem peekHead_keeps {s0 : State} {s qid} (h0 : Keeps s0 s) : Keeps s0 (peekHead s qid).2 := by
  unfold peekHead
  repeat' first
    | with_reducible first | assumption | apply memRead_keeps
    | (extract_lets +onlyGivenNames w;
        refine Keeps.cut2 (s0 := s0) w ?a ?b;
        (case' a => dsimp only [w]); (case' b => clear_value w; intro hw))
    | (extract_lets +onlyGivenNames w)
    | split
    | dsimp only [State.modBoot, State.modStor]
    | dsimp +zetaDelta only
    | ((with_reducible refine Keeps.isMk ?_ ?_); rfl)

theorem queuePause_keeps {s0 : State} {s k p pcp quanta} (h0 : Keeps s0 s) :
    Keeps s0 (queuePause s k p pcp quanta) := by
  unfold queuePause
  repeat' first
    | with_reducible assumption
    | (extract_lets +onlyGivenNames w)
    | dsimp +zetaDelta only
    | ((with_reducible refine Keeps.isMk ?_ ?_); rfl)

theorem pauseOut_keeps {s0 : State} {s qid quanta} (h0 : Keeps s0 s) : Keeps s0 (pauseOut s qid quanta) := by
  unfold pauseOut
  repeat' first
    | with_reducible first | assumption | apply queuePause_keeps
    | split

theorem resumeCheck_keeps {s0 : State} {s qid} (h0 : Keeps s0 s) : Keeps s0 (resumeCheck s qid) := by
  unfold resumeCheck
  repeat' first
    | with_reducible first | assumption | apply bpCrumb_keeps | apply pauseOut_keeps | apply State.setQueue_keeps
    | (extract_lets +onlyGivenNames w)
    | split

theorem writeQWm_keeps {s0 : State} {qid x1 s} (h2 : Keeps s0 s) : Keeps s0 (writeQWm qid x1 s) := by
  unfold writeQWm
  repeat' first
    | with_reducible first | assumption | apply State.setQueue_keeps | apply bpCrumb_keeps | apply cfgErr_keeps
    | with_reducible first | apply resumeCheck_keeps | apply ok_keeps
    | intro _
    | (extract_lets +onlyGivenNames w)
    | split

theorem dsqWrite_keeps {s0 : State} {r q off a row x5 s} (h6 : Keeps s0 s) :
    Keeps s0 (dsqWrite r q off a row x5 s) := by
  unfold dsqWrite
  repeat' first
    | with_reducible first | assumption | apply setSel_keeps | apply State.orReg_keeps | apply writeFlowCfg_keeps
    | with_reducible first | apply writeQCfg_keeps | apply writeQWm_keeps | apply State.setQueue_keeps
    | with_reducible apply plainWrite_keeps
    | (extract_lets +onlyGivenNames w;
        refine Keeps.cut (s0 := s0) w ?a ?b;
        (case' a => dsimp only [w]); (case' b => clear_value w; intro hw))
    | (extract_lets +onlyGivenNames w)
    | split

theorem dropHead_keeps {s0 : State} {s qid} (h0 : Keeps s0 s) : Keeps s0 (dropHead s qid) := by
  unfold dropHead
  repeat' with_reducible first | assumption | apply State.setQueue_keeps | apply resumeCheck_keeps

theorem popQ_keeps {s0 : State} {s qid} (h0 : Keeps s0 s) : Keeps s0 (popQ s qid).2 := by
  unfold popQ
  repeat' first
    | with_reducible first | assumption | apply peekHead_keeps | apply dropHead_keeps
    | (extract_lets +onlyGivenNames w;
        refine Keeps.cut2 (s0 := s0) w ?a ?b;
        (case' a => dsimp only [w]); (case' b => clear_value w; intro hw))
    | split

theorem popRow_keeps {s0 : State} {s t c} (h0 : Keeps s0 s) : Keeps s0 (popRow s t c).2 := by
  unfold popRow
  repeat' first
    | with_reducible first | assumption | apply popFail_keeps | apply setSt_keeps | apply popQ_keeps
    | with_reducible apply modChan_keeps
    | (extract_lets +onlyGivenNames w;
        refine Keeps.cut2 (s0 := s0) w ?a ?b;
        (case' a => dsimp only [w]); (case' b => clear_value w; intro hw))
    | (extract_lets +onlyGivenNames w)
    | split

theorem doReset_keeps {s0 : State} {s t c} (h0 : Keeps s0 s) : Keeps s0 (doReset s t c) := by
  unfold doReset
  repeat' first
    | with_reducible first | assumption | apply State.setReg_keeps | apply setChan_keeps | apply State.setField_keeps
    | with_reducible first | apply setSt_keeps | apply Keeps.foldl
    | intro _
    | (extract_lets +onlyGivenNames w;
        refine Keeps.cut (s0 := s0) w ?a ?b;
        (case' a => dsimp only [w]); (case' b => clear_value w; intro hw))
    | (extract_lets +onlyGivenNames w)
    | split

theorem mbxSubmit_keeps {s0 : State} {r n s} (h2 : Keeps s0 s) : Keeps s0 (mbxSubmit r n s) := by
  unfold mbxSubmit
  repeat' first
    | with_reducible first | assumption | apply State.setField_keeps
    | (extract_lets +onlyGivenNames w;
        refine Keeps.cut (s0 := s0) w ?a ?b;
        (case' a => dsimp only [w]); (case' b => clear_value w; intro hw))
    | (extract_lets +onlyGivenNames w)
    | split
    | dsimp +zetaDelta only
    | ((with_reducible refine Keeps.isMk ?_ ?_); rfl)

theorem bufferReply_keeps {s0 : State} {n st s} (h2 : Keeps s0 s) : Keeps s0 (bufferReply n st s) := by
  unfold bufferReply
  repeat' first
    | with_reducible first | assumption | apply writeOnchip_keeps | apply ok_keeps
    | intro _
    | (extract_lets +onlyGivenNames w)
    | split

theorem eccClear_keeps {s0 : State} {t x1 s} (h2 : Keeps s0 s) : Keeps s0 (eccClear t x1 s) := by
  unfold eccClear
  repeat' first
    | with_reducible first | assumption | apply State.setReg_keeps | apply Keeps.foldl
    | intro _
    | split

theorem memcClear_keeps {s0 : State} {t x1 s} (h2 : Keeps s0 s) : Keeps s0 (memcClear t x1 s) := by
  unfold memcClear
  repeat' first
    | with_reducible first | assumption | apply State.setReg_keeps | apply Keeps.foldl
    | intro _
    | split

theorem settleTokens_keeps {s0 : State} {s t c} (h0 : Keeps s0 s) : Keeps s0 (settleTokens s t c) := by
  unfold settleTokens
  repeat' first
    | with_reducible first | assumption | apply State.setReg_keeps
    | (extract_lets +onlyGivenNames w;
        refine Keeps.cut (s0 := s0) w ?a ?b;
        (case' a => dsimp only [w]); (case' b => clear_value w; intro hw))
    | (extract_lets +onlyGivenNames w)
    | dsimp +zetaDelta only
    | ((with_reducible refine Keeps.isMk ?_ ?_); rfl)

theorem setBucket_keeps {s0 : State} {s t} (h0 : Keeps s0 s) : Keeps s0 (setBucket s t) := by
  unfold setBucket
  repeat' with_reducible first | assumption | apply State.setReg_keeps | apply settleTokens_keeps

theorem budgetWrite_keeps {s0 : State} {off a row x3 s} (h4 : Keeps s0 s) :
    Keeps s0 (budgetWrite off a row x3 s) := by
  unfold budgetWrite
  repeat' first
    | with_reducible first | assumption | apply plainWrite_keeps | apply setBucket_keeps | apply Keeps.foldl
    | (extract_lets +onlyGivenNames w;
        refine Keeps.cut (s0 := s0) w ?a ?b;
        (case' a => dsimp only [w]); (case' b => clear_value w; intro hw))
    | split

theorem prbsClear_keeps {s0 : State} {s k l} (h0 : Keeps s0 s) : Keeps s0 (prbsClear s k l) := by
  unfold prbsClear
  repeat' with_reducible first | assumption | apply State.setReg64_keeps

theorem dacClear_keeps {s0 : State} {s n} (h0 : Keeps s0 s) : Keeps s0 (dacClear s n) := by
  unfold dacClear
  repeat' first
    | with_reducible first | assumption | apply State.setField_keeps | apply State.setReg_keeps
    | split

theorem dacCfgWrite_keeps {s0 : State} {n x1 s} (h2 : Keeps s0 s) : Keeps s0 (dacCfgWrite n x1 s) := by
  unfold dacCfgWrite
  repeat' first
    | with_reducible first | assumption | apply State.orReg_keeps | apply State.setField_keeps | apply dacClear_keeps
    | (extract_lets +onlyGivenNames w;
        refine Keeps.cut (s0 := s0) w ?a ?b;
        (case' a => dsimp only [w]); (case' b => clear_value w; intro hw))
    | (extract_lets +onlyGivenNames w)
    | split
    | dsimp +zetaDelta only

theorem dacCodeWrite_keeps {s0 : State} {n x1 s} (h2 : Keeps s0 s) : Keeps s0 (dacCodeWrite n x1 s) := by
  unfold dacCodeWrite
  repeat' first
    | with_reducible first | assumption | apply State.setReg_keeps | apply ok_keeps
    | intro _
    | (extract_lets +onlyGivenNames w)
    | split
    | ((with_reducible refine Keeps.isMk ?_ ?_); rfl)

theorem done_keeps {s0 : State} {k s x} (h1 : Keeps s0 s) : Keeps s0 (done k s x) := by
  unfold done
  repeat' with_reducible first | assumption | apply State.setCore_keeps

theorem acceptMgt_keeps {s0 : State} {good op m critWant p s} (h5 : Keeps s0 s) : KAcc s0 (acceptMgt good op m critWant p s)
    := by
  unfold acceptMgt
  repeat' first
    | with_reducible first | assumption | apply State.setSess_keeps | apply State.stat_keeps | apply acceptAuth_keeps
    | with_reducible first | apply done_keeps | apply ok_keeps | apply KAcc.done_
    | intro _
    | (extract_lets +onlyGivenNames w)
    | split

theorem issueOne_keeps {s0 : State} {s t c} (h0 : Keeps s0 s) : Keeps s0 (issueOne s t c).2 := by
  unfold issueOne
  repeat' first
    | with_reducible first | assumption | apply done_keeps | apply modChan_keeps | apply popRow_keeps
    | with_reducible first | apply setSt_keeps | apply ok_keeps
    | intro _
    | (extract_lets +onlyGivenNames w)
    | split

theorem issueRows_keeps {s0 : State} {x0 x1 x2 x3} (h1 : Keeps s0 x1) : Keeps s0 (issueRows x0 x1 x2 x3) := by
  fun_induction issueRows x0 x1 x2 x3
  all_goals repeat' first
    | with_reducible first | assumption | apply issueOne_keeps | apply ok_keeps | apply_assumption -exfalso -symm
    | intro _
    | (extract_lets +onlyGivenNames w)
    | split

theorem doResume_keeps {s0 : State} {s t c} (h0 : Keeps s0 s) : Keeps s0 (doResume s t c) := by
  unfold doResume
  repeat' first
    | with_reducible first | assumption | apply setChan_keeps | apply issueRows_keeps | apply setSt_keeps
    | with_reducible first | apply putProg_keeps | apply issueFetch_keeps
    | (extract_lets +onlyGivenNames w;
        refine Keeps.cut (s0 := s0) w ?a ?b;
        (case' a => dsimp only [w]); (case' b => clear_value w; intro hw))
    | (extract_lets +onlyGivenNames w)
    | split

theorem dmaDoorbell_keeps {s0 : State} {s t c x3} (h0 : Keeps s0 s) : Keeps s0 (dmaDoorbell s t c x3) := by
  unfold dmaDoorbell
  repeat' first
    | with_reducible first | assumption | apply doRing_keeps | apply doAbort_keeps | apply doResume_keeps
    | with_reducible apply doReset_keeps
    | split

theorem dmaWrite_keeps {s0 : State} {t off a row x4 s} (h5 : Keeps s0 s) : Keeps s0 (dmaWrite t off a row x4 s) := by
  unfold dmaWrite
  repeat' first
    | with_reducible first | assumption | apply evtSet_keeps | apply plainWrite_keeps | apply dmaCtrlWrite_keeps
    | with_reducible apply dmaDoorbell_keeps
    | (extract_lets +onlyGivenNames w)
    | split

theorem State.modRun_keeps {s0 : State} {s n f} (h0 : Keeps s0 s) : Keeps s0 (State.modRun s n f) := by
  unfold State.modRun
  repeat' first
    | with_reducible first | assumption | apply State.setRun_keeps
    | split

theorem ctxWrite_keeps {s0 : State} {s r off bs} (h0 : Keeps s0 s) : Keeps s0 (ctxWrite s r off bs) := by
  unfold ctxWrite
  repeat' with_reducible first | assumption | apply memWrite_keeps

theorem putFeed_keeps {s0 : State} {s r f} (h0 : Keeps s0 s) : Keeps s0 (putFeed s r f) := by
  unfold putFeed
  repeat' with_reducible first | assumption | apply ctxWrite_keeps

theorem putCopy_keeps {s0 : State} {s n i v} (h0 : Keeps s0 s) : Keeps s0 (putCopy s n i v) := by
  unfold putCopy
  repeat' with_reducible first | assumption | apply memWrite_keeps

theorem putPair_keeps {s0 : State} {s n r i v} (h0 : Keeps s0 s) : Keeps s0 (putPair s n r i v) := by
  unfold putPair
  repeat' with_reducible first | assumption | apply putCopy_keeps | apply ctxWrite_keeps

theorem putWin_keeps {s0 : State} {s n r x3} (h0 : Keeps s0 s) : Keeps s0 (putWin s n r x3) := by
  unfold putWin
  repeat' first
    | with_reducible first | assumption | apply State.modRun_keeps | apply putPair_keeps | apply ok_keeps
    | intro _
    | (extract_lets +onlyGivenNames w)
    | split

theorem startFeed_keeps {s0 : State} {s n r p} (h0 : Keeps s0 s) : Keeps s0 (startFeed s n r p) := by
  unfold startFeed
  repeat' first
    | with_reducible first | assumption | apply State.modRun_keeps | apply State.takeFresh_keeps | apply putFeed_keeps
    | with_reducible apply ok_keeps
    | intro _
    | (extract_lets +onlyGivenNames w)
    | split

theorem installWin_keeps {s0 : State} {s n r lo x4} (h0 : Keeps s0 s) : Keeps s0 (installWin s n r lo x4) := by
  unfold installWin
  repeat' first
    | with_reducible first | assumption | apply putWin_keeps | apply startFeed_keeps | apply ok_keeps
    | with_reducible apply Keeps.foldl
    | intro _
    | (extract_lets +onlyGivenNames w)
    | split

theorem putHeader_keeps {s0 : State} {j a f s} (h3 : Keeps s0 s) : Keeps s0 (putHeader j a f s).2 := by
  unfold putHeader
  repeat' first
    | with_reducible first | assumption | apply busWriteMany_keeps | apply ok_keeps
    | intro _
    | (extract_lets +onlyGivenNames w)
    | split

theorem putHeaders_keeps {s0 : State} {j f x2 x3} (h3 : Keeps s0 x3) : Keeps s0 (putHeaders j f x2 x3).2 := by
  fun_induction putHeaders j f x2 x3
  all_goals repeat' first
    | with_reducible first | assumption | apply putHeader_keeps | apply ok_keeps | apply_assumption -exfalso -symm
    | intro _
    | (extract_lets +onlyGivenNames w)
    | split

theorem emptySoft_keeps {s0 : State} {j s} (h1 : Keeps s0 s) : Keeps s0 (emptySoft j s) := by
  unfold emptySoft
  repeat' first
    | with_reducible first | assumption | apply putHeaders_keeps | apply ok_keeps
    | intro _
    | (extract_lets +onlyGivenNames w)
    | split

theorem crumbApply_keeps {s0 : State} {b s q} (h1 : Keeps s0 s) : Keeps s0 (crumbApply b s q) := by
  unfold crumbApply
  repeat' first
    | with_reducible first | assumption | apply State.setReg_keeps | apply State.setReg64_keeps | apply ok_keeps
    | intro _
    | (extract_lets +onlyGivenNames w)
    | split
    | ((with_reducible refine Keeps.isMk ?_ ?_); rfl)

theorem sdStat_keeps {s0 : State} {s k ls i b} (h0 : Keeps s0 s) : Keeps s0 (sdStat s k ls i b) := by
  unfold sdStat
  repeat' first
    | with_reducible first | assumption | apply State.setField_keeps | apply Keeps.foldl
    | intro _

theorem closeLoop_keeps {s0 : State} {s k l} (h0 : Keeps s0 s) : Keeps s0 (closeLoop s k l) := by
  unfold closeLoop
  repeat' first
    | with_reducible first | assumption | apply sdStat_keeps | apply ok_keeps
    | intro _
    | (extract_lets +onlyGivenNames w)
    | split

theorem dropLink_keeps {s0 : State} {s k p} (h0 : Keeps s0 s) : Keeps s0 (dropLink s k p) := by
  unfold dropLink
  repeat' first
    | with_reducible first | assumption | apply State.orReg_keeps | apply State.count_keeps
    | with_reducible first | apply State.setField_keeps | apply sdStat_keeps | apply State.setTx_keeps
    | (extract_lets +onlyGivenNames w;
        refine Keeps.cut (s0 := s0) w ?a ?b;
        (case' a => dsimp only [w]); (case' b => clear_value w; intro hw))
    | (extract_lets +onlyGivenNames w)
    | split
    | dsimp +zetaDelta only

theorem enterStep_keeps {s0 : State} {s k p n} (h0 : Keeps s0 s) : Keeps s0 (enterStep s k p n) := by
  unfold enterStep
  repeat' first
    | with_reducible first | assumption | apply State.setField_keeps
    | (extract_lets +onlyGivenNames w;
        refine Keeps.cut (s0 := s0) w ?a ?b;
        (case' a => dsimp only [w]); (case' b => clear_value w; intro hw))
    | (extract_lets +onlyGivenNames w)
    | dsimp +zetaDelta only
    | ((with_reducible refine Keeps.isMk ?_ ?_); rfl)

theorem portsDown_keeps {s0 : State} {s k} (h0 : Keeps s0 s) : Keeps s0 (portsDown s k) := by
  unfold portsDown
  repeat' first
    | with_reducible first | assumption | apply dropLink_keeps | apply enterStep_keeps | apply Keeps.foldl
    | intro _
    | (extract_lets +onlyGivenNames w;
        refine Keeps.cut (s0 := s0) w ?a ?b;
        (case' a => dsimp only [w]); (case' b => clear_value w; intro hw))
    | split

theorem execReferenceLost_keeps {s0 : State} {s} (h0 : Keeps s0 s) : KOut s0 (execReferenceLost s) := by
  unfold execReferenceLost
  repeat' first
    | with_reducible first | assumption | apply refLost_keeps | apply ok_keeps
    | (extract_lets +onlyGivenNames w)
    | split

theorem noteStep_keeps {s0 : State} {s n} (h0 : Keeps s0 s) : Keeps s0 (noteStep s n) := by
  unfold noteStep
  repeat' first
    | with_reducible first | assumption | apply State.setField_keeps
    | split

theorem readHalf_keeps {s0 : State} {r a high v s} (h4 : Keeps s0 s) : Keeps s0 (readHalf r a high v s).2 := by
  unfold readHalf
  repeat' first
    | with_reducible assumption
    | (extract_lets +onlyGivenNames w)
    | split
    | dsimp only [State.modBoot, State.modStor]
    | dsimp +zetaDelta only
    | ((with_reducible refine Keeps.isMk ?_ ?_); rfl)

theorem coreRead_keeps {s0 : State} {r t c off s} (h4 : Keeps s0 s) : Keeps s0 (coreRead r t c off s).2 := by
  unfold coreRead
  repeat' first
    | with_reducible first | assumption | apply readHalf_keeps | apply State.setCore_keeps
    | (extract_lets +onlyGivenNames w)
    | split

theorem allocRead_keeps {s0 : State} {r s} (h1 : Keeps s0 s) : Keeps s0 (allocRead r s).2 := by
  unfold allocRead
  repeat' first
    | with_reducible first | assumption | apply State.setReg_keeps
    | split

theorem setLatches_keeps {s0 : State} {s l} (h0 : Keeps s0 s) : Keeps s0 (setLatches s l) := by
  unfold setLatches
  repeat' first
    | with_reducible assumption
    | (extract_lets +onlyGivenNames w)
    | dsimp +zetaDelta only
    | ((with_reducible refine Keeps.isMk ?_ ?_); rfl)

theorem readSec_keeps {s0 : State} {r a high v s} (h4 : Keeps s0 s) : Keeps s0 (readSec r a high v s).2 := by
  unfold readSec
  repeat' first
    | with_reducible first | assumption | apply setLatches_keeps | apply readHalf_keeps
    | (extract_lets +onlyGivenNames w)
    | split

theorem latchSec_keeps {s0 : State} {r sec v s} (h3 : Keeps s0 s) : Keeps s0 (latchSec r sec v s) := by
  unfold latchSec
  repeat' with_reducible first | assumption | apply setLatches_keeps

theorem clearRead_keeps {s0 : State} {s b off a k} (h0 : Keeps s0 s) : Keeps s0 (clearRead s b off a k) := by
  unfold clearRead
  repeat' first
    | with_reducible first | assumption | apply State.setReg_keeps
    | split

theorem read32_keeps {s0 : State} {r b off a s} (h4 : Keeps s0 s) : Keeps s0 (read32 r b off a s).2 := by
  unfold read32
  repeat' first
    | with_reducible first | assumption | apply coreRead_keeps | apply allocRead_keeps | apply readSec_keeps
    | with_reducible first | apply readHalf_keeps | apply latchSec_keeps | apply clearRead_keeps
    | (extract_lets +onlyGivenNames w;
        refine Keeps.cut2 (s0 := s0) w ?a ?b;
        (case' a => dsimp only [w]); (case' b => clear_value w; intro hw))
    | (extract_lets +onlyGivenNames w)
    | split

theorem busRead_keeps {s0 : State} {r a n s} (h3 : Keeps s0 s) : Keeps s0 (busRead r a n s).2 := by
  unfold busRead
  repeat' first
    | with_reducible first | assumption | apply read32_keeps | apply busMemRead_keeps
    | (extract_lets +onlyGivenNames w;
        refine Keeps.cut2 (s0 := s0) w ?a ?b;
        (case' a => dsimp only [w]); (case' b => clear_value w; intro hw))
    | split

theorem State.answer_keeps {s0 : State} {s r} (h0 : Keeps s0 s) : Keeps s0 (State.answer s r) := by
  unfold State.answer
  repeat' first
    | with_reducible assumption
    | (extract_lets +onlyGivenNames w)
    | dsimp +zetaDelta only
    | ((with_reducible refine Keeps.isMk ?_ ?_); rfl)

theorem sendBack_keeps {s0 : State} {q r s} (h2 : Keeps s0 s) : Keeps s0 (sendBack q r s) := by
  unfold sendBack
  repeat' first
    | with_reducible first | assumption | apply State.answer_keeps | apply launchPacket_keeps | apply ok_keeps
    | intro _
    | (extract_lets +onlyGivenNames w)
    | split
    | ((with_reducible refine Keeps.isMk ?_ ?_); rfl)

theorem readAnswer_keeps {s0 : State} {r a n s} (h3 : Keeps s0 s) : Keeps s0 (readAnswer r a n s) := by
  unfold readAnswer
  repeat' first
    | with_reducible first | assumption | apply busRead_keeps | apply State.answer_keeps
    | (extract_lets +onlyGivenNames w;
        refine Keeps.cut2 (s0 := s0) w ?a ?b;
        (case' a => dsimp only [w]); (case' b => clear_value w; intro hw))
    | split

theorem execRcRead_keeps {s0 : State} {r addr s} (h2 : Keeps s0 s) : KOut s0 (execRcRead r addr s) := by
  unfold execRcRead
  repeat' with_reducible first | assumption | apply readAnswer_keeps | apply ok_keeps

theorem setJob_keeps {s0 : State} {s j} (h0 : Keeps s0 s) : Keeps s0 (setJob s j) := by
  unfold setJob
  repeat' first
    | with_reducible assumption
    | (extract_lets +onlyGivenNames w)
    | dsimp +zetaDelta only
    | ((with_reducible refine Keeps.isMk ?_ ?_); rfl)

theorem decideJob_keeps {s0 : State} {j st s} (h2 : Keeps s0 s) : Keeps s0 (decideJob j st s) := by
  unfold decideJob
  repeat' with_reducible first | assumption | apply setJob_keeps

theorem performWrites_keeps {s0 : State} {j x1 x2} (h2 : Keeps s0 x2) : Keeps s0 (performWrites j x1 x2).2 := by
  fun_induction performWrites j x1 x2
  all_goals repeat' first
    | with_reducible first | assumption | apply busWriteMany_keeps | apply_assumption -exfalso -symm

theorem jobWrite_keeps {s0 : State} {j ws s} (h2 : Keeps s0 s) : Keeps s0 (jobWrite j ws s).2.2 := by
  unfold jobWrite
  repeat' first
    | with_reducible first | assumption | apply performWrites_keeps | apply State.orReg_keeps
    | (extract_lets +onlyGivenNames w;
        refine Keeps.cut2 (s0 := s0) w ?a ?b;
        (case' a => dsimp only [w]); (case' b => clear_value w; intro hw))
    | (extract_lets +onlyGivenNames w)
    | split
    | dsimp only [State.modBoot, State.modStor]
    | dsimp +zetaDelta only

theorem failJob_keeps {s0 : State} {j st s} (h2 : Keeps s0 s) : Keeps s0 (failJob j st s) := by
  unfold failJob
  repeat' first
    | with_reducible first | assumption | apply decideJob_keeps | apply ok_keeps
    | intro _
    | (extract_lets +onlyGivenNames w)
    | split

theorem failRead_keeps {s0 : State} {j e x2 s} (h2 : Keeps s0 x2) (h3 : Keeps s0 s) : Keeps s0 (failRead j e x2 s) := by
  unfold failRead
  repeat' first
    | with_reducible first | assumption | apply decideJob_keeps | apply failJob_keeps | apply ok_keeps
    | intro _
    | (extract_lets +onlyGivenNames w)
    | split

theorem pauseJob_keeps {s0 : State} {j s} (h1 : Keeps s0 s) : Keeps s0 (pauseJob j s) := by
  unfold pauseJob
  repeat' first
    | with_reducible first | assumption | apply State.orReg_keeps | apply setJob_keeps | apply ok_keeps
    | intro _
    | (extract_lets +onlyGivenNames w)
    | split

theorem runJob_keeps {s0 : State} {acc func tile ref work s} (h4 : ∀ (y0 : AccJob) (y1 : State), Keeps s0 y1 → Keeps
    s0 (work y0 y1).2.2) (h5 : Keeps s0 s) :
    KOut s0 (runJob acc func tile ref work s) := by
  unfold runJob
  repeat' first
    | with_reducible first | assumption | apply decideJob_keeps | apply failJob_keeps | apply failRead_keeps
    | with_reducible first | apply jobWrite_keeps | apply pauseJob_keeps | apply ok_keeps
    | with_reducible apply_assumption -exfalso -symm
    | intro _
    | (extract_lets +onlyGivenNames w)
    | split

theorem busReadBlocks_keeps {s0 : State} {r x1 x2 x3 x4} (h4 : Keeps s0 x4) :
    Keeps s0 (busReadBlocks r x1 x2 x3 x4).2 := by
  fun_induction busReadBlocks r x1 x2 x3 x4
  all_goals repeat' first
    | with_reducible first | assumption | apply busMemRead_keeps | apply_assumption -exfalso -symm

theorem busReadMany_keeps {s0 : State} {r a n s} (h3 : Keeps s0 s) : Keeps s0 (busReadMany r a n s).2 := by
  unfold busReadMany
  repeat' with_reducible first | assumption | apply busReadBlocks_keeps

theorem tagUe_keeps {s0 : State} {j s} (h1 : Keeps s0 s) : Keeps s0 (tagUe j s) := by
  unfold tagUe
  repeat' first
    | with_reducible assumption
    | (extract_lets +onlyGivenNames w)
    | split
    | dsimp +zetaDelta only
    | ((with_reducible refine Keeps.isMk ?_ ?_); rfl)

theorem jobRead_keeps {s0 : State} {j a n s} (h3 : Keeps s0 s) : Keeps s0 (jobRead j a n s).2 := by
  unfold jobRead
  repeat' first
    | with_reducible first | assumption | apply busReadMany_keeps | apply tagUe_keeps
    | (extract_lets +onlyGivenNames w;
        refine Keeps.cut2 (s0 := s0) w ?a ?b;
        (case' a => dsimp only [w]); (case' b => clear_value w; intro hw))
    | split

theorem jobReads_keeps {s0 : State} {j x1 x2} (h2 : Keeps s0 x2) : Keeps s0 (jobReads j x1 x2).2 := by
  fun_induction jobReads j x1 x2
  all_goals repeat' with_reducible first | assumption | apply jobRead_keeps | apply_assumption -exfalso -symm

theorem lockSofts_keeps {s0 : State} {j x1 x2} (h2 : Keeps s0 x2) : Keeps s0 (lockSofts j x1 x2).2.2 := by
  fun_induction lockSofts j x1 x2
  all_goals repeat' first
    | with_reducible first | assumption | apply State.takeFresh_keeps | apply jobRead_keeps | apply putHeader_keeps
    | with_reducible first | apply ok_keeps | apply_assumption -exfalso -symm
    | intro _
    | (extract_lets +onlyGivenNames w)
    | split

theorem readSofts_keeps {s0 : State} {j x1 x2} (h2 : Keeps s0 x2) : Keeps s0 (readSofts j x1 x2).2.2 := by
  fun_induction readSofts j x1 x2
  all_goals repeat' first
    | with_reducible first | assumption | apply jobRead_keeps | apply putHeader_keeps | apply ok_keeps
    | with_reducible apply_assumption -exfalso -symm
    | intro _
    | (extract_lets +onlyGivenNames w)
    | split
    | dsimp +zetaDelta only

end Sys2Proof.Machine
end

