-- ==== Sys2Proof/Laws/Keeps03.lean ====
section
/-! SUPPORT. Each shared operation and each command keeps what `Keeps` says (part 3 of 10, in the order in which
they use one another). -/

namespace Sys2Proof.Machine

theorem combineSofts_keeps {s0 : State} {j addrs llrs s} (h3 : Keeps s0 s) : Keeps s0 (combineSofts j addrs llrs s).2.2
    := by
  unfold combineSofts
  repeat' first
    | with_reducible first | assumption | apply lockSofts_keeps | apply performWrites_keeps | apply readSofts_keeps
    | with_reducible apply ok_keeps
    | intro _
    | (extract_lets +onlyGivenNames w)
    | split

theorem softDecode_keeps {s0 : State} {j size s} (h2 : Keeps s0 s) : Keeps s0 (softDecode j size s).2.2 := by
  unfold softDecode
  repeat' first
    | with_reducible first | assumption | apply State.count_keeps | apply combineSofts_keeps | apply jobRead_keeps
    | with_reducible first | apply jobReads_keeps | apply ok_keeps
    | intro _
    | (extract_lets +onlyGivenNames w)
    | split

theorem execLdpcDec_keeps {s0 : State} {tile ref s} (h2 : Keeps s0 s) : KOut s0 (execLdpcDec tile ref s) := by
  unfold execLdpcDec
  repeat' first
    | with_reducible first | assumption | apply runJob_keeps | apply softDecode_keeps | apply ok_keeps
    | intro _
    | split

theorem addJob_keeps {s0 : State} {s j} (h0 : Keeps s0 s) : Keeps s0 (addJob s j) := by
  unfold addJob
  repeat' first
    | with_reducible assumption
    | (extract_lets +onlyGivenNames w)
    | dsimp +zetaDelta only
    | ((with_reducible refine Keeps.isMk ?_ ?_); rfl)

theorem execAccCqArrive_keeps {s0 : State} {tile core tag s} (h3 : Keeps s0 s) :
    KOut s0 (execAccCqArrive tile core tag s) := by
  unfold execAccCqArrive
  repeat' first
    | with_reducible first | assumption | apply modCq_keeps | apply cqResult_keeps | apply addJob_keeps
    | with_reducible apply ok_keeps
    | (extract_lets +onlyGivenNames w;
        refine Keeps.cut (s0 := s0) w ?a ?b;
        (case' a => dsimp only [w]); (case' b => clear_value w; intro hw))
    | split

theorem execSpurFarEndEnergy_keeps {s0 : State} {port s} (h1 : Keeps s0 s) :
    KOut s0 (execSpurFarEndEnergy port s) := by
  unfold execSpurFarEndEnergy
  repeat' first
    | with_reducible first | assumption | apply spurEnter_keeps | apply ok_keeps
    | split

theorem ownedWrite_keeps {s0 : State} {r n act s} (h2 : ∀ (y0 : State), Keeps s0 y0 → Keeps s0 (act y0)) (h3 : Keeps
    s0 s) :
    KOut s0 (ownedWrite r n act s) := by
  unfold ownedWrite
  repeat' first
    | with_reducible first | assumption | apply h2 | apply State.answer_keeps | apply ok_keeps
    | split

theorem execMbxFree_keeps {s0 : State} {r n value s} (h3 : Keeps s0 s) : KOut s0 (execMbxFree r n value s) := by
  unfold execMbxFree
  repeat' first
    | with_reducible first | assumption | apply ownedWrite_keeps | apply State.setReg_keeps
    | intro _
    | (extract_lets +onlyGivenNames w)
    | split

theorem parisonUp_keeps {s0 : State} {x0} (h0 : Keeps s0 x0) : Keeps s0 (parisonUp x0) :=
  boot_keeps h0 id id (fun _ x a b => ⟨x, a, rfl, b, id⟩) (Nat.le_max_left _ _) rfl

theorem startPorts_keeps {s0 : State} {s k ps} (h0 : Keeps s0 s) : Keeps s0 (startPorts s k ps) := by
  unfold startPorts
  repeat' first
    | with_reducible first | assumption | apply enterStep_keeps | apply Keeps.foldl
    | intro _
    | (extract_lets +onlyGivenNames w)
    | split

theorem issueMove_keeps {s0 : State} {s} (h0 : Keeps s0 s) : Keeps s0 (issueMove s) := by
  unfold issueMove
  repeat' first
    | with_reducible assumption
    | (extract_lets +onlyGivenNames w)
    | split
    | dsimp only [State.modBoot, State.modStor]
    | dsimp +zetaDelta only
    | ((with_reducible refine Keeps.isMk ?_ ?_); rfl)

theorem ownSettings_keeps {s0 : State} {l s} (h1 : Keeps s0 s) : Keeps s0 (ownSettings l s) := by
  unfold ownSettings
  repeat' first
    | with_reducible first | assumption | apply proceed_keeps
    | (extract_lets +onlyGivenNames w)
    | dsimp +zetaDelta only
    | ((with_reducible refine Keeps.isMk ?_ ?_); rfl)

theorem admitStored_keeps {s0 : State} {s} (h0 : Keeps s0 s) : Keeps s0 (admitStored s) := by
  unfold admitStored
  repeat' with_reducible first | assumption | apply ownSettings_keeps

theorem fullService_keeps {s0 : State} {s} (h0 : Keeps s0 s) : Keeps s0 (fullService s) := by
  unfold fullService
  repeat' first
    | with_reducible first | assumption | apply State.raise_keeps | apply State.setField_keeps
    | (extract_lets +onlyGivenNames w)
    | dsimp only [State.modBoot, State.modStor]
    | ((with_reducible refine Keeps.isMk ?_ ?_); rfl)

theorem progress1_keeps {s0 : State} {s} (h0 : Keeps s0 s) : Keeps s0 (progress1 s) := by
  unfold progress1
  repeat' first
    | with_reducible first | assumption | apply parisonUp_keeps | apply startPorts_keeps | apply issueMove_keeps
    | with_reducible first | apply admitStored_keeps | apply fullService_keeps
    | (extract_lets +onlyGivenNames w)
    | split
    | dsimp only [State.modBoot, State.modStor]
    | ((with_reducible refine Keeps.isMk ?_ ?_); rfl)

theorem progress_keeps {s0 : State} {s} (h0 : Keeps s0 s) : Keeps s0 (progress s) := by
  unfold progress
  repeat' with_reducible first | assumption | apply progress1_keeps

theorem parisonAdmit_keeps {s0 : State} {paths s} (h1 : Keeps s0 s) : Keeps s0 (parisonAdmit paths s) := by
  unfold parisonAdmit
  repeat' first
    | with_reducible first | assumption | apply progress_keeps | apply ownSettings_keeps
    | (extract_lets +onlyGivenNames w)
    | dsimp only [State.modBoot, State.modStor]
    | ((with_reducible refine Keeps.isMk ?_ ?_); rfl)

theorem execRte_keeps {s0 : State} {k s} (h1 : Keeps s0 s) : KOut s0 (execRte k s) := by
  unfold execRte
  repeat' first
    | with_reducible first | assumption | apply State.setCore_keeps | apply issue_keeps | apply syncExc_keeps
    | with_reducible apply ok_keeps
    | intro _
    | (extract_lets +onlyGivenNames w)
    | split

theorem plain_keeps {s0 : State} {k fmt takesPrefix f s} (h4 : Keeps s0 s) :
    KOut s0 (plain k fmt takesPrefix f s) := by
  unfold plain
  repeat' first
    | with_reducible first | assumption | apply issue_keeps | apply done_keeps | apply ok_keeps
    | intro _

theorem execCqtest_keeps {s0 : State} {k tag s} (h2 : Keeps s0 s) : KOut s0 (execCqtest k tag s) := by
  unfold execCqtest
  repeat' with_reducible first | assumption | apply plain_keeps

theorem State.count64_keeps {s0 : State} {s a n} (h0 : Keeps s0 s) : Keeps s0 (State.count64 s a n) := by
  unfold State.count64
  repeat' with_reducible first | assumption | apply State.setReg64_keeps

theorem State.modFh_keeps {s0 : State} {s f} (h0 : Keeps s0 s) : Keeps s0 (State.modFh s f) := by
  unfold State.modFh
  repeat' first
    | with_reducible assumption
    | ((with_reducible refine Keeps.isMk ?_ ?_); rfl)

theorem beginRec_keeps {s0 : State} {s b n closed} (h0 : Keeps s0 s) : Keeps s0 (beginRec s b n closed) := by
  unfold beginRec
  repeat' first
    | with_reducible first | assumption | apply popQ_keeps | apply fhEvent_keeps | apply State.modFh_keeps
    | (extract_lets +onlyGivenNames w)
    | split

theorem pauseCheck_keeps {s0 : State} {s qid} (h0 : Keeps s0 s) : Keeps s0 (pauseCheck s qid) := by
  unfold pauseCheck
  repeat' first
    | with_reducible first | assumption | apply bpCrumb_keeps | apply pauseOut_keeps | apply State.setQueue_keeps
    | (extract_lets +onlyGivenNames w)
    | split

theorem egressActivate_keeps {s0 : State} {s qid e} (h0 : Keeps s0 s) : Keeps s0 (egressActivate s qid e) := by
  unfold egressActivate
  repeat' first
    | with_reducible first | assumption | apply State.setEgq_keeps
    | (extract_lets +onlyGivenNames w)
    | split

theorem enqueue_keeps {s0 : State} {s qid e} (h0 : Keeps s0 s) : Keeps s0 (enqueue s qid e) := by
  unfold enqueue
  repeat' first
    | with_reducible first | assumption | apply State.setFlow_keeps | apply State.count_keeps
    | with_reducible first | apply State.orReg_keeps | apply State.setField_keeps | apply memWrite_keeps
    | with_reducible first | apply State.setQueue_keeps | apply pauseCheck_keeps | apply noteDepth_keeps
    | with_reducible apply egressActivate_keeps
    | (extract_lets +onlyGivenNames w;
        refine Keeps.cut (s0 := s0) w ?a ?b;
        (case' a => dsimp only [w]); (case' b => clear_value w; intro hw))
    | (extract_lets +onlyGivenNames w)
    | split
    | dsimp +zetaDelta only

theorem pushQ_keeps {s0 : State} {p qid e s} (h3 : Keeps s0 s) : Keeps s0 (pushQ p qid e s).2 := by
  unfold pushQ
  repeat' first
    | with_reducible first | assumption | apply State.orReg_keeps | apply enqueue_keeps | apply bpCrumb_keeps
    | with_reducible apply State.setQueue_keeps
    | (extract_lets +onlyGivenNames w)
    | split

theorem releaseRec_keeps {s0 : State} {s b x} (h0 : Keeps s0 s) : Keeps s0 (releaseRec s b x) := by
  unfold releaseRec
  repeat' first
    | with_reducible first | assumption | apply State.modFh_keeps | apply fhEvent_keeps | apply State.takeFresh_keeps
    | with_reducible first | apply busWriteMany_keeps | apply pushQ_keeps
    | (extract_lets +onlyGivenNames w;
        refine Keeps.cut (s0 := s0) w ?a ?b;
        (case' a => dsimp only [w]); (case' b => clear_value w; intro hw))
    | (extract_lets +onlyGivenNames w)
    | split
    | dsimp +zetaDelta only

theorem releaseReady_keeps {s0 : State} {b x1 x2} (h2 : Keeps s0 x2) : Keeps s0 (releaseReady b x1 x2) := by
  fun_induction releaseReady b x1 x2
  all_goals repeat' first
    | with_reducible first | assumption | apply beginRec_keeps | apply releaseRec_keeps
    | with_reducible apply_assumption -exfalso -symm

theorem release_keeps {s0 : State} {b s} (h1 : Keeps s0 s) : Keeps s0 (release b s) := by
  unfold release
  repeat' with_reducible first | assumption | apply releaseReady_keeps

theorem setUpRec_keeps {s0 : State} {s x} (h0 : Keeps s0 s) : Keeps s0 (setUpRec s x) := by
  unfold setUpRec
  repeat' with_reducible first | assumption | apply State.modFh_keeps

theorem takePacket_keeps {s0 : State} {s b at_ p} (h0 : Keeps s0 s) : Keeps s0 (takePacket s b at_ p) := by
  unfold takePacket
  repeat' first
    | with_reducible first | assumption | apply fhEvent_keeps | apply beginRec_keeps | apply release_keeps
    | with_reducible apply setUpRec_keeps
    | (extract_lets +onlyGivenNames w;
        refine Keeps.cut (s0 := s0) w ?a ?b;
        (case' a => dsimp only [w]); (case' b => clear_value w; intro hw))
    | (extract_lets +onlyGivenNames w)
    | split
    | dsimp +zetaDelta only

theorem frontHaul_keeps {s0 : State} {pkey roe p drop s} (h3 : ∀ (y0 : State), Keeps s0 y0 → Keeps s0 (drop y0)) (h4 :
    Keeps s0 s) :
    Keeps s0 (frontHaul pkey roe p drop s) := by
  unfold frontHaul
  repeat' first
    | with_reducible first | assumption | apply h3 | apply takePacket_keeps
    | split

theorem ecpri_keeps {s0 : State} {pkey tags msgType p drop s} (h4 : ∀ (y0 : State), Keeps s0 y0 → Keeps s0 (drop y0))
    (h5 : Keeps s0 s) :
    Keeps s0 (ecpri pkey tags msgType p drop s) := by
  unfold ecpri
  repeat' first
    | with_reducible first | assumption | apply h4 | apply frontHaul_keeps
    | split

theorem spurRx_keeps {s0 : State} {p f s} (h2 : Keeps s0 s) : Keeps s0 (spurRx p f s) := by
  unfold spurRx
  repeat' first
    | with_reducible first | assumption | apply State.count_keeps | apply ecpri_keeps
    | intro _
    | split

theorem spurFrame_keeps {s0 : State} {s p} (h0 : Keeps s0 s) : Keeps s0 (spurFrame s p) := by
  unfold spurFrame
  repeat' first
    | with_reducible first | assumption | apply State.setField_keeps
    | (extract_lets +onlyGivenNames w)
    | ((with_reducible refine Keeps.isMk ?_ ?_); rfl)

theorem blockIn_keeps {s0 : State} {p good fs s} (h3 : Keeps s0 s) : Keeps s0 (blockIn p good fs s) := by
  unfold blockIn
  repeat' first
    | with_reducible first | assumption | apply State.count64_keeps | apply spurRx_keeps | apply State.count_keeps
    | with_reducible first | apply spurFrame_keeps | apply Keeps.foldl
    | intro _
    | (extract_lets +onlyGivenNames w;
        refine Keeps.cut (s0 := s0) w ?a ?b;
        (case' a => dsimp only [w]); (case' b => clear_value w; intro hw))
    | (extract_lets +onlyGivenNames w)
    | split
    | dsimp +zetaDelta only

theorem keepTrim_keeps {s0 : State} {s r f} (h0 : Keeps s0 s) : Keeps s0 (keepTrim s r f) := by
  unfold keepTrim
  repeat' first
    | with_reducible assumption
    | (extract_lets +onlyGivenNames w)
    | split
    | dsimp +zetaDelta only
    | ((with_reducible refine Keeps.isMk ?_ ?_); rfl)

theorem putMask_keeps {s0 : State} {s n r} (h0 : Keeps s0 s) : Keeps s0 (putMask s n r) := by
  unfold putMask
  repeat' with_reducible first | assumption | apply putPair_keeps

theorem removeFeed_keeps {s0 : State} {s n r f} (h0 : Keeps s0 s) : Keeps s0 (removeFeed s n r f) := by
  unfold removeFeed
  repeat' first
    | with_reducible first | assumption | apply putFeed_keeps | apply keepTrim_keeps | apply putMask_keeps
    | with_reducible apply putWin_keeps
    | (extract_lets +onlyGivenNames w;
        refine Keeps.cut (s0 := s0) w ?a ?b;
        (case' a => dsimp only [w]); (case' b => clear_value w; intro hw))
    | (extract_lets +onlyGivenNames w)
    | split
    | dsimp +zetaDelta only

theorem finishMbx_keeps {s0 : State} {s key st payload crit} (h0 : Keeps s0 s) :
    Keeps s0 (finishMbx s key st payload crit) := by
  unfold finishMbx
  repeat' first
    | with_reducible first | assumption | apply State.respond_keeps | apply freeMbx_keeps
    | split

theorem releaseRun_keeps {s0 : State} {s n r} (h0 : Keeps s0 s) : Keeps s0 (releaseRun s n r) := by
  unfold releaseRun
  repeat' first
    | with_reducible first | assumption | apply State.setQueue_keeps | apply finishMbx_keeps | apply Keeps.foldl
    | intro _
    | (extract_lets +onlyGivenNames w;
        refine Keeps.cut (s0 := s0) w ?a ?b;
        (case' a => dsimp only [w]); (case' b => clear_value w; intro hw))
    | (extract_lets +onlyGivenNames w)
    | split
    | dsimp +zetaDelta only
    | ((with_reducible refine Keeps.isMk ?_ ?_); rfl)

theorem endStep_keeps {s0 : State} {s n r} (h0 : Keeps s0 s) : Keeps s0 (endStep s n r) := by
  unfold endStep
  repeat' first
    | with_reducible first | assumption | apply State.modRun_keeps | apply putPair_keeps | apply removeFeed_keeps
    | with_reducible apply releaseRun_keeps
    | split

theorem setFabSt_keeps {s0 : State} {s f n} (h0 : Keeps s0 s) : Keeps s0 (setFabSt s f n) := by
  unfold setFabSt
  repeat' with_reducible first | assumption | apply State.setField_keeps

theorem State.modFab_keeps {s0 : State} {s f g} (h0 : Keeps s0 s) : Keeps s0 (State.modFab s f g) := by
  unfold State.modFab
  repeat' first
    | with_reducible assumption
    | ((with_reducible refine Keeps.isMk ?_ ?_); rfl)

theorem fabGiveUp_keeps {s0 : State} {s f j st} (h0 : Keeps s0 s) : Keeps s0 (fabGiveUp s f j st) := by
  unfold fabGiveUp
  repeat' first
    | with_reducible first | assumption | apply finishMbx_keeps | apply setFabSt_keeps | apply State.modFab_keeps

theorem scrubDone_keeps {s0 : State} {m s} (h1 : Keeps s0 s) : Keeps s0 (scrubDone m s) := by
  unfold scrubDone
  repeat' first
    | with_reducible first | assumption | apply State.setReg64_keeps
    | (extract_lets +onlyGivenNames w;
        refine Keeps.cut (s0 := s0) w ?a ?b;
        (case' a => dsimp only [w]); (case' b => clear_value w; intro hw))
    | (extract_lets +onlyGivenNames w)
    | split
    | dsimp +zetaDelta only
    | ((with_reducible refine Keeps.isMk ?_ ?_); rfl)

theorem refuse_keeps {s0 : State} {st s} (h1 : Keeps s0 s) : Keeps s0 (refuse st s).state := by
  unfold refuse
  repeat' with_reducible assumption

theorem answerExport_keeps {s0 : State} {s e st status run} (h0 : Keeps s0 s) :
    Keeps s0 (answerExport s e st status run) := by
  unfold answerExport
  repeat' first
    | with_reducible first | assumption | apply finishMbx_keeps
    | split

theorem exportFails_keeps {s0 : State} {s k e event st status} (h0 : Keeps s0 s) :
    Keeps s0 (exportFails s k e event st status) := by
  unfold exportFails
  repeat' first
    | with_reducible first | assumption | apply answerExport_keeps | apply State.raise_keeps
    | with_reducible apply State.setPeer_keeps
    | (extract_lets +onlyGivenNames w;
        refine Keeps.cut (s0 := s0) w ?a ?b;
        (case' a => dsimp only [w]); (case' b => clear_value w; intro hw))
    | split

theorem endPeer_keeps {s0 : State} {s k p} (h0 : Keeps s0 s) : Keeps s0 (endPeer s k p) := by
  unfold endPeer
  repeat' first
    | with_reducible first | assumption | apply State.setPeer_keeps | apply exportFails_keeps | apply ok_keeps
    | with_reducible apply Keeps.foldl
    | intro _
    | (extract_lets +onlyGivenNames w)
    | split

theorem powerReq_keeps {s0 : State} {s ref result} (h0 : Keeps s0 s) : Keeps s0 (powerReq s ref result) := by
  unfold powerReq
  repeat' with_reducible first | assumption | apply State.setReg_keeps

theorem powerDone_keeps {s0 : State} {s key} (h0 : Keeps s0 s) : Keeps s0 (powerDone s key) := by
  unfold powerDone
  repeat' with_reducible first | assumption | apply finishMbx_keeps | apply powerReq_keeps

theorem powerBusy_keeps {s0 : State} {s b} (h0 : Keeps s0 s) : Keeps s0 (powerBusy s b) := by
  unfold powerBusy
  repeat' with_reducible first | assumption | apply State.setField_keeps

theorem State.modPower_keeps {s0 : State} {s f} (h0 : Keeps s0 s) : Keeps s0 (State.modPower s f) := by
  unfold State.modPower
  repeat' first
    | with_reducible assumption
    | ((with_reducible refine Keeps.isMk ?_ ?_); rfl)

theorem endActive_keeps {s0 : State} {s} (h0 : Keeps s0 s) : Keeps s0 (endActive s) := by
  unfold endActive
  repeat' first
    | with_reducible first | assumption | apply powerDone_keeps | apply powerBusy_keeps | apply State.modPower_keeps
    | split

theorem endRollback_keeps {s0 : State} {s} (h0 : Keeps s0 s) : Keeps s0 (endRollback s) := by
  unfold endRollback
  repeat' first
    | with_reducible first | assumption | apply powerBusy_keeps | apply State.modPower_keeps | apply finishMbx_keeps
    | (extract_lets +onlyGivenNames w;
        refine Keeps.cut (s0 := s0) w ?a ?b;
        (case' a => dsimp only [w]); (case' b => clear_value w; intro hw))
    | split

theorem powerRecord_keeps {s0 : State} {s what a more} (h0 : Keeps s0 s) : Keeps s0 (powerRecord s what a more) := by
  unfold powerRecord
  repeat' with_reducible first | assumption | apply State.journal_keeps

theorem commitStill_keeps {s0 : State} {s x} (h0 : Keeps s0 s) : Keeps s0 (commitStill s x) := by
  unfold commitStill
  repeat' first
    | with_reducible first | assumption | apply State.setField_keeps | apply State.modPower_keeps
    | with_reducible first | apply powerRecord_keeps | apply powerDone_keeps

theorem State.modIsland_keeps {s0 : State} {s t f} (h0 : Keeps s0 s) : Keeps s0 (State.modIsland s t f) := by
  unfold State.modIsland
  repeat' with_reducible first | assumption | apply State.setIsland_keeps

theorem startWake_keeps {s0 : State} {s t} (h0 : Keeps s0 s) : Keeps s0 (startWake s t) := by
  unfold startWake
  repeat' first
    | with_reducible first | assumption | apply State.setIsland_keeps
    | (extract_lets +onlyGivenNames w)
    | split

theorem enterSleep_keeps {s0 : State} {s t target} (h0 : Keeps s0 s) : Keeps s0 (enterSleep s t target) := by
  unfold enterSleep
  repeat' first
    | with_reducible first | assumption | apply settleCycles_keeps | apply State.setField_keeps
    | with_reducible first | apply State.setReg_keeps | apply State.modIsland_keeps | apply startWake_keeps
    | (extract_lets +onlyGivenNames w;
        refine Keeps.cut (s0 := s0) w ?a ?b;
        (case' a => dsimp only [w]); (case' b => clear_value w; intro hw))
    | (extract_lets +onlyGivenNames w)
    | split
    | dsimp +zetaDelta only
    | ((with_reducible refine Keeps.isMk ?_ ?_); rfl)

theorem sleepOrDrain_keeps {s0 : State} {s t target} (h0 : Keeps s0 s) : Keeps s0 (sleepOrDrain s t target) := by
  unfold sleepOrDrain
  repeat' first
    | with_reducible first | assumption | apply State.modIsland_keeps | apply enterSleep_keeps
    | split

theorem dropCalendars_keeps {s0 : State} {s k} (h0 : Keeps s0 s) : Keeps s0 (dropCalendars s k) := by
  unfold dropCalendars
  repeat' first
    | with_reducible first | assumption | apply complete_keeps | apply State.setCalendar_keeps | apply Keeps.foldl
    | intro _

theorem selfRefresh_keeps {s0 : State} {s t} (h0 : Keeps s0 s) : Keeps s0 (selfRefresh s t) := by
  unfold selfRefresh
  repeat' first
    | with_reducible assumption
    | (extract_lets +onlyGivenNames w)
    | split
    | dsimp +zetaDelta only
    | ((with_reducible refine Keeps.isMk ?_ ?_); rfl)

theorem beforeStop_keeps {s0 : State} {s t} (h0 : Keeps s0 s) : Keeps s0 (beforeStop s t) := by
  unfold beforeStop
  repeat' first
    | with_reducible first | assumption | apply dropCalendars_keeps | apply portsDown_keeps | apply selfRefresh_keeps
    | split

theorem stopTile_keeps {s0 : State} {s x t} (h0 : Keeps s0 s) : KTrans s0 (stopTile s x t) := by
  unfold stopTile
  repeat' first
    | with_reducible first | assumption | apply sleepOrDrain_keeps | apply beforeStop_keeps | apply KTrans.some_
    | with_reducible exact KTrans.none_
    | (extract_lets +onlyGivenNames w)
    | split

theorem walkTiles_keeps {s0 : State} {x x1 x2} (h2 : Keeps s0 x2) : Keeps s0 (walkTiles x x1 x2) := by
  fun_induction walkTiles x x1 x2
  all_goals repeat' first
    | with_reducible first | assumption | apply commitStill_keeps | apply stopTile_keeps | apply State.modPower_keeps
    | with_reducible first | refine Keeps.ofTrans (by assumption) ?_ | apply_assumption -exfalso -symm

theorem walk_keeps {s0 : State} {s} (h0 : Keeps s0 s) : Keeps s0 (walk s) := by
  unfold walk
  repeat' first
    | with_reducible first | assumption | apply walkTiles_keeps
    | split

theorem moveOn_keeps {s0 : State} {s} (h0 : Keeps s0 s) : Keeps s0 (moveOn s) := by
  unfold moveOn
  repeat' first
    | with_reducible first | assumption | apply progress_keeps | apply endActive_keeps | apply endRollback_keeps
    | with_reducible apply walk_keeps

theorem islandFailed_keeps {s0 : State} {s t} (h0 : Keeps s0 s) : Keeps s0 (islandFailed s t) := by
  unfold islandFailed
  repeat' first
    | with_reducible first | assumption | apply State.setField_keeps | apply State.setReg_keeps
    | with_reducible first | apply State.modIsland_keeps | apply State.orReg_keeps | apply State.modPower_keeps
    | with_reducible first | apply moveOn_keeps | apply powerRecord_keeps

theorem ctxPut_keeps {s0 : State} {s r off n v} (h0 : Keeps s0 s) : Keeps s0 (ctxPut s r off n v) := by
  unfold ctxPut
  repeat' with_reducible first | assumption | apply ctxWrite_keeps

theorem pushStatus_keeps {s0 : State} {s n r kind detail pos tEff} (h0 : Keeps s0 s) :
    Keeps s0 (pushStatus s n r kind detail pos tEff) := by
  unfold pushStatus
  repeat' first
    | with_reducible first | assumption | apply pushQ_keeps | apply ctxPut_keeps
    | with_reducible refine Keeps.ofPair (by assumption) ?_
    | split

theorem setTState_keeps {s0 : State} {s n r st at_} (h0 : Keeps s0 s) : Keeps s0 (setTState s n r st at_) := by
  unfold setTState
  repeat' first
    | with_reducible first | assumption | apply ctxPut_keeps | apply State.modRun_keeps | apply pushStatus_keeps

theorem abortRunEnd_keeps {s0 : State} {key s} (h1 : Keeps s0 s) : KOpt s0 (abortRunEnd key s) := by
  unfold abortRunEnd
  repeat' first
    | with_reducible first | assumption | apply setTState_keeps | apply State.modRun_keeps | apply finishMbx_keeps
    | with_reducible first | apply KOpt.some_ | exact KOpt.none_
    | (extract_lets +onlyGivenNames w;
        refine Keeps.cut (s0 := s0) w ?a ?b;
        (case' a => dsimp only [w]); (case' b => clear_value w; intro hw))
    | split

theorem dropExport_keeps {s0 : State} {s k n} (h0 : Keeps s0 s) : Keeps s0 (dropExport s k n) := by
  unfold dropExport
  repeat' first
    | with_reducible first | assumption | apply State.setPeer_keeps | apply ok_keeps
    | intro _
    | (extract_lets +onlyGivenNames w)
    | split

theorem abortExport_keeps {s0 : State} {s n r} (h0 : Keeps s0 s) : Keeps s0 (abortExport s n r) := by
  unfold abortExport
  repeat' first
    | with_reducible first | assumption | apply dropExport_keeps | apply answerExport_keeps
    | split

theorem abortRunExport_keeps {s0 : State} {key s} (h1 : Keeps s0 s) : KOpt s0 (abortRunExport key s) := by
  unfold abortRunExport
  repeat' first
    | with_reducible first | assumption | apply abortExport_keeps | apply KOpt.some_ | exact KOpt.none_
    | split

theorem abortReport_keeps {s0 : State} {key s} (h1 : Keeps s0 s) : KOpt s0 (abortReport key s) := by
  unfold abortReport
  repeat' first
    | with_reducible first | assumption | apply State.modRun_keeps | apply finishMbx_keeps | apply KOpt.some_
    | with_reducible exact KOpt.none_
    | split

theorem mbxAbort_keeps {s0 : State} {n s} (h1 : Keeps s0 s) : Keeps s0 (mbxAbort n s) := by
  unfold mbxAbort
  repeat' first
    | with_reducible first | assumption | apply abortReport_keeps | apply bufferReply_keeps | apply ok_keeps
    | with_reducible apply getD_keeps
    | intro _
    | (extract_lets +onlyGivenNames w)
    | split
    | ((with_reducible refine Keeps.isMk ?_ ?_); rfl)

theorem mbxWrite_keeps {s0 : State} {r off a row x4 s} (h5 : Keeps s0 s) : Keeps s0 (mbxWrite r off a row x4 s) := by
  unfold mbxWrite
  split
  · with_reducible exact plainWrite_keeps h5
  · extract_lets n
    split
    · split
      · with_reducible exact mbxSubmit_keeps h5
      · split
        · with_reducible exact mbxAbort_keeps h5
        · exact h5
    · split
      · with_reducible exact State.setReg_keeps h5
      · exact h5
    · with_reducible exact plainWrite_keeps h5

theorem reacqEnd_keeps {s0 : State} {s x st} (h0 : Keeps s0 s) : Keeps s0 (reacqEnd s x st) := by
  unfold reacqEnd
  repeat' first
    | with_reducible first | assumption | apply State.modTime_keeps | apply setServo_keeps | apply finishMbx_keeps
    | with_reducible apply State.setField_keeps
    | split

theorem abortReacq_keeps {s0 : State} {key s} (h1 : Keeps s0 s) : KOpt s0 (abortReacq key s) := by
  unfold abortReacq
  repeat' first
    | with_reducible first | assumption | apply reacqEnd_keeps | apply KOpt.some_ | exact KOpt.none_
    | split

theorem beginRollback_keeps {s0 : State} {s x st ref} (h0 : Keeps s0 s) : Keeps s0 (beginRollback s x st ref) := by
  unfold beginRollback
  repeat' first
    | with_reducible first | assumption | apply powerReq_keeps | apply powerRecord_keeps | apply endRollback_keeps
    | with_reducible apply State.modPower_keeps

theorem abortPower_keeps {s0 : State} {key s} (h1 : Keeps s0 s) : KOpt s0 (abortPower key s) := by
  unfold abortPower
  repeat' first
    | with_reducible first | assumption | apply beginRollback_keeps | apply KOpt.some_ | exact KOpt.none_
    | split

theorem abortFab_keeps {s0 : State} {key s} (h1 : Keeps s0 s) : KOpt s0 (abortFab key s) := by
  unfold abortFab
  repeat' first
    | with_reducible first | assumption | apply fabGiveUp_keeps | apply KOpt.some_ | exact KOpt.none_
    | split

theorem abortSettings_keeps {s0 : State} {key e s} (h2 : Keeps s0 s) : Keeps s0 (abortSettings key e s) := by
  unfold abortSettings
  repeat' with_reducible first | assumption | apply finishSettings_keeps

theorem abortEffect_keeps {s0 : State} {key e s} (h2 : Keeps s0 s) : KOpt s0 (abortEffect key e s) := by
  unfold abortEffect
  repeat' first
    | with_reducible first | assumption | apply abortRunEnd_keeps | apply abortRunExport_keeps
    | with_reducible first | apply abortReport_keeps | apply abortReacq_keeps | apply abortPower_keeps
    | with_reducible first | apply abortFab_keeps | apply abortSettings_keeps | apply KOpt.some_
    | split

theorem orphan_keeps {s0 : State} {key s} (h1 : Keeps s0 s) : Keeps s0 (orphan key s) := by
  unfold orphan
  repeat' first
    | with_reducible assumption
    | (extract_lets +onlyGivenNames w)
    | dsimp +zetaDelta only
    | ((with_reducible refine Keeps.isMk ?_ ?_); rfl)

theorem endCommand_keeps {s0 : State} {s x} (h0 : Keeps s0 s) : Keeps s0 (endCommand s x) := by
  unfold endCommand
  repeat' first
    | with_reducible first | assumption | apply freeMbx_keeps | apply abortEffect_keeps | apply orphan_keeps
    | with_reducible apply getD_keeps
    | (extract_lets +onlyGivenNames w)
    | split

theorem endSession_keeps {s0 : State} {p cause s} (h2 : Keeps s0 s) : Keeps s0 (endSession p cause s) := by
  unfold endSession
  repeat' first
    | with_reducible first | assumption | apply State.setSess_keeps | apply endCommand_keeps
    | with_reducible first | apply State.journal_keeps | apply State.raiseTo_keeps | apply Keeps.foldl
    | (extract_lets +onlyGivenNames w;
        refine Keeps.cut (s0 := s0) w ?a ?b;
        (case' a => dsimp only [w]); (case' b => clear_value w; intro hw))
    | (extract_lets +onlyGivenNames w)
    | split
    | dsimp +zetaDelta only
    | ((with_reducible refine Keeps.isMk ?_ ?_); rfl)

theorem readPair_keeps {s0 : State} {q pl a s} (h3 : Keeps s0 s) : Keeps s0 (readPair q pl a s).2 := by
  unfold readPair
  repeat' first
    | with_reducible first | assumption | apply memRead_keeps | refine Keeps.ofPair (by assumption) ?_
    | split

theorem rewritePair_keeps {s0 : State} {n r s i} (h2 : Keeps s0 s) : Keeps s0 (rewritePair n r s i) := by
  unfold rewritePair
  repeat' first
    | with_reducible first | assumption | apply readPair_keeps | apply memWrite_keeps | apply putCopy_keeps
    | with_reducible first | apply State.journal_keeps | refine Keeps.ofPair (by assumption) ?_
    | split

theorem execGafferPairRewrite_keeps {s0 : State} {n s} (h1 : Keeps s0 s) : KOut s0 (execGafferPairRewrite n s) := by
  unfold execGafferPairRewrite
  repeat' first
    | with_reducible first | assumption | apply State.modRun_keeps | apply rewritePair_keeps | apply ok_keeps
    | with_reducible apply Keeps.foldl
    | split

theorem guarded_keeps {s0 : State} {m n parisonOk act s} (h3 : ∀ (y0 : State), Keeps s0 y0 → Keeps s0 (act y0).state)
    (h4 : Keeps s0 s) :
    Keeps s0 (guarded m n parisonOk act s).state := by
  unfold guarded
  repeat' first
    | with_reducible first | assumption | apply h3 | apply refuse_keeps
    | split

theorem noteTest_keeps {s0 : State} {s k p} (h0 : Keeps s0 s) : Keeps s0 (noteTest s k p) := by
  unfold noteTest
  repeat' with_reducible first | assumption | apply State.setField_keeps

theorem takeOut_keeps {s0 : State} {s k l} (h0 : Keeps s0 s) : Keeps s0 (takeOut s k l) := by
  unfold takeOut
  repeat' first
    | with_reducible first | assumption | apply dropLink_keeps | apply noteTest_keeps | apply enterStep_keeps
    | (extract_lets +onlyGivenNames w)
    | split

theorem vins_keeps {s0 : State} {k okForm f s} (h3 : Keeps s0 s) : KOut s0 (vins k okForm f s) := by
  unfold vins
  repeat' first
    | with_reducible first | assumption | apply done_keeps | apply issue_keeps | apply syncExc_keeps | apply ok_keeps
    | intro _
    | (extract_lets +onlyGivenNames w)
    | split

theorem execVfma_keeps {s0 : State} {k vd va vb ty s} (h5 : Keeps s0 s) : KOut s0 (execVfma k vd va vb ty s) := by
  unfold execVfma
  repeat' with_reducible first | assumption | apply vins_keeps

theorem setBlock_keeps {s0 : State} {s n x} (h0 : Keeps s0 s) : Keeps s0 (setBlock s n x) := by
  unfold setBlock
  repeat' first
    | with_reducible assumption
    | dsimp only [State.modBoot, State.modStor]
    | ((with_reducible refine Keeps.isMk ?_ ?_); rfl)

theorem takeBlock_keeps {s0 : State} {s u} (h0 : Keeps s0 s) : Keeps s0 (takeBlock s u).2 := by
  unfold takeBlock
  repeat' first
    | with_reducible first | assumption | apply setBlock_keeps
    | split

theorem takeBlocks_keeps {s0 : State} {x0 x1 x2} (h2 : Keeps s0 x2) : Keeps s0 (takeBlocks x0 x1 x2).2 := by
  fun_induction takeBlocks x0 x1 x2
  all_goals repeat' first
    | with_reducible first | assumption | apply takeBlock_keeps | refine Keeps.ofPair (by assumption) ?_
    | with_reducible apply_assumption -exfalso -symm

theorem setSlotImg_keeps {s0 : State} {s n x} (h0 : Keeps s0 s) : Keeps s0 (setSlotImg s n x) := by
  unfold setSlotImg
  repeat' first
    | with_reducible assumption
    | dsimp only [State.modBoot, State.modStor]
    | ((with_reducible refine Keeps.isMk ?_ ?_); rfl)

theorem moveData_keeps {s0 : State} {s n m} (h0 : Keeps s0 s) : Keeps s0 (moveData s n m) := by
  unfold moveData
  repeat' first
    | with_reducible assumption
    | (extract_lets +onlyGivenNames w)
    | dsimp only [State.modBoot, State.modStor]
    | dsimp +zetaDelta only
    | ((with_reducible refine Keeps.isMk ?_ ?_); rfl)

theorem storRecord_keeps {s0 : State} {s what target block} (h0 : Keeps s0 s) :
    Keeps s0 (storRecord s what target block) := by
  unfold storRecord
  repeat' with_reducible first | assumption | apply State.journal_keeps

theorem spareCheck_keeps {s0 : State} {s} (h0 : Keeps s0 s) : Keeps s0 (spareCheck s) := by
  unfold spareCheck
  repeat' first
    | with_reducible first | assumption | apply State.setReg_keeps | apply State.orReg_keeps | apply storRecord_keeps
    | with_reducible apply State.setField_keeps
    | (extract_lets +onlyGivenNames w)
    | split

theorem nvsCounts_keeps {s0 : State} {s} (h0 : Keeps s0 s) : Keeps s0 (nvsCounts s) := by
  unfold nvsCounts
  repeat' with_reducible first | assumption | apply State.setReg_keeps

theorem retireBlock_keeps {s0 : State} {s n} (h0 : Keeps s0 s) : Keeps s0 (retireBlock s n) := by
  unfold retireBlock
  repeat' first
    | with_reducible first | assumption | apply setBlock_keeps | apply moveData_keeps | apply spareCheck_keeps
    | with_reducible first | apply nvsCounts_keeps | apply storRecord_keeps | apply State.orReg_keeps
    | (extract_lets +onlyGivenNames w;
        refine Keeps.cut (s0 := s0) w ?a ?b;
        (case' a => dsimp only [w]); (case' b => clear_value w; intro hw))
    | (extract_lets +onlyGivenNames w)
    | split
    | dsimp only [State.modBoot, State.modStor]
    | dsimp +zetaDelta only
    | ((with_reducible refine Keeps.isMk ?_ ?_); rfl)

theorem programBlock_keeps {s0 : State} {s b good} (h0 : Keeps s0 s) : Keeps s0 (programBlock s b good) := by
  unfold programBlock
  repeat' first
    | with_reducible first | assumption | apply retireBlock_keeps
    | split

theorem setGafferSlot_keeps {s0 : State} {s n g} (h0 : Keeps s0 s) : Keeps s0 (setGafferSlot s n g) := by
  unfold setGafferSlot
  repeat' first
    | with_reducible assumption
    | (extract_lets +onlyGivenNames w)
    | split
    | dsimp +zetaDelta only
    | ((with_reducible refine Keeps.isMk ?_ ?_); rfl)

theorem stageChunk_keeps {s0 : State} {n last data g programOk s} (h5 : Keeps s0 s) :
    Keeps s0 (stageChunk n last data g programOk s).state := by
  unfold stageChunk
  repeat' first
    | with_reducible first | assumption | apply takeBlocks_keeps | apply refuse_keeps | apply setSlotImg_keeps
    | with_reducible first | apply programBlock_keeps | apply setGafferSlot_keeps
    | (extract_lets +onlyGivenNames w;
        refine Keeps.cut2 (s0 := s0) w ?a ?b;
        (case' a => dsimp only [w]); (case' b => clear_value w; intro hw))
    | (extract_lets +onlyGivenNames w)
    | split
    | dsimp only [State.modBoot, State.modStor]
    | dsimp +zetaDelta only

theorem eraseBlock_keeps {s0 : State} {s n good} (h0 : Keeps s0 s) : Keeps s0 (eraseBlock s n good) := by
  unfold eraseBlock
  repeat' first
    | with_reducible first | assumption | apply setBlock_keeps | apply retireBlock_keeps | apply nvsCounts_keeps
    | (extract_lets +onlyGivenNames w;
        refine Keeps.cut (s0 := s0) w ?a ?b;
        (case' a => dsimp only [w]); (case' b => clear_value w; intro hw))
    | split

theorem discardSlot_keeps {s0 : State} {s n total eraseOk} (h0 : Keeps s0 s) :
    Keeps s0 (discardSlot s n total eraseOk) := by
  unfold discardSlot
  repeat' first
    | with_reducible first | assumption | apply eraseBlock_keeps | apply setGafferSlot_keeps | apply setSlotImg_keeps
    | with_reducible apply Keeps.foldl
    | intro _
    | (extract_lets +onlyGivenNames w)
    | split

theorem stageReply_keeps {s0 : State} {slot flags offset total data g programOk eraseOk s} (h8 : Keeps s0 s) :
    Keeps s0 (stageReply slot flags offset total data g programOk eraseOk s).state := by
  unfold stageReply
  repeat' first
    | with_reducible first | assumption | apply refuse_keeps | apply stageChunk_keeps | apply discardSlot_keeps
    | (extract_lets +onlyGivenNames w)
    | split

theorem devReset_keeps {s0 : State} {x0 x1} (h0 : Keeps s0 x0) : Keeps s0 (devReset x0 x1) := by
  refine h0.trans ?_
  unfold devReset State.setReg
  exact ⟨⟨rfl, rfl, id, fun _ x a b => ⟨x, a, rfl, b, id⟩, Nat.le_refl _, Nat.le_refl _, List.prefix_refl _, List.prefix_refl _⟩, filter_wf _, fun _ => ⟨Nat.zero_le _, Nat.zero_lt_one, rfl⟩, id, fun _ => rfl⟩

theorem recoveryRestart_keeps {s0 : State} {before s} (h0 : Keeps s0 before) (h1 : Keeps s0 s) :
    Keeps s0 (recoveryRestart before s) := by
  unfold recoveryRestart
  repeat' first
    | with_reducible first | assumption | apply devReset_keeps
    | split

theorem lapse_keeps {s0 : State} {n s} (h1 : Keeps s0 s) : Keeps s0 (lapse n s) := by
  unfold lapse
  repeat' first
    | with_reducible first | assumption | apply State.raiseTo_keeps
    | (extract_lets +onlyGivenNames w)
    | split
    | dsimp +zetaDelta only
    | ((with_reducible refine Keeps.isMk ?_ ?_); rfl)

theorem semReply_keeps {s0 : State} {st n s} (h2 : Keeps s0 s) : Keeps s0 (semReply st n s).state := by
  unfold semReply
  repeat' with_reducible assumption

theorem grant_keeps {s0 : State} {m n ms s} (h3 : Keeps s0 s) : Keeps s0 (grant m n ms s) := by
  unfold grant
  repeat' first
    | with_reducible assumption
    | (extract_lets +onlyGivenNames w)
    | dsimp +zetaDelta only
    | ((with_reducible refine Keeps.isMk ?_ ?_); rfl)

theorem chargeFlits_keeps {s0 : State} {s t c n} (h0 : Keeps s0 s) : Keeps s0 (chargeFlits s t c n) := by
  unfold chargeFlits
  repeat' with_reducible first | assumption | apply settleTokens_keeps | apply State.modReg_keeps

theorem readBeats_keeps {s0 : State} {r a x2 x3 x4} (h4 : Keeps s0 x4) : Keeps s0 (readBeats r a x2 x3 x4).2 := by
  fun_induction readBeats r a x2 x3 x4
  all_goals repeat' with_reducible first | assumption | apply busRead_keeps | apply_assumption -exfalso -symm

theorem rowData_keeps {s0 : State} {s t c row} (h0 : Keeps s0 s) : Keeps s0 (rowData s t c row).2 := by
  unfold rowData
  repeat' first
    | with_reducible first | assumption | apply readBeats_keeps
    | (extract_lets +onlyGivenNames w)
    | split

end Sys2Proof.Machine
end

