-- ==== Sys2Proof/Laws/Keeps04.lean ====
section
/-! SUPPORT. Each shared operation and each command keeps what `Keeps` says (part 4 of 10, in the order in which
they use one another). -/

namespace Sys2Proof.Machine

theorem latchFail_keeps {s0 : State} {s t c f} (h0 : Keeps s0 s) : Keeps s0 (latchFail s t c f) := by
  unfold latchFail
  repeat' with_reducible first | assumption | apply modChan_keeps

theorem setAR_keeps {s0 : State} {s t c i v} (h0 : Keeps s0 s) : Keeps s0 (setAR s t c i v) := by
  unfold setAR
  repeat' with_reducible first | assumption | apply State.setReg64_keeps

theorem chGoto_keeps {s0 : State} {s t c a} (h0 : Keeps s0 s) : Keeps s0 (chGoto s t c a) := by
  unfold chGoto setPc
  exact issueFetch_keeps (State.setReg64_keeps h0)

theorem chNext_keeps {s0 : State} {s t c} (h0 : Keeps s0 s) : Keeps s0 (chNext s t c) := by
  unfold chNext
  repeat' with_reducible first | assumption | apply chGoto_keeps

theorem endMove_keeps {s0 : State} {s t c} (h0 : Keeps s0 s) : Keeps s0 (endMove s t c) := by
  unfold endMove
  repeat' first
    | with_reducible first | assumption | apply setAR_keeps | apply chNext_keeps
    | (extract_lets +onlyGivenNames w)
    | split

theorem ctxPairOf_keeps {s0 : State} {s r i} (h0 : Keeps s0 s) : Keeps s0 (ctxPairOf s r i).2 := by
  unfold ctxPairOf
  repeat' with_reducible first | assumption | apply readPair_keeps

theorem checkPair_keeps {s0 : State} {n b s i} (h2 : Keeps s0 s) : Keeps s0 (checkPair n b s i) := by
  unfold checkPair
  repeat' first
    | with_reducible first | assumption | apply ctxPairOf_keeps | apply State.modRun_keeps | apply pushStatus_keeps
    | with_reducible refine Keeps.ofPair (by assumption) ?_
    | (extract_lets +onlyGivenNames w;
        refine Keeps.cut (s0 := s0) w ?a ?b;
        (case' a => dsimp only [w]); (case' b => clear_value w; intro hw))
    | split

theorem rekeep_keeps {s0 : State} {s us} (h0 : Keeps s0 s) : Keeps s0 (rekeep s us) := by
  unfold rekeep
  repeat' first
    | with_reducible first | assumption | apply State.setField_keeps
    | split

theorem execSettleTimeout_keeps {s0 : State} {s} (h0 : Keeps s0 s) : KOut s0 (execSettleTimeout s) := by
  unfold execSettleTimeout
  repeat' first
    | with_reducible first | assumption | apply walk_keeps | apply State.orReg_keeps | apply State.setReg_keeps
    | with_reducible first | apply beginRollback_keeps | apply ok_keeps
    | (extract_lets +onlyGivenNames w;
        refine Keeps.cut (s0 := s0) w ?a ?b;
        (case' a => dsimp only [w]); (case' b => clear_value w; intro hw))
    | split

theorem aluOp_keeps {s0 : State} {op fl k gd ga gb f s} (h7 : Keeps s0 s) : KOut s0 (aluOp op fl k gd ga gb f s) := by
  unfold aluOp
  repeat' with_reducible first | assumption | apply plain_keeps

theorem execDivu_keeps {s0 : State} {k gd ga gb f s} (h5 : Keeps s0 s) : KOut s0 (execDivu k gd ga gb f s) := by
  unfold execDivu
  repeat' with_reducible first | assumption | apply aluOp_keeps

theorem bootTile_keeps {s0 : State} {s t} (h0 : Keeps s0 s) : Keeps s0 (bootTile s t) := by
  unfold bootTile
  repeat' first
    | with_reducible first | assumption | apply State.modIsland_keeps | apply State.setField_keeps
    | with_reducible apply settleCycles_keeps
    | split

theorem dropOldest_keeps {s0 : State} {s eraseOk} (h0 : Keeps s0 s) : Keeps s0 (dropOldest s eraseOk) := by
  unfold dropOldest
  repeat' first
    | with_reducible first | assumption | apply eraseBlock_keeps
    | (extract_lets +onlyGivenNames w)
    | split
    | dsimp only [State.modBoot, State.modStor]
    | ((with_reducible refine Keeps.isMk ?_ ?_); rfl)

theorem unlockSoft_keeps {s0 : State} {j s} (h1 : Keeps s0 s) : Keeps s0 (unlockSoft j s) := by
  unfold unlockSoft
  repeat' first
    | with_reducible first | assumption | apply putHeaders_keeps | apply ok_keeps
    | intro _
    | (extract_lets +onlyGivenNames w)
    | split

theorem endSoft_keeps {s0 : State} {j st s} (h2 : Keeps s0 s) : Keeps s0 (endSoft j st s).2 := by
  unfold endSoft
  repeat' first
    | with_reducible first | assumption | apply emptySoft_keeps | apply putHeaders_keeps | apply unlockSoft_keeps
    | with_reducible apply ok_keeps
    | intro _
    | (extract_lets +onlyGivenNames w)
    | split

theorem execRet_keeps {s0 : State} {k s} (h1 : Keeps s0 s) : KOut s0 (execRet k s) := by
  unfold execRet
  repeat' first
    | with_reducible first | assumption | apply issue_keeps | apply State.setCore_keeps | apply ok_keeps
    | intro _

theorem execPopc_keeps {s0 : State} {k gd ga s} (h3 : Keeps s0 s) : KOut s0 (execPopc k gd ga s) := by
  unfold execPopc
  repeat' with_reducible first | assumption | apply plain_keeps

theorem endIdle_keeps {s0 : State} {s} (h0 : Keeps s0 s) : Keeps s0 (endIdle s) := by
  unfold endIdle
  repeat' first
    | with_reducible first | assumption | apply endSession_keeps | apply Keeps.foldl
    | intro _
    | (extract_lets +onlyGivenNames w)
    | split

theorem dropTarget_keeps {s0 : State} {s f id} (h0 : Keeps s0 s) : Keeps s0 (dropTarget s f id) := by
  unfold dropTarget
  repeat' with_reducible first | assumption | apply State.modFab_keeps

theorem setQc_keeps {s0 : State} {s f n l} (h0 : Keeps s0 s) : Keeps s0 (setQc s f n l) := by
  unfold setQc
  repeat' with_reducible first | assumption | apply State.setField_keeps | apply State.modFab_keeps

theorem State.readQc_keeps {s0 : State} {s f q c} (h0 : Keeps s0 s) : Keeps s0 (State.readQc s f q c) := by
  unfold State.readQc
  repeat' first
    | with_reducible first | assumption | apply State.modFab_keeps | apply ok_keeps
    | intro _
    | (extract_lets +onlyGivenNames w)
    | split

theorem execQcRead_keeps {s0 : State} {fab n s} (h2 : Keeps s0 s) : KOut s0 (execQcRead fab n s) := by
  unfold execQcRead
  repeat' first
    | with_reducible first | assumption | apply State.answer_keeps | apply State.orReg_keeps | apply State.readQc_keeps
    | with_reducible first | apply State.takeFresh_keeps | apply setQc_keeps | apply ok_keeps
    | intro _
    | (extract_lets +onlyGivenNames w)
    | split

theorem peerSend_keeps {s0 : State} {s k opcode mbx crit payload} (h0 : Keeps s0 s) :
    Keeps s0 (peerSend s k opcode mbx crit payload) := by
  unfold peerSend
  repeat' first
    | with_reducible first | assumption | apply State.setPeer_keeps | apply State.send_keeps
    | split

theorem execPeerHelloResponse_keeps {s0 : State} {corridor hiEnd session payload authOk s} (h6 : Keeps s0 s) : KOut s0 (execPeerHelloResponse corridor hiEnd session payload authOk s)
    := by
  unfold execPeerHelloResponse
  repeat' first
    | with_reducible first | assumption | apply State.setPeer_keeps | apply peerDrop_keeps | apply peerSend_keeps
    | with_reducible apply ok_keeps
    | intro _
    | (extract_lets +onlyGivenNames w)
    | split

theorem countLoad_keeps {s0 : State} {s g} (h0 : Keeps s0 s) : Keeps s0 (countLoad s g) := by
  unfold countLoad
  repeat' with_reducible first | assumption | apply State.setField_keeps

theorem execCrumbStreamSend_keeps {s0 : State} {port s} (h1 : Keeps s0 s) : KOut s0 (execCrumbStreamSend port s) := by
  unfold execCrumbStreamSend
  repeat' first
    | with_reducible first | assumption | apply State.send_keeps | apply ok_keeps
    | (extract_lets +onlyGivenNames w;
        refine Keeps.cut (s0 := s0) w ?a ?b;
        (case' a => dsimp only [w]); (case' b => clear_value w; intro hw))
    | (extract_lets +onlyGivenNames w)
    | split
    | dsimp +zetaDelta only
    | ((with_reducible refine Keeps.isMk ?_ ?_); rfl)

theorem extendMeas_keeps {s0 : State} {x0 x1 x2} (h2 : Keeps s0 x2) : Keeps s0 (extendMeas x0 x1 x2) := by
  unfold extendMeas
  refine State.journal_keeps (h2.trans ⟨⟨rfl, rfl, id, fun _ x a b => ⟨x, a, rfl, b, id⟩, Nat.le_refl _, Nat.le_refl _, List.prefix_refl _, List.prefix_refl _⟩, id, id, id, fun h => ?_⟩)
  dsimp only
  rw [lupd_length]
  exact h

theorem changeLevel_keeps {s0 : State} {x0 x1} (h1 : Keeps s0 x1) : Keeps s0 (changeLevel x0 x1) := by
  unfold changeLevel
  split
  · exact h1
  · refine extendMeas_keeps (State.journal_keeps (boot_keeps h1 ?_ ?_ ?_ ?_ ?_)) <;> split
    · exact fun _ _ => rfl
    · exact id
    · exact fun _ => rfl
    · exact id
    · exact fun _ x a b => ⟨x, a, rfl, b, id⟩
    · exact fun _ x a b => ⟨x, a, rfl, b, id⟩
    · exact Nat.le_refl _
    · exact Nat.le_refl _
    · rfl
    · rfl

theorem comeUp_keeps {s0 : State} {s k p txDly rxDly} (h0 : Keeps s0 s) : Keeps s0 (comeUp s k p txDly rxDly) := by
  unfold comeUp
  repeat' first
    | with_reducible first | assumption | apply State.setField_keeps | apply sdStat_keeps | apply State.setReg_keeps
    | with_reducible apply State.modTime_keeps
    | (extract_lets +onlyGivenNames w;
        refine Keeps.cut (s0 := s0) w ?a ?b;
        (case' a => dsimp only [w]); (case' b => clear_value w; intro hw))
    | (extract_lets +onlyGivenNames w)
    | split
    | dsimp +zetaDelta only
    | ((with_reducible refine Keeps.isMk ?_ ?_); rfl)

theorem execLinkUp_keeps {s0 : State} {iot port txDly rxDly s} (h4 : Keeps s0 s) :
    KOut s0 (execLinkUp iot port txDly rxDly s) := by
  unfold execLinkUp
  repeat' first
    | with_reducible first | assumption | apply comeUp_keeps | apply ok_keeps
    | split

theorem unguarded_keeps {s0 : State} {parisonOk act s} (h1 : ∀ (y0 : State), Keeps s0 y0 → Keeps s0 (act y0).state)
    (h2 : Keeps s0 s) :
    Keeps s0 (unguarded parisonOk act s).state := by
  unfold unguarded
  repeat' first
    | with_reducible first | assumption | apply h1 | apply refuse_keeps
    | split

theorem countStretch_keeps {s0 : State} {s t} (h0 : Keeps s0 s) : Keeps s0 (countStretch s t) := by
  unfold countStretch
  repeat' with_reducible first | assumption | apply settleCycles_keeps | apply State.count_keeps

theorem drainBuffer_keeps {s0 : State} {x0 x1} (h1 : Keeps s0 x1) : Keeps s0 (drainBuffer x0 x1) := by
  fun_induction drainBuffer x0 x1
  all_goals repeat' first
    | with_reducible first | assumption | apply State.setField_keeps | apply stageLost_keeps | apply stageRec_keeps
    | with_reducible apply_assumption -exfalso -symm
    | (extract_lets +onlyGivenNames w)
    | dsimp +zetaDelta only
    | ((with_reducible refine Keeps.isMk ?_ ?_); rfl)

theorem execSupplyRecovery_keeps {s0 : State} {minMv redo s} (h2 : Keeps s0 s) :
    KOut s0 (execSupplyRecovery minMv redo s) := by
  unfold execSupplyRecovery
  repeat' first
    | with_reducible first | assumption | apply countStretch_keeps | apply State.setField_keeps
    | with_reducible first | apply State.modPower_keeps | apply State.setReg_keeps | apply State.count_keeps
    | with_reducible first | apply drainBuffer_keeps | apply State.raise_keeps | apply ok_keeps | apply Keeps.foldl
    | (extract_lets +onlyGivenNames w;
        refine Keeps.cut (s0 := s0) w ?a ?b;
        (case' a => dsimp only [w]); (case' b => clear_value w; intro hw))
    | (extract_lets +onlyGivenNames w)
    | split
    | dsimp +zetaDelta only
    | ((with_reducible refine Keeps.isMk ?_ ?_); rfl)

theorem unreserve_keeps {s0 : State} {s o n} (h0 : Keeps s0 s) : Keeps s0 (unreserve s o n) := by
  unfold unreserve
  repeat' first
    | with_reducible first | assumption | apply State.setQueue_keeps
    | split

theorem enqueueResv_keeps {s0 : State} {s qid e} (h0 : Keeps s0 s) : Keeps s0 (enqueueResv s qid e) := by
  unfold enqueueResv
  repeat' first
    | with_reducible first | assumption | apply enqueue_keeps | apply State.orReg_keeps
    | split

theorem placeOut_keeps {s0 : State} {s r e} (h0 : Keeps s0 s) : KOpt s0 (placeOut s r e) := by
  unfold placeOut
  repeat' first
    | with_reducible first | assumption | apply enqueueResv_keeps | apply setRunning_keeps | apply unreserve_keeps
    | with_reducible first | apply ok_keeps | apply KOpt.some_ | exact KOpt.none_
    | intro _
    | (extract_lets +onlyGivenNames w)
    | split

theorem pushFrom_keeps {s0 : State} {p qid e s} (h3 : Keeps s0 s) : Keeps s0 (pushFrom p qid e s).2 := by
  unfold pushFrom
  repeat' first
    | with_reducible first | assumption | apply placeOut_keeps | apply pushQ_keeps | apply getD_keeps
    | split

theorem doQPush_keeps {s0 : State} {t c tag y s} (h4 : Keeps s0 s) : Keeps s0 (doQPush t c tag y s) := by
  unfold doQPush
  repeat' first
    | with_reducible first | assumption | apply busReadMany_keeps | apply cqResult_keeps | apply pushFrom_keeps
    | (extract_lets +onlyGivenNames w;
        refine Keeps.cut2 (s0 := s0) w ?a ?b;
        (case' a => dsimp only [w]); (case' b => clear_value w; intro hw))
    | (extract_lets +onlyGivenNames w)
    | split

theorem popMany_keeps {s0 : State} {x0 x1 x2} (h2 : Keeps s0 x2) : Keeps s0 (popMany x0 x1 x2).2 := by
  fun_induction popMany x0 x1 x2
  all_goals repeat' with_reducible first | assumption | apply popQ_keeps | apply_assumption -exfalso -symm

theorem popEach_keeps {s0 : State} {r qid a x3 x4 x5} (h5 : Keeps s0 x5) : Keeps s0 (popEach r qid a x3 x4 x5).2.2 := by
  fun_induction popEach r qid a x3 x4 x5
  all_goals repeat' first
    | with_reducible first | assumption | apply busWriteMany_keeps | apply popQ_keeps | apply ok_keeps
    | with_reducible apply_assumption -exfalso -symm
    | intro _
    | (extract_lets +onlyGivenNames w)
    | split

theorem doQPop_keeps {s0 : State} {t c tag y s} (h4 : Keeps s0 s) : Keeps s0 (doQPop t c tag y s) := by
  unfold doQPop
  repeat' first
    | with_reducible first | assumption | apply busWriteMany_keeps | apply cqResult_keeps | apply popEach_keeps
    | with_reducible apply ok_keeps
    | intro _
    | (extract_lets +onlyGivenNames w)
    | split

theorem commitJob_keeps {s0 : State} {j s} (h1 : Keeps s0 s) : Keeps s0 (commitJob j s) := by
  unfold commitJob
  repeat' first
    | with_reducible first | assumption | apply failJob_keeps | apply performWrites_keeps | apply setJob_keeps
    | with_reducible apply ok_keeps
    | intro _
    | (extract_lets +onlyGivenNames w)
    | split

theorem execCommit_keeps {s0 : State} {tile core tag s} (h3 : Keeps s0 s) : KOut s0 (execCommit tile core tag s) := by
  unfold execCommit
  repeat' first
    | with_reducible first | assumption | apply modCq_keeps | apply doQPush_keeps | apply doQPop_keeps
    | with_reducible first | apply doJobAbort_keeps | apply commitJob_keeps | apply ok_keeps
    | (extract_lets +onlyGivenNames w;
        refine Keeps.cut (s0 := s0) w ?a ?b;
        (case' a => dsimp only [w]); (case' b => clear_value w; intro hw))
    | split

theorem harvestOne_keeps {s0 : State} {t s n} (h1 : Keeps s0 s) : Keeps s0 (harvestOne t s n) := by
  unfold harvestOne
  repeat' first
    | with_reducible first | assumption | apply State.journal_keeps | apply State.setReg_keeps
    | (extract_lets +onlyGivenNames w;
        refine Keeps.cut (s0 := s0) w ?a ?b;
        (case' a => dsimp only [w]); (case' b => clear_value w; intro hw))
    | (extract_lets +onlyGivenNames w)
    | split
    | dsimp +zetaDelta only
    | ((with_reducible refine Keeps.isMk ?_ ?_); rfl)

theorem dacTrim_keeps {s0 : State} {s n} (h0 : Keeps s0 s) : Keeps s0 (dacTrim s n) := by
  unfold dacTrim
  repeat' first
    | with_reducible assumption
    | (extract_lets +onlyGivenNames w)
    | split
    | dsimp +zetaDelta only
    | ((with_reducible refine Keeps.isMk ?_ ?_); rfl)

theorem dacTake_keeps {s0 : State} {s n} (h0 : Keeps s0 s) : Keeps s0 (dacTake s n) := by
  unfold dacTake
  repeat' first
    | with_reducible first | assumption | apply dacTrim_keeps | apply State.setField_keeps | apply State.setReg_keeps

theorem jobRec_keeps {s0 : State} {j a s} (h2 : Keeps s0 s) : Keeps s0 (jobRec j a s).2 := by
  unfold jobRec
  repeat' first
    | with_reducible first | assumption | apply jobRead_keeps
    | (extract_lets +onlyGivenNames w;
        refine Keeps.cut2 (s0 := s0) w ?a ?b;
        (case' a => dsimp only [w]); (case' b => clear_value w; intro hw))
    | (extract_lets +onlyGivenNames w)
    | split

theorem jobRecs_keeps {s0 : State} {j x1 x2} (h2 : Keeps s0 x2) : Keeps s0 (jobRecs j x1 x2).2 := by
  fun_induction jobRecs j x1 x2
  all_goals repeat' with_reducible first | assumption | apply jobRec_keeps | apply_assumption -exfalso -symm

theorem combineReads_keeps {s0 : State} {j addrs x2 x3} (h3 : Keeps s0 x3) :
    Keeps s0 (combineReads j addrs x2 x3).2 := by
  fun_induction combineReads j addrs x2 x3
  all_goals repeat' with_reducible first | assumption | apply jobRecs_keeps | apply_assumption -exfalso -symm

theorem readHdr_keeps {s0 : State} {s k a} (h0 : Keeps s0 s) : Keeps s0 (readHdr s k a).2 := by
  unfold readHdr
  repeat' first
    | with_reducible first | assumption | apply busMemRead_keeps
    | (extract_lets +onlyGivenNames w;
        refine Keeps.cut2 (s0 := s0) w ?a ?b;
        (case' a => dsimp only [w]); (case' b => clear_value w; intro hw))
    | split

theorem noteSent_keeps {s0 : State} {s key tNom} (h0 : Keeps s0 s) : Keeps s0 (noteSent s key tNom) := by
  unfold noteSent
  repeat' first
    | with_reducible first | assumption | apply State.modFh_keeps | apply ok_keeps
    | intro _
    | (extract_lets +onlyGivenNames w)
    | split

theorem execBurstModeEnter_keeps {s0 : State} {port s} (h1 : Keeps s0 s) : KOut s0 (execBurstModeEnter port s) := by
  unfold execBurstModeEnter
  repeat' first
    | with_reducible first | assumption | apply State.modSpur_keeps | apply State.setField_keeps | apply ok_keeps
    | split

theorem lightTile_keeps {s0 : State} {s t} (h0 : Keeps s0 s) : Keeps s0 (lightTile s t) := by
  unfold lightTile
  repeat' first
    | with_reducible first | assumption | apply State.setIsland_keeps | apply setBucket_keeps
    | with_reducible first | apply State.setReg_keeps | apply State.setField_keeps

theorem lightIsland_keeps {s0 : State} {s n} (h0 : Keeps s0 s) : Keeps s0 (lightIsland s n) := by
  unfold lightIsland
  repeat' with_reducible first | assumption | apply State.setIsland_keeps

theorem mgtMode_keeps {s0 : State} {s k} (h0 : Keeps s0 s) : Keeps s0 (mgtMode s k) := by
  unfold mgtMode
  repeat' with_reducible first | assumption | apply State.setField_keeps

theorem bootRecovery_keeps {s0 : State} {s} (h0 : Keeps s0 s) : Keeps s0 (bootRecovery s) := by
  unfold bootRecovery
  repeat' first
    | with_reducible first | assumption | apply lightIsland_keeps | apply lightTile_keeps | apply startPorts_keeps
    | with_reducible first | apply mgtMode_keeps | apply Keeps.foldl
    | (extract_lets +onlyGivenNames w;
        refine Keeps.cut (s0 := s0) w ?a ?b;
        (case' a => dsimp only [w]); (case' b => clear_value w; intro hw))
    | (extract_lets +onlyGivenNames w)
    | dsimp only [State.modBoot, State.modStor]
    | dsimp +zetaDelta only
    | ((with_reducible refine Keeps.isMk ?_ ?_); rfl)

theorem bootRecord_keeps {s0 : State} {s} (h0 : Keeps s0 s) : Keeps s0 (bootRecord s) := by
  unfold bootRecord
  repeat' with_reducible first | assumption | apply State.journal_keeps

theorem formatNand_keeps {s0 : State} {b s} (h1 : Keeps s0 s) : Keeps s0 (formatNand b s) := by
  unfold formatNand
  repeat' first
    | with_reducible first | assumption | apply storRecord_keeps
    | (extract_lets +onlyGivenNames w)
    | split
    | dsimp only [State.modBoot, State.modStor]
    | ((with_reducible refine Keeps.isMk ?_ ?_); rfl)

theorem nandBoot_keeps {s0 : State} {b s} (h1 : Keeps s0 s) : Keeps s0 (nandBoot b s) := by
  unfold nandBoot
  repeat' first
    | with_reducible first | assumption | apply storRecord_keeps | apply State.setReg_keeps | apply formatNand_keeps
    | with_reducible first | apply spareCheck_keeps | apply nvsCounts_keeps | apply State.setField_keeps
    | with_reducible apply Keeps.foldl
    | intro _
    | (extract_lets +onlyGivenNames w)
    | split

theorem bootPmb_keeps {s0 : State} {s x} (h0 : Keeps s0 s) : Keeps s0 (bootPmb s x) := by
  unfold bootPmb
  repeat' first
    | with_reducible first | assumption | apply State.setReg_keeps | apply State.modPower_keeps
    | (extract_lets +onlyGivenNames w;
        refine Keeps.cut (s0 := s0) w ?a ?b;
        (case' a => dsimp only [w]); (case' b => clear_value w; intro hw))
    | (extract_lets +onlyGivenNames w)
    | split

theorem bootPower_keeps {s0 : State} {s} (h0 : Keeps s0 s) : Keeps s0 (bootPower s) := by
  unfold bootPower
  repeat' first
    | with_reducible first | assumption | apply bootPmb_keeps | apply State.modPower_keeps | apply Keeps.foldl

theorem bootTime_keeps {s0 : State} {s} (h0 : Keeps s0 s) : Keeps s0 (bootTime s) := by
  unfold bootTime
  repeat' first
    | with_reducible first | assumption | apply State.modTime_keeps | apply applyTime_keeps | apply Keeps.foldl
    | intro _

theorem bootItem_keeps {s0 : State} {s x} (h0 : Keeps s0 s) : Keeps s0 (bootItem s x) := by
  unfold bootItem
  repeat' first
    | with_reducible first | assumption | apply State.setReg_keeps | apply State.setField_keeps | apply Keeps.foldl
    | intro _
    | (extract_lets +onlyGivenNames w;
        refine Keeps.cut (s0 := s0) w ?a ?b;
        (case' a => dsimp only [w]); (case' b => clear_value w; intro hw))
    | (extract_lets +onlyGivenNames w)
    | split

theorem bootNet_keeps {s0 : State} {s} (h0 : Keeps s0 s) : Keeps s0 (bootNet s) := by
  unfold bootNet
  repeat' first
    | with_reducible first | assumption | apply mgtMode_keeps | apply bootItem_keeps | apply Keeps.foldl
    | (extract_lets +onlyGivenNames w)
    | dsimp +zetaDelta only
    | ((with_reducible refine Keeps.isMk ?_ ?_); rfl)

theorem bootQueue_keeps {s0 : State} {q s x} (h1 : Keeps s0 s) : Keeps s0 (bootQueue q s x) := by
  unfold bootQueue
  repeat' first
    | with_reducible first | assumption | apply State.setQueue_keeps | apply State.setEgq_keeps
    | with_reducible apply State.takeFresh_keeps
    | (extract_lets +onlyGivenNames w;
        refine Keeps.cut (s0 := s0) w ?a ?b;
        (case' a => dsimp only [w]); (case' b => clear_value w; intro hw))
    | (extract_lets +onlyGivenNames w)
    | split
    | dsimp +zetaDelta only
    | ((with_reducible refine Keeps.isMk ?_ ?_); rfl)

theorem bootQueues_keeps {s0 : State} {s q} (h0 : Keeps s0 s) : Keeps s0 (bootQueues s q) := by
  unfold bootQueues
  repeat' with_reducible first | assumption | apply bootQueue_keeps | apply Keeps.foldl

theorem startQ0_keeps {s0 : State} {s} (h0 : Keeps s0 s) : Keeps s0 (startQ0 s) := by
  unfold startQ0
  repeat' first
    | with_reducible first | assumption | apply lightTile_keeps | apply State.setField_keeps | apply Keeps.foldl
    | intro _

set_option maxRecDepth 4000 in
theorem placeImage_keeps {s0 : State} {s id slot img} (h0 : Keeps s0 s) : Keeps s0 (placeImage s id slot img) := by
  unfold placeImage
  repeat' first
    | with_reducible first | assumption | apply busWriteMany_keeps | apply State.setCore_keeps | apply Keeps.foldl
    | intro _
    | (extract_lets +onlyGivenNames w;
        refine Keeps.cut (s0 := s0) w ?a ?b;
        (case' a => dsimp only [w]); (case' b => clear_value w; intro hw))
    | (extract_lets +onlyGivenNames w)
    | dsimp only [State.modBoot, State.modStor]
    | dsimp +zetaDelta only
    | ((with_reducible refine Keeps.isMk ?_ ?_); rfl)

theorem parisonImage_keeps {s0 : State} {x0 x1 x2} (h2 : Keeps s0 x2) : Keeps s0 (parisonImage x0 x1 x2) := by
  unfold parisonImage
  split
  · exact h2
  · next g =>
    split
    · exact h2
    · extract_lets s f n src t
      have hs : Keeps s0 s := by dsimp only [s]; with_reducible exact placeImage_keeps (extendMeas_keeps h2)
      clear_value s
      have ht : Keeps s0 t := by
        dsimp only [t, f]; with_reducible exact State.setQueue_keeps (State.takeFresh_keeps hs)
      clear_value t
      with_reducible refine parisonAdmit_keeps ?_
      with_reducible exact stage_keeps (pushQ_keeps ht)

theorem bootGaffer_keeps {s0 : State} {b s} (h1 : Keeps s0 s) : Keeps s0 (bootGaffer b s) := by
  unfold bootGaffer
  repeat' first
    | with_reducible first | assumption | apply extendMeas_keeps | apply bootPower_keeps | apply bootTime_keeps
    | with_reducible first | apply bootNet_keeps | apply bootQueues_keeps | apply lightIsland_keeps
    | with_reducible first | apply startQ0_keeps | apply startPorts_keeps | apply spurTrain_keeps
    | with_reducible first | apply parisonImage_keeps | apply Keeps.foldl
    | intro _
    | (extract_lets +onlyGivenNames w)
    | split
    | dsimp only [State.modBoot, State.modStor]
    | ((with_reducible refine Keeps.isMk ?_ ?_); rfl)

theorem bootRom_keeps {s0 : State} {x0 x1} (h1 : Keeps s0 x1) : Keeps s0 (bootRom x0 x1) := by
  unfold bootRom
  extract_lets c s t u
  have hs : Keeps s0 s := State.setReg_keeps (State.setReg_keeps h1)
  have ht : Keeps s0 t := boot_keeps hs (fun _ h => if_pos h) id (fun _ x a b => ⟨x, a, rfl, b, id⟩) (Nat.le_refl _) rfl
  have hu : Keeps s0 u := extendMeas_keeps (extendMeas_keeps (lightTile_keeps ht))
  clear_value u
  split
  · exact bootRecovery_keeps (bootRecord_keeps (nandBoot_keeps hu))
  · exact bootGaffer_keeps (bootRecord_keeps (nandBoot_keeps (extendMeas_keeps
      (boot_keeps hu id id (fun _ x a b => ⟨x, a, rfl, b, id⟩) (Nat.le_refl _) rfl))))

theorem execPowerOnReset_keeps {s0 : State} {b s} (h1 : Keeps s0 s) : KOut s0 (execPowerOnReset b s) := by
  unfold execPowerOnReset
  repeat' first
    | with_reducible first | assumption | apply bootRom_keeps | apply devReset_keeps | apply ok_keeps
    | (extract_lets +onlyGivenNames w)
    | split

theorem setRxWin_keeps {s0 : State} {s k} (h0 : Keeps s0 s) : Keeps s0 (setRxWin s k) := by
  unfold setRxWin
  repeat' with_reducible first | assumption | apply State.setField_keeps | apply State.modCor_keeps

theorem pmbStatus_keeps {s0 : State} {s e word} (h0 : Keeps s0 s) : Keeps s0 (pmbStatus s e word) := by
  unfold pmbStatus
  repeat' first
    | with_reducible first | assumption | apply State.setReg_keeps | apply State.orReg_keeps | apply powerRecord_keeps
    | (extract_lets +onlyGivenNames w;
        refine Keeps.cut (s0 := s0) w ?a ?b;
        (case' a => dsimp only [w]); (case' b => clear_value w; intro hw))
    | (extract_lets +onlyGivenNames w)
    | split

theorem modPmb_keeps {s0 : State} {s e f} (h0 : Keeps s0 s) : Keeps s0 (modPmb s e f) := by
  unfold modPmb
  repeat' first
    | with_reducible first | assumption | apply State.modPower_keeps
    | split

theorem pmbRead_keeps {s0 : State} {s e r} (h0 : Keeps s0 s) : Keeps s0 (pmbRead s e r) := by
  unfold pmbRead
  repeat' with_reducible first | assumption | apply pmbStatus_keeps | apply modPmb_keeps

theorem execDcinv_keeps {s0 : State} {k an s} (h2 : Keeps s0 s) : KOut s0 (execDcinv k an s) := by
  unfold execDcinv
  repeat' with_reducible first | assumption | apply plain_keeps

theorem execDmaHalt_keeps {s0 : State} {tile ch s} (h2 : Keeps s0 s) : KOut s0 (execDmaHalt tile ch s) := by
  unfold execDmaHalt
  repeat' first
    | with_reducible first | assumption | apply drainHalt_keeps | apply ok_keeps
    | split

theorem countCodewords_keeps {s0 : State} {k p f s} (h3 : Keeps s0 s) : Keeps s0 (countCodewords k p f s) := by
  unfold countCodewords
  repeat' first
    | with_reducible first | assumption | apply State.count64_keeps | apply State.orReg_keeps
    | (extract_lets +onlyGivenNames w;
        refine Keeps.cut (s0 := s0) w ?a ?b;
        (case' a => dsimp only [w]); (case' b => clear_value w; intro hw))
    | split

theorem putMotion_keeps {s0 : State} {s r k} (h0 : Keeps s0 s) : Keeps s0 (putMotion s r k) := by
  unfold putMotion
  repeat' with_reducible first | assumption | apply ctxPut_keeps

theorem startRun_keeps {s0 : State} {s n r k fc st atts txEn} (h0 : Keeps s0 s) :
    Keeps s0 (startRun s n r k fc st atts txEn) := by
  unfold startRun
  repeat' first
    | with_reducible first | assumption | apply State.setQueue_keeps | apply State.setRun_keeps | apply ctxPut_keeps
    | with_reducible first | apply ctxWrite_keeps | apply pushStatus_keeps | apply putMotion_keeps
    | with_reducible first | apply putPair_keeps | apply ok_keeps | apply Keeps.foldl
    | intro _
    | (extract_lets +onlyGivenNames w)
    | split
    | ((with_reducible refine Keeps.isMk ?_ ?_); rfl)

theorem vun_keeps {s0 : State} {op d okForm k vd va ty mode s} (h8 : Keeps s0 s) :
    KOut s0 (vun op d okForm k vd va ty mode s) := by
  unfold vun
  repeat' with_reducible first | assumption | apply vins_keeps

theorem execVabs_keeps {s0 : State} {k vd va ty mode s} (h5 : Keeps s0 s) : KOut s0 (execVabs k vd va ty mode s) := by
  unfold execVabs
  repeat' with_reducible first | assumption | apply vun_keeps

theorem execPolarityCorrect_keeps {s0 : State} {iot port inverted s} (h3 : Keeps s0 s) :
    KOut s0 (execPolarityCorrect iot port inverted s) := by
  unfold execPolarityCorrect
  repeat' first
    | with_reducible first | assumption | apply sdStat_keeps | apply enterStep_keeps | apply ok_keeps
    | (extract_lets +onlyGivenNames w;
        refine Keeps.cut (s0 := s0) w ?a ?b;
        (case' a => dsimp only [w]); (case' b => clear_value w; intro hw))
    | (extract_lets +onlyGivenNames w)
    | split

theorem enqueueAll_keeps {s0 : State} {s qid x2} (h0 : Keeps s0 s) : Keeps s0 (enqueueAll s qid x2) := by
  fun_induction enqueueAll s qid x2
  all_goals repeat' with_reducible first | assumption | apply enqueueResv_keeps | apply_assumption -exfalso -symm

theorem catchupEvent_keeps {s0 : State} {s q kind flid lamMax count} (h0 : Keeps s0 s) :
    Keeps s0 (catchupEvent s q kind flid lamMax count) := by
  unfold catchupEvent
  repeat' with_reducible first | assumption | apply State.raise_keeps

theorem episodeBegin_keeps {s0 : State} {s q flid lam} (h0 : Keeps s0 s) : Keeps s0 (episodeBegin s q flid lam) := by
  unfold episodeBegin
  repeat' first
    | with_reducible first | assumption | apply State.count_keeps | apply catchupEvent_keeps
    | with_reducible apply State.setFlow_keeps
    | (extract_lets +onlyGivenNames w;
        refine Keeps.cut (s0 := s0) w ?a ?b;
        (case' a => dsimp only [w]); (case' b => clear_value w; intro hw))
    | (extract_lets +onlyGivenNames w)
    | split

theorem updateEpisode_keeps {s0 : State} {s q} (h0 : Keeps s0 s) : Keeps s0 (updateEpisode s q) := by
  unfold updateEpisode
  repeat' with_reducible first | assumption | apply State.setField_keeps

theorem updateLam_keeps {s0 : State} {s r} (h0 : Keeps s0 s) : Keeps s0 (updateLam s r) := by
  unfold updateLam
  repeat' first
    | with_reducible first | assumption | apply State.setFlow_keeps | apply episodeBegin_keeps
    | with_reducible apply updateEpisode_keeps
    | (extract_lets +onlyGivenNames w;
        refine Keeps.cut (s0 := s0) w ?a ?b;
        (case' a => dsimp only [w]); (case' b => clear_value w; intro hw))
    | (extract_lets +onlyGivenNames w)
    | split

theorem releaseOne_keeps {s0 : State} {s r} (h0 : Keeps s0 s) : Keeps s0 (releaseOne s r) := by
  unfold releaseOne
  repeat' first
    | with_reducible first | assumption | apply unreserve_keeps | apply enqueueAll_keeps | apply crumb_keeps
    | with_reducible first | apply updateLam_keeps | apply State.setFlow_keeps
    | (extract_lets +onlyGivenNames w;
        refine Keeps.cut (s0 := s0) w ?a ?b;
        (case' a => dsimp only [w]); (case' b => clear_value w; intro hw))
    | (extract_lets +onlyGivenNames w)
    | split
    | dsimp +zetaDelta only
    | ((with_reducible refine Keeps.isMk ?_ ?_); rfl)

theorem releaseFlow_keeps {s0 : State} {x0 x1 x2 x3} (h3 : Keeps s0 x3) : Keeps s0 (releaseFlow x0 x1 x2 x3) := by
  fun_induction releaseFlow x0 x1 x2 x3
  all_goals repeat' first
    | with_reducible first | assumption | apply releaseOne_keeps | apply_assumption -exfalso -symm

theorem addRunning_keeps {s0 : State} {s r} (h0 : Keeps s0 s) : Keeps s0 (addRunning s r) := by
  unfold addRunning
  repeat' first
    | with_reducible first | assumption | apply ok_keeps
    | intro _
    | (extract_lets +onlyGivenNames w)
    | split
    | ((with_reducible refine Keeps.isMk ?_ ?_); rfl)

theorem dropStale_keeps {s0 : State} {s qid e} (h0 : Keeps s0 s) : Keeps s0 (dropStale s qid e) := by
  unfold dropStale
  repeat' first
    | with_reducible first | assumption | apply State.count_keeps | apply addRunning_keeps | apply crumb_keeps
    | with_reducible first | apply dropHead_keeps | apply releaseFlow_keeps | apply releaseOne_keeps | apply ok_keeps
    | intro _
    | (extract_lets +onlyGivenNames w)
    | split

theorem defer__keeps {s0 : State} {s qid e reason} (h0 : Keeps s0 s) : Keeps s0 (defer_ s qid e reason) := by
  unfold defer_
  repeat' first
    | with_reducible first | assumption | apply crumb_keeps | apply State.setQueue_keeps
    | (extract_lets +onlyGivenNames w)
    | split

theorem endWork_keeps {s0 : State} {s r terminated} (h0 : Keeps s0 s) : Keeps s0 (endWork s r terminated) := by
  unfold endWork
  repeat' first
    | with_reducible first | assumption | apply State.count_keeps | apply crumb_keeps | apply noteIdle_keeps
    | with_reducible first | apply releaseFlow_keeps | apply releaseOne_keeps | apply setRunning_keeps
    | with_reducible first | apply updateLam_keeps | apply ok_keeps
    | intro _
    | (extract_lets +onlyGivenNames w)
    | split
    | ((with_reducible refine Keeps.isMk ?_ ?_); rfl)

theorem completeAborted_keeps {s0 : State} {x0 x1 x2} (h0 : Keeps s0 x0) : Keeps s0 (completeAborted x0 x1 x2) := by
  unfold completeAborted
  extract_lets q o k src r s1 s2 s3 d b s4 sr s5 y out s6
  have h1 : Keeps s0 s1 := by dsimp only [s1]; with_reducible exact dropHead_keeps h0
  clear_value s1 r src k o
  have h2 : Keeps s0 s2 := by
    dsimp only [s2]
    cases o
    · exact h1
    · with_reducible exact State.setQueue_keeps h1
  have h3 : Keeps s0 s3 := by dsimp only [s3]; with_reducible exact addRunning_keeps h2
  clear_value s3
  have hd : Keeps s0 d.2 := by dsimp only [d]; with_reducible exact busReadMany_keeps h3
  clear_value d b sr
  have h5 : Keeps s0 s5 := by
    dsimp only [s5]
    split
    · exact hd
    · with_reducible exact busWriteMany_keeps hd
  clear_value s5
  have hy : Keeps s0 y.2 := by
    dsimp only [y]
    split
    · with_reducible exact busReadMany_keeps h5
    · exact h5
  clear_value y out
  have h6 : Keeps s0 s6 := by dsimp only [s6]; with_reducible exact getD_keeps (placeOut_keeps hy) hy
  clear_value s6
  split
  · with_reducible exact endWork_keeps h6
  · exact h6

theorem noteLatency_keeps {s0 : State} {s q since task} (h0 : Keeps s0 s) : Keeps s0 (noteLatency s q since task).2
    := by
  unfold noteLatency
  repeat' first
    | with_reducible first | assumption | apply State.setReg_keeps | apply State.takeFresh_keeps | apply ok_keeps
    | intro _
    | (extract_lets +onlyGivenNames w)
    | split

theorem launch_keeps {s0 : State} {s qid e tile core} (h0 : Keeps s0 s) : Keeps s0 (launch s qid e tile core) := by
  unfold launch
  repeat' first
    | with_reducible first | assumption | apply State.count_keeps | apply State.setQueue_keeps | apply addRunning_keeps
    | with_reducible first | apply crumb_keeps | apply dropHead_keeps | apply noteLatency_keeps | apply setSlot_keeps
    | with_reducible apply ok_keeps
    | intro _
    | (extract_lets +onlyGivenNames w)
    | split
    | dsimp +zetaDelta only

theorem recordOut_keeps {s0 : State} {s key qid x c slip tTx} (h0 : Keeps s0 s) :
    Keeps s0 (recordOut s key qid x c slip tTx) := by
  unfold recordOut
  repeat' first
    | with_reducible first | assumption | apply State.count_keeps | apply State.setTx_keeps | apply busReadMany_keeps
    | with_reducible first | apply launch_keeps | apply noteSent_keeps | apply readHdr_keeps | apply ok_keeps
    | intro _
    | (extract_lets +onlyGivenNames w)
    | split

theorem lullWake_keeps {s0 : State} {s q ts} (h0 : Keeps s0 s) : Keeps s0 (lullWake s q ts) := by
  unfold lullWake
  repeat' first
    | with_reducible first | assumption | apply State.orReg_keeps | apply startWake_keeps
    | split

theorem tryHead_keeps {s0 : State} {s qid e} (h0 : Keeps s0 s) : Keeps s0 (tryHead s qid e).2 := by
  unfold tryHead
  repeat' first
    | with_reducible first | assumption | apply defer__keeps | apply launch_keeps | apply lullWake_keeps
    | with_reducible apply ok_keeps
    | intro _
    | (extract_lets +onlyGivenNames w)
    | split
    | ((with_reducible refine Keeps.isMk ?_ ?_); rfl)

theorem passOver_keeps {s0 : State} {s qid e why} (h0 : Keeps s0 s) : Keeps s0 (passOver s qid e why) := by
  unfold passOver
  repeat' first
    | with_reducible first | assumption | apply State.setQueue_keeps | apply defer__keeps | apply ok_keeps
    | intro _
    | (extract_lets +onlyGivenNames w)
    | split

theorem decide__keeps {s0 : State} {x0 x1} (h1 : Keeps s0 x1) : Keeps s0 (decide_ x0 x1) := by
  fun_induction decide_ x0 x1
  all_goals repeat' first
    | with_reducible first | assumption | apply completeAborted_keeps | apply dropStale_keeps | apply passOver_keeps
    | with_reducible first | apply peekHead_keeps | apply tryHead_keeps | apply ok_keeps
    | with_reducible apply_assumption -exfalso -symm
    | intro _
    | (extract_lets +onlyGivenNames w)
    | split

theorem execDispatch_keeps {s0 : State} {q s} (h1 : Keeps s0 s) : KOut s0 (execDispatch q s) := by
  unfold execDispatch
  repeat' first
    | with_reducible first | assumption | apply decide__keeps | apply ok_keeps
    | split

theorem badInsn_keeps {s0 : State} {s t c} (h0 : Keeps s0 s) : Keeps s0 (badInsn s t c) := by
  unfold badInsn
  repeat' with_reducible first | assumption | apply haltWith_keeps

theorem execSet_keeps {s0 : State} {tile ch s} (h2 : Keeps s0 s) : KOut s0 (execSet tile ch s) := by
  unfold execSet
  repeat' first
    | with_reducible first | assumption | apply badInsn_keeps | apply chNext_keeps | apply setAR_keeps
    | with_reducible first | apply State.setReg_keeps | apply ok_keeps
    | (extract_lets +onlyGivenNames w)
    | split

theorem sendBlob_keeps {s0 : State} {s k run kind b} (h0 : Keeps s0 s) : Keeps s0 (sendBlob s k run kind b) := by
  unfold sendBlob
  repeat' first
    | with_reducible first | assumption | apply peerSend_keeps | apply Keeps.foldl
    | intro _

theorem modExport_keeps {s0 : State} {s k n f} (h0 : Keeps s0 s) : Keeps s0 (modExport s k n f) := by
  unfold modExport
  repeat' first
    | with_reducible first | assumption | apply State.setPeer_keeps | apply ok_keeps
    | intro _
    | (extract_lets +onlyGivenNames w)
    | split

theorem sendRecord_keeps {s0 : State} {s n r} (h0 : Keeps s0 s) : Keeps s0 (sendRecord s n r) := by
  unfold sendRecord
  repeat' first
    | with_reducible first | assumption | apply peerSend_keeps | apply sendBlob_keeps | apply modExport_keeps
    | (extract_lets +onlyGivenNames w;
        refine Keeps.cut (s0 := s0) w ?a ?b;
        (case' a => dsimp only [w]); (case' b => clear_value w; intro hw))
    | (extract_lets +onlyGivenNames w)
    | split
    | dsimp +zetaDelta only

theorem execExportL2WaitExpiry_keeps {s0 : State} {corridor hiEnd s} (h2 : Keeps s0 s) :
    KOut s0 (execExportL2WaitExpiry corridor hiEnd s) := by
  unfold execExportL2WaitExpiry
  repeat' first
    | with_reducible first | assumption | apply sendRecord_keeps | apply ok_keeps | apply Keeps.foldl
    | intro _
    | (extract_lets +onlyGivenNames w)
    | split
    | ((with_reducible refine Keeps.isMk ?_ ?_); rfl)

theorem execJournalRecord_keeps {s0 : State} {rtype severity source body s} (h4 : Keeps s0 s) :
    KOut s0 (execJournalRecord rtype severity source body s) := by
  unfold execJournalRecord
  repeat' first
    | with_reducible first | assumption | apply State.journal_keeps | apply ok_keeps
    | split

theorem effectOf_keeps {s0 : State} {s x} (h0 : Keeps s0 s) : Keeps s0 (effectOf s x) := by
  unfold effectOf
  repeat' first
    | with_reducible first | assumption | apply setMbx_keeps | apply settingRecord_keeps | apply applySetting_keeps
    | split

end Sys2Proof.Machine
end

