-- ==== Sys2Proof/Laws/Keeps05.lean ====
section
/-! SUPPORT. Each shared operation and each command keeps what `Keeps` says (part 5 of 10, in the order in which
they use one another). -/

namespace Sys2Proof.Machine

theorem execBringupStepTimeout_keeps {s0 : State} {iot port s} (h2 : Keeps s0 s) :
    KOut s0 (execBringupStepTimeout iot port s) := by
  unfold execBringupStepTimeout
  repeat' first
    | with_reducible first | assumption | apply State.orReg_keeps | apply State.count_keeps | apply enterStep_keeps
    | with_reducible apply ok_keeps
    | (extract_lets +onlyGivenNames w;
        refine Keeps.cut (s0 := s0) w ?a ?b;
        (case' a => dsimp only [w]); (case' b => clear_value w; intro hw))
    | split

theorem exportStart_keeps {s0 : State} {s n r mbx} (h0 : Keeps s0 s) : Keeps s0 (exportStart s n r mbx) := by
  unfold exportStart
  repeat' first
    | with_reducible first | assumption | apply State.setPeer_keeps | apply pushStatus_keeps
    | (extract_lets +onlyGivenNames w)
    | split

theorem autoExport_keeps {s0 : State} {s n r} (h0 : Keeps s0 s) : Keeps s0 (autoExport s n r) := by
  unfold autoExport
  repeat' first
    | with_reducible first | assumption | apply exportStart_keeps
    | (extract_lets +onlyGivenNames w)
    | split

theorem execTend_keeps {s0 : State} {k s} (h1 : Keeps s0 s) : KOut s0 (execTend k s) := by
  unfold execTend
  repeat' first
    | with_reducible first | assumption | apply State.setCore_keeps | apply issue_keeps | apply syncExc_keeps
    | with_reducible apply ok_keeps
    | intro _
    | (extract_lets +onlyGivenNames w)
    | split

theorem setLanes_keeps {s0 : State} {s n r l ms z b} (h0 : Keeps s0 s) : Keeps s0 (setLanes s n r l ms z b) := by
  unfold setLanes
  repeat' first
    | with_reducible first | assumption | apply State.modRun_keeps | apply putFeed_keeps | apply ok_keeps
    | with_reducible apply Keeps.foldl
    | intro _
    | (extract_lets +onlyGivenNames w)
    | split

theorem execPpsInMiss_keeps {s0 : State} {s} (h0 : Keeps s0 s) : KOut s0 (execPpsInMiss s) := by
  unfold execPpsInMiss
  repeat' first
    | with_reducible first | assumption | apply refLost_keeps | apply State.modTime_keeps | apply State.orReg_keeps
    | with_reducible apply ok_keeps
    | split

theorem powerSame_keeps {s0 : State} {s} (h0 : Keeps s0 s) : Keeps s0 (powerSame s).state := h0

theorem powerOk_keeps {s0 : State} {s} (h0 : Keeps s0 s) : Keeps s0 (powerOk s).state := by
  unfold powerOk
  repeat' with_reducible first | assumption | apply powerReq_keeps

theorem squashN_keeps {s0 : State} {x0 x1 x2 x3 x4} (h2 : Keeps s0 x2) : Keeps s0 (squashN x0 x1 x2 x3 x4) := by
  fun_induction squashN x0 x1 x2 x3 x4
  all_goals repeat' first
    | with_reducible first | assumption | apply State.setCore_keeps | apply ok_keeps | apply_assumption -exfalso -symm
    | intro _
    | (extract_lets +onlyGivenNames w)
    | split

theorem squashCq_keeps {s0 : State} {s t c} (h0 : Keeps s0 s) : Keeps s0 (squashCq s t c) := by
  unfold squashCq
  repeat' first
    | with_reducible first | assumption | apply State.takeFresh_keeps | apply squashN_keeps | apply ok_keeps
    | intro _
    | (extract_lets +onlyGivenNames w)
    | split

theorem vmacOp_keeps {s0 : State} {want ps k vd ty mode s} (h6 : Keeps s0 s) :
    KOut s0 (vmacOp want ps k vd ty mode s) := by
  unfold vmacOp
  repeat' with_reducible first | assumption | apply vins_keeps

theorem execVmsuw_keeps {s0 : State} {k vd va vb ty mode s} (h6 : Keeps s0 s) :
    KOut s0 (execVmsuw k vd va vb ty mode s) := by
  unfold execVmsuw
  repeat' with_reducible first | assumption | apply vmacOp_keeps

theorem execTst_keeps {s0 : State} {k ga gb s} (h3 : Keeps s0 s) : KOut s0 (execTst k ga gb s) := by
  unfold execTst
  repeat' with_reducible first | assumption | apply plain_keeps

theorem execVmovg_keeps {s0 : State} {k gd va n ty s} (h5 : Keeps s0 s) : KOut s0 (execVmovg k gd va n ty s) := by
  unfold execVmovg
  repeat' with_reducible first | assumption | apply vins_keeps

theorem onRun_keeps {s0 : State} {m n act s} (h2 : ∀ (y0 : Run) (y1 : State), Keeps s0 y1 → KSum s0 (act y0 y1)) (h3 :
    Keeps s0 s) :
    KSum s0 (onRun m n act s) := by
  unfold onRun
  repeat' first
    | with_reducible first | assumption | apply h2 | apply refuse_keeps | apply KSum.inl_
    | split

theorem setLoopSat_keeps {s0 : State} {s n r f v} (h0 : Keeps s0 s) : Keeps s0 (setLoopSat s n r f v) := by
  unfold setLoopSat
  repeat' with_reducible first | assumption | apply pushStatus_keeps | apply putFeed_keeps

theorem execLoopSatClear_keeps {s0 : State} {n pos s} (h2 : Keeps s0 s) : KOut s0 (execLoopSatClear n pos s) := by
  unfold execLoopSatClear
  repeat' first
    | with_reducible first | assumption | apply setLoopSat_keeps | apply ok_keeps
    | split

theorem announce_keeps {s0 : State} {s k p decision} (h0 : Keeps s0 s) : Keeps s0 (announce s k p decision) := by
  unfold announce
  repeat' first
    | with_reducible first | assumption | apply State.setField_keeps | apply refLost_keeps
    | (extract_lets +onlyGivenNames w;
        refine Keeps.cut (s0 := s0) w ?a ?b;
        (case' a => dsimp only [w]); (case' b => clear_value w; intro hw))
    | (extract_lets +onlyGivenNames w)
    | split
    | dsimp +zetaDelta only

theorem setPtp_keeps {s0 : State} {s k p x} (h0 : Keeps s0 s) : Keeps s0 (setPtp s k p x) := by
  unfold setPtp
  repeat' with_reducible first | assumption | apply State.modTime_keeps

theorem jumpRefused_keeps {s0 : State} {s off} (h0 : Keeps s0 s) : Keeps s0 (jumpRefused s off) := by
  unfold jumpRefused
  repeat' first
    | with_reducible first | assumption | apply State.journal_keeps | apply State.raise_keeps
    | with_reducible apply State.orReg_keeps

theorem steer_keeps {s0 : State} {s} (h0 : Keeps s0 s) : Keeps s0 (steer s) := by
  unfold steer
  repeat' with_reducible first | assumption | apply State.takeFresh_keeps | apply setRate_keeps

theorem servoDecide_keeps {s0 : State} {s} (h0 : Keeps s0 s) : Keeps s0 (servoDecide s) := by
  unfold servoDecide
  repeat' first
    | with_reducible first | assumption | apply enterHoldover_keeps | apply jumpRefused_keeps
    | with_reducible first | apply State.modTime_keeps | apply steer_keeps | apply setServo_keeps
    | (extract_lets +onlyGivenNames w;
        refine Keeps.cut (s0 := s0) w ?a ?b;
        (case' a => dsimp only [w]); (case' b => clear_value w; intro hw))
    | (extract_lets +onlyGivenNames w)
    | split

theorem takeMeas_keeps {s0 : State} {s off} (h0 : Keeps s0 s) : Keeps s0 (takeMeas s off) := by
  unfold takeMeas
  repeat' first
    | with_reducible first | assumption | apply State.modTime_keeps | apply State.setReg64_keeps
    | with_reducible apply servoDecide_keeps
    | split

theorem syncDone_keeps {s0 : State} {s k p t1 corr t2} (h0 : Keeps s0 s) : Keeps s0 (syncDone s k p t1 corr t2) := by
  unfold syncDone
  repeat' first
    | with_reducible first | assumption | apply setPtp_keeps | apply takeMeas_keeps
    | (extract_lets +onlyGivenNames w;
        refine Keeps.cut (s0 := s0) w ?a ?b;
        (case' a => dsimp only [w]); (case' b => clear_value w; intro hw))
    | split

theorem State.emit_keeps {s0 : State} {x0 x1} (h0 : Keeps s0 x0) : Keeps s0 (State.emit x0 x1) :=
  h0.trans ⟨⟨rfl, rfl, id, fun _ x a b => ⟨x, a, rfl, b, id⟩, Nat.le_refl _, Nat.le_refl _, List.prefix_refl _, ⟨_, rfl⟩⟩, id, id, id, id⟩

theorem noteDrive_keeps {s0 : State} {old s k l} (h0 : Keeps s0 old) (h1 : Keeps s0 s) : Keeps s0 (noteDrive old s k l)
    := by
  unfold noteDrive
  repeat' first
    | with_reducible first | assumption | apply State.emit_keeps | apply ok_keeps
    | intro _
    | (extract_lets +onlyGivenNames w)
    | split

theorem prbsCtrlWrite_keeps {s0 : State} {k l v s} (h3 : Keeps s0 s) : Keeps s0 (prbsCtrlWrite k l v s) := by
  unfold prbsCtrlWrite
  repeat' first
    | with_reducible first | assumption | apply State.modReg_keeps | apply State.setField_keeps | apply noteDrive_keeps
    | with_reducible first | apply prbsClear_keeps | apply ok_keeps
    | intro _
    | (extract_lets +onlyGivenNames w)
    | split

theorem lpbkWrite_keeps {s0 : State} {k l n s} (h3 : Keeps s0 s) : Keeps s0 (lpbkWrite k l n s) := by
  unfold lpbkWrite
  repeat' first
    | with_reducible first | assumption | apply State.setField_keeps | apply closeLoop_keeps | apply noteDrive_keeps
    | with_reducible apply ok_keeps
    | intro _
    | (extract_lets +onlyGivenNames w)
    | split

theorem write32Narrow_keeps {s0 : State} {r b off a row x5 s} (h6 : Keeps s0 s) :
    Keeps s0 (write32Narrow r b off a row x5 s) := by
  unfold write32Narrow
  repeat' first
    | with_reducible first | assumption | apply State.setReg_keeps | apply budgetWrite_keeps | apply dacCfgWrite_keeps
    | with_reducible first | apply dacCodeWrite_keeps | apply dmaWrite_keeps | apply dsqWrite_keeps
    | with_reducible first | apply eccClear_keeps | apply islWrite_keeps | apply lpbkWrite_keeps | apply mbxWrite_keeps
    | with_reducible first | apply memcClear_keeps | apply noteDrive_keeps | apply plainWrite_keeps
    | with_reducible first | apply prbsCtrlWrite_keeps | apply settleTokens_keeps | apply spurWrite_keeps
    | with_reducible first | apply timeWrite_keeps | apply wfqWrite_keeps | apply ok_keeps
    | intro _
    | (extract_lets +onlyGivenNames w)
    | split

theorem write32_keeps {s0 : State} {r b off a x4 s} (h5 : Keeps s0 s) : Keeps s0 (write32 r b off a x4 s) := by
  unfold write32
  repeat' first
    | with_reducible first | assumption | apply coreWrite_keeps | apply cpWriteHalf_keeps | apply writeHalf_keeps
    | with_reducible first | apply write64_keeps | apply write32Narrow_keeps
    | (extract_lets +onlyGivenNames w;
        refine Keeps.cut2 (s0 := s0) w ?a ?b;
        (case' a => dsimp only [w]); (case' b => clear_value w; intro hw))
    | (extract_lets +onlyGivenNames w)
    | split

theorem busWrite_keeps {s0 : State} {r a bs s} (h3 : Keeps s0 s) : Keeps s0 (busWrite r a bs s).2 := by
  unfold busWrite
  repeat' first
    | with_reducible first | assumption | apply write64_keeps | apply write32_keeps | apply busMemWrite_keeps
    | (extract_lets +onlyGivenNames w)
    | split

theorem performStore_keeps {s0 : State} {t c n s} (h3 : Keeps s0 s) : Keeps s0 (performStore t c n s) := by
  unfold performStore
  repeat' first
    | with_reducible first | assumption | apply busWrite_keeps | apply State.setCore_keeps
    | (extract_lets +onlyGivenNames w)
    | split

theorem putStore_keeps {s0 : State} {t c p s} (h3 : Keeps s0 s) : Keeps s0 (putStore t c p s) := by
  unfold putStore
  repeat' first
    | with_reducible first | assumption | apply busWrite_keeps | apply performStore_keeps | apply State.setCore_keeps
    | (extract_lets +onlyGivenNames w;
        refine Keeps.cut (s0 := s0) w ?a ?b;
        (case' a => dsimp only [w]); (case' b => clear_value w; intro hw))
    | (extract_lets +onlyGivenNames w)
    | split

theorem storeOne_keeps {s0 : State} {k a n vec val s} (h5 : Keeps s0 s) : KOut s0 (storeOne k a n vec val s) := by
  unfold storeOne
  repeat' first
    | with_reducible first | assumption | apply done_keeps | apply issue_keeps | apply putStore_keeps
    | with_reducible first | apply syncExc_keeps | apply ok_keeps
    | intro _
    | (extract_lets +onlyGivenNames w)
    | split

theorem execSt_keeps {s0 : State} {k gs a size s} (h4 : Keeps s0 s) : KOut s0 (execSt k gs a size s) := by
  unfold execSt
  repeat' with_reducible first | assumption | apply storeOne_keeps

theorem testStart_keeps {s0 : State} {s k l action pattern loopback durMs} (h0 : Keeps s0 s) :
    Keeps s0 (testStart s k l action pattern loopback durMs) := by
  unfold testStart
  repeat' first
    | with_reducible apply lpbkWrite_keeps
    | with_reducible first | assumption | apply prbsClear_keeps | apply State.setField_keeps | apply takeOut_keeps
    | with_reducible apply prbsCtrlWrite_keeps
    | (extract_lets +onlyGivenNames w)
    | split
    | dsimp +zetaDelta only
    | ((with_reducible refine Keeps.isMk ?_ ?_); rfl)

theorem writeBeats_keeps {s0 : State} {r a d x3 x4 x5} (h5 : Keeps s0 x5) :
    Keeps s0 (writeBeats r a d x3 x4 x5).2 := by
  fun_induction writeBeats r a d x3 x4 x5
  all_goals repeat' first
    | with_reducible first | assumption | apply busWrite_keeps | apply_assumption -exfalso -symm

theorem performRow_keeps {s0 : State} {s t c row} (h0 : Keeps s0 s) : Keeps s0 (performRow s t c row).2 := by
  unfold performRow
  repeat' first
    | with_reducible first | assumption | apply rowData_keeps | apply State.takeFresh_keeps | apply writeBeats_keeps
    | with_reducible apply State.count64_keeps
    | (extract_lets +onlyGivenNames w;
        refine Keeps.cut2 (s0 := s0) w ?a ?b;
        (case' a => dsimp only [w]); (case' b => clear_value w; intro hw))
    | (extract_lets +onlyGivenNames w)
    | split
    | dsimp +zetaDelta only

theorem rowComplete_keeps {s0 : State} {s t c row} (h0 : Keeps s0 s) : Keeps s0 (rowComplete s t c row) := by
  unfold rowComplete
  repeat' first
    | with_reducible first | assumption | apply performRow_keeps | apply modChan_keeps | apply latchFail_keeps
    | with_reducible first | apply issueRows_keeps | apply putProg_keeps | apply endMove_keeps
    | (extract_lets +onlyGivenNames w;
        refine Keeps.cut2 (s0 := s0) w ?a ?b;
        (case' a => dsimp only [w]); (case' b => clear_value w; intro hw))
    | (extract_lets +onlyGivenNames w)
    | split
    | dsimp +zetaDelta only

theorem rowInject_keeps {s0 : State} {s t c row} (h0 : Keeps s0 s) : Keeps s0 (rowInject s t c row) := by
  unfold rowInject
  repeat' first
    | with_reducible first | assumption | apply modChan_keeps | apply chargeFlits_keeps | apply rowComplete_keeps
    | with_reducible apply countWait_keeps
    | (extract_lets +onlyGivenNames w;
        refine Keeps.cut (s0 := s0) w ?a ?b;
        (case' a => dsimp only [w]); (case' b => clear_value w; intro hw))
    | (extract_lets +onlyGivenNames w)
    | split

theorem writeAnswer_keeps {s0 : State} {r a bs s} (h3 : Keeps s0 s) : Keeps s0 (writeAnswer r a bs s) := by
  unfold writeAnswer
  repeat' first
    | with_reducible first | assumption | apply busWrite_keeps | apply State.answer_keeps
    | (extract_lets +onlyGivenNames w;
        refine Keeps.cut2 (s0 := s0) w ?a ?b;
        (case' a => dsimp only [w]); (case' b => clear_value w; intro hw))
    | split

theorem bell_keeps {s0 : State} {r t c cmd s} (h4 : Keeps s0 s) : KOut s0 (bell r t c cmd s) := by
  unfold bell
  repeat' with_reducible first | assumption | apply writeAnswer_keeps | apply ok_keeps

theorem execRegisterWrite_keeps {s0 : State} {r addr size value s} (h4 : Keeps s0 s) :
    KOut s0 (execRegisterWrite r addr size value s) := by
  unfold execRegisterWrite
  repeat' with_reducible first | assumption | apply writeAnswer_keeps | apply ok_keeps

theorem unicastAsk_keeps {s0 : State} {s k p client seconds} (h0 : Keeps s0 s) : Keeps s0 (unicastAsk s k p client seconds)
    := by
  unfold unicastAsk
  repeat' first
    | with_reducible first | assumption | apply State.count_keeps | apply State.emit_keeps | apply State.modTime_keeps
    | with_reducible apply ok_keeps
    | intro _
    | (extract_lets +onlyGivenNames w)
    | split

theorem unicastDrop_keeps {s0 : State} {s k p client} (h0 : Keeps s0 s) : Keeps s0 (unicastDrop s k p client) := by
  unfold unicastDrop
  repeat' first
    | with_reducible first | assumption | apply State.count_keeps | apply State.modTime_keeps | apply ok_keeps
    | intro _
    | (extract_lets +onlyGivenNames w)
    | split

theorem execPtpMessageReceive_keeps {s0 : State} {iot port domain b s} (h4 : Keeps s0 s) :
    KOut s0 (execPtpMessageReceive iot port domain b s) := by
  unfold execPtpMessageReceive
  repeat' first
    | with_reducible first | assumption | apply State.count_keeps | apply State.emit_keeps | apply State.setReg64_keeps
    | with_reducible first | apply announce_keeps | apply setPtp_keeps | apply syncDone_keeps | apply unicastAsk_keeps
    | with_reducible first | apply unicastDrop_keeps | apply ok_keeps
    | intro _
    | (extract_lets +onlyGivenNames w)
    | split

theorem ptpInto_keeps {s0 : State} {k p domain b s} (h4 : Keeps s0 s) : Keeps s0 (ptpInto k p domain b s) := by
  unfold ptpInto
  repeat' first
    | with_reducible first | assumption | apply execPtpMessageReceive_keeps | refine Keeps.ofOut (by assumption) ?_
    | split

theorem pauseEnd_keeps {s0 : State} {s k p pcp} (h0 : Keeps s0 s) : Keeps s0 (pauseEnd s k p pcp) := by
  unfold pauseEnd
  repeat' first
    | with_reducible first | assumption | apply egressActivate_keeps | apply Keeps.foldl
    | intro _
    | (extract_lets +onlyGivenNames w)
    | split
    | dsimp +zetaDelta only
    | ((with_reducible refine Keeps.isMk ?_ ?_); rfl)

theorem pauseReceive_keeps {s0 : State} {s k p pcp quanta} (h0 : Keeps s0 s) :
    Keeps s0 (pauseReceive s k p pcp quanta) := by
  unfold pauseReceive
  repeat' first
    | with_reducible first | assumption | apply pauseEnd_keeps
    | (extract_lets +onlyGivenNames w;
        refine Keeps.cut (s0 := s0) w ?a ?b;
        (case' a => dsimp only [w]); (case' b => clear_value w; intro hw))
    | (extract_lets +onlyGivenNames w)
    | split
    | dsimp +zetaDelta only
    | ((with_reducible refine Keeps.isMk ?_ ?_); rfl)

theorem bhDrop_keeps {s0 : State} {s key} (h0 : Keeps s0 s) : Keeps s0 (bhDrop s key) := by
  unfold bhDrop
  repeat' with_reducible first | assumption | apply State.modFh_keeps

theorem backhaul_keeps {s0 : State} {k p pcp s} (h3 : Keeps s0 s) : Keeps s0 (backhaul k p pcp s) := by
  unfold backhaul
  repeat' first
    | with_reducible first | assumption | apply bhDrop_keeps | apply State.takeFresh_keeps | apply pushQ_keeps
    | with_reducible refine Keeps.ofPair (by assumption) ?_
    | (extract_lets +onlyGivenNames w;
        refine Keeps.cut2 (s0 := s0) w ?a ?b;
        (case' a => dsimp only [w]); (case' b => clear_value w; intro hw))
    | split

theorem directFrame_keeps {s0 : State} {k p f s} (h3 : Keeps s0 s) : Keeps s0 (directFrame k p f s) := by
  unfold directFrame
  repeat' first
    | with_reducible first | assumption | apply State.count_keeps | apply ptpInto_keeps | apply pauseReceive_keeps
    | with_reducible first | apply peerDrop_keeps | apply ecpri_keeps | apply frontHaul_keeps | apply backhaul_keeps
    | with_reducible apply Keeps.foldl
    | intro _
    | (extract_lets +onlyGivenNames w;
        refine Keeps.cutF (s0 := s0) w ?a ?b;
        (case' a => dsimp only [w]); (case' b => clear_value w; intro hw))
    | (extract_lets +onlyGivenNames w)
    | split

theorem sendHello_keeps {s0 : State} {s k} (h0 : Keeps s0 s) : Keeps s0 (sendHello s k) := by
  unfold sendHello
  repeat' first
    | with_reducible first | assumption | apply State.takeFresh_keeps | apply State.setPeer_keeps
    | with_reducible apply peerSend_keeps
    | (extract_lets +onlyGivenNames w;
        refine Keeps.cut2 (s0 := s0) w ?a ?b;
        (case' a => dsimp only [w]); (case' b => clear_value w; intro hw))
    | (extract_lets +onlyGivenNames w)
    | split

theorem execPeerSessionReopen_keeps {s0 : State} {corridor hiEnd s} (h2 : Keeps s0 s) :
    KOut s0 (execPeerSessionReopen corridor hiEnd s) := by
  unfold execPeerSessionReopen
  repeat' first
    | with_reducible first | assumption | apply sendHello_keeps | apply ok_keeps
    | (extract_lets +onlyGivenNames w)
    | split

theorem pollCounter_keeps {s0 : State} {s x} (h0 : Keeps s0 s) : Keeps s0 (pollCounter s x) := by
  unfold pollCounter
  repeat' first
    | with_reducible first | assumption | apply State.setReg_keeps
    | (extract_lets +onlyGivenNames w;
        refine Keeps.cut (s0 := s0) w ?a ?b;
        (case' a => dsimp only [w]); (case' b => clear_value w; intro hw))
    | (extract_lets +onlyGivenNames w)
    | split
    | dsimp +zetaDelta only
    | ((with_reducible refine Keeps.isMk ?_ ?_); rfl)

theorem execCounterTotalPoll_keeps {s0 : State} {s} (h0 : Keeps s0 s) : KOut s0 (execCounterTotalPoll s) := by
  unfold execCounterTotalPoll
  repeat' first
    | with_reducible first | assumption | apply pollCounter_keeps | apply ok_keeps | apply Keeps.foldl
    | split

theorem settleAll_keeps {s0 : State} {s} (h0 : Keeps s0 s) : Keeps s0 (settleAll s) := by
  unfold settleAll
  repeat' with_reducible first | assumption | apply settleCycles_keeps | apply Keeps.foldl

theorem execCmacj_keeps {s0 : State} {k n ga gb s} (h4 : Keeps s0 s) : KOut s0 (execCmacj k n ga gb s) := by
  unfold execCmacj
  repeat' with_reducible first | assumption | apply plain_keeps

theorem fuseWrite_keeps {s0 : State} {s k} (h0 : Keeps s0 s) : Keeps s0 (fuseWrite s k) := by
  unfold fuseWrite
  repeat' first
    | with_reducible first | assumption | apply State.journal_keeps | apply State.orReg_keeps
    | (extract_lets +onlyGivenNames w)
    | split
    | dsimp +zetaDelta only
    | ((with_reducible refine Keeps.isMk ?_ ?_); rfl)

theorem fuseUpdate_keeps {s0 : State} {stuck s} (h1 : Keeps s0 s) : Keeps s0 (fuseUpdate stuck s) := by
  unfold fuseUpdate
  repeat' first
    | with_reducible first | assumption | apply fuseWrite_keeps | apply Keeps.foldl
    | (extract_lets +onlyGivenNames w;
        refine Keeps.cut (s0 := s0) w ?a ?b;
        (case' a => dsimp only [w]); (case' b => clear_value w; intro hw))
    | (extract_lets +onlyGivenNames w)
    | dsimp +zetaDelta only
    | ((with_reducible refine Keeps.isMk ?_ ?_); rfl)

theorem fuseFailed_keeps {s0 : State} {s e} (h0 : Keeps s0 s) : Keeps s0 (fuseFailed s e) := by
  unfold fuseFailed
  repeat' with_reducible first | assumption | apply State.journal_keeps

theorem dutyDone_keeps {s0 : State} {d s} (h1 : Keeps s0 s) : Keeps s0 (dutyDone d s) := by
  unfold dutyDone
  repeat' first
    | with_reducible first | assumption | apply State.setField_keeps
    | (extract_lets +onlyGivenNames w;
        refine Keeps.cut (s0 := s0) w ?a ?b;
        (case' a => dsimp only [w]); (case' b => clear_value w; intro hw))
    | (extract_lets +onlyGivenNames w)
    | split
    | dsimp +zetaDelta only
    | ((with_reducible refine Keeps.isMk ?_ ?_); rfl)

theorem execSoftFuseUpkeep_keeps {s0 : State} {s} (h0 : Keeps s0 s) : KOut s0 (execSoftFuseUpkeep s) := by
  unfold execSoftFuseUpkeep
  repeat' first
    | with_reducible first | assumption | apply fuseUpdate_keeps | apply fuseFailed_keeps | apply dutyDone_keeps
    | with_reducible first | apply ok_keeps | apply Keeps.foldl
    | (extract_lets +onlyGivenNames w;
        refine Keeps.cut (s0 := s0) w ?a ?b;
        (case' a => dsimp only [w]); (case' b => clear_value w; intro hw))
    | (extract_lets +onlyGivenNames w)
    | split
    | dsimp +zetaDelta only
    | ((with_reducible refine Keeps.isMk ?_ ?_); rfl)

theorem throttled_keeps {s0 : State} {s} (h0 : Keeps s0 s) : Keeps s0 (throttled s) := by
  unfold throttled
  repeat' with_reducible first | assumption | apply State.setField_keeps

theorem wakeIslands_keeps {s0 : State} {s ts} (h0 : Keeps s0 s) : Keeps s0 (wakeIslands s ts) := by
  unfold wakeIslands
  repeat' first
    | with_reducible first | assumption | apply State.setIsland_keeps | apply State.setField_keeps | apply Keeps.foldl
    | intro _
    | (extract_lets +onlyGivenNames w;
        refine Keeps.cut (s0 := s0) w ?a ?b;
        (case' a => dsimp only [w]); (case' b => clear_value w; intro hw))
    | (extract_lets +onlyGivenNames w)
    | split

theorem pmbStill_keeps {s0 : State} {s on} (h0 : Keeps s0 s) : Keeps s0 (pmbStill s on) := by
  unfold pmbStill
  repeat' first
    | with_reducible first | assumption | apply State.emit_keeps | apply Keeps.foldl
    | intro _
    | (extract_lets +onlyGivenNames w)
    | split

theorem beginWake_keeps {s0 : State} {s} (h0 : Keeps s0 s) : Keeps s0 (beginWake s) := by
  unfold beginWake
  repeat' first
    | with_reducible first | assumption | apply wakeIslands_keeps | apply State.modPower_keeps | apply pmbStill_keeps

theorem wakeSource_keeps {s0 : State} {s order bit cause} (h0 : Keeps s0 s) :
    Keeps s0 (wakeSource s order bit cause) := by
  unfold wakeSource
  repeat' first
    | with_reducible first | assumption | apply State.modPower_keeps | apply beginWake_keeps
    | (extract_lets +onlyGivenNames w;
        refine Keeps.cut (s0 := s0) w ?a ?b;
        (case' a => dsimp only [w]); (case' b => clear_value w; intro hw))
    | split

theorem execMgtEnergyWake_keeps {s0 : State} {port s} (h1 : Keeps s0 s) : KOut s0 (execMgtEnergyWake port s) := by
  unfold execMgtEnergyWake
  repeat' first
    | with_reducible first | assumption | apply wakeSource_keeps | apply ok_keeps
    | (extract_lets +onlyGivenNames w)
    | split

theorem execLongPrefix_keeps {s0 : State} {k ext s} (h2 : Keeps s0 s) : KOut s0 (execLongPrefix k ext s) := by
  unfold execLongPrefix
  repeat' first
    | with_reducible first | assumption | apply issue_keeps | apply State.setCore_keeps | apply ok_keeps
    | intro _

theorem modInst_keeps {s0 : State} {s key f} (h0 : Keeps s0 s) : Keeps s0 (modInst s key f) := by
  unfold modInst
  repeat' first
    | with_reducible first | assumption | apply State.modCor_keeps
    | split

theorem moveStep_keeps {s0 : State} {s key} (h0 : Keeps s0 s) : Keeps s0 (moveStep s key) := by
  unfold moveStep
  repeat' first
    | with_reducible first | assumption | apply issueMove_keeps | apply State.raise_keeps | apply modInst_keeps
    | with_reducible apply_assumption -exfalso -symm
    | intro _
    | (extract_lets +onlyGivenNames w;
        refine Keeps.cutF (s0 := s0) w ?a ?b;
        (case' a => dsimp only [w]); (case' b => clear_value w; intro hw))
    | (extract_lets +onlyGivenNames w)
    | split
    | dsimp only [State.modBoot, State.modStor]
    | dsimp +zetaDelta only
    | ((with_reducible refine Keeps.isMk ?_ ?_); rfl)

theorem execSettingEffect_keeps {s0 : State} {scope sindex carrier s} (h3 : Keeps s0 s) :
    KOut s0 (execSettingEffect scope sindex carrier s) := by
  unfold execSettingEffect
  repeat' first
    | with_reducible first | assumption | apply effectOf_keeps | apply moveStep_keeps | apply progress_keeps
    | with_reducible first | apply proceed_keeps | apply ok_keeps | apply Keeps.foldl
    | intro _

theorem loadParity_keeps {s0 : State} {p s} (h1 : Keeps s0 s) : Keeps s0 (loadParity p s) := by
  unfold loadParity
  repeat' first
    | with_reducible first | assumption | apply State.setCore_keeps | apply State.count_keeps | apply Keeps.foldl
    | intro _
    | (extract_lets +onlyGivenNames w)
    | split

theorem readPart_keeps {s0 : State} {t c p s} (h3 : Keeps s0 s) : Keeps s0 (readPart t c p s).2 := by
  unfold readPart
  repeat' first
    | with_reducible first | assumption | apply busRead_keeps | apply State.setCore_keeps
    | (extract_lets +onlyGivenNames w;
        refine Keeps.cut2 (s0 := s0) w ?a ?b;
        (case' a => dsimp only [w]); (case' b => clear_value w; intro hw))
    | (extract_lets +onlyGivenNames w)
    | split

theorem readParts_keeps {s0 : State} {t c gather x3 x4 x5} (h5 : Keeps s0 x5) :
    Keeps s0 (readParts t c gather x3 x4 x5).2.2 := by
  fun_induction readParts t c gather x3 x4 x5
  all_goals repeat' first
    | with_reducible first | assumption | apply readPart_keeps | apply_assumption -exfalso -symm

theorem finishLoad_keeps {s0 : State} {p s} (h1 : Keeps s0 s) : Keeps s0 (finishLoad p s) := by
  unfold finishLoad
  repeat' first
    | with_reducible first | assumption | apply readParts_keeps | apply syncExc_keeps | apply done_keeps
    | (extract_lets +onlyGivenNames w;
        refine Keeps.cut3 (s0 := s0) w ?a ?b;
        (case' a => dsimp only [w]); (case' b => clear_value w; intro hw))
    | (extract_lets +onlyGivenNames w)
    | split

theorem sendLoad_keeps {s0 : State} {p s} (h1 : Keeps s0 s) : KOpt s0 (sendLoad p s) := by
  unfold sendLoad
  repeat' first
    | with_reducible first | assumption | apply chargeFlits_keeps | apply KOpt.some_ | exact KOpt.none_
    | (extract_lets +onlyGivenNames w)
    | split

theorem startLoad_keeps {s0 : State} {p s} (h1 : Keeps s0 s) : Keeps s0 (startLoad p s) := by
  unfold startLoad
  repeat' first
    | with_reducible first | assumption | apply loadParity_keeps | apply finishLoad_keeps | apply State.setCore_keeps
    | with_reducible first | apply sendLoad_keeps | apply countWait_keeps | refine Keeps.ofSome (by assumption) ?_
    | (extract_lets +onlyGivenNames w;
        refine Keeps.cut (s0 := s0) w ?a ?b;
        (case' a => dsimp only [w]); (case' b => clear_value w; intro hw))
    | (extract_lets +onlyGivenNames w)
    | split

theorem execLdxy_keeps {s0 : State} {k gx gy ax ay mx my s} (h7 : Keeps s0 s) :
    KOut s0 (execLdxy k gx gy ax ay mx my s) := by
  unfold execLdxy
  repeat' first
    | with_reducible first | assumption | apply issue_keeps | apply startLoad_keeps | apply syncExc_keeps
    | with_reducible apply ok_keeps
    | intro _
    | (extract_lets +onlyGivenNames w)
    | split

theorem execVcmacjw_keeps {s0 : State} {k vd va vb ty mode s} (h6 : Keeps s0 s) :
    KOut s0 (execVcmacjw k vd va vb ty mode s) := by
  unfold execVcmacjw
  repeat' with_reducible first | assumption | apply vmacOp_keeps

theorem announceStep_keeps {s0 : State} {s n r b t x} (h0 : Keeps s0 s) : Keeps s0 (announceStep s n r b t x) := by
  unfold announceStep
  repeat' first
    | with_reducible first | assumption | apply ctxPut_keeps | apply pushStatus_keeps
    | (extract_lets +onlyGivenNames w;
        refine Keeps.cut (s0 := s0) w ?a ?b;
        (case' a => dsimp only [w]); (case' b => clear_value w; intro hw))
    | (extract_lets +onlyGivenNames w)
    | split

theorem completionEntry_keeps {s0 : State} {j sr s} (h2 : Keeps s0 s) : Keeps s0 (completionEntry j sr s).2 := by
  unfold completionEntry
  repeat' first
    | with_reducible first | assumption | apply jobRead_keeps
    | (extract_lets +onlyGivenNames w;
        refine Keeps.cut2 (s0 := s0) w ?a ?b;
        (case' a => dsimp only [w]); (case' b => clear_value w; intro hw))
    | split

theorem decideAt_keeps {s0 : State} {s n b t} (h0 : Keeps s0 s) : Keeps s0 (decideAt s n b t) := by
  unfold decideAt
  repeat' first
    | with_reducible first | assumption | apply State.setRun_keeps | apply announceStep_keeps
    | split

theorem execDebugBreak_keeps {s0 : State} {tile core halt s} (h3 : Keeps s0 s) :
    KOut s0 (execDebugBreak tile core halt s) := by
  unfold execDebugBreak
  repeat' first
    | with_reducible first | assumption | apply State.setCore_keeps | apply takeExc_keeps | apply ok_keeps
    | (extract_lets +onlyGivenNames w)
    | split

theorem fbin_keeps {s0 : State} {op k fd fa fb dbl s} (h6 : Keeps s0 s) : KOut s0 (fbin op k fd fa fb dbl s) := by
  unfold fbin
  repeat' with_reducible first | assumption | apply plain_keeps

theorem execFmul_keeps {s0 : State} {k fd fa fb dbl s} (h5 : Keeps s0 s) : KOut s0 (execFmul k fd fa fb dbl s) := by
  unfold execFmul
  repeat' with_reducible first | assumption | apply fbin_keeps

theorem dropJob_keeps {s0 : State} {s j} (h0 : Keeps s0 s) : Keeps s0 (dropJob s j) := by
  unfold dropJob
  repeat' first
    | with_reducible first | assumption | apply noteIdle_keeps
    | (extract_lets +onlyGivenNames w)
    | dsimp +zetaDelta only
    | ((with_reducible refine Keeps.isMk ?_ ?_); rfl)

theorem spurUp_keeps {s0 : State} {s p} (h0 : Keeps s0 s) : Keeps s0 (spurUp s p) := by
  unfold spurUp
  repeat' first
    | with_reducible first | assumption | apply spurTrain_keeps | apply State.setField_keeps
    | split

theorem trimEntry_keeps {s0 : State} {d s e} (h1 : Keeps s0 s) : Keeps s0 (trimEntry d s e) := by
  unfold trimEntry
  repeat' first
    | with_reducible first | assumption | apply State.emit_keeps | apply modPmb_keeps
    | split

theorem execDmaFetch_keeps {s0 : State} {tile ch s} (h2 : Keeps s0 s) : KOut s0 (execDmaFetch tile ch s) := by
  unfold execDmaFetch
  repeat' first
    | with_reducible first | assumption | apply busRead_keeps | apply haltWith_keeps | apply modChan_keeps
    | with_reducible first | apply badInsn_keeps | apply ok_keeps
    | (extract_lets +onlyGivenNames w;
        refine Keeps.cut2 (s0 := s0) w ?a ?b;
        (case' a => dsimp only [w]); (case' b => clear_value w; intro hw))
    | (extract_lets +onlyGivenNames w)
    | split

theorem dacLoad_keeps {s0 : State} {s g} (h0 : Keeps s0 s) : Keeps s0 (dacLoad s g) := by
  unfold dacLoad
  repeat' first
    | with_reducible first | assumption | apply countLoad_keeps | apply dacTake_keeps | apply ok_keeps
    | with_reducible apply Keeps.foldl
    | intro _
    | (extract_lets +onlyGivenNames w)
    | split
    | ((with_reducible refine Keeps.isMk ?_ ?_); rfl)

theorem execDacLdN_keeps {s0 : State} {lowNs s} (h1 : Keeps s0 s) : KOut s0 (execDacLdN lowNs s) := by
  unfold execDacLdN
  repeat' first
    | with_reducible first | assumption | apply dacLoad_keeps | apply ok_keeps
    | (extract_lets +onlyGivenNames w;
        refine Keeps.cut (s0 := s0) w ?a ?b;
        (case' a => dsimp only [w]); (case' b => clear_value w; intro hw))
    | (extract_lets +onlyGivenNames w)
    | split

theorem startBody_keeps {s0 : State} {j b s} (h2 : Keeps s0 s) : Keeps s0 (startBody j b s) := by
  unfold startBody
  repeat' first
    | with_reducible first | assumption | apply setJob_keeps | apply decideJob_keeps
    | (extract_lets +onlyGivenNames w)
    | split

theorem execAccJobStart_keeps {s0 : State} {tile ref s} (h2 : Keeps s0 s) : KOut s0 (execAccJobStart tile ref s) := by
  unfold execAccJobStart
  repeat' first
    | with_reducible first | assumption | apply setJob_keeps | apply addJob_keeps | apply jobRead_keeps
    | with_reducible first | apply decideJob_keeps | apply startBody_keeps | apply ok_keeps
    | (extract_lets +onlyGivenNames w;
        refine Keeps.cut (s0 := s0) w ?a ?b;
        (case' a => dsimp only [w]); (case' b => clear_value w; intro hw))
    | (extract_lets +onlyGivenNames w)
    | split

theorem nextConfirm_keeps {s0 : State} {j s} (h1 : Keeps s0 s) : Keeps s0 (nextConfirm j s) := by
  unfold nextConfirm
  repeat' first
    | with_reducible first | assumption | apply addJob_keeps | apply failJob_keeps | apply jobRead_keeps
    | with_reducible first | apply performWrites_keeps | apply ok_keeps
    | intro _
    | (extract_lets +onlyGivenNames w)
    | split

theorem confirmed_keeps {s0 : State} {x st s} (h2 : Keeps s0 s) : Keeps s0 (confirmed x st s) := by
  unfold confirmed
  repeat' first
    | with_reducible first | assumption | apply nextConfirm_keeps | apply setJob_keeps
    | split

theorem cqIssue_keeps {s0 : State} {k op tile n kind arrived an ga tag act s} (h9 : ∀ (y0 : State), Keeps s0 y0 →
    Keeps s0 (act y0)) (h10 : Keeps s0 s) :
    Keeps s0 (cqIssue k op tile n kind arrived an ga tag act s) := by
  unfold cqIssue
  repeat' first
    | with_reducible first | assumption | apply h9 | apply issue_keeps | apply syncExc_keeps
    | with_reducible apply State.setCore_keeps
    | intro _
    | (extract_lets +onlyGivenNames w)
    | split

theorem execAccJob_keeps {s0 : State} {k an ga tag target s} (h5 : Keeps s0 s) :
    KOut s0 (execAccJob k an ga tag target s) := by
  unfold execAccJob
  repeat' first
    | with_reducible first | assumption | apply cqIssue_keeps | apply issue_keeps | apply syncExc_keeps
    | with_reducible first | apply ok_keeps | apply_assumption -exfalso -symm
    | intro _
    | (extract_lets +onlyGivenNames w)
    | split

theorem vcmulOp_keeps {s0 : State} {op k vd va vb ty mode s} (h7 : Keeps s0 s) :
    KOut s0 (vcmulOp op k vd va vb ty mode s) := by
  unfold vcmulOp
  repeat' with_reducible first | assumption | apply vins_keeps

theorem acceptHeld_keeps {s0 : State} {s qid} (h0 : Keeps s0 s) : Keeps s0 (acceptHeld s qid) := by
  unfold acceptHeld
  repeat' first
    | with_reducible first | assumption | apply bpCrumb_keeps | apply enqueue_keeps | apply State.setQueue_keeps
    | (extract_lets +onlyGivenNames w)
    | split

theorem execHeldPushAccept_keeps {s0 : State} {qid s} (h1 : Keeps s0 s) : KOut s0 (execHeldPushAccept qid s) := by
  unfold execHeldPushAccept
  repeat' first
    | with_reducible first | assumption | apply acceptHeld_keeps | apply cqResult_keeps | apply setSt_keeps
    | with_reducible apply ok_keeps
    | (extract_lets +onlyGivenNames w;
        refine Keeps.cut (s0 := s0) w ?a ?b;
        (case' a => dsimp only [w]); (case' b => clear_value w; intro hw))
    | (extract_lets +onlyGivenNames w)
    | split

theorem execFir4_keeps {s0 : State} {k n ga gb gc x5 s} (h6 : Keeps s0 s) : KOut s0 (execFir4 k n ga gb gc x5 s) := by
  unfold execFir4
  repeat' first
    | with_reducible first | assumption | apply done_keeps | apply issue_keeps | apply syncExc_keeps | apply ok_keeps
    | intro _
    | (extract_lets +onlyGivenNames w)
    | split

theorem execFabTargetTimeout_keeps {s0 : State} {fab id s} (h2 : Keeps s0 s) :
    KOut s0 (execFabTargetTimeout fab id s) := by
  unfold execFabTargetTimeout
  repeat' first
    | with_reducible first | assumption | apply State.count_keeps | apply State.orReg_keeps | apply dropTarget_keeps
    | with_reducible first | apply State.answer_keeps | apply ok_keeps
    | (extract_lets +onlyGivenNames w;
        refine Keeps.cut (s0 := s0) w ?a ?b;
        (case' a => dsimp only [w]); (case' b => clear_value w; intro hw))
    | split

theorem execDmaNop_keeps {s0 : State} {tile ch s} (h2 : Keeps s0 s) : KOut s0 (execDmaNop tile ch s) := by
  unfold execDmaNop
  repeat' first
    | with_reducible first | assumption | apply chNext_keeps | apply ok_keeps
    | split

theorem sendTiming_keeps {s0 : State} {s p} (h0 : Keeps s0 s) : Keeps s0 (sendTiming s p) := by
  unfold sendTiming
  repeat' with_reducible first | assumption | apply State.emit_keeps

theorem execBurstSend_keeps {s0 : State} {port s} (h1 : Keeps s0 s) : KOut s0 (execBurstSend port s) := by
  unfold execBurstSend
  repeat' first
    | with_reducible first | assumption | apply sendTiming_keeps | apply State.emit_keeps | apply State.modSpur_keeps
    | with_reducible first | apply spurFrame_keeps | apply ok_keeps
    | (extract_lets +onlyGivenNames w;
        refine Keeps.cut (s0 := s0) w ?a ?b;
        (case' a => dsimp only [w]); (case' b => clear_value w; intro hw))
    | (extract_lets +onlyGivenNames w)
    | split

theorem execAaddi_keeps {s0 : State} {k an imm s} (h3 : Keeps s0 s) : KOut s0 (execAaddi k an imm s) := by
  unfold execAaddi
  repeat' with_reducible first | assumption | apply plain_keeps

theorem State.wroteQc_keeps {s0 : State} {s f q c} (h0 : Keeps s0 s) : Keeps s0 (State.wroteQc s f q c) := by
  unfold State.wroteQc
  repeat' first
    | with_reducible first | assumption | apply State.modFab_keeps | apply ok_keeps
    | intro _
    | (extract_lets +onlyGivenNames w)
    | split

theorem qcPopNow_keeps {s0 : State} {s f n} (h0 : Keeps s0 s) : Keeps s0 (qcPopNow s f n) := by
  unfold qcPopNow
  repeat' first
    | with_reducible first | assumption | apply State.modFab_keeps | apply State.orReg_keeps
    | with_reducible first | apply State.wroteQc_keeps | apply popMany_keeps | apply setQc_keeps | apply ok_keeps
    | intro _
    | (extract_lets +onlyGivenNames w)
    | split

theorem execQcPop_keeps {s0 : State} {fab n s} (h2 : Keeps s0 s) : KOut s0 (execQcPop fab n s) := by
  unfold execQcPop
  repeat' with_reducible first | assumption | apply qcPopNow_keeps | apply ok_keeps

theorem simple_keeps {s0 : State} {spans f j s} (h3 : Keeps s0 s) : Keeps s0 (simple spans f j s).2.2 := by
  unfold simple
  repeat' first
    | with_reducible first | assumption | apply jobReads_keeps
    | (extract_lets +onlyGivenNames w;
        refine Keeps.cut2 (s0 := s0) w ?a ?b;
        (case' a => dsimp only [w]); (case' b => clear_value w; intro hw))
    | split

theorem loadOne_keeps {s0 : State} {k a n vec dest s} (h5 : Keeps s0 s) : KOut s0 (loadOne k a n vec dest s) := by
  unfold loadOne
  repeat' first
    | with_reducible first | assumption | apply issue_keeps | apply startLoad_keeps | apply syncExc_keeps
    | with_reducible apply ok_keeps
    | intro _
    | (extract_lets +onlyGivenNames w)
    | split

end Sys2Proof.Machine
end

