-- ==== Sys2Proof/Laws/Keeps06.lean ====
section
/-! SUPPORT. Each shared operation and each command keeps what `Keeps` says (part 6 of 10, in the order in which
they use one another). -/

namespace Sys2Proof.Machine

theorem execLda_keeps {s0 : State} {k f i a s} (h4 : Keeps s0 s) : KOut s0 (execLda k f i a s) := by
  unfold execLda
  repeat' with_reducible first | assumption | apply loadOne_keeps

theorem execPeerKeepaliveSend_keeps {s0 : State} {corridor hiEnd s} (h2 : Keeps s0 s) :
    KOut s0 (execPeerKeepaliveSend corridor hiEnd s) := by
  unfold execPeerKeepaliveSend
  repeat' first
    | with_reducible first | assumption | apply peerSend_keeps | apply State.setPeer_keeps | apply ok_keeps
    | (extract_lets +onlyGivenNames w)
    | split

theorem execSpurDataMode_keeps {s0 : State} {port s} (h1 : Keeps s0 s) : KOut s0 (execSpurDataMode port s) := by
  unfold execSpurDataMode
  repeat' first
    | with_reducible first | assumption | apply spurEnter_keeps | apply State.setField_keeps | apply State.modFh_keeps
    | with_reducible first | apply State.modSpur_keeps | apply ok_keeps
    | (extract_lets +onlyGivenNames w;
        refine Keeps.cut (s0 := s0) w ?a ?b;
        (case' a => dsimp only [w]); (case' b => clear_value w; intro hw))
    | split

theorem execJalr_keeps {s0 : State} {k an s} (h2 : Keeps s0 s) : KOut s0 (execJalr k an s) := by
  unfold execJalr
  repeat' first
    | with_reducible first | assumption | apply issue_keeps | apply State.setCore_keeps | apply ok_keeps
    | intro _

theorem execLoop_keeps {s0 : State} {tile ch s} (h2 : Keeps s0 s) : KOut s0 (execLoop tile ch s) := by
  unfold execLoop
  repeat' first
    | with_reducible first | assumption | apply State.setReg_keeps | apply chNext_keeps | apply chGoto_keeps
    | with_reducible apply ok_keeps
    | (extract_lets +onlyGivenNames w;
        refine Keeps.cut (s0 := s0) w ?a ?b;
        (case' a => dsimp only [w]); (case' b => clear_value w; intro hw))
    | (extract_lets +onlyGivenNames w)
    | split

theorem inject_keeps {s0 : State} {q flits s} (h2 : Keeps s0 s) : Keeps s0 (inject q flits s).2 := by
  unfold inject
  repeat' first
    | with_reducible first | assumption | apply chargeFlits_keeps | apply countWait_keeps
    | (extract_lets +onlyGivenNames w;
        refine Keeps.cut (s0 := s0) w ?a ?b;
        (case' a => dsimp only [w]); (case' b => clear_value w; intro hw))
    | (extract_lets +onlyGivenNames w)
    | split
    | dsimp only [State.modBoot, State.modStor]
    | dsimp +zetaDelta only
    | ((with_reducible refine Keeps.isMk ?_ ?_); rfl)

theorem startControl_keeps {s0 : State} {s key pcp quanta} (h0 : Keeps s0 s) :
    Keeps s0 (startControl s key pcp quanta) := by
  unfold startControl
  repeat' first
    | with_reducible first | assumption | apply State.setTx_keeps
    | (extract_lets +onlyGivenNames w;
        refine Keeps.cut (s0 := s0) w ?a ?b;
        (case' a => dsimp only [w]); (case' b => clear_value w; intro hw))
    | (extract_lets +onlyGivenNames w)
    | split
    | dsimp +zetaDelta only
    | ((with_reducible refine Keeps.isMk ?_ ?_); rfl)

theorem readFrame_keeps {s0 : State} {s k e} (h0 : Keeps s0 s) : Keeps s0 (readFrame s k e).2 := by
  unfold readFrame
  repeat' first
    | with_reducible first | assumption | apply busReadMany_keeps
    | (extract_lets +onlyGivenNames w;
        refine Keeps.cut2 (s0 := s0) w ?a ?b;
        (case' a => dsimp only [w]); (case' b => clear_value w; intro hw))
    | split

theorem frameOut_keeps {s0 : State} {s key qid kind e tTx delay} (h0 : Keeps s0 s) :
    Keeps s0 (frameOut s key qid kind e tTx delay) := by
  unfold frameOut
  repeat' first
    | with_reducible first | assumption | apply readFrame_keeps | apply State.setTx_keeps
    | (extract_lets +onlyGivenNames w)
    | split

theorem startTimed_keeps {s0 : State} {x0 x1 x2} (h0 : Keeps s0 x0) : Keeps s0 (startTimed x0 x1 x2) := by
  unfold startTimed
  extract_lets k s1 t s2
  have h1 : Keeps s0 s1 := State.setCalendar_keeps h0
  clear_value s1
  have h2 : Keeps s0 s2 := by
    dsimp only [s2]
    split
    · exact State.orReg_keeps (State.count_keeps h1)
    · exact h1
  clear_value s2
  split
  · exact h1
  · split
    · exact noteDepth_keeps (complete_keeps (State.orReg_keeps (State.count_keeps h1)))
    · split
      · exact frameOut_keeps h2
      · exact recordOut_keeps h2

theorem badEntry_keeps {s0 : State} {s k x e} (h0 : Keeps s0 s) : Keeps s0 (badEntry s k x e) := by
  unfold badEntry
  repeat' first
    | with_reducible first | assumption | apply complete_keeps | apply State.orReg_keeps | apply State.count_keeps

theorem retag_keeps {s0 : State} {s qid x} (h0 : Keeps s0 s) : Keeps s0 (retag s qid x) := by
  unfold retag
  repeat' first
    | with_reducible first | assumption | apply State.setEgq_keeps
    | split

theorem startWfq_keeps {s0 : State} {s key qid x e} (h0 : Keeps s0 s) : Keeps s0 (startWfq s key qid x e) := by
  unfold startWfq
  repeat' first
    | with_reducible first | assumption | apply dropHead_keeps | apply noteDepth_keeps | apply badEntry_keeps
    | with_reducible first | apply retag_keeps | apply State.setReg64_keeps | apply frameOut_keeps
    | (extract_lets +onlyGivenNames w;
        refine Keeps.cut (s0 := s0) w ?a ?b;
        (case' a => dsimp only [w]); (case' b => clear_value w; intro hw))
    | (extract_lets +onlyGivenNames w)
    | split

theorem startZeros_keeps {s0 : State} {s key qid b n} (h0 : Keeps s0 s) : Keeps s0 (startZeros s key qid b n) := by
  unfold startZeros
  repeat' first
    | with_reducible first | assumption | apply State.count_keeps | apply State.setTx_keeps | apply noteSent_keeps
    | with_reducible apply ok_keeps
    | intro _
    | (extract_lets +onlyGivenNames w)
    | split

theorem execTransmitStart_keeps {s0 : State} {iot port s} (h2 : Keeps s0 s) :
    KOut s0 (execTransmitStart iot port s) := by
  unfold execTransmitStart
  repeat' first
    | with_reducible first | assumption | apply startControl_keeps | apply startTimed_keeps | apply startWfq_keeps
    | with_reducible first | apply startZeros_keeps | apply ok_keeps
    | intro _
    | (extract_lets +onlyGivenNames w)
    | split

theorem setKey_keeps {s0 : State} {x0 x1 x2 x3 x4 x5} (h0 : Keeps s0 x0)
    (hk : ∀ x, mget (x1 * 8 + x2) x0.boot.keys = some x → x.st ≠ .empty → x4.pubkey = x.pubkey ∧ x4.st = .revoked) :
    Keeps s0 (setKey x0 x1 x2 x3 x4 x5) := by
  unfold setKey
  refine extendMeas_keeps (State.journal_keeps (boot_keeps h0 id id (fun l x a b => ?_) (Nat.le_refl _) rfl))
  by_cases e : l = x1 * 8 + x2
  · subst e
    obtain ⟨p, q⟩ := hk x a b
    exact ⟨_, mget_mset_self _ _ _, p, by rw [q]; decide, fun _ => q⟩
  · exact ⟨x, by rw [mget_mset_ne e]; exact a, rfl, b, id⟩

theorem revoke_keeps {s0 : State} {x0 x1 x2} (h2 : Keeps s0 x2) : Keeps s0 (revoke x0 x1 x2) :=
  setKey_keeps h2 fun x a _ => ⟨by simp [keyOf, a], rfl⟩

theorem execDacClrN_keeps {s0 : State} {lowNs s} (h1 : Keeps s0 s) : KOut s0 (execDacClrN lowNs s) := by
  unfold execDacClrN
  repeat' first
    | with_reducible first | assumption | apply dacClear_keeps | apply ok_keeps | apply Keeps.foldl
    | (extract_lets +onlyGivenNames w)
    | split
    | dsimp +zetaDelta only
    | ((with_reducible refine Keeps.isMk ?_ ?_); rfl)

theorem execStaccC_keeps {s0 : State} {k gd n rs s} (h4 : Keeps s0 s) : KOut s0 (execStaccC k gd n rs s) := by
  unfold execStaccC
  repeat' with_reducible first | assumption | apply plain_keeps

theorem telPut_keeps {s0 : State} {s bs} (h0 : Keeps s0 s) : Keeps s0 (telPut s bs) := by
  unfold telPut
  repeat' first
    | with_reducible first | assumption | apply memWrite_keeps
    | (extract_lets +onlyGivenNames w;
        refine Keeps.cut (s0 := s0) w ?a ?b;
        (case' a => dsimp only [w]); (case' b => clear_value w; intro hw))
    | (extract_lets +onlyGivenNames w)
    | split

theorem execTelemetryFrame_keeps {s0 : State} {counts items s} (h1 : Keeps s0 s) : KOut s0 (execTelemetryFrame counts items s) := by
  unfold execTelemetryFrame
  repeat' first
    | with_reducible first | assumption | apply State.setReg_keeps | apply dutyDone_keeps | apply telPut_keeps
    | with_reducible apply ok_keeps
    | intro _
    | (extract_lets +onlyGivenNames w)
    | split
    | dsimp only [State.modBoot, State.modStor]
    | ((with_reducible refine Keeps.isMk ?_ ?_); rfl)

theorem execSignalDetect_keeps {s0 : State} {iot port s} (h2 : Keeps s0 s) :
    KOut s0 (execSignalDetect iot port s) := by
  unfold execSignalDetect
  repeat' first
    | with_reducible first | assumption | apply enterStep_keeps | apply sdStat_keeps | apply ok_keeps
    | split

theorem zeroRegs_keeps {s0 : State} {s l} (h0 : Keeps s0 s) : Keeps s0 (zeroRegs s l) := by
  unfold zeroRegs
  repeat' first
    | with_reducible first | assumption | apply State.setReg_keeps | apply Keeps.foldl
    | intro _

theorem execAnd__keeps {s0 : State} {k gd ga gb f s} (h5 : Keeps s0 s) : KOut s0 (execAnd_ k gd ga gb f s) := by
  unfold execAnd_
  repeat' with_reducible first | assumption | apply aluOp_keeps

theorem withImage_keeps {s0 : State} {m imgid act s} (h2 : ∀ (y0 : Loaded) (y1 : State), Keeps s0 y1 → Keeps s0 (act
    y0 y1).state) (h3 : Keeps s0 s) :
    Keeps s0 (withImage m imgid act s).state := by
  unfold withImage
  repeat' first
    | with_reducible first | assumption | apply h2 | apply refuse_keeps
    | split

theorem stopCore_keeps {s0 : State} {s c} (h0 : Keeps s0 s) : Keeps s0 (stopCore s c) := by
  unfold stopCore
  repeat' first
    | with_reducible first | assumption | apply squashCq_keeps | apply terminate_keeps | apply ok_keeps
    | intro _
    | (extract_lets +onlyGivenNames w)
    | split

theorem execAlarmFire_keeps {s0 : State} {s} (h0 : Keeps s0 s) : KOut s0 (execAlarmFire s) := by
  unfold execAlarmFire
  repeat' first
    | with_reducible first | assumption | apply State.setField_keeps | apply wakeSource_keeps
    | with_reducible first | apply State.orReg_keeps | apply ok_keeps
    | (extract_lets +onlyGivenNames w;
        refine Keeps.cut (s0 := s0) w ?a ?b;
        (case' a => dsimp only [w]); (case' b => clear_value w; intro hw))
    | (extract_lets +onlyGivenNames w)
    | split

theorem execVcmacw_keeps {s0 : State} {k vd va vb ty mode s} (h6 : Keeps s0 s) :
    KOut s0 (execVcmacw k vd va vb ty mode s) := by
  unfold execVcmacw
  repeat' with_reducible first | assumption | apply vmacOp_keeps

theorem syncExcNext_keeps {s0 : State} {k s e} (h1 : Keeps s0 s) : Keeps s0 (syncExcNext k s e) := by
  unfold syncExcNext
  repeat' with_reducible first | assumption | apply takeExc_keeps

theorem execQPush_keeps {s0 : State} {k an ga tag s} (h4 : Keeps s0 s) : KOut s0 (execQPush k an ga tag s) := by
  unfold execQPush
  repeat' first
    | with_reducible first | assumption | apply cqIssue_keeps | apply ok_keeps | apply_assumption -exfalso -symm
    | intro _

theorem execQueuePop_keeps {s0 : State} {r qid max s} (h3 : Keeps s0 s) : KOut s0 (execQueuePop r qid max s) := by
  unfold execQueuePop
  repeat' first
    | with_reducible first | assumption | apply State.answer_keeps | apply popMany_keeps | apply ok_keeps
    | (extract_lets +onlyGivenNames w;
        refine Keeps.cut2 (s0 := s0) w ?a ?b;
        (case' a => dsimp only [w]); (case' b => clear_value w; intro hw))
    | (extract_lets +onlyGivenNames w)
    | split

theorem execSpurBlockReceive_keeps {s0 : State} {port decodeOk frames s} (h3 : Keeps s0 s) :
    KOut s0 (execSpurBlockReceive port decodeOk frames s) := by
  unfold execSpurBlockReceive
  repeat' first
    | with_reducible first | assumption | apply blockIn_keeps | apply ok_keeps
    | split

theorem helloReply_keeps {s0 : State} {m k p s} (h3 : Keeps s0 s) : Keeps s0 (helloReply m k p s) := by
  unfold helloReply
  repeat' first
    | with_reducible first | assumption | apply State.send_keeps | apply State.setPeer_keeps
    | with_reducible first | apply State.takeFresh_keeps | apply ok_keeps
    | intro _
    | (extract_lets +onlyGivenNames w)
    | split

theorem helloAt_keeps {s0 : State} {m k good s} (h3 : Keeps s0 s) : Keeps s0 (helloAt m k good s) := by
  unfold helloAt
  repeat' first
    | with_reducible first | assumption | apply State.send_keeps | apply endPeer_keeps | apply helloReply_keeps
    | with_reducible first | apply peerDrop_keeps | apply ok_keeps
    | intro _
    | (extract_lets +onlyGivenNames w)
    | split
    | ((with_reducible refine Keeps.isMk ?_ ?_); rfl)

theorem execHandoverRetry_keeps {s0 : State} {corridor hiEnd s} (h2 : Keeps s0 s) :
    KOut s0 (execHandoverRetry corridor hiEnd s) := by
  unfold execHandoverRetry
  repeat' first
    | with_reducible first | assumption | apply exportStart_keeps | apply State.setPeer_keeps | apply ok_keeps
    | (extract_lets +onlyGivenNames w)
    | split

theorem execClz_keeps {s0 : State} {k gd ga s} (h3 : Keeps s0 s) : KOut s0 (execClz k gd ga s) := by
  unfold execClz
  repeat' with_reducible first | assumption | apply plain_keeps

theorem execVdup_keeps {s0 : State} {k vd ga ty s} (h4 : Keeps s0 s) : KOut s0 (execVdup k vd ga ty s) := by
  unfold execVdup
  repeat' with_reducible first | assumption | apply vins_keeps

theorem enrolReply_keeps {s0 : State} {x0 x1 x2 x3} (h3 : Keeps s0 x3) : Keeps s0 (enrolReply x0 x1 x2 x3).state := by
  unfold enrolReply
  split
  · exact h3
  · next h =>
    refine setKey_keeps h3 fun x a b => ?_
    simp only [keyState, a, ne_eq, Decidable.not_not] at h
    exact absurd h b

theorem startTile_keeps {s0 : State} {s t} (h0 : Keeps s0 s) : Keeps s0 (startTile s t) := by
  unfold startTile
  repeat' first
    | with_reducible first | assumption | apply State.modIsland_keeps | apply startWake_keeps
    | split

theorem execTileStart_keeps {s0 : State} {s} (h0 : Keeps s0 s) : KOut s0 (execTileStart s) := by
  unfold execTileStart
  repeat' first
    | with_reducible first | assumption | apply startTile_keeps | apply moveOn_keeps | apply State.modPower_keeps
    | with_reducible first | apply bootTile_keeps | apply ok_keeps
    | (extract_lets +onlyGivenNames w)
    | split
    | dsimp only [State.modBoot, State.modStor]
    | ((with_reducible refine Keeps.isMk ?_ ?_); rfl)

theorem fabClear_keeps {s0 : State} {s f} (h0 : Keeps s0 s) : Keeps s0 (fabClear s f) := by
  unfold fabClear
  repeat' first
    | with_reducible first | assumption | apply State.modFab_keeps | apply zeroRegs_keeps | apply State.setField_keeps

theorem execFabDrainEnd_keeps {s0 : State} {fab s} (h1 : Keeps s0 s) : KOut s0 (execFabDrainEnd fab s) := by
  unfold execFabDrainEnd
  repeat' first
    | with_reducible first | assumption | apply State.count_keeps | apply fabClear_keeps | apply setFabSt_keeps
    | with_reducible first | apply State.modFab_keeps | apply finishMbx_keeps | apply ok_keeps
    | (extract_lets +onlyGivenNames w;
        refine Keeps.cut (s0 := s0) w ?a ?b;
        (case' a => dsimp only [w]); (case' b => clear_value w; intro hw))
    | (extract_lets +onlyGivenNames w)
    | split

theorem shiftImm_keeps {s0 : State} {op k gd ga sh f s} (h6 : Keeps s0 s) : KOut s0 (shiftImm op k gd ga sh f s) := by
  unfold shiftImm
  repeat' with_reducible first | assumption | apply plain_keeps

theorem execShli_keeps {s0 : State} {k gd ga sh f s} (h5 : Keeps s0 s) : KOut s0 (execShli k gd ga sh f s) := by
  unfold execShli
  repeat' with_reducible first | assumption | apply shiftImm_keeps

theorem ageFeeds_keeps {s0 : State} {s r} (h0 : Keeps s0 s) : Keeps s0 (ageFeeds s r) := by
  unfold ageFeeds
  repeat' first
    | with_reducible first | assumption | apply putFeed_keeps | apply Keeps.foldl
    | intro _

theorem peerGuard_keeps {s0 : State} {m corridor endHi range act s} (h4 : ∀ (y0 : State), Keeps s0 y0 → Keeps s0 (act
    y0)) (h5 : Keeps s0 s) :
    Keeps s0 (peerGuard m corridor endHi range act s).state := by
  unfold peerGuard
  repeat' first
    | with_reducible first | assumption | apply h4 | apply refuse_keeps | apply guarded_keeps
    | with_reducible apply configWritten_keeps
    | intro _
    | (extract_lets +onlyGivenNames w)
    | split

theorem retentionFail_keeps {s0 : State} {s t kind cause mask k} (h0 : Keeps s0 s) :
    Keeps s0 (retentionFail s t kind cause mask k) := by
  unfold retentionFail
  repeat' with_reducible first | assumption | apply State.journal_keeps | apply State.raise_keeps

theorem binOp_keeps {s0 : State} {op k gd ga gb s} (h5 : Keeps s0 s) : KOut s0 (binOp op k gd ga gb s) := by
  unfold binOp
  repeat' with_reducible first | assumption | apply plain_keeps

theorem execMax__keeps {s0 : State} {k gd ga gb s} (h4 : Keeps s0 s) : KOut s0 (execMax_ k gd ga gb s) := by
  unfold execMax_
  repeat' with_reducible first | assumption | apply binOp_keeps

theorem execAbort_keeps {s0 : State} {r tile ch s} (h3 : Keeps s0 s) : KOut s0 (execAbort r tile ch s) := by
  unfold execAbort
  repeat' with_reducible first | assumption | apply bell_keeps

theorem execFeedcorr_keeps {s0 : State} {tile ref s} (h2 : Keeps s0 s) : KOut s0 (execFeedcorr tile ref s) := by
  unfold execFeedcorr
  repeat' first
    | with_reducible first | assumption | apply runJob_keeps | apply jobRead_keeps | apply jobRecs_keeps
    | intro _
    | (extract_lets +onlyGivenNames w;
        refine Keeps.cut2 (s0 := s0) w ?a ?b;
        (case' a => dsimp only [w]); (case' b => clear_value w; intro hw))
    | (extract_lets +onlyGivenNames w)
    | split

theorem execCpWrite_keeps {s0 : State} {r addr value s} (h3 : Keeps s0 s) : KOut s0 (execCpWrite r addr value s) := by
  unfold execCpWrite
  repeat' with_reducible first | assumption | apply writeAnswer_keeps | apply ok_keeps

theorem execBurstPreambleReceive_keeps {s0 : State} {port peak header frames s} (h4 : Keeps s0 s) :
    KOut s0 (execBurstPreambleReceive port peak header frames s) := by
  unfold execBurstPreambleReceive
  repeat' first
    | with_reducible first | assumption | apply State.modSpur_keeps | apply State.count_keeps | apply blockIn_keeps
    | with_reducible first | apply ok_keeps | apply_assumption -exfalso -symm
    | intro _
    | (extract_lets +onlyGivenNames w;
        refine Keeps.cutF3 (s0 := s0) w ?a ?b;
        (case' a => dsimp only [w]); (case' b => clear_value w; intro hw))
    | (extract_lets +onlyGivenNames w)
    | split
    | dsimp +zetaDelta only

theorem execCall_keeps {s0 : State} {k disp s} (h2 : Keeps s0 s) : KOut s0 (execCall k disp s) := by
  unfold execCall
  repeat' first
    | with_reducible first | assumption | apply issue_keeps | apply State.setCore_keeps | apply ok_keeps
    | intro _

theorem helloAnswer_keeps {s0 : State} {m st payload s} (h3 : Keeps s0 s) :
    Keeps s0 (helloAnswer m st payload s) := by
  unfold helloAnswer
  repeat' with_reducible first | assumption | apply State.send_keeps

theorem helloNone_keeps {s0 : State} {m p slot hostNonce encKey s} (h5 : Keeps s0 s) :
    Keeps s0 (helloNone m p slot hostNonce encKey s) := by
  unfold helloNone
  repeat' first
    | with_reducible first | assumption | apply helloAnswer_keeps | apply State.setSess_keeps
    | (extract_lets +onlyGivenNames w;
        refine Keeps.cut (s0 := s0) w ?a ?b;
        (case' a => dsimp only [w]); (case' b => clear_value w; intro hw))
    | (extract_lets +onlyGivenNames w)
    | split
    | dsimp +zetaDelta only
    | ((with_reducible refine Keeps.isMk ?_ ?_); rfl)

theorem pushNotice_keeps {s0 : State} {n qid st s} (h3 : Keeps s0 s) : Keeps s0 (pushNotice n qid st s) := by
  unfold pushNotice
  repeat' first
    | with_reducible first | assumption | apply pushQ_keeps | refine Keeps.ofPair (by assumption) ?_
    | (extract_lets +onlyGivenNames w)
    | split
    | dsimp +zetaDelta only
    | ((with_reducible refine Keeps.isMk ?_ ?_); rfl)

theorem execMbxNoticeRetry_keeps {s0 : State} {mailbox s} (h1 : Keeps s0 s) :
    KOut s0 (execMbxNoticeRetry mailbox s) := by
  unfold execMbxNoticeRetry
  repeat' first
    | with_reducible first | assumption | apply pushNotice_keeps | apply ok_keeps
    | (extract_lets +onlyGivenNames w)
    | split
    | dsimp +zetaDelta only
    | ((with_reducible refine Keeps.isMk ?_ ?_); rfl)

theorem zeroBanks_keeps {s0 : State} {x0 x1 x2} (h0 : Keeps s0 x0) : Keeps s0 (zeroBanks x0 x1 x2) :=
  h0.trans ⟨⟨rfl, rfl, id, fun _ x a b => ⟨x, a, rfl, b, id⟩, Nat.le_refl _, Nat.le_refl _, List.prefix_refl _, List.prefix_refl _⟩, filter_wf _, id, id, id⟩

theorem freshTile_keeps {s0 : State} {s t} (h0 : Keeps s0 s) : Keeps s0 (freshTile s t) := by
  unfold freshTile
  repeat' first
    | with_reducible first | assumption | apply zeroBanks_keeps | apply State.setReg_keeps
    | (extract_lets +onlyGivenNames w)
    | dsimp only [State.modBoot, State.modStor]
    | ((with_reducible refine Keeps.isMk ?_ ?_); rfl)

theorem hbmWake_keeps {s0 : State} {s t canary} (h0 : Keeps s0 s) : Keeps s0 (hbmWake s t canary) := by
  unfold hbmWake
  repeat' first
    | with_reducible first | assumption | apply State.orReg_keeps | apply State.setReg_keeps
    | with_reducible apply retentionFail_keeps
    | (extract_lets +onlyGivenNames w;
        refine Keeps.cut (s0 := s0) w ?a ?b;
        (case' a => dsimp only [w]); (case' b => clear_value w; intro hw))
    | (extract_lets +onlyGivenNames w)
    | split
    | dsimp +zetaDelta only
    | ((with_reducible refine Keeps.isMk ?_ ?_); rfl)

theorem sramWake_keeps {s0 : State} {s t canary} (h0 : Keeps s0 s) : Keeps s0 (sramWake s t canary) := by
  unfold sramWake
  repeat' first
    | with_reducible first | assumption | apply State.setReg_keeps | apply zeroBanks_keeps | apply retentionFail_keeps
    | with_reducible apply State.orReg_keeps
    | (extract_lets +onlyGivenNames w;
        refine Keeps.cut (s0 := s0) w ?a ?b;
        (case' a => dsimp only [w]); (case' b => clear_value w; intro hw))
    | (extract_lets +onlyGivenNames w)
    | split

theorem signal_keeps {s0 : State} {s i n} (h0 : Keeps s0 s) : Keeps s0 (signal s i n) := by
  unfold signal
  repeat' first
    | with_reducible first | assumption | apply State.setField_keeps | apply State.modIsland_keeps
    | with_reducible apply noteStep_keeps
    | (extract_lets +onlyGivenNames w;
        refine Keeps.cut (s0 := s0) w ?a ?b;
        (case' a => dsimp only [w]); (case' b => clear_value w; intro hw))
    | (extract_lets +onlyGivenNames w)
    | split

theorem execMemReady_keeps {s0 : State} {island canary hbmCanary s} (h3 : Keeps s0 s) :
    KOut s0 (execMemReady island canary hbmCanary s) := by
  unfold execMemReady
  repeat' first
    | with_reducible first | assumption | apply freshTile_keeps | apply hbmWake_keeps | apply sramWake_keeps
    | with_reducible first | apply signal_keeps | apply ok_keeps
    | (extract_lets +onlyGivenNames w;
        refine Keeps.cut (s0 := s0) w ?a ?b;
        (case' a => dsimp only [w]); (case' b => clear_value w; intro hw))
    | split

theorem execVext_keeps {s0 : State} {k vd va n ty s} (h5 : Keeps s0 s) : KOut s0 (execVext k vd va n ty s) := by
  unfold execVext
  repeat' with_reducible first | assumption | apply vins_keeps

theorem prbsCount_keeps {s0 : State} {s k l bits errs} (h0 : Keeps s0 s) : Keeps s0 (prbsCount s k l bits errs) := by
  unfold prbsCount
  repeat' first
    | with_reducible first | assumption | apply State.setReg64_keeps
    | (extract_lets +onlyGivenNames w)
    | split

theorem execFadd_keeps {s0 : State} {k fd fa fb dbl s} (h5 : Keeps s0 s) : KOut s0 (execFadd k fd fa fb dbl s) := by
  unfold execFadd
  repeat' with_reducible first | assumption | apply fbin_keeps

theorem execRor_keeps {s0 : State} {k gd ga gb f s} (h5 : Keeps s0 s) : KOut s0 (execRor k gd ga gb f s) := by
  unfold execRor
  repeat' with_reducible first | assumption | apply aluOp_keeps

theorem satisfy_keeps {s0 : State} {s t c} (h0 : Keeps s0 s) : Keeps s0 (satisfy s t c) := by
  unfold satisfy
  repeat' first
    | with_reducible first | assumption | apply State.modReg_keeps | apply chNext_keeps | apply haltWith_keeps
    | with_reducible apply ok_keeps
    | intro _
    | (extract_lets +onlyGivenNames w)
    | split
    | ((with_reducible refine Keeps.isMk ?_ ?_); rfl)

theorem execHandoverTimeout_keeps {s0 : State} {corridor hiEnd s} (h2 : Keeps s0 s) :
    KOut s0 (execHandoverTimeout corridor hiEnd s) := by
  unfold execHandoverTimeout
  repeat' first
    | with_reducible first | assumption | apply exportFails_keeps | apply ok_keeps | apply Keeps.foldl
    | intro _
    | (extract_lets +onlyGivenNames w)
    | split
    | ((with_reducible refine Keeps.isMk ?_ ?_); rfl)

theorem execVmacw_keeps {s0 : State} {k vd va vb ty mode s} (h6 : Keeps s0 s) :
    KOut s0 (execVmacw k vd va vb ty mode s) := by
  unfold execVmacw
  repeat' with_reducible first | assumption | apply vmacOp_keeps

theorem execEnd__keeps {s0 : State} {tile ch s} (h2 : Keeps s0 s) : KOut s0 (execEnd_ tile ch s) := by
  unfold execEnd_
  repeat' first
    | with_reducible first | assumption | apply issueFetch_keeps | apply State.setField_keeps
    | with_reducible first | apply State.count_keeps | apply chNotice_keeps | apply setSt_keeps | apply setChan_keeps
    | with_reducible apply ok_keeps
    | (extract_lets +onlyGivenNames w;
        refine Keeps.cut (s0 := s0) w ?a ?b;
        (case' a => dsimp only [w]); (case' b => clear_value w; intro hw))
    | (extract_lets +onlyGivenNames w)
    | split

theorem execOr__keeps {s0 : State} {k gd ga gb f s} (h5 : Keeps s0 s) : KOut s0 (execOr_ k gd ga gb f s) := by
  unfold execOr_
  repeat' with_reducible first | assumption | apply aluOp_keeps

theorem endKeySessions_keeps {s0 : State} {slot s} (h1 : Keeps s0 s) : Keeps s0 (endKeySessions slot s) := by
  unfold endKeySessions
  repeat' first
    | with_reducible first | assumption | apply endSession_keeps | apply Keeps.foldl
    | intro _
    | (extract_lets +onlyGivenNames w)
    | split

theorem launchOf_keeps {s0 : State} {s x e} (h0 : Keeps s0 s) : Keeps s0 (launchOf s x e).2.2.2 := by
  unfold launchOf
  repeat' first
    | with_reducible first | assumption | apply readHdr_keeps
    | (extract_lets +onlyGivenNames w;
        refine Keeps.cut2 (s0 := s0) w ?a ?b;
        (case' a => dsimp only [w]); (case' b => clear_value w; intro hw))
    | split

theorem calendarTake_keeps {s0 : State} {s qid x e} (h0 : Keeps s0 s) : Keeps s0 (calendarTake s qid x e) := by
  unfold calendarTake
  repeat' first
    | with_reducible first | assumption | apply launchOf_keeps | apply dropHead_keeps | apply complete_keeps
    | with_reducible first | apply State.orReg_keeps | apply State.count_keeps | apply fhEvent_keeps
    | with_reducible apply State.setCalendar_keeps
    | (extract_lets +onlyGivenNames w;
        refine Keeps.cut (s0 := s0) w ?a ?b;
        (case' a => dsimp only [w]); (case' b => clear_value w; intro hw))
    | (extract_lets +onlyGivenNames w)
    | split
    | dsimp +zetaDelta only

theorem execMulh_keeps {s0 : State} {k gd ga gb s} (h4 : Keeps s0 s) : KOut s0 (execMulh k gd ga gb s) := by
  unfold execMulh
  repeat' with_reducible first | assumption | apply binOp_keeps

theorem clearTotals_keeps {s0 : State} {g s} (h1 : Keeps s0 s) : Keeps s0 (clearTotals g s) := by
  unfold clearTotals
  repeat' first
    | with_reducible first | assumption | apply ok_keeps
    | intro _
    | (extract_lets +onlyGivenNames w)
    | split
    | ((with_reducible refine Keeps.isMk ?_ ?_); rfl)

theorem vbin_keeps {s0 : State} {op d okTy k vd va vb ty mode s} (h9 : Keeps s0 s) :
    KOut s0 (vbin op d okTy k vd va vb ty mode s) := by
  unfold vbin
  repeat' with_reducible first | assumption | apply vins_keeps

theorem execVavg_keeps {s0 : State} {k vd va vb ty mode s} (h6 : Keeps s0 s) :
    KOut s0 (execVavg k vd va vb ty mode s) := by
  unfold execVavg
  repeat' with_reducible first | assumption | apply vbin_keeps

theorem execAbs__keeps {s0 : State} {k gd ga f s} (h4 : Keeps s0 s) : KOut s0 (execAbs_ k gd ga f s) := by
  unfold execAbs_
  repeat' with_reducible first | assumption | apply plain_keeps

theorem execAndn_keeps {s0 : State} {k gd ga gb f s} (h5 : Keeps s0 s) : KOut s0 (execAndn k gd ga gb f s) := by
  unfold execAndn
  repeat' with_reducible first | assumption | apply aluOp_keeps

theorem execQcPopRetry_keeps {s0 : State} {fab n s} (h2 : Keeps s0 s) : KOut s0 (execQcPopRetry fab n s) := by
  unfold execQcPopRetry
  repeat' first
    | with_reducible first | assumption | apply qcPopNow_keeps | apply ok_keeps
    | split

theorem execReg64HighWrite_keeps {s0 : State} {r addr value s} (h3 : Keeps s0 s) :
    KOut s0 (execReg64HighWrite r addr value s) := by
  unfold execReg64HighWrite
  repeat' with_reducible first | assumption | apply writeAnswer_keeps | apply ok_keeps

theorem execSupplyWarning_keeps {s0 : State} {mv s} (h1 : Keeps s0 s) : KOut s0 (execSupplyWarning mv s) := by
  unfold execSupplyWarning
  repeat' first
    | with_reducible first | assumption | apply State.setReg_keeps | apply settleAll_keeps | apply State.count_keeps
    | with_reducible first | apply State.orReg_keeps | apply State.setField_keeps | apply powerRecord_keeps
    | with_reducible first | apply State.modPower_keeps | apply ok_keeps
    | (extract_lets +onlyGivenNames w;
        refine Keeps.cut (s0 := s0) w ?a ?b;
        (case' a => dsimp only [w]); (case' b => clear_value w; intro hw))
    | (extract_lets +onlyGivenNames w)
    | split

theorem throttleTo_keeps {s0 : State} {s t n} (h0 : Keeps s0 s) : Keeps s0 (throttleTo s t n) := by
  unfold throttleTo
  repeat' first
    | with_reducible first | assumption | apply State.setField_keeps | apply settleCycles_keeps
    | with_reducible apply State.modPower_keeps

theorem throttleUp_keeps {s0 : State} {s t n} (h0 : Keeps s0 s) : Keeps s0 (throttleUp s t n) := by
  unfold throttleUp
  repeat' first
    | with_reducible first | assumption | apply State.modPower_keeps | apply throttleTo_keeps | apply throttled_keeps
    | (extract_lets +onlyGivenNames w;
        refine Keeps.cut (s0 := s0) w ?a ?b;
        (case' a => dsimp only [w]); (case' b => clear_value w; intro hw))
    | (extract_lets +onlyGivenNames w)
    | split
    | dsimp +zetaDelta only

theorem execVsari_keeps {s0 : State} {k vd va sh ty mode s} (h6 : Keeps s0 s) :
    KOut s0 (execVsari k vd va sh ty mode s) := by
  unfold execVsari
  repeat' with_reducible first | assumption | apply vun_keeps

theorem execQcWrite_keeps {s0 : State} {fab n word s} (h3 : Keeps s0 s) : KOut s0 (execQcWrite fab n word s) := by
  unfold execQcWrite
  repeat' first
    | with_reducible first | assumption | apply State.orReg_keeps | apply State.wroteQc_keeps | apply setQc_keeps
    | with_reducible apply ok_keeps
    | intro _
    | (extract_lets +onlyGivenNames w)
    | split

theorem crumbStreams_keeps {s0 : State} {b p sess s} (h3 : Keeps s0 s) : Keeps s0 (crumbStreams b p sess s) := by
  unfold crumbStreams
  repeat' first
    | with_reducible assumption
    | (extract_lets +onlyGivenNames w)
    | split
    | dsimp +zetaDelta only
    | ((with_reducible refine Keeps.isMk ?_ ?_); rfl)

theorem execTterm_keeps {s0 : State} {k s} (h1 : Keeps s0 s) : KOut s0 (execTterm k s) := by
  unfold execTterm
  repeat' first
    | with_reducible first | assumption | apply issue_keeps | apply syncExc_keeps | apply terminate_keeps
    | with_reducible apply ok_keeps
    | intro _
    | (extract_lets +onlyGivenNames w)
    | split

theorem pmbNack_keeps {s0 : State} {s e} (h0 : Keeps s0 s) : Keeps s0 (pmbNack s e) := by
  unfold pmbNack
  repeat' first
    | with_reducible first | assumption | apply modPmb_keeps | apply State.orReg_keeps | apply State.setField_keeps
    | (extract_lets +onlyGivenNames w;
        refine Keeps.cut (s0 := s0) w ?a ?b;
        (case' a => dsimp only [w]); (case' b => clear_value w; intro hw))
    | (extract_lets +onlyGivenNames w)
    | split

theorem pmbPoll_keeps {s0 : State} {s e every ans} (h0 : Keeps s0 s) : Keeps s0 (pmbPoll s e every ans) := by
  unfold pmbPoll
  repeat' first
    | with_reducible first | assumption | apply pmbRead_keeps | apply pmbNack_keeps
    | (extract_lets +onlyGivenNames w)
    | split

theorem execPmbusAbsentPoll_keeps {s0 : State} {entry ans s} (h2 : Keeps s0 s) :
    KOut s0 (execPmbusAbsentPoll entry ans s) := by
  unfold execPmbusAbsentPoll
  repeat' first
    | with_reducible first | assumption | apply pmbPoll_keeps | apply ok_keeps
    | split

theorem execDiv__keeps {s0 : State} {k gd ga gb f s} (h5 : Keeps s0 s) : KOut s0 (execDiv_ k gd ga gb f s) := by
  unfold execDiv_
  repeat' with_reducible first | assumption | apply plain_keeps

theorem execHelper_keeps {s0 : State} {k an ga tag s} (h4 : Keeps s0 s) : KOut s0 (execHelper k an ga tag s) := by
  unfold execHelper
  repeat' first
    | with_reducible first | assumption | apply cqIssue_keeps | apply addJob_keeps | apply ok_keeps
    | intro _

theorem execSessionIdleTimeout_keeps {s0 : State} {port s} (h1 : Keeps s0 s) :
    KOut s0 (execSessionIdleTimeout port s) := by
  unfold execSessionIdleTimeout
  repeat' first
    | with_reducible first | assumption | apply endSession_keeps | apply ok_keeps
    | (extract_lets +onlyGivenNames w)
    | split

theorem execEthFrameReceive_keeps {s0 : State} {iot port f s} (h3 : Keeps s0 s) :
    KOut s0 (execEthFrameReceive iot port f s) := by
  unfold execEthFrameReceive
  repeat' first
    | with_reducible first | assumption | apply countCodewords_keeps | apply State.count_keeps
    | with_reducible first | apply directFrame_keeps | apply State.count64_keeps | apply ok_keeps
    | (extract_lets +onlyGivenNames w;
        refine Keeps.cut (s0 := s0) w ?a ?b;
        (case' a => dsimp only [w]); (case' b => clear_value w; intro hw))
    | split

theorem execMarginLow_keeps {s0 : State} {iot lane vert horz s} (h4 : Keeps s0 s) :
    KOut s0 (execMarginLow iot lane vert horz s) := by
  unfold execMarginLow
  repeat' first
    | with_reducible first | assumption | apply State.modReg_keeps | apply State.orReg_keeps | apply ok_keeps
    | (extract_lets +onlyGivenNames w;
        refine Keeps.cut (s0 := s0) w ?a ?b;
        (case' a => dsimp only [w]); (case' b => clear_value w; intro hw))
    | split

theorem refuseAtPort_keeps {s0 : State} {src s} (h1 : Keeps s0 s) : Keeps s0 (refuseAtPort src s) := by
  unfold refuseAtPort
  repeat' with_reducible first | assumption | apply State.answer_keeps | apply State.count_keeps

theorem returnToSender_keeps {s0 : State} {q dst flits s} (h3 : Keeps s0 s) :
    Keeps s0 (returnToSender q dst flits s) := by
  unfold returnToSender
  repeat' first
    | with_reducible first | assumption | apply State.orReg_keeps | apply State.count_keeps | apply sendBack_keeps

theorem takeRequest_keeps {s0 : State} {q s} (h1 : Keeps s0 s) : Keeps s0 (takeRequest q s) := by
  unfold takeRequest
  repeat' first
    | with_reducible first | assumption | apply ok_keeps
    | intro _
    | (extract_lets +onlyGivenNames w)
    | split
    | ((with_reducible refine Keeps.isMk ?_ ?_); rfl)

theorem carry_keeps {s0 : State} {q dst flits act s} (h3 : ∀ (y0 : State), Keeps s0 y0 → Keeps s0 (act y0)) (h4 :
    Keeps s0 s) :
    Keeps s0 (carry q dst flits act s) := by
  unfold carry
  repeat' first
    | with_reducible first | assumption | apply inject_keeps | apply launchPacket_keeps | apply returnToSender_keeps
    | with_reducible first | apply takeRequest_keeps | apply ok_keeps | apply_assumption -exfalso -symm
    | intro _
    | (extract_lets +onlyGivenNames w)
    | split

theorem execNocMessage_keeps {s0 : State} {r cls tag req dst addr data s} (h7 : Keeps s0 s) :
    KOut s0 (execNocMessage r cls tag req dst addr data s) := by
  unfold execNocMessage
  repeat' first
    | with_reducible first | assumption | apply refuseAtPort_keeps | apply carry_keeps | apply ok_keeps
    | intro _
    | (extract_lets +onlyGivenNames w)
    | split
    | dsimp +zetaDelta only
    | ((with_reducible refine Keeps.isMk ?_ ?_); rfl)

theorem enterLost_keeps {s0 : State} {s n r} (h0 : Keeps s0 s) : Keeps s0 (enterLost s n r) := by
  unfold enterLost
  repeat' with_reducible first | assumption | apply ctxPut_keeps | apply setTState_keeps

theorem execSeekTimeout_keeps {s0 : State} {n s} (h1 : Keeps s0 s) : KOut s0 (execSeekTimeout n s) := by
  unfold execSeekTimeout
  repeat' first
    | with_reducible first | assumption | apply enterLost_keeps | apply ok_keeps
    | split

theorem execTrap_keeps {s0 : State} {k imm s} (h2 : Keeps s0 s) : KOut s0 (execTrap k imm s) := by
  unfold execTrap
  repeat' first
    | with_reducible first | assumption | apply issue_keeps | apply syncExcNext_keeps | apply ok_keeps
    | intro _

theorem execAdd__keeps {s0 : State} {k gd ga gb f s} (h5 : Keeps s0 s) : KOut s0 (execAdd_ k gd ga gb f s) := by
  unfold execAdd_
  repeat' with_reducible first | assumption | apply aluOp_keeps

theorem encodeJob_keeps {s0 : State} {func inBits tile ref s} (h4 : Keeps s0 s) :
    KOut s0 (encodeJob func inBits tile ref s) := by
  unfold encodeJob
  repeat' with_reducible first | assumption | apply runJob_keeps | apply simple_keeps

theorem execTurboEnc_keeps {s0 : State} {tile ref s} (h2 : Keeps s0 s) : KOut s0 (execTurboEnc tile ref s) := by
  unfold execTurboEnc
  repeat' with_reducible first | assumption | apply encodeJob_keeps

theorem helperJob_keeps {s0 : State} {op tile ref s} (h3 : Keeps s0 s) : KOut s0 (helperJob op tile ref s) := by
  unfold helperJob
  repeat' with_reducible first | assumption | apply runJob_keeps | apply simple_keeps

theorem execCgram_keeps {s0 : State} {tile ref s} (h2 : Keeps s0 s) : KOut s0 (execCgram tile ref s) := by
  unfold execCgram
  repeat' with_reducible first | assumption | apply helperJob_keeps

theorem repeatWake_keeps {s0 : State} {s i} (h0 : Keeps s0 s) : Keeps s0 (repeatWake s i) := by
  unfold repeatWake
  repeat' first
    | with_reducible first | assumption | apply State.modIsland_keeps | apply State.setField_keeps | apply Keeps.foldl
    | intro _
    | (extract_lets +onlyGivenNames w;
        refine Keeps.cut (s0 := s0) w ?a ?b;
        (case' a => dsimp only [w]); (case' b => clear_value w; intro hw))
    | (extract_lets +onlyGivenNames w)
    | split
    | dsimp +zetaDelta only

theorem execFabTargetRequest_keeps {s0 : State} {r addr write n s} (h4 : Keeps s0 s) :
    KOut s0 (execFabTargetRequest r addr write n s) := by
  unfold execFabTargetRequest
  repeat' first
    | with_reducible first | assumption | apply State.answer_keeps | apply State.modFab_keeps | apply ok_keeps
    | (extract_lets +onlyGivenNames w)
    | split

theorem vcun_keeps {s0 : State} {op k vd va ty mode s} (h6 : Keeps s0 s) : KOut s0 (vcun op k vd va ty mode s) := by
  unfold vcun
  repeat' with_reducible first | assumption | apply vins_keeps

theorem execVconj_keeps {s0 : State} {k vd va ty mode s} (h5 : Keeps s0 s) :
    KOut s0 (execVconj k vd va ty mode s) := by
  unfold execVconj
  repeat' with_reducible first | assumption | apply vcun_keeps

theorem execCombine_keeps {s0 : State} {tile ref s} (h2 : Keeps s0 s) : KOut s0 (execCombine tile ref s) := by
  unfold execCombine
  repeat' first
    | with_reducible first | assumption | apply runJob_keeps | apply jobRead_keeps | apply jobReads_keeps
    | with_reducible apply combineReads_keeps
    | intro _
    | (extract_lets +onlyGivenNames w;
        refine Keeps.cut2 (s0 := s0) w ?a ?b;
        (case' a => dsimp only [w]); (case' b => clear_value w; intro hw))
    | (extract_lets +onlyGivenNames w)
    | split

theorem execJr_keeps {s0 : State} {k an s} (h2 : Keeps s0 s) : KOut s0 (execJr k an s) := by
  unfold execJr
  repeat' first
    | with_reducible first | assumption | apply issue_keeps | apply State.setCore_keeps | apply ok_keeps
    | intro _

end Sys2Proof.Machine
end

