-- ==== Sys2Proof/Laws/Keeps07.lean ====
section
/-! SUPPORT. Each shared operation and each command keeps what `Keeps` says (part 7 of 10, in the order in which
they use one another). -/

namespace Sys2Proof.Machine

theorem spurStill_keeps {s0 : State} {s p} (h0 : Keeps s0 s) : Keeps s0 (spurStill s p) := by
  unfold spurStill
  repeat' first
    | with_reducible first | assumption | apply State.setTx_keeps | apply State.modSpur_keeps | apply spurEnter_keeps
    | with_reducible apply State.setField_keeps
    | (extract_lets +onlyGivenNames w;
        refine Keeps.cut (s0 := s0) w ?a ?b;
        (case' a => dsimp only [w]); (case' b => clear_value w; intro hw))
    | (extract_lets +onlyGivenNames w)
    | split

theorem keepIsland_keeps {s0 : State} {s t} (h0 : Keeps s0 s) : Keeps s0 (keepIsland s t) := by
  unfold keepIsland
  repeat' first
    | with_reducible first | assumption | apply enterSleep_keeps
    | split

theorem servoStill_keeps {s0 : State} {s} (h0 : Keeps s0 s) : Keeps s0 (servoStill s) := by
  unfold servoStill
  repeat' first
    | with_reducible first | assumption | apply closeRateLog_keeps | apply State.modTime_keeps
    | with_reducible first | apply State.orReg_keeps | apply setRate_keeps | apply setServo_keeps
    | with_reducible apply State.setField_keeps
    | (extract_lets +onlyGivenNames w;
        refine Keeps.cut (s0 := s0) w ?a ?b;
        (case' a => dsimp only [w]); (case' b => clear_value w; intro hw))
    | (extract_lets +onlyGivenNames w)
    | split

theorem execStillPhaseB_keeps {s0 : State} {s} (h0 : Keeps s0 s) : KOut s0 (execStillPhaseB s) := by
  unfold execStillPhaseB
  repeat' first
    | with_reducible first | assumption | apply portsDown_keeps | apply spurStill_keeps | apply keepIsland_keeps
    | with_reducible first | apply servoStill_keeps | apply pmbStill_keeps | apply powerRecord_keeps
    | with_reducible first | apply State.modPower_keeps | apply beginWake_keeps | apply ok_keeps | apply Keeps.foldl
    | (extract_lets +onlyGivenNames w;
        refine Keeps.cut (s0 := s0) w ?a ?b;
        (case' a => dsimp only [w]); (case' b => clear_value w; intro hw))
    | (extract_lets +onlyGivenNames w)
    | split

theorem execVshri_keeps {s0 : State} {k vd va sh ty mode s} (h6 : Keeps s0 s) :
    KOut s0 (execVshri k vd va sh ty mode s) := by
  unfold execVshri
  repeat' with_reducible first | assumption | apply vins_keeps

theorem execSari_keeps {s0 : State} {k gd ga sh f s} (h5 : Keeps s0 s) : KOut s0 (execSari k gd ga sh f s) := by
  unfold execSari
  repeat' with_reducible first | assumption | apply shiftImm_keeps

theorem execPeerConfirmResponse_keeps {s0 : State} {corridor hiEnd tagOk status s} (h4 : Keeps s0 s) :
    KOut s0 (execPeerConfirmResponse corridor hiEnd tagOk status s) := by
  unfold execPeerConfirmResponse
  repeat' first
    | with_reducible first | assumption | apply peerDrop_keeps | apply State.setPeer_keeps | apply ok_keeps
    | (extract_lets +onlyGivenNames w)
    | split

theorem execAdaptationStep_keeps {s0 : State} {iot lane dCtle dDfe rxDly s} (h5 : Keeps s0 s) :
    KOut s0 (execAdaptationStep iot lane dCtle dDfe rxDly s) := by
  unfold execAdaptationStep
  repeat' first
    | with_reducible first | assumption | apply State.modReg_keeps | apply State.setReg_keeps | apply dutyDone_keeps
    | with_reducible apply ok_keeps
    | (extract_lets +onlyGivenNames w;
        refine Keeps.cut (s0 := s0) w ?a ?b;
        (case' a => dsimp only [w]); (case' b => clear_value w; intro hw))
    | (extract_lets +onlyGivenNames w)
    | split
    | dsimp +zetaDelta only
    | ((with_reducible refine Keeps.isMk ?_ ?_); rfl)

theorem execDetect_keeps {s0 : State} {tile ref s} (h2 : Keeps s0 s) : KOut s0 (execDetect tile ref s) := by
  unfold execDetect
  repeat' first
    | with_reducible first | assumption | apply runJob_keeps | apply jobRecs_keeps | apply jobRead_keeps
    | intro _
    | (extract_lets +onlyGivenNames w;
        refine Keeps.cut2 (s0 := s0) w ?a ?b;
        (case' a => dsimp only [w]); (case' b => clear_value w; intro hw))
    | (extract_lets +onlyGivenNames w)
    | split

theorem scrubWord_keeps {s0 : State} {s a} (h0 : Keeps s0 s) : Keeps s0 (scrubWord s a) := by
  unfold scrubWord
  repeat' with_reducible first | assumption | apply readCode_keeps

theorem journalBlock_keeps {s0 : State} {s eraseOk} (h0 : Keeps s0 s) : Keeps s0 (journalBlock s eraseOk).2 := by
  unfold journalBlock
  repeat' first
    | with_reducible first | assumption | apply dropOldest_keeps | apply takeBlock_keeps
    | with_reducible refine Keeps.ofPair (by assumption) ?_
    | (extract_lets +onlyGivenNames w;
        refine Keeps.cut (s0 := s0) w ?a ?b;
        (case' a => dsimp only [w]); (case' b => clear_value w; intro hw))
    | split

theorem vbits_keeps {s0 : State} {op k vd va vb ty mode s} (h7 : Keeps s0 s) :
    KOut s0 (vbits op k vd va vb ty mode s) := by
  unfold vbits
  repeat' with_reducible first | assumption | apply vins_keeps

theorem execVand_keeps {s0 : State} {k vd va vb ty mode s} (h6 : Keeps s0 s) :
    KOut s0 (execVand k vd va vb ty mode s) := by
  unfold execVand
  repeat' with_reducible first | assumption | apply vbits_keeps

theorem masterOnly_keeps {s0 : State} {s k p} (h0 : Keeps s0 s) : Keeps s0 (masterOnly s k p) := by
  unfold masterOnly
  repeat' first
    | with_reducible first | assumption | apply State.setField_keeps | apply ok_keeps
    | intro _
    | (extract_lets +onlyGivenNames w)
    | split

theorem syncAnnounce_keeps {s0 : State} {s k p} (h0 : Keeps s0 s) : Keeps s0 (syncAnnounce s k p) := by
  unfold syncAnnounce
  repeat' first
    | with_reducible first | assumption | apply State.count_keeps | apply State.emit_keeps | apply ok_keeps
    | intro _
    | (extract_lets +onlyGivenNames w)
    | split

theorem execPtpSyncSend_keeps {s0 : State} {iot port s} (h2 : Keeps s0 s) : KOut s0 (execPtpSyncSend iot port s) := by
  unfold execPtpSyncSend
  repeat' first
    | with_reducible first | assumption | apply masterOnly_keeps | apply syncAnnounce_keeps | apply ok_keeps
    | with_reducible apply Keeps.foldl
    | intro _
    | (extract_lets +onlyGivenNames w)
    | split

theorem execTendComplete_keeps {s0 : State} {tile core s} (h2 : Keeps s0 s) :
    KOut s0 (execTendComplete tile core s) := by
  unfold execTendComplete
  repeat' first
    | with_reducible first | assumption | apply State.setCore_keeps | apply setRunning_keeps | apply ok_keeps
    | (extract_lets +onlyGivenNames w;
        refine Keeps.cut (s0 := s0) w ?a ?b;
        (case' a => dsimp only [w]); (case' b => clear_value w; intro hw))
    | (extract_lets +onlyGivenNames w)
    | split

theorem execPrbsLock_keeps {s0 : State} {iot lane inverted s} (h3 : Keeps s0 s) :
    KOut s0 (execPrbsLock iot lane inverted s) := by
  unfold execPrbsLock
  repeat' first
    | with_reducible first | assumption | apply State.setField_keeps | apply ok_keeps
    | split

theorem opAbortReply_keeps {s0 : State} {m mbx seq s} (h3 : Keeps s0 s) :
    Keeps s0 (opAbortReply m mbx seq s).state := by
  unfold opAbortReply
  repeat' first
    | with_reducible first | assumption | apply refuse_keeps | apply abortEffect_keeps
    | with_reducible refine Keeps.ofSome (by assumption) ?_
    | (extract_lets +onlyGivenNames w)
    | split

theorem execTimedLaunch_keeps {s0 : State} {iot port s} (h2 : Keeps s0 s) : KOut s0 (execTimedLaunch iot port s) := by
  unfold execTimedLaunch
  repeat' first
    | with_reducible first | assumption | apply startTimed_keeps | apply startZeros_keeps | apply ok_keeps
    | intro _
    | (extract_lets +onlyGivenNames w)
    | split

theorem execWakeBusMessage_keeps {s0 : State} {start symbols stop s} (h3 : Keeps s0 s) :
    KOut s0 (execWakeBusMessage start symbols stop s) := by
  unfold execWakeBusMessage
  repeat' first
    | with_reducible first | assumption | apply wakeSource_keeps | apply ok_keeps
    | (extract_lets +onlyGivenNames w)
    | split

theorem execMulhu_keeps {s0 : State} {k gd ga gb s} (h4 : Keeps s0 s) : KOut s0 (execMulhu k gd ga gb s) := by
  unfold execMulhu
  repeat' with_reducible first | assumption | apply binOp_keeps

theorem execVneg_keeps {s0 : State} {k vd va ty mode s} (h5 : Keeps s0 s) : KOut s0 (execVneg k vd va ty mode s) := by
  unfold execVneg
  repeat' with_reducible first | assumption | apply vun_keeps

theorem execVld_keeps {s0 : State} {k vd a s} (h3 : Keeps s0 s) : KOut s0 (execVld k vd a s) := by
  unfold execVld
  repeat' with_reducible first | assumption | apply loadOne_keeps

theorem execStaccRe_keeps {s0 : State} {k gd n rs s} (h4 : Keeps s0 s) : KOut s0 (execStaccRe k gd n rs s) := by
  unfold execStaccRe
  repeat' with_reducible first | assumption | apply plain_keeps

theorem execNop_keeps {s0 : State} {k s} (h1 : Keeps s0 s) : KOut s0 (execNop k s) := by
  unfold execNop
  repeat' with_reducible first | assumption | apply plain_keeps

theorem execVandn_keeps {s0 : State} {k vd va vb ty mode s} (h6 : Keeps s0 s) :
    KOut s0 (execVandn k vd va vb ty mode s) := by
  unfold execVandn
  repeat' with_reducible first | assumption | apply vbits_keeps

theorem spurWake_keeps {s0 : State} {s p cause} (h0 : Keeps s0 s) : Keeps s0 (spurWake s p cause) := by
  unfold spurWake
  repeat' first
    | with_reducible first | assumption | apply wakeSource_keeps | apply State.orReg_keeps
    | (extract_lets +onlyGivenNames w;
        refine Keeps.cut (s0 := s0) w ?a ?b;
        (case' a => dsimp only [w]); (case' b => clear_value w; intro hw))
    | (extract_lets +onlyGivenNames w)
    | split

theorem execSpurWakePattern_keeps {s0 : State} {port code s} (h2 : Keeps s0 s) :
    KOut s0 (execSpurWakePattern port code s) := by
  unfold execSpurWakePattern
  repeat' first
    | with_reducible first | assumption | apply State.modSpur_keeps | apply spurWake_keeps | apply State.count_keeps
    | with_reducible apply ok_keeps
    | (extract_lets +onlyGivenNames w;
        refine Keeps.cut (s0 := s0) w ?a ?b;
        (case' a => dsimp only [w]); (case' b => clear_value w; intro hw))
    | split

theorem track_keeps {s0 : State} {s n r l ms b t} (h0 : Keeps s0 s) : Keeps s0 (track s n r l ms b t) := by
  unfold track
  repeat' first
    | with_reducible first | assumption | apply ctxPut_keeps | apply State.modRun_keeps | apply setTState_keeps
    | with_reducible apply putMotion_keeps
    | (extract_lets +onlyGivenNames w;
        refine Keeps.cut (s0 := s0) w ?a ?b;
        (case' a => dsimp only [w]); (case' b => clear_value w; intro hw))
    | (extract_lets +onlyGivenNames w)
    | split
    | dsimp only [State.modBoot, State.modStor]
    | dsimp +zetaDelta only

theorem execVfnarrow_keeps {s0 : State} {k vd va ty s} (h4 : Keeps s0 s) : KOut s0 (execVfnarrow k vd va ty s) := by
  unfold execVfnarrow
  repeat' with_reducible first | assumption | apply vins_keeps

theorem execJobAbort_keeps {s0 : State} {k an ga tag s} (h4 : Keeps s0 s) : KOut s0 (execJobAbort k an ga tag s) := by
  unfold execJobAbort
  repeat' first
    | with_reducible first | assumption | apply cqIssue_keeps | apply ok_keeps | apply_assumption -exfalso -symm
    | intro _

theorem execXor__keeps {s0 : State} {k gd ga gb f s} (h5 : Keeps s0 s) : KOut s0 (execXor_ k gd ga gb f s) := by
  unfold execXor_
  repeat' with_reducible first | assumption | apply aluOp_keeps

theorem execMgtWakeFrame_keeps {s0 : State} {port code s} (h2 : Keeps s0 s) :
    KOut s0 (execMgtWakeFrame port code s) := by
  unfold execMgtWakeFrame
  repeat' first
    | with_reducible first | assumption | apply wakeSource_keeps | apply State.count_keeps | apply ok_keeps
    | (extract_lets +onlyGivenNames w)
    | split

theorem signalOut_keeps {s0 : State} {s t c r} (h0 : Keeps s0 s) : Keeps s0 (signalOut s t c r) := by
  unfold signalOut
  repeat' first
    | with_reducible first | assumption | apply modChan_keeps
    | split

theorem execSignalInterrupt_keeps {s0 : State} {tile ch s} (h2 : Keeps s0 s) :
    KOut s0 (execSignalInterrupt tile ch s) := by
  unfold execSignalInterrupt
  repeat' first
    | with_reducible first | assumption | apply signalOut_keeps | apply dmaIrq_keeps | apply ok_keeps
    | (extract_lets +onlyGivenNames w)
    | split

theorem execSpurBlockLock_keeps {s0 : State} {port s} (h1 : Keeps s0 s) : KOut s0 (execSpurBlockLock port s) := by
  unfold execSpurBlockLock
  repeat' first
    | with_reducible first | assumption | apply State.modSpur_keeps | apply spurEnter_keeps | apply ok_keeps
    | split

theorem execOri_keeps {s0 : State} {k gd ga imm s} (h4 : Keeps s0 s) : KOut s0 (execOri k gd ga imm s) := by
  unfold execOri
  repeat' with_reducible first | assumption | apply plain_keeps

theorem execPmbusAlert_keeps {s0 : State} {words s} (h1 : Keeps s0 s) : KOut s0 (execPmbusAlert words s) := by
  unfold execPmbusAlert
  repeat' first
    | with_reducible first | assumption | apply pmbStatus_keeps | apply ok_keeps | apply Keeps.foldl
    | intro _
    | (extract_lets +onlyGivenNames w)
    | split

theorem frameDone_keeps {s0 : State} {s key f} (h0 : Keeps s0 s) : Keeps s0 (frameDone s key f) := by
  unfold frameDone
  repeat' first
    | with_reducible first | assumption | apply spurFrame_keeps | apply State.count_keeps | apply State.emit_keeps
    | with_reducible first | apply State.count64_keeps | apply noteDepth_keeps | apply State.setEgq_keeps
    | with_reducible apply busWriteMany_keeps
    | (extract_lets +onlyGivenNames w;
        refine Keeps.cut (s0 := s0) w ?a ?b;
        (case' a => dsimp only [w]); (case' b => clear_value w; intro hw))
    | (extract_lets +onlyGivenNames w)
    | split
    | dsimp +zetaDelta only
    | ((with_reducible refine Keeps.isMk ?_ ?_); rfl)

theorem execFrameTransmitEnd_keeps {s0 : State} {iot port s} (h2 : Keeps s0 s) :
    KOut s0 (execFrameTransmitEnd iot port s) := by
  unfold execFrameTransmitEnd
  repeat' first
    | with_reducible first | assumption | apply frameDone_keeps | apply ok_keeps
    | split

theorem execLd_keeps {s0 : State} {k gd a size sx s} (h5 : Keeps s0 s) : KOut s0 (execLd k gd a size sx s) := by
  unfold execLd
  repeat' with_reducible first | assumption | apply loadOne_keeps

theorem noteDelayOf_keeps {s0 : State} {s ru delay} (h0 : Keeps s0 s) : Keeps s0 (noteDelayOf s ru delay) := by
  unfold noteDelayOf
  repeat' first
    | with_reducible first | assumption | apply State.modFh_keeps | apply State.modCor_keeps
    | (extract_lets +onlyGivenNames w;
        refine Keeps.cut (s0 := s0) w ?a ?b;
        (case' a => dsimp only [w]); (case' b => clear_value w; intro hw))
    | (extract_lets +onlyGivenNames w)
    | split
    | dsimp +zetaDelta only
    | ((with_reducible refine Keeps.isMk ?_ ?_); rfl)

theorem execDmaEvtSet_keeps {s0 : State} {r tile mask s} (h3 : Keeps s0 s) :
    KOut s0 (execDmaEvtSet r tile mask s) := by
  unfold execDmaEvtSet
  repeat' with_reducible first | assumption | apply writeAnswer_keeps | apply ok_keeps

theorem reshed_keeps {s0 : State} {s ru boundary} (h0 : Keeps s0 s) : Keeps s0 (reshed s ru boundary) := by
  unfold reshed
  repeat' first
    | with_reducible first | assumption | apply State.setField_keeps | apply State.modCor_keeps
    | (extract_lets +onlyGivenNames w)
    | split

theorem execFrameBoundary_keeps {s0 : State} {ru carrier s} (h2 : Keeps s0 s) :
    KOut s0 (execFrameBoundary ru carrier s) := by
  unfold execFrameBoundary
  repeat' first
    | with_reducible first | assumption | apply reshed_keeps | apply ok_keeps
    | split

theorem execLehrLag_keeps {s0 : State} {duty s} (h1 : Keeps s0 s) : KOut s0 (execLehrLag duty s) := by
  unfold execLehrLag
  repeat' first
    | with_reducible first | assumption | apply State.orReg_keeps | apply State.setField_keeps | apply ok_keeps
    | split

theorem listedRecs_keeps {s0 : State} {j more s} (h2 : Keeps s0 s) : Keeps s0 (listedRecs j more s).2 := by
  unfold listedRecs
  repeat' first
    | with_reducible first | assumption | apply State.count_keeps | apply jobRead_keeps | apply jobRecs_keeps
    | with_reducible apply ok_keeps
    | intro _
    | (extract_lets +onlyGivenNames w)
    | split

theorem writeReports_keeps {s0 : State} {carrier j s} (h2 : Keeps s0 s) : Keeps s0 (writeReports carrier j s) := by
  unfold writeReports
  repeat' first
    | with_reducible first | assumption | apply failJob_keeps | apply jobWrite_keeps | apply setJob_keeps
    | with_reducible apply ok_keeps
    | intro _
    | (extract_lets +onlyGivenNames w)
    | split

theorem searchJob_keeps {s0 : State} {func margin thresh tile ref peaks after s} (h6 : ∀ (y0 : AccJob) (y1 : State),
    Keeps s0 y1 → Keeps s0 (after y0 y1)) (h7 : Keeps s0 s) :
    KOut s0 (searchJob func margin thresh tile ref peaks after s) := by
  unfold searchJob
  repeat' first
    | with_reducible first | assumption | apply failRead_keeps | apply listedRecs_keeps | apply setJob_keeps
    | with_reducible first | apply writeReports_keeps | apply ok_keeps | apply_assumption -exfalso -symm
    | intro _
    | (extract_lets +onlyGivenNames w)
    | split
    | dsimp +zetaDelta only
    | ((with_reducible refine Keeps.isMk ?_ ?_); rfl)

theorem onRecs_keeps {s0 : State} {addrs f j s} (h3 : Keeps s0 s) : Keeps s0 (onRecs addrs f j s).2.2 := by
  unfold onRecs
  repeat' first
    | with_reducible first | assumption | apply jobRecs_keeps
    | (extract_lets +onlyGivenNames w;
        refine Keeps.cut2 (s0 := s0) w ?a ?b;
        (case' a => dsimp only [w]); (case' b => clear_value w; intro hw))
    | split

theorem execFftInv_keeps {s0 : State} {tile ref s} (h2 : Keeps s0 s) : KOut s0 (execFftInv tile ref s) := by
  unfold execFftInv
  repeat' with_reducible first | assumption | apply runJob_keeps | apply onRecs_keeps

theorem execLinkFail_keeps {s0 : State} {tile link s} (h2 : Keeps s0 s) : KOut s0 (execLinkFail tile link s) := by
  unfold execLinkFail
  repeat' first
    | with_reducible first | assumption | apply State.journal_keeps | apply State.orReg_keeps | apply ok_keeps
    | split

theorem fabBegin_keeps {s0 : State} {m f slot drainMs st s} (h5 : Keeps s0 s) :
    Keeps s0 (fabBegin m f slot drainMs st s) := by
  unfold fabBegin
  repeat' with_reducible first | assumption | apply setFabSt_keeps | apply State.modFab_keeps

theorem gafferStep_keeps {s0 : State} {s d} (h0 : Keeps s0 s) : Keeps s0 (gafferStep s d) := by
  unfold gafferStep
  repeat' first
    | with_reducible first | assumption | apply State.setReg64_keeps | apply State.setReg_keeps
    | with_reducible first | apply stepEngine_keeps | apply State.setField_keeps

theorem reacqStep_keeps {s0 : State} {s x} (h0 : Keeps s0 s) : Keeps s0 (reacqStep s x) := by
  unfold reacqStep
  repeat' first
    | with_reducible first | assumption | apply reacqEnd_keeps | apply jumpRefused_keeps | apply gafferStep_keeps
    | with_reducible first | apply State.setField_keeps | apply State.modTime_keeps | apply finishMbx_keeps
    | (extract_lets +onlyGivenNames w;
        refine Keeps.cut (s0 := s0) w ?a ?b;
        (case' a => dsimp only [w]); (case' b => clear_value w; intro hw))
    | (extract_lets +onlyGivenNames w)
    | split

theorem execReferenceQualify_keeps {s0 : State} {s} (h0 : Keeps s0 s) : KOut s0 (execReferenceQualify s) := by
  unfold execReferenceQualify
  repeat' first
    | with_reducible first | assumption | apply reacqStep_keeps | apply State.setField_keeps | apply setServo_keeps
    | with_reducible first | apply jumpRefused_keeps | apply State.modTime_keeps | apply ok_keeps
    | (extract_lets +onlyGivenNames w;
        refine Keeps.cut (s0 := s0) w ?a ?b;
        (case' a => dsimp only [w]); (case' b => clear_value w; intro hw))
    | split

theorem execAccld_keeps {s0 : State} {k n ga gb s} (h4 : Keeps s0 s) : KOut s0 (execAccld k n ga gb s) := by
  unfold execAccld
  repeat' with_reducible first | assumption | apply plain_keeps

theorem execCdrLock_keeps {s0 : State} {iot port ppm s} (h3 : Keeps s0 s) : KOut s0 (execCdrLock iot port ppm s) := by
  unfold execCdrLock
  repeat' first
    | with_reducible first | assumption | apply enterStep_keeps | apply sdStat_keeps | apply ok_keeps
    | split

theorem execFsqrt_keeps {s0 : State} {k fd fa dbl s} (h4 : Keeps s0 s) : KOut s0 (execFsqrt k fd fa dbl s) := by
  unfold execFsqrt
  repeat' with_reducible first | assumption | apply plain_keeps

theorem execVmin_keeps {s0 : State} {k vd va vb ty mode s} (h6 : Keeps s0 s) :
    KOut s0 (execVmin k vd va vb ty mode s) := by
  unfold execVmin
  repeat' with_reducible first | assumption | apply vins_keeps

theorem execVrev_keeps {s0 : State} {k vd va ty s} (h4 : Keeps s0 s) : KOut s0 (execVrev k vd va ty s) := by
  unfold execVrev
  repeat' with_reducible first | assumption | apply vins_keeps

theorem testStop_keeps {s0 : State} {s k l} (h0 : Keeps s0 s) : Keeps s0 (testStop s k l) := by
  unfold testStop
  repeat' first
    | with_reducible first | apply lpbkWrite_keeps | apply prbsCtrlWrite_keeps
    | with_reducible first | assumption | apply State.setField_keeps | apply noteTest_keeps | apply enterStep_keeps
    | (extract_lets +onlyGivenNames w;
        refine Keeps.cut (s0 := s0) w ?a ?b;
        (case' a => dsimp only [w]); (case' b => clear_value w; intro hw))
    | (extract_lets +onlyGivenNames w)
    | split
    | dsimp +zetaDelta only
    | ((with_reducible refine Keeps.isMk ?_ ?_); rfl)

theorem execVor_keeps {s0 : State} {k vd va vb ty mode s} (h6 : Keeps s0 s) :
    KOut s0 (execVor k vd va vb ty mode s) := by
  unfold execVor
  repeat' with_reducible first | assumption | apply vbits_keeps

theorem respond_keeps {s0 : State} {q dst status data s} (h4 : Keeps s0 s) :
    Keeps s0 (respond q dst status data s) := by
  unfold respond
  repeat' with_reducible first | assumption | apply sendBack_keeps

theorem acceptPeer_keeps {s0 : State} {good op m critWant k s} (h5 : Keeps s0 s) : KAcc s0 (acceptPeer good op m critWant k s)
    := by
  unfold acceptPeer
  repeat' first
    | with_reducible first | assumption | apply State.respond_keeps | apply State.send_keeps
    | with_reducible first | apply State.setPeer_keeps | apply done_keeps | apply peerDrop_keeps | apply respond_keeps
    | with_reducible first | apply screened_keeps | apply ok_keeps | apply KAcc.done_
    | intro _
    | (extract_lets +onlyGivenNames w)
    | split

theorem acceptIf_keeps {s0 : State} {good op m critWant s} (h4 : Keeps s0 s) : KAcc s0 (acceptIf good op m critWant s)
    := by
  unfold acceptIf
  repeat' first
    | with_reducible first | assumption | apply acceptMgt_keeps | apply acceptOnchip_keeps | apply acceptPeer_keeps
    | with_reducible first | apply done_keeps | apply ok_keeps | apply_assumption -exfalso -symm
    | intro _
    | (extract_lets +onlyGivenNames w)
    | split

theorem accept_keeps {s0 : State} {op m critWant s} (h3 : Keeps s0 s) : KAcc s0 (accept op m critWant s) := by
  unfold accept
  repeat' first
    | with_reducible first | assumption | apply acceptIf_keeps | apply ok_keeps
    | intro _
    | (extract_lets +onlyGivenNames w)
    | split

theorem settings_keeps {s0 : State} {opcode m first rest s} (h4 : Keeps s0 s) :
    KOut s0 (settings opcode m first rest s) := by
  unfold settings
  repeat' first
    | with_reducible first | assumption | apply accept_keeps | apply State.respond_keeps | apply proceed_keeps
    | with_reducible first | apply holdMbx_keeps | apply ok_keeps | refine Keeps.ofDone (by assumption) ?_
    | with_reducible refine Keeps.ofGo (by assumption) ?_
    | (extract_lets +onlyGivenNames w)
    | split

theorem execCarrierInstSetTxEn_keeps {s0 : State} {m carrier ru value valueC rest s} (h6 : Keeps s0 s) :
    KOut s0 (execCarrierInstSetTxEn m carrier ru value valueC rest s) := by
  unfold execCarrierInstSetTxEn
  repeat' with_reducible first | assumption | apply settings_keeps

theorem execStationCellSetDelete_keeps {s0 : State} {m station rest s} (h3 : Keeps s0 s) :
    KOut s0 (execStationCellSetDelete m station rest s) := by
  unfold execStationCellSetDelete
  repeat' with_reducible first | assumption | apply settings_keeps

theorem execNetConfigSetLaneTx_keeps {s0 : State} {m index value rest s} (h4 : Keeps s0 s) :
    KOut s0 (execNetConfigSetLaneTx m index value rest s) := by
  unfold execNetConfigSetLaneTx
  repeat' with_reducible first | assumption | apply settings_keeps

theorem timeSetting_keeps {s0 : State} {m item index value rest s} (h5 : Keeps s0 s) :
    KOut s0 (timeSetting m item index value rest s) := by
  unfold timeSetting
  repeat' with_reducible first | assumption | apply settings_keeps

theorem execTimeConfigJumpLimit_keeps {s0 : State} {m value rest s} (h3 : Keeps s0 s) :
    KOut s0 (execTimeConfigJumpLimit m value rest s) := by
  unfold execTimeConfigJumpLimit
  repeat' with_reducible first | assumption | apply timeSetting_keeps

theorem serve_keeps {s0 : State} {op m critWant act s} (h3 : ∀ (y0 : State), Keeps s0 y0 → Keeps s0 (act y0).state)
    (h4 : Keeps s0 s) :
    Keeps s0 (serve op m critWant act s) := by
  unfold serve
  repeat' first
    | with_reducible first | assumption | apply h3 | apply accept_keeps | apply State.respond_keeps
    | with_reducible first | refine Keeps.ofDone (by assumption) ?_ | refine Keeps.ofGo (by assumption) ?_
    | split

theorem execErrInject_keeps {s0 : State} {m target tile arm double pos s} (h6 : Keeps s0 s) :
    KOut s0 (execErrInject m target tile arm double pos s) := by
  unfold execErrInject
  repeat' first
    | with_reducible first | assumption | apply serve_keeps | apply guarded_keeps | apply refuse_keeps
    | with_reducible first | apply State.setReg_keeps | apply ok_keeps
    | intro _
    | (extract_lets +onlyGivenNames w;
        refine Keeps.cut (s0 := s0) w ?a ?b;
        (case' a => dsimp only [w]); (case' b => clear_value w; intro hw))
    | (extract_lets +onlyGivenNames w)
    | split

theorem laneTest_keeps {s0 : State} {m k l good act s} (h4 : ∀ (y0 : State), Keeps s0 y0 → Keeps s0 (act y0)) (h5 :
    Keeps s0 s) :
    KOut s0 (laneTest m k l good act s) := by
  unfold laneTest
  repeat' first
    | with_reducible first | assumption | apply h4 | apply serve_keeps | apply guarded_keeps | apply refuse_keeps
    | with_reducible apply ok_keeps
    | intro _
    | (extract_lets +onlyGivenNames w;
        refine Keeps.cut (s0 := s0) w ?a ?b;
        (case' a => dsimp only [w]); (case' b => clear_value w; intro hw))
    | split

theorem execLaneTestGenerate_keeps {s0 : State} {m iot lane pattern loopback durationMs s} (h6 : Keeps s0 s) :
    KOut s0 (execLaneTestGenerate m iot lane pattern loopback durationMs s) := by
  unfold execLaneTestGenerate
  repeat' first
    | with_reducible first | assumption | apply laneTest_keeps | apply testStart_keeps
    | intro _

theorem execImageStage_keeps {s0 : State} {m slot flags offset total data g programOk eraseOk s} (h9 : Keeps s0 s) :
    KOut s0 (execImageStage m slot flags offset total data g programOk eraseOk s) := by
  unfold execImageStage
  repeat' first
    | with_reducible first | assumption | apply stageReply_keeps | apply recoveryRestart_keeps | apply serve_keeps
    | with_reducible first | apply guarded_keeps | apply ok_keeps
    | intro _
    | (extract_lets +onlyGivenNames w)
    | split

theorem semOp_keeps {s0 : State} {opcode m sem act s} (h3 : ∀ (y0 : State), Keeps s0 y0 → Keeps s0 (act y0).state) (h4
    : Keeps s0 s) :
    KOut s0 (semOp opcode m sem act s) := by
  unfold semOp
  repeat' first
    | with_reducible first | assumption | apply h3 | apply serve_keeps | apply refuse_keeps | apply lapse_keeps
    | with_reducible apply ok_keeps
    | intro _
    | (extract_lets +onlyGivenNames w)
    | split

theorem execSemAcquire_keeps {s0 : State} {m sem leaseMs s} (h3 : Keeps s0 s) :
    KOut s0 (execSemAcquire m sem leaseMs s) := by
  unfold execSemAcquire
  repeat' first
    | with_reducible first | assumption | apply semOp_keeps | apply refuse_keeps | apply semReply_keeps
    | with_reducible apply grant_keeps
    | intro _
    | (extract_lets +onlyGivenNames w)
    | split

theorem begin__keeps {s0 : State} {op m critWant act s} (h3 : ∀ (y0 : State), Keeps s0 y0 → KSum s0 (act y0)) (h4 :
    Keeps s0 s) :
    Keeps s0 (begin_ op m critWant act s) := by
  unfold begin_
  repeat' first
    | with_reducible first | assumption | apply h3 | apply accept_keeps | apply holdMbx_keeps | apply finishMbx_keeps
    | with_reducible first | refine Keeps.ofInl (by assumption) ?_ | refine Keeps.ofInr (by assumption) ?_
    | with_reducible first | refine Keeps.ofDone (by assumption) ?_ | refine Keeps.ofGo (by assumption) ?_
    | split

theorem powerSet_keeps {s0 : State} {m argOk still rekeepUs act s} (h4 : ∀ (y0 : State), Keeps s0 y0 → KSum s0 (act
    y0)) (h5 : Keeps s0 s) :
    KOut s0 (powerSet m argOk still rekeepUs act s) := by
  unfold powerSet
  repeat' first
    | with_reducible first | assumption | apply h4 | apply begin__keeps | apply refuse_keeps | apply rekeep_keeps
    | with_reducible first | apply ok_keeps | apply KSum.inl_
    | intro _
    | (extract_lets +onlyGivenNames w)
    | split

theorem execPowerStateSetStill_keeps {s0 : State} {m resume settleUs rekeepUs s} (h4 : Keeps s0 s) :
    KOut s0 (execPowerStateSetStill m resume settleUs rekeepUs s) := by
  unfold execPowerStateSetStill
  repeat' first
    | with_reducible first | assumption | apply powerSet_keeps | apply walk_keeps | apply State.modPower_keeps
    | with_reducible first | apply powerBusy_keeps | apply KSum.inr_
    | intro _

theorem execDebugLock_keeps {s0 : State} {m level s} (h2 : Keeps s0 s) : KOut s0 (execDebugLock m level s) := by
  unfold execDebugLock
  repeat' first
    | with_reducible first | assumption | apply serve_keeps | apply guarded_keeps | apply refuse_keeps
    | with_reducible first | apply changeLevel_keeps | apply ok_keeps
    | intro _
    | (extract_lets +onlyGivenNames w)
    | split

theorem execFabStatus_keeps {s0 : State} {m fab s} (h2 : Keeps s0 s) : KOut s0 (execFabStatus m fab s) := by
  unfold execFabStatus
  repeat' first
    | with_reducible first | assumption | apply serve_keeps | apply unguarded_keeps | apply refuse_keeps
    | with_reducible apply ok_keeps
    | intro _
    | (extract_lets +onlyGivenNames w)
    | split

theorem execPowerStateSetLull_keeps {s0 : State} {m settleUs rekeepUs s} (h3 : Keeps s0 s) :
    KOut s0 (execPowerStateSetLull m settleUs rekeepUs s) := by
  unfold execPowerStateSetLull
  repeat' first
    | with_reducible first | assumption | apply powerSet_keeps | apply powerOk_keeps | apply State.setField_keeps
    | with_reducible first | apply KSum.inl_ | apply powerSame_keeps
    | intro _
    | split

theorem execTimeConfigAsym_keeps {s0 : State} {m iot port value rest s} (h5 : Keeps s0 s) :
    KOut s0 (execTimeConfigAsym m iot port value rest s) := by
  unfold execTimeConfigAsym
  repeat' with_reducible first | assumption | apply timeSetting_keeps

theorem execRunEnd_keeps {s0 : State} {m n s} (h2 : Keeps s0 s) : KOut s0 (execRunEnd m n s) := by
  unfold execRunEnd
  repeat' first
    | with_reducible first | assumption | apply begin__keeps | apply onRun_keeps | apply refuse_keeps
    | with_reducible first | apply abortExport_keeps | apply setTState_keeps | apply State.setRun_keeps
    | with_reducible first | apply ok_keeps | apply KSum.inl_ | apply KSum.inr_
    | intro _
    | (extract_lets +onlyGivenNames w;
        refine Keeps.cut (s0 := s0) w ?a ?b;
        (case' a => dsimp only [w]); (case' b => clear_value w; intro hw))
    | split

theorem execPowerStateSetPmbus_keeps {s0 : State} {m entry addr page role flags nomMv busKhz s} (h8 : Keeps s0 s) :
    KOut s0 (execPowerStateSetPmbus m entry addr page role flags nomMv busKhz s) := by
  unfold execPowerStateSetPmbus
  repeat' first
    | with_reducible first | assumption | apply begin__keeps | apply guarded_keeps | apply refuse_keeps
    | with_reducible first | apply powerSame_keeps | apply configWritten_keeps | apply State.modPower_keeps
    | with_reducible first | apply ok_keeps | apply KSum.inl_
    | intro _
    | (extract_lets +onlyGivenNames w;
        refine Keeps.cutR (s0 := s0) w ?a ?b;
        (case' a => dsimp only [w]); (case' b => clear_value w; intro hw))
    | (extract_lets +onlyGivenNames w)
    | split

theorem execTimeConfigSlewMax_keeps {s0 : State} {m value rest s} (h3 : Keeps s0 s) :
    KOut s0 (execTimeConfigSlewMax m value rest s) := by
  unfold execTimeConfigSlewMax
  repeat' with_reducible first | assumption | apply timeSetting_keeps

theorem execSemRelease_keeps {s0 : State} {m sem s} (h2 : Keeps s0 s) : KOut s0 (execSemRelease m sem s) := by
  unfold execSemRelease
  repeat' first
    | with_reducible first | assumption | apply semOp_keeps | apply refuse_keeps
    | intro _
    | (extract_lets +onlyGivenNames w)
    | split
    | dsimp +zetaDelta only
    | ((with_reducible refine Keeps.isMk ?_ ?_); rfl)

theorem execLaneTestLoopback_keeps {s0 : State} {m iot lane loopback durationMs s} (h5 : Keeps s0 s) :
    KOut s0 (execLaneTestLoopback m iot lane loopback durationMs s) := by
  unfold execLaneTestLoopback
  repeat' first
    | with_reducible first | assumption | apply laneTest_keeps | apply testStart_keeps
    | intro _

theorem execRunExport_keeps {s0 : State} {m n s} (h2 : Keeps s0 s) : KOut s0 (execRunExport m n s) := by
  unfold execRunExport
  repeat' first
    | with_reducible first | assumption | apply begin__keeps | apply onRun_keeps | apply refuse_keeps
    | with_reducible first | apply exportStart_keeps | apply ok_keeps | apply KSum.inl_ | apply KSum.inr_
    | intro _
    | (extract_lets +onlyGivenNames w)
    | split

theorem execTimeConfigProfile_keeps {s0 : State} {m value rest s} (h3 : Keeps s0 s) :
    KOut s0 (execTimeConfigProfile m value rest s) := by
  unfold execTimeConfigProfile
  repeat' with_reducible first | assumption | apply timeSetting_keeps

theorem execCarrierInstSetPwrLimit_keeps {s0 : State} {m carrier ru value valueC rest s} (h6 : Keeps s0 s) :
    KOut s0 (execCarrierInstSetPwrLimit m carrier ru value valueC rest s) := by
  unfold execCarrierInstSetPwrLimit
  repeat' with_reducible first | assumption | apply settings_keeps

theorem keyOp_keeps {s0 : State} {opcode m kind slot act s} (h4 : ∀ (y0 : State), Keeps s0 y0 → Keeps s0 (act
    y0).state) (h5 : Keeps s0 s) :
    Keeps s0 (keyOp opcode m kind slot act s) := by
  unfold keyOp
  repeat' first
    | with_reducible first | assumption | apply h4 | apply serve_keeps | apply guarded_keeps | apply refuse_keeps
    | intro _
    | (extract_lets +onlyGivenNames w)
    | split

theorem execKeyEnrolRevoke_keeps {s0 : State} {m kind slot s} (h3 : Keeps s0 s) :
    KOut s0 (execKeyEnrolRevoke m kind slot s) := by
  unfold execKeyEnrolRevoke
  repeat' first
    | with_reducible first | assumption | apply keyOp_keeps | apply revoke_keeps | apply ok_keeps

theorem execNetConfigSetPortMode_keeps {s0 : State} {m index value rest s} (h4 : Keeps s0 s) :
    KOut s0 (execNetConfigSetPortMode m index value rest s) := by
  unfold execNetConfigSetPortMode
  repeat' with_reducible first | assumption | apply settings_keeps

theorem execFabRearm_keeps {s0 : State} {m fab line s} (h3 : Keeps s0 s) : KOut s0 (execFabRearm m fab line s) := by
  unfold execFabRearm
  repeat' first
    | with_reducible first | assumption | apply serve_keeps | apply refuse_keeps | apply State.modFab_keeps
    | with_reducible first | apply State.setField_keeps | apply zeroRegs_keeps | apply ok_keeps
    | intro _
    | (extract_lets +onlyGivenNames w;
        refine Keeps.cut (s0 := s0) w ?a ?b;
        (case' a => dsimp only [w]); (case' b => clear_value w; intro hw))
    | (extract_lets +onlyGivenNames w)
    | split

theorem execTaskStop_keeps {s0 : State} {m imgid s} (h2 : Keeps s0 s) : KOut s0 (execTaskStop m imgid s) := by
  unfold execTaskStop
  repeat' first
    | with_reducible first | assumption | apply serve_keeps | apply stopCore_keeps | apply withImage_keeps
    | with_reducible first | apply ok_keeps | apply Keeps.foldl
    | intro _
    | (extract_lets +onlyGivenNames w)
    | split

theorem execKeyEnrolEnrol_keeps {s0 : State} {m kind slot pubkey s} (h4 : Keeps s0 s) :
    KOut s0 (execKeyEnrolEnrol m kind slot pubkey s) := by
  unfold execKeyEnrolEnrol
  repeat' first
    | with_reducible first | assumption | apply keyOp_keeps | apply enrolReply_keeps | apply ok_keeps

theorem execCorridorSetCreate_keeps {s0 : State} {m corridor margin rest s} (h4 : Keeps s0 s) :
    KOut s0 (execCorridorSetCreate m corridor margin rest s) := by
  unfold execCorridorSetCreate
  repeat' with_reducible first | assumption | apply settings_keeps

theorem execPeerSet_keeps {s0 : State} {m b s} (h2 : Keeps s0 s) : KOut s0 (execPeerSet m b s) := by
  unfold execPeerSet
  repeat' first
    | with_reducible first | assumption | apply serve_keeps | apply peerGuard_keeps | apply State.setPeer_keeps
    | with_reducible first | apply sendHello_keeps | apply ok_keeps
    | intro _
    | (extract_lets +onlyGivenNames w;
        refine Keeps.cut (s0 := s0) w ?a ?b;
        (case' a => dsimp only [w]); (case' b => clear_value w; intro hw))
    | (extract_lets +onlyGivenNames w)
    | split

theorem execRunPosition_keeps {s0 : State} {m run speedValid accuracy chainage speed tFix s} (h7 : Keeps s0 s) :
    KOut s0 (execRunPosition m run speedValid accuracy chainage speed tFix s) := by
  unfold execRunPosition
  repeat' first
    | with_reducible first | assumption | apply begin__keeps | apply refuse_keeps | apply State.setRun_keeps
    | with_reducible first | apply ok_keeps | apply KSum.inl_ | apply KSum.inr_
    | intro _
    | (extract_lets +onlyGivenNames w)
    | split

theorem execCarrierSet_keeps {s0 : State} {m b rest s} (h3 : Keeps s0 s) : KOut s0 (execCarrierSet m b rest s) := by
  unfold execCarrierSet
  repeat' with_reducible first | assumption | apply settings_keeps

theorem execReservedOpcode_keeps {s0 : State} {m opcode s} (h2 : Keeps s0 s) :
    KOut s0 (execReservedOpcode m opcode s) := by
  unfold execReservedOpcode
  repeat' first
    | with_reducible first | assumption | apply serve_keeps | apply refuse_keeps | apply ok_keeps
    | split

theorem execCountersRead_keeps {s0 : State} {m group clear index s} (h4 : Keeps s0 s) :
    KOut s0 (execCountersRead m group clear index s) := by
  unfold execCountersRead
  repeat' first
    | with_reducible first | assumption | apply serve_keeps | apply refuse_keeps | apply clearTotals_keeps
    | with_reducible apply ok_keeps
    | intro _
    | (extract_lets +onlyGivenNames w)
    | split
    | dsimp only [State.modBoot, State.modStor]
    | dsimp +zetaDelta only
    | ((with_reducible refine Keeps.isMk ?_ ?_); rfl)

theorem execDevInfo_keeps {s0 : State} {m s} (h1 : Keeps s0 s) : KOut s0 (execDevInfo m s) := by
  unfold execDevInfo
  repeat' first
    | with_reducible first | assumption | apply serve_keeps | apply ok_keeps
    | intro _

theorem execConfigRead_keeps {s0 : State} {m what index index2 s} (h4 : Keeps s0 s) :
    KOut s0 (execConfigRead m what index index2 s) := by
  unfold execConfigRead
  repeat' first
    | with_reducible first | assumption | apply serve_keeps | apply refuse_keeps | apply ok_keeps
    | intro _
    | (extract_lets +onlyGivenNames w)
    | split

theorem execRuRemove_keeps {s0 : State} {m ru rest s} (h3 : Keeps s0 s) : KOut s0 (execRuRemove m ru rest s) := by
  unfold execRuRemove
  repeat' with_reducible first | assumption | apply settings_keeps

theorem execCrumbCtrl_keeps {s0 : State} {m b s} (h2 : Keeps s0 s) : KOut s0 (execCrumbCtrl m b s) := by
  unfold execCrumbCtrl
  repeat' first
    | with_reducible first | assumption | apply serve_keeps | apply guarded_keeps | apply refuse_keeps
    | with_reducible first | apply crumbApply_keeps | apply crumbStreams_keeps | apply ok_keeps | apply Keeps.foldl
    | intro _
    | (extract_lets +onlyGivenNames w;
        refine Keeps.cut (s0 := s0) w ?a ?b;
        (case' a => dsimp only [w]); (case' b => clear_value w; intro hw))
    | (extract_lets +onlyGivenNames w)
    | split
    | dsimp only [State.modBoot, State.modStor]
    | dsimp +zetaDelta only

theorem execCarrierInstSetCompw_keeps {s0 : State} {m carrier ru value valueC rest s} (h6 : Keeps s0 s) :
    KOut s0 (execCarrierInstSetCompw m carrier ru value valueC rest s) := by
  unfold execCarrierInstSetCompw
  repeat' with_reducible first | assumption | apply settings_keeps

theorem execImageStatus_keeps {s0 : State} {m s} (h1 : Keeps s0 s) : KOut s0 (execImageStatus m s) := by
  unfold execImageStatus
  repeat' first
    | with_reducible first | assumption | apply serve_keeps | apply ok_keeps
    | intro _

theorem execAttestQuote_keeps {s0 : State} {m nonce mask s} (h3 : Keeps s0 s) :
    KOut s0 (execAttestQuote m nonce mask s) := by
  unfold execAttestQuote
  repeat' first
    | with_reducible first | assumption | apply serve_keeps | apply ok_keeps
    | intro _

theorem execTaskStart_keeps {s0 : State} {m imgid qid s} (h3 : Keeps s0 s) :
    KOut s0 (execTaskStart m imgid qid s) := by
  unfold execTaskStart
  repeat' first
    | with_reducible first | assumption | apply serve_keeps | apply withImage_keeps | apply refuse_keeps
    | with_reducible first | apply pushQ_keeps | apply ok_keeps
    | intro _
    | (extract_lets +onlyGivenNames w;
        refine Keeps.cut2 (s0 := s0) w ?a ?b;
        (case' a => dsimp only [w]); (case' b => clear_value w; intro hw))
    | split

end Sys2Proof.Machine
end

