-- ==== Sys2Proof/Laws/Keeps08.lean ====
section
/-! SUPPORT. Each shared operation and each command keeps what `Keeps` says (part 8 of 10, in the order in which
they use one another). -/

namespace Sys2Proof.Machine

theorem execSessionClose_keeps {s0 : State} {m s} (h1 : Keeps s0 s) : KOut s0 (execSessionClose m s) := by
  unfold execSessionClose
  repeat' first
    | with_reducible first | assumption | apply accept_keeps | apply endSession_keeps | apply State.respond_keeps
    | with_reducible first | apply ok_keeps | refine Keeps.ofDone (by assumption) ?_
    | with_reducible refine Keeps.ofGo (by assumption) ?_
    | split

theorem execLaneTestGenerateCheck_keeps {s0 : State} {m iot lane pattern loopback durationMs s} (h6 : Keeps s0 s) :
    KOut s0 (execLaneTestGenerateCheck m iot lane pattern loopback durationMs s) := by
  unfold execLaneTestGenerateCheck
  repeat' first
    | with_reducible first | assumption | apply laneTest_keeps | apply testStart_keeps
    | intro _

theorem execOpAbort_keeps {s0 : State} {m mbx seq s} (h3 : Keeps s0 s) : KOut s0 (execOpAbort m mbx seq s) := by
  unfold execOpAbort
  repeat' first
    | with_reducible first | assumption | apply serve_keeps | apply opAbortReply_keeps | apply ok_keeps

theorem execLaneTestCheck_keeps {s0 : State} {m iot lane pattern loopback durationMs s} (h6 : Keeps s0 s) :
    KOut s0 (execLaneTestCheck m iot lane pattern loopback durationMs s) := by
  unfold execLaneTestCheck
  repeat' first
    | with_reducible first | assumption | apply laneTest_keeps | apply testStart_keeps
    | intro _

theorem execPeerSetClear_keeps {s0 : State} {m corridor endHi s} (h3 : Keeps s0 s) :
    KOut s0 (execPeerSetClear m corridor endHi s) := by
  unfold execPeerSetClear
  repeat' first
    | with_reducible first | assumption | apply serve_keeps | apply peerGuard_keeps | apply refuse_keeps
    | with_reducible apply ok_keeps
    | intro _
    | (extract_lets +onlyGivenNames w;
        refine Keeps.cutR (s0 := s0) w ?a ?b;
        (case' a => dsimp only [w]); (case' b => clear_value w; intro hw))
    | (extract_lets +onlyGivenNames w)
    | split
    | dsimp +zetaDelta only
    | ((with_reducible refine Keeps.isMk ?_ ?_); rfl)

theorem execCorridorSetModify_keeps {s0 : State} {m corridor margin rest s} (h4 : Keeps s0 s) :
    KOut s0 (execCorridorSetModify m corridor margin rest s) := by
  unfold execCorridorSetModify
  repeat' with_reducible first | assumption | apply settings_keeps

theorem execSemBreak_keeps {s0 : State} {m sem s} (h2 : Keeps s0 s) : KOut s0 (execSemBreak m sem s) := by
  unfold execSemBreak
  repeat' first
    | with_reducible first | assumption | apply semOp_keeps | apply semReply_keeps | apply grant_keeps
    | with_reducible apply State.raiseTo_keeps
    | intro _
    | (extract_lets +onlyGivenNames w)
    | split

theorem execFabUnload_keeps {s0 : State} {m fab drainMs s} (h3 : Keeps s0 s) :
    KOut s0 (execFabUnload m fab drainMs s) := by
  unfold execFabUnload
  repeat' first
    | with_reducible first | assumption | apply begin__keeps | apply refuse_keeps | apply fabBegin_keeps
    | with_reducible first | apply ok_keeps | apply KSum.inl_ | apply KSum.inr_
    | intro _
    | (extract_lets +onlyGivenNames w)
    | split

theorem execLaneTestStop_keeps {s0 : State} {m iot lane bits errs s} (h5 : Keeps s0 s) :
    KOut s0 (execLaneTestStop m iot lane bits errs s) := by
  unfold execLaneTestStop
  repeat' first
    | with_reducible first | assumption | apply laneTest_keeps | apply testStop_keeps | apply prbsCount_keeps
    | intro _
    | (extract_lets +onlyGivenNames w)
    | split

theorem execAccclr_keeps {s0 : State} {k n s} (h2 : Keeps s0 s) : KOut s0 (execAccclr k n s) := by
  unfold execAccclr
  repeat' with_reducible first | assumption | apply plain_keeps

theorem execTimeConfigServoBw_keeps {s0 : State} {m value rest s} (h3 : Keeps s0 s) :
    KOut s0 (execTimeConfigServoBw m value rest s) := by
  unfold execTimeConfigServoBw
  repeat' with_reducible first | assumption | apply timeSetting_keeps

theorem execSta_keeps {s0 : State} {k f i a s} (h4 : Keeps s0 s) : KOut s0 (execSta k f i a s) := by
  unfold execSta
  repeat' with_reducible first | assumption | apply storeOne_keeps

theorem applyWinStep_keeps {s0 : State} {s n r x} (h0 : Keeps s0 s) : Keeps s0 (applyWinStep s n r x) := by
  unfold applyWinStep
  repeat' first
    | with_reducible first | assumption | apply keepTrim_keeps | apply putFeed_keeps | apply putMask_keeps
    | with_reducible first | apply putWin_keeps | apply removeFeed_keeps | apply startFeed_keeps | apply ok_keeps
    | intro _
    | (extract_lets +onlyGivenNames w)
    | split

theorem execLehrBudget_keeps {s0 : State} {r value s} (h2 : Keeps s0 s) : KOut s0 (execLehrBudget r value s) := by
  unfold execLehrBudget
  repeat' with_reducible first | assumption | apply writeAnswer_keeps | apply ok_keeps

theorem setSnr_keeps {s0 : State} {s p snr far} (h0 : Keeps s0 s) : Keeps s0 (setSnr s p snr far) := by
  unfold setSnr
  repeat' with_reducible first | assumption | apply State.setReg_keeps

theorem execIvrReady_keeps {s0 : State} {island s} (h1 : Keeps s0 s) : KOut s0 (execIvrReady island s) := by
  unfold execIvrReady
  repeat' first
    | with_reducible first | assumption | apply State.setReg_keeps | apply signal_keeps | apply ok_keeps
    | (extract_lets +onlyGivenNames w;
        refine Keeps.cut (s0 := s0) w ?a ?b;
        (case' a => dsimp only [w]); (case' b => clear_value w; intro hw))
    | split

theorem execEccClr_keeps {s0 : State} {r tile value s} (h3 : Keeps s0 s) : KOut s0 (execEccClr r tile value s) := by
  unfold execEccClr
  repeat' with_reducible first | assumption | apply writeAnswer_keeps | apply ok_keeps

theorem pushBlobEntry_keeps {s0 : State} {s p run kind len addr sTime} (h0 : Keeps s0 s) :
    Keeps s0 (pushBlobEntry s p run kind len addr sTime) := by
  unfold pushBlobEntry
  repeat' with_reducible first | assumption | apply pushQ_keeps

theorem execPeerKeepalive_keeps {s0 : State} {m s} (h1 : Keeps s0 s) : KOut s0 (execPeerKeepalive m s) := by
  unfold execPeerKeepalive
  repeat' first
    | with_reducible first | assumption | apply refuse_keeps | apply serve_keeps | apply unguarded_keeps
    | with_reducible apply ok_keeps
    | intro _
    | (extract_lets +onlyGivenNames w)
    | split

theorem State.putWord_keeps {s0 : State} {s a n v} (h0 : Keeps s0 s) : Keeps s0 (State.putWord s a n v) := by
  unfold State.putWord
  repeat' with_reducible first | assumption | apply State.putBytes_keeps

theorem setBramRow_keeps {s0 : State} {s f b row v} (h0 : Keeps s0 s) : Keeps s0 (setBramRow s f b row v) := by
  unfold setBramRow
  repeat' with_reducible first | assumption | apply State.modFab_keeps | apply State.putWord_keeps

theorem bramPut_keeps {s0 : State} {s f b width x4 v} (h0 : Keeps s0 s) : Keeps s0 (bramPut s f b width x4 v) := by
  unfold bramPut
  repeat' first
    | with_reducible first | assumption | apply setBramRow_keeps
    | (extract_lets +onlyGivenNames w;
        refine Keeps.cut (s0 := s0) w ?a ?b;
        (case' a => dsimp only [w]); (case' b => clear_value w; intro hw))
    | (extract_lets +onlyGivenNames w)
    | split

theorem bramWrite_keeps {s0 : State} {s f b width ecc o} (h0 : Keeps s0 s) :
    Keeps s0 (bramWrite s f b width ecc o) := by
  unfold bramWrite
  repeat' first
    | with_reducible first | assumption | apply memWrite_keeps | apply bramPut_keeps
    | split

theorem execCorrectedWriteback_keeps {s0 : State} {cw s} (h1 : Keeps s0 s) :
    KOut s0 (execCorrectedWriteback cw s) := by
  unfold execCorrectedWriteback
  repeat' first
    | with_reducible first | assumption | apply State.setMark_keeps | apply ok_keeps
    | (extract_lets +onlyGivenNames w;
        refine Keeps.cut (s0 := s0) w ?a ?b;
        (case' a => dsimp only [w]); (case' b => clear_value w; intro hw))
    | (extract_lets +onlyGivenNames w)
    | split
    | dsimp +zetaDelta only
    | ((with_reducible refine Keeps.isMk ?_ ?_); rfl)

theorem execResume_keeps {s0 : State} {r tile ch s} (h3 : Keeps s0 s) : KOut s0 (execResume r tile ch s) := by
  unfold execResume
  repeat' with_reducible first | assumption | apply bell_keeps

theorem execSignalEvent_keeps {s0 : State} {tile ch s} (h2 : Keeps s0 s) : KOut s0 (execSignalEvent tile ch s) := by
  unfold execSignalEvent
  repeat' first
    | with_reducible first | assumption | apply signalOut_keeps | apply evtSet_keeps | apply ok_keeps
    | (extract_lets +onlyGivenNames w)
    | split

theorem execTimeConfigRole_keeps {s0 : State} {m iot port value rest s} (h5 : Keeps s0 s) :
    KOut s0 (execTimeConfigRole m iot port value rest s) := by
  unfold execTimeConfigRole
  repeat' with_reducible first | assumption | apply timeSetting_keeps

theorem setLine_keeps {s0 : State} {s p fault atten dist} (h0 : Keeps s0 s) :
    Keeps s0 (setLine s p fault atten dist) := by
  unfold setLine
  repeat' first
    | with_reducible first | assumption | apply State.setReg_keeps | apply State.orReg_keeps
    | (extract_lets +onlyGivenNames w;
        refine Keeps.cut (s0 := s0) w ?a ?b;
        (case' a => dsimp only [w]); (case' b => clear_value w; intro hw))
    | (extract_lets +onlyGivenNames w)
    | split

theorem execSpurStepTimeout_keeps {s0 : State} {port s} (h1 : Keeps s0 s) : KOut s0 (execSpurStepTimeout port s) := by
  unfold execSpurStepTimeout
  repeat' first
    | with_reducible first | assumption | apply spurTrain_keeps | apply ok_keeps
    | split

theorem writeBackLines_keeps {s0 : State} {q from_ to_ x3 x4} (h4 : Keeps s0 x4) :
    Keeps s0 (writeBackLines q from_ to_ x3 x4) := by
  fun_induction writeBackLines q from_ to_ x3 x4
  all_goals repeat' first
    | with_reducible first | assumption | apply memRead_keeps | apply memWrite_keeps | apply State.setMark_keeps
    | with_reducible apply_assumption -exfalso -symm
    | split
    | dsimp +zetaDelta only

theorem slotRelease_keeps {s0 : State} {s q k b} (h0 : Keeps s0 s) : Keeps s0 (slotRelease s q k b) := by
  unfold slotRelease
  repeat' first
    | with_reducible first | assumption | apply writeBackLines_keeps | apply setSlot_keeps
    | (extract_lets +onlyGivenNames w)
    | split

theorem execXori_keeps {s0 : State} {k gd ga imm s} (h4 : Keeps s0 s) : KOut s0 (execXori k gd ga imm s) := by
  unfold execXori
  repeat' with_reducible first | assumption | apply plain_keeps

theorem execDeskew_keeps {s0 : State} {iot port skew s} (h3 : Keeps s0 s) : KOut s0 (execDeskew iot port skew s) := by
  unfold execDeskew
  repeat' first
    | with_reducible first | assumption | apply State.setReg_keeps | apply enterStep_keeps | apply ok_keeps
    | (extract_lets +onlyGivenNames w;
        refine Keeps.cut (s0 := s0) w ?a ?b;
        (case' a => dsimp only [w]); (case' b => clear_value w; intro hw))
    | split

theorem execVfcvti_keeps {s0 : State} {k vd va ty s} (h4 : Keeps s0 s) : KOut s0 (execVfcvti k vd va ty s) := by
  unfold execVfcvti
  repeat' with_reducible first | assumption | apply vins_keeps

theorem reportShortfall_keeps {s0 : State} {s ru} (h0 : Keeps s0 s) : Keeps s0 (reportShortfall s ru) := by
  unfold reportShortfall
  repeat' first
    | with_reducible first | assumption | apply State.raise_keeps | apply State.modCor_keeps
    | (extract_lets +onlyGivenNames w)
    | split

theorem execParisonTimeCondition_keeps {s0 : State} {s} (h0 : Keeps s0 s) : KOut s0 (execParisonTimeCondition s) := by
  unfold execParisonTimeCondition
  repeat' first
    | with_reducible first | assumption | apply progress_keeps | apply ok_keeps
    | (extract_lets +onlyGivenNames w)
    | split
    | dsimp only [State.modBoot, State.modStor]
    | ((with_reducible refine Keeps.isMk ?_ ?_); rfl)

theorem prefetch_keeps {s0 : State} {t c a s} (h3 : Keeps s0 s) : Keeps s0 (prefetch t c a s) := by
  unfold prefetch
  repeat' first
    | with_reducible first | assumption | apply busRead_keeps | apply chargeFlits_keeps | apply countWait_keeps
    | with_reducible first | apply readPart_keeps | apply ok_keeps
    | intro _
    | (extract_lets +onlyGivenNames w)
    | split

theorem earlyRead_keeps {s0 : State} {t c l s} (h3 : Keeps s0 s) : Keeps s0 (earlyRead t c l s) := by
  unfold earlyRead
  repeat' first
    | with_reducible first | assumption | apply prefetch_keeps | apply ok_keeps | apply Keeps.foldl
    | intro _
    | (extract_lets +onlyGivenNames w)
    | split

theorem branch_keeps {s0 : State} {k s x taken disp} (h1 : Keeps s0 s) : Keeps s0 (branch k s x taken disp) := by
  unfold branch
  repeat' first
    | with_reducible first | assumption | apply State.setCore_keeps | apply done_keeps | apply earlyRead_keeps
    | with_reducible first | apply ok_keeps | apply Keeps.foldl
    | intro _
    | (extract_lets +onlyGivenNames w)
    | split
    | ((with_reducible refine Keeps.isMk ?_ ?_); rfl)

theorem execDbnz_keeps {s0 : State} {k ga disp s} (h3 : Keeps s0 s) : KOut s0 (execDbnz k ga disp s) := by
  unfold execDbnz
  repeat' first
    | with_reducible first | assumption | apply issue_keeps | apply branch_keeps | apply ok_keeps
    | intro _

theorem execBCond_keeps {s0 : State} {k cond disp s} (h3 : Keeps s0 s) : KOut s0 (execBCond k cond disp s) := by
  unfold execBCond
  repeat' first
    | with_reducible first | assumption | apply branch_keeps | apply issue_keeps | apply syncExc_keeps | apply ok_keeps
    | intro _
    | (extract_lets +onlyGivenNames w)
    | split

theorem execRunaheadEnter_keeps {s0 : State} {tile core prefetches s} (h4 : Keeps s0 s) : KOut s0 (execRunaheadEnter tile core prefetches s)
    := by
  unfold execRunaheadEnter
  repeat' first
    | with_reducible first | assumption | apply State.setCore_keeps | apply earlyRead_keeps | apply ok_keeps
    | with_reducible apply Keeps.foldl
    | intro _
    | (extract_lets +onlyGivenNames w)
    | split

theorem execVfwiden_keeps {s0 : State} {k vd va ty s} (h4 : Keeps s0 s) : KOut s0 (execVfwiden k vd va ty s) := by
  unfold execVfwiden
  repeat' with_reducible first | assumption | apply vins_keeps

theorem execMbxComplete_keeps {s0 : State} {n s} (h1 : Keeps s0 s) : KOut s0 (execMbxComplete n s) := by
  unfold execMbxComplete
  repeat' first
    | with_reducible first | assumption | apply State.orReg_keeps | apply State.setReg_keeps
    | with_reducible first | apply State.setCore_keeps | apply pushNotice_keeps | apply ok_keeps
    | (extract_lets +onlyGivenNames w;
        refine Keeps.cut (s0 := s0) w ?a ?b;
        (case' a => dsimp only [w]); (case' b => clear_value w; intro hw))
    | (extract_lets +onlyGivenNames w)
    | split
    | dsimp +zetaDelta only
    | ((with_reducible refine Keeps.isMk ?_ ?_); rfl)

theorem loadReturns_keeps {s0 : State} {t c p s} (h3 : Keeps s0 s) : Keeps s0 (loadReturns t c p s) := by
  unfold loadReturns
  repeat' with_reducible first | assumption | apply finishLoad_keeps | apply State.setCore_keeps

theorem execLoadDataReturn_keeps {s0 : State} {tile core s} (h2 : Keeps s0 s) :
    KOut s0 (execLoadDataReturn tile core s) := by
  unfold execLoadDataReturn
  repeat' first
    | with_reducible first | assumption | apply loadReturns_keeps | apply sendLoad_keeps | apply ok_keeps
    | with_reducible refine Keeps.ofSome (by assumption) ?_
    | split

theorem execFma_keeps {s0 : State} {k fd fa fb dbl s} (h5 : Keeps s0 s) : KOut s0 (execFma k fd fa fb dbl s) := by
  unfold execFma
  repeat' with_reducible first | assumption | apply plain_keeps

theorem execSar_keeps {s0 : State} {k gd ga gb f s} (h5 : Keeps s0 s) : KOut s0 (execSar k gd ga gb f s) := by
  unfold execSar
  repeat' with_reducible first | assumption | apply aluOp_keeps

theorem execIslandSleepEnter_keeps {s0 : State} {tile s} (h1 : Keeps s0 s) :
    KOut s0 (execIslandSleepEnter tile s) := by
  unfold execIslandSleepEnter
  repeat' first
    | with_reducible first | assumption | apply moveOn_keeps | apply enterSleep_keeps | apply ok_keeps
    | with_reducible apply walk_keeps
    | split

theorem accCount_keeps {s0 : State} {s j st} (h0 : Keeps s0 s) : Keeps s0 (accCount s j st) := by
  unfold accCount
  repeat' first
    | with_reducible first | assumption | apply State.count_keeps | apply State.setReg64_keeps
    | with_reducible first | apply State.setReg_keeps | apply State.orReg_keeps
    | (extract_lets +onlyGivenNames w;
        refine Keeps.cut (s0 := s0) w ?a ?b;
        (case' a => dsimp only [w]); (case' b => clear_value w; intro hw))
    | (extract_lets +onlyGivenNames w)
    | split
    | dsimp +zetaDelta only

theorem deliverJob_keeps {s0 : State} {j st sr s} (h3 : Keeps s0 s) : Keeps s0 (deliverJob j st sr s) := by
  unfold deliverJob
  repeat' first
    | with_reducible first | assumption | apply completionEntry_keeps | apply placeOut_keeps
    | with_reducible first | apply State.setCore_keeps | apply getD_keeps
    | (extract_lets +onlyGivenNames w;
        refine Keeps.cut2 (s0 := s0) w ?a ?b;
        (case' a => dsimp only [w]); (case' b => clear_value w; intro hw))
    | (extract_lets +onlyGivenNames w)
    | split
    | dsimp +zetaDelta only
    | ((with_reducible refine Keeps.isMk ?_ ?_); rfl)

theorem openOutputs_keeps {s0 : State} {j s} (h1 : Keeps s0 s) : Keeps s0 (openOutputs j s) := by
  unfold openOutputs
  repeat' first
    | with_reducible first | assumption | apply State.takeFresh_keeps | apply busWriteMany_keeps | apply ok_keeps
    | with_reducible apply Keeps.foldl
    | intro _
    | (extract_lets +onlyGivenNames w)
    | split

theorem putRecord_keeps {s0 : State} {j st s} (h2 : Keeps s0 s) : Keeps s0 (putRecord j st s).2.2 := by
  unfold putRecord
  repeat' first
    | with_reducible first | assumption | apply busWriteMany_keeps | apply ok_keeps
    | intro _
    | (extract_lets +onlyGivenNames w)
    | split

theorem endJob_keeps {s0 : State} {j st s} (h2 : Keeps s0 s) : Keeps s0 (endJob j st s) := by
  unfold endJob
  repeat' first
    | with_reducible first | assumption | apply accCount_keeps | apply deliverJob_keeps | apply dropJob_keeps
    | with_reducible first | apply emptySoft_keeps | apply endSoft_keeps | apply openOutputs_keeps
    | with_reducible first | apply putRecord_keeps | apply ok_keeps
    | intro _
    | (extract_lets +onlyGivenNames w)
    | split

theorem prefetchRead_keeps {s0 : State} {q ctx s} (h2 : Keeps s0 s) : Keeps s0 (prefetchRead q ctx s).2 := by
  unfold prefetchRead
  repeat' with_reducible first | assumption | apply memRead_keeps

set_option maxRecDepth 4000 in
theorem execContextPrefetchDone_keeps {s0 : State} {qid s} (h1 : Keeps s0 s) :
    KOut s0 (execContextPrefetchDone qid s) := by
  unfold execContextPrefetchDone
  repeat' first
    | with_reducible first | assumption | apply peekHead_keeps | apply prefetchRead_keeps | apply State.setQueue_keeps
    | with_reducible first | apply memWrite_keeps | apply setSlot_keeps | apply ok_keeps
    | (extract_lets +onlyGivenNames w;
        refine Keeps.cut2 (s0 := s0) w ?a ?b;
        (case' a => dsimp only [w]); (case' b => clear_value w; intro hw))
    | (extract_lets +onlyGivenNames w)
    | split

theorem telWrite_keeps {s0 : State} {s k rec_} (h0 : Keeps s0 s) : Keeps s0 (telWrite s k rec_) := by
  unfold telWrite
  repeat' first
    | with_reducible first | assumption | apply State.orReg_keeps | apply State.count_keeps | apply busWriteMany_keeps
    | with_reducible apply State.setReg_keeps
    | (extract_lets +onlyGivenNames w;
        refine Keeps.cut (s0 := s0) w ?a ?b;
        (case' a => dsimp only [w]); (case' b => clear_value w; intro hw))
    | (extract_lets +onlyGivenNames w)
    | split
    | dsimp +zetaDelta only
    | ((with_reducible refine Keeps.isMk ?_ ?_); rfl)

theorem execTelemetryWindowEnd_keeps {s0 : State} {qid s} (h1 : Keeps s0 s) :
    KOut s0 (execTelemetryWindowEnd qid s) := by
  unfold execTelemetryWindowEnd
  repeat' first
    | with_reducible first | assumption | apply State.setEgq_keeps | apply telWrite_keeps | apply ok_keeps
    | intro _
    | (extract_lets +onlyGivenNames w)
    | split
    | ((with_reducible refine Keeps.isMk ?_ ?_); rfl)

theorem execAndi_keeps {s0 : State} {k gd ga imm s} (h4 : Keeps s0 s) : KOut s0 (execAndi k gd ga imm s) := by
  unfold execAndi
  repeat' with_reducible first | assumption | apply plain_keeps

theorem execCorridorSetDelete_keeps {s0 : State} {m corridor rest s} (h3 : Keeps s0 s) :
    KOut s0 (execCorridorSetDelete m corridor rest s) := by
  unfold execCorridorSetDelete
  repeat' with_reducible first | assumption | apply settings_keeps

theorem execAccWatchdog_keeps {s0 : State} {tile ref s} (h2 : Keeps s0 s) : KOut s0 (execAccWatchdog tile ref s) := by
  unfold execAccWatchdog
  repeat' first
    | with_reducible first | assumption | apply failJob_keeps | apply ok_keeps
    | intro _
    | (extract_lets +onlyGivenNames w)
    | split

theorem execTimeEventFire_keeps {s0 : State} {n s} (h1 : Keeps s0 s) : KOut s0 (execTimeEventFire n s) := by
  unfold execTimeEventFire
  repeat' first
    | with_reducible first | assumption | apply State.modTime_keeps | apply State.setField_keeps
    | with_reducible first | apply State.emit_keeps | apply dacLoad_keeps | apply ok_keeps
    | (extract_lets +onlyGivenNames w;
        refine Keeps.cut (s0 := s0) w ?a ?b;
        (case' a => dsimp only [w]); (case' b => clear_value w; intro hw))
    | (extract_lets +onlyGivenNames w)
    | split

theorem tileUp_keeps {s0 : State} {s t} (h0 : Keeps s0 s) : Keeps s0 (tileUp s t) := by
  unfold tileUp
  repeat' first
    | with_reducible first | assumption | apply settleCycles_keeps | apply State.modIsland_keeps
    | with_reducible first | apply setBucket_keeps | apply startPorts_keeps | apply bootQueues_keeps
    | (extract_lets +onlyGivenNames w;
        refine Keeps.cut (s0 := s0) w ?a ?b;
        (case' a => dsimp only [w]); (case' b => clear_value w; intro hw))
    | (extract_lets +onlyGivenNames w)
    | split
    | dsimp +zetaDelta only

theorem deviceUp_keeps {s0 : State} {s} (h0 : Keeps s0 s) : Keeps s0 (deviceUp s) := by
  unfold deviceUp
  repeat' first
    | with_reducible first | assumption | apply tileUp_keeps | apply lightIsland_keeps | apply State.count_keeps
    | with_reducible first | apply State.setReg_keeps | apply powerBusy_keeps | apply State.setField_keeps
    | with_reducible first | apply State.modPower_keeps | apply endIdle_keeps | apply spurUp_keeps
    | with_reducible first | apply State.raise_keeps | apply State.modTime_keeps | apply powerRecord_keeps
    | with_reducible apply Keeps.foldl
    | intro _
    | (extract_lets +onlyGivenNames w)
    | split

theorem execLogicReady_keeps {s0 : State} {island s} (h1 : Keeps s0 s) : KOut s0 (execLogicReady island s) := by
  unfold execLogicReady
  repeat' first
    | with_reducible first | assumption | apply signal_keeps | apply deviceUp_keeps | apply moveOn_keeps
    | with_reducible first | apply tileUp_keeps | apply ok_keeps
    | (extract_lets +onlyGivenNames w;
        refine Keeps.cut (s0 := s0) w ?a ?b;
        (case' a => dsimp only [w]); (case' b => clear_value w; intro hw))
    | (extract_lets +onlyGivenNames w)
    | split

theorem relocate_keeps {s0 : State} {s n m eraseOk} (h0 : Keeps s0 s) : Keeps s0 (relocate s n m eraseOk) := by
  unfold relocate
  repeat' first
    | with_reducible first | assumption | apply eraseBlock_keeps | apply moveData_keeps | apply setBlock_keeps
    | split

theorem refreshBlock_keeps {s0 : State} {s n eraseOk} (h0 : Keeps s0 s) : Keeps s0 (refreshBlock s n eraseOk) := by
  unfold refreshBlock
  repeat' first
    | with_reducible first | assumption | apply relocate_keeps | apply State.count_keeps
    | split

theorem patrolResult_keeps {s0 : State} {s n stage corrected authOk eraseOk records} (h0 : Keeps s0 s) :
    Keeps s0 (patrolResult s n stage corrected authOk eraseOk records) := by
  unfold patrolResult
  repeat' first
    | with_reducible first | assumption | apply storRecord_keeps | apply retireBlock_keeps | apply setBlock_keeps
    | with_reducible apply refreshBlock_keeps
    | (extract_lets +onlyGivenNames w;
        refine Keeps.cut (s0 := s0) w ?a ?b;
        (case' a => dsimp only [w]); (case' b => clear_value w; intro hw))
    | (extract_lets +onlyGivenNames w)
    | split
    | dsimp only [State.modBoot, State.modStor]
    | dsimp +zetaDelta only
    | ((with_reducible refine Keeps.isMk ?_ ?_); rfl)

theorem countRead_keeps {s0 : State} {stage authOk s} (h2 : Keeps s0 s) : Keeps s0 (countRead stage authOk s) := by
  unfold countRead
  repeat' first
    | with_reducible first | assumption | apply State.count64_keeps | apply State.count_keeps
    | with_reducible apply State.orReg_keeps
    | (extract_lets +onlyGivenNames w;
        refine Keeps.cut (s0 := s0) w ?a ?b;
        (case' a => dsimp only [w]); (case' b => clear_value w; intro hw))
    | (extract_lets +onlyGivenNames w)
    | split
    | dsimp +zetaDelta only

theorem execNandPatrol_keeps {s0 : State} {block stage corrected authOk eraseOk records s} (h6 : Keeps s0 s) :
    KOut s0 (execNandPatrol block stage corrected authOk eraseOk records s) := by
  unfold execNandPatrol
  repeat' first
    | with_reducible first | assumption | apply dutyDone_keeps | apply patrolResult_keeps | apply countRead_keeps
    | with_reducible apply ok_keeps
    | split

theorem execSpurEnergyDetect_keeps {s0 : State} {port s} (h1 : Keeps s0 s) :
    KOut s0 (execSpurEnergyDetect port s) := by
  unfold execSpurEnergyDetect
  repeat' first
    | with_reducible first | assumption | apply State.modSpur_keeps | apply spurWake_keeps | apply ok_keeps
    | (extract_lets +onlyGivenNames w;
        refine Keeps.cut (s0 := s0) w ?a ?b;
        (case' a => dsimp only [w]); (case' b => clear_value w; intro hw))
    | (extract_lets +onlyGivenNames w)
    | split

theorem copyPage_keeps {s0 : State} {programOk eraseOk s} (h2 : Keeps s0 s) :
    Keeps s0 (copyPage programOk eraseOk s) := by
  unfold copyPage
  repeat' first
    | with_reducible first | assumption | apply journalBlock_keeps | apply programBlock_keeps
    | with_reducible refine Keeps.ofPair (by assumption) ?_
    | (extract_lets +onlyGivenNames w)
    | split
    | dsimp only [State.modBoot, State.modStor]
    | dsimp +zetaDelta only
    | ((with_reducible refine Keeps.isMk ?_ ?_); rfl)

theorem execVcmulj_keeps {s0 : State} {k vd va vb ty mode s} (h6 : Keeps s0 s) :
    KOut s0 (execVcmulj k vd va vb ty mode s) := by
  unfold execVcmulj
  repeat' with_reducible first | assumption | apply vcmulOp_keeps

theorem execEventFetch_keeps {s0 : State} {m start count s} (h3 : Keeps s0 s) :
    KOut s0 (execEventFetch m start count s) := by
  unfold execEventFetch
  repeat' first
    | with_reducible first | assumption | apply serve_keeps | apply refuse_keeps | apply ok_keeps
    | intro _
    | (extract_lets +onlyGivenNames w)
    | split

theorem execConvDec_keeps {s0 : State} {tile ref s} (h2 : Keeps s0 s) : KOut s0 (execConvDec tile ref s) := by
  unfold execConvDec
  repeat' with_reducible first | assumption | apply runJob_keeps | apply simple_keeps

theorem execPauseExpire_keeps {s0 : State} {iot port pcp s} (h3 : Keeps s0 s) :
    KOut s0 (execPauseExpire iot port pcp s) := by
  unfold execPauseExpire
  repeat' first
    | with_reducible first | assumption | apply pauseEnd_keeps | apply ok_keeps
    | split

theorem execFdiv_keeps {s0 : State} {k fd fa fb dbl s} (h5 : Keeps s0 s) : KOut s0 (execFdiv k fd fa fb dbl s) := by
  unfold execFdiv
  repeat' with_reducible first | assumption | apply fbin_keeps

theorem execRetentionMonitorLatch_keeps {s0 : State} {island mv s} (h2 : Keeps s0 s) :
    KOut s0 (execRetentionMonitorLatch island mv s) := by
  unfold execRetentionMonitorLatch
  repeat' first
    | with_reducible first | assumption | apply State.setField_keeps | apply ok_keeps
    | split

theorem execMinu_keeps {s0 : State} {k gd ga gb s} (h4 : Keeps s0 s) : KOut s0 (execMinu k gd ga gb s) := by
  unfold execMinu
  repeat' with_reducible first | assumption | apply binOp_keeps

theorem sendDelta_keeps {s0 : State} {s n r} (h0 : Keeps s0 s) : Keeps s0 (sendDelta s n r) := by
  unfold sendDelta
  repeat' first
    | with_reducible first | assumption | apply sendBlob_keeps | apply peerSend_keeps | apply modExport_keeps
    | (extract_lets +onlyGivenNames w;
        refine Keeps.cut (s0 := s0) w ?a ?b;
        (case' a => dsimp only [w]); (case' b => clear_value w; intro hw))
    | (extract_lets +onlyGivenNames w)
    | split

theorem exportStep_keeps {s0 : State} {s n r b t} (h0 : Keeps s0 s) : Keeps s0 (exportStep s n r b t) := by
  unfold exportStep
  repeat' first
    | with_reducible first | assumption | apply putPair_keeps | apply sendDelta_keeps | apply modExport_keeps
    | with_reducible apply answerExport_keeps
    | (extract_lets +onlyGivenNames w;
        refine Keeps.cut (s0 := s0) w ?a ?b;
        (case' a => dsimp only [w]); (case' b => clear_value w; intro hw))
    | (extract_lets +onlyGivenNames w)
    | split

theorem execCqResultArrive_keeps {s0 : State} {tile core tag s} (h3 : Keeps s0 s) :
    KOut s0 (execCqResultArrive tile core tag s) := by
  unfold execCqResultArrive
  repeat' first
    | with_reducible first | assumption | apply State.setReg_keeps | apply State.setCore_keeps
    | with_reducible first | apply State.count_keeps | apply ok_keeps
    | (extract_lets +onlyGivenNames w)
    | split

theorem execPauseFrameRepeat_keeps {s0 : State} {qid s} (h1 : Keeps s0 s) : KOut s0 (execPauseFrameRepeat qid s) := by
  unfold execPauseFrameRepeat
  repeat' first
    | with_reducible first | assumption | apply pauseOut_keeps | apply State.setQueue_keeps | apply ok_keeps
    | (extract_lets +onlyGivenNames w)
    | split

theorem execPolarDec_keeps {s0 : State} {tile ref s} (h2 : Keeps s0 s) : KOut s0 (execPolarDec tile ref s) := by
  unfold execPolarDec
  repeat' with_reducible first | assumption | apply runJob_keeps | apply simple_keeps

theorem execVwiden_keeps {s0 : State} {k vd va sh ty mode s} (h6 : Keeps s0 s) :
    KOut s0 (execVwiden k vd va sh ty mode s) := by
  unfold execVwiden
  repeat' with_reducible first | assumption | apply vins_keeps

theorem execFmovf_keeps {s0 : State} {k fd ga half s} (h4 : Keeps s0 s) : KOut s0 (execFmovf k fd ga half s) := by
  unfold execFmovf
  repeat' with_reducible first | assumption | apply plain_keeps

theorem execFcvti_keeps {s0 : State} {k gd fa dbl s} (h4 : Keeps s0 s) : KOut s0 (execFcvti k gd fa dbl s) := by
  unfold execFcvti
  repeat' with_reducible first | assumption | apply plain_keeps

theorem execPmbusTrim_keeps {s0 : State} {vinMv s} (h1 : Keeps s0 s) : KOut s0 (execPmbusTrim vinMv s) := by
  unfold execPmbusTrim
  repeat' first
    | with_reducible first | assumption | apply State.modPower_keeps | apply State.setReg_keeps
    | with_reducible first | apply trimEntry_keeps | apply ok_keeps | apply Keeps.foldl
    | (extract_lets +onlyGivenNames w;
        refine Keeps.cut (s0 := s0) w ?a ?b;
        (case' a => dsimp only [w]); (case' b => clear_value w; intro hw))
    | (extract_lets +onlyGivenNames w)
    | split

theorem satOp_keeps {s0 : State} {op k gd ga gb s} (h5 : Keeps s0 s) : KOut s0 (satOp op k gd ga gb s) := by
  unfold satOp
  repeat' with_reducible first | assumption | apply plain_keeps

theorem execSubs_keeps {s0 : State} {k gd ga gb s} (h4 : Keeps s0 s) : KOut s0 (execSubs k gd ga gb s) := by
  unfold execSubs
  repeat' with_reducible first | assumption | apply satOp_keeps

theorem vfbin_keeps {s0 : State} {op k vd va vb ty s} (h6 : Keeps s0 s) : KOut s0 (vfbin op k vd va vb ty s) := by
  unfold vfbin
  repeat' with_reducible first | assumption | apply vins_keeps

theorem execVfsub_keeps {s0 : State} {k vd va vb ty s} (h5 : Keeps s0 s) : KOut s0 (execVfsub k vd va vb ty s) := by
  unfold execVfsub
  repeat' with_reducible first | assumption | apply vfbin_keeps

theorem execSynceSelect_keeps {s0 : State} {ql s} (h1 : Keeps s0 s) : KOut s0 (execSynceSelect ql s) := by
  unfold execSynceSelect
  repeat' first
    | with_reducible first | assumption | apply State.setField_keeps | apply State.takeFresh_keeps | apply ok_keeps
    | intro _
    | (extract_lets +onlyGivenNames w)
    | split

theorem noteLoss_keeps {s0 : State} {s k p x3} (h0 : Keeps s0 s) : Keeps s0 (noteLoss s k p x3) := by
  unfold noteLoss
  repeat' first
    | with_reducible first | assumption | apply State.orReg_keeps | apply sdStat_keeps | apply State.count_keeps
    | with_reducible apply State.setField_keeps
    | split

theorem execLinkDown_keeps {s0 : State} {iot port loss s} (h3 : Keeps s0 s) :
    KOut s0 (execLinkDown iot port loss s) := by
  unfold execLinkDown
  repeat' first
    | with_reducible first | assumption | apply enterStep_keeps | apply noteLoss_keeps | apply dropLink_keeps
    | with_reducible apply ok_keeps
    | split

theorem execClogHarvest_keeps {s0 : State} {tile stuck s} (h2 : Keeps s0 s) :
    KOut s0 (execClogHarvest tile stuck s) := by
  unfold execClogHarvest
  repeat' first
    | with_reducible first | assumption | apply dutyDone_keeps | apply fuseUpdate_keeps | apply harvestOne_keeps
    | with_reducible first | apply ok_keeps | apply Keeps.foldl
    | (extract_lets +onlyGivenNames w)
    | split

theorem createRun_keeps {s0 : State} {s n b anchor} (h0 : Keeps s0 s) : Keeps s0 (createRun s n b anchor) := by
  unfold createRun
  repeat' with_reducible first | assumption | apply startRun_keeps | apply installWin_keeps | apply State.takeFresh_keeps

theorem execRunCreate_keeps {s0 : State} {m b s} (h2 : Keeps s0 s) : KOut s0 (execRunCreate m b s) := by
  unfold execRunCreate
  repeat' first
    | with_reducible first | assumption | apply refuse_keeps | apply createRun_keeps | apply State.raise_keeps
    | with_reducible first | apply serve_keeps | apply ok_keeps
    | intro _
    | (extract_lets +onlyGivenNames w)
    | split
    | dsimp only [State.modBoot, State.modStor]

theorem execRing_keeps {s0 : State} {r tile ch s} (h3 : Keeps s0 s) : KOut s0 (execRing r tile ch s) := by
  unfold execRing
  repeat' with_reducible first | assumption | apply bell_keeps

theorem execExportReplyReceive_keeps {s0 : State} {corridor hiEnd tagOk status peerRun s} (h5 : Keeps s0 s) :
    KOut s0 (execExportReplyReceive corridor hiEnd tagOk status peerRun s) := by
  unfold execExportReplyReceive
  repeat' first
    | with_reducible first | assumption | apply peerDrop_keeps | apply State.setPeer_keeps | apply modExport_keeps
    | with_reducible first | apply State.modRun_keeps | apply exportFails_keeps | apply ok_keeps
    | (extract_lets +onlyGivenNames w;
        refine Keeps.cut (s0 := s0) w ?a ?b;
        (case' a => dsimp only [w]); (case' b => clear_value w; intro hw))
    | (extract_lets +onlyGivenNames w)
    | split

theorem execEgressCalendarPop_keeps {s0 : State} {qid s} (h1 : Keeps s0 s) :
    KOut s0 (execEgressCalendarPop qid s) := by
  unfold execEgressCalendarPop
  repeat' first
    | with_reducible first | assumption | apply peekHead_keeps | apply noteDepth_keeps | apply calendarTake_keeps
    | with_reducible first | apply badEntry_keeps | apply dropHead_keeps | apply ok_keeps
    | (extract_lets +onlyGivenNames w;
        refine Keeps.cut2 (s0 := s0) w ?a ?b;
        (case' a => dsimp only [w]); (case' b => clear_value w; intro hw))
    | split

theorem execDacClrNRelease_keeps {s0 : State} {s} (h0 : Keeps s0 s) : KOut s0 (execDacClrNRelease s) := by
  unfold execDacClrNRelease
  repeat' first
    | with_reducible first | assumption | apply ok_keeps
    | (extract_lets +onlyGivenNames w)
    | dsimp +zetaDelta only
    | ((with_reducible refine Keeps.isMk ?_ ?_); rfl)

theorem execTelemetryRead_keeps {s0 : State} {m from_ count stride s} (h4 : Keeps s0 s) :
    KOut s0 (execTelemetryRead m from_ count stride s) := by
  unfold execTelemetryRead
  repeat' first
    | with_reducible first | assumption | apply serve_keeps | apply unguarded_keeps | apply refuse_keeps
    | with_reducible apply ok_keeps
    | intro _
    | (extract_lets +onlyGivenNames w)
    | split

theorem execCoreTaskStart_keeps {s0 : State} {tile core s} (h2 : Keeps s0 s) :
    KOut s0 (execCoreTaskStart tile core s) := by
  unfold execCoreTaskStart
  repeat' first
    | with_reducible first | assumption | apply setRunning_keeps | apply State.setCore_keeps | apply ok_keeps
    | (extract_lets +onlyGivenNames w)
    | split

theorem execCancel_keeps {s0 : State} {tile core tag s} (h3 : Keeps s0 s) : KOut s0 (execCancel tile core tag s) := by
  unfold execCancel
  repeat' first
    | with_reducible first | assumption | apply modCq_keeps | apply State.count_keeps | apply dropJob_keeps
    | with_reducible apply ok_keeps
    | (extract_lets +onlyGivenNames w;
        refine Keeps.cut (s0 := s0) w ?a ?b;
        (case' a => dsimp only [w]); (case' b => clear_value w; intro hw))
    | (extract_lets +onlyGivenNames w)
    | split

theorem execStaccCz_keeps {s0 : State} {k gd n rs s} (h4 : Keeps s0 s) : KOut s0 (execStaccCz k gd n rs s) := by
  unfold execStaccCz
  repeat' with_reducible first | assumption | apply plain_keeps

theorem rungConsequences_keeps {s0 : State} {s p} (h0 : Keeps s0 s) : Keeps s0 (rungConsequences s p) := by
  unfold rungConsequences
  repeat' first
    | with_reducible first | assumption | apply State.modCor_keeps | apply reportShortfall_keeps | apply reshed_keeps
    | with_reducible first | apply ok_keeps | apply Keeps.foldl
    | intro _
    | (extract_lets +onlyGivenNames w)
    | split

theorem execFcvt_keeps {s0 : State} {k fd fa dbl s} (h4 : Keeps s0 s) : KOut s0 (execFcvt k fd fa dbl s) := by
  unfold execFcvt
  repeat' with_reducible first | assumption | apply plain_keeps

theorem execLaneTestDurationEnd_keeps {s0 : State} {iot lane bits errs s} (h4 : Keeps s0 s) :
    KOut s0 (execLaneTestDurationEnd iot lane bits errs s) := by
  unfold execLaneTestDurationEnd
  repeat' first
    | with_reducible first | assumption | apply testStop_keeps | apply prbsCount_keeps | apply ok_keeps
    | split

theorem loadReply_keeps {s0 : State} {slot img s} (h2 : Keeps s0 s) : Keeps s0 (loadReply slot img s).state := by
  unfold loadReply
  repeat' first
    | with_reducible first | assumption | apply refuse_keeps | apply extendMeas_keeps | apply placeImage_keeps
    | split

theorem execVgather_keeps {s0 : State} {k vd an va ty scale s} (h6 : Keeps s0 s) :
    KOut s0 (execVgather k vd an va ty scale s) := by
  unfold execVgather
  repeat' first
    | with_reducible first | assumption | apply issue_keeps | apply startLoad_keeps | apply syncExc_keeps
    | with_reducible apply ok_keeps
    | intro _
    | (extract_lets +onlyGivenNames w)
    | split

theorem execVsub_keeps {s0 : State} {k vd va vb ty mode s} (h6 : Keeps s0 s) :
    KOut s0 (execVsub k vd va vb ty mode s) := by
  unfold execVsub
  repeat' with_reducible first | assumption | apply vbin_keeps

theorem execVscatter_keeps {s0 : State} {k vs an va ty scale s} (h6 : Keeps s0 s) :
    KOut s0 (execVscatter k vs an va ty scale s) := by
  unfold execVscatter
  repeat' first
    | with_reducible first | assumption | apply done_keeps | apply issue_keeps | apply putStore_keeps
    | with_reducible first | apply syncExc_keeps | apply ok_keeps | apply Keeps.foldl
    | intro _
    | (extract_lets +onlyGivenNames w)
    | split

theorem execPmbusPoll_keeps {s0 : State} {entry ans s} (h2 : Keeps s0 s) : KOut s0 (execPmbusPoll entry ans s) := by
  unfold execPmbusPoll
  repeat' first
    | with_reducible first | assumption | apply pmbPoll_keeps | apply ok_keeps
    | split

theorem gateUpdate_keeps {s0 : State} {s t c} (h0 : Keeps s0 s) : Keeps s0 (gateUpdate s t c) := by
  unfold gateUpdate
  repeat' with_reducible first | assumption | apply State.setField_keeps

theorem execStreamGateMessage_keeps {s0 : State} {tile ch s} (h2 : Keeps s0 s) :
    KOut s0 (execStreamGateMessage tile ch s) := by
  unfold execStreamGateMessage
  repeat' first
    | with_reducible first | assumption | apply gateUpdate_keeps | apply issueFetch_keeps | apply ok_keeps
    | (extract_lets +onlyGivenNames w;
        refine Keeps.cut (s0 := s0) w ?a ?b;
        (case' a => dsimp only [w]); (case' b => clear_value w; intro hw))
    | (extract_lets +onlyGivenNames w)
    | split

theorem execPrbsCounterClear_keeps {s0 : State} {r iot lane value s} (h4 : Keeps s0 s) :
    KOut s0 (execPrbsCounterClear r iot lane value s) := by
  unfold execPrbsCounterClear
  repeat' first
    | with_reducible first | assumption | apply State.answer_keeps | apply prbsCtrlWrite_keeps | apply ok_keeps
    | split

theorem execMin__keeps {s0 : State} {k gd ga gb s} (h4 : Keeps s0 s) : KOut s0 (execMin_ k gd ga gb s) := by
  unfold execMin_
  repeat' with_reducible first | assumption | apply binOp_keeps

theorem execRxWindowClose_keeps {s0 : State} {ru carrier frame slot symbol s} (h5 : Keeps s0 s) :
    KOut s0 (execRxWindowClose ru carrier frame slot symbol s) := by
  unfold execRxWindowClose
  repeat' first
    | with_reducible first | assumption | apply release_keeps | apply setUpRec_keeps | apply beginRec_keeps
    | with_reducible apply ok_keeps
    | (extract_lets +onlyGivenNames w)
    | split

end Sys2Proof.Machine
end

