-- ==== Sys2Proof/Laws/Keeps09.lean ====
section
/-! SUPPORT. Each shared operation and each command keeps what `Keeps` says (part 9 of 10, in the order in which
they use one another). -/

namespace Sys2Proof.Machine

theorem execNeg_keeps {s0 : State} {k gd ga f s} (h4 : Keeps s0 s) : KOut s0 (execNeg k gd ga f s) := by
  unfold execNeg
  repeat' with_reducible first | assumption | apply plain_keeps

theorem helloAtPort_keeps {s0 : State} {m p slot hostNonce encKey s} (h5 : Keeps s0 s) :
    Keeps s0 (helloAtPort m p slot hostNonce encKey s) := by
  unfold helloAtPort
  repeat' first
    | with_reducible first | assumption | apply helloNone_keeps | apply helloAnswer_keeps | apply endSession_keeps
    | (extract_lets +onlyGivenNames w)
    | split

theorem execOscReady_keeps {s0 : State} {island s} (h1 : Keeps s0 s) : KOut s0 (execOscReady island s) := by
  unfold execOscReady
  repeat' first
    | with_reducible first | assumption | apply signal_keeps | apply ok_keeps
    | split

theorem execTimeStep_keeps {s0 : State} {s} (h0 : Keeps s0 s) : KOut s0 (execTimeStep s) := by
  unfold execTimeStep
  repeat' first
    | with_reducible first | assumption | apply gafferStep_keeps | apply ok_keeps
    | split

theorem execGmskMlse_keeps {s0 : State} {tile ref s} (h2 : Keeps s0 s) : KOut s0 (execGmskMlse tile ref s) := by
  unfold execGmskMlse
  repeat' first
    | with_reducible first | assumption | apply runJob_keeps | apply listedRecs_keeps
    | intro _
    | (extract_lets +onlyGivenNames w;
        refine Keeps.cut2 (s0 := s0) w ?a ?b;
        (case' a => dsimp only [w]); (case' b => clear_value w; intro hw))
    | split

theorem exportEnd_keeps {s0 : State} {s n r} (h0 : Keeps s0 s) : Keeps s0 (exportEnd s n r) := by
  unfold exportEnd
  repeat' first
    | with_reducible first | assumption | apply releaseRun_keeps | apply dropExport_keeps
    | split

theorem pprCounts_keeps {s0 : State} {s t} (h0 : Keeps s0 s) : Keeps s0 (pprCounts s t) := by
  unfold pprCounts
  repeat' with_reducible first | assumption | apply State.setReg_keeps

theorem stackUp_keeps {s0 : State} {x0 x1} (h0 : Keeps s0 x0) : Keeps s0 (stackUp x0 x1) := by
  unfold stackUp
  refine pprCounts_keeps (pprCounts_keeps (boot_keeps (h0.trans ⟨⟨rfl, rfl, id, fun _ x a b => ⟨x, a, rfl, b, id⟩, Nat.le_refl _, Nat.le_refl _, List.prefix_refl _, List.prefix_refl _⟩, filter_wf _, id, id, id⟩) id id (fun _ x a b => ⟨x, a, rfl, b, id⟩) (Nat.le_refl _) rfl))

theorem execVrotj_keeps {s0 : State} {k vd va ty mode s} (h5 : Keeps s0 s) :
    KOut s0 (execVrotj k vd va ty mode s) := by
  unfold execVrotj
  repeat' with_reducible first | assumption | apply vcun_keeps

theorem execTimeConfigHoldover_keeps {s0 : State} {m value rest s} (h3 : Keeps s0 s) :
    KOut s0 (execTimeConfigHoldover m value rest s) := by
  unfold execTimeConfigHoldover
  repeat' with_reducible first | assumption | apply timeSetting_keeps

theorem execVins_keeps {s0 : State} {k vd ga n ty s} (h5 : Keeps s0 s) : KOut s0 (execVins k vd ga n ty s) := by
  unfold execVins
  repeat' with_reducible first | assumption | apply vins_keeps

theorem execCoreWaitTimeout_keeps {s0 : State} {tile core s} (h2 : Keeps s0 s) :
    KOut s0 (execCoreWaitTimeout tile core s) := by
  unfold execCoreWaitTimeout
  repeat' first
    | with_reducible first | assumption | apply State.setCore_keeps | apply ok_keeps
    | (extract_lets +onlyGivenNames w)
    | split

theorem execFmin_keeps {s0 : State} {k fd fa fb dbl s} (h5 : Keeps s0 s) : KOut s0 (execFmin k fd fa fb dbl s) := by
  unfold execFmin
  repeat' with_reducible first | assumption | apply fbin_keeps

theorem execPrachSearch_keeps {s0 : State} {tile ref peaks s} (h3 : Keeps s0 s) :
    KOut s0 (execPrachSearch tile ref peaks s) := by
  unfold execPrachSearch
  repeat' first
    | with_reducible first | assumption | apply searchJob_keeps
    | intro _

theorem execPolarEnc_keeps {s0 : State} {tile ref s} (h2 : Keeps s0 s) : KOut s0 (execPolarEnc tile ref s) := by
  unfold execPolarEnc
  repeat' with_reducible first | assumption | apply runJob_keeps | apply simple_keeps

theorem execCmatmul_keeps {s0 : State} {tile ref s} (h2 : Keeps s0 s) : KOut s0 (execCmatmul tile ref s) := by
  unfold execCmatmul
  repeat' with_reducible first | assumption | apply helperJob_keeps

theorem importStep_keeps {s0 : State} {s n r b t} (h0 : Keeps s0 s) : Keeps s0 (importStep s n r b t) := by
  unfold importStep
  repeat' first
    | with_reducible first | assumption | apply State.setRun_keeps | apply installWin_keeps | apply putPair_keeps
    | with_reducible first | apply putMask_keeps | apply ctxPut_keeps | apply pushStatus_keeps
    | (extract_lets +onlyGivenNames w;
        refine Keeps.cut (s0 := s0) w ?a ?b;
        (case' a => dsimp only [w]); (case' b => clear_value w; intro hw))
    | (extract_lets +onlyGivenNames w)
    | split

theorem execNocWrite_keeps {s0 : State} {r cls tag req addr data s} (h6 : Keeps s0 s) :
    KOut s0 (execNocWrite r cls tag req addr data s) := by
  unfold execNocWrite
  repeat' first
    | with_reducible first | assumption | apply refuseAtPort_keeps | apply carry_keeps | apply busWrite_keeps
    | with_reducible first | apply respond_keeps | apply State.answer_keeps | apply ok_keeps
    | intro _
    | (extract_lets +onlyGivenNames w;
        refine Keeps.cut2 (s0 := s0) w ?a ?b;
        (case' a => dsimp only [w]); (case' b => clear_value w; intro hw))
    | (extract_lets +onlyGivenNames w)
    | split

theorem signalDone_keeps {s0 : State} {s t c} (h0 : Keeps s0 s) : Keeps s0 (signalDone s t c) := by
  unfold signalDone
  repeat' first
    | with_reducible first | assumption | apply modChan_keeps | apply setAR_keeps | apply chNext_keeps
    | (extract_lets +onlyGivenNames w;
        refine Keeps.cut (s0 := s0) w ?a ?b;
        (case' a => dsimp only [w]); (case' b => clear_value w; intro hw))
    | (extract_lets +onlyGivenNames w)
    | split
    | dsimp +zetaDelta only

theorem takeAnswer_keeps {s0 : State} {x s} (h1 : Keeps s0 s) : Keeps s0 (takeAnswer x s) := by
  unfold takeAnswer
  repeat' first
    | with_reducible assumption
    | (extract_lets +onlyGivenNames w)
    | dsimp +zetaDelta only
    | ((with_reducible refine Keeps.isMk ?_ ?_); rfl)

theorem dropAnswer_keeps {s0 : State} {t s} (h1 : Keeps s0 s) : Keeps s0 (dropAnswer t s) := by
  unfold dropAnswer
  repeat' with_reducible first | assumption | apply State.orReg_keeps | apply State.count_keeps

theorem execNocResponse_keeps {s0 : State} {dst req tag s} (h3 : Keeps s0 s) :
    KOut s0 (execNocResponse dst req tag s) := by
  unfold execNocResponse
  repeat' first
    | with_reducible first | assumption | apply takeAnswer_keeps | apply dropAnswer_keeps | apply State.answer_keeps
    | with_reducible apply ok_keeps
    | (extract_lets +onlyGivenNames w;
        refine Keeps.cut (s0 := s0) w ?a ?b;
        (case' a => dsimp only [w]); (case' b => clear_value w; intro hw))
    | split

theorem execSemRenew_keeps {s0 : State} {m sem leaseMs s} (h3 : Keeps s0 s) :
    KOut s0 (execSemRenew m sem leaseMs s) := by
  unfold execSemRenew
  repeat' first
    | with_reducible first | assumption | apply semOp_keeps | apply refuse_keeps | apply semReply_keeps
    | with_reducible apply grant_keeps
    | intro _
    | (extract_lets +onlyGivenNames w)
    | split

theorem execMovc_keeps {s0 : State} {k toReg g creg s} (h4 : Keeps s0 s) : KOut s0 (execMovc k toReg g creg s) := by
  unfold execMovc
  repeat' first
    | with_reducible first | assumption | apply coreRead_keeps | apply coreWrite_keeps | apply done_keeps
    | with_reducible first | apply issue_keeps | apply syncExc_keeps | apply ok_keeps
    | intro _
    | (extract_lets +onlyGivenNames w)
    | split

theorem execChest_keeps {s0 : State} {tile ref s} (h2 : Keeps s0 s) : KOut s0 (execChest tile ref s) := by
  unfold execChest
  repeat' first
    | with_reducible first | assumption | apply runJob_keeps | apply jobRecs_keeps | apply jobRead_keeps
    | intro _
    | (extract_lets +onlyGivenNames w;
        refine Keeps.cut2 (s0 := s0) w ?a ?b;
        (case' a => dsimp only [w]); (case' b => clear_value w; intro hw))
    | (extract_lets +onlyGivenNames w)
    | split

theorem execTimingBlock_keeps {s0 : State} {port t1 t4 returned asym s} (h5 : Keeps s0 s) :
    KOut s0 (execTimingBlock port t1 t4 returned asym s) := by
  unfold execTimingBlock
  repeat' first
    | with_reducible first | assumption | apply State.modSpur_keeps | apply sendTiming_keeps
    | with_reducible first | apply State.setReg_keeps | apply ok_keeps
    | (extract_lets +onlyGivenNames w;
        refine Keeps.cut (s0 := s0) w ?a ?b;
        (case' a => dsimp only [w]); (case' b => clear_value w; intro hw))
    | (extract_lets +onlyGivenNames w)
    | split

theorem execFabLoad_keeps {s0 : State} {m fab slot drainMs s} (h4 : Keeps s0 s) :
    KOut s0 (execFabLoad m fab slot drainMs s) := by
  unfold execFabLoad
  repeat' first
    | with_reducible first | assumption | apply begin__keeps | apply refuse_keeps | apply fabBegin_keeps
    | with_reducible first | apply ok_keeps | apply KSum.inl_ | apply KSum.inr_
    | intro _
    | (extract_lets +onlyGivenNames w)
    | split

theorem execDeadlineHard_keeps {s0 : State} {tile core s} (h2 : Keeps s0 s) :
    KOut s0 (execDeadlineHard tile core s) := by
  unfold execDeadlineHard
  repeat' first
    | with_reducible first | assumption | apply setRunning_keeps | apply State.setCore_keeps | apply ok_keeps
    | (extract_lets +onlyGivenNames w)
    | split

theorem execAddi_keeps {s0 : State} {k gd ga imm s} (h4 : Keeps s0 s) : KOut s0 (execAddi k gd ga imm s) := by
  unfold execAddi
  repeat' with_reducible first | assumption | apply plain_keeps

theorem steerCode_keeps {s0 : State} {s acc} (h0 : Keeps s0 s) : Keeps s0 (steerCode s acc) := by
  unfold steerCode
  repeat' first
    | with_reducible first | assumption | apply State.modTime_keeps | apply State.setReg_keeps
    | with_reducible first | apply dacCodeWrite_keeps | apply ok_keeps
    | intro _
    | (extract_lets +onlyGivenNames w)
    | split

theorem execHoldoverRamp_keeps {s0 : State} {s} (h0 : Keeps s0 s) : KOut s0 (execHoldoverRamp s) := by
  unfold execHoldoverRamp
  repeat' first
    | with_reducible first | assumption | apply steerCode_keeps | apply State.modTime_keeps | apply ok_keeps
    | split

theorem execTurboDec_keeps {s0 : State} {tile ref s} (h2 : Keeps s0 s) : KOut s0 (execTurboDec tile ref s) := by
  unfold execTurboDec
  repeat' first
    | with_reducible first | assumption | apply runJob_keeps | apply softDecode_keeps | apply ok_keeps
    | intro _
    | split

theorem execFabTargetAnswer_keeps {s0 : State} {fab id data s} (h3 : Keeps s0 s) :
    KOut s0 (execFabTargetAnswer fab id data s) := by
  unfold execFabTargetAnswer
  repeat' first
    | with_reducible first | assumption | apply State.answer_keeps | apply dropTarget_keeps | apply ok_keeps
    | split

theorem execVrsumw_keeps {s0 : State} {k vd va ty mode s} (h5 : Keeps s0 s) :
    KOut s0 (execVrsumw k vd va ty mode s) := by
  unfold execVrsumw
  repeat' with_reducible first | assumption | apply vins_keeps

theorem execHbmTraining_keeps {s0 : State} {q pass s} (h2 : Keeps s0 s) : KOut s0 (execHbmTraining q pass s) := by
  unfold execHbmTraining
  repeat' first
    | with_reducible first | assumption | apply lightIsland_keeps | apply lightTile_keeps | apply progress_keeps
    | with_reducible first | apply stackUp_keeps | apply State.journal_keeps | apply ok_keeps
    | (extract_lets +onlyGivenNames w;
        refine Keeps.cut (s0 := s0) w ?a ?b;
        (case' a => dsimp only [w]); (case' b => clear_value w; intro hw))
    | (extract_lets +onlyGivenNames w)
    | split
    | dsimp only [State.modBoot, State.modStor]
    | dsimp +zetaDelta only
    | ((with_reducible refine Keeps.isMk ?_ ?_); rfl)

theorem settleRach_keeps {s0 : State} {j s} (h1 : Keeps s0 s) : Keeps s0 (settleRach j s) := by
  unfold settleRach
  repeat' first
    | with_reducible first | assumption | apply writeReports_keeps | apply setJob_keeps
    | (extract_lets +onlyGivenNames w;
        refine Keeps.cut (s0 := s0) w ?a ?b;
        (case' a => dsimp only [w]); (case' b => clear_value w; intro hw))
    | split

theorem execFabInitiatorRequest_keeps {s0 : State} {fab port1 write addr n data s} (h6 : Keeps s0 s) :
    KOut s0 (execFabInitiatorRequest fab port1 write addr n data s) := by
  unfold execFabInitiatorRequest
  repeat' first
    | with_reducible first | assumption | apply writeAnswer_keeps | apply busRead_keeps | apply State.answer_keeps
    | with_reducible apply ok_keeps
    | (extract_lets +onlyGivenNames w;
        refine Keeps.cut2 (s0 := s0) w ?a ?b;
        (case' a => dsimp only [w]); (case' b => clear_value w; intro hw))
    | (extract_lets +onlyGivenNames w)
    | split

theorem execJournalRead_keeps {s0 : State} {m from_ count s} (h3 : Keeps s0 s) :
    KOut s0 (execJournalRead m from_ count s) := by
  unfold execJournalRead
  repeat' first
    | with_reducible first | assumption | apply serve_keeps | apply unguarded_keeps | apply refuse_keeps
    | with_reducible apply ok_keeps
    | intro _
    | (extract_lets +onlyGivenNames w)
    | split

theorem withRun_keeps {s0 : State} {n f s} (h1 : ∀ (y0 : Run) (y1 : State), Keeps s0 y1 → Keeps s0 (f y0 y1)) (h2 :
    Keeps s0 s) :
    Keeps s0 (withRun n f s) := by
  unfold withRun
  repeat' first
    | with_reducible first | assumption | apply h1
    | split

theorem qcInit_keeps {s0 : State} {s f q} (h0 : Keeps s0 s) : Keeps s0 (qcInit s f q) := by
  unfold qcInit
  repeat' with_reducible first | assumption | apply State.setReg_keeps

theorem execQueuePush_keeps {s0 : State} {p qid entry s} (h3 : Keeps s0 s) :
    KOut s0 (execQueuePush p qid entry s) := by
  unfold execQueuePush
  repeat' with_reducible first | assumption | apply pushFrom_keeps | apply ok_keeps

theorem execNetConfigSetPortAddr_keeps {s0 : State} {m index value rest s} (h4 : Keeps s0 s) :
    KOut s0 (execNetConfigSetPortAddr m index value rest s) := by
  unfold execNetConfigSetPortAddr
  repeat' with_reducible first | assumption | apply settings_keeps

theorem execVnarrow_keeps {s0 : State} {k vd va sh ty mode s} (h6 : Keeps s0 s) :
    KOut s0 (execVnarrow k vd va sh ty mode s) := by
  unfold execVnarrow
  repeat' with_reducible first | assumption | apply vins_keeps

theorem execCcholsolve_keeps {s0 : State} {tile ref s} (h2 : Keeps s0 s) : KOut s0 (execCcholsolve tile ref s) := by
  unfold execCcholsolve
  repeat' with_reducible first | assumption | apply runJob_keeps | apply simple_keeps

theorem execCarrierRemove_keeps {s0 : State} {m scope sindex carrier rest s} (h5 : Keeps s0 s) :
    KOut s0 (execCarrierRemove m scope sindex carrier rest s) := by
  unfold execCarrierRemove
  repeat' with_reducible first | assumption | apply settings_keeps

theorem confirmPending_keeps {s0 : State} {m p sigOk s} (h3 : Keeps s0 s) :
    Keeps s0 (confirmPending m p sigOk s) := by
  unfold confirmPending
  repeat' first
    | with_reducible first | assumption | apply State.setSess_keeps | apply State.respond_keeps
    | with_reducible apply State.send_keeps
    | (extract_lets +onlyGivenNames w;
        refine Keeps.cut (s0 := s0) w ?a ?b;
        (case' a => dsimp only [w]); (case' b => clear_value w; intro hw))
    | (extract_lets +onlyGivenNames w)
    | split

theorem vcmp_keeps {s0 : State} {p okForm k vd va vb ty s} (h7 : Keeps s0 s) :
    KOut s0 (vcmp p okForm k vd va vb ty s) := by
  unfold vcmp
  repeat' with_reducible first | assumption | apply vins_keeps

theorem execVcmpeq_keeps {s0 : State} {k vd va vb ty mode s} (h6 : Keeps s0 s) :
    KOut s0 (execVcmpeq k vd va vb ty mode s) := by
  unfold execVcmpeq
  repeat' with_reducible first | assumption | apply vcmp_keeps

theorem tickClock_keeps {s0 : State} {s} (h0 : Keeps s0 s) : Keeps s0 (tickClock s) := by
  unfold tickClock
  repeat' first
    | with_reducible assumption
    | (extract_lets +onlyGivenNames w)
    | dsimp +zetaDelta only
    | ((with_reducible refine Keeps.isMk ?_ ?_); rfl)

theorem shutLine_keeps {s0 : State} {fab line ds s} (h3 : Keeps s0 s) : Keeps s0 (shutLine fab line ds s) := by
  unfold shutLine
  repeat' first
    | with_reducible first | assumption | apply State.count_keeps | apply State.modFab_keeps | apply State.orReg_keeps
    | with_reducible first | apply State.raise_keeps | apply State.setField_keeps | apply State.setReg_keeps
    | with_reducible apply ok_keeps
    | intro _
    | (extract_lets +onlyGivenNames w)
    | split

theorem execLongLineContention_keeps {s0 : State} {fab line drivers s} (h3 : Keeps s0 s) :
    KOut s0 (execLongLineContention fab line drivers s) := by
  unfold execLongLineContention
  repeat' first
    | with_reducible first | assumption | apply shutLine_keeps | apply ok_keeps
    | intro _
    | (extract_lets +onlyGivenNames w)
    | split

theorem execAccJobComplete_keeps {s0 : State} {tile ref s} (h2 : Keeps s0 s) :
    KOut s0 (execAccJobComplete tile ref s) := by
  unfold execAccJobComplete
  repeat' first
    | with_reducible first | assumption | apply settleRach_keeps | apply jobRead_keeps | apply confirmed_keeps
    | with_reducible first | apply endJob_keeps | apply setJob_keeps | apply ok_keeps
    | (extract_lets +onlyGivenNames w;
        refine Keeps.cut (s0 := s0) w ?a ?b;
        (case' a => dsimp only [w]); (case' b => clear_value w; intro hw))
    | (extract_lets +onlyGivenNames w)
    | split
    | dsimp +zetaDelta only

theorem throttleDown_keeps {s0 : State} {s t} (h0 : Keeps s0 s) : Keeps s0 (throttleDown s t) := by
  unfold throttleDown
  repeat' first
    | with_reducible first | assumption | apply State.modPower_keeps | apply throttled_keeps | apply State.orReg_keeps
    | with_reducible apply throttleTo_keeps
    | (extract_lets +onlyGivenNames w;
        refine Keeps.cut (s0 := s0) w ?a ?b;
        (case' a => dsimp only [w]); (case' b => clear_value w; intro hw))
    | (extract_lets +onlyGivenNames w)
    | split

theorem recheckWindows_keeps {s0 : State} {s k} (h0 : Keeps s0 s) : Keeps s0 (recheckWindows s k) := by
  unfold recheckWindows
  repeat' first
    | with_reducible first | assumption | apply release_keeps | apply setUpRec_keeps | apply Keeps.foldl
    | intro _
    | (extract_lets +onlyGivenNames w)
    | split

theorem execAvsUpdate_keeps {s0 : State} {tile code s} (h2 : Keeps s0 s) : KOut s0 (execAvsUpdate tile code s) := by
  unfold execAvsUpdate
  repeat' first
    | with_reducible first | assumption | apply State.modPower_keeps | apply State.setReg_keeps | apply ok_keeps
    | (extract_lets +onlyGivenNames w)
    | split

theorem execFcmpg_keeps {s0 : State} {k gd fa fb dbl s} (h5 : Keeps s0 s) : KOut s0 (execFcmpg k gd fa fb dbl s) := by
  unfold execFcmpg
  repeat' with_reducible first | assumption | apply plain_keeps

theorem execNocReturn_keeps {s0 : State} {dst req tag s} (h3 : Keeps s0 s) :
    KOut s0 (execNocReturn dst req tag s) := by
  unfold execNocReturn
  repeat' first
    | with_reducible first | assumption | apply takeAnswer_keeps | apply dropAnswer_keeps | apply State.answer_keeps
    | with_reducible first | apply State.count_keeps | apply ok_keeps
    | (extract_lets +onlyGivenNames w;
        refine Keeps.cut (s0 := s0) w ?a ?b;
        (case' a => dsimp only [w]); (case' b => clear_value w; intro hw))
    | split

theorem execPeerSessionTimeout_keeps {s0 : State} {corridor hiEnd s} (h2 : Keeps s0 s) :
    KOut s0 (execPeerSessionTimeout corridor hiEnd s) := by
  unfold execPeerSessionTimeout
  repeat' first
    | with_reducible first | assumption | apply endPeer_keeps | apply ok_keeps
    | (extract_lets +onlyGivenNames w)
    | split

theorem execLdpcEnc_keeps {s0 : State} {tile ref s} (h2 : Keeps s0 s) : KOut s0 (execLdpcEnc tile ref s) := by
  unfold execLdpcEnc
  repeat' with_reducible first | assumption | apply encodeJob_keeps

theorem execTaskEndReport_keeps {s0 : State} {qid seq tile core s} (h4 : Keeps s0 s) :
    KOut s0 (execTaskEndReport qid seq tile core s) := by
  unfold execTaskEndReport
  repeat' first
    | with_reducible first | assumption | apply slotRelease_keeps | apply endWork_keeps | apply ok_keeps
    | (extract_lets +onlyGivenNames w)
    | split

theorem execVmul_keeps {s0 : State} {k vd va vb ty mode s} (h6 : Keeps s0 s) :
    KOut s0 (execVmul k vd va vb ty mode s) := by
  unfold execVmul
  repeat' with_reducible first | assumption | apply vbin_keeps

theorem execVcmul_keeps {s0 : State} {k vd va vb ty mode s} (h6 : Keeps s0 s) :
    KOut s0 (execVcmul k vd va vb ty mode s) := by
  unfold execVcmul
  repeat' with_reducible first | assumption | apply vcmulOp_keeps

theorem execPowerStateSetActive_keeps {s0 : State} {m settleUs rekeepUs s} (h3 : Keeps s0 s) :
    KOut s0 (execPowerStateSetActive m settleUs rekeepUs s) := by
  unfold execPowerStateSetActive
  repeat' first
    | with_reducible first | assumption | apply powerSet_keeps | apply powerSame_keeps | apply powerBusy_keeps
    | with_reducible first | apply State.setField_keeps | apply endActive_keeps | apply State.modPower_keeps
    | with_reducible first | apply KSum.inl_ | apply KSum.inr_
    | intro _
    | (extract_lets +onlyGivenNames w;
        refine Keeps.cut (s0 := s0) w ?a ?b;
        (case' a => dsimp only [w]); (case' b => clear_value w; intro hw))
    | (extract_lets +onlyGivenNames w)
    | split

theorem execPorstN_keeps {s0 : State} {lowUs s} (h1 : Keeps s0 s) : KOut s0 (execPorstN lowUs s) := by
  unfold execPorstN
  repeat' first
    | with_reducible first | assumption | apply devReset_keeps | apply ok_keeps
    | split

theorem execMbxSubmit_keeps {s0 : State} {r n s} (h2 : Keeps s0 s) : KOut s0 (execMbxSubmit r n s) := by
  unfold execMbxSubmit
  repeat' first
    | with_reducible first | assumption | apply ownedWrite_keeps | apply State.setField_keeps
    | intro _
    | (extract_lets +onlyGivenNames w;
        refine Keeps.cut (s0 := s0) w ?a ?b;
        (case' a => dsimp only [w]); (case' b => clear_value w; intro hw))
    | (extract_lets +onlyGivenNames w)
    | split
    | dsimp +zetaDelta only
    | ((with_reducible refine Keeps.isMk ?_ ?_); rfl)

theorem execSessionHello_keeps {s0 : State} {m slot hostNonce encKey s} (h4 : Keeps s0 s) :
    KOut s0 (execSessionHello m slot hostNonce encKey s) := by
  unfold execSessionHello
  repeat' first
    | with_reducible first | assumption | apply State.stat_keeps | apply helloAnswer_keeps | apply helloAtPort_keeps
    | with_reducible first | apply serve_keeps | apply refuse_keeps | apply ok_keeps
    | split

theorem execAsyncException_keeps {s0 : State} {tile core s} (h2 : Keeps s0 s) :
    KOut s0 (execAsyncException tile core s) := by
  unfold execAsyncException
  repeat' first
    | with_reducible first | assumption | apply squashCq_keeps | apply takeExc_keeps | apply State.setCore_keeps
    | with_reducible apply ok_keeps
    | (extract_lets +onlyGivenNames w;
        refine Keeps.cut (s0 := s0) w ?a ?b;
        (case' a => dsimp only [w]); (case' b => clear_value w; intro hw))
    | (extract_lets +onlyGivenNames w)
    | split

theorem bramRead_keeps {s0 : State} {x0 x1 x2 x3 x4 x5 x6} (h0 : Keeps s0 x0) : Keeps s0 (bramRead x0 x1 x2 x3 x4 x5 x6).2
    := by
  unfold bramRead
  split
  · exact h0
  · split
    · extract_lets a x
      have hx : Keeps s0 x.2 := by dsimp only [x]; with_reducible exact memRead_keeps h0
      clear_value x
      exact Keeps.mk2 hx
    · exact h0

theorem execBramPortAccess_keeps {s0 : State} {fab block a b s} (h4 : Keeps s0 s) :
    KOut s0 (execBramPortAccess fab block a b s) := by
  unfold execBramPortAccess
  repeat' first
    | with_reducible first | assumption | apply bramRead_keeps | apply State.count_keeps | apply State.orReg_keeps
    | with_reducible first | apply bramWrite_keeps | apply State.answer_keeps | apply ok_keeps
    | (extract_lets +onlyGivenNames w;
        refine Keeps.cut2 (s0 := s0) w ?a ?b;
        (case' a => dsimp only [w]); (case' b => clear_value w; intro hw))
    | (extract_lets +onlyGivenNames w)
    | split
    | dsimp +zetaDelta only

theorem execPeerHello_keeps {s0 : State} {m idOk sigOk s} (h3 : Keeps s0 s) :
    KOut s0 (execPeerHello m idOk sigOk s) := by
  unfold execPeerHello
  repeat' first
    | with_reducible first | assumption | apply helloAt_keeps | apply serve_keeps | apply refuse_keeps
    | with_reducible apply ok_keeps
    | split

theorem execPeerConfirm_keeps {s0 : State} {m s} (h1 : Keeps s0 s) : KOut s0 (execPeerConfirm m s) := by
  unfold execPeerConfirm
  repeat' first
    | with_reducible first | assumption | apply serve_keeps | apply refuse_keeps | apply peerDrop_keeps
    | with_reducible first | apply State.setPeer_keeps | apply State.respond_keeps | apply ok_keeps
    | (extract_lets +onlyGivenNames w;
        refine Keeps.cut (s0 := s0) w ?a ?b;
        (case' a => dsimp only [w]); (case' b => clear_value w; intro hw))
    | split

theorem execCqstat_keeps {s0 : State} {k gd half s} (h3 : Keeps s0 s) : KOut s0 (execCqstat k gd half s) := by
  unfold execCqstat
  repeat' with_reducible first | assumption | apply plain_keeps

theorem acceptImport_keeps {s0 : State} {s k p i} (h0 : Keeps s0 s) : Keeps s0 (acceptImport s k p i) := by
  unfold acceptImport
  repeat' first
    | with_reducible first | assumption | apply State.raise_keeps | apply State.respond_keeps
    | with_reducible first | apply State.setPeer_keeps | apply State.takeFresh_keeps | apply ctxPut_keeps
    | with_reducible first | apply pushBlobEntry_keeps | apply respond_keeps | apply startRun_keeps | apply ok_keeps
    | intro _
    | (extract_lets +onlyGivenNames w)
    | split

theorem execRunBlob_keeps {s0 : State} {m run kind offset data s} (h5 : Keeps s0 s) :
    KOut s0 (execRunBlob m run kind offset data s) := by
  unfold execRunBlob
  repeat' first
    | with_reducible first | assumption | apply accept_keeps | apply State.respond_keeps | apply memWrite_keeps
    | with_reducible first | apply State.setPeer_keeps | apply acceptImport_keeps | apply ok_keeps
    | with_reducible first | refine Keeps.ofDone (by assumption) ?_ | refine Keeps.ofGo (by assumption) ?_
    | (extract_lets +onlyGivenNames w;
        refine Keeps.cut (s0 := s0) w ?a ?b;
        (case' a => dsimp only [w]); (case' b => clear_value w; intro hw))
    | (extract_lets +onlyGivenNames w)
    | split

theorem execStaticLevelling_keeps {s0 : State} {eraseOk s} (h1 : Keeps s0 s) :
    KOut s0 (execStaticLevelling eraseOk s) := by
  unfold execStaticLevelling
  repeat' first
    | with_reducible first | assumption | apply dutyDone_keeps | apply relocate_keeps | apply ok_keeps
    | (extract_lets +onlyGivenNames w;
        refine Keeps.cut (s0 := s0) w ?a ?b;
        (case' a => dsimp only [w]); (case' b => clear_value w; intro hw))
    | (extract_lets +onlyGivenNames w)
    | split

theorem execVshli_keeps {s0 : State} {k vd va sh ty mode s} (h6 : Keeps s0 s) :
    KOut s0 (execVshli k vd va sh ty mode s) := by
  unfold execVshli
  repeat' with_reducible first | assumption | apply vun_keeps

theorem execFecLock_keeps {s0 : State} {iot port s} (h2 : Keeps s0 s) : KOut s0 (execFecLock iot port s) := by
  unfold execFecLock
  repeat' first
    | with_reducible first | assumption | apply enterStep_keeps | apply ok_keeps
    | split

theorem execCmp_keeps {s0 : State} {k ga gb s} (h3 : Keeps s0 s) : KOut s0 (execCmp k ga gb s) := by
  unfold execCmp
  repeat' with_reducible first | assumption | apply plain_keeps

theorem execVxor_keeps {s0 : State} {k vd va vb ty mode s} (h6 : Keeps s0 s) :
    KOut s0 (execVxor k vd va vb ty mode s) := by
  unfold execVxor
  repeat' with_reducible first | assumption | apply vbits_keeps

theorem execDmaWait_keeps {s0 : State} {tile ch s} (h2 : Keeps s0 s) : KOut s0 (execDmaWait tile ch s) := by
  unfold execDmaWait
  repeat' first
    | with_reducible first | assumption | apply haltWith_keeps | apply setSt_keeps | apply modChan_keeps
    | with_reducible apply ok_keeps
    | (extract_lets +onlyGivenNames w)
    | split

theorem execMemcClr_keeps {s0 : State} {r tile value s} (h3 : Keeps s0 s) : KOut s0 (execMemcClr r tile value s) := by
  unfold execMemcClr
  repeat' with_reducible first | assumption | apply writeAnswer_keeps | apply ok_keeps

theorem execStaticCellSetGroup_keeps {s0 : State} {m corridor carrier first count rest s} (h6 : Keeps s0 s) :
    KOut s0 (execStaticCellSetGroup m corridor carrier first count rest s) := by
  unfold execStaticCellSetGroup
  repeat' with_reducible first | assumption | apply settings_keeps

theorem execShr_keeps {s0 : State} {k gd ga gb f s} (h5 : Keeps s0 s) : KOut s0 (execShr k gd ga gb f s) := by
  unfold execShr
  repeat' with_reducible first | assumption | apply aluOp_keeps

theorem execVfmul_keeps {s0 : State} {k vd va vb ty s} (h5 : Keeps s0 s) : KOut s0 (execVfmul k vd va vb ty s) := by
  unfold execVfmul
  repeat' with_reducible first | assumption | apply vfbin_keeps

theorem execCarrierInstSetPortmaskLo_keeps {s0 : State} {m carrier ru value valueC rest s} (h6 : Keeps s0 s) :
    KOut s0 (execCarrierInstSetPortmaskLo m carrier ru value valueC rest s) := by
  unfold execCarrierInstSetPortmaskLo
  repeat' with_reducible first | assumption | apply settings_keeps

theorem execFsub_keeps {s0 : State} {k fd fa fb dbl s} (h5 : Keeps s0 s) : KOut s0 (execFsub k fd fa fb dbl s) := by
  unfold execFsub
  repeat' with_reducible first | assumption | apply fbin_keeps

theorem execSessionPendingTimeout_keeps {s0 : State} {port s} (h1 : Keeps s0 s) :
    KOut s0 (execSessionPendingTimeout port s) := by
  unfold execSessionPendingTimeout
  repeat' first
    | with_reducible first | assumption | apply State.setSess_keeps | apply ok_keeps
    | (extract_lets +onlyGivenNames w)
    | split

theorem execNetConfigSetBhIngress_keeps {s0 : State} {m index value rest s} (h4 : Keeps s0 s) :
    KOut s0 (execNetConfigSetBhIngress m index value rest s) := by
  unfold execNetConfigSetBhIngress
  repeat' with_reducible first | assumption | apply settings_keeps

theorem execGmskMod_keeps {s0 : State} {tile ref s} (h2 : Keeps s0 s) : KOut s0 (execGmskMod tile ref s) := by
  unfold execGmskMod
  repeat' with_reducible first | assumption | apply runJob_keeps | apply simple_keeps

theorem execAlarmSet_keeps {s0 : State} {m sec ns flags s} (h4 : Keeps s0 s) :
    KOut s0 (execAlarmSet m sec ns flags s) := by
  unfold execAlarmSet
  repeat' first
    | with_reducible first | assumption | apply serve_keeps | apply guarded_keeps | apply refuse_keeps
    | with_reducible first | apply State.setReg_keeps | apply State.setReg64_keeps | apply State.setField_keeps
    | with_reducible apply ok_keeps
    | intro _
    | (extract_lets +onlyGivenNames w;
        refine Keeps.cut (s0 := s0) w ?a ?b;
        (case' a => dsimp only [w]); (case' b => clear_value w; intro hw))
    | (extract_lets +onlyGivenNames w)
    | split

theorem applyReport_keeps {s0 : State} {s n r xp left b p} (h0 : Keeps s0 s) :
    Keeps s0 (applyReport s n r xp left b p) := by
  unfold applyReport
  repeat' first
    | with_reducible first | assumption | apply finishMbx_keeps | apply setTState_keeps | apply putMotion_keeps
    | with_reducible first | apply State.modRun_keeps | apply_assumption -exfalso -symm
    | intro _
    | (extract_lets +onlyGivenNames w;
        refine Keeps.cutF2 (s0 := s0) w ?a ?b;
        (case' a => dsimp only [w]); (case' b => clear_value w; intro hw))
    | (extract_lets +onlyGivenNames w)
    | split

theorem execCancelAck_keeps {s0 : State} {tile core tag s} (h3 : Keeps s0 s) :
    KOut s0 (execCancelAck tile core tag s) := by
  unfold execCancelAck
  repeat' first
    | with_reducible first | assumption | apply State.count_keeps | apply State.setCore_keeps | apply ok_keeps
    | (extract_lets +onlyGivenNames w)
    | split

theorem execMul_keeps {s0 : State} {k gd ga gb s} (h4 : Keeps s0 s) : KOut s0 (execMul k gd ga gb s) := by
  unfold execMul
  repeat' with_reducible first | assumption | apply binOp_keeps

theorem execSessionConfirm_keeps {s0 : State} {m sigOk s} (h2 : Keeps s0 s) :
    KOut s0 (execSessionConfirm m sigOk s) := by
  unfold execSessionConfirm
  repeat' first
    | with_reducible first | assumption | apply State.stat_keeps | apply State.respond_keeps
    | with_reducible first | apply confirmPending_keeps | apply serve_keeps | apply refuse_keeps | apply ok_keeps
    | split

theorem execCmac_keeps {s0 : State} {k n ga gb s} (h4 : Keeps s0 s) : KOut s0 (execCmac k n ga gb s) := by
  unfold execCmac
  repeat' with_reducible first | assumption | apply plain_keeps

theorem execSignalQpush_keeps {s0 : State} {tile ch s} (h2 : Keeps s0 s) : KOut s0 (execSignalQpush tile ch s) := by
  unfold execSignalQpush
  repeat' first
    | with_reducible first | assumption | apply busReadMany_keeps | apply signalOut_keeps | apply pushQ_keeps
    | with_reducible first | apply setSt_keeps | apply ok_keeps
    | (extract_lets +onlyGivenNames w;
        refine Keeps.cut2 (s0 := s0) w ?a ?b;
        (case' a => dsimp only [w]); (case' b => clear_value w; intro hw))
    | (extract_lets +onlyGivenNames w)
    | split

theorem storeWaits_keeps {s0 : State} {t c n s} (h3 : Keeps s0 s) : Keeps s0 (storeWaits t c n s) := by
  unfold storeWaits
  repeat' first
    | with_reducible first | assumption | apply State.setCore_keeps | apply countWait_keeps
    | (extract_lets +onlyGivenNames w)
    | split

theorem execWakeStepTimeout_keeps {s0 : State} {island s} (h1 : Keeps s0 s) :
    KOut s0 (execWakeStepTimeout island s) := by
  unfold execWakeStepTimeout
  repeat' first
    | with_reducible first | assumption | apply repeatWake_keeps | apply islandFailed_keeps | apply deviceUp_keeps
    | with_reducible first | apply devReset_keeps | apply ok_keeps
    | (extract_lets +onlyGivenNames w;
        refine Keeps.cut (s0 := s0) w ?a ?b;
        (case' a => dsimp only [w]); (case' b => clear_value w; intro hw))
    | (extract_lets +onlyGivenNames w)
    | split

theorem execReg64LowRead_keeps {s0 : State} {r addr s} (h2 : Keeps s0 s) : KOut s0 (execReg64LowRead r addr s) := by
  unfold execReg64LowRead
  repeat' with_reducible first | assumption | apply readAnswer_keeps | apply ok_keeps

theorem execIcinv_keeps {s0 : State} {k s} (h1 : Keeps s0 s) : KOut s0 (execIcinv k s) := by
  unfold execIcinv
  repeat' with_reducible first | assumption | apply plain_keeps

theorem execVfadd_keeps {s0 : State} {k vd va vb ty s} (h5 : Keeps s0 s) : KOut s0 (execVfadd k vd va vb ty s) := by
  unfold execVfadd
  repeat' with_reducible first | assumption | apply vfbin_keeps

theorem execTimeReacquire_keeps {s0 : State} {m maxStep maxStepC waitS s} (h4 : Keeps s0 s) :
    KOut s0 (execTimeReacquire m maxStep maxStepC waitS s) := by
  unfold execTimeReacquire
  repeat' first
    | with_reducible first | assumption | apply State.modTime_keeps | apply State.setField_keeps | apply begin__keeps
    | with_reducible first | apply done_keeps | apply refuse_keeps | apply setServo_keeps | apply ok_keeps
    | with_reducible first | apply KSum.inl_ | apply KSum.inr_
    | intro _
    | (extract_lets +onlyGivenNames w)
    | split

theorem execSynceWaitToRestore_keeps {s0 : State} {iot port s} (h2 : Keeps s0 s) :
    KOut s0 (execSynceWaitToRestore iot port s) := by
  unfold execSynceWaitToRestore
  repeat' first
    | with_reducible first | assumption | apply State.modTime_keeps | apply ok_keeps
    | split

theorem noteTemp_keeps {s0 : State} {s t temp} (h0 : Keeps s0 s) : Keeps s0 (noteTemp s t temp) := by
  unfold noteTemp
  repeat' with_reducible first | assumption | apply State.setReg_keeps

theorem execThrottleStep_keeps {s0 : State} {tile temp s} (h2 : Keeps s0 s) :
    KOut s0 (execThrottleStep tile temp s) := by
  unfold execThrottleStep
  repeat' first
    | with_reducible first | assumption | apply noteTemp_keeps | apply throttleDown_keeps | apply throttleUp_keeps
    | with_reducible apply ok_keeps
    | (extract_lets +onlyGivenNames w;
        refine Keeps.cut (s0 := s0) w ?a ?b;
        (case' a => dsimp only [w]); (case' b => clear_value w; intro hw))
    | (extract_lets +onlyGivenNames w)
    | split

theorem execVfcvtf_keeps {s0 : State} {k vd va ty s} (h4 : Keeps s0 s) : KOut s0 (execVfcvtf k vd va ty s) := by
  unfold execVfcvtf
  repeat' with_reducible first | assumption | apply vins_keeps

theorem execHostkeyEnrolEnrol_keeps {s0 : State} {m kind slot pubkey s} (h4 : Keeps s0 s) :
    KOut s0 (execHostkeyEnrolEnrol m kind slot pubkey s) := by
  unfold execHostkeyEnrolEnrol
  repeat' first
    | with_reducible first | assumption | apply keyOp_keeps | apply enrolReply_keeps | apply ok_keeps

theorem execVmulhr_keeps {s0 : State} {k vd va vb ty mode s} (h6 : Keeps s0 s) :
    KOut s0 (execVmulhr k vd va vb ty mode s) := by
  unfold execVmulhr
  repeat' with_reducible first | assumption | apply vbin_keeps

theorem execScrubLate_keeps {s0 : State} {mem s} (h1 : Keeps s0 s) : KOut s0 (execScrubLate mem s) := by
  unfold execScrubLate
  repeat' first
    | with_reducible first | assumption | apply State.orReg_keeps | apply ok_keeps | apply Keeps.foldl
    | intro _
    | split

theorem execVst_keeps {s0 : State} {k vs a s} (h3 : Keeps s0 s) : KOut s0 (execVst k vs a s) := by
  unfold execVst
  repeat' with_reducible first | assumption | apply storeOne_keeps

theorem execVdacLow_keeps {s0 : State} {low s} (h1 : Keeps s0 s) : KOut s0 (execVdacLow low s) := by
  unfold execVdacLow
  repeat' with_reducible first | assumption | apply State.setField_keeps | apply ok_keeps

theorem execSpurRungAgreed_keeps {s0 : State} {port snr farSnr s} (h3 : Keeps s0 s) :
    KOut s0 (execSpurRungAgreed port snr farSnr s) := by
  unfold execSpurRungAgreed
  repeat' first
    | with_reducible first | assumption | apply setSnr_keeps | apply State.orReg_keeps | apply State.setField_keeps
    | with_reducible first | apply rungConsequences_keeps | apply spurEnter_keeps | apply ok_keeps
    | (extract_lets +onlyGivenNames w;
        refine Keeps.cut (s0 := s0) w ?a ?b;
        (case' a => dsimp only [w]); (case' b => clear_value w; intro hw))
    | (extract_lets +onlyGivenNames w)
    | split
    | dsimp +zetaDelta only

theorem execRori_keeps {s0 : State} {k gd ga sh f s} (h5 : Keeps s0 s) : KOut s0 (execRori k gd ga sh f s) := by
  unfold execRori
  repeat' with_reducible first | assumption | apply shiftImm_keeps

theorem execPpsInEdge_keeps {s0 : State} {falling dev s} (h2 : Keeps s0 s) :
    KOut s0 (execPpsInEdge falling dev s) := by
  unfold execPpsInEdge
  repeat' first
    | with_reducible first | assumption | apply State.setReg_keeps | apply State.modTime_keeps
    | with_reducible first | apply State.orReg_keeps | apply State.setField_keeps | apply takeMeas_keeps
    | with_reducible apply ok_keeps
    | (extract_lets +onlyGivenNames w;
        refine Keeps.cut (s0 := s0) w ?a ?b;
        (case' a => dsimp only [w]); (case' b => clear_value w; intro hw))
    | (extract_lets +onlyGivenNames w)
    | split
    | dsimp +zetaDelta only

theorem execRuSet_keeps {s0 : State} {m b rest s} (h3 : Keeps s0 s) : KOut s0 (execRuSet m b rest s) := by
  unfold execRuSet
  repeat' with_reducible first | assumption | apply settings_keeps

theorem execTimeConfigPpsOut_keeps {s0 : State} {m value rest s} (h3 : Keeps s0 s) :
    KOut s0 (execTimeConfigPpsOut m value rest s) := by
  unfold execTimeConfigPpsOut
  repeat' with_reducible first | assumption | apply timeSetting_keeps

theorem execSemQuery_keeps {s0 : State} {m mask s} (h2 : Keeps s0 s) : KOut s0 (execSemQuery m mask s) := by
  unfold execSemQuery
  repeat' first
    | with_reducible first | assumption | apply serve_keeps | apply ok_keeps
    | intro _

theorem stampShort_keeps {s0 : State} {s ru carrier} (h0 : Keeps s0 s) : Keeps s0 (stampShort s ru carrier) := by
  unfold stampShort
  repeat' first
    | with_reducible first | assumption | apply State.modCor_keeps | apply ok_keeps
    | intro _
    | (extract_lets +onlyGivenNames w)
    | split

theorem execCarrierInstanceSuspend_keeps {s0 : State} {ru carrier s} (h2 : Keeps s0 s) :
    KOut s0 (execCarrierInstanceSuspend ru carrier s) := by
  unfold execCarrierInstanceSuspend
  repeat' first
    | with_reducible first | assumption | apply State.modCor_keeps | apply modInst_keeps | apply reportShortfall_keeps
    | with_reducible first | apply reshed_keeps | apply stampShort_keeps | apply ok_keeps
    | intro _
    | (extract_lets +onlyGivenNames w)
    | split

theorem execAccadd_keeps {s0 : State} {k n m s} (h3 : Keeps s0 s) : KOut s0 (execAccadd k n m s) := by
  unfold execAccadd
  repeat' with_reducible first | assumption | apply plain_keeps

theorem execQueueEnable_keeps {s0 : State} {r qid s} (h2 : Keeps s0 s) : KOut s0 (execQueueEnable r qid s) := by
  unfold execQueueEnable
  repeat' first
    | with_reducible first | assumption | apply State.answer_keeps | apply enableQ_keeps | apply ok_keeps
    | split

end Sys2Proof.Machine
end

