-- ==== Sys2Proof/Laws/Keeps10.lean ====
section
/-! SUPPORT. Each shared operation and each command keeps what `Keeps` says (part 10 of 10, in the order in which
they use one another). -/

namespace Sys2Proof.Machine

theorem execNetConfigSetPortGw_keeps {s0 : State} {m index value rest s} (h4 : Keeps s0 s) :
    KOut s0 (execNetConfigSetPortGw m index value rest s) := by
  unfold execNetConfigSetPortGw
  repeat' with_reducible first | assumption | apply settings_keeps

theorem execSpurEqualiserTrained_keeps {s0 : State} {port ppm fault atten dist s} (h5 : Keeps s0 s) :
    KOut s0 (execSpurEqualiserTrained port ppm fault atten dist s) := by
  unfold execSpurEqualiserTrained
  repeat' first
    | with_reducible first | assumption | apply setLine_keeps | apply spurEnter_keeps | apply ok_keeps
    | (extract_lets +onlyGivenNames w;
        refine Keeps.cut (s0 := s0) w ?a ?b;
        (case' a => dsimp only [w]); (case' b => clear_value w; intro hw))
    | split

theorem execVcmplt_keeps {s0 : State} {k vd va vb ty mode s} (h6 : Keeps s0 s) :
    KOut s0 (execVcmplt k vd va vb ty mode s) := by
  unfold execVcmplt
  repeat' with_reducible first | assumption | apply vcmp_keeps

theorem execSpineDelayMeasure_keeps {s0 : State} {tile trim err s} (h3 : Keeps s0 s) :
    KOut s0 (execSpineDelayMeasure tile trim err s) := by
  unfold execSpineDelayMeasure
  repeat' first
    | with_reducible first | assumption | apply State.setReg_keeps | apply dutyDone_keeps | apply ok_keeps
    | (extract_lets +onlyGivenNames w;
        refine Keeps.cut (s0 := s0) w ?a ?b;
        (case' a => dsimp only [w]); (case' b => clear_value w; intro hw))
    | split

theorem execLaneReversal_keeps {s0 : State} {iot port reversed s} (h3 : Keeps s0 s) :
    KOut s0 (execLaneReversal iot port reversed s) := by
  unfold execLaneReversal
  repeat' first
    | with_reducible first | assumption | apply enterStep_keeps | apply sdStat_keeps | apply ok_keeps
    | intro _
    | (extract_lets +onlyGivenNames w)
    | split
    | ((with_reducible refine Keeps.isMk ?_ ?_); rfl)

theorem execRunRead_keeps {s0 : State} {m n s} (h2 : Keeps s0 s) : KOut s0 (execRunRead m n s) := by
  unfold execRunRead
  repeat' first
    | with_reducible first | assumption | apply serve_keeps | apply refuse_keeps | apply memRead_keeps
    | with_reducible first | apply ok_keeps | refine Keeps.ofPair (by assumption) ?_
    | intro _
    | (extract_lets +onlyGivenNames w)
    | split

theorem execStationCellSet_keeps {s0 : State} {m station maxUl maxDl rest s} (h5 : Keeps s0 s) :
    KOut s0 (execStationCellSet m station maxUl maxDl rest s) := by
  unfold execStationCellSet
  repeat' with_reducible first | assumption | apply settings_keeps

theorem execSel_keeps {s0 : State} {k gd ga gb s} (h4 : Keeps s0 s) : KOut s0 (execSel k gd ga gb s) := by
  unfold execSel
  repeat' with_reducible first | assumption | apply plain_keeps

theorem execBrev_keeps {s0 : State} {k gd ga s} (h3 : Keeps s0 s) : KOut s0 (execBrev k gd ga s) := by
  unfold execBrev
  repeat' with_reducible first | assumption | apply plain_keeps

theorem execTimeRead_keeps {s0 : State} {m s} (h1 : Keeps s0 s) : KOut s0 (execTimeRead m s) := by
  unfold execTimeRead
  repeat' first
    | with_reducible first | assumption | apply serve_keeps | apply ok_keeps
    | intro _

theorem execPrbsLockLoss_keeps {s0 : State} {iot lane bits errs s} (h4 : Keeps s0 s) :
    KOut s0 (execPrbsLockLoss iot lane bits errs s) := by
  unfold execPrbsLockLoss
  repeat' first
    | with_reducible first | assumption | apply prbsCount_keeps | apply State.setField_keeps | apply ok_keeps
    | (extract_lets +onlyGivenNames w;
        refine Keeps.cut (s0 := s0) w ?a ?b;
        (case' a => dsimp only [w]); (case' b => clear_value w; intro hw))
    | (extract_lets +onlyGivenNames w)
    | split

theorem execVcmsuw_keeps {s0 : State} {k vd va vb ty mode s} (h6 : Keeps s0 s) :
    KOut s0 (execVcmsuw k vd va vb ty mode s) := by
  unfold execVcmsuw
  repeat' with_reducible first | assumption | apply vmacOp_keeps

theorem execCoastEnter_keeps {s0 : State} {n s} (h1 : Keeps s0 s) : KOut s0 (execCoastEnter n s) := by
  unfold execCoastEnter
  repeat' first
    | with_reducible first | assumption | apply setTState_keeps | apply ctxPut_keeps | apply ok_keeps
    | split

theorem execDemap_keeps {s0 : State} {tile ref s} (h2 : Keeps s0 s) : KOut s0 (execDemap tile ref s) := by
  unfold execDemap
  repeat' with_reducible first | assumption | apply runJob_keeps | apply simple_keeps

theorem execMovhi_keeps {s0 : State} {k gd imm s} (h3 : Keeps s0 s) : KOut s0 (execMovhi k gd imm s) := by
  unfold execMovhi
  repeat' with_reducible first | assumption | apply plain_keeps

theorem execVpermx_keeps {s0 : State} {k vd va vb ty s} (h5 : Keeps s0 s) : KOut s0 (execVpermx k vd va vb ty s) := by
  unfold execVpermx
  repeat' with_reducible first | assumption | apply vins_keeps

theorem execCoastLimitExpiry_keeps {s0 : State} {n s} (h1 : Keeps s0 s) : KOut s0 (execCoastLimitExpiry n s) := by
  unfold execCoastLimitExpiry
  repeat' first
    | with_reducible first | assumption | apply enterLost_keeps | apply ok_keeps
    | split

theorem execMaxu_keeps {s0 : State} {k gd ga gb s} (h4 : Keeps s0 s) : KOut s0 (execMaxu k gd ga gb s) := by
  unfold execMaxu
  repeat' with_reducible first | assumption | apply binOp_keeps

theorem execMovx_keeps {s0 : State} {k dst di src si half s} (h6 : Keeps s0 s) :
    KOut s0 (execMovx k dst di src si half s) := by
  unfold execMovx
  repeat' first
    | with_reducible first | assumption | apply done_keeps | apply issue_keeps | apply syncExc_keeps | apply ok_keeps
    | intro _
    | (extract_lets +onlyGivenNames w)
    | split

theorem execCoreTimer_keeps {s0 : State} {tile core s} (h2 : Keeps s0 s) : KOut s0 (execCoreTimer tile core s) := by
  unfold execCoreTimer
  repeat' first
    | with_reducible first | assumption | apply State.setCore_keeps | apply ok_keeps
    | (extract_lets +onlyGivenNames w)
    | split

theorem execIllegal_keeps {s0 : State} {k s} (h1 : Keeps s0 s) : KOut s0 (execIllegal k s) := by
  unfold execIllegal
  repeat' first
    | with_reducible first | assumption | apply issue_keeps | apply syncExc_keeps | apply ok_keeps
    | intro _
    | (extract_lets +onlyGivenNames w)
    | split

theorem applyReports_keeps {s0 : State} {s n r xp left b} (h0 : Keeps s0 s) :
    Keeps s0 (applyReports s n r xp left b) := by
  unfold applyReports
  repeat' first
    | with_reducible first | assumption | apply applyReport_keeps | apply State.modRun_keeps | apply Keeps.foldl
    | intro _

theorem clearHarq_keeps {s0 : State} {n s} (h1 : Keeps s0 s) : Keeps s0 (clearHarq n s) := by
  unfold clearHarq
  repeat' first
    | with_reducible first | assumption | apply State.takeFresh_keeps | apply memWrite_keeps | apply ok_keeps
    | with_reducible apply Keeps.foldl
    | intro _
    | (extract_lets +onlyGivenNames w)
    | split

theorem importOwn_keeps {s0 : State} {s n r b} (h0 : Keeps s0 s) : Keeps s0 (importOwn s n r b) := by
  unfold importOwn
  repeat' first
    | with_reducible first | assumption | apply State.raise_keeps | apply State.setPeer_keeps
    | with_reducible first | apply State.setRun_keeps | apply clearHarq_keeps | apply putPair_keeps | apply ok_keeps
    | intro _
    | (extract_lets +onlyGivenNames w)
    | split

theorem reportPairs_keeps {s0 : State} {s n r was b} (h0 : Keeps s0 s) : Keeps s0 (reportPairs s n r was b) := by
  unfold reportPairs
  repeat' first
    | with_reducible first | assumption | apply pushStatus_keeps | apply ok_keeps | apply Keeps.foldl
    | intro _
    | (extract_lets +onlyGivenNames w)
    | split

theorem execRunBoundary_keeps {s0 : State} {n ms s} (h2 : Keeps s0 s) : KOut s0 (execRunBoundary n ms s) := by
  unfold execRunBoundary
  repeat' first
    | with_reducible first | assumption | apply State.setRun_keeps | apply ageFeeds_keeps | apply applyReports_keeps
    | with_reducible first | apply applyWinStep_keeps | apply autoExport_keeps | apply checkPair_keeps
    | with_reducible first | apply ctxPut_keeps | apply decideAt_keeps | apply endStep_keeps | apply exportEnd_keeps
    | with_reducible first | apply exportStep_keeps | apply importOwn_keeps | apply importStep_keeps
    | with_reducible first | apply reportPairs_keeps | apply setLanes_keeps | apply track_keeps | apply withRun_keeps
    | with_reducible first | apply ok_keeps | apply Keeps.foldl
    | intro _
    | (extract_lets +onlyGivenNames w)
    | split

theorem execDmaWaitSatisfied_keeps {s0 : State} {tile ch s} (h2 : Keeps s0 s) :
    KOut s0 (execDmaWaitSatisfied tile ch s) := by
  unfold execDmaWaitSatisfied
  repeat' first
    | with_reducible first | assumption | apply satisfy_keeps | apply ok_keeps | apply Keeps.foldl
    | intro _

theorem execJournalCopy_keeps {s0 : State} {programOk eraseOk s} (h2 : Keeps s0 s) :
    KOut s0 (execJournalCopy programOk eraseOk s) := by
  unfold execJournalCopy
  repeat' first
    | with_reducible first | assumption | apply drainBuffer_keeps | apply dutyDone_keeps | apply copyPage_keeps
    | with_reducible apply ok_keeps
    | (extract_lets +onlyGivenNames w)
    | split
    | dsimp +zetaDelta only

theorem execFastRetrain_keeps {s0 : State} {port cause snr farSnr s} (h4 : Keeps s0 s) :
    KOut s0 (execFastRetrain port cause snr farSnr s) := by
  unfold execFastRetrain
  repeat' first
    | with_reducible first | assumption | apply spurTrain_keeps | apply setSnr_keeps | apply ok_keeps
    | split

theorem execCompressionWidthLower_keeps {s0 : State} {ru carrier s} (h2 : Keeps s0 s) :
    KOut s0 (execCompressionWidthLower ru carrier s) := by
  unfold execCompressionWidthLower
  repeat' first
    | with_reducible first | assumption | apply modInst_keeps | apply reportShortfall_keeps | apply reshed_keeps
    | with_reducible first | apply stampShort_keeps | apply ok_keeps
    | intro _
    | (extract_lets +onlyGivenNames w)
    | split

theorem execNetConfigSetSpur_keeps {s0 : State} {m index value rest s} (h4 : Keeps s0 s) :
    KOut s0 (execNetConfigSetSpur m index value rest s) := by
  unfold execNetConfigSetSpur
  repeat' with_reducible first | assumption | apply settings_keeps

theorem execCarrierInstSetPortmaskHi_keeps {s0 : State} {m carrier ru value valueC rest s} (h6 : Keeps s0 s) :
    KOut s0 (execCarrierInstSetPortmaskHi m carrier ru value valueC rest s) := by
  unfold execCarrierInstSetPortmaskHi
  repeat' with_reducible first | assumption | apply settings_keeps

theorem execStaticCellSetUngroup_keeps {s0 : State} {m corridor carrier first count rest s} (h6 : Keeps s0 s) :
    KOut s0 (execStaticCellSetUngroup m corridor carrier first count rest s) := by
  unfold execStaticCellSetUngroup
  repeat' with_reducible first | assumption | apply settings_keeps

theorem execFabImageVerify_keeps {s0 : State} {fab image s} (h3 : Keeps s0 s) : KOut s0 (execFabImageVerify fab image s)
    := by
  unfold execFabImageVerify
  repeat' first
    | with_reducible first | assumption | apply State.modFab_keeps | apply countRead_keeps | apply extendMeas_keeps
    | with_reducible first | apply fabGiveUp_keeps | apply setFabSt_keeps | apply ok_keeps
    | intro _
    | (extract_lets +onlyGivenNames w)
    | split

theorem execCmul_keeps {s0 : State} {k n ga gb s} (h4 : Keeps s0 s) : KOut s0 (execCmul k n ga gb s) := by
  unfold execCmul
  repeat' with_reducible first | assumption | apply plain_keeps

theorem execDacCompliance_keeps {s0 : State} {ch exceeded s} (h2 : Keeps s0 s) :
    KOut s0 (execDacCompliance ch exceeded s) := by
  unfold execDacCompliance
  repeat' first
    | with_reducible first | assumption | apply State.orReg_keeps | apply State.setField_keeps | apply ok_keeps
    | split

theorem execRunImport_keeps {s0 : State} {m b s} (h2 : Keeps s0 s) : KOut s0 (execRunImport m b s) := by
  unfold execRunImport
  repeat' first
    | with_reducible first | assumption | apply accept_keeps | apply State.respond_keeps | apply State.raise_keeps
    | with_reducible first | apply acceptImport_keeps | apply State.setPeer_keeps | apply ok_keeps
    | with_reducible first | refine Keeps.ofDone (by assumption) ?_ | refine Keeps.ofGo (by assumption) ?_
    | (extract_lets +onlyGivenNames w)
    | split

theorem execAccAbort_keeps {s0 : State} {tile desc s} (h2 : Keeps s0 s) : KOut s0 (execAccAbort tile desc s) := by
  unfold execAccAbort
  split
  · exact ok_keeps h2
  · rename_i a _
    extract_lets ac s1 reply
    have h1 : Keeps s0 s1 := Keeps.isMk rfl h2
    have hr : ∀ st x, Keeps s0 x → Keeps s0 (reply st x) := by
      intro st x hx
      dsimp only [reply]
      split
      · exact cqResult_keeps hx
      · exact hx
    clear_value reply s1
    split
    · exact ok_keeps (hr _ _ h1)
    · split
      · exact ok_keeps (hr _ _ h1)
      · split
        · exact ok_keeps (hr _ _ (failJob_keeps h1))
        · split
          · exact ok_keeps (hr _ _ (addJob_keeps h1))
          · exact ok_keeps (hr _ _ h1)

theorem execDacCode_keeps {s0 : State} {r ch value s} (h3 : Keeps s0 s) : KOut s0 (execDacCode r ch value s) := by
  unfold execDacCode
  repeat' first
    | with_reducible first | assumption | apply State.answer_keeps | apply dacCodeWrite_keeps | apply done_keeps
    | with_reducible apply ok_keeps
    | intro _
    | (extract_lets +onlyGivenNames w)
    | split

theorem execSupplyLow_keeps {s0 : State} {s} (h0 : Keeps s0 s) : KOut s0 (execSupplyLow s) := by
  unfold execSupplyLow
  repeat' first
    | with_reducible first | assumption | apply State.orReg_keeps | apply State.setField_keeps | apply ok_keeps
    | split

theorem execKeepalive_keeps {s0 : State} {m s} (h1 : Keeps s0 s) : KOut s0 (execKeepalive m s) := by
  unfold execKeepalive
  repeat' first
    | with_reducible first | assumption | apply serve_keeps | apply refuse_keeps | apply ok_keeps

theorem execWait_keeps {s0 : State} {k s} (h1 : Keeps s0 s) : KOut s0 (execWait k s) := by
  unfold execWait
  repeat' first
    | with_reducible first | assumption | apply issue_keeps | apply done_keeps | apply State.setCore_keeps
    | with_reducible apply ok_keeps
    | intro _
    | (extract_lets +onlyGivenNames w)
    | split

theorem execNetConfigSetWake_keeps {s0 : State} {m value rest s} (h3 : Keeps s0 s) :
    KOut s0 (execNetConfigSetWake m value rest s) := by
  unfold execNetConfigSetWake
  repeat' with_reducible first | assumption | apply settings_keeps

theorem execFhDelayMeasure_keeps {s0 : State} {iot port delays s} (h3 : Keeps s0 s) :
    KOut s0 (execFhDelayMeasure iot port delays s) := by
  unfold execFhDelayMeasure
  repeat' first
    | with_reducible first | assumption | apply noteDelayOf_keeps | apply State.modFh_keeps
    | with_reducible first | apply recheckWindows_keeps | apply setRxWin_keeps | apply ok_keeps | apply Keeps.foldl
    | intro _
    | (extract_lets +onlyGivenNames w;
        refine Keeps.cut (s0 := s0) w ?a ?b;
        (case' a => dsimp only [w]); (case' b => clear_value w; intro hw))
    | (extract_lets +onlyGivenNames w)
    | split

theorem execCmpi_keeps {s0 : State} {k ga imm s} (h3 : Keeps s0 s) : KOut s0 (execCmpi k ga imm s) := by
  unfold execCmpi
  repeat' with_reducible first | assumption | apply plain_keeps

theorem execPowerStatus_keeps {s0 : State} {m s} (h1 : Keeps s0 s) : KOut s0 (execPowerStatus m s) := by
  unfold execPowerStatus
  repeat' first
    | with_reducible first | assumption | apply serve_keeps | apply ok_keeps
    | intro _

theorem execQPop_keeps {s0 : State} {k an ga tag s} (h4 : Keeps s0 s) : KOut s0 (execQPop k an ga tag s) := by
  unfold execQPop
  repeat' first
    | with_reducible first | assumption | apply cqIssue_keeps | apply ok_keeps | apply_assumption -exfalso -symm
    | intro _

theorem execVsel_keeps {s0 : State} {k vd va vb ty mode s} (h6 : Keeps s0 s) :
    KOut s0 (execVsel k vd va vb ty mode s) := by
  unfold execVsel
  repeat' with_reducible first | assumption | apply vins_keeps

theorem execReset_keeps {s0 : State} {r tile ch s} (h3 : Keeps s0 s) : KOut s0 (execReset r tile ch s) := by
  unfold execReset
  repeat' with_reducible first | assumption | apply bell_keeps

theorem netReset_keeps {s0 : State} {f d s} (h2 : Keeps s0 s) : Keeps s0 (netReset f d s) := by
  unfold netReset
  repeat' first
    | with_reducible first | assumption | apply State.modFab_keeps | apply ok_keeps
    | intro _
    | (extract_lets +onlyGivenNames w)
    | split

theorem execFabGsrRelease_keeps {s0 : State} {fab s} (h1 : Keeps s0 s) : KOut s0 (execFabGsrRelease fab s) := by
  unfold execFabGsrRelease
  repeat' first
    | with_reducible first | assumption | apply State.modFab_keeps | apply State.setReg_keeps | apply finishMbx_keeps
    | with_reducible first | apply netReset_keeps | apply qcInit_keeps | apply setFabSt_keeps | apply ok_keeps
    | with_reducible apply Keeps.foldl
    | intro _
    | (extract_lets +onlyGivenNames w)
    | split

theorem execFcvtf_keeps {s0 : State} {k fd ga dbl s} (h4 : Keeps s0 s) : KOut s0 (execFcvtf k fd ga dbl s) := by
  unfold execFcvtf
  repeat' with_reducible first | assumption | apply plain_keeps

theorem execLoopSatSet_keeps {s0 : State} {n pos s} (h2 : Keeps s0 s) : KOut s0 (execLoopSatSet n pos s) := by
  unfold execLoopSatSet
  repeat' first
    | with_reducible first | assumption | apply setLoopSat_keeps | apply ok_keeps
    | split

theorem execDmaWaitTimeout_keeps {s0 : State} {tile ch s} (h2 : Keeps s0 s) :
    KOut s0 (execDmaWaitTimeout tile ch s) := by
  unfold execDmaWaitTimeout
  repeat' first
    | with_reducible first | assumption | apply haltWith_keeps | apply ok_keeps
    | (extract_lets +onlyGivenNames w)
    | split

theorem execNetConfigSetParisonRu_keeps {s0 : State} {m entry value rest s} (h4 : Keeps s0 s) :
    KOut s0 (execNetConfigSetParisonRu m entry value rest s) := by
  unfold execNetConfigSetParisonRu
  repeat' with_reducible first | assumption | apply settings_keeps

theorem execPostedStoreAck_keeps {s0 : State} {tile core n s} (h3 : Keeps s0 s) :
    KOut s0 (execPostedStoreAck tile core n s) := by
  unfold execPostedStoreAck
  repeat' first
    | with_reducible first | assumption | apply finishTerm_keeps | apply performStore_keeps | apply chargeFlits_keeps
    | with_reducible first | apply storeWaits_keeps | apply ok_keeps
    | (extract_lets +onlyGivenNames w)
    | split

theorem execVadd_keeps {s0 : State} {k vd va vb ty mode s} (h6 : Keeps s0 s) :
    KOut s0 (execVadd k vd va vb ty mode s) := by
  unfold execVadd
  repeat' with_reducible first | assumption | apply vbin_keeps

theorem execSupplyReset_keeps {s0 : State} {below900 s} (h1 : Keeps s0 s) : KOut s0 (execSupplyReset below900 s) := by
  unfold execSupplyReset
  repeat' first
    | with_reducible first | assumption | apply devReset_keeps | apply ok_keeps
    | (extract_lets +onlyGivenNames w)
    | split
    | dsimp +zetaDelta only
    | ((with_reducible refine Keeps.isMk ?_ ?_); rfl)

theorem execSub__keeps {s0 : State} {k gd ga gb f s} (h5 : Keeps s0 s) : KOut s0 (execSub_ k gd ga gb f s) := by
  unfold execSub_
  repeat' with_reducible first | assumption | apply aluOp_keeps

theorem execFmovg_keeps {s0 : State} {k gd fa half s} (h4 : Keeps s0 s) : KOut s0 (execFmovg k gd fa half s) := by
  unfold execFmovg
  repeat' with_reducible first | assumption | apply plain_keeps

theorem dropConfirm_keeps {s0 : State} {old j s} (h2 : Keeps s0 s) : Keeps s0 (dropConfirm old j s) := by
  unfold dropConfirm
  repeat' first
    | with_reducible first | assumption | apply failJob_keeps | apply ok_keeps
    | intro _
    | (extract_lets +onlyGivenNames w)
    | split

theorem execShl_keeps {s0 : State} {k gd ga gb f s} (h5 : Keeps s0 s) : KOut s0 (execShl k gd ga gb f s) := by
  unfold execShl
  repeat' with_reducible first | assumption | apply aluOp_keeps

theorem execLeaseExpired_keeps {s0 : State} {sem s} (h1 : Keeps s0 s) : KOut s0 (execLeaseExpired sem s) := by
  unfold execLeaseExpired
  repeat' with_reducible first | assumption | apply lapse_keeps | apply ok_keeps

theorem execScrubWake_keeps {s0 : State} {tile s} (h1 : Keeps s0 s) : KOut s0 (execScrubWake tile s) := by
  unfold execScrubWake
  repeat' first
    | with_reducible first | assumption | apply startWake_keeps | apply State.modIsland_keeps | apply ok_keeps
    | split

theorem execCmatmulh_keeps {s0 : State} {tile ref s} (h2 : Keeps s0 s) : KOut s0 (execCmatmulh tile ref s) := by
  unfold execCmatmulh
  repeat' with_reducible first | assumption | apply helperJob_keeps

theorem execFftFwd_keeps {s0 : State} {tile ref s} (h2 : Keeps s0 s) : KOut s0 (execFftFwd tile ref s) := by
  unfold execFftFwd
  repeat' with_reducible first | assumption | apply runJob_keeps | apply onRecs_keeps

theorem execPrecode_keeps {s0 : State} {tile ref s} (h2 : Keeps s0 s) : KOut s0 (execPrecode tile ref s) := by
  unfold execPrecode
  repeat' with_reducible first | assumption | apply runJob_keeps | apply simple_keeps

theorem execCatchupSpanClose_keeps {s0 : State} {q flid s} (h2 : Keeps s0 s) :
    KOut s0 (execCatchupSpanClose q flid s) := by
  unfold execCatchupSpanClose
  repeat' first
    | with_reducible first | assumption | apply catchupEvent_keeps | apply State.setFlow_keeps | apply ok_keeps
    | (extract_lets +onlyGivenNames w)
    | split

theorem execMbxAbort_keeps {s0 : State} {r n s} (h2 : Keeps s0 s) : KOut s0 (execMbxAbort r n s) := by
  unfold execMbxAbort
  repeat' first
    | with_reducible first | assumption | apply mbxAbort_keeps | apply ownedWrite_keeps | apply ok_keeps
    | intro _
    | (extract_lets +onlyGivenNames w)
    | split

theorem execClockStretch_keeps {s0 : State} {tile cycles s} (h2 : Keeps s0 s) :
    KOut s0 (execClockStretch tile cycles s) := by
  unfold execClockStretch
  repeat' first
    | with_reducible first | assumption | apply State.count_keeps | apply ok_keeps
    | split

theorem execLinkCrcReplay_keeps {s0 : State} {tile link fails s} (h3 : Keeps s0 s) :
    KOut s0 (execLinkCrcReplay tile link fails s) := by
  unfold execLinkCrcReplay
  repeat' first
    | with_reducible first | assumption | apply State.count_keeps | apply ok_keeps
    | (extract_lets +onlyGivenNames w;
        refine Keeps.cut (s0 := s0) w ?a ?b;
        (case' a => dsimp only [w]); (case' b => clear_value w; intro hw))
    | (extract_lets +onlyGivenNames w)
    | split
    | dsimp +zetaDelta only
    | ((with_reducible refine Keeps.isMk ?_ ?_); rfl)

theorem execReg64LowWrite_keeps {s0 : State} {r addr value s} (h3 : Keeps s0 s) :
    KOut s0 (execReg64LowWrite r addr value s) := by
  unfold execReg64LowWrite
  repeat' with_reducible first | assumption | apply writeAnswer_keeps | apply ok_keeps

theorem execNetConfigSetPortVlan_keeps {s0 : State} {m index value rest s} (h4 : Keeps s0 s) :
    KOut s0 (execNetConfigSetPortVlan m index value rest s) := by
  unfold execNetConfigSetPortVlan
  repeat' with_reducible first | assumption | apply settings_keeps

theorem execImageLoad_keeps {s0 : State} {m slot img nandUe s} (h4 : Keeps s0 s) :
    KOut s0 (execImageLoad m slot img nandUe s) := by
  unfold execImageLoad
  repeat' first
    | with_reducible first | assumption | apply countRead_keeps | apply guarded_keeps | apply loadReply_keeps
    | with_reducible first | apply refuse_keeps | apply serve_keeps | apply ok_keeps
    | intro _
    | (extract_lets +onlyGivenNames w)
    | split

theorem execRachSearch_keeps {s0 : State} {tile ref peaks s} (h3 : Keeps s0 s) :
    KOut s0 (execRachSearch tile ref peaks s) := by
  unfold execRachSearch
  repeat' first
    | with_reducible first | assumption | apply searchJob_keeps | apply nextConfirm_keeps | apply dropConfirm_keeps
    | with_reducible apply ok_keeps
    | intro _
    | split

theorem execFmax_keeps {s0 : State} {k fd fa fb dbl s} (h5 : Keeps s0 s) : KOut s0 (execFmax k fd fa fb dbl s) := by
  unfold execFmax
  repeat' with_reducible first | assumption | apply fbin_keeps

theorem execAdds_keeps {s0 : State} {k gd ga gb s} (h4 : Keeps s0 s) : KOut s0 (execAdds k gd ga gb s) := by
  unfold execAdds
  repeat' with_reducible first | assumption | apply satOp_keeps

theorem execVfmax_keeps {s0 : State} {k vd va vb ty s} (h5 : Keeps s0 s) : KOut s0 (execVfmax k vd va vb ty s) := by
  unfold execVfmax
  repeat' with_reducible first | assumption | apply vfbin_keeps

theorem execJump_keeps {s0 : State} {tile ch s} (h2 : Keeps s0 s) : KOut s0 (execJump tile ch s) := by
  unfold execJump
  repeat' first
    | with_reducible first | assumption | apply chGoto_keeps | apply ok_keeps
    | split

theorem execCpPairTimeout_keeps {s0 : State} {addr s} (h1 : Keeps s0 s) : KOut s0 (execCpPairTimeout addr s) := by
  unfold execCpPairTimeout
  repeat' first
    | with_reducible first | assumption | apply State.orReg_keeps | apply ok_keeps
    | (extract_lets +onlyGivenNames w)
    | split
    | dsimp +zetaDelta only
    | ((with_reducible refine Keeps.isMk ?_ ?_); rfl)

theorem execDmaRequestComplete_keeps {s0 : State} {tile ch row s} (h3 : Keeps s0 s) :
    KOut s0 (execDmaRequestComplete tile ch row s) := by
  unfold execDmaRequestComplete
  repeat' first
    | with_reducible first | assumption | apply rowInject_keeps | apply signalDone_keeps | apply ok_keeps
    | (extract_lets +onlyGivenNames w)
    | split

theorem execFence_keeps {s0 : State} {k s} (h1 : Keeps s0 s) : KOut s0 (execFence k s) := by
  unfold execFence
  repeat' first
    | with_reducible first | assumption | apply issue_keeps | apply done_keeps | apply ok_keeps
    | intro _
    | (extract_lets +onlyGivenNames w)
    | split

theorem scrubCount_keeps {s0 : State} {m x1 s} (h2 : Keeps s0 s) : Keeps s0 (scrubCount m x1 s) := by
  unfold scrubCount
  repeat' first
    | with_reducible assumption
    | (extract_lets +onlyGivenNames w)
    | dsimp +zetaDelta only
    | ((with_reducible refine Keeps.isMk ?_ ?_); rfl)

theorem execScrubPass_keeps {s0 : State} {mem s} (h1 : Keeps s0 s) : KOut s0 (execScrubPass mem s) := by
  unfold execScrubPass
  repeat' first
    | with_reducible first | assumption | apply dutyDone_keeps | apply scrubDone_keeps | apply scrubCount_keeps
    | with_reducible first | apply scrubWord_keeps | apply ok_keeps | apply Keeps.foldl
    | (extract_lets +onlyGivenNames w;
        refine Keeps.cut (s0 := s0) w ?a ?b;
        (case' a => dsimp only [w]); (case' b => clear_value w; intro hw))
    | (extract_lets +onlyGivenNames w)
    | split
    | dsimp +zetaDelta only
    | ((with_reducible refine Keeps.isMk ?_ ?_); rfl)

theorem execRep_keeps {s0 : State} {k n s} (h2 : Keeps s0 s) : KOut s0 (execRep k n s) := by
  unfold execRep
  repeat' first
    | with_reducible first | assumption | apply State.setCore_keeps | apply issue_keeps | apply syncExc_keeps
    | with_reducible apply ok_keeps
    | intro _
    | (extract_lets +onlyGivenNames w)
    | split

theorem execPushRetry_keeps {s0 : State} {fab n s} (h2 : Keeps s0 s) : KOut s0 (execPushRetry fab n s) := by
  unfold execPushRetry
  repeat' first
    | with_reducible first | assumption | apply State.setField_keeps | apply ok_keeps
    | split

theorem execVfmin_keeps {s0 : State} {k vd va vb ty s} (h5 : Keeps s0 s) : KOut s0 (execVfmin k vd va vb ty s) := by
  unfold execVfmin
  repeat' with_reducible first | assumption | apply vfbin_keeps

theorem execMbxAlloc_keeps {s0 : State} {r s} (h1 : Keeps s0 s) : KOut s0 (execMbxAlloc r s) := by
  unfold execMbxAlloc
  repeat' first
    | with_reducible first | assumption | apply State.setReg_keeps | apply State.answer_keeps | apply ok_keeps
    | split

theorem execRunDelta_keeps {s0 : State} {m run hash s} (h3 : Keeps s0 s) : KOut s0 (execRunDelta m run hash s) := by
  unfold execRunDelta
  repeat' first
    | with_reducible first | assumption | apply accept_keeps | apply State.respond_keeps | apply State.setPeer_keeps
    | with_reducible first | apply pushBlobEntry_keeps | apply ok_keeps | refine Keeps.ofDone (by assumption) ?_
    | with_reducible refine Keeps.ofGo (by assumption) ?_
    | (extract_lets +onlyGivenNames w;
        refine Keeps.cut (s0 := s0) w ?a ?b;
        (case' a => dsimp only [w]); (case' b => clear_value w; intro hw))
    | (extract_lets +onlyGivenNames w)
    | split

theorem execTimeConfigSyncePrio_keeps {s0 : State} {m iot port value rest s} (h5 : Keeps s0 s) :
    KOut s0 (execTimeConfigSyncePrio m iot port value rest s) := by
  unfold execTimeConfigSyncePrio
  repeat' with_reducible first | assumption | apply timeSetting_keeps

theorem execTileIdleSleep_keeps {s0 : State} {tile s} (h1 : Keeps s0 s) : KOut s0 (execTileIdleSleep tile s) := by
  unfold execTileIdleSleep
  repeat' first
    | with_reducible first | assumption | apply sleepOrDrain_keeps | apply State.modIsland_keeps | apply ok_keeps
    | (extract_lets +onlyGivenNames w)
    | split

theorem execTimeConfigGmTod_keeps {s0 : State} {m value rest s} (h3 : Keeps s0 s) :
    KOut s0 (execTimeConfigGmTod m value rest s) := by
  unfold execTimeConfigGmTod
  repeat' with_reducible first | assumption | apply timeSetting_keeps

theorem execTimeConfigLprio_keeps {s0 : State} {m iot port value rest s} (h5 : Keeps s0 s) :
    KOut s0 (execTimeConfigLprio m iot port value rest s) := by
  unfold execTimeConfigLprio
  repeat' with_reducible first | assumption | apply timeSetting_keeps

theorem execTimeConfigDomain_keeps {s0 : State} {m value rest s} (h3 : Keeps s0 s) :
    KOut s0 (execTimeConfigDomain m value rest s) := by
  unfold execTimeConfigDomain
  repeat' with_reducible first | assumption | apply timeSetting_keeps

theorem execCmsu_keeps {s0 : State} {k n ga gb s} (h4 : Keeps s0 s) : KOut s0 (execCmsu k n ga gb s) := by
  unfold execCmsu
  repeat' with_reducible first | assumption | apply plain_keeps

theorem execMove_keeps {s0 : State} {tile ch s} (h2 : Keeps s0 s) : KOut s0 (execMove tile ch s) := by
  unfold execMove
  repeat' first
    | with_reducible first | assumption | apply issueRows_keeps | apply modChan_keeps | apply ok_keeps
    | (extract_lets +onlyGivenNames w)
    | split

theorem execVmax_keeps {s0 : State} {k vd va vb ty mode s} (h6 : Keeps s0 s) :
    KOut s0 (execVmax k vd va vb ty mode s) := by
  unfold execVmax
  repeat' with_reducible first | assumption | apply vins_keeps

theorem execAuxdacOffsetTrim_keeps {s0 : State} {ch step s} (h2 : Keeps s0 s) :
    KOut s0 (execAuxdacOffsetTrim ch step s) := by
  unfold execAuxdacOffsetTrim
  repeat' first
    | with_reducible first | assumption | apply dutyDone_keeps | apply ok_keeps
    | (extract_lets +onlyGivenNames w)
    | split
    | dsimp +zetaDelta only
    | ((with_reducible refine Keeps.isMk ?_ ?_); rfl)

theorem execThermtrip_keeps {s0 : State} {island temp s} (h2 : Keeps s0 s) :
    KOut s0 (execThermtrip island temp s) := by
  unfold execThermtrip
  repeat' first
    | with_reducible first | assumption | apply devReset_keeps | apply ok_keeps
    | (extract_lets +onlyGivenNames w;
        refine Keeps.cut (s0 := s0) w ?a ?b;
        (case' a => dsimp only [w]); (case' b => clear_value w; intro hw))
    | (extract_lets +onlyGivenNames w)
    | split
    | dsimp +zetaDelta only
    | ((with_reducible refine Keeps.isMk ?_ ?_); rfl)

theorem execWfqTelemetryCollect_keeps {s0 : State} {iot s} (h1 : Keeps s0 s) :
    KOut s0 (execWfqTelemetryCollect iot s) := by
  unfold execWfqTelemetryCollect
  repeat' first
    | with_reducible first | assumption | apply dutyDone_keeps | apply ok_keeps
    | (extract_lets +onlyGivenNames w)
    | split
    | dsimp +zetaDelta only
    | ((with_reducible refine Keeps.isMk ?_ ?_); rfl)

theorem execHostkeyEnrolRevoke_keeps {s0 : State} {m kind slot s} (h3 : Keeps s0 s) :
    KOut s0 (execHostkeyEnrolRevoke m kind slot s) := by
  unfold execHostkeyEnrolRevoke
  repeat' first
    | with_reducible first | assumption | apply keyOp_keeps | apply refuse_keeps | apply endKeySessions_keeps
    | with_reducible first | apply revoke_keeps | apply ok_keeps
    | intro _
    | (extract_lets +onlyGivenNames w)
    | split

theorem execPrachWindowClose_keeps {s0 : State} {tile ref s} (h2 : Keeps s0 s) :
    KOut s0 (execPrachWindowClose tile ref s) := by
  unfold execPrachWindowClose
  repeat' first
    | with_reducible first | assumption | apply setJob_keeps | apply ok_keeps
    | split

theorem execNetConfigSetBhEgress_keeps {s0 : State} {m index value rest s} (h4 : Keeps s0 s) :
    KOut s0 (execNetConfigSetBhEgress m index value rest s) := by
  unfold execNetConfigSetBhEgress
  repeat' with_reducible first | assumption | apply settings_keeps

theorem execConvEnc_keeps {s0 : State} {tile ref s} (h2 : Keeps s0 s) : KOut s0 (execConvEnc tile ref s) := by
  unfold execConvEnc
  repeat' with_reducible first | assumption | apply runJob_keeps | apply simple_keeps

theorem execBreak__keeps {s0 : State} {k s} (h1 : Keeps s0 s) : KOut s0 (execBreak_ k s) := by
  unfold execBreak_
  repeat' first
    | with_reducible first | assumption | apply issue_keeps | apply syncExcNext_keeps | apply ok_keeps
    | intro _

theorem execQemptyRetry_keeps {s0 : State} {tile ch s} (h2 : Keeps s0 s) : KOut s0 (execQemptyRetry tile ch s) := by
  unfold execQemptyRetry
  repeat' first
    | with_reducible first | assumption | apply issueRows_keeps | apply ok_keeps
    | split

theorem execQcPush_keeps {s0 : State} {fab n s} (h2 : Keeps s0 s) : KOut s0 (execQcPush fab n s) := by
  unfold execQcPush
  repeat' first
    | with_reducible first | assumption | apply State.count_keeps | apply State.readQc_keeps
    | with_reducible first | apply State.setField_keeps | apply pushQ_keeps | apply setQc_keeps | apply ok_keeps
    | intro _
    | (extract_lets +onlyGivenNames w)
    | split

theorem execOcxoSteeringUpdate_keeps {s0 : State} {code s} (h1 : Keeps s0 s) :
    KOut s0 (execOcxoSteeringUpdate code s) := by
  unfold execOcxoSteeringUpdate
  repeat' first
    | with_reducible first | assumption | apply steerCode_keeps | apply State.setReg_keeps | apply State.modTime_keeps
    | with_reducible apply ok_keeps
    | (extract_lets +onlyGivenNames w;
        refine Keeps.cut (s0 := s0) w ?a ?b;
        (case' a => dsimp only [w]); (case' b => clear_value w; intro hw))
    | (extract_lets +onlyGivenNames w)
    | split

theorem execDacCfg_keeps {s0 : State} {r ch value s} (h3 : Keeps s0 s) : KOut s0 (execDacCfg r ch value s) := by
  unfold execDacCfg
  repeat' first
    | with_reducible first | assumption | apply State.answer_keeps | apply dacCfgWrite_keeps | apply ok_keeps
    | split

theorem execVcmacws_keeps {s0 : State} {k vd va vb ty mode s} (h6 : Keeps s0 s) :
    KOut s0 (execVcmacws k vd va vb ty mode s) := by
  unfold execVcmacws
  repeat' with_reducible first | assumption | apply vmacOp_keeps

theorem execDcinvall_keeps {s0 : State} {k s} (h1 : Keeps s0 s) : KOut s0 (execDcinvall k s) := by
  unfold execDcinvall
  repeat' with_reducible first | assumption | apply plain_keeps

theorem execUpshift_keeps {s0 : State} {port snr farSnr s} (h3 : Keeps s0 s) :
    KOut s0 (execUpshift port snr farSnr s) := by
  unfold execUpshift
  repeat' first
    | with_reducible first | assumption | apply State.modSpur_keeps | apply spurTrain_keeps | apply setSnr_keeps
    | with_reducible apply ok_keeps
    | (extract_lets +onlyGivenNames w)
    | split

theorem execSpurEchoTrained_keeps {s0 : State} {port fault atten dist s} (h4 : Keeps s0 s) :
    KOut s0 (execSpurEchoTrained port fault atten dist s) := by
  unfold execSpurEchoTrained
  repeat' first
    | with_reducible first | assumption | apply spurEnter_keeps | apply setLine_keeps | apply ok_keeps
    | split

theorem execNocRead_keeps {s0 : State} {r cls tag req addr n s} (h6 : Keeps s0 s) :
    KOut s0 (execNocRead r cls tag req addr n s) := by
  unfold execNocRead
  repeat' first
    | with_reducible first | assumption | apply refuseAtPort_keeps | apply carry_keeps | apply busRead_keeps
    | with_reducible first | apply respond_keeps | apply State.answer_keeps | apply ok_keeps
    | intro _
    | (extract_lets +onlyGivenNames w;
        refine Keeps.cut2 (s0 := s0) w ?a ?b;
        (case' a => dsimp only [w]); (case' b => clear_value w; intro hw))
    | (extract_lets +onlyGivenNames w)
    | split

theorem execShri_keeps {s0 : State} {k gd ga sh f s} (h5 : Keeps s0 s) : KOut s0 (execShri k gd ga sh f s) := by
  unfold execShri
  repeat' with_reducible first | assumption | apply shiftImm_keeps

theorem execTimeReacquireTimeout_keeps {s0 : State} {s} (h0 : Keeps s0 s) : KOut s0 (execTimeReacquireTimeout s) := by
  unfold execTimeReacquireTimeout
  repeat' first
    | with_reducible first | assumption | apply reacqEnd_keeps | apply ok_keeps
    | split

theorem execStaccIm_keeps {s0 : State} {k gd n rs s} (h4 : Keeps s0 s) : KOut s0 (execStaccIm k gd n rs s) := by
  unfold execStaccIm
  repeat' with_reducible first | assumption | apply plain_keeps

theorem execServoLock_keeps {s0 : State} {s} (h0 : Keeps s0 s) : KOut s0 (execServoLock s) := by
  unfold execServoLock
  repeat' first
    | with_reducible first | assumption | apply setServo_keeps | apply ok_keeps
    | split

theorem execRunaheadExit_keeps {s0 : State} {tile core s} (h2 : Keeps s0 s) :
    KOut s0 (execRunaheadExit tile core s) := by
  unfold execRunaheadExit
  repeat' first
    | with_reducible first | assumption | apply State.setCore_keeps | apply ok_keeps
    | (extract_lets +onlyGivenNames w)
    | split

theorem execRunL2Data_keeps {s0 : State} {m run kind len addr s} (h5 : Keeps s0 s) :
    KOut s0 (execRunL2Data m run kind len addr s) := by
  unfold execRunL2Data
  repeat' first
    | with_reducible first | assumption | apply serve_keeps | apply refuse_keeps | apply sendRecord_keeps
    | with_reducible first | apply modExport_keeps | apply sendDelta_keeps | apply ok_keeps
    | intro _
    | (extract_lets +onlyGivenNames w)
    | split

theorem execUeReport_keeps {s0 : State} {s} (h0 : Keeps s0 s) : KOut s0 (execUeReport s) := by
  unfold execUeReport
  repeat' first
    | with_reducible first | assumption | apply State.raise_keeps | apply ok_keeps
    | (extract_lets +onlyGivenNames w;
        refine Keeps.cut (s0 := s0) w ?a ?b;
        (case' a => dsimp only [w]); (case' b => clear_value w; intro hw))
    | (extract_lets +onlyGivenNames w)
    | split
    | dsimp +zetaDelta only
    | ((with_reducible refine Keeps.isMk ?_ ?_); rfl)

theorem netStep_keeps {s0 : State} {f d m mv s} (h4 : Keeps s0 s) : Keeps s0 (netStep f d m mv s) := by
  unfold netStep
  repeat' first
    | with_reducible first | assumption | apply State.modFab_keeps | apply ok_keeps
    | intro _
    | (extract_lets +onlyGivenNames w)
    | split

theorem netCycle_keeps {s0 : State} {f d m s} (h3 : Keeps s0 s) : Keeps s0 (netCycle f d m s) := by
  unfold netCycle
  repeat' first
    | with_reducible first | assumption | apply State.modFab_keeps | apply netStep_keeps | apply ok_keeps
    | with_reducible apply Keeps.foldl
    | intro _
    | (extract_lets +onlyGivenNames w)
    | split

theorem fabTick_keeps {s0 : State} {before s f} (h0 : Keeps s0 before) (h1 : Keeps s0 s) : Keeps s0 (fabTick before s f)
    := by
  unfold fabTick
  repeat' first
    | with_reducible first | assumption | apply State.takeFresh_keeps | apply netCycle_keeps | apply netStep_keeps
    | with_reducible first | apply shutLine_keeps | apply ok_keeps | apply Keeps.foldl
    | intro _
    | (extract_lets +onlyGivenNames w)
    | split

theorem nocTick_keeps {s0 : State} {before s} (h0 : Keeps s0 before) (h1 : Keeps s0 s) : Keeps s0 (nocTick before s)
    := by
  unfold nocTick
  repeat' first
    | with_reducible first | assumption | apply ok_keeps
    | intro _
    | (extract_lets +onlyGivenNames w)
    | split
    | ((with_reducible refine Keeps.isMk ?_ ?_); rfl)

theorem tick_keeps {s0 s : State} (h : Keeps s0 s) : Keeps s0 (tick s) :=
  Keeps.foldl _ (nocTick_keeps h (tickClock_keeps h)) fun _ _ g => fabTick_keeps h g

end Sys2Proof.Machine
end

