-- ==== Sys2Proof/Machine/Operands.lean ====
section
/-! DEFINITION. The operands of commands: the ranges the specification gives the numbers that name tiles, cores,
ports, queues and addresses, the widths of message fields, and the composite operands (requesters, producers, message
headers, places of core instructions, job references, memory operands). -/

namespace Sys2Proof.Machine

/-- A tile number of the part (R347). -/
def tileNo (p : Part) (n : Nat) : Bool := tilePresent p n
/-- A core number (R2). -/
def coreNo (n : Nat) : Bool := decide (n < 4)
/-- An IOT of the part (R347). -/
def iotNo (p : Part) (n : Nat) : Bool := iotPresent p n
/-- A port of an IOT: 0 to 3, or 4 for the MGT port (R96, R395). -/
def portNo (n : Nat) : Bool := decide (n < 5)
/-- A spur port (R457). -/
def spurNo (n : Nat) : Bool := decide (n < 4)
/-- A lane of an IOT: 0 to 3, or 4 for the MGT lane (R394). -/
def laneNo (n : Nat) : Bool := decide (n < 5)
/-- A fabric tile of the part (R474). -/
def fabNo (p : Part) (n : Nat) : Bool := decide (n < 4) && quadPresent p n
/-- A dispatcher of the part (R191). -/
def dsqNo (p : Part) (n : Nat) : Bool := quadPresent p n
/-- A QID (R193). -/
def qidNo (n : Nat) : Bool := decide (n < 65536)
/-- A physical address (R365). -/
def addrNo (n : Nat) : Bool := decide (n < 2 ^ 48)
/-- The width of a register access in bytes (R11). -/
def sizeNo (n : Nat) : Bool := n == 1 || n == 2 || n == 4 || n == 8
/-- A number that fits a field of `w` bits. -/
def fits (w n : Nat) : Bool := decide (n < 2 ^ w)
/-- A list of exactly `n` bytes. -/
def exactly (n : Nat) (l : List Byte) : Bool := l.length == n
/-- A list of at most `n` bytes. -/
def atMost (n : Nat) (l : List Byte) : Bool := decide (l.length ≤ n)

/-- A requester of the part (R11). -/
def requesterOk (p : Part) : Requester → Bool
  | .core t c => isDsp p t && coreNo c
  | .fetch t c => isDsp p t && coreNo c
  | .gaffer => true
  | .ctlh => true
  | .dma t c => tileNo p t && decide (c < 16)
  | .acc t => (accKind p t).isSome
  | .iot k => iotNo p k
  | .fab f => fabNo p f
  | .dsq q => dsqNo p q
  | .memc t => tileNo p t && tileKindOf t == .mem
  | .home t => tileNo p t
  | .scrub t => tileNo p t

/-- A producer of queue entries (R198). -/
def producerOk (p : Part) : Producer → Bool
  | .core t c g => isDsp p t && coreNo c && decide (g < 64)
  | .dma t c => tileNo p t && decide (c < 16)
  | .iot k => iotNo p k
  | .acc t => (accKind p t).isSome
  | .fab f n => fabNo p f && decide (n < 64)
  | .gaffer => true
  | .home r => fits 16 r

/-- A message header (R64): its fields fit. -/
def msgOk (m : TcsMsg) : Bool := fits 8 m.mbx && fits 8 m.crit && fits 16 m.len && fits 16 m.frameLen && fits 64 m.expiry
  && atMost 65536 m.payload

/-- The place of a core instruction (R2, R233). -/
def issueOk (p : Part) (k : Issue) : Bool := isDsp p k.tile && coreNo k.core

/-- A format M memory operand (R243, R251): register numbers, and a 9-bit signed offset. -/
def maddrOk (a : MAddr) : Bool := decide (a.an < 8) && decide (a.mm < 8) && decide (-256 ≤ a.off ∧ a.off ≤ 255)

/-- The count of REP (R263). -/
def repOk : RepCount → Bool
  | .imm n => decide (1 ≤ n) && decide (n ≤ 4096)
  | .reg ga => decide (ga < 32)

/-- A job (R301, R302, R305). -/
def jobRefOk (p : Part) : JobRef → Bool
  | .dsq qid seq n => qidNo qid && fits 16 seq && fits 64 n
  | .cq t c g => tileNo p t && coreNo c && decide (g < 64)
  | .conf t n => tileNo p t && fits 32 n

/-- A memory that is scrubbed (R384). -/
def scrubOk (p : Part) : ScrubMem → Bool
  | .sram t => tileNo p t
  | .hbm q => quadPresent p q
  | .mram => true

end Sys2Proof.Machine
end

