-- ==== Sys2Proof/WellFormed.lean ====
section
/-! DEFINITION. Well-formed commands: every operand names something the part has and fits the field it comes in. The
meanings are total: a command that is not well formed has an outcome as well. Assumption log: 106 (DESIGN CHOICE). -/

namespace Sys2Proof

open Sys2Proof.Machine

/-- Every operand of a command is in range for the part. -/
def wellFormed (pt : Part) (i : Instr) : Bool :=
  match i with
  | .add_ k _ _ _ _ => issueOk pt k
  | .sub_ k _ _ _ _ => issueOk pt k
  | .and_ k _ _ _ _ => issueOk pt k
  | .or_ k _ _ _ _ => issueOk pt k
  | .xor_ k _ _ _ _ => issueOk pt k
  | .andn k _ _ _ _ => issueOk pt k
  | .shl k _ _ _ _ => issueOk pt k
  | .shr k _ _ _ _ => issueOk pt k
  | .sar k _ _ _ _ => issueOk pt k
  | .ror k _ _ _ _ => issueOk pt k
  | .div_ k _ _ _ _ => issueOk pt k
  | .divu k _ _ _ _ => issueOk pt k
  | .neg k _ _ _ => issueOk pt k
  | .abs_ k _ _ _ => issueOk pt k
  | .shli k _ _ _ _ => issueOk pt k
  | .shri k _ _ _ _ => issueOk pt k
  | .sari k _ _ _ _ => issueOk pt k
  | .rori k _ _ _ _ => issueOk pt k
  | .clz k _ _ => issueOk pt k
  | .popc k _ _ => issueOk pt k
  | .brev k _ _ => issueOk pt k
  | .mul k _ _ _ => issueOk pt k
  | .mulh k _ _ _ => issueOk pt k
  | .mulhu k _ _ _ => issueOk pt k
  | .adds k _ _ _ => issueOk pt k
  | .subs k _ _ _ => issueOk pt k
  | .min_ k _ _ _ => issueOk pt k
  | .max_ k _ _ _ => issueOk pt k
  | .minu k _ _ _ => issueOk pt k
  | .maxu k _ _ _ => issueOk pt k
  | .sel k _ _ _ => issueOk pt k
  | .cmp k _ _ => issueOk pt k
  | .tst k _ _ => issueOk pt k
  | .movx k _ _ _ _ _ => issueOk pt k
  | .addi k _ _ _ => issueOk pt k
  | .andi k _ _ _ => issueOk pt k
  | .ori k _ _ _ => issueOk pt k
  | .xori k _ _ _ => issueOk pt k
  | .movhi k _ _ => issueOk pt k
  | .cmpi k _ _ => issueOk pt k
  | .aaddi k _ _ => issueOk pt k
  | .longPrefix k _ => issueOk pt k
  | .ld k _ a _ _ => issueOk pt k && maddrOk a
  | .st k _ a _ => issueOk pt k && maddrOk a
  | .lda k _ _ a => issueOk pt k && maddrOk a
  | .sta k _ _ a => issueOk pt k && maddrOk a
  | .ldxy k _ _ _ _ _ _ => issueOk pt k
  | .vld k _ a => issueOk pt k && maddrOk a
  | .vst k _ a => issueOk pt k && maddrOk a
  | .loadDataReturn tile core => tileNo pt tile && coreNo core
  | .runaheadEnter tile core l => tileNo pt tile && coreNo core && l.all fun g => fits 64 g.2
  | .runaheadExit tile core => tileNo pt tile && coreNo core
  | .postedStoreAck tile core n => tileNo pt tile && coreNo core && fits 64 n
  | .cmac k _ _ _ => issueOk pt k
  | .cmacj k _ _ _ => issueOk pt k
  | .cmsu k _ _ _ => issueOk pt k
  | .cmul k _ _ _ => issueOk pt k
  | .fir4 k _ _ _ _ _ => issueOk pt k
  | .staccC k _ _ _ => issueOk pt k
  | .staccRe k _ _ _ => issueOk pt k
  | .staccIm k _ _ _ => issueOk pt k
  | .staccCz k _ _ _ => issueOk pt k
  | .accclr k _ => issueOk pt k
  | .accld k _ _ _ => issueOk pt k
  | .accadd k _ _ => issueOk pt k
  | .bCond k _ _ => issueOk pt k
  | .call k _ => issueOk pt k
  | .jr k _ => issueOk pt k
  | .jalr k _ => issueOk pt k
  | .ret k => issueOk pt k
  | .rep k n => issueOk pt k && repOk n
  | .dbnz k _ _ => issueOk pt k
  | .movc k _ _ _ => issueOk pt k
  | .nop k => issueOk pt k
  | .tend k => issueOk pt k
  | .break_ k => issueOk pt k
  | .rte k => issueOk pt k
  | .fence k => issueOk pt k
  | .wait k => issueOk pt k
  | .dcinvall k => issueOk pt k
  | .icinv k => issueOk pt k
  | .tterm k => issueOk pt k
  | .trap k _ => issueOk pt k
  | .dcinv k _ => issueOk pt k
  | .tendComplete tile core => tileNo pt tile && coreNo core
  | .illegal k => issueOk pt k
  | .asyncException tile core => tileNo pt tile && coreNo core
  | .coreTimer tile core => tileNo pt tile && coreNo core
  | .coreWaitTimeout tile core => tileNo pt tile && coreNo core
  | .deadlineHard tile core => tileNo pt tile && coreNo core
  | .vadd k _ _ _ _ _ => issueOk pt k
  | .vsub k _ _ _ _ _ => issueOk pt k
  | .vavg k _ _ _ _ _ => issueOk pt k
  | .vmin k _ _ _ _ _ => issueOk pt k
  | .vmax k _ _ _ _ _ => issueOk pt k
  | .vand k _ _ _ _ _ => issueOk pt k
  | .vor k _ _ _ _ _ => issueOk pt k
  | .vxor k _ _ _ _ _ => issueOk pt k
  | .vandn k _ _ _ _ _ => issueOk pt k
  | .vcmpeq k _ _ _ _ _ => issueOk pt k
  | .vcmplt k _ _ _ _ _ => issueOk pt k
  | .vsel k _ _ _ _ _ => issueOk pt k
  | .vmul k _ _ _ _ _ => issueOk pt k
  | .vmulhr k _ _ _ _ _ => issueOk pt k
  | .vcmul k _ _ _ _ _ => issueOk pt k
  | .vcmulj k _ _ _ _ _ => issueOk pt k
  | .vmacw k _ _ _ _ _ => issueOk pt k
  | .vmsuw k _ _ _ _ _ => issueOk pt k
  | .vcmacw k _ _ _ _ _ => issueOk pt k
  | .vcmacjw k _ _ _ _ _ => issueOk pt k
  | .vcmsuw k _ _ _ _ _ => issueOk pt k
  | .vcmacws k _ _ _ _ _ => issueOk pt k
  | .vneg k _ _ _ _ => issueOk pt k
  | .vabs k _ _ _ _ => issueOk pt k
  | .vconj k _ _ _ _ => issueOk pt k
  | .vrotj k _ _ _ _ => issueOk pt k
  | .vrsumw k _ _ _ _ => issueOk pt k
  | .vshli k _ _ _ _ _ => issueOk pt k
  | .vsari k _ _ _ _ _ => issueOk pt k
  | .vshri k _ _ _ _ _ => issueOk pt k
  | .vnarrow k _ _ _ _ _ => issueOk pt k
  | .vwiden k _ _ _ _ _ => issueOk pt k
  | .vdup k _ _ _ => issueOk pt k
  | .vext k _ _ _ _ => issueOk pt k
  | .vpermx k _ _ _ _ => issueOk pt k
  | .vrev k _ _ _ => issueOk pt k
  | .vmovg k _ _ _ _ => issueOk pt k
  | .vins k _ _ _ _ => issueOk pt k
  | .vfadd k _ _ _ _ => issueOk pt k
  | .vfsub k _ _ _ _ => issueOk pt k
  | .vfmul k _ _ _ _ => issueOk pt k
  | .vfma k _ _ _ _ => issueOk pt k
  | .vfmin k _ _ _ _ => issueOk pt k
  | .vfmax k _ _ _ _ => issueOk pt k
  | .vfnarrow k _ _ _ => issueOk pt k
  | .vfwiden k _ _ _ => issueOk pt k
  | .vfcvti k _ _ _ => issueOk pt k
  | .vfcvtf k _ _ _ => issueOk pt k
  | .fadd k _ _ _ _ => issueOk pt k
  | .fsub k _ _ _ _ => issueOk pt k
  | .fmul k _ _ _ _ => issueOk pt k
  | .fma k _ _ _ _ => issueOk pt k
  | .fdiv k _ _ _ _ => issueOk pt k
  | .fmin k _ _ _ _ => issueOk pt k
  | .fmax k _ _ _ _ => issueOk pt k
  | .fsqrt k _ _ _ => issueOk pt k
  | .fcvt k _ _ _ => issueOk pt k
  | .fcvti k _ _ _ => issueOk pt k
  | .fcvtf k _ _ _ => issueOk pt k
  | .fmovg k _ _ _ => issueOk pt k
  | .fmovf k _ _ _ => issueOk pt k
  | .fcmpg k _ _ _ _ => issueOk pt k
  | .vgather k _ _ _ _ _ => issueOk pt k
  | .vscatter k _ _ _ _ _ => issueOk pt k
  | .mbxNoticeRetry mailbox => fits 64 mailbox
  | .cqtest k _ => issueOk pt k
  | .cqstat k _ _ => issueOk pt k
  | .accJob k _ _ _ target => issueOk pt k && fits 64 target
  | .helper k _ _ _ => issueOk pt k
  | .qPush k _ _ _ => issueOk pt k
  | .qPop k _ _ _ => issueOk pt k
  | .jobAbort k _ _ _ => issueOk pt k
  | .commit tile core tag => tileNo pt tile && coreNo core && fits 64 tag
  | .cancel tile core tag => tileNo pt tile && coreNo core && fits 64 tag
  | .cancelAck tile core tag => tileNo pt tile && coreNo core && fits 64 tag
  | .cqResultArrive tile core tag => tileNo pt tile && coreNo core && fits 64 tag
  | .accCqArrive tile core tag => tileNo pt tile && coreNo core && fits 64 tag
  | .accJobStart tile ref => tileNo pt tile && jobRefOk pt ref
  | .accJobComplete tile ref => tileNo pt tile && jobRefOk pt ref
  | .accWatchdog tile ref => tileNo pt tile && jobRefOk pt ref
  | .accAbort tile desc => tileNo pt tile && fits 64 desc
  | .cmatmul tile ref => tileNo pt tile && jobRefOk pt ref
  | .cmatmulh tile ref => tileNo pt tile && jobRefOk pt ref
  | .cgram tile ref => tileNo pt tile && jobRefOk pt ref
  | .ccholsolve tile ref => tileNo pt tile && jobRefOk pt ref
  | .fftFwd tile ref => tileNo pt tile && jobRefOk pt ref
  | .fftInv tile ref => tileNo pt tile && jobRefOk pt ref
  | .feedcorr tile ref => tileNo pt tile && jobRefOk pt ref
  | .chest tile ref => tileNo pt tile && jobRefOk pt ref
  | .combine tile ref => tileNo pt tile && jobRefOk pt ref
  | .detect tile ref => tileNo pt tile && jobRefOk pt ref
  | .demap tile ref => tileNo pt tile && jobRefOk pt ref
  | .precode tile ref => tileNo pt tile && jobRefOk pt ref
  | .ldpcDec tile ref => tileNo pt tile && jobRefOk pt ref
  | .ldpcEnc tile ref => tileNo pt tile && jobRefOk pt ref
  | .polarDec tile ref => tileNo pt tile && jobRefOk pt ref
  | .polarEnc tile ref => tileNo pt tile && jobRefOk pt ref
  | .turboDec tile ref => tileNo pt tile && jobRefOk pt ref
  | .turboEnc tile ref => tileNo pt tile && jobRefOk pt ref
  | .convDec tile ref => tileNo pt tile && jobRefOk pt ref
  | .convEnc tile ref => tileNo pt tile && jobRefOk pt ref
  | .gmskMlse tile ref => tileNo pt tile && jobRefOk pt ref
  | .gmskMod tile ref => tileNo pt tile && jobRefOk pt ref
  | .prachSearch tile ref _ => tileNo pt tile && jobRefOk pt ref
  | .rachSearch tile ref _ => tileNo pt tile && jobRefOk pt ref
  | .prachWindowClose tile ref => tileNo pt tile && jobRefOk pt ref
  | .reg64LowRead r addr => requesterOk pt r && addrNo addr
  | .reg64LowWrite r addr _ => requesterOk pt r && addrNo addr
  | .reg64HighWrite r addr _ => requesterOk pt r && addrNo addr
  | .cpWrite r addr _ => requesterOk pt r && addrNo addr
  | .cpPairTimeout addr => addrNo addr
  | .rcRead r addr => requesterOk pt r && addrNo addr
  | .registerWrite r addr size _ => requesterOk pt r && addrNo addr && sizeNo size
  | .corridorSetCreate m corridor margin rest => msgOk m && fits 64 corridor && fits 64 margin && decide (rest.length < 64)
  | .corridorSetModify m corridor margin rest => msgOk m && fits 64 corridor && fits 64 margin && decide (rest.length < 64)
  | .corridorSetDelete m corridor rest => msgOk m && fits 64 corridor && decide (rest.length < 64)
  | .ruSet m _ rest => msgOk m && decide (rest.length < 64)
  | .ruRemove m ru rest => msgOk m && fits 16 ru && decide (rest.length < 64)
  | .carrierSet m _ rest => msgOk m && decide (rest.length < 64)
  | .carrierRemove m scope sindex carrier rest => msgOk m && fits 8 scope && fits 8 sindex && fits 16 carrier && decide (rest.length < 64)
  | .carrierInstSetTxEn m carrier ru _ _ rest => msgOk m && fits 16 carrier && fits 16 ru && decide (rest.length < 64)
  | .carrierInstSetPwrLimit m carrier ru _ _ rest => msgOk m && fits 16 carrier && fits 16 ru && decide (rest.length < 64)
  | .carrierInstSetCompw m carrier ru _ _ rest => msgOk m && fits 16 carrier && fits 16 ru && decide (rest.length < 64)
  | .carrierInstSetPortmaskLo m carrier ru _ _ rest => msgOk m && fits 16 carrier && fits 16 ru && decide (rest.length < 64)
  | .carrierInstSetPortmaskHi m carrier ru _ _ rest => msgOk m && fits 16 carrier && fits 16 ru && decide (rest.length < 64)
  | .staticCellSetGroup m corridor carrier first count rest => msgOk m && fits 64 corridor && fits 16 carrier && fits 64 first && fits 64 count && decide (rest.length < 64)
  | .staticCellSetUngroup m corridor carrier first count rest => msgOk m && fits 64 corridor && fits 16 carrier && fits 64 first && fits 64 count && decide (rest.length < 64)
  | .stationCellSet m station maxUl maxDl rest => msgOk m && fits 16 station && fits 64 maxUl && fits 64 maxDl && decide (rest.length < 64)
  | .stationCellSetDelete m station rest => msgOk m && fits 16 station && decide (rest.length < 64)
  | .peerSet m _ => msgOk m
  | .peerSetClear m corridor endHi => msgOk m && fits 64 corridor && fits 64 endHi
  | .configRead m what index index2 => msgOk m && fits 64 what && fits 16 index && fits 16 index2
  | .settingEffect scope sindex carrier => fits 8 scope && fits 8 sindex && fits 16 carrier
  | .compressionWidthLower ru carrier => fits 16 ru && fits 16 carrier
  | .carrierInstanceSuspend ru carrier => fits 16 ru && fits 16 carrier
  | .netConfigSetPortAddr m index value rest => msgOk m && fits 16 index && atMost 24 value && decide (rest.length < 64)
  | .netConfigSetPortGw m index value rest => msgOk m && fits 16 index && atMost 24 value && decide (rest.length < 64)
  | .netConfigSetPortVlan m index value rest => msgOk m && fits 16 index && atMost 24 value && decide (rest.length < 64)
  | .netConfigSetPortMode m index value rest => msgOk m && fits 16 index && atMost 24 value && decide (rest.length < 64)
  | .netConfigSetLaneTx m index value rest => msgOk m && fits 16 index && atMost 24 value && decide (rest.length < 64)
  | .netConfigSetBhEgress m index value rest => msgOk m && fits 16 index && atMost 24 value && decide (rest.length < 64)
  | .netConfigSetBhIngress m index value rest => msgOk m && fits 16 index && atMost 24 value && decide (rest.length < 64)
  | .netConfigSetSpur m index value rest => msgOk m && fits 16 index && atMost 24 value && decide (rest.length < 64)
  | .netConfigSetWake m value rest => msgOk m && atMost 24 value && decide (rest.length < 64)
  | .netConfigSetParisonRu m entry value rest => msgOk m && fits 8 entry && atMost 24 value && decide (rest.length < 64)
  | .sessionHello m slot hostNonce encKey => msgOk m && fits 64 slot && exactly 32 hostNonce && exactly 1184 encKey
  | .sessionConfirm m _ => msgOk m
  | .sessionClose m => msgOk m
  | .keepalive m => msgOk m
  | .sessionPendingTimeout _ => true
  | .sessionIdleTimeout _ => true
  | .opAbort m mbx _ => msgOk m && fits 8 mbx
  | .eventFetch m start count => msgOk m && fits 64 start && fits 64 count
  | .semAcquire m sem leaseMs => msgOk m && fits 8 sem && fits 64 leaseMs
  | .semRenew m sem leaseMs => msgOk m && fits 8 sem && fits 64 leaseMs
  | .semRelease m sem => msgOk m && fits 8 sem
  | .semQuery m _ => msgOk m
  | .semBreak m sem => msgOk m && fits 8 sem
  | .leaseExpired sem => fits 8 sem
  | .devInfo m => msgOk m
  | .countersRead m group clear index => msgOk m && fits 64 group && fits 64 clear && fits 16 index
  | .counterTotalPoll => true
  | .mbxAlloc r => requesterOk pt r
  | .mbxSubmit r _ => requesterOk pt r
  | .mbxAbort r _ => requesterOk pt r
  | .mbxFree r _ _ => requesterOk pt r
  | .mbxComplete _ => true
  | .reservedOpcode m opcode => msgOk m && fits 64 opcode
  | .ethFrameReceive iot port _ => iotNo pt iot && portNo port
  | .rxWindowClose ru carrier frame slot symbol => fits 16 ru && fits 16 carrier && fits 64 frame && fits 64 slot && fits 64 symbol
  | .fhDelayMeasure iot port _ => iotNo pt iot && portNo port
  | .runBoundary run _ => fits 64 run
  | .seekTimeout run => fits 64 run
  | .coastEnter run => fits 64 run
  | .coastLimitExpiry run => fits 64 run
  | .loopSatSet run pos => fits 64 run && fits 64 pos
  | .loopSatClear run pos => fits 64 run && fits 64 pos
  | .runPosition m run _ accuracy chainage _ tFix => msgOk m && fits 64 run && fits 64 accuracy && fits 64 chainage && fits 64 tFix
  | .runCreate m _ => msgOk m
  | .runEnd m run => msgOk m && fits 64 run
  | .runRead m run => msgOk m && fits 64 run
  | .runExport m run => msgOk m && fits 64 run
  | .gafferPairRewrite run => fits 64 run
  | .peerHello m _ _ => msgOk m
  | .peerHelloResponse _ _ _ payload _ => atMost 65536 payload
  | .peerConfirm m => msgOk m
  | .peerConfirmResponse _ _ m status => msgOk m && fits 8 status
  | .peerKeepalive m => msgOk m
  | .peerKeepaliveSend _ _ => true
  | .peerSessionTimeout _ _ => true
  | .peerSessionReopen _ _ => true
  | .runL2Data m run kind len addr => msgOk m && fits 64 run && fits 64 kind && fits 64 len && addrNo addr
  | .exportL2WaitExpiry _ _ => true
  | .runImport m _ => msgOk m
  | .runBlob m run kind offset data => msgOk m && fits 64 run && fits 64 kind && fits 64 offset && atMost 65536 data
  | .runDelta m run hash => msgOk m && fits 64 run && exactly 32 hash
  | .exportReplyReceive _ _ m status peerRun => msgOk m && fits 8 status && fits 64 peerRun
  | .handoverTimeout _ _ => true
  | .handoverRetry _ _ => true
  | .queuePush p qid entry => producerOk pt p && qidNo qid && exactly 32 entry
  | .queuePop r qid max => requesterOk pt r && qidNo qid && fits 64 max
  | .heldPushAccept qid => qidNo qid
  | .queueEnable r qid => requesterOk pt r && qidNo qid
  | .dispatch q => dsqNo pt q
  | .contextPrefetchDone qid => qidNo qid
  | .taskEndReport qid seq tile _ => qidNo qid && fits 16 seq && tileNo pt tile
  | .catchupSpanClose q flid => dsqNo pt q && fits 64 flid
  | .crumbCtrl m _ => msgOk m
  | .crumbStreamSend _ => true
  | .pauseFrameRepeat qid => qidNo qid
  | .coreTaskStart tile core => tileNo pt tile && coreNo core
  | .ring r tile _ => requesterOk pt r && tileNo pt tile
  | .abort r tile _ => requesterOk pt r && tileNo pt tile
  | .resume r tile _ => requesterOk pt r && tileNo pt tile
  | .reset r tile _ => requesterOk pt r && tileNo pt tile
  | .dmaFetch tile _ => tileNo pt tile
  | .end_ tile _ => tileNo pt tile
  | .move tile _ => tileNo pt tile
  | .loop tile _ => tileNo pt tile
  | .dmaWait tile _ => tileNo pt tile
  | .signalEvent tile _ => tileNo pt tile
  | .signalQpush tile _ => tileNo pt tile
  | .signalInterrupt tile _ => tileNo pt tile
  | .jump tile _ => tileNo pt tile
  | .set tile _ => tileNo pt tile
  | .dmaNop tile _ => tileNo pt tile
  | .dmaRequestComplete tile _ row => tileNo pt tile && fits 64 row
  | .dmaHalt tile _ => tileNo pt tile
  | .dmaWaitSatisfied tile _ => tileNo pt tile
  | .dmaWaitTimeout tile _ => tileNo pt tile
  | .qemptyRetry tile _ => tileNo pt tile
  | .streamGateMessage tile _ => tileNo pt tile
  | .dmaEvtSet r tile _ => requesterOk pt r && tileNo pt tile
  | .nocRead r _ tag req addr n => requesterOk pt r && fits 64 tag && fits 64 req && addrNo addr && fits 64 n
  | .nocWrite r _ tag req addr data => requesterOk pt r && fits 64 tag && fits 64 req && addrNo addr && atMost 65536 data
  | .nocMessage r _ tag req dst addr data => requesterOk pt r && fits 64 tag && fits 64 req && fits 16 dst && addrNo addr && atMost 65536 data
  | .nocResponse dst req tag => fits 16 dst && fits 64 req && fits 64 tag
  | .nocReturn dst req tag => fits 16 dst && fits 64 req && fits 64 tag
  | .linkCrcReplay tile _ _ => tileNo pt tile
  | .linkFail tile _ => tileNo pt tile
  | .correctedWriteback cw => fits 64 cw
  | .ueReport => true
  | .scrubPass mem => scrubOk pt mem
  | .scrubLate mem => scrubOk pt mem
  | .clogHarvest tile _ => tileNo pt tile
  | .errInject m target tile arm double pos => msgOk m && fits 64 target && tileNo pt tile && fits 64 arm && fits 64 double && fits 64 pos
  | .eccClr r tile _ => requesterOk pt r && tileNo pt tile
  | .memcClr r tile _ => requesterOk pt r && tileNo pt tile
  | .signalDetect iot port => iotNo pt iot && portNo port
  | .cdrLock iot port _ => iotNo pt iot && portNo port
  | .polarityCorrect iot port _ => iotNo pt iot && portNo port
  | .laneReversal iot port _ => iotNo pt iot && portNo port
  | .deskew iot port skew => iotNo pt iot && portNo port && fits 64 skew
  | .fecLock iot port => iotNo pt iot && portNo port
  | .linkUp iot port txDly rxDly => iotNo pt iot && portNo port && fits 64 txDly && fits 64 rxDly
  | .bringupStepTimeout iot port => iotNo pt iot && portNo port
  | .linkDown iot port _ => iotNo pt iot && portNo port
  | .adaptationStep iot lane _ _ rxDly => iotNo pt iot && laneNo lane && fits 64 rxDly
  | .marginLow iot lane vert horz => iotNo pt iot && laneNo lane && fits 64 vert && fits 64 horz
  | .prbsLock iot lane _ => iotNo pt iot && laneNo lane
  | .prbsLockLoss iot lane bits errs => iotNo pt iot && laneNo lane && fits 64 bits && fits 64 errs
  | .prbsCounterClear r iot lane _ => requesterOk pt r && iotNo pt iot && laneNo lane
  | .laneTestStop m iot lane bits errs => msgOk m && iotNo pt iot && laneNo lane && fits 64 bits && fits 64 errs
  | .laneTestGenerate m iot lane pattern loopback durationMs => msgOk m && iotNo pt iot && laneNo lane && fits 64 pattern && fits 64 loopback && fits 64 durationMs
  | .laneTestCheck m iot lane pattern loopback durationMs => msgOk m && iotNo pt iot && laneNo lane && fits 64 pattern && fits 64 loopback && fits 64 durationMs
  | .laneTestGenerateCheck m iot lane pattern loopback durationMs => msgOk m && iotNo pt iot && laneNo lane && fits 64 pattern && fits 64 loopback && fits 64 durationMs
  | .laneTestLoopback m iot lane loopback durationMs => msgOk m && iotNo pt iot && laneNo lane && fits 64 loopback && fits 64 durationMs
  | .laneTestDurationEnd iot lane bits errs => iotNo pt iot && laneNo lane && fits 64 bits && fits 64 errs
  | .egressCalendarPop qid => qidNo qid
  | .transmitStart iot port => iotNo pt iot && portNo port
  | .timedLaunch iot port => iotNo pt iot && portNo port
  | .frameTransmitEnd iot port => iotNo pt iot && portNo port
  | .pauseExpire iot port pcp => iotNo pt iot && portNo port && fits 8 pcp
  | .telemetryWindowEnd qid => qidNo qid
  | .wfqTelemetryCollect iot => iotNo pt iot
  | .ptpMessageReceive iot port domain _ => iotNo pt iot && portNo port && fits 64 domain
  | .ptpSyncSend iot port => iotNo pt iot && portNo port
  | .referenceQualify => true
  | .referenceLost => true
  | .servoLock => true
  | .timeStep => true
  | .timeReacquire m _ _ waitS => msgOk m && fits 64 waitS
  | .timeReacquireTimeout => true
  | .timeRead m => msgOk m
  | .timeConfigProfile m _ rest => msgOk m && decide (rest.length < 64)
  | .timeConfigDomain m _ rest => msgOk m && decide (rest.length < 64)
  | .timeConfigRole m iot port _ rest => msgOk m && iotNo pt iot && portNo port && decide (rest.length < 64)
  | .timeConfigJumpLimit m _ rest => msgOk m && decide (rest.length < 64)
  | .timeConfigAsym m iot port _ rest => msgOk m && iotNo pt iot && portNo port && decide (rest.length < 64)
  | .timeConfigLprio m iot port _ rest => msgOk m && iotNo pt iot && portNo port && decide (rest.length < 64)
  | .timeConfigServoBw m _ rest => msgOk m && decide (rest.length < 64)
  | .timeConfigSlewMax m _ rest => msgOk m && decide (rest.length < 64)
  | .timeConfigSyncePrio m iot port _ rest => msgOk m && iotNo pt iot && portNo port && decide (rest.length < 64)
  | .timeConfigHoldover m _ rest => msgOk m && decide (rest.length < 64)
  | .timeConfigGmTod m _ rest => msgOk m && decide (rest.length < 64)
  | .timeConfigPpsOut m _ rest => msgOk m && decide (rest.length < 64)
  | .ppsInEdge _ _ => true
  | .ppsInMiss => true
  | .timeEventFire n => fits 64 n
  | .holdoverRamp => true
  | .ocxoSteeringUpdate code => fits 64 code
  | .spineDelayMeasure tile trim _ => tileNo pt tile && fits 16 trim
  | .synceSelect _ => true
  | .synceWaitToRestore iot port => iotNo pt iot && portNo port
  | .spurFarEndEnergy port => spurNo port
  | .spurEchoTrained port fault atten dist => spurNo port && fits 64 fault && fits 64 atten && fits 64 dist
  | .spurEqualiserTrained port _ fault atten dist => spurNo port && fits 64 fault && fits 64 atten && fits 64 dist
  | .spurRungAgreed port _ _ => spurNo port
  | .spurBlockLock port => spurNo port
  | .spurDataMode port => spurNo port
  | .spurStepTimeout port => spurNo port
  | .fastRetrain port _ _ _ => spurNo port
  | .upshift port _ _ => spurNo port
  | .spurBlockReceive port _ _ => spurNo port
  | .timingBlock port t1 t4 returned asym => spurNo port && fits 64 t1 && fits 64 t4 && fits 64 returned && fits 64 asym
  | .burstModeEnter port => spurNo port
  | .burstSend port => spurNo port
  | .burstPreambleReceive port peak _ _ => spurNo port && fits 64 peak
  | .spurEnergyDetect port => spurNo port
  | .spurWakePattern port code => spurNo port && fits 64 code
  | .frameBoundary ru carrier => fits 16 ru && fits 16 carrier
  | .fabLoad m fab slot drainMs => msgOk m && fabNo pt fab && fits 64 slot && fits 64 drainMs
  | .fabUnload m fab drainMs => msgOk m && fabNo pt fab && fits 64 drainMs
  | .fabRearm m fab line => msgOk m && fabNo pt fab && fits 64 line
  | .fabImageVerify fab _ => fabNo pt fab
  | .fabDrainEnd fab => fabNo pt fab
  | .fabGsrRelease fab => fabNo pt fab
  | .fabStatus m fab => msgOk m && fabNo pt fab
  | .longLineContention fab line _ => fabNo pt fab && fits 64 line
  | .qcWrite fab n _ => fabNo pt fab && fits 64 n
  | .qcRead fab n => fabNo pt fab && fits 64 n
  | .qcPush fab n => fabNo pt fab && fits 64 n
  | .pushRetry fab n => fabNo pt fab && fits 64 n
  | .qcPop fab n => fabNo pt fab && fits 64 n
  | .qcPopRetry fab n => fabNo pt fab && fits 64 n
  | .fabTargetRequest r addr _ n => requesterOk pt r && addrNo addr && fits 64 n
  | .fabTargetTimeout fab id => fabNo pt fab && fits 64 id
  | .fabTargetAnswer fab id data => fabNo pt fab && fits 64 id && atMost 65536 data
  | .fabInitiatorRequest fab _ _ addr n data => fabNo pt fab && addrNo addr && fits 64 n && atMost 65536 data
  | .bramPortAccess fab block _ _ => fabNo pt fab && fits 64 block
  | .powerStateSetActive m settleUs rekeepUs => msgOk m && fits 64 settleUs && fits 64 rekeepUs
  | .powerStateSetLull m settleUs rekeepUs => msgOk m && fits 64 settleUs && fits 64 rekeepUs
  | .powerStateSetStill m resume settleUs rekeepUs => msgOk m && fits 64 resume && fits 64 settleUs && fits 64 rekeepUs
  | .powerStateSetPmbus m entry addr page role flags nomMv busKhz => msgOk m && fits 8 entry && addrNo addr && fits 64 page && fits 8 role && fits 8 flags && fits 64 nomMv && fits 64 busKhz
  | .stillPhaseB => true
  | .settleTimeout => true
  | .islandSleepEnter tile => tileNo pt tile
  | .tileIdleSleep tile => tileNo pt tile
  | .scrubWake tile => tileNo pt tile
  | .tileStart => true
  | .ivrReady island => fits 64 island
  | .oscReady island => fits 64 island
  | .memReady island canary hbmCanary => fits 64 island && fits 64 canary && fits 64 hbmCanary
  | .logicReady island => fits 64 island
  | .wakeStepTimeout island => fits 64 island
  | .alarmSet m sec ns flags => msgOk m && fits 64 sec && fits 64 ns && fits 8 flags
  | .alarmFire => true
  | .mgtEnergyWake _ => true
  | .mgtWakeFrame _ code => fits 64 code
  | .supplyWarning mv => fits 64 mv
  | .supplyLow => true
  | .supplyRecovery minMv redo => fits 64 minMv && fits 64 redo
  | .supplyReset _ => true
  | .throttleStep tile _ => tileNo pt tile
  | .avsUpdate tile code => tileNo pt tile && fits 64 code
  | .pmbusPoll entry _ => fits 8 entry
  | .pmbusAlert _ => true
  | .pmbusAbsentPoll entry _ => fits 8 entry
  | .pmbusTrim vinMv => fits 64 vinMv
  | .powerStatus m => msgOk m
  | .retentionMonitorLatch island mv => fits 64 island && fits 64 mv
  | .clockStretch tile cycles => tileNo pt tile && fits 64 cycles
  | .porstN lowUs => fits 64 lowUs
  | .powerOnReset _ => true
  | .hbmTraining q _ => dsqNo pt q
  | .parisonTimeCondition => true
  | .imageLoad m slot _ _ => msgOk m && fits 64 slot
  | .taskStart m imgid qid => msgOk m && fits 16 imgid && qidNo qid
  | .taskStop m imgid => msgOk m && fits 16 imgid
  | .imageStatus m => msgOk m
  | .attestQuote m nonce mask => msgOk m && exactly 32 nonce && fits 16 mask
  | .keyEnrolEnrol m kind slot pubkey => msgOk m && fits 64 kind && fits 64 slot && exactly 1312 pubkey
  | .keyEnrolRevoke m kind slot => msgOk m && fits 64 kind && fits 64 slot
  | .hostkeyEnrolEnrol m kind slot pubkey => msgOk m && fits 64 kind && fits 64 slot && exactly 1312 pubkey
  | .hostkeyEnrolRevoke m kind slot => msgOk m && fits 64 kind && fits 64 slot
  | .debugLock m level => msgOk m && fits 8 level
  | .debugBreak tile core _ => tileNo pt tile && coreNo core
  | .imageStage m slot flags offset total data _ _ _ => msgOk m && fits 64 slot && fits 8 flags && fits 64 offset && fits 64 total && atMost 65536 data
  | .journalRead m from_ count => msgOk m && fits 64 from_ && fits 64 count
  | .journalRecord rtype severity source body => fits 64 rtype && fits 64 severity && fits 64 source && atMost 192 body
  | .journalCopy _ _ => true
  | .staticLevelling _ => true
  | .nandPatrol block stage corrected _ _ _ => fits 64 block && fits 64 stage && fits 64 corrected
  | .telemetryFrame _ _ => true
  | .telemetryRead m from_ count stride => msgOk m && fits 64 from_ && fits 64 count && fits 64 stride
  | .auxdacOffsetTrim ch _ => fits 64 ch
  | .softFuseUpkeep => true
  | .lehrBudget r _ => requesterOk pt r
  | .lehrLag duty => fits 64 duty
  | .dacCode r ch _ => requesterOk pt r && fits 64 ch
  | .dacCfg r ch _ => requesterOk pt r && fits 64 ch
  | .dacLdN lowNs => fits 64 lowNs
  | .dacClrN lowNs => fits 64 lowNs
  | .dacClrNRelease => true
  | .vdacLow _ => true
  | .dacCompliance ch _ => fits 64 ch
  | .thermtrip island _ => fits 64 island
  | .wakeBusMessage start _ stop => fits 64 start && fits 64 stop

end Sys2Proof
end

