-- ==== Sys2Proof/Tests/Slice0.lean ====
section
/-! SUPPORT. Tests: each check of `wellFormed` refuses an ill-formed term, a few effects on small states, and, for every
statement with hypotheses, concrete states and operands that meet them. -/

namespace Sys2Proof.Tests

open Sys2Proof Sys2Proof.Machine

-- One theorem after the other: the checks below are long, and run at once each would hold a thread.
set_option Elab.async false

/-! ### A running core -/

/-- Tile 2, a DSP tile, with its island in RUN. -/
def dspUp : State := { State.reset with islands := [(2, Island.run), (63, Island.run)] }

/-- A core of tile 2 that runs from the tile's own SRAM, with a vector base. -/
def runningCore : Core := { Core.reset with st := .run, pc := 0x010020000000#64, evec := 0x010020001000#64 }

/-- Tile 2 with core 0 running, changed by `f`. -/
def coreUp (f : Core → Core) : State := dspUp.setCore 2 0 (f runningCore)

/-- Core 0 of tile 2 issues in slot 0. -/
def k0 : Issue := { tile := 2, core := 0, slot1 := false, stall := 0, iparity := false, dparity := false }

/-- The state after the fetch of the next instruction of core 0. -/
def afterFetch (s : State) : State := (fetch (fetchParity k0 s) 2 0).2

/-- Core 0 issues in `s`. -/
def issues (s : State) : Bool :=
  canIssue s 2 0 && (fetch (fetchParity k0 s) 2 0).1.isNone && ((afterFetch s).core 2 0).ext.isNone

theorem issues_of {s : State} (h : issues s = true) : Issues k0 s (afterFetch s) := by
  simp only [issues, Bool.and_eq_true, Option.isNone_iff_eq_none] at h
  exact ⟨h.1.1, Prod.ext h.1.2 rfl, h.2⟩

theorem issuesAlone_of {s : State} (h : issues s = true) (h2 : ((afterFetch s).core 2 0).rep = none) :
    IssuesAlone k0 s (afterFetch s) := ⟨issues_of h, h2⟩

/-- A running core issues. -/
theorem witness_issues : IssuesAlone k0 (coreUp id) (afterFetch (coreUp id)) := issuesAlone_of (by decide) (by decide)

/-- A core inside a REP issues, but not alone. -/
theorem witness_issues_rep :
    Issues k0 (coreUp fun x => { x with rep := some { at_ := x.pc, left := 2, started := true } })
      (afterFetch (coreUp fun x => { x with rep := some { at_ := x.pc, left := 2, started := true } })) := issues_of (by decide)

/-- A core that holds a long prefix issues behind it. -/
theorem witness_issues_long :
    let s := coreUp fun x => { x with ext := some 0x3FFFFFF#26 }
    IssuesLong k0 0x3FFFFFF#26 s (afterFetch s) :=
  ⟨by decide, Prod.ext (by decide) rfl, by decide, by decide⟩

/-! ### Core instructions -/

/-- AddSubCompareFlags, LogicShiftResults, ArithmeticResults, AccumulatorResults: any issuing core and any operands. -/
theorem witness_AddSubCompareFlags : ∃ k s u, Issues k s u := ⟨_, _, _, witness_issues.1⟩
theorem witness_LogicShiftResults : ∃ k s u, Issues k s u := ⟨_, _, _, witness_issues_rep⟩
theorem witness_ArithmeticResults : ∃ k s u, Issues k s u := ⟨_, _, _, witness_issues.1⟩
theorem witness_AccumulatorResults : ∃ k s u, Issues k s u ∧ (2 : Fin 4).val % 2 = 0 := ⟨_, _, _, witness_issues_rep, rfl⟩

/-- ImmediatesAndPrefix: without a prefix, behind one, and alone. -/
theorem witness_ImmediatesAndPrefix :
    (∃ k s u, Issues k s u) ∧ (∃ k e s u, IssuesLong k e s u) ∧ ∃ k s u, IssuesAlone k s u :=
  ⟨⟨_, _, _, witness_issues.1⟩, ⟨_, _, _, _, witness_issues_long⟩, ⟨_, _, _, witness_issues⟩⟩

/-- BranchesAndLoops: the last condition that is none of the reserved one; a count of 1, 4,096, 0 and 4,097; a loop in its
last iteration and one before it; a word after it that may be a body and one that may not. -/
theorem witness_BranchesAndLoops :
    (∃ k s u, IssuesAlone k s u) ∧
    (let u := afterFetch (coreUp id)
     bodyOk u (u.core 2 0) = true) ∧
    (let u := afterFetch (memWrite .gaffer (.sram 2) 0x010020000004 (leBytes 4 0xFC000001) (coreUp id))
     bodyOk u (u.core 2 0) = false) ∧ (14 : Cond).val ≠ 15 ∧ (1 ≤ 1 ∧ 4096 ≤ 4096) ∧ 4096 < 4097 ∧
    ({ at_ := 0#64, left := 1, started := true } : RepState).left ≤ 1 ∧
    1 < ({ at_ := 0#64, left := 2, started := true } : RepState).left :=
  ⟨⟨_, _, _, witness_issues⟩, by decide +kernel⟩

/-- SystemInstructions: in SUP with and without a REP to resume, with no posted store, no pending source, no handler. -/
theorem witness_SystemInstructions :
    let s := coreUp fun x => { x with sup := true }
    let s' := coreUp fun x => { x with sup := true, erep := 4096#32 }
    (IssuesAlone k0 s (afterFetch s) ∧ let x := (afterFetch s).core 2 0
      x.sup = true ∧ x.stores = [] ∧ x.ipendWord = 0#32 ∧ x.exl = false ∧ x.erep = 0#32) ∧
    IssuesAlone k0 s' (afterFetch s') ∧ ((afterFetch s').core 2 0).sup = true ∧ ((afterFetch s').core 2 0).erep ≠ 0#32 :=
  ⟨⟨issuesAlone_of (by decide) (by decide), by decide⟩, issuesAlone_of (by decide) (by decide), by decide⟩

/-- ExceptionEntry: a core with a vector base and no handler; in SUP; and one with a pending TIMER that it may take. -/
theorem witness_ExceptionEntry :
    (let s := coreUp fun x => { x with sup := true }
     IssuesAlone k0 s (afterFetch s) ∧ ((afterFetch s).core 2 0).evec ≠ 0#64 ∧ ((afterFetch s).core 2 0).exl = false ∧
      ((afterFetch s).core 2 0).sup = true) ∧
    let s := coreUp fun x => { x with ipend := 0x10#32 }
    let x := s.core 2 0
    (x.st = .run ∨ x.st = .wait) ∧ x.exl = false ∧ x.rep = none ∧ x.ext = none ∧ x.load = none ∧ x.terminating = none ∧
    x.runahead = false ∧ tileRun s 2 = true ∧ asyncSource x = some 4 ∧ x.evec ≠ 0#64 :=
  ⟨⟨issuesAlone_of (by decide) (by decide), by decide⟩, by decide⟩

/-- A load that waits, issued at time `t`. -/
def waitingLoad (t : Nat) : PendLoad :=
  { issue := k0, parts := [{ addr := 0x010020002000, n := 4, dest := .g 0 4 false, cached := false }], upd := [],
    gather := false, since := t, sent := true }

/-- CoreEvents, clause by clause: a task's end with and without a running task; a wait ended by a source and by time; a
timer; a source taken; a run-ahead begun and ended. -/
theorem witness_CoreEvents :
    (let x := (coreUp fun x => { x with tendWait := true }).core 2 0
     x.tendWait = true ∧ x.cq = [] ∧ x.stores = [] ∧ runningOn (coreUp fun x => { x with tendWait := true }) 2 0 = none) ∧
    (let x := (coreUp fun x => { x with st := .wait, ipend := 0x10#32 }).core 2 0
     x.st = .wait ∧ x.ipendWord ≠ 0#32) ∧
    (let s := { coreUp fun x => { x with st := .wait } with now := 1024 }
     (s.core 2 0).st = .wait ∧ 1024 ≤ islandCycles s 2 (s.now - (s.core 2 0).waitAt)) ∧
    (let s := coreUp fun x => { x with timer := 0#64 + 1#64 }
     let s := { s with now := 100 }
     corePresent s 2 0 = true ∧ (s.core 2 0).timer ≠ 0#64 ∧ (s.core 2 0).timer.toNat ≤ tileCycles s 2) ∧
    (let s := coreUp fun x => { x with ipend := 0x10#32, tendWait := true }
     let x := s.core 2 0
     (x.st = .run ∨ x.st = .wait) ∧ x.exl = false ∧ x.rep = none ∧ x.ext = none ∧ x.load = none ∧ x.terminating = none ∧
     x.runahead = false ∧ tileRun s 2 = true ∧ asyncSource x = some 4 ∧ x.tendWait = true) ∧
    (let s := { coreUp fun x => { x with load := some (waitingLoad 0) } with now := 16 }
     let x := s.core 2 0
     x.load = some (waitingLoad 0) ∧ x.runahead = false ∧ x.rep = none ∧ x.exl = false ∧ bit x.ctrl 1 = true ∧
     16 ≤ islandCycles s 2 (s.now - (waitingLoad 0).since)) ∧
    (let x := (coreUp fun x => { x with runahead := true }).core 2 0
     x.runahead = true ∧ x.load = none) := by decide

/-- A task of tile 2, core 0, as the dispatcher has placed it. -/
def placed : Running :=
  { id := 1, q := 0, qid := 5, flid := 0, seq := 1, entry := [], tile := 2, core := some 0, scale := 256, outq := none, resvLeft := 0,
    placed := 0, staged := [], ordered := false, slot := none, ended := none, terminated := false, stale := false,
    reported := none, hardRaised := false }

/-- The dispatcher has placed `w`. -/
def withTask (w : Running) (s : State) : State := { s with dsq := { s.dsq with running := [w] } }

/-- CoreEvents: a running task whose TEND completes. -/
theorem witness_CoreEvents_task :
    let s := withTask placed (coreUp fun x => { x with tendWait := true })
    let x := s.core 2 0
    x.tendWait = true ∧ x.cq = [] ∧ x.stores = [] ∧
    runningOn (s.setCore 2 0 { x with tendWait := false, st := .idle, retired := x.retired + 1#64, pc := x.pc + 4#64 }) 2 0
      = some placed := by decide

/-- The address in A0. -/
def own : MAddr := { mode := .offset, an := 0, mm := 0, off := 0 }

/-- A core whose A0 and A4 point into the tile's own SRAM. -/
def coreOwn (f : Core → Core) : State :=
  coreUp fun x => f ((x.setA 0 0x010020002000#64).setA 4 0x010020003000#64)

/-- LoadsComplete: LD, LDA, VLD and LDXY in own SRAM; a load whose data returns; a load with its data at hand. -/
theorem witness_LoadsComplete :
    let s := coreOwn id
    let x := (afterFetch s).core 2 0
    Issues k0 s (afterFetch s) ∧
    ((mAddr x own 4 = some (0x010020002000, []) ∧ accessCheck x .read false 0x010020002000 4 = .ok .normalNC) ∧
     (mAddr x own 64 = some (0x010020002000, []) ∧ accessCheck x .read true 0x010020002000 64 = .ok .normalNC) ∧
     ((1 : Fin 32) ≠ 2 ∧ accessCheck x .read true (effAddr x .offset 0 0 0).1 4 = .ok .normalNC ∧
      accessCheck x .read true (effAddr x .offset 4 4 0).1 4 = .ok .normalNC)) ∧
    ((coreUp fun x => { x with load := some (waitingLoad 0) }).core 2 0).load = some (waitingLoad 0) ∧
    (waitingLoad 0).sent = true ∧ (waitingLoad 0).issue = k0 ∧ k0.dparity = false ∧ loadNow s k0 (waitingLoad 0) = true ∧
    ∃ bs v, readParts 2 0 (waitingLoad 0).gather 0 (waitingLoad 0).parts s = (bs, [], v) :=
  ⟨issues_of (by decide), ⟨⟨rfl, rfl⟩, ⟨rfl, rfl⟩, by decide, rfl, rfl⟩, by decide, by decide, by decide, by decide, by decide,
   _, _, rfl⟩

/-- A posted store of four bytes to HBM. -/
def posted : PostedStore := { addr := 0x1000, bytes := [1#8, 2#8, 3#8, 4#8], sideEffect := false, waited := false, element := none }

/-- StoresComplete: ST, STA and VST in own SRAM; a posted store whose tokens are there; VGATHER and VSCATTER. -/
theorem witness_StoresComplete :
    (let s := coreOwn id
     let x := (afterFetch s).core 2 0
     Issues k0 s (afterFetch s) ∧
     (mAddr x own 64 = some (0x010020002000, []) ∧ accessCheck x .write true 0x010020002000 64 = .ok .normalNC) ∧
     (mAddr x own 8 = some (0x010020002000, []) ∧ accessCheck x .write false 0x010020002000 8 = .ok .normalNC) ∧
     ownStoreErr (afterFetch s) 2 0 0x010020002000 = none ∧ ownSram (afterFetch s) 2 0x010020002000 = true ∧
     vecForm .i32 1 = true ∧ vecCheck x .read (vecAddrs x 0 0 1) = none ∧ vecCheck x .write (vecAddrs x 0 0 1) = none ∧
     scatterErr (afterFetch s) 2 0 (vecAddrs x 0 0 1) = none) ∧
    let s := coreUp fun x => { x with stores := [posted] }
    storeReady s (s.core 2 0) 0 = true ∧ mayInject s 2 0 (storeFlits s 2 0 0) = true :=
  ⟨⟨issues_of (by decide), ⟨rfl, rfl⟩, ⟨rfl, rfl⟩, by decide +kernel⟩, by decide⟩

/-! ### Vector and floating-point instructions, the coprocessor queue, jobs -/

/-- VectorComponentArithmetic: a type of every kind, shifts up to the last one. -/
theorem witness_VectorComponentArithmetic :
    (∃ k s u, Issues k s u) ∧ VTy.c32.fixed = true ∧ VTy.i8.int = true ∧ 7 < VTy.i8.cw ∧ 31 < VTy.i32.cw :=
  ⟨⟨_, _, _, witness_issues_rep⟩, by decide⟩

/-- VectorCompareLogic: each kind of type in mode 0, and the last other mode. -/
theorem witness_VectorCompareLogic :
    (∃ k s u, Issues k s u) ∧ VTy.i32.int = true ∧ VTy.c16.fixed = true ∧ 31 < VTy.i32.w ∧ (3 : Fin 4) ≠ 0 :=
  ⟨⟨_, _, _, witness_issues.1⟩, by decide⟩

/-- VectorComplexAndPairs: a complex type, the last even pair, the largest shift of VWIDEN. -/
theorem witness_VectorComplexAndPairs :
    (∃ k s u, Issues k s u) ∧ VTy.c16.cplx = true ∧ VTy.c32.cplx = true ∧ (30 : Fin 32).val % 2 = 0 ∧ (16 : Fin 32).val ≤ 16 :=
  ⟨⟨_, _, _, witness_issues.1⟩, by decide⟩

/-- VectorPermutes: the last element of a register of each kind. -/
theorem witness_VectorPermutes :
    (∃ k s u, Issues k s u) ∧ moveTy .i32 = true ∧ VTy.c32.fixed = true ∧ (7 : Fin 32).val < 512 / VTy.c32.w ∧
    (30 : Fin 32).val % 2 = 0 ∧ VTy.i16.int = true ∧ (15 : Fin 32).val < 512 / VTy.i32.w :=
  ⟨⟨_, _, _, witness_issues.1⟩, by decide⟩

/-- VectorFloatResults and ScalarFloatResults: a floating-point type, even pairs. -/
theorem witness_VectorFloatResults :
    (∃ k s u, Issues k s u) ∧ VTy.bf16.flt = true ∧ VTy.f32.flt = true ∧ (30 : Fin 32).val % 2 = 0 :=
  ⟨⟨_, _, _, witness_issues.1⟩, by decide⟩
theorem witness_ScalarFloatResults : ∃ k s u, Issues k s u := ⟨_, _, _, witness_issues.1⟩

/-- A command of core 0 of tile 2 under tag 1, in state `st`. -/
def cmdIn (op tile : Nat) (st : CqSt) (arrived acked : Bool) (result : Option Nat) : CqCmd :=
  { op := op, an := 0x010020002000, ga := 0#32, st := st, tile := tile, at_ := 0#64, ret := 0#64, arrived := arrived,
    acked := acked, result := result }

/-- CoprocessorQueueIssue: a free tag, A0 aligned in own SRAM, the last accelerator target and the first that is none. -/
theorem witness_CoprocessorQueueIssue :
    let s := coreOwn id
    let x := (afterFetch s).core 2 0
    IssuesAlone k0 s (afterFetch s) ∧ x.stores = [] ∧ mhas x.cq 63 = false ∧ outstandingTo x 0x8F < 16 ∧ 0x8F < 0x90 ∧
    outstandingTo x 2 < 16 ∧ cqCheck x (x.ar 0).toNat 64 .read = none ∧ cqCheck x (x.ar 0).toNat 32 .read = none ∧
    cqCheck x (x.ar 0).toNat 64 .write = none ∧ 0x90 ≤ 0x90 :=
  ⟨issuesAlone_of (by decide) (by decide), by decide⟩

/-- Tile 15, an FFT accelerator in RUN, and tile 2 with its core 0 running and `y` under tag 1; `jobs` are queued. -/
def accUp (y : CqCmd) (jobs : List AccJob) : State :=
  let s := coreUp fun x => { x with cq := [(1, y)] }
  { s with islands := [(2, Island.run), (15, Island.run), (63, Island.run)], acc := { s.acc with jobs := jobs } }

/-- The job of that command, queued at tile 15. -/
def cqJob : AccJob := newJob 15 (.cq 2 0 1) 0x0100F0001000 256 false

/-- A descriptor in the SRAM of tile 15: function, flags and fields of `ps` (offset, bytes, value), COUNT 1. -/
def desc (func : Nat) (ps : List (Nat × Nat × Nat)) : List Byte :=
  ([(0, 1, func), (4, 4, 1), (16, 8, 0x0100F0002000), (24, 8, 0x0100F0003000)] ++ ps).foldl
    (fun b (p : Nat × Nat × Nat) => entSet b p.1 p.2.1 p.2.2) (List.replicate 64 0#8)

/-- A started, committed job of that descriptor at tile 15. -/
def runnable (func : Nat) (ps : List (Nat × Nat × Nat)) : AccJob :=
  { cqJob with body := desc func ps, committed := true, started := some 0 }

/-- CommandLifecycle: a command that arrives, is committed, cancelled, acknowledged, answered OK and not OK. -/
theorem witness_CommandLifecycle :
    (let s := accUp (cmdIn 0x0F 15 .issued false false none) []
     let y := cmdIn 0x0F 15 .issued false false none
     mget 1 (s.core 2 0).cq = some y ∧ y.arrived = false ∧ y.op < 0x100 ∧
     ((s.core 2 0).cq.any fun z => !z.2.arrived && z.2.tile == y.tile && decide (z.2.op < 0x100) &&
       decide (z.2.ret.toNat < y.ret.toNat)) = false ∧ (accKind s.part y.tile).isSome = true ∧
     tileRun (modCq s 2 0 1 fun z => { z with arrived := true }) y.tile = true) ∧
    (let y := cmdIn 0x0F 15 .issued true false none
     let s := accUp y [cqJob]
     mget 1 (s.core 2 0).cq = some y ∧ y.st = .issued ∧ y.arrived = true ∧ y.op < 0x200 ∧
     (modCq s 2 0 1 fun z => { z with st := .committed }).job y.tile (.cq 2 0 1) = some cqJob) ∧
    (∀ op ∈ [0x200, 0x201, 0x300],
      let y := cmdIn op 255 .issued true false none
      mget 1 ((accUp y []).core 2 0).cq = some y ∧ y.st = .issued ∧ y.arrived = true ∧ y.op = op) ∧
    (let y := cmdIn 0x100 2 .cancelled true false none
     let s := accUp y [{ cqJob with tile := 2 }]
     mget 1 (s.core 2 0).cq = some y ∧ y.st = .cancelled ∧ y.arrived = true ∧ y.acked = false ∧ (modCq s 2 0 1 fun z => { z with acked := true }).job y.tile (.cq 2 0 1) =
       some { cqJob with tile := 2 }) ∧
    ((cmdIn 0x0F 15 .cancelled true true none).acked = true ∧
     mget 1 ((accUp (cmdIn 0x0F 15 .cancelled true true none) []).core 2 0).cq = some (cmdIn 0x0F 15 .cancelled true true none)) ∧
    (let y := cmdIn 0x0F 15 .committed true false (some 12)
     mget 1 ((accUp y []).core 2 0).cq = some y ∧ y.st = .committed ∧ y.result = some 12) ∧
    (let y := cmdIn 0x0F 15 .committed true false (some 1)
     mget 1 ((accUp y []).core 2 0).cq = some y ∧ y.result = some 1 ∧ 1 ≠ 0 ∧ 1 ≠ 12) := by decide

/-- A read that meets no error. -/
def isOk {ε α β : Type} (x : Except ε α × β) : Bool := match x.1 with | .ok _ => true | .error _ => false

theorem ok_of {ε α β : Type} {x : Except ε α × β} (h : isOk x = true) : ∃ a b, x = (.ok a, b) := by
  unfold isOk at h
  split at h
  · rename_i a e
    exact ⟨a, x.2, Prod.ext e rfl⟩
  · cases h

/-- CommandLifecycle: a job that may start with its descriptor read; a started job past its watchdog interval; an abort; a
job whose status is decided. -/
theorem witness_CommandLifecycle_job :
    (let s := accUp (cmdIn 0x0F 15 .committed true false none) [{ cqJob with committed := true }]
     mayStart s 15 (.cq 2 0 1) = some { cqJob with committed := true } ∧ s.job 15 (.cq 2 0 1) = some { cqJob with committed := true } ∧
     ∃ b v, jobRead { cqJob with committed := true, started := some 0 } 0x0100F0001000 64
       (setJob s { cqJob with committed := true, started := some 0 }) = (.ok b, v)) ∧
    (let s := withTask { placed with tile := 15, core := none, entry := entSet (List.replicate 32 0#8) 16 8 0x0100F0001000 }
       (accUp (cmdIn 0x0F 15 .committed true false none) [])
     let j := newJob 15 (.dsq 5 1 1) 0x0100F0001000 256 true
     mayStart s 15 (.dsq 5 1 1) = some j ∧ j.committed = true ∧ s.job 15 (.dsq 5 1 1) = none ∧
       ∃ b v, jobRead { j with started := some 0 } j.at_ 64 (addJob s { j with started := some 0 }) = (.ok b, v)) ∧
    (let s := { accUp (cmdIn 0x0F 15 .committed true false none) [runnable 1 []] with now := 10000000 }
     s.job 15 (.cq 2 0 1) = some (runnable 1 []) ∧ (accKind s.part 15).isSome = true ∧ (runnable 1 []).started = some 0 ∧
     (runnable 1 []).status = none ∧ fld (accCtrl s 15) 31 16 ≠ 0 ∧ fld (accCtrl s 15) 31 16 * 10000 ≤ s.now - 0) ∧
    (let a : AccAbort := { tile := 15, at_ := 0x0100F0001000, by_ := none }
     let s := accUp (cmdIn 0x0F 15 .committed true false none) [cqJob]
     let s := { s with acc := { s.acc with aborts := [a] } }
     (s.acc.aborts.find? fun a => a.tile == 15 && a.at_ == 0x0100F0001000) = some a ∧ (accKind s.part 15).isSome = true ∧
     tileRun s 15 = true ∧ (s.acc.jobs.find? fun j => j.tile == 15 && j.at_ == 0x0100F0001000) = some cqJob) ∧
    (let j := { runnable 1 [] with status := some 0, ran := true }
     let s := accUp (cmdIn 0x01 15 .committed true false none) [j]
     s.job 15 (.cq 2 0 1) = some j ∧ (settleRach j s).job 15 (.cq 2 0 1) = some j ∧ j.status = some 0 ∧
     j.committed = true ∧ tileRun (settleRach j s) 15 = true ∧ j.body ≠ []) :=
  ⟨⟨by decide, by decide, ok_of (by decide +kernel)⟩, ⟨by decide +kernel, by decide, by decide, ok_of (by decide +kernel)⟩, by decide +kernel,
   by decide, by decide +kernel⟩

/-- A runnable job of tile 15 is ready. -/
def ready1 (func : Nat) (ps : List (Nat × Nat × Nat)) : Bool :=
  let s := accUp (cmdIn func 15 .committed true false none) [runnable func ps]
  s.job 15 (.cq 2 0 1) == some (runnable func ps) && (accKind s.part 15).isSome && canRun s func (runnable func ps)

/-- The state of that job. -/
def jobState (func : Nat) (ps : List (Nat × Nat × Nat)) : State :=
  accUp (cmdIn func 15 .committed true false none) [runnable func ps]

theorem jobReady_of {func : Nat} {ps : List (Nat × Nat × Nat)} (h : ready1 func ps = true) :
    JobReady true func 15 (.cq 2 0 1) (jobState func ps) (runnable func ps) := by
  simp only [ready1, Bool.and_eq_true, beq_iff_eq] at h
  exact ⟨h.1.1, h.1.2, h.2⟩

/-- The accelerator tile's reference of that job. -/
def jref : JobRef := .cq 2 0 1

theorem ok_of3 {ε α β γ : Type} {x : Except ε α × β × γ} (h : isOk x = true) : ∃ a b c, x = (.ok a, b, c) :=
  let ⟨a, b, e⟩ := ok_of h
  ⟨a, b.1, b.2, e⟩

/-- A read without error, after which `P` holds. -/
def okThen {ε α β : Type} (x : Except ε α × β) (P : α → β → Bool) : Bool :=
  match x with
  | (.ok a, b) => P a b
  | _ => false

/-- AcceleratorFunctions: for every function a ready job whose inputs are read without error. -/
theorem witness_AcceleratorFunctions :
    (∀ f ∈ [0x01, 0x02, 0x33, 0x35, 0x23, 0x20, 0x30, 0x21, 0x31],
      JobReady true f 15 jref (jobState f []) (runnable f [])) ∧
    (∃ rs v, jobRecs (runnable 1 []) (strided (runnable 1 []).inp (runnable 1 []).count ((runnable 1 []).f 48 4))
      (jobState 1 []) = (.ok rs, v)) ∧
    (∃ bs v, jobReads (runnable 0x33 []) ((List.range 1).map fun i => ((runnable 0x33 []).inp + i * 64, 64)) (jobState 0x33 []) =
      (.ok bs, v)) ∧
    (∃ bs v, jobReads (runnable 0x35 []) ((List.range 1).map fun i => ((runnable 0x35 []).inp + 32 * i, 32)) (jobState 0x35 []) =
      (.ok bs, v)) ∧
    (∃ bs v, jobReads (runnable 0x23 []) [((runnable 0x23 []).inp, ceilDiv ((runnable 0x23 []).f 42 2) 8)] (jobState 0x23 []) =
      (.ok bs, v)) ∧
    (∃ r y w, softDecode (runnable 0x20 []) (bits64 ((runnable 0x20 []).f 44 2)) (jobState 0x20 []) = (.ok r, y, w)) ∧
    (∃ r y w, softDecode (runnable 0x30 []) (bits64 ((runnable 0x30 []).f 40 2)) (jobState 0x30 []) = (.ok r, y, w)) ∧
    (∃ bs v, jobReads (runnable 0x21 []) ((List.range 1).map fun i => ((runnable 0x21 []).inp + i * bits64 ((runnable 0x21 []).f 44 2),
      ceilDiv ((runnable 0x21 []).f 44 2) 8)) (jobState 0x21 []) = (.ok bs, v)) ∧
    ∃ bs v, jobReads (runnable 0x31 []) ((List.range 1).map fun i => ((runnable 0x31 []).inp + i * bits64 ((runnable 0x31 []).f 40 2),
      ceilDiv ((runnable 0x31 []).f 40 2) 8)) (jobState 0x31 []) = (.ok bs, v) :=
  ⟨by simp only [List.forall_mem_cons]
      exact ⟨jobReady_of (by decide +kernel), jobReady_of (by decide +kernel), jobReady_of (by decide +kernel),
        jobReady_of (by decide +kernel), jobReady_of (by decide +kernel), jobReady_of (by decide +kernel),
        jobReady_of (by decide +kernel), jobReady_of (by decide +kernel), jobReady_of (by decide +kernel), by simp⟩,
   ok_of (by decide +kernel), ok_of (by decide +kernel), ok_of (by decide +kernel), ok_of (by decide +kernel),
   ok_of3 (by decide +kernel), ok_of3 (by decide +kernel), ok_of (by decide +kernel), ok_of (by decide +kernel)⟩

/-- A job of function `f` whose list in memory names one symbol record. -/
def listState (f : Nat) : State := (jobState f []).putBytes 0x0100F0002000 (leBytes 8 0x0100F0006000)

/-- A feed correction whose context holds an active feed. -/
def feedJob : AccJob := runnable 0x10 [(32, 8, 0x0100F0004000)]

/-- The state of that job: feed slot 0 of the context is not empty. -/
def feedState : State := (jobState 0x10 [(32, 8, 0x0100F0004000)]).putBytes (0x0100F0004000 + ctxFeed 0 + 2) [2#8]

/-- GMSK_MLSE and FEEDCORR: a job whose record list holds an aligned address; a context whose feed slot is not empty. -/
theorem witness_AcceleratorFunctions_lists :
    ((listState 0x34).job 15 jref = some (runnable 0x34 []) ∧ canRun (listState 0x34) 0x34 (runnable 0x34 []) = true ∧
      isOk (listedRecs (runnable 0x34 []) (fun a => [a]) (listState 0x34)) = true) ∧
    feedState.job 15 jref = some feedJob ∧ canRun feedState 0x10 feedJob = true ∧
    (okThen (jobRead feedJob feedJob.aux 512 feedState) fun ctx w =>
      okThen (jobRecs feedJob (strided feedJob.inp feedJob.count (feedJob.f 44 4)) w) fun rs v =>
        isOk (feedOut v feedJob ctx rs, v)) = true :=
  ⟨by decide +kernel, by decide +kernel⟩

/-- EqualiserAndSearchFunctions: for every function of the equaliser, decoder and search tiles a ready job with its reads. -/
theorem witness_EqualiserAndSearchFunctions :
    (∀ f ∈ [0x11, 0x13, 0x22, 0x32, 0x14, 0x15, 0x12], JobReady true f 15 jref (jobState f []) (runnable f [])) ∧
    (let ps := [(32, 8, 0x0100F0004000), (40, 1, 1), (41, 1, 1), (42, 2, 4), (44, 2, 1), (48, 2, 1)]
     let j := runnable 0x11 ps
     okThen (jobRecs j (strided j.inp j.count (j.f 52 4)) (jobState 0x11 ps)) fun _ w =>
       isOk (jobRead j j.aux (4 * j.f 41 1 * (setBits (j.f 42 2) 14).length * j.f 48 2 * (pilotSubs (j.f 45 1) 0).length) w)) = true ∧
    (let ps := [(32, 8, 0x0100F0004000), (40, 1, 1), (41, 1, 1), (44, 2, 1)]
     let j := runnable 0x13 ps
     okThen (jobRecs j (strided j.inp j.count (j.f 48 4)) (jobState 0x13 ps)) fun _ w =>
       isOk (jobRead j j.aux (estBytes (j.f 41 1) (j.f 40 1) (j.f 44 2) j.count) w)) = true ∧
    isOk (jobReads (runnable 0x22 []) [((runnable 0x22 []).inp, (runnable 0x22 []).f 44 4)] (jobState 0x22 [])) = true ∧
    isOk (jobReads (runnable 0x32 []) ((List.range 1).map fun i =>
      ((runnable 0x32 []).inp + i * pad64 (convBits (runnable 0x32 [])), convBits (runnable 0x32 []))) (jobState 0x32 [])) = true ∧
    (let ps := [(32, 8, 0x0100F0004000)]
     isOk (jobReads (runnable 0x14 ps) [((runnable 0x14 ps).inp, 4), ((runnable 0x14 ps).aux, 2)] (jobState 0x14 ps)) = true) ∧
    (let ps := [(32, 8, 0x0100F0004000), (40, 1, 1), (41, 1, 1), (44, 2, 1)]
     let j := runnable 0x15 ps
     isOk (jobReads j [(j.inp, 48 * j.f 44 2 * j.f 40 1 * j.count), (j.aux, 4 * j.f 40 1 * j.f 41 1 * precodeMats j)]
       (jobState 0x15 ps)) = true) :=
  ⟨by simp only [List.forall_mem_cons]
      exact ⟨jobReady_of (by decide +kernel), jobReady_of (by decide +kernel), jobReady_of (by decide +kernel),
        jobReady_of (by decide +kernel), jobReady_of (by decide +kernel), jobReady_of (by decide +kernel),
        jobReady_of (by decide +kernel), by simp⟩,
   by decide +kernel, by decide +kernel, by decide +kernel, by decide +kernel, by decide +kernel, by decide +kernel⟩

/-- COMBINE: a list of one aligned address with its estimate, of no symbol (how many layers an estimate has is free), with and without the run's context. -/
theorem witness_combine :
    ∀ ps ∈ [[], [(32, 8, 0x0100F0004000)]],
      let j := runnable 0x12 ps
      let s := (jobState 0x12 ps).putBytes 0x0100F0002000 (leBytes 8 0x0100F0006000 ++ leBytes 8 0x0100F0008000)
      ready1 0x12 ps = true ∧ (s.job 15 jref == some j && canRun s 0x12 j) = true ∧
      okThen (jobRead j j.inp (16 * j.count) s) (fun b w =>
        aligned64 ((List.range j.count).map fun i => ent b (16 * i) 8) &&
        okThen (if j.aux = 0 then (.ok [], w) else jobReads j [(j.aux, 512)] w) fun _ x =>
          okThen (combineReads j ((List.range j.count).map fun i => ent b (16 * i) 8) (List.range (j.f 41 1)) x) fun ls e =>
            isOk (jobReads j (combineEsts j b ls) e)) = true := by decide +kernel

/-- A runnable job of the matrix helper of tile 2, with matrices of one element. -/
def matrixJob (op : Nat) : AccJob :=
  { runnable op [(2, 1, 1), (3, 1, 1), (4, 4, 1), (6, 2, 1)] with
    tile := 2, body := (desc op [(2, 1, 1), (3, 1, 1), (4, 2, 1), (6, 2, 1), (16, 8, 0x010020002000), (24, 8, 0x010020003000), (32, 8, 0x010020004000)]) }

/-- The state of that job. -/
def helperState (op : Nat) : State := accUp (cmdIn 0x100 2 .committed true false none) [matrixJob op]

/-- CMATMUL, CMATMULH, CGRAM and CCHOLSOLVE: ready, and their operands read. -/
theorem witness_helper :
    (∀ op : Fin 4, (helperState op.val).job 2 jref = some (matrixJob op.val) ∧ (accKind (helperState op.val).part 2).isSome = false ∧
      canRun (helperState op.val) op.val (matrixJob op.val) = true) ∧
    (∀ op : Fin 4, isOk (jobReads (matrixJob op.val) [((matrixJob op.val).inp, 4), ((matrixJob op.val).outp, 4)]
      (helperState op.val)) = true) := by decide +kernel

/-- PRACH_SEARCH, RACH_SEARCH and PRACH_WINDOW_CLOSE: a search with one peak above its threshold and within its delay
search (an empty list: how many records an occasion has is free), one that has run before, and one whose window closes. -/
theorem witness_search :
    let p : Peak := { index := 3, delay := 0, metric := 9, foff := 0, ru := 0, alias_ := false }
    (∀ f ∈ [0x40, 0x41], ∀ ran ∈ [false, true],
      let j := { runnable f [(4, 4, 0)] with ran := ran }
      let s := { listState f with acc := { (listState f).acc with jobs := [j] } }
      s.job 15 jref = some j ∧ (accKind s.part 15).isSome = true ∧ canRun s f { j with ran := false } = true ∧
      j.committed = true ∧ isOk (if j.ran then (.ok [], s) else listedRecs j (branchRecs j) s) = true ∧
      [p].filter (inSearch j) = [p]) ∧
    let j := { runnable 0x40 [] with ran := true }
    (accUp (cmdIn 0x40 15 .committed true false none) [j]).job 15 jref = some j ∧ j.func = 0x40 ∧ j.status = none ∧ j.body ≠ [] := by
  decide +kernel

/-! ### Registers, DMA, dispatch, NoC, integrity -/

/-- CTL-G and tiles 2 and 15 in RUN. -/
def ctlUp : State :=
  { State.reset with islands := [(2, Island.run), (15, Island.run), (26, Island.run), (53, Island.run), (63, Island.run)] }

/-- The row of register `a` in `ctlUp`. -/
def rowOf (a : Nat) : Option (Block × Nat × RegRow) :=
  match placeOf ctlUp.part a with
  | .regs b off => (rowAt b off).map fun row => (b, off, row)
  | _ => none

/-- The row of register `a` satisfies `p`, and the Gaffer may access it. -/
def regFits (a : Nat) (write : Bool) (p : Block → Nat → RegRow → Bool) : Bool :=
  match rowOf a with
  | some (b, off, row) => p b off row && (regErr ctlUp .gaffer write a 4 b off).isNone && (match b with | .core _ _ => false | _ => true)
  | none => false

/-- A half of a complement pair held since `now` = 0. -/
def cpHeld (c : Bool) (v : Word) (n : Nat) : State :=
  { ctlUp with regs := { ctlUp.regs with cp := [(R.TIME_STEP_CTRL, { complement := c, value := v, by_ := .gaffer, at_ := 0 })] }, now := n }

/-- RegisterAccess: for every clause a register of its kind that the Gaffer may access; a pair completed at its last moment,
one that does not match, and one out of time. -/
theorem witness_RegisterAccess :
    regFits R.WAKE_ALARM_SEC false (fun b off row => row.wide && !row.isHigh off && !isNowSec b off && !isNowFrac b off &&
      row.kind != .wo && row.kind != .cp) = true ∧
    regFits R.WAKE_CNT_REJ false (fun b _ row => !row.wide && row.kind == .rc && b != .mbx) = true ∧
    regFits R.WAKE_ALARM_SEC true (fun _ off row => row.wide && !row.isHigh off && row.kind != .rc && row.kind != .cp) = true ∧
    regFits (R.WAKE_ALARM_SEC + 4) true (fun _ off row => row.wide && row.isHigh off) = true ∧
    regFits R.TIME_STEP_CTRL true (fun _ _ row => row.kind == .cp) = true ∧
    regFits R.PWR_CTRL true (fun b _ row => b == .pwr && !row.wide && row.kind != .rc && row.kind != .cp) = true ∧
    mget R.TIME_STEP_CTRL ctlUp.regs.cp = none ∧
    (mget R.TIME_STEP_CTRL (cpHeld false 2#32 1024).regs.cp = some { complement := false, value := 2#32, by_ := .gaffer, at_ := 0 } ∧
     (cpHeld false 2#32 1024).now ≤ 0 + 1024 ∧ (2#32 : Word) = ~~~0xFFFFFFFD#32 ∧ bit (2#32) 0 = false) ∧
    (2#32 : Word) ≠ ~~~2#32 ∧ 0 + 1024 ≤ (cpHeld false 2#32 1024).now := by decide +kernel

/-- Channel 0 of tile 2 in RUN or WAIT (with a reason), with an instruction and its state changed by `f`. -/
def dmaUp (st reason : Nat) (insn : List Byte) (f : DmaChan → DmaChan) : State :=
  ((modChan ctlUp 2 0 fun _ => f { DmaChan.reset with insn := insn }).setField (R.DMA_CH_STAT 2 0) 31 29 st).setField
    (R.DMA_CH_STAT 2 0) 28 25 reason

/-- An instruction of operation `op` with fields of `ps` (offset, bytes, value). -/
def insn (op : Nat) (ps : List (Nat × Nat × Nat)) : List Byte :=
  ps.foldl (fun b (p : Nat × Nat × Nat) => entSet b p.1 p.2.1 p.2.2) (entSet (List.replicate 16 0#8) 0 1 op)

/-- DmaInstructions: for every operation a channel that is ready to execute it, with its fields in range. -/
theorem witness_DmaInstructions :
    (let s := (dmaUp 1 0 [] id).setReg64 (R.DMA_CH_PC 2 0) 0x010020001000#64
     chSt s 2 0 = .run ∧ tileRun s 2 = true ∧ (s.chan 2 0).insn = [] ∧ isOk (busRead (.dma 2 0) (chPc s 2 0) 16 s) = true) ∧
    (∀ op ∈ [0, 1, 2, 3, 4, 5, 6, 7], ready (dmaUp 1 0 (insn op []) id) 2 0 op = true) ∧
    (ent (insn 6 [(1, 1, 3)]) 1 1 < 4 ∧ iBits (insn 6 [(1, 1, 3)]) 2 0 0 = 0 ∧ ent (insn 6 [(8, 8, 2 ^ 48 - 1)]) 8 8 < 2 ^ 48 ∧
     2 ^ 48 ≤ ent (insn 6 [(8, 8, 2 ^ 48)]) 8 8) ∧
    (4 ≤ ent (insn 6 [(1, 1, 7)]) 1 1 ∧ iBits (insn 6 [(2, 1, 1)]) 2 0 0 = 1) ∧
    (ent (insn 3 [(1, 1, 1), (2, 2, 9)]) 1 1 = 1 ∧ qidPresent (dmaUp 1 0 (insn 3 [(1, 1, 1), (2, 2, 9)]) id) 9 = true ∧
     tileRun (dmaUp 1 0 (insn 3 [(1, 1, 1), (2, 2, 9)]) id) (dsqTile (qidDsq 9)) = true) ∧
    (ringPend (dmaUp 1 0 (insn 0 []) id) 2 0 = false ∧ ((dmaUp 1 0 (insn 0 []) id).chan 2 0).fromPark = false ∧
     ((dmaUp 1 0 (insn 0 []) fun x => { x with fromPark := true }).chan 2 0).fromPark = true) ∧
    ringPend ((dmaUp 1 0 (insn 0 []) id).setField (R.DMA_CH_STAT 2 0) 20 20 1) 2 0 = true ∧
    (let i := insn 4 [(2, 1, 15)]
     let s := dmaUp 1 0 i id
     ready s 2 0 4 = true ∧ ent i 1 1 = 0 ∧ hasDma s (ent i 2 1) = true ∧ tileRun s (ent i 2 1) = true) ∧
    (let i := insn 4 [(1, 1, 2), (2, 1, 2), (3, 1, 3)]
     let s := dmaUp 1 0 i id
     ready s 2 0 4 = true ∧ ent i 1 1 = 2 ∧ isDsp s.part (ent i 2 1) = true ∧ tileRun s (ent i 2 1) = true) := by decide +kernel

/-- Queue 5 of dispatcher 0, of a kind, enabled or not, of depth 4, holding `es`. -/
def queueUp (kind : Nat) (en : Bool) (es : List (List Byte)) (s : State) : State :=
  s.setQueue 5 { s.queue 5 with kind := kind, en := en, depth := 2, entries := es.map fun b => { bytes := b, ue := false, stamp := 0, aborted := false } }

/-- An entry of 32 bytes with fields of `ps`. -/
def entry (ps : List (Nat × Nat × Nat)) : List Byte :=
  ps.foldl (fun b (p : Nat × Nat × Nat) => entSet b p.1 p.2.1 p.2.2) (List.replicate 32 0#8)

/-- DmaChannelEvents: a row in flight; an abort; a wait satisfied and one out of time; an empty queue; a gate that opens; a
doorbell that the Gaffer may ring; a flag register; a held push that finds room. -/
theorem witness_DmaChannelEvents :
    (let s := dmaUp 1 0 (insn 1 []) fun x => { x with begun := true, out := [0] }
     chSt s 2 0 = .run ∧ (s.chan 2 0).begun = true ∧ 0 ∈ (s.chan 2 0).out ∧ isMove (s.chan 2 0).insn = true) ∧
    (let s := dmaUp 2 5 (insn 1 []) fun x => { x with abort := true }
     chSt s 2 0 = .wait ∧ (s.chan 2 0).out = [] ∧ (s.chan 2 0).abort = true) ∧
    (let s := dmaUp 2 3 (insn 3 [(1, 1, 3)]) id
     ((List.range 0).filter fun k => inWait s 2 k && wReason s 2 k == 1) = [] ∧ fillAsleep s 2 0 = false ∧
     inWait s 2 0 = true ∧ waitHolds s 2 0 = true) ∧
    (let s := { dmaUp 2 2 (insn 3 [(1, 1, 1), (2, 2, 9)]) id with islands := [(2, Island.run), (63, Island.run)] }
     fillAsleep s 2 0 = true) ∧
    (let s := { dmaUp 2 1 (insn 3 [(4, 4, 1)]) id with now := 1000 }
     inWait s 2 0 = true ∧ ent (s.chan 2 0).insn 4 4 ≠ 0 ∧ (s.chan 2 0).waitAt + ent (s.chan 2 0).insn 4 4 * 1000 ≤ s.now ∧
     waitHolds s 2 0 = false) ∧
    (let s := dmaUp 2 6 (insn 1 []) id
     chSt s 2 0 = .wait ∧ wReason s 2 0 = 6 ∧ tileRun s 2 = true) ∧
    (let s := queueUp 3 true [entry []] ((dmaUp 2 4 [] id).setReg (R.DMA_CH_STREAM 2 0) 0x80000005#32)
     hasDma s 2 = true ∧ streamOn s 2 0 = true ∧ tileRun s 2 = true ∧ chSt s 2 0 ≠ .idle ∧
     chSt (gateUpdate s 2 0) 2 0 = .wait ∧ wReason (gateUpdate s 2 0) 2 0 = 4 ∧ gateOpen (gateUpdate s 2 0) 2 0 = true) ∧
    (placeOf ctlUp.part (R.DMA_CH_DOORBELL 2 15) = .regs (.dma 2) (0x80 * 15 + 0x10) ∧
     regErr ctlUp .gaffer true (R.DMA_CH_DOORBELL 2 15) 4 (.dma 2) (0x80 * 15 + 0x10) = none) ∧
    (placeOf ctlUp.part (R.DMA_EVT_SET 2) = .regs (.dma 2) 0x810 ∧
     regErr ctlUp .gaffer true (R.DMA_EVT_SET 2) 4 (.dma 2) 0x810 = none) ∧
    (let s := queueUp 3 true [] (dmaUp 2 5 (insn 1 []) id)
     let h : HeldPush := { producer := .dma 2 0, bytes := entry [] }
     let s := s.setQueue 5 { s.queue 5 with held := [h] }
     (s.queue 5).held = [h] ∧ ((acceptHeld s 5).queue 5).held.length ≠ (s.queue 5).held.length ∧
     chSt (acceptHeld s 5) 2 0 = .wait ∧ wReason (acceptHeld s 5) 2 0 = 5) ∧
    chSt ctlUp 2 0 = .idle := by decide +kernel

/-- SIGNAL QPUSH: its entry is read and its queue has room, or has none. -/
theorem witness_signalQpush :
    let i := insn 4 [(1, 1, 1), (4, 2, 5), (8, 8, 0x010020001000)]
    ∀ x ∈ [(0, PushOut.accepted), (4, PushOut.held)],
      let s := queueUp 3 true (List.replicate x.1 (entry [])) (dmaUp 1 0 i id)
      ready s 2 0 4 = true ∧ ent i 1 1 = 1 ∧
      okThen (busReadMany (.dma 2 0) (entryAddr s 2 0 i) 32 s) (fun b v => (pushQ (.dma 2 0) (ent i 4 2) b v).1 == x.2) = true := by
  decide +kernel

/-- The MEM tiles of quadrant 0 in RUN as well, with its stack trained. -/
def hbmUp (s : State) : State :=
  { s with islands := mset (memTiles 0).1 Island.run (mset (memTiles 0).2 Island.run s.islands),
           boot := { s.boot with hbmUp := [0] } }

/-- DispatchAndTasks: a queue with room and a disabled one, a STREAM queue, an absent one (of the smallest part), one that may
be enabled, a running dispatcher, a placed task, a HARD deadline that has passed, a task reported ended. -/
theorem witness_DispatchAndTasks :
    (let s := queueUp 3 true [] ctlUp
     qidPresent s 5 = true ∧ tileRun s (dsqTile (qidDsq 5)) = true ∧ (s.queue 5).en = true ∧ qFree (s.queue 5) ≠ 0 ∧
     (s.queue 5).held = [] ∧ (s.queue 5).kind = 3) ∧
    (qidPresent ctlUp 5 = true ∧ tileRun ctlUp (dsqTile (qidDsq 5)) = true ∧ (ctlUp.queue 5).en = false) ∧
    qidPresent { ctlUp with part := .fb240 } 65535 = false ∧
    (let s := queueUp 3 false [] ctlUp
     let x := s.queue 5
     x.lock = false ∧ x.en = false ∧ 2 ≤ x.depth ∧ x.depth ≤ 16 ∧ x.kind ≠ 2 ∧ x.loc = false ∧
     granulesUsed s (qidDsq 5) + ceilDiv (2 ^ x.depth) 32 ≤ 2048) ∧
    (quadPresent ctlUp.part 0 = true ∧ ctlUp.power.stopping = false ∧ tileRun ctlUp (dsqTile 0) = true) ∧
    (let s := withTask placed ctlUp
     runningOn s 2 0 = some placed ∧ coreBusy s 2 0 = false ∧ placed.reported = none ∧ tileRun s 2 = true ∧ placed.slot = none ∧
     hardPassed s placed = false) ∧
    (let w := { placed with entry := entry [(15, 1, 2)] }
     let s := { withTask w (coreUp id) with clk := { sec := 1, ns := 0, frac := 0 } }
     runningOn s 2 0 = some w ∧ coreBusy s 2 0 = true ∧ w.hardRaised = false ∧ hardPassed s w = true) ∧
    (let w := { placed with reported := some false }
     let s := withTask w ctlUp
     s.dsq.running = [w] ∧ w.ended = none ∧ w.reported = some false ∧ w.slot = none ∧ w.qid = 5 ∧ w.seq = 1 ∧ w.tile = 2) := by
  decide +kernel

/-- A device in ACTIVE: `s` with STATE 1. -/
def active (s : State) : State := s.setField R.PWR_STAT 31 29 1

/-- CONTEXT_PREFETCH_DONE: a head that names a context in HBM, of clean words and with an uncorrectable one. -/
theorem witness_contextPrefetch :
    let e := entry [(15, 1, 4), (24, 8, 0x10000)]
    let s := queueUp 0 true [e] (active ctlUp)
    (peekHead s 5 = (some e, s) ∧ (s.queue 5).kind = 0 ∧ ePrefetch e = true ∧ s.parison = false ∧ ctxOk s (eArg e) = true ∧
      slotOf s (qidDsq 5) (eArg e) = none ∧ (s.queue 5).ctxUe = false ∧ victimSlot s (qidDsq 5) = some 0) ∧
    (prefetchRead (qidDsq 5) (eArg e) s).1.isSome = true ∧
    (prefetchRead (qidDsq 5) (eArg e) (s.setMark 0x10000 (some .poison))).1 = none := by decide +kernel

/-- A read of tile 2 by the accelerator of tile 15. -/
def nocReq1 : NocReq := { src := 15, req := 1, tag := 9, cls := 0, op := 0, by_ := .acc 15, addr := 0x010020000000, nbytes := 4, data := [] }

/-- NocPackets: a request that may be sent, one without tokens, one at its target, which answers or not. -/
theorem witness_NocPackets_request :
    (let s := ctlUp
     reqTile (.acc 15) = 15 ∧ atTarget s nocReq1 = false ∧ flying s (.request nocReq1) = false ∧ canSend s 15 = true ∧
     waitsBehind s nocReq1 = false ∧ mayInject s 15 0 1 = true) ∧
    (let s := ctlUp.setField (R.NOC_INJ_CFG 15 0) 15 0 0
     canSend s 15 = true ∧ mayInject s 15 0 1 = false ∧ s.noc.waiting.contains nocReq1 = false) ∧
    (let s := { ctlUp with noc := { ctlUp.noc with atTarget := [nocReq1] } }
     atTarget s nocReq1 = true ∧ answers (takeRequest nocReq1 s) (.acc 15) 2 = true ∧
     answers (takeRequest nocReq1 { s with islands := [] }) (.acc 15) 2 = false) ∧
    ((30 : Nat) ≠ 143 ∧ 30 % 12 < torusW .fa960 ∧ 143 % 12 < torusW .fa960 ∧ 30 / 12 < torusH .fa960 ∧ 143 / 12 < torusH .fa960) ∧
    (3 < 12 ∧ (ringHops 12 true 5 3 0)[2]? ≠ none ∧ 2 < 12) ∧
    (winner [] (0, 0) [{ at_ := 0, cls := 2, lane := 0, flit := 0 }]).isSome = true := by decide +kernel

/-- NocPackets: an access inside one block of a present tile and of an absent one; a message of the largest size; an answer
owed; a link that has failed 64 times. -/
theorem witness_NocPackets :
    (inOneBlock 0x010020000000 512 = true ∧ absentDest ctlUp 0x010020000000 = false ∧ nocDest ctlUp 0x010020000000 = some 2) ∧
    (inOneBlock 0x020000320000 4 = true ∧ absentDest ctlUp 0x020000320000 = false ∧ nocDest ctlUp 0x020000320000 = none) ∧
    absentDest { ctlUp with part := .fb240 } 0x01080F000000 = true ∧
    (512 ≤ 512 ∧ tilePresent ctlUp.part 143 = true) ∧
    (let x : NocResp := { dst := 2, src := 15, req := 1, tag := 9, cls := 0, op := 3, status := 0, addr := 0, nbytes := 4, data := [] }
     let s := { ctlUp with noc := { ctlUp.noc with responses := [x, { x with op := 4 }] } }
     answerTo s 2 1 9 3 = some x ∧ dropsAnswers (takeAnswer x s) 2 = false ∧ answerTo s 2 1 9 4 = some { x with op := 4 } ∧
     dropsAnswers (takeAnswer { x with op := 4 } s) 2 = false) ∧
    (tilePresent ctlUp.part 2 = true ∧ ctlUp.devState ≠ 3) ∧
    64 ≤ linkFails { ctlUp with noc := { ctlUp.noc with replays := [(2 * 4 + 3, 64)] } } 2 3 := by decide +kernel

/-- The Lehr runs, at time `t`. -/
def lehrUp (t : Nat) : State := { ctlUp with boot := { ctlUp.boot with stage := 8 }, now := t }

/-- A report of an uncorrectable error that waits. -/
def ueWaits (n : Nat) : State :=
  let s := lehrUp 0
  { s with mem := { s.mem with reportCount := n, ueReports := [{ cw := 0x10000, kind := 0, reader := 0, src := 2, qid := 0xFFFF }] } }

/-- IntegrityAndDuties: every clause's conditions on the state. -/
theorem witness_IntegrityAndDuties :
    (∀ x ∈ [CodeMark.ce 5, .poison],
      let s := { ctlUp with mem := { ctlUp.mem with writeBacks := [0x10000], marks := [(0x10000, x)] } }
      0x10000 ∈ s.mem.writeBacks ∧ mget 0x10000 s.mem.marks = some x) ∧
    ((ueWaits 63).mem.ueReports ≠ [] ∧ gafferUp (ueWaits 63) = true ∧ reportsNow (ueWaits 63) < 64 ∧ 64 ≤ reportsNow (ueWaits 64)) ∧
    (let s := lehrUp 600000000000
     lehrRuns s = true ∧ scrubPresent s (.sram 2) = true ∧ scrubAwake s (.sram 2) = true ∧ scrubTurn s (.sram 2) = true ∧
     scrubSec (.sram 2) * 1000000000 ≤ scrubElapsed s (.sram 2)) ∧
    (let s := hbmUp { lehrUp 0 with mem := { ctlUp.mem with retFailed := [(memTiles 0).1] } }
     lehrRuns s = true ∧ scrubPresent s (.hbm 0) = true ∧ scrubAwake s (.hbm 0) = true ∧ scrubTurn s (.hbm 0) = true ∧
     scrubFirst s (.hbm 0) = true) ∧
    (let s := lehrUp 1200000000000
     scrubPresent s (.sram 2) = true ∧ 2 * scrubSec (.sram 2) * 1000000000 ≤ scrubElapsed s (.sram 2)) ∧
    (lehrRuns (lehrUp 0) = true ∧ tilePresent (lehrUp 0).part 2 = true ∧ tileRun (lehrUp 0) 2 = true) ∧
    ((placeOf ctlUp.part (R.ECC_CLR 2) = .regs (.ecc 2) 4 ∧ regErr ctlUp .gaffer true (R.ECC_CLR 2) 4 (.ecc 2) 4 = none) ∧
     (placeOf (hbmUp ctlUp).part (R.MEMC_CLR 1) = .regs (.memc 1) 4 ∧
      regErr (hbmUp ctlUp) .gaffer true (R.MEMC_CLR 1) 4 (.memc 1) 4 = none) ∧
     placeOf ctlUp.part R.LEHR_BUDGET = .regs .lehr 8 ∧ regErr ctlUp .gaffer true R.LEHR_BUDGET 4 .lehr 8 = none) ∧
    (severityOf 0x0003 2 = some 2 ∧ canStage (lehrUp 0) 64 = true ∧ (lehrUp 0).stor.buffer = [] ∧ (lehrUp 0).stor.lostCount = 0) ∧
    (let s := lehrUp 1000000000
     let r : JRec := { rtype := 1, boots := 0, jseq := 1, sec := 0, ns := 0, source := 0, chain := [], body := [], severity := 0 }
     let s := { s with stor := { s.stor with staging := [r], buffer := [] } }
     let w := drainBuffer s.stor.buffer.length s
     lehrRuns s = true ∧ lehrRuns w = true ∧ w.nvmPaused = false ∧ w.stor.staging ≠ [] ∧ mgetD 0 w.stor.dutyAt 9 + 1000000000 ≤ w.now) ∧
    (lehrRuns (lehrUp 2400000000000) = true ∧ dutyLate (lehrUp 2400000000000) 6 = true) ∧
    let s := { lehrUp 1000000 with islands := [(0, Island.run), (63, Island.run)] }
    lehrRuns s = true ∧ iotPresent s.part 0 = true ∧ tileRun s (iotTile 0) = true ∧ mgetD 0 s.stor.dutyAt (200 + 0) + 1000000 ≤ s.now := by
  decide +kernel

/-! ### Requests -/

/-- A request of session 7 through MGT 0 in mailbox `mbx`, with SEQ `seq`, `len` bytes of payload and `crit` pairs. -/
def msg (mbx seq len crit : Nat) : TcsMsg :=
  { via := .mgt 0, form := .raw 0x88B5, vtags := 0, src := 0, magic := 0x4B585453#32, ver := 1#8, flags := 0#8, mbx := mbx,
    crit := crit, session := 7#32, seq := BitVec.ofNat 32 seq, len := len, frameLen := 80 + len, expiry := 0, tag := 1#256,
    payload := [] }

/-- `m` with its tag under `key`. -/
def signedBy (key : BitVec 256) (opcode status : Nat) (m : TcsMsg) : TcsMsg :=
  { m with tag := tcsTag key (rxHeader opcode status m) m.payload }

/-- A signed message carries the right tag. -/
theorem tagGood_signedBy (key : BitVec 256) (opcode status : Nat) (m : TcsMsg) :
    tagGood key opcode status (signedBy key opcode status m) = true := by
  simp [tagGood, signedBy, rxHeader]

/-- `m` signed under the key that receives it. -/
def signed (op : OpInfo) (s : State) (m : TcsMsg) : TcsMsg := signedBy (rxKey s m) op.opcode 0 m

theorem tagGood_signed (op : OpInfo) (s : State) (m : TcsMsg) :
    tagGood (rxKey s (signed op s m)) op.opcode 0 (signed op s m) = true := tagGood_signedBy (rxKey s m) _ _ _

/-- Session 7 lives on MGT 0. -/
def liveSess : Session := { Session.none with st := .live, id := 7#32, key := 1#256 }

/-- A device in full service with session 7. -/
def served : State := active (({ ctlUp with boot := { ctlUp.boot with stage := 8 } }).setSess 0 liveSess)

/-- Session 7 holds the semaphores `l`. -/
def holding (l : List Nat) (s : State) : State :=
  { s with tcs := { s.tcs with sems := l.map fun n => (n, { port := 0, session := 7#32, leaseEnd := 1000000000000 }) } }

/-- The signed request is accepted and `P` holds of the state it leaves. -/
def accepts (op : OpInfo) (m : TcsMsg) (crit : Nat) (s : State) (P : State → Bool := fun _ => true) : Bool :=
  match acceptIf true op (signed op s m) crit s with
  | .go u => P u
  | .done _ => false

theorem accepts_of {op : OpInfo} {m : TcsMsg} {crit : Nat} {s : State} {P : State → Bool} (h : accepts op m crit s P = true) :
    ∃ u, Accepted op (signed op s m) crit s u ∧ P u = true := by
  unfold accepts at h
  simp only [Accepted, accept, tagGood_signed]
  split at h
  · exact ⟨_, ‹_›, h⟩
  · cases h

/-- A request of one setting passes its checks, and `P` holds of the state it takes effect in. -/
def passes (opcode : Nat) (st : Setting) (s : State) (P : State → Bool := fun _ => true) : Bool :=
  accepts { opcode := opcode } (msg 1 1 8 (pairsIn st)) (pairsIn st) s fun a =>
    let m := signed { opcode := opcode } s (msg 1 1 8 (pairsIn st))
    checkSetting (holdMbx a m opcode [st]) (mbxKey m) m st == .ok && P (holdMbx a m opcode [st])

theorem passes_of {opcode : Nat} {st : Setting} {s : State} {P : State → Bool} (h : passes opcode st s P = true) :
    ∃ u, SettingPasses opcode (signed { opcode := opcode } s (msg 1 1 8 (pairsIn st))) st s u ∧ P u = true := by
  obtain ⟨a, h, h2⟩ := accepts_of h
  simp only [Bool.and_eq_true, beq_iff_eq] at h2
  exact ⟨_, ⟨a, h, rfl, h2.1⟩, h2.2⟩

/-- RU 1 of corridor 0: two ports, on port 0 of IOT 0. -/
def ruBody : RuBody :=
  { ru := 1, scope := 0, sindex := 0, ports := 2, path := 0, link := 0, flowid := 3, vlan := 0, mac := 1, txproc := 5,
    chainage := 1000#32, chainageC := ~~~1000#32 }

/-- LTE carrier 5 of corridor 0: 10 MHz, FDD. -/
def lteBody : CarrierBody :=
  { scope := 0, sindex := 0, carrier := 5, std := 1, scs := 1, bw := 100, duplex := 0, dl := 370000#32, dlC := ~~~370000#32,
    ul := 350000#32, ulC := ~~~350000#32 }

/-- Corridor 0 and station cell 0. -/
def bareModel : CorridorModel :=
  { CorridorModel.reset with corridors := [(0, 50000)], stations := [(0, { maxUl := 4, maxDl := 4 })] }

/-- Corridor 0 with RU 1 and carrier 5 on one of its ports, and a static cell. -/
def corModel : CorridorModel :=
  { bareModel with
    rus := [(1, ruBody.toRu)], carriers := [(carrierKey 0 0 5, lteBody.toCarrier)],
    insts := [(instKey 1 5, { newInst 0 with maskLo := 1#32 })], statics := [(0, { corridor := 0, carrier := 5, rus := [1] })],
    nextOrder := 1 }

/-- The device with a corridor model, its semaphores held. -/
def modelled (c : CorridorModel) : State := { holding [0, 8, 24, 27] served with cor := c }

/-- CorridorSettings: a passing request of every kind. -/
theorem witness_CorridorSettings :
    passes 0x0201 (.corridor 0 0 0) (modelled CorridorModel.reset) = true ∧
    passes 0x0201 (.corridor 0 1 500000) (modelled bareModel) = true ∧
    passes 0x0201 (.corridor 0 2 0) (modelled bareModel) = true ∧
    passes 0x0202 (.ru ruBody) (modelled bareModel) = true ∧
    passes 0x0203 (.ruRemove 1) (modelled corModel) = true ∧
    passes 0x0208 (.stationCell 0 0 16 1) (modelled bareModel) = true ∧
    passes 0x0208 (.stationCell 0 1 0 0) (modelled bareModel) = true ∧
    passes 0x0204 (.carrier lteBody) (modelled bareModel) = true ∧
    passes 0x0205 (.carrierRemove 0 0 5) (modelled corModel) = true ∧
    passes 0x0207 (.staticCell 0 0 5 0 1) (modelled corModel) = true ∧
    passes 0x0207 (.staticCell 0 1 5 0 1) (modelled corModel) = true ∧
    (∀ x ∈ [(1, (1#32 : Word)), (2, 0#32), (3, 8#32), (4, 2#32), (5, 0#32)],
      passes 0x0206 (.inst 5 1 x.1 x.2 (~~~x.2)) (modelled corModel) (fun u => (mget 1 u.cor.rus).isSome) = true) ∧
    mget (instKey 1 5) corModel.insts = some { newInst 0 with maskLo := 1#32 } := by decide +kernel

/-- One of the passing requests, as the statement names it. -/
theorem witness_CorridorSettings_ru : ∃ m u, SettingPasses 0x0202 m (.ru ruBody) (modelled bareModel) u :=
  let ⟨u, h⟩ := passes_of (P := fun _ => true) (show passes 0x0202 (.ru ruBody) (modelled bareModel) = true by decide +kernel)
  ⟨_, u, h.1⟩

/-- A VALUE of 24 bytes that begins with `l`. -/
def value (l : List Nat) : List Byte := fitBytes 24 (l.map (BitVec.ofNat 8))

/-- NetworkAndTimeSettings: a passing request of every item. -/
theorem witness_NetworkAndTimeSettings :
    let s := modelled corModel
    (∀ x ∈ [(1, 0x100, value [4, 24]), (2, 1, value [6]), (3, 0x11F, value []), (4, 0, value [4, 1]), (5, 4, value []),
            (6, 0, value [0xFF]), (7, 0, value [2]), (8, 0, value [0, 0, 0, 0, 100]), (9, 0, value []), (10, 7, value [1])],
      passes 0x0112 (.netConfig x.1 x.2.1 x.2.2) s = true) ∧
    (∀ x ∈ [(1, 0, 0), (2, 0, 24), (3, 4, 3), (4, 0, 1), (5, 3, 2 ^ 64 - 1), (6, 0, 255), (7, 0, 200), (8, 0, 10000), (9, 3, 8),
            (10, 0, 0x83), (11, 0, 5), (12, 0, 1000000)],
      passes 0x0402 (.timeConfig x.1 x.2.1 (BitVec.ofNat 64 x.2.2)) s = true) := by decide +kernel

/-- SettingListsInOrder: an accepted list of two settings; in its mailbox a list before a setting that passes and does not
wait, one that waits, one that fails, one under STOP, one out of time, and an empty one. -/
theorem witness_SettingListsInOrder :
    accepts { opcode := 0x0202 } (msg 1 1 8 2) (([.ru ruBody, .ru ruBody].map pairsIn).foldl (· + ·) 0) (modelled bareModel) = true ∧
    (let put (m : TcsMsg) (l : List Setting) (r : List SettingResult) : State :=
       setMbx (modelled corModel) 1 { msg := m, opcode := 0x0202, rest := l, results := r, waiting := none, order := 0, at_ := 0 }
     let m := msg 1 1 8 1
     let bad : SettingResult := { status := 5, effective := 0 }
     let e (s : State) : MbxExec := (mget 1 s.tcs.mailboxes).getD { msg := m, opcode := 0, rest := [], results := [], waiting := none, order := 0, at_ := 0 }
     let st := Setting.ru ruBody
     let inst := Setting.inst 5 1 1 1#32 (~~~1#32)
     (let s := put m [st] []
      mhas s.tcs.mailboxes 1 = true ∧ (e s).waiting = none ∧ (e s).rest = [st] ∧ skipped s (e s) = none ∧
      checkSetting s 1 m st = .ok ∧ carrierOf s st = none ∧
      mget 1 (applySetting s false st).tcs.mailboxes = some (e s)) ∧
     (let s := put m [inst] []
      skipped s (e s) = none ∧ checkSetting s 1 m inst = .ok ∧ carrierOf s inst = some 5) ∧
     (let s := put m [.ruRemove 300] []
      skipped s (e s) = none ∧ checkSetting s 1 m (.ruRemove 300) = .badArg) ∧
     (let s := put { m with flags := 8#8 } [st] [bad]
      skipped s (e s) = some .aborted) ∧
     (let s := put { m with expiry := 1 } [st] []
      skipped { s with clk := { sec := 1, ns := 0, frac := 0 } } (e s) = some .timeout) ∧
     (e (put m [] [])).rest = []) ∧
    (let good : SettingResult := { status := 0, effective := 0 }
     let bad : SettingResult := { status := 5, effective := 0 }
     headerStatus [good] = 0 ∧ headerStatus [bad, good] = 0x0010 ∧ headerStatus [bad, bad] = 5) := by decide +kernel

/-- The setting record leaves the mailbox as it is, whatever its body. -/
theorem witness_settingRecord_mailboxes (s : State) (e : MbxExec) (st : Setting) (c : Nat) :
    (settingRecord s e st c).tcs.mailboxes = s.tcs.mailboxes := by simp [settingRecord]

/-- A spur port trained to its lowest rate carries RU 1 with both ports of its instance at width `w`. -/
def short (w : Nat) : State :=
  (modelled { corModel with
    rus := [(1, { ruBody.toRu with path := 2, link := 0, flowid := 0 })],
    insts := [(instKey 1 5, { newInst 0 with maskLo := 3#32, compw := BitVec.ofNat 32 w })] }).setField (R.SPUR_STAT 0) 18 16 4

/-- PEER_SET of the low end of corridor 0. -/
def peerBody : PeerBody :=
  { corridor := 0, endHi := 0, peerCorridor := 1, iot := 0, port := 0, afamily := 4, addr := [10#8, 0#8, 0#8, 1#8], importQid := 9,
    l2Area := 0x1000, l2Size := 0x100000, peerId := List.replicate 16 7#8 }

/-- BoundaryAndPeerEntries: a setting due at its boundary, a short spur port above and at the least width, an object to read,
and peer entries to store and to clear. -/
theorem witness_BoundaryAndPeerEntries :
    (let e : MbxExec := { msg := msg 1 1 8 1, opcode := 0x0206, rest := [], results := [],
                          waiting := some (.inst 5 1 1 1#32 (~~~1#32), 5, 0), order := 0, at_ := 0 }
     let s := { setMbx (modelled corModel) 1 e with clk := { sec := 1, ns := 0, frac := 0 } }
     dueAt s (carrierKey 0 0 5) = [(1, e)] ∧ (1 : Nat) ≠ ownKey) ∧
    (let s := short 12
     shortOf s 1 = true ∧ ((activeInsts s 1).any fun x => x.1 == 5 && lowerable x) = true ∧
     frameSince s 1 5 [mget 1 s.cor.retrained, mget (instKey 1 5) s.cor.lowered] = true) ∧
    (let s := { short 12 with cor := { (short 12).cor with lowered := [(instKey 1 5, 0)] } }
     frameSince s 1 5 [mget 1 s.cor.retrained, mget (instKey 1 5) s.cor.lowered] = false) ∧
    (let s := short 8
     shortOf s 1 = true ∧ (activeInsts s 1).any lowerable = false ∧ nextToDrop (activeInsts s 1) = some 5 ∧
     frameSince s 1 5 (mget 1 s.cor.retrained :: (instsOn s 1).map fun x => mget (instKey 1 x.1) s.cor.lowered) = true) ∧
    accepts { opcode := 0x0220, onchip := true } (msg 1 1 8 0) 0 (modelled corModel) (fun u => (configObject u 1 1 0).isSome) = true ∧
    accepts { opcode := 0x0209 } (msg 1 1 8 0) 0 (modelled corModel) (fun u =>
      decide (peerBody.corridor < 8) && holdsSem u (msg 1 1 8 0) 0 && !u.parison && peerRange u peerBody && mhas u.cor.corridors 0 &&
      !endBusy u 0) = true ∧
    accepts { opcode := 0x0209 } (msg 1 1 8 0) 0 ((modelled corModel).setPeer 0 (Peer.fresh peerBody served)) (fun u =>
      holdsSem u (msg 1 1 8 0) 0 && !u.parison && mhas u.cor.corridors 0 && !endBusy u 0 && mhas u.peers 0) = true := by
  decide +kernel

/-- Semaphore `n` is held by another session of port 1, which last sent an authenticated message at 0. -/
def otherHolds (n lease t : Nat) : State :=
  { (served.setSess 1 { liveSess with id := 8#32 }) with
    tcs := { (served.setSess 1 { liveSess with id := 8#32 }).tcs with sems := [(n, { port := 1, session := 8#32, leaseEnd := lease })] },
    now := t }

/-- SemBreak: a free one, one's own, another's silent for less than 5 s and for exactly 5 s, and one whose lease has run out. -/
theorem witness_SemBreak :
    let op : OpInfo := { opcode := 0x0A05, zero := true }
    let m := msg 0 1 8 0
    accepts op m 0 served (fun u => (mget 63 (lapse 63 u).tcs.sems).isNone) = true ∧
    accepts op m 0 (holding [63] served) (fun u => holdsSem (lapse 63 u) m 63) = true ∧
    accepts op m 0 (otherHolds 0 30000000000 4999999999) (fun u => (mget 0 (lapse 0 u).tcs.sems).isSome && !holdsSem (lapse 0 u) m 0 &&
      decide ((lapse 0 u).now < ((lapse 0 u).sess 1).lastAuth + 5000000000)) = true ∧
    accepts op m 0 (otherHolds 0 30000000000 5000000000) (fun u => (mget 0 (lapse 0 u).tcs.sems).isSome && !holdsSem (lapse 0 u) m 0 &&
      decide (((lapse 0 u).sess 1).lastAuth + 5000000000 ≤ (lapse 0 u).now)) = true ∧
    accepts op m 0 (otherHolds 0 4000000000 5000000000) (fun u => (mget 0 (lapse 0 u).tcs.sems).isNone) = true := by decide +kernel

/-- Semaphores: every command accepted of one held, of a free one and of another's; a lease that has run out; a mask. -/
theorem witness_Semaphores :
    let m := msg 0 1 8 0
    let op (o : Nat) : OpInfo := { opcode := o, zero := true }
    (∀ o ∈ [0x0A01, 0x0A02, 0x0A03, 0x0A04],
      accepts (op o) m 0 served (fun u => (mget 63 (lapse 63 u).tcs.sems).isNone) = true ∧
      accepts (op o) m 0 (holding [63] served) (fun u => holdsSem (lapse 63 u) m 63) = true ∧
      accepts (op o) m 0 (otherHolds 0 30000000000 0) (fun u => (mget 0 (lapse 0 u).tcs.sems).isSome && !holdsSem (lapse 0 u) m 0) = true) ∧
    leaseOf 0 = some 30000 ∧ leaseOf 1000 = some 1000 ∧ leaseOf 300000 = some 300000 ∧
    mget 5 (otherHolds 5 4 5).tcs.sems = some { port := 1, session := 8#32, leaseEnd := 4 } ∧ 4 ≤ (otherHolds 5 4 5).now := by
  decide +kernel

/-- The state of a session that is PENDING since 0, at time `t`. -/
def pendingSess (t : Nat) : State := { served.setSess 0 { liveSess with st := .pending } with now := t }

/-- Sessions: a HELLO at a free port of an enrolled slot, a CONFIRM in time, a pending and an idle session out of time, accepted
KEEPALIVE and CLOSE, and a command that can be aborted. -/
theorem witness_Sessions :
    (let m := { msg 0 1 48 0 with session := 0#32, tag := 0#256 }
     let s := { (served.setSess 0 Session.none) with boot := { served.boot with keys := [(7, { st := .enrolled, pubkey := [] })] } }
     m.via = .mgt 0 ∧ gafferUp s = true ∧ formOk s 0 m = true ∧ framing m = none ∧ m.session = 0#32 ∧ m.tag = 0#256 ∧ m.mbx = 0 ∧ m.crit = 0 ∧
     s.devState ≠ 3 ∧ expired s m = false ∧ (s.sess 0).st = .none ∧ hostKey s 7 = .enrolled) ∧
    (let s := { (served.setSess 0 Session.none) with boot := { served.boot with keys := [] } }
     anyHostKey s = false ∧ (s.sess 0).st = .none) ∧
    (((pendingSess 2000000000).sess 0).st = .pending ∧ ((pendingSess 2000000000).sess 0).pendingAt + 2000000000 ≤ (pendingSess 2000000000).now) ∧
    accepts { opcode := 0x0104, zero := true } (msg 0 1 0 0) 0 served = true ∧
    accepts { opcode := 0x0103, zero := true } (msg 0 1 0 0) 0 served = true ∧
    (let s := { served with now := 60000000000 }
     (s.sess 0).st = .live ∧ (s.sess 0).lastAuth + 60000000000 ≤ s.now ∧ s.devState ≠ 3) ∧
    (let e : MbxExec := { msg := msg 14 0 8 0, opcode := 0x0202, rest := [], results := [], waiting := none, order := 0, at_ := 0 }
     accepts { opcode := 0x0105, zero := true } (msg 0 1 8 0) 0 (setMbx served 14 e) (fun u =>
       u.devState != 3 && mget (portOf (msg 0 1 8 0) * 16 + 14) u.tcs.mailboxes == some e && (abortEffect 14 e u).isSome) = true) := by decide +kernel

/-- Sessions: a signed CONFIRM of the pending session in time, before and after its EXPIRY. -/
theorem witness_Sessions_confirm (x : Nat) :
    let s := { pendingSess 1999999999 with clk := { sec := 1, ns := 0, frac := 0 } }
    let m := signed { opcode := 0x0102 } s { msg 0 1 8 0 with expiry := x }
    m.via = .mgt 0 ∧ gafferUp s = true ∧ formOk s 0 m = true ∧ framing m = none ∧ pendingFor s 0 m = true ∧
      tagGood (rxKey s m) 0x0102 0 m = true ∧ m.mbx = 0 ∧ m.crit = 0 ∧ s.devState ≠ 3 ∧
      (x = 0 → expired s m = false) ∧ (x = 1 → expired s m = true) := by
  refine ⟨rfl, by decide +kernel, rfl, rfl, ?_, tagGood_signed _ _ _, rfl, rfl, by decide +kernel, ?_, ?_⟩
  · show pendingFor _ 0 (msg 0 1 8 0) = true
    decide +kernel
  · rintro rfl; decide +kernel
  · rintro rfl; decide +kernel

/-- On-chip mailbox `n` in state `st`, owned by core 0 of tile 2. -/
def mbxIn (n st : Nat) (s : State) : State :=
  s.setReg (R.MBX_STAT n) (BitVec.ofNat 32 (st * 2 ^ 30 + 2 * 2 ^ 18))

/-- EventsCountersMailboxes: every accepted request, a present counter block, and a mailbox in every state. -/
theorem witness_EventsCountersMailboxes :
    accepts { opcode := 0x0106, zero := true } (msg 0 1 8 0) 0 served = true ∧
    accepts { opcode := 0x0110, onchip := true } (msg 1 1 0 0) 0 served = true ∧
    accepts { opcode := 0x0802, onchip := true } (msg 1 1 8 0) 0 served (fun u => (counterBlock u 14 (143 * 16 + 15)).isSome || (counterBlock u 1 3).isSome) = true ∧
    accepts { opcode := 0x0802, onchip := true } (msg 1 1 8 0) 0 served (fun u => (counterBlock u 14 (63 * 16 + 15)).isNone) = true ∧
    (listedOpcode 0x0107 = false ∧ accepts { opcode := 0x0107, zero := true, onchip := false } (msg 0 1 0 0) 0 served = true ∧
     listedOpcode 0x0B05 = false ∧ accepts { opcode := 0x0B05, zero := false, onchip := true } (msg 1 1 0 3) 3 served = true) ∧
    gafferUp served = true ∧
    firstBelow 32 (fun n => mbxState (mbxIn 0 1 served) n == 0) = some 1 ∧
    (∀ st ∈ [1, 3], mbxOwner (mbxIn 31 st served) 31 (.core 2 0) = true ∧ mbxState (mbxIn 31 st served) 31 = st) ∧
    (let s := mbxIn 0 2 { served with tcs := { served.tcs with onchipReq := [(0, .core 2 0)] } }
     mbxOwner s 0 (.core 2 0) = true ∧ mbxState s 0 = 2 ∧ mhas s.tcs.onchipReq 0 = true) ∧
    bit (1#32) 0 = true ∧
    (∀ x < 4,
     let s := (mbxIn 3 2 { served with tcs := { served.tcs with onchipDone := [(3, 0)] } }).setReg (R.MBX_CTRL 3)
       (BitVec.ofNat 32 (x * 2 ^ 30))
     mget 3 s.tcs.onchipDone = some 0 ∧ fld (s.reg (R.MBX_CTRL 3)) 31 30 = x) ∧
    (let s := { served with tcs := { served.tcs with notices := [(3, 5, 0)] } }
     s.tcs.notices = [(3, 5, 0)] ∧ 0 ≤ s.now) := by decide +kernel

/-! ### Runs, peers, crumbs, egress -/

/-- A run of corridor 0 whose home is tile 15, in service. -/
def aRun : Run :=
  { Run.fresh 0 15 0x0100F0010000 5 with
    winSize := 3, joinSlots := 4, hyst := 0, lead := 0, statusQid := 5, noFix := 20, clampOn := [(0, 8)], clampOff := [(0, 8)],
    rewrite := [1] }

/-- The device with the corridor of `corModel` and run 0, changed by `f`, at `t` seconds of device time. -/
def runUp (f : Run → Run) (t : Nat) : State :=
  { (modelled corModel).setRun 0 (f aRun) with clk := { sec := t, ns := 0, frac := 0 }, now := t * 1000000000 }

/-- Feed 0 of run 0 with FLAGS `n`, ACTIVE. -/
def feedUp (n : Nat) : State :=
  putFeed (runUp id 1) aRun { pos := 0, st := 2, flags := n, age := 0, snr := 0, delay := 0, ful := 0, fdl := 0, trimD := 0, trimF := 0 }

/-- RUN_CREATE on corridor 0 at RU 1. -/
def runBody : RunBody :=
  { corridor := 0, run := 0xFF, dir := 1, winSize := 7, chainage := 1000, speed := 18000, combMode := 1, joinSlots := 8, hyst := 10000,
    lead := 500, coast := 600, statusQid := 5, win := 0#32, winC := ~~~0#32, txEn := 1#32, txEnC := ~~~1#32,
    atts := List.replicate 5 (6000#32, ~~~6000#32) }

/-- A peer entry of the end `k` of corridor 0, changed by `f`. -/
def peerUp (k : Nat) (f : Peer → Peer) (s : State) : State := s.setPeer k (f (Peer.fresh peerBody served))

/-- RunCommands: a run that can be created; one in service, with a live peer to export to; its context; a position at both
ends of its time range. -/
theorem witness_RunCommands :
    accepts { opcode := 0x0301 } (msg 1 1 8 7) 7 (modelled corModel) (fun u => holdsSem u (msg 1 1 8 7) 0 && !u.parison &&
      createRange u runBody && createPairs runBody && freeRun u == some 0 && (anchorOf u 0).isSome) = true ∧
    accepts { opcode := 0x0302 } (msg 1 1 8 0) 0 (runUp id 1) (fun u => holdsSem u (msg 1 1 8 0) 0 && !u.parison && u.run 0 == some aRun) = true ∧
    accepts { opcode := 0x0301 } (msg 1 1 8 7) 7 (modelled corModel) (fun u => (fun b => createRange u b) { runBody with run := 63 }) = true ∧
    (aRun.ending = 0 ∧ aRun.exported = none) ∧
    accepts { opcode := 0x0303 } (msg 1 1 8 0) 0 (peerUp 1 (fun p => { p with st := .live }) (runUp id 1)) (fun u =>
      holdsSem u (msg 1 1 8 0) 0 && !u.parison && u.run 0 == some aRun && peerLive u (aRun.endKey u) && exportOf u 0 aRun == none) = true ∧
    accepts { opcode := 0x0306, onchip := true } (msg 1 1 8 0) 0 (runUp id 1) (fun u => u.run 0 == some aRun &&
      (memRead .gaffer (.sram aRun.home) aRun.ctx 512 u).1.isSome) = true ∧
    accepts { opcode := 0x0306, onchip := true } (msg 1 1 8 0) 0 ((runUp id 1).setMark aRun.ctx (some .poison)) (fun u =>
      u.run 0 == some aRun && (memRead .gaffer (.sram aRun.home) aRun.ctx 512 u).1.isNone) = true ∧
    (∀ t ∈ [3001000000, 1000000000],
      accepts { opcode := 0x0305, onchip := true } (msg 1 1 8 0) 0 (runUp id 3) (fun u => !u.parison && u.run 0 == some aRun &&
        decide (t ≤ u.devNs + 1000000) && decide (u.devNs ≤ t + 2000000000)) = true) := by decide +kernel

/-- RunBoundaries: a run at its last boundary and at a later one, at each limit of its states, with a feed, and with a pair to
write back. -/
theorem witness_RunBoundaries :
    (runUp id 1).run 0 = some aRun ∧
    (let s := runUp (fun r => { r with boundary := 1000000000 }) 1
     s.devNs / aRun.slot s * aRun.slot s ≤ 1000000000) ∧
    aRun.boundary < (runUp id 1).devNs / aRun.slot (runUp id 1) * aRun.slot (runUp id 1) ∧
    (aRun.tstate (runUp id 10) = 0 ∧ aRun.since + 10000000000 ≤ (runUp id 10).now) ∧
    (aRun.tstate (ctxPut (runUp id 1) aRun ctxTState 1 1) = 1 ∧ 20 ≤ aRun.noFix) ∧
    (aRun.tstate (ctxPut (runUp id 5) aRun ctxTState 1 2) = 2 ∧ aRun.since + aRun.coast * 100000000 ≤ (runUp id 5).now) ∧
    ((aRun.feedAt (feedUp 0) 0).map (fun f => f.flags / 2 % 2) = some 0 ∧ 8 ≤ mgetD 0 aRun.clampOn (0 % 8)) ∧
    ((aRun.feedAt (feedUp 2) 0).map (fun f => f.flags / 2 % 2) = some 1 ∧ 8 ≤ mgetD 0 aRun.clampOff (0 % 8)) ∧
    (aRun.rewrite ≠ [] ∧ aRun.rewriteAt < (runUp id 1).devNs / aRun.slot (runUp id 1) ∧ gafferUp (runUp id 1) = true) := by
  decide +kernel

/-- WindowSteps: feeds of every clause. A joining feed just long enough and not; a leaving feed; a window that grows up and
down; one at its target. -/
theorem witness_WindowSteps :
    let l : List Int := [0, 1000, 2000, 3000, 4000]
    let k (v : Int) : Motion := { x := 2000, v := v, a := 0 }
    winOf [(2, 1, 3)] = some (2, 2) ∧
    leastBy (fun f : Nat × Nat × Nat => ((chainageAt l f.1 - (k 1).x).natAbs, f.1, 0)) [(2, 1, 3)] = some (2, 1, 3) ∧
    (aRun.joinSlots ≤ 3 + 1 ∧ ¬ aRun.joinSlots ≤ 2 + 1) ∧
    [(2, 3, 0)].find? (fun f : Nat × Nat × Nat => f.2.1 == 3) = some (2, 3, 0) ∧
    (let fs : List (Nat × Nat × Nat) := [(2, 2, 9)]
     let t := targetWin l.length aRun.winSize 2
     fs.find? (fun f => f.2.1 == 3) = none ∧ fs.length ≤ aRun.winSize ∧ forward aRun (k 1).v = true ∧ 2 < (t true).2 ∧
     forward aRun (k (-1)).v = false ∧ (t false).1 < 2) ∧
    (let fs : List (Nat × Nat × Nat) := [(1, 2, 9), (2, 2, 9), (3, 2, 9)]
     let t := targetWin l.length aRun.winSize 2 true
     winOf fs = some (1, 3) ∧ (3 = t.2 ∧ t.1 = 1)) ∧
    decideStep aRun l (k 1) 4 [(1, 2, 9), (2, 2, 9), (3, 2, 9), (4, 2, 9)] = { code := 3, pos := 1 } := by decide +kernel

/-- A message of the peer at end `hi` of corridor 0. -/
def peerMsg (hi : Bool) (mbx crit : Nat) : TcsMsg := { msg mbx 1 8 crit with via := .peer 0 hi, form := .udp4 [] 47601 }

/-- Peer state `st` at end `k`, last heard and kept alive at 0, at time `t`. -/
def peerAt (k : Nat) (st : PeerSt) (t : Nat) : State :=
  { peerUp k (fun p => { p with st := st, session := 7#32 }) (modelled corModel) with now := t }

/-- PeerSessions: every state a message or an expiry meets. -/
theorem witness_PeerSessions :
    (let m := { peerMsg false 0 0 with session := 0#32, tag := 0#256 }
     framing m = none ∧ peerForm m = true ∧ m.session = 0#32 ∧ m.tag = 0#256 ∧ m.mbx = 0 ∧
     ∀ st ∈ [PeerSt.none, .live], gafferUp (peerAt 0 st 0) = true ∧ (peerAt 0 st 0).parison = false ∧
       ((peerAt 0 st 0).peer 0).any (fun p => p.st == st) = true) ∧
    ((peerAt 1 .opening 0).peer 1).any (fun p => p.st == .opening) = true ∧
    accepts (peerOp 0x0312 0) (peerMsg true 0 0) 0 (peerAt 1 .live 0) = true ∧
    ((peerAt 1 .live 1000000000).peer 1).any (fun p => p.st == .live && decide (p.keepAt + 1000000000 ≤ 1000000000)) = true ∧
    ((peerAt 1 .live 5000000000).peer 1).any (fun p => p.st != .none && decide (p.lastAuth + 5000000000 ≤ 5000000000)) = true ∧
    ((peerAt 1 .none 1000000000).peer 1).any (fun p => p.st == .none && decide (p.endedAt + 1000000000 ≤ 1000000000)) = true := by
  decide +kernel

/-- PeerSessions: a signed PEER_CONFIRM at the responder, and its signed answer at the opener. -/
theorem witness_PeerSessions_confirm (hi : Bool) :
    let s := peerAt (b2n hi) .opening 0
    let m := signed { opcode := 0x0311 } s (peerMsg hi 0 0)
    m.via = .peer 0 hi ∧ gafferUp s = true ∧ peerForm m = true ∧ framing m = none ∧ m.mbx = 0 ∧ s.parison = false ∧
      ∃ p, s.peer (peerKey 0 hi) = some p ∧ p.st = .opening ∧ m.session = p.session ∧ tagGood p.key 0x0311 0 m = true := by
  cases hi <;> exact ⟨rfl, by decide +kernel, rfl, rfl, rfl, by decide +kernel, _, rfl, rfl, rfl, tagGood_signedBy _ _ _ _⟩

/-- An export of run 0 that leaves at 1 s. -/
def anExport : Export :=
  { run := 0, sTime := 1000000000, started := 0, ctx := none, delta := none, recordSent := false, accepted := false,
    deltaSent := false, mbxKey := none, seq := 1, peerRun := 0 }

/-- A record of RUN_IMPORT for corridor 0 with one carrier, which anchors. -/
def importBody : ImportBody :=
  { ver := 1, corridor := 0, dir := 1, winSize := 1, combMode := 0, hyst := 0, lead := 0, coast := 5, l2Len := 0, sTime := 0, tState := 1,
    pos := 0, speed := 0, accel := 0, fc := 0, win := 0#32, winC := ~~~0#32, txEn := 0#32, txEnC := ~~~0#32,
    atts := List.replicate 5 (0#32, ~~~0#32),
    carriers := [{ std := 1, scs := 1, bw := 100, anchor := true, dl := 370000#32, dlC := ~~~370000#32, ul := 350000#32, ulC := ~~~350000#32 }] }

/-- An import at end `hi` of corridor 0 that announces `n` bytes. -/
def anImport (n : Nat) : Import :=
  { msg := peerMsg false 1 9, body := { importBody with l2Len := n }, run := some 0, ctxParts := [], deltaParts := [(0, 64)], deltaOk := false }

/-- The peer at end 1 (the end a run of DIR 0 leaves by) is live, changed by `f`, at `t` ns. -/
def handUp (f : Peer → Peer) (t : Nat) : State :=
  { peerUp 1 (fun p => f { p with st := .live, session := 7#32 }) (runUp id 0) with now := t, clk := { sec := 0, ns := t, frac := 0 } }

/-- Handover: each step's export, import and due time. -/
theorem witness_Handover :
    (let m := { msg 0 1 0 0 with via := .onchip 3, session := 0#32, frameLen := 48 }
     ∀ a ∈ [0, 64], ∀ x ∈ [false, true],
      let e := { anExport with recordSent := x, deltaSent := x }
      let s := handUp (fun p => { p with exports := [(0, e)] }) 0
      let w := (s.setReg64 (R.MBX_PTR 3) 0x010020000000#64).putBytes 0x010020000000 (rxHeader 0x0309 0 m)
      accepts { opcode := 0x0309, onchip := true, host := false } m 0
        { w with tcs := { w.tcs with onchipReq := [(3, .core 2 0)] } } (fun u =>
        !u.parison && isHbm u a && decide (a % 64 = 0) && u.run 0 == some aRun && exportOf u 0 aRun == some e) = true) ∧
    (let s := handUp (fun p => { p with exports := [(0, anExport)] }) 5000000
     (s.peer 1).map Peer.exports = some [(0, anExport)] ∧ s.run 0 = some aRun ∧ anExport.started + 5000000 ≤ s.now) ∧
    (let e := { anExport with recordSent := true }
     let s := handUp (fun p => { p with exports := [(0, e)] }) 990000000
     (s.peer 1).any (fun p => p.st == .live && p.exports == [(0, e)]) = true ∧ s.devNs + 10000000 ≤ e.sTime ∧ e.sTime ≤ s.devNs + 10000000 ∧
     peerForm (peerMsg true 0 0) = true ∧ (s.peer 1).any (fun p => p.session == (peerMsg true 0 0).session) = true ∧
     e.seq = (peerMsg true 0 0).seq.toNat) ∧
    (let s := ctxPut (handUp (fun p => { p with retries := [(0, 0)] }) 0) aRun ctxPos 8 100000
     (s.peer 1).any (fun p => p.st == .live && p.retries == [(0, 0)]) = true ∧ s.run 0 = some aRun ∧ retryHolds s 1 0 = true) ∧
    (∀ n ∈ [0, 64], accepts (peerOp 0x0304 1) (peerMsg true 1 9) 9 (handUp id 0) (fun u =>
      (u.peer 1).any fun p => importCheck u 1 p { importBody with l2Len := n } == .ok) = true) ∧
    accepts (peerOp 0x0304 1) (peerMsg true 1 9) 9 (handUp id 0) (fun u =>
      (u.peer 1).any fun p => importCheck u 1 p { importBody with ver := 2 } == .badArg) = true ∧
    accepts (peerOp 0x0308 2) (peerMsg true 2 0) 0 (handUp (fun p => { p with import_ := some (anImport 64) }) 0) (fun u =>
      ((u.peer 1).bind Peer.import_) == some (anImport 64)) = true ∧
    accepts (peerOp 0x0307 2) (peerMsg true 2 0) 0 (handUp (fun p => { p with import_ := some (anImport 64) }) 0) (fun u =>
      ((u.peer 1).bind Peer.import_) == some (anImport 64)) = true ∧
    (anImport 64).run ≠ none ∧ arrived ([] ++ [(32, 32)]) ≠ 64 ∧ 0 + 64 ≤ (anImport 64).body.l2Len ∧
    0 + 64 ≤ peerBody.l2Size - (anImport 64).body.l2Len ∧ (List.replicate 64 (0#8 : Byte)).length ≤ 8176 := by decide +kernel

/-- The answer of Handover's third clause, signed under the peer's key, with any status. -/
theorem witness_Handover_reply (key : BitVec 256) (st : Nat) :
    tagGood key 0x0304 st (signedBy key 0x0304 st (peerMsg true 0 0)) = true := tagGood_signedBy _ _ _ _

/-- A crumb that waits for session 7. -/
def crumbWaits : CrumbStream := { session := 7#32, dsqs := 1, waiting := [List.replicate 32 1#8], budget := 112, refilled := 0, frame := 1 }

/-- Port 0 of IOT 0 in mode 10GBASE-R with lanes in bring-up step `n` and link `up`, at `t` ns. -/
def portAt (mode n : Nat) (up : Bool) (t : Nat) : State :=
  { (((modelled corModel).setField (R.ETH_MODE 0 0) 5 0 mode).setField (R.ETH_STAT 0 0) 4 0 (n + 16 * b2n up)) with
    now := t, clk := { sec := 0, ns := t, frac := 0 } }

/-- A frame of `n` bytes. -/
def rxFrame (n : Nat) (fcs : Bool) : RxFrame := { len := n, fcsOk := fcs, cw := 1, corr := 0, uncorr := 0, tags := [], body := .other }

/-- CrumbsAndReception: a span ended 1 s ago, an accepted CRUMB_CTRL, crumbs within the budget, a paused queue, a linked port
and frames at each limit, a window that has passed, and a delay measurement that is due. -/
theorem witness_CrumbsAndReception :
    (let sp : Span := { lamMax := 3, count := 1, lastEnd := some 0 }
     let s := ({ served with now := 1000000000 }).setFlow 0 4095 { Flow.reset with span := some sp }
     (s.flow 0 4095).span = some sp ∧ sp.lastEnd = some 0 ∧ (s.flow 0 4095).episode = false ∧ 0 + 1000000000 ≤ s.now) ∧
    accepts opCrumbCtrl (msg 1 1 8 0) 0 (holding [29] served) (fun u => holdsSem u (msg 1 1 8 0) 29 && !u.parison &&
      crumbBodyOk u { dsqMask := 15, dest := 3, tmask := 127, mode := 3, qidLo := 0, qidHi := 65535, ringBase := 0, ringLog2 := 16 }) = true ∧
    (let s := { served with dsq := { served.dsq with streams := [(0, crumbWaits)] } }
     mget 0 s.dsq.streams = some crumbWaits ∧ crumbWaits.waiting ≠ [] ∧ s.isLive 0 = true ∧ (s.sess 0).id = crumbWaits.session ∧
     80 + crumbWaits.waiting.length * 32 ≤ crumbBudget s crumbWaits) ∧
    (let s := queueUp 3 true [entry [], entry []] { served with now := 100000 }
     let s := s.setQueue 5 { s.queue 5 with paused := true, hi := 2, lo := 1 }
     (s.queue 5).paused = true ∧ (s.queue 5).hi ≠ 0 ∧ (s.queue 5).lo < (s.queue 5).entries.length ∧ (s.queue 5).pausedAt + 100000 ≤ s.now) ∧
    (let s := portAt 1 8 true 0
     ethPort s 0 0 = true ∧ linkUp s 0 0 = true ∧ portFec (countCodewords 0 0 (rxFrame 64 true) s) 0 0 = false ∧ (rxFrame 63 true).len < 64 ∧
     9216 < (rxFrame 9217 true).len ∧ 2 < ({ rxFrame 64 true with tags := [0, 0, 0] } : RxFrame).tags.length ∧ (rxFrame 9216 false).fcsOk = false) ∧
    (let s := portAt 1 8 true 100000
     (bindOf s 1 5).any (fun bd => symOk bd.c 9 13 && symOk bd.c 0 0 && decide (mgetD 0 s.fh.next bd.key ≤ symNo s bd.c 0 0 0) &&
       windowPast s bd (symNo s bd.c 0 0 0) && (upRec s bd.key (symNo s bd.c 0 0 0)).isNone) = true) ∧
    (let x : UpRec := { key := instKey 1 5, n := 0, buf := none, got := [], expSat := false, tRx := none, closed := false }
     let s := { portAt 1 8 true 100000 with fh := { FrontHaul.reset with recs := [x] } }
     (bindOf s 1 5).any (fun bd => windowPast s bd (symNo s bd.c 0 0 0) && upRec s bd.key (symNo s bd.c 0 0 0) == some x) = true) ∧
    (portUp (portAt 1 8 true 0) (portKey 0 0) = true ∧ delayDue (portAt 1 8 true 0) 0 0 = true) := by decide +kernel

/-- EGRESS queue 5 bound to port 0 of IOT 0 with configuration `cfg`, holding `es`. -/
def egUp (cfg : Nat) (es : List (List Byte)) : State :=
  let s := queueUp 2 true es (portAt 1 8 true 0)
  s.setEgq 5 { EgQueue.reset 0 with cfg := BitVec.ofNat 32 cfg, headTag := some 0#64 }

/-- A frame entry of 60 bytes, in HBM. -/
def frameEntry : List Byte := entry [(2, 2, 60), (8, 8, 0x1000)]

/-- EgressService: a TIMED queue with a good and a bad head; a port free for control, timed and weighted fair service; a frame
that ends; a pause that ends; a sampled queue at the end of its window. -/
theorem witness_EgressService :
    (let s := egUp (2 ^ 31 + 2 ^ 30) [frameEntry]
     (s.egq 5).any (fun x => x.en && x.timed && (s.queue 5).en && decide ((s.calendar x.key).length < 256) && (peekHead s 5).1 == some frameEntry &&
       entryOk x frameEntry && !entryOk x (entry [(2, 2, 59)])) = true) ∧
    (let c : CalEntry := { qid := 5, launch := 0, entry := frameEntry, zeros := false, len := 84 }
     let s := (egUp 0 []).setCalendar 0 [c]
     txFree s 0 = true ∧ launchDue s 0 = some c ∧ mgetD [] s.eg.control 0 = [] ∧ fitsGuard s 0 84 = false) ∧
    (let s := egUp (2 ^ 31 + 2 ^ 30) []
     let s := s.setEgq 5 { EgQueue.reset 0 with cfg := BitVec.ofNat 32 (2 ^ 31 + 2 ^ 30), binding := some (1 * 1024 + 5) }
     txFree s 0 = true ∧ launchDue s 0 = none ∧ (silentDue s 0).isSome = true ∧ mgetD [] s.eg.control 0 = []) ∧
    (let s := egUp 0 []
     let s := { s with eg := { s.eg with control := [(0, [(7, 0xFFFF)])] } }
     txFree s 0 = true ∧ mgetD [] s.eg.control 0 = [(7, 0xFFFF)] ∧ fitsGuard s 0 84 = true) ∧
    (let s := egUp (2 ^ 31) [frameEntry]
     txFree s 0 = true ∧ mgetD [] s.eg.control 0 = [] ∧ launchDue s 0 = none ∧ silentDue s 0 = none ∧
     wfqPick (wfqReady s 0) = (s.egq 5).map fun x => (5, x, frameEntry)) ∧
    (let f : TxFrame := { kind := .control, qid := 0, entry := [], tTx := 0, ends := 0, delay := 0, status := 0, disc := false, out := .ppsOut 0 0 }
     let s := (egUp 0 []).setTx 0 f
     mget 0 s.eg.tx = some f ∧ f.ends ≤ s.now) ∧
    (let s := egUp 0 []
     let s := { s with eg := { s.eg with paused := [(7, 0)] } }
     mget (0 * 8 + 7) s.eg.paused = some 0 ∧ 0 ≤ s.now) ∧
    (let s := { egUp (2 ^ 31 + 2 ^ 25) [] with clk := { sec := 0, ns := 256, frac := 0 } }
     (s.egq 5).any (fun x => x.sampling && decide (x.samp.start + windowLen x ≤ s.devNs)) = true) := by decide +kernel

/-- LaneBringUp: a port in every step, at the limits of every step's condition; a lane that adapts; a port out of time; an up
link with every kind of loss. -/
theorem witness_LaneBringUp :
    (∀ n ∈ [1, 2, 3, 4, 5, 6, 7], ethPort (portAt 1 n false 0) 0 0 = true ∧ ethStep (portAt 1 n false 0) 0 0 = n) ∧
    (let s := portAt 1 8 false 1000000
     ethStep s 0 0 = 8 ∧ linkUp s 0 0 = false ∧ portUnderTest s 0 0 = false ∧ mgetD 0 s.lanes.stepAt (portKey 0 0) + 1000000 ≤ s.now) ∧
    (let s := portAt 1 3 false 5000001
     stepLimit s 0 0 3 = some 5000000 ∧ mgetD 0 s.lanes.stepAt (portKey 0 0) + 5000000 < s.now) ∧
    (let s := portAt 1 7 false 1000001
     stepLimit s 0 0 7 = some 1000000 ∧ mgetD 0 s.lanes.stepAt (portKey 0 0) + 1000000 < s.now) ∧
    (∀ l ∈ [LinkLoss.signal 0, .cdr 0, .block 0, .skew, .localFault], linkUp (portAt 1 8 true 0) 0 0 = true ∧ lossOnPort (portAt 1 8 true 0) 0 0 l = true) ∧
    lossOnPort (portAt (3 + 2 * 16) 8 true 0) 0 0 .fec = true ∧
    (let s := portAt 4 8 true 10000000
     portOfLane s 0 3 = some 0 ∧ linkUp s 0 0 = true ∧ portUnderTest s 0 0 = false ∧ mgetD 0 s.lanes.adaptAt (0 * 8 + 3) + 10000000 ≤ s.now) ∧
    ethPort (portAt 1 8 true 0) 1 4 = true := by decide +kernel

/-- Semaphore 25 held, lane 3 of IOT 0 unused. -/
def laneUp (s : State) : State := holding [25] s

/-- LaneTests: a checker unlocked and locked; a lane free for each test; a running test, one that ends. -/
theorem witness_LaneTests :
    (let s := served.setField (R.SD_PRBS_CTRL 0 4) 30 30 1
     ethPort s 0 4 = true ∧ s.flag (R.SD_PRBS_CTRL 0 4) 30 = true ∧ prbsLocked s 0 4 = false ∧ checkable s 0 4 = true) ∧
    prbsLocked (served.setField (R.SD_PRBS_CTRL 0 4) 28 28 1) 0 4 = true ∧
    (Requester.core 2 0 ≠ .gaffer) ∧
    accepts opLaneTest (msg 1 1 8 0) 0 (laneUp served) (fun u => holdsSem u (msg 1 1 8 0) 25 && !u.parison && ethPort u 0 3 &&
      !testRefused u (msg 1 1 8 0) 0 3 && patternOk u 0 3 6 && patternOk (u.setField (R.SD_CFG 0 3) 2 0 4) 0 3 8) = true ∧
    (let t : LaneTest := { action := 1, until_ := some 0 }
     accepts opLaneTest (msg 1 1 8 0) 0 (laneUp { served with lanes := { served.lanes with tests := [(3, t)] } }) (fun u =>
       holdsSem u (msg 1 1 8 0) 25 && !u.parison && !testRefused u (msg 1 1 8 0) 0 3 && mget 3 u.lanes.tests == some t && decide (0 ≤ u.now)) = true) := by
  decide +kernel

/-- Spur port 0 enabled with more of SPUR_CFG and SPUR_STAT, in step `n`, at `t` ns. -/
def spurUp (cfg stat n t : Nat) : State :=
  { (((modelled corModel).setReg (R.SPUR_CFG 0) (BitVec.ofNat 32 (2 ^ 31 + cfg))).setReg (R.SPUR_STAT 0) (BitVec.ofNat 32 (n * 2 ^ 28 + stat))) with now := t }

/-- SpurPorts: the port in every step; 16 delays; a step out of time; a faster rung in reach; burst mode to enter, a burst due
and one that arrives; listening and waking in STILL. -/
theorem witness_SpurPorts :
    (∀ n ∈ [1, 2, 3, 4, 5, 6, 7, 8], inStep (spurUp 0 0 n 0) 0 n = true) ∧
    (let s := (spurUp 0 0 7 0).modSpur 0 fun x => { x with delays := List.replicate 16 0 }
     inStep s 0 7 = true ∧ 16 ≤ (s.spurPort 0).delays.length) ∧
    (let s := spurUp 0 0 6 10000001
     spurEn s 0 = true ∧ spurLimit (spurStep s 0) = some 10000000 ∧ (s.spurPort 0).stepAt + 10000000 < s.now) ∧
    (let s := spurUp (2 ^ 29) (4 * 2 ^ 16) 8 0
     inStep s 0 8 = true ∧ s.flag (R.SPUR_CFG 0) 29 = true ∧ 3 < spurRung s 0 ∧ maxRung s 0 ≤ 3 ∧ rungSnr 3 + spurMargin s 0 + 30 < min 181 181 ∧
     (s.spurPort 0).upAt = none) ∧
    (let s := { spurUp 0 0 8 0 with clk := { sec := 0, ns := 10000000, frac := 0 } }
     let s := { s with cor := { s.cor with retrained := [(1, 9999999)] } }
     mhas s.cor.insts (instKey 1 5) = true ∧ frameSince s 1 5 [mget 1 s.cor.retrained] = true) ∧
    (0 + 30 ≤ 30 ∧ 29 < 0 + 30) ∧
    (let s := spurUp (2 ^ 30) 0 8 65535000
     inStep s 0 8 = true ∧ s.flag (R.SPUR_CFG 0) 30 = true ∧ s.flag (R.SPUR_STAT 0) 26 = false ∧
     (s.spurPort 0).lastFrame + s.field (R.SPUR_IDLE 0) 15 0 * 1000 ≤ s.now) ∧
    (let s := spurUp (2 ^ 30) (2 ^ 26) 8 10000000
     inStep s 0 8 = true ∧ s.flag (R.SPUR_STAT 0) 26 = true ∧ (s.spurPort 0).burstAt + 10000000 ≤ s.now ∧ (s.spurPort 0).peak = none) ∧
    (let s := spurUp 0 (2 ^ 24) 0 0
     spurEn s 0 = true ∧ s.flag (R.SPUR_STAT 0) 24 = true ∧
     (s.modSpur 0 fun x => { x with listening := true }).flag (R.SPUR_WAKE 0) 29 = false ∧
     ((s.setField (R.SPUR_WAKE 0) 30 29 3).modSpur 0 fun x => { x with listening := true }).flag (R.SPUR_WAKE 0) 29 = true ∧
     ((s.modSpur 0 fun x => { x with listening := true }).spurPort 0).listening = true ∧
     ((s.setField (R.SPUR_WAKE 0) 30 29 3).modSpur 0 fun x => { x with listening := false }).flag (R.SPUR_WAKE 0) 30 = true ∧
     (s.modSpur 0 fun x => { x with listening := false }).flag (R.SPUR_WAKE 0) 30 = false ∧
     0 = (s.modSpur 0 fun x => { x with listening := false }).field (R.SPUR_WAKE 0) 15 0) := by decide +kernel

/-! ### Time, DACs -/

/-- The servo in state `n` with more of TIME_STAT, after 16 measurements of `x`, at `t` ns. -/
def servoUp (n stat : Nat) (x : Int) (t : Nat) : State :=
  let s := (served.setReg R.TIME_STAT (BitVec.ofNat 32 (n * 2 ^ 29 + stat))).modTime fun y => { y with meas := List.replicate 16 x }
  { s with now := t }

/-- TimeServo: 16 measurements in every state, within and beyond the jump limit; a lost reference; a lock 10 s after the step;
a re-acquisition to accept, to step and to end; the ramp, and the steering code. -/
theorem witness_TimeServo :
    16 ≤ (servoUp 0 0 0 0).time.meas.length ∧ (servoState (servoUp 0 0 0 0) = 0 ∧ refOk (servoUp 0 0 0 0) = false) ∧
    (let s := servoUp 3 0 0 0
     let v := s.setField R.TIME_STAT 27 27 1
     servoState s = 3 ∧ refOk s = false ∧ ((servoOffset v).natAbs : Int) ≤ jumpLimit v) ∧
    (let s := servoUp 3 0 (2 ^ 60) 0
     let v := s.setField R.TIME_STAT 27 27 1
     servoState s = 3 ∧ refOk s = false ∧ jumpLimit v < ((servoOffset v).natAbs : Int)) ∧
    (let x : Reacq := { maxStep := 1, until_ := 5, mbx := 1, from_ := 3, done := true, taken := List.replicate 16 0 }
     let s := (servoUp 1 0 0 5).modTime fun t => { t with reacq := some x }
     servoState s = 1 ∧ s.time.reacq = some x ∧ x.until_ ≤ s.now ∧ 16 ≤ x.taken.length ∧ 16 ≤ s.time.meas.length) ∧
    (let s := servoUp 2 (2 ^ 25) 0 3000000000
     s.field R.TIME_STAT 26 25 ≠ 0 ∧ s.time.lastMeas + 3000000000 ≤ s.now) ∧
    (let s := (servoUp 1 (2 ^ 28) 0 10000000000).modTime fun t => { t with lockSince := some 0 }
     s.time.lockSince = some 0 ∧ servoState s = 1 ∧ stepDone s = true ∧ 0 + 10000000000 ≤ s.now) ∧
    (servoState (servoUp 1 0 0 0) = 1 ∧ (servoUp 1 0 0 0).time.meas ≠ [] ∧ (servoUp 1 0 0 0).time.reacq = none) ∧
    accepts opTimeReacquire (msg 1 1 24 1) 1 (holding [24] (servoUp 3 0 0 0)) (fun u => holdsSem u (msg 1 1 24 1) 24 &&
      servoState u != 0 && u.time.reacq.isNone) = true ∧
    ((BitVec.ofNat 64 (2 ^ 62)).toNat ≠ 0 ∧ (BitVec.ofNat 64 (2 ^ 62)).toNat ≤ 2 ^ 62 ∧ 600 ≤ 600) ∧
    accepts opTimeRead (msg 1 1 0 0) 0 served = true ∧
    (let s := (servoUp 3 0 0 1000000000).setField R.TIME_HO_CFG 31 30 3
     s.flag R.TIME_HO_CFG 31 = true ∧ s.flag R.TIME_HO_CFG 30 = true ∧ servoState s = 3 ∧ s.time.rampAt + 1000000000 ≤ s.now) ∧
    ((servoUp 2 0 0 0).setField R.TIME_HO_CFG 31 31 1).flag R.TIME_HO_CFG 31 = true ∧
    tilePresent served.part 2 = true ∧ tileRun served 2 = true := by decide +kernel

/-- A profile in domain 24, and port 0 of IOT 0 enabled in a role and a state. -/
def ptpUp (role st : Nat) : State :=
  (((served.setReg (R.PTP_CFG 0 0) (BitVec.ofNat 32 (2 ^ 31 + role * 2 ^ 28))).setReg (R.PTP_STAT 0 0)
    (BitVec.ofNat 32 (st * 2 ^ 28 + 2 ^ 27))).modTime fun t => { t with profile := 1 })

/-- PtpAndTimeEvents: a port without a profile, a slave and a master; SyncE with a source and without; a wait that has passed; a
PPS edge and its loss; time events that are due. -/
theorem witness_PtpAndTimeEvents :
    (ptpPort served 1 4 = true ∧ (served.count (R.PTP_CNT_RX 1 4) 1).time.profile = 0) ∧
    (let s := ptpUp 2 9
     let v := s.count (R.PTP_CNT_RX 0 0) 1
     v.time.profile ≠ 0 ∧ 24 = v.time.domain ∧ ptpRole v 0 0 ≠ 0 ∧ ptpState v 0 0 = 9) ∧
    (let s := ptpUp 1 6
     ptpState (s.count (R.PTP_CNT_RX 0 0) 1) 0 0 = 6 ∧ ptpRole (s.count (R.PTP_CNT_RX 0 0) 1) 0 0 ≠ 0 ∧ ptpPort s 0 0 = true ∧
     (let w := masterOnly s 0 0
      ptpState w 0 0 = 6 ∧ w.flag (R.PTP_STAT 0 0) 27 = true ∧ w.time.profile ≠ 0)) ∧
    (let x : PtpPort := { t1 := 0, corr := 0, t2 := 0, twoStep := true }
     let v := setPtp ((ptpUp 2 9).count (R.PTP_CNT_RX 0 0) 1) 0 0 x
     mget (0 * 8 + 0) v.time.ptp = some x ∧ x.twoStep = true ∧ ptpState v 0 0 = 9) ∧
    (let v := ((ptpUp 1 6).modTime fun t => { t with profile := 2, grants := [(0, 5, 9)] }).count (R.PTP_CNT_RX 0 0) 1
     v.time.profile = 2 ∧ ptpState v 0 0 = 6 ∧ 24 = v.time.domain ∧ ptpRole v 0 0 ≠ 0 ∧
     ((liveGrants v).filter fun g => (g.1, g.2.1) != (0 * 8 + 0, 6)).length < 64) ∧
    (let s := (portAt 1 8 true 0).modTime fun t => { t with syncePrio := [(0, 8)] }
     let s := s.setField R.TIME_SYNCE 31 31 1
     s.flag R.TIME_SYNCE 31 = true ∧ leastBy (fun x => (x.2, mgetD 0 s.time.syncePrio x.1, x.1)) ([(0, 2), (1, 1)].filter (synceOk s)) = some (0, 2) ∧
     leastBy (fun x => (x.2, mgetD 0 s.time.syncePrio x.1, x.1)) ([(0, 15)].filter (synceOk s)) = none) ∧
    mget (0 * 8 + 3) (served.modTime fun t => { t with wtr := [(3, 0)] }).time.wtr = some 0 ∧
    (let s := served.setReg R.TIME_PPS_CFG 0x60000000#32
     s.flag R.TIME_PPS_CFG 30 = true ∧ s.flag R.TIME_PPS_CFG 29 = true ∧ s.time.gm = none ∧
     (s.modTime fun t => { t with gm := some 7 }).time.gm = some 7 ∧
     ((25600 : Int) - ((s.field R.TIME_PPS_CFG 15 0 * 64 : Nat) : Int)).natAbs ≤ 25600 ∧
     25600 < ((-25601 : Int) - ((s.field R.TIME_PPS_CFG 15 0 * 64 : Nat) : Int)).natAbs) ∧
    (let s := (servoUp 2 (2 * 2 ^ 25) 0 2000000000).modTime fun t => { t with gm := some 0 }
     s.time.gm.isSome = true ∧ s.time.ppsAt + 2000000000 ≤ s.now ∧ s.field R.TIME_STAT 26 25 = 2) ∧
    (let s := served.setReg (R.TIME_TEV_CFG 0) 0x90000007#32
     s.flag (R.TIME_TEV_CFG 0) 31 = true ∧ s.field (R.TIME_TEV_CFG 0) 30 28 = 1 ∧ mgetD 0 s.time.tevNext 0 = 0 ∧
     (s.reg64 (R.TIME_TEV_SEC 0)).toNat * 1000000000 + s.field (R.TIME_TEV_NS 0) 29 0 + 0 * (s.reg (R.TIME_TEV_PERIOD 0)).toNat ≤ s.devNs) ∧
    (∀ a ∈ [0, 1, 2, 3], let s := served.setReg (R.TIME_TEV_CFG 3) (BitVec.ofNat 32 (2 ^ 31 + a * 2 ^ 28))
     s.flag (R.TIME_TEV_CFG 3) 31 = true ∧ mgetD 0 s.time.tevNext 3 = 0 ∧
     (s.reg64 (R.TIME_TEV_SEC 3)).toNat * 1000000000 + s.field (R.TIME_TEV_NS 3) 29 0 + 0 * (s.reg (R.TIME_TEV_PERIOD 3)).toNat ≤ s.devNs ∧
     (let w := (s.setField (R.TIME_TEV_CFG 3) 27 27 1).modTime fun t => { t with tevNext := mset 3 1 t.tevNext }
      w.field (R.TIME_TEV_CFG 3) 30 28 = a)) := by decide +kernel

/-- The steering channel is channel 7 of group 0. -/
def steered : State := served.setReg R.TIME_HO_CFG 0x87000000#32

/-- AuxiliaryDacs: a free channel and the steering channel, the load pin off and on for group 1, an enabled channel. -/
theorem witness_AuxiliaryDacs :
    (dacMayWrite steered (.core 2 0) 6 = true ∧ dacMayWrite steered .gaffer 7 = true) ∧
    (dacLock steered 7 = true ∧ Requester.core 2 0 ≠ .gaffer) ∧
    ((served.setReg R.DAC_GRP_CFG 0#32).flag R.DAC_GRP_CFG 0 = false ∧ (served.setReg R.DAC_GRP_CFG 0#32).flag R.DAC_GRP_CFG 4 = false) ∧
    ((steered.setReg R.DAC_GRP_CFG 0x10#32).flag R.DAC_GRP_CFG 4 = true ∧ groupLocked (steered.setReg R.DAC_GRP_CFG 0x10#32) 1 = false ∧
     groupLocked (steered.setReg R.DAC_GRP_CFG 0x10#32) 0 = true) ∧
    ((served.setReg (R.DAC_CFG 7) 0xC0000000#32).flag (R.DAC_CFG 7) 31 = true ∧ (served.setReg (R.DAC_CFG 7) 0xC0000000#32).flag (R.DAC_CFG 7) 30 = true) := by
  decide +kernel

/-! ### Fabrics -/

/-- A queue controller of one block from `first`, both sides on wire 0. -/
def aQc (first : Nat) (wide : Bool) (mode qid : Nat) : QcCfg :=
  { first := first, blocks := 1, wide := wide, mode := mode, qid := qid, wclk := 0, rclk := 0, af := 1, ae := 1 }

/-- A design of fabric 0, with no user logic: coupler 0 writes and reads, coupler 1 pushes to queue 5, block 0 is a user RAM without ECC. -/
def aDesign : FabImage :=
  { signer := some 3, hash := List.replicate 32 5#8, fab := 0, forPart := true, staticOk := true,
    qcs := [(0, aQc 1 true 1 0), (1, aQc 2 true 2 5)],
    brams := [(0, { user := true, width := 72, ecc := false }), (1, { user := false, width := 72, ecc := false }),
              (2, { user := false, width := 64, ecc := false })],
    p0 := { target := true, cls := 0 }, p1 := { target := false, cls := 0 },
    net := { cells := [], wires := [], drivers := [], gens := [], pinOut := [] } }

/-- A load of fabric 0 from a slot, or an unload, begun at 0. -/
def fabJob (slot : Option Nat) (img : Option FabImage) : FabJob :=
  { mbx := 1, slot := slot, drainMs := 1, image := img, before := 0, at_ := 0, lost := 0 }

/-- Fabric 0 in RUN with FAB_STATE.STATE `n`, changed by `f`, at `t` ns, with semaphore 28 held, VALID image slots and key 3. -/
def fabUp (n t : Nat) (f : Fab → Fab) : State :=
  let s := setFabSt { holding [28] served with islands := mset 40 Island.run served.islands } 0 n
  let s := s.modFab 0 fun x => f { x with design := some aDesign }
  { s with now := t, boot := { s.boot with keys := [(2 * 8 + 3, { st := .enrolled, pubkey := [] })] },
           stor := { s.stor with slots := [(63, { st := 2, total := 0, written := 0, data := [], blocks := [] })] } }

/-- FabricLoading: an accepted load, unload and re-arming; a job in every state, with a key that verifies and with none; two
drivers of a line. -/
theorem witness_FabricLoading :
    accepts opFabLoad (msg 1 1 8 0) 0 (fabUp 0 0 id) (fun u =>
      (fabCheck (msg 1 1 8 0) 0 1000 true (holdMbx u (msg 1 1 8 0) 0x0901 [])).isNone && (fabCheck (msg 1 1 8 0) 0 0 true u).isNone &&
      (mgetD { st := 0, total := 0, written := 0, data := [], blocks := [] } u.stor.slots 63).st == 2) = true ∧
    accepts { opcode := 0x0902, onchip := true } (msg 1 1 8 0) 0 (fabUp 0 0 id) (fun u => !u.parison && fabPresent u 3) = true ∧
    (let j := fabJob (some 63) none
     let s := fabUp 1 0 fun x => { x with job := some j }
     (s.fabOf 0).job = some j ∧ fabSt s 0 = 1 ∧ j.slot.isSome = true ∧ ((none : Option Nat).map (fabKeyOk s)).getD false = false ∧
     aDesign.signer = some 3 ∧ fabKeyOk s 3 = true ∧ fabStatic aDesign = true) ∧
    (∀ slot ∈ [none, some 63],
      let j := fabJob slot (some aDesign)
      let s := fabUp 2 1000000 fun x => { x with job := some j }
      (s.fabOf 0).job = some j ∧ fabSt s 0 = 2 ∧ j.at_ + j.drainMs * 1000000 ≤ s.now) ∧
    (let j := fabJob (some 63) (some aDesign)
     let s := fabUp 3 3145728 fun x => { x with job := some j }
     (s.fabOf 0).job = some j ∧ j.image = some aDesign ∧ fabSt s 0 = 3 ∧ j.at_ + 3145728 ≤ s.now) ∧
    (let s := fabUp 4 0 id
     (fabUser s 0).isSome = true ∧ (List.range 128).filter ([127, 5].contains ·) = [5, 127] ∧ (s.fabOf 0).off.contains 1151 = false) := by
  decide +kernel

/-- FabricPorts: a coupler with room, full and empty; one that pushes; a target window, a request that waits and one out of
time; an initiator; a block RAM. -/
theorem witness_FabricPorts :
    (let s := fabUp 4 0 fun x => { x with fifos := [(0, [1#72])] }
     (qcOf s 0 0).any (fun c => c.mode == 1 && c.wide && decide ((qcWords s 0 0).length < qcDepth c)) = true ∧ qcWords s 0 0 = [1#72] ∧
     (qcFlags s 0 0).full = false ∧ qcWords (fabUp 4 0 id) 0 0 = [] ∧
     (qcFlags (s.modFab 0 fun x => { x with flags := [(0, { QcFlags.init with empty := false })] }) 0 0).empty = false) ∧
    (let s := fabUp 4 0 fun x => { x with fifos := [(0, List.replicate 512 1#72)] }
     (qcOf s 0 0).any (fun c => decide (qcDepth c ≤ (qcWords s 0 0).length)) = true) ∧
    (let s := (fabUp 4 0 fun x => { x with fifos := [(1, List.replicate 4 1#72)] }).setField (R.FAB_QC_STAT 0 1) 29 29 1
     let s := queueUp 3 true [] s
     (qcOf s 0 1).any (fun c => c.mode == 2 && decide ((qcWords s 0 1).length < qcDepth c)) = true ∧ 4 ≤ (qcWords s 0 1).length ∧
     s.flag (R.FAB_QC_STAT 0 1) 29 = true ∧
     (pushQ (.fab 0 1) 5 (((qcWords s 0 1).take 4).flatMap fun w => leBytes 8 w.toNat) s).1 = .accepted) ∧
    (qcOf (fabUp 4 0 id) 0 1).any (fun c => c.mode == 2) = true ∧
    mhas ((fabUp 4 0 fun x => { x with popAt := [(3, 0)] }).fabOf 0).popAt 3 = true ∧
    (let s := fabUp 4 0 id
     placeOf s.part 0x040000000000 = .fabw 0 ∧ answers s .gaffer (fabTile 0) = true ∧ fabTargetOn s 0 0x040000000000 = true ∧
     oneBlock 0x040000000000 512 = true) ∧
    (let t : FabTgt := { id := 0, by_ := .gaffer, addr := 0x040000000000, write := false, n := 8, at_ := 0 }
     let s := fabUp 4 65535000 fun x => { x with targets := [t] }
     (s.fabOf 0).targets.find? (fun t => t.id == 0) = some t ∧ t.at_ + tgtLimit s 0 ≤ s.now) ∧
    (let s := fabUp 4 0 id
     (fabUser s 0).isSome = true ∧ fabSt s 0 ≠ 2 ∧ oneBlock 0x010020000000 64 = true ∧ isOk (busRead (.fab 0) 0x010020000000 64 s) = true) ∧
    (let s := fabUp 4 0 id
     let op : PortOp := { word := 511, write := some 9#72 }
     fabUser s 0 = some aDesign ∧ mget 0 aDesign.brams = some { user := true, width := 72, ecc := false } ∧ bramIn 72 (some op) = true ∧
     bramIn 72 none = true ∧ bramBoth (some op) none = false) := by decide +kernel

/-! ### Power -/

/-- Semaphore 25 held, changed by `f`, at `t` ns. -/
def powerUp (st : Nat) (f : Power → Power) (t : Nat) : State :=
  let s := (holding [25] served).setField R.PWR_STAT 31 29 st
  ({ s with now := t, clk := { sec := t / 1000000000, ns := t % 1000000000, frac := 0 } }).modPower f

/-- Island `i` in state `st`, changed by `f`. -/
def islIn (i : Nat) (st : IslSt) (f : Island → Island) (s : State) : State :=
  { s with islands := mset i (f { Island.run with st := st }) s.islands }

/-- PowerStates: every command that passes its checks, at the ends of its ranges; a drained island; a busy tile out of time; an
idle tile; a tile due for its scrub; a tile to start; phase B due; an island in every wake step. -/
theorem witness_PowerStates :
    (∀ us ∈ [0, 10, 10000], ∀ re ∈ [0, 10, 60000], powerArgs 0 us re = true ∧ powerArgs 2 us re = true) ∧
    accepts opPower (msg 1 1 8 0) 0 (powerUp 1 id 0) (fun u => (powerCheck (msg 1 1 8 0) true false (holdMbx u (msg 1 1 8 0) 0x0501 [])).isNone &&
      (powerCheck (msg 1 1 8 0) true true (holdMbx u (msg 1 1 8 0) 0x0501 [])).isNone && (rekeep (holdMbx u (msg 1 1 8 0) 0x0501 []) 10).devState == 1 &&
      !u.parison && pmbArgs 15 127 2 0 1000 && !u.nvmPaused) = true ∧
    accepts opPower (msg 1 1 8 0) 0 (powerUp 2 id 0) (fun u => (powerCheck (msg 1 1 8 0) true false (holdMbx u (msg 1 1 8 0) 0x0501 [])).isNone &&
      (rekeep (holdMbx u (msg 1 1 8 0) 0x0501 []) 10).devState != 1) = true ∧
    (let s := islIn 2 .draining id (powerUp 2 id 0)
     (s.island 2).st = .draining ∧ owing s 2 = false) ∧
    (let x : Trans := { newTrans (msg 1 1 8 0) 3 2 10 with todo := [2], askedAt := some 0, askedUnit := 0x10 }
     let s := ({ powerUp 1 (fun p => { p with trans := some x }) 10000 with cores := (coreUp id).cores })
     s.power.trans = some x ∧ x.target = 3 ∧ x.back = none ∧ x.askedAt = some 0 ∧ x.todo = [2] ∧ busyParts s 2 = [(0x10, 1)] ∧ 0x10 = x.askedUnit ∧ 0 + x.settle ≤ s.now) ∧
    (let s := powerUp 2 id 65535000
     s.devState = 2 ∧ s.power.trans = none ∧ s.nvmPaused = false ∧ isWorkTile s 2 = true ∧ (s.island 2).st = .run ∧ busyParts s 2 = [] ∧
     (s.island 2).forScrub = false ∧ (s.island 2).idleSince + s.field R.PWR_CTRL 15 0 * 1000 ≤ s.now) ∧
    (let s := islIn 2 .keep id (powerUp 2 id 600000000000)
     tileSleeps s 2 = true ∧ (s.island 2).step = 0 ∧ (s.island 2).failed = false ∧ 600 ≤ scrubAge s 2) ∧
    (let s := { powerUp 1 id 0 with boot := { served.boot with tilesToStart := [2, 3] } }
     s.power.nextStart ≤ s.now ∧ s.nvmPaused = false ∧ s.power.trans = none ∧ s.boot.tilesToStart = [2, 3]) ∧
    (let s := powerUp 3 (fun p => { p with commitAt := some 0 }) 1000000
     s.power.commitAt = some 0 ∧ s.power.still = false ∧ 0 + 1000000 ≤ s.now) ∧
    (∀ n ∈ [1, 2, 3, 4], ∀ i ∈ [2, 144], awaits (islIn i .keep (fun x => { x with step := n }) (powerUp 2 id 0)) i n = true) ∧
    (signal (islIn 2 .keep (fun x => { x with step := 4 }) (powerUp 2 id 0)) 2 4).power.waking.contains 2 = false ∧
    (let s := islIn 2 .keep (fun x => { x with step := 4 }) (powerUp 2 id 40000)
     (s.island 2).step ≠ 0 ∧ awaits s 2 (s.island 2).step = true ∧ (s.island 2).tries = 0 ∧ s.power.waking.contains 2 = false ∧
     (s.island 2).stepAt + 2 * wakeLimit (s.power.waking.contains 2) ((s.island 2).st == .halt) (s.island 2).step ≤ s.now) ∧
    (∀ i ∈ [2, ctlG, ctlH, 144],
     let s := islIn i .keep (fun x => { x with step := 4, tries := 1 }) (powerUp 2 id 40000)
     (s.island i).step ≠ 0 ∧ awaits s i (s.island i).step = true ∧ (s.island i).tries ≠ 0 ∧ s.power.waking.contains i = false ∧
     (s.island i).stepAt + 2 * wakeLimit (s.power.waking.contains i) ((s.island i).st == .halt) (s.island i).step ≤ s.now) := by decide +kernel

/-- A symbol of the wake bus: a gap and a low time. -/
def zeroBit : Nat × Nat := (1000, 2500)

/-- Supply droop since 0. -/
def droop (t : Nat) : State := (powerUp 1 id t).setField R.PWR_STAT 27 27 1

/-- PowerSupplyAndWake: an alarm to set, due in and out of STILL; every wake source; a droop that begins, lasts 100 ms and
ends; a reset; hot tiles; a latch; converters present and absent; a trim with and without a step. -/
theorem witness_PowerSupplyAndWake :
    accepts { opcode := 0x0504 } (msg 1 1 24 0) 0 (powerUp 1 id 0) (fun u => holdsSem u (msg 1 1 24 0) 25 &&
      decide (u.clk.total + 1000000000 * 2 ^ 48 ≤ (1 * 1000000000 + 0) * 2 ^ 48)) = true ∧
    (let s := (powerUp 3 id 0).setReg R.WAKE_ALARM_NS 0x80000000#32
     let s := s.setReg R.WAKE_EN 0xFFFFFFFF#32
     s.flag R.WAKE_ALARM_NS 31 = true ∧ (s.reg64 R.WAKE_ALARM_SEC).toNat * 1000000000 + s.field R.WAKE_ALARM_NS 29 0 ≤ s.devNs ∧
     inStill (s.setField R.WAKE_ALARM_NS 31 31 0) = true ∧ (s.setField R.WAKE_ALARM_NS 31 31 0).flag R.WAKE_EN 0 = true) ∧
    (let s := (powerUp 1 id 0).setReg R.WAKE_ALARM_NS 0x80000000#32
     s.flag R.WAKE_ALARM_NS 31 = true ∧ inStill (s.setField R.WAKE_ALARM_NS 31 31 0) = false) ∧
    (let s := ((powerUp 3 id 0).setReg R.WAKE_EN 0xFFFFFFFF#32).setReg R.WAKE_MGT 0xFFFFFFFF#32
     inStill s = true ∧ s.flag R.WAKE_EN 2 = true ∧ s.flag R.WAKE_EN 3 = true ∧ s.flag R.WAKE_MGT 31 = true ∧ s.flag R.WAKE_MGT 30 = true ∧
     s.flag R.WAKE_MGT 29 = true ∧ s.flag R.WAKE_MGT 28 = true ∧ s.flag R.WAKE_MGT 27 = true ∧ 0xFFFF = s.field R.WAKE_MGT 15 0) ∧
    (let s := (powerUp 3 id 0).setReg R.WAKE_EN 0xFFFFFFFF#32
     busAddress 8000 (List.replicate 11 zeroBit) 20000 = some (s.field R.WAKE_BUS 9 0) ∧ s.part = .fa960 ∧ s.flag R.WAKE_EN 1 = true) ∧
    ((droop 0).nvmPaused = true ∧ ((powerUp 1 id 0).setReg R.PWR_VIN 1709#32).nvmPaused = false) ∧
    ((droop 100000000).flag R.PWR_STAT 26 = false ∧ (droop 100000000).power.droopAt + 100000000 ≤ (droop 100000000).now) ∧
    (powerUp 1 id 0).pins.thermTrip = false ∧ islandPresent (powerUp 1 id 0) 150 = true ∧
    (let s := powerUp 1 id 1000000
     let v := noteTemp s 2 960
     tilePresent s.part 2 = true ∧ (s.island 2).st ≠ .off ∧ mget 2 v.power.mult = none ∧ tjThrot v * 8 ≤ 960 ∧
     (0 : Int) < (tjThrot (noteTemp s 2 0) * 8 : Nat) ∧ tileRun s 2 = true ∧ (s.setField (R.ISL_CTRL 2) 31 31 1).flag (R.ISL_CTRL 2) 31 = true ∧
     mgetD 0 s.power.avsAt 2 + 1000000 ≤ s.now) ∧
    ((islIn 2 .keep id (powerUp 1 id 0)).island 2).st = .keep ∧
    (let s := powerUp 1 (fun p => { p with pmb := [(15, { nom := 900, set := 900, nacks := 0, vout := 0, iout := 0, temp := 0, polledAt := 0 })] }) 0
     pmbOn s 15 = true ∧ pmbAbsent s 15 = false ∧ pmbAbsent (s.setField (R.PWR_PMB_STAT 15) 31 31 1) 15 = true) ∧
    (let s := powerUp 1 id 10000000
     s.nvmPaused = false ∧ inStill s = false ∧ s.power.trimAt + 10000000 ≤ s.now) ∧
    ((1800 - ((1790 : Nat) : Int)).natAbs ≤ 10 ∧ 10 < (1800 - ((1789 : Nat) : Int)).natAbs) ∧
    accepts { opcode := 0x0502, onchip := true } (msg 1 1 0 0) 0 (powerUp 1 id 0) = true := by decide +kernel

/-! ### Boot, storage, trust -/

/-- A block of NAND in use `u`, erased `n` times. -/
def nandBlock (u : BlockUse) (n : Nat) : NandBlock := { target := 0, use := u, erases := n, softHits := 0, patrolAt := 0 }

/-- Storage with blocks, at `t` ns. -/
def nandUp (l : List (Nat × NandBlock)) (t : Nat) : State :=
  let s := lehrUp t
  { s with stor := { s.stor with blocks := l } }

/-- BootAndStorage: a device at reset; a stack in training; PARISON service at 300 s; an image chunk and reads to accept; no
blocks to level, a worn block to move, a block due for its patrol; every other duty due. -/
theorem witness_BootAndStorage :
    (State.reset.pins.thermTrip = false ∧ State.reset.boot.stage = 0 ∧ State.reset.boot.recovery = false) ∧
    (let s := { served with boot := { served.boot with phase := 1 } }
     s.boot.phase = 1 ∧ (hbmStacks s).contains 3 = true ∧ s.boot.hbmUp.contains 3 = false ∧ mgetD 0 s.boot.hbmTries 3 = 0) ∧
    (let s := { served with boot := { served.boot with stage := 7 }, now := 300000000000 }
     s.boot.stage = 7 ∧ 300000000000 ≤ s.now) ∧
    accepts { opcode := 0x0602 } (msg 1 1 64 0) 0 (holding [26] served) (fun u => !u.boot.recovery && holdsSem u (msg 1 1 64 0) 26) = true ∧
    accepts { opcode := 0x0601, onchip := true } (msg 1 1 16 0) 0 served = true ∧
    accepts { opcode := 0x0801, onchip := true } (msg 1 1 16 0) 0 served = true ∧
    (let s := nandUp [] 3600000000000
     lehrRuns s = true ∧ s.nvmPaused = false ∧ mgetD 0 s.stor.dutyAt 11 + 3600000000000 ≤ s.now ∧ s.stor.blocks = []) ∧
    (let s := nandUp [(0, nandBlock .journal 0), (1, nandBlock .free 501), (2, nandBlock .spare 0)] 3600000000000
     leastBy (fun x => (x.2.erases, x.1, 0)) (s.stor.blocks.filter fun x => x.2.use != .retired) = some (0, nandBlock .journal 0) ∧
     leastBy (fun x => (2 ^ 40 - x.2.erases, x.1, 0)) ((blocksOf (dutyDone 11 s) .free).filter
       fun x => !targetRo (dutyDone 11 s) x.2.target) = some (1, nandBlock .free 501) ∧
     ((s.stor.blocks.filter fun x => x.2.use != .retired).map fun x => x.2.erases).foldl max 0 = 501 ∧
     (nandBlock .journal 0).erases + 500 < 501 ∧ holdsData (nandBlock .journal 0) = true) ∧
    (let s := nandUp [(9, nandBlock .image 0)] 604800000000000
     mget 9 s.stor.blocks = some (nandBlock .image 0) ∧ lehrRuns s = true ∧ (nandBlock .image 0).patrolAt + 7 * 86400 * 1000000000 ≤ s.now) ∧
    (let s := lehrUp 86400000000000
     mgetD 0 s.stor.dutyAt 1 + 1000000 ≤ s.now ∧ mgetD 0 s.stor.dutyAt (100 + 7) + 60000000000 ≤ s.now ∧
     mgetD 0 s.stor.dutyAt 7 + 86400 * 1000000000 ≤ s.now) := by decide +kernel

/-- An image for core 0 of tile 2, signed by DSP key 7. -/
def anImage : DspImage :=
  { signer := some 7, version := 1, versionOk := true, hash := List.replicate 32 3#8, segments := [(0x010020000000, List.replicate 16 0#8)],
    cores := [8], tmode := false, evec := 0#64, mpu := [], startTask := entry [] }

/-- The device with DSP key 7, an image in slot 0 and one loaded as handle 15. -/
def trustUp : State :=
  let s := holding [27, 29] served
  { s with
    boot := { s.boot with keys := [(15, { st := .enrolled, pubkey := [] })],
                          images := [(15, { slot := 1, version := 1, hash := [], cores := [8], startTask := entry [] })] },
    stor := { s.stor with slots := [(0, { st := 2, total := 0, written := 0, data := [], blocks := [] })] } }

/-- TrustCommands: a VALID slot with an authentic image; a loaded one with a queue; empty key slots; every level; a core that
runs at debug level 0. -/
theorem witness_TrustCommands :
    accepts { opcode := 0x0B01 } (msg 1 1 8 0) 0 trustUp (fun u => holdsSem u (msg 1 1 8 0) 29 && !u.parison && (u.slot 0).st == 2 &&
      !(anImage.cores.any fun c => coreBusy u (c / 4) (c % 4)) && imageAuth u anImage && imageShape u 0 anImage && imageAwake u anImage &&
      imageHandle u anImage == some 0) = true ∧
    (let x : Loaded := { slot := 1, version := 1, hash := [], cores := [8], startTask := entry [] }
     accepts { opcode := 0x0B02 } (msg 1 1 8 0) 0 (queueUp 0 true [] trustUp) (fun u => holdsSem u (msg 1 1 8 0) 29 && mget 15 u.boot.images == some x &&
       !u.parison && startQueueOk u 5 x && (pushQ .gaffer 5 x.startTask u).1 == .accepted) = true) ∧
    accepts { opcode := 0x0B03 } (msg 1 1 8 0) 0 trustUp = true ∧
    accepts { opcode := 0x0B04 } (msg 1 1 8 0) 0 trustUp = true ∧
    accepts { opcode := 0x0701, onchip := true } (msg 1 1 40 0) 0 trustUp = true ∧
    (∀ o ∈ [0x0702, 0x0703, 0x0704], accepts { opcode := o } (msg 1 1 8 0) 0 trustUp (fun u => holdsSem u (msg 1 1 8 0) 27 &&
      keyState u 1 0 == .empty && keyState u 2 6 == .empty && keyState u 0 7 == .empty && !revokeKept (msg 1 1 8 0) 7 u && !u.boot.sealed) = true) ∧
    (let s := coreUp id
     s.boot.debugNow = 0 ∧ corePresent s 2 0 = true ∧ tileRun s 2 = true ∧ coreBusy s 2 0 = true ∧ (s.core 2 0).rep = none ∧
     (s.core 2 0).ext = none) := by decide +kernel

/-! ### The whole device -/

/-- The invariant holds at reset, where a step is one tick. -/
theorem witness_EveryStepKeepsTheInvariant : ∃ s t, Inv s ∧ Machine.step s = .next t := by
  refine ⟨State.reset, tick State.reset, ⟨by decide, ?_, by decide, by decide⟩, rfl⟩
  unfold EventsKept
  decide

/-- StepTakesFront: an empty queue, with no packet on its way and no fabric running. -/
theorem witness_StepTakesFront :
    State.reset.pending = [] ∧ State.reset.noc.flight = [] ∧ ∀ f < 4, fabUser (tickClock State.reset) f = none := by decide +kernel

/-- A tick passes 2 ns (R429). -/
theorem test_tick : (tick State.reset).clk = { sec := 0, ns := 2, frac := 0 } ∧ (tick State.reset).now = 2 := by decide +kernel

/-- CoreInstructionFrame: an arithmetic instruction and a load have outcomes. -/
theorem witness_CoreInstructionFrame :
    (inCore (.bCond { k0 with shadow := [] } 0 0) = some { k0 with shadow := [] } ∧ inCore (.neg k0 0 0 false) = some k0 ∧ ∃ t, exec (.neg k0 0 0 false) (coreUp id) = .next t) ∧
    (loadOf (.ret k0) = none ∧ loadOf (.vld k0 0 { mode := .offset, an := 0, mm := 0, off := 0 }) = some k0) :=
  ⟨⟨rfl, rfl, _, rfl⟩, rfl, rfl⟩

/-- StoreFrame: a store into own SRAM that passes its checks, one that leaves it, a scatter in own SRAM, and a posted store. -/
theorem witness_StoreFrame :
    let a : MAddr := { mode := .offset, an := 0, mm := 0, off := 0 }
    let s := coreUp fun x => { x with a := [(0, 0x010020000040#64)] }
    let x := (afterFetch s).core 2 0
    issues s = true ∧ (mAddr x a 64).map Prod.fst = some 0x010020000040 ∧
    isOk (accessCheck x .write true 0x010020000040 64, s) = true ∧ ownSram (afterFetch s) 2 0x010020000040 = true ∧
    ownStoreErr (afterFetch s) 2 0 0x010020000040 = none ∧ Memory.wf s.mem.cells = true ∧
    ownSram (afterFetch s) 2 0x010030000000 = false ∧
    (∀ p ∈ scatterStores (vecAddrs x 0 0 1) (lanes 32 (x.vr 0)), ownSram (afterFetch s) 2 p.addr = true) ∧
    (let p : PostedStore := { addr := 0x10000, bytes := [1#8], sideEffect := false, waited := false, element := none }
     let s := coreUp fun x => { x with stores := [p] }
     (s.core 2 0).stores[0]? = some p ∧ placeOf s.part p.addr = .hbm 0 ∧
     (∃ t, execPostedStoreAck 2 0 0 s = .next t)) := by
  refine ⟨?_, ?_, ?_, ?_, ?_, ?_, ?_, ?_, ?_, ?_, _, rfl⟩ <;> decide +kernel

/-! ### Ill-formed commands are refused, one for each check -/

theorem test_requester_of_absent_tile : wellFormed .fb240 (.rcRead (.core 143 0) 0) = false := by decide +kernel
theorem test_requester_channel : wellFormed .fa960 (.rcRead (.dma 2 16) 0) = false := by decide +kernel
theorem test_address_past_48_bits : wellFormed .fa960 (.cpPairTimeout (2 ^ 48)) = false := by decide +kernel
theorem test_register_width : wellFormed .fa960 (.registerWrite .gaffer 0 3 0#64) = false := by decide +kernel
theorem test_message_field : wellFormed .fa960 (.devInfo { msg 1 1 0 0 with mbx := 256 }) = false := by decide +kernel
theorem test_number_past_its_field : wellFormed .fa960 (.settingEffect 256 0 0) = false := by decide +kernel
theorem test_too_many_settings :
    wellFormed .fa960 (.ruSet (msg 1 1 8 1) ruBody (List.replicate 64 (.ru ruBody))) = false := by decide +kernel
theorem test_value_too_long : wellFormed .fa960 (.netConfigSetWake (msg 1 1 8 0) (List.replicate 25 0#8) []) = false := by
  decide +kernel
theorem test_hash_length : wellFormed .fa960 (.runDelta (msg 1 1 8 0) 0 (List.replicate 31 0#8)) = false := by decide +kernel
theorem test_absent_iot : wellFormed .fb240 (.transmitStart 2 0) = false := by decide +kernel
theorem test_port_number : wellFormed .fa960 (.transmitStart 0 5) = false := by decide +kernel
theorem test_qid : wellFormed .fa960 (.heldPushAccept 65536) = false := by decide +kernel
theorem test_absent_tile : wellFormed .fb240 (.scrubWake 143) = false := by decide +kernel
theorem test_core_number : wellFormed .fa960 (.coreTimer 2 4) = false := by decide +kernel
theorem test_absent_dispatcher : wellFormed .fb240 (.dispatch 1) = false := by decide +kernel
theorem test_issue_on_other_tile : wellFormed .fa960 (.nop { k0 with tile := 15 }) = false := by decide +kernel
theorem test_memory_operand_offset :
    wellFormed .fa960 (.vld k0 0 { mode := .offset, an := 0, mm := 0, off := 256 }) = false := by decide +kernel
theorem test_memory_operand_register :
    wellFormed .fa960 (.vst k0 0 { mode := .offset, an := 8, mm := 0, off := 0 }) = false := by decide +kernel
theorem test_rep_count : wellFormed .fa960 (.rep k0 (.imm 4097)) = false := by decide +kernel
theorem test_job_tag : wellFormed .fa960 (.accWatchdog 15 (.cq 2 0 64)) = false := by decide +kernel
theorem test_producer : wellFormed .fa960 (.queuePush (.core 2 0 64) 5 (entry [])) = false := by decide +kernel
theorem test_scrubbed_memory : wellFormed .fb240 (.scrubPass (.hbm 1)) = false := by decide +kernel
theorem test_lane_number : wellFormed .fa960 (.prbsLock 0 5 false) = false := by decide +kernel
theorem test_spur_port : wellFormed .fa960 (.spurBlockLock 4) = false := by decide +kernel
theorem test_absent_fabric : wellFormed .fb240 (.fabDrainEnd 1) = false := by decide +kernel

/-- Well-formed commands of several kinds are accepted. -/
theorem test_well_formed :
    wellFormed .fa960 (.rcRead (.core 2 0) R.WAKE_CNT_REJ) = true ∧ wellFormed .fa960 (.ruSet (msg 1 1 8 1) ruBody []) = true ∧
    wellFormed .fa960 (.nop k0) = true ∧ wellFormed .fa960 (.rep k0 (.imm 4096)) = true ∧
    wellFormed .fa960 (.queuePush .gaffer 5 (entry [])) = true ∧ wellFormed .fa960 (.scrubPass (.hbm 3)) = true := by decide +kernel

/-! ### A few effects -/

/-- The register after an instruction of core 0 of tile 2. -/
def grAfter (o : Host.Outcome State Fault Refusal) (n : Fin 32) : Option Word :=
  match o with
  | .next t => some ((t.core 2 0).gr n)
  | _ => none

/-- G1 and G2 hold `a` and `b`. -/
def regsUp (a b : Word) : State := coreUp fun x => { x with g := [(1, a), (2, b)] }

/-- ADD wraps (R241). -/
theorem test_add_wraps : grAfter (execAdd_ k0 3 1 2 true (regsUp 0xFFFFFFFF#32 2#32)) 3 = some 1#32 := by decide +kernel
/-- SUB subtracts its second source from its first (R241). -/
theorem test_sub_order : grAfter (execSub_ k0 3 1 2 false (regsUp 5#32 7#32)) 3 = some 0xFFFFFFFE#32 := by decide +kernel
/-- ADDS saturates (R241). -/
theorem test_adds_saturates : grAfter (execAdds k0 3 1 2 (regsUp 0x7FFFFFFF#32 1#32)) 3 = some 0x7FFFFFFF#32 := by decide +kernel
/-- A quotient past the format saturates, and a divisor of 0 gives 0 (R241). -/
theorem test_div_corners :
    grAfter (execDiv_ k0 3 1 2 false (regsUp 0x80000000#32 0xFFFFFFFF#32)) 3 = some 0x7FFFFFFF#32 ∧
    grAfter (execDiv_ k0 3 1 2 false (regsUp 5#32 0#32)) 3 = some 0#32 := by decide +kernel

/-! ### Worked examples of the spec -/

/-- The state after an outcome. -/
def after (o : Host.Outcome State Fault Refusal) (d : State) : State :=
  match o with
  | .next t => t
  | _ => d

/-- The correlation of 06_dsp_core.md (after R250): y in G1, p in G2. -/
theorem test_stacc_example :
    let s := regsUp 0x20004000#32 0x5A825A82#32
    let t := after (execCmacj k0 0 1 2 s) s
    ((t.core 2 0).accRe 0 = 569425920 ∧ (t.core 2 0).accIm 0 = -189808640) ∧
    grAfter (execStaccC k0 7 0 15 t) 7 = some 0xE96043E2#32 := by decide +kernel

/-- The same correlation in the vector unit (07_vector_unit.md, after R289). -/
theorem test_vnarrow_example :
    let s := coreUp fun x => { x with v := [(2, 0x20004000#512), (3, 0x5A825A82#512)] }
    let t := after (execVcmacjw k0 10 2 3 .c16 2 s) s
    (t.core 2 0).vr 10 = 0xFFF4AFC00021F0C0#512 ∧
    ((after (execVnarrow k0 12 10 7 .c16 2 t) t).core 2 0).vr 12 = 0xE96043E2#512 := by decide +kernel

/-- The offsets of an 8-point reordering (06_dsp_core.md, after R252). -/
theorem test_bit_reversed_example :
    let x := { runningCore with a := [(0, 0x1000#64)], b := [(0, 0x1000#64)], n := [(0, 32#32)], m := [(0, 16#32)] }
    let next (a : DWord) : DWord := revAddr { x with a := [(0, a)] } 0 0
    [next 0x1000#64, next 0x1010#64, next 0x1008#64, next 0x1018#64, next 0x1004#64, next 0x1014#64, next 0x100C#64] =
      [0x1010#64, 0x1008#64, 0x1018#64, 0x1004#64, 0x1014#64, 0x100C#64, 0x101C#64] := by decide +kernel

/-- The two PRBs of 03_signal_chain.md (after R119). -/
theorem test_compression_example :
    compressPrb 12 [23456, -5003, 7000] = (4, [1466, -313, 438]) ∧ (decompressPrb 4 [1466, -313, 438]).1 = [23456, -5008, 7008] ∧
    compressPrb 12 [32760] = (4, [2047]) ∧ (decompressPrb 4 [2047]).1 = [32752] := by decide +kernel

/-- A completion just after device time wraps (05_task_dispatch.md, R212). -/
theorem test_late_example : lateBy 0x0000000100 0xFFFFFFFE00 = 768 := by decide +kernel

/-- The load of RU 42 on SP2 at two widths (15_spur_ports.md), in tenths of bit/s with the factor 1.10 applied. -/
theorem test_spur_load_example :
    let n1 : Carrier := { std := 3, scs := 1, bw := 50, duplex := 1, dl := 0#32, ul := 0#32 }
    let g : Carrier := { std := 0, scs := 0, bw := 2, duplex := 0, dl := 0#32, ul := 0#32 }
    let i (m w : Word) : Inst := { newInst 0 with maskLo := m, compw := w }
    let load (w : Word) : Nat := 11 * (instLoad 2 n1 (i 0xF#32 w) + 2 * instLoad 2 g (i 3#32 w))
    (load 12#32 + 5000) / 10000 = 532107 ∧ (load 11#32 + 5000) / 10000 = 495147 := by decide +kernel

/-- A window moves (04_travelling_cell.md, R177 to R179): positions 36 to 42 towards 37 to 43. -/
theorem test_window_example :
    let l : List Int := (List.range 160).map fun n => 1200000 + 2400000 * Int.ofNat n
    let k : Motion := { x := 96056330, v := 888890, a := 0 }
    let r := { aRun with winSize := 7, joinSlots := 2 }
    let w : List (Nat × Nat × Nat) := (List.range 7).map fun i => (36 + i, 2, 9)
    targetWin 160 7 40 true = (37, 43) ∧ decideStep r l k 40 w = { code := 1, pos := 43 } ∧
    decideStep r l k 40 ((43, 1, 1) :: w) = { code := 2, pos := 43 } ∧
    decideStep r l k 40 ((43, 2, 0) :: w) = { code := 3, pos := 36 } ∧
    decideStep r l k 40 ((43, 2, 1) :: (36, 3, 0) :: w.drop 1) = { code := 4, pos := 36 } := by decide +kernel

end Sys2Proof.Tests
end

section
/-! SUPPORT. What a 32-bit access to a register does: what the bus answers, and what the register does under its
access code (R11 to R16). -/

namespace Sys2Proof.Machine

/-! ### Words as bytes -/

@[simp] theorem length_leBytes (n v : Nat) : (leBytes n v).length = n := by
  induction n generalizing v with
  | zero => rfl
  | succ n ih => simp [leBytes, ih]

theorem leVal_leBytes (n v : Nat) : leVal (leBytes n v) = v % 256 ^ n := by
  induction n generalizing v with
  | zero => simp [leBytes, leVal, Nat.mod_one]
  | succ n ih => simp [leBytes, leVal, ih, Nat.pow_succ', Nat.mod_mul]

@[simp] theorem leVal_leBytes_word (w : Word) : leVal (leBytes 4 w.toNat) = w.toNat := by
  rw [leVal_leBytes]
  exact Nat.mod_eq_of_lt w.isLt

/-! ### The bus at a register -/

section Access
variable {s : State} {r : Requester} {a off : Nat} {b : Block} (hplace : placeOf s.part a = .regs b off)
include hplace

/-- A 32-bit read that is allowed answers the word that `read32` gives (R11, R365). -/
theorem readAnswer_regs (hok : regErr s r false a 4 b off = none) :
    readAnswer r a 4 s = (read32 r b off a s).2.answer (.data ((read32 r b off a s).1.setWidth 64)) := by
  have hbus : busRead r a 4 s = (.ok (leBytes 4 (read32 r b off a s).1.toNat), (read32 r b off a s).2) := by
    simp [busRead, hplace, hok]
  simp [readAnswer, hbus, BitVec.ofNat_toNat]

/-- A 32-bit write that is allowed is done by `write32` (R11, R365). -/
theorem writeAnswer_regs (v : Word) (hok : regErr s r true a 4 b off = none) :
    writeAnswer r a (leBytes 4 v.toNat) s = (write32 r b off a v s).answer .done := by
  have hbus : busWrite r a (leBytes 4 v.toNat) s = (none, write32 r b off a v s) := by
    simp [busWrite, hplace, hok]
  simp [writeAnswer, hbus]

end Access

/-! ### A register under its access code -/

/-- A register that is neither WO nor complement-paired is RW or read-to-clear (R14). -/
theorem RegKind.rw_or_rc {k : RegKind} (hwo : k ≠ .wo) (hcp : k ≠ .cp) : k = .rw ∨ k = .rc := by
  cases k <;> simp_all

/-- A register that is neither read-to-clear nor complement-paired is RW or WO (R14). -/
theorem RegKind.rw_or_wo {k : RegKind} (hrc : k ≠ .rc) (hcp : k ≠ .cp) : k = .rw ∨ k = .wo := by
  cases k <;> simp_all

section Register
variable {b : Block} {off : Nat} {row : RegRow} (hcore : ∀ t c, b ≠ .core t c) (hrow : rowAt b off = some row)
include hcore hrow

/-- The low half of a plain 64-bit register is read; its high half is latched (R12). -/
theorem read32_wide_low (r : Requester) (a : Nat) (s : State) (halloc : off = 0 → b ≠ .mbx) (hwo : row.kind ≠ .wo)
    (hcp : row.kind ≠ .cp) (hwide : row.wide = true) (hlow : row.isHigh off = false) (hsec : isNowSec b off = false)
    (hfrac : isNowFrac b off = false) :
    read32 r b off a s = readHalf r a false (view64 s r b off a) s := by
  have hmbx : (b == .mbx && off == 0) = false := by
    simpa [imp_not_comm] using halloc
  obtain hk | hk := RegKind.rw_or_rc hwo hcp <;>
    simp [read32, hmbx, hrow, hk, hwide, hlow, hsec, hfrac]

/-- A read-to-clear register outside the mailbox block is read and then holds 0 (R14). -/
theorem read32_rc (r : Requester) (a : Nat) (s : State) (hmbx : b ≠ .mbx) (hrc : row.kind = .rc)
    (hnarrow : row.wide = false) : read32 r b off a s = (view32 s r b off a, s.setReg a 0#32) := by
  have hclear : clearRead s b off a .rc = s.setReg a 0#32 := by
    unfold clearRead
    split
    · exact absurd rfl hmbx
    · rfl
  simp [read32, hmbx, hrow, hrc, hnarrow, hclear]

/-- A write to the low half of a 64-bit register is held (R12). -/
theorem write32_wide_low (r : Requester) (a : Nat) (v : Word) (s : State) (hrc : row.kind ≠ .rc) (hcp : row.kind ≠ .cp)
    (hwide : row.wide = true) (hlow : row.isHigh off = false) :
    write32 r b off a v s = { s with regs := { s.regs with held := heldPut r a v s.regs.held } } := by
  obtain hk | hk := RegKind.rw_or_wo hrc hcp <;> simp [write32, hrow, hk, hwide, hlow, writeHalf]

/-- A write to the high half of a 64-bit register sets it, over the low half held or the one it has (R12). -/
theorem write32_wide_high (r : Requester) (a : Nat) (v : Word) (s : State) (hrc : row.kind ≠ .rc) (hcp : row.kind ≠ .cp)
    (hwide : row.wide = true) (hhigh : row.isHigh off = true) :
    write32 r b off a v s =
      let t := heldTake r (a - 4) s.regs.held
      write64 r b (off - 4) (a - 4) (dw v (t.1.getD (lo32 (view64 s r b (off - 4) (a - 4)))))
        { s with regs := { s.regs with held := t.2 } } := by
  obtain hk | hk := RegKind.rw_or_wo hrc hcp <;> simp [write32, hrow, hk, hwide, hhigh, writeHalf]

/-- A write to a complement-paired register is a half of a pair (R16). -/
theorem write32_cp (r : Requester) (a : Nat) (v : Word) (s : State) (hcp : row.kind = .cp) :
    write32 r b off a v s = cpWriteHalf r (a - off % 8) (off % 8 == 4) v s := by
  simp [write32, hrow, hcp]

/-- A write to a 32-bit register goes to the register's block (R14). -/
theorem write32_narrow (r : Requester) (a : Nat) (v : Word) (s : State) (hrc : row.kind ≠ .rc) (hcp : row.kind ≠ .cp)
    (hnarrow : row.wide = false) : write32 r b off a v s = write32Narrow r b off a row v s := by
  obtain hk | hk := RegKind.rw_or_wo hrc hcp <;> simp [write32, hrow, hk, hnarrow]

end Register

/-- The registers of PWR and WAKE do nothing but take the write. -/
theorem write32Narrow_plain (r : Requester) {b : Block} (off a : Nat) (row : RegRow) (v : Word) (s : State)
    (hb : b = .pwr ∨ b = .wake) : write32Narrow r b off a row v s = plainWrite row a v s := by
  rcases hb with rfl | rfl <;> rfl

/-! ### Complement pairs (R16) -/

/-- With no half held, a write starts a pair. -/
theorem cpWriteHalf_start (r : Requester) {a : Nat} (c : Bool) (v : Word) {s : State} (hnone : mget a s.regs.cp = none) :
    cpWriteHalf r a c v s = { s with regs := { s.regs with
      cp := mset a { complement := c, value := v, by_ := r, at_ := s.now } s.regs.cp } } := by
  simp [cpWriteHalf, hnone]

section Pair
variable {r : Requester} {a : Nat} {c : Bool} {v : Word} {s : State} {x : CpPending}
  (hheld : mget a s.regs.cp = some x) (htime : s.now ≤ x.at_ + 1024)
include hheld htime

/-- The matching second half completes the pair; a word whose bit 0 is clear starts no step. -/
theorem cpWriteHalf_match (hby : x.by_ = r) (hother : x.complement ≠ c) (hpair : x.value = ~~~v)
    (hbit : bit (if c then x.value else v) 0 = false) :
    cpWriteHalf r a c v s = State.setField { s with regs := { s.regs with cp := mdel a s.regs.cp } } a 0 0 0 := by
  have hmatch : x.by_ = r ∧ x.complement ≠ c ∧ x.value = ~~~v := ⟨hby, hother, hpair⟩
  simp only [cpWriteHalf, hheld, if_neg (Nat.not_lt.mpr htime), if_pos hmatch, hbit, b2n, Bool.false_eq_true, if_false]

/-- A second write that does not match discards the pair and sets CPAIR_ERR. -/
theorem cpWriteHalf_mismatch (hbad : x.by_ ≠ r ∨ x.complement = c ∨ x.value ≠ ~~~v) :
    cpWriteHalf r a c v s = State.orReg { s with regs := { s.regs with cp := mdel a s.regs.cp } } R.TIME_EVT 0 := by
  have hno : ¬(x.by_ = r ∧ x.complement ≠ c ∧ x.value = ~~~v) := by
    rintro ⟨hby, hother, hpair⟩
    rcases hbad with h | h | h
    · exact h hby
    · exact hother h
    · exact h hpair
  simp only [cpWriteHalf, hheld, if_neg (Nat.not_lt.mpr htime), if_neg hno]

end Pair

end Sys2Proof.Machine
end

section
/-! SUPPORT. The register commands, from the access they make to the answer they give, and with them O22. -/

namespace Sys2Proof.Machine

/-! ### The register commands are bus accesses of four bytes -/

theorem exec_reg64LowRead (r : Requester) (a : Nat) (s : State) :
    exec (.reg64LowRead r a) s = .next (readAnswer r a 4 s) := rfl

theorem exec_rcRead (r : Requester) (a : Nat) (s : State) : exec (.rcRead r a) s = .next (readAnswer r a 4 s) := rfl

theorem exec_reg64LowWrite (r : Requester) (a : Nat) (v : Word) (s : State) :
    exec (.reg64LowWrite r a v) s = .next (writeAnswer r a (leBytes 4 v.toNat) s) := rfl

theorem exec_reg64HighWrite (r : Requester) (a : Nat) (v : Word) (s : State) :
    exec (.reg64HighWrite r a v) s = .next (writeAnswer r a (leBytes 4 v.toNat) s) := rfl

theorem exec_cpWrite (r : Requester) (a : Nat) (v : Word) (s : State) :
    exec (.cpWrite r a v) s = .next (writeAnswer r a (leBytes 4 v.toNat) s) := rfl

theorem exec_registerWrite_word (r : Requester) (a : Nat) (v : Word) (s : State) :
    exec (.registerWrite r a 4 (v.setWidth 64)) s = .next (writeAnswer r a (leBytes 4 v.toNat) s) := by
  have hword : (v.setWidth 64).toNat = v.toNat := BitVec.toNat_setWidth_of_le (by decide)
  rw [← hword]
  rfl

/-- A pair whose second half has not come in 1,024 ns is discarded and sets CPAIR_ERR (R16). -/
theorem exec_cpPairTimeout_expired {a : Nat} {s : State} {x : CpPending} (hheld : mget a s.regs.cp = some x)
    (hlate : x.at_ + 1024 ≤ s.now) :
    exec (.cpPairTimeout a) s =
      .next (State.orReg { s with regs := { s.regs with cp := mdel a s.regs.cp } } R.TIME_EVT 0) := by
  show execCpPairTimeout a s = _
  simp [execCpPairTimeout, hheld, hlate, ok]

/-- Settles O22: a register command is a bus access of four bytes, and the register's access code decides the rest. -/
theorem registerAccess : Obligations.RegisterAccess := by
  unfold Obligations.RegisterAccess
  intro r a v b off row s hplace hcore hrow
  refine ⟨fun halloc hok hwo hcp => ⟨fun hwide hlow hsec hfrac => ?lowRead, fun hnarrow hrc hmbx => ?rcRead⟩,
    fun hok hrc hcp hwide => ⟨fun hlow => ?lowWrite, fun hhigh => ?highWrite⟩, fun hok hcp => ?cpWrite,
    fun hok hrc hcp hnarrow hb => ?plainWrite, fun c hnone => cpWriteHalf_start r c v hnone,
    fun c x hheld htime => ⟨cpWriteHalf_match hheld htime, cpWriteHalf_mismatch hheld htime⟩,
    fun x hheld hlate => exec_cpPairTimeout_expired hheld hlate⟩
  case lowRead =>
    rw [exec_reg64LowRead, readAnswer_regs hplace hok,
      read32_wide_low hcore hrow r a s halloc hwo hcp hwide hlow hsec hfrac]
    rfl
  case rcRead => rw [exec_rcRead, readAnswer_regs hplace hok, read32_rc hcore hrow r a s hmbx hrc hnarrow]
  case lowWrite =>
    rw [exec_reg64LowWrite, writeAnswer_regs hplace v hok, write32_wide_low hcore hrow r a v s hrc hcp hwide hlow]
  case highWrite =>
    rw [exec_reg64HighWrite, writeAnswer_regs hplace v hok, write32_wide_high hcore hrow r a v s hrc hcp hwide hhigh]
  case cpWrite => rw [exec_cpWrite, writeAnswer_regs hplace v hok, write32_cp hcore hrow r a v s hcp]
  case plainWrite =>
    rw [exec_registerWrite_word, writeAnswer_regs hplace v hok, write32_narrow hcore hrow r a v s hrc hcp hnarrow,
      write32Narrow_plain r off a row v s hb]

end Sys2Proof.Machine
end

section
/-! SUPPORT. Rules that the commands of hosts, peers and the Gaffer share: sorted lists and maps, a request once it is
accepted, and what a journal record, a memory write and a response leave alone. -/

namespace Sys2Proof.Machine

/-! ### Sorted lists and maps -/

theorem mem_insertBy {α : Type} {key : α → Nat × Nat × Nat} {a b : α} {l : List α} :
    b ∈ insertBy key a l ↔ b = a ∨ b ∈ l := by
  induction l with
  | nil => simp [insertBy]
  | cons c l ih =>
    unfold insertBy
    split
    · simp
    · rw [List.mem_cons, ih, List.mem_cons, or_left_comm]

/-- Sorting keeps the elements of a list. -/
theorem mem_sortBy {α : Type} {key : α → Nat × Nat × Nat} {a : α} {l : List α} : a ∈ sortBy key l ↔ a ∈ l := by
  induction l with
  | nil => rfl
  | cons b l ih => rw [sortBy, List.foldr_cons, mem_insertBy, ← sortBy, ih, List.mem_cons]

/-- A key that is listed has a value. -/
theorem mget_ne_none_of_mem {α : Type} {k : Nat} {v : α} {m : FMap α} (h : (k, v) ∈ m) : mget k m ≠ none := by
  induction m with
  | nil => cases h
  | cons x m ih =>
    obtain ⟨j, w⟩ := x
    unfold mget
    split
    · exact Option.some_ne_none w
    · next hne =>
      obtain heq | hm := List.mem_cons.mp h
      · exact absurd (congrArg Prod.fst heq).symm hne
      · exact ih hm

/-- A second value at a key takes the place of the first. -/
theorem mset_mset_self {α : Type} (k : Nat) (v w : α) (m : FMap α) : mset k w (mset k v m) = mset k w m := by
  induction m with
  | nil => simp [mset]
  | cons x m ih =>
    obtain ⟨j, y⟩ := x
    rcases Nat.lt_trichotomy k j with hlt | rfl | hgt
    · simp [mset, hlt]
    · simp [mset]
    · simp [mset, ih, Nat.not_lt.mpr hgt.le, hgt.ne']

/-! ### Commands once their request is accepted -/

/-- A command that completes at once acts on the state in which it is accepted, and is answered (R77). -/
theorem serve_accepted {op : OpInfo} {m : TcsMsg} {crit : Nat} {act : State → Reply} {s u : State}
    (h : Accepted op m crit s u) :
    serve op m crit act s = (act u).state.respond op.opcode m (act u).st (act u).payload (act u).crit := by
  unfold serve
  rw [show accept op m crit s = .go u from h]

/-- A command that goes on in its mailbox, when it starts. -/
theorem begin_accepted_goesOn {op : OpInfo} {m : TcsMsg} {crit : Nat} {act : State → Reply ⊕ State} {s u t : State}
    (h : Accepted op m crit s u) (hact : act (holdMbx u m op.opcode []) = .inr t) : begin_ op m crit act s = t := by
  unfold begin_
  rw [show accept op m crit s = .go u from h]
  simp only [hact]

@[simp] theorem holdMbx_parison (s : State) (m : TcsMsg) (opcode : Nat) (l : List Setting) :
    (holdMbx s m opcode l).parison = s.parison := rfl
@[simp] theorem holdMbx_run (s : State) (m : TcsMsg) (opcode n : Nat) (l : List Setting) :
    (holdMbx s m opcode l).run n = s.run n := rfl
@[simp] theorem holdMbx_devNs (s : State) (m : TcsMsg) (opcode : Nat) (l : List Setting) :
    (holdMbx s m opcode l).devNs = s.devNs := rfl
@[simp] theorem holdsSem_holdMbx (s : State) (m x : TcsMsg) (opcode n : Nat) (l : List Setting) :
    holdsSem (holdMbx s m opcode l) x n = holdsSem s x n := rfl

/-! ### A journal record touches storage and registers alone -/

/-- `t` is `s` with other registers and another storage. -/
def OnlyStored (s t : State) : Prop := ∃ regs stor, t = { s with regs := regs, stor := stor }

theorem OnlyStored.trans {s t v : State} (h : OnlyStored s t) (g : OnlyStored t v) : OnlyStored s v := by
  obtain ⟨_, _, rfl⟩ := h
  obtain ⟨_, _, rfl⟩ := g
  exact ⟨_, _, rfl⟩

theorem stageLost_onlyStored (s : State) : OnlyStored s (stageLost s) := by
  unfold stageLost
  split
  · exact ⟨_, _, rfl⟩
  · exact ⟨_, _, rfl⟩

theorem bufferRec_onlyStored (s : State) (r : JRec) : OnlyStored s (bufferRec s r) := by
  unfold bufferRec
  split
  · exact ⟨_, _, rfl⟩
  · dsimp only
    split
    · exact ⟨_, _, rfl⟩
    · exact ⟨_, _, rfl⟩

theorem journal_onlyStored (s : State) (rtype severity source : Nat) (body : List Byte) :
    OnlyStored s (s.journal rtype severity source body) := by
  unfold State.journal
  dsimp only
  cases canStage s (min 256 (64 + ceilDiv body.length 16 * 16)) && s.stor.buffer.isEmpty with
  | false =>
    have hrec : OnlyStored s (makeRec s rtype severity source body).2 := ⟨_, _, rfl⟩
    exact hrec.trans (bufferRec_onlyStored _ _)
  | true =>
    have hrec : OnlyStored (stageLost s) (stageRec (makeRec (stageLost s) rtype severity source body).2
      (makeRec (stageLost s) rtype severity source body).1) := ⟨_, _, rfl⟩
    exact (stageLost_onlyStored s).trans hrec

@[simp] theorem State.journal_cor (s : State) (rtype severity source : Nat) (body : List Byte) :
    (s.journal rtype severity source body).cor = s.cor := by
  obtain ⟨_, _, h⟩ := journal_onlyStored s rtype severity source body
  rw [h]

@[simp] theorem State.journal_peers (s : State) (rtype severity source : Nat) (body : List Byte) :
    (s.journal rtype severity source body).peers = s.peers := by
  obtain ⟨_, _, h⟩ := journal_onlyStored s rtype severity source body
  rw [h]

/-! ### A write to memory changes no peer entry -/

theorem countPoisonWr_framed {n : Option Nat} {s0 s : State} {t : Nat} {pl : Place} (h : Framed n s0 s) :
    Framed n s0 (countPoisonWr s t pl) := by
  unfold countPoisonWr
  split
  · exact State.count_framed h
  · exact State.count_framed h

theorem injectOn_framed {n : Option Nat} {s0 s : State} {pl : Place} {cw : Nat} (h : Framed n s0 s) :
    Framed n s0 (injectOn pl cw s) := by
  unfold injectOn
  dsimp only
  split
  · exact State.setMark_framed (State.modReg_framed h)
  · exact State.setMark_framed h

theorem writeCode_framed {n : Option Nat} {s0 s : State} {r : Requester} {pl : Place} {a len cw : Nat} (h : Framed n s0 s) :
    Framed n s0 (writeCode r pl a len cw s) := by
  have hback : Framed n s0
      { s with mem := { s.mem with writeBacks := s.mem.writeBacks.filter (· != cw) } } := Framed.isMk rfl h
  unfold writeCode
  dsimp only
  split
  · exact injectOn_framed hback
  · split
    · exact hback
    · exact State.setMark_framed (noteCE_framed hback)
    · exact State.setMark_framed (clogAdd_framed (countPoisonWr_framed (countUE_framed hback)))
    · exact clogAdd_framed (countPoisonWr_framed hback)

theorem writeCodes_framed {n : Option Nat} {s0 : State} {r : Requester} {pl : Place} {a len : Nat} (l : List Nat) {s : State}
    (h : Framed n s0 s) : Framed n s0 (writeCodes r pl a len l s) := by
  induction l generalizing s with
  | nil => exact h
  | cons cw l ih => exact ih (writeCode_framed h)

@[simp] theorem memWrite_peers (r : Requester) (pl : Place) (a : Nat) (bs : List Byte) (s : State) :
    (memWrite r pl a bs s).peers = s.peers := by
  obtain ⟨⟨-, helse⟩, -⟩ := writeCodes_framed (r := r) (pl := pl) (a := a) (len := bs.length)
    (codeWords (codeSize pl) a bs.length) (Framed.refl none s)
  obtain ⟨-, -, -, hpeers, -⟩ := helse.rest
  exact hpeers

/-! ### Peer entries that stay -/

@[simp] theorem State.peer_setPeer (s : State) (k : Nat) (p : Peer) : (s.setPeer k p).peer k = some p :=
  mget_mset_self k p s.peers

theorem State.peer_setPeer_ne (s : State) {j k : Nat} (h : j ≠ k) (p : Peer) : (s.setPeer k p).peer j = s.peer j :=
  mget_mset_ne h p s.peers

/-- Every corridor end with a peer entry in `s` has one in `t`. -/
structure PeersStay (s t : State) : Prop where
  isSome : ∀ k, (s.peer k).isSome = true → (t.peer k).isSome = true

theorem PeersStay.of_peers_eq {s t : State} (h : t.peers = s.peers) : PeersStay s t :=
  ⟨fun k hk => by rwa [State.peer, h]⟩

theorem PeersStay.trans {s t v : State} (h : PeersStay s t) (g : PeersStay t v) : PeersStay s v :=
  ⟨fun k hk => g.isSome k (h.isSome k hk)⟩

theorem setPeer_peersStay (s : State) (k : Nat) (p : Peer) : PeersStay s (s.setPeer k p) := by
  refine ⟨fun j hj => ?_⟩
  obtain rfl | hne := eq_or_ne j k
  · rw [State.peer_setPeer]; rfl
  · rwa [State.peer_setPeer_ne s hne]

@[simp] theorem sendEvent_peers (e : EventRec) (s : State) (p : Nat) : (sendEvent e s p).peers = s.peers := by
  unfold sendEvent
  dsimp only
  split
  · rfl
  · rfl

@[simp] theorem State.raise_peers (s : State) (code kind idx : Nat) (detail : List Byte) :
    (s.raise code kind idx detail).peers = s.peers := by
  simp [State.raise, State.raiseTo]

@[simp] theorem freeMbx_peers (s : State) (k : Nat) : (freeMbx s k).peers = s.peers := rfl

@[simp] theorem writeOnchip_peers (n : Nat) (o : OutMsg) (s : State) : (writeOnchip n o s).peers = s.peers := by
  simp [writeOnchip]

/-- A response may add to the cache of a peer session, and takes no peer entry away. -/
theorem respond_peersStay (s : State) (opcode : Nat) (m : TcsMsg) (st : Status) (payload : List Byte) (crit : Nat) :
    PeersStay s (s.respond opcode m st payload crit) := by
  unfold State.respond deliver
  split
  · dsimp only
    split
    · exact .of_peers_eq rfl
    · exact .of_peers_eq rfl
  · dsimp only
    split
    · exact (PeersStay.of_peers_eq (State.send_peers s)).trans (setPeer_peersStay ..)
    · exact .of_peers_eq rfl
  · exact .of_peers_eq (writeOnchip_peers ..)

/-- A peer entry written before a response is there after it. -/
theorem respond_setPeer_peer_isSome (s : State) (k : Nat) (p : Peer) (opcode : Nat) (m : TcsMsg) (st : Status) :
    (((s.setPeer k p).respond opcode m st).peer k).isSome = true :=
  (respond_peersStay ..).isSome k (by rw [State.peer_setPeer]; rfl)

end Sys2Proof.Machine
end

section
/-! SUPPORT. RU_SET and the static cells of its corridor (R43): the order of a cell's RUs follows their positions, which
refutes O28. -/

namespace Sys2Proof.Machine

/-- An RU of corridor 0 with two ports, on port 0 of IOT 0. -/
def ruAtChainage (n : Nat) (chainage : Word) : Ru :=
  { station := false, sindex := 0, ports := 2, path := 0, link := 0, flowid := n, vlan := 0, mac := n, txproc := 0,
    chainage := chainage }

/-- A device in ACTIVE whose corridor 0 has RU 1 at 100 m and RU 2 at 200 m, both in one static cell of carrier 5. -/
def cellOfTwo : State :=
  { State.reset with cor := { CorridorModel.reset with
      corridors := [(0, 50000)], rus := [(1, ruAtChainage 1 10000#32), (2, ruAtChainage 2 20000#32)],
      statics := [(0, { corridor := 0, carrier := 5, rus := [1, 2] })] } }.setField R.PWR_STAT 31 29 1

/-- RU_SET that moves RU 1 to 300 m, past RU 2. -/
def passingRu : RuBody :=
  { ru := 1, scope := 0, sindex := 0, ports := 2, path := 0, link := 0, flowid := 1, vlan := 0, mac := 1, txproc := 0,
    chainage := 30000#32, chainageC := ~~~30000#32 }

/-- A carrier, for the clauses that a refutation leaves aside. -/
def blankCarrier : CarrierBody :=
  { scope := 0, sindex := 0, carrier := 0, std := 0, scs := 0, bw := 0, duplex := 0, dl := 0#32, dlC := 0#32, ul := 0#32,
    ulC := 0#32 }

/-- The move passes every check of R40, and the cell then holds its RUs in their new order. -/
theorem passingRu_reorders_cell :
    checkCor cellOfTwo (.ru passingRu) = .ok ∧
    (applySetting cellOfTwo false (.ru passingRu)).cor.statics = [(0, { corridor := 0, carrier := 5, rus := [2, 1] })] := by
  decide +kernel

/-- Refutes O28: RU_SET changes more of the corridor model than the RU, since a static cell whose RUs it passes keeps its
RUs in the order of their positions. -/
theorem not_corridorSettings : ¬ Obligations.CorridorSettings := by
  unfold Obligations.CorridorSettings
  intro h
  obtain ⟨-, -, -, -, -, -, -, -, -, -, -, -, -, -, hru, -⟩ :=
    h ownMsg 0 0 0 0 0 0 0 0 0 0 0 passingRu blankCarrier 0#32 0#32 State.reset cellOfTwo
  obtain ⟨-, hnew⟩ := passingRu_reorders_cell
  have hcells := congrArg CorridorModel.statics hru
  rw [hnew] at hcells
  exact absurd hcells (by decide)

end Sys2Proof.Machine
end

section
/-! SUPPORT. Settings that take effect at a carrier's boundary (R41, R88), the narrowing of a short spur port (R37), CONFIG_READ
and PEER_SET (R47, R48), and with them O29. -/

namespace Sys2Proof.Machine

/-! ### A setting that takes effect at its carrier's boundary (R41, R88) -/

/-- What falls due at a boundary is the waiting setting of a mailbox. -/
theorem mem_dueAt {s : State} {ck k : Nat} {e : MbxExec} (h : (k, e) ∈ dueAt s ck) :
    (k, e) ∈ s.tcs.mailboxes ∧ e.waiting.isSome = true := by
  obtain ⟨hmem, hdue⟩ := List.mem_filter.mp (mem_sortBy.mp h)
  refine ⟨hmem, ?_⟩
  cases hwait : e.waiting with
  | some x => rfl
  | none => simp [hwait] at hdue

/-- The record of a setting leaves the corridor model as it is. -/
@[simp] theorem settingRecord_cor (s : State) (e : MbxExec) (st : Setting) (c : Nat) :
    (settingRecord s e st c).cor = s.cor := by simp [settingRecord]

@[simp] theorem setMbx_cor (s : State) (k : Nat) (e : MbxExec) : (setMbx s k e).cor = s.cor := rfl

@[simp] theorem mget_setMbx_mailboxes (s : State) (k : Nat) (e : MbxExec) :
    mget k (setMbx s k e).tcs.mailboxes = some e := mget_mset_self k e s.tcs.mailboxes

/-- A host's waiting setting is applied, recorded, and dated with the boundary in its mailbox. -/
theorem effectOf_waiting {s : State} {k ck f : Nat} {e : MbxExec} {st : Setting} (hwait : e.waiting = some (st, ck, f))
    (hk : k ≠ ownKey) : effectOf s (k, e) = setMbx (settingRecord (applySetting s false st) e st 0) k
      { e.add 0 (frameStart (stdOf s st ck) (frameNo (stdOf s st ck) s.devNs)) with waiting := none } := by
  simp only [effectOf, hwait, beq_false_of_ne hk]

/-- The ranges of a PEER_SET hold its end to two values. -/
theorem endHi_lt_of_peerRange {s : State} {b : PeerBody} (h : peerRange s b = true) : b.endHi < 2 := by
  by_contra hno
  simp [peerRange, hno] at h

/-- Settles O29: an accepted request acts on the state it is accepted in, and a boundary takes the waiting settings in turn. -/
theorem boundaryAndPeerEntries : Obligations.BoundaryAndPeerEntries := by
  unfold Obligations.BoundaryAndPeerEntries
  intro m scope sindex carrier ru what index index2 corridor endHi b s u
  dsimp only
  refine ⟨⟨rfl, fun k e hdue => ?due⟩, fun k e st ck f hwait hk => ?effect,
    ⟨fun hshort hlow hsince => ?lower, fun hearly => ?lowerEarly⟩,
    ⟨fun hshort hlow hnext hsince => ?suspend, fun hearly => ?suspendEarly⟩,
    fun x n hacc hobj => ?read, fun hacc hcor hsem hpar hrange hhas hfree => ?set,
    fun hacc hcor hend hsem hpar hhas hfree hpeer => ?clear⟩
  case due =>
    obtain ⟨hmem, hwaits⟩ := mem_dueAt hdue
    exact ⟨mget_ne_none_of_mem hmem, hwaits⟩
  case effect => simp [effectOf_waiting hwait hk]
  case lower => exact if_pos (by simp only [hshort, hlow, hsince, Bool.and_self])
  case lowerEarly => exact if_neg (by simp [hearly])
  case suspend => exact if_pos (by simp only [hshort, hlow, hnext, hsince, Bool.not_false, beq_self_eq_true, Bool.and_self])
  case suspendEarly => exact if_neg (by simp [hearly])
  case read => exact congrArg ok ((serve_accepted hacc).trans (by simp [hobj]))
  case set =>
    exact congrArg ok ((serve_accepted hacc).trans (by
      simp [peerGuard, guarded, refuse, Nat.not_le.mpr hcor, hsem, hpar, endHi_lt_of_peerRange hrange, hrange, hhas, hfree]))
  case clear =>
    exact congrArg ok ((serve_accepted hacc).trans (by
      simp [peerGuard, guarded, refuse, Nat.not_le.mpr hcor, hsem, hpar, hend, hhas, hfree, hpeer]))

end Sys2Proof.Machine
end

section
/-! SUPPORT. Commands on runs (R187, R189), and with them O36. -/

namespace Sys2Proof.Machine

/-- A command on a run that exists, from the holder of its corridor's semaphore, once its mailbox executes it (R79, R187). -/
theorem onRun_holdMbx {m : TcsMsg} {opcode n : Nat} {act : Run → State → Reply ⊕ State} {s : State} {r : Run}
    (hpar : s.parison = false) (hrun : s.run n = some r) (hsem : holdsSem s m r.corridor = true) :
    onRun m n act (holdMbx s m opcode []) = act r (holdMbx s m opcode []) := by
  simp only [onRun, holdMbx_parison, holdMbx_run, holdsSem_holdMbx, hpar, hrun, hsem, Bool.false_eq_true, if_false, if_true]

/-- Settles O36: each command meets its checks one after the other, and acts in the state in which it is accepted. -/
theorem runCommands : Obligations.RunCommands := by
  unfold Obligations.RunCommands
  intro m b n acc ch tFix sv sp s u
  refine ⟨fun k a hacc hcor hsem hpar hrange hpairs hfree hanchor => ?create,
    fun r hacc hpar hrun hsem hend hexp => ?end_, fun r hacc hpar hrun hsem hend hexp hlive hnone => ?export_,
    fun r l v hacc hrun => ⟨fun hread => ?read, fun hread => ?readBad⟩,
    fun r hacc hpar hrun hearly hlate hlo hhi => ?position⟩
  case create =>
    refine congrArg ok ((serve_accepted hacc).trans ?_)
    simp only [if_neg (Nat.not_le.mpr hcor), hsem, hpar, hrange, hpairs, hfree, hanchor, if_true, Bool.not_true,
      Bool.false_eq_true, if_false]
  case end_ =>
    refine congrArg ok (begin_accepted_goesOn hacc ((onRun_holdMbx hpar hrun hsem).trans ?_))
    exact if_neg (by simp [hend, hexp])
  case export_ =>
    refine congrArg ok (begin_accepted_goesOn hacc ((onRun_holdMbx hpar hrun hsem).trans ?_))
    have hgo : ¬ (decide (r.ending ≠ 0) || r.exported.isSome || !peerLive u (r.endKey u) || (exportOf u n r).isSome) = true := by
      simp [hend, hexp, hlive, hnone]
    exact if_neg hgo
  case read =>
    refine congrArg ok ((serve_accepted hacc).trans ?_)
    simp only [hrun, hread]
  case readBad =>
    refine congrArg ok ((serve_accepted hacc).trans ?_)
    simp only [hrun, hread]
  case position =>
    refine congrArg ok (begin_accepted_goesOn hacc ?_)
    simp only [holdMbx_parison, holdMbx_run, holdMbx_devNs, hpar, hrun, Bool.false_eq_true, if_false]
    exact if_neg (by omega)

end Sys2Proof.Machine
end

section
/-! SUPPORT. Peer sessions (R51): what the end of a session leaves there, the responder's answer, and with them O39. -/

namespace Sys2Proof.Machine

/-! ### Peer entries outlast their sessions -/

theorem answerExport_peersStay (s : State) (e : Export) (st : Status) (status run : Nat) :
    PeersStay s (answerExport s e st status run) := by
  unfold answerExport
  split
  · unfold finishMbx
    split
    · exact (PeersStay.of_peers_eq (freeMbx_peers ..)).trans (respond_peersStay ..)
    · exact .of_peers_eq rfl
  · exact .of_peers_eq rfl

theorem exportFails_peersStay (s : State) (k : Nat) (e : Export) (event : Nat) (st : Status) (status : Nat) :
    PeersStay s (exportFails s k e event st status) := by
  have hanswer : PeersStay s (answerExport (s.raise event 4 e.run (leBytes 2 status)) e st status 0) :=
    (PeersStay.of_peers_eq (State.raise_peers ..)).trans (answerExport_peersStay ..)
  unfold exportFails
  dsimp only
  split
  · exact hanswer.trans (setPeer_peersStay ..)
  · exact hanswer

theorem foldl_peersStay {α : Type} {f : State → α → State} (hf : ∀ s a, PeersStay s (f s a)) (l : List α) (s : State) :
    PeersStay s (l.foldl f s) := by
  induction l generalizing s with
  | nil => exact .of_peers_eq rfl
  | cons a l ih => exact (hf s a).trans (ih (f s a))

/-- The end of a session leaves its peer entry there (R51). -/
theorem endPeer_peersStay (s : State) (k : Nat) (p : Peer) : PeersStay s (endPeer s k p) :=
  (setPeer_peersStay ..).trans (foldl_peersStay (fun t x => by
    split
    · exact .of_peers_eq rfl
    · exact exportFails_peersStay ..) _ _)

/-! ### The responder's answer -/

@[simp] theorem peerKey_lo_mod (c : Nat) : peerKey c false % 2 = 0 := by simp [peerKey, b2n]

/-- The state in which the responder answers a PEER_HELLO: a session its end still has is ended first (R51). -/
def helloStart (s : State) (k : Nat) (p : Peer) : State := if p.st = .none then s else endPeer s k p

theorem helloStart_peer_isSome {s : State} {k : Nat} {p : Peer} (hp : s.peer k = some p) :
    ((helloStart s k p).peer k).isSome = true := by
  have hsome : (s.peer k).isSome = true := by rw [hp]; rfl
  unfold helloStart
  split
  · exact hsome
  · exact (endPeer_peersStay s k p).isSome k hsome

/-- The responder's answer opens a session under a key of its own (R51). -/
theorem helloReply_opens (m : TcsMsg) (k : Nat) (p : Peer) (v : State) :
    ∃ q, (helloReply m k p v).peer k = some q ∧ q.st = .opening ∧ q.session = Config.sessionId v.fresh ∧
      (helloReply m k p v).fresh = v.fresh + 1 ∧
      q.key = sessionKey "TCS-PEER" (Config.kemSecret ((m.payload.drop 36).take 1184) v.fresh) (m.payload.take 32)
        (fitBytes 32 (Config.nonce v.fresh)) (Config.sessionId v.fresh) :=
  ⟨_, State.peer_setPeer v.takeFresh.2 k _, rfl, rfl, rfl, rfl⟩

/-- A verified PEER_HELLO in its form at the low end, outside PARISON service, is answered (R51). -/
theorem helloAt_low {m : TcsMsg} {k : Nat} {p q : Peer} {s : State} (hp : s.peer k = some p) (hlow : k % 2 = 0)
    (hframe : framing m = none) (hsess : m.session = 0#32) (htag : m.tag = 0#256) (hmbx : m.mbx = 0)
    (hpar : s.parison = false) (hq : (helloStart s k p).peer k = some q) :
    helloAt m k true s = helloReply m k q (helloStart s k p) := by
  unfold helloStart at hq ⊢
  simp [helloAt, hp, hlow, hframe, hsess, htag, hmbx, hpar, hq]

/-- Settles O39: each step finds the peer entry in the state it needs; the end of an older session leaves that entry there. -/
theorem peerSessions : Obligations.PeerSessions := by
  unfold Obligations.PeerSessions
  intro m c hi session payload p s u
  dsimp only
  refine ⟨fun hvia hup hform hp hlo hframe hsess htag hmbx hpar => ?hello, fun hup hp hst hhi => ?helloAnswer,
    fun hvia hup hform hp hst hlo hframe hsess htag hmbx hpar => ?confirm,
    fun hup hp hst hhi hform hsess htag => ?confirmAnswer, fun hacc hpar => ?keepalive, fun hp hst hdue => ?keepaliveSend,
    fun hp hst hlate => ?timeout, fun hup hp hst hhi hlate => ?reopen⟩
  case hello =>
    subst hlo
    obtain ⟨q, hq⟩ := Option.isSome_iff_exists.mp (helloStart_peer_isSome hp)
    obtain ⟨x, hx, hopened⟩ := helloReply_opens m (peerKey c false) q (helloStart s (peerKey c false) p)
    refine ⟨_, x, ?_, hx, hopened⟩
    show execPeerHello m true true s = _
    simp [execPeerHello, endOf, hvia, hup, hform, helloAt_low hp (peerKey_lo_mod c) hframe hsess htag hmbx hpar hq, ok]
  case helloAnswer =>
    subst hhi
    show execPeerHelloResponse c true session payload true s = _
    simp [execPeerHelloResponse, hp, hup, hst, ok]
  case confirm =>
    subst hlo
    show execPeerConfirm m s = _
    simp [execPeerConfirm, endOf, hvia, hp, hup, hst, hform, hframe, hsess, htag, hmbx, hpar, ok]
  case confirmAnswer =>
    subst hhi
    show execPeerConfirmResponse c true m 0 s = _
    simp [execPeerConfirmResponse, hp, hup, hst, hform, hsess, htag, ok]
  case keepalive => exact congrArg ok ((serve_accepted hacc).trans (by simp [unguarded, hpar, refuse, peerOp]))
  case keepaliveSend =>
    show execPeerKeepaliveSend c hi s = _
    simp [execPeerKeepaliveSend, hp, hst, hdue, ok]
  case timeout =>
    show execPeerSessionTimeout c hi s = _
    simp [execPeerSessionTimeout, hp, hst, hlate, ok]
  case reopen =>
    subst hhi
    show execPeerSessionReopen c true s = _
    simp [execPeerSessionReopen, hp, hup, hst, hlate, ok]

end Sys2Proof.Machine
end

section
/-! SUPPORT. The steps of a hand-over (R52 to R59), and with them O40. -/

namespace Sys2Proof.Machine

@[simp] theorem State.setPeer_setPeer_self (s : State) (k : Nat) (p q : Peer) :
    (s.setPeer k p).setPeer k q = s.setPeer k q := by
  simp [State.setPeer, mset_mset_self]

/-- A hand-over starts alike from a state that has its peer entry written anew. -/
theorem exportStart_setPeer_self {s : State} {k n : Nat} {r : Run} {mbx : Option Nat} {p : Peer} (hend : r.endKey s = k)
    (hp : s.peer k = some p) : exportStart (s.setPeer k p) n r mbx = exportStart s n r mbx := by
  have hend' : r.endKey (s.setPeer k p) = k := hend
  unfold exportStart
  simp only [hend, hend', State.peer_setPeer, hp, State.setPeer_setPeer_self]
  rfl

/-- Settles O40: each step finds its peer entry, its checks pass or fail one after the other, and a retry starts from the same
entry written anew. -/
theorem handover : Obligations.Handover := by
  unfold Obligations.Handover
  intro m c hi n len addr off peerRun data hash b p e i r s u
  dsimp only
  refine ⟨fun hacc hpar hlen hhbm halign hrun hexp => ?l2Data, fun hp => ?l2Wait,
    fun hp hst hform hsess hexp hseq hsent hnew htime => ?reply, fun hp => ?late, fun at_ hp hret hdue hst hrun hholds => ?retry,
    fun hacc hvia hp => ?import_, fun hacc hpar hvia hp himp hlen => ?blob, fun hacc hpar hvia hp himp => ?delta⟩
  case l2Data =>
    refine ⟨fun hsent => ?ctx, fun hsent => ?ctxAgain, fun hsent => ?deltaBlob, fun hsent => ?deltaAgain⟩
    all_goals
      refine congrArg ok ((serve_accepted hacc).trans ?_)
      simp [hpar, Nat.not_lt.mpr hlen, hhbm, halign, hrun, hexp, hsent, refuse]
  case l2Wait =>
    show execExportL2WaitExpiry c hi s = _
    simp only [execExportL2WaitExpiry, hp]
    rfl
  case reply =>
    have hfind : ((p.exports.map Prod.snd).find? fun e => e.seq == m.seq.toNat) = some e := by simp [hexp, hseq]
    have hopen : ¬ (!e.recordSent || e.accepted || decide (e.sTime < s.devNs + 10000000)) = true := by
      simpa [hsent, hnew] using htime
    have hlive : (p.st != .live || m.session != p.session) = false := by simp [hst, hsess]
    refine ⟨fun htag => ?accepted, fun st hrefused htag => ?refused⟩
    case accepted =>
      show execExportReplyReceive c hi m 0 peerRun s = _
      simp only [execExportReplyReceive, hp, hform, hlive, htag, hfind, Bool.not_true, Bool.false_eq_true, if_false]
      exact if_neg hopen
    case refused =>
      show execExportReplyReceive c hi m st peerRun s = _
      simp only [execExportReplyReceive, hp, hform, hlive, htag, hfind, Bool.not_true, Bool.false_eq_true, if_false, if_neg hrefused]
      exact if_neg hopen
  case late =>
    show execHandoverTimeout c hi s = _
    simp only [execHandoverTimeout, hp]
    rfl
  case retry =>
    have hend : r.endKey s = peerKey c hi := by
      simp only [retryHolds, hrun, Bool.and_eq_true, beq_iff_eq] at hholds
      obtain ⟨⟨-, hend⟩, -⟩ := hholds
      exact hend
    have hkeep : (p.retries.filter fun x => decide (s.now < x.2) || retryHolds s (peerKey c hi) x.1) = p.retries := by
      simp [hret, hholds]
    have hfind : (p.retries.find? fun x => decide (x.2 ≤ s.now)) = some (n, at_) := by simp [hret, hdue]
    have hrun' : (s.setPeer (peerKey c hi) p).run n = some r := hrun
    show execHandoverRetry c hi s = _
    simp only [execHandoverRetry, hp, hkeep, hfind, State.setPeer_now, hrun']
    exact (if_pos (by simp [hst])).trans (congrArg _ (exportStart_setPeer_self hend hp))
  case import_ =>
    have haccept : accept (peerOp 0x0304 1) m (7 + 2 * b.carriers.length) s = .go u := hacc
    refine ⟨fun hok hnone => ?noBlob, fun hok hsome => ?waits, fun hbad hroom => ?refused⟩
    case noBlob =>
      show execRunImport m b s = _
      simp [execRunImport, haccept, endOf, hvia, hp, hok, hnone, ok]
    case waits =>
      show execRunImport m b s = _
      simp [execRunImport, haccept, endOf, hvia, hp, hok, hsome, ok]
    case refused =>
      show execRunImport m b s = _
      simp [execRunImport, haccept, endOf, hvia, hp, hbad, hroom, ok]
  case blob =>
    have haccept : accept (peerOp 0x0308 2) m 0 s = .go u := hacc
    refine ⟨fun hroom hrest => ?ctxChunk, fun hroom => ?deltaChunk⟩
    case ctxChunk =>
      have hwaits : ¬ (i.run = none ∧ arrived (i.ctxParts ++ [(off, data.length)]) = i.body.l2Len) :=
        fun ⟨hnone, hall⟩ => hrest.elim (· hnone) (· hall)
      obtain ⟨q, hq⟩ := Option.isSome_iff_exists.mp (respond_setPeer_peer_isSome
        (memWrite .gaffer (placeOf u.part (p.cfg.l2Area + off)) (p.cfg.l2Area + off) data u) (peerKey c hi)
        { p with import_ := some { i with ctxParts := i.ctxParts ++ [(off, data.length)] } } 0x0308 m .ok)
      show execRunBlob m n 1 off data s = _
      simp [execRunBlob, haccept, endOf, hvia, hp, himp, hpar, Nat.not_lt.mpr hlen, Nat.not_lt.mpr hroom, hq, hwaits, ok]
    case deltaChunk =>
      obtain ⟨q, hq⟩ := Option.isSome_iff_exists.mp (respond_setPeer_peer_isSome
        (memWrite .gaffer (placeOf u.part (p.cfg.l2Area + i.body.l2Len + off)) (p.cfg.l2Area + i.body.l2Len + off) data u)
        (peerKey c hi)
        { p with import_ := some { i with deltaParts := i.deltaParts ++ [(off, data.length)] } } 0x0308 m .ok)
      show execRunBlob m n 2 off data s = _
      simp [execRunBlob, haccept, endOf, hvia, hp, himp, hpar, Nat.not_lt.mpr hlen, Nat.not_lt.mpr hroom, hq, ok]
  case delta =>
    have haccept : accept (peerOp 0x0307 2) m 0 s = .go u := hacc
    show execRunDelta m n hash s = _
    simp only [execRunDelta, haccept, endOf, hvia, hp, himp, hpar, Option.bind_some, Bool.false_eq_true, if_false, beq_iff_eq]
    exact (apply_ite (fun t => Host.Outcome.next (State.respond t 0x0307 m .ok)) _ _ _).symm

end Sys2Proof.Machine
end

section
/-! SUPPORT. Spur ports (R461 to R471): an upshift, the preambles of a burst, and with them O45. -/

namespace Sys2Proof.Machine

/-- A faster rung whose SNR is exceeded by MARGIN and 3.0 dB, 10 minutes after the last upshift, starts a fast retrain
that is noted (R464). -/
theorem exec_upshift_faster {port r : Nat} {snr far : Int} {s : State} (hstep : inStep s port 8 = true)
    (hcfg : s.flag (R.SPUR_CFG port) 29 = true) (hr : r < spurRung s port) (hmax : maxRung s port ≤ r)
    (hsnr : rungSnr r + spurMargin s port + 30 < min snr far)
    (hlate : ∀ t, (s.spurPort port).upAt = some t → t + 600 * 1000000000 ≤ s.now) :
    exec (.upshift port snr far) s =
      .next ((spurTrain (setSnr s port snr far) port 5 true).modSpur port fun x => { x with upAt := some s.now }) := by
  show execUpshift port snr far s = _
  have hhigh : ((List.range (spurRung s port)).any fun r =>
      decide (maxRung s port ≤ r) && decide (rungSnr r + spurMargin s port + 30 < min snr far)) = true :=
    List.any_eq_true.mpr ⟨r, List.mem_range.mpr hr, by simp only [hmax, hsnr, decide_true, Bool.and_true]⟩
  unfold execUpshift
  cases hup : (s.spurPort port).upAt with
  | none => simp only [hstep, hcfg, hhigh, Bool.and_true, if_true, ok]
  | some t => simp only [hstep, hcfg, hhigh, decide_eq_true (hlate t hup), Bool.and_true, if_true, ok]

/-- What a burst in reception does with a preamble of peak `peak` and the verdict on its header (R470). -/
def burstBegun (port peak : Nat) (header : Option Bool) (frames : List RxFrame) (s : State) : State :=
  match header with
  | none => s.modSpur port fun x => { x with peak := some peak }
  | some true => blockIn port true frames (s.modSpur port fun x => { x with peak := none })
  | some false => (s.modSpur port fun x => { x with peak := none }).count (R.SPUR_CNT_FALSE_PRE port) 1

/-- A preamble begins a burst, takes the place of a waiting one 3.0 dB below it, or is the waiting one whose header has
come; any other is passed over (R470). -/
theorem exec_burstPreambleReceive {port peak : Nat} {header : Option Bool} {frames : List RxFrame} {s : State}
    (hstep : inStep s port 8 = true) (hburst : s.flag (R.SPUR_STAT port) 26 = true) :
    exec (.burstPreambleReceive port peak header frames) s = .next (match (s.spurPort port).peak with
      | none => burstBegun port peak header frames s
      | some p =>
        if p + 30 ≤ peak then burstBegun port peak header frames (s.count (R.SPUR_CNT_FALSE_PRE port) 1)
        else if p == peak && header.isSome then burstBegun port peak header frames s else s) := by
  show execBurstPreambleReceive port peak header frames s = _
  unfold execBurstPreambleReceive
  simp only [hstep, hburst, Bool.and_self, Bool.not_true, Bool.false_eq_true, if_false, ok]
  cases (s.spurPort port).peak with
  | none => rfl
  | some p => dsimp only; split <;> [rfl; (split <;> rfl)]

/-- Settles O45: each event meets the guard of its step, and does its work. -/
theorem spurPorts : Obligations.SpurPorts := by
  unfold Obligations.SpurPorts
  intro port fault atten dist t1 t4 ret asym ru carrier peak code ppm snr far good frames s x
  refine ⟨fun h => ?farEnd, fun h => ?echo, fun h hlo hhi => ?equaliser, fun h => ?rung, fun h => ?lock, fun h hn => ?data,
    fun n hen hlim hlate => ?timeout, fun h => ?badBlocks, fun h hsnr => ?lowSnr,
    fun r h hcfg hr hmax hsnr hlate => exec_upshift_faster h hcfg hr hmax hsnr hlate,
    fun h => ?block, fun h => ?timing, fun hinst hsince => ?frame, fun h hcfg hno hidle => ?enter,
    fun h hburst hdue => ?send, fun h hburst => ?preamble, fun hen hstill => ?energy, fun hen hstill hlisten => ?pattern⟩
  case farEnd => exact if_pos (by simpa using h)
  case echo => exact if_pos h
  case equaliser => exact (if_pos h).trans (if_pos ⟨hlo, hhi⟩)
  case rung => exact if_pos h
  case lock => exact if_pos h
  case data => exact if_pos (by simpa [h] using hn)
  case timeout =>
    show execSpurStepTimeout port s = _
    simp only [execSpurStepTimeout, hen, hlim, Bool.not_true, Bool.false_eq_true, if_false]
    exact if_pos hlate
  case badBlocks => exact if_pos (by simp [h])
  case lowSnr => exact if_pos (by simp [h, hsnr])
  case block => exact if_pos h
  case timing => exact if_pos (by simpa using h)
  case frame => exact if_pos (by simp [hinst, hsince])
  case enter => exact if_pos (by simpa [h, hcfg, hno] using hidle)
  case send => exact if_pos (by simpa [h, hburst] using hdue)
  case preamble =>
    intro begins header
    refine ⟨fun hnone => ?first, fun p hp hle => ?stronger, fun hp hheader => ?same, fun p hp hlt hother => ?passed⟩
    case first => exact (exec_burstPreambleReceive h hburst).trans (by rw [hnone]; rfl)
    case stronger => exact (exec_burstPreambleReceive h hburst).trans (by rw [hp]; exact congrArg _ (if_pos hle))
    case same =>
      have hsome : (peak == peak && header.isSome) = true := by simpa [Option.isSome_iff_ne_none] using hheader
      refine (exec_burstPreambleReceive h hburst).trans ?_
      rw [hp]
      exact congrArg _ ((if_neg (by omega)).trans (if_pos hsome))
    case passed =>
      have hno : ¬ (p == peak && header.isSome) = true := by
        simpa [Option.isSome_iff_ne_none, imp_iff_not_or] using hother
      rw [exec_burstPreambleReceive h hburst, hp]
      simp only [if_neg (Nat.not_le.mpr hlt), if_neg hno]
  case energy =>
    have hgo : ¬ (!(spurEn s port && s.flag (R.SPUR_STAT port) 24)) = true := by simp [hen, hstill]
    exact ⟨fun hno => (if_neg hgo).trans (congrArg _ (if_neg (by simpa using hno))),
      fun hyes => (if_neg hgo).trans (congrArg _ (if_pos hyes))⟩
  case pattern =>
    have hgo : ¬ (!(spurEn s port && s.flag (R.SPUR_STAT port) 24 && (s.spurPort port).listening)) = true := by
      simpa [hen, hstill] using hlisten
    exact ⟨fun hyes => (if_neg hgo).trans (if_pos (by simpa using hyes)),
      fun hno hcode => (if_neg hgo).trans (if_neg (by simp [hno, hcode]))⟩

end Sys2Proof.Machine
end

section
/-! SUPPORT. Every command, and with it every step, keeps what `Keeps` says; with them O57. -/

namespace Sys2Proof.Machine

/-- Every command answers a next state that keeps what it must: each constructor by the law of its own meaning. -/
theorem exec_keeps (c : Instr) (s : State) : KOut s (exec c s) :=
  match c with
  | .add_ .. => execAdd__keeps (.refl s) | .sub_ .. => execSub__keeps (.refl s) | .and_ .. => execAnd__keeps (.refl s)
  | .or_ .. => execOr__keeps (.refl s) | .xor_ .. => execXor__keeps (.refl s) | .andn .. => execAndn_keeps (.refl s)
  | .shl .. => execShl_keeps (.refl s) | .shr .. => execShr_keeps (.refl s) | .sar .. => execSar_keeps (.refl s)
  | .ror .. => execRor_keeps (.refl s) | .div_ .. => execDiv__keeps (.refl s) | .divu .. => execDivu_keeps (.refl s)
  | .neg .. => execNeg_keeps (.refl s) | .abs_ .. => execAbs__keeps (.refl s) | .shli .. => execShli_keeps (.refl s)
  | .shri .. => execShri_keeps (.refl s) | .sari .. => execSari_keeps (.refl s) | .rori .. => execRori_keeps (.refl s)
  | .clz .. => execClz_keeps (.refl s) | .popc .. => execPopc_keeps (.refl s) | .brev .. => execBrev_keeps (.refl s)
  | .mul .. => execMul_keeps (.refl s) | .mulh .. => execMulh_keeps (.refl s) | .mulhu .. => execMulhu_keeps (.refl s)
  | .adds .. => execAdds_keeps (.refl s) | .subs .. => execSubs_keeps (.refl s) | .min_ .. => execMin__keeps (.refl s)
  | .max_ .. => execMax__keeps (.refl s) | .minu .. => execMinu_keeps (.refl s) | .maxu .. => execMaxu_keeps (.refl s)
  | .sel .. => execSel_keeps (.refl s) | .cmp .. => execCmp_keeps (.refl s) | .tst .. => execTst_keeps (.refl s)
  | .movx .. => execMovx_keeps (.refl s) | .addi .. => execAddi_keeps (.refl s) | .andi .. => execAndi_keeps (.refl s)
  | .ori .. => execOri_keeps (.refl s) | .xori .. => execXori_keeps (.refl s) | .movhi .. => execMovhi_keeps (.refl s)
  | .cmpi .. => execCmpi_keeps (.refl s) | .aaddi .. => execAaddi_keeps (.refl s)
  | .longPrefix .. => execLongPrefix_keeps (.refl s) | .ld .. => execLd_keeps (.refl s) | .st .. => execSt_keeps (.refl s)
  | .lda .. => execLda_keeps (.refl s) | .sta .. => execSta_keeps (.refl s) | .ldxy .. => execLdxy_keeps (.refl s)
  | .vld .. => execVld_keeps (.refl s) | .vst .. => execVst_keeps (.refl s)
  | .loadDataReturn .. => execLoadDataReturn_keeps (.refl s) | .runaheadEnter .. => execRunaheadEnter_keeps (.refl s)
  | .runaheadExit .. => execRunaheadExit_keeps (.refl s) | .postedStoreAck .. => execPostedStoreAck_keeps (.refl s)
  | .cmac .. => execCmac_keeps (.refl s) | .cmacj .. => execCmacj_keeps (.refl s) | .cmsu .. => execCmsu_keeps (.refl s)
  | .cmul .. => execCmul_keeps (.refl s) | .fir4 .. => execFir4_keeps (.refl s) | .staccC .. => execStaccC_keeps (.refl s)
  | .staccRe .. => execStaccRe_keeps (.refl s) | .staccIm .. => execStaccIm_keeps (.refl s)
  | .staccCz .. => execStaccCz_keeps (.refl s) | .accclr .. => execAccclr_keeps (.refl s)
  | .accld .. => execAccld_keeps (.refl s) | .accadd .. => execAccadd_keeps (.refl s)
  | .bCond .. => execBCond_keeps (.refl s) | .call .. => execCall_keeps (.refl s) | .jr .. => execJr_keeps (.refl s)
  | .jalr .. => execJalr_keeps (.refl s) | .ret .. => execRet_keeps (.refl s) | .rep .. => execRep_keeps (.refl s)
  | .dbnz .. => execDbnz_keeps (.refl s) | .movc .. => execMovc_keeps (.refl s) | .nop .. => execNop_keeps (.refl s)
  | .tend .. => execTend_keeps (.refl s) | .break_ .. => execBreak__keeps (.refl s) | .rte .. => execRte_keeps (.refl s)
  | .fence .. => execFence_keeps (.refl s) | .wait .. => execWait_keeps (.refl s)
  | .dcinvall .. => execDcinvall_keeps (.refl s) | .icinv .. => execIcinv_keeps (.refl s)
  | .tterm .. => execTterm_keeps (.refl s) | .trap .. => execTrap_keeps (.refl s) | .dcinv .. => execDcinv_keeps (.refl s)
  | .tendComplete .. => execTendComplete_keeps (.refl s) | .illegal .. => execIllegal_keeps (.refl s)
  | .asyncException .. => execAsyncException_keeps (.refl s) | .coreTimer .. => execCoreTimer_keeps (.refl s)
  | .coreWaitTimeout .. => execCoreWaitTimeout_keeps (.refl s) | .deadlineHard .. => execDeadlineHard_keeps (.refl s)
  | .vadd .. => execVadd_keeps (.refl s) | .vsub .. => execVsub_keeps (.refl s) | .vavg .. => execVavg_keeps (.refl s)
  | .vmin .. => execVmin_keeps (.refl s) | .vmax .. => execVmax_keeps (.refl s) | .vand .. => execVand_keeps (.refl s)
  | .vor .. => execVor_keeps (.refl s) | .vxor .. => execVxor_keeps (.refl s) | .vandn .. => execVandn_keeps (.refl s)
  | .vcmpeq .. => execVcmpeq_keeps (.refl s) | .vcmplt .. => execVcmplt_keeps (.refl s)
  | .vsel .. => execVsel_keeps (.refl s) | .vmul .. => execVmul_keeps (.refl s) | .vmulhr .. => execVmulhr_keeps (.refl s)
  | .vcmul .. => execVcmul_keeps (.refl s) | .vcmulj .. => execVcmulj_keeps (.refl s)
  | .vmacw .. => execVmacw_keeps (.refl s) | .vmsuw .. => execVmsuw_keeps (.refl s)
  | .vcmacw .. => execVcmacw_keeps (.refl s) | .vcmacjw .. => execVcmacjw_keeps (.refl s)
  | .vcmsuw .. => execVcmsuw_keeps (.refl s) | .vcmacws .. => execVcmacws_keeps (.refl s)
  | .vneg .. => execVneg_keeps (.refl s) | .vabs .. => execVabs_keeps (.refl s) | .vconj .. => execVconj_keeps (.refl s)
  | .vrotj .. => execVrotj_keeps (.refl s) | .vrsumw .. => execVrsumw_keeps (.refl s)
  | .vshli .. => execVshli_keeps (.refl s) | .vsari .. => execVsari_keeps (.refl s) | .vshri .. => execVshri_keeps (.refl s)
  | .vnarrow .. => execVnarrow_keeps (.refl s) | .vwiden .. => execVwiden_keeps (.refl s)
  | .vdup .. => execVdup_keeps (.refl s) | .vext .. => execVext_keeps (.refl s) | .vpermx .. => execVpermx_keeps (.refl s)
  | .vrev .. => execVrev_keeps (.refl s) | .vmovg .. => execVmovg_keeps (.refl s) | .vins .. => execVins_keeps (.refl s)
  | .vfadd .. => execVfadd_keeps (.refl s) | .vfsub .. => execVfsub_keeps (.refl s) | .vfmul .. => execVfmul_keeps (.refl s)
  | .vfma .. => execVfma_keeps (.refl s) | .vfmin .. => execVfmin_keeps (.refl s) | .vfmax .. => execVfmax_keeps (.refl s)
  | .vfnarrow .. => execVfnarrow_keeps (.refl s) | .vfwiden .. => execVfwiden_keeps (.refl s)
  | .vfcvti .. => execVfcvti_keeps (.refl s) | .vfcvtf .. => execVfcvtf_keeps (.refl s)
  | .fadd .. => execFadd_keeps (.refl s) | .fsub .. => execFsub_keeps (.refl s) | .fmul .. => execFmul_keeps (.refl s)
  | .fma .. => execFma_keeps (.refl s) | .fdiv .. => execFdiv_keeps (.refl s) | .fmin .. => execFmin_keeps (.refl s)
  | .fmax .. => execFmax_keeps (.refl s) | .fsqrt .. => execFsqrt_keeps (.refl s) | .fcvt .. => execFcvt_keeps (.refl s)
  | .fcvti .. => execFcvti_keeps (.refl s) | .fcvtf .. => execFcvtf_keeps (.refl s) | .fmovg .. => execFmovg_keeps (.refl s)
  | .fmovf .. => execFmovf_keeps (.refl s) | .fcmpg .. => execFcmpg_keeps (.refl s)
  | .vgather .. => execVgather_keeps (.refl s) | .vscatter .. => execVscatter_keeps (.refl s)
  | .mbxNoticeRetry .. => execMbxNoticeRetry_keeps (.refl s) | .cqtest .. => execCqtest_keeps (.refl s)
  | .cqstat .. => execCqstat_keeps (.refl s) | .accJob .. => execAccJob_keeps (.refl s)
  | .helper .. => execHelper_keeps (.refl s) | .qPush .. => execQPush_keeps (.refl s) | .qPop .. => execQPop_keeps (.refl s)
  | .jobAbort .. => execJobAbort_keeps (.refl s) | .commit .. => execCommit_keeps (.refl s)
  | .cancel .. => execCancel_keeps (.refl s) | .cancelAck .. => execCancelAck_keeps (.refl s)
  | .cqResultArrive .. => execCqResultArrive_keeps (.refl s) | .accCqArrive .. => execAccCqArrive_keeps (.refl s)
  | .accJobStart .. => execAccJobStart_keeps (.refl s) | .accJobComplete .. => execAccJobComplete_keeps (.refl s)
  | .accWatchdog .. => execAccWatchdog_keeps (.refl s) | .accAbort .. => execAccAbort_keeps (.refl s)
  | .cmatmul .. => execCmatmul_keeps (.refl s) | .cmatmulh .. => execCmatmulh_keeps (.refl s)
  | .cgram .. => execCgram_keeps (.refl s) | .ccholsolve .. => execCcholsolve_keeps (.refl s)
  | .fftFwd .. => execFftFwd_keeps (.refl s) | .fftInv .. => execFftInv_keeps (.refl s)
  | .feedcorr .. => execFeedcorr_keeps (.refl s) | .chest .. => execChest_keeps (.refl s)
  | .combine .. => execCombine_keeps (.refl s) | .detect .. => execDetect_keeps (.refl s)
  | .demap .. => execDemap_keeps (.refl s) | .precode .. => execPrecode_keeps (.refl s)
  | .ldpcDec .. => execLdpcDec_keeps (.refl s) | .ldpcEnc .. => execLdpcEnc_keeps (.refl s)
  | .polarDec .. => execPolarDec_keeps (.refl s) | .polarEnc .. => execPolarEnc_keeps (.refl s)
  | .turboDec .. => execTurboDec_keeps (.refl s) | .turboEnc .. => execTurboEnc_keeps (.refl s)
  | .convDec .. => execConvDec_keeps (.refl s) | .convEnc .. => execConvEnc_keeps (.refl s)
  | .gmskMlse .. => execGmskMlse_keeps (.refl s) | .gmskMod .. => execGmskMod_keeps (.refl s)
  | .prachSearch .. => execPrachSearch_keeps (.refl s) | .rachSearch .. => execRachSearch_keeps (.refl s)
  | .prachWindowClose .. => execPrachWindowClose_keeps (.refl s) | .reg64LowRead .. => execReg64LowRead_keeps (.refl s)
  | .reg64LowWrite .. => execReg64LowWrite_keeps (.refl s) | .reg64HighWrite .. => execReg64HighWrite_keeps (.refl s)
  | .cpWrite .. => execCpWrite_keeps (.refl s) | .cpPairTimeout .. => execCpPairTimeout_keeps (.refl s)
  | .rcRead .. => execRcRead_keeps (.refl s) | .registerWrite .. => execRegisterWrite_keeps (.refl s)
  | .corridorSetCreate .. => execCorridorSetCreate_keeps (.refl s)
  | .corridorSetModify .. => execCorridorSetModify_keeps (.refl s)
  | .corridorSetDelete .. => execCorridorSetDelete_keeps (.refl s) | .ruSet .. => execRuSet_keeps (.refl s)
  | .ruRemove .. => execRuRemove_keeps (.refl s) | .carrierSet .. => execCarrierSet_keeps (.refl s)
  | .carrierRemove .. => execCarrierRemove_keeps (.refl s) | .carrierInstSetTxEn .. => execCarrierInstSetTxEn_keeps (.refl s)
  | .carrierInstSetPwrLimit .. => execCarrierInstSetPwrLimit_keeps (.refl s)
  | .carrierInstSetCompw .. => execCarrierInstSetCompw_keeps (.refl s)
  | .carrierInstSetPortmaskLo .. => execCarrierInstSetPortmaskLo_keeps (.refl s)
  | .carrierInstSetPortmaskHi .. => execCarrierInstSetPortmaskHi_keeps (.refl s)
  | .staticCellSetGroup .. => execStaticCellSetGroup_keeps (.refl s)
  | .staticCellSetUngroup .. => execStaticCellSetUngroup_keeps (.refl s)
  | .stationCellSet .. => execStationCellSet_keeps (.refl s)
  | .stationCellSetDelete .. => execStationCellSetDelete_keeps (.refl s) | .peerSet .. => execPeerSet_keeps (.refl s)
  | .peerSetClear .. => execPeerSetClear_keeps (.refl s) | .configRead .. => execConfigRead_keeps (.refl s)
  | .settingEffect .. => execSettingEffect_keeps (.refl s)
  | .compressionWidthLower .. => execCompressionWidthLower_keeps (.refl s)
  | .carrierInstanceSuspend .. => execCarrierInstanceSuspend_keeps (.refl s)
  | .netConfigSetPortAddr .. => execNetConfigSetPortAddr_keeps (.refl s)
  | .netConfigSetPortGw .. => execNetConfigSetPortGw_keeps (.refl s)
  | .netConfigSetPortVlan .. => execNetConfigSetPortVlan_keeps (.refl s)
  | .netConfigSetPortMode .. => execNetConfigSetPortMode_keeps (.refl s)
  | .netConfigSetLaneTx .. => execNetConfigSetLaneTx_keeps (.refl s)
  | .netConfigSetBhEgress .. => execNetConfigSetBhEgress_keeps (.refl s)
  | .netConfigSetBhIngress .. => execNetConfigSetBhIngress_keeps (.refl s)
  | .netConfigSetSpur .. => execNetConfigSetSpur_keeps (.refl s)
  | .netConfigSetWake .. => execNetConfigSetWake_keeps (.refl s)
  | .netConfigSetParisonRu .. => execNetConfigSetParisonRu_keeps (.refl s)
  | .sessionHello .. => execSessionHello_keeps (.refl s) | .sessionConfirm .. => execSessionConfirm_keeps (.refl s)
  | .sessionClose .. => execSessionClose_keeps (.refl s) | .keepalive .. => execKeepalive_keeps (.refl s)
  | .sessionPendingTimeout .. => execSessionPendingTimeout_keeps (.refl s)
  | .sessionIdleTimeout .. => execSessionIdleTimeout_keeps (.refl s) | .opAbort .. => execOpAbort_keeps (.refl s)
  | .eventFetch .. => execEventFetch_keeps (.refl s) | .semAcquire .. => execSemAcquire_keeps (.refl s)
  | .semRenew .. => execSemRenew_keeps (.refl s) | .semRelease .. => execSemRelease_keeps (.refl s)
  | .semQuery .. => execSemQuery_keeps (.refl s) | .semBreak .. => execSemBreak_keeps (.refl s)
  | .leaseExpired .. => execLeaseExpired_keeps (.refl s) | .devInfo .. => execDevInfo_keeps (.refl s)
  | .countersRead .. => execCountersRead_keeps (.refl s) | .counterTotalPoll => execCounterTotalPoll_keeps (.refl s)
  | .mbxAlloc .. => execMbxAlloc_keeps (.refl s) | .mbxSubmit .. => execMbxSubmit_keeps (.refl s)
  | .mbxAbort .. => execMbxAbort_keeps (.refl s) | .mbxFree .. => execMbxFree_keeps (.refl s)
  | .mbxComplete .. => execMbxComplete_keeps (.refl s) | .reservedOpcode .. => execReservedOpcode_keeps (.refl s)
  | .ethFrameReceive .. => execEthFrameReceive_keeps (.refl s) | .rxWindowClose .. => execRxWindowClose_keeps (.refl s)
  | .fhDelayMeasure .. => execFhDelayMeasure_keeps (.refl s) | .runBoundary .. => execRunBoundary_keeps (.refl s)
  | .seekTimeout .. => execSeekTimeout_keeps (.refl s) | .coastEnter .. => execCoastEnter_keeps (.refl s)
  | .coastLimitExpiry .. => execCoastLimitExpiry_keeps (.refl s) | .loopSatSet .. => execLoopSatSet_keeps (.refl s)
  | .loopSatClear .. => execLoopSatClear_keeps (.refl s) | .runPosition .. => execRunPosition_keeps (.refl s)
  | .runCreate .. => execRunCreate_keeps (.refl s) | .runEnd .. => execRunEnd_keeps (.refl s)
  | .runRead .. => execRunRead_keeps (.refl s) | .runExport .. => execRunExport_keeps (.refl s)
  | .gafferPairRewrite .. => execGafferPairRewrite_keeps (.refl s) | .peerHello .. => execPeerHello_keeps (.refl s)
  | .peerHelloResponse .. => execPeerHelloResponse_keeps (.refl s) | .peerConfirm .. => execPeerConfirm_keeps (.refl s)
  | .peerConfirmResponse .. => execPeerConfirmResponse_keeps (.refl s)
  | .peerKeepalive .. => execPeerKeepalive_keeps (.refl s) | .peerKeepaliveSend .. => execPeerKeepaliveSend_keeps (.refl s)
  | .peerSessionTimeout .. => execPeerSessionTimeout_keeps (.refl s)
  | .peerSessionReopen .. => execPeerSessionReopen_keeps (.refl s) | .runL2Data .. => execRunL2Data_keeps (.refl s)
  | .exportL2WaitExpiry .. => execExportL2WaitExpiry_keeps (.refl s) | .runImport .. => execRunImport_keeps (.refl s)
  | .runBlob _ n .. => execRunBlob_keeps (run := n) (.refl s) | .runDelta _ n .. => execRunDelta_keeps (run := n) (.refl s)
  | .exportReplyReceive .. => execExportReplyReceive_keeps (.refl s)
  | .handoverTimeout .. => execHandoverTimeout_keeps (.refl s) | .handoverRetry .. => execHandoverRetry_keeps (.refl s)
  | .queuePush .. => execQueuePush_keeps (.refl s) | .queuePop r .. => execQueuePop_keeps (r := r) (.refl s)
  | .heldPushAccept .. => execHeldPushAccept_keeps (.refl s) | .queueEnable .. => execQueueEnable_keeps (.refl s)
  | .dispatch .. => execDispatch_keeps (.refl s) | .contextPrefetchDone .. => execContextPrefetchDone_keeps (.refl s)
  | .taskEndReport .. => execTaskEndReport_keeps (.refl s) | .catchupSpanClose .. => execCatchupSpanClose_keeps (.refl s)
  | .crumbCtrl .. => execCrumbCtrl_keeps (.refl s) | .crumbStreamSend .. => execCrumbStreamSend_keeps (.refl s)
  | .pauseFrameRepeat .. => execPauseFrameRepeat_keeps (.refl s) | .coreTaskStart .. => execCoreTaskStart_keeps (.refl s)
  | .ring .. => execRing_keeps (.refl s) | .abort .. => execAbort_keeps (.refl s) | .resume .. => execResume_keeps (.refl s)
  | .reset .. => execReset_keeps (.refl s) | .dmaFetch .. => execDmaFetch_keeps (.refl s)
  | .end_ .. => execEnd__keeps (.refl s) | .move .. => execMove_keeps (.refl s) | .loop .. => execLoop_keeps (.refl s)
  | .dmaWait .. => execDmaWait_keeps (.refl s) | .signalEvent .. => execSignalEvent_keeps (.refl s)
  | .signalQpush .. => execSignalQpush_keeps (.refl s) | .signalInterrupt .. => execSignalInterrupt_keeps (.refl s)
  | .jump .. => execJump_keeps (.refl s) | .set .. => execSet_keeps (.refl s) | .dmaNop .. => execDmaNop_keeps (.refl s)
  | .dmaRequestComplete .. => execDmaRequestComplete_keeps (.refl s) | .dmaHalt .. => execDmaHalt_keeps (.refl s)
  | .dmaWaitSatisfied .. => execDmaWaitSatisfied_keeps (.refl s) | .dmaWaitTimeout .. => execDmaWaitTimeout_keeps (.refl s)
  | .qemptyRetry .. => execQemptyRetry_keeps (.refl s) | .streamGateMessage .. => execStreamGateMessage_keeps (.refl s)
  | .dmaEvtSet .. => execDmaEvtSet_keeps (.refl s) | .nocRead .. => execNocRead_keeps (.refl s)
  | .nocWrite .. => execNocWrite_keeps (.refl s) | .nocMessage .. => execNocMessage_keeps (.refl s)
  | .nocResponse .. => execNocResponse_keeps (.refl s) | .nocReturn .. => execNocReturn_keeps (.refl s)
  | .linkCrcReplay .. => execLinkCrcReplay_keeps (.refl s) | .linkFail .. => execLinkFail_keeps (.refl s)
  | .correctedWriteback .. => execCorrectedWriteback_keeps (.refl s) | .ueReport => execUeReport_keeps (.refl s)
  | .scrubPass .. => execScrubPass_keeps (.refl s) | .scrubLate .. => execScrubLate_keeps (.refl s)
  | .clogHarvest .. => execClogHarvest_keeps (.refl s) | .errInject .. => execErrInject_keeps (.refl s)
  | .eccClr .. => execEccClr_keeps (.refl s) | .memcClr .. => execMemcClr_keeps (.refl s)
  | .signalDetect .. => execSignalDetect_keeps (.refl s) | .cdrLock .. => execCdrLock_keeps (.refl s)
  | .polarityCorrect .. => execPolarityCorrect_keeps (.refl s) | .laneReversal .. => execLaneReversal_keeps (.refl s)
  | .deskew .. => execDeskew_keeps (.refl s) | .fecLock .. => execFecLock_keeps (.refl s)
  | .linkUp .. => execLinkUp_keeps (.refl s) | .bringupStepTimeout .. => execBringupStepTimeout_keeps (.refl s)
  | .linkDown .. => execLinkDown_keeps (.refl s) | .adaptationStep .. => execAdaptationStep_keeps (.refl s)
  | .marginLow .. => execMarginLow_keeps (.refl s) | .prbsLock .. => execPrbsLock_keeps (.refl s)
  | .prbsLockLoss .. => execPrbsLockLoss_keeps (.refl s) | .prbsCounterClear .. => execPrbsCounterClear_keeps (.refl s)
  | .laneTestStop .. => execLaneTestStop_keeps (.refl s) | .laneTestGenerate .. => execLaneTestGenerate_keeps (.refl s)
  | .laneTestCheck .. => execLaneTestCheck_keeps (.refl s)
  | .laneTestGenerateCheck .. => execLaneTestGenerateCheck_keeps (.refl s)
  | .laneTestLoopback .. => execLaneTestLoopback_keeps (.refl s)
  | .laneTestDurationEnd .. => execLaneTestDurationEnd_keeps (.refl s)
  | .egressCalendarPop .. => execEgressCalendarPop_keeps (.refl s) | .transmitStart .. => execTransmitStart_keeps (.refl s)
  | .timedLaunch .. => execTimedLaunch_keeps (.refl s) | .frameTransmitEnd .. => execFrameTransmitEnd_keeps (.refl s)
  | .pauseExpire .. => execPauseExpire_keeps (.refl s) | .telemetryWindowEnd .. => execTelemetryWindowEnd_keeps (.refl s)
  | .wfqTelemetryCollect .. => execWfqTelemetryCollect_keeps (.refl s)
  | .ptpMessageReceive .. => execPtpMessageReceive_keeps (.refl s) | .ptpSyncSend .. => execPtpSyncSend_keeps (.refl s)
  | .referenceQualify => execReferenceQualify_keeps (.refl s) | .referenceLost => execReferenceLost_keeps (.refl s)
  | .servoLock => execServoLock_keeps (.refl s) | .timeStep => execTimeStep_keeps (.refl s)
  | .timeReacquire .. => execTimeReacquire_keeps (.refl s)
  | .timeReacquireTimeout => execTimeReacquireTimeout_keeps (.refl s) | .timeRead .. => execTimeRead_keeps (.refl s)
  | .timeConfigProfile .. => execTimeConfigProfile_keeps (.refl s)
  | .timeConfigDomain .. => execTimeConfigDomain_keeps (.refl s) | .timeConfigRole .. => execTimeConfigRole_keeps (.refl s)
  | .timeConfigJumpLimit .. => execTimeConfigJumpLimit_keeps (.refl s)
  | .timeConfigAsym .. => execTimeConfigAsym_keeps (.refl s) | .timeConfigLprio .. => execTimeConfigLprio_keeps (.refl s)
  | .timeConfigServoBw .. => execTimeConfigServoBw_keeps (.refl s)
  | .timeConfigSlewMax .. => execTimeConfigSlewMax_keeps (.refl s)
  | .timeConfigSyncePrio .. => execTimeConfigSyncePrio_keeps (.refl s)
  | .timeConfigHoldover .. => execTimeConfigHoldover_keeps (.refl s)
  | .timeConfigGmTod .. => execTimeConfigGmTod_keeps (.refl s) | .timeConfigPpsOut .. => execTimeConfigPpsOut_keeps (.refl s)
  | .ppsInEdge .. => execPpsInEdge_keeps (.refl s) | .ppsInMiss => execPpsInMiss_keeps (.refl s)
  | .timeEventFire .. => execTimeEventFire_keeps (.refl s) | .holdoverRamp => execHoldoverRamp_keeps (.refl s)
  | .ocxoSteeringUpdate .. => execOcxoSteeringUpdate_keeps (.refl s)
  | .spineDelayMeasure .. => execSpineDelayMeasure_keeps (.refl s) | .synceSelect .. => execSynceSelect_keeps (.refl s)
  | .synceWaitToRestore .. => execSynceWaitToRestore_keeps (.refl s)
  | .spurFarEndEnergy .. => execSpurFarEndEnergy_keeps (.refl s) | .spurEchoTrained .. => execSpurEchoTrained_keeps (.refl s)
  | .spurEqualiserTrained .. => execSpurEqualiserTrained_keeps (.refl s)
  | .spurRungAgreed .. => execSpurRungAgreed_keeps (.refl s) | .spurBlockLock .. => execSpurBlockLock_keeps (.refl s)
  | .spurDataMode .. => execSpurDataMode_keeps (.refl s) | .spurStepTimeout .. => execSpurStepTimeout_keeps (.refl s)
  | .fastRetrain .. => execFastRetrain_keeps (.refl s) | .upshift .. => execUpshift_keeps (.refl s)
  | .spurBlockReceive .. => execSpurBlockReceive_keeps (.refl s) | .timingBlock .. => execTimingBlock_keeps (.refl s)
  | .burstModeEnter .. => execBurstModeEnter_keeps (.refl s) | .burstSend .. => execBurstSend_keeps (.refl s)
  | .burstPreambleReceive .. => execBurstPreambleReceive_keeps (.refl s)
  | .spurEnergyDetect .. => execSpurEnergyDetect_keeps (.refl s) | .spurWakePattern .. => execSpurWakePattern_keeps (.refl s)
  | .frameBoundary .. => execFrameBoundary_keeps (.refl s) | .fabLoad .. => execFabLoad_keeps (.refl s)
  | .fabUnload .. => execFabUnload_keeps (.refl s) | .fabRearm .. => execFabRearm_keeps (.refl s)
  | .fabImageVerify .. => execFabImageVerify_keeps (.refl s) | .fabDrainEnd .. => execFabDrainEnd_keeps (.refl s)
  | .fabGsrRelease .. => execFabGsrRelease_keeps (.refl s) | .fabStatus .. => execFabStatus_keeps (.refl s)
  | .longLineContention .. => execLongLineContention_keeps (.refl s) | .qcWrite .. => execQcWrite_keeps (.refl s)
  | .qcRead .. => execQcRead_keeps (.refl s) | .qcPush .. => execQcPush_keeps (.refl s)
  | .pushRetry .. => execPushRetry_keeps (.refl s) | .qcPop .. => execQcPop_keeps (.refl s)
  | .qcPopRetry .. => execQcPopRetry_keeps (.refl s) | .fabTargetRequest .. => execFabTargetRequest_keeps (.refl s)
  | .fabTargetTimeout .. => execFabTargetTimeout_keeps (.refl s) | .fabTargetAnswer .. => execFabTargetAnswer_keeps (.refl s)
  | .fabInitiatorRequest _ port1 .. => execFabInitiatorRequest_keeps (port1 := port1) (.refl s)
  | .bramPortAccess .. => execBramPortAccess_keeps (.refl s)
  | .powerStateSetActive .. => execPowerStateSetActive_keeps (.refl s)
  | .powerStateSetLull .. => execPowerStateSetLull_keeps (.refl s)
  | .powerStateSetStill .. => execPowerStateSetStill_keeps (.refl s)
  | .powerStateSetPmbus .. => execPowerStateSetPmbus_keeps (.refl s) | .stillPhaseB => execStillPhaseB_keeps (.refl s)
  | .settleTimeout => execSettleTimeout_keeps (.refl s) | .islandSleepEnter .. => execIslandSleepEnter_keeps (.refl s)
  | .tileIdleSleep .. => execTileIdleSleep_keeps (.refl s) | .scrubWake .. => execScrubWake_keeps (.refl s)
  | .tileStart => execTileStart_keeps (.refl s) | .ivrReady .. => execIvrReady_keeps (.refl s)
  | .oscReady .. => execOscReady_keeps (.refl s) | .memReady .. => execMemReady_keeps (.refl s)
  | .logicReady .. => execLogicReady_keeps (.refl s) | .wakeStepTimeout .. => execWakeStepTimeout_keeps (.refl s)
  | .alarmSet .. => execAlarmSet_keeps (.refl s) | .alarmFire => execAlarmFire_keeps (.refl s)
  | .mgtEnergyWake .. => execMgtEnergyWake_keeps (.refl s) | .mgtWakeFrame .. => execMgtWakeFrame_keeps (.refl s)
  | .supplyWarning .. => execSupplyWarning_keeps (.refl s) | .supplyLow => execSupplyLow_keeps (.refl s)
  | .supplyRecovery .. => execSupplyRecovery_keeps (.refl s) | .supplyReset .. => execSupplyReset_keeps (.refl s)
  | .throttleStep .. => execThrottleStep_keeps (.refl s) | .avsUpdate .. => execAvsUpdate_keeps (.refl s)
  | .pmbusPoll .. => execPmbusPoll_keeps (.refl s) | .pmbusAlert .. => execPmbusAlert_keeps (.refl s)
  | .pmbusAbsentPoll .. => execPmbusAbsentPoll_keeps (.refl s) | .pmbusTrim .. => execPmbusTrim_keeps (.refl s)
  | .powerStatus .. => execPowerStatus_keeps (.refl s)
  | .retentionMonitorLatch .. => execRetentionMonitorLatch_keeps (.refl s)
  | .clockStretch .. => execClockStretch_keeps (.refl s) | .porstN .. => execPorstN_keeps (.refl s)
  | .powerOnReset .. => execPowerOnReset_keeps (.refl s) | .hbmTraining .. => execHbmTraining_keeps (.refl s)
  | .parisonTimeCondition => execParisonTimeCondition_keeps (.refl s) | .imageLoad .. => execImageLoad_keeps (.refl s)
  | .taskStart .. => execTaskStart_keeps (.refl s) | .taskStop .. => execTaskStop_keeps (.refl s)
  | .imageStatus .. => execImageStatus_keeps (.refl s) | .attestQuote .. => execAttestQuote_keeps (.refl s)
  | .keyEnrolEnrol .. => execKeyEnrolEnrol_keeps (.refl s) | .keyEnrolRevoke .. => execKeyEnrolRevoke_keeps (.refl s)
  | .hostkeyEnrolEnrol .. => execHostkeyEnrolEnrol_keeps (.refl s)
  | .hostkeyEnrolRevoke .. => execHostkeyEnrolRevoke_keeps (.refl s) | .debugLock .. => execDebugLock_keeps (.refl s)
  | .debugBreak .. => execDebugBreak_keeps (.refl s) | .imageStage .. => execImageStage_keeps (.refl s)
  | .journalRead .. => execJournalRead_keeps (.refl s) | .journalRecord .. => execJournalRecord_keeps (.refl s)
  | .journalCopy .. => execJournalCopy_keeps (.refl s) | .staticLevelling .. => execStaticLevelling_keeps (.refl s)
  | .nandPatrol .. => execNandPatrol_keeps (.refl s) | .telemetryFrame .. => execTelemetryFrame_keeps (.refl s)
  | .telemetryRead .. => execTelemetryRead_keeps (.refl s) | .auxdacOffsetTrim .. => execAuxdacOffsetTrim_keeps (.refl s)
  | .softFuseUpkeep => execSoftFuseUpkeep_keeps (.refl s) | .lehrBudget .. => execLehrBudget_keeps (.refl s)
  | .lehrLag .. => execLehrLag_keeps (.refl s) | .dacCode .. => execDacCode_keeps (.refl s)
  | .dacCfg .. => execDacCfg_keeps (.refl s) | .dacLdN .. => execDacLdN_keeps (.refl s)
  | .dacClrN .. => execDacClrN_keeps (.refl s) | .dacClrNRelease => execDacClrNRelease_keeps (.refl s)
  | .vdacLow .. => execVdacLow_keeps (.refl s) | .dacCompliance .. => execDacCompliance_keeps (.refl s)
  | .thermtrip .. => execThermtrip_keeps (.refl s) | .wakeBusMessage .. => execWakeBusMessage_keeps (.refl s)

/-- A command keeps the invariant. -/
theorem exec_keeps_inv {c : Instr} {s t : State} (hexec : exec c s = .next t) (hinv : Inv s) : Inv t :=
  (Keeps.ofOut hexec (exec_keeps c s)).inv hinv

/-- A tick keeps the invariant. -/
theorem tick_keeps_inv {s : State} (hinv : Inv s) : Inv (tick s) := (tick_keeps (.refl s)).inv hinv

/-- Settles O57: a step is a tick or the command at the front, and the invariant does not look at the queue. -/
theorem everyStepKeepsTheInvariant : Obligations.EveryStepKeepsTheInvariant := by
  unfold Obligations.EveryStepKeepsTheInvariant
  intro s t hinv hstep
  unfold step at hstep
  split at hstep
  case h_1 =>
    cases hstep
    exact tick_keeps_inv hinv
  case h_2 c rest _ =>
    have hrest : Inv { s with pending := rest } := hinv
    exact exec_keeps_inv hstep hrest

end Sys2Proof.Machine
end

section
/-! SUPPORT. Settings commands (R77, R85 to R89): how one is taken, and how its mailbox goes through its list, and with them
O31. -/

namespace Sys2Proof.Machine

/-! ### How a settings command is taken -/

/-- A settings command is executed by `settings`, with its own opcode. -/
theorem exec_settingRequest {c : Instr} {opcode : Nat} {m : TcsMsg} {first : Setting} {rest : List Setting}
    (h : settingRequest c = some (opcode, m, first, rest)) (s : State) :
    exec c s = settings opcode m first rest s ∧ opcodeOf first = opcode := by
  unfold settingRequest at h
  split at h
  case h_39 => cases h
  all_goals
    cases h
    exact ⟨rfl, rfl⟩

/-- An accepted list of at most 64 settings of its opcode is held in its mailbox and gone through (R77, R87). -/
theorem settings_accepted {opcode : Nat} {m : TcsMsg} {first : Setting} {rest : List Setting} {s u : State}
    (hacc : Accepted { opcode := opcode } m (((first :: rest).map pairsIn).foldl (· + ·) 0) s u) (hlen : rest.length < 64)
    (hop : ∀ x ∈ first :: rest, opcodeOf x = opcode) :
    settings opcode m first rest s = .next (proceed (mbxKey m) (holdMbx u m opcode (first :: rest))) := by
  have hfits : ¬(64 < (first :: rest).length ∨ ((first :: rest).any fun x => opcodeOf x != opcode) = true) := by
    rintro (hlong | hother)
    · exact absurd hlong (Nat.not_lt.mpr hlen)
    · obtain ⟨x, hx, hne⟩ := List.any_eq_true.mp hother
      simp [hop x hx] at hne
  unfold settings
  dsimp only
  rw [show accept { opcode := opcode } m (((first :: rest).map pairsIn).foldl (· + ·) 0) s = .go u from hacc]
  exact if_neg hfits

/-! ### One step of a mailbox -/

/-- A mailbox goes on with one step more than its list is long. -/
theorem proceed_eq {key : Nat} {e : MbxExec} {s : State} (hbox : mget key s.tcs.mailboxes = some e) :
    proceed key s = processMbx (e.rest.length + 2) key s := by
  unfold proceed mbxFuel
  rw [hbox]

@[simp] theorem proceed_setMbx (s : State) (key : Nat) (e : MbxExec) :
    proceed key (setMbx s key e) = processMbx (e.rest.length + 2) key (setMbx s key e) :=
  proceed_eq (mget_setMbx_mailboxes s key e)

section Step
variable {key : Nat} {e : MbxExec} {st : Setting} {rest : List Setting} {s : State}
  (hbox : mget key s.tcs.mailboxes = some e) (hidle : e.waiting = none)
include hbox hidle

/-- A list that has ended is answered (R89). -/
theorem proceed_ended (hrest : e.rest = []) : proceed key s = finishSettings s key e := by
  have hgo : e.waiting.isSome = false := by rw [hidle]; rfl
  rw [proceed_eq hbox, processMbx]
  simp only [hbox, hgo, hrest, Bool.false_eq_true, if_false]

variable (hrest : e.rest = st :: rest)
include hrest

/-- A setting that is passed over reports why (R67, R88). -/
theorem proceed_skipped {x : Status} (hskip : skipped s e = some x) :
    proceed key s = proceed key (setMbx s key ({ e with rest := rest }.add x.code 0)) := by
  have hgo : e.waiting.isSome = false := by rw [hidle]; rfl
  have hskip' : skipped s { e with rest := rest } = some x := hskip
  rw [proceed_eq hbox, proceed_setMbx, hrest, processMbx]
  simp only [hbox, hgo, hrest, hskip', Bool.false_eq_true, if_false]
  rfl

variable (hskip : skipped s e = none)
include hskip

/-- A setting of a host's command that fails a check reports its status (R40). -/
theorem proceed_failed (hbad : checkSetting s key e.msg st ≠ .ok) (hkey : key ≠ ownKey) :
    proceed key s = proceed key (setMbx s key ({ e with rest := rest }.add (checkSetting s key e.msg st).code 0)) := by
  have hgo : e.waiting.isSome = false := by rw [hidle]; rfl
  have hskip' : skipped s { e with rest := rest } = none := hskip
  rw [proceed_eq hbox, proceed_setMbx, hrest, processMbx]
  simp only [hbox, hgo, hrest, hskip', Bool.false_eq_true, if_false, if_pos hbad, if_neg hkey]
  rfl

variable (hok : checkSetting s key e.msg st = .ok)
include hok

/-- A setting that passes and has no carrier takes effect and is recorded (R88). -/
theorem proceed_applied (hfree : carrierOf s st = none) :
    proceed key s =
      let w := settingRecord (applySetting s (key == ownKey) st) { e with rest := rest } st 0
      proceed key (setMbx w key ({ e with rest := rest }.add 0 w.devNs)) := by
  have hgo : e.waiting.isSome = false := by rw [hidle]; rfl
  have hskip' : skipped s { e with rest := rest } = none := hskip
  dsimp only
  rw [proceed_eq hbox, proceed_setMbx, hrest, processMbx]
  simp only [hbox, hgo, hrest, hskip', hok, hfree, ne_eq, not_true_eq_false, Bool.false_eq_true, if_false]
  rfl

/-- A setting that passes and has a carrier waits for the carrier's boundary (R88). -/
theorem proceed_waits {ck : Nat} (hcar : carrierOf s st = some ck) :
    proceed key s = setMbx s key
      { e with rest := rest, waiting := some (st, ck, frameNo (stdOf s st ck) s.devNs) } := by
  have hgo : e.waiting.isSome = false := by rw [hidle]; rfl
  have hskip' : skipped s { e with rest := rest } = none := hskip
  rw [proceed_eq hbox, hrest, processMbx]
  simp only [hbox, hgo, hrest, hskip', hok, hcar, ne_eq, not_true_eq_false, Bool.false_eq_true, if_false]

end Step

/-! ### The header of a result list (R89) -/

theorem SettingResult.good_iff (r : SettingResult) : r.good = true ↔ r.status = 0 := beq_iff_eq

theorem SettingResult.not_good_iff (r : SettingResult) : r.good = false ↔ r.status ≠ 0 := beq_eq_false_iff_ne

/-- Every setting took effect. -/
theorem headerStatus_of_all {l : List SettingResult} (h : ∀ r ∈ l, r.status = 0) : headerStatus l = 0 := by
  have hnone : l.find? (fun r => !r.good) = none := by
    simpa [List.find?_eq_none, SettingResult.good_iff] using h
  simp [headerStatus, hnone]

/-- Some setting took effect and some did not: PARTIAL. -/
theorem headerStatus_of_some {l : List SettingResult} (hgood : ∃ r ∈ l, r.status = 0) (hbad : ∃ r ∈ l, r.status ≠ 0) :
    headerStatus l = 0x0010 := by
  have hany : l.any SettingResult.good = true := by simpa [SettingResult.good_iff] using hgood
  have hfind : (l.find? fun r => !r.good).isSome = true := by simpa [SettingResult.not_good_iff] using hbad
  obtain ⟨r, hr⟩ := Option.isSome_iff_exists.mp hfind
  simp [headerStatus, hr, hany]

/-- No setting took effect: the status of the first. -/
theorem headerStatus_of_none {r : SettingResult} {l : List SettingResult} (h : ∀ x ∈ r :: l, x.status ≠ 0) :
    headerStatus (r :: l) = r.status := by
  have hr : r.good = false := r.not_good_iff.mpr (h r List.mem_cons_self)
  have hany : (r :: l).any SettingResult.good = false := by
    simpa [SettingResult.not_good_iff] using h
  simp only [headerStatus, List.find?_cons, hr, Bool.not_false, hany, Bool.false_eq_true, if_false]

/-- Settles O31: an accepted command is held and gone through, and each clause on its list is one step of its mailbox. -/
theorem settingListsInOrder : Obligations.SettingListsInOrder := by
  unfold Obligations.SettingListsInOrder
  refine ⟨?taken, ?step, fun key e s => proceed_ended, fun l => ⟨headerStatus_of_all, headerStatus_of_some, ?first⟩⟩
  case taken =>
    intro c opcode m first rest s u hreq hlen hop hacc
    obtain ⟨hexec, hfirst⟩ := exec_settingRequest hreq s
    exact hexec.trans (settings_accepted hacc hlen (List.forall_mem_cons.mpr ⟨hfirst, hop⟩))
  case step =>
    intro key e st rest s hbox hidle hrest
    exact ⟨fun x => proceed_skipped hbox hidle hrest, fun hskip => proceed_failed hbox hidle hrest hskip,
      fun hskip hok hfree _ => proceed_applied hbox hidle hrest hskip hok hfree,
      fun ck hskip hok hcar => proceed_waits hbox hidle hrest hskip hok hcar, rfl⟩
  case first =>
    rintro r t rfl h
    exact headerStatus_of_none h

end Sys2Proof.Machine
end

section
/-! SUPPORT. What a request that is accepted has met (R67, R76), a settings command of one setting without a carrier, and
with them O30. -/

namespace Sys2Proof.Machine

/-! ### What an accepted request has met -/

/-- The last checks pass the state on, with EXPIRY not passed (R67). -/
theorem screened_go {op : OpInfo} {m : TcsMsg} {n : Nat} {bare : Bool} {s u : State} (h : screened op m n bare s = .go u) :
    expired u m = false := by
  unfold screened at h
  split at h
  · cases h
  split at h
  · cases h
  split at h
  · cases h
  split at h
  · cases h
  next hexp =>
    cases h
    exact Bool.eq_false_of_not_eq_true hexp

/-- On a management port the mailbox suits the opcode (R76). -/
theorem acceptMgt_go {good : Bool} {op : OpInfo} {m : TcsMsg} {n p : Nat} {s u : State}
    (h : acceptMgt good op m n p s = .go u) : mbxFits op m.mbx = true ∧ expired u m = false := by
  unfold acceptMgt acceptAuth at h
  dsimp only at h
  split at h
  · cases h
  split at h
  · cases h
  split at h
  · cases h
  split at h
  · cases h
  split at h
  · cases h
  split at h
  · cases h
  split at h
  · cases h
  split at h
  · cases h
  split at h
  · cases h
  next hfits =>
  split at h
  · cases h
  split at h
  · cases h
  exact ⟨(show mbxFits op m.mbx = true ∧ op.host = true by simpa using hfits).1, screened_go h⟩

/-- On chip the opcode is one that DSP software may send (R103). -/
theorem acceptOnchip_go {op : OpInfo} {m : TcsMsg} {n k : Nat} {s u : State} (h : acceptOnchip op m n k s = .go u) :
    op.onchip = true ∧ expired u m = false := by
  unfold acceptOnchip at h
  dsimp only at h
  split at h
  · cases h
  split at h
  · cases h
  split at h
  · cases h
  next hon => exact ⟨by simpa using hon, screened_go h⟩

/-- In a peer session the mailbox is the opcode's own (R50). -/
theorem acceptPeer_go {good : Bool} {op : OpInfo} {m : TcsMsg} {n k : Nat} {s u : State}
    (h : acceptPeer good op m n k s = .go u) : op.peerMbx = some m.mbx ∧ expired u m = false := by
  unfold acceptPeer at h
  dsimp only at h
  split at h
  · cases h
  split at h
  · cases h
  · cases h
  split at h
  · cases h
  split at h
  · cases h
  split at h
  · cases h
  split at h
  · cases h
  split at h
  · cases h
  next hmbx => exact ⟨not_not.mp hmbx, screened_go h⟩

/-- How an accepted request came: on a mailbox that suits its opcode (R50, R76, R103), in time (R67). -/
theorem Accepted.met {op : OpInfo} {m : TcsMsg} {n : Nat} {s u : State} (h : Accepted op m n s u) :
    ((∃ p, m.via = .mgt p ∧ mbxFits op m.mbx = true) ∨ op.onchip = true ∨ op.peerMbx = some m.mbx) ∧ expired u m = false := by
  unfold Accepted accept acceptIf at h
  split at h
  · cases h
  split at h
  case h_1 p hvia =>
    obtain ⟨hfits, hexp⟩ := acceptMgt_go h
    exact ⟨.inl ⟨p, hvia, hfits⟩, hexp⟩
  case h_2 =>
    obtain ⟨hon, hexp⟩ := acceptOnchip_go h
    exact ⟨.inr (.inl hon), hexp⟩
  case h_3 =>
    obtain ⟨hpeer, hexp⟩ := acceptPeer_go h
    exact ⟨.inr (.inr hpeer), hexp⟩

/-- A host's settings command is not in the mailbox of the Gaffer's own settings. -/
theorem Accepted.mbxKey_ne_ownKey {opcode : Nat} {m : TcsMsg} {n : Nat} {s u : State}
    (h : Accepted { opcode := opcode } m n s u) : mbxKey m ≠ ownKey := by
  obtain ⟨⟨p, hvia, hfits⟩ | hon | hpeer, -⟩ := h.met
  · have hmbx : 1 ≤ m.mbx ∧ m.mbx ≤ 14 := of_decide_eq_true hfits
    simp only [mbxKey, hvia, ownKey]
    omega
  · cases hon
  · cases hpeer

/-! ### One setting without a carrier -/

theorem mget_holdMbx_single (s : State) (m : TcsMsg) (opcode : Nat) (st : Setting) :
    mget (mbxKey m) (holdMbx s m opcode [st]).tcs.mailboxes =
      some { oneSetting opcode m (holdMbx s m opcode [st]) with rest := [st] } := mget_mset_self ..

/-- A command whose settings have all taken effect is answered OK (R89). -/
theorem finishSettings_host {s : State} {key : Nat} (e : MbxExec) (hkey : key ≠ ownKey) : finishSettings s key e =
    deliver e.msg (response (freeMbx s key) e.opcode e.msg (headerStatus e.results) 0 (resultList e.results)) (freeMbx s key) :=
  if_neg hkey

/-- A setting that passes, and has no carrier, takes effect at once, and its command is answered (R77, R88). -/
theorem settings_single {opcode : Nat} {m : TcsMsg} {st : Setting} {s u : State} (hop : opcodeOf st = opcode)
    (hfree : carrierOf u st = none) (h : SettingPasses opcode m st s u) :
    SettingDone (settings opcode m st [] s) opcode m st u := by
  obtain ⟨a, hacc, rfl, hok⟩ := h
  have hkey : mbxKey m ≠ ownKey := hacc.mbxKey_ne_ownKey
  have hskip : skipped (holdMbx a m opcode [st])
      { oneSetting opcode m (holdMbx a m opcode [st]) with rest := [st] } = none := by
    have hexp : expired (holdMbx a m opcode [st]) m = false := hacc.met.2
    simp [skipped, oneSetting, hexp]
  have hone : Accepted { opcode := opcode } m (([st].map pairsIn).foldl (· + ·) 0) s a := by simpa using hacc
  unfold SettingDone
  rw [settings_accepted hone (by decide) (by simpa using hop),
    proceed_applied (mget_holdMbx_single a m opcode st) rfl rfl hskip hok hfree]
  dsimp only
  rw [proceed_ended (mget_setMbx_mailboxes ..) rfl rfl, finishSettings_host _ hkey, beq_false_of_ne hkey]
  rfl

/-- The same of a command that is written with an instruction. -/
theorem exec_single {c : Instr} {opcode : Nat} {m : TcsMsg} {st : Setting} {s u : State}
    (hreq : settingRequest c = some (opcode, m, st, [])) (hfree : carrierOf u st = none) (h : SettingPasses opcode m st s u) :
    SettingDone (exec c s) opcode m st u := by
  obtain ⟨hexec, hop⟩ := exec_settingRequest hreq s
  rw [hexec]
  exact settings_single hop hfree h

/-- Settles O30: every command is one of a single setting, and none of the two kinds of setting has a carrier. -/
theorem networkAndTimeSettings : Obligations.NetworkAndTimeSettings := by
  unfold Obligations.NetworkAndTimeSettings
  intro m index iot port value v s u
  dsimp only
  refine ⟨?_, ?_, ?_, ?_, ?_, ?_, ?_, ?_, ?_, ?_, ?_, ?_, ?_, ?_, ?_, ?_, ?_, ?_, ?_, ?_, ?_, ?_, fun item => ?stored⟩
  case stored => exact ⟨rfl, rfl⟩
  all_goals exact exec_single rfl rfl

end Sys2Proof.Machine
end

section
/-! SUPPORT. The semaphore commands (R79 to R83), and with them O32 and O33. -/

namespace Sys2Proof.Machine

/-- An accepted semaphore command acts on the state in which a lapsed lease has been freed, and is answered (R83). -/
theorem semOp_answered {opcode sem crit : Nat} {m : TcsMsg} {act : State → Reply} {s u t : State} {st : Status}
    {payload : List Byte} (hsem : sem ≤ 63) (hacc : Accepted { opcode := opcode, zero := true } m 0 s u)
    (hact : act (lapse sem u) = { st := st, payload := payload, crit := crit, state := t }) :
    Answered (semOp opcode m sem act s) { opcode := opcode, zero := true } m st payload crit t := by
  refine congrArg ok ((serve_accepted hacc).trans ?_)
  simp only [if_neg (Nat.not_lt.mpr hsem), hact]

theorem exec_semBreak (m : TcsMsg) (sem : Nat) (s : State) : exec (.semBreak m sem) s = execSemBreak m sem s := rfl
theorem exec_semAcquire (m : TcsMsg) (sem leaseMs : Nat) (s : State) :
    exec (.semAcquire m sem leaseMs) s = execSemAcquire m sem leaseMs s := rfl
theorem exec_semRenew (m : TcsMsg) (sem leaseMs : Nat) (s : State) :
    exec (.semRenew m sem leaseMs) s = execSemRenew m sem leaseMs s := rfl
theorem exec_semRelease (m : TcsMsg) (sem : Nat) (s : State) : exec (.semRelease m sem) s = execSemRelease m sem s := rfl

/-- Who holds a semaphore holds it in the map. -/
theorem mget_sems_of_holdsSem {s : State} {m : TcsMsg} {n : Nat} (h : holdsSem s m n = true) :
    ∃ x, mget n s.tcs.sems = some x := by
  unfold holdsSem at h
  split at h
  · next hx => exact ⟨_, hx⟩
  · cases h

/-- Settles O32: SEM_BREAK splits on the holder of the semaphore and on when that holder last sent a message. -/
theorem semBreak : Obligations.SemBreak := by
  unfold Obligations.SemBreak
  intro m sem s u hsem hacc
  rw [exec_semBreak]
  unfold execSemBreak
  dsimp only
  refine ⟨fun hfree => ?free, fun hown => ?own, fun x hx hother => ⟨fun hrecent => ?recent, fun hsilent => ?silent⟩,
    mget_mset_self .., fun n hn => mget_mset_ne hn ..⟩
  case free => exact semOp_answered hsem hacc (by simp only [hfree, semReply])
  case own =>
    obtain ⟨x, hx⟩ := mget_sems_of_holdsSem hown
    exact semOp_answered hsem hacc (by simp only [hx, if_pos hown, semReply])
  case recent =>
    exact semOp_answered hsem hacc (by simp only [hx, hother, Bool.false_eq_true, if_false, if_pos hrecent, semReply])
  case silent =>
    exact semOp_answered hsem hacc
      (by simp only [hx, hother, Bool.false_eq_true, if_false, if_neg (Nat.not_lt.mpr hsilent), semReply])

/-- A LEASE_MS in range is taken as it stands (R80). -/
theorem leaseOf_of_range {ms : Nat} (hlo : 1000 ≤ ms) (hhi : ms ≤ 300000) : leaseOf ms = some ms := by
  have hne : ms ≠ 0 := by omega
  simp [leaseOf, hne, hlo, hhi]

/-- Settles O33: each command splits on whether the requester, somebody else or nobody holds the semaphore. -/
theorem semaphores : Obligations.Semaphores := by
  unfold Obligations.Semaphores
  intro m sem leaseMs ms mask s u
  rw [exec_semAcquire, exec_semRenew, exec_semRelease]
  unfold execSemAcquire execSemRenew execSemRelease
  dsimp only
  refine ⟨⟨rfl, leaseOf_of_range⟩, fun hacc hsem hlease => ⟨fun hmine => ?granted, fun hheld hother => ?busy⟩,
    fun hacc hsem hlease => ⟨fun hown => ?renewed, fun hother => ?notRenewed⟩,
    fun hacc hsem => ⟨fun hown => ?released, fun hother => ?notReleased⟩, fun hacc => ?query, fun x hx hend => ?lapsed⟩
  case granted =>
    have hgo : ¬ (mhas (lapse sem u).tcs.sems sem && !holdsSem (lapse sem u) m sem) = true := by
      rcases hmine with hnone | hown
      · simp [mhas, Option.isNone_iff_eq_none.mp hnone]
      · simp [hown]
    exact semOp_answered hsem hacc (by simp only [hlease, if_neg hgo, semReply])
  case busy =>
    have hstop : (mhas (lapse sem u).tcs.sems sem && !holdsSem (lapse sem u) m sem) = true := by simp [mhas, hheld, hother]
    exact semOp_answered hsem hacc (by simp only [hlease, if_pos hstop, semReply])
  case renewed => exact semOp_answered hsem hacc (by simp only [hlease, if_pos hown, semReply])
  case notRenewed =>
    exact semOp_answered hsem hacc (by simp only [hlease, hother, Bool.false_eq_true, if_false, refuse])
  case released => exact semOp_answered hsem hacc (by simp only [if_pos hown, refuse])
  case notReleased => exact semOp_answered hsem hacc (by simp only [hother, Bool.false_eq_true, if_false, refuse])
  case query => exact congrArg ok (serve_accepted hacc)
  case lapsed =>
    show ok (lapse sem s) = _
    simp only [lapse, hx, if_pos hend, ok]

end Sys2Proof.Machine
end

section
/-! SUPPORT. How a session opens and ends (R65 to R72), and with them O34. -/

namespace Sys2Proof.Machine

/-! ### The session of a port -/

@[simp] theorem State.sess_setSess (s : State) (p : Nat) (x : Session) : (s.setSess p x).sess p = x := by
  simp [State.sess, State.setSess, mgetD, mget_mset_self]

/-- A response on a port adds to the cache of its session, and leaves the rest of it (R74). -/
theorem respond_sess {m : TcsMsg} {p : Fin 2} (hvia : m.via = .mgt p) (s : State) (opcode : Nat) (st : Status)
    (payload : List Byte) (crit : Nat) :
    ∃ c, (s.respond opcode m st payload crit).sess p.val = { s.sess p.val with cache := c } := by
  unfold State.respond deliver
  rw [hvia]
  dsimp only
  split
  · exact ⟨(s.sess p.val).cache, rfl⟩
  · exact ⟨_, State.sess_setSess ..⟩

/-! ### SESSION_HELLO and SESSION_CONFIRM (R71) -/

/-- At a port without a session a HELLO with a slot it may use makes the port PENDING, and is answered in the clear. -/
theorem helloNone_opens {slot : Nat} {s : State} (m : TcsMsg) (p : Nat) (nonce ek : List Byte)
    (hslot : slot < 8 ∧ hostKey s slot = .enrolled ∨ slot = 0xFF ∧ anyHostKey s = false) :
    ∃ t o, helloNone m p slot nonce ek s = t ∧ (t.sess p).st = .pending ∧
      (t.sess p).id = Config.sessionId s.tcs.nextSession ∧ (t.sess p).pendingAt = s.now ∧
      (t.sess p).key = sessionKey "TCS-SESSION" (Config.kemSecret (fitBytes 1184 ek) s.tcs.nextSession)
        (fitBytes 32 nonce) (fitBytes 32 (Config.nonce s.tcs.nextSession)) (Config.sessionId s.tcs.nextSession) ∧
      t.out = s.out ++ [o] ∧ o.status = 0 ∧ o.session = 0#32 ∧ o.key = none := by
  have hrange : ¬ (7 < slot ∧ slot ≠ 0xFF) := by
    rcases hslot with ⟨hlt, -⟩ | ⟨heq, -⟩ <;> omega
  have hkey : ¬ (slot = 0xFF ∧ anyHostKey s = true ∨ slot < 8 ∧ hostKey s slot ≠ .enrolled) := by
    rcases hslot with ⟨hlt, henrolled⟩ | ⟨rfl, hnone⟩
    · simp [henrolled, show slot ≠ 0xFF by omega]
    · simp [hnone]
  unfold helloNone
  rw [if_neg hrange, if_neg hkey]
  dsimp only [helloAnswer]
  refine ⟨_, _, rfl, ?_, ?_, ?_, ?_, rfl, rfl, rfl, rfl⟩
  all_goals exact congrArg _ (State.sess_setSess ..)

section Confirm
variable {m : TcsMsg} {p : Fin 2} {s : State} (hvia : m.via = .mgt p)
include hvia

/-- The pending session is LIVE at its SEQ once its CONFIRM is signed well. -/
theorem confirmPending_good : ((confirmPending m p.val true s).sess p.val).st = .live ∧
    ((confirmPending m p.val true s).sess p.val).highSeq = m.seq.toNat ∧
    ((confirmPending m p.val true s).sess p.val).lastAuth = s.now ∧
    ((confirmPending m p.val true s).sess p.val).id = (s.sess p.val).id := by
  unfold confirmPending
  dsimp only
  rw [if_pos rfl]
  obtain ⟨c, hc⟩ := respond_sess hvia (s.setSess p.val { s.sess p.val with
    st := .live, highSeq := m.seq.toNat, lastAuth := s.now, src := m.src, form := m.form }) 0x0102 .ok [] 0
  rw [hc, State.sess_setSess]
  exact ⟨rfl, rfl, rfl, rfl⟩

omit hvia in
/-- It is dropped when its CONFIRM is not. -/
theorem confirmPending_bad : ((confirmPending m p.val false s).sess p.val).st = .none := by
  have hdropped : (confirmPending m p.val false s).sess p.val = Session.none := State.sess_setSess ..
  rw [hdropped]
  rfl

/-- A framed CONFIRM of the pending session, its tag good, is TIMEOUT after its EXPIRY and else decided by its signature. -/
theorem exec_sessionConfirm_pending (sigOk : Bool) (hup : gafferUp s = true) (hform : formOk s p.val m = true)
    (hframe : framing m = none) (hpend : pendingFor s p.val m = true) (htag : tagGood (rxKey s m) 0x0102 0 m = true)
    (hmbx : m.mbx = 0) (hcrit : m.crit = 0) (hdev : s.devState ≠ 3) : exec (.sessionConfirm m sigOk) s =
      .next (if expired s m then s.respond 0x0102 m .timeout else confirmPending m p.val sigOk s) := by
  show execSessionConfirm m sigOk s = _
  cases hexp : expired s m with
  | false => simp [execSessionConfirm, hvia, hup, hform, hframe, hpend, htag, hmbx, hcrit, hdev, hexp, ok]
  | true => simp [execSessionConfirm, hvia, hup, hform, hframe, hpend, htag, hmbx, hcrit, hdev, hexp, ok]

end Confirm

/-! ### The end of a session (R72) -/

@[simp] theorem sendEvent_tcs (e : EventRec) (s : State) (p : Nat) : (sendEvent e s p).tcs = s.tcs := by
  unfold sendEvent
  dsimp only
  split
  · rfl
  · rfl

/-- An event raised leaves every session as it is. -/
@[simp] theorem State.sess_raiseTo (s : State) (ids : List Word) (code kind idx : Nat) (detail : List Byte) (p : Nat) :
    (s.raiseTo ids code kind idx detail).sess p = s.sess p := by
  simp [State.raiseTo, State.sess]

@[simp] theorem State.sess_journal (s : State) (rtype severity source : Nat) (body : List Byte) (p : Nat) :
    (s.journal rtype severity source body).sess p = s.sess p := by
  simp [State.sess]

/-- A session that ends leaves its port without one. -/
theorem endSession_sess (p : Nat) (c : EndCause) (s : State) : (endSession p c s).sess p = Session.none := by
  unfold endSession
  dsimp only
  split
  · exact State.sess_setSess ..
  · rw [State.sess_raiseTo, State.sess_journal, State.sess_setSess]

/-- Settles O34: each message meets its checks one after the other, and acts on the session of its port. -/
theorem sessions : Obligations.Sessions := by
  unfold Obligations.Sessions
  intro m p slot mbx seq nonce ek s u
  refine ⟨fun hvia hup hform hframe hsess htag hmbx hcrit hdev hexp hnone hslot => ?hello,
    fun hvia hup hform hframe hpend htag hmbx hcrit hdev => ?confirm, fun hpend hlate => ?pendingTimeout,
    fun hacc => ?keepalive, fun hacc => ?close, fun hlive hidle hdev => ?idle, fun c => ?ended,
    fun e t hacc hdev hlo hhi hbox hseq habort => ?abort⟩
  case hello =>
    obtain ⟨t, o, hopen, hrest⟩ := helloNone_opens m p.val nonce ek hslot
    refine ⟨t, o, ?_, hrest⟩
    show execSessionHello m slot nonce ek s = _
    simp [execSessionHello, hvia, hup, hform, hframe, hsess, htag, hmbx, hcrit, hdev, hexp, helloAtPort, hnone, hopen, ok]
  case confirm =>
    have hexec (sigOk : Bool) := exec_sessionConfirm_pending hvia sigOk hup hform hframe hpend htag hmbx hcrit hdev
    refine ⟨fun hexp => by rw [hexec, if_pos hexp], fun hexp => ?inTime⟩
    have hgo : ¬ expired s m = true := by simp [hexp]
    exact ⟨⟨_, by rw [hexec, if_neg hgo], confirmPending_good hvia⟩,
      ⟨_, by rw [hexec, if_neg hgo], confirmPending_bad⟩⟩
  case pendingTimeout =>
    show execSessionPendingTimeout p s = _
    simp [execSessionPendingTimeout, hpend, hlate, ok]
  case keepalive => exact congrArg ok (serve_accepted hacc)
  case close =>
    show execSessionClose m s = _
    unfold execSessionClose
    rw [show accept { opcode := 0x0103, zero := true } m 0 s = .go u from hacc]
    rfl
  case idle =>
    show execSessionIdleTimeout p s = _
    simp [execSessionIdleTimeout, hlive, hidle, hdev, ok]
  case ended => rw [endSession_sess]; rfl
  case abort =>
    refine congrArg ok ((serve_accepted hacc).trans ?_)
    have hrange : ¬ (mbx < 1 ∨ 14 < mbx) := by omega
    have hreply : opAbortReply m mbx seq u = refuse .aborted t := by
      simp only [opAbortReply, if_neg hdev, if_neg hrange, hbox, if_pos hseq, habort]
    rw [hreply]
    rfl

end Sys2Proof.Machine
end

section
/-! SUPPORT. Whom a completed on-chip mailbox interrupts (R100): the core that MBX_STAT names as its owner, where O35 reads
MBX_CTRL; with it the refutation of O35. -/

namespace Sys2Proof.Machine

/-- Mailbox 3 once its response is written: BUSY, claimed by core 0 of tile 2, which asks for the interrupt (NOTIFY 1). -/
def answeredMbx : State :=
  (State.setReg { State.reset with tcs := { State.reset.tcs with onchipDone := [(3, 0)] } }
    (R.MBX_STAT 3) 0x80080000#32).setReg (R.MBX_CTRL 3) 0x40000000#32

/-- The pending interrupts of core 0 of tile 2 in what a command leaves. -/
def ownerIpend (o : Host.Outcome State Fault Refusal) : Option Word :=
  match o with
  | .next t => some (t.core 2 0).ipend
  | _ => none

/-- The completion interrupts the owner. -/
theorem answeredMbx_interrupts_owner : ownerIpend (exec (.mbxComplete 3) answeredMbx) = some (bitMask 2) := by
  decide +kernel

/-- Refutes O35: NOTIFY 1 interrupts the owner of the mailbox, whose tile and core stand in MBX_STAT; the clause reads them
from the bits of MBX_CTRL that are reserved and 0, and so names core 0 of tile 0. -/
theorem not_eventsCountersMailboxes : ¬ Obligations.EventsCountersMailboxes := by
  unfold Obligations.EventsCountersMailboxes
  intro h
  obtain ⟨-, -, -, -, -, -, -, -, -, -, hdone, -⟩ :=
    h ownMsg 0 0 0 0 0 0 0 0 0 .gaffer 3 0#32 answeredMbx answeredMbx
  obtain ⟨-, hnotify, -⟩ := hdone 0 (by decide +kernel)
  have howner := answeredMbx_interrupts_owner
  rw [hnotify (by decide +kernel)] at howner
  exact absurd howner (by decide +kernel)

end Sys2Proof.Machine
end

section
/-! SUPPORT. What a ready job does once its inputs are read (R308, R310, R312, R315), and with it O20. -/

namespace Sys2Proof.Machine

/-! ### A ready job, from what it reads to what it leaves -/

section Ready
variable {acc : Bool} {func tile : Nat} {ref : JobRef} {s v : State} {j : AccJob} (hready : JobReady acc func tile ref s j)
include hready

/-- A ready job whose work finds its results performs or stages its writes and decides its status. -/
theorem runJob_done {work : AccJob → State → Except Nat JobOut × AccJob × State} {y : AccJob} {r : JobOut}
    (hwork : work j s = (.ok r, y, v)) : JobDone (runJob acc func tile ref work s) j y v r := by
  obtain ⟨hjob, hkind, hrun⟩ := hready
  have hgo : ((accKind s.part tile).isSome != acc || !canRun s func j) = false := by simp [hkind, hrun]
  unfold JobDone runJob
  simp only [hjob, hgo, hwork, Bool.false_eq_true, if_false, ok]
  cases stageFull j r.writes with
  | true => rfl
  | false =>
    simp only [Bool.false_eq_true, if_false]
    split <;> simp only [*]

/-- A ready job over spans of bytes. -/
theorem runJob_simple_done {spans : AccJob → List (Nat × Nat)} {f : AccJob → List (List Byte) → JobOut} {bs : List (List Byte)}
    (hread : jobReads j (spans j) s = (.ok bs, v)) : JobDone (runJob acc func tile ref (simple spans f) s) j j v (f j bs) :=
  runJob_done hready (by simp only [simple, hread])

/-- A ready job over symbol records. -/
theorem runJob_onRecs_done {addrs : AccJob → List Nat} {f : State → AccJob → List Rec → JobOut} {rs : List Rec}
    (hread : jobRecs j (addrs j) s = (.ok rs, v)) : JobDone (runJob acc func tile ref (onRecs addrs f) s) j j v (f v j rs) :=
  runJob_done hready (by simp only [onRecs, hread])

end Ready

/-- A ready job that is committed or has no soft buffer may decode (R315). -/
theorem decodeReady_of_ready {acc : Bool} {func tile : Nat} {ref : JobRef} {s : State} {j : AccJob}
    (hready : JobReady acc func tile ref s j) (hcommit : j.committed = true ∨ j.aux = 0) : decodeReady tile ref s = true := by
  obtain ⟨hjob, -, -⟩ := hready
  simpa [decodeReady, hjob] using hcommit

/-- Settles O20: every function is a work of `runJob` over the inputs read; a decode first finds that it may lock buffers. -/
theorem acceleratorFunctions : Obligations.AcceleratorFunctions := by
  unfold Obligations.AcceleratorFunctions
  intro tile ref s v j
  refine ⟨fun rs hread => ⟨fun hready => ?fftFwd, fun hready => ?fftInv⟩, fun ctx w rs hready hctx hrecs r hout => ?feedcorr,
    fun rs hready hread => ?gmskMlse, fun bs hready hread => ?convEnc, fun bs hready hread => ?gmskMod,
    fun bs hready hread => ?polarEnc, fun r y w hready hcommit hdec => ?ldpcDec, fun r y w hready hcommit hdec => ?turboDec,
    fun bs hready hread => ?ldpcEnc, fun bs hready hread => ?turboEnc⟩
  case fftFwd => exact runJob_onRecs_done hready hread
  case fftInv => exact runJob_onRecs_done hready hread
  case feedcorr =>
    show JobDone (execFeedcorr tile ref s) j j v r
    exact runJob_done hready (by simp only [hctx, hrecs, hout])
  case gmskMlse =>
    show JobDone (execGmskMlse tile ref s) j j v _
    exact runJob_done hready (by simp only [hread])
  case convEnc => exact runJob_simple_done hready hread
  case gmskMod => exact runJob_simple_done hready hread
  case polarEnc => exact runJob_simple_done hready hread
  case ldpcDec =>
    show JobDone (execLdpcDec tile ref s) j y w r
    rw [execLdpcDec, if_pos (decodeReady_of_ready hready hcommit)]
    exact runJob_done hready hdec
  case turboDec =>
    show JobDone (execTurboDec tile ref s) j y w r
    rw [execTurboDec, if_pos (decodeReady_of_ready hready hcommit)]
    exact runJob_done hready hdec
  case ldpcEnc => exact runJob_simple_done hready hread
  case turboEnc => exact runJob_simple_done hready hread

end Sys2Proof.Machine
end

section
/-! SUPPORT. The equaliser, decoder, search and helper functions over the inputs read, and with them O21. -/

namespace Sys2Proof.Machine

/-- The state once `n` more false preambles are counted at a tile (R141). -/
def countFalse (tile n : Nat) (w : State) : State :=
  if n = 0 then w else { w with acc := { w.acc with falsePreambles := mupd 0 tile (· + n) w.acc.falsePreambles } }

/-- A search that may run and whose records are read, at its first row, takes up the peaks within its delay search
(R139, R141). -/
theorem searchJob_found {func margin thresh tile : Nat} {ref : JobRef} {peaks : List Peak} {after : AccJob → State → State}
    {s v : State} {j : AccJob} {rs : List Rec} (hjob : s.job tile ref = some j) (hkind : (accKind s.part tile).isSome = true)
    (hrun : canRun s func { j with ran := false } = true) (hcommit : j.committed = true ∨ func = 0x40)
    (hread : (if j.ran then (.ok [], s) else listedRecs j (branchRecs j) s) = (.ok rs, v)) :
    searchJob func margin thresh tile ref peaks after s =
      .next (let found := (peaks.filter (inSearch j)).foldl (addPeak (j.f margin 1) (j.f thresh 1)) (j.dets, 0)
             let c := if j.ran then j.used else ((rs.head?).map fun x => x.h.carrier).getD 0
             let y := { j with dets := found.1, ran := true, used := c }
             after y (writeReports c y (setJob (countFalse tile found.2 v) y))) := by
  have hgo : ((accKind s.part tile).isNone || !canRun s func { j with ran := false } || !(j.committed || func == 0x40)) = false := by
    have hmay : (j.committed || func == 0x40) = true := by simpa using hcommit
    simp only [Option.isNone_eq_false_iff.mpr hkind, hrun, hmay, Bool.not_true, Bool.or_false]
  unfold searchJob
  simp only [hjob, hgo, hread, Bool.false_eq_true, if_false, ok]
  rfl

/-- Settles O21: every function is a work of `runJob` over the inputs read, a search takes up its peaks, and a window that
closes confirms them. -/
theorem equaliserAndSearchFunctions : Obligations.EqualiserAndSearchFunctions := by
  unfold Obligations.EqualiserAndSearchFunctions
  intro tile ref s v j peaks
  refine ⟨fun rs w pil hready hrecs hpil => ?chest, fun rs w est hready hrecs hest => ?detect,
    fun bs hready hread => ?polarDec, fun bs hready hread => ?convDec, fun bs hready hread => ?demap,
    fun bs hready hread => ?precode, fun b w c x e ls est hready hlist halign haux hctx hgrids hest => ?combineRun,
    fun b w e ls est hready hlist halign haux hgrids hest => ?combineStatic,
    ⟨fun bs hread => ⟨fun hready => ?cmatmul, fun hready => ?cmatmulh⟩, fun bs hread hready => ?cgram⟩,
    fun bs hready hread => ?ccholsolve, fun rs hjob hkind hrun hread => ?prach,
    fun rs hjob hkind hrun hcommit hread => ?rach, fun hjob hfunc hran hstatus hbody => ?close⟩
  case chest =>
    show JobDone (execChest tile ref s) j j v _
    exact runJob_done hready (by simp only [hrecs, hpil])
  case detect =>
    show JobDone (execDetect tile ref s) j j v _
    exact runJob_done hready (by simp only [hrecs, hest])
  case polarDec => exact runJob_simple_done hready hread
  case convDec => exact runJob_simple_done hready hread
  case demap => exact runJob_simple_done hready hread
  case precode => exact runJob_simple_done hready hread
  case combineRun =>
    show JobDone (execCombine tile ref s) j j v _
    exact runJob_done hready (by
      simp only [hlist, halign, if_neg haux, hctx, hgrids, hest, Bool.not_true, Bool.false_eq_true, if_false])
  case combineStatic =>
    show JobDone (execCombine tile ref s) j j v _
    exact runJob_done hready (by
      simp only [hlist, halign, if_pos haux, jobReads, hgrids, hest, Bool.not_true, Bool.false_eq_true, if_false,
        List.flatten_nil])
  case cmatmul => exact runJob_simple_done hready hread
  case cmatmulh => exact runJob_simple_done hready hread
  case cgram => exact runJob_simple_done hready hread
  case ccholsolve => exact ⟨_, runJob_simple_done hready hread, rfl, rfl⟩
  case prach =>
    show execPrachSearch tile ref peaks s = _
    exact searchJob_found hjob hkind hrun (.inr rfl) hread
  case rach =>
    show execRachSearch tile ref peaks s = _
    simp only [execRachSearch, hjob]
    exact searchJob_found hjob hkind hrun (.inl hcommit) hread
  case close =>
    show execPrachWindowClose tile ref s = _
    simp [execPrachWindowClose, hjob, hfunc, hran, hstatus, hbody, ok]

end Sys2Proof.Machine
end

section
/-! SUPPORT. Crumbs (R229), pause frames (R203), Ethernet frames (R403, R404) and reception windows (R111, R112), and with
them O41. -/

namespace Sys2Proof.Machine

/-- A request that holds its semaphore outside PARISON service is acted on. -/
theorem guarded_of_held {m : TcsMsg} {n : Nat} {parisonOk : Bool} {act : State → Reply} {u : State}
    (hsem : holdsSem u m n = true) (hpar : u.parison = false) : guarded m n parisonOk act u = act u := by
  simp [guarded, hsem, hpar]

@[simp] theorem crumbBudget_send (s : State) (o : OutMsg) (x : CrumbStream) : crumbBudget (s.send o) x = crumbBudget s x := rfl

/-- An accepted CRUMB_CTRL in range is applied to each dispatcher it names, and answered with their rings (R229). -/
theorem exec_crumbCtrl_applied {m : TcsMsg} {b : CrumbBody} {p : Fin 2} {s u : State} (hacc : Accepted opCrumbCtrl m 0 s u)
    (hsem : holdsSem u m 29 = true) (hpar : u.parison = false) (hbody : crumbBodyOk u b = true) (hvia : m.via = .mgt p) :
    let v := crumbStreams b p.val m.session ((setBits b.dsqMask 4).foldl (crumbApply b) u)
    Answered (exec (.crumbCtrl m b) s) opCrumbCtrl m .ok ((List.range 4).flatMap (crumbStatus v)) 0 v := by
  refine congrArg ok ((serve_accepted hacc).trans ?_)
  simp only [guarded_of_held hsem hpar, hbody, hvia, Bool.not_true, Bool.false_eq_true, if_false]

/-- The waiting crumbs of a live session that its budget holds leave in one message (R229). -/
theorem exec_crumbStreamSend_sent {p : Fin 2} {s : State} {x : CrumbStream} (hstream : mget p.val s.dsq.streams = some x)
    (hwait : x.waiting ≠ []) (hlive : s.isLive p.val = true) (hid : (s.sess p.val).id = x.session)
    (hbudget : 80 + x.waiting.length * 32 ≤ crumbBudget s x) :
    ∃ t o, exec (.crumbStreamSend p) s = .next t ∧ t.out = s.out ++ [o] ∧ o.via = .mgt p ∧ o.opcode = 0x0803 ∧
      o.payload = x.waiting.flatten ∧ o.seq = BitVec.ofNat 32 x.frame ∧
      t.dsq.streams = mset p.val { x with waiting := [], budget := crumbBudget s x - (80 + x.waiting.length * 32),
                                          refilled := s.now, frame := x.frame + 1 } s.dsq.streams := by
  have hgo : ¬ (x.waiting.isEmpty || !(s.isLive p.val && (s.sess p.val).id == x.session) ||
      decide (crumbBudget s x < 80 + x.waiting.length * 32)) = true := by
    simpa [hwait, hlive, hid] using hbudget
  have hexec : exec (.crumbStreamSend p) s = execCrumbStreamSend p s := rfl
  rw [hexec]
  unfold execCrumbStreamSend
  simp only [hstream, if_neg hgo]
  exact ⟨_, _, rfl, rfl, rfl, rfl, rfl, rfl, rfl⟩

/-- A frame on a linked port is checked in size, then in tags, then in its check sequence (R403, R404). -/
theorem exec_ethFrameReceive_linked {iot port : Nat} (f : RxFrame) {s : State} (hport : ethPort s iot port = true)
    (hlink : linkUp s iot port = true) : exec (.ethFrameReceive iot port f) s =
      let v := countCodewords iot port f s
      if f.len < 64 ∨ 9216 < f.len then .next (v.count (R.ETH_RX_SIZEERR iot port) 1)
      else if 2 < f.tags.length then .next v
      else if !f.fcsOk || (portFec v iot port && f.uncorr != 0) then .next (v.count (R.ETH_RX_FCSERR iot port) 1)
      else .next (directFrame iot port f (v.count64 (R.ETH_RX_FRAMES iot port) 1)) :=
  if_neg (by simp [hport, hlink])

/-- A window that has passed closes the record of its symbol, or begins and closes the one it should have (R111, R112). -/
theorem exec_rxWindowClose_passed {ru carrier frame slot sym : Nat} {s : State} {bd : Bind}
    (hbind : bindOf s ru carrier = some bd) (hsym : symOk bd.c slot sym = true)
    (hnext : mgetD 0 s.fh.next bd.key ≤ symNo s bd.c frame slot sym)
    (hpast : windowPast s bd (symNo s bd.c frame slot sym) = true) :
    exec (.rxWindowClose ru carrier frame slot sym) s =
      match upRec s bd.key (symNo s bd.c frame slot sym) with
      | some x => .next (release bd (setUpRec s { x with closed := true }))
      | none => if hasRec bd (symNo s bd.c frame slot sym) then
          .next (release bd (beginRec s bd (symNo s bd.c frame slot sym) true)) else .next s := by
  have hgo : ¬ (decide (symNo s bd.c frame slot sym < mgetD 0 s.fh.next bd.key) ||
      !windowPast s bd (symNo s bd.c frame slot sym)) = true := by simpa [hpast] using hnext
  show execRxWindowClose ru carrier frame slot sym s = _
  simp only [execRxWindowClose, hbind, hsym, Bool.not_true, Bool.false_eq_true, if_false]
  exact if_neg hgo

/-! ### Path delays (R405) -/

@[simp] theorem noteDelayOf_now (s : State) (ru delay : Nat) : (noteDelayOf s ru delay).now = s.now := by
  unfold noteDelayOf
  split <;> rfl

@[simp] theorem foldl_noteDelayOf_now (l : List (Nat × Nat)) (s : State) :
    (l.foldl (fun s x => noteDelayOf s x.1 x.2) s).now = s.now := by
  induction l generalizing s with
  | nil => rfl
  | cons x l ih => rw [List.foldl_cons, ih, noteDelayOf_now]

/-- Settles O41: each event meets its guard and does its work. -/
theorem crumbsAndReception : Obligations.CrumbsAndReception := by
  unfold Obligations.CrumbsAndReception
  intro m b p q flid qid iot port ru carrier frame slot sym f delays s u
  refine ⟨fun sp t hspan hend hep hdue => ?spanClose, exec_crumbCtrl_applied, fun x => exec_crumbStreamSend_sent,
    fun hpaused hhi hlo hdue => ?pause, fun hport hlink => ?frame, fun bd hbind hsym hnext hpast => ?window,
    fun hup hdue => ?delay⟩
  case spanClose =>
    show execCatchupSpanClose q flid s = _
    simp [execCatchupSpanClose, hspan, hend, hep, hdue, ok]
  case pause =>
    refine if_pos ?_
    simp [hpaused, hhi, hlo, hdue]
  case frame =>
    rw [exec_ethFrameReceive_linked f hport hlink]
    refine ⟨fun hsize => ?size, fun hmin hmax htags hbad => ?fcs, fun hmin hmax htags => ?tags,
      fun hmin hmax htags hfcs hfec => ?good⟩
    case size => exact if_pos hsize
    case fcs =>
      exact (if_neg (by omega)).trans ((if_neg (by omega)).trans (if_pos (by simpa using hbad)))
    case tags => exact (if_neg (by omega)).trans (if_pos htags)
    case good =>
      exact (if_neg (by omega)).trans ((if_neg (by omega)).trans (if_neg (by simpa [hfcs, or_iff_not_imp_left] using hfec)))
  case window =>
    rw [exec_rxWindowClose_passed hbind hsym hnext hpast]
    refine ⟨fun x hrec => ?stands, fun hrec hhas => ?begins⟩
    case stands => rw [hrec]
    case begins => rw [hrec]; exact if_pos hhas
  case delay =>
    show execFhDelayMeasure iot port delays s = _
    simp only [execFhDelayMeasure, hup, hdue, foldl_noteDelayOf_now, Bool.and_self, Bool.not_true, Bool.false_eq_true,
      if_false, ok]

end Sys2Proof.Machine
end

section
/-! SUPPORT. The window step of a run (R176 to R180, R183), and with it O38. -/

namespace Sys2Proof.Machine

/-- The position that joins a window `w` to bring it nearer the target `t`: the end in the direction of travel first. -/
def joinAt (fwd : Bool) (w t : Nat × Nat) : Option Nat :=
  let up : Option Nat := if w.2 < t.2 then some (w.2 + 1) else none
  let down : Option Nat := if t.1 < w.1 then some (w.1 - 1) else none
  if fwd then up.or down else down.or up

/-- The end of a window `w` that leaves because it lies outside the target `t`: the trailing end first. -/
def leaveAt (fwd : Bool) (w t : Nat × Nat) : Option Nat :=
  let low : Option Nat := if w.1 < t.1 then some w.1 else none
  let high : Option Nat := if t.2 < w.2 then some w.2 else none
  if fwd then low.or high else high.or low

theorem joinAt_forward {w t : Nat × Nat} (h : w.2 < t.2) : joinAt true w t = some (w.2 + 1) := by
  simp [joinAt, h]

theorem joinAt_backward {w t : Nat × Nat} (h : t.1 < w.1) : joinAt false w t = some (w.1 - 1) := by
  simp [joinAt, h]

@[simp] theorem joinAt_self (fwd : Bool) (w : Nat × Nat) : joinAt fwd w w = none := by simp [joinAt]

@[simp] theorem leaveAt_self (fwd : Bool) (w : Nat × Nat) : leaveAt fwd w w = none := by simp [leaveAt]

/-- Only an end of the window leaves. -/
theorem leaveAt_mem {fwd : Bool} {w t : Nat × Nat} {p : Nat} (h : leaveAt fwd w t = some p) : p = w.1 ∨ p = w.2 := by
  unfold leaveAt at h
  cases fwd <;> grind

/-- The joining feed nearest the train. -/
def nearestJoining (l : List Int) (k : Motion) (fs : List (Nat × Nat × Nat)) : Option (Nat × Nat × Nat) :=
  leastBy (fun f : Nat × Nat × Nat => ((chainageAt l f.1 - k.x).natAbs, f.1, 0)) (fs.filter fun f => f.2.1 == 1)

section
variable {r : Run} {l : List Int} {k : Motion} {m : Nat} {fs : List (Nat × Nat × Nat)} {w : Nat × Nat}

theorem decideStep_joining {j : Nat × Nat × Nat} (hwin : winOf fs = some w) (hnear : nearestJoining l k fs = some j) :
    decideStep r l k m fs = if r.joinSlots ≤ j.2.2 + 1 then { code := 2, pos := j.1 } else { code := 0, pos := 0 } := by
  unfold nearestJoining at hnear
  simp only [decideStep, hwin, hnear]

theorem decideStep_leaving {f : Nat × Nat × Nat} (hwin : winOf fs = some w) (hnear : nearestJoining l k fs = none)
    (hleaving : fs.find? (fun f => f.2.1 == 3) = some f) : decideStep r l k m fs = { code := 4, pos := f.1 } := by
  unfold nearestJoining at hnear
  simp only [decideStep, hwin, hnear, hleaving]

variable (hwin : winOf fs = some w) (hnear : nearestJoining l k fs = none)
  (hleaving : fs.find? (fun f => f.2.1 == 3) = none)
include hwin hnear hleaving

theorem decideStep_join {p : Nat} (hroom : fs.length ≤ r.winSize)
    (hjoin : joinAt (forward r k.v) w (targetWin l.length r.winSize m (forward r k.v)) = some p) :
    decideStep r l k m fs = { code := 1, pos := p } := by
  unfold nearestJoining at hnear
  unfold joinAt at hjoin
  simp only [decideStep, hwin, hnear, hleaving, hroom, if_true, hjoin]

theorem decideStep_at_target (htarget : targetWin l.length r.winSize m (forward r k.v) = w) :
    decideStep r l k m fs = { code := 0, pos := 0 } := by
  have hjoin := joinAt_self (forward r k.v) w
  have hleave := leaveAt_self (forward r k.v) w
  unfold nearestJoining at hnear
  unfold joinAt at hjoin
  unfold leaveAt at hleave
  simp only [decideStep, hwin, hnear, hleaving, htarget, hjoin, hleave, ite_self]

/-- Where the step decided is a LEAVE, two active feeds stay, and what leaves is an end outside the target. -/
theorem leave_of_decideStep (hcode : (decideStep r l k m fs).code = 3) :
    2 ≤ (fs.filter fun f => f.2.1 == 2).length ∧
    leaveAt (forward r k.v) w (targetWin l.length r.winSize m (forward r k.v)) = some (decideStep r l k m fs).pos := by
  unfold nearestJoining at hnear
  simp only [decideStep, hwin, hnear, hleaving] at hcode ⊢
  unfold leaveAt
  split at hcode
  case h_1 => simp at hcode
  case h_2 p hjoin hleave =>
    split at hcode
    case isTrue hfeeds =>
      rw [if_pos hfeeds]
      exact ⟨hfeeds.2, hleave⟩
    case isFalse => simp at hcode
  case h_3 => simp at hcode

end

/-- A run being exported decides only leaves, removals or nothing (R183). -/
theorem decideExport_code (r : Run) (l : List Int) (k : Motion) (m : Nat) (fs : List (Nat × Nat × Nat)) (all : Bool) :
    (decideExport r l k m fs all).code = 0 ∨ (decideExport r l k m fs all).code = 3 ∨
      (decideExport r l k m fs all).code = 4 := by
  cases all
  case false =>
    by_cases hleave : (decideStep r l k m fs).code = 3 ∨ (decideStep r l k m fs).code = 4
    · simp [decideExport, hleave]
    · simp [decideExport, hleave]
  case true =>
    cases hleaving : fs.find? (fun f => f.2.1 == 3) with
    | some f => simp [decideExport, hleaving]
    | none =>
      cases hwin : winOf fs with
      | none => simp [decideExport, hleaving, hwin]
      | some w =>
        simp only [decideExport, hleaving, hwin]
        generalize (if forward r k.v then w.1 else w.2) = trailing
        by_cases hjoins : (fs.any fun f => f.1 == trailing && f.2.1 == 1) = true
        · exact .inr (.inr (by simp only [hjoins, Bool.not_true, Bool.false_eq_true, if_false, if_true]))
        · exact .inr (.inl (by simp only [hjoins, Bool.not_true, Bool.false_eq_true, if_false]))

/-- Settles O38: the branches of the decision, one lemma each. -/
theorem windowSteps : Obligations.WindowSteps := by
  unfold Obligations.WindowSteps
  refine ⟨fun r l k m fs w hwin => ⟨fun j hnear => decideStep_joining hwin hnear,
    fun f hnear hleaving => decideStep_leaving hwin hnear hleaving, fun hnear hleaving =>
      ⟨fun hroom hfwd hup => ?up, fun hroom hback hdown => ?down, fun hhigh hlow => ?target, fun hcode => ?leave⟩⟩,
    decideExport_code⟩
  case up =>
    refine decideStep_join hwin hnear hleaving hroom ?_
    rw [hfwd] at hup ⊢
    exact joinAt_forward hup
  case down =>
    refine decideStep_join hwin hnear hleaving hroom ?_
    rw [hback] at hdown ⊢
    exact joinAt_backward hdown
  case target => exact decideStep_at_target hwin hnear hleaving (Prod.ext hlow hhigh.symm)
  case leave =>
    obtain ⟨hactive, hleave⟩ := leave_of_decideStep hwin hnear hleaving hcode
    exact ⟨hactive, leaveAt_mem hleave⟩

end Sys2Proof.Machine
end

section
/-! SUPPORT. A run's commands at its boundaries and time limits (R155, R156, R165, R173, R174), and with them O37. -/

namespace Sys2Proof.Machine

section
variable {n pos : Nat} {ms : List Meas} {r : Run} {f : Feed} {s : State}

theorem exec_runBoundary_passed (hrun : s.run n = some r) (hpassed : s.devNs / r.slot s * r.slot s ≤ r.boundary) :
    exec (.runBoundary n ms) s = .next s := by
  show execRunBoundary n ms s = _
  simp only [execRunBoundary, hrun]
  exact if_pos hpassed

theorem exec_seekTimeout_due (hrun : s.run n = some r) (hseek : r.tstate s = 0) (hdue : r.since + 10000000000 ≤ s.now) :
    exec (.seekTimeout n) s = .next (enterLost s n r) := by
  show execSeekTimeout n s = _
  simp only [execSeekTimeout, hrun]
  exact if_pos ⟨hseek, hdue⟩

theorem exec_coastEnter_due (hrun : s.run n = some r) (htrack : r.tstate s = 1) (hlost : 20 ≤ r.noFix) :
    exec (.coastEnter n) s = .next (setTState (ctxPut s r ctxAccel 4 0) n r 2 s.devNs) := by
  show execCoastEnter n s = _
  simp only [execCoastEnter, hrun]
  exact if_pos ⟨htrack, hlost⟩

theorem exec_coastLimitExpiry_due (hrun : s.run n = some r) (hcoast : r.tstate s = 2)
    (hdue : r.since + r.coast * 100000000 ≤ s.now) : exec (.coastLimitExpiry n) s = .next (enterLost s n r) := by
  show execCoastLimitExpiry n s = _
  simp only [execCoastLimitExpiry, hrun]
  exact if_pos ⟨hcoast, hdue⟩

theorem exec_loopSatSet_due (hrun : s.run n = some r) (hfeed : r.feedAt s pos = some f) (hclear : f.flags / 2 % 2 = 0)
    (hclamped : 8 ≤ mgetD 0 r.clampOn (pos % 8)) : exec (.loopSatSet n pos) s = .next (setLoopSat s n r f 1) := by
  show execLoopSatSet n pos s = _
  simp only [execLoopSatSet, hrun, hfeed]
  exact if_pos ⟨hclear, hclamped⟩

theorem exec_loopSatClear_due (hrun : s.run n = some r) (hfeed : r.feedAt s pos = some f) (hset : f.flags / 2 % 2 = 1)
    (hfree : 8 ≤ mgetD 0 r.clampOff (pos % 8)) : exec (.loopSatClear n pos) s = .next (setLoopSat s n r f 0) := by
  show execLoopSatClear n pos s = _
  simp only [execLoopSatClear, hrun, hfeed]
  exact if_pos ⟨hset, hfree⟩

theorem exec_gafferPairRewrite_due (hrun : s.run n = some r) (hpairs : r.rewrite ≠ [])
    (hdue : r.rewriteAt < s.devNs / r.slot s) (hup : gafferUp s = true) : exec (.gafferPairRewrite n) s =
      .next ((r.rewrite.foldl (rewritePair n r) s).modRun n fun r => { r with rewrite := [] }) := by
  show execGafferPairRewrite n s = _
  simp only [execGafferPairRewrite, hrun]
  exact if_pos (by simp [hpairs, hdue, hup])

end

/-- Settles O37: each command meets its guard; past the last boundary the home tile does the listed steps in order. -/
theorem runBoundaries : Obligations.RunBoundaries := by
  unfold Obligations.RunBoundaries
  intro n pos ms r f s hrun
  refine ⟨exec_runBoundary_passed hrun, fun hlater => ?boundary, exec_seekTimeout_due hrun, exec_coastEnter_due hrun,
    exec_coastLimitExpiry_due hrun, exec_loopSatSet_due hrun, exec_loopSatClear_due hrun, exec_gafferPairRewrite_due hrun⟩
  case boundary =>
    show execRunBoundary n ms s = _
    simp only [execRunBoundary, hrun]
    exact if_neg (Nat.not_le.mpr hlater)

end Sys2Proof.Machine
end

section
/-! SUPPORT. The dispatchers' commands (R191, R194, R199, R204, R206, R209, R210, R215, R219), and with them O25. -/

namespace Sys2Proof.Machine

/-! ### A push outside reserved space (R194, R199, R219) -/

section Push
variable {p : Producer} {qid : Nat} {e : List Byte} {s : State}

theorem pushQ_accepted (hpresent : qidPresent s qid = true) (hrun : tileRun s (dsqTile (qidDsq qid)) = true)
    (hen : (s.queue qid).en = true) (hroom : qFree (s.queue qid) ≠ 0) (hheld : (s.queue qid).held = []) :
    pushQ p qid e s = (.accepted, enqueue s qid e) := by
  simp [pushQ, hpresent, hrun, hen, hroom, hheld]

theorem pushQ_disabled (hpresent : qidPresent s qid = true) (hrun : tileRun s (dsqTile (qidDsq qid)) = true)
    (hdis : (s.queue qid).en = false) : pushQ p qid e s = (.disabled, s.orReg (R.DSQ_STAT (qidDsq qid)) 3) := by
  simp [pushQ, hpresent, hrun, hdis]

variable (hnone : ∀ t c k, p = .core t c k → ∀ w, runningOn s t c = some w → w.outq ≠ some qid ∨ w.resvLeft = 0)
include hnone

/-- A producer that holds no reserved space of the queue pushes as any other does. -/
theorem pushFrom_unreserved : pushFrom p qid e s = pushQ p qid e s := by
  cases p with
  | core t c k =>
    cases hw : runningOn s t c with
    | none => simp only [pushFrom, hw]
    | some w =>
      obtain hout | hleft := hnone t c k rfl w hw
      · simp [pushFrom, hw, hout]
      · simp [pushFrom, hw, hleft]
  | _ => rfl

theorem exec_queuePush_unreserved : exec (.queuePush p qid e) s = .next (pushQ p qid (fitBytes 32 e) s).2 := by
  rw [← pushFrom_unreserved hnone]
  rfl

end Push

/-! ### Popping and enabling a queue, and a decision -/

section Queue
variable {r : Requester} {qid max q : Nat} {s : State}

theorem exec_queuePop_absent (habsent : qidPresent s qid = false) :
    exec (.queuePop r qid max) s = .next (s.answer (.error .decodeErr)) := by
  show execQueuePop r qid max s = _
  simp [execQueuePop, habsent, ok]

theorem exec_queuePop_stream (hpresent : qidPresent s qid = true) (hrun : tileRun s (dsqTile (qidDsq qid)) = true)
    (hstream : (s.queue qid).kind = 3) (hen : (s.queue qid).en = true) :
    exec (.queuePop r qid max) s = .next ((popMany max qid s).2.answer (.bytes (popMany max qid s).1.flatten)) := by
  show execQueuePop r qid max s = _
  simp [execQueuePop, hpresent, hrun, hstream, hen, ok]

/-- A queue in the dispatcher's ring SRAM is enabled while its granules fit (R193). -/
theorem enableQ_fits {gaffer : Bool} (hdis : (s.queue qid).en = false) (hlow : 2 ≤ (s.queue qid).depth)
    (hhigh : (s.queue qid).depth ≤ 16) (hkind : (s.queue qid).kind ≠ 2) (hloc : (s.queue qid).loc = false)
    (hfits : granulesUsed s (qidDsq qid) + ceilDiv (2 ^ (s.queue qid).depth) 32 ≤ 2048) :
    enableQ gaffer s qid = s.setQueue qid { s.queue qid with en := true } := by
  have hshallow : ¬(s.queue qid).depth < 2 := by omega
  have hdeep : ¬16 < (s.queue qid).depth := by omega
  have hspace : ¬2048 < granulesUsed s (qidDsq qid) - granules (s.queue qid) + ceilDiv (2 ^ (s.queue qid).depth) 32 := by omega
  simp only [enableQ, hdis, hshallow, hdeep, hkind, hloc, hspace, or_self, decide_false, Bool.false_and, Bool.not_false,
    Bool.true_and, Bool.false_eq_true, if_false]

theorem exec_queueEnable_unlocked (hpresent : qidPresent s qid = true) (hlock : (s.queue qid).lock = false) :
    exec (.queueEnable r qid) s = .next ((enableQ (r == .gaffer) s qid).answer .done) := by
  show execQueueEnable r qid s = _
  simp [execQueueEnable, hpresent, hlock, ok]

theorem exec_dispatch_running (hpresent : quadPresent s.part q = true) (hgoing : s.power.stopping = false)
    (hrun : tileRun s (dsqTile q) = true) : exec (.dispatch q) s =
      .next (decide_ ((sortBy (fun x => headKey s x.1 x.2.1 x.2.2) (heads s q)).map fun x => x.1) s) := by
  show execDispatch q s = _
  simp [execDispatch, hpresent, hgoing, hrun, ok]

end Queue

/-! ### The start of a task, its deadline and its end (R209, R210, R236) -/

/-- A0, A1, G0 and G1 of a task that starts. -/
theorem startTask_registers (x : Core) (w : Running) (a1 : Nat) (hard : Bool) :
    (startTask x w a1 hard).ar 0 = BitVec.ofNat 64 (eArg w.entry) ∧ (startTask x w a1 hard).ar 1 = BitVec.ofNat 64 a1 ∧
    (startTask x w a1 hard).gr 0 = BitVec.ofNat 32 w.scale ∧
    (startTask x w a1 hard).gr 1 = BitVec.ofNat 32 (w.flid * 65536 + w.seq) := by
  simp [startTask, Core.ar, Core.gr, Core.setA, Core.setG, mgetD, mget_mset_self, mget_mset_ne]

section Task
variable {qid seq tile core : Nat} {w : Running} {s : State}

theorem exec_coreTaskStart_placed (hplaced : runningOn s tile core = some w) (hidle : coreBusy s tile core = false)
    (hopen : w.reported = none) (hrun : tileRun s tile = true) (hslot : w.slot = none) (htime : hardPassed s w = false) :
    exec (.coreTaskStart tile core) s = .next (setRunning
      (s.setCore tile core (startTask (s.core tile core) w 0 false)) { w with hardRaised := false }) := by
  show execCoreTaskStart tile core s = _
  simp [execCoreTaskStart, hplaced, hidle, hopen, hrun, hslot, htime, ok]

theorem exec_deadlineHard_passed (htask : runningOn s tile core = some w) (hbusy : coreBusy s tile core = true)
    (hfirst : w.hardRaised = false) (hpassed : hardPassed s w = true) :
    exec (.deadlineHard tile core) s = .next (setRunning (s.setCore tile core
      { s.core tile core with ipend := (s.core tile core).ipend ||| bitMask 1 }) { w with hardRaised := true }) := by
  show execDeadlineHard tile core s = _
  simp [execDeadlineHard, htask, hbusy, hfirst, hpassed, ok]

theorem exec_taskEndReport_only {how : Bool} (honly : s.dsq.running = [w]) (hopen : w.ended = none)
    (hreported : w.reported = some how) (hslot : w.slot = none) :
    exec (.taskEndReport w.qid w.seq w.tile w.core) s = .next (endWork s w how) := by
  show execTaskEndReport w.qid w.seq w.tile w.core s = _
  simp [execTaskEndReport, honly, hopen, hreported, hslot, ok]

end Task

/-! ### The prefetch of a context (R215, R381) -/

/-- Reading the head and its context leaves the part as it is. -/
theorem prefetch_part {qid : Nat} {h o : Option (List Byte)} {ctx : Nat} {s v w : State} (hhead : peekHead s qid = (h, v))
    (hread : prefetchRead (qidDsq qid) ctx v = (o, w)) : w.part = s.part :=
  (Keeps.ofPair hread (prefetchRead_keeps (Keeps.ofPair hhead (peekHead_keeps (Keeps.refl s))))).part

section Prefetch
variable {qid k : Nat} {e : List Byte} {s v : State} (hhead : peekHead s qid = (some e, v)) (htask : (v.queue qid).kind = 0)
  (hasks : ePrefetch e = true) (hparison : s.parison = false) (hctx : ctxOk s (eArg e) = true)
  (hmiss : slotOf s (qidDsq qid) (eArg e) = none) (hclean : (v.queue qid).ctxUe = false)
  (hvictim : victimSlot s (qidDsq qid) = some k)
include hhead htask hasks hparison hctx hmiss hclean hvictim

theorem exec_contextPrefetchDone_copied {l : List Byte} {w : State}
    (hread : prefetchRead (qidDsq qid) (eArg e) v = (some l, w)) :
    exec (.contextPrefetchDone qid) s = .next (
      let a := slotAddr (qidDsq qid) k
      let t := memWrite (.dsq (qidDsq qid)) (placeOf w.part a) a l w
      (setSlot t (qidDsq qid) k { ctx := eArg e, dirty := false, stamp := t.dsq.ctxStamp, busy := false }).setQueue qid
        { v.queue qid with prefetched := true }) := by
  show execContextPrefetchDone qid s = _
  simp [execContextPrefetchDone, hhead, htask, hasks, hparison, hctx, hmiss, hclean, hvictim, hread, ok,
    prefetch_part hhead hread]

theorem exec_contextPrefetchDone_ue {w : State} (hread : prefetchRead (qidDsq qid) (eArg e) v = (none, w)) :
    exec (.contextPrefetchDone qid) s = .next (w.setQueue qid { v.queue qid with ctxUe := true }) := by
  show execContextPrefetchDone qid s = _
  simp [execContextPrefetchDone, hhead, htask, hasks, hparison, hctx, hmiss, hclean, hvictim, hread, ok]

end Prefetch

/-- Settles O25: each command meets its guards, and the core that starts holds the registers of `startTask`. -/
theorem dispatchAndTasks : Obligations.DispatchAndTasks := by
  unfold Obligations.DispatchAndTasks
  intro p r qid q max tile core seq entry s
  refine ⟨fun hpresent hrun hnone => ⟨fun hen hroom hheld => ?accepted, fun hdis => ?disabled⟩, exec_queuePop_stream,
    exec_queuePop_absent, fun hpresent hlock hdis hlow hhigh hkind hloc hfits => ?enable, exec_dispatch_running,
    fun w hplaced hidle hopen hrun hslot htime => ?start, fun w => exec_deadlineHard_passed,
    fun w how honly hopen hreported hslot hqid hseq htile => ?ended,
    fun e k v hhead htask hasks hparison hctx hmiss hclean hvictim =>
      ⟨fun l w => exec_contextPrefetchDone_copied hhead htask hasks hparison hctx hmiss hclean hvictim,
       fun w => exec_contextPrefetchDone_ue hhead htask hasks hparison hctx hmiss hclean hvictim⟩⟩
  case accepted => rw [exec_queuePush_unreserved hnone, pushQ_accepted hpresent hrun hen hroom hheld]
  case disabled => rw [exec_queuePush_unreserved hnone, pushQ_disabled hpresent hrun hdis]
  case enable => rw [exec_queueEnable_unlocked hpresent hlock, enableQ_fits hdis hlow hhigh hkind hloc hfits]
  case start =>
    obtain ⟨ha0, ha1, hg0, hg1⟩ := startTask_registers (s.core tile core) w 0 false
    exact ⟨_, exec_coreTaskStart_placed hplaced hidle hopen hrun hslot htime, rfl, rfl, rfl, ha0, ha1, hg0, hg1,
      rfl, rfl, rfl, rfl⟩
  case ended =>
    subst hqid hseq htile
    exact exec_taskEndReport_only honly hopen hreported hslot

end Sys2Proof.Machine
end

section
/-! SUPPORT. The flags of a core, bit by bit, and what the integer instructions write (R237, R241). -/

namespace Sys2Proof.Machine

/-! ### Single bits of a word -/

/-- A mask has its bit set and no other. -/
theorem bit_bitMask {i : Nat} (hi : i < 32) (j : Nat) : bit (bitMask i) j = decide (j = i) := by
  have hmask : bit (bitMask i) j = (decide (j < 32) && decide (i = j)) := by
    rw [bit, bitMask, BitVec.getLsbD_ofNat, Nat.testBit_two_pow]
  rw [hmask, Bool.eq_iff_iff]
  simp only [Bool.and_eq_true, decide_eq_true_eq]
  omega

/-- Writing bit `i` clears its mask and lays the bit over it. -/
theorem setBit_eq (w : Word) (i : Nat) (b : Bool) :
    setBit w i b = (w &&& ~~~bitMask i) ||| (if b then bitMask i else 0#32) := by
  have hlow : i + 1 - i = 1 := by omega
  cases b <;> simp [setBit, setFld, bitMask, hlow, Nat.shiftLeft_eq]

/-- Writing bit `i` writes that bit and no other. -/
theorem bit_setBit (w : Word) {i : Nat} (hi : i < 32) (b : Bool) (j : Nat) :
    bit (setBit w i b) j = if j = i then b else bit w j := by
  have hmask := bit_bitMask hi j
  rw [bit] at hmask
  by_cases hj : j < 32
  · by_cases hji : j = i
    · cases b <;> simp_all [setBit_eq, bit]
    · cases b <;> simp_all [setBit_eq, bit]
  · have hji : j ≠ i := by omega
    cases b <;> simp_all [setBit_eq, bit]

/-- ACCOV is bit 7. -/
theorem bitMask_seven : bitMask 7 = 0x80#32 := rfl

/-! ### The flags a result writes (R237) -/

theorem writesZN_flagsZN (fl r : Word) : WritesZN fl (flagsZN fl r) r := by
  refine ⟨?_, ?_, fun i hi => ?_⟩
  · simp [flagsZN, bit_setBit]
  · simp [flagsZN, bit_setBit]
  · simp [flagsZN, bit_setBit, show i ≠ 0 by omega, show i ≠ 1 by omega]

theorem writesZNCV_flagsZNCV (fl r : Word) (c v : Bool) : WritesZNCV fl (flagsZNCV fl r c v) r c v := by
  refine ⟨?_, ?_, ?_, ?_, fun i hi => ?_⟩
  all_goals simp [flagsZNCV, flagsZN, bit_setBit]
  simp [show i ≠ 0 by omega, show i ≠ 1 by omega, show i ≠ 2 by omega, show i ≠ 3 by omega]

/-- The signed sum does not fit exactly when both operands have one sign and the sum the other. -/
theorem add_overflow (a b : Word) :
    (a.msb == b.msb && (a + b).msb != a.msb) = decide ((a + b).toInt ≠ a.toInt + b.toInt) := by
  rw [Bool.eq_iff_iff]
  simp only [BitVec.msb_eq_decide, BitVec.toInt_eq_toNat_cond, BitVec.toNat_add, Bool.and_eq_true, beq_iff_eq, bne_iff_ne,
    decide_eq_true_eq, decide_eq_decide, ne_eq]
  have ha := a.isLt
  have hb := b.isLt
  omega

/-- The signed difference does not fit exactly when the operands differ in sign and the difference has not the sign of
the first. -/
theorem sub_overflow (a b : Word) :
    (a.msb != b.msb && (a - b).msb != a.msb) = decide ((a - b).toInt ≠ a.toInt - b.toInt) := by
  rw [Bool.eq_iff_iff]
  simp only [BitVec.msb_eq_decide, BitVec.toInt_eq_toNat_cond, BitVec.toNat_sub, Bool.and_eq_true, bne_iff_ne,
    decide_eq_true_eq, decide_eq_decide, ne_eq]
  have ha := a.isLt
  have hb := b.isLt
  omega

theorem writesZNCV_flagsAdd (fl a b : Word) : WritesZNCV fl (flagsAdd fl a b) (a + b)
    (decide (2 ^ 32 ≤ a.toNat + b.toNat)) (decide ((a + b).toInt ≠ a.toInt + b.toInt)) := by
  rw [← add_overflow]
  exact writesZNCV_flagsZNCV ..

theorem writesZNCV_flagsSub (fl a b : Word) : WritesZNCV fl (flagsSub fl a b) (a - b)
    (decide (b.toNat ≤ a.toNat)) (decide ((a - b).toInt ≠ a.toInt - b.toInt)) := by
  rw [← sub_overflow]
  exact writesZNCV_flagsZNCV ..

/-! ### What a plain instruction yields -/

/-- Writing Gd, with its flags written where F = 1. -/
theorem wr_eq (x : Core) (gd : Nat) (r : Word) (f : Bool) (fl : Word) :
    wr x gd r f fl = { x.setG gd r with flags := if f then fl else x.flags } := by
  cases f <;> rfl

/-- A set SAT lies over the flags. -/
theorem Core.sat_eq (x : Core) (b : Bool) : x.sat b = { x with flags := if b then x.flags ||| 0x40#32 else x.flags } := by
  cases b <;> rfl

section
variable {k : Issue} {s u : State} (h : Issues k s u)
include h

/-- A plain instruction that writes Gd and the flags yields them. -/
theorem plain_yieldsG {fmt : Fmt} {p : Bool} {f : Core → Core} {gd : Nat} {r fl : Word} (hb : fmt.repBody = true)
    (hf : f (u.core k.tile k.core) = { (u.core k.tile k.core).setG gd r with flags := fl }) :
    YieldsG k u (plain k fmt p f s) gd r fl := (plain_ran h hb).congr hf

/-- A plain instruction that writes Gd alone. -/
theorem plain_setG {fmt : Fmt} {p : Bool} {v : Core → Word} {gd : Nat} {r : Word} (hb : fmt.repBody = true)
    (hv : v (u.core k.tile k.core) = r) :
    YieldsG k u (plain k fmt p (fun x => x.setG gd (v x)) s) gd r (u.core k.tile k.core).flags :=
  plain_yieldsG h hb (by rw [hv]; rfl)

theorem aluOp_yieldsG {op : Word → Word → Word} {fl : Word → Word → Word → Word} (gd ga gb : Fin 32) (f : Bool) :
    YieldsG k u (aluOp op fl k gd ga gb f s) gd (op ((u.core k.tile k.core).gr ga) ((u.core k.tile k.core).gr gb))
      (if f then fl (u.core k.tile k.core).flags ((u.core k.tile k.core).gr ga) ((u.core k.tile k.core).gr gb)
       else (u.core k.tile k.core).flags) :=
  plain_yieldsG h rfl (wr_eq ..)

/-- An instruction that writes Gd, and Z and N where F = 1. -/
theorem plain_yieldsZN {v : Core → Word} {gd : Nat} {r : Word} {f : Bool} (hv : v (u.core k.tile k.core) = r) :
    YieldsZN k u f (plain k .a false (fun x => wr x gd (v x) f (flagsZN x.flags (v x))) s) gd r := by
  refine ⟨_, plain_yieldsG h rfl (by rw [hv, wr_eq]), ?_⟩
  cases f
  · rfl
  · exact writesZN_flagsZN ..

end

/-- Settles O1: the overflow of the model, read off the signs, is the sum or difference that does not fit. -/
theorem addSubCompareFlags : Obligations.AddSubCompareFlags := by
  unfold Obligations.AddSubCompareFlags
  intro k gd ga gb f s u h
  refine ⟨⟨_, aluOp_yieldsG h gd ga gb f, ?_, ?_⟩, ⟨_, aluOp_yieldsG h gd ga gb f, ?_, ?_⟩,
    ⟨_, plain_ran h rfl, writesZNCV_flagsSub ..⟩, ⟨_, plain_ran h rfl, writesZNCV_flagsZNCV ..⟩⟩
  · rintro rfl; exact writesZNCV_flagsAdd ..
  · rintro rfl; rfl
  · rintro rfl; exact writesZNCV_flagsSub ..
  · rintro rfl; rfl

end Sys2Proof.Machine
end

section
/-! SUPPORT. The logic, shift and arithmetic instructions as arithmetic on numbers (R241), and with them O2 and O3. -/

namespace Sys2Proof.Machine

/-! ### Shifts and negation as arithmetic -/

theorem shiftLeft_eq_mul (a : Word) (n : Nat) : a <<< n = BitVec.ofNat 32 (a.toNat * 2 ^ n) := by
  apply BitVec.eq_of_toNat_eq
  simp [Nat.shiftLeft_eq]

theorem ushiftRight_eq_div (a : Word) (n : Nat) : a >>> n = BitVec.ofNat 32 (a.toNat / 2 ^ n) := by
  apply BitVec.eq_of_toNat_eq
  have hlt : a.toNat / 2 ^ n < 2 ^ 32 := Nat.lt_of_le_of_lt (Nat.div_le_self ..) a.isLt
  rw [BitVec.toNat_ushiftRight, Nat.shiftRight_eq_div_pow, BitVec.toNat_ofNat, Nat.mod_eq_of_lt hlt]

theorem sshiftRight_eq_div (a : Word) (n : Nat) : a.sshiftRight n = BitVec.ofInt 32 (a.toInt / (2 ^ n : Nat)) := by
  rw [BitVec.sshiftRight_eq, Int.shiftRight_eq_div_pow]

theorem zero_sub_eq_ofInt (a : Word) : 0#32 - a = BitVec.ofInt 32 (-a.toInt) := by
  rw [BitVec.ofInt_neg, BitVec.ofInt_toInt, BitVec.zero_sub]

/-- The amount of an immediate shift (R241). -/
theorem toNat_shiftAmount (sh : Fin 32) : (BitVec.ofNat 32 sh.val).toNat = sh.val := by
  rw [BitVec.toNat_ofNat]
  omega

theorem shlW_imm (a : Word) (sh : Fin 32) : shlW a (BitVec.ofNat 32 sh.val) = BitVec.ofNat 32 (a.toNat * 2 ^ sh.val) := by
  rw [shlW, toNat_shiftAmount, Nat.mod_eq_of_lt (by omega), shiftLeft_eq_mul]

theorem shrW_imm (a : Word) (sh : Fin 32) : shrW a (BitVec.ofNat 32 sh.val) = BitVec.ofNat 32 (a.toNat / 2 ^ sh.val) := by
  rw [shrW, toNat_shiftAmount, Nat.mod_eq_of_lt (by omega), ushiftRight_eq_div]

theorem sarW_imm (a : Word) (sh : Fin 32) :
    sarW a (BitVec.ofNat 32 sh.val) = BitVec.ofInt 32 (a.toInt / (2 ^ sh.val : Nat)) := by
  rw [sarW, toNat_shiftAmount, Nat.mod_eq_of_lt (by omega), sshiftRight_eq_div]

theorem rorW_imm (a : Word) (sh : Fin 32) : rorW a (BitVec.ofNat 32 sh.val) = a.rotateRight sh.val := by
  rw [rorW, toNat_shiftAmount, Nat.mod_eq_of_lt sh.isLt]

section
variable {k : Issue} {s u : State} (h : Issues k s u)
include h

/-- A format A operation that writes Z and N for its result. -/
theorem aluOp_yieldsZN (op : Word → Word → Word) {gd ga gb : Fin 32} {f : Bool} {r : Word}
    (hr : op ((u.core k.tile k.core).gr ga) ((u.core k.tile k.core).gr gb) = r) :
    YieldsZN k u f (aluOp op (fun fl a b => flagsZN fl (op a b)) k gd ga gb f s) gd r :=
  plain_yieldsZN (v := fun x => op (x.gr ga) (x.gr gb)) h hr

/-- A shift by an immediate. -/
theorem shiftImm_yieldsZN (op : Word → Word → Word) {gd ga sh : Fin 32} {f : Bool} {r : Word}
    (hr : op ((u.core k.tile k.core).gr ga) (BitVec.ofNat 32 sh.val) = r) :
    YieldsZN k u f (shiftImm op k gd ga sh f s) gd r :=
  plain_yieldsZN (v := fun x => op (x.gr ga) (BitVec.ofNat 32 sh.val)) h hr

/-- An operation on two registers without flags. -/
theorem binOp_yieldsG (op : Word → Word → Word) {gd ga gb : Fin 32} {r : Word}
    (hr : op ((u.core k.tile k.core).gr ga) ((u.core k.tile k.core).gr gb) = r) :
    YieldsG k u (binOp op k gd ga gb s) gd r (u.core k.tile k.core).flags :=
  plain_setG (v := fun x => op (x.gr ga) (x.gr gb)) h rfl hr

end

/-- Settles O2: shifts are multiplications and floored divisions by a power of two. -/
theorem logicShiftResults : Obligations.LogicShiftResults := by
  unfold Obligations.LogicShiftResults
  intro k gd ga gb sh f s u h x a b n
  exact ⟨aluOp_yieldsZN h (· &&& ·) rfl, aluOp_yieldsZN h (· ||| ·) rfl, aluOp_yieldsZN h (· ^^^ ·) rfl,
    aluOp_yieldsZN h (fun a b => a &&& ~~~b) rfl, plain_yieldsZN (v := fun x => 0#32 - x.gr ga) h (zero_sub_eq_ofInt a),
    aluOp_yieldsZN h shlW (shiftLeft_eq_mul a n), aluOp_yieldsZN h shrW (ushiftRight_eq_div a n),
    aluOp_yieldsZN h sarW (sshiftRight_eq_div a n), aluOp_yieldsZN h rorW rfl, shiftImm_yieldsZN h shlW (shlW_imm a sh),
    shiftImm_yieldsZN h shrW (shrW_imm a sh), shiftImm_yieldsZN h sarW (sarW_imm a sh),
    shiftImm_yieldsZN h rorW (rorW_imm a sh)⟩

/-! ### Arithmetic (R241) -/

/-- The signed 32-bit range. -/
theorem satSigned_word (v : Int) : satSigned 32 v = max (-(2 ^ 31)) (min (2 ^ 31 - 1) v) := rfl

theorem satSigned_word_of_fits {v : Int} (hlo : -(2 ^ 31) ≤ v) (hhi : v < 2 ^ 31) : satSigned 32 v = v := by
  rw [satSigned_word]
  omega

theorem toInt_word_bounds (a : Word) : -(2 ^ 31) ≤ a.toInt ∧ a.toInt < 2 ^ 31 := ⟨a.le_toInt, a.toInt_lt⟩

theorem eq_ofInt_of_toInt_eq {a : Word} {v : Int} (h : a.toInt = v) : a = BitVec.ofInt 32 v := by
  rw [← h, BitVec.ofInt_toInt]

theorem toInt_eq_min_iff (a : Word) : a.toInt = -(2 ^ 31) ↔ a = 0x80000000#32 :=
  BitVec.toInt_inj (y := 0x80000000#32)

/-- ABS is the absolute value brought into range. -/
theorem absSat_eq (a : Word) : absSat a = BitVec.ofInt 32 (satSigned 32 (a.toInt.natAbs : Int)) := by
  obtain ⟨hlo, hhi⟩ := toInt_word_bounds a
  unfold absSat
  split
  · next hmin => subst hmin; rfl
  · next hmin =>
    have hne := mt (toInt_eq_min_iff a).mp hmin
    rw [satSigned_word_of_fits (by omega) (by omega)]
    split
    · next hneg =>
      have : a.toInt < 0 := by simpa [BitVec.msb_eq_toInt] using hneg
      rw [zero_sub_eq_ofInt, show -a.toInt = (a.toInt.natAbs : Int) by omega]
    · next hpos =>
      have : 0 ≤ a.toInt := by simpa [BitVec.msb_eq_toInt] using hpos
      exact eq_ofInt_of_toInt_eq (by omega)

theorem mulhW_eq (a b : Word) : mulhW a b = BitVec.ofInt 32 (a.toInt * b.toInt / 2 ^ 32) := by
  rw [mulhW, Int.fdiv_eq_ediv_of_nonneg _ (Int.natCast_nonneg _)]
  rfl

/-- A quotient fits, but for the least number divided by -1. -/
theorem tdiv_fits {a b : Word} (h : ¬(a = 0x80000000#32 ∧ b = 0xFFFFFFFF#32)) :
    -(2 ^ 31) ≤ a.toInt.tdiv b.toInt ∧ a.toInt.tdiv b.toInt < 2 ^ 31 := by
  obtain ⟨hlo, hhi⟩ := toInt_word_bounds a
  have habs := Int.natAbs_tdiv_le_natAbs a.toInt b.toInt
  by_cases hmin : a.toInt = -(2 ^ 31)
  · have hb : b.toInt ≠ -1 := fun e =>
      h ⟨(toInt_eq_min_iff a).mp hmin, (BitVec.toInt_inj (y := 0xFFFFFFFF#32)).mp e⟩
    by_cases hone : b.toInt = 1
    · rw [hone, Int.tdiv_one]; omega
    · have hlt : (a.toInt.tdiv b.toInt).natAbs < 2 ^ 31 := by
        rw [Int.natAbs_tdiv, hmin]
        rcases Nat.eq_zero_or_pos b.toInt.natAbs with h0 | h0
        · rw [h0]; decide
        · exact Nat.div_lt_self (by decide) (by omega)
      omega
  · omega

/-- DIV is the quotient rounded towards 0, brought into range. -/
theorem divW_eq (a b : Word) : divW a b = BitVec.ofInt 32 (satSigned 32 (a.toInt.tdiv b.toInt)) := by
  unfold divW
  split
  · next hb => subst hb; simp [satSigned_word_of_fits]
  · split
    · next hmin => obtain ⟨rfl, rfl⟩ := hmin; rfl
    · next hb hmin => rw [satSigned_word_of_fits (tdiv_fits hmin).1 (tdiv_fits hmin).2]

theorem divuW_eq (a b : Word) : divuW a b = BitVec.ofNat 32 (a.toNat / b.toNat) := by
  unfold divuW
  split
  · next hb => subst hb; simp
  · exact BitVec.udiv_def

/-- The lesser of two signed words is the word of the lesser value. -/
theorem ofInt_min (a b : Word) : (if a.toInt ≤ b.toInt then a else b) = BitVec.ofInt 32 (min a.toInt b.toInt) := by
  apply eq_ofInt_of_toInt_eq
  split <;> omega

theorem ofInt_max (a b : Word) : (if a.toInt ≤ b.toInt then b else a) = BitVec.ofInt 32 (max a.toInt b.toInt) := by
  apply eq_ofInt_of_toInt_eq
  split <;> omega

theorem ofNat_min (a b : Word) : (if a.toNat ≤ b.toNat then a else b) = BitVec.ofNat 32 (min a.toNat b.toNat) := by
  split
  · next h => simp [Nat.min_eq_left h]
  · next h => simp [Nat.min_eq_right (Nat.le_of_not_le h)]

theorem ofNat_max (a b : Word) : (if a.toNat ≤ b.toNat then b else a) = BitVec.ofNat 32 (max a.toNat b.toNat) := by
  split
  · next h => simp [Nat.max_eq_right h]
  · next h => simp [Nat.max_eq_left (Nat.le_of_not_le h)]

/-- The number of leading zeros. -/
def leadingZeros (a : Word) : Nat := 32 - (if a = 0#32 then 0 else Nat.log2 a.toNat + 1)

/-- That many bits at the top are 0, and the next one is not. -/
theorem leadingZeros_spec (a : Word) : leadingZeros a ≤ 32 ∧ a.toNat < 2 ^ (32 - leadingZeros a) ∧
    (leadingZeros a < 32 → 2 ^ (31 - leadingZeros a) ≤ a.toNat) := by
  unfold leadingZeros
  split
  · next ha => subst ha; simp
  · next ha =>
    have hpos : a.toNat ≠ 0 := fun e => ha (BitVec.eq_of_toNat_eq e)
    have hlog : a.toNat.log2 < 32 := (Nat.log2_lt hpos).mpr a.isLt
    have htop : 32 - (32 - (a.toNat.log2 + 1)) = a.toNat.log2 + 1 := by omega
    have hnext : 31 - (32 - (a.toNat.log2 + 1)) = a.toNat.log2 := by omega
    rw [htop, hnext]
    exact ⟨by omega, Nat.lt_log2_self, fun _ => Nat.log2_self_le hpos⟩

theorem getLsbD_brevW (a : Word) {i : Nat} (hi : i < 32) : (brevW a).getLsbD i = a.getLsbD (31 - i) := by
  rw [brevW, BitVec.getLsbD_reverse, BitVec.getMsbD, decide_eq_true hi, Bool.true_and]

section
variable {k : Issue} {s u : State} (h : Issues k s u)
include h

/-- A saturating operation. -/
theorem satOp_yieldsG (op : Int → Int → Int) (gd ga gb : Fin 32) :
    let x := u.core k.tile k.core
    let v := op (x.gr ga).toInt (x.gr gb).toInt
    YieldsG k u (satOp op k gd ga gb s) gd (BitVec.ofInt 32 (satSigned 32 v))
      (if satSigned 32 v != v then x.flags ||| 0x40#32 else x.flags) :=
  plain_yieldsG h rfl (Core.sat_eq ..)

end

/-- Settles O3: each result is arithmetic on the numbers the operands stand for, brought into range where it saturates. -/
theorem arithmeticResults : Obligations.ArithmeticResults := by
  unfold Obligations.ArithmeticResults
  intro k gd ga gb f s u h x a b lim sat
  refine ⟨⟨if f then flagsZN x.flags (absSat a) else x.flags, ?abs, ?absFlags⟩, binOp_yieldsG h (· * ·) rfl, binOp_yieldsG h mulhW (mulhW_eq a b), binOp_yieldsG h mulhuW rfl,
    ⟨_, ?div, rfl⟩, ?divu, satOp_yieldsG h (· + ·) gd ga gb, satOp_yieldsG h (· - ·) gd ga gb,
    binOp_yieldsG h (fun a b => if a.toInt ≤ b.toInt then a else b) (ofInt_min a b),
    binOp_yieldsG h (fun a b => if a.toInt ≤ b.toInt then b else a) (ofInt_max a b),
    binOp_yieldsG h (fun a b => if a.toNat ≤ b.toNat then a else b) (ofNat_min a b),
    binOp_yieldsG h (fun a b => if a.toNat ≤ b.toNat then b else a) (ofNat_max a b),
    plain_setG (v := fun x => if x.t then x.gr ga else x.gr gb) h rfl rfl,
    ⟨leadingZeros a, plain_setG (v := fun x => clzW (x.gr ga)) h rfl rfl, leadingZeros_spec a⟩,
    plain_setG (v := fun x => popcW (x.gr ga)) h rfl rfl,
    ⟨brevW a, plain_setG (v := fun x => brevW (x.gr ga)) h rfl rfl, fun i hi => getLsbD_brevW a hi⟩⟩
  case abs => exact plain_yieldsG h rfl (by rw [wr_eq, Core.sat_eq, absSat_eq]; rfl)
  case absFlags =>
    cases f
    · rfl
    · exact absSat_eq a ▸ writesZN_flagsZN ..
  case div => exact plain_yieldsG h rfl (by simp only [wr_eq, Core.sat_eq, divW_eq]; rfl)
  case divu =>
    rw [← divuW_eq]
    exact aluOp_yieldsG (op := divuW) (fl := fun fl _ b => setBit fl 3 (b == 0#32)) h gd ga gb f

end Sys2Proof.Machine
end

section
/-! SUPPORT. The accumulators (R245, R248 to R250): what adding to one does, and what narrowing one writes; with them O11. -/

namespace Sys2Proof.Machine

/-! ### Accumulators -/

@[simp] theorem Core.accRe_setAcc (x : Core) (n : Nat) (re im : BitVec 40) : (x.setAcc n re im).accRe n = re := by
  simp [Core.accRe, Core.setAcc, mgetD, mget_mset_self]

@[simp] theorem Core.accIm_setAcc (x : Core) (n : Nat) (re im : BitVec 40) : (x.setAcc n re im).accIm n = im := by
  simp [Core.accIm, Core.setAcc, mgetD, mget_mset_self]

theorem Core.accRe_setAcc_ne (x : Core) {n m : Nat} (h : m ≠ n) (re im : BitVec 40) :
    (x.setAcc n re im).accRe m = x.accRe m := by
  simp [Core.accRe, Core.setAcc, mgetD, mget_mset_ne h]

theorem Core.accIm_setAcc_ne (x : Core) {n m : Nat} (h : m ≠ n) (re im : BitVec 40) :
    (x.setAcc n re im).accIm m = x.accIm m := by
  simp [Core.accIm, Core.setAcc, mgetD, mget_mset_ne h]

/-- A set ACCOV lies over the flags. -/
theorem Core.accov_eq (x : Core) (b : Bool) :
    x.accov b = { x with flags := if b then x.flags ||| 0x80#32 else x.flags } := by
  cases b <;> rfl

/-- A value brought into the range of an accumulator half (R249). -/
def accLimit (v : Int) : Int := max (-(2 ^ 39)) (min (2 ^ 39 - 1) v)

theorem satSigned_acc (v : Int) : satSigned 40 v = accLimit v := by norm_num [satSigned, accLimit]

/-- Adding to an accumulator clamps both halves and sets ACCOV where one clamps (R249). -/
theorem accAdd2_eq (x : Core) (n : Nat) (a b : Int) :
    let p := (x.accRe n).toInt + a
    let q := (x.accIm n).toInt + b
    accAdd2 x n a b = { x.setAcc n (BitVec.ofInt 40 (accLimit p)) (BitVec.ofInt 40 (accLimit q)) with
      flags := if accLimit p ≠ p ∨ accLimit q ≠ q then x.flags ||| 0x80#32 else x.flags } := by
  simp only [accAdd2, accAdd, satSigned_acc, Core.accov_eq, Bool.or_eq_true, bne_iff_ne]
  rfl

/-- Bits below ACCOV stand. -/
theorem bit_or_accov (fl : Word) {i : Nat} (hi : i < 7) : bit (fl ||| 0x80#32) i = bit fl i := by
  have hmask : bit (bitMask 7) i = false := by rw [bit_bitMask (by decide)]; exact decide_eq_false (by omega)
  rw [bitMask_seven, bit] at hmask
  simp [bit, hmask]

theorem accAdd2_bit (x : Core) (n : Nat) (a b : Int) {i : Nat} (hi : i < 7) :
    bit (accAdd2 x n a b).flags i = bit x.flags i := by
  rw [accAdd2_eq]
  dsimp only
  split
  · exact bit_or_accov _ hi
  · rfl

@[simp] theorem accAdd2_g (x : Core) (n : Nat) (a b : Int) : (accAdd2 x n a b).g = x.g := by rw [accAdd2_eq]; rfl
@[simp] theorem accAdd2_a (x : Core) (n : Nat) (a b : Int) : (accAdd2 x n a b).a = x.a := by rw [accAdd2_eq]; rfl
@[simp] theorem accAdd2_v (x : Core) (n : Nat) (a b : Int) : (accAdd2 x n a b).v = x.v := by rw [accAdd2_eq]; rfl

theorem accAdd2_accRe (x : Core) (n : Nat) (a b : Int) :
    (accAdd2 x n a b).accRe n = BitVec.ofInt 40 (accLimit ((x.accRe n).toInt + a)) := by
  rw [accAdd2_eq]; exact Core.accRe_setAcc ..

theorem accAdd2_accIm (x : Core) (n : Nat) (a b : Int) :
    (accAdd2 x n a b).accIm n = BitVec.ofInt 40 (accLimit ((x.accIm n).toInt + b)) := by
  rw [accAdd2_eq]; exact Core.accIm_setAcc ..

theorem accAdd2_accRe_ne (x : Core) {n m : Nat} (h : m ≠ n) (a b : Int) : (accAdd2 x n a b).accRe m = x.accRe m := by
  rw [accAdd2_eq]; exact Core.accRe_setAcc_ne x h ..

theorem accAdd2_accIm_ne (x : Core) {n m : Nat} (h : m ≠ n) (a b : Int) : (accAdd2 x n a b).accIm m = x.accIm m := by
  rw [accAdd2_eq]; exact Core.accIm_setAcc_ne x h ..

section
variable {k : Issue} {s u : State} (h : Issues k s u)
include h

/-- FIR4 with n of 0 or 2 adds to ACCn and then to the next (R248). -/
theorem exec_fir4_even {n : Fin 4} (ga gb gc : Fin 32) (hi : Bool) (hn : n.val % 2 = 0) :
    let x := u.core k.tile k.core
    let c := if hi then cIm (x.gr gc) else cRe (x.gr gc)
    exec (.fir4 k n ga gb gc hi) s = .next (done k u
      (accAdd2 (accAdd2 x n (cRe (x.gr ga) * c) (cIm (x.gr ga) * c)) (n.val + 1) (cRe (x.gr gb) * c) (cIm (x.gr gb) * c))) := by
  show execFir4 k n ga gb gc hi s = _
  rw [execFir4, issue_eq h rfl, if_neg (by omega)]
  rfl

/-- Adding `p.1` and `p.2` to ACCn, by a plain instruction of format X. -/
theorem plain_accAdd2 (n : Nat) (p : Core → Int × Int) :
    let x := u.core k.tile k.core
    let a := (x.accRe n).toInt + (p x).1
    let b := (x.accIm n).toInt + (p x).2
    Ran k u (plain k .x false (fun y => accAdd2 y n (p y).1 (p y).2) s) fun y =>
      { y.setAcc n (BitVec.ofInt 40 (accLimit a)) (BitVec.ofInt 40 (accLimit b)) with
        flags := if accLimit a ≠ a ∨ accLimit b ≠ b then y.flags ||| 0x80#32 else y.flags } :=
  (plain_ran h rfl).congr (accAdd2_eq ..)

/-- CMUL writes the exact product (R248). -/
theorem cmul_ran (n : Fin 4) (ga gb : Fin 32) :
    let p := cmulP ((u.core k.tile k.core).gr ga) ((u.core k.tile k.core).gr gb)
    Ran k u (execCmul k n ga gb s) fun y => y.setAcc n (BitVec.ofInt 40 p.1) (BitVec.ofInt 40 p.2) :=
  (plain_ran h rfl).congr rfl

end

/-- Settles O11: both halves of an accumulator are the clamped sum, and what leaves one is its rounded, clamped quotient. -/
theorem accumulatorResults : Obligations.AccumulatorResults := by
  unfold Obligations.AccumulatorResults
  intro k n m ga gb gc gd hi rs s u h x re im lim accumulates narrowed clamps
  refine ⟨plain_accAdd2 h n fun x => cmulP (x.gr ga) (x.gr gb), plain_accAdd2 h n fun x => cmuljP (x.gr ga) (x.gr gb),
    plain_accAdd2 h n fun x => (-(cmulP (x.gr ga) (x.gr gb)).1, -(cmulP (x.gr ga) (x.gr gb)).2), cmul_ran h n ga gb,
    fun hn => ?fir4, plain_yieldsG h rfl (Core.sat_eq ..), plain_yieldsG h rfl (Core.sat_eq ..),
    plain_yieldsG h rfl (Core.sat_eq ..), (plain_ran h rfl).congr (by rw [staccC, Core.sat_eq]; rfl), plain_ran h rfl,
    plain_ran h rfl, plain_accAdd2 h n fun x => ((x.accRe m).toInt, (x.accIm m).toInt)⟩
  have hother : n.val ≠ n.val + 1 := by omega
  refine ⟨_, exec_fir4_even h ga gb gc hi hn, ?_, ?_, ?_, ?_, ?_, ?_, ?_, fun i hi => ?_⟩
  · rw [accAdd2_accRe_ne _ hother, accAdd2_accRe]; rfl
  · rw [accAdd2_accIm_ne _ hother, accAdd2_accIm]; rfl
  · rw [accAdd2_accRe, accAdd2_accRe_ne _ hother.symm]; rfl
  · rw [accAdd2_accIm, accAdd2_accIm_ne _ hother.symm]; rfl
  · rw [accAdd2_g, accAdd2_g]
  · rw [accAdd2_a, accAdd2_a]
  · rw [accAdd2_v, accAdd2_v]
  · rw [accAdd2_bit _ _ _ _ hi, accAdd2_bit _ _ _ _ hi]

end Sys2Proof.Machine
end

section
/-! SUPPORT. Jumps, predicted branches and REP (R234, R246, R263 to R265), and with them O5. -/

namespace Sys2Proof.Machine

/-! ### Retirement -/

/-- Outside a REP the next word follows. -/
theorem retire_no_rep {k : Issue} {x : Core} (h : x.rep = none) :
    retire k x = { x.stalled k.stall with retired := x.retired + 1#64, ext := none, pc := x.pc + 4#64 } := by
  simp [retire, h]

/-- The last iteration of a REP falls through (R263). -/
theorem retire_last {k : Issue} {x : Core} {r : RepState} (h : x.rep = some r) (hlast : r.left ≤ 1) :
    (retire k x).rep = none ∧ (retire k x).pc = x.pc + 4#64 := by
  simp [retire, h, hlast]

/-- Any other stays at the body (R263). -/
theorem retire_again {k : Issue} {x : Core} {r : RepState} (h : x.rep = some r) (hmore : 1 < r.left) :
    (retire k x).rep = some { r with left := r.left - 1, started := true } ∧ (retire k x).pc = x.pc := by
  simp [retire, h, Nat.not_le.mpr hmore]

/-! ### Predicted branches -/

/-- The core with the outcome of the branch at its PC in the predictor, and a misprediction counted. -/
def resolved (x : Core) (taken miss : Bool) : Core :=
  trainBtb { x with mispred := if miss then BitVec.ofNat 32 (satAdd 32 x.mispred.toNat 1) else x.mispred } x.pc.toNat taken

/-- The core that a branch leaves: on at the target or at the next word. -/
def branched (k : Issue) (x : Core) (taken miss : Bool) (target : DWord) : Core :=
  if taken then retireTo k (resolved x taken miss) target else retire k (resolved x taken miss)

/-- A branch with no EXT held leaves `branched`, and the early reads of a path it had guessed wrongly. -/
theorem branch_eq {k : Issue} {s : State} {x : Core} (hext : x.ext = none) (taken : Bool) (disp : DWord) :
    branch k s x taken disp =
      let miss := predicts x x.pc.toNat disp.msb != taken
      let t := s.setCore k.tile k.core (branched k x taken miss (x.pc + disp))
      if miss then (k.shadow.take 4).foldl (fun s l => earlyRead k.tile k.core l s) t else t := by
  have hmiss : ∀ miss : Bool, trainBtb (if miss then { x with mispred := BitVec.ofNat 32 (satAdd 32 x.mispred.toNat 1) }
      else x) x.pc.toNat taken = resolved x taken miss := by
    intro miss; cases miss <;> rfl
  have hbase : (if x.ext.isSome then x.extAt else x.pc) = x.pc := by rw [hext]; rfl
  simp only [branch, hbase, hmiss, done]
  cases taken <;> rfl

/-- What a branch leaves of its core, and where it continues. -/
theorem branched_spec (k : Issue) {x : Core} (hrep : x.rep = none) (taken miss : Bool) (target : DWord) :
    let y := branched k x taken miss target
    y.g = x.g ∧ y.a = x.a ∧ y.v = x.v ∧ y.acc = x.acc ∧ y.lr = x.lr ∧ y.flags = x.flags ∧ y.st = x.st ∧ y.rep = none ∧
      y.retired = x.retired + 1#64 ∧ y.pc = (if taken then target &&& ~~~3#64 else x.pc + 4#64) ∧
      y.mispred = (if miss then BitVec.ofNat 32 (satAdd 32 x.mispred.toNat 1) else x.mispred) := by
  have hkeep : (resolved x taken miss).rep = none := hrep
  cases taken
  · simp only [branched, Bool.false_eq_true, if_false, retire_no_rep hkeep]
    exact ⟨rfl, rfl, rfl, rfl, rfl, rfl, rfl, hkeep, rfl, rfl, rfl⟩
  · exact ⟨rfl, rfl, rfl, rfl, rfl, rfl, rfl, hkeep, rfl, rfl, rfl⟩

/-! ### The instructions -/

/-- A number less 1 is 0 exactly when it is 1. -/
theorem sub_one_ne_zero (a : Word) : (a - 1#32 != 0#32) = (a != 1#32) := by
  rw [Bool.eq_iff_iff]
  simp [BitVec.sub_eq_iff_eq_add]

section
variable {k : Issue} {s u : State} (h : IssuesAlone k s u)
include h

theorem exec_call (d : BitVec 26) :
    Jumped k u (exec (.call k d) s) (fun y => { y with lr := y.pc + 4#64 })
      ((u.core k.tile k.core).pc + (d.signExtend 64 <<< 2)) := by
  show execCall k d s = _
  rw [execCall, issue_alone h]
  rfl

theorem exec_jr (an : Fin 8) : Jumped k u (exec (.jr k an) s) id ((u.core k.tile k.core).ar an) := by
  show execJr k an s = _
  rw [execJr, issue_alone h]
  rfl

theorem exec_jalr (an : Fin 8) :
    Jumped k u (exec (.jalr k an) s) (fun y => { y with lr := y.pc + 4#64 }) ((u.core k.tile k.core).ar an) := by
  show execJalr k an s = _
  rw [execJalr, issue_alone h]
  rfl

theorem exec_ret : Jumped k u (exec (.ret k) s) id (u.core k.tile k.core).lr := by
  show execRet k s = _
  rw [execRet, issue_alone h]
  rfl

theorem exec_bCond {cond : Cond} (hcond : cond.val ≠ 15) (d : BitVec 22) :
    exec (.bCond k cond d) s = .next (branch k u (u.core k.tile k.core) (condHolds (u.core k.tile k.core) cond)
      (d.signExtend 64 <<< 2)) := by
  show execBCond k cond d s = _
  obtain ⟨⟨-, -, hext⟩, -⟩ := id h
  rw [execBCond, issue_alone h, if_neg hcond, hext]
  rfl

theorem exec_dbnz (ga : Fin 32) (d : BitVec 21) :
    let x := u.core k.tile k.core
    exec (.dbnz k ga d) s = .next (branch k u (x.setG ga (x.gr ga - 1#32)) (x.gr ga != 1#32) (d.signExtend 64 <<< 2)) := by
  show execDbnz k ga d s = _
  rw [execDbnz, issue_alone h, ← sub_one_ne_zero]
  rfl

/-- What REP does by its count (R263, R264). -/
theorem exec_rep (n : RepCount) : exec (.rep k n) s = .next (
    let x := u.core k.tile k.core
    if 4096 < repCount x n || (repCount x n = 0 && !bodyOk u x) then syncExc (alone k) u { cause := .illegal }
    else if repCount x n = 0 then u.setCore k.tile k.core (retireTo k x (x.pc + 8#64))
    else u.setCore k.tile k.core
      { retire k x with rep := some { at_ := x.pc, left := repCount x n, started := false } }) := by
  show execRep k n s = _
  rw [execRep, issue_slot0 h]
  rfl

/-- A count of 1 to 4,096 starts the loop. -/
theorem exec_rep_loops {n : RepCount} (hlo : 1 ≤ repCount (u.core k.tile k.core) n)
    (hhi : repCount (u.core k.tile k.core) n ≤ 4096) :
    let x := u.core k.tile k.core
    exec (.rep k n) s = .next (u.setCore k.tile k.core
      { retire k x with rep := some { at_ := x.pc, left := repCount x n, started := false } }) := by
  rw [exec_rep h, if_neg (by simp; omega), if_neg (by omega)]

/-- A count of 0 skips the body. -/
theorem exec_rep_skips {n : RepCount} (hzero : repCount (u.core k.tile k.core) n = 0)
    (hbody : bodyOk u (u.core k.tile k.core) = true) :
    Jumped k u (exec (.rep k n) s) id ((u.core k.tile k.core).pc + 8#64) := by
  rw [exec_rep h, if_neg (by simp [hzero, hbody]), if_pos hzero]
  rfl

/-- A count above 4,096, or of 0 before what may not be a body, is ILLEGAL. -/
theorem exec_rep_illegal {n : RepCount} (hbad : 4096 < repCount (u.core k.tile k.core) n ∨
      repCount (u.core k.tile k.core) n = 0 ∧ bodyOk u (u.core k.tile k.core) = false) :
    exec (.rep k n) s = .next (syncExc (alone k) u { cause := .illegal }) := by
  rw [exec_rep h, if_pos (by simpa using hbad)]

end

/-- Settles O5: a branch trains the predictor and counts what it guessed wrongly; REP and its body are the cases of
`exec_rep` and of `retire`. -/
theorem branchesAndLoops : Obligations.BranchesAndLoops := by
  unfold Obligations.BranchesAndLoops
  intro k cond an ga d22 d26 d21 n s u h x after
  obtain ⟨⟨-, -, hext⟩, hrep⟩ := id h
  refine ⟨exec_call h d26, exec_jr h an, exec_jalr h an, exec_ret h, fun hcond => ?bCond, ?dbnz,
    ⟨fun hcount => ?loop, fun hzero hbody => ?skip, fun hbad => ?illegal⟩, fun y r hr => ⟨retire_last hr, retire_again hr⟩⟩
  case bCond =>
    refine ⟨_, ?_, branched_spec k hrep _ _ _⟩
    rw [exec_bCond h hcond, branch_eq hext, add_sub_cancel_left]
  case dbnz =>
    refine ⟨_, ?_, branched_spec k (x := x.setG ga (x.gr ga - 1#32)) hrep _ _ _⟩
    rw [exec_dbnz h, branch_eq (x := x.setG ga (x.gr ga - 1#32)) hext, add_sub_cancel_left]
    rfl
  case loop => exact exec_rep_loops h hcount.1 hcount.2
  case skip => exact exec_rep_skips h hzero hbody
  case illegal => exact exec_rep_illegal h hbad

end Sys2Proof.Machine
end

section
/-! SUPPORT. The system instructions, exception entry and the timed events of a core (R246, R261, R266 to R278), and with
them O6, O7 and O8. -/

namespace Sys2Proof.Machine

/-! ### System instructions -/

section
variable {k : Issue} {s u : State} (h : IssuesAlone k s u)
include h

theorem exec_movc_read (hsup : (u.core k.tile k.core).sup = true) (g : Fin 32) (creg : BitVec 12) :
    exec (.movc k false g creg) s = .next (
      let y := coreRead (.core k.tile k.core) k.tile k.core (creg.toNat * 4) u
      done k y.2 ((y.2.core k.tile k.core).setG g y.1)) := by
  show execMovc k false g creg s = _
  rw [execMovc, issue_alone h]
  simp [hsup, ok]

theorem exec_movc_write (hsup : (u.core k.tile k.core).sup = true) (g : Fin 32) (creg : BitVec 12) :
    exec (.movc k true g creg) s = .next (
      let v := coreWrite (.core k.tile k.core) k.tile k.core (creg.toNat * 4) ((u.core k.tile k.core).gr g) u
      done k v (v.core k.tile k.core)) := by
  show execMovc k true g creg s = _
  rw [execMovc, issue_alone h]
  simp [hsup, ok]

theorem exec_fence_empty (hempty : (u.core k.tile k.core).stores = []) : Ran k u (exec (.fence k) s) id := by
  show execFence k s = _
  rw [execFence, issue_alone h, hempty]
  rfl

theorem exec_wait_quiet (hquiet : (u.core k.tile k.core).ipendWord = 0#32) :
    exec (.wait k) s = .next (u.setCore k.tile k.core
      { retire k (u.core k.tile k.core) with st := .wait, waitAt := u.now }) := by
  show execWait k s = _
  rw [execWait, issue_alone h, hquiet]
  rfl

theorem exec_tend_outside (hexl : (u.core k.tile k.core).exl = false) :
    exec (.tend k) s = .next (u.setCore k.tile k.core { u.core k.tile k.core with tendWait := true }) := by
  show execTend k s = _
  rw [execTend, issue_alone h, if_neg (by simp [hexl])]
  rfl

theorem exec_tterm_sup (hsup : (u.core k.tile k.core).sup = true) :
    exec (.tterm k) s = .next (terminate u k.tile k.core 3 0) := by
  show execTterm k s = _
  rw [execTterm, issue_alone h, hsup]
  rfl

/-- RTE in SUP: mode, flags and the REP come back (R265, R269). -/
theorem exec_rte_sup (hsup : (u.core k.tile k.core).sup = true) :
    let x := u.core k.tile k.core
    exec (.rte k) s = .next (u.setCore k.tile k.core
      { x with retired := x.retired + 1#64, flags := x.estat &&& flagMask, sup := bit x.estat 8, exl := false, pc := x.epc,
               rep := if x.erep = 0#32 then none else some { at_ := x.epc, left := x.erep.toNat, started := true } }) := by
  show execRte k s = _
  rw [execRte, issue_alone h, hsup]
  rfl

theorem exec_trap (imm : BitVec 16) :
    exec (.trap k imm) s = .next (syncExcNext k u { cause := .trap, info := imm.toNat }) := by
  show execTrap k imm s = _
  rw [execTrap, issue_alone h]
  rfl

theorem exec_break : exec (.break_ k) s = .next (syncExcNext k u { cause := .break_ }) := by
  show execBreak_ k s = _
  rw [execBreak_, issue_alone h]
  rfl

theorem exec_illegal : exec (.illegal k) s = .next (syncExc k u { cause := .illegal }) := by
  show execIllegal k s = _
  rw [execIllegal, issue_alone h]
  rfl

end

/-- Settles O6: each system instruction that issues alone does its one action. -/
theorem systemInstructions : Obligations.SystemInstructions := by
  unfold Obligations.SystemInstructions
  intro k an g creg s u h x c
  refine ⟨plain_alone h, fun hsup => exec_movc_read h hsup g creg, fun hsup => exec_movc_write h hsup g creg,
    exec_fence_empty h, exec_wait_quiet h, plain_alone h, plain_alone h, plain_alone h, exec_tend_outside h,
    exec_tterm_sup h, fun hsup hzero => ?plain, fun hsup hrep => ?looped⟩
  case plain => rw [exec_rte_sup h hsup, if_pos hzero]
  case looped => rw [exec_rte_sup h hsup, if_neg hrep]

/-! ### Exception entry (R269) -/

/-- Core `y` is what an entry with exception `e` leaves of core `x`. -/
def EnteredAs (x y : Core) (e : Exc) (epc : DWord) (einfo erep : Nat) : Prop :=
  y.epc = epc ∧ y.estat = x.flags ||| (if x.sup then 0x100#32 else 0#32) ∧ y.ecause = BitVec.ofNat 32 e.cause.code ∧
  y.einfo = BitVec.ofNat 32 einfo ∧ (∀ a, e.addr = some a → y.eaddr = BitVec.ofNat 64 a) ∧ y.erep = BitVec.ofNat 32 erep ∧
  y.sup = true ∧ y.exl = true ∧ y.pc = x.evec + BitVec.ofNat 64 (0x40 * e.cause.code) ∧
  y.g = x.g ∧ y.a = x.a ∧ y.v = x.v ∧ y.acc = x.acc ∧ y.cq = x.cq

theorem eaddrOf_some (s : State) {e : Exc} {a : Nat} (h : e.addr = some a) : (eaddrOf s e).1 = BitVec.ofNat 64 a := by
  rw [eaddrOf, h]

/-- With a handler, and none running where the exception is synchronous, the core enters it. -/
theorem takeExc_enters {w : State} {t c : Nat} {e : Exc} {sync : Bool} (hvec : (w.core t c).evec ≠ 0#64)
    (hexl : (sync && (w.core t c).exl) = false) (epc : DWord) (einfo erep : Nat) :
    EnteredAs (w.core t c) ((takeExc w t c e sync epc einfo erep).core t c) e epc einfo erep := by
  have hentry : (takeExc w t c e sync epc einfo erep).core t c =
      entryRegs (w.core t c) e epc einfo (eaddrOf w e).1 erep := by
    simp [takeExc, hvec, hexl]
  rw [hentry]
  exact ⟨rfl, rfl, rfl, rfl, fun a ha => eaddrOf_some w ha, rfl, rfl, rfl, rfl, rfl, rfl, rfl, rfl, rfl⟩

/-- A synchronous exception of the instruction that issues (R265, R268). -/
theorem syncExc_enters {k : Issue} {w : State} (e : Exc) (hvec : (w.core k.tile k.core).evec ≠ 0#64)
    (hexl : (w.core k.tile k.core).exl = false) :
    let x := w.core k.tile k.core
    let rep := match x.rep with | some r => r.left | none => 0
    EnteredAs x ((syncExc k w e).core k.tile k.core) e (if x.ext.isSome then x.extAt else x.pc)
      (e.info + b2n (rep != 0) * 2 ^ 30 + b2n (k.slot1 && x.ext.isNone && x.rep.isNone) * 2 ^ 29) rep := by
  have hcore : (w.setCore k.tile k.core ((w.core k.tile k.core).stalled k.stall)).core k.tile k.core =
      (w.core k.tile k.core).stalled k.stall := State.core_setCore ..
  have h := takeExc_enters (w := w.setCore k.tile k.core ((w.core k.tile k.core).stalled k.stall)) (e := e) (sync := true)
    (by rw [hcore]; exact hvec) (by rw [hcore]; exact hexl)
  rw [hcore] at h
  exact h _ _ _

/-- So of one that issues alone. -/
theorem syncExc_enters_alone {k : Issue} {s w : State} (h : IssuesAlone k s w) {e : Exc}
    (hvec : (w.core k.tile k.core).evec ≠ 0#64) (hexl : (w.core k.tile k.core).exl = false) :
    EnteredAs (w.core k.tile k.core) ((syncExc k w e).core k.tile k.core) e (w.core k.tile k.core).pc
      (e.info + b2n k.slot1 * 2 ^ 29) 0 := by
  obtain ⟨⟨-, -, hext⟩, hrep⟩ := h
  simpa [hrep, hext, b2n] using syncExc_enters e hvec hexl

/-- TRAP and BREAK go on behind themselves (R269). -/
theorem syncExcNext_enters {k : Issue} {w : State} (e : Exc) (hvec : (w.core k.tile k.core).evec ≠ 0#64)
    (hexl : (w.core k.tile k.core).exl = false) :
    EnteredAs (w.core k.tile k.core) ((syncExcNext k w e).core k.tile k.core) e ((w.core k.tile k.core).pc + 4#64)
      (e.info + b2n k.slot1 * 2 ^ 29) 0 :=
  takeExc_enters (sync := true) hvec hexl _ _ _

/-- Consuming a source leaves the vector base. -/
theorem asyncExc_evec (x : Core) (i : Nat) : (asyncExc x i).2.evec = x.evec := by
  unfold asyncExc
  split <;> rfl

/-- A core between instructions takes the pending source that comes first (R266, R270). -/
theorem exec_asyncException {tile core i : Nat} {s : State} (hst : (s.core tile core).st = .run ∨ (s.core tile core).st = .wait)
    (hexl : (s.core tile core).exl = false) (hrep : (s.core tile core).rep = none) (hext : (s.core tile core).ext = none)
    (hload : (s.core tile core).load = none) (hterm : (s.core tile core).terminating = none)
    (hra : (s.core tile core).runahead = false) (hrun : tileRun s tile = true)
    (hsource : asyncSource (s.core tile core) = some i) :
    exec (.asyncException tile core) s = .next (
      let w := if (s.core tile core).tendWait then s else squashCq s tile core
      let y := asyncExc (w.core tile core) i
      takeExc (w.setCore tile core y.2) tile core y.1 false (w.core tile core).pc y.1.info 0) := by
  show execAsyncException tile core s = _
  simp [execAsyncException, hst, hexl, hrep, hext, hload, hterm, hra, hrun, hsource, ok]

/-- Settles O7: every entry is `takeExc` with its own EPC and EINFO. -/
theorem exceptionEntry : Obligations.ExceptionEntry := by
  unfold Obligations.ExceptionEntry
  refine ⟨fun k imm s u h => ⟨fun hvec hexl => ⟨?trap, ?break_, ?illegal⟩, fun hsup => ?rte⟩,
    fun k e w hvec hexl => ⟨_, rfl, syncExc_enters e hvec hexl⟩,
    fun tile core i s hst hexl hrep hext hload hterm hra hrun hsource hvec => ?async⟩
  case trap => exact ⟨_, exec_trap h imm, syncExcNext_enters { cause := .trap, info := imm.toNat } hvec hexl⟩
  case break_ =>
    have hentry := syncExcNext_enters { cause := .break_ } hvec hexl
    rw [Nat.zero_add] at hentry
    exact ⟨_, exec_break h, hentry⟩
  case illegal =>
    have hentry := syncExc_enters_alone h (e := { cause := .illegal }) hvec hexl
    rw [Nat.zero_add] at hentry
    exact ⟨_, exec_illegal h, hentry⟩
  case rte => exact ⟨_, exec_rte_sup h hsup, rfl, rfl, rfl, rfl, rfl⟩
  case async =>
    refine ⟨_, exec_asyncException hst hexl hrep hext hload hterm hra hrun hsource, takeExc_enters ?_ rfl _ _ _⟩
    rw [State.core_setCore, asyncExc_evec]
    exact hvec

/-! ### Timed events -/

section
variable {tile core : Nat} {s : State}

/-- The core past the TEND at which it waited (R273). -/
def Core.pastTend (x : Core) : Core :=
  { x with tendWait := false, st := .idle, retired := x.retired + 1#64, pc := x.pc + 4#64 }

/-- TEND completes once no tag and no posted store is outstanding; the end of the task running there is reported (R273). -/
theorem exec_tendComplete (htend : (s.core tile core).tendWait = true) (hcq : (s.core tile core).cq = [])
    (hstores : (s.core tile core).stores = []) :
    let w := s.setCore tile core (s.core tile core).pastTend
    exec (.tendComplete tile core) s =
      .next (match runningOn w tile core with | some r => setRunning w { r with reported := some false } | none => w) := by
  show execTendComplete tile core s = _
  simp only [execTendComplete, htend, hcq, hstores, List.isEmpty_nil, Bool.and_self, if_true]
  split <;> simp_all [Core.pastTend, ok]

theorem exec_coreWaitTimeout_due (hst : (s.core tile core).st = .wait)
    (hdue : (s.core tile core).ipendWord ≠ 0#32 ∨ 1024 ≤ islandCycles s tile (s.now - (s.core tile core).waitAt)) :
    exec (.coreWaitTimeout tile core) s = .next (s.setCore tile core { s.core tile core with st := .run }) := by
  show execCoreWaitTimeout tile core s = _
  simp [execCoreWaitTimeout, hst, hdue, ok]

theorem exec_coreTimer_due (hpresent : corePresent s tile core = true) (htimer : (s.core tile core).timer ≠ 0#64)
    (hdue : (s.core tile core).timer.toNat ≤ tileCycles s tile) :
    exec (.coreTimer tile core) s = .next (s.setCore tile core
      { s.core tile core with timer := 0#64, ipend := (s.core tile core).ipend ||| 0x10#32 }) := by
  show execCoreTimer tile core s = _
  rw [execCoreTimer, if_pos (by simp [hpresent, htimer, hdue])]
  rfl

theorem exec_runaheadEnter_due {p : PendLoad} (hload : (s.core tile core).load = some p)
    (hra : (s.core tile core).runahead = false) (hrep : (s.core tile core).rep = none)
    (hexl : (s.core tile core).exl = false) (hen : bit (s.core tile core).ctrl 1 = true)
    (hdue : 16 ≤ islandCycles s tile (s.now - p.since)) (l : List (List Nat × Nat)) :
    let x := s.core tile core
    exec (.runaheadEnter tile core l) s = .next ((l.take 64).foldl (fun s g => earlyRead tile core g.1 s)
      (s.setCore tile core { x.stalled ((l.take 64).map Prod.snd).sum with
        runahead := true, runaheads := BitVec.ofNat 32 (satAdd 32 x.runaheads.toNat 1) })) := by
  show execRunaheadEnter tile core l s = _
  simp only [execRunaheadEnter, hload]
  rw [if_neg (by simp [hra, hrep, hexl, hen, hdue])]
  rfl

theorem exec_runaheadExit_returned (hra : (s.core tile core).runahead = true) (hload : (s.core tile core).load = none) :
    exec (.runaheadExit tile core) s = .next (s.setCore tile core { s.core tile core with runahead := false }) := by
  show execRunaheadExit tile core s = _
  simp [execRunaheadExit, hra, hload, ok]

end

/-- Settles O8: each event takes effect where its condition is met. -/
theorem coreEvents : Obligations.CoreEvents := by
  unfold Obligations.CoreEvents
  intro tile core s x
  refine ⟨fun htend hcq hstores hnone => ?idle, fun r htend hcq hstores hrun => ?reported, exec_coreWaitTimeout_due,
    exec_coreTimer_due, fun i hst hexl hrep hext hload hterm hra hrun hsource htend => ?async,
    fun p l hload hra hrep hexl hen hdue => exec_runaheadEnter_due hload hra hrep hexl hen hdue l,
    exec_runaheadExit_returned⟩
  case idle =>
    have hnone' : runningOn (s.setCore tile core x.pastTend) tile core = none := hnone
    rw [exec_tendComplete htend hcq hstores, hnone']
    rfl
  case reported =>
    have hrun' : runningOn (s.setCore tile core x.pastTend) tile core = some r := hrun
    rw [exec_tendComplete htend hcq hstores, hrun']
    rfl
  case async =>
    rw [exec_asyncException hst hexl hrep hext hload hterm hra hrun hsource, if_pos htend]

end Sys2Proof.Machine
end

section
/-! SUPPORT. The coprocessor queue at the core (R247, R302, R313 to R320), and with it O18. -/

namespace Sys2Proof.Machine

/-! ### What retirement leaves alone, in a REP or out of it -/

/-- Retirement touches CORE_BANKSTALL, CORE_RETIRED, EXT, the REP and the PC alone. -/
theorem retire_keeps (k : Issue) (x : Core) :
    (retire k x).retired = x.retired + 1#64 ∧ (retire k x).cq = x.cq ∧ (retire k x).a = x.a := by
  unfold retire
  dsimp only
  split
  · split <;> exact ⟨rfl, rfl, rfl⟩
  · exact ⟨rfl, rfl, rfl⟩

/-! ### CQPUSH -/

/-- The state in which core `k` of `u` has retired with command `c` under the tag. -/
def cqPushed (k : Issue) (u : State) (tag : Nat) (c : CqCmd) : State :=
  u.setCore k.tile k.core { retire k (u.core k.tile k.core) with cq := mset tag c (u.core k.tile k.core).cq }

/-- The command that a CQPUSH of operation `op` to `tile` issues (R313). -/
def cqCommand (x : Core) (op tile : Nat) (arrived : Bool) (an ga : Nat) : CqCmd :=
  { op := op, an := (x.ar an).toNat, ga := x.gr ga, st := .issued, tile := tile, at_ := x.pc, ret := x.retired + 1#64,
    arrived := arrived, acked := false, result := none }

section
variable {k : Issue} {s u : State} (h : IssuesAlone k s u) {tag : Fin 64} (hstores : (u.core k.tile k.core).stores = [])
  (htag : mhas (u.core k.tile k.core).cq tag.val = false)
include h hstores htag

/-- A CQPUSH that nothing holds up and whose descriptor passes retires with its command issued. -/
theorem cqIssue_free {op tile n : Nat} {kind : Access} {arrived : Bool} {an : Fin 8} {ga : Fin 32} {act : State → State}
    (hroom : op < 0x200 → outstandingTo (u.core k.tile k.core) tile < 16)
    (hcheck : cqCheck (u.core k.tile k.core) ((u.core k.tile k.core).ar an).toNat n kind = none) :
    cqIssue k op tile n kind arrived an ga tag act s =
      act (cqPushed k u tag (cqCommand (u.core k.tile k.core) op tile arrived an ga)) := by
  obtain ⟨hretired, hcq, -⟩ := retire_keeps k (u.core k.tile k.core)
  have hheld : ¬(op < 0x200 ∧ 16 ≤ outstandingTo (u.core k.tile k.core) tile) := fun hx => by
    have := hroom hx.1
    omega
  rw [cqIssue, issue_alone h, if_neg (by simpa [hstores, htag] using hheld)]
  rw [hcheck, cqPushed, cqCommand, ← hretired, ← hcq]

end

section
variable {k : Issue} {s u : State} (h : IssuesAlone k s u)
include h

theorem exec_cqtest_ran (tag : Fin 64) : Ran k u (exec (.cqtest k tag) s)
    fun y => { y with flags := setBit (u.core k.tile k.core).flags 4 (!(mhas (u.core k.tile k.core).cq tag.val)) } :=
  (plain_alone h).congr rfl

theorem exec_cqstat_yieldsG (gd : Fin 32) (half : Bool) :
    let x := u.core k.tile k.core
    YieldsG k u (exec (.cqstat k gd half) s) gd (if half then hi32 (cqMask x) else lo32 (cqMask x)) x.flags :=
  (plain_alone h).congr rfl

/-- A target that is no tile of a CQPUSH (R313). -/
theorem exec_accJob_illegal {target : Nat} (hbad : 0x90 ≤ target) (an : Fin 8) (ga : Fin 32) (tag : Fin 64) :
    exec (.accJob k an ga tag target) s = .next (syncExc k u { cause := .illegal }) := by
  show execAccJob k an ga tag target s = _
  rw [execAccJob, if_pos hbad, issue_alone h]
  rfl

end

/-- Settles O18: the five forms of CQPUSH issue their command by `cqIssue_free`. -/
theorem coprocessorQueueIssue : Obligations.CoprocessorQueueIssue := by
  unfold Obligations.CoprocessorQueueIssue
  intro k an ga gd tag target half s u h x cmd pushed free
  refine ⟨⟨_, exec_cqtest_ran h tag, ?tested, fun i hi => ?untouched⟩, exec_cqstat_yieldsG h gd half,
    fun hfree htarget hroom hcheck => ?accJob, fun hfree hroom hcheck => ?helper, fun hfree hcheck => ?qPush,
    fun hfree hcheck => ?qPop, fun hfree hcheck => ?jobAbort, fun hbad => exec_accJob_illegal h hbad an ga tag⟩
  case tested => rw [bit_setBit _ (by decide), if_pos rfl]
  case untouched => rw [bit_setBit _ (by decide), if_neg hi]
  case accJob =>
    show execAccJob k an ga tag target s = _
    rw [execAccJob, if_neg (by omega), cqIssue_free h hfree.1 hfree.2 (fun _ => hroom) hcheck]
    rfl
  case helper =>
    show execHelper k an ga tag s = _
    rw [execHelper, cqIssue_free h hfree.1 hfree.2 (fun _ => hroom) hcheck]
    have har : ∀ c, ((cqPushed k u tag c).core k.tile k.core).ar an = x.ar an := by
      intro c
      rw [cqPushed, State.core_setCore]
      exact congrArg (fun l => mgetD 0#64 l an) (retire_keeps k x).2.2
    rw [har]
    rfl
  case qPush =>
    show execQPush k an ga tag s = _
    rw [execQPush, cqIssue_free h hfree.1 hfree.2 (fun hx => absurd hx (by decide)) hcheck]
    rfl
  case qPop =>
    show execQPop k an ga tag s = _
    rw [execQPop, cqIssue_free h hfree.1 hfree.2 (fun hx => absurd hx (by decide)) hcheck]
    rfl
  case jobAbort =>
    show execJobAbort k an ga tag s = _
    rw [execJobAbort, cqIssue_free h hfree.1 hfree.2 (fun hx => absurd hx (by decide)) hcheck]
    rfl

end Sys2Proof.Machine
end

section
/-! SUPPORT. The frame of the instructions of a core that store nothing, one constructor after the other by the law of its
meaning; with it O59. -/

namespace Sys2Proof.Machine

/-! ### Branches that read nothing early -/

section
variable {n : Option Nat} {s : State} {k : Issue} (hshadow : k.shadow = []) (hn : ∀ m, n = some m → m = coreKey k.tile k.core)
include hshadow hn

theorem execBCond_framed_alone (cond : Cond) (disp : BitVec 22) : FOut n s (execBCond k cond disp s) := by
  refine ok_framed (issue_framed hn (fun t x ht => ?_) (.refl n s))
  split
  · exact syncExc_framed hn ht
  · exact branch_framed_alone hshadow hn ht

theorem execDbnz_framed_alone (ga : Fin 32) (disp : BitVec 21) : FOut n s (execDbnz k ga disp s) :=
  ok_framed (issue_framed hn (fun _ _ ht => branch_framed_alone hshadow hn ht) (.refl n s))

end

/-! ### Every instruction of `inCore` and of `loadOf` -/

/-- A law for every key that names the core of the instruction gives the frame of the core that executes it. -/
theorem framedBy {k i : Issue} {s : State} {o : Host.Outcome State Fault Refusal} (hc : some i = some k)
    (law : (∀ m, some (coreKey i.tile i.core) = some m → m = coreKey i.tile i.core) → FOut (some (coreKey i.tile i.core)) s o) :
    FOut (some (coreKey k.tile k.core)) s o := by
  cases hc
  exact law fun m hm => (Option.some.inj hm).symm

/-- The instruction is a branch, which may have read early down the path it had guessed. -/
def isBranch (c : Instr) (k : Issue) : Prop := (∃ b d, c = .bCond k b d) ∨ ∃ g d, c = .dbnz k g d

/-- An instruction of a core that neither loads nor stores changes its own core alone, but for a branch that reads early. -/
theorem exec_inCore_framed {c : Instr} {k : Issue} (hc : inCore c = some k) (hb : k.shadow = [] ∨ ¬isBranch c k) (s : State) :
    FOut (some (coreKey k.tile k.core)) s (exec c s) := by
  cases c with
  | bCond i b d =>
    cases hc
    have hshadow := hb.resolve_right fun h => h (.inl ⟨b, d, rfl⟩)
    exact framedBy rfl fun hn => execBCond_framed_alone hshadow hn b d
  | dbnz i g d =>
    cases hc
    have hshadow := hb.resolve_right fun h => h (.inr ⟨g, d, rfl⟩)
    exact framedBy rfl fun hn => execDbnz_framed_alone hshadow hn g d
  | ret => exact framedBy hc fun hn => execRet_framed hn (.refl _ s)
  | nop => exact framedBy hc fun hn => execNop_framed hn (.refl _ s)
  | tend => exact framedBy hc fun hn => execTend_framed hn (.refl _ s)
  | break_ => exact framedBy hc fun hn => execBreak__framed hn (.refl _ s)
  | rte => exact framedBy hc fun hn => execRte_framed hn (.refl _ s)
  | fence => exact framedBy hc fun hn => execFence_framed hn (.refl _ s)
  | wait => exact framedBy hc fun hn => execWait_framed hn (.refl _ s)
  | dcinvall => exact framedBy hc fun hn => execDcinvall_framed hn (.refl _ s)
  | icinv => exact framedBy hc fun hn => execIcinv_framed hn (.refl _ s)
  | tterm => exact framedBy hc fun hn => execTterm_framed hn (.refl _ s)
  | illegal => exact framedBy hc fun hn => execIllegal_framed hn (.refl _ s)
  | longPrefix => exact framedBy hc fun hn => execLongPrefix_framed hn (.refl _ s)
  | accclr => exact framedBy hc fun hn => execAccclr_framed hn (.refl _ s)
  | call => exact framedBy hc fun hn => execCall_framed hn (.refl _ s)
  | jr => exact framedBy hc fun hn => execJr_framed hn (.refl _ s)
  | jalr => exact framedBy hc fun hn => execJalr_framed hn (.refl _ s)
  | rep => exact framedBy hc fun hn => execRep_framed hn (.refl _ s)
  | trap => exact framedBy hc fun hn => execTrap_framed hn (.refl _ s)
  | dcinv => exact framedBy hc fun hn => execDcinv_framed hn (.refl _ s)
  | cqtest => exact framedBy hc fun hn => execCqtest_framed hn (.refl _ s)
  | clz => exact framedBy hc fun hn => execClz_framed hn (.refl _ s)
  | popc => exact framedBy hc fun hn => execPopc_framed hn (.refl _ s)
  | brev => exact framedBy hc fun hn => execBrev_framed hn (.refl _ s)
  | cmp => exact framedBy hc fun hn => execCmp_framed hn (.refl _ s)
  | tst => exact framedBy hc fun hn => execTst_framed hn (.refl _ s)
  | movhi => exact framedBy hc fun hn => execMovhi_framed hn (.refl _ s)
  | cmpi => exact framedBy hc fun hn => execCmpi_framed hn (.refl _ s)
  | aaddi => exact framedBy hc fun hn => execAaddi_framed hn (.refl _ s)
  | accadd => exact framedBy hc fun hn => execAccadd_framed hn (.refl _ s)
  | cqstat => exact framedBy hc fun hn => execCqstat_framed hn (.refl _ s)
  | neg => exact framedBy hc fun hn => execNeg_framed hn (.refl _ s)
  | abs_ => exact framedBy hc fun hn => execAbs__framed hn (.refl _ s)
  | mul => exact framedBy hc fun hn => execMul_framed hn (.refl _ s)
  | mulh => exact framedBy hc fun hn => execMulh_framed hn (.refl _ s)
  | mulhu => exact framedBy hc fun hn => execMulhu_framed hn (.refl _ s)
  | adds => exact framedBy hc fun hn => execAdds_framed hn (.refl _ s)
  | subs => exact framedBy hc fun hn => execSubs_framed hn (.refl _ s)
  | min_ => exact framedBy hc fun hn => execMin__framed hn (.refl _ s)
  | max_ => exact framedBy hc fun hn => execMax__framed hn (.refl _ s)
  | minu => exact framedBy hc fun hn => execMinu_framed hn (.refl _ s)
  | maxu => exact framedBy hc fun hn => execMaxu_framed hn (.refl _ s)
  | sel => exact framedBy hc fun hn => execSel_framed hn (.refl _ s)
  | addi => exact framedBy hc fun hn => execAddi_framed hn (.refl _ s)
  | andi => exact framedBy hc fun hn => execAndi_framed hn (.refl _ s)
  | ori => exact framedBy hc fun hn => execOri_framed hn (.refl _ s)
  | xori => exact framedBy hc fun hn => execXori_framed hn (.refl _ s)
  | cmac => exact framedBy hc fun hn => execCmac_framed hn (.refl _ s)
  | cmacj => exact framedBy hc fun hn => execCmacj_framed hn (.refl _ s)
  | cmsu => exact framedBy hc fun hn => execCmsu_framed hn (.refl _ s)
  | cmul => exact framedBy hc fun hn => execCmul_framed hn (.refl _ s)
  | staccC => exact framedBy hc fun hn => execStaccC_framed hn (.refl _ s)
  | staccRe => exact framedBy hc fun hn => execStaccRe_framed hn (.refl _ s)
  | staccIm => exact framedBy hc fun hn => execStaccIm_framed hn (.refl _ s)
  | staccCz => exact framedBy hc fun hn => execStaccCz_framed hn (.refl _ s)
  | accld => exact framedBy hc fun hn => execAccld_framed hn (.refl _ s)
  | movc => exact framedBy hc fun hn => execMovc_framed hn (.refl _ s)
  | vdup => exact framedBy hc fun hn => execVdup_framed hn (.refl _ s)
  | vrev => exact framedBy hc fun hn => execVrev_framed hn (.refl _ s)
  | vfnarrow => exact framedBy hc fun hn => execVfnarrow_framed hn (.refl _ s)
  | vfwiden => exact framedBy hc fun hn => execVfwiden_framed hn (.refl _ s)
  | vfcvti => exact framedBy hc fun hn => execVfcvti_framed hn (.refl _ s)
  | vfcvtf => exact framedBy hc fun hn => execVfcvtf_framed hn (.refl _ s)
  | fsqrt => exact framedBy hc fun hn => execFsqrt_framed hn (.refl _ s)
  | fcvt => exact framedBy hc fun hn => execFcvt_framed hn (.refl _ s)
  | fcvti => exact framedBy hc fun hn => execFcvti_framed hn (.refl _ s)
  | fcvtf => exact framedBy hc fun hn => execFcvtf_framed hn (.refl _ s)
  | fmovg => exact framedBy hc fun hn => execFmovg_framed hn (.refl _ s)
  | fmovf => exact framedBy hc fun hn => execFmovf_framed hn (.refl _ s)
  | helper => exact framedBy hc fun hn => execHelper_framed hn (.refl _ s)
  | qPush => exact framedBy hc fun hn => execQPush_framed hn (.refl _ s)
  | qPop => exact framedBy hc fun hn => execQPop_framed hn (.refl _ s)
  | jobAbort => exact framedBy hc fun hn => execJobAbort_framed hn (.refl _ s)
  | add_ => exact framedBy hc fun hn => execAdd__framed hn (.refl _ s)
  | sub_ => exact framedBy hc fun hn => execSub__framed hn (.refl _ s)
  | and_ => exact framedBy hc fun hn => execAnd__framed hn (.refl _ s)
  | or_ => exact framedBy hc fun hn => execOr__framed hn (.refl _ s)
  | xor_ => exact framedBy hc fun hn => execXor__framed hn (.refl _ s)
  | andn => exact framedBy hc fun hn => execAndn_framed hn (.refl _ s)
  | shl => exact framedBy hc fun hn => execShl_framed hn (.refl _ s)
  | shr => exact framedBy hc fun hn => execShr_framed hn (.refl _ s)
  | sar => exact framedBy hc fun hn => execSar_framed hn (.refl _ s)
  | ror => exact framedBy hc fun hn => execRor_framed hn (.refl _ s)
  | div_ => exact framedBy hc fun hn => execDiv__framed hn (.refl _ s)
  | divu => exact framedBy hc fun hn => execDivu_framed hn (.refl _ s)
  | shli => exact framedBy hc fun hn => execShli_framed hn (.refl _ s)
  | shri => exact framedBy hc fun hn => execShri_framed hn (.refl _ s)
  | sari => exact framedBy hc fun hn => execSari_framed hn (.refl _ s)
  | rori => exact framedBy hc fun hn => execRori_framed hn (.refl _ s)
  | vneg => exact framedBy hc fun hn => execVneg_framed hn (.refl _ s)
  | vabs => exact framedBy hc fun hn => execVabs_framed hn (.refl _ s)
  | vconj => exact framedBy hc fun hn => execVconj_framed hn (.refl _ s)
  | vrotj => exact framedBy hc fun hn => execVrotj_framed hn (.refl _ s)
  | vrsumw => exact framedBy hc fun hn => execVrsumw_framed hn (.refl _ s)
  | vext => exact framedBy hc fun hn => execVext_framed hn (.refl _ s)
  | vpermx => exact framedBy hc fun hn => execVpermx_framed hn (.refl _ s)
  | vmovg => exact framedBy hc fun hn => execVmovg_framed hn (.refl _ s)
  | vins => exact framedBy hc fun hn => execVins_framed hn (.refl _ s)
  | vfadd => exact framedBy hc fun hn => execVfadd_framed hn (.refl _ s)
  | vfsub => exact framedBy hc fun hn => execVfsub_framed hn (.refl _ s)
  | vfmul => exact framedBy hc fun hn => execVfmul_framed hn (.refl _ s)
  | vfma => exact framedBy hc fun hn => execVfma_framed hn (.refl _ s)
  | vfmin => exact framedBy hc fun hn => execVfmin_framed hn (.refl _ s)
  | vfmax => exact framedBy hc fun hn => execVfmax_framed hn (.refl _ s)
  | fadd => exact framedBy hc fun hn => execFadd_framed hn (.refl _ s)
  | fsub => exact framedBy hc fun hn => execFsub_framed hn (.refl _ s)
  | fmul => exact framedBy hc fun hn => execFmul_framed hn (.refl _ s)
  | fma => exact framedBy hc fun hn => execFma_framed hn (.refl _ s)
  | fdiv => exact framedBy hc fun hn => execFdiv_framed hn (.refl _ s)
  | fmin => exact framedBy hc fun hn => execFmin_framed hn (.refl _ s)
  | fmax => exact framedBy hc fun hn => execFmax_framed hn (.refl _ s)
  | fcmpg => exact framedBy hc fun hn => execFcmpg_framed hn (.refl _ s)
  | accJob => exact framedBy hc fun hn => execAccJob_framed hn (.refl _ s)
  | movx => exact framedBy hc fun hn => execMovx_framed hn (.refl _ s)
  | fir4 => exact framedBy hc fun hn => execFir4_framed hn (.refl _ s)
  | vadd => exact framedBy hc fun hn => execVadd_framed hn (.refl _ s)
  | vsub => exact framedBy hc fun hn => execVsub_framed hn (.refl _ s)
  | vavg => exact framedBy hc fun hn => execVavg_framed hn (.refl _ s)
  | vmin => exact framedBy hc fun hn => execVmin_framed hn (.refl _ s)
  | vmax => exact framedBy hc fun hn => execVmax_framed hn (.refl _ s)
  | vand => exact framedBy hc fun hn => execVand_framed hn (.refl _ s)
  | vor => exact framedBy hc fun hn => execVor_framed hn (.refl _ s)
  | vxor => exact framedBy hc fun hn => execVxor_framed hn (.refl _ s)
  | vandn => exact framedBy hc fun hn => execVandn_framed hn (.refl _ s)
  | vcmpeq => exact framedBy hc fun hn => execVcmpeq_framed hn (.refl _ s)
  | vcmplt => exact framedBy hc fun hn => execVcmplt_framed hn (.refl _ s)
  | vsel => exact framedBy hc fun hn => execVsel_framed hn (.refl _ s)
  | vmul => exact framedBy hc fun hn => execVmul_framed hn (.refl _ s)
  | vmulhr => exact framedBy hc fun hn => execVmulhr_framed hn (.refl _ s)
  | vcmul => exact framedBy hc fun hn => execVcmul_framed hn (.refl _ s)
  | vcmulj => exact framedBy hc fun hn => execVcmulj_framed hn (.refl _ s)
  | vmacw => exact framedBy hc fun hn => execVmacw_framed hn (.refl _ s)
  | vmsuw => exact framedBy hc fun hn => execVmsuw_framed hn (.refl _ s)
  | vcmacw => exact framedBy hc fun hn => execVcmacw_framed hn (.refl _ s)
  | vcmacjw => exact framedBy hc fun hn => execVcmacjw_framed hn (.refl _ s)
  | vcmsuw => exact framedBy hc fun hn => execVcmsuw_framed hn (.refl _ s)
  | vcmacws => exact framedBy hc fun hn => execVcmacws_framed hn (.refl _ s)
  | vshli => exact framedBy hc fun hn => execVshli_framed hn (.refl _ s)
  | vsari => exact framedBy hc fun hn => execVsari_framed hn (.refl _ s)
  | vshri => exact framedBy hc fun hn => execVshri_framed hn (.refl _ s)
  | vnarrow => exact framedBy hc fun hn => execVnarrow_framed hn (.refl _ s)
  | vwiden => exact framedBy hc fun hn => execVwiden_framed hn (.refl _ s)
  | _ => cases hc

/-- Early reads or not, a branch moves nothing but cores. -/
theorem exec_branch_framed {c : Instr} {k : Issue} (hb : isBranch c k) (s : State) : FOut none s (exec c s) := by
  rcases hb with ⟨b, d, rfl⟩ | ⟨g, d, rfl⟩
  · exact execBCond_framed (.refl _ s)
  · exact execDbnz_framed (.refl _ s)

/-- A load moves nothing but cores. -/
theorem exec_load_framed {c : Instr} {k : Issue} (hc : loadOf c = some k) (s : State) : FOut none s (exec c s) := by
  cases c with
  | ld => exact execLd_framed (.refl _ s)
  | lda => exact execLda_framed (.refl _ s)
  | ldxy => exact execLdxy_framed (.refl _ s)
  | vgather => exact execVgather_framed (.refl _ s)
  | vld => exact execVld_framed (.refl _ s)
  | _ => cases hc

/-- The next state of an outcome with the frame has it. -/
theorem Framed.ofOut {n : Option Nat} {s t : State} {o : Host.Outcome State Fault Refusal} (h : FOut n s o) (e : o = .next t) :
    Framed n s t := by
  rw [e] at h
  exact h

/-- Settles O59: by the frames of the instructions, with the core's key for all but a branch that reads early. -/
theorem coreInstructionFrame : Obligations.CoreInstructionFrame := by
  unfold Obligations.CoreInstructionFrame
  refine ⟨fun c k s t hc hexec => ⟨?elsewhere, fun hquiet => ?others⟩,
    fun c k s t hc hexec => (Framed.ofOut (exec_load_framed hc s) hexec).1.2⟩
  case elsewhere =>
    by_cases hb : isBranch c k
    · exact (Framed.ofOut (exec_branch_framed hb s) hexec).1.2
    · exact (Framed.ofOut (exec_inCore_framed hc (.inr hb) s) hexec).1.2
  case others =>
    have hb : k.shadow = [] ∨ ¬isBranch c k := hquiet.imp_right fun ⟨hcond, hdbnz⟩ h =>
      h.elim (fun ⟨b, d, e⟩ => hcond b d e) (fun ⟨g, d, e⟩ => hdbnz g d e)
    exact (Framed.ofOut (exec_inCore_framed hc hb s) hexec).2 _ rfl

end Sys2Proof.Machine
end

section
/-! SUPPORT. A store to own SRAM that passes its checks and waits all the same, against O60: a SIDE_EFFECT store waits for an
older SIDE_EFFECT store of its core (R257), so its bytes are not in memory in the next state. -/

namespace Sys2Proof.Machine

/-- A word of the SRAM of tile 2. -/
def sideEffectWord : Nat := winBase 2 + 0x1000

/-- A core in SUP whose MPU makes that word SIDE_EFFECT; A0 names it, G0 holds 1, and a SIDE_EFFECT store waits. -/
def sideEffectCore : Core :=
  { Core.reset with
    st := .run, sup := true, pc := BitVec.ofNat 64 (winBase 2), mpuCtrl := 3#32,
    mpu := [(0, { base := BitVec.ofNat 64 sideEffectWord, limit := BitVec.ofNat 64 sideEffectWord, attr := 0x80000082#32 })],
    a := [(0, BitVec.ofNat 64 sideEffectWord)], g := [(0, 1#32)],
    stores := [{ addr := 0, bytes := [0#8], sideEffect := true, waited := false, element := none }] }

/-- The device after reset, with that core in a tile in RUN. -/
def sideEffectState : State :=
  { State.reset with
    islands := [(2, { Island.off with st := .run })], cores := { core := [(coreKey 2 0, sideEffectCore)], cycles := [] } }

/-- Core 0 of tile 2. -/
def core0OfTile2 : Issue := { tile := 2, core := 0, slot1 := false, stall := 0, iparity := false, dparity := false }

/-- The byte at A0. -/
def atA0 : MAddr := { mode := .offset, an := 0, mm := 0, off := 0 }

theorem sideEffectState_issues : Issues core0OfTile2 sideEffectState sideEffectState := ⟨rfl, rfl, rfl⟩

/-- The store waits: the next state is the one before. -/
theorem exec_st_sideEffectState : exec (.st core0OfTile2 0 atA0 0) sideEffectState = .next sideEffectState := rfl

/-- Refutes O60: its second clause on own SRAM leaves out the store that waits for an older SIDE_EFFECT store. -/
theorem not_storeFrame : ¬ Obligations.StoreFrame := by
  unfold Obligations.StoreFrame
  rintro ⟨hstores, -⟩
  obtain ⟨hst, -⟩ := hstores core0OfTile2 0 0 .a 0 0 atA0 0 .i32 0 _ _ sideEffectState sideEffectState_issues
  obtain ⟨-, -, hown⟩ := hst exec_st_sideEffectState
  have hbyte := hown sideEffectWord [] .sideEffect rfl rfl rfl rfl reset_wf
  exact absurd hbyte (by decide)

end Sys2Proof.Machine
end

section
/-! SUPPORT. The immediate instructions plain and with an EXT held, LONGPREFIX itself, MOVX and the words of the formats
(R238 to R243), and with them O4. -/

namespace Sys2Proof.Machine

/-! ### Immediates (R240) -/

theorem immOf_plain {x : Core} (h : x.ext = none) (imm : BitVec 16) (signed : Bool) :
    immOf x imm signed = if signed then imm.signExtend 32 else imm.setWidth 32 := by
  rw [immOf, h]

theorem immOf_long {x : Core} {e : BitVec 26} (h : x.ext = some e) (imm : BitVec 16) (signed : Bool) :
    immOf x imm signed = e.extractLsb' 0 16 ++ imm := by
  rw [immOf, h]

theorem setWidth_shift_half (imm : BitVec 16) : imm.setWidth 32 <<< 16 = imm ++ 0#16 := by
  apply BitVec.eq_of_toNat_eq
  have hlt := imm.isLt
  rw [BitVec.toNat_append]
  simp [Nat.shiftLeft_eq]
  omega

theorem toInt_signExtend_half (imm : BitVec 16) : (imm.signExtend 32).toInt = imm.toInt :=
  BitVec.toInt_signExtend_of_le (by decide)

theorem signExtend_word_dword (imm : BitVec 16) : (imm.signExtend 32).signExtend 64 = imm.signExtend 64 := by
  apply BitVec.eq_of_toInt_eq
  rw [BitVec.toInt_signExtend_of_le (by decide), BitVec.toInt_signExtend_of_le (by decide),
    BitVec.toInt_signExtend_of_le (by decide)]

theorem lo32_setWidth (w : Word) : lo32 (w.setWidth 64) = w := by
  rw [lo32, BitVec.setWidth_setWidth_of_le _ (by decide), BitVec.setWidth_eq]

/-! ### The instructions -/

section
variable {k : Issue} {s u : State}

/-- A copy between G registers (R242). -/
theorem exec_movx_g (h : Issues k s u) (gd gs : Fin 32) :
    YieldsG k u (exec (.movx k .g gd .g gs false) s) gd ((u.core k.tile k.core).gr gs) (u.core k.tile k.core).flags := by
  show execMovx k .g gd .g gs false s = _
  have hok : movxOk .g .g gd gs false = true := by simp [movxOk, xSize, xWide]
  rw [execMovx, issue_eq h rfl, if_pos hok]
  have hval : xWrite (u.core k.tile k.core) .g gd (movxVal (u.core k.tile k.core) .g .g gd gs false) =
      (u.core k.tile k.core).setG gd ((u.core k.tile k.core).gr gs) :=
    congrArg ((u.core k.tile k.core).setG gd) (lo32_setWidth _)
  rw [hval]
  rfl

/-- A plain instruction of format B with an EXT held that writes Gd alone. -/
theorem plain_setG_long {e : BitVec 26} (h : IssuesLong k e s u) {v : Core → Word} {gd : Nat} {r : Word}
    (hv : v (u.core k.tile k.core) = r) :
    YieldsG k u (plain k .b true (fun x => x.setG gd (v x)) s) gd r (u.core k.tile k.core).flags :=
  (plain_long h).congr (by rw [hv]; rfl)

theorem exec_longPrefix_held (h : IssuesAlone k s u) (e : BitVec 26) :
    let x := u.core k.tile k.core
    exec (.longPrefix k e) s = .next (u.setCore k.tile k.core { x with ext := some e, extAt := x.pc, pc := x.pc + 4#64 }) := by
  show execLongPrefix k e s = _
  rw [execLongPrefix, issue_slot0 h]
  rfl

end

/-- Settles O4: an immediate is what `immOf` gives by the EXT held, and every word decodes by computation. -/
theorem immediatesAndPrefix : Obligations.ImmediatesAndPrefix := by
  unfold Obligations.ImmediatesAndPrefix
  intro k gd ga gs an imm e s u
  refine ⟨fun h => ?plain, fun h => ?long, fun h => ⟨exec_longPrefix_held h e, exec_illegal h⟩,
    ⟨rfl, rfl, rfl, rfl, rfl, rfl, rfl, rfl, rfl, rfl, rfl⟩, ⟨rfl, rfl, rfl, rfl⟩⟩
  case plain =>
    intro x a
    obtain ⟨-, -, hext⟩ := id h
    have hs : immOf x imm true = imm.signExtend 32 := immOf_plain hext imm true
    have hu : immOf x imm false = imm.setWidth 32 := immOf_plain hext imm false
    refine ⟨plain_setG (v := fun x => x.gr ga + immOf x imm true) h rfl (by rw [hs]),
      plain_setG (v := fun x => x.gr ga &&& immOf x imm false) h rfl (by rw [hu]),
      plain_setG (v := fun x => x.gr ga ||| immOf x imm false) h rfl (by rw [hu]),
      plain_setG (v := fun x => x.gr ga ^^^ immOf x imm false) h rfl (by rw [hu]),
      plain_setG (v := fun x => immOf x imm false <<< 16) h rfl (by rw [hu, setWidth_shift_half]),
      ⟨flagsSub x.flags a (imm.signExtend 32), (plain_ran h rfl).congr (by rw [← hs]), ?_⟩,
      (plain_ran h rfl).congr (by rw [← signExtend_word_dword, ← hs]), exec_movx_g h gd gs⟩
    rw [← toInt_signExtend_half]
    exact writesZNCV_flagsSub ..
  case long =>
    intro x a v
    obtain ⟨-, -, -, hext⟩ := id h
    have himm : ∀ signed, immOf x imm signed = v := immOf_long hext imm
    exact ⟨plain_setG_long (v := fun x => x.gr ga + immOf x imm true) h (by rw [himm]),
      plain_setG_long (v := fun x => x.gr ga &&& immOf x imm false) h (by rw [himm]),
      plain_setG_long (v := fun x => x.gr ga ||| immOf x imm false) h (by rw [himm]),
      plain_setG_long (v := fun x => x.gr ga ^^^ immOf x imm false) h (by rw [himm])⟩

end Sys2Proof.Machine
end

section
/-! SUPPORT. Loads (R232, R243, R244, R291) from their issue to the register they write, and with them O9. -/

namespace Sys2Proof.Machine

/-! ### Issue -/

section
variable {k : Issue} {s u : State} (h : Issues k s u)
include h

/-- A load of one access whose checks pass starts. -/
theorem loadOne_starts {a : MAddr} {n ea : Nat} {vec : Bool} (dest : LoadDest) {up : List (Nat × DWord)} {ty : MemType}
    (haddr : mAddr (u.core k.tile k.core) a n = some (ea, up)) (hcheck : accessCheck (u.core k.tile k.core) .read vec ea n = .ok ty)
    (hse : ty = .sideEffect → sePending (u.core k.tile k.core) = false) :
    loadOne k a n vec dest s = .next (startLoad
      { issue := k, parts := [{ addr := ea, n := n, dest := dest, cached := ty == .normalC }], upd := up,
        gather := false, since := u.now, sent := false } u) := by
  have hgo : ¬(ty == .sideEffect && sePending (u.core k.tile k.core)) = true := by
    intro hx
    simp only [Bool.and_eq_true, beq_iff_eq] at hx
    simp [hse hx.1] at hx
  rw [loadOne, issue_eq h rfl]
  simp only [haddr, hcheck, if_neg hgo]
  rfl

/-- LDXY into two registers, both accesses passing their checks. -/
theorem exec_ldxy_starts {gx gy : Fin 32} {ax ay : Fin 4} {mx my : AMode} {tx ty : MemType} (hne : gx ≠ gy)
    (hx : accessCheck (u.core k.tile k.core) .read true (effAddr (u.core k.tile k.core) mx ax ax 0).1 4 = .ok tx)
    (hy : accessCheck (u.core k.tile k.core) .read true
      (effAddr (u.core k.tile k.core) my (ay.val + 4) (ay.val + 4) 0).1 4 = .ok ty) :
    let x := u.core k.tile k.core
    let p := effAddr x mx ax ax 0
    let q := effAddr x my (ay.val + 4) (ay.val + 4) 0
    exec (.ldxy k gx gy ax ay mx my) s = .next (startLoad
      { issue := k, parts := [{ addr := p.1, n := 4, dest := .g gx 4 false, cached := tx == .normalC },
                              { addr := q.1, n := 4, dest := .g gy 4 false, cached := ty == .normalC }],
        upd := p.2 ++ q.2, gather := false, since := u.now, sent := false } u) := by
  show execLdxy k gx gy ax ay mx my s = _
  rw [execLdxy, issue_eq h rfl, if_neg hne]
  simp only [hx, hy]
  rfl

end

/-! ### Data -/

/-- The data of the waiting load returns (R232). -/
theorem exec_loadDataReturn_sent {tile core : Nat} {w : State} {p : PendLoad} (hload : (w.core tile core).load = some p)
    (hsent : p.sent = true) : exec (.loadDataReturn tile core) w =
      .next (finishLoad p (w.setCore tile core { w.core tile core with load := none })) := by
  show execLoadDataReturn tile core w = _
  simp only [execLoadDataReturn, hload, hsent, if_true, loadReturns]
  rfl

/-- A load with its data at hand and no error reads and retires at once. -/
theorem startLoad_now {p : PendLoad} {bs : List (LoadDest × List Byte)} {v w : State} (hparity : p.issue.dparity = false)
    (hnow : loadNow w p.issue p = true)
    (hread : readParts p.issue.tile p.issue.core p.gather 0 p.parts w = (bs, [], v)) :
    startLoad p w =
      done p.issue v (bs.foldl loadInto ((v.core p.issue.tile p.issue.core).setAs p.upd)) := by
  have hclean : loadParity p w = w := by simp [loadParity, hparity]
  simp only [startLoad, hclean, hnow, if_true, finishLoad, hread]
  rfl

/-! ### The value -/

@[simp] theorem Core.gr_setG (x : Core) (i : Nat) (w : Word) : (x.setG i w).gr i = w := by
  simp [Core.gr, Core.setG, mgetD, mget_mset_self]

@[simp] theorem Core.vr_setV (x : Core) (i : Nat) (w : BitVec 512) : (x.setV i w).vr i = w := by
  simp [Core.vr, Core.setV, mgetD, mget_mset_self]

theorem loadInto_word (y : Core) (gd : Nat) (sx : Bool) (bs : List Byte) :
    (loadInto y (.g gd 4 sx, bs)).gr gd =
      if sx then BitVec.ofInt 32 (toSigned 32 (leVal bs)) else BitVec.ofNat 32 (leVal bs) := Core.gr_setG ..

/-- Bits beyond the width do not count. -/
theorem ofNat_mod_two_pow (w n : Nat) : BitVec.ofNat w (n % 2 ^ w) = BitVec.ofNat w n := by
  apply BitVec.eq_of_toNat_eq
  simp

/-- All 512 bits of a V register are loaded over. -/
theorem loadInto_vector (y : Core) (vd : Nat) (bs : List Byte) :
    (loadInto y (.v vd 0 512, bs)).vr vd = BitVec.ofNat 512 (leVal bs) := by
  have hold : (y.vr vd).toNat / 1 % 2 ^ 512 = (y.vr vd).toNat := by
    rw [Nat.div_one, Nat.mod_eq_of_lt (y.vr vd).isLt]
  simp only [loadInto, Core.vr_setV, Nat.pow_zero, hold, Nat.mul_one, Nat.sub_self, Nat.zero_add]
  exact ofNat_mod_two_pow ..

/-- Settles O9: a load starts by `loadOne_starts`, and finishes at once or by LOAD_DATA_RETURN. -/
theorem loadsComplete : Obligations.LoadsComplete := by
  unfold Obligations.LoadsComplete
  refine ⟨fun k gd gx gy fl i ax ay mx my a size sx s u h => ⟨?ld, ?lda, ?vld, ?ldxy⟩,
    fun tile core w p hload hsent => exec_loadDataReturn_sent hload hsent, fun k p bs v w hk hparity hnow hread => ?now,
    fun y gd i sx bs => ⟨loadInto_word y gd sx bs, loadInto_vector y gd bs, rfl⟩⟩
  case ld => exact fun ea up ty haddr hcheck hse => loadOne_starts h _ haddr hcheck hse
  case lda => exact fun ea up ty haddr hcheck hse => loadOne_starts h _ haddr hcheck hse
  case vld => exact fun ea up ty haddr hcheck hse => loadOne_starts h _ haddr hcheck hse
  case ldxy => exact fun tx ty hne hx hy => exec_ldxy_starts h hne hx hy
  case now =>
    subst hk
    exact startLoad_now hparity hnow hread

end Sys2Proof.Machine
end

section
/-! SUPPORT. Stores (R243, R258, R291), their acknowledgement, gathers and scatters (R293 to R297), and with them O10. -/

namespace Sys2Proof.Machine

section
variable {k : Issue} {s u : State} (h : Issues k s u)
include h

/-- A store of one access whose checks pass and that nothing holds up is put and retires. -/
theorem storeOne_puts {a : MAddr} {n ea : Nat} {vec : Bool} (val : Core → Nat) {up : List (Nat × DWord)} {ty : MemType}
    (haddr : mAddr (u.core k.tile k.core) a n = some (ea, up))
    (hcheck : accessCheck (u.core k.tile k.core) .write vec ea n = .ok ty) (hown : ownStoreErr u k.tile k.core ea = none)
    (hroom : if ownSram u k.tile ea then ty = .sideEffect → sePending (u.core k.tile k.core) = false
      else (u.core k.tile k.core).stores.length < 8) :
    storeOne k a n vec val s = .next (
      let w := putStore k.tile k.core { addr := ea, bytes := leBytes n (val (u.core k.tile k.core)),
                                        sideEffect := ty == .sideEffect, waited := false, element := none } u
      done k w ((w.core k.tile k.core).setAs up)) := by
  have hgo : ¬((!ownSram u k.tile ea && decide (8 ≤ (u.core k.tile k.core).stores.length))
      || (ownSram u k.tile ea && ty == .sideEffect && sePending (u.core k.tile k.core))) = true := by
    cases hplace : ownSram u k.tile ea
    · have hlt : (u.core k.tile k.core).stores.length < 8 := by simpa [hplace] using hroom
      simpa using hlt
    · have hse : ty = .sideEffect → sePending (u.core k.tile k.core) = false := by simpa [hplace] using hroom
      simpa using hse
  rw [storeOne, issue_eq h rfl]
  simp only [haddr, hcheck, hown]
  rw [if_neg hgo]
  rfl

/-- A gather of a form R293 defines, all its elements passing, starts its reads. -/
theorem exec_vgather_starts {vd va : Fin 32} {an : Fin 8} {ty : VTy} {scale : Fin 4} (hform : vecForm ty scale = true)
    (hcheck : vecCheck (u.core k.tile k.core) .read (vecAddrs (u.core k.tile k.core) an va scale) = none) :
    let x := u.core k.tile k.core
    exec (.vgather k vd an va ty scale) s = .next (startLoad
      { issue := k, parts := gatherParts x vd (vecAddrs x an va scale), upd := [], gather := true, since := u.now,
        sent := false } u) := by
  show execVgather k vd an va ty scale s = _
  rw [execVgather, issue_eq h rfl, if_neg (by simp [hform])]
  simp only [hcheck]
  rfl

/-- A scatter of a form R293 defines, all its elements passing, puts its stores. -/
theorem exec_vscatter_puts {vs va : Fin 32} {an : Fin 8} {ty : VTy} {scale : Fin 4} (hform : vecForm ty scale = true)
    (hcheck : vecCheck (u.core k.tile k.core) .write (vecAddrs (u.core k.tile k.core) an va scale) = none)
    (hown : scatterErr u k.tile k.core (vecAddrs (u.core k.tile k.core) an va scale) = none) :
    let x := u.core k.tile k.core
    exec (.vscatter k vs an va ty scale) s = .next (
      let w := (scatterStores (vecAddrs x an va scale) (lanes 32 (x.vr vs))).foldl
        (fun s p => putStore k.tile k.core p s) u
      done k w (w.core k.tile k.core)) := by
  show execVscatter k vs an va ty scale s = _
  rw [execVscatter, issue_eq h rfl, if_neg (by simp [hform])]
  simp only [hcheck, hown]
  rfl

end

/-- An entry of the write buffer that is ready and has its tokens is performed (R258, R359). -/
theorem exec_postedStoreAck_ready {tile core n : Nat} {w : State} (hready : storeReady w (w.core tile core) n = true)
    (htokens : mayInject w tile 0 (storeFlits w tile core n) = true) :
    exec (.postedStoreAck tile core n) w = .next (finishTerm (performStore tile core n
      (chargeFlits w tile 0 (storeFlits w tile core n))) tile core) := by
  show execPostedStoreAck tile core n w = _
  simp [execPostedStoreAck, hready, htokens, ok]

/-- Settles O10: a store of one access is put by `storeOne_puts`, whatever its register and its width. -/
theorem storesComplete : Obligations.StoresComplete := by
  unfold Obligations.StoresComplete
  refine ⟨fun tile core n w => exec_postedStoreAck_ready,
    fun k gs va fl i an a size ty scale s u h => ⟨?st, ?sta, ?vst, fun m => ⟨rfl, rfl, rfl⟩,
      exec_vgather_starts h, exec_vscatter_puts h⟩⟩
  case st => exact fun ea up t haddr hcheck hown hroom => storeOne_puts h _ haddr hcheck hown hroom
  case sta => exact fun ea up t haddr hcheck hown hroom => storeOne_puts h (fun x => (x.file fl i).toNat) haddr hcheck hown hroom
  case vst => exact fun ea up t haddr hcheck hown hroom => storeOne_puts h _ haddr hcheck hown hroom

end Sys2Proof.Machine
end

section
/-! SUPPORT. The device right after power-on reset (R14, R230, R278, R434), and O56. -/

namespace Sys2Proof.Machine

/-- At reset nothing is kept that the invariant speaks of, and memory is canonical. -/
theorem reset_inv : Inv State.reset :=
  ⟨reset_wf, ⟨Nat.zero_le _, Nat.zero_lt_one, rfl⟩, nofun, rfl⟩

/-- At reset each dispatcher's control and crumb registers read their reset values (R230). -/
theorem reset_dsq_registers {q : Nat} (hq : q < 4) :
    State.reset.reg (R.DSQ_CTRL q) = 0x100#32 ∧ State.reset.reg (R.DSQ_CRUMB_QRANGE q) = 0xFFFF0000#32 ∧
      State.reset.reg (R.DSQ_CRUMB_SIZE q) = 0x10#32 := by
  interval_cases q <;> exact ⟨rfl, rfl, rfl⟩

/-- Settles O56: what no map lists at reset reads its default. -/
theorem resetState : Obligations.ResetState := by
  unfold Obligations.ResetState
  refine ⟨fun _ => rfl, rfl, rfl, reset_inv, fun _ => rfl, fun _ => rfl, rfl, rfl, rfl, rfl, rfl, rfl, fun t c => ?core,
    fun _ => ⟨rfl, rfl⟩, fun _ _ => ⟨rfl, rfl⟩, fun q hq => reset_dsq_registers hq⟩
  case core =>
    have hcore : State.reset.core t c = Core.reset := rfl
    simp [hcore, Core.reset]

end Sys2Proof.Machine
end

section
/-! SUPPORT. V registers element by element (R279, R285): the lanes of a register as components, what reading a packed
register gives back, and what a list of exact values becomes under a mode; with them O12. -/

namespace Sys2Proof.Machine

/-! ### Lanes as fields of the register -/

/-- The fields of a number are its digits to base 2^w. -/
theorem fields_eq (w n v : Nat) : fields w n v = (List.range n).map fun i => v >>> (w * i) % 2 ^ w := by
  induction n generalizing v with
  | zero => rfl
  | succ n ih =>
    rw [fields, ih, List.range_succ_eq_map, List.map_cons, List.map_map]
    simp [← Nat.shiftRight_add, Nat.mul_succ, Nat.add_comm, Function.comp_def]

/-- Lane `i` of a V register is its field of width `w` at bit `w * i` (R279). -/
theorem lanes_eq (w : Nat) (v : BitVec 512) :
    lanes w v = (List.range (512 / w)).map fun i => (v.extractLsb' (w * i) w).toNat := by
  simp only [lanes, fields_eq, BitVec.extractLsb'_toNat]

@[simp] theorem length_lanes (w : Nat) (v : BitVec 512) : (lanes w v).length = 512 / w := by simp [lanes_eq]

theorem getElem_lanes {w : Nat} {v : BitVec 512} {i : Nat} (hi : i < (lanes w v).length) :
    (lanes w v)[i] = (v.extractLsb' (w * i) w).toNat := by simp [lanes_eq]

theorem toSigned_eq_toInt (w n : Nat) : toSigned w n = (BitVec.ofNat w n).toInt := by
  rw [toSigned, BitVec.toInt_eq_toNat_cond, BitVec.toNat_ofNat]
  cases w with
  | zero => simp [Nat.mod_one]
  | succ w =>
    have hpow : 2 ^ (w + 1) = 2 * 2 ^ w := Nat.pow_succ'
    simp only [Nat.add_sub_cancel, hpow, Nat.mul_lt_mul_left (Nat.zero_lt_two)]

theorem toSigned_toNat {w : Nat} (b : BitVec w) : toSigned w b.toNat = b.toInt := by
  rw [toSigned_eq_toInt, BitVec.ofNat_toNat, BitVec.setWidth_eq]

/-- The signed lanes of a V register are its components. -/
theorem slanes_eq (w : Nat) (v : BitVec 512) : slanes w v = (List.range (512 / w)).map (comp w v) := by
  rw [slanes, lanes_eq, List.map_map]
  exact List.map_congr_left fun i _ => toSigned_toNat _

/-- Two lists over the same indices combine index by index. -/
theorem zipWith_map_range {α β γ : Type} (op : α → β → γ) (f : Nat → α) (g : Nat → β) (n : Nat) :
    List.zipWith op ((List.range n).map f) ((List.range n).map g) = (List.range n).map fun i => op (f i) (g i) := by
  rw [List.zipWith_map, List.zipWith_self]

/-! ### Reading what was packed -/

theorem packN_shiftRight (w : Nat) (l : List Nat) (i : Nat) : packN w l >>> (w * i) % 2 ^ w = l.getD i 0 % 2 ^ w := by
  induction l generalizing i with
  | nil => simp [packN]
  | cons a l ih =>
    cases i with
    | zero => simp [packN]
    | succ i =>
      have htail : (a % 2 ^ w + 2 ^ w * packN w l) >>> w = packN w l := by
        rw [Nat.shiftRight_eq_div_pow, Nat.add_mul_div_left _ _ (by positivity),
          Nat.div_eq_of_lt (Nat.mod_lt _ (by positivity)), Nat.zero_add]
      rw [packN, Nat.mul_succ, Nat.add_comm (w * i), Nat.shiftRight_add, htail, ih]
      rfl

/-- A field that lies within the register is not cut off by its width. -/
theorem extractLsb'_ofNat_512 {lo w : Nat} (n : Nat) (hfits : lo + w ≤ 512) :
    (BitVec.ofNat 512 n).extractLsb' lo w = BitVec.ofNat w (n >>> lo) := by
  refine BitVec.eq_of_getLsbD_eq fun i hi => ?_
  simp only [BitVec.getLsbD_extractLsb', BitVec.getLsbD_ofNat, Nat.testBit_shiftRight]
  rw [decide_eq_true hi, decide_eq_true (show lo + i < 512 by omega), Bool.true_and]

theorem lane_fits {w i : Nat} (hi : i < 512 / w) : w * i + w ≤ 512 :=
  calc w * i + w = w * (i + 1) := (Nat.mul_succ w i).symm
    _ ≤ w * (512 / w) := Nat.mul_le_mul_left w hi
    _ ≤ 512 := Nat.mul_div_le 512 w

/-- Lane `i` of a packed register is element `i` of the list, or 0 beyond its end. -/
theorem extractLsb'_pack {w i : Nat} (l : List Nat) (hi : i < 512 / w) :
    (pack w l).extractLsb' (w * i) w = BitVec.ofNat w (l.getD i 0) := by
  rw [pack, extractLsb'_ofNat_512 _ (lane_fits hi), ← ofNat_mod_two_pow, packN_shiftRight, ofNat_mod_two_pow]

/-- So it is for a list over the indices of the lanes. -/
theorem extractLsb'_pack_range {w i : Nat} (f : Nat → Nat) (hi : i < 512 / w) :
    (pack w ((List.range (512 / w)).map f)).extractLsb' (w * i) w = BitVec.ofNat w (f i) := by
  rw [extractLsb'_pack _ hi, List.getD_eq_getElem _ _ (by simpa using hi), List.getElem_map, List.getElem_range]

/-- Component `i` of a register packed from encodings. -/
theorem comp_pack_range {w i : Nat} (f : Nat → Nat) (hi : i < 512 / w) :
    comp w (pack w ((List.range (512 / w)).map f)) i = (BitVec.ofNat w (f i)).toInt := by
  rw [comp, extractLsb'_pack_range f hi]

theorem ofNat_toNat_self {w : Nat} (b : BitVec w) : BitVec.ofNat w b.toNat = b := by
  rw [BitVec.ofNat_toNat, BitVec.setWidth_eq]

/-! ### Results under a mode (R285) -/

theorem ofNat_ofSigned (w : Nat) (x : Int) : BitVec.ofNat w (ofSigned w x) = BitVec.ofInt w x := by
  apply BitVec.eq_of_toNat_eq
  rw [BitVec.toNat_ofNat, BitVec.toNat_ofInt, ofSigned]
  have hpos : (0 : Int) < ((2 ^ w : Nat) : Int) := by positivity
  have hlo := Int.emod_nonneg x hpos.ne'
  have hhi := Int.emod_lt_of_pos x hpos
  exact Nat.mod_eq_of_lt (by omega)

/-- A saturated value fits. -/
theorem satSigned_bounds (w : Nat) (x : Int) : -2 ^ (w - 1) ≤ satSigned w x ∧ satSigned w x < 2 ^ (w - 1) := by
  have hpos : (0 : Int) < 2 ^ (w - 1) := by positivity
  rw [satSigned, Nat.cast_pow, Nat.cast_ofNat]
  omega

theorem toInt_ofInt_satSigned {w : Nat} (hw : 0 < w) (x : Int) : (BitVec.ofInt w (satSigned w x)).toInt = satSigned w x :=
  BitVec.toInt_ofInt_eq_self hw (satSigned_bounds w x).1 (satSigned_bounds w x).2

/-- The model's result of an exact value is the one R285 gives: the encoding stands for the value. -/
theorem modeRes_spec {w : Nat} (hw : 0 < w) (mode d : Nat) (x : Int) :
    (BitVec.ofNat w (modeRes mode w d x).1).toInt = (modeValue mode w d x).1 ∧
      (modeRes mode w d x).2 = (modeValue mode w d x).2 := by
  simp only [modeRes, modeValue, Int.fdiv_eq_ediv_of_nonneg x (Int.natCast_nonneg (2 ^ d))]
  split
  · exact ⟨by rw [ofNat_ofSigned, toInt_ofInt_satSigned hw], rfl⟩
  · exact ⟨by rw [ofNat_ofSigned], rfl⟩

/-! ### Format V instructions -/

theorem cw_pos (ty : VTy) : 0 < ty.cw := by cases ty <;> decide

section
variable {k : Issue} {s u : State} (h : Issues k s u)
include h

/-- A format V instruction of a form the spec defines changes its core and retires. -/
theorem vins_ran {okForm : Bool} {f : Core → Core} (hok : okForm = true) : Ran k u (vins k okForm f s) f := by
  subst hok
  unfold vins Ran ok
  rw [issue_eq h rfl]
  rfl

/-- One of a form the spec does not define raises ILLEGAL (R286, R292). -/
theorem vins_illegal {okForm : Bool} {f : Core → Core} (hbad : okForm = false) :
    vins k okForm f s = .next (syncExc k u { cause := .illegal }) := by
  subst hbad
  unfold vins ok
  rw [issue_eq h rfl]
  rfl

/-- An instruction that writes a packed list to Vd writes element `i` of it to lane `i`. -/
theorem vins_lanes {okForm : Bool} {vd w : Nat} {l : Core → List Nat} {f : Nat → BitVec w} (hok : okForm = true)
    (hf : ∀ i, i < 512 / w → BitVec.ofNat w ((l (u.core k.tile k.core)).getD i 0) = f i) :
    ∃ v : BitVec 512, (∀ i, i < 512 / w → v.extractLsb' (w * i) w = f i) ∧
      Ran k u (vins k okForm (fun x => x.setV vd (pack w (l x))) s) fun y => y.setV vd v :=
  ⟨pack w (l (u.core k.tile k.core)), fun i hi => (extractLsb'_pack _ hi).trans (hf i hi), (vins_ran h hok).congr rfl⟩

/-- What `wrMode` writes are the components R285 makes of the exact values. -/
theorem wrMode_yieldsV {okForm : Bool} {vd mode w d : Nat} {f : Nat → Int} {l : Core → List Int} (hok : okForm = true)
    (hw : 0 < w) (hl : l (u.core k.tile k.core) = (List.range (512 / w)).map f) :
    YieldsV k u (vins k okForm (fun x => wrMode x vd mode w d (l x)) s) vd mode w d f := by
  refine ⟨pack w ((List.range (512 / w)).map fun i => (modeRes mode w d (f i)).1), fun i hi => ?value,
    (vins_ran h hok).congr ?sat⟩
  case value => rw [comp_pack_range _ hi, (modeRes_spec hw mode d (f i)).1]
  case sat =>
    simp only [wrMode, modeList, hl, Core.sat_eq, List.map_map, List.any_map, Function.comp_def, (modeRes_spec hw mode d _).2]
    rfl

/-- A component-wise operation on two registers. -/
theorem vbin_yieldsV (op : Int → Int → Int) {d : Nat} {okTy : VTy → Bool} {vd va vb : Fin 32} {ty : VTy} {mode : Fin 4}
    (hok : okTy ty = true) : YieldsV k u (vbin op d okTy k vd va vb ty mode s) vd mode ty.cw d
      fun i => op (comp ty.cw ((u.core k.tile k.core).vr va) i) (comp ty.cw ((u.core k.tile k.core).vr vb) i) :=
  wrMode_yieldsV h hok (cw_pos ty) (by rw [slanes_eq, slanes_eq, zipWith_map_range])

/-- A component-wise operation on one register. -/
theorem vun_yieldsV (op : Int → Int) {d : Nat} {okForm : Bool} {vd va : Fin 32} {ty : VTy} {mode : Fin 4}
    (hok : okForm = true) : YieldsV k u (vun op d okForm k vd va ty mode s) vd mode ty.cw d
      fun i => op (comp ty.cw ((u.core k.tile k.core).vr va) i) :=
  wrMode_yieldsV h hok (cw_pos ty) (by rw [slanes_eq, List.map_map]; rfl)

end

/-- Settles O12: each instruction is a component-wise operation on exact values, brought into range by `wrMode_yieldsV`. -/
theorem vectorComponentArithmetic : Obligations.VectorComponentArithmetic := by
  unfold Obligations.VectorComponentArithmetic
  intro k vd va vb sh ty mode s u h a b
  refine ⟨fun hfix => ⟨vbin_yieldsV h (· + ·) hfix, vbin_yieldsV h (· - ·) hfix, vbin_yieldsV h (· + ·) hfix,
      vun_yieldsV h (- ·) hfix⟩, fun hint => vun_yieldsV h (fun a => (a.natAbs : Int)) hint,
    fun hty => vbin_yieldsV h (okTy := fun t => t == .i8 || t == .i16) (· * ·) ?mul,
    fun hty => vbin_yieldsV h (okTy := fun t => t == .i16 || t == .i32) (fun a b => 2 * a * b) ?mulhr,
    fun hfix hsh => ⟨?shli, vun_yieldsV h id (by simp [hfix, hsh])⟩⟩
  case mul => rcases hty with rfl | rfl <;> rfl
  case mulhr => rcases hty with rfl | rfl <;> rfl
  case shli =>
    rw [show (2 : Int) ^ sh.val = ((2 ^ sh.val : Nat) : Int) by push_cast; rfl]
    exact vun_yieldsV h (fun a => a * ((2 ^ sh.val : Nat) : Int)) (by simp [hfix, hsh])

end Sys2Proof.Machine
end

section
/-! SUPPORT. Element moves and permutations (R287): a packed register holds in lane `i` element `i` of its list; with them
O15. -/

namespace Sys2Proof.Machine

theorem lanes_getD {w i : Nat} (v : BitVec 512) (hi : i < 512 / w) :
    (lanes w v).getD i 0 = (v.extractLsb' (w * i) w).toNat := by
  rw [List.getD_eq_getElem _ _ (by simpa using hi), getElem_lanes]

/-- VEXT: the lanes from the `n`th on, running over into the next register. -/
theorem getD_window {w n i : Nat} (v v' : BitVec 512) (hn : n < 512 / w) (hi : i < 512 / w) :
    (((lanes w v ++ lanes w v').drop n).take (512 / w)).getD i 0 =
      if n + i < 512 / w then (v.extractLsb' (w * (n + i)) w).toNat
      else (v'.extractLsb' (w * (n + i - 512 / w)) w).toNat := by
  rw [List.getD_eq_getElem?_getD, List.getElem?_take_of_lt hi, List.getElem?_drop, ← List.getD_eq_getElem?_getD]
  split
  · next hlow => rw [List.getD_append _ _ _ _ (by simpa using hlow), lanes_getD v hlow]
  · next hhigh => rw [List.getD_append_right _ _ _ _ (by simpa using hhigh), length_lanes, lanes_getD v' (by omega)]

theorem getD_lanes_reverse {w i : Nat} (v : BitVec 512) (hi : i < 512 / w) :
    (lanes w v).reverse.getD i 0 = (v.extractLsb' (w * (512 / w - 1 - i)) w).toNat := by
  rw [List.getD_reverse _ (by simpa using hi), length_lanes, lanes_getD v (by omega)]

theorem getD_lanes_map {w i : Nat} (g : Nat → Nat) (v : BitVec 512) (hi : i < 512 / w) :
    ((lanes w v).map g).getD i 0 = g (v.extractLsb' (w * i) w).toNat := by
  rw [List.getD_eq_getElem _ _ (by simpa using hi), List.getElem_map, getElem_lanes]

theorem getD_lanes_set {w i : Nat} (n a : Nat) (v : BitVec 512) (hi : i < 512 / w) :
    ((lanes w v).set n a).getD i 0 = if i = n then a else (v.extractLsb' (w * i) w).toNat := by
  rw [List.getD_eq_getElem _ _ (by simpa using hi), List.getElem_set, getElem_lanes]
  simp only [eq_comm]

/-- Settles O15: what each instruction packs, read lane by lane. -/
theorem vectorPermutes : Obligations.VectorPermutes := by
  unfold Obligations.VectorPermutes
  intro k vd va vb ga gd n ty s u h x el e lanewise
  refine ⟨fun hty => ?dup, fun hfix hpair hn => ?ext, fun hint => ?permx, fun hfix => ?rev, fun hty hn => ⟨?ins, ?movg⟩⟩
  case dup =>
    refine vins_lanes h hty fun i hi => ?_
    rw [List.getD_replicate _ hi, BitVec.ofNat_toNat]
  case ext =>
    refine vins_lanes h (by rw [hfix, hpair, decide_eq_true hn]; rfl) fun i hi => ?_
    rw [getD_window _ _ hn hi, apply_ite (BitVec.ofNat ty.w), ofNat_toNat_self, ofNat_toNat_self]
  case permx =>
    refine vins_lanes h hint fun i hi => ?_
    have hmod : (el vb i).toNat % e < e := Nat.mod_lt _ (Nat.zero_lt_of_lt hi)
    rw [getD_lanes_map _ _ hi, lanes_getD _ hmod, ofNat_toNat_self]
  case rev =>
    refine vins_lanes h hfix fun i hi => ?_
    rw [getD_lanes_reverse _ hi, ofNat_toNat_self]
  case ins =>
    refine vins_lanes h (by rw [hty, decide_eq_true hn]; rfl) fun i hi => ?_
    rw [getD_lanes_set _ _ _ hi, apply_ite (BitVec.ofNat ty.w), ofNat_toNat_self, BitVec.ofNat_toNat]
  case movg =>
    refine (vins_ran h (by rw [hty, decide_eq_true hn]; rfl)).congr ?_
    rw [lanes_getD _ hn, toSigned_toNat]
    rfl

end Sys2Proof.Machine
end

section
/-! SUPPORT. Compares, extrema, logic and logical shifts of V registers (R286, R287), and with them O13. -/

namespace Sys2Proof.Machine

/-! ### Element results -/

theorem w_eq_cw {ty : VTy} (hint : ty.int = true) : ty.w = ty.cw :=
  match ty, hint with
  | .i8, _ | .i16, _ | .i32, _ => rfl

theorem w_pos (ty : VTy) : 0 < ty.w := by cases ty <;> decide

/-- The encoding of a component stands for it. -/
theorem toInt_ofSigned_comp (w : Nat) (v : BitVec 512) (i : Nat) :
    (BitVec.ofNat w (ofSigned w (comp w v i))).toInt = comp w v i := by
  rw [ofNat_ofSigned, comp, BitVec.ofInt_toInt]

/-- All ones stand for -1. -/
theorem toInt_ite_ones {w : Nat} (hw : 0 < w) (c : Bool) :
    (BitVec.ofNat w (if c then 2 ^ w - 1 else 0)).toInt = if c then -1 else 0 := by
  cases c
  · simp
  · have hones : BitVec.ofNat w (2 ^ w - 1) = BitVec.allOnes w := by
      apply BitVec.eq_of_toNat_eq
      rw [BitVec.toNat_ofNat, BitVec.toNat_allOnes, Nat.mod_eq_of_lt (Nat.sub_one_lt (by positivity))]
    rw [if_pos rfl, if_pos rfl, hones, BitVec.toInt_allOnes, if_pos hw]

section
variable {k : Issue} {s u : State} (h : Issues k s u) {vd va vb : Fin 32} {ty : VTy}
include h

/-- An instruction that writes Vd from encodings `g i`, each of which stands for `f i`. -/
theorem vins_comps {okForm : Bool} {w : Nat} {l : Core → List Nat} {g : Nat → Nat} {f : Nat → Int} (hok : okForm = true)
    (hl : l (u.core k.tile k.core) = (List.range (512 / w)).map g) (hf : ∀ i, (BitVec.ofNat w (g i)).toInt = f i) :
    ∃ v : BitVec 512, (∀ i, i < 512 / w → comp w v i = f i) ∧
      Ran k u (vins k okForm (fun x => x.setV vd (pack w (l x))) s) fun y => y.setV vd v :=
  ⟨_, fun i hi => (comp_pack_range g hi).trans (hf i), (vins_ran h hok).congr (by rw [hl])⟩

/-- An instruction on an integer type that chooses one of two components. -/
theorem vins_chooses (op : Int → Int → Int) (hop : ∀ a b, op a b = a ∨ op a b = b) {okForm : Bool} (hok : okForm = true)
    (hint : ty.int = true) :
    let a := comp ty.cw ((u.core k.tile k.core).vr va)
    let b := comp ty.cw ((u.core k.tile k.core).vr vb)
    ∃ v : BitVec 512, (∀ i, i < 512 / ty.cw → comp ty.cw v i = op (a i) (b i)) ∧
      Ran k u (vins k okForm (fun x => x.setV vd (pack ty.w
        ((List.zipWith op (slanes ty.w (x.vr va)) (slanes ty.w (x.vr vb))).map (ofSigned ty.w)))) s) fun y => y.setV vd v := by
  intro a b
  rw [w_eq_cw hint]
  refine vins_comps h (g := fun i => ofSigned ty.cw (op (a i) (b i))) hok
    (by rw [slanes_eq, slanes_eq, zipWith_map_range, List.map_map]; rfl) fun i => ?_
  rcases hop (a i) (b i) with ha | hb
  · rw [ha, toInt_ofSigned_comp]
  · rw [hb, toInt_ofSigned_comp]

/-- A compare writes -1 where it holds. -/
theorem vcmp_compares {p : Int → Int → Bool} (P : Int → Int → Prop) [DecidableRel P]
    (hp : ∀ a b, p a b = decide (P a b))
    {okForm : Bool} (hok : okForm = true) {w : Nat} (hw : w = ty.w) :
    let a := comp w ((u.core k.tile k.core).vr va)
    let b := comp w ((u.core k.tile k.core).vr vb)
    ∃ v : BitVec 512, (∀ i, i < 512 / w → comp w v i = if P (a i) (b i) then -1 else 0) ∧
      Ran k u (vcmp p okForm k vd va vb ty s) fun y => y.setV vd v := by
  subst hw
  intro a b
  refine vins_comps h hok (by rw [slanes_eq, slanes_eq, zipWith_map_range]) fun i => ?_
  rw [toInt_ite_ones (w_pos ty), hp]
  simp only [decide_eq_true_eq, a, b]

/-- VSHRI shifts each element as an unsigned number. -/
theorem vins_shifts (sh : Nat) {okForm : Bool} (hok : okForm = true) :
    ∃ v : BitVec 512, (∀ i, i < 512 / ty.w → v.extractLsb' (ty.w * i) ty.w =
        ((u.core k.tile k.core).vr va).extractLsb' (ty.w * i) ty.w >>> sh) ∧
      Ran k u (vins k okForm (fun x => x.setV vd (pack ty.w ((lanes ty.w (x.vr va)).map (· >>> sh)))) s)
        fun y => y.setV vd v := by
  refine vins_lanes h hok fun i hi => ?_
  rw [getD_lanes_map _ _ hi, ← BitVec.toNat_ushiftRight, ofNat_toNat_self]

/-- A bitwise operation on whole registers, in mode 0b00. -/
theorem vbits_ran (op : BitVec 512 → BitVec 512 → BitVec 512) (hint : ty.int = true) :
    Ran k u (vbits op k vd va vb ty 0 s) fun y => y.setV vd (op (y.vr va) (y.vr vb)) :=
  vins_ran h (by rw [hint]; rfl)

end

/-- Settles O13: in mode 0b00 each instruction writes its element results; in any other its form is not defined. -/
theorem vectorCompareLogic : Obligations.VectorCompareLogic := by
  unfold Obligations.VectorCompareLogic
  intro k vd va vb sh ty mode s u h x a b lanewise illegal
  refine ⟨fun hint hmode => ?integers, fun hfix hmode => ?fixed, fun hmode => ?illegal⟩
  case integers =>
    subst hmode
    have hform : (ty.int && (0 : Fin 4) == 0) = true := by rw [hint]; rfl
    exact ⟨vins_chooses h min min_choice hform hint, vins_chooses h max max_choice hform hint,
      vcmp_compares h (· < ·) (fun _ _ => rfl) hform (w_eq_cw hint).symm, vbits_ran h (· &&& ·) hint,
      vbits_ran h (· ||| ·) hint, vbits_ran h (· ^^^ ·) hint, vbits_ran h (fun a b => a &&& ~~~b) hint,
      fun hsh => vins_shifts h sh (by rw [hform, decide_eq_true hsh]; rfl)⟩
  case fixed =>
    subst hmode
    have hform : (ty.fixed && (0 : Fin 4) == 0) = true := by rw [hfix]; rfl
    exact ⟨vcmp_compares h (· = ·) (fun _ _ => rfl) hform rfl, vins_ran h hform⟩
  case illegal =>
    have hzero : (mode == 0) = false := beq_eq_false_iff_ne.mpr hmode
    have hform (c : Bool) : (c && mode == 0) = false := by rw [hzero, Bool.and_false]
    exact ⟨vins_illegal h (hform _), vins_illegal h (hform _), vins_illegal h (hform _), vins_illegal h (hform _),
      vins_illegal h (hform _), vins_illegal h (hform _), vins_illegal h (hform _), vins_illegal h (hform _),
      vins_illegal h (hform _), vins_illegal h (by rw [hform, Bool.false_and])⟩

end Sys2Proof.Machine
end

section
/-! SUPPORT. Complex elements as pairs of components, products into a pair of registers, and sums (R284, R287, R288); with
them O14. -/

namespace Sys2Proof.Machine

/-! ### Complex elements -/

/-- Component `i` of a list of complex elements: real parts at even places, imaginary parts at odd ones. -/
def complexPart (g : Nat → Int × Int) (i : Nat) : Int := if i % 2 = 0 then (g (i / 2)).1 else (g (i / 2)).2

/-- Complex element `j` of a list of components. -/
def complexElement (f : Nat → Int) (j : Nat) : Int × Int := (f (2 * j), f (2 * j + 1))

theorem pairUp_map_range (f : Nat → Int) (n : Nat) :
    pairUp ((List.range (2 * n)).map f) = (List.range n).map (complexElement f) := by
  induction n generalizing f with
  | zero => rfl
  | succ n ih =>
    have hshift : complexElement (fun i => f (i + 2)) = fun j => complexElement f (j + 1) := by
      funext j
      simp only [complexElement]
      ring_nf
    rw [show 2 * (n + 1) = 2 * n + 1 + 1 by omega]
    simp only [List.range_succ_eq_map, List.map_cons, List.map_map, pairUp, Function.comp_def]
    rw [ih fun i => f (i + 2), hshift]
    rfl

theorem unpair_map_range (g : Nat → Int × Int) (n : Nat) :
    unpair ((List.range n).map g) = (List.range (2 * n)).map (complexPart g) := by
  induction n with
  | zero => rfl
  | succ n ih =>
    have hre : complexPart g (2 * n) = (g n).1 := by simp [complexPart]
    have him : complexPart g (2 * n + 1) = (g n).2 := by
      simp [complexPart, show (2 * n + 1) % 2 = 1 by omega, show (2 * n + 1) / 2 = n by omega]
    rw [unpair] at ih
    rw [show 2 * (n + 1) = 2 * n + 1 + 1 by omega]
    simp [List.range_succ, unpair, ih, hre, him]

/-- Components of elements computed from two lists of components, and from one. -/
theorem complexPart_element₂ (f g : Nat → Int) (op : Int × Int → Int × Int → Int × Int) (i : Nat) :
    complexPart (fun j => op (complexElement f j) (complexElement g j)) i =
      if i % 2 = 0 then (op (f i, f (i + 1)) (g i, g (i + 1))).1 else (op (f (i - 1), f i) (g (i - 1), g i)).2 := by
  rcases Nat.mod_two_eq_zero_or_one i with hi | hi
  · simp [complexPart, complexElement, hi, show 2 * (i / 2) = i by omega]
  · simp [complexPart, complexElement, hi, show 2 * (i / 2) = i - 1 by omega, show i - 1 + 1 = i by omega]

theorem complexPart_element (f : Nat → Int) (op : Int × Int → Int × Int) (i : Nat) :
    complexPart (fun j => op (complexElement f j)) i =
      if i % 2 = 0 then (op (f i, f (i + 1))).1 else (op (f (i - 1), f i)).2 :=
  complexPart_element₂ f f (fun p _ => op p) i

/-- A register holds an even number of components of a complex type. -/
theorem components_even {ty : VTy} (hc : ty.cplx = true) : 512 / ty.cw = 2 * (512 / ty.w) :=
  match ty, hc with
  | .c16, _ | .c32, _ => rfl

theorem clanes_eq {ty : VTy} (hc : ty.cplx = true) (v : BitVec 512) :
    clanes ty.cw v = (List.range (512 / ty.w)).map (complexElement (comp ty.cw v)) := by
  rw [clanes, slanes_eq, components_even hc, pairUp_map_range]

section
variable {k : Issue} {s u : State} (h : Issues k s u) {vd va vb : Fin 32} {ty : VTy} {mode : Fin 4}
include h

/-- A complex operation on one register. -/
theorem vcun_yieldsV (op : Int × Int → Int × Int) (hc : ty.cplx = true) :
    let a := comp ty.cw ((u.core k.tile k.core).vr va)
    YieldsV k u (vcun op k vd va ty mode s) vd mode ty.cw 0
      fun i => if i % 2 = 0 then (op (a i, a (i + 1))).1 else (op (a (i - 1), a i)).2 := by
  refine wrMode_yieldsV h hc (cw_pos ty) ?_
  rw [clanes_eq hc, List.map_map, unpair_map_range, components_even hc]
  exact List.map_congr_left fun i _ => complexPart_element ..

/-- A complex product, scaled by 2^-(w-1). -/
theorem vcmulOp_yieldsV (op : Int × Int → Int × Int → Int × Int) (hc : ty.cplx = true) :
    let a := comp ty.cw ((u.core k.tile k.core).vr va)
    let b := comp ty.cw ((u.core k.tile k.core).vr vb)
    YieldsV k u (vcmulOp op k vd va vb ty mode s) vd mode ty.cw (ty.cw - 1)
      fun i => if i % 2 = 0 then (op (a i, a (i + 1)) (b i, b (i + 1))).1 else (op (a (i - 1), a i) (b (i - 1), b i)).2 := by
  refine wrMode_yieldsV h hc (cw_pos ty) ?_
  rw [clanes_eq hc, clanes_eq hc, zipWith_map_range, unpair_map_range, components_even hc]
  exact List.map_congr_left fun i _ => complexPart_element₂ ..

/-- A widening accumulation of the source type, in mode 0b10, into an even pair (R288). -/
theorem vmacOp_ran (want : VTy) (ps : Core → List Int) (hpair : vd.val % 2 = 0) :
    Ran k u (vmacOp want ps k vd want 2 s) fun y => vacc y vd (ps y) :=
  vins_ran h (by simp [hpair])

end

/-- Settles O14: complex results are components of elements; the rest writes what its form defines. -/
theorem vectorComplexAndPairs : Obligations.VectorComplexAndPairs := by
  unfold Obligations.VectorComplexAndPairs
  intro k vd va vb sh ty mode s u h accumulates a b
  refine ⟨fun hc => ⟨vcun_yieldsV h (fun p => (p.1, -p.2)) hc, vcun_yieldsV h (fun p => (-p.2, p.1)) hc,
      vcmulOp_yieldsV h cmulI hc, vcmulOp_yieldsV h cmuljI hc⟩, fun hmode hpair => ?accumulate,
    fun hty hpair => ?narrow, fun hty hpair hmode hsh => ?widen, fun hty => ?sum, fun hty => ?csum⟩
  case accumulate =>
    subst hmode
    refine ⟨?_, ?_⟩
    · rintro rfl
      exact ⟨vmacOp_ran h .i16 _ hpair, vmacOp_ran h .i16 _ hpair⟩
    · rintro rfl
      exact ⟨vmacOp_ran h .c16 _ hpair, vmacOp_ran h .c16 _ hpair, vmacOp_ran h .c16 _ hpair, vmacOp_ran h .c16 _ hpair⟩
  case narrow =>
    have hform : ((ty == .i16 || ty == .c16) && va.val % 2 == 0) = true := by simpa [hpair] using hty
    exact vins_ran h hform
  case widen =>
    have hform : ((ty == .i16 || ty == .c16) && vd.val % 2 == 0 && mode == 0 && decide (sh.val ≤ 16)) = true := by
      simpa [hpair, hmode, hsh] using hty
    exact (vins_ran h hform).congr (by simp only [Nat.cast_pow, Nat.cast_ofNat])
  case sum =>
    subst hty
    exact (vins_ran h rfl).congr rfl
  case csum =>
    subst hty
    exact (vins_ran h rfl).congr rfl

end Sys2Proof.Machine
end

section
/-! SUPPORT. The floating-point instructions of vectors and of scalars (R281, R290), and with them O16 and O17. -/

namespace Sys2Proof.Machine

section
variable {k : Issue} {s u : State} (h : Issues k s u)
include h

/-- An element-wise floating-point operation on a floating-point type. -/
theorem vfbin_ran (op : FFmt → Nat → Nat → Nat) {vd va vb : Fin 32} {ty : VTy} (hflt : ty.flt = true) :
    Ran k u (vfbin op k vd va vb ty s) fun y =>
      y.setV vd (pack ty.w (List.zipWith (op ty.fmt) (lanes ty.w (y.vr va)) (lanes ty.w (y.vr vb)))) :=
  vins_ran h hflt

end

/-- The types with a narrower format than f32, and an even register of a pair. -/
theorem narrow_form {ty : VTy} {v : Fin 32} (hty : ty = .f16 ∨ ty = .bf16) (hpair : v.val % 2 = 0) :
    ((ty == .f16 || ty == .bf16) && v.val % 2 == 0) = true := by simpa [hpair] using hty

/-- Settles O16: each instruction of a form the spec defines writes what it packs. -/
theorem vectorFloatResults : Obligations.VectorFloatResults := by
  unfold Obligations.VectorFloatResults
  intro k vd va vb ty s u h bin
  refine ⟨fun hflt => ⟨vfbin_ran h fadd hflt, vfbin_ran h fsub hflt, vfbin_ran h fmul hflt, vfbin_ran h fmin hflt,
      vfbin_ran h fmax hflt, vins_ran h hflt⟩,
    fun hty => ⟨fun hpair => vins_ran h (narrow_form hty hpair), fun hpair => vins_ran h (narrow_form hty hpair)⟩,
    fun hty => ⟨(vins_ran h (beq_iff_eq.mpr hty)).congr (Core.sat_eq ..), vins_ran h (beq_iff_eq.mpr hty)⟩⟩

/-! ### Scalars (R281) -/

/-- A word with its low 64 bits replaced. -/
def withLow (v : BitVec 512) (r : Nat) : BitVec 512 :=
  (v &&& ~~~(BitVec.ofNat 512 (2 ^ 64 - 1))) ||| BitVec.ofNat 512 (r % 2 ^ 64)

theorem fset_eq (x : Core) (n r : Nat) : fset x n r = x.setV n (withLow (x.vr n) r) := rfl

theorem getLsbD_withLow (v : BitVec 512) (r : Nat) {i : Nat} (hi : i < 512) :
    (withLow v r).getLsbD i = if i < 64 then r.testBit i else v.getLsbD i := by
  simp only [withLow, BitVec.getLsbD_or, BitVec.getLsbD_and, BitVec.getLsbD_not, BitVec.getLsbD_ofNat,
    Nat.testBit_two_pow_sub_one, Nat.testBit_mod_two_pow, decide_eq_true hi]
  by_cases hlow : i < 64 <;> simp [hlow]

theorem withLow_low (v : BitVec 512) (r : Nat) : (withLow v r).extractLsb' 0 64 = BitVec.ofNat 64 r := by
  refine BitVec.eq_of_getLsbD_eq fun i hi => ?_
  rw [BitVec.getLsbD_extractLsb', Nat.zero_add, getLsbD_withLow v r (by omega), if_pos hi, BitVec.getLsbD_ofNat]

theorem withLow_high (v : BitVec 512) (r : Nat) : (withLow v r).extractLsb' 64 448 = v.extractLsb' 64 448 := by
  refine BitVec.eq_of_getLsbD_eq fun i hi => ?_
  rw [BitVec.getLsbD_extractLsb', BitVec.getLsbD_extractLsb', getLsbD_withLow v r (by omega), if_neg (by omega)]

section
variable {k : Issue} {s u : State} (h : Issues k s u)
include h

/-- A plain instruction that writes F `fd` writes bits [63:0] of V `fd` and leaves those above. -/
theorem plain_fset {fd : Nat} {r : Core → Nat} {n : Nat} (hr : r (u.core k.tile k.core) = n) :
    ∃ v : BitVec 512, v.extractLsb' 0 64 = BitVec.ofNat 64 n ∧
      v.extractLsb' 64 448 = ((u.core k.tile k.core).vr fd).extractLsb' 64 448 ∧
      Ran k u (plain k .v false (fun x => fset x fd (r x)) s) fun y => y.setV fd v := by
  subst hr
  exact ⟨_, withLow_low _ _, withLow_high _ _, (plain_ran h rfl).congr (fset_eq ..)⟩

end

/-- A half of an F register as a word. -/
theorem ofNat_fget_half (x : Core) (n : Nat) (half : Bool) :
    BitVec.ofNat 32 (if half then fget x n true >>> 32 else fget x n false) =
      if half then (x.vr n).extractLsb' 32 32 else (x.vr n).extractLsb' 0 32 := by
  apply BitVec.eq_of_toNat_eq
  cases half
  · simp [fget]
  · simp [fget, Nat.shiftRight_eq_div_pow]
    omega

/-- Settles O17: each instruction that writes F is a `plain_fset`, each that writes G a plain instruction. -/
theorem scalarFloatResults : Obligations.ScalarFloatResults := by
  unfold Obligations.ScalarFloatResults
  intro k fd fa fb gd ga dbl half s u h x fmt f yieldsF
  exact ⟨plain_fset h rfl, plain_fset h rfl, plain_fset h rfl, plain_fset h rfl, plain_fset h rfl, plain_fset h rfl,
    plain_fset h rfl, plain_fset h rfl, plain_fset h rfl, plain_fset h rfl, plain_fset h rfl,
    plain_setG (v := fun x => BitVec.ofNat 32 (if half then fget x fa true >>> 32 else fget x fa false)) h rfl
      (ofNat_fget_half x fa half),
    plain_yieldsG h rfl (Core.sat_eq ..),
    plain_setG (v := fun x => BitVec.ofNat 32 (fcmp (sfmt dbl) (fget x fa dbl) (fget x fb dbl))) h rfl rfl⟩

end Sys2Proof.Machine
end

section
/-! SUPPORT. The life of a coprocessor-queue command after its issue and of the job that it brings to an accelerator tile
(R301, R302, R306 to R312, R316 to R319, R391), and with it O19. -/

namespace Sys2Proof.Machine

/-! ### The command: arrival, commit, cancel, result -/

section Command
variable {tile core tag : Nat} {y : CqCmd} {s : State} (hcmd : mget tag (s.core tile core).cq = some y)
include hcmd

/-- The oldest job command on its way from a core to an accelerator tile in RUN is queued there (R302). -/
theorem execAccCqArrive_queues (hway : y.arrived = false) (hjob : y.op < 0x100)
    (hfirst : ((s.core tile core).cq.any fun z =>
      !z.2.arrived && z.2.tile == y.tile && decide (z.2.op < 0x100) && decide (z.2.ret.toNat < y.ret.toNat)) = false)
    (hacc : (accKind s.part y.tile).isSome = true)
    (hrun : tileRun (modCq s tile core tag fun z => { z with arrived := true }) y.tile = true) :
    execAccCqArrive tile core tag s = .next (addJob (modCq s tile core tag fun z => { z with arrived := true })
      (newJob y.tile (.cq tile core tag) y.an 256 false)) := by
  obtain ⟨a, hkind⟩ := Option.isSome_iff_exists.mp hacc
  have hpart : accKind (modCq s tile core tag fun z => { z with arrived := true }).part y.tile = some a := hkind
  simp [execAccCqArrive, hcmd, hway, hfirst, hpart, hrun, ok, Nat.not_le.mpr hjob]

/-- A COMMIT of an issued command that has arrived commits it, whatever its operation (R316). -/
theorem execCommit_arrived (hst : y.st = .issued) (harr : y.arrived = true) :
    execCommit tile core tag s =
      (let u := modCq s tile core tag fun z => { z with st := .committed }
       if y.op = 0x200 then ok (doQPush tile core tag y u)
       else if y.op = 0x201 then ok (doQPop tile core tag y u)
       else if y.op = 0x300 then ok (doJobAbort tile core tag y u)
       else match u.job y.tile (.cq tile core tag) with
         | some j => ok (commitJob j u)
         | none => ok u) := by
  simp only [execCommit, hcmd, hst, harr, ne_eq, not_true_eq_false, decide_false, Bool.not_true, Bool.or_false,
    Bool.false_eq_true, if_false] <;> rfl

/-- A CANCEL that reaches a cancelled command drops its job, which an accelerator tile counts (R316, R391). -/
theorem execCancel_arrived (hst : y.st = .cancelled) (harr : y.arrived = true) (hack : y.acked = false) :
    execCancel tile core tag s =
      (let u := modCq s tile core tag fun z => { z with acked := true }
       .next (match u.job y.tile (.cq tile core tag) with
         | some j => dropJob (if (accKind s.part j.tile).isSome then u.count (R.ACC_CNT_CANCEL j.tile) 1 else u) j
         | none => u)) := by
  simp only [execCancel, hcmd, hst, harr, hack]
  cases (modCq s tile core tag fun z => { z with acked := true }).job y.tile (.cq tile core tag) <;> rfl

/-- The CANCEL_ACK of an acknowledged command frees its tag and counts it (R316). -/
theorem execCancelAck_acked (hack : y.acked = true) :
    execCancelAck tile core tag s =
      .next ((s.setCore tile core { s.core tile core with cq := mdel tag (s.core tile core).cq }).count
        (R.CQ_CNT_CANCEL tile core) 1) := by
  simp only [execCancelAck, hcmd, hack, if_true, ok]

/-- A result that reaches a committed command frees its tag and is kept in CQ_RESULT; a status other than OK and ABORTED is
a late error as well (R246, R310, R317). -/
theorem execCqResultArrive_committed {st : Nat} {bad : Bool} (hst : y.st = .committed) (hres : y.result = some st)
    (hbad : (st != 0 && st != 12) = bad) :
    execCqResultArrive tile core tag s =
      (let x := s.core tile core
       let u := (s.setCore tile core
         { x with cq := mdel tag x.cq, late := if bad then x.late ++ [(tag, st)] else x.late,
                  st := if x.st = .wait then .run else x.st }).setReg (R.CQ_RESULT tile core tag) (BitVec.ofNat 32 st)
       .next (if bad then u.count (R.CQ_CNT_LATE tile core) 1 else u)) := by
  subst hbad
  simp only [execCqResultArrive, hcmd, hst, hres]
  rfl

end Command

/-! ### The job: start, watchdog, abort, end -/

/-- A job that may start takes its slot, from the FIFO or as an entry handed over, and its descriptor is read and checked
(R301, R306, R307). -/
theorem execAccJobStart_read {tile : Nat} {ref : JobRef} {s u v : State} {j : AccJob} {b : List Byte}
    (hmay : mayStart s tile ref = some j) (hside : j.committed = true ∨ sideRegion s j.at_ = false)
    (hslot : (s.job tile ref).isSome = true ∧ u = setJob s { j with started := some s.now } ∨
      s.job tile ref = none ∧ u = addJob s { j with started := some s.now })
    (hread : jobRead { j with started := some s.now } j.at_ 64 u = (.ok b, v)) :
    execAccJobStart tile ref s = .next (startBody { j with started := some s.now } b v) := by
  have hgo : (!j.committed && sideRegion s j.at_) = false := by
    rcases hside with h | h <;> simp [h]
  rcases hslot with ⟨hsome, rfl⟩ | ⟨hnone, rfl⟩
  · obtain ⟨i, hi⟩ := Option.isSome_iff_exists.mp hsome
    simp only [execAccJobStart, hmay, hgo, hi, hread, Bool.false_eq_true, if_false, ok]
  · simp only [execAccJobStart, hmay, hgo, hnone, hread, Bool.false_eq_true, if_false, ok]

/-- A started job that has not finished within the watchdog interval ends with TIMEOUT (R312). -/
theorem execAccWatchdog_timeout {tile t0 : Nat} {ref : JobRef} {s : State} {j : AccJob} (hjob : s.job tile ref = some j)
    (hacc : (accKind s.part tile).isSome = true) (hstart : j.started = some t0) (hstatus : j.status = none)
    (hset : fld (accCtrl s tile) 31 16 ≠ 0) (hpast : fld (accCtrl s tile) 31 16 * 10000 ≤ s.now - t0) :
    execAccWatchdog tile ref s = .next (failJob j 15 s) := by
  obtain ⟨a, hkind⟩ := Option.isSome_iff_exists.mp hacc
  simp only [execAccWatchdog, hjob, hkind, hstart, hstatus, bne_iff_ne, hset, hpast, ok, ne_eq, not_false_eq_true,
    decide_true, Bool.and_true, if_true]
  rfl

/-- An abort that waits at an accelerator tile in RUN ends the first job of its descriptor and answers the command that
asked for it (R318, R319). -/
theorem execAccAbort_aborts {tile desc : Nat} {s : State} {a : AccAbort} {j : AccJob}
    (hwaits : (s.acc.aborts.find? fun a => a.tile == tile && a.at_ == desc) = some a)
    (hacc : (accKind s.part tile).isSome = true) (hrun : tileRun s tile = true)
    (hjob : (s.acc.jobs.find? fun j => j.tile == tile && j.at_ == desc) = some j) :
    execAccAbort tile desc s =
      (let u := failJob j 12 { s with acc := { s.acc with aborts := s.acc.aborts.erase a } }
       .next (match a.by_ with | some (t, c, g) => cqResult u t c g 12 | none => u)) := by
  obtain ⟨k, hkind⟩ := Option.isSome_iff_exists.mp hacc
  have hawake : tileRun { s with acc := { s.acc with aborts := s.acc.aborts.erase a } } tile = true := hrun
  simp only [execAccAbort, hwaits, hkind, hawake, hjob, Bool.not_true, Bool.false_eq_true, if_false, ok]
  rfl

/-- A committed job whose status is decided ends with it, its descriptor read before (R310 to R312). -/
theorem execAccJobComplete_decided {tile st : Nat} {ref : JobRef} {s : State} {i j : AccJob} (hjob : s.job tile ref = some i)
    (hsettled : (settleRach i s).job tile ref = some j) (hstatus : j.status = some st) (hcommit : j.committed = true)
    (hrun : tileRun (settleRach i s) tile = true) (hbody : j.body ≠ [] ∨ st ≠ 12) :
    execAccJobComplete tile ref s = .next (confirmed j st (endJob j st (setJob (settleRach i s) j))) := by
  have hread : (j.body.isEmpty && st == Status.aborted.code) = false := by
    rcases hbody with h | h
    · simp [h]
    · exact Bool.and_eq_false_imp.mpr fun _ => beq_eq_false_iff_ne.mpr h
  simp only [execAccJobComplete, hjob, hsettled, hstatus, hcommit, hrun, hread, Bool.not_true, Bool.or_self,
    Bool.false_eq_true, if_false, ok]

/-- Settles O19: each event does, in a state that meets its condition, what its own rule above says. -/
theorem commandLifecycle : Obligations.CommandLifecycle := by
  unfold Obligations.CommandLifecycle
  intro tile core tag y ref s x
  refine ⟨execAccCqArrive_queues, fun j hcmd hst harr hop hjob => ?commitJob,
    fun hcmd hst harr => ⟨fun hop => ?qPush, fun hop => ?qPop, fun hop => ?jobAbort⟩,
    execCancel_arrived, execCancelAck_acked, fun st hcmd hst hres hgood => ?good, fun st hcmd hst hres hok habort => ?late,
    fun j b v hmay hside hqueued hread => execAccJobStart_read hmay hside (.inl ⟨by rw [hqueued]; rfl, rfl⟩) hread,
    fun j b v hmay hside hnone hread => execAccJobStart_read hmay hside (.inr ⟨hnone, rfl⟩) hread,
    fun j t0 => execAccWatchdog_timeout, fun a j desc => execAccAbort_aborts, fun i j st => execAccJobComplete_decided⟩
  case commitJob =>
    refine (execCommit_arrived hcmd hst harr).trans ?_
    simp only [hjob, if_neg (show y.op ≠ 0x200 by omega), if_neg (show y.op ≠ 0x201 by omega),
      if_neg (show y.op ≠ 0x300 by omega), ok]
  case qPush => exact (execCommit_arrived hcmd hst harr).trans (if_pos hop)
  case qPop => exact (execCommit_arrived hcmd hst harr).trans ((if_neg (by omega)).trans (if_pos hop))
  case jobAbort =>
    exact (execCommit_arrived hcmd hst harr).trans ((if_neg (by omega)).trans ((if_neg (by omega)).trans (if_pos hop)))
  case good =>
    have hbad : (st != 0 && st != 12) = false := by rcases hgood with rfl | rfl <;> rfl
    exact execCqResultArrive_committed hcmd hst hres hbad
  case late =>
    have hbad : (st != 0 && st != 12) = true := by simp [hok, habort]
    exact execCqResultArrive_committed hcmd hst hres hbad

end Sys2Proof.Machine
end

section
/-! SUPPORT. The instructions of a DMA channel (R326 to R335), from the fetched instruction to what they leave, and with
them O23. -/

namespace Sys2Proof.Machine

/-! ### The fetch (R326, R327) -/

section Channel
variable {t : Nat} {ch : Fin 16} {s : State}

theorem exec_dmaFetch_read {b : List Byte} {v : State} (hst : chSt s t ch.val = .run) (hrun : tileRun s t = true)
    (hnone : (s.chan t ch.val).insn = []) (hread : busRead (.dma t ch.val) (chPc s t ch.val) 16 s = (.ok b, v)) :
    exec (.dmaFetch t ch) s = .next (if insnOk b then modChan v t ch.val fun x => { x with insn := b }
      else badInsn (modChan v t ch.val fun x => { x with insn := b }) t ch.val) := by
  show execDmaFetch t ch s = _
  cases hok : insnOk b <;> simp [execDmaFetch, hst, hrun, hnone, hread, hok, ok]

/-! ### Instructions that go on at once (R329, R332) -/

theorem exec_dmaNop_ready (hready : ready s t ch.val 7 = true) : exec (.dmaNop t ch) s = .next (chNext s t ch.val) := by
  show execDmaNop t ch s = _
  simp [execDmaNop, hready, ok]

theorem exec_jump_ready (hready : ready s t ch.val 5 = true) :
    exec (.jump t ch) s = .next (chGoto s t ch.val (ent (s.chan t ch.val).insn 8 8)) := by
  show execJump t ch s = _
  simp [execJump, hready, ok]

/-- An address register takes the value only below 2^48 (R327). -/
theorem exec_set_address (hready : ready s t ch.val 6 = true) (hreg : ent (s.chan t ch.val).insn 1 1 < 4) :
    exec (.set t ch) s = .next (
      let i := (s.chan t ch.val).insn
      let n := (if iBits i 2 0 0 = 1 then chAR s t ch.val (ent i 1 1) + ent i 8 8 else ent i 8 8) % 2 ^ 64
      if 2 ^ 48 ≤ n then badInsn s t ch.val
      else chNext (s.setReg64 (R.DMA_CH_AR t ch.val (ent i 1 1)) (BitVec.ofNat 64 n)) t ch.val) := by
  show execSet t ch s = _
  simp only [execSet, hready, hreg, setAR, beq_iff_eq, Bool.not_true, Bool.false_eq_true, if_false, if_true, ok]
  exact (apply_ite Host.Outcome.next _ _ _).symm

theorem exec_set_counter (hready : ready s t ch.val 6 = true) (hreg : 4 ≤ ent (s.chan t ch.val).insn 1 1) :
    exec (.set t ch) s = .next (
      let i := (s.chan t ch.val).insn
      let a := R.DMA_CH_LC t ch.val (ent i 1 1 - 4)
      chNext (s.setReg a
        (BitVec.ofNat 32 (if iBits i 2 0 0 = 1 then (s.reg a).toNat + ent i 8 8 else ent i 8 8))) t ch.val) := by
  show execSet t ch s = _
  simp [execSet, hready, Nat.not_lt.mpr hreg, ok]

theorem exec_loop_ready (hready : ready s t ch.val 2 = true) :
    exec (.loop t ch) s = .next (
      let i := (s.chan t ch.val).insn
      let a := R.DMA_CH_LC t ch.val (iBits i 1 1 0)
      let n := if s.reg a = 0#32 then ent i 4 4 - 1 else (s.reg a).toNat - 1
      let w := s.setReg a (BitVec.ofNat 32 n)
      if n = 0 then chNext w t ch.val
      else chGoto w t ch.val (rowAddr (chPc w t ch.val) 16 (iSigned i 2 2))) := by
  show execLoop t ch s = _
  have hzero (w : Word) : w.toNat = 0 ↔ w = 0#32 := BitVec.toNat_inj (y := 0#32)
  simp only [execLoop, hready, hzero, Bool.not_true, Bool.false_eq_true, if_false, ok]
  exact (apply_ite Host.Outcome.next _ _ _).symm

/-! ### MOVE, WAIT and END (R325, R328, R330, R334, R335) -/

theorem exec_move_ready (hready : ready s t ch.val 1 = true) :
    exec (.move t ch) s = .next (issueRows 512 (modChan s t ch.val fun x => { x with begun := true }) t ch.val) := by
  show execMove t ch s = _
  simp [execMove, hready, ok]

/-- A WAIT on a queue whose dispatcher runs, or on no queue, waits (R330). -/
theorem exec_dmaWait_ready (hready : ready s t ch.val 3 = true)
    (hqueue : ent (s.chan t ch.val).insn 1 1 = 1 ∨ ent (s.chan t ch.val).insn 1 1 = 2 →
      qidPresent s (ent (s.chan t ch.val).insn 2 2) = true ∧
        tileRun s (dsqTile (qidDsq (ent (s.chan t ch.val).insn 2 2))) = true) :
    exec (.dmaWait t ch) s = .next (setSt (modChan s t ch.val fun x => { x with begun := true, waitAt := s.now }) t ch.val
      .wait (waitReason (ent (s.chan t ch.val).insn 1 1))) := by
  show execDmaWait t ch s = _
  have hpresent : ¬((ent (s.chan t ch.val).insn 1 1 = 1 ∨ ent (s.chan t ch.val).insn 1 1 = 2) ∧
      (!qidPresent s (ent (s.chan t ch.val).insn 2 2)) = true) :=
    fun h => by simp [(hqueue h.1).1] at h
  have hawake : ¬((ent (s.chan t ch.val).insn 1 1 = 1 ∨ ent (s.chan t ch.val).insn 1 1 = 2) ∧
      (!tileRun s (dsqTile (qidDsq (ent (s.chan t ch.val).insn 2 2)))) = true) :=
    fun h => by simp [(hqueue h.1).2] at h
  simp only [execDmaWait, hready, if_neg hpresent, if_neg hawake, Bool.not_true, Bool.false_eq_true, if_false, ok]

theorem exec_end_park (hready : ready s t ch.val 0 = true) (hquiet : ringPend s t ch.val = false) :
    exec (.end_ t ch) s = .next (
      let w := if (s.chan t ch.val).fromPark then s.count (R.DMA_CH_DBRED t ch.val) 1 else s
      chNotice (setSt (setChan w t ch.val DmaChan.reset) t ch.val .park 0) t ch.val 27) := by
  show execEnd_ t ch s = _
  simp [execEnd_, hready, hquiet, ok]

theorem exec_end_rung (hready : ready s t ch.val 0 = true) (hrung : ringPend s t ch.val = true) :
    exec (.end_ t ch) s = .next (issueFetch (s.setField (R.DMA_CH_STAT t ch.val) 20 20 0) t ch.val
      (s.chan t ch.val).fromPark) := by
  show execEnd_ t ch s = _
  simp [execEnd_, hready, hrung, ok]

/-! ### SIGNAL (R331) -/

section Signal
variable (hready : ready s t ch.val 4 = true)
include hready

theorem exec_signalEvent_running (hkind : ent (s.chan t ch.val).insn 1 1 = 0)
    (hengine : hasDma s (ent (s.chan t ch.val).insn 2 1) = true)
    (hrun : tileRun s (ent (s.chan t ch.val).insn 2 1) = true) :
    exec (.signalEvent t ch) s = .next (signalOut
      (evtSet s (ent (s.chan t ch.val).insn 2 1) (bitMask (ent (s.chan t ch.val).insn 3 1))) t ch.val none) := by
  show execSignalEvent t ch s = _
  simp [execSignalEvent, hready, hkind, hengine, hrun, ok]

theorem exec_signalInterrupt_running (hkind : ent (s.chan t ch.val).insn 1 1 = 2)
    (hdsp : isDsp s.part (ent (s.chan t ch.val).insn 2 1) = true)
    (hrun : tileRun s (ent (s.chan t ch.val).insn 2 1) = true) :
    exec (.signalInterrupt t ch) s = .next (signalOut
      (dmaIrq s (ent (s.chan t ch.val).insn 2 1) (ent (s.chan t ch.val).insn 3 1)) t ch.val none) := by
  show execSignalInterrupt t ch s = _
  simp [execSignalInterrupt, hready, hkind, hdsp, hrun, ok]

section Push
variable {b : List Byte} {v w : State} (hkind : ent (s.chan t ch.val).insn 1 1 = 1)
  (hread : busReadMany (.dma t ch.val) (entryAddr s t ch.val (s.chan t ch.val).insn) 32 s = (.ok b, v))
include hkind hread

theorem exec_signalQpush_accepted
    (hpush : pushQ (.dma t ch.val) (ent (s.chan t ch.val).insn 4 2) b v = (.accepted, w)) :
    exec (.signalQpush t ch) s = .next (signalOut w t ch.val none) := by
  show execSignalQpush t ch s = _
  simp [execSignalQpush, hready, hkind, hread, hpush, ok]

theorem exec_signalQpush_held
    (hpush : pushQ (.dma t ch.val) (ent (s.chan t ch.val).insn 4 2) b v = (.held, w)) :
    exec (.signalQpush t ch) s = .next (setSt (signalOut w t ch.val none) t ch.val .wait 5) := by
  show execSignalQpush t ch s = _
  simp [execSignalQpush, hready, hkind, hread, hpush, ok]

end Push
end Signal
end Channel

/-- Settles O23: a channel whose fetched instruction is ready does what its operation says, one lemma per operation. -/
theorem dmaInstructions : Obligations.DmaInstructions := by
  unfold Obligations.DmaInstructions
  intro t ch s
  exact ⟨fun b v => exec_dmaFetch_read, exec_dmaNop_ready, exec_jump_ready, exec_set_address, exec_set_counter,
    exec_loop_ready, exec_move_ready, exec_dmaWait_ready, exec_end_park, exec_end_rung, exec_signalEvent_running,
    exec_signalInterrupt_running, fun b v w hready hkind hread =>
      ⟨exec_signalQpush_accepted hready hkind hread, exec_signalQpush_held hready hkind hread⟩⟩

end Sys2Proof.Machine
end

section
/-! SUPPORT. What reaches a DMA channel from outside (R325, R330, R334, R337, R340 to R342): completions, halts, waits that
end, the stream gate, the doorbell, event flags and held pushes; with them O24. -/

namespace Sys2Proof.Machine

/-! ### The registers that carry commands to the engine (R346) -/

/-- The doorbell of a channel is a write-only word of its engine. -/
theorem rowAt_dma_doorbell (t : Nat) (ch : Fin 16) : rowAt (.dma t) (0x80 * ch.val + 0x10) =
    some ⟨"DMA_CH_DOORBELL", 0x10, 16, 0x80, .wo, false, 0x0, 0x0, 0x0⟩ := by
  show rowsDma.find? (fun r => (r.hit (0x80 * ch.val + 0x10)).isSome) = _
  revert ch
  decide

theorem rowAt_dma_evtSet (t : Nat) :
    rowAt (.dma t) 0x810 = some ⟨"DMA_EVT_SET", 0x810, 1, 0x4, .wo, false, 0x0, 0x0, 0x0⟩ := by
  show rowsDma.find? (fun r => (r.hit 0x810).isSome) = _
  decide

/-- A write in the channels' part of the block at offset 0x10 of channel `ch` rings that channel. -/
theorem dmaWrite_doorbell (t : Nat) (ch : Fin 16) (a : Nat) (row : RegRow) (w : Word) (s : State) :
    dmaWrite t (0x80 * ch.val + 0x10) a row w s = dmaDoorbell s t ch.val w := by
  have hlow : ¬0x810 = 0x80 * ch.val + 0x10 := by omega
  have hchan : ¬0x800 ≤ 0x80 * ch.val + 0x10 := by omega
  have hdiv : (0x80 * ch.val + 0x10) / 0x80 = ch.val := by omega
  have hmod : (0x80 * ch.val + 0x10) % 0x80 = 0x10 := by omega
  simp only [dmaWrite, if_neg hlow, if_neg hchan, hdiv, hmod]

section Registers
variable {r : Requester} {t : Nat} {ch : Fin 16} {s : State}

/-- A doorbell write that is allowed is done by the engine (R333). -/
theorem writeAnswer_doorbell (w : Word)
    (hplace : placeOf s.part (R.DMA_CH_DOORBELL t ch.val) = .regs (.dma t) (0x80 * ch.val + 0x10))
    (hok : regErr s r true (R.DMA_CH_DOORBELL t ch.val) 4 (.dma t) (0x80 * ch.val + 0x10) = none) :
    writeAnswer r (R.DMA_CH_DOORBELL t ch.val) (leBytes 4 w.toNat) s = (dmaDoorbell s t ch.val w).answer .done := by
  rw [writeAnswer_regs hplace w hok,
    write32_narrow (by simp) (rowAt_dma_doorbell t ch) r _ w s (by simp) (by simp) rfl]
  exact congrArg (·.answer .done) (dmaWrite_doorbell t ch _ _ w s)

theorem exec_dmaEvtSet_allowed (mask : Word) (hplace : placeOf s.part (R.DMA_EVT_SET t) = .regs (.dma t) 0x810)
    (hok : regErr s r true (R.DMA_EVT_SET t) 4 (.dma t) 0x810 = none) :
    exec (.dmaEvtSet r t mask) s = .next ((evtSet s t mask).answer .done) := by
  show Host.Outcome.next (writeAnswer r (R.DMA_EVT_SET t) (leBytes 4 mask.toNat) s) = _
  rw [writeAnswer_regs hplace mask hok,
    write32_narrow (by simp) (rowAt_dma_evtSet t) r _ mask s (by simp) (by simp) rfl]
  rfl

end Registers

/-! ### Completions and halts (R325, R340, R342) -/

section Events
variable {t : Nat} {ch : Fin 16} {s : State}

theorem exec_dmaRequestComplete_move {row : Nat}
    (hst : chSt s t ch.val = .run ∨ chSt s t ch.val = .wait ∧ wReason s t ch.val = 6)
    (hbegun : (s.chan t ch.val).begun = true) (hrow : row ∈ (s.chan t ch.val).out)
    (hmove : isMove (s.chan t ch.val).insn = true) :
    exec (.dmaRequestComplete t ch row) s = .next (rowInject s t ch.val row) := by
  show execDmaRequestComplete t ch row s = _
  rcases hst with hst | ⟨hst, hwhy⟩
  · simp [execDmaRequestComplete, hst, hbegun, hrow, hmove, ok]
  · simp [execDmaRequestComplete, hst, hwhy, hbegun, hrow, hmove, ok]

/-- A pending ABORT with nothing outstanding ends the channel, whatever failure is latched (R342). -/
theorem drainHalt_abort {c : Nat} (hout : (s.chan t c).out = []) (habort : (s.chan t c).abort = true) :
    drainHalt s t c =
      (haltWith s t c 6 false 5 none (rowsDone (s.chan t c))).setReg (R.DMA_CH_ARESULT t c) 12#32 := by
  simp [drainHalt, hout, habort, Status.code]

theorem exec_dmaHalt_abort (hst : chSt s t ch.val = .run ∨ chSt s t ch.val = .wait)
    (hout : (s.chan t ch.val).out = []) (habort : (s.chan t ch.val).abort = true) :
    exec (.dmaHalt t ch) s = .next ((haltWith s t ch.val 6 false 5 none (rowsDone (s.chan t ch.val))).setReg
      (R.DMA_CH_ARESULT t ch.val) 12#32) := by
  rw [← drainHalt_abort hout habort]
  show execDmaHalt t ch s = _
  rcases hst with hst | hst <;> simp [execDmaHalt, hst, ok]

/-! ### Waits that end (R330, R339) -/

/-- With no channel of a lower number waiting for events, DMA_WAIT_SATISFIED looks at its own channel alone. -/
theorem exec_dmaWaitSatisfied_first
    (hfirst : ((List.range ch.val).filter fun k => inWait s t k && wReason s t k == 1) = []) :
    exec (.dmaWaitSatisfied t ch) s = .next (satisfy s t ch.val) := by
  show execDmaWaitSatisfied t ch s = _
  simp only [execDmaWaitSatisfied, hfirst, List.foldl_nil, ok]

theorem satisfy_asleep {c : Nat} (hasleep : fillAsleep s t c = true) :
    satisfy s t c = haltWith s t c 4 false 5 none 0 := by
  simp [satisfy, hasleep]

theorem satisfy_holds {c : Nat} (hawake : fillAsleep s t c = false) (hwait : inWait s t c = true)
    (hholds : waitHolds s t c = true) :
    satisfy s t c = chNext (if ent (s.chan t c).insn 1 1 = 0 && (ent (s.chan t c).insn 8 8).testBit 33
      then s.modReg (R.DMA_EVT t) (· &&& ~~~(BitVec.ofNat 32 (ent (s.chan t c).insn 8 8))) else s) t c := by
  simp [satisfy, hawake, hwait, hholds]

theorem exec_dmaWaitTimeout_expired (hwait : inWait s t ch.val = true) (hlimit : ent (s.chan t ch.val).insn 4 4 ≠ 0)
    (hlate : (s.chan t ch.val).waitAt + ent (s.chan t ch.val).insn 4 4 * 1000 ≤ s.now)
    (hnot : waitHolds s t ch.val = false) :
    exec (.dmaWaitTimeout t ch) s = .next (haltWith s t ch.val 7 false 5 none 0) := by
  show execDmaWaitTimeout t ch s = _
  simp [execDmaWaitTimeout, hwait, hlimit, hlate, hnot, ok]

theorem exec_qemptyRetry_waiting (hst : chSt s t ch.val = .wait) (hwhy : wReason s t ch.val = 6)
    (hrun : tileRun s t = true) : exec (.qemptyRetry t ch) s = .next (issueRows 512 s t ch.val) := by
  show execQemptyRetry t ch s = _
  simp [execQemptyRetry, hst, hwhy, hrun, ok]

/-- A channel that waits at the gate fetches when it opens (R337). -/
theorem exec_streamGateMessage_opens (hengine : hasDma s t = true) (hstream : streamOn s t ch.val = true)
    (hrun : tileRun s t = true) (hbusy : chSt s t ch.val ≠ .idle) (hst : chSt (gateUpdate s t ch.val) t ch.val = .wait)
    (hwhy : wReason (gateUpdate s t ch.val) t ch.val = 4) (hopen : gateOpen (gateUpdate s t ch.val) t ch.val = true) :
    exec (.streamGateMessage t ch) s =
      .next (issueFetch (gateUpdate s t ch.val) t ch.val ((gateUpdate s t ch.val).chan t ch.val).fromPark) := by
  show execStreamGateMessage t ch s = _
  simp [execStreamGateMessage, hengine, hstream, hrun, hbusy, hst, hwhy, hopen, ok]

/-! ### The doorbell by the channel's state (R334, R335, R342) -/

theorem doRing_run {c : Nat} (hst : chSt s t c = .run) : doRing s t c = s.orReg (R.DMA_CH_STAT t c) 20 := by
  simp [doRing, hst]

theorem doAbort_idle {c : Nat} (hst : chSt s t c = .idle) : doAbort s t c = s.setReg (R.DMA_CH_ARESULT t c) 11#32 := by
  simp [doAbort, hst, Status.code]

/-! ### Held pushes (R201) -/

/-- The oldest held push is a channel's and its queue takes it: the channel runs on. -/
theorem exec_heldPushAccept_channel {qid : Nat} {h : HeldPush} {l : List HeldPush} (hheld : (s.queue qid).held = h :: l)
    (hby : h.producer = .dma t ch.val)
    (htaken : ((acceptHeld s qid).queue qid).held.length ≠ (s.queue qid).held.length)
    (hst : chSt (acceptHeld s qid) t ch.val = .wait) (hwhy : wReason (acceptHeld s qid) t ch.val = 5) :
    exec (.heldPushAccept qid) s = .next (setSt (acceptHeld s qid) t ch.val .run 0) := by
  show execHeldPushAccept qid s = _
  have hhead : (s.queue qid).held.head? = some h := by rw [hheld]; rfl
  simp only [execHeldPushAccept, hhead, if_neg htaken, hby, hst, hwhy, beq_self_eq_true, Bool.and_self, if_true, ok]

end Events

/-- Settles O24: each event acts as its lemma above says; a doorbell write reaches the engine as one register write. -/
theorem dmaChannelEvents : Obligations.DmaChannelEvents := by
  unfold Obligations.DmaChannelEvents
  intro r t ch row qid mask s
  refine ⟨exec_dmaRequestComplete_move, exec_dmaHalt_abort, fun hfirst => ⟨fun hasleep => ?asleep,
      fun hawake hwait hholds => ?satisfied⟩, exec_dmaWaitTimeout_expired, exec_qemptyRetry_waiting,
    exec_streamGateMessage_opens, fun hplace hok => ?ring, fun hplace hok => ?abort, fun hplace hok => ?resume,
    fun hplace hok => ?reset, doRing_run, doAbort_idle, exec_dmaEvtSet_allowed mask,
    fun h l => exec_heldPushAccept_channel⟩
  case asleep => rw [exec_dmaWaitSatisfied_first hfirst, satisfy_asleep hasleep]
  case satisfied => rw [exec_dmaWaitSatisfied_first hfirst, satisfy_holds hawake hwait hholds]
  case ring => exact congrArg Host.Outcome.next (writeAnswer_doorbell 1#32 hplace hok)
  case abort => exact congrArg Host.Outcome.next (writeAnswer_doorbell 2#32 hplace hok)
  case resume => exact congrArg Host.Outcome.next (writeAnswer_doorbell 3#32 hplace hok)
  case reset => exact congrArg Host.Outcome.next (writeAnswer_doorbell 4#32 hplace hok)

end Sys2Proof.Machine
end

section
/-! SUPPORT. Requests and answers at the ports of the tiles (R348, R352, R359, R362, R363), routes and their datelines (R353,
R354), the arbitration and the replays of a link (R350, R356), and with them O26. -/

namespace Sys2Proof.Machine

/-! ### A request at its port and at its target (R352, R359, R362) -/

section Carry
variable {q : NocReq} {dst flits : Nat} {act : State → State} {s : State}

/-- A request with its tokens, and no other of its class before it, is injected. -/
theorem inject_free (hfirst : waitsBehind s q = false) (htokens : mayInject s q.src q.cls flits = true) :
    inject q flits s =
      let w := chargeFlits s q.src q.cls flits
      (true, { w with noc := { w.noc with waiting := leaveWaiting q w.noc.waiting } }) := by
  simp only [inject, hfirst, htokens, Bool.not_false, Bool.and_self, if_true]

/-- A request that finds no tokens begins to wait. -/
theorem inject_short (htokens : mayInject s q.src q.cls flits = false) (hnew : s.noc.waiting.contains q = false) :
    inject q flits s =
      let w := countWait s q.src q.cls
      (false, { w with noc := { w.noc with waiting := w.noc.waiting ++ [q] } }) := by
  simp only [inject, htokens, hnew, Bool.and_false, Bool.false_eq_true, if_false]

theorem carry_atPort (haway : atTarget s q = false) (hgrounded : flying s (.request q) = false)
    (hsend : canSend s q.src = true) :
    carry q dst flits act s =
      if (inject q flits s).1 then launchPacket (inject q flits s).2 (.request q) q.cls q.src dst flits
      else (inject q flits s).2 := by
  simp only [carry, haway, hgrounded, hsend, Bool.false_eq_true, Bool.not_true, Bool.or_self, if_false]

theorem carry_atTarget (harrived : atTarget s q = true) :
    carry q dst flits act s =
      if answers (takeRequest q s) q.by_ dst then act (takeRequest q s) else returnToSender q dst flits (takeRequest q s) := by
  simp only [carry, harrived, if_true]

/-- What becomes of a request, by where it stands. -/
theorem next_carry_cases {o : Host.Outcome State Fault Refusal} (ho : o = .next (carry q dst flits act s)) :
    (atTarget s q = false → flying s (.request q) = false → canSend s q.src = true →
      (waitsBehind s q = false → mayInject s q.src q.cls flits = true →
        let w := chargeFlits s q.src q.cls flits
        o = .next (launchPacket { w with noc := { w.noc with waiting := leaveWaiting q w.noc.waiting } } (.request q) q.cls
          q.src dst flits)) ∧
      (mayInject s q.src q.cls flits = false → s.noc.waiting.contains q = false →
        let w := countWait s q.src q.cls
        o = .next { w with noc := { w.noc with waiting := w.noc.waiting ++ [q] } })) ∧
    (atTarget s q = true → o = .next (if answers (takeRequest q s) q.by_ dst then act (takeRequest q s)
      else returnToSender q dst flits (takeRequest q s))) := by
  subst ho
  refine ⟨fun haway hgrounded hsend => ⟨fun hfirst htokens => ?injected, fun htokens hnew => ?waits⟩, fun harrived => ?arrived⟩
  case injected =>
    rw [carry_atPort haway hgrounded hsend, inject_free hfirst htokens]
    rfl
  case waits =>
    rw [carry_atPort haway hgrounded hsend, inject_short htokens hnew]
    rfl
  case arrived => rw [carry_atTarget harrived]

end Carry

/-! ### The three kinds of request (R348, R352) -/

/-- The request of requester `r` with the operation `op`, to `addr`. -/
def requestOf (r : Requester) (cls tag req addr op nbytes : Nat) (data : List Byte) : NocReq :=
  { src := reqTile r, req := req, tag := tag, cls := cls, op := op, by_ := r, addr := addr, nbytes := nbytes, data := data }

/-- What the target `dst` does with a READ. -/
def serveRead (q : NocReq) (dst : Nat) (s : State) : State :=
  match (busRead q.by_ q.addr q.nbytes s).1 with
  | .ok b => respond q dst 0 b (busRead q.by_ q.addr q.nbytes s).2
  | .error c => respond q dst c.num [] (busRead q.by_ q.addr q.nbytes s).2

/-- What the target `dst` does with a WRITE. -/
def serveWrite (q : NocReq) (dst : Nat) (s : State) : State :=
  match (busWrite q.by_ q.addr q.data s).1 with
  | none => respond q dst 0 [] (busWrite q.by_ q.addr q.data s).2
  | some c => respond q dst c.num [] (busWrite q.by_ q.addr q.data s).2

/-- What the target `dst` does with a MESSAGE. -/
def deliverMessage (q : NocReq) (dst : Nat) (s : State) : State :=
  { s with noc := { s.noc with messages := s.noc.messages ++
    [{ src := q.src, dst := dst, cls := q.cls, addr := q.addr, data := q.data }] } }

section Request
variable {r : Requester} {cls : Fin 4} {tag req addr n dst : Nat} {data : List Byte} {s : State}

theorem exec_nocRead_served (hblock : inOneBlock addr n = true) (hthere : absentDest s addr = false)
    (hdest : nocDest s addr = some dst) :
    exec (.nocRead r cls tag req addr n) s =
      .next (carry (requestOf r cls tag req addr 0 n []) dst 1 (serveRead (requestOf r cls tag req addr 0 n []) dst) s) := by
  show execNocRead r cls tag req addr n s = _
  simp only [execNocRead, hblock, hthere, hdest, Bool.not_true, Bool.false_eq_true, if_false]
  rfl

theorem exec_nocWrite_served (hblock : inOneBlock addr data.length = true) (hthere : absentDest s addr = false)
    (hdest : nocDest s addr = some dst) :
    exec (.nocWrite r cls tag req addr data) s =
      .next (carry (requestOf r cls tag req addr 1 data.length data) dst (ceilDiv data.length 128)
        (serveWrite (requestOf r cls tag req addr 1 data.length data) dst) s) := by
  show execNocWrite r cls tag req addr data s = _
  simp only [execNocWrite, hblock, hthere, hdest, Bool.not_true, Bool.false_eq_true, if_false]
  rfl

/-- A MESSAGE of at most 512 bytes has at most 4 flits. -/
theorem messageFlits_le (hsize : data.length ≤ 512) : ¬4 < max 1 (ceilDiv data.length 128) := by
  unfold ceilDiv
  omega

theorem exec_nocMessage_served (hsize : data.length ≤ 512) (hthere : tilePresent s.part dst = true) :
    exec (.nocMessage r cls tag req dst addr data) s =
      .next (carry (requestOf r cls tag req addr 2 data.length data) dst (max 1 (ceilDiv data.length 128))
        (deliverMessage (requestOf r cls tag req addr 2 data.length data) dst) s) := by
  show execNocMessage r cls tag req dst addr data s = _
  simp only [execNocMessage, messageFlits_le hsize, hthere, Bool.not_true, Bool.false_eq_true, if_false]
  rfl

theorem exec_nocRead_absent (hblock : inOneBlock addr n = true) (habsent : absentDest s addr = true) :
    exec (.nocRead r cls tag req addr n) s = .next (refuseAtPort (reqTile r) s) := by
  show execNocRead r cls tag req addr n s = _
  simp [execNocRead, hblock, habsent, ok]

theorem exec_nocWrite_absent (hblock : inOneBlock addr data.length = true) (habsent : absentDest s addr = true) :
    exec (.nocWrite r cls tag req addr data) s = .next (refuseAtPort (reqTile r) s) := by
  show execNocWrite r cls tag req addr data s = _
  simp [execNocWrite, hblock, habsent, ok]

theorem exec_nocMessage_absent (hsize : data.length ≤ 512) (habsent : tilePresent s.part dst = false) :
    exec (.nocMessage r cls tag req dst addr data) s = .next (refuseAtPort (reqTile r) s) := by
  show execNocMessage r cls tag req dst addr data s = _
  simp only [execNocMessage, messageFlits_le hsize, habsent, Bool.not_false, if_true, if_false, ok]

theorem exec_nocRead_unassigned (hblock : inOneBlock addr n = true) (hthere : absentDest s addr = false)
    (hdest : nocDest s addr = none) :
    exec (.nocRead r cls tag req addr n) s = .next (s.answer (.error .decodeErr)) := by
  show execNocRead r cls tag req addr n s = _
  simp [execNocRead, hblock, hthere, hdest, ok]

theorem exec_nocWrite_unassigned (hblock : inOneBlock addr data.length = true) (hthere : absentDest s addr = false)
    (hdest : nocDest s addr = none) :
    exec (.nocWrite r cls tag req addr data) s = .next (s.answer (.error .decodeErr)) := by
  show execNocWrite r cls tag req addr data s = _
  simp [execNocWrite, hblock, hthere, hdest, ok]

end Request

/-! ### Answers that have come back (R352, R362, R363) -/

section Answer
variable {dst req tag : Nat} {x : NocResp} {s : State}

theorem exec_nocResponse_taken (hback : answerTo s dst req tag 3 = some x)
    (htakes : dropsAnswers (takeAnswer x s) dst = false) :
    exec (.nocResponse dst req tag) s = .next ((takeAnswer x s).answer (if x.status = 0 then
      (if x.data.isEmpty then .done else .bytes x.data) else .error (statusCause x.status))) := by
  show execNocResponse dst req tag s = _
  simp only [execNocResponse, hback, htakes, Bool.false_eq_true, if_false, ok]

theorem exec_nocReturn_taken (hback : answerTo s dst req tag 4 = some x)
    (htakes : dropsAnswers (takeAnswer x s) dst = false) :
    exec (.nocReturn dst req tag) s =
      .next (((takeAnswer x s).count (R.NOC_CNT_RET_RCVD dst) 1).answer (.error .domainAsleep)) := by
  show execNocReturn dst req tag s = _
  simp only [execNocReturn, hback, htakes, Bool.false_eq_true, if_false, ok]

end Answer

/-! ### Hops round a ring (R354) -/

theorem length_ringHops (n : Nat) (up : Bool) (k c vc : Nat) : (ringHops n up k c vc).length = k := by
  induction k generalizing c vc with
  | zero => rfl
  | succ k ih => rw [ringHops, List.length_cons, ih]

/-- The coordinates of a ring's hops are the ring's. -/
theorem ringHops_coord_lt {n : Nat} {up : Bool} {k c vc : Nat} (hc : c < n) : ∀ h ∈ ringHops n up k c vc, h.1 < n := by
  induction k generalizing c vc with
  | zero => exact fun h hmem => absurd hmem List.not_mem_nil
  | succ k ih =>
    have hpos : 0 < n := Nat.zero_lt_of_lt hc
    refine List.forall_mem_cons.mpr ⟨hc, ih ?_⟩
    cases up with
    | true => exact Nat.mod_lt _ hpos
    | false => exact Nat.mod_lt _ hpos

/-- Going up, the channel is 1 from the dateline link of coordinate `m - 1` on. -/
theorem ringHops_vc_up {m k c vc i : Nat} {h : Nat × Nat} (hc : c < m) (hhop : (ringHops m true k c vc)[i]? = some h) :
    h.2 = if m ≤ c + i + 1 then 1 else vc := by
  induction k generalizing c vc i with
  | zero => simp [ringHops] at hhop
  | succ k ih =>
    cases i with
    | zero =>
      obtain rfl : _ = h := Option.some.inj hhop
      have hfirst : (c + 1 = m) ↔ m ≤ c + 0 + 1 := by omega
      simp [hfirst]
    | succ i =>
      have hrest := ih (Nat.mod_lt (c + 1) (Nat.zero_lt_of_lt hc)) hhop
      rw [hrest]
      by_cases hlast : c + 1 = m
      · simp [hlast, show m ≤ c + (i + 1) + 1 by omega]
      · have hnext : (c + 1) % m = c + 1 := Nat.mod_eq_of_lt (by omega)
        simp [hlast, hnext, show c + 1 + i = c + (i + 1) by omega]

/-- Going down, the channel is 1 from the dateline link of coordinate 0 on. -/
theorem ringHops_vc_down {m k c vc i : Nat} {h : Nat × Nat} (hc : c < m) (hhop : (ringHops m false k c vc)[i]? = some h) :
    h.2 = if c ≤ i then 1 else vc := by
  induction k generalizing c vc i with
  | zero => simp [ringHops] at hhop
  | succ k ih =>
    cases i with
    | zero =>
      obtain rfl : _ = h := Option.some.inj hhop
      simp
    | succ i =>
      have hrest := ih (Nat.mod_lt (c + m - 1) (Nat.zero_lt_of_lt hc)) hhop
      rw [hrest]
      cases c with
      | zero => simp
      | succ c =>
        have hnext : (c + 1 + m - 1) % m = c := by
          rw [show c + 1 + m - 1 = c + m by omega, Nat.add_mod_right, Nat.mod_eq_of_lt (by omega)]
        rw [hnext]
        simp

theorem ringHops_vc {m k c vc i : Nat} {up : Bool} {h : Nat × Nat} (hc : c < m)
    (hhop : (ringHops m up k c vc)[i]? = some h) :
    h.2 = if (if up then m ≤ c + i + 1 else c ≤ i) then 1 else vc := by
  cases up with
  | true => simpa using ringHops_vc_up hc hhop
  | false => simpa using ringHops_vc_down hc hhop

/-- A leg knows two channels: 1, and the one that it was entered on. -/
theorem ringHops_vc_or {m k c vc : Nat} {up : Bool} (hc : c < m) : ∀ h ∈ ringHops m up k c vc, h.2 = 1 ∨ h.2 = vc := by
  intro h hmem
  obtain ⟨i, hhop⟩ := List.mem_iff_getElem?.mp hmem
  rw [ringHops_vc hc hhop]
  exact ite_eq_or_eq ..

/-! ### Legs and routes (R353) -/

/-- The shorter way from `c` to `d` round a ring of `n`, in hops. -/
def shorterWay (n c d : Nat) : Nat := min ((d + n - c) % n) (n - (d + n - c) % n)

theorem length_leg (n c d : Nat) : (leg n c d).2.length = shorterWay n c d := by
  unfold leg shorterWay
  dsimp only
  split
  · rw [length_ringHops]; omega
  · rw [length_ringHops]; omega

theorem leg_coord_lt {n c d : Nat} (hc : c < n) : ∀ h ∈ (leg n c d).2, h.1 < n := by
  unfold leg
  dsimp only
  split
  · exact ringHops_coord_lt hc
  · exact ringHops_coord_lt hc

theorem torusW_le (p : Part) : torusW p ≤ 12 := by cases p <;> decide

theorem b2n_le (b : Bool) : b2n b ≤ 1 := by cases b <;> decide

/-- A route between two tiles is a leg along X in the row of the first, and then one along Y in the column of the second. -/
theorem route_legs {p : Part} {a b : Nat} (hne : a ≠ b) (hx : a % 12 < torusW p) :
    ∃ x y : List Hop, route p a b = x ++ y ∧
      x.length = shorterWay (torusW p) (a % 12) (b % 12) ∧ y.length = shorterWay (torusH p) (a / 12) (b / 12) ∧
      (∀ h ∈ x, h.dir < 2 ∧ h.tile / 12 = a / 12) ∧ ∀ h ∈ y, 2 ≤ h.dir ∧ h.dir < 4 ∧ h.tile % 12 = b % 12 := by
  refine ⟨_, _, if_neg hne, by rw [List.length_map, length_leg], by rw [List.length_map, length_leg], ?alongX, ?alongY⟩
  case alongX =>
    refine List.forall_mem_map.mpr fun h hmem => ?_
    have hcoord : h.1 < 12 := (leg_coord_lt hx h hmem).trans_le (torusW_le p)
    exact ⟨Nat.lt_succ_of_le (b2n_le _), by dsimp only; omega⟩
  case alongY =>
    refine List.forall_mem_map.mpr fun h _ => ?_
    have hdir := b2n_le (!(leg (torusH p) (a / 12) (b / 12)).1)
    exact ⟨Nat.le_add_right .., by dsimp only; omega, by dsimp only; omega⟩

theorem route_shape {p : Part} {a b : Nat} (hne : a ≠ b) (hx : a % 12 < torusW p) :
    (route p a b).length = shorterWay (torusW p) (a % 12) (b % 12) + shorterWay (torusH p) (a / 12) (b / 12) ∧
    (∀ h ∈ (route p a b).take (shorterWay (torusW p) (a % 12) (b % 12)), h.dir < 2 ∧ h.tile / 12 = a / 12) ∧
    (∀ h ∈ (route p a b).drop (shorterWay (torusW p) (a % 12) (b % 12)), 2 ≤ h.dir ∧ h.dir < 4 ∧ h.tile % 12 = b % 12) := by
  obtain ⟨x, y, hroute, hlenX, hlenY, halongX, halongY⟩ := route_legs hne hx
  rw [hroute]
  refine ⟨by rw [List.length_append, hlenX, hlenY], ?_, ?_⟩
  · rwa [List.take_left' hlenX]
  · rwa [List.drop_left' hlenX]

/-! ### Links (R350, R356) -/

theorem leastBid_eq_none {f : Bid → Nat} {l : List Bid} (hnone : leastBid f l = none) : l = [] := by
  cases l with
  | nil => rfl
  | cons b l =>
    unfold leastBid at hnone
    split at hnone
    · cases hnone
    · cases hnone

/-- The least bid is a bid, and no other measures less. -/
theorem leastBid_spec {f : Bid → Nat} {l : List Bid} {w : Bid} (hleast : leastBid f l = some w) :
    w ∈ l ∧ ∀ b ∈ l, f w ≤ f b := by
  induction l generalizing w with
  | nil => cases hleast
  | cons b l ih =>
    unfold leastBid at hleast
    split at hleast
    · next hnone =>
      obtain rfl := leastBid_eq_none hnone
      obtain rfl : b = w := Option.some.inj hleast
      simp
    · next c hrest =>
      obtain ⟨hmem, hmin⟩ := ih hrest
      obtain rfl : (if f b ≤ f c then b else c) = w := Option.some.inj hleast
      rw [List.forall_mem_cons, List.mem_cons]
      split
      · next hle => exact ⟨.inl rfl, le_rfl, fun d hd => hle.trans (hmin d hd)⟩
      · next hlt => exact ⟨.inr hmem, by omega, hmin⟩

/-- No bid is of a higher class than the winner: the round-robin term of the measure is below 64, one class's share. -/
theorem winner_highest_class {served : FMap Nat} {k : Link} {l : List Bid} {w : Bid} (hwins : winner served k l = some w) :
    w ∈ l ∧ ∀ b ∈ l, w.cls ≤ b.cls := by
  obtain ⟨hmem, hmin⟩ := leastBid_spec hwins
  refine ⟨hmem, fun b hb => ?_⟩
  have hle := hmin b hb
  omega

theorem exec_linkCrcReplay_awake {tile : Nat} {link : Fin 4} {fails : Bool} {s : State}
    (hthere : tilePresent s.part tile = true) (hawake : s.devState ≠ 3) :
    exec (.linkCrcReplay tile link fails) s =
      .next (let v := s.count (R.NOC_CNT_LINK_RETRY tile) 1
             let n := if fails then linkFails s tile link + 1 else 0
             { v with noc := { v.noc with replays := mset (tile * 4 + link) n v.noc.replays,
                                          held := mset (linkKey (tile, link.val)) (s.now + 5) v.noc.held } }) := by
  show execLinkCrcReplay tile link fails s = _
  have hdo : (!tilePresent s.part tile || s.devState == 3) = false := by simp [hthere, hawake]
  simp only [execLinkCrcReplay, hdo, Bool.false_eq_true, if_false]
  rfl

theorem exec_linkFail_reached {tile : Nat} {link : Fin 4} {s : State} (hfails : 64 ≤ linkFails s tile link) :
    exec (.linkFail tile link) s = .next ((s.orReg (R.NOC_STAT tile) 3).journal Config.linkFailRecord.1
      Config.linkFailRecord.2 tile (Config.recordBody Config.linkFailRecord.1 [BitVec.ofNat 8 link.val])) := by
  show execLinkFail tile link s = _
  simp only [execLinkFail, if_neg (Nat.not_lt.mpr hfails), ok]

/-- Settles O26: a request is carried by where it stands, a route is two legs round the rings, and the winner of a link has
the least measure. -/
theorem nocPackets : Obligations.NocPackets := by
  unfold Obligations.NocPackets
  intro r cls tag req addr n dst tile data link fails s
  refine ⟨fun to_ hblock hthere hdest => next_carry_cases (exec_nocRead_served hblock hthere hdest),
    fun to_ hblock hthere hdest => next_carry_cases (exec_nocWrite_served hblock hthere hdest),
    fun hsize hthere => next_carry_cases (exec_nocMessage_served hsize hthere),
    exec_nocRead_absent, exec_nocWrite_absent, exec_nocMessage_absent, exec_nocRead_unassigned, exec_nocWrite_unassigned,
    fun x => exec_nocResponse_taken, fun x => exec_nocReturn_taken, fun p a b hne hx _ _ _ => route_shape hne hx,
    fun k c m vc up hc => ⟨ringHops_vc_or hc, fun i h hhop _ => ringHops_vc hc hhop⟩,
    fun served k l w => winner_highest_class, exec_linkCrcReplay_awake, exec_linkFail_reached⟩

end Sys2Proof.Machine
end

section
/-! SUPPORT. What no command undoes, and one step of the machine (R429, R540, R546, R551, R561); with them O58 and O55. -/

namespace Sys2Proof.Machine

/-- Settles O58: what a command keeps for the invariant contains what it may not undo. -/
theorem everyCommandCompletesAndUndoesNothing : Obligations.EveryCommandCompletesAndUndoesNothing := by
  unfold Obligations.EveryCommandCompletesAndUndoesNothing
  intro c s
  have hkeeps := exec_keeps c s
  cases hexec : exec c s with
  | next t => exact ⟨t, rfl, (Keeps.ofOut hexec hkeeps).toNothingUndone⟩
  | fault r => rw [hexec] at hkeeps; exact hkeeps.elim
  | refused r => rw [hexec] at hkeeps; exact hkeeps.elim

/-- With no command waiting a tick passes. -/
theorem step_idle {s : State} (hidle : s.pending = []) : step s = .next (tick s) := by
  unfold step
  rw [hidle]

/-- With no packet on its way the tile network does nothing. -/
theorem nocTick_no_flight (before : State) {s : State} (hnone : s.noc.flight = []) : nocTick before s = s :=
  if_pos (by simp [hnone])

/-- A fabric that runs no design does nothing. -/
theorem fabTick_no_user (before : State) {s : State} {f : Nat} (hnone : fabUser s f = none) : fabTick before s f = s := by
  unfold fabTick
  rw [hnone]

/-- Settles O55: the two cases of a step; a tick is the clock where neither network nor fabrics have work. -/
theorem stepTakesFront : Obligations.StepTakesFront := by
  unfold Obligations.StepTakesFront
  refine ⟨fun s c rest => rfl, fun s hidle => step_idle hidle, fun s hidle hnet hfab => ?clock⟩
  case clock =>
    have hnoc : nocTick s (tickClock s) = tickClock s := nocTick_no_flight s hnet
    have hstay : ∀ f, f < 4 → fabTick s (tickClock s) f = tickClock s := fun f hf => fabTick_no_user s (hfab f hf)
    rw [step_idle hidle]
    simp [tick, hnoc, hstay]

end Sys2Proof.Machine
end

section
/-! SUPPORT. The auxiliary DACs (R592 to R597), and with them O48. -/

namespace Sys2Proof.Machine

/-- Settles O48: each event meets its guards; the write to a channel turns on who may make it. -/
theorem auxiliaryDacs : Obligations.AuxiliaryDacs := by
  unfold Obligations.AuxiliaryDacs
  intro r ch lowNs v low s hch
  have hin : ¬ 8 ≤ ch := Nat.not_le.mpr hch
  refine ⟨fun hmay => ?written, fun hlock hother => ?refused, fun hlow => if_neg (Nat.not_lt.mpr hlow),
    fun hlow => if_neg (Nat.not_lt.mpr hlow), fun hen => if_pos hen, rfl, rfl, fun hen hmode => ?exceeded,
    (if_neg hin).trans (if_neg Bool.false_ne_true)⟩
  case written =>
    have hgo : ¬ (!dacMayWrite s r ch) = true := by simp [hmay]
    exact ⟨(if_neg hin).trans (if_neg hgo), (if_neg hin).trans (if_neg hgo)⟩
  case refused =>
    have hstop : (!dacMayWrite s r ch) = true := by simp [dacMayWrite, hlock, hother]
    exact ⟨(if_neg hin).trans (if_pos hstop), (if_neg hin).trans (if_pos hstop)⟩
  case exceeded => exact (if_neg hin).trans ((if_pos rfl).trans (if_pos (by simp [hen, hmode])))

end Sys2Proof.Machine
end

section
/-! SUPPORT. The bring-up of a port, its losses and its adaptation (R398 to R401, R406, R407), and with them O43. -/

namespace Sys2Proof.Machine

section Port
variable {iot port : Nat} {s : State} (hport : ethPort s iot port = true)
include hport

/-- Every lane finds what its code has: step 4 ends with the inverted lanes noted (R399). -/
theorem exec_polarityCorrect_found {sees : List LaneSees} (hstep : ethStep s iot port = 4)
    (hlen : sees.length = (portLanes s iot port).length) (hok : sees.all (laneSeesOk (portFec s iot port)) = true) :
    exec (.polarityCorrect iot port sees) s = .next (enterStep
      (sdStat (sdStat (sdStat s iot (portLanes s iot port) 2 true) iot (portLanes s iot port) 4 false) iot
        ((((portLanes s iot port).zip sees).filter fun x => seesInverted x.2).map Prod.fst) 4 true) iot port
      (if 1 < (portLanes s iot port).length then 5 else 6)) := by
  show execPolarityCorrect iot port sees s = _
  simp only [execPolarityCorrect, hport, hstep, hlen, hok, beq_self_eq_true, Bool.and_true, if_true, ok]

/-- Every lane number stands in the order found: step 5 ends with a whole reversal noted (R400). -/
theorem exec_laneReversal_ordered {order : List Nat} (hstep : ethStep s iot port = 5)
    (hlen : order.length = (portLanes s iot port).length)
    (hall : ∀ i, i < (portLanes s iot port).length → i ∈ order) :
    exec (.laneReversal iot port order) s = .next (let v : State :=
        { s with lanes := { s.lanes with order := mset (portKey iot port) order s.lanes.order } }
      enterStep (sdStat v iot (portLanes s iot port) 5 (order == (List.range (portLanes s iot port).length).reverse))
        iot port 6) := by
  have hmem : (List.range (portLanes s iot port).length).all order.contains = true := by simpa using hall
  show execLaneReversal iot port order s = _
  simp only [execLaneReversal, hport, hstep, hlen, hmem, beq_self_eq_true, Bool.and_true, if_true, ok]

/-- The skew is noted, and one of at most 180 ns ends step 6 (R398). -/
theorem exec_deskew_measured (skew : Nat) (hstep : ethStep s iot port = 6) :
    exec (.deskew iot port skew) s =
      let v := s.setReg (R.ETH_SKEW iot port) (BitVec.ofNat 32 (min skew 65535))
      if skew ≤ 1800 then .next (enterStep v iot port (if portFec v iot port then 7 else 8)) else .next v :=
  if_pos (by simp [hport, hstep])

/-- A step past its limit is counted, and the port returns to step 2 (R398). -/
theorem exec_bringupStepTimeout_late {n : Nat} (hlimit : stepLimit s iot port (ethStep s iot port) = some n)
    (hlate : mgetD 0 s.lanes.stepAt (portKey iot port) + n < s.now) :
    exec (.bringupStepTimeout iot port) s = .next (enterStep
      ((s.count (R.ETH_CNT_BRINGUP_FAIL iot port) 1).orReg (R.ETH_EVT iot port) 1) iot port 2) := by
  show execBringupStepTimeout iot port s = _
  simp only [execBringupStepTimeout, hport, hlimit, hlate, if_true, ok]

end Port

/-- Every 10 ms a lane of an up port adapts, the one that stamps times with its receive delay (R406). -/
theorem exec_adaptationStep_due {iot lane port : Nat} {dCtle dDfe : Int} {rxDly : Nat} {s : State}
    (hlane : portOfLane s iot lane = some port) (hup : linkUp s iot port = true)
    (htest : portUnderTest s iot port = false) (hdue : mgetD 0 s.lanes.adaptAt (iot * 8 + lane) + 10000000 ≤ s.now) :
    exec (.adaptationStep iot lane dCtle dDfe rxDly) s = .next (dutyDone 4 (dutyDone 3 (
      let w := s.modReg (R.SD_RXEQ iot lane) fun w =>
        setFld (setFld w 15 8 (nudge (fld w 15 8) dCtle)) 7 0 (nudge (fld w 7 0) dDfe)
      let v := if stampLane w iot port = lane then w.setReg (R.PTP_RX_DLY iot port) (BitVec.ofNat 32 rxDly) else w
      { v with lanes := { v.lanes with adaptAt := mset (iot * 8 + lane) s.now s.lanes.adaptAt } }))) := by
  show execAdaptationStep iot lane dCtle dDfe rxDly s = _
  simp only [execAdaptationStep, hlane, hup, htest, hdue, Bool.not_false, decide_true, Bool.and_self, if_true, ok]
  split <;> rfl

/-- Settles O43: each event meets the guard of its step, and does its work. -/
theorem laneBringUp : Obligations.LaneBringUp := by
  unfold Obligations.LaneBringUp
  intro iot port lane skew txDly rxDly vert horz ppm dCtle dDfe sees order loss s
  refine ⟨fun hport => ⟨fun hstep => ?signal, fun hstep hlo hhi => ?lock,
      fun hstep hlen hok => exec_polarityCorrect_found hport hstep hlen hok,
      fun hstep hlen hall => exec_laneReversal_ordered hport hstep hlen hall,
      fun hstep => ⟨fun hskew => (exec_deskew_measured hport skew hstep).trans (if_pos hskew),
        fun hskew => (exec_deskew_measured hport skew hstep).trans (if_neg (Nat.not_le.mpr hskew))⟩,
      fun hstep => ?fec, fun hstep hdown htest hdue => ?up,
      fun n hlimit hlate => exec_bringupStepTimeout_late hport hlimit hlate, fun hup hloss => ?down⟩,
    fun hlane hup htest hdue => exec_adaptationStep_due hlane hup htest hdue, fun hport => ?margin⟩
  case signal => exact if_pos (by simpa [hport] using hstep)
  case lock => exact if_pos (by simp [hport, hstep, hlo, hhi])
  case fec => exact if_pos (by simp [hport, hstep])
  case up => exact if_pos (by simp [hport, hstep, hdown, htest, hdue])
  case down => exact if_pos (by simp [hport, hup, hloss])
  case margin =>
    have hgo : ¬ (!ethPort s iot lane) = true := by simp [hport]
    exact (if_neg hgo).trans (apply_ite Host.Outcome.next _ _ _).symm

end Sys2Proof.Machine
end

section
/-! SUPPORT. Lane tests and PRBS checkers (R408 to R410), and with them O44. -/

namespace Sys2Proof.Machine

/-- An accepted LANE_TEST with good fields does its test, and is answered with the counters (R410). -/
theorem laneTest_runs {m : TcsMsg} {iot lane : Nat} {good : State → Bool} {act : State → State} {s u : State}
    (hacc : Accepted opLaneTest m 0 s u) (hsem : holdsSem u m 25 = true) (hpar : u.parison = false)
    (hport : ethPort u iot lane = true) (hfree : testRefused u m iot lane = false) (hgood : good u = true) :
    Answered (laneTest m iot lane good act s) opLaneTest m .ok (testPayload (act u) iot lane) 0 (act u) := by
  refine congrArg ok ((serve_accepted hacc).trans ?_)
  simp only [guarded_of_held hsem hpar, hport, hfree, hgood, Bool.not_true, Bool.or_self, Bool.false_eq_true, if_false]

/-- Settles O44: the guards of the checkers, one by one; every ACTION is a `laneTest` of its own check and work. -/
theorem laneTests : Obligations.LaneTests := by
  unfold Obligations.LaneTests
  intro m r iot lane pat lb dur bits errs inv v s u
  refine ⟨fun hport hon hopen hcheck => ?lock, fun hport hlocked => ?loss, fun hport => ⟨?gaffer, fun hother => ?others⟩,
    fun ⟨hacc, hsem, hpar, hlane, hfree⟩ => ?stop, fun ⟨hacc, hsem, hpar, hlane, hfree⟩ hlb hdur => ⟨fun hpat => ?start, ?loop⟩,
    fun t e htest huntil hend => ?ended⟩
  case lock => exact if_pos (by simp [hport, hon, hopen, hcheck])
  case loss => exact if_pos (by simp [hport, hlocked])
  case gaffer => exact (if_neg (by simp [hport])).trans (if_neg (by simp))
  case others => exact (if_neg (by simp [hport])).trans (if_pos (by simpa using hother))
  case stop => exact laneTest_runs hacc hsem hpar hlane hfree rfl
  case start =>
    have hgood : (patternOk u iot lane pat && testArgs lb dur) = true := by simp [testArgs, hpat, hlb, hdur]
    exact ⟨laneTest_runs hacc hsem hpar hlane hfree hgood, laneTest_runs hacc hsem hpar hlane hfree hgood,
      laneTest_runs hacc hsem hpar hlane hfree hgood⟩
  case loop =>
    have hgood : testArgs lb dur = true := by simp [testArgs, hlb, hdur]
    exact laneTest_runs hacc hsem hpar hlane hfree hgood
  case ended =>
    show execLaneTestDurationEnd iot lane bits errs s = _
    simp only [execLaneTestDurationEnd, htest, huntil, hend, if_true, ok]

end Sys2Proof.Machine
end

section
/-! SUPPORT. Egress service (R412 to R427): what a free port starts, and with it O42. -/

namespace Sys2Proof.Machine

/-- A TIMED queue with room in its calendar looks at its head entry (R414, R420). -/
theorem exec_egressCalendarPop_head {qid : Nat} {x : EgQueue} {s v : State} {e : List Byte} (hq : s.egq qid = some x)
    (hen : x.en = true) (hqen : (s.queue qid).en = true) (htimed : x.timed = true)
    (hroom : (s.calendar x.key).length < 256) (hhead : peekHead s qid = (some e, v)) :
    exec (.egressCalendarPop qid) s =
      if entryOk x e then .next (noteDepth (calendarTake v qid x e) qid)
      else .next (noteDepth (badEntry (dropHead v qid) x.iot x e) qid) := by
  have hgo : ¬ (!x.en || !(s.queue qid).en || !x.timed || decide (256 ≤ (s.calendar x.key).length)) = true := by
    simpa [hen, hqen, htimed] using hroom
  show execEgressCalendarPop qid s = _
  simp only [execEgressCalendarPop, hq, if_neg hgo, hhead, ok]

/-- No control frame starts now: none waits, or it does not fit before the next launch. -/
def NoControl (s : State) (key : Nat) : Prop := mgetD [] s.eg.control key = [] ∨ fitsGuard s key 84 = false

/-- What a free port with no control frame to start does: the due timed frame, else the zeros of a silent instance's due
symbol, else the weighted fair choice, else nothing. -/
def startOther (s : State) (key : Nat) : State :=
  match launchDue s key with
  | some c => startTimed s key c
  | none => match silentDue s key with
    | some (q, b, n) => startZeros s key q b n
    | none => match wfqPick (wfqReady s key) with
      | some (qid, x, e) => startWfq s key qid x e
      | none => s

theorem startOther_timed {s : State} {key : Nat} {c : CalEntry} (hdue : launchDue s key = some c) :
    startOther s key = startTimed s key c := by
  simp only [startOther, hdue]

theorem startOther_zeros {s : State} {key q n : Nat} {b : Bind} (hdue : launchDue s key = none)
    (hzeros : silentDue s key = some (q, b, n)) : startOther s key = startZeros s key q b n := by
  simp only [startOther, hdue, hzeros]

theorem startOther_wfq {s : State} {key : Nat} {y : Nat × EgQueue × List Byte} (hdue : launchDue s key = none)
    (hzeros : silentDue s key = none) (hpick : wfqPick (wfqReady s key) = some y) :
    startOther s key = startWfq s key y.1 y.2.1 y.2.2 := by
  simp only [startOther, hdue, hzeros, hpick]

section Port
variable {iot port : Nat} {s : State} (hfree : txFree s (portKey iot port) = true)
include hfree

/-- A waiting control frame that fits before the next launch goes first (R422, R425). -/
theorem exec_transmitStart_control {a : Nat × Nat} {l : List (Nat × Nat)}
    (hcontrol : mgetD [] s.eg.control (portKey iot port) = a :: l) (hfits : fitsGuard s (portKey iot port) 84 = true) :
    exec (.transmitStart iot port) s = .next (startControl s (portKey iot port) a.1 a.2) := by
  show execTransmitStart iot port s = _
  simp only [execTransmitStart, hfree, hcontrol, hfits, Bool.not_true, Bool.false_eq_true, if_false, ok]

/-- With no control frame to start, the port starts what is due otherwise (R416, R423). -/
theorem exec_transmitStart_other (hnone : NoControl s (portKey iot port)) :
    exec (.transmitStart iot port) s = .next (startOther s (portKey iot port)) := by
  show execTransmitStart iot port s = _
  simp only [execTransmitStart, hfree, Bool.not_true, Bool.false_eq_true, if_false, ok]
  split
  case h_1 hcontrol hfits => simp [NoControl, hcontrol, hfits] at hnone
  case h_2 =>
    cases hdue : launchDue s (portKey iot port) with
    | some c => rw [startOther_timed hdue]
    | none =>
      cases hzeros : silentDue s (portKey iot port) with
      | some z => rw [startOther_zeros hdue hzeros]
      | none =>
        cases hpick : wfqPick (wfqReady s (portKey iot port)) with
        | some y => rw [startOther_wfq hdue hzeros hpick]
        | none => simp only [startOther, hdue, hzeros, hpick]

end Port

/-- Settles O42: each event meets its guard; what a free port starts is the first that is there. -/
theorem egressService : Obligations.EgressService := by
  unfold Obligations.EgressService
  intro qid iot port pcp x s
  refine ⟨fun e v hq hen hqen htimed hroom hhead => ?pop, fun c hfree hdue => ?launch,
    fun q b n hfree hdue hzeros => ?zeros, fun hfree => ?start, fun f htx hend => ?frameEnd, fun e hpaused hend => ?pauseEnd,
    fun hq hsampling hpast => ?window⟩
  case pop =>
    have hpop := exec_egressCalendarPop_head hq hen hqen htimed hroom hhead
    exact ⟨fun hgood => hpop.trans (if_pos hgood), fun hbad => hpop.trans (if_neg (by simp [hbad]))⟩
  case launch =>
    show execTimedLaunch iot port s = _
    simp only [execTimedLaunch, hfree, hdue, Bool.not_true, Bool.false_eq_true, if_false, ok]
  case zeros =>
    show execTimedLaunch iot port s = _
    simp only [execTimedLaunch, hfree, hdue, hzeros, Bool.not_true, Bool.false_eq_true, if_false, ok]
  case start =>
    refine ⟨fun a l => exec_transmitStart_control hfree, fun c hempty hdue => ?timed, fun c hlate hdue => ?guarded,
      fun q b n hempty hdue hzeros => ?silent, fun y hempty hdue hzeros hpick => ?weighted⟩
    case timed => rw [exec_transmitStart_other hfree (.inl hempty), startOther_timed hdue]
    case guarded => rw [exec_transmitStart_other hfree (.inr hlate), startOther_timed hdue]
    case silent => rw [exec_transmitStart_other hfree (.inl hempty), startOther_zeros hdue hzeros]
    case weighted => rw [exec_transmitStart_other hfree (.inl hempty), startOther_wfq hdue hzeros hpick]
  case frameEnd =>
    show execFrameTransmitEnd iot port s = _
    simp only [execFrameTransmitEnd, htx, hend, if_true, ok]
  case pauseEnd =>
    show execPauseExpire iot port pcp s = _
    simp only [execPauseExpire, hpaused, hend, if_true, ok]
  case window =>
    have hgo : ¬ (!x.sampling || decide (s.devNs < x.samp.start + windowLen x)) = true := by
      simpa [hsampling] using hpast
    show execTelemetryWindowEnd qid s = _
    simp only [execTelemetryWindowEnd, hq, if_neg hgo, ok]

end Sys2Proof.Machine
end

section
/-! SUPPORT. The time servo and its references (R430 to R453), and with them O46. -/

namespace Sys2Proof.Machine

/-! ### REFERENCE_QUALIFY (R433 to R435) -/

section Qualify
variable {s : State} (hmeas : 16 ≤ s.time.meas.length)
include hmeas

/-- Outside ACQUIRE, 16 measurements qualify a reference that is not. -/
theorem exec_referenceQualify_new (hstate : servoState s ≠ 1) (hnew : refOk s = false) :
    exec .referenceQualify s = let v := s.setField R.TIME_STAT 27 27 1
      if servoState s = 0 then .next (setServo v 1)
      else if servoState s = 3 then
        if ((servoOffset v).natAbs : Int) ≤ jumpLimit v then .next (setServo v 2)
        else .next (jumpRefused (v.modTime fun t => { t with refused := true }) (servoOffset v))
      else .next v := by
  show execReferenceQualify s = _
  simp only [execReferenceQualify, if_neg (Nat.not_lt.mpr hmeas)]
  split
  case h_1 h _ => exact absurd h hstate
  case h_2 =>
    simp only [hnew, Bool.false_eq_true, if_false, ok]
    split
    case h_1 h => simp only [h, if_true]
    case h_2 h => simp only [h, if_true, OfNat.ofNat_ne_zero, if_false]
    case h_3 hzero hthree => simp only [if_neg hzero, if_neg hthree]

/-- Under TIME_REACQUIRE the step follows 16 measurements taken since it was accepted. -/
theorem exec_referenceQualify_reacquire {x : Reacq} (hstate : servoState s = 1) (hreacq : s.time.reacq = some x)
    (htaken : 16 ≤ x.taken.length) : exec .referenceQualify s = .next (reacqStep s x) := by
  show execReferenceQualify s = _
  simp only [execReferenceQualify, if_neg (Nat.not_lt.mpr hmeas), hstate, hreacq, if_neg (Nat.not_lt.mpr htaken), ok]

end Qualify

/-! ### TIME_REACQUIRE (R435, R438) -/

/-- An accepted TIME_REACQUIRE in range starts ACQUIRE with the reference no longer good. -/
theorem exec_timeReacquire_accepted {m : TcsMsg} {maxStep : DWord} {waitS : Nat} {s u : State}
    (hacc : Accepted opTimeReacquire m 1 s u) (hsem : holdsSem u m 24 = true) (hpos : maxStep.toNat ≠ 0)
    (hmax : maxStep.toNat ≤ 2 ^ 62) (hwait : waitS ≤ 600) (hstate : servoState u ≠ 0) (hfree : u.time.reacq = none) :
    exec (.timeReacquire m maxStep (~~~maxStep) waitS) s = .next (State.modTime
      ((setServo (holdMbx u m 0x0404 []) 1).setField R.TIME_STAT 27 27 0) fun t =>
      { t with reacq := some { maxStep := maxStep.toNat, until_ := u.now + (if waitS = 0 then 10 else waitS) * 1000000000,
                               mbx := mbxKey m, from_ := servoState u, done := stepDone u, taken := [] }, meas := [] }) := by
  refine congrArg ok (begin_accepted_goesOn hacc ?_)
  have hsem' : ¬ (!holdsSem (holdMbx u m 0x0404 []) m 24) = true := by simp [hsem]
  have hargs : ¬ (maxStep.toNat = 0 ∨ 2 ^ 62 < maxStep.toNat ∨ 600 < waitS) := by omega
  have hidle : ¬ (servoState (holdMbx u m 0x0404 []) = 0 ∨ (holdMbx u m 0x0404 []).time.reacq.isSome = true) := by
    rintro (hzero | hsome)
    · exact hstate hzero
    · rw [show (holdMbx u m 0x0404 []).time.reacq = none from hfree] at hsome
      exact Bool.noConfusion hsome
  exact (if_neg hsem').trans ((if_neg hargs).trans ((if_neg (not_not_intro rfl)).trans (if_neg hidle)))

/-- Settles O46: each event meets its guards, and does its work. -/
theorem timeServo : Obligations.TimeServo := by
  unfold Obligations.TimeServo
  intro m maxStep waitS code tile trim err s u
  refine ⟨fun hmeas => ⟨fun hstate hnew => ?acquire, fun hstate hnew hnear => ?relock, fun hstate hnew hfar => ?refused,
      fun x hstate hreacq htaken => exec_referenceQualify_reacquire hmeas hstate hreacq htaken⟩,
    fun hkind hlate => ?lost, fun t hsince hstate hdone hlong => ?lock, fun hmay => ?step,
    fun hacc hsem hpos hmax hwait hstate hfree => exec_timeReacquire_accepted hacc hsem hpos hmax hwait hstate hfree,
    fun x hreacq hover => ?timeout, fun hacc => congrArg ok (serve_accepted hacc),
    fun hen hramp hstate hdue => ?ramp, fun hen hstate => ?steer, fun hpresent hrun => ?spine⟩
  case acquire =>
    rw [exec_referenceQualify_new hmeas (by rw [hstate]; decide) hnew]
    exact if_pos hstate
  case relock =>
    rw [exec_referenceQualify_new hmeas (by rw [hstate]; decide) hnew]
    exact (if_neg (by rw [hstate]; decide)).trans ((if_pos hstate).trans (if_pos hnear))
  case refused =>
    rw [exec_referenceQualify_new hmeas (by rw [hstate]; decide) hnew]
    exact (if_neg (by rw [hstate]; decide)).trans ((if_pos hstate).trans (if_neg (Int.not_le.mpr hfar)))
  case lost => exact if_pos (by simp [hkind, hlate])
  case lock =>
    show execServoLock s = _
    simp only [execServoLock, hsince, hstate, hdone, hlong, decide_true, Bool.and_self, if_true, ok]
  case step =>
    have hmeas : ¬ (decide (servoState s = 1) && !stepDone s && s.time.meas.isEmpty) = true := by
      intro hstop
      simp only [Bool.and_eq_true, decide_eq_true_eq, Bool.not_eq_true', List.isEmpty_iff] at hstop
      obtain ⟨⟨hstate, hopen⟩, hempty⟩ := hstop
      obtain ⟨hdone | hsome, -⟩ := hmay hstate
      · rw [hdone] at hopen; exact Bool.noConfusion hopen
      · exact hsome hempty
    have hreacq : ¬ (decide (servoState s = 1) && s.time.reacq.isSome) = true := by
      intro hstop
      simp only [Bool.and_eq_true, decide_eq_true_eq] at hstop
      obtain ⟨hstate, hsome⟩ := hstop
      rw [(hmay hstate).2] at hsome
      exact Bool.noConfusion hsome
    exact (if_neg hmeas).trans (if_neg hreacq)
  case timeout =>
    show execTimeReacquireTimeout s = _
    simp only [execTimeReacquireTimeout, hreacq, hover, if_true, ok]
  case ramp => exact if_pos (by simpa [hen, hramp, hdue] using hstate)
  case steer => exact if_pos (by simp [hen, hstate])
  case spine => exact if_neg (by simp [hpresent, hrun])

end Sys2Proof.Machine
end

section
/-! SUPPORT. PTP messages, SyncE, the PPS input and time events (R431, R443 to R446, R452, R453), and with them O47. -/

namespace Sys2Proof.Machine

/-! ### PTP_MESSAGE_RECEIVE (R443, R444) -/

/-- What a port with a profile and a role does with a message of its domain. -/
def ptpTake (iot port : Nat) (v : State) : PtpBody → State
  | .other => v.count (R.PTP_CNT_DISC iot port) 1
  | .announce d => announce v iot port d
  | .unicastRequest c n => unicastAsk v iot port c n
  | .unicastCancel c => unicastDrop v iot port c
  | .sync two t1 corr t2 =>
    if ptpState v iot port ≠ 9 then v
    else if two then setPtp v iot port { t1 := t1, corr := corr, t2 := t2, twoStep := true }
    else syncDone v iot port t1 corr t2
  | .followUp t1 corr => ((mget (iot * 8 + port) v.time.ptp).map fun x =>
      if x.twoStep && ptpState v iot port == 9 then syncDone v iot port t1 (x.corr + corr) x.t2 else v).getD v
  | .delayReq _ =>
    if ptpState v iot port = 6 then (v.count (R.PTP_CNT_TX iot port) 1).emit (.ptp iot port 9 (ptpStamp v)) else v
  | .delayResp t3 t4 corr => ((mget (iot * 8 + port) v.time.ptp).map fun x =>
      if ptpState v iot port ≠ 9 then v
      else v.setReg64 (R.PTP_MEAN_DELAY iot port) (BitVec.ofInt 64
        (((x.t2 - extendStamp v x.t1 - x.corr) + (extendStamp v t4 - t3 - corr)).fdiv 2))).getD v

section Message
variable {iot port domain : Nat} {s : State} (hport : ptpPort s iot port = true)
include hport

/-- A port without a profile or a role, or of another domain, counts the message and discards it. -/
theorem exec_ptpMessageReceive_discarded (b : PtpBody)
    (hno : (s.count (R.PTP_CNT_RX iot port) 1).time.profile = 0 ∨ domain ≠ (s.count (R.PTP_CNT_RX iot port) 1).time.domain ∨
      ptpRole (s.count (R.PTP_CNT_RX iot port) 1) iot port = 0) :
    exec (.ptpMessageReceive iot port domain b) s =
      .next ((s.count (R.PTP_CNT_RX iot port) 1).count (R.PTP_CNT_DISC iot port) 1) :=
  (if_neg (by simp [hport])).trans (if_pos hno)

/-- Any other counts it and takes it. -/
theorem exec_ptpMessageReceive_taken (b : PtpBody) (hprofile : (s.count (R.PTP_CNT_RX iot port) 1).time.profile ≠ 0)
    (hdomain : domain = (s.count (R.PTP_CNT_RX iot port) 1).time.domain)
    (hrole : ptpRole (s.count (R.PTP_CNT_RX iot port) 1) iot port ≠ 0) :
    exec (.ptpMessageReceive iot port domain b) s = .next (ptpTake iot port (s.count (R.PTP_CNT_RX iot port) 1) b) := by
  have hgo : ¬ ((s.count (R.PTP_CNT_RX iot port) 1).time.profile = 0 ∨
      domain ≠ (s.count (R.PTP_CNT_RX iot port) 1).time.domain ∨
      ptpRole (s.count (R.PTP_CNT_RX iot port) 1) iot port = 0) := by
    simp [hprofile, hdomain, hrole]
  refine (if_neg (by simp [hport])).trans ((if_neg hgo).trans ?_)
  cases b with
  | other => rfl
  | announce d => rfl
  | unicastRequest c n => rfl
  | unicastCancel c => rfl
  | sync two t1 corr t2 =>
    unfold ptpTake
    dsimp only
    split <;> [rfl; (split <;> rfl)]
  | followUp t1 corr =>
    unfold ptpTake
    dsimp only
    cases mget (iot * 8 + port) (s.count (R.PTP_CNT_RX iot port) 1).time.ptp with
    | none => rfl
    | some x => exact (apply_ite Host.Outcome.next _ _ _).symm
  | delayReq d => exact (apply_ite Host.Outcome.next _ _ _).symm
  | delayResp t3 t4 corr =>
    unfold ptpTake
    dsimp only
    cases mget (iot * 8 + port) (s.count (R.PTP_CNT_RX iot port) 1).time.ptp with
    | none => rfl
    | some x => exact (apply_ite Host.Outcome.next _ _ _).symm

end Message

/-! ### What a port does with a message it takes -/

section Take
variable {iot port : Nat} {v : State}

theorem ptpTake_oneStep (hslave : ptpState v iot port = 9) (t1 corr t2 : Int) :
    ptpTake iot port v (.sync false t1 corr t2) = syncDone v iot port t1 corr t2 :=
  (if_neg (not_not_intro hslave)).trans (if_neg Bool.false_ne_true)

theorem ptpTake_twoStep (hslave : ptpState v iot port = 9) (t1 corr t2 : Int) :
    ptpTake iot port v (.sync true t1 corr t2) = setPtp v iot port { t1 := t1, corr := corr, t2 := t2, twoStep := true } :=
  (if_neg (not_not_intro hslave)).trans (if_pos rfl)

theorem ptpTake_followUp (hslave : ptpState v iot port = 9) {x : PtpPort} (hx : mget (iot * 8 + port) v.time.ptp = some x)
    (htwo : x.twoStep = true) (t1 corr : Int) :
    ptpTake iot port v (.followUp t1 corr) = syncDone v iot port t1 (x.corr + corr) x.t2 := by
  simp only [ptpTake, hx, htwo, hslave, beq_self_eq_true, Bool.and_self, if_true, Option.map_some, Option.getD_some]

theorem ptpTake_delayResp (hslave : ptpState v iot port = 9) {x : PtpPort} (hx : mget (iot * 8 + port) v.time.ptp = some x)
    (t3 t4 corr : Int) : ptpTake iot port v (.delayResp t3 t4 corr) =
      v.setReg64 (R.PTP_MEAN_DELAY iot port) (BitVec.ofInt 64
        (((x.t2 - extendStamp v x.t1 - x.corr) + (extendStamp v t4 - t3 - corr)).fdiv 2)) := by
  simp only [ptpTake, hx, hslave, ne_eq, not_true_eq_false, if_false, Option.map_some, Option.getD_some]

/-- Under profile 2 a master port grants a unicast request while fewer than 64 stand (R443). -/
theorem unicastAsk_granted (hprofile : v.time.profile = 2) (hmaster : ptpState v iot port = 6) {client : Nat} (n : Nat)
    (hroom : ((liveGrants v).filter fun g => (g.1, g.2.1) != (iot * 8 + port, client)).length < 64) :
    unicastAsk v iot port client n = ((v.count (R.PTP_CNT_TX iot port) 1).emit (.ptp iot port 12 n)).modTime fun t =>
      { t with grants := ((liveGrants v).filter fun g => (g.1, g.2.1) != (iot * 8 + port, client)) ++
        [(iot * 8 + port, client, v.now + n * 1000000000)] } := by
  unfold unicastAsk
  simp only [hprofile, hmaster, hroom, ne_eq, not_true_eq_false, if_false, if_true]
  rfl

/-- And forgets one that is given up. -/
theorem unicastDrop_forgets (hprofile : v.time.profile = 2) (client : Nat) : unicastDrop v iot port client =
    v.modTime fun t => { t with grants := (liveGrants v).filter fun g => (g.1, g.2.1) != (iot * 8 + port, client) } :=
  if_neg (not_not_intro hprofile)

end Take

/-! ### The PPS input (R445) -/

section Pps
variable {falling : Bool} {s : State} (hen : s.flag R.TIME_PPS_CFG 30 = true) (hsense : s.flag R.TIME_PPS_CFG 29 = falling)
include hen hsense

/-- An edge of the configured sense is taken. -/
theorem ppsInEdge_sensed : ¬ (!s.flag R.TIME_PPS_CFG 30 || s.flag R.TIME_PPS_CFG 29 != falling) = true := by
  simp [hen, hsense]

/-- It sets the measured error; without a grandmaster that is all. -/
theorem exec_ppsInEdge_measured (dev : Int) (hgm : s.time.gm = none) : exec (.ppsInEdge falling dev) s =
    .next (s.setReg R.TIME_PPS_IN_ERR (BitVec.ofInt 32 (dev - ((s.field R.TIME_PPS_CFG 15 0 * 64 : Nat) : Int)))) := by
  show execPpsInEdge falling dev s = _
  simp only [execPpsInEdge, if_neg (ppsInEdge_sensed hen hsense), State.setReg_time, hgm, ok]

/-- As the grandmaster's second it gives a measurement, unless it is out of range. -/
theorem exec_ppsInEdge_grandmaster (dev : Int) {sec : Nat} (hgm : s.time.gm = some sec) :
    exec (.ppsInEdge falling dev) s =
      let e := dev - ((s.field R.TIME_PPS_CFG 15 0 * 64 : Nat) : Int)
      let w := s.setReg R.TIME_PPS_IN_ERR (BitVec.ofInt 32 e)
      let x := w.modTime fun t => { t with ppsAt := w.now, gm := some (sec + 1) }
      let here := if 500000000 ≤ x.clk.ns then x.clk.sec + 1 else x.clk.sec
      if 25600 < e.natAbs then .next ((x.orReg R.TIME_EVT 1).modTime fun t => { t with ppsTaken := false })
      else .next (takeMeas ((x.setField R.TIME_STAT 26 25 2).modTime fun t => { t with ppsTaken := true })
        (((here : Int) - sec) * 65536000000000 + e * 256)) := by
  show execPpsInEdge falling dev s = _
  simp only [execPpsInEdge, if_neg (ppsInEdge_sensed hen hsense), State.setReg_time, hgm, ok]

end Pps

/-! ### Time events (R453) -/

/-- When time event `n` next occurs. -/
def tevDue (s : State) (n : Nat) : Nat :=
  (s.reg64 (R.TIME_TEV_SEC n)).toNat * 1000000000 + s.field (R.TIME_TEV_NS n) 29 0 +
    mgetD 0 s.time.tevNext n * (s.reg (R.TIME_TEV_PERIOD n)).toNat

/-- It has occurred: its FIRED bit is set, and the occurrence after it is next. -/
def tevMark (s : State) (n : Nat) : State :=
  (s.setField (R.TIME_TEV_CFG n) 27 27 1).modTime fun t =>
    { t with tevNext := mset n (mgetD 0 s.time.tevNext n + 1) t.tevNext }

section Event
variable {n : Nat} {s : State} (hn : n < 4) (hen : s.flag (R.TIME_TEV_CFG n) 31 = true)
  (hmore : (s.reg (R.TIME_TEV_PERIOD n)).toNat ≠ 0 ∨ mgetD 0 s.time.tevNext n = 0) (hdue : tevDue s n ≤ s.devNs)
include hn hen hmore hdue

/-- An enabled time event that is due is marked, and does its action: nothing, a PPS output, or the load of a DAC group. -/
theorem exec_timeEventFire_due :
    ((tevMark s n).field (R.TIME_TEV_CFG n) 30 28 = 0 → exec (.timeEventFire n) s = .next (tevMark s n)) ∧
    ((tevMark s n).field (R.TIME_TEV_CFG n) 30 28 = 1 → exec (.timeEventFire n) s = .next (
      if n = 0 && (tevMark s n).flag R.TIME_PPS_CFG 31 && !(tevMark s n).power.still
      then (tevMark s n).emit (.ppsOut (tevDue s n) ((tevMark s n).field (R.TIME_TEV_CFG n) 19 0)) else tevMark s n)) ∧
    ∀ g, g < 2 → (tevMark s n).field (R.TIME_TEV_CFG n) 30 28 = 2 + g → exec (.timeEventFire n) s = .next (
      if groupLocked (tevMark s n) g && n != 3 then tevMark s n else dacLoad (tevMark s n) g) := by
  have hgo : ¬ (decide (4 ≤ n) || !s.flag (R.TIME_TEV_CFG n) 31) = true := by simpa [hen] using hn
  have hnow : ¬ (((s.reg (R.TIME_TEV_PERIOD n)).toNat = 0 ∧ mgetD 0 s.time.tevNext n ≠ 0) ∨ s.devNs < tevDue s n) := by
    rintro (⟨hzero, hgone⟩ | hlt)
    · exact hmore.elim (· hzero) hgone
    · exact Nat.not_lt.mpr hdue hlt
  have hexec : exec (.timeEventFire n) s = execTimeEventFire n s := rfl
  rw [hexec]
  unfold tevMark
  unfold tevDue at hnow ⊢
  refine ⟨fun hact => ?nothing, fun hact => ?pps, fun g hg hact => ?load⟩
  case nothing => simp only [execTimeEventFire, if_neg hgo, if_neg hnow, hact, ok]
  case pps =>
    simp only [execTimeEventFire, if_neg hgo, if_neg hnow, hact, ok]
    exact (apply_ite Host.Outcome.next _ _ _).symm
  case load =>
    obtain rfl | rfl : g = 0 ∨ g = 1 := by omega
    · simp only [execTimeEventFire, if_neg hgo, if_neg hnow, hact, ok]
      exact (apply_ite Host.Outcome.next _ _ _).symm
    · simp only [execTimeEventFire, if_neg hgo, if_neg hnow, hact, ok]
      exact (apply_ite Host.Outcome.next _ _ _).symm

end Event

/-- Settles O47: a message is discarded or taken, a time event does its action, and the rest meet their guards. -/
theorem ptpAndTimeEvents : Obligations.PtpAndTimeEvents := by
  unfold Obligations.PtpAndTimeEvents
  intro iot port domain n b d falling t1 corr t2 dev ql s v
  refine ⟨fun hport => ⟨fun hno => exec_ptpMessageReceive_discarded hport b hno, fun hprofile hdomain hrole => ?taken⟩,
    fun hport hmaster hcal hprofile => ?sync, fun hen => ⟨fun x hbest => ?source, fun hbest => ?noSource⟩,
    fun t hwtr hpast => ?restored, fun hen hsense => ⟨fun hgm => exec_ppsInEdge_measured hen hsense dev hgm,
      fun sec hgm => ⟨fun hfar => (exec_ppsInEdge_grandmaster hen hsense dev hgm).trans (if_pos hfar),
        fun hnear => (exec_ppsInEdge_grandmaster hen hsense dev hgm).trans (if_neg (Nat.not_lt.mpr hnear))⟩⟩,
    fun hgm hlate href => ?missed, fun hn hen hmore hdue => exec_timeEventFire_due hn hen hmore hdue⟩
  case taken =>
    have htake := fun body => exec_ptpMessageReceive_taken hport (domain := domain) body hprofile hdomain hrole
    refine ⟨htake _, fun hslave => ⟨?oneStep, ?twoStep, fun x hx => ⟨fun htwo => ?followUp, ?delayResp⟩⟩,
      fun hmaster => ?delayReq, fun hprofile2 hmaster => ⟨fun hroom => ?granted, ?cancelled⟩⟩
    case oneStep => rw [htake, ptpTake_oneStep hslave]
    case twoStep => rw [htake, ptpTake_twoStep hslave]
    case followUp => rw [htake, ptpTake_followUp hslave hx htwo]
    case delayResp => rw [htake, ptpTake_delayResp hslave hx]
    case delayReq => exact (htake _).trans (congrArg _ (if_pos hmaster))
    case granted => exact (htake _).trans (congrArg _ (unicastAsk_granted hprofile2 hmaster n hroom))
    case cancelled => exact (htake _).trans (congrArg _ (unicastDrop_forgets hprofile2 d))
  case sync => exact (if_neg (by simp [hport])).trans (if_pos (by simp [hmaster, hcal, hprofile]))
  case source =>
    show execSynceSelect ql s = _
    simp only [execSynceSelect, hen, hbest, Bool.not_true, Bool.false_eq_true, if_false, ok]
  case noSource =>
    show execSynceSelect ql s = _
    simp only [execSynceSelect, hen, hbest, Bool.not_true, Bool.false_eq_true, if_false, ok]
  case restored =>
    show execSynceWaitToRestore iot port s = _
    simp only [execSynceWaitToRestore, hwtr, hpast, if_true, ok]
  case missed => exact if_pos (by simp [hgm, hlate, href])
end Sys2Proof.Machine
end

section
/-! SUPPORT. The Wenaef fabrics: loading, unloading, re-arming and status (R479, R492 to R496), and with them O49. -/

namespace Sys2Proof.Machine

@[simp] theorem State.fabOf_modFab (s : State) (f : Nat) (g : Fab → Fab) : (s.modFab f g).fabOf f = g (s.fabOf f) := by
  simp [State.fabOf, State.modFab, mgetD, mget_mset_self]

theorem State.fabOf_of_fab_eq {s t : State} (h : t.fab = s.fab) (f : Nat) : t.fabOf f = s.fabOf f := by
  unfold State.fabOf
  rw [h]

/-! ### FAB_LOAD (R492 to R494) -/

section Load
variable {m : TcsMsg} {fab : Nat} {s u : State} (hacc : Accepted opFabLoad m 0 s u)
include hacc

/-- A load of a VALID slot that passes its checks starts in its mailbox. -/
theorem exec_fabLoad_begins {slot drainMs : Nat} (hslot : slot < 64)
    (hcheck : fabCheck m fab drainMs true (holdMbx u m 0x0901 []) = none)
    (hvalid : (mgetD { st := 0, total := 0, written := 0, data := [], blocks := [] } u.stor.slots slot).st = 2) :
    exec (.fabLoad m fab slot drainMs) s = .next (fabBegin m fab (some slot) drainMs 1 (holdMbx u m 0x0901 [])) := by
  refine congrArg ok (begin_accepted_goesOn hacc ?_)
  have hvalid' : (mgetD { st := 0, total := 0, written := 0, data := [], blocks := [] }
      (holdMbx u m 0x0901 []).stor.slots slot).st = 2 := hvalid
  simp only [opFabLoad, hslot, decide_true, hcheck, hvalid']

/-- An unload that passes its checks starts in its mailbox at STOPPING. -/
theorem exec_fabUnload_begins {drainMs : Nat} (hcheck : fabCheck m fab drainMs true (holdMbx u m 0x0901 []) = none) :
    exec (.fabUnload m fab drainMs) s = .next (fabBegin m fab none drainMs 2 (holdMbx u m 0x0901 [])) := by
  refine congrArg ok (begin_accepted_goesOn hacc ?_)
  simp only [opFabLoad, hcheck]

/-- A re-arm that passes its checks switches the named lines on again and is answered. -/
theorem exec_fabRearm_answered {line : Nat} (hline : line < 1152 ∨ line = 0xFFFF) (hcheck : fabCheck m fab 0 true u = none) :
    let v := u.modFab fab fun x => { x with off := x.off.filter fun l => !(line == 0xFFFF || l == line) }
    let w := v.setField (R.FAB_STATE fab) 10 0 (v.fabOf fab).off.length
    Answered (exec (.fabRearm m fab line) s) opFabLoad m .ok (fabPayload 0 0) 0 (zeroRegs w
      (((List.range 16).filter fun i => w.flag (R.FAB_CONT_LINE fab i) 31 &&
        (line == 0xFFFF || w.field (R.FAB_CONT_LINE fab i) 10 0 == line)).map (R.FAB_CONT_LINE fab))) := by
  have harg : (decide (line < 1152) || line == 0xFFFF) = true := by simpa using hline
  refine congrArg ok ((serve_accepted hacc).trans ?_)
  simp only [harg, hcheck]

end Load

/-- FAB_STATUS of a present fabric answers its registers (R495). -/
theorem exec_fabStatus_answered {m : TcsMsg} {fab : Nat} {s u : State}
    (hacc : Accepted { opcode := 0x0902, onchip := true } m 0 s u) (hready : u.parison = false ∨ fab = 0)
    (hpresent : fabPresent u fab = true) :
    Answered (exec (.fabStatus m fab) s) { opcode := 0x0902, onchip := true } m .ok ((R.FAB_STATE fab :: R.FAB_EVT fab ::
      (List.range 8).map (R.FAB_IMAGE_HASH fab) ++ (List.range 16).map (R.FAB_CONT_LINE fab)).flatMap
        fun a => leBytes 4 (u.reg a).toNat) 0 u := by
  refine congrArg ok ((serve_accepted hacc).trans ?_)
  have hgo : ¬ (u.parison && !(fab == 0)) = true := by
    rcases hready with hpar | hzero
    · simp [hpar]
    · simp [hzero]
  simp only [unguarded, if_neg hgo, hpresent, Bool.not_true, Bool.false_eq_true, if_false]

/-! ### The steps of a load or unload (R493) -/

section Job
variable {fab : Nat} {s : State} {j : FabJob} (hjob : (s.fabOf fab).job = some j)
include hjob

/-- What an image read by a load in VERIFY brings about. -/
theorem exec_fabImageVerify_read (hst : fabSt s fab = 1) (hslot : j.slot.isSome = true) :
    exec (.fabImageVerify fab none) s = .next (fabGiveUp (countRead 4 true s) fab j .ue) ∧
    ∀ img, exec (.fabImageVerify fab (some img)) s =
      if !((img.signer.map (fabKeyOk s)).getD false) then .next (fabGiveUp s fab j .authFail)
      else if img.fab ≠ fab ∨ !img.forPart ∨ !fabStatic img then .next (fabGiveUp s fab j .badArg)
      else .next (setFabSt (extendMeas (6 + fab) img.hash (s.modFab fab fun x =>
        { x with job := some { j with image := some img, at_ := s.now } })) fab 2) := by
  have hexec : ∀ o, exec (.fabImageVerify fab o) s = execFabImageVerify fab o s := fun _ => rfl
  refine ⟨?_, fun img => ?_⟩
  · rw [hexec]
    simp only [execFabImageVerify, hjob, hst, hslot, beq_self_eq_true, Bool.and_self, Bool.not_true, Bool.false_eq_true,
      if_false, ok]
  · rw [hexec]
    simp only [execFabImageVerify, hjob, hst, hslot, beq_self_eq_true, Bool.and_self, Bool.not_true, Bool.false_eq_true,
      if_false, ok]

/-- When the couplers are empty or the time is over, a load counts what was lost and goes on, an unload is answered. -/
theorem exec_fabDrainEnd_over (hst : fabSt s fab = 2) (hover :
      ((((((s.fabOf fab).design).map boundQcs).getD []).map fun n => (qcWords s fab n).length).foldl (· + ·) 0 = 0 ∨
        j.at_ + j.drainMs * 1000000 ≤ s.now)) :
    let lost := (((((s.fabOf fab).design).map boundQcs).getD []).map fun n => (qcWords s fab n).length / 4).foldl (· + ·) 0
    let v := fabClear (s.count (R.FAB_CNT_LOST fab) lost) fab
    exec (.fabDrainEnd fab) s =
      if j.slot.isSome then .next (setFabSt (v.modFab fab fun x =>
        { x with job := some { j with lost := lost, at_ := v.now } }) fab 3)
      else .next (finishMbx (setFabSt (v.modFab fab fun x => { x with job := none }) fab 0) j.mbx .ok
        (fabPayload lost 0) 0) := by
  have hgo : ¬ (((((((s.fabOf fab).design).map boundQcs).getD []).map fun n => (qcWords s fab n).length).foldl (· + ·) 0 ≠ 0)
      ∧ s.now < j.at_ + j.drainMs * 1000000) := by
    rintro ⟨hleft, hearly⟩
    exact hover.elim hleft (Nat.not_le.mpr hearly)
  show execFabDrainEnd fab s = _
  simp only [execFabDrainEnd, hjob, hst, ne_eq, not_true_eq_false, if_false]
  exact if_neg hgo

/-- After the configuration time the design runs, and the load is answered. -/
theorem exec_fabGsrRelease_configured {d : FabImage} (himage : j.image = some d) (hst : fabSt s fab = 3)
    (hdue : j.at_ + 3145728 ≤ s.now) : exec (.fabGsrRelease fab) s = .next (
      let v := netReset fab d (d.qcs.foldl (fun s q => qcInit s fab q)
        (s.modFab fab fun x => { x with design := some d, job := none }))
      let w := (List.range 8).foldl (fun s i =>
        s.setReg (R.FAB_IMAGE_HASH fab i) (BitVec.ofNat 32 (ent d.hash (4 * i) 4))) v
      finishMbx (setFabSt w fab 4) j.mbx .ok (fabPayload j.lost w.devNs) 0) := by
  have hgo : ¬ (fabSt s fab ≠ 3 ∨ s.now < j.at_ + 3145728) := by
    rintro (hother | hearly)
    · exact hother hst
    · exact Nat.not_le.mpr hearly hdue
  show execFabGsrRelease fab s = _
  simp only [execFabGsrRelease, hjob, himage, if_neg hgo, ok]

end Job

/-! ### Long lines (R495) -/

/-- A long line shut down is recorded among those off, and then reported. -/
theorem shutLine_reports (fab line : Nat) (ds : List Nat) (s : State) : ∃ v : State,
    shutLine fab line ds s = v.raise 0x0070 6 (fabTile fab) (leBytes 1 fab ++ leBytes 1 ds.length ++ leBytes 2 line ++
      leBytes 1 (ds.getD 0 0) ++ leBytes 1 (ds.getD 1 0) ++ leBytes 2 0) ∧
    (v.fabOf fab).off = (s.fabOf fab).off ++ [line] := by
  refine ⟨_, rfl, ?_⟩
  have hoff : ((s.modFab fab fun x => { x with off := x.off ++ [line] }).fabOf fab).off = (s.fabOf fab).off ++ [line] := by
    rw [State.fabOf_modFab]
  refine Eq.trans (congrArg Fab.off (State.fabOf_of_fab_eq ?_ fab)) hoff
  split <;> rfl

/-- Settles O49: the checks of each command and step pass, and it does its work. -/
theorem fabricLoading : Obligations.FabricLoading := by
  unfold Obligations.FabricLoading
  intro m fab slot drainMs line img drivers s u
  refine ⟨fun hacc hslot hcheck hvalid => exec_fabLoad_begins hacc hslot hcheck hvalid,
    fun hacc hcheck => exec_fabUnload_begins hacc hcheck, fun hacc hline hcheck => exec_fabRearm_answered hacc hline hcheck,
    fun hacc hready hpresent => exec_fabStatus_answered hacc hready hpresent,
    fun j hjob => ⟨fun hst hslot => (exec_fabImageVerify_read hjob hst hslot).1, fun hst hslot hbad => ?forged,
      fun k hst hslot hsigner hkey hfab hpart hstatic => ?verified,
      fun hst hover => ⟨fun hslot => (exec_fabDrainEnd_over hjob hst hover).trans (if_pos hslot),
        fun hslot => (exec_fabDrainEnd_over hjob hst hover).trans (if_neg (by simp [hslot]))⟩,
      fun d himage hst hdue => exec_fabGsrRelease_configured hjob himage hst hdue⟩,
    fun a b l huser hline hdrivers hon => ?contention⟩
  case forged => exact ((exec_fabImageVerify_read hjob hst hslot).2 img).trans (if_pos (by simp [hbad]))
  case verified =>
    exact ((exec_fabImageVerify_read hjob hst hslot).2 img).trans
      ((if_neg (by simp [hsigner, hkey])).trans (if_neg (by simp [hfab, hpart, hstatic])))
  case contention =>
    have hgo : ¬ (!(fabUser s fab).isSome || decide (1152 ≤ line) ||
        decide (((List.range 128).filter drivers.contains).length < 2) || (s.fabOf fab).off.contains line) = true := by
      simpa [huser, hdrivers] using ⟨hline, by simpa using hon⟩
    obtain ⟨v, hshut, hoff⟩ := shutLine_reports fab line ((List.range 128).filter drivers.contains) s
    refine ⟨v, (if_neg hgo).trans ?_, hoff⟩
    rw [hshut, hdrivers]
    rfl

end Sys2Proof.Machine
end

section
/-! SUPPORT. The Wenaef fabrics: queue couplers, bus ports and block RAM (R480 to R491), and with them O50. -/

namespace Sys2Proof.Machine

/-! ### Queue couplers (R484 to R487) -/

section Coupler
variable {fab n : Nat} {c : QcCfg} {s : State} (hqc : qcOf s fab n = some c)
include hqc

/-- A write in a writing mode appends its word, or finds the coupler full. -/
theorem exec_qcWrite_mode (word : BitVec 72) (hmode : c.mode = 1 ∨ c.mode = 2) : exec (.qcWrite fab n word) s =
    if qcDepth c ≤ (qcWords s fab n).length ∨ (qcFlags s fab n).full then
      .next ((s.orReg (R.FAB_QC_STAT fab n) 25).orReg (R.FAB_EVT fab) 1)
    else
      let w := if c.mode = 2 then word &&& 0xFFFFFFFFFFFFFFFF#72 else if c.wide then word else word &&& 0xFFFFFFFFFFFF#72
      .next ((setQc s fab n (qcWords s fab n ++ [w])).wroteQc fab n c) := by
  have hgo : ¬ (c.mode ≠ 1 ∧ c.mode ≠ 2) := by omega
  show execQcWrite fab n word s = _
  simp only [execQcWrite, hqc, if_neg hgo, ok]

/-- A read takes the oldest word. -/
theorem exec_qcRead_word (hmode : c.mode = 1 ∨ c.mode = 3) {w : BitVec 72} {t : List (BitVec 72)}
    (hwords : qcWords s fab n = w :: t) (hsome : (qcFlags s fab n).empty = false) : exec (.qcRead fab n) s =
      .next (((setQc s fab n t).readQc fab n c).answer (.bytes (leBytes 9 w.toNat))) := by
  have hgo : ¬ (c.mode ≠ 1 ∧ c.mode ≠ 3) := by omega
  show execQcRead fab n s = _
  simp only [execQcRead, hqc, if_neg hgo, hsome, hwords, Bool.false_eq_true, if_false, ok]

/-- Or it finds none, or the coupler still showing empty: it sets the underflow flag and returns a free value. -/
theorem exec_qcRead_empty (hmode : c.mode = 1 ∨ c.mode = 3)
    (hnone : qcWords s fab n = [] ∨ (qcFlags s fab n).empty = true) : exec (.qcRead fab n) s =
      .next (((s.takeFresh.2.orReg (R.FAB_QC_STAT fab n) 24).orReg (R.FAB_EVT fab) 0).answer
        (.bytes (fitBytes 9 (Config.fabData s.takeFresh.1)))) := by
  have hgo : ¬ (c.mode ≠ 1 ∧ c.mode ≠ 3) := by omega
  have hshown : (if (qcFlags s fab n).empty then [] else qcWords s fab n) = [] := by
    rcases hnone with hnil | hempty
    · rw [hnil, ite_self]
    · rw [if_pos hempty]
  show execQcRead fab n s = _
  simp only [execQcRead, hqc, if_neg hgo, hshown, ok]

/-- Four words of a push coupler that may push become one entry of its queue. -/
theorem exec_qcPush_accepted {v : State} (hmode : c.mode = 2) (hfour : 4 ≤ (qcWords s fab n).length)
    (hready : s.flag (R.FAB_QC_STAT fab n) 29 = true)
    (hpush : pushQ (.fab fab n) c.qid (((qcWords s fab n).take 4).flatMap fun w => leBytes 8 w.toNat) s = (.accepted, v)) :
    exec (.qcPush fab n) s = .next ((setQc v fab n ((qcWords s fab n).drop 4)).readQc fab n c) := by
  have hgo : ¬ (c.mode ≠ 2 ∨ (qcWords s fab n).length < 4 ∨ (!s.flag (R.FAB_QC_STAT fab n) 29) = true) := by
    simpa [hmode, hready] using hfour
  show execQcPush fab n s = _
  simp only [execQcPush, hqc, if_neg hgo, hpush, ok]

/-- A push coupler may try again. -/
theorem exec_pushRetry_ready (hmode : c.mode = 2) :
    exec (.pushRetry fab n) s = .next (s.setField (R.FAB_QC_STAT fab n) 29 29 1) := by
  show execPushRetry fab n s = _
  simp only [execPushRetry, hqc, hmode, if_true, ok]

end Coupler

/-! ### Bus target and initiator (R488) -/

/-- An access in an enabled window waits for the fabric's answer. -/
theorem exec_fabTargetRequest_waits {r : Requester} {fab addr len : Nat} {s : State} (wr : Bool)
    (hplace : placeOf s.part addr = .fabw fab) (hawake : answers s r (fabTile fab) = true)
    (hon : fabTargetOn s fab addr = true) (hblock : oneBlock addr len = true) :
    exec (.fabTargetRequest r addr wr len) s = .next ((s.modFab fab fun x => { x with
      targets := x.targets ++ [{ id := (s.fabOf fab).nextTgt, by_ := r, addr := addr, write := wr, n := len, at_ := s.now }],
      nextTgt := x.nextTgt + 1 }).answer .none) := by
  show execFabTargetRequest r addr wr len s = _
  simp only [execFabTargetRequest, hplace, hawake, hon, hblock, Bool.not_true, Bool.or_self, Bool.false_eq_true, if_false, ok]

section Target
variable {fab id : Nat} {t : FabTgt} {s : State} (hfind : (s.fabOf fab).targets.find? (fun t => t.id == id) = some t)
include hfind

/-- It is answered with the fabric's data. -/
theorem exec_fabTargetAnswer_waiting (data : List Byte) : exec (.fabTargetAnswer fab id data) s =
    .next ((dropTarget s fab id).answer (if t.write then .done else .bytes (fitBytes t.n data))) := by
  show execFabTargetAnswer fab id data s = _
  simp only [execFabTargetAnswer, hfind, ok]

/-- Past its limit it is answered with DECODE_ERR. -/
theorem exec_fabTargetTimeout_past (hlate : t.at_ + tgtLimit s fab ≤ s.now) : exec (.fabTargetTimeout fab id) s =
    .next ((((dropTarget s fab id).orReg (R.FAB_EVT fab) 2).count (R.FAB_CNT_TGT_TO fab) 1).answer (.error .decodeErr)) := by
  show execFabTargetTimeout fab id s = _
  simp only [execFabTargetTimeout, hfind, if_neg (Nat.not_lt.mpr hlate), ok]

end Target

/-- A design that runs accesses the bus through an initiator port. -/
theorem exec_fabInitiatorRequest_running {fab addr len : Nat} {s : State} (p1 : Bool) (data : List Byte)
    (huser : (fabUser s fab).isSome = true) (hst : fabSt s fab ≠ 2) (hblock : oneBlock addr len = true) :
    exec (.fabInitiatorRequest fab p1 true addr len data) s = .next (writeAnswer (.fab fab) addr (fitBytes len data) s) ∧
    ∀ b v, busRead (.fab fab) addr len s = (.ok b, v) →
      exec (.fabInitiatorRequest fab p1 false addr len data) s = .next (v.answer (.bytes b)) := by
  have hgo : ¬ (!(fabUser s fab).isSome || fabSt s fab == 2 || !oneBlock addr len) = true := by simp [huser, hst, hblock]
  refine ⟨(if_neg hgo).trans (if_pos rfl), fun b v hread => (if_neg hgo).trans ((if_neg Bool.false_ne_true).trans ?_)⟩
  simp only [hread, ok]

/-! ### Block RAM (R480 to R482) -/

/-- In a block RAM of the design both ports read, then both write, port B giving way where both write one word. -/
theorem exec_bramPortAccess_user {fab block : Nat} {d : FabImage} {cfg : BramCfg} {a b : Option PortOp} {s : State}
    (huser : fabUser s fab = some d) (hcfg : mget block d.brams = some cfg) (hown : cfg.user = true) (hblock : block < 512)
    (ha : bramIn cfg.width a = true) (hb : bramIn cfg.width b = true) :
    exec (.bramPortAccess fab block a b) s = .next (
      let x := bramRead s fab block cfg.width cfg.ecc false a
      let y := bramRead x.2 fab block cfg.width cfg.ecc false b
      (bramWrite (bramWrite y.2 fab block cfg.width cfg.ecc a) fab block cfg.width cfg.ecc
        (if bramBoth a b then none else b)).answer (.bytes (x.1 ++ y.1))) := by
  have hgo : ¬ (512 ≤ block ∨ (!true) = true ∨ (!true) = true ∨ (!true) = true) := by simpa using hblock
  show execBramPortAccess fab block a b s = _
  simp only [execBramPortAccess, huser, hcfg, Option.map_some, Option.getD_some, Option.isNone_some, hown, ha, hb, if_neg hgo,
    Bool.and_false, Bool.not_false, Bool.and_true, Bool.false_eq_true, if_false, ok]

/-- Settles O50: each access meets its guard, and finds a word, room, or neither. -/
theorem fabricPorts : Obligations.FabricPorts := by
  unfold Obligations.FabricPorts
  intro r fab n id addr len block word p1 wr data c s
  refine ⟨fun hqc => ⟨fun hmode hroom hshown => ?written, fun hmode hfull => ?overflow, fun hmode => ⟨fun w t hwords hsome =>
      exec_qcRead_word hqc hmode hwords hsome, fun hnone => exec_qcRead_empty hqc hmode hnone⟩,
      fun v hmode hfour hready hpush => exec_qcPush_accepted hqc hmode hfour hready hpush,
      fun hmode => exec_pushRetry_ready hqc hmode⟩,
    rfl, fun hpop => if_pos hpop,
    fun hplace hawake hon hblock => exec_fabTargetRequest_waits wr hplace hawake hon hblock,
    fun t hfind => ⟨exec_fabTargetAnswer_waiting hfind data, fun hlate => exec_fabTargetTimeout_past hfind hlate⟩,
    fun huser hst hblock => exec_fabInitiatorRequest_running p1 data huser hst hblock,
    fun d cfg a b huser hcfg hown hblock ha hb => exec_bramPortAccess_user huser hcfg hown hblock ha hb⟩
  case written => exact (exec_qcWrite_mode hqc word hmode).trans (if_neg (by simpa [hshown] using hroom))
  case overflow => exact (exec_qcWrite_mode hqc word hmode).trans (if_pos hfull)

end Sys2Proof.Machine
end

section
/-! SUPPORT. Memory integrity, the journal and the duties of the Lehr (R374 to R393, R427, R561 to R569), and with them
O27. -/

namespace Sys2Proof.Machine

/-! ### Write-backs and UE reports (R375, R380) -/

/-- A word that waits is taken off the list; if it still holds its correctable error it is written back clean. -/
theorem exec_correctedWriteback_waiting {cw : Nat} {s : State} (hwaits : cw ∈ s.mem.writeBacks) :
    let w : State := { s with mem := { s.mem with writeBacks := s.mem.writeBacks.filter (· != cw) } }
    (∀ b, mget cw s.mem.marks = some (.ce b) → exec (.correctedWriteback cw) s = .next (w.setMark cw none)) ∧
    ((∀ b, mget cw s.mem.marks ≠ some (.ce b)) → exec (.correctedWriteback cw) s = .next w) := by
  have hgo : ¬ (!s.mem.writeBacks.contains cw) = true := by simpa using hwaits
  have hexec : exec (.correctedWriteback cw) s = execCorrectedWriteback cw s := rfl
  rw [hexec]
  refine ⟨fun b hmark => ?_, fun hmark => ?_⟩
  · simp only [execCorrectedWriteback, if_neg hgo, hmark, ok]
  · simp only [execCorrectedWriteback, if_neg hgo, ok]

/-- The oldest report is raised as an event, or counted as suppressed beyond 64 in one second. -/
theorem exec_ueReport_waiting {s : State} {x : UeRep} {l : List UeRep} (hwaits : s.mem.ueReports = x :: l)
    (hup : gafferUp s = true) :
    let v : State := { s with mem := { s.mem with ueReports := l } }
    exec .ueReport s =
      if 64 ≤ reportsNow s then .next { v with mem := { v.mem with suppressed := satAdd 16 v.mem.suppressed 1 } }
      else .next (
        let w := v.raise 0x0060 6 (serverOf x.cw (placeOf s.part x.cw)) (ueDetail s x)
        { w with mem := { w.mem with suppressed := 0, reportSec := s.now / 1000000000, reportCount := reportsNow s + 1 } }) := by
  show execUeReport s = _
  simp only [execUeReport, hwaits, hup, Bool.not_true, Bool.false_eq_true, if_false, ok]

/-! ### Register writes that act (R376, R391, R393, R569) -/

section Write
variable {r : Requester} {s : State} {value : Word}

/-- A permitted write of ECC_CLR clears the counters of the block. -/
theorem exec_eccClr_permitted {tile : Nat} (hplace : placeOf s.part (R.ECC_CLR tile) = .regs (.ecc tile) 4)
    (hok : regErr s r true (R.ECC_CLR tile) 4 (.ecc tile) 4 = none) :
    exec (.eccClr r tile value) s = .next ((eccClear tile value s).answer .done) := by
  have hrow : rowAt (.ecc tile) 4 = some ⟨"ECC_CLR", 0x4, 1, 0x4, .wo, false, 0x0, 0x0, 0x0⟩ := rfl
  have hexec : exec (.eccClr r tile value) s = .next (writeAnswer r (R.ECC_CLR tile) (leBytes 4 value.toNat) s) := rfl
  rw [hexec, writeAnswer_regs hplace value hok,
    write32_narrow (fun _ _ => by simp) hrow r _ value s (by decide) (by decide) rfl]
  rfl

/-- A permitted write of MEMC_CLR clears the counters of the block. -/
theorem exec_memcClr_permitted {tile : Nat} (hplace : placeOf s.part (R.MEMC_CLR tile) = .regs (.memc tile) 4)
    (hok : regErr s r true (R.MEMC_CLR tile) 4 (.memc tile) 4 = none) :
    exec (.memcClr r tile value) s = .next ((memcClear tile value s).answer .done) := by
  have hrow : rowAt (.memc tile) 4 = some ⟨"MEMC_CLR", 0x4, 1, 0x4, .wo, false, 0x0, 0x0, 0x0⟩ := rfl
  have hexec : exec (.memcClr r tile value) s = .next (writeAnswer r (R.MEMC_CLR tile) (leBytes 4 value.toNat) s) := rfl
  rw [hexec, writeAnswer_regs hplace value hok,
    write32_narrow (fun _ _ => by simp) hrow r _ value s (by decide) (by decide) rfl]
  rfl

/-- A register of a row without write-1-to-clear bits takes its writable bits. -/
theorem plainWrite_rw {row : RegRow} (hw1c : row.w1c = 0) (a : Nat) (w : Word) (s : State) :
    plainWrite row a w s =
      s.modReg a fun old => (w &&& BitVec.ofNat 32 row.rw) ||| (old &&& ~~~BitVec.ofNat 32 row.rw) := by
  have hall (x : Word) : x &&& 4294967295#32 = x := BitVec.and_allOnes
  simp [plainWrite, hw1c, hall]

/-- A permitted write of LEHR_BUDGET sets the budget, and the BACKGROUND bucket of every lit tile. -/
theorem exec_lehrBudget_permitted (hplace : placeOf s.part R.LEHR_BUDGET = .regs .lehr 8)
    (hok : regErr s r true R.LEHR_BUDGET 4 .lehr 8 = none) :
    let v := s.modReg R.LEHR_BUDGET fun old => (value &&& 0x7F#32) ||| (old &&& ~~~0x7F#32)
    exec (.lehrBudget r value) s = .next (((litTiles v).foldl setBucket v).answer .done) := by
  have hrow : rowAt .lehr 8 = some ⟨"LEHR_BUDGET", 0x8, 1, 0x4, .rw, false, 0x7F, 0x0, 0x14⟩ := rfl
  have hexec : exec (.lehrBudget r value) s = .next (writeAnswer r R.LEHR_BUDGET (leBytes 4 value.toNat) s) := rfl
  dsimp only
  rw [hexec, writeAnswer_regs hplace value hok,
    write32_narrow (fun _ _ => by simp) hrow r _ value s (by decide) (by decide) rfl]
  simp only [write32Narrow, budgetWrite, if_true, plainWrite_rw]

end Write

/-! ### The journal (R561, R563) -/

/-- With nothing lost and nothing waiting, a record that may be staged is appended with the next sequence number. -/
theorem journal_staged {s : State} (rtype severity source : Nat) {body : List Byte}
    (hroom : canStage s (min 256 (64 + ceilDiv body.length 16 * 16)) = true) (hbuffer : s.stor.buffer = [])
    (hlost : s.stor.lostCount = 0) : s.journal rtype severity source body =
      stageRec (makeRec s rtype severity source body).2 (makeRec s rtype severity source body).1 := by
  have hdirect : (canStage s (min 256 (64 + ceilDiv body.length 16 * 16)) && s.stor.buffer.isEmpty) = true := by
    simp [hroom, hbuffer]
  have hstage : stageLost s = s := if_pos hlost
  unfold State.journal
  simp only [hdirect, hstage, if_true]

/-- With records staged, a page is programmed when a second has passed or a page is full (R563). -/
theorem exec_journalCopy_due {s : State} (pOk eOk : Bool) (hruns : lehrRuns s = true)
    (hruns' : lehrRuns (drainBuffer s.stor.buffer.length s) = true)
    (hnvm : (drainBuffer s.stor.buffer.length s).nvmPaused = false)
    (hstaged : (drainBuffer s.stor.buffer.length s).stor.staging ≠ [])
    (hdue : 16384 ≤ ((drainBuffer s.stor.buffer.length s).stor.staging.map jLen).foldl (· + ·) 0 ∨
      mgetD 0 (drainBuffer s.stor.buffer.length s).stor.dutyAt 9 + 1000000000 ≤ (drainBuffer s.stor.buffer.length s).now) :
    exec (.journalCopy pOk eOk) s = .next (dutyDone 9 (copyPage pOk eOk (drainBuffer s.stor.buffer.length s))) := by
  show execJournalCopy pOk eOk s = _
  simp only [execJournalCopy, hruns, if_true]
  refine if_neg ?_
  simpa [hruns', hnvm, hstaged] using fun hpart => hdue.resolve_left (Nat.not_le.mpr hpart)

/-- An accepted ERR_INJECT with good arguments writes the injection register and answers it (R392). -/
theorem exec_errInject_answered {m : TcsMsg} {target tile arm double : Nat} {pos : Nat} {s u : State}
    (hacc : Accepted { opcode := 0x0805 } m 0 s u) (hsem : holdsSem u m 25 = true) (hpar : u.parison = false)
    (hargs : injectArgs u target tile arm double pos = true) (hawake : answers u .gaffer tile = true) :
    let a := if target = 1 then R.MEMC_INJ tile else R.ECC_INJ tile
    let w := u.setReg a (BitVec.ofNat 32 (arm * 2 ^ 31 + double * 2 ^ 30 + pos * 2 ^ 23))
    Answered (exec (.errInject m target tile arm double pos) s) { opcode := 0x0805 } m .ok
      (leBytes 4 (w.reg a).toNat ++ leBytes 4 0) 0 w := by
  refine congrArg ok ((serve_accepted hacc).trans ?_)
  simp only [guarded_of_held hsem hpar, hargs, hawake, Bool.not_true, Bool.false_eq_true, if_false]

/-- Settles O27: each event meets its guards, and does its work. -/
theorem integrityAndDuties : Obligations.IntegrityAndDuties := by
  unfold Obligations.IntegrityAndDuties
  intro cw tile target arm pos rtype sev source duty iot double pOk eOk body mem stuck r value m s u
  refine ⟨fun hwaits => exec_correctedWriteback_waiting hwaits, fun x l hwaits hup => ?report,
    fun hruns hpresent hawake hturn hdue => ?pass, fun hpresent hlate => ?late, fun hruns hpresent hrun => ?harvest,
    fun hacc hsem hpar hargs hawake => exec_errInject_answered hacc hsem hpar hargs hawake,
    fun hplace hok => exec_eccClr_permitted hplace hok, fun hplace hok => exec_memcClr_permitted hplace hok,
    fun hplace hok => exec_lehrBudget_permitted hplace hok, fun v hlisted => ⟨?record, fun hroom hbuffer hlost => ?staged⟩,
    fun hruns hruns' hnvm hstaged hdue => exec_journalCopy_due pOk eOk hruns hruns' hnvm hstaged hdue,
    fun hruns hlate => ?lag, fun hruns hpresent hrun hdue => ?collect⟩
  case report =>
    exact ⟨fun hfew => (exec_ueReport_waiting hwaits hup).trans (if_neg (Nat.not_le.mpr hfew)),
      fun hmany => (exec_ueReport_waiting hwaits hup).trans (if_pos hmany)⟩
  case pass => 
    refine if_neg ?_
    simpa [hruns, hpresent, hawake, hturn] using fun hyoung => hdue.resolve_left (Nat.not_le.mpr hyoung)
  case late => exact if_pos (by simp [hpresent, hlate])
  case harvest => exact if_neg (by simp [hruns, hpresent, hrun])
  case record =>
    show execJournalRecord rtype sev source body s = _
    simp only [execJournalRecord, hlisted, ok]
  case staged =>
    rw [journal_staged rtype v source hroom hbuffer hlost]
    exact ⟨rfl, _, rfl, rfl, rfl, rfl, rfl, rfl⟩
  case lag => exact if_pos (by simp [hruns, hlate])
  case collect => exact if_neg (by simp [hruns, hpresent, hrun, hdue])

end Sys2Proof.Machine
end

section
/-! SUPPORT. DSP images, attestation, keys and the debug port (R542 to R551), and with them O54. -/

namespace Sys2Proof.Machine

/-- A request that holds its semaphore is acted on, also in PARISON service, where the command is one of its own. -/
theorem guarded_parisonOk {m : TcsMsg} {n : Nat} {act : State → Reply} {u : State} (hsem : holdsSem u m n = true) :
    guarded m n true act u = act u := by
  simp [guarded, hsem]

/-! ### DSP images (R548 to R550) -/

/-- A valid, authentic image of cores that run nothing is placed, measured and answered with its handle. -/
theorem exec_imageLoad_answered {m : TcsMsg} {slot id : Nat} {img : DspImage} {s u : State}
    (hacc : Accepted { opcode := 0x0B01 } m 0 s u) (hsem : holdsSem u m 29 = true) (hpar : u.parison = false)
    (hslot : slot < 64) (hvalid : (u.slot slot).st = 2)
    (hidle : (img.cores.any fun c => coreBusy u (c / 4) (c % 4)) = false) (hauth : imageAuth u img = true)
    (hshape : imageShape u slot img = true) (hawake : imageAwake u img = true) (hhandle : imageHandle u img = some id) :
    Answered (exec (.imageLoad m slot img false) s) { opcode := 0x0B01 } m .ok
      (leBytes 2 id ++ leBytes 2 (claimed img).length ++ fitBytes 32 img.hash) 0
      (extendMeas 5 (fitBytes 32 img.hash) (placeImage u id slot img)) := by
  have hin : ¬ ¬ (slot < 64 ∨ slot = 0xFF02) := not_not_intro (.inl hslot)
  have hload : loadReply slot img u =
      { st := .ok, payload := leBytes 2 id ++ leBytes 2 (claimed img).length ++ fitBytes 32 img.hash,
        state := extendMeas 5 (fitBytes 32 img.hash) (placeImage u id slot img) } := by
    simp only [loadReply, hidle, hauth, hshape, hawake, hhandle, Bool.not_true, Bool.false_eq_true, if_false]
  refine congrArg ok ((serve_accepted hacc).trans ?_)
  simp only [guarded_of_held hsem hpar, if_neg hin, hvalid, Bool.false_and, Bool.false_eq_true, if_false, hload]

section Image
variable {m : TcsMsg} {imgid : Nat} {x : Loaded} {s u : State} (hsem : holdsSem u m 29 = true)
  (himage : mget imgid u.boot.images = some x) (hpar : u.parison = false)
include hsem himage hpar

/-- Outside PARISON service a command on a loaded image acts on it. -/
theorem withImage_loaded (act : Loaded → State → Reply) : withImage m imgid act u = act x u := by
  simp only [withImage, hsem, himage, hpar, Bool.not_true, Bool.false_and, Bool.false_eq_true, if_false]

/-- TASK_START pushes the image's start task. -/
theorem exec_taskStart_answered {qid : Nat} {v : State} (hacc : Accepted { opcode := 0x0B02 } m 0 s u)
    (hqueue : startQueueOk u qid x = true) (hpush : pushQ .gaffer qid x.startTask u = (.accepted, v)) :
    Answered (exec (.taskStart m imgid qid) s) { opcode := 0x0B02 } m .ok [] 0 v := by
  refine congrArg ok ((serve_accepted hacc).trans ?_)
  simp only [withImage_loaded hsem himage hpar, hqueue, hpush, Bool.not_true, Bool.false_eq_true, if_false]

/-- TASK_STOP terminates the cores that run the image. -/
theorem exec_taskStop_answered (hacc : Accepted { opcode := 0x0B03 } m 0 s u) :
    Answered (exec (.taskStop m imgid) s) { opcode := 0x0B03 } m .ok
      (leBytes 2 (runningCores u x).length ++ leBytes 2 0) 0 ((runningCores u x).foldl stopCore u) := by
  refine congrArg ok ((serve_accepted hacc).trans ?_)
  simp only [withImage_loaded hsem himage hpar]

end Image

/-! ### Keys (R545, R546) -/

/-- A key command of the right kind, on a slot that exists, acts. -/
theorem keyOp_answered {opcode kind slot : Nat} {m : TcsMsg} {act : State → Reply} {s u t : State}
    (hsem : holdsSem u m 27 = true) (hslot : slot ≤ 7)
    (hkind : (if opcode = 0x0703 then kind == 0 else kind == 1 || kind == 2) = true)
    (hacc : Accepted { opcode := opcode } m 0 s u) (hact : act u = { st := .ok, state := t }) :
    Answered (ok (keyOp opcode m kind slot act s)) { opcode := opcode } m .ok [] 0 t := by
  have hin : decide (7 < slot) = false := decide_eq_false (Nat.not_lt.mpr hslot)
  refine congrArg ok ((serve_accepted hacc).trans ?_)
  simp only [guarded_parisonOk hsem, hkind, hin, Bool.not_true, Bool.or_self, Bool.false_eq_true, if_false, hact]

/-- An EMPTY slot is enrolled. -/
theorem enrolReply_empty {kind slot : Nat} {s : State} (pk : List Byte) (hempty : keyState s kind slot = .empty) :
    enrolReply kind slot pk s =
      { st := .ok, state := setKey s kind slot 1 { st := .enrolled, pubkey := fitBytes 1312 pk } (keyBody kind slot 1 pk) } :=
  if_neg (not_not_intro hempty)

/-! ### Debug access (R551) -/

/-- DEBUG_LOCK in range, of a device that is not sealed or to level 2, changes the level. -/
theorem exec_debugLock_answered {m : TcsMsg} {level : Nat} {s u : State} (hacc : Accepted { opcode := 0x0704 } m 0 s u)
    (hsem : holdsSem u m 27 = true) (hlevel : level ≤ 2) (hsealed : u.boot.sealed = true → level = 2) :
    Answered (exec (.debugLock m level) s) { opcode := 0x0704 } m .ok [] 0 (changeLevel level u) := by
  have hgo : ¬ (u.boot.sealed && level != 2) = true := by simpa using hsealed
  refine congrArg ok ((serve_accepted hacc).trans ?_)
  simp only [guarded_parisonOk hsem, if_neg (Nat.not_lt.mpr hlevel), if_neg hgo]

/-- At level 0 the debug port halts a core that runs, or breaks into it. -/
theorem exec_debugBreak_open {tile core : Nat} {s : State} (hopen : s.boot.debugNow = 0)
    (hpresent : corePresent s tile core = true) (hrun : tileRun s tile = true) (hbusy : coreBusy s tile core = true) :
    exec (.debugBreak tile core true) s = .next (s.setCore tile core { s.core tile core with st := .debugHalt }) ∧
    let y := s.core tile core
    let left := (y.rep.map fun r => r.left).getD 0
    exec (.debugBreak tile core false) s = .next (takeExc s tile core { cause := .break_ } true
      (if y.ext.isSome then y.extAt else y.pc) (b2n (left != 0) * 2 ^ 30) left) := by
  have hgo : ¬ (decide (s.boot.debugNow ≠ 0) || !corePresent s tile core || !tileRun s tile || !coreBusy s tile core) =
      true := by simp [hopen, hpresent, hrun, hbusy]
  refine ⟨(if_neg hgo).trans (if_pos rfl), (if_neg hgo).trans ((if_neg Bool.false_ne_true).trans ?_)⟩
  cases (s.core tile core).rep with
  | none => rfl
  | some r => rfl

/-- Settles O54: the checks of each request pass one after the other, and it does its work. -/
theorem trustCommands : Obligations.TrustCommands := by
  unfold Obligations.TrustCommands
  intro m slot kind id imgid qid mask level tile core img pk nonce x s u
  refine ⟨fun hacc hsem hpar hslot hvalid hidle hauth hshape hawake hhandle =>
      exec_imageLoad_answered hacc hsem hpar hslot hvalid hidle hauth hshape hawake hhandle,
    fun hsem himage hpar => ⟨fun v hacc hqueue hpush => exec_taskStart_answered hsem himage hpar hacc hqueue hpush,
      fun hacc => exec_taskStop_answered hsem himage hpar hacc⟩,
    fun hacc => congrArg ok (serve_accepted hacc), fun hacc => congrArg ok (serve_accepted hacc),
    fun hsem hslot => ⟨fun hkind hacc => ?key, fun hacc => ⟨fun hempty => ?hostEnrol, fun hkept => ?hostRevoke⟩⟩,
    fun hacc hsem hlevel hsealed => exec_debugLock_answered hacc hsem hlevel hsealed,
    fun hopen hpresent hrun hbusy => exec_debugBreak_open hopen hpresent hrun hbusy⟩
  case key =>
    have hkindOk : (if 0x0702 = 0x0703 then kind == 0 else kind == 1 || kind == 2) = true := by simpa using hkind
    exact ⟨fun hempty => keyOp_answered hsem hslot hkindOk hacc (enrolReply_empty pk hempty),
      keyOp_answered hsem hslot hkindOk hacc rfl⟩
  case hostEnrol => exact keyOp_answered hsem hslot rfl hacc (enrolReply_empty pk hempty)
  case hostRevoke => exact keyOp_answered hsem hslot rfl hacc (if_neg (by simp [hkept]))

end Sys2Proof.Machine
end

section
/-! SUPPORT. Reset, bring-up and the storage duties (R386, R532 to R571), and with them O53. -/

namespace Sys2Proof.Machine

/-! ### Bring-up (R386, R532, R537) -/

/-- Lighting a tile leaves the bring-up state. -/
@[simp] theorem lightTile_boot (s : State) (t : Nat) : (lightTile s t).boot = s.boot := rfl

/-- Lighting an island leaves the bring-up state. -/
@[simp] theorem lightIsland_boot (s : State) (n : Nat) : (lightIsland s n).boot = s.boot := rfl

section Stack
variable {q : Nat} {s : State} (hphase : s.boot.phase = 1) (hstack : (hbmStacks s).contains q = true)
  (hdown : s.boot.hbmUp.contains q = false)
include hphase hstack hdown

/-- A stack that trains in its turn is lit, and is brought up or noted as failed once. -/
theorem exec_hbmTraining_turn (htries : mgetD 0 s.boot.hbmTries q ≤ 1) :
    let v := lightIsland (lightTile (lightTile s (memTiles q).1) (memTiles q).2) (146 + q)
    exec (.hbmTraining q true) s = .next (progress (stackUp v q)) ∧
    (mgetD 0 s.boot.hbmTries q = 0 → exec (.hbmTraining q false) s = .next (v.modBoot fun b =>
      { b with hbmTries := mset q (mgetD 0 v.boot.hbmTries q + 1) b.hbmTries,
               hbmFailed := b.hbmFailed || decide (1 < mgetD 0 v.boot.hbmTries q + 1) })) := by
  have hgo : ¬ (decide (s.boot.phase ≠ 1) || !(hbmStacks s).contains q || s.boot.hbmUp.contains q ||
      decide (1 < mgetD 0 s.boot.hbmTries q)) = true := by
    rw [hstack, hdown]
    simpa [hphase] using htries
  refine ⟨(if_neg hgo).trans (if_pos rfl),
    fun hfirst => (if_neg hgo).trans ((if_neg Bool.false_ne_true).trans (if_pos ?_))⟩
  show mgetD 0 s.boot.hbmTries q + 1 < 2
  omega

end Stack

/-! ### Image slots (R560) -/

/-- Outside recovery IMAGE_STAGE by the holder of semaphore 26 gives its reply. -/
theorem exec_imageStage_answered {m : TcsMsg} {slot flags off total : Nat} {data : List Byte} {g : GafferImage}
    {pOk eOk : Bool} {s u : State} (hacc : Accepted { opcode := 0x0602 } m 0 s u) (hrec : s.boot.recovery = false)
    (hrec' : u.boot.recovery = false) (hsem : holdsSem u m 26 = true) :
    let r := stageReply slot flags off total data g pOk eOk u
    Answered (exec (.imageStage m slot flags off total data g pOk eOk) s) { opcode := 0x0602 } m r.st r.payload r.crit
      r.state := by
  have hstay : ∀ t, recoveryRestart s t = t := fun t => if_neg (by simp [hrec])
  refine congrArg ok ((hstay _).trans ((serve_accepted hacc).trans ?_))
  simp only [hrec', Bool.false_eq_true, if_false, guarded_parisonOk hsem]

/-! ### Reading the journal and the telemetry (R564, R571) -/

/-- A command that PARISON service has acts. -/
@[simp] theorem unguarded_parisonOk (act : State → Reply) (s : State) : unguarded true act s = act s := by
  simp [unguarded]

/-! ### The duties of the Lehr (R554 to R558, R568, R570) -/

/-- The guard that static levelling is due. -/
theorem levelling_due {s : State} (hruns : lehrRuns s = true) (hnvm : s.nvmPaused = false)
    (hdue : mgetD 0 s.stor.dutyAt 11 + 3600000000000 ≤ s.now) :
    ¬ (!lehrRuns s || s.nvmPaused || decide (s.now < mgetD 0 s.stor.dutyAt 11 + 3600000000000)) = true := by
  simpa [hruns, hnvm] using hdue

/-- The data of the least erased block moves to the most erased free one, once they differ by more than 500 erases. -/
theorem exec_staticLevelling_moves {eOk : Bool} {s : State} {block k z : Nat} {x y : NandBlock}
    (hruns : lehrRuns s = true) (hnvm : s.nvmPaused = false) (hdue : mgetD 0 s.stor.dutyAt 11 + 3600000000000 ≤ s.now)
    (hleast : leastBy (fun x => (x.2.erases, x.1, 0)) (s.stor.blocks.filter fun x => x.2.use != .retired) = some (block, x))
    (hmost : leastBy (fun x => (2 ^ 40 - x.2.erases, x.1, 0)) ((blocksOf (dutyDone 11 s) .free).filter
      fun x => !targetRo (dutyDone 11 s) x.2.target) = some (k, y))
    (hhigh : ((s.stor.blocks.filter fun x => x.2.use != .retired).map fun x => x.2.erases).foldl max 0 = z)
    (hspread : x.erases + 500 < z) (hdata : holdsData x = true) :
    exec (.staticLevelling eOk) s = .next (relocate (dutyDone 11 s) block k eOk) := by
  have hblocks : (dutyDone 11 s).stor.blocks = s.stor.blocks := rfl
  refine (if_neg (levelling_due hruns hnvm hdue)).trans ?_
  rw [hblocks, hleast, hmost, hhigh]
  exact if_pos (by simp [hspread, hdata])

/-- Settles O53: each event meets its guards, and does its work. -/
theorem bootAndStorage : Obligations.BootAndStorage := by
  unfold Obligations.BootAndStorage
  intro m b us q slot flags off total block stage corr n stride ch start step data g pOk eOk auth recs counts items s u
  refine ⟨fun hlong => ?pulse, fun hshort => if_pos (.inl hshort), fun hcool hstage hrec => ?rom,
    fun hphase hstack hdown htries => exec_hbmTraining_turn hphase hstack hdown htries, fun hstage hlate => ?time,
    fun hacc hrec hrec' hsem => exec_imageStage_answered hacc hrec hrec' hsem, fun hacc hlo hhi => ?journal,
    fun hacc hlo hhi hslo hshi => ?telemetry, fun hruns hnvm hdue hnone => ?level,
    fun x y k z hruns hnvm hdue hleast hmost hhigh hspread hdata =>
      exec_staticLevelling_moves hruns hnvm hdue hleast hmost hhigh hspread hdata,
    fun x hblock hruns hdata hdue => ?patrol, fun hruns hdue => ?frame, fun hruns hch hdue => ?trim,
    fun hruns hnvm hdue => ?fuses⟩
  case pulse => exact if_neg (by omega)
  case rom =>
    refine (if_neg (by simp [hcool])).trans (congrArg _ (congrArg _ (if_pos ?_)))
    simp [hstage, hrec]
  case time => exact if_pos (by simp [hstage, hlate])
  case journal =>
    refine congrArg ok ((serve_accepted hacc).trans ?_)
    rw [unguarded_parisonOk, if_pos ⟨hlo, hhi⟩]
  case telemetry =>
    refine congrArg ok ((serve_accepted hacc).trans ?_)
    rw [unguarded_parisonOk, if_pos ⟨hlo, hhi, hslo, hshi⟩]
  case level =>
    have hblocks : (dutyDone 11 s).stor.blocks = [] := hnone
    refine (if_neg (levelling_due hruns hnvm hdue)).trans ?_
    rw [hblocks]
    rfl
  case patrol =>
    show execNandPatrol block stage corr auth eOk recs s = _
    simp only [execNandPatrol, hblock]
    exact if_neg (by simpa [hruns, hdata] using hdue)
  case frame => exact if_neg (by simpa [hruns] using hdue)
  case trim => exact if_neg (by simpa [hruns, hch] using hdue)
  case fuses => exact if_neg (by simpa [hruns, hnvm] using hdue)

end Sys2Proof.Machine
end

section
/-! SUPPORT. POWER_STATE_SET and what it sets going (R500 to R514), and with them O51. -/

namespace Sys2Proof.Machine

/-! ### POWER_STATE_SET (R505, R509, R512) -/

/-- A command with a mailbox that is answered when it starts. -/
theorem begin_accepted_answers {op : OpInfo} {m : TcsMsg} {crit : Nat} {act : State → Reply ⊕ State} {s u : State}
    {r : Reply} (hacc : Accepted op m crit s u) (hact : act (holdMbx u m op.opcode []) = .inl r) :
    begin_ op m crit act s = finishMbx r.state (mbxKey m) r.st r.payload r.crit := by
  simp only [begin_, show accept op m crit s = .go u from hacc, hact]

section Request
variable {m : TcsMsg} {s u : State} (hacc : Accepted opPower m 0 s u)
include hacc

section Kind1
variable {argOk still : Bool} {re : Nat} {act : State → Reply ⊕ State}
  (hcheck : powerCheck m argOk still (holdMbx u m 0x0501 []) = none)
include hcheck

/-- A KIND 1 request that passes its checks and is complete at once is answered. -/
theorem powerSet_answers {r : Reply} (hact : act (rekeep (holdMbx u m 0x0501 []) re) = .inl r) :
    powerSet m argOk still re act s = .next (finishMbx r.state (mbxKey m) r.st r.payload r.crit) := by
  refine congrArg ok (begin_accepted_answers hacc ?_)
  simp only [show opPower.opcode = 0x0501 from rfl, hcheck, hact]

/-- A KIND 1 request that passes its checks and starts a transition. -/
theorem powerSet_goesOn {t : State} (hact : act (rekeep (holdMbx u m 0x0501 []) re) = .inr t) :
    powerSet m argOk still re act s = .next t := by
  refine congrArg ok (begin_accepted_goesOn hacc ?_)
  simp only [show opPower.opcode = 0x0501 from rfl, hcheck, hact]

end Kind1

/-- LULL and ACTIVE by the state in force: the same changes nothing but REKEEP_US, LULL is complete at once, ACTIVE starts
its transition. -/
theorem exec_powerStateSet_quick {us re : Nat}
    (hcheck : powerCheck m (powerArgs 0 us re) false (holdMbx u m 0x0501 []) = none) :
    let v := rekeep (holdMbx u m 0x0501 []) re
    (v.devState ≠ 2 → exec (.powerStateSetLull m us re) s = .next (
      let w := v.setField R.PWR_STAT 31 29 2
      finishMbx (powerReq w (0, 0, 0) 1) (mbxKey m) .ok (powerPayload w (0, 0, 0)) 0)) ∧
    (v.devState = 2 → exec (.powerStateSetLull m us re) s = .next (
      finishMbx v (mbxKey m) .ok (powerPayload v (0, 0, 0)) 0)) ∧
    (v.devState = 1 → exec (.powerStateSetActive m us re) s = .next (
      finishMbx v (mbxKey m) .ok (powerPayload v (0, 0, 0)) 0)) ∧
    (v.devState ≠ 1 → exec (.powerStateSetActive m us re) s = .next (
      let tiles := (dspTiles v.part ++ accTiles v.part).filter fun t => tileSleeps v t || (v.island t).st == .draining
      let x : Trans := { newTrans m 1 0 us with starts := sortBy (fun t => (t, 0, 0)) tiles }
      endActive ((powerBusy (v.setField R.PWR_STAT 31 29 1) true).modPower fun p => { p with trans := some x }))) := by
  intro v
  refine ⟨fun hother => ?_, fun hsame => ?_, fun hsame => ?_, fun hother => ?_⟩
  · show execPowerStateSetLull m us re s = _
    exact powerSet_answers hacc hcheck (r := powerOk (v.setField R.PWR_STAT 31 29 2)) (congrArg Sum.inl (if_neg hother))
  · show execPowerStateSetLull m us re s = _
    exact powerSet_answers hacc hcheck (r := powerSame v) (congrArg Sum.inl (if_pos hsame))
  · show execPowerStateSetActive m us re s = _
    exact powerSet_answers hacc hcheck (r := powerSame v) (if_pos hsame)
  · show execPowerStateSetActive m us re s = _
    exact powerSet_goesOn hacc hcheck (if_neg hother)

/-- KIND 2 stores the converter's entry and the bus rate for the next boot. -/
theorem exec_powerStateSetPmbus_stored {entry addr page role flags mv khz : Nat} (hsem : holdsSem u m 25 = true)
    (hpar : u.parison = false) (hargs : pmbArgs entry addr role flags khz = true) (hnvm : u.nvmPaused = false) :
    let h := holdMbx u m 0x0501 []
    exec (.powerStateSetPmbus m entry addr page role flags mv khz) s = .next (
      let c := (addr * 2 ^ 24 + page % 256 * 2 ^ 16 + role * 2 ^ 8 + flags % 256, mv % 65536)
      finishMbx (configWritten (h.modPower fun p =>
        { p with pmbStored := mset entry c p.pmbStored, khzStored := khz })) (mbxKey m) .ok (powerPayload h (0, 0, 0)) 0) := by
  intro h
  show execPowerStateSetPmbus m entry addr page role flags mv khz s = _
  refine congrArg ok (begin_accepted_answers hacc (r := { powerSame h with state := configWritten (h.modPower fun p =>
    { p with
      pmbStored := mset entry (addr * 2 ^ 24 + page % 256 * 2 ^ 16 + role * 2 ^ 8 + flags % 256, mv % 65536) p.pmbStored,
      khzStored := khz }) }) (congrArg Sum.inl ((guarded_of_held (u := h) hsem hpar).trans ?_)))
  exact (if_neg (by simp [hargs])).trans (if_neg (Bool.eq_false_iff.mp hnvm))

end Request

/-! ### Transitions go on (R501, R505 to R508, R537) -/

/-- A participant still busy after SETTLE_US refuses, and the transition rolls back. -/
theorem exec_settleTimeout_refuses {s : State} {x : Trans} {t0 t : Nat} {l : List Nat} {p : Nat × Nat}
    {ps : List (Nat × Nat)} (htrans : s.power.trans = some x) (hstill : x.target = 3) (hback : x.back = none)
    (hasked : x.askedAt = some t0) (htodo : x.todo = t :: l) (hbusy : busyParts s t = p :: ps)
    (hunit : p.1 = x.askedUnit) (hover : t0 + x.settle ≤ s.now) :
    exec .settleTimeout s = .next (beginRollback
      ((s.setReg (R.ISL_REFUSE t) (BitVec.ofNat 32 (p.1 * 256 + p.2))).orReg R.PWR_EVT 3) x .refused (t, p.1, p.2)) := by
  show execSettleTimeout s = _
  have hup : (x.target == 3 && x.back.isNone) = true := by simp [hstill, hback]
  simp only [execSettleTimeout, htrans, hup, hasked, htodo, hbusy]
  exact (if_neg (not_not_intro hunit)).trans (if_neg (Nat.not_lt.mpr hover))

/-- The next tile of bring-up starts, 2 µs after the one before. -/
theorem exec_tileStart_boot {s : State} {t : Nat} {l : List Nat} (hnext : s.power.nextStart ≤ s.now)
    (hnvm : s.nvmPaused = false) (htrans : s.power.trans = none) (htiles : s.boot.tilesToStart = t :: l) :
    exec .tileStart s = .next (moveOn (((bootTile s t).modBoot fun b => { b with tilesToStart := l }).modPower
      fun p => { p with nextStart := s.now + 2000 })) := by
  refine (if_neg (by simpa [hnvm] using hnext)).trans ?_
  simp only [htrans, htiles, Option.bind_none, ok]

/-! ### Waking (R513, R514) -/

section Timeout
variable {s : State} {isl : Nat} (hstep : (s.island isl).step ≠ 0) (hawait : awaits s isl (s.island isl).step = true)
  (hover : (s.island isl).stepAt + 2 * wakeLimit (s.power.waking.contains isl) ((s.island isl).st == .halt)
    (s.island isl).step ≤ s.now)
include hstep hawait hover

/-- The guard that a wake step has missed twice its limit. -/
theorem wakeStep_over : ¬ (decide ((s.island isl).step = 0) || !awaits s isl (s.island isl).step || decide (s.now <
    (s.island isl).stepAt + 2 * wakeLimit (s.power.waking.contains isl) ((s.island isl).st == .halt)
      (s.island isl).step)) = true := by
  rw [hawait]
  simpa [hstep] using hover

/-- A step that misses twice its limit a first time is repeated. -/
theorem exec_wakeStepTimeout_repeats (hfirst : (s.island isl).tries = 0) :
    exec (.wakeStepTimeout isl) s = .next (repeatWake s isl) :=
  (if_neg (wakeStep_over hstep hawait hover)).trans (if_pos hfirst)

/-- The second time the island fails, or the device is reset for an island that it cannot do without. -/
theorem exec_wakeStepTimeout_fails (hagain : (s.island isl).tries ≠ 0) :
    (isl < 144 → isl ≠ ctlG → isl ≠ ctlH → s.power.waking.contains isl = false →
      exec (.wakeStepTimeout isl) s = .next (islandFailed s isl)) ∧
    (144 ≤ isl ∨ isl = ctlG ∨ isl = ctlH →
      exec (.wakeStepTimeout isl) s = .next (devReset s (BitVec.ofNat 32 (2 * 2 ^ 28 + 2 ^ 16)))) := by
  have hgo : exec (.wakeStepTimeout isl) s = _ := (if_neg (wakeStep_over hstep hawait hover)).trans (if_neg hagain)
  refine ⟨fun htile hg hh halone => hgo.trans ((if_pos (by simp [htile, hg, hh])).trans (congrArg ok ?_)),
    fun hkey => hgo.trans (if_neg ?_)⟩
  · rw [halone]
    exact if_neg Bool.false_ne_true
  · rcases hkey with hpad | rfl | rfl
    · simp [Nat.not_lt.mpr hpad]
    · simp
    · simp

end Timeout

/-- Settles O51: each request by its checks, each event by its guard. -/
theorem powerStates : Obligations.PowerStates := by
  unfold Obligations.PowerStates
  intro m resume us re entry addr page role flags mv khz tile isl canary hbmCanary s u
  refine ⟨fun hacc => ⟨fun hcheck => exec_powerStateSet_quick hacc hcheck,
      fun hcheck => ?still,
      fun hsem hpar hargs hnvm => exec_powerStateSetPmbus_stored hacc hsem hpar hargs hnvm⟩,
    fun hdrain howes => ?enter,
    fun x t0 t l p ps htrans hstill hback hasked htodo hbusy hunit hover =>
      exec_settleTimeout_refuses htrans hstill hback hasked htodo hbusy hunit hover,
    fun hlull htrans hnvm hwork hrun hfree hscrub hidle => ?idle,
    fun hlull hnvm hwork hsleeps hstep hgood hage => ?scrub,
    fun t l hnext hnvm htrans htiles => exec_tileStart_boot hnext hnvm htrans htiles,
    fun t hcommit hstill hover => ?phaseB,
    fun hawait hpad => ?pad, fun hawait htile => ?ivr, fun hawait => if_pos hawait, fun hawait => ?mem,
    fun hawait halone => ?logic,
    fun hstep hawait hfirst hover => exec_wakeStepTimeout_repeats hstep hawait hover hfirst,
    fun hstep hawait hagain hover => exec_wakeStepTimeout_fails hstep hawait hover hagain⟩
  case still =>
    show execPowerStateSetStill m resume us re s = _
    exact powerSet_goesOn hacc hcheck rfl
  case enter => exact (if_pos (by simp [hdrain])).trans (if_neg (by simp [howes]))
  case idle =>
    have hdue : (if (s.island tile).forScrub then decide ((s.island tile).stepAt ≤ mgetD 0 s.mem.scrubAt tile)
        else decide ((s.island tile).idleSince + s.field R.PWR_CTRL 15 0 * 1000 ≤ s.now)) = true := by
      simpa [hscrub] using hidle
    refine if_pos ?_
    rw [hdue]
    simp [hlull, htrans, hnvm, hwork, hrun, hfree]
  case scrub => exact if_pos (by simp [hlull, hnvm, hwork, hsleeps, hstep, hgood, hage])
  case phaseB =>
    show execStillPhaseB s = _
    simp only [execStillPhaseB, hcommit]
    exact if_neg (by simpa [hstill] using hover)
  case pad => exact (if_pos hawait).trans (congrArg (fun v => ok (signal v isl 1)) (if_neg (Nat.not_lt.mpr hpad)))
  case ivr => exact (if_pos hawait).trans (congrArg (fun v => ok (signal v isl 1)) (if_pos htile))
  case mem => exact if_neg (by simp [hawait])
  case logic => exact (if_neg (by simp [hawait])).trans (if_neg (Bool.eq_false_iff.mp halone))

end Sys2Proof.Machine
end

section
/-! SUPPORT. Wake sources, supply, temperature and converters (R497 to R499, R515 to R530), and with them O52. -/

namespace Sys2Proof.Machine

/-! ### The alarm (R518) -/

section Alarm
variable {m : TcsMsg} {sec ns : Nat} {s u : State}

/-- ALARM_SET by the holder of semaphore 25 arms the alarm at least 1 s ahead, or disarms it, and answers the old one. -/
theorem exec_alarmSet_answered (hacc : Accepted { opcode := 0x0504 } m 0 s u) (hsem : holdsSem u m 25 = true) :
    (ns < 1000000000 → u.clk.total + 1000000000 * 2 ^ 48 ≤ (sec * 1000000000 + ns) * 2 ^ 48 →
      Answered (exec (.alarmSet m sec ns 1) s) { opcode := 0x0504 } m .ok (alarmPayload u) 0
        ((u.setReg64 R.WAKE_ALARM_SEC (BitVec.ofNat 64 sec)).setReg R.WAKE_ALARM_NS (BitVec.ofNat 32 (2 ^ 31 + ns)))) ∧
    Answered (exec (.alarmSet m sec ns 0) s) { opcode := 0x0504 } m .ok (alarmPayload u) 0
      (u.setField R.WAKE_ALARM_NS 31 31 0) := by
  refine ⟨fun hns hahead => congrArg ok ((serve_accepted hacc).trans ?_), congrArg ok ((serve_accepted hacc).trans ?_)⟩
  · rw [guarded_parisonOk hsem, if_pos (show Nat.testBit 1 0 = true from rfl), if_neg (by simpa [hns] using hahead)]
  · rw [guarded_parisonOk hsem, if_neg (show ¬ Nat.testBit 0 0 = true by simp)]

/-- An alarm whose time has come is disarmed; it wakes the device from STILL, or sets its event bit. -/
theorem exec_alarmFire_due (harmed : s.flag R.WAKE_ALARM_NS 31 = true)
    (hdue : (s.reg64 R.WAKE_ALARM_SEC).toNat * 1000000000 + s.field R.WAKE_ALARM_NS 29 0 ≤ s.devNs) :
    let v := s.setField R.WAKE_ALARM_NS 31 31 0
    (inStill v = true → v.flag R.WAKE_EN 0 = true → exec .alarmFire s = .next (wakeSource v 0 0 (causeWord 3 0 0))) ∧
    (inStill v = false → exec .alarmFire s = .next (v.orReg R.PWR_EVT 7)) := by
  intro v
  have hfire : exec .alarmFire s = if (inStill v && v.flag R.WAKE_EN 0) = true
      then ok (wakeSource v 0 0 (causeWord 3 0 0)) else ok (v.orReg R.PWR_EVT 7) :=
    if_neg (by simpa [harmed] using hdue)
  rw [hfire]
  exact ⟨fun hstill hen => if_pos (by simp [hstill, hen]), fun hrun => if_neg (by simp [hrun])⟩

end Alarm

/-! ### The supply (R521 to R524) -/

/-- The reading of VIN_CORE is not the pause of NVM writes. -/
theorem nvmPaused_setReg_vin (s : State) (w : Word) : (s.setReg R.PWR_VIN w).nvmPaused = s.nvmPaused :=
  congrArg (bit · 27) (s.reg_setReg_ne (by decide) w)

section Supply
variable {mv : Nat} {s : State} (hlow : mv < 1710)
include hlow

/-- Below 1.71 V the supply is shown; the warning is taken, unless one stands. -/
theorem exec_supplyWarning_low :
    let v := s.setReg R.PWR_VIN (BitVec.ofNat 32 (mv % 65536))
    (s.nvmPaused = true → exec (.supplyWarning mv) s = .next v) ∧
    (v.nvmPaused = false → exec (.supplyWarning mv) s = .next (
      let w := (((settleAll v).setField R.PWR_STAT 27 27 1).orReg R.PWR_EVT 0).count R.PWR_SUPPLY_CNT 1
      powerRecord (w.modPower fun p => { p with stretched := true, droopAt := w.now, warnings := satAdd 32 p.warnings 1 })
        7 mv)) := by
  have hgo : ¬ 1710 ≤ mv := Nat.not_le.mpr hlow
  exact ⟨fun hpaused => (if_neg hgo).trans (if_pos ((nvmPaused_setReg_vin ..).trans hpaused)),
    fun hnew => (if_neg hgo).trans (if_neg (Bool.eq_false_iff.mp hnew))⟩

end Supply

/-! ### Temperature (R525) -/

/-- The reading of a tile that is not throttled is shown, and throttles it from TJ_THROT on. -/
theorem exec_throttleStep_unthrottled {tile : Nat} {temp : Int} {s : State} (hpresent : tilePresent s.part tile = true)
    (hlit : (s.island tile).st ≠ .off) (hfull : mget tile (noteTemp s tile temp).power.mult = none) :
    let v := noteTemp s tile temp
    ((tjThrot v * 8 : Nat) ≤ temp → exec (.throttleStep tile temp) s = .next (throttleDown v tile)) ∧
    (temp < (tjThrot v * 8 : Nat) → exec (.throttleStep tile temp) s = .next v) := by
  intro v
  have hstep : exec (.throttleStep tile temp) s =
      ok (if decide ((tjThrot v * 8 : Nat) ≤ temp) then throttleDown v tile else v) := by
    refine (if_neg (by simp [hpresent, hlit])).trans ?_
    simp only [hfull, v]
  rw [hstep]
  exact ⟨fun hhot => congrArg ok (if_pos (by simpa using hhot)), fun hcool => congrArg ok (if_neg (by simpa using hcool))⟩

/-- Settles O52: each event by its guard. -/
theorem powerSupplyAndWake : Obligations.PowerSupplyAndWake := by
  unfold Obligations.PowerSupplyAndWake
  intro m p sec ns tile code cycles isl mv entry start stop redo temp sy ans ws s u
  refine ⟨fun hacc hsem => exec_alarmSet_answered hacc hsem, fun harmed hdue => exec_alarmFire_due harmed hdue,
    fun hstill hen => ⟨fun henergy => ?energy, fun hframe hcode => ?frame⟩, fun haddr hstill hpart hen => ?bus,
    fun hlow hpaused => (exec_supplyWarning_low hlow).1 hpaused, fun hlow hnew => (exec_supplyWarning_low hlow).2 hnew,
    fun hpaused hshown hlong => ?low, fun hpaused => ?recovery, fun htrip => ?reset, fun hpresent hhot => ?trip,
    fun hpresent hlit => ?throttle, fun hpresent hrun => ⟨fun havs hdue => ?avs, ?stretch⟩,
    fun hlow hpresent hkeep => ?latch, fun hon => ⟨fun hthere => ?poll, fun habsent => ?absent⟩, rfl,
    fun hnvm hrun hdue => ?trim, fun hacc => ?status⟩
  case energy => exact if_pos (by simp [hstill, hen, henergy])
  case frame => exact (if_neg (by simp [hstill, hen, hframe])).trans (if_pos (by simpa using hcode))
  case bus =>
    show execWakeBusMessage start sy stop s = _
    simp only [execWakeBusMessage, haddr]
    exact if_pos (by simp [hstill, hpart, hen])
  case low => exact if_pos (by simp [hpaused, hshown, hlong])
  case recovery => exact if_neg (by simp [hpaused])
  case reset =>
    show execSupplyReset true s = _
    simp only [execSupplyReset, Bool.not_true, Bool.and_false, Bool.true_or, if_true, ok]
  case trip => exact if_pos (by simp [hpresent, hhot])
  case throttle => exact fun hfull => exec_throttleStep_unthrottled hpresent hlit hfull
  case avs => exact if_pos (by simp [hpresent, hrun, havs, hdue])
  case stretch => exact if_pos (by simp [hpresent, hrun])
  case latch => exact if_pos (by simp [hlow, hpresent, hkeep])
  case poll => exact if_pos (by simp [hon, hthere])
  case absent => exact if_pos (by simp [hon, habsent])
  case trim =>
    have hgo : ¬ (s.nvmPaused || inStill s || decide (s.now < s.power.trimAt + 10000000)) = true := by
      simpa [hnvm, hrun] using hdue
    exact ⟨fun hnear => (if_neg hgo).trans (if_pos hnear), fun hfar => (if_neg hgo).trans (if_neg (Nat.not_le.mpr hfar))⟩
  case status => exact congrArg ok (serve_accepted hacc)

end Sys2Proof.Machine
end
